-- ==== Sys2Proof/Word.lean ====
section
/-! DEFINITION. The word types of the SDZ-9620 model (00_scope.md R15, R16). -/
namespace Sys2Proof

/-- One byte of a buffer, an entry, a record or a memory. -/
abbrev Byte := BitVec 8

/-- A 16-bit field. -/
abbrev W16 := BitVec 16

/-- A 32-bit field or register. -/
abbrev W32 := BitVec 32

/-- A 64-bit field, register or address. -/
abbrev W64 := BitVec 64

end Sys2Proof
end

