-- ==== Sys2Proof/Syntax.lean ====
section
/-! DEFINITION. The commands of the SDZ-9620, one constructor for each row of spec/opcode_table.json,
with the row's operands. No row of the table gives bits. -/
namespace Sys2Proof

/-- Names a job by its allotment, queue and ring index. -/
structure JobRef where
  allot : BitVec 12
  queue : BitVec 3
  index : BitVec 12
deriving DecidableEq, Repr

/-- The link-level errors of Table 3-8 (R72). -/
inductive AerError where
  | receiver | badTlp | badDllp | replayTimer | replayRollover
  | advisoryNonFatal | poisonedTlp | completionTimeout | completerAbort
  | unsupportedReceived | unsupportedSent | ecrc
  | malformedTlp | flowControl | receiverOverflow | dataLinkProtocol
  | uncorrectableInternal | correctedInternal
deriving DecidableEq, Repr

/-- A host read that can fail: the descriptor read of a queue, or a data read of a job (R65). -/
inductive HostRead where
  | descriptor (allot : BitVec 12) (queue : BitVec 3)
  | data (r : JobRef)
deriving DecidableEq, Repr

/-- How a read failed: Unsupported Request, Completer Abort or poisoned data (R65). -/
inductive ReadFailure where
  | unsupported | aborted | poisoned
deriving DecidableEq, Repr


/-- What Read ID and the parameter page of one die report (R384 to R386), and the blocks that carry a factory
mark (R396). -/
structure DieReport where
  /-- channel NB -/
  channel : Bool
  target : Fin 4
  lun : Bool
  /-- a parameter-page copy verifies -/
  onfi : Bool
  slc : Bool
  pageBytes : BitVec 16
  spareBytes : BitVec 16
  pagesPerBlock : BitVec 16
  blocks : BitVec 24
  /-- bit m: NV-DDR3 timing mode m -/
  modes : BitVec 16
  progUs : BitVec 16
  eraseUs : BitVec 16
  /-- the time to move one whole page at the selected mode -/
  xferNs : BitVec 32
  endurance : BitVec 32
  failed : Bool
  factoryBad : List (BitVec 24)
deriving DecidableEq, Repr

/-- Whose format the media carries: this device's own, the twin's with the slots of its journal, or one that no
key here decrypts (R392, R395). -/
inductive VaultFound where
  | own
  | twin (slots : List (Bool × Vector Byte 128))
  | unknown
deriving DecidableEq, Repr

/-- An entry of a function's MSI-X table as host software writes it: its vector, message address and data, and mask bit
(R59, R69). -/
structure VectorEntry where
  vector : Fin 256
  addr : W64
  data : W32
  mask : Bool
deriving DecidableEq, Repr

/-- How the BCH decoder ends (R389). -/
inductive Decoded where
  | corrected (n : Fin 41)
  | uncorrectable
  | erased
deriving DecidableEq, Repr

/-- Errors of memories and mask generators that show up in a tick (R229, R238, R239, R264, R476). -/
inductive Mishap where
  /-- a single-bit error in a protected memory of a block, by its UNIT number -/
  | corrected (unit : Fin 22) (memory : Byte) (word : W32)
  /-- an uncorrectable error in a plot or register file, or a parity error of the Open store, in a cycle of the tick -/
  | uncorrectable (unit : Fin 12) (memory : Byte) (word : W32) (cycle : Fin 600)
  /-- a mask fault of a parterre in a cycle of the tick: 0 generator, 1 gadget, 2 core -/
  | maskFault (unit : Fin 4) (cause : Fin 3) (cycle : Fin 600)
  /-- an uncorrectable error in the context store of a unit (R283) -/
  | contextError (unit : Fin 12) (memory : Byte) (word : W32)
  /-- an uncorrectable word of SWM that a job reads -/
  | swmRead (r : JobRef) (memory : Byte) (word : W32)
deriving DecidableEq, Repr

/-- What the AVSBus regulator answers at a measurement (R490). -/
structure AvsReport where
  /-- a write of the set point is acknowledged in one of its three tries -/
  writeOk : Bool
  /-- the Status read succeeds -/
  statusOk : Bool
  status : Byte
  /-- rail current in mA, and temperature in 0.1 °C -/
  read : W32
deriving DecidableEq, Repr

/-- The delays that one Sundial site reports: the replica path and the ring oscillator, in 0.5 ps (R492). -/
structure SiteDelay where
  replica : BitVec 16
  oscillator : BitVec 16
deriving DecidableEq, Repr

/-- What a boot step finds as it ends (R457 to R461); none where a read fails. -/
inductive BootReport where
  | directory (bytes : Option (List Byte))
  | firmware (a b : Option (List Byte))
  | container (bytes : Option (List Byte))
  | calibrated (sites : Vector SiteDelay 24) (avs : AvsReport)
  | zeroised
deriving DecidableEq, Repr

/-- What the TAP programs into one-time-programmable memory (R351, R361, R362). -/
inductive OtpItem where
  | lifeCycle (word : Fin 4) (bits : W32)
  | deviceId (value : W64)
  | patchKey (value : Vector Byte 32)
  | codeHash (value : Vector Byte 32)
  | debugHash (value : Vector Byte 32)
  | anchorHash (value : Vector Byte 32)
  | subsystem (value : W32)
  | fuseTamper (bits : BitVec 16)
  | fuseVariant (bits : BitVec 3)
deriving DecidableEq, Repr

/-- What the link layer tells of a received message: its holder, TSEQ, the FSEQ of its first and last frames, and whether
every tag holds (Table 19-1, R430). -/
structure FrameHead where
  holder : BitVec 16
  tseq : W64
  first : W64
  last : W64
  intact : Bool
deriving DecidableEq, Repr
/-- The commands of the SDZ-9620: one constructor for each row of the opcode table. -/
inductive Instr where
  /-- POWER_ON_RESET (R449) PORST_N low or a power-good trip on VDD_CORE, VDD_SRAM or VDDIO_18 starts a full reset; the straps are sampled at PORST_N release. -/
  | powerOnReset (power : Bool)
  /-- BATTERY_INSERTION (R451) Inserting the backup cell releases stage 0 and starts the Lodge on LPO. -/
  | batteryInsertion
  /-- PORST_N_RELEASE (R451) Release of PORST_N samples the straps and releases stage 1 after 64 XCLK cycles. -/
  | porstNRelease (straps : BitVec 5)
  /-- RESET_STAGE_RELEASE (R451) When its XCLK count ends, the sequencer releases the next reset stage's clock domains. -/
  | resetStageRelease (agree : Bool)
  /-- CORE_PLL_LOCK (R451) The core PLL reports lock, and stage 4 follows 256 cycles later. -/
  | corePllLock
  /-- PLL_LOCK_TIMEOUT (R452) No lock 4,096 cycles after stage 2 restarts the core PLL; after the third failure FATAL_N is asserted with PLL_LOCK. -/
  | pllLockTimeout
  /-- WATCHDOG_EXPIRY (R449) The Pyrevo watchdog goes unserviced for 2^22 XCLK cycles and starts a full reset. -/
  | watchdogExpiry
  /-- GLOBAL_RESET (R449) Writing 0x5253_5447 to RST_GLOBAL starts a full reset, with a dump first when ON_GLOBAL is set. -/
  | globalReset (value : W32)
  /-- THERMAL_TRIP (R449) A die temperature of 115 °C or more on either detector starts a full reset that holds at stage 1. -/
  | thermalTrip
  /-- THERMAL_HOLD_END (R452) Both detectors read below 100.0 °C for 25,000 cycles, so the thermal hold ends and release continues. -/
  | thermalHoldEnd
  /-- BOOT_GO (R458) Setting RST_BOOT_CTRL.GO starts the host-download DMA read of the boot image. -/
  | bootGo
  /-- BOOT_STEP_COMPLETE (R461) A boot step finishes its work (directory, firmware, Trellis, calibration, zeroising), and the next step begins. -/
  | bootStepComplete (report : BootReport)
  /-- LINK_RESET (R71) Hot reset, link disable, PE_PERST_N assertion or DL_Down destroys or orphans tenant allotments and resets the host link. -/
  | linkReset (perst : Bool)
  /-- LINK_RESET_END (R450) 64 XCLK cycles after PE_PERST_N deasserts or the hot reset ends, the PCIe domains are released again. -/
  | linkResetEnd
  /-- CONFIG_REQUEST (R58) A configuration request is answered from OTP-derived identity values, with no retry status. -/
  | configRequest (func : Fin 64) (offset : BitVec 12) (enables : BitVec 4) (write : Option W32)
  /-- FLR (R70) FLR on a VF quiesces its allotments and resets the VF configuration space and MSI-X table. -/
  | flr (vf : Fin 64)
  /-- BME_CLEARED (R70) Clearing Bus Master Enable quiesces the function's allotments and holds event and dump writes. -/
  | bmeCleared (func : Fin 64)
  /-- BME_SET (R70) Setting Bus Master Enable resumes fetching and held writes for the function. -/
  | bmeSet (func : Fin 64)
  /-- D3HOT_ENTRY (R70) Entry to D3hot acts as BME cleared, and the configuration is kept on return to D0. -/
  | d3hotEntry (func : Fin 64)
  /-- VF_ENABLE (R67) Setting VF Enable with NumVFs fixes each VF's MSI-X vector count. -/
  | vfEnable (numVfs : Fin 64)
  /-- VF_DISABLE (R70) Clearing VF Enable or changing NumVFs quiesces VF allotments, destroys their queues and unbinds them. -/
  | vfDisable (numVfs : Fin 64)
  /-- MSIX_UNMASK (R69) When a masked vector, Function Mask or disabled MSI-X condition ends, the held message is sent at the next tick boundary. -/
  | msixUnmask (func : Fin 64) (entry : VectorEntry)
  /-- BAR0_ACCESS_SIZE (R60) A BAR 0 access that is not naturally aligned 32 or 64 bits returns 0 or is ignored, and records EV_HIF_ACCESS_SIZE. -/
  | bar0AccessSize (func : Fin 64) (offset : W16) (enables : BitVec 8) (write : Bool)
  /-- REGISTER_WRITE (R503) A BAR 0 write to a register with no row of its own is applied under its access code. -/
  | registerWrite (offset : W16) (wide : Bool) (value : W64)
  /-- AER_ERROR (R72) A link-level error is detected, logged and acted on as Table 3-8 states. -/
  | aerError (error : AerError) (func : Fin 64) (header : BitVec 128)
  /-- HOST_READ_ERROR (R65) A data or descriptor read completes with UR, CA or poison and fails its job or leaves the scan on the entry. -/
  | hostReadError (read : HostRead) (cause : ReadFailure) (address : W64)
  /-- READ_COMPLETION_TIMEOUT (R65) A host read reaches the completion timeout and is treated as a failed read. -/
  | readCompletionTimeout (read : HostRead) (address : W64)
  /-- LATE_COMPLETION (R63) A completion arriving after its isolation-wrapper error answer is discarded, and its tag returns to the allotment. -/
  | lateCompletion (allot : BitVec 12)
  /-- POSTED_CREDIT_STALL (R66) No posted-write credit for 4,096 ticks reports an Uncorrectable Internal Error and holds the writes. -/
  | postedCreditStall
  /-- POSTED_CREDIT_RETURN (R66) When posted credit returns, every held write is placed in order. -/
  | postedCreditReturn
  /-- DOORBELL (R61) A posted write to BAR 2 rings the queues whose doorbell bytes it covers, or is discarded. -/
  | doorbell (func : Fin 64) (covered : List (BitVec 24))
  /-- SCAN_RESTART (R78) A doorbell seen at a tick boundary restarts a queue's scan stopped NOT_OWNED or BUSY. -/
  | scanRestart (allot : BitVec 12) (queue : BitVec 3)
  /-- LIMIT_RESUME (R80) A scan stopped LIMIT resumes at the tick boundary after a completion brings the count below the limit. -/
  | limitResume (allot : BitVec 12) (queue : BitVec 3)
  /-- DESCRIPTOR_READ_ISSUE (R51) In one of the allotment's fetch turns, with a tag free, the next descriptor read is issued. -/
  | descriptorReadIssue (allot : BitVec 12) (queue : BitVec 3)
  /-- ENTRY_ARRIVAL (R94) A 64-byte entry arrives; an OWN = 0 entry stops or rereads the scan, otherwise the job enters the in-flight set and takes its entry-only checks. -/
  | entryArrival (allot : BitVec 12) (queue : BitVec 3) (bytes : Vector Byte 64)
  /-- DATA_READ_ARRIVAL (R142) Fragment-table or input data returned by the host lands in the job's staging area or plot, and its checks run. -/
  | dataReadArrival (r : JobRef) (bytes : List Byte)
  /-- JOB_PLACEMENT (R234) A parterre or Orangery job is placed in a free residence of its allotment, and its data reads are issued. -/
  | jobPlacement (r : JobRef)
  /-- RESIDENCE_WAIT_EXPIRY (R47) A job that has waited 64 ticks for a residence may evict its allotment's least recently used residence. -/
  | residenceWaitExpiry (r : JobRef)
  /-- JOB_DISPATCH (R94) At the first tick boundary after its input is in place and its holds are met, a job is dispatched. -/
  | jobDispatch (r : JobRef)
  /-- JOB_COMPLETION (R84) A job's outcome is written as a completion over its entry, bytes 1 to 63 first and then byte 0. -/
  | jobCompletion (r : JobRef)
  /-- MSIX_MODERATION (R68) At a tick start, a queue's pending count or MOD_TICKS window triggers its MSI-X message. -/
  | msixModeration (allot : BitVec 12) (queue : BitVec 3)
  /-- TICK (R31) Every 600 BSTCLK cycles a tick boundary advances BST_TICKNOW and starts the bays of every unit. -/
  | tick (mishaps : List Mishap)
  /-- EPOCH_BOUNDARY (R32) Every 4,096 ticks, slot tables, leases, residences, fetch turns and the operating point change together. -/
  | epochBoundary
  /-- MASK_SEED_REQUEST (R224) At the end of squeeze tick 656, the mask generator requests a standby seed from the DRBG. -/
  | maskSeedRequest (unit : Fin 4)
  /-- MASK_STATE_SWAP (R224) At the end of squeeze tick 1,311, the standby state becomes active and the count restarts. -/
  | maskStateSwap (unit : Fin 4)
  /-- MASK_SEED_ARRIVAL (R225) A DRBG seed arrives and is absorbed into the standby or unseeded active state. -/
  | maskSeedArrival (unit : Fin 4)
  /-- SHARED_JOB_ENTROPY_TIMEOUT (R225) A resident shared job with no ready slice for 262,144 ticks, for want of a seed, completes ST_ENTROPY_FAILED. -/
  | sharedJobEntropyTimeout (r : JobRef)
  /-- ALLOT_CREATE (R110) Admin command that creates a tenant allotment, with its flags, quota and SWM blocks. -/
  | allotCreate (r : JobRef)
  /-- ALLOT_DESTROY (R113) Admin command that aborts an allotment, journals and zeroises its keys, and frees it. -/
  | allotDestroy (r : JobRef)
  /-- ALLOT_BIND (R114) Admin command that binds an allotment to PF0 or a VF page. -/
  | allotBind (r : JobRef)
  /-- QUEUE_CREATE (R115) Admin command that defines a queue's ring, vector and moderation. -/
  | queueCreate (r : JobRef)
  /-- QUEUE_DESTROY (R116) Admin command that aborts and frees a queue. -/
  | queueDestroy (r : JobRef)
  /-- LEASE_SET (R117) Admin command that replaces an allotment's lease from the epoch given by R39. -/
  | leaseSet (r : JobRef)
  /-- WINDOW_SET (R118) Admin command that sets or removes one of an allotment's address windows. -/
  | windowSet (r : JobRef)
  /-- ABORT (R53) Admin command that ends a queue's or allotment's fetched jobs within the abort bound. -/
  | abortJobs (r : JobRef)
  /-- ABORT_RESERVATION_DETACH (R54) At tick a + 4,096, an ABORT detaches a still-open stateful reservation and completes ABORT_EXTENDED. -/
  | abortReservationDetach (r : JobRef)
  /-- KEY_ADMIN_DESTROY (R120) Admin command that withdraws a tenant key, journals it, then zeroises it. -/
  | keyAdminDestroy (r : JobRef)
  /-- KEY_ADMIN_DESCRIBE (R120) Admin command that writes a key's 32-byte attribute record. -/
  | keyAdminDescribe (r : JobRef)
  /-- KEY_RESERVATION_DETACH (R120) 4,096 ticks after a key destroy's dispatch, an open stateful reservation on the key is detached. -/
  | keyReservationDetach (r : JobRef)
  /-- OPEN_LOAD (R121) Admin command that verifies an Open-store image for installation at an epoch. -/
  | openLoad (r : JobRef)
  /-- CURVE_POLICY (R122) Admin command that sets an allotment's curve permissions. -/
  | curvePolicy (r : JobRef)
  /-- TIME_SET (R123) Admin command that journals and moves the secure-time counter forward. -/
  | timeSet (r : JobRef)
  /-- TAMPER_CONFIG (R124) Admin command that applies the 16 soft tamper entries and may lock them. -/
  | tamperConfig (r : JobRef)
  /-- TAMPER_CLEAR (R125) Admin command that journals, then clears sticky flags and quiesce holds. -/
  | tamperClear (r : JobRef)
  /-- LC_ADVANCE (R351) Admin command that programs the OTP life-cycle words for a forward transition. -/
  | lcAdvance (r : JobRef)
  /-- DEBUG_UNLOCK_NONCE (R127) Admin command (AUX = 0) that issues a fresh 32-byte debug nonce. -/
  | debugUnlockNonce (r : JobRef)
  /-- DEBUG_UNLOCK_TOKEN (R359) Admin command (AUX = 1) that verifies a debug token and forces the debug root. -/
  | debugUnlockToken (r : JobRef)
  /-- BIST_RUN (R128) Admin command that runs self-test parts on the selected units. -/
  | bistRun (r : JobRef)
  /-- BIST_PART_START (R484) A BIST part begins on its unit at its epoch or in the tick after the previous part. -/
  | bistPartStart
  /-- BIST_PART_END (R486) A BIST part ends, and its signature is compared with the reference. -/
  | bistPartEnd (signature : W64)
  /-- RNG_RAW_MODE (R319) Admin command that stops Fountain output and writes raw cell bits. -/
  | rngRawMode (r : JobRef)
  /-- VAULT_FORMAT (R130) Admin command that formats the selected NAND channels as a new Vault. -/
  | vaultFormat (r : JobRef) (dies : List DieReport) (found : VaultFound)
  /-- VAULT_MOUNT (R395) Admin command (operation 1) that configures the channels and mounts the Vault. -/
  | vaultMount (r : JobRef) (dies : List DieReport) (found : VaultFound)
  /-- VAULT_UNMOUNT (R420) Admin command (operation 0) that waits for pending appends and a head signature, then unmounts. -/
  | vaultUnmount (r : JobRef)
  /-- TWIN_PAIR (R435) Admin command that checks the endorsement and runs the pairing ceremony with the twin. -/
  | twinPair (r : JobRef)
  /-- TWIN_PAIR_TIMEOUT (R132) No twin TWIN_PAIR within 2^24 ticks completes the command ST_TWIN_UNAVAILABLE. -/
  | twinPairTimeout
  /-- TWIN_SOLO (R133) Admin command that enters SOLO and sends the SOLO notice. -/
  | twinSolo (r : JobRef)
  /-- TWIN_REJOIN (R446) Admin command that starts rejoin from SOLO. -/
  | twinRejoin (r : JobRef)
  /-- REJOIN_TIMEOUT (R446) No twin answer within 2^24 ticks fails TWIN_REJOIN, or abandons an automatic rejoin. -/
  | rejoinTimeout
  /-- PATCH_STATUS (R134) Admin command that returns the patch level, match count, anti-rollback counter and measurement. -/
  | patchStatus (r : JobRef)
  /-- ATTEST_ENROL (R345) Admin command that verifies and installs the authority's attestation secret. -/
  | attestEnrol (r : JobRef)
  /-- ML_KEM_KEYGEN (R143) ML-KEM key-pair generation into a slot or blob. -/
  | mlKemKeygen (r : JobRef)
  /-- ML_KEM_ENCAPS (R144) ML-KEM encapsulation against a given or handled key. -/
  | mlKemEncaps (r : JobRef)
  /-- ML_KEM_DECAPS (R145) ML-KEM decapsulation with implicit rejection. -/
  | mlKemDecaps (r : JobRef)
  /-- ML_DSA_KEYGEN (R146) ML-DSA key-pair generation. -/
  | mlDsaKeygen (r : JobRef)
  /-- ML_DSA_SIGN (R155) ML-DSA pure-mode signing with rejection attempts. -/
  | mlDsaSign (r : JobRef)
  /-- ML_DSA_VERIFY (R150) ML-DSA pure-mode verification. -/
  | mlDsaVerify (r : JobRef)
  /-- ML_DSA_SIGN_PH (R148) HashML-DSA signing of a pre-hash digest. -/
  | mlDsaSignPh (r : JobRef)
  /-- ML_DSA_VERIFY_PH (R148) HashML-DSA verification of a pre-hash digest. -/
  | mlDsaVerifyPh (r : JobRef)
  /-- FN_DSA_SIGN (R152) FN-DSA pure-mode signing. -/
  | fnDsaSign (r : JobRef)
  /-- FN_DSA_VERIFY (R152) FN-DSA pure-mode verification. -/
  | fnDsaVerify (r : JobRef)
  /-- FN_DSA_SIGN_PH (R151) FN-DSA pre-hash signing. -/
  | fnDsaSignPh (r : JobRef)
  /-- FN_DSA_VERIFY_PH (R151) FN-DSA pre-hash verification. -/
  | fnDsaVerifyPh (r : JobRef)
  /-- SLH_DSA_KEYGEN (R167) SLH-DSA key-pair generation. -/
  | slhDsaKeygen (r : JobRef)
  /-- SLH_DSA_SIGN (R167) SLH-DSA pure-mode signing. -/
  | slhDsaSign (r : JobRef)
  /-- SLH_DSA_VERIFY (R168) SLH-DSA verification. -/
  | slhDsaVerify (r : JobRef)
  /-- SLH_DSA_SIGN_PH (R166) SLH-DSA pre-hash signing. -/
  | slhDsaSignPh (r : JobRef)
  /-- SLH_DSA_VERIFY_PH (R166) SLH-DSA pre-hash verification. -/
  | slhDsaVerifyPh (r : JobRef)
  /-- LMS_KEYGEN (R171) LMS/HSS stateful key generation with its KEY_EVENT and key-image change. -/
  | lmsKeygen (r : JobRef)
  /-- LMS_SIGN (R172) LMS/HSS signing that takes one index from a live reservation block. -/
  | lmsSign (r : JobRef)
  /-- LMS_VERIFY (R182) LMS/HSS verification. -/
  | lmsVerify (r : JobRef)
  /-- XMSS_KEYGEN (R171) XMSS/XMSS^MT stateful key generation. -/
  | xmssKeygen (r : JobRef)
  /-- XMSS_SIGN (R172) XMSS/XMSS^MT signing that takes one index. -/
  | xmssSign (r : JobRef)
  /-- XMSS_VERIFY (R182) XMSS/XMSS^MT verification. -/
  | xmssVerify (r : JobRef)
  /-- MCELIECE_KEYGEN (R184) Classic McEliece key generation over a fixed number of candidates. -/
  | mcelieceKeygen (r : JobRef)
  /-- MCELIECE_ENCAPS (R186) Classic McEliece encapsulation, streamed or resident. -/
  | mcelieceEncaps (r : JobRef)
  /-- MCELIECE_DECAPS (R187) Classic McEliece decapsulation with implicit rejection. -/
  | mcelieceDecaps (r : JobRef)
  /-- KEY_RESIDE (R185) Places a Classic McEliece public key in the allotment's SWM as a resident key. -/
  | keyReside (r : JobRef)
  /-- HQC_KEYGEN (R188) HQC key generation. -/
  | hqcKeygen (r : JobRef)
  /-- HQC_ENCAPS (R188) HQC encapsulation. -/
  | hqcEncaps (r : JobRef)
  /-- HQC_DECAPS (R188) HQC decapsulation with implicit rejection. -/
  | hqcDecaps (r : JobRef)
  /-- ECDSA_KEYGEN (R200) Short-Weierstrass key generation on a built-in or loaded curve. -/
  | ecdsaKeygen (r : JobRef)
  /-- ECDSA_SIGN (R199) ECDSA signing of a digest. -/
  | ecdsaSign (r : JobRef)
  /-- ECDSA_VERIFY (R199) ECDSA verification of a digest. -/
  | ecdsaVerify (r : JobRef)
  /-- ECDH_AGREE (R198) Cofactor Diffie–Hellman agreement with a peer point. -/
  | ecdhAgree (r : JobRef)
  /-- CURVE_LOAD (R202) Checks a caller-supplied curve and installs it at a loaded index. -/
  | curveLoad (r : JobRef)
  /-- CURVE_UNLOAD (R204) Frees a loaded curve index, with no slice. -/
  | curveUnload (r : JobRef)
  /-- EDWARDS_KEYGEN (R207) Key generation for Ed25519, Ed448, X25519 or X448. -/
  | edwardsKeygen (r : JobRef)
  /-- EDWARDS_SIGN (R205) EdDSA signing. -/
  | edwardsSign (r : JobRef)
  /-- EDWARDS_VERIFY (R206) EdDSA cofactored verification. -/
  | edwardsVerify (r : JobRef)
  /-- MONTGOMERY_AGREE (R206) X25519 or X448 agreement. -/
  | montgomeryAgree (r : JobRef)
  /-- RSA_SIGN_V15 (R209) RSA PKCS#1 v1.5 signing with a CRT private key. -/
  | rsaSignV15 (r : JobRef)
  /-- RSA_VERIFY_V15 (R209) RSA PKCS#1 v1.5 verification. -/
  | rsaVerifyV15 (r : JobRef)
  /-- RSA_SIGN_PSS (R209) RSA-PSS signing. -/
  | rsaSignPss (r : JobRef)
  /-- RSA_VERIFY_PSS (R210) RSA-PSS verification. -/
  | rsaVerifyPss (r : JobRef)
  /-- RSA_ENCRYPT_OAEP (R209) RSA-OAEP encryption. -/
  | rsaEncryptOaep (r : JobRef)
  /-- RSA_DECRYPT_OAEP (R209) RSA-OAEP decryption. -/
  | rsaDecryptOaep (r : JobRef)
  /-- BN_ADD (R212) Modular addition on caller operands. -/
  | bnAdd (r : JobRef)
  /-- BN_SUB (R212) Modular subtraction. -/
  | bnSub (r : JobRef)
  /-- BN_MUL (R212) Modular multiplication. -/
  | bnMul (r : JobRef)
  /-- BN_INV (R214) Modular inversion by a fixed divstep count. -/
  | bnInv (r : JobRef)
  /-- BN_EXP (R214) Modular exponentiation, blinded or public. -/
  | bnExp (r : JobRef)
  /-- BN_CLEAR (R213) Zeroes the kept operands and frees their block. -/
  | bnClear (r : JobRef)
  /-- DIGEST_INIT (R287) Family 0x20 INIT makes a digest context raw for its PSET. -/
  | digestInit (r : JobRef)
  /-- KEYED_INIT (R297) Family 0x21 INIT copies a prepared state slot into a keyed context. -/
  | keyedInit (r : JobRef)
  /-- DIGEST_UPDATE (R285) Absorbs whole blocks into a digest context. -/
  | digestUpdate (r : JobRef)
  /-- DIGEST_FINAL (R297) Absorbs the final padded blocks and writes the digest, XOF output or MAC. -/
  | digestFinal (r : JobRef)
  /-- STATE_EXPORT (R299) Writes a digest context as a raw or sealed keyed record. -/
  | stateExport (r : JobRef)
  /-- STATE_IMPORT (R301) Loads a raw digest record into a context. -/
  | stateImport (r : JobRef)
  /-- KEYED_STATE_IMPORT (R302) Authenticates and loads a sealed keyed digest record. -/
  | keyedStateImport (r : JobRef)
  /-- KEYED_PREPARE (R296) Precomputes an HMAC or KMAC keyed state into a state slot. -/
  | keyedPrepare (r : JobRef)
  /-- RELEASE (R298) Zeroises a state slot. -/
  | releaseSlot (r : JobRef)
  /-- SEAL_PUBKEY (R337) Returns the sealed allotment's ML-KEM-1024 sealing public key. -/
  | sealPubkey (r : JobRef)
  /-- SEAL_OPEN (R340) Decapsulates under the sealing key and installs a new channel key. -/
  | sealOpen (r : JobRef)
  /-- IMPORT (R338) Imports a key in clear or under a wrap key, after checks on its public part. -/
  | importKey (r : JobRef)
  /-- AUTH_IMPORT (R339) Imports an authority-signed, KEM-encrypted key package. -/
  | authImport (r : JobRef)
  /-- GENERATE (R337) Generates a symmetric key from the Fountain. -/
  | generateKey (r : JobRef)
  /-- WRAP (R335) Writes an exportable slot key as a wrapped blob. -/
  | wrap (r : JobRef)
  /-- UNWRAP (R336) Restores a wrapped blob into a new slot. -/
  | unwrap (r : JobRef)
  /-- PUBLIC (R337) Writes the public encoding of a slot, blob or resident key. -/
  | publicPart (r : JobRef)
  /-- DESTROY (R341) Tenant destruction of a slot or resident key, with journaling. -/
  | destroyKey (r : JobRef)
  /-- DESCRIBE (R328) Writes the attribute record of a live handle. -/
  | describeKey (r : JobRef)
  /-- QUOTE (R346) Writes a Fumel quote over the challenge and device state. -/
  | fumelQuote (r : JobRef)
  /-- NOTARISE (R422) Journals a statement and returns its receipt once the record is durable. -/
  | notarise (r : JobRef)
  /-- JOURNAL_KEY (R421) Returns the journal's ML-DSA-87 public key. -/
  | journalKey (r : JobRef)
  /-- OPEN_ROUTINE_CALL (R278) A family 0x40 job checked at dispatch against the installed image and run as an Open routine. -/
  | openRoutineCall (r : JobRef)
  /-- VSETVL (R244) Sets VL to min(s[rs1], VLMAX). -/
  | vsetvl (unit : Fin 4) (rd : BitVec 5) (rs1 : BitVec 5)
  /-- VSETTYPE (R244) Sets VTYPE. -/
  | vsettype (unit : Fin 4) (type : BitVec 8)
  /-- VSETMOD (R244) Sets VMOD and its Barrett constants. -/
  | vsetmod (unit : Fin 4) (rs1 : BitVec 5)
  /-- VLDS (R249) Strided vector load from the plot. -/
  | vlds (unit : Fin 4) (rd : BitVec 5) (rs1 : BitVec 5) (rs2 : BitVec 5) (mask : BitVec 3)
  /-- VSTS (R249) Strided vector store to the plot. -/
  | vsts (unit : Fin 4) (rd : BitVec 5) (rs1 : BitVec 5) (rs2 : BitVec 5) (mask : BitVec 3)
  /-- VXFER (R250) Moves rows between the plot and SWM. -/
  | vxfer (unit : Fin 4) (rd : BitVec 5) (rs1 : BitVec 5) (rs2 : BitVec 5) (toSwm : Bool) (rowLength : BitVec 8)
  /-- VADD (R246) Element-wise modular addition. -/
  | vadd (unit : Fin 4) (rd : BitVec 5) (rs1 : BitVec 5) (rs2 : BitVec 5) (mask : BitVec 3)
  /-- VSUB (R246) Element-wise modular subtraction. -/
  | vsub (unit : Fin 4) (rd : BitVec 5) (rs1 : BitVec 5) (rs2 : BitVec 5) (mask : BitVec 3)
  /-- VNEG (R246) Element-wise negation. -/
  | vneg (unit : Fin 4) (rd : BitVec 5) (rs1 : BitVec 5) (mask : BitVec 3)
  /-- VRED (R247) Reduction to the canonical range. -/
  | vred (unit : Fin 4) (rd : BitVec 5) (rs1 : BitVec 5) (mask : BitVec 3)
  /-- VMUL (R246) Element-wise product with one public operand. -/
  | vmul (unit : Fin 4) (rd : BitVec 5) (rs1 : BitVec 5) (rs2 : BitVec 5) (mask : BitVec 3)
  /-- VMAC (R246) Multiply-accumulate. -/
  | vmac (unit : Fin 4) (rd : BitVec 5) (rs1 : BitVec 5) (rs2 : BitVec 5) (mask : BitVec 3)
  /-- VMULC (R246) Product with a scalar. -/
  | vmulc (unit : Fin 4) (rd : BitVec 5) (rs1 : BitVec 5) (rs2 : BitVec 5) (mask : BitVec 3)
  /-- VAND (R246) Bitwise AND. -/
  | vand (unit : Fin 4) (rd : BitVec 5) (rs1 : BitVec 5) (rs2 : BitVec 5) (mask : BitVec 3)
  /-- VOR (R246) Bitwise OR. -/
  | vor (unit : Fin 4) (rd : BitVec 5) (rs1 : BitVec 5) (rs2 : BitVec 5) (mask : BitVec 3)
  /-- VXOR (R246) Bitwise XOR. -/
  | vxor (unit : Fin 4) (rd : BitVec 5) (rs1 : BitVec 5) (rs2 : BitVec 5) (mask : BitVec 3)
  /-- VSLL (R246) Shift left by a fixed amount. -/
  | vsll (unit : Fin 4) (rd : BitVec 5) (rs1 : BitVec 5) (mask : BitVec 3) (amount : BitVec 6)
  /-- VSRL (R246) Logical shift right. -/
  | vsrl (unit : Fin 4) (rd : BitVec 5) (rs1 : BitVec 5) (mask : BitVec 3) (amount : BitVec 6)
  /-- VSRA (R246) Arithmetic shift right. -/
  | vsra (unit : Fin 4) (rd : BitVec 5) (rs1 : BitVec 5) (mask : BitVec 3) (amount : BitVec 6)
  /-- VROL (R246) Rotate left. -/
  | vrol (unit : Fin 4) (rd : BitVec 5) (rs1 : BitVec 5) (mask : BitVec 3) (amount : BitVec 6)
  /-- VBFLY_CT (R251) Cooley–Tukey butterfly. -/
  | vbflyCt (unit : Fin 4) (rd : BitVec 5) (rs1 : BitVec 5) (rs2 : BitVec 5) (mask : BitVec 3) (stream : Bool) (low : BitVec 6)
  /-- VBFLY_GS (R251) Gentleman–Sande butterfly. -/
  | vbflyGs (unit : Fin 4) (rd : BitVec 5) (rs1 : BitVec 5) (rs2 : BitVec 5) (mask : BitVec 3) (stream : Bool) (low : BitVec 6)
  /-- VPERM (R251) Permutes elements within each aligned group of four. -/
  | vperm (unit : Fin 4) (rd : BitVec 5) (rs1 : BitVec 5) (mask : BitVec 3) (selector : BitVec 8)
  /-- VCMP (R252) Compares elements into a public mask. -/
  | vcmp (unit : Fin 4) (rd : BitVec 5) (rs1 : BitVec 5) (rs2 : BitVec 5) (fn : BitVec 8)
  /-- VCOMPRESS (R252) Packs the masked elements and writes their count. -/
  | vcompress (unit : Fin 4) (rd : BitVec 5) (rs1 : BitVec 5) (rs2 : BitVec 5) (mask : BitVec 3)
  /-- VXOF_INIT (R253) Starts a SHAKE state on a private core. -/
  | vxofInit (unit : Fin 4) (core : Fin 2) (shake256 : Bool)
  /-- VXOF_ABSORB (R253) Absorbs vector elements into a private core. -/
  | vxofAbsorb (unit : Fin 4) (rs1 : BitVec 5) (core : Fin 2)
  /-- VXOF_FINALISE (R253) Pads and permutes a private core's state, making output available. -/
  | vxofFinalise (unit : Fin 4) (core : Fin 2)
  /-- VSAMPU (R254) Uniform rejection sampling from a core, with an acceptance mask. -/
  | vsampu (unit : Fin 4) (rd : BitVec 5) (core : Fin 2) (dest : BitVec 3)
  /-- VCBD (R254) Centred binomial sampling from a core. -/
  | vcbd (unit : Fin 4) (rd : BitVec 5) (core : Fin 2) (eta : BitVec 2)
  /-- VSPLIT (R255) Splits an unshared vector into fresh shares. -/
  | vsplit (unit : Fin 4) (rd : BitVec 5) (rs1 : BitVec 5)
  /-- VREFRESH (R255) Re-randomises the shares of a vector. -/
  | vrefresh (unit : Fin 4) (rd : BitVec 5) (rs1 : BitVec 5)
  /-- VUNMASK (R256) Combines shares to an unshared value, refusing provenance in Open routines. -/
  | vunmask (unit : Fin 4) (rd : BitVec 5) (rs1 : BitVec 5) (mask : BitVec 3)
  /-- VPUBLISH (R246) ROM-only unmasking without the provenance check. -/
  | vpublish (unit : Fin 4) (rd : BitVec 5) (rs1 : BitVec 5) (mask : BitVec 3)
  /-- VUNMASK_M (R256) Makes a shared mask public. -/
  | vunmaskM (unit : Fin 4) (rd : BitVec 3) (rs1 : BitVec 3)
  /-- VPUBLISH_M (R246) ROM-only publication of a shared mask. -/
  | vpublishM (unit : Fin 4) (rd : BitVec 3) (rs1 : BitVec 3)
  /-- VA2B (R226) Gadget arithmetic-to-Boolean share conversion. -/
  | va2b (unit : Fin 4) (rd : BitVec 5) (rs1 : BitVec 5)
  /-- VB2A (R226) Gadget Boolean-to-arithmetic share conversion. -/
  | vb2a (unit : Fin 4) (rd : BitVec 5) (rs1 : BitVec 5)
  /-- VMAND (R226) Masked AND of Boolean shares. -/
  | vmand (unit : Fin 4) (rd : BitVec 5) (rs1 : BitVec 5) (rs2 : BitVec 5)
  /-- VMOR (R226) Masked OR of Boolean shares. -/
  | vmor (unit : Fin 4) (rd : BitVec 5) (rs1 : BitVec 5) (rs2 : BitVec 5)
  /-- VMEQ (R226) Masked equality to a shared mask. -/
  | vmeq (unit : Fin 4) (rd : BitVec 3) (rs1 : BitVec 5) (rs2 : BitVec 5)
  /-- VMBND (R226) Masked bound check to a shared mask. -/
  | vmbnd (unit : Fin 4) (rd : BitVec 3) (rs1 : BitVec 5) (rs2 : BitVec 5)
  /-- VMCOMP (R226) Masked Compress_d. -/
  | vmcomp (unit : Fin 4) (rd : BitVec 5) (rs1 : BitVec 5) (rs2 : BitVec 5)
  /-- VMDCMP (R226) Masked Decompose. -/
  | vmdcmp (unit : Fin 4) (rd : BitVec 5) (rs1 : BitVec 5) (rs2 : BitVec 5)
  /-- KLOAD (R257) Loads key words from the Icehouse as Boolean shares carrying provenance. -/
  | kload (unit : Fin 4) (rd : BitVec 5) (rs1 : BitVec 5)
  /-- SADD (R246) Scalar add. -/
  | sadd (unit : Fin 4) (rd : BitVec 5) (rs1 : BitVec 5) (rs2 : BitVec 5)
  /-- SSUB (R246) Scalar subtract. -/
  | ssub (unit : Fin 4) (rd : BitVec 5) (rs1 : BitVec 5) (rs2 : BitVec 5)
  /-- SAND (R246) Scalar AND. -/
  | sand (unit : Fin 4) (rd : BitVec 5) (rs1 : BitVec 5) (rs2 : BitVec 5)
  /-- SOR (R246) Scalar OR. -/
  | sor (unit : Fin 4) (rd : BitVec 5) (rs1 : BitVec 5) (rs2 : BitVec 5)
  /-- SXOR (R246) Scalar XOR. -/
  | sxor (unit : Fin 4) (rd : BitVec 5) (rs1 : BitVec 5) (rs2 : BitVec 5)
  /-- SSLL (R246) Scalar shift left. -/
  | ssll (unit : Fin 4) (rd : BitVec 5) (rs1 : BitVec 5) (rs2 : BitVec 5)
  /-- SSRL (R246) Scalar shift right. -/
  | ssrl (unit : Fin 4) (rd : BitVec 5) (rs1 : BitVec 5) (rs2 : BitVec 5)
  /-- SLI (R246) Loads a zero-extended immediate. -/
  | sli (unit : Fin 4) (rd : BitVec 5) (imm : W16)
  /-- SLIH (R246) Loads the high half of a scalar. -/
  | slih (unit : Fin 4) (rd : BitVec 5) (imm : W16)
  /-- SADDI (R246) Adds a sign-extended immediate. -/
  | saddi (unit : Fin 4) (rd : BitVec 5) (rs1 : BitVec 5) (imm : W16)
  /-- SBNE (R246) Branches if not equal. -/
  | sbne (unit : Fin 4) (rs1 : BitVec 5) (rs2 : BitVec 5) (offset : BitVec 11)
  /-- SBEQ (R246) Branches if equal. -/
  | sbeq (unit : Fin 4) (rs1 : BitVec 5) (rs2 : BitVec 5) (offset : BitVec 11)
  /-- COMMIT (R230) Ends the slice body; the context is stored in the commit phase. -/
  | commitSlice (unit : Fin 4)
  /-- END (R259) Writes the job's output and outcome and ends the routine. -/
  | endRoutine (unit : Fin 4) (rs1 : BitVec 5) (rs2 : BitVec 5) (mask : BitVec 3) (status : BitVec 8)
  /-- CALLM_START_ABSORB (R258) Posts a Maze request that starts a context and absorbs. -/
  | callmStartAbsorb (unit : Fin 4) (rd : BitVec 5) (rs1 : BitVec 5) (rs2 : BitVec 5) (alg : BitVec 3) (length : BitVec 6)
  /-- CALLM_ABSORB (R258) Posts a Maze request that absorbs into the current context. -/
  | callmAbsorb (unit : Fin 4) (rd : BitVec 5) (rs1 : BitVec 5) (rs2 : BitVec 5) (alg : BitVec 3) (length : BitVec 6)
  /-- CALLM_ABSORB_FINALISE (R258) Posts a Maze request that absorbs and finalises. -/
  | callmAbsorbFinalise (unit : Fin 4) (rd : BitVec 5) (rs1 : BitVec 5) (rs2 : BitVec 5) (alg : BitVec 3) (length : BitVec 6)
  /-- CALLM_START_FINALISE (R258) Posts a Maze request that starts, absorbs and finalises. -/
  | callmStartFinalise (unit : Fin 4) (rd : BitVec 5) (rs1 : BitVec 5) (rs2 : BitVec 5) (alg : BitVec 3) (length : BitVec 6)
  /-- BLOCK_RESET (R465) One unit is isolated, reset and zeroed, and its jobs end ST_UNIT_RESET. -/
  | blockReset (unit : Fin 14) (hang : Bool)
  /-- BLOCK_RESET_RETURN (R465) At the first tick boundary at or after r + 64, the reset unit returns to service. -/
  | blockResetReturn (unit : Fin 14)
  /-- FATAL_ERROR (R478) A fatal error asserts FATAL_N, stops fetch and dispatch, and writes the dump before a full reset. -/
  | fatalError (memory : BitVec 8) (word : W32)
  /-- DUMP_WINDOW_EXPIRY (R479) 50 ms after FATAL_N, incomplete dump sections are truncated and the header is written. -/
  | dumpWindowExpiry
  /-- EVENT_RECORD_WRITE (R471) At a tick boundary with room and enable, the oldest FIFO event record is written to the ring. -/
  | eventRecordWrite
  /-- EVT_ENABLE (R470) Setting EVT_CTRL.ENABLE latches and checks the event ring geometry. -/
  | evtEnable (value : W32)
  /-- EVT_NOTICE_CLEAR (R472) Clearing EVT_CTRL.NOTICE zeroes the pending count and withdraws unsent messages. -/
  | evtNoticeClear
  /-- EVT_NOTICE_SET (R472) Setting EVT_CTRL.NOTICE counts records from the next one written. -/
  | evtNoticeSet
  /-- FFC_VALID_CLEAR (R474) Writing 1 to EVT_STATUS.FFC_VALID rearms first-failure capture. -/
  | ffcValidClear
  /-- ADM_RING_ENABLE (R514) Setting ADM_RING_CTRL.ENABLE checks and starts admin queue 0. -/
  | admRingEnable (value : W64)
  /-- ADM_RING_DISABLE (R515) Clearing ADM_RING_CTRL.ENABLE starts a drain of queue 0. -/
  | admRingDisable
  /-- ADM_DRAIN_END (R515) When the executing admin command completes, the drain ends and ENABLE reads 0. -/
  | admDrainEnd
  /-- BST_SEL_WRITE (R512) Writing BST_SEL changes the usage view from the next tick boundary. -/
  | bstSelWrite (value : W32)
  /-- GH_ALERT_CLEAR (R383) A W1C write to GH_ALERT clears alert bits, and ALERT_N releases when all are clear. -/
  | ghAlertClear (value : W32)
  /-- DBG_HALT (R518) A JTAG write to DBG_HALT halts or releases scheduled units, or is refused while tenants own queues. -/
  | dbgHalt (value : W32)
  /-- JTAG_OTP_PROGRAM (R351) The TAP OTP programming instruction programs life-cycle, personalisation or fuse bits in BLANK or TEST. -/
  | jtagOtpProgram (item : OtpItem)
  /-- JTAG_DUMP_READOUT (R482) In END_OF_LIFE, the Vault dump copy is read out through JTAG. -/
  | jtagDumpReadout
  /-- SMBUS_READ_WORD (R525) An SMBus Read Word at 0x4E returns one of five status words. -/
  | smbusReadWord (command : BitVec 8)
  /-- SMBUS_ALERT_RESPONSE (R525) A read of the Alert Response Address is answered with 0x4E. -/
  | smbusAlertResponse
  /-- RNG_LIMIT_WRITE (R307) A write to RNG_BIAS_LIM or RNG_CORR_LIM tightens a health limit from the next window, or is ignored. -/
  | rngLimitWrite (corr : Bool) (value : W32)
  /-- RNG_PATTERN_ENABLE (R320) A change of RNG_CTRL.PATTERN_EN in TEST switches the test pattern and starts a new Fountain start-up. -/
  | rngPatternEnable (enable : Bool)
  /-- SDL_THRESH_WRITE (R493) A write to SDL_THRESH raises T_min from the next measurement, or is ignored. -/
  | sdlThreshWrite (value : W32)
  /-- STARTUP_EXPIRED (R318) 50 ms after start-up begins without readiness, held jobs fail ST_ENTROPY_FAILED and STARTUP_EXPIRED is set. -/
  | startupExpired
  /-- HEALTH_TEST_FAILURE (R305) A repetition-count or adaptive-proportion count reaches its cut-off and quarantines the cell. -/
  | healthTestFailure (cell : Fin 8) (proportion : Bool) (index : W64)
  /-- TEST_WINDOW_END (R306) At the end of a 65,536-bit window, the estimators decide pass, quarantine or restoration. -/
  | testWindowEnd (cell : Fin 8) (ones : BitVec 17) (equal : Vector (BitVec 16) 4) (index : W64)
  /-- CHUNK_PERIOD (R311) Every 2,560 ns, a chunk is taken from each healthy cell into the pool, and a full pool becomes a seed. -/
  | chunkPeriod (chunks : Vector W64 8)
  /-- GENERATE_SLOT (R312) Every 12 DRBGCLK cycles, the expander applies any reseed and generates for the slot's holder. -/
  | generateSlot
  /-- DRAW_TIMEOUT (R316) A draw waiting 2 ms for a fresh reseed or a stopped expander fails its job ST_ENTROPY_FAILED. -/
  | drawTimeout (r : JobRef)
  /-- REFRESH_GENERATOR_RESEED (R331) After 2^16 squeezes, an Icehouse refresh generator draws a standby seed from slot 5. -/
  | refreshGeneratorReseed (generator : Fin 4)
  /-- ICEHOUSE_HOLD_EXPIRED (R532) A job held for the Icehouse 50 ms completes ST_ENTROPY_FAILED. -/
  | icehouseHoldExpired (r : JobRef)
  /-- ICEHOUSE_RESUME (R344) After a volatile clear, with the new roots and keys derived, the Icehouse serves again and held jobs are checked. -/
  | icehouseResume
  /-- HARD_EVENT (R366) A crossed hard threshold asserts TZ_ERASE, sets flag and hold, writes a ring entry and starts ZEROISE_ALL. -/
  | hardEvent (source : Fin 16) (readingA : W32) (readingB : W32)
  /-- SOFT_EVENT (R367) An enabled source enters an excursion beyond THRESH and is counted against its rate window. -/
  | softEvent (source : Fin 16) (readingA : W32) (readingB : W32)
  /-- EXCURSION_END (R367) After 64 samples inside THRESH, the excursion ends and the source can raise a new soft event. -/
  | excursionEnd (source : Fin 16)
  /-- RATE_WINDOW_END (R368) A soft-event rate window reaches its end and closes without a response. -/
  | rateWindowEnd (source : Fin 16)
  /-- DETECTOR_DISAGREEMENT (R365) One detector beyond a threshold while the other is not, for 16 samples, counts one source 14 event. -/
  | detectorDisagreement (source : Fin 16)
  /-- TAMPER_RESPONSE (R369) At the tick boundary after a triggering event, the configured response level takes effect. -/
  | tamperResponse
  /-- QUIESCE_END (R371) At the tick boundary after a TAMPER_CLEAR leaves no hold, resident jobs resume. -/
  | quiesceEnd
  /-- LODGE_ALARM_WHILE_OFF (R379) On battery alone, a Lodge alarm erases the BBRAM key and writes a WHILE_OFF ring entry. -/
  | lodgeAlarmWhileOff (source : Fin 16)
  /-- APPEND_SLOT (R415) At the start of an append slot, the holder's page is assembled with SEQ and PREV and programmed. -/
  | appendSlot (die : Fin 16)
  /-- HOUSEKEEPING_MEDIA_SLOT (R402) A housekeeping slot serves the first pending media upkeep or read item. -/
  | housekeepingMediaSlot (die : Fin 16)
  /-- ERASE_SLOT (R401) The erase slot erases the oldest block in the die's erase queue. -/
  | eraseSlot (die : Fin 16)
  /-- PAGE_PROGRAM_DONE (R393) Read Status reports PASS, making the page durable, or FAIL, causing a reprogram elsewhere. -/
  | pageProgramDone (page : W64) (pass : Bool)
  /-- CODEWORD_DECODE (R389) A codeword notice starts BCH decoding: corrected, uncorrectable or erased. -/
  | codewordDecode (die : Fin 16) (block : BitVec 24) (page : BitVec 16) (outcome : Decoded)
  /-- FIFO_TAIL_TIMEOUT (R406) No byte pair for 16 ticks pushes a partial word with TIMEOUT, ending the unit. -/
  | fifoTailTimeout (die : Fin 16) (block : BitVec 24) (page : BitVec 16) (got : BitVec 11)
  /-- DIE_TIMEOUT (R407) A die not ready in four times its maximum time is reset, and a repeat marks it failed. -/
  | dieTimeout (die : Fin 16)
  /-- BLOCK_REFRESH (R399) A block's read count reaches 50,000 and it is queued for refresh. -/
  | blockRefresh (die : Fin 16) (block : BitVec 24)
  /-- SCRUB_DUE (R400) Secure time leaves a block's 30-day scrub window and the block becomes due for scrubbing. -/
  | scrubDue (die : Fin 16) (block : BitVec 24)
  /-- HEAD_SIGNATURE_READY (R419) The ML-DSA-87 head signature completes, and its 39 chunks are queued ahead of device records. -/
  | headSignatureReady
  /-- JOURNAL_EXPORT_WRITE (R426) A durable journal slot is written to the export ring when there is room. -/
  | journalExportWrite
  /-- JX_ENABLE (R427) Setting VLT_JX_CTRL.ENABLE latches and checks the export ring. -/
  | jxEnable
  /-- JX_DISABLE (R427) Clearing VLT_JX_CTRL.ENABLE takes effect when the current entry is complete, and the export position is kept. -/
  | jxDisable
  /-- JX_REPLAY (R427) Setting VLT_JX_CTRL.REPLAY exports from the SEQ in VLT_JX_REPLAY, then continues live. -/
  | jxReplay
  /-- LINK_UP (R428) All four Footbridge lanes lock and deskew, and the link nonces are exchanged. -/
  | linkUp
  /-- LINK_DOWN (R428) The Footbridge link is lost and retrains every 4,096 ticks. -/
  | linkDown
  /-- LINK_RETRAIN (R428) A link that is not up retrains when its 4,096-tick timer ends. -/
  | linkRetrain
  /-- FB_PRESENT_CHANGE (R428) FB_PRESENT_N going low allows training to begin. -/
  | fbPresentChange (present : Bool)
  /-- LINK_NAK_TIMEOUT (R430) A frame not recovered within 64 ticks of its LINK_NAK forces a retrain. -/
  | linkNakTimeout
  /-- BRIDGE_SLOT (R433) Every 80 ns a bridge slot sends at most one frame of its position's holder. -/
  | bridgeSlot
  /-- HELLO (R435) Pairing HELLO message received and checked. -/
  | hello (head : FrameHead) (payload : List Byte)
  /-- KEM_EK (R435) The East's encapsulation key is received, and the West encapsulates. -/
  | kemEk (head : FrameHead) (payload : List Byte)
  /-- KEM_CT (R435) The West's ciphertext is received, and the pair key is derived. -/
  | kemCt (head : FrameHead) (payload : List Byte)
  /-- AUTH (R435) The twin's transcript signature is received and verified. -/
  | authFrame (head : FrameHead) (payload : List Byte)
  /-- STATE (R436) A mirrored item is received and installed during pairing. -/
  | stateItem (head : FrameHead) (payload : List Byte)
  /-- STATE_END (R435) The count and hash of the STATE items are checked, and pairing completes. -/
  | stateEnd (head : FrameHead) (payload : List Byte)
  /-- PREPARE (R439) A twin's PREPARE is checked, staged and journalled, and answered ACK or NAK. -/
  | prepare (head : FrameHead) (payload : List Byte)
  /-- ACK (R439) The twin's ACK is received, and COMMIT is sent once own records are durable. -/
  | ack (head : FrameHead) (payload : List Byte)
  /-- NAK (R440) A NAK fails the change or makes the initiator choose another block. -/
  | nak (head : FrameHead) (payload : List Byte)
  /-- FRAME_COMMIT (R439) A received COMMIT applies the staged change. -/
  | frameCommit (head : FrameHead) (payload : List Byte)
  /-- ABANDON (R441) A received ABANDON discards the staged change. -/
  | abandon (head : FrameHead) (payload : List Byte)
  /-- COMMIT_TIMEOUT (R441) No ACK within 4,096 ticks of PREPARE sends ABANDON and fails the change. -/
  | commitTimeout (tseq : W64)
  /-- HEARTBEAT (R442) A received heartbeat renews the deadline, or starts rejoin when late or in SOLO by loss. -/
  | heartbeat (head : FrameHead) (payload : List Byte)
  /-- HEARTBEAT_DEADLINE (R442) At the deadline tick with no heartbeat, the device enters SOLO by loss. -/
  | heartbeatDeadline
  /-- TAMPER_NOTICE (R382) A twin's TAMPER message is recorded as a source 15 soft event. -/
  | tamperNotice (head : FrameHead) (payload : List Byte)
  /-- SOLO (R443) A received SOLO notice puts the device in SOLO. -/
  | solo (head : FrameHead) (payload : List Byte)
  /-- LINK_NAK (R430) A received LINK_NAK resends frames from the named FSEQ. -/
  | linkNak (head : FrameHead) (payload : List Byte)
  /-- LINK_NONCE (R431) The twin's link nonce is received, and the link key is derived. -/
  | linkNonce (head : FrameHead) (payload : List Byte)
  /-- REJOIN_REQ (R446) A REJOIN_REQ starts or answers rejoin. -/
  | rejoinReq (head : FrameHead) (payload : List Byte)
  /-- REPLAY (R446) Replayed journal records are applied: destructions, frontiers and flags. -/
  | replay (head : FrameHead) (payload : List Byte)
  /-- REPLAY_END (R446) The end of the twin's replay is applied, and in-doubt changes are decided. -/
  | replayEnd (head : FrameHead) (payload : List Byte)
  /-- SUNDIAL_MEASUREMENT (R495) Every 2^20 ticks the Sundial measures margin and applies the re-planning rules. -/
  | sundialMeasurement (sites : Vector SiteDelay 24) (avs : AvsReport) (temp : BitVec 16)
  /-- STEP_UP_WINDOW_END (R496) A full 2^30-tick step-up window steps the planned point one faster. -/
  | stepUpWindowEnd
  /-- GLITCH_REFERENCE_UPDATE (R491) After a set-point raise, the glitch reference takes the new value when the rail settles or after 256 ticks. -/
  | glitchReferenceUpdate (settled : Bool)
  /-- THERMAL_THROTTLE (R498) A reading of 110.0 °C caps the point in force at OP3 from the next epoch. -/
  | thermalThrottle (readingA : BitVec 16) (readingB : BitVec 16)
  /-- THERMAL_CAP_END (R498) Both detectors below 105.0 °C for 2^20 ticks end the thermal cap at the next epoch. -/
  | thermalCapEnd
  /-- HISTORY_PERIODIC (R499) After 2^30 ticks without a change, a periodic margin-history record is written. -/
  | historyPeriodic
  /-- BATTERY_REMOVAL (R380) Loss of VBAT while main power is absent wipes the Lodge: flags, holds, ring, secure time and the BBRAM key. -/
  | batteryRemoval
  /-- LPO_CYCLE (R378) Each LPO cycle advances the secure-time counter and gives the Lodge its sample of sources 0 to 5, 13 and the coarse temperature check. -/
  | lpoCycle (mesh : BitVec 4) (cases : BitVec 2) (vbat : W16)
  /-- LINK_TRAINING_END (R454) PCIe link training ends with the link up at its trained speed and width, and configuration requests are answered from then on. -/
  | linkTrainingEnd (speed : BitVec 3) (width : BitVec 5)
  /-- D0_RETURN (R70) Return from D3hot to D0 ends the quiesce of the function's allotments and resumes fetching with the configuration kept. -/
  | d0Return (func : Fin 64)
  /-- ERASE_DONE (R397) A block erase completes and reports PASS, or FAIL, which marks the block grown bad. -/
  | eraseDone (die : Fin 16) (pass : Bool)
deriving DecidableEq, Repr

end Sys2Proof
end

