-- ==== Sys2Proof/Decode.lean ====
section
/-! DEFINITION. The words of the opcode table. No row of spec/opcode_table.json gives bits: the commands of this block
come from outside it as events, so that no word spells one. -/
namespace Sys2Proof

/-- The command that a word spells by the table's bits: none, since no row gives bits. (DESIGN CHOICE, log entry 3) -/
def decodeTableWord (_nbits _w : Nat) : Option Instr := none

end Sys2Proof
end

