-- ==== Sys2Proof/Machine/KMap.lean ====
section
/-! DEFINITION. Finite maps in one canonical form: pairs of a key and a value, keys strictly rising.
Two maps with the same content are equal data. -/
namespace Sys2Proof

/-- A finite map from numbers, as pairs with strictly rising keys. -/
abbrev KMap (α : Type) := List (Nat × α)

namespace KMap

/-- The value at a key. -/
def get? {α : Type} : KMap α → Nat → Option α
  | [], _ => none
  | (k, v) :: m, i => if i = k then some v else get? m i

/-- Puts a value at a key, keeping the keys rising. -/
def put {α : Type} : KMap α → Nat → α → KMap α
  | [], i, a => [(i, a)]
  | (k, v) :: m, i, a =>
    if i < k then (i, a) :: (k, v) :: m
    else if i = k then (i, a) :: m
    else (k, v) :: put m i a

/-- Removes a key. -/
def drop {α : Type} : KMap α → Nat → KMap α
  | [], _ => []
  | (k, v) :: m, i => if i = k then m else (k, v) :: drop m i

/-- Changes the value at a key, where there is one. -/
def adjust {α : Type} (m : KMap α) (i : Nat) (f : α → α) : KMap α :=
  m.map fun p => if p.1 = i then (p.1, f p.2) else p

/-- Changes every value. -/
def mapAll {α : Type} (m : KMap α) (f : Nat → α → α) : KMap α :=
  m.map fun p => (p.1, f p.1 p.2)

/-- Keeps the pairs that pass a test. -/
def keep {α : Type} (m : KMap α) (f : Nat → α → Bool) : KMap α :=
  m.filter fun p => f p.1 p.2

/-- The value at a key, or a given one. -/
def getD {α : Type} (m : KMap α) (i : Nat) (d : α) : α := (get? m i).getD d

/-- Whether a key is present. -/
def has {α : Type} (m : KMap α) (i : Nat) : Bool := (get? m i).isSome

/-- Every key is above a bound and the keys rise. -/
def above {α : Type} : Nat → KMap α → Bool
  | _, [] => true
  | b, (k, _) :: m => decide (b < k) && above k m

/-- The canonical form: keys strictly rising. -/
def wf {α : Type} : KMap α → Bool
  | [] => true
  | (k, _) :: m => above k m

end KMap
end Sys2Proof
end

