-- ==== Sys2Proof/Machine/State.lean ====
section
/-! DEFINITION. The state of the SDZ-9620 as plain data: every register, memory, queue, counter, mode and pin
the spec gives the device, and the queue of waiting commands. Numbers that software never sees as words
(ticks, counts, indices) are natural numbers. -/
namespace Sys2Proof.Machine
open Sys2Proof

/-! ## Part 1: allotments, queues, windows, leases (02_bandstand.md, 04_rings.md, 05_admin_commands.md) -/

/-- The classes of scheduled units (Table 1-3). -/
inductive UnitClass where
  | parterre | maze | sha2 | orangery
deriving DecidableEq, Repr

/-- An address window: [base, limit), bit 0 of perm read, bit 1 write (R91, R118). -/
structure Window where
  base : W64
  limit : W64
  perm : BitVec 2
deriving DecidableEq, Repr

/-- The lease terms of Table 2-1. -/
structure Lease where
  parterre : Nat
  maze : Nat
  sha2 : Nat
  orangery : Nat
  residences : Nat
  quantum : Nat
deriving DecidableEq, Repr

/-- Why a scan stopped (R78). -/
inductive StopReason where
  | notOwned | busy | limit
deriving DecidableEq, Repr

/-- The device's context of one queue (R73, R78 to R80, R68). `stop` is none while the scan runs. -/
structure Queue where
  base : W64
  log2n : Nat
  scan : Nat
  inflight : List Nat
  stop : Option StopReason
  /-- the next descriptor read waits for a fetch turn -/
  awaiting : Bool
  /-- a descriptor read is outstanding -/
  reading : Bool
  /-- the tick in which a doorbell landed on the stopped scan that no boundary has yet seen (R52, R78) -/
  rang : Option Nat
  /-- the tick of the last doorbell that landed in or after the tick of the outstanding read, or while the next read
  waits for its turn (R79) -/
  bell : Option Nat
  vector : Option Nat
  modCount : Nat
  modTicks : Nat
  /-- pending completions and the tick the oldest became pending (R68) -/
  pendCount : Nat
  pendSince : Nat
  /-- the tick in which the latest became pending, and how many became pending in it: no message counts them before the
  next tick starts (R68) -/
  pendTick : Nat
  pendNew : Nat
  /-- the queue is being freed by QUEUE_DESTROY or ALLOT_DESTROY -/
  closing : Bool
deriving DecidableEq, Repr

/-- The status codes of Table 4-8, in order of value. -/
inductive Status where
  | ok | okFlagged | aborted | unitAbsent | unitReset | windowViolation | lengthShort | operandSize
  | blockAlign | opcodeUnknown | keyHandle | keyAttribute | entropyFailed | operandRange | pointInvalid
  | scalarRange | notInvertible | curveRejected | verifyFail | stateExhausted | twinUnavailable
  | vaultFull | vaultMedia | leaseAbsent | lifecycle | tamperQuiesced | sealAuth | openRoutine
  | internal | resource | attemptBudget
deriving DecidableEq, Repr

/-- Usage counters of one allotment on one unit (R48, R511, R512). -/
structure Usage where
  used : Nat
  decoy : Nat
  lent : Nat
  housekeeping : Nat
deriving DecidableEq, Repr

/-- A host read of an allotment that is in flight (R62, R63, R65): its tag, whether it reads data, the queue of a
descriptor read or the key of the job whose tables or data it reads, its address, and the bytes that are due. `answered`:
the isolation wrapper has answered it, or its job has ended, and what returns is discarded (R53, R63). -/
structure HostReq where
  tag : Nat
  data : Bool
  owner : Nat
  addr : W64
  due : Nat
  answered : Bool
deriving DecidableEq, Repr

/-- One allotment (R102, R110 to R118, R122, R326, R334). Allotment 0 is the admin world. -/
structure Allotment where
  isSealed : Bool
  shareable : Bool
  lendable : Bool
  openOk : Bool
  ceDefault : Bool
  evictBlocks : Nat
  quota : Nat
  stageBlocks : Nat
  keyBlocks : Nat
  destroying : Bool
  orphaned : Bool
  /-- the function is quiesced and the allotment fetches nothing (R70) -/
  quiesced : Bool
  lease : Lease
  /-- a lease that takes effect at an epoch (R39) -/
  pendingLease : Option (Nat × Lease)
  /-- the first epoch of pool membership (R111) -/
  shareFrom : Nat
  windows : KMap Window
  /-- the function, doorbell page and tag group of the binding (R61, R63, R114) -/
  func : Option Nat
  page : Nat
  tagGroup : Nat
  /-- the reads in flight, oldest first; each keeps its tag (R63) -/
  reads : List HostReq
  inflight : Nat
  /-- the queue served last by a fetch turn, and the queue that resumed last from LIMIT (R51, R80) -/
  lastFetch : Nat
  lastResume : Nat
  curves : BitVec 7
  maxLoad : Nat
  salt : List Byte
  /-- the key-encryption key and the sealing seed of the twin that created it (R436) -/
  twinKeys : Option (List Byte × List Byte)
  blobSerial : W32
  channelKey : Option (List Byte)
  /-- the digest-context block of R287 and the kept-operand block of R213 are taken -/
  digestBlock : Bool
  keptBlock : Bool
  /-- the KEY_EVENT records that its destruction waits for (R113) -/
  destroyRecords : List Nat
  /-- usage counters by unit -/
  usage : KMap Usage
deriving DecidableEq, Repr

/-! ## Part 2: jobs (04_rings.md, 06 to 12) -/

/-- A job entry (Table 4-1). -/
structure Entry where
  ctrl : W16
  opcode : W16
  tag : W32
  keyh : W64
  inAddr : W64
  inLen : W32
  inFrags : W32
  outAddr : W64
  outLen : W32
  aux : W32
  inl : BitVec 128
deriving DecidableEq, Repr

/-- The stages of a fetched job. -/
inductive JobPhase where
  /-- its fragment tables are being read (R86) -/
  | tables
  /-- its entry-only checks passed and it waits for a residence (R234) -/
  | unplaced
  /-- its data reads are issued and its input is landing (R142) -/
  | reading
  /-- held before check 9 while the Icehouse does not serve (R532) -/
  | iceHeld
  /-- every check passed; it waits for dispatch (R94) -/
  | ready
  /-- dispatched; its operation has not yet begun -/
  | dispatched
  /-- its operation has begun -/
  | running
  /-- its outcome is known; it waits for a record, a key-image change or the twin -/
  | finishing
  /-- its outcome is decided; its completion is due -/
  | decided
deriving DecidableEq, Repr

/-- What a dispatched job waits for before it can end. -/
inductive Wait where
  /-- a journal record, by its number (R171, R341, R422) -/
  | record (id : Nat)
  /-- a key-image change (R332) -/
  | image (id : Nat)
  /-- a change offered to the twin, by its transaction (R439) -/
  | twin (tseq : Nat)
  /-- an open stateful reservation on a key slot (R54, R120, R172) -/
  | reservation (slot : Nat)
  /-- the quote counter's reservation (R347) -/
  | quoteBlock
  /-- a CALLM result (R233) -/
  | callm
  /-- an act of another block whose end a row reports (BIST part, format, mount, pairing, rejoin, raw bytes) -/
  | external
deriving DecidableEq, Repr

/-- A draw on the Fountain (R314, R316). -/
structure Draw where
  bytes : Nat
  fresh : Bool
  posted : Bool
deriving DecidableEq, Repr

/-- One level of a tree cache (R179). Subtrees are of height min(h, 10); the nodes themselves are functions of the key.
(DESIGN CHOICE, log entry 124) -/
structure CacheLevel where
  /-- the nodes at heights 10 and above are held -/
  tops : Bool
  /-- the complete subtree that holds the current index, by its number -/
  current : Option Nat
  /-- leaves generated of the same subtree for the next indices -/
  next : Nat
  /-- the tree of the level below whose public key the cached signature signs -/
  signed : Option Nat
deriving DecidableEq, Repr

/-- The stateful part of a key slot (R171 to R181). -/
structure Stateful where
  space : Nat
  start : Nat
  nextBlock : Nat
  /-- the next free index and the end of the live block -/
  live : Option (Nat × Nat)
  /-- the block of the open reservation -/
  opened : Option Nat
  /-- jobs that joined the open reservation, in dispatch order -/
  joined : List Nat
  detached : Bool
  levels : Nat
  /-- the height of one level -/
  height : Nat
  cacheBlocks : Nat
  /-- the tree cache, the lowest level first -/
  cache : List CacheLevel
deriving DecidableEq, Repr

/-- One local key slot or resident public key (R323 to R330). The value is held as two shares whose
exclusive or is the value (R331); the state holds the value. (DESIGN CHOICE, log entry 110) -/
structure Key where
  live : Bool
  withdrawn : Bool
  type : W16
  usage : BitVec 8
  lcmask : BitVec 8
  exportable : Bool
  admin : Bool
  origin : Nat
  func : Option Nat
  persisted : Bool
  keyBytes : Nat
  binding : List Byte
  priv : List Byte
  pub : List Byte
  stateful : Option Stateful
  /-- SWM blocks of a resident key (R185) -/
  blocks : Nat
  /-- tr of an ML-DSA key: the hash of its public part (R160) -/
  tr : List Byte
deriving DecidableEq, Repr

/-- The Maze context of a routine's CALLM requests (R233, R258): its algorithm and what it has absorbed. -/
structure MazeCtx where
  alg : Nat
  absorbed : List Byte
deriving DecidableEq, Repr

/-- A CALLM request: its action, algorithm, the bytes to absorb, and where the result goes (R233, R258). -/
structure Callm where
  action : Nat
  alg : Nat
  data : List Byte
  resultAt : Nat
  resultLen : Nat
deriving DecidableEq, Repr

/-- One fetched job: its entry, how far it has come, and what its completion will report. -/
structure Job where
  entry : Entry
  /-- windows, curve policy and constant-envelope default in force when the entry was fetched (R92, R122) -/
  windows : KMap Window
  curves : BitVec 7
  /-- fetch order over the whole device -/
  order : Nat
  arrival : Nat
  phase : JobPhase
  /-- fragment walk: data fragments so far, the next table, entries counted (R86) -/
  frags : List (W64 × Nat)
  table : Option (W64 × Nat)
  walked : Nat
  fragSum : Nat
  /-- bytes of the table or of the input that data reads have requested (R63) -/
  asked : Nat
  /-- input bytes landed, and the operand input after sealed decryption (R95) -/
  landed : List Byte
  input : List Byte
  /-- a sealed input has been verified and decrypted (R99), and the channel key that opened it (R340) -/
  opened : Bool
  sealKey : List Byte
  /-- every check of Table 4-6 has passed (R97) -/
  checked : Bool
  inl : BitVec 128
  /-- the residence: unit 0 to 11 and number 0 to 7; the tick since it waits for one (R47) -/
  place : Option (Nat × Nat)
  waitFrom : Nat
  evicted : Bool
  restoring : Nat
  dispatch : Nat
  dispatchOrder : Nat
  shared : Bool
  /-- the slices still to run, by class, in order (R533) -/
  plan : List (UnitClass × Nat)
  /-- housekeeping slices before the first slice, and after it (R180, R181, R238) -/
  houseBefore : Nat
  houseAfter : Nat
  done : Nat
  startTick : Nat
  endTick : Nat
  /-- the last tick in which a slice or housekeeping slice of the job ran -/
  lastTick : Nat
  lastReady : Nat
  draws : List Draw
  drawn : List Byte
  /-- the bytes drawn so far are in place from this tick (R314) -/
  drawReady : Nat
  waits : List Wait
  key : Option Key
  keyRef : Option Nat
  slot : Option Nat
  resident : Option Nat
  /-- a state slot or a curve index kept for the job (R202, R296) -/
  held : Option Nat
  index : Nat
  remaining : Nat
  /-- signing candidates computed, whether one of them has passed, and whether the next is being computed (R155) -/
  attempts : Nat
  accepted : Bool
  trying : Bool
  abandons : Nat
  /-- its next slice repeats an abandoned one (R238) -/
  rerun : Bool
  aborted : Bool
  /-- a quiesce discards it without a completion (R70) -/
  discard : Bool
  flags : BitVec 8
  status : Status
  fault : W64
  output : List Byte
  /-- the status and the output of END in a vendor routine (R230, R259) -/
  ended : Option (Status × List Byte)
  result : BitVec 128
  /-- statuses an admin command carries in its RESULT (R106) -/
  reason : Nat
  effect : W64
  detail : BitVec 48
  decidedAt : Nat
  /-- bytes of output already handed to the transaction layer (R53, R162) -/
  written : Nat
  /-- a running digest: the context copy of R290 -/
  context : List Byte
  maze : Option MazeCtx
  /-- the CALLM request whose Maze slices are due -/
  callm : Option Callm
  /-- a free number of this dispatch, from which open values of the job are taken -/
  fresh : Nat
deriving DecidableEq, Repr

/-! ## Part 3: the Bandstand (02_bandstand.md) and its units -/

/-- One residence: a plot of a parterre or an operand set of an Orangery engine (R45). -/
structure Residence where
  holder : Option Nat
  pool : Bool
  job : Option Nat
  /-- the tick of the last slice that ran from it; none counts as oldest (R235) -/
  lastUse : Option Nat
  /-- the residence is zeroed at this tick (R48) -/
  zeroAt : Option Nat
deriving DecidableEq, Repr

/-- One entry of the slot-table procedure: allotment (4096 is the pool), weight, counter (R41). -/
structure SlotEntry where
  id : Nat
  weight : Nat
  cur : Int
deriving DecidableEq, Repr

/-- The kinds of bay decision of the dump's SCHEDULER section (Table 21-5). -/
inductive BayKind where
  | leased | pool | lent | decoy | housekeeping | idle | bist
deriving DecidableEq, Repr

/-- One bay decision. -/
structure Bay where
  tick : Nat
  unit : Nat
  kind : BayKind
  allot : Option Nat
  residence : Option Nat
  job : Option Nat
deriving DecidableEq, Repr

/-- A mask generator (R223 to R225): whether each state is seeded, the squeeze tick, the request. -/
structure MaskGen where
  seeded : Bool
  standby : Bool
  squeezeTick : Nat
  requested : Bool
  delivered : Bool
  restartAt : Nat
deriving DecidableEq, Repr

/-- Eviction work in progress on a unit: the job moved and its slices left (R46, R47). -/
structure Eviction where
  job : Nat
  residence : Nat
  left : Nat
  /-- the job that takes the residence afterwards -/
  next : Option Nat
deriving DecidableEq, Repr

/-- What a lane holds live: a digest context, or the context of a job's routine or CALLM request (R293). -/
inductive LaneCtx where
  | digest (n : Nat)
  | routine (k : Nat)
deriving DecidableEq, Repr

/-- One scheduled unit, 0 to 11 in the order of Table 1-2. -/
structure UnitSt where
  slots : List SlotEntry
  /-- the bay of the present tick, and the jobs that run in it: one, or one for each lane in use -/
  bay : Option Bay
  running : List Nat
  /-- the contexts live on each of four lanes, most recently used first (R293) -/
  lanes : List (List LaneCtx)
  /-- pool positions and leased bays passed in this epoch -/
  poolSeen : Nat
  leasedSeen : KMap Nat
  members : List Nat
  ptr : Nat
  deficits : KMap Nat
  residences : List Residence
  /-- residences shed at the next boundary (R38, R47) -/
  shedding : List Nat
  /-- pool residences whose new holder's evicted job the first fixed positions of the epoch restore (R46) -/
  incoming : List Nat
  evictions : List Eviction
  mask : MaskGen
  /-- block reset: the tick of isolation (R465), and whether it has returned -/
  resetAt : Option Nat
  resetWindow : Option (Nat × Nat)
  resets : Nat
  inBist : Bool
  halted : Bool
  slices : Nat
  housekeeping : Nat
  idleBays : Nat
  decoys : Nat
  abandonments : Nat
  corrected : Nat
  uncorrectable : Nat
  lastRoutine : W32
deriving DecidableEq, Repr

/-- The Bandstand's own state (R31, R32, R45, R51). -/
structure Sched where
  tick : Nat
  handOut : Nat
  /-- leases of destroyed allotments until their bays become pool positions: allotment, epoch, lease (R113) -/
  ghosts : List (Nat × Nat × Lease)
  dedicated : KMap Nat
  /-- dedicated turns whose holder has been destroyed; nobody uses them before the next epoch (R32, R51) -/
  freedTurns : List Nat
  rotation : List Nat
  /-- allotments whose fetch turns of this tick are spent, with the turns used -/
  served : KMap Nat
  fetchSeq : Nat
  dispatchSeq : Nat
  bays : List Bay
deriving DecidableEq, Repr

/-! ## Part 4: the host link (03_host_link.md) -/

/-- One PCIe function: PF0 is 0, VF v is v (R58, R63, R67, R70). -/
structure Func where
  mse : Bool
  bme : Bool
  mps : Nat
  mrrs : Nat
  tag10 : Bool
  relaxed : Bool
  msixEnable : Bool
  functionMask : Bool
  /-- vectors whose mask bit is set, and vectors whose PBA bit is set -/
  masked : List Nat
  pba : List Nat
  d3hot : Bool
  /-- the MSI-X table's message address and data by vector; zero where not listed (R59) -/
  table : KMap (W64 × W32)
  /-- AER status of uncorrectable and correctable errors, the header of the first, and its place (R72) -/
  aerUncor : W32
  aerCor : W32
  aerHeader : BitVec 128
  aerFirst : Nat
  /-- what the host wrote to BAR registers and to other configuration words that only keep it, by offset -/
  config : KMap W32
deriving DecidableEq, Repr

/-- What the device hands to the transaction layer, in order (R64, R84), and what it answers on the SMBus and through
JTAG (R482, R525). -/
inductive Outbound where
  | write (func : Nat) (addr : W64) (bytes : List Byte) (relaxed : Bool)
  | msix (func : Nat) (vector : Nat) (addr : W64) (data : W32)
  | read (func : Nat) (tag : Nat) (addr : W64) (len : Nat)
  | reply (value : W64)
  /-- a read is answered with Unsupported Request (Table 3-8) -/
  | unsupported
  /-- an error message; severity 0 correctable, 1 non-fatal, 2 fatal -/
  | aer (func : Nat) (error : AerError) (severity : Nat)
  | smbus (value : Nat)
  | jtag (bytes : List Byte)
deriving DecidableEq, Repr

/-- The host link. -/
structure Link where
  up : Bool
  speed : Nat
  width : Nat
  perst : Bool
  funcs : KMap Func
  vfEnable : Bool
  numVfs : Nat
  pageSize : W32
  ari : Bool
  credit : Bool
  /-- the tick from which no posted credit is granted -/
  stalledSince : Nat
  held : List Outbound
  out : List Outbound
  aerLog : List (Nat × AerError × BitVec 128)
deriving DecidableEq, Repr

/-! ## Part 5: digest contexts, curves, kept operands (12_digest.md, 08_orangery.md) -/

/-- A digest context (R287, R299): its PSET, the blocks absorbed, the 200-byte state, and for a keyed
context the handle and the outer state of HMAC. -/
structure DigestCtx where
  pset : BitVec 8
  keyed : Bool
  blocks : Nat
  state : List Byte
  outer : List Byte
  keyh : W64
deriving DecidableEq, Repr

/-- A state slot (R295): the key it was prepared from and the precomputed state. -/
structure StateSlot where
  keyh : W64
  pset : BitVec 8
  blocks : Nat
  state : List Byte
  outer : List Byte
deriving DecidableEq, Repr

/-- A loaded curve (R201, R202, R204). `live` is false while the index is only reserved. -/
structure Curve where
  live : Bool
  unloading : Bool
  pbits : Nat
  nbits : Nat
  measurement : List Byte
  image : List Byte
  /-- the fetch order up to which jobs may still name an unloading index -/
  unloadOrder : Nat
deriving DecidableEq, Repr

/-- A kept operand (R213). -/
structure Kept where
  words : Nat
  value : Nat
deriving DecidableEq, Repr

/-! ## Part 6: the Fountain (13_fountain.md) -/

/-- One noise cell (R303 to R309, Tables 13-3 and 13-5). -/
structure Cell where
  stateCode : Nat
  passes : Nat
  lastCause : Nat
  fails : Nat
  /-- the sample index at which its present window began; none while it waits for an epoch boundary -/
  windowStart : Option Nat
  /-- the failures of R305 since its retest window began: the sample index, and whether the proportion test failed -/
  failures : List (Nat × Bool)
  sample : Nat
  bias : W16
  corr : List W16
  windows : Nat
  /-- accepted conditioned bits in its buffer -/
  accepted : Nat
  biasLim : W16
  corrLim : W16
deriving DecidableEq, Repr

/-- A posted draw of a holder: a job, or a device use; bytes left, fresh, the reseed count at posting. -/
structure Posted where
  job : Option Nat
  bytes : Nat
  fresh : Bool
  reseedsAt : Nat
deriving DecidableEq, Repr

/-- The Fountain (R303 to R322). -/
structure Fountain where
  started : Bool
  ready : Bool
  supplyFailed : Bool
  startupExpired : Bool
  rawMode : Bool
  cells : List Cell
  biasLim : W16
  corrLim : W16
  patternEn : Bool
  pattern : W32
  pool : List Byte
  poolChunks : Nat
  /-- the seed that takes effect at the next generate-slot boundary -/
  seed : Option (List Byte)
  drbgKey : List Byte
  drbgV : List Byte
  instantiated : Bool
  stopped : Bool
  reseeds : Nat
  /-- what `reseeds` was when the Fountain became ready -/
  readyReseeds : Nat
  slotNumber : Nat
  reseedTick : Nat
  frameSlot : Nat
  frame : Nat
  members : List Nat
  nextMembers : List Nat
  /-- draws waiting, by holder: allotment, or 4096 + slot for slots 0 to 7 other than 4 -/
  queue : KMap (List Posted)
deriving DecidableEq, Repr

/-! ## Part 7: the Icehouse (14_icehouse.md) -/

/-- What the key image keeps of a pairing (R392, R435). -/
structure TwinPart where
  pairKey : List Byte
  peerId : W64
  west : Bool
  pairCounter : Nat
  handleKey : Option (List Byte)
  peerVault : Option (List Byte)
deriving DecidableEq, Repr

/-- What one key-image page carries of an allotment: its keys, generations and definition; allotment 0's page
carries the device's own items (R332, R463). -/
structure ImagePart where
  allot : Nat
  keys : KMap Key
  gens : KMap Nat
  definition : Option Allotment
  secret : Option (List Byte)
  enrolCount : Nat
  twin : Option TwinPart
  wrap : List Byte
deriving DecidableEq, Repr

/-- What the key image on the Vault media holds (R332). -/
structure KeyImage where
  allots : KMap Allotment
  keys : KMap Key
  gens : KMap Nat
  secret : Option (List Byte)
  enrolCount : Nat
  twin : Option TwinPart
  /-- the key-image key it is encrypted under -/
  wrap : List Byte
deriving DecidableEq, Repr

/-- The Icehouse (R323 to R348). -/
structure Ice where
  ready : Bool
  /-- 0 none, 1 test, 2 production, 3 debug (Table 14-12) -/
  root : Nat
  imageLoaded : Bool
  imageLost : Bool
  /-- the key image is neither read nor written after a volatile clear (R344) -/
  imageSuspended : Bool
  opsRoot : List Byte
  scramble : List Byte
  wrapKey : List Byte
  keys : KMap Key
  gens : KMap Nat
  residents : KMap Key
  residentGens : KMap Nat
  stateSlots : KMap StateSlot
  secret : Option (List Byte)
  enrolCount : Nat
  quoteCount : Nat
  /-- the live block of the quote counter, its next unreserved block, and the block being reserved -/
  quoteLive : Option (Nat × Nat)
  quoteNext : Nat
  quoteOpened : Option Nat
  quoteJoined : List Nat
  exportNonce : Nat
  /-- key-image changes that wait for an append turn: number, allotment (R332) -/
  changes : List (Nat × Nat)
  changeSeq : Nat
  /-- key slots whose tree cache waits for an append turn (R181) -/
  cacheDue : List Nat
  refreshSeeded : List Bool
  refreshStandby : List Bool
  clearing : Bool
  erased : Bool
deriving DecidableEq, Repr

/-! ## Part 8: the event log, the dump and self-test (21_errors_dump_bist.md) -/

/-- An event record without its ring flags (Table 21-1). -/
structure Event where
  first : Bool
  cls : Nat
  code : W16
  allot : W16
  unit : BitVec 8
  source : BitVec 8
  tick : Nat
  count : Nat
  detail : List Byte
deriving DecidableEq, Repr

/-- The event log (R468 to R475, R487). -/
structure EventLog where
  base : W64
  size : W32
  ring : W64
  ringLog : Nat
  enable : Bool
  notice : Bool
  vector : Nat
  prod : Nat
  cons : Nat
  modReg : W32
  configError : Bool
  ffcValid : Bool
  ffc : List Byte
  fifo : List Event
  drops : Nat
  dropped : Nat
  counts : List Nat
  /-- the last records written, as they were written -/
  history : List (List Byte)
  pendCount : Nat
  pendSince : Nat
  lastWrite : Option Nat
deriving DecidableEq, Repr

/-- The fatal dump (R478 to R482, R487). -/
structure Dump where
  base : W64
  size : W32
  enable : Bool
  onGlobal : Bool
  vaultCopy : Bool
  delivered : Bool
  /-- the fatal path: the tick of FATAL_N, the error, the unit, the cause of the reset that follows -/
  active : Option (Nat × Nat × Nat × Nat)
  /-- sections written so far, by TYPE, with their bytes -/
  sections : KMap (List Byte)
  truncated : Bool
  /-- the newest Vault copy on the media: its boot count, its parts by offset, and whether it has been delivered -/
  mediaCopy : Option (Nat × List (Nat × List Byte))
  mediaDelivered : Bool
deriving DecidableEq, Repr

/-- Self-test (R483 to R487). -/
structure Bist where
  running : Bool
  part : Nat
  partActive : Bool
  partsLeft : List Nat
  startEpoch : Option Nat
  startTick : Option Nat
  mismatch : Nat
  signatures : List W64
  output : List Byte
  job : Option Nat
  ended : Bool
deriving DecidableEq, Repr

/-! ## Part 9: the Thadex journal (18_thadex_journal.md) -/

/-- A record that is pending or assembled (R410, R411). -/
structure JRecord where
  id : Nat
  type : Nat
  subtype : Nat
  allot : W16
  holder : Nat
  flags : Nat
  body : List Byte
deriving DecidableEq, Repr

/-- A slot of a JOURNAL page: an assembled record, or a signature chunk (R412). -/
structure JSlot where
  chunk : Bool
  seq : Nat
  id : Nat
  bytes : List Byte
deriving DecidableEq, Repr

/-- What a page of the Vault carries (R390, R394, R412, R482, R499). -/
inductive PageContent where
  | journal (slots : List JSlot)
  | keyImage (part : ImagePart)
  /-- the tree cache of a key, by its handle (R181) -/
  | cache (key : W64) (levels : List CacheLevel)
  | history (records : List (List Byte))
  /-- bytes of a fatal dump from an offset -/
  | dump (at' : Nat) (bytes : List Byte)
  /-- a page of a checkpoint; its last one carries CKPT_LAST -/
  | checkpoint (last : Bool)
deriving DecidableEq, Repr

/-- A page that has been assembled and is being programmed (R415). -/
structure PageInFlight where
  number : Nat
  holder : Nat
  /-- its program sequence number (R391) -/
  pseq : Nat
  content : PageContent
  /-- the key-image changes that it makes durable -/
  changes : List Nat
  /-- the page may lie in the security reserve -/
  security : Bool
  die : Nat
  block : Nat
deriving DecidableEq, Repr

/-- The Thadex journal (R410 to R427). -/
structure Journal where
  nextId : Nat
  next : Nat
  head : List Byte
  hsnAssembled : Nat
  hsnDurable : Nat
  lastHsSeq : Nat
  sinceHs : Nat
  hsTime : Nat
  firstTime : Nat
  signing : Option (Nat × List Byte)
  chunks : List (Nat × List Byte)
  pending : List JRecord
  slots : List JSlot
  position : Nat
  round : Nat
  members : List Nat
  nextMembers : List Nat
  unmounting : Bool
  /-- export ring (Table 18-7) -/
  jxBase : W64
  jxSize : W32
  jxRing : W64
  jxLog : Nat
  jxEnable : Bool
  jxReplay : Bool
  jxConfigError : Bool
  jxProd : Nat
  jxCons : Nat
  jxReplaySeq : W64
  /-- slots on their way to the export ring, in order -/
  exporting : List JSlot
deriving DecidableEq, Repr

/-! ## Part 10: life cycle, one-time-programmable memory and debug (15_lifecycle_debug.md) -/

/-- The one-time-programmable memory (R349 to R352, R361, R362, R460). -/
structure Otp where
  lcWords : List W32
  deviceId : W64
  patchKey : List Byte
  seed0 : List Byte
  seed1 : List Byte
  codeHash : List Byte
  debugHash : List Byte
  anchorHash : List Byte
  subsystem : W32
  /-- the fuses as sensed at stage 2, and as programmed since (R361, R362) -/
  fuseTamper : W16
  fuseVariant : BitVec 3
  tamperBits : W16
  variantBits : BitVec 3
  rollback : Nat
  biasLim : W16
  corrLim : W16
  sdlThresh : Nat
  /-- hard thresholds of sources 6 to 10 as GH_HARD shows them (R364) -/
  hard : List W32
deriving DecidableEq, Repr

/-- Life-cycle state in force and debug unlock (R354, R360, R363, R517, R518). -/
structure LifeCycle where
  inForce : Nat
  pending : Nat
  illegal : Bool
  debug : Bool
  nonce : Option (List Byte)
  scope : W16
  halt : BitVec 12
  /-- the last DBG_HALT write was ignored (R518) -/
  haltRefused : Bool
  tokens : W32
  /-- the life-cycle words as last read -/
  words : List W32
deriving DecidableEq, Repr

/-! ## Part 11: the Gatehouse and the Lodge (16_gatehouse_lodge.md) -/

/-- One tamper source: its soft configuration (Table 5-6) and what it has counted (R367, R368, R383). -/
structure Source where
  thresh : W32
  resp : Nat
  enable : Bool
  rateN : Nat
  rateWin : Nat
  readingA : W32
  readingB : W32
  count : Nat
  window : Option (Nat × Nat)
  /-- the fixed hard window of source 14 -/
  hardWindow : Option (Nat × Nat)
  excursion : Bool
  disagreements : Nat
  /-- a hard condition persists (R366) -/
  hardNow : Bool
deriving DecidableEq, Repr

/-- A response that waits for its tick boundary (R369, R372): source, level, hard. -/
structure Response where
  source : Nat
  level : Nat
  hard : Bool
  tick : Nat
deriving DecidableEq, Repr

/-- The Gatehouse (R364 to R383). -/
structure Gatehouse where
  calibrated : Bool
  eraseActive : Bool
  whileOff : Bool
  batteryLost : Bool
  locked : Bool
  level : Nat
  alert : W16
  sources : List Source
  responses : List Response
  quiesced : Bool
  /-- a response that is executing, by level (R372); and the records END_OF_LIFE waits for (R374) -/
  executing : Nat
  eolRecords : List Nat
  eolSince : Nat
deriving DecidableEq, Repr

/-- One entry of the Lodge ring (Table 16-3). -/
structure RingEntry where
  time : W64
  source : BitVec 8
  kind : BitVec 8
  level : BitVec 8
  forwarded : Bool
  count : Nat
  mask : W16
  /-- the journal record that forwards it -/
  record : Option Nat
deriving DecidableEq, Repr

/-- The Lodge: kept through every reset, lost only with the battery (R376 to R381, R453). -/
structure Lodge where
  battery : Bool
  kek : Option (List Byte)
  sticky : W16
  holds : W16
  ring : List RingEntry
  overflow : Bool
  secTime : W64
  timeValid : Bool
  timeLost : Bool
  bootCount : W32
  failures : Nat
  /-- an alarm on battery alone that the next power-up reports, by source (R379, R380) -/
  offAlarm : Option Nat
  /-- the cell was lost with main power absent, and no power-up has yet seen it (R380) -/
  lost : Bool
  /-- consecutive LPO samples beyond the hard condition of mesh loops 0 to 3, case switches 4 and 5, and VBAT -/
  runs : List Nat
deriving DecidableEq, Repr

/-! ## Part 12: reset and boot (20_reset_boot.md) -/

/-- The reset sequencer, the straps and the boot steps (R449 to R467). -/
structure Boot where
  power : Bool
  porst : Bool
  stage : Nat
  /-- domains of stage 6 released so far -/
  domains : Nat
  step : Nat
  error : BitVec 8
  cause : BitVec 8
  straps : BitVec 6
  pllTries : Nat
  pllLocked : Bool
  thermalHold : Bool
  ready : Bool
  sysReady : Bool
  fatalN : Bool
  /-- boot stopped for good until a power-on or full reset (R452, R453, R460) -/
  halted : Bool
  imageA : BitVec 8
  imageB : BitVec 8
  running : Nat
  bootAddr : W64
  bootLen : W32
  bootGo : Bool
  downloaded : Bool
  blockResets : Nat
  rollback : Nat
  minPatch : Nat
  firmware : List Byte
  /-- the boot directory that step 1 read (R457) -/
  directory : List Byte
  /-- SECURITY_EVENT of R462 is still to be written at the first mount -/
  causeDue : Bool
  bstReleased : Bool
deriving DecidableEq, Repr

/-! ## Part 13: the Vault (17_vault_media.md) -/

/-- The streams of Table 17-3. -/
inductive Stream where
  | journal | keyImage | cache | history | dump | system
deriving DecidableEq, Repr

/-- The states of an erase block. -/
inductive BlockState where
  | free | opened | closed | eraseQueued | factoryBad | grownBad
deriving DecidableEq, Repr

/-- A page header by the fields of Table 17-3. -/
structure PageHead where
  stream : Stream
  checkpointLast : Bool
  relocated : Bool
  pseq : Nat
  segSeq : Nat
  erases : Nat
  vaultId : List Byte
deriving DecidableEq, Repr

/-- A programmed page of a block: its header, its content, and whether it is valid, not stale (R393). -/
structure MediaPage where
  head : PageHead
  content : PageContent
  valid : Bool
deriving DecidableEq, Repr

/-- One erase block (R393 to R400), with its programmed pages from page 0 on. -/
structure Block where
  state : BlockState
  stream : Stream
  written : List MediaPage
  erases : Nat
  reads : Nat
  stamp : W64
  /-- taken from the security reserve (R403) -/
  reserve : Bool
  refreshDue : Bool
  scrubDue : Bool
  /-- pages read so far by the scrub in progress -/
  scrubbed : Nat
deriving DecidableEq, Repr

/-- One die (R384, R407). -/
structure Die where
  channel : Nat
  target : Nat
  lun : Nat
  failed : Bool
  timeouts : Nat
  blocks : List Block
  eraseQueue : List Nat
deriving DecidableEq, Repr

/-- What Read ID and the parameter pages of a channel's dies report (R385, R386). -/
structure MediaReport where
  onfi : Bool
  slc : Bool
  pageBytes : Nat
  spareBytes : Nat
  pagesPerBlock : Nat
  blocksPerDie : Nat
  timingModes : Nat
  progMax : Nat
  eraseMax : Nat
  endurance : Nat
deriving DecidableEq, Repr

/-- What a housekeeping slot serves (R402): class 1 to 9 of the rule's order, die and block. -/
structure Chore where
  cls : Nat
  die : Nat
  block : Nat
deriving DecidableEq, Repr

/-- One packing FIFO (R404 to R406). A word is its valid bytes, its END and its TIMEOUT tag. -/
structure PackFifo where
  words : List (Nat × Bool × Bool)
  reserved : Nat
  assembling : Nat
  lastPair : Nat
  unitLeft : Nat
  timeouts : Nat
deriving DecidableEq, Repr

/-- The media as it stands whether or not it is mounted: kept through every reset (R463). -/
structure Media where
  dies : List Die
  report : Option MediaReport
  /-- whose format: 0 none, 1 this device, 2 the twin, 3 another -/
  formattedBy : Nat
  nonce : List Byte
  /-- the root the format was made under: 1 test, 2 production -/
  formatRoot : Nat
  clean : Bool
  pseq : Nat
  image : Option KeyImage
  journal : List JSlot
  /-- index blocks named by COUNTER_RESERVE records: key handle, first value, count -/
  reserved : List (W64 × Nat × Nat)
  caches : List W64
  history : List (List Byte)
deriving DecidableEq, Repr

/-- A channel's NV-DDR3 timing mode, and the lengths of its slots in µs (R385, R401). -/
structure ChannelTiming where
  mode : Nat
  slotUs : Nat
  eraseUs : Nat
deriving DecidableEq, Repr

/-- What configuration of the channels found: the dies by their bits of VLT_DIES, their report, and the timing of NA and NB
(R385, R401, R409). -/
structure Fitted where
  dies : List Nat
  report : MediaReport
  timing : List ChannelTiming
deriving DecidableEq, Repr

/-- Media that a VAULT_FORMAT has prepared and not yet written: the media as it will stand, and its channels (R130, R401). -/
structure Formatting where
  media : Media
  fitted : Option Fitted
deriving DecidableEq, Repr

/-- The block reset of a unit without bays: the tick of isolation, the window of R477, and the resets so far. -/
structure BlockReset where
  at' : Option Nat
  window : Option (Nat × Nat)
  count : Nat
deriving DecidableEq, Repr

/-- The Vault controller (R384 to R409). -/
structure Vault where
  block : BlockReset
  media : Media
  mounted : Bool
  readOnly : Bool
  foreign : Bool
  unclean : Bool
  recovering : Bool
  full : Bool
  reserveInUse : Bool
  formatting : Bool
  /-- what VAULT_FORMAT will write once its commit is done (R109, R130) -/
  prepared : Option Formatting
  /-- the channels as VAULT_MOUNT or VAULT_FORMAT configured them last (R385) -/
  fitted : Option Fitted
  reason : W32
  corrected : Nat
  uncorrectable : Nat
  highest : Nat
  sinceCheckpoint : Nat
  chores : List Chore
  flight : List PageInFlight
  nextPage : Nat
  rework : List PageInFlight
  fifos : List PackFifo
  writeEnable : List Bool
  erasing : List (Nat × Nat)
  cyclesFrom : Nat
  /-- pages that were uncorrectable or cut short once: die, block, page -/
  suspect : List (Nat × Nat × Nat)
  /-- the journal slots of a foreign mount (R392) -/
  visiting : List JSlot
  /-- events held while no Vault is mounted are in the journal's pending list (Table 1-6) -/
  mountedThisBoot : Bool
deriving DecidableEq, Repr

/-! ## Part 14: the Footbridge (19_footbridge.md) -/

/-- A frame this device sends or receives (Table 19-1). -/
structure Frame where
  type : Nat
  last : Bool
  isSealed : Bool
  holder : Nat
  fseq : Nat
  tseq : Nat
  segment : Nat
  payload : List Byte
deriving DecidableEq, Repr

/-- An open commit of this device (R438 to R441): its holder, the mirrored item, the records of its own that
are not durable yet, whether the twin has acknowledged, and the job that waits for it. -/
structure Commit where
  tseq : Nat
  holder : Nat
  kind : Nat
  item : Nat
  contents : List Byte
  records : List Nat
  acked : Bool
  /-- COMMIT has been posted -/
  committing : Bool
  /-- the tick in which the last segment of PREPARE left -/
  sentAt : Option Nat
  job : Option Nat
deriving DecidableEq, Repr

/-- A change staged for the twin (R439, R441). -/
structure Staged where
  tseq : Nat
  holder : Nat
  kind : Nat
  item : Nat
  contents : List Byte
  /-- its own journal records that are not durable yet -/
  records : List Nat
  acked : Bool
  inDoubt : Bool
deriving DecidableEq, Repr

/-- The Footbridge (R428 to R448). -/
structure Bridge where
  block : BlockReset
  present : Bool
  linkUp : Bool
  lanes : Nat
  retrains : Nat
  retrainAt : Nat
  paired : Bool
  twinId : W64
  pairCounter : Nat
  pairKey : Option (List Byte)
  linkKey : Option (List Byte)
  ownNonce : Option (List Byte)
  peerNonce : Option (List Byte)
  fseqOut : Nat
  fseqIn : Nat
  sent : List Frame
  /-- the frames handed to the link, as bytes, the oldest first -/
  wire : List (List Byte)
  nakSince : Option Nat
  queue : KMap (List Frame)
  position : Nat
  round : Nat
  members : List Nat
  nextMembers : List Nat
  solo : Bool
  soloCause : Nat
  soloTick : Nat
  soloRecordSeq : Nat
  rejoining : Bool
  rejoinSince : Nat
  rejoinAuto : Bool
  peerReplayEnd : Bool
  rejoinRecord : Option Nat
  replayed : Nat
  applied : Nat
  hbLast : Nat
  hbDeadline : Nat
  tseqNext : Nat
  commits : KMap Commit
  committed : List Nat
  peerCommitted : Nat
  staged : List Staged
  commitsDone : Nat
  commitTimeouts : Nat
  naks : Nat
  resent : Nat
  discarded : Nat
  /-- the pairing ceremony: 0 idle, 1 to 6 the step of R435; its job and transcript -/
  ceremony : Nat
  ceremonySince : Nat
  ceremonyJob : Option Nat
  endorsement : List Byte
  helloOwn : List Byte
  helloPeer : List Byte
  kemEk : List Byte
  kemCt : List Byte
  sharedSecret : List Byte
  authSent : Bool
  authSeen : Bool
  stateCount : Nat
  stateHash : List Byte
  /-- the records that the pairing waits for: those of what it destroys, and TWIN PAIRED (R2, R435) -/
  pairRecords : List Nat
  /-- the twin's handle key, vault key and format nonce (kind 0x000E, R392) -/
  peerVault : Option (List Byte)
  peerHandleKey : Option (List Byte)
  handleKey : Option (List Byte)
  /-- channel keys, images and definitions received as mirrored state, by kind and item -/
  mirrored : KMap (List Byte)
  rejoinJob : Option Nat
  nonceDue : Bool
  /-- the multiple of 64 ticks whose heartbeat has been sent (R442) -/
  hbSent : Nat
  /-- the twin's next SEQ and head hash as last told (R411, R446) -/
  peerNext : Nat
  peerHead : List Byte
deriving DecidableEq, Repr

/-! ## Part 15: operating points and the Sundial (22_power_sundial.md) -/

/-- The Sundial, the AVSBus regulator and the thermal cap (R489 to R502). -/
structure Sundial where
  planned : Nat
  inForce : Nat
  unavailable : Bool
  avsFail : Bool
  floor : Bool
  throttled : Bool
  /-- the tick of the last reading of 105.0 °C or more (R498) -/
  hotAt : Nat
  /-- the thermal cap ends at the next epoch boundary -/
  capEnding : Bool
  /-- a planned point that a mount has read, for the next epoch boundary (R500) -/
  pendingPlanned : Option Nat
  /-- the tick of the last measurement -/
  measuredAt : Option Nat
  thresh : Nat
  pendingThresh : Option Nat
  setPoint : Nat
  margin : Nat
  worstSite : Nat
  validSites : Nat
  worstDelay : Nat
  window : Option Nat
  /-- consecutive measurements that met rule 4's condition -/
  run : Nat
  avsRead : W32
  voltageChanges : Nat
  pointChanges : Nat
  sites : List (Nat × Nat)
  changeCause : Nat
  glitchRef : Nat
  glitchDue : Option Nat
  lastChange : Nat
  lastStepUp : W64
  /-- the highest die temperature read since the last history record, in 0.1 °C, signed -/
  highTemp : Option W16
  history : List (List Byte)
deriving DecidableEq, Repr

/-! ## Part 16: registers with no other home (23_registers.md) -/

/-- The HIF counters, the BST view and the ADM block (R507, R511 to R515). -/
structure Regs where
  completions : Nat
  descReads : Nat
  bstSel : W32
  bstSelNext : Option W32
  /-- the view of BST_SEL and the jobs in flight, both as at the last tick boundary (R507, R511) -/
  view : List W64
  inflightView : Nat
  admBase : W64
  admCtrl : W64
  admWinBase : W64
  admWinLimit : W64
  admEnabled : Bool
  admDraining : Bool
  admConfigError : Bool
  admReason : Nat
  /-- the admin command executing (R103, R513) -/
  admJob : Option Nat
  /-- corrected and uncorrectable errors of the blocks that are no scheduled units, by UNIT (Table 21-5) -/
  corrected : KMap Nat
  uncorrectable : KMap Nat
deriving DecidableEq, Repr

/-! ## Part 17: control stores (11_control_stores.md) -/

/-- One routine-table entry of the Open store (Table 11-8). -/
structure Routine where
  start : Nat
  words : Nat
  maxOut : Nat
  sliceLimit : Nat
  keyUse : Nat
deriving DecidableEq, Repr

/-- An Open-store image (Table 11-7). -/
structure OpenImage where
  id : W32
  routines : List Routine
  code : List W32
  measurement : List Byte
  /-- the image as it was loaded, which a pairing sends (R436) -/
  bytes : List Byte
deriving DecidableEq, Repr

/-- The Trellis and the Open store (R263 to R276, R516). -/
structure Stores where
  loadStatus : BitVec 8
  loaded : Bool
  patchLevel : W32
  match64 : List W64
  patchWords : List W32
  trellisLocked : Bool
  patchMeasurement : List Byte
  image : Option OpenImage
  pending : Option (Nat × OpenImage)
  /-- the tick until which an installation writes the store (R276) -/
  busyUntil : Nat
deriving DecidableEq, Repr

/-! ## Part 18: the inside of a parterre (09_parterre.md, 10_vector_isa.md) -/

/-- One element of a vector register: two shares and the provenance bit (R217, R222). -/
structure Elem where
  s0 : W32
  s1 : W32
  prov : Bool
deriving DecidableEq, Repr

/-- How a value is held (Table 9-1). -/
inductive ShareMode where
  | unshared | arithmetic | boolean
deriving DecidableEq, Repr

/-- A mask register: 256 bits as two shares, whether they are shares, and the provenance bit. -/
structure MaskReg where
  s0 : BitVec 256
  s1 : BitVec 256
  shared : Bool
  prov : Bool
deriving DecidableEq, Repr

/-- A private Keccak core (R227, R253): its state in two shares of 200 bytes, and its position. -/
structure KCore where
  live : Bool
  shared : Bool
  finalised : Bool
  rate : Nat
  pos : Nat
  /-- bits of the byte at the position that sampling has taken (R254) -/
  bits : Nat
  s0 : List Byte
  s1 : List Byte
  prov : Bool
  busyUntil : Nat
deriving DecidableEq, Repr

/-- A segment of patch memory that stands for a ROM word: its first and last patch word, and the ROM address at which fetch
continues after it (R267, R268). -/
structure Segment where
  first : Nat
  last : Nat
  resume : Nat
deriving DecidableEq, Repr

/-- A slice context: scalars, masks, controls, core states and the routine address of the next slice (R228). -/
structure SliceCtx where
  pc : Nat
  /-- the routine address is a patch-memory word of this segment (R268) -/
  seg : Option Segment
  sregs : List W32
  mregs : List MaskReg
  vl : Nat
  wide : Bool
  signed : Bool
  mode : ShareMode
  vmod : Nat
  cores : List KCore
deriving DecidableEq, Repr

/-- One plot's 64 KiB, byte addressed, the word addresses whose provenance bit is set, and the slice context in its
words 7,936 to 8,191 (R222, R228). -/
structure Plot where
  mem : List Host.Cell
  prov : List Nat
  ctx : SliceCtx
deriving DecidableEq, Repr

/-- The SWM of an allotment, byte addressed, and the 64-bit words whose provenance bit is set (R235). -/
structure Swm where
  mem : List Host.Cell
  prov : List Nat
deriving DecidableEq, Repr

/-- The slice body of a parterre: its registers and how far it has run (R217, R228, R230, R281). -/
structure Body where
  active : Bool
  job : Nat
  plot : Nat
  pc : Nat
  /-- the body fetches from this segment of patch memory (R268) -/
  seg : Option Segment
  cycles : Nat
  vregs : KMap Elem
  /-- the mode in which each vector register was last written -/
  vmodes : KMap ShareMode
  sregs : List W32
  mregs : List MaskReg
  vl : Nat
  wide : Bool
  signed : Bool
  mode : ShareMode
  vmod : Nat
  cores : List KCore
  callm : Option Callm
  /-- plot halves first read, and first written, in this slice (R281) -/
  firstRead : List Nat
  firstWritten : List Nat
  /-- the chain: unit order of its last member and that member's destination (R236) -/
  chain : Option (Nat × Nat)
  /-- the fault that ended the body (Table 10-5, Table 11-9) -/
  fault : Option Nat
  /-- the outcome of END: status, first plot byte and length of the output (R259) -/
  outcome : Option (Status × Nat × Nat)
  ended : Bool
  committed : Bool
deriving DecidableEq, Repr

/-! ## The whole machine -/

/-- A clock domain of Table 1-5: its own reset and its own gate (R23). -/
structure Clock where
  reset : Bool
  gated : Bool
deriving DecidableEq, Repr

/-- The state of the device. -/
structure State where
  /-- commands that are waiting, first in, first out -/
  pending : List Instr
  /-- numbers the free values taken so far; the model's own field (see Config) -/
  freeCount : Nat
  boot : Boot
  /-- the domains of Table 1-5, in its order -/
  clocks : List Clock
  otp : Otp
  lc : LifeCycle
  lodge : Lodge
  gh : Gatehouse
  link : Link
  regs : Regs
  sched : Sched
  units : List UnitSt
  allots : KMap Allotment
  queues : KMap Queue
  jobs : KMap Job
  ice : Ice
  digests : KMap DigestCtx
  curves : KMap Curve
  kept : KMap Kept
  stores : Stores
  plots : KMap Plot
  /-- what vendor routines have moved to the SWM of each allotment (R235, R250) -/
  swm : KMap Swm
  evicted : KMap Plot
  bodies : List Body
  fountain : Fountain
  events : EventLog
  dump : Dump
  bist : Bist
  journal : Journal
  vault : Vault
  bridge : Bridge
  sundial : Sundial
deriving DecidableEq, Repr

/-- Why the machine stops with a fault. No command of the SDZ-9620 stops the device: every error is a
completion, an event, a reset or a dump. -/
inductive Fault where
  /-- raised by no meaning; safe -/
  | stopped
deriving DecidableEq, Repr

/-- Why a command has no meaning here. -/
inductive Refusal where
  /-- raised by an arm of the dispatch whose meaning is not written; safe -/
  | notModelled (mnemonic : String)
  /-- raised by every command whose operands break WellFormed: no such event exists; safe -/
  | illFormed
deriving DecidableEq, Repr

/-! ## Reset: power is on, PORST_N is low, nothing has been programmed, formatted, paired or sent -/

/-- A lease of nothing (R110). -/
def Lease.none : Lease := ⟨0, 0, 0, 0, 1, 1⟩

/-- Usage counters at zero (R512). -/
def Usage.zero : Usage := ⟨0, 0, 0, 0⟩

/-- A residence nobody holds. -/
def Residence.idle : Residence :=
  { holder := none, pool := false, job := none, lastUse := none, zeroAt := none }

/-- An unseeded mask generator (R225). -/
def MaskGen.unseeded : MaskGen :=
  { seeded := false, standby := false, squeezeTick := 0, requested := false, delivered := false, restartAt := 0 }

/-- A unit out of a full reset. -/
def UnitSt.idle : UnitSt :=
  { slots := [], bay := none, running := [], lanes := [[], [], [], []], poolSeen := 0, leasedSeen := [], members := [], ptr := 0, deficits := [],
    residences := List.replicate 8 Residence.idle, shedding := [], incoming := [], evictions := [],
    mask := MaskGen.unseeded, resetAt := none, resetWindow := none, resets := 0, inBist := false,
    halted := false, slices := 0, housekeeping := 0, idleBays := 0, decoys := 0, abandonments := 0,
    corrected := 0, uncorrectable := 0, lastRoutine := 0 }

/-- The Bandstand before its first tick (R31). -/
def Sched.start : Sched :=
  { tick := 0, handOut := 0, ghosts := [], dedicated := [], freedTurns := [], rotation := [],
    served := [], fetchSeq := 0, dispatchSeq := 0, bays := [] }

/-- A function's configuration space at reset (R58, R70); MRRS 512, MPS 128 and masked vectors are PCIe's defaults.
(PRESUMED, log entry 10) -/
def Func.reset : Func :=
  { mse := false, bme := false, mps := 128, mrrs := 512, tag10 := false, relaxed := true,
    msixEnable := false, functionMask := false, masked := List.range 256, pba := [], d3hot := false, table := [],
    aerUncor := 0, aerCor := 0, aerHeader := 0, aerFirst := 0, config := [] }

/-- The host link at reset: not trained. -/
def Link.reset : Link :=
  { up := false, speed := 0, width := 0, perst := true, funcs := [(0, Func.reset)], vfEnable := false,
    numVfs := 0, pageSize := 1, ari := false, credit := true, stalledSince := 0, held := [], out := [],
    aerLog := [] }

/-- A noise cell at reset (Table 13-3). -/
def Cell.reset : Cell :=
  { stateCode := 0, passes := 0, lastCause := 0, fails := 0, windowStart := some 0, failures := [], sample := 0,
    bias := 0, corr := [0, 0, 0, 0], windows := 0, accepted := 0, biasLim := 0x0600, corrLim := 0x0400 }

/-- The Fountain at reset (R322). -/
def Fountain.reset : Fountain :=
  { started := false, ready := false, supplyFailed := false, startupExpired := false, rawMode := false,
    cells := List.replicate 8 Cell.reset, biasLim := 0x0600, corrLim := 0x0400, patternEn := false,
    pattern := 0, pool := [], poolChunks := 0, seed := none, drbgKey := [], drbgV := [],
    instantiated := false, stopped := false, reseeds := 0, readyReseeds := 0, slotNumber := 0, reseedTick := 0,
    frameSlot := 0, frame := 0, members := [], nextMembers := [], queue := [] }

/-- The Icehouse at reset (R348). -/
def Ice.reset : Ice :=
  { ready := false, root := 0, imageLoaded := false, imageLost := false, imageSuspended := false,
    opsRoot := [], scramble := [], wrapKey := [], keys := [], gens := [], residents := [],
    residentGens := [], stateSlots := [], secret := none, enrolCount := 0, quoteCount := 0,
    quoteLive := none, quoteNext := 0, quoteOpened := none, quoteJoined := [],
    exportNonce := 0, changes := [], changeSeq := 0, cacheDue := [], refreshSeeded := [false, false, false, false],
    refreshStandby := [false, false, false, false], clearing := false, erased := false }

/-- The event log at reset (R487). -/
def EventLog.reset : EventLog :=
  { base := 0, size := 0, ring := 0, ringLog := 0, enable := false, notice := false, vector := 0,
    prod := 0, cons := 0, modReg := 0, configError := false, ffcValid := false,
    ffc := List.replicate 32 0, fifo := [], drops := 0, dropped := 0, counts := List.replicate 7 0,
    history := [], pendCount := 0, pendSince := 0, lastWrite := none }

/-- The dump registers at reset (R487). -/
def Dump.reset : Dump :=
  { base := 0, size := 0, enable := false, onGlobal := false, vaultCopy := false, delivered := false,
    active := none, sections := [], truncated := false, mediaCopy := none, mediaDelivered := true }

/-- Self-test at reset (R487). -/
def Bist.reset : Bist :=
  { running := false, part := 0, partActive := false, partsLeft := [], startEpoch := none,
    startTick := none, mismatch := 0, signatures := List.replicate 15 0, output := [], job := none,
    ended := false }

/-- The journal before any mount. -/
def Journal.reset : Journal :=
  { nextId := 0, next := 0, head := List.replicate 32 0, hsnAssembled := 0, hsnDurable := 0,
    lastHsSeq := 0, sinceHs := 0, hsTime := 0, firstTime := 0, signing := none, chunks := [],
    pending := [], slots := [], position := 0, round := 0, members := [], nextMembers := [],
    unmounting := false, jxBase := 0, jxSize := 0, jxRing := 0, jxLog := 0, jxEnable := false,
    jxReplay := false, jxConfigError := false, jxProd := 0, jxCons := 0, jxReplaySeq := 0,
    exporting := [] }

/-- One-time-programmable memory as it leaves manufacture: nothing programmed but the vendor's wafer-test
defaults of R307, R364 and R493. (DESIGN CHOICE, log entry 8) -/
def Otp.blank : Otp :=
  { lcWords := [0, 0, 0, 0], deviceId := 0, patchKey := List.replicate 32 0,
    seed0 := List.replicate 32 0, seed1 := List.replicate 32 0, codeHash := List.replicate 32 0,
    debugHash := List.replicate 32 0, anchorHash := List.replicate 32 0, subsystem := 0,
    fuseTamper := 0, fuseVariant := 0, tamperBits := 0, variantBits := 0, rollback := 0, biasLim := 0x0600, corrLim := 0x0400,
    sdlThresh := 60,
    hard := [0x03B60258, 0x083405DC, 0x000000C8, 0x00000064, 0x0514FDDA] }

/-- The life-cycle registers at reset (R363): BLANK. -/
def LifeCycle.blank : LifeCycle :=
  { inForce := 0, pending := 0, illegal := false, debug := false, nonce := none, scope := 0, halt := 0,
    haltRefused := false, tokens := 0, words := [0, 0, 0, 0] }

/-- A soft configuration that only logs (R375). -/
def Source.soft (thresh : W32) (resp : Nat) : Source :=
  { thresh := thresh, resp := resp, enable := true, rateN := 0, rateWin := 0, readingA := 0,
    readingB := 0, count := 0, window := none, hardWindow := none, excursion := false, disagreements := 0, hardNow := false }

/-- The default soft configuration of the sixteen sources (R375). -/
def Source.defaults : List Source :=
  [Source.soft 0 0, Source.soft 0 0, Source.soft 0 0, Source.soft 0 0, Source.soft 0 0, Source.soft 0 0,
   Source.soft 0x03840294 0, Source.soft 0x07BC0654 0, Source.soft 100 0, Source.soft 30 0,
   Source.soft 0x044CFE3E 0, Source.soft 5 0, Source.soft 0 0, Source.soft 2600 0, Source.soft 0 0,
   Source.soft 0 1]

/-- The Gatehouse at reset (R383). -/
def Gatehouse.reset : Gatehouse :=
  { calibrated := false, eraseActive := false, whileOff := false, batteryLost := false, locked := false,
    level := 0, alert := 0, sources := Source.defaults, responses := [], quiesced := false,
    executing := 0, eolRecords := [], eolSince := 0 }

/-- The Lodge with a fresh cell and no event behind it (R377). -/
def Lodge.fresh : Lodge :=
  { battery := true, kek := none, sticky := 0, holds := 0, ring := [], overflow := false, secTime := 0,
    timeValid := false, timeLost := false, bootCount := 0, failures := 0, offAlarm := none, lost := false, runs := List.replicate 7 0 }

/-- The sequencer in a power-on reset (R449, R451). -/
def Boot.reset : Boot :=
  { power := true, porst := true, stage := 0, domains := 0, step := 0, error := 0, cause := 1, straps := 0,
    pllTries := 0, pllLocked := false, thermalHold := false, ready := false, sysReady := false,
    fatalN := false, halted := false, imageA := 0, imageB := 0, running := 0, bootAddr := 0, bootLen := 0,
    bootGo := false, downloaded := false, blockResets := 0, rollback := 0, minPatch := 0,
    firmware := List.replicate 32 0, directory := [], causeDue := false, bstReleased := false }

/-- Media that has never been formatted, with no die known. (DEDUCED, log entry 14) -/
def Media.none : Media :=
  { dies := [], report := .none, formattedBy := 0, nonce := [], formatRoot := 0, clean := false, pseq := 0,
    image := .none, journal := [], reserved := [], caches := [], history := [] }

/-- A packing FIFO with nothing in it. -/
def PackFifo.empty : PackFifo :=
  { words := [], reserved := 0, assembling := 0, lastPair := 0, unitLeft := 0, timeouts := 0 }

/-- No block reset. -/
def BlockReset.none : BlockReset := { at' := Option.none, window := Option.none, count := 0 }

/-- The Vault controller at reset over given media (R409, R463). -/
def Vault.reset (m : Media) : Vault :=
  { block := BlockReset.none, media := m, mounted := false, readOnly := false, foreign := false, unclean := false,
    recovering := false, full := false, reserveInUse := false, formatting := false, prepared := none, fitted := none,
    reason := 0, corrected := 0, uncorrectable := 0,
    highest := 0, sinceCheckpoint := 0, chores := [], flight := [], nextPage := 0, rework := [],
    fifos := [PackFifo.empty, PackFifo.empty], writeEnable := [false, false], erasing := [],
    cyclesFrom := 0, suspect := [], visiting := [], mountedThisBoot := false }

/-- The Footbridge at reset, unpaired and with no link (R448). -/
def Bridge.reset : Bridge :=
  { block := BlockReset.none, present := false, linkUp := false, lanes := 0, retrains := 0, retrainAt := 0, paired := false,
    twinId := 0, pairCounter := 0, pairKey := none, linkKey := none, ownNonce := none, peerNonce := none,
    fseqOut := 0, fseqIn := 0, sent := [], wire := [], nakSince := none, queue := [], position := 0, round := 0,
    members := [], nextMembers := [], solo := false, soloCause := 0, soloTick := 0, soloRecordSeq := 0,
    rejoining := false, rejoinSince := 0, rejoinAuto := false, peerReplayEnd := false,
    rejoinRecord := none, replayed := 0, applied := 0, hbLast := 0, hbDeadline := 0, tseqNext := 1,
    commits := [], committed := [], peerCommitted := 0, staged := [], commitsDone := 0,
    commitTimeouts := 0, naks := 0, resent := 0, discarded := 0, ceremony := 0, ceremonySince := 0,
    ceremonyJob := none, endorsement := [], helloOwn := [], helloPeer := [], kemEk := [], kemCt := [],
    sharedSecret := [], authSent := false, authSeen := false, stateCount := 0, stateHash := [],
    pairRecords := [], peerVault := none, peerHandleKey := none, handleKey := none, mirrored := [],
    rejoinJob := none, nonceDue := false, hbSent := 0, peerNext := 0, peerHead := List.replicate 32 0 }

/-- The Sundial at reset (R489, R502). -/
def Sundial.reset : Sundial :=
  { planned := 3, inForce := 3, unavailable := false, avsFail := false, floor := false,
    throttled := false, hotAt := 0, capEnding := false, pendingPlanned := none, measuredAt := none, thresh := 60, pendingThresh := none,
    setPoint := 800, margin := 0, worstSite := 0, validSites := 0, worstDelay := 0, window := none,
    run := 0, avsRead := 0, voltageChanges := 0, pointChanges := 0,
    sites := List.replicate 24 (0, 0), changeCause := 0, glitchRef := 800, glitchDue := none,
    lastChange := 0, lastStepUp := 0, highTemp := none, history := [] }

/-- HIF, BST and ADM registers at reset (R507 to R513). -/
def Regs.reset : Regs :=
  { completions := 0, descReads := 0, bstSel := 0, bstSelNext := none, view := List.replicate 7 0, inflightView := 0, admBase := 0, admCtrl := 0,
    admWinBase := 0, admWinLimit := 0, admEnabled := false, admDraining := false,
    admConfigError := false, admReason := 0, admJob := none,
    corrected := [], uncorrectable := [] }

/-- No patch and no Open image (R272, R275). -/
def Stores.reset : Stores :=
  { loadStatus := 0, loaded := false, patchLevel := 0, match64 := List.replicate 64 0, patchWords := List.replicate 2048 0,
    trellisLocked := false, patchMeasurement := List.replicate 32 0, image := none, pending := none,
    busyUntil := 0 }

/-- A private core that holds nothing. -/
def KCore.idle : KCore :=
  { live := false, shared := false, finalised := false, rate := 0, pos := 0, bits := 0,
    s0 := List.replicate 200 0, s1 := List.replicate 200 0, prov := false, busyUntil := 0 }

/-- A mask register of zeros. -/
def MaskReg.zero : MaskReg := { s0 := 0, s1 := 0, shared := false, prov := false }

/-- The slice context of a job's first slice (R241): s1 is IN_LEN, s2 OUT_LEN. -/
def SliceCtx.start (pc : Nat) (inLen outLen : W32) : SliceCtx :=
  { pc := pc, seg := none, sregs := [0, inLen, outLen] ++ List.replicate 29 0, mregs := List.replicate 8 MaskReg.zero, vl := 0,
    wide := false, signed := false, mode := .unshared, vmod := 3, cores := [KCore.idle, KCore.idle] }

/-- A zeroed plot (R48). -/
def Plot.zero : Plot := { mem := [], prov := [], ctx := SliceCtx.start 0 0 0 }

/-- A parterre with no slice in its body. -/
def Body.idle : Body :=
  { active := false, job := 0, plot := 0, pc := 0, seg := none, cycles := 0, vregs := [], vmodes := [],
    sregs := List.replicate 32 0, mregs := List.replicate 8 MaskReg.zero, vl := 0, wide := false,
    signed := false, mode := .unshared, vmod := 3, cores := [KCore.idle, KCore.idle], callm := none, firstRead := [],
    firstWritten := [], chain := none, fault := none, outcome := none, ended := false, committed := false }

/-- The machine right after reset: power on, PORST_N low, no stage released, READY 0, the life-cycle
words blank and the media unformatted (R449, R451, R462, R506). (DESIGN CHOICE, log entries 9 and 12) -/
def State.reset : State :=
  { pending := [], freeCount := 0, boot := Boot.reset, 
    clocks := { reset := false, gated := false } :: List.replicate 39 { reset := true, gated := true }, otp := Otp.blank, lc := LifeCycle.blank,
    lodge := Lodge.fresh, gh := Gatehouse.reset, link := Link.reset, regs := Regs.reset,
    sched := Sched.start, units := List.replicate 12 UnitSt.idle, allots := [], queues := [], jobs := [],
    ice := Ice.reset, digests := [], curves := [], kept := [], stores := Stores.reset, plots := [], swm := [],
    evicted := [], bodies := List.replicate 4 Body.idle, fountain := Fountain.reset,
    events := EventLog.reset, dump := Dump.reset, bist := Bist.reset, journal := Journal.reset,
    vault := Vault.reset Media.none, bridge := Bridge.reset, sundial := Sundial.reset }

end Sys2Proof.Machine
end

