-- ==== Sys2Proof/Machine/Flags.lean ====
section
/-! DEFINITION. The FLAGS of a completion (Table 4-4, R82). -/
namespace Sys2Proof.Machine

/-- LEN_EXCESS: the fragments summed to more than IN_LEN. -/
def flagLenExcess : BitVec 8 := 0x01

/-- SEED_AGED: randomness from a seed used beyond the default reseed interval. -/
def flagSeedAged : BitVec 8 := 0x02

/-- ABORT_EXTENDED: an ABORT waited for a stateful commit. -/
def flagAbortExtended : BitVec 8 := 0x04

/-- SOLO: the device was in SOLO at the job's dispatch. -/
def flagSolo : BitVec 8 := 0x08

/-- ENVELOPE_PADDED: the job was padded to its attempt budget. -/
def flagEnvelopePadded : BitVec 8 := 0x10

/-- Sets a flag of a job. -/
def setFlag (f : BitVec 8) (j : Job) : Job := { j with flags := j.flags ||| f }

/-- Sets a flag when a condition holds. -/
def flagIf (c : Bool) (f : BitVec 8) (j : Job) : Job := if c then setFlag f j else j

end Sys2Proof.Machine
end

