-- ==== Sys2Proof/Config.lean ====
section
/-! DEFINITION. What the spec leaves to physics, to manufacture or to a standard it names without restating:
constants with no body, so that every statement holds whatever they are. -/
namespace Sys2Proof.Config
open Sys2Proof

/-- What an asymmetric scheme yields (R136, R164, R193: FIPS 203 to 205, SP 800-208 and the others). -/
inductive Yield where
  | publicKey | privateKey | ciphertext | sharedSecret | signature | message
deriving DecidableEq, Repr

/-- What an asymmetric scheme decides. -/
inductive Question where
  /-- the root that a hash-based verification recomputes is the public key's (R168, R182) -/
  | signatureVerifies
  /-- a Classic McEliece candidate succeeds (R184) -/
  | candidateFound
  /-- the commitment hash that an ML-DSA verification recomputes is the signature's (R150) -/
  | commitmentMatches
deriving DecidableEq, Repr

/-- The numbered free values: a fresh one each time (mask bits, sampler words, open values of a step). -/
opaque freeWord : Nat → W64

/-- Byte `i` of what a scheme yields: operation, parameter set, kind, public operand, private operand and
random bytes (R15: the encodings are those of the named standards). -/
opaque schemeByte (op : W16) (pset : Byte) (y : Yield) (pub sec rnd : List Byte) (i : Nat) : Byte

/-- What a scheme decides about its operands. -/
opaque schemeHolds (op : W16) (pset : Byte) (q : Question) (pub sec : List Byte) : Bool

/-- How many candidates a signature computes until one passes, less one: by its message, its key and its random bytes
(R155). -/
opaque rejections (op : W16) (pset : Byte) (rep sec rnd : List Byte) : Nat

/-- The 256-bit PUF response after error correction (R333). -/
opaque pufByte : Nat → Byte

/-- The half of the patch key in boot ROM (R270). -/
opaque patchRomByte : Nat → Byte

/-- A word of the routine ROM (R263). -/
opaque routineRom : Nat → W32

/-- A word of the microcode ROM (R263). -/
opaque microRom : Nat → W32

/-- Where a vendor routine of an opcode and a PSET stands in the routine ROM: its first word and its number of words
(R263). -/
opaque vendorRoutine : W16 → Nat → Nat × Nat

/-- Byte `i` of the content of the page with a PSEQ, where the spec gives the content no layout: key image, tree cache,
checkpoint (R181, R332, R394). -/
opaque pageByte (pseq i : Nat) : Byte

/-- The vendor's public keys in boot ROM: 0 ML-DSA-87, 1 ECDSA P-384 (R270, R460). -/
opaque vendorKeyByte : Nat → Nat → Byte

/-- A dword of configuration space that no table of the spec decides, of PF0 or of a VF, by offset. -/
opaque configWord : Bool → Nat → W32

/-- The Miller-Rabin bases of a curve's measurement (R202). -/
opaque primeBase (measurement : List Byte) (round : Nat) : Nat

/-- The vendor's certificate of a device, by its ID (R435); the spec names it and does not give its form. -/
opaque deviceCertificate : W64 → List Byte

/-- The journal public key that a device certificate names (R334). -/
opaque certifiedKey (certificate : List Byte) : List Byte

/-- The 1,024-entry twiddle table of the FN-DSA draft for 12,289 (R251). -/
opaque fnTwiddle : Nat → W32

end Sys2Proof.Config
end

