-- ==== Sys2Proof/Machine/Bits.lean ====
section
/-! DEFINITION. Byte order, bit fields and number helpers (00_scope.md R14 to R16). -/
namespace Sys2Proof

/-- `n` bytes of a number, least significant first (R15). -/
def leBytes : Nat → Nat → List Byte
  | 0, _ => []
  | n + 1, v => BitVec.ofNat 8 v :: leBytes n (v / 256)

/-- The number that bytes spell, least significant first (R15). -/
def leNat : List Byte → Nat
  | [] => 0
  | b :: bs => b.toNat + 256 * leNat bs

/-- The number that bytes spell, most significant first. -/
def beNat (bs : List Byte) : Nat := leNat bs.reverse

/-- `n` bytes of a number, most significant first. -/
def beBytes (n v : Nat) : List Byte := (leBytes n v).reverse

/-- `n` bytes of a buffer from an offset; bytes past its end read 0. -/
def slice (l : List Byte) (off n : Nat) : List Byte :=
  (List.range n).map fun i => l.getD (off + i) 0

/-- A little-endian field of a buffer. -/
def fieldAt (l : List Byte) (off n : Nat) : Nat := leNat (slice l off n)

/-- `n` zero bytes. -/
def zeroBytes (n : Nat) : List Byte := List.replicate n 0

/-- Writes bytes into a buffer at an offset, in place. -/
def patch (l : List Byte) (off : Nat) (bs : List Byte) : List Byte :=
  l.take off ++ bs ++ l.drop (off + bs.length)

/-- Division rounded up. -/
def ceilDiv (a b : Nat) : Nat := (a + b - 1) / b

/-- Bit `i` of a number. -/
def bitOf (v i : Nat) : Bool := v.testBit i

/-- Bits [hi:lo] of a number (R16). -/
def bitsOf (v hi lo : Nat) : Nat := (v >>> lo) % 2 ^ (hi + 1 - lo)

/-- A Boolean as a number. -/
def bit (b : Bool) : Nat := if b then 1 else 0

/-- The number with the given bits set. -/
def maskOf (l : List Nat) : Nat := l.foldl (fun a i => a ||| 2 ^ i) 0

/-- A half-open window (R14). -/
def inWindow (t start len : Nat) : Bool := decide (start ≤ t) && decide (t < start + len)

/-- Exclusive or of two byte strings, over the first's length. -/
def xorBytes (a b : List Byte) : List Byte :=
  (List.range a.length).map fun i => a.getD i 0 ^^^ b.getD i 0

/-- Multiplies a saturating counter's step. -/
def satAdd (v n top : Nat) : Nat := min (v + n) top

/-- Removes duplicates of a sorted list of numbers and inserts one. -/
def insertNat : Nat → List Nat → List Nat
  | a, [] => [a]
  | a, b :: l => if a < b then a :: b :: l else if a = b then b :: l else b :: insertNat a l

/-- Rotates a list so that its elements start after the first that passes the test `p`. -/
def startAfter {α : Type} (p : α → Bool) (l : List α) : List α :=
  (l.filter fun a => !p a) ++ l.filter p

/-- ASCII text as bytes. -/
def ascii (t : String) : List Byte := t.toList.map fun c => BitVec.ofNat 8 c.toNat

/-- Modular power. -/
def powModAux (m : Nat) : Nat → Nat → Nat → Nat → Nat
  | 0, _, _, acc => acc
  | fuel + 1, b, e, acc =>
    if e = 0 then acc
    else powModAux m fuel (b * b % m) (e / 2) (if e % 2 = 1 then acc * b % m else acc)

/-- `a` to the power `e` modulo `m`, with 0^0 = 1. -/
def powMod (a e m : Nat) : Nat := powModAux m (Nat.log2 e + 1) (a % m) e (1 % m)

/-- Extended Euclid: a coefficient `x` with `a·x ≡ gcd(a, m)` modulo `m`. -/
def invAux (m : Nat) : Nat → Nat → Nat → Int → Int → Nat × Int
  | 0, r0, _, t0, _ => (r0, t0)
  | fuel + 1, r0, r1, t0, t1 =>
    if r1 = 0 then (r0, t0)
    else invAux m fuel r1 (r0 % r1) t1 (t0 - (r0 / r1 : Nat) * t1)

/-- The inverse of `a` modulo `m`, where it exists. -/
def modInv (a m : Nat) : Option Nat :=
  let p := invAux m (2 * (Nat.log2 m + 2)) m (a % m) 0 1
  if p.1 = 1 then some (p.2 % (m : Int)).toNat else none

end Sys2Proof
end

