-- ==== Sys2Proof/Machine/Keccak.lean ====
section
/-! DEFINITION. Keccak-f[1600] and the hash functions built on it: FIPS 202 and SP 800-185, which the spec
names for the Maze lanes (12_digest.md R284, R294), the journal (R411) and the key derivations (R334). -/
namespace Sys2Proof.Machine
open Sys2Proof

/-- Lane (x, y) of a state stands at index x + 5y; a lane past the end reads 0. -/
def lane (a : List W64) (i : Nat) : W64 := a.getD i 0

/-- Round constants of Keccak-f[1600]. -/
def keccakRC : List W64 :=
  [0x0000000000000001, 0x0000000000008082, 0x800000000000808A, 0x8000000080008000,
   0x000000000000808B, 0x0000000080000001, 0x8000000080008081, 0x8000000000008009,
   0x000000000000008A, 0x0000000000000088, 0x0000000080008009, 0x000000008000000A,
   0x000000008000808B, 0x800000000000008B, 0x8000000000008089, 0x8000000000008003,
   0x8000000000008002, 0x8000000000000080, 0x000000000000800A, 0x800000008000000A,
   0x8000000080008081, 0x8000000000008080, 0x0000000080000001, 0x8000000080008008]

/-- Rotation offsets of the rho step, by lane index. -/
def keccakRho : List Nat :=
  [0, 1, 62, 28, 27, 36, 44, 6, 55, 20, 3, 10, 43, 25, 39, 41, 45, 15, 21, 8, 18, 2, 61, 56, 14]

/-- The theta step. -/
def keccakTheta (a : List W64) : List W64 :=
  let c := (List.range 5).map fun x =>
    lane a x ^^^ lane a (x + 5) ^^^ lane a (x + 10) ^^^ lane a (x + 15) ^^^ lane a (x + 20)
  let d := (List.range 5).map fun x => lane c ((x + 4) % 5) ^^^ (lane c ((x + 1) % 5)).rotateLeft 1
  (List.range 25).map fun i => lane a i ^^^ lane d (i % 5)

/-- The rho and pi steps together: the lane at (y, 2x + 3y) comes from (x, y). -/
def keccakRhoPi (a : List W64) : List W64 :=
  (List.range 25).map fun i =>
    let y := i / 5
    let x := i % 5
    let sx := (x + 3 * y) % 5
    let j := sx + 5 * x
    (lane a j).rotateLeft (keccakRho.getD j 0)

/-- The chi step. -/
def keccakChi (a : List W64) : List W64 :=
  (List.range 25).map fun i =>
    let r := 5 * (i / 5)
    lane a i ^^^ (~~~(lane a (r + (i + 1) % 5)) &&& lane a (r + (i + 2) % 5))

/-- One round. -/
def keccakRound (a : List W64) (rc : W64) : List W64 :=
  match keccakChi (keccakRhoPi (keccakTheta a)) with
  | [] => []
  | l :: ls => (l ^^^ rc) :: ls

/-- The permutation. -/
def keccakF (a : List W64) : List W64 := keccakRC.foldl keccakRound a

/-- 200 bytes as 25 lanes, in the byte order of FIPS 202. -/
def lanesOf (bs : List Byte) : List W64 :=
  (List.range 25).map fun i => BitVec.ofNat 64 (fieldAt bs (8 * i) 8)

/-- 25 lanes as 200 bytes. -/
def bytesOf (ls : List W64) : List Byte := ls.flatMap fun l => leBytes 8 l.toNat

/-- The permutation on 200 bytes. -/
def keccakP (st : List Byte) : List Byte := bytesOf (keccakF (lanesOf st))

/-- Absorbs one block of the rate into a 200-byte state. -/
def absorbBlock (st block : List Byte) : List Byte := keccakP (xorBytes st block)

/-- Absorbs whole blocks of `rate` bytes. -/
def absorbBlocks (rate : Nat) : Nat → List Byte → List Byte → List Byte
  | 0, st, _ => st
  | n + 1, st, m => absorbBlocks rate n (absorbBlock st (m.take rate)) (m.drop rate)

/-- Squeezes further blocks after the first. -/
def squeezeMore (rate : Nat) : Nat → List Byte → List Byte
  | 0, _ => []
  | n + 1, st => let s := keccakP st; s.take rate ++ squeezeMore rate n s

/-- `n` output bytes of a state. -/
def squeeze (rate n : Nat) (st : List Byte) : List Byte :=
  (st.take rate ++ squeezeMore rate (ceilDiv n rate - 1) st).take n

/-- The message with domain byte `pad` and pad10*1 (R294). -/
def keccakPad (rate : Nat) (pad : Byte) (m : List Byte) : List Byte :=
  let r := m.length % rate
  if r = rate - 1 then m ++ [pad ||| 0x80]
  else m ++ [pad] ++ zeroBytes (rate - r - 2) ++ [0x80]

/-- A sponge over a message, `n` bytes out. -/
def sponge (rate : Nat) (pad : Byte) (m : List Byte) (n : Nat) : List Byte :=
  let p := keccakPad rate pad m
  squeeze rate n (absorbBlocks rate (p.length / rate) (zeroBytes 200) p)

/-- SHA3-256. -/
def sha3_256 (m : List Byte) : List Byte := sponge 136 0x06 m 32

/-- SHAKE256. -/
def shake256 (m : List Byte) (n : Nat) : List Byte := sponge 136 0x1F m n

/-- The bytes of a number, most significant first, at least one. -/
def minBytesAux : Nat → Nat → List Byte → List Byte
  | 0, _, acc => acc
  | f + 1, v, acc => if v = 0 then acc else minBytesAux f (v / 256) (BitVec.ofNat 8 v :: acc)

/-- The shortest big-endian encoding of a number, one byte at least. -/
def minBytes (v : Nat) : List Byte := if v = 0 then [0] else minBytesAux 10 v []

/-- left_encode of SP 800-185. -/
def leftEncode (v : Nat) : List Byte := let b := minBytes v; BitVec.ofNat 8 b.length :: b

/-- right_encode of SP 800-185. -/
def rightEncode (v : Nat) : List Byte := let b := minBytes v; b ++ [BitVec.ofNat 8 b.length]

/-- encode_string of SP 800-185. -/
def encodeString (s : List Byte) : List Byte := leftEncode (8 * s.length) ++ s

/-- bytepad of SP 800-185. -/
def bytepad (x : List Byte) (w : Nat) : List Byte :=
  let y := leftEncode w ++ x
  y ++ zeroBytes ((w - y.length % w) % w)

/-- KMAC256 with key, input, output length in bytes and customisation string. -/
def kmac256 (k x : List Byte) (n : Nat) (s : String) : List Byte :=
  sponge 136 0x04
    (bytepad (encodeString (ascii "KMAC") ++ encodeString (ascii s)) 136 ++
      bytepad (encodeString k) 136 ++ x ++ rightEncode (8 * n)) n

end Sys2Proof.Machine
end

