-- ==== Sys2Proof/Machine/Ops.lean ====
section
/-! DEFINITION. The named operations that the commands share: units and variants, time, the event log, the
journal's pending records, what is handed to the transaction layer, jobs and their completions. -/
namespace Sys2Proof.Machine
open Sys2Proof

/-! ## The variant and its units (R7, R21, R362) -/

/-- The decoded variant: 0 SDZ-9620, 1 SDZ-9618, 2 SDZ-9612 (R362). -/
def variant (s : State) : Nat :=
  if s.otp.fuseVariant = 0 then 0 else if s.otp.fuseVariant = 1 then 1 else 2

/-- The class of a scheduled unit, 0 to 11 (Table 1-2). -/
def unitClass (u : Nat) : UnitClass :=
  if u < 4 then .parterre else if u < 8 then .maze else if u < 10 then .sha2 else .orangery

/-- Whether a scheduled unit is present on the variant (Table 0-2). -/
def unitPresent (s : State) (u : Nat) : Bool :=
  if variant s = 2 then [0, 1, 4, 5, 8, 10].contains u else decide (u < 12)

/-- The present units of a class, in the order of Table 1-2. -/
def classUnits (s : State) (c : UnitClass) : List Nat :=
  (List.range 12).filter fun u => unitPresent s u && decide (unitClass u = c)

/-- The Footbridge is present (R11). -/
def hasBridge (s : State) : Bool := decide (variant s = 0)

/-- The Open store is present (R12). -/
def hasOpenStore (s : State) : Bool := decide (variant s ≠ 2)

/-- A free SWM of 176 or 80 blocks (R110). -/
def tenantBlocks (s : State) : Nat := if variant s = 2 then 80 else 176

/-- One unit's state. -/
def unitAt (s : State) (u : Nat) : UnitSt := s.units.getD u UnitSt.idle

/-- Replaces one unit's state. -/
def setUnit (s : State) (u : Nat) (v : UnitSt) : State := { s with units := s.units.set u v }

/-- One parterre's slice body. -/
def bodyAt (s : State) (u : Nat) : Body := s.bodies.getD u Body.idle

/-- Replaces one parterre's slice body. -/
def setBody (s : State) (u : Nat) (b : Body) : State := { s with bodies := s.bodies.set u b }

/-! ## Time (R31, R32, R39) -/

/-- BST_TICKNOW. -/
def now (s : State) : Nat := s.sched.tick

/-- The epoch of a tick. -/
def epochOf (t : Nat) : Nat := t / 4096

/-- The offset of a tick in its epoch. -/
def offsetOf (t : Nat) : Nat := t % 4096

/-- The first epoch in which a change completing at tick `t` is in force (R39). -/
def effectEpoch (t : Nat) : Nat := if offsetOf t < 3584 then epochOf t + 1 else epochOf t + 2

/-- The device is in SOLO (R443). -/
def inSolo (s : State) : Bool := s.bridge.solo

/-- The device is paired and not in SOLO, so that mirrored changes need the commit of R439. -/
def mirrors (s : State) : Bool := s.bridge.paired && !s.bridge.solo

/-- A Vault is mounted that takes appends (R357, R392). -/
def vaultWritable (s : State) : Bool := s.vault.mounted && !s.vault.readOnly && !s.vault.foreign

/-- Quiesced by a tamper response (R370). -/
def quiesced (s : State) : Bool := s.gh.quiesced

/-! ## Free values -/

/-- The next numbered free value. (DESIGN CHOICE, log entry 5) -/
def fresh (s : State) : W64 × State :=
  (Config.freeWord s.freeCount, { s with freeCount := s.freeCount + 1 })

/-! ## The event log (R468 to R475) -/

/-- DETAIL is 12 bytes (Table 21-1). -/
def detail12 (d : List Byte) : List Byte := slice d 0 12

/-- A record's 32 bytes with its ring flags (Table 21-1). -/
def eventBytes (e : Event) (phase : Bool) (drops : Nat) : List Byte :=
  leBytes 1 (bit phase + 2 * bit e.first) ++ leBytes 1 e.cls ++ leBytes 2 e.code.toNat ++
    leBytes 2 e.allot.toNat ++ [e.unit, e.source] ++ leBytes 8 e.tick ++
    leBytes 2 (min e.count 0xFFFF) ++ leBytes 2 (min drops 0xFFFF) ++ detail12 e.detail

/-- Two events fold when CODE, ALLOT, UNIT and SOURCE agree (R473). -/
def sameKey (a b : Event) : Bool :=
  decide (a.code = b.code) && decide (a.allot = b.allot) && decide (a.unit = b.unit) &&
    decide (a.source = b.source)

/-- Folds an event into the first record with its key. -/
def foldEvent (e : Event) : List Event → List Event
  | [] => []
  | r :: rs =>
    if sameKey r e then { r with count := min (r.count + 1) 0xFFFF, first := r.first || e.first } :: rs
    else r :: foldEvent e rs

/-- Enters an event into the FIFO, the counters and first-failure capture (R473 to R475). -/
def enterEvent (l : EventLog) (e0 : Event) : EventLog :=
  let captures := !l.ffcValid && decide (2 ≤ e0.cls)
  let e := { e0 with first := captures }
  let l := { l with counts := l.counts.modify e.cls fun n => min (n + 1) (2 ^ 64 - 1) }
  let l := if captures then { l with ffcValid := true, ffc := eventBytes e false 0 } else l
  if l.fifo.any (sameKey · e) then { l with fifo := foldEvent e l.fifo }
  else if l.fifo.length < 64 then { l with fifo := l.fifo ++ [e] }
  else { l with drops := min (l.drops + 1) 0xFFFF, dropped := min (l.dropped + 1) (2 ^ 64 - 1) }

/-! ## Pending journal records (R413 to R417) -/

/-- The device as a holder of append turns. -/
def deviceHolder : Nat := 4096

/-- Puts a record into its holder's pending queue; the number names it to those who wait. -/
def postRecord (s : State) (type subtype : Nat) (allot : W16) (holder : Nat) (body : List Byte) :
    State × Nat :=
  let j := s.journal
  let r : JRecord :=
    { id := j.nextId, type := type, subtype := subtype, allot := allot, holder := holder, flags := 0,
      body := slice body 0 64 }
  ({ s with journal := { j with nextId := j.nextId + 1, pending := j.pending ++ [r] } }, j.nextId)

/-- The body of a SECURITY_EVENT record of one event (R411). -/
def securityBody (code : W16) (source level : Byte) (count first last : Nat) (detail : List Byte) :
    List Byte :=
  leBytes 2 code.toNat ++ [source, level] ++ leBytes 4 count ++ leBytes 8 first ++ leBytes 8 last ++
    slice detail 0 32

/-- Adds one event to a pending record's COUNT and last tick (R417). -/
def foldRecord (r : JRecord) (t : Nat) : JRecord :=
  { r with
    flags := r.flags ||| 4,
    body := patch (patch r.body 4 (leBytes 4 (min (fieldAt r.body 4 4 + 1) 0xFFFFFFFF))) 16 (leBytes 8 t) }

/-- Whether a pending record is the EVENT record of a code and source. -/
def isEventOf (code : W16) (source : Byte) (r : JRecord) : Bool :=
  decide (r.type = 2 ∧ r.subtype = 0 ∧ fieldAt r.body 0 2 = code.toNat ∧ fieldAt r.body 2 1 = source.toNat)

/-- Applies a change to the first element that passes a test. -/
def updateFirst {α : Type} (p : α → Bool) (f : α → α) : List α → List α
  | [] => []
  | a :: l => if p a then f a :: l else a :: updateFirst p f l

/-- A security event's way into the journal: its own record, or folded (R417). -/
def postSecurity (s : State) (code : W16) (source level : Byte) (detail : List Byte) : State :=
  let j := s.journal
  let t := now s
  if j.pending.any (isEventOf code source) then
    { s with journal.pending := updateFirst (isEventOf code source) (foldRecord · t) j.pending }
  else if (j.pending.filter fun r => decide (r.type = 2 ∧ r.subtype = 0)).length < 512 then
    (postRecord s 2 0 0xFFFF deviceHolder (securityBody code source level 1 t t detail)).1
  else
    let isSummary := fun r : JRecord => decide (r.type = 2 ∧ r.subtype = 1)
    let addMask := fun r : JRecord =>
      { r with body := patch r.body 24 (leBytes 2 (fieldAt r.body 24 2 |||
          (if source.toNat < 16 then 2 ^ source.toNat else 0))) }
    if j.pending.any isSummary then
      { s with journal.pending := updateFirst isSummary (fun r => addMask (foldRecord r t)) j.pending }
    else
      let s := (postRecord s 2 1 0xFFFF deviceHolder (securityBody 0 0 0 1 t t [])).1
      { s with journal.pending := updateFirst isSummary addMask s.journal.pending }

/-- Records an event: the log, and for class SECURITY the journal too (R469, R475). -/
def logEventAt (s : State) (cls : Nat) (code : W16) (allot : W16) (unit source : Byte) (level : Byte)
    (detail : List Byte) : State :=
  let e : Event :=
    { first := false, cls := cls, code := code, allot := allot, unit := unit, source := source,
      tick := now s, count := 1, detail := detail12 detail }
  let s := { s with events := enterEvent s.events e }
  if cls = 5 then postSecurity s code source level (detail12 detail) else s

/-- Records an event with no tamper source. -/
def logEvent (s : State) (cls : Nat) (code : W16) (allot : W16) (unit : Byte) (detail : List Byte) : State :=
  logEventAt s cls code allot unit 0xFF 0xFF detail

/-- Records EV_GUARANTEE_YIELDED with the yielding and the protected allotment and the rank (R55). The spec does not say
what ALLOT holds beside the two IDs of DETAIL; the model writes 0xFFFF. (DEDUCED, log entry 106) -/
def logYield (s : State) (yielding protected' rank : Nat) : State :=
  logEvent s 0 0x0002 0xFFFF 0xFF (leBytes 2 yielding ++ leBytes 2 protected' ++ leBytes 1 rank)

/-! ## The transaction layer (R64, R66, R69) -/

/-- Hands one posted item to the transaction layer, or holds it while no posted credit is granted (R66). (DEDUCED, log
entry 28) -/
def send (s : State) (o : Outbound) : State :=
  if s.link.credit then { s with link.out := s.link.out ++ [o] } else { s with link.held := s.link.held ++ [o] }

/-- Hands a read or an answer to the transaction layer: it is not posted, and waits for no posted credit. -/
def request (s : State) (o : Outbound) : State := { s with link.out := s.link.out ++ [o] }

/-- A function's configuration state. -/
def funcAt (s : State) (f : Nat) : Func := KMap.getD s.link.funcs f Func.reset

/-- The function masters the bus and is in D0: its allotments may fetch, and PF0's event and dump writes go (Table 3-7). -/
def masters (s : State) (f : Nat) : Bool := (funcAt s f).bme && !(funcAt s f).d3hot

/-- Replaces a function's configuration state. -/
def setFunc (s : State) (f : Nat) (v : Func) : State :=
  { s with link.funcs := KMap.put s.link.funcs f v }

/-- Answers a read. -/
def reply (s : State) (v : W64) : State := request s (.reply v)

/-- The message of a vector: the address and data of its table entry (R59). -/
def messageOf (s : State) (f v : Nat) : Outbound :=
  let e := KMap.getD (funcAt s f).table v (0, 0)
  .msix f v e.1 e.2

/-- A vector may send: not masked, no Function Mask, MSI-X enabled (R69). -/
def vectorOpen (f : Func) (v : Nat) : Bool := f.msixEnable && !f.functionMask && !f.masked.contains v

/-- Sends a vector's message, or holds it and sets its PBA bit (R69). -/
def sendVector (s : State) (f v : Nat) : State :=
  if vectorOpen (funcAt s f) v then send s (messageOf s f v)
  else setFunc s f { funcAt s f with pba := insertNat v (funcAt s f).pba }

/-! ## Error reports (R72, Table 3-8) -/

/-- The error is of the correctable kind, and its place in the status register of its kind. (PRESUMED, log entry 10) -/
def aerPlace (e : AerError) : Bool × Nat :=
  match e with
  | .receiver => (true, 0)
  | .badTlp => (true, 6)
  | .badDllp => (true, 7)
  | .replayRollover => (true, 8)
  | .replayTimer => (true, 12)
  | .advisoryNonFatal => (true, 13)
  | .correctedInternal => (true, 14)
  | .dataLinkProtocol => (false, 4)
  | .poisonedTlp => (false, 12)
  | .flowControl => (false, 13)
  | .completionTimeout => (false, 14)
  | .completerAbort => (false, 15)
  | .receiverOverflow => (false, 17)
  | .malformedTlp => (false, 18)
  | .ecrc => (false, 19)
  | .unsupportedReceived | .unsupportedSent => (false, 20)
  | .uncorrectableInternal => (false, 22)

/-- The error's header is logged (Table 3-8). -/
def headerLogged (e : AerError) : Bool :=
  match e with
  | .advisoryNonFatal | .poisonedTlp | .completerAbort | .unsupportedReceived | .unsupportedSent | .ecrc | .malformedTlp => true
  | _ => false

/-- The default severities of Table 3-8 as the severity register holds them: Data Link Protocol, Flow Control Protocol,
Receiver Overflow and Malformed are fatal. -/
def severityReset : W32 := 0x00062010

/-- The severity with which a function reports an error: 0 correctable, 1 non-fatal, 2 fatal, as the severity register
stands (R72). -/
def aerSeverity (v : Func) (e : AerError) : Nat :=
  if (aerPlace e).1 then 0
  else if (KMap.getD v.config 0x10C severityReset).getLsbD (aerPlace e).2 then 2 else 1

/-- A function's AER registers take an error; the header and place are those of the first that stands. -/
def noteAer (v : Func) (e : AerError) (header : BitVec 128) : Func :=
  let p := aerPlace e
  let flag : W32 := 1 <<< p.2
  let v := if v.aerUncor = 0 then
      { v with aerHeader := if headerLogged e then header else 0, aerFirst := if p.1 then v.aerFirst else p.2 }
    else v
  if p.1 then { v with aerCor := v.aerCor ||| flag } else { v with aerUncor := v.aerUncor ||| flag }

/-- The mask register of its kind has the error's bit set: no message reports it. (PRESUMED, log entry 10) -/
def aerMasked (v : Func) (e : AerError) : Bool :=
  let p := aerPlace e
  (KMap.getD v.config (if p.1 then 0x114 else 0x108) 0).getLsbD p.2

/-- An error is logged and reported by a function (R72); a message waits for posted credit (R66). -/
def reportAer (s : State) (f : Nat) (e : AerError) (header : BitVec 128) : State :=
  let s := setFunc s f (noteAer (funcAt s f) e header)
  let s := { s with link.aerLog := s.link.aerLog ++ [(f, e, if headerLogged e then header else 0)] }
  if aerMasked (funcAt s f) e then s else send s (.aer f e (aerSeverity (funcAt s f) e))

/-- A request that the device does not serve is answered with Unsupported Request, and the error is reported; the row does
not carry the request's header, which is a free value. (DESIGN CHOICE, log entry 112) -/
def answerUnsupported (s : State) (f : Nat) : State :=
  let a := fresh s
  let b := fresh a.2
  reportAer (request b.2 .unsupported) f .unsupportedSent (a.1 ++ b.1)

/-! ## Allotments and queues -/

/-- The key of a queue. -/
def queueKey (a q : Nat) : Nat := 8 * a + q

/-- The key of a job. -/
def jobKey (a q i : Nat) : Nat := 32768 * a + 4096 * q + i

/-- The key of the job a reference names. -/
def refKey (r : JobRef) : Nat := jobKey r.allot.toNat r.queue.toNat r.index.toNat

/-- The allotment of a job's key. -/
def keyAllot (k : Nat) : Nat := k / 32768

/-- The queue number of a job's key. -/
def keyQueue (k : Nat) : Nat := k / 4096 % 8

/-- The ring index of a job's key. -/
def keyIndex (k : Nat) : Nat := k % 4096

/-- The function an allotment is bound to; PF0 for allotment 0 (R102). -/
def funcOf (s : State) (a : Nat) : Nat := ((KMap.get? s.allots a).bind fun v => v.func).getD 0

/-- Changes an allotment. -/
def modAllot (s : State) (a : Nat) (f : Allotment → Allotment) : State :=
  { s with allots := KMap.adjust s.allots a f }

/-- Changes a queue. -/
def modQueue (s : State) (a q : Nat) (f : Queue → Queue) : State :=
  { s with queues := KMap.adjust s.queues (queueKey a q) f }

/-- Changes a job. -/
def modJob (s : State) (k : Nat) (f : Job → Job) : State := { s with jobs := KMap.adjust s.jobs k f }

/-- The keys of an allotment's queues. -/
def queuesOf (s : State) (a : Nat) : List Nat := (s.queues.map Prod.fst).filter fun k => decide (k / 8 = a)

/-- Whether any tenant allotment owns a queue. -/
def tenantsActive (s : State) : Bool := s.queues.any fun p => decide (1 ≤ p.1 / 8)

/-- A read of the allotment's windows: the byte is covered with the permission (R91). -/
def windowCovers (ws : KMap Window) (bit : Nat) (a : Nat) : Bool :=
  ws.any fun p => p.2.perm.getLsbD bit && decide (p.2.base.toNat ≤ a) && decide (a < p.2.limit.toNat)

/-- The end of the cover of an address: the highest limit of a window that covers it. -/
def coverEnd (ws : KMap Window) (bit a : Nat) : Nat :=
  ws.foldl (fun m p => if p.2.perm.getLsbD bit && decide (p.2.base.toNat ≤ a) && decide (a < p.2.limit.toNat)
    then max m p.2.limit.toNat else m) a

/-- The lowest address of [a, e) that no window covers; at most nine spans are adjacent (R91, R93). -/
def firstUncovered (ws : KMap Window) (bit : Nat) : Nat → Nat → Nat → Option Nat
  | 0, a, e => if a < e then some a else none
  | n + 1, a, e =>
    if e ≤ a then none
    else
      let c := coverEnd ws bit a
      if c = a then some a else firstUncovered ws bit n c e

/-- The lowest address of a span that the windows do not grant. -/
def windowFault (ws : KMap Window) (bit a len : Nat) : Option Nat := firstUncovered ws bit 9 a (a + len)

/-! ## Statuses, outcomes and completions (R81 to R84, R101) -/

/-- The value of a status code (Table 4-8). -/
def statusCode : Status → Nat
  | .ok => 0x00 | .okFlagged => 0x01 | .aborted => 0x02 | .unitAbsent => 0x03 | .unitReset => 0x04
  | .windowViolation => 0x05 | .lengthShort => 0x06 | .operandSize => 0x07 | .blockAlign => 0x08
  | .opcodeUnknown => 0x09 | .keyHandle => 0x0A | .keyAttribute => 0x0B | .entropyFailed => 0x0C
  | .operandRange => 0x0D | .pointInvalid => 0x0E | .scalarRange => 0x0F | .notInvertible => 0x10
  | .curveRejected => 0x11 | .verifyFail => 0x12 | .stateExhausted => 0x13 | .twinUnavailable => 0x14
  | .vaultFull => 0x15 | .vaultMedia => 0x16 | .leaseAbsent => 0x17 | .lifecycle => 0x18
  | .tamperQuiesced => 0x19 | .sealAuth => 0x1A | .openRoutine => 0x1B | .internal => 0x1C
  | .resource => 0x1D | .attemptBudget => 0x1E

/-- A success, flagged or not (R83). -/
def isSuccess (st : Status) : Bool := decide (st = .ok ∨ st = .okFlagged)

/-- ST_OK, or ST_OK_FLAGGED when any flag is set (R83). -/
def successOf (flags : BitVec 8) : Status := if flags = 0 then .ok else .okFlagged

/-- The family byte of an opcode. -/
def family (j : Job) : Nat := j.entry.opcode.toNat / 256

/-- The operation byte of an opcode. -/
def operation (j : Job) : Nat := j.entry.opcode.toNat % 256

/-- The PSET of an entry. -/
def psetOf (j : Job) : Nat := j.entry.ctrl.toNat / 256

/-- A job that names a digest context. -/
def namesContext (j : Job) : Bool := decide (family j = 0x20 ∨ family j = 0x21) && decide (1 ≤ operation j ∧ operation j ≤ 5)

/-- CTX: AUX bits 7 to 0 (R285). -/
def ctxNumber (j : Job) : Nat := j.entry.aux.toNat % 256

/-- The key of a digest context. -/
def ctxKey (a c : Nat) : Nat := 256 * a + c

/-- The context in which a job's lane parts work: its digest context, or that of its own routine or CALLM request (R293). -/
def laneCtx (k : Nat) (j : Job) : LaneCtx :=
  if namesContext j then .digest (ctxKey (keyAllot k) (ctxNumber j)) else .routine k

/-- Decides a job's outcome at a tick: a job that ran no slice reports that tick twice (R33). -/
def decideAt (t : Nat) (st : Status) (j : Job) : Job :=
  { j with
    phase := .decided, status := st, decidedAt := t,
    startTick := if j.done = 0 then t else j.startTick,
    endTick := if j.done = 0 then t else j.endTick,
    plan := [], houseBefore := 0, houseAfter := 0, waits := [], draws := [] }

/-- Ends a job without success: no output, and its status. -/
def failJob (t : Nat) (st : Status) (j : Job) : Job :=
  { decideAt t st j with output := [] }

/-- RESULT: the admin layout of Table 5-1, or the job's own bytes; zero in a sealed allotment. -/
def resultBytes (j : Job) (isSealed : Bool) : List Byte :=
  if isSealed then zeroBytes 16
  else if family j = 0xF0 then
    leBytes 8 (if isSuccess j.status then j.effect.toNat else 0) ++ leBytes 2 j.reason ++ leBytes 6 j.detail.toNat
  else leBytes 16 j.result.toNat

/-- The 64 bytes of a completion (Table 4-3). -/
def completionBytes (j : Job) (isSealed : Bool) (outWritten : Nat) : List Byte :=
  leBytes 2 ((j.entry.ctrl.toNat &&& 0xFF0E) ||| 0x10) ++ leBytes 2 j.entry.opcode.toNat ++
    leBytes 4 j.entry.tag.toNat ++ leBytes 1 (statusCode j.status) ++ leBytes 1 j.flags.toNat ++
    leBytes 2 j.attempts ++ leBytes 4 outWritten ++ leBytes 8 j.fault.toNat ++ leBytes 4 j.done ++
    leBytes 4 (if j.entry.ctrl.getLsbD 1 then j.fragSum else j.entry.inLen.toNat) ++
    leBytes 8 j.startTick ++ leBytes 8 j.endTick ++ resultBytes j isSealed

/-- The job's allotment is sealed. -/
def jobSealed (s : State) (k : Nat) : Bool := ((KMap.get? s.allots (keyAllot k)).map fun v => v.isSealed).getD false

/-- The job carries sealed framing: every job of a sealed allotment but SEAL_PUBKEY and SEAL_OPEN (R95). -/
def framed (s : State) (k : Nat) (j : Job) : Bool :=
  jobSealed s k && decide (j.entry.opcode.toNat ≠ 0x3001) && decide (j.entry.opcode.toNat ≠ 0x3002)

/-- The address of a job's entry. -/
def entryAddress (s : State) (k : Nat) : W64 :=
  ((KMap.get? s.queues (queueKey (keyAllot k) (keyQueue k))).map fun q => q.base).getD 0 + BitVec.ofNat 64 (64 * keyIndex k)

/-! ## Order -/

/-- Puts a number among others by a measure, ties after. -/
def insertBy (m : Nat → Nat) (a : Nat) : List Nat → List Nat
  | [] => [a]
  | b :: l => if m a < m b then a :: b :: l else b :: insertBy m a l

/-- Sorts numbers by a measure. -/
def sortBy (m : Nat → Nat) (l : List Nat) : List Nat := l.foldr (insertBy m) []

/-- The jobs that pass a test, by a measure of each. -/
def jobsBy (s : State) (ok : Job → Bool) (m : Job → Nat) : List Nat :=
  sortBy (fun k => ((KMap.get? s.jobs k).map m).getD 0) ((s.jobs.filter fun p => ok p.2).map Prod.fst)

end Sys2Proof.Machine
end

