-- ==== Sys2Proof/Machine/Clocks.lean ====
section
/-! DEFINITION. The forty clock domains: their resets, their gates and the stages that release them (01_architecture.md
R23 to R25; 20_reset_boot.md R449 to R451). -/
namespace Sys2Proof.Machine
open Sys2Proof

/-- The stage of Table 1-5 at which a domain's reset is released; 9 is TRST_N. -/
def clockStage (n : Nat) : Nat :=
  if n = 1 then 0 else if n ≤ 4 then 1 else if n ≤ 6 then 2 else if n ≤ 8 then 3 else if n ≤ 12 then 4 else if n ≤ 25 then 6
  else if n ≤ 28 then 5 else if n ≤ 34 then 8 else if n ≤ 38 then 7 else if n = 39 then 3 else 9

/-- The domain of a scheduled unit (Table 1-5). -/
def unitClock (u : Nat) : Nat := 13 + u

/-- The domains of a unit that a block reset isolates: a scheduled unit, 12 the Vault controller, 13 the Footbridge. -/
def blockClock (u n : Nat) : Bool :=
  if u = 12 then decide (35 ≤ n ∧ n ≤ 38) else if u = 13 then decide (29 ≤ n ∧ n ≤ 34) else decide (n = unitClock u)

/-- The domains of stage 6 on this part, in the order of Table 1-5: its scheduled units, and ACLK (R451). -/
def stageSixClocks (s : State) : List Nat := ((List.range 12).filter (unitPresent s)).map unitClock ++ [25]

/-- Puts domains in reset, their clocks gated. -/
def holdClocks (l : List Clock) (p : Nat → Bool) : List Clock :=
  l.mapIdx fun i c => if p (i + 1) then { reset := true, gated := true } else c

/-- Releases domains. An engine domain's gate opens with its first bay. (DESIGN CHOICE, log entry 123) -/
def releaseClocks (l : List Clock) (p : Nat → Bool) : List Clock :=
  l.mapIdx fun i c => if p (i + 1) then { reset := false, gated := decide (13 ≤ i + 1 ∧ i + 1 ≤ 24) } else c

/-- A full reset takes every domain but LPO, and TCK is TRST_N's (R449, R451). -/
def fullResetClocks (l : List Clock) : List Clock := holdClocks l fun n => decide (1 ≤ clockStage n ∧ clockStage n ≤ 8)

/-- The domains that the stage now reached releases: of stage 6, the one that is next. PE_PERST_N holds the PCIe domains
(R450, R451). -/
def releasedNow (s : State) (n : Nat) : Bool :=
  if clockStage n = 6 then decide ((stageSixClocks s)[s.boot.domains - 1]? = some n) && decide (1 ≤ s.boot.domains ∧ s.boot.stage ≤ 6)
  else decide (clockStage n = s.boot.stage) && !(decide (clockStage n = 5) && s.link.perst)

/-- TRST_N alone releases TCK: it stands released when the TAP gives a command (R451). (DEDUCED, log entry 123) -/
def tapReleased (s : State) : State := { s with clocks := releaseClocks s.clocks fun n => decide (n = 40) }

/-- The clock gates of the engines in a tick: open where a bay runs on the unit (R25). (DESIGN CHOICE, log entry 123) -/
def gateClocks (s : State) : State :=
  { s with clocks := s.clocks.mapIdx fun i c =>
      if 13 ≤ i + 1 ∧ i + 1 ≤ 24 then { c with gated := (unitAt s (i + 1 - 13)).bay.isNone } else c }

end Sys2Proof.Machine
end

