-- ==== Sys2Proof/Machine/Aes.lean ====
section
/-! DEFINITION. AES-256 (FIPS 197), its modes GCM (SP 800-38D) and KWP (SP 800-38F), and CTR_DRBG without a
derivation function (SP 800-90A), which the spec names for sealed jobs (04_rings.md R95), page and record
encryption (R300, R390), wrapped blobs (14_icehouse.md R335) and the expander (13_fountain.md R312). -/
namespace Sys2Proof.Machine
open Sys2Proof

/-- The AES S-box. -/
def aesSbox : List Byte :=
  [0x63, 0x7c, 0x77, 0x7b, 0xf2, 0x6b, 0x6f, 0xc5, 0x30, 0x01, 0x67, 0x2b, 0xfe, 0xd7, 0xab, 0x76,
   0xca, 0x82, 0xc9, 0x7d, 0xfa, 0x59, 0x47, 0xf0, 0xad, 0xd4, 0xa2, 0xaf, 0x9c, 0xa4, 0x72, 0xc0,
   0xb7, 0xfd, 0x93, 0x26, 0x36, 0x3f, 0xf7, 0xcc, 0x34, 0xa5, 0xe5, 0xf1, 0x71, 0xd8, 0x31, 0x15,
   0x04, 0xc7, 0x23, 0xc3, 0x18, 0x96, 0x05, 0x9a, 0x07, 0x12, 0x80, 0xe2, 0xeb, 0x27, 0xb2, 0x75] ++
  [0x09, 0x83, 0x2c, 0x1a, 0x1b, 0x6e, 0x5a, 0xa0, 0x52, 0x3b, 0xd6, 0xb3, 0x29, 0xe3, 0x2f, 0x84,
   0x53, 0xd1, 0x00, 0xed, 0x20, 0xfc, 0xb1, 0x5b, 0x6a, 0xcb, 0xbe, 0x39, 0x4a, 0x4c, 0x58, 0xcf,
   0xd0, 0xef, 0xaa, 0xfb, 0x43, 0x4d, 0x33, 0x85, 0x45, 0xf9, 0x02, 0x7f, 0x50, 0x3c, 0x9f, 0xa8,
   0x51, 0xa3, 0x40, 0x8f, 0x92, 0x9d, 0x38, 0xf5, 0xbc, 0xb6, 0xda, 0x21, 0x10, 0xff, 0xf3, 0xd2] ++
  [0xcd, 0x0c, 0x13, 0xec, 0x5f, 0x97, 0x44, 0x17, 0xc4, 0xa7, 0x7e, 0x3d, 0x64, 0x5d, 0x19, 0x73,
   0x60, 0x81, 0x4f, 0xdc, 0x22, 0x2a, 0x90, 0x88, 0x46, 0xee, 0xb8, 0x14, 0xde, 0x5e, 0x0b, 0xdb,
   0xe0, 0x32, 0x3a, 0x0a, 0x49, 0x06, 0x24, 0x5c, 0xc2, 0xd3, 0xac, 0x62, 0x91, 0x95, 0xe4, 0x79,
   0xe7, 0xc8, 0x37, 0x6d, 0x8d, 0xd5, 0x4e, 0xa9, 0x6c, 0x56, 0xf4, 0xea, 0x65, 0x7a, 0xae, 0x08] ++
  [0xba, 0x78, 0x25, 0x2e, 0x1c, 0xa6, 0xb4, 0xc6, 0xe8, 0xdd, 0x74, 0x1f, 0x4b, 0xbd, 0x8b, 0x8a,
   0x70, 0x3e, 0xb5, 0x66, 0x48, 0x03, 0xf6, 0x0e, 0x61, 0x35, 0x57, 0xb9, 0x86, 0xc1, 0x1d, 0x9e,
   0xe1, 0xf8, 0x98, 0x11, 0x69, 0xd9, 0x8e, 0x94, 0x9b, 0x1e, 0x87, 0xe9, 0xce, 0x55, 0x28, 0xdf,
   0x8c, 0xa1, 0x89, 0x0d, 0xbf, 0xe6, 0x42, 0x68, 0x41, 0x99, 0x2d, 0x0f, 0xb0, 0x54, 0xbb, 0x16]

/-- One S-box substitution. -/
def aesSub (b : Byte) : Byte := aesSbox.getD b.toNat 0

/-- Doubling in the field of AES. -/
def aesDouble (b : Byte) : Byte := (b <<< 1) ^^^ (if b.msb then 0x1b else 0)

/-- The key schedule words 8 to 59, newest first, built onto the eight key words. -/
def aesExpand : Nat → Nat → Byte → List (List Byte) → List (List Byte)
  | 0, _, _, ws => ws
  | n + 1, i, rc, ws =>
    let t := ws.getD 0 []
    let u :=
      if i % 8 = 0 then
        match t with
        | [a, b, c, d] => [aesSub b ^^^ rc, aesSub c, aesSub d, aesSub a]
        | _ => t
      else if i % 8 = 4 then t.map aesSub
      else t
    aesExpand n (i + 1) (if i % 8 = 0 then aesDouble rc else rc) (xorBytes u (ws.getD 7 []) :: ws)

/-- The fifteen round keys of a 32-byte key. -/
def aesKeys (key : List Byte) : List (List Byte) :=
  let w0 := (List.range 8).map fun i => slice key (4 * i) 4
  let ws := (aesExpand 52 8 1 w0.reverse).reverse
  (List.range 15).map fun r => (List.range 4).flatMap fun c => ws.getD (4 * r + c) []

/-- ShiftRows on a state held column by column. -/
def aesShift (s : List Byte) : List Byte :=
  (List.range 16).map fun i => s.getD ((i + 4 * (i % 4)) % 16) 0

/-- MixColumns. -/
def aesMix (s : List Byte) : List Byte :=
  (List.range 4).flatMap fun c =>
    match slice s (4 * c) 4 with
    | [a, b, d, e] =>
      let t := a ^^^ b ^^^ d ^^^ e
      [a ^^^ t ^^^ aesDouble (a ^^^ b), b ^^^ t ^^^ aesDouble (b ^^^ d),
       d ^^^ t ^^^ aesDouble (d ^^^ e), e ^^^ t ^^^ aesDouble (e ^^^ a)]
    | l => l

/-- The rounds after the first key addition; the last has no MixColumns. -/
def aesRounds : List (List Byte) → List Byte → List Byte
  | [], s => s
  | [k], s => xorBytes (aesShift (s.map aesSub)) k
  | k :: ks, s => aesRounds ks (xorBytes (aesMix (aesShift (s.map aesSub))) k)

/-- AES-256 on one block under expanded round keys. -/
def aesBlock (ks : List (List Byte)) (b : List Byte) : List Byte :=
  match ks with
  | [] => b
  | k :: ks => aesRounds ks (xorBytes b k)

/-- The inverse S-box. -/
def aesInv (b : Byte) : Byte := BitVec.ofNat 8 (aesSbox.findIdx (· == b))

/-- Inverse ShiftRows. -/
def aesUnshift (s : List Byte) : List Byte :=
  (List.range 16).map fun i => s.getD ((i + 12 * (i % 4)) % 16) 0

/-- Inverse MixColumns: MixColumns three times over. -/
def aesUnmix (s : List Byte) : List Byte := aesMix (aesMix (aesMix s))

/-- The inverse rounds, round keys last to first. -/
def aesUnrounds : List (List Byte) → List Byte → List Byte
  | [], s => s
  | [k], s => xorBytes ((aesUnshift s).map aesInv) k
  | k :: ks, s => aesUnrounds ks (aesUnmix (xorBytes ((aesUnshift s).map aesInv) k))

/-- Inverse AES-256 on one block. -/
def aesUnblock (ks : List (List Byte)) (b : List Byte) : List Byte :=
  match ks.reverse with
  | [] => b
  | k :: ks => aesUnrounds ks (xorBytes b k)

/-! ## GCM -/

/-- One step of the field product of GHASH: accumulator, shifted operand. -/
def ghashStep (p : Nat × Nat) (bit : Bool) : Nat × Nat :=
  (if bit then p.1 ^^^ p.2 else p.1,
   if p.2 % 2 = 1 then (p.2 / 2) ^^^ (0xe1 * 2 ^ 120) else p.2 / 2)

/-- The field product of GHASH, blocks as big-endian numbers. -/
def ghashMul (x y : Nat) : Nat :=
  (((List.range 128).map fun i => x.testBit (127 - i)).foldl ghashStep (0, y)).1

/-- GHASH of whole blocks. -/
def ghash (h : Nat) : Nat → Nat → List Byte → Nat
  | 0, y, _ => y
  | n + 1, y, m => ghash h n (ghashMul (y ^^^ beNat (slice m 0 16)) h) (m.drop 16)

/-- Pads to whole blocks of 16. -/
def pad16 (m : List Byte) : List Byte := m ++ zeroBytes ((16 - m.length % 16) % 16)

/-- The counter key stream over `n` blocks from a counter. -/
def ctrStream (ks : List (List Byte)) (nonce : List Byte) : Nat → Nat → List Byte
  | 0, _ => []
  | n + 1, c => aesBlock ks (nonce ++ beBytes 4 c) ++ ctrStream ks nonce n (c + 1)

/-- The GCM tag over associated data and ciphertext. -/
def gcmTag (key nonce aad ct : List Byte) : List Byte :=
  let ks := aesKeys key
  let h := beNat (aesBlock ks (zeroBytes 16))
  let m := pad16 aad ++ pad16 ct ++ beBytes 8 (8 * aad.length) ++ beBytes 8 (8 * ct.length)
  xorBytes (beBytes 16 (ghash h (m.length / 16) 0 m)) (aesBlock ks (nonce ++ beBytes 4 1))

/-- GCM encryption or decryption of a text, without its tag. -/
def gcmCrypt (key nonce m : List Byte) : List Byte :=
  xorBytes m (ctrStream (aesKeys key) nonce (ceilDiv m.length 16) 2)

/-- GCM sealing: ciphertext and tag. -/
def gcmSeal (key nonce aad m : List Byte) : List Byte :=
  let c := gcmCrypt key nonce m
  c ++ gcmTag key nonce aad c

/-- GCM opening: the text where the tag verifies. -/
def gcmOpen (key nonce aad c : List Byte) : Option (List Byte) :=
  let n := c.length - 16
  if c.length < 16 then none
  else if gcmTag key nonce aad (c.take n) = c.drop n then some (gcmCrypt key nonce (c.take n)) else none

/-! ## Key wrap with padding -/

/-- One wrap step on the semiblocks. -/
def kwStep (ks : List (List Byte)) (n : Nat) (p : List Byte × List (List Byte)) (t : Nat) :
    List Byte × List (List Byte) :=
  let i := (t - 1) % n
  let b := aesBlock ks (p.1 ++ p.2.getD i [])
  (xorBytes (b.take 8) (beBytes 8 t), p.2.set i (b.drop 8))

/-- One unwrap step. -/
def kwUnstep (ks : List (List Byte)) (n : Nat) (p : List Byte × List (List Byte)) (t : Nat) :
    List Byte × List (List Byte) :=
  let i := (t - 1) % n
  let b := aesUnblock ks (xorBytes p.1 (beBytes 8 t) ++ p.2.getD i [])
  (b.take 8, p.2.set i (b.drop 8))

/-- AES-256-KWP wrapping. -/
def kwpWrap (key m : List Byte) : List Byte :=
  let ks := aesKeys key
  let iv : List Byte := [0xA6, 0x59, 0x59, 0xA6] ++ beBytes 4 m.length
  let p := m ++ zeroBytes ((8 - m.length % 8) % 8)
  let n := p.length / 8
  if n ≤ 1 then aesBlock ks (iv ++ p)
  else
    let r := ((List.range (6 * n)).map (· + 1)).foldl (kwStep ks n)
      (iv, (List.range n).map fun i => slice p (8 * i) 8)
    r.1 ++ r.2.flatten

/-- AES-256-KWP unwrapping. -/
def kwpUnwrap (key c : List Byte) : Option (List Byte) :=
  let ks := aesKeys key
  let n := c.length / 8 - 1
  if c.length % 8 ≠ 0 ∨ c.length < 16 then none
  else
    let r :=
      if n = 1 then
        let b := aesUnblock ks c
        (b.take 8, b.drop 8)
      else
        let q := ((List.range (6 * n)).map (· + 1)).reverse.foldl (kwUnstep ks n)
          (c.take 8, (List.range n).map fun i => slice c (8 * (i + 1)) 8)
        (q.1, q.2.flatten)
    let len := beNat (r.1.drop 4)
    if r.1.take 4 = [0xA6, 0x59, 0x59, 0xA6] ∧ 8 * (n - 1) < len ∧ len ≤ 8 * n ∧
        (r.2.drop len).all (· == 0) then some (r.2.take len)
    else none

/-! ## CTR_DRBG -/

/-- `n` output blocks from the counter V, each after an increment. -/
def drbgBlocks (ks : List (List Byte)) : Nat → Nat → List Byte
  | 0, _ => []
  | n + 1, v => aesBlock ks (beBytes 16 (v + 1)) ++ drbgBlocks ks n (v + 1)

/-- CTR_DRBG_Update with 48 bytes of provided data. -/
def drbgUpdate (key v data : List Byte) : List Byte × List Byte :=
  let t := xorBytes (drbgBlocks (aesKeys key) 3 (beNat v)) data
  (t.take 32, t.drop 32)

/-- Generates 128 bytes and updates, as one generate slot does (R312): output, key, V. -/
def drbgGenerate (key v : List Byte) : List Byte × (List Byte × List Byte) :=
  let ks := aesKeys key
  let out := drbgBlocks ks 8 (beNat v)
  (out, drbgUpdate key (beBytes 16 (beNat v + 8)) (zeroBytes 48))

end Sys2Proof.Machine
end

