-- ==== Sys2Proof/Machine/Keys.lean ====
section
/-! DEFINITION. The Icehouse's shared operations: roots and derivations, handles, lookups, attribute records,
reservation and destruction of slots (14_icehouse.md). -/
namespace Sys2Proof.Machine
open Sys2Proof

/-! ## Roots and derived keys (R333, R334) -/

/-- The 32 bytes of the corrected PUF response. -/
def pufResponse : List Byte := (List.range 32).map Config.pufByte

/-- The seed of the highest non-zero bank (R352). -/
def otpSeed (o : Otp) : List Byte := if o.seed1.all (· = 0) then o.seed0 else o.seed1

/-- The root's number: 0 none, 1 test, 2 production, 3 debug (Table 14-12). -/
def rootKind (s : State) : Nat :=
  if s.lc.inForce = 1 then 1 else if s.lc.inForce = 2 then (if s.lc.debug then 3 else 2) else 0

/-- The Icehouse root (Table 14-5). -/
def rootBytes (s : State) (kind : Nat) : List Byte :=
  let id := leBytes 8 s.otp.deviceId.toNat
  if kind = 1 then kmac256 (zeroBytes 32) id 32 "SDZ-ROOT-TEST"
  else if kind = 2 then kmac256 (otpSeed s.otp) pufResponse 32 "SDZ-ROOT-PROD"
  else if kind = 3 then kmac256 (otpSeed s.otp) id 32 "SDZ-ROOT-DEBUG"
  else zeroBytes 32

/-- The operational root: the root bound to the Lodge's key-encryption key. -/
def deriveOpsRoot (s : State) : List Byte :=
  kmac256 (rootBytes s (rootKind s)) (s.lodge.kek.getD (zeroBytes 64)) 32 "SDZ-OPS"

/-- The handle key; the West uses the East's from pairing onward (R436). -/
def handleKeyOf (s : State) : List Byte :=
  s.bridge.handleKey.getD (kmac256 s.ice.opsRoot [] 32 "SDZ-HANDLE")

/-- The key-image key. -/
def imageKey (s : State) : List Byte := kmac256 s.ice.opsRoot [] 32 "SDZ-IMAGE"

/-- The incarnation salt of an allotment. -/
def saltOf (s : State) (a : Nat) : List Byte := ((KMap.get? s.allots a).map fun v => v.salt).getD (zeroBytes 32)

/-- The key-encryption key and sealing seed that the definition of an allotment brought from the twin (R436). -/
def twinKeysOf (s : State) (a : Nat) : Option (List Byte × List Byte) := (KMap.get? s.allots a).bind fun v => v.twinKeys

/-- An allotment's key-encryption key. -/
def kekOf (s : State) (a : Nat) : List Byte :=
  match twinKeysOf s a with
  | some p => p.1
  | none => kmac256 s.ice.opsRoot (leBytes 2 a ++ saltOf s a) 32 "SDZ-KEK"

/-- An allotment's sealing seed d, z. -/
def sealSeed (s : State) (a : Nat) : List Byte :=
  match twinKeysOf s a with
  | some p => p.2
  | none => kmac256 s.ice.opsRoot (leBytes 2 a ++ saltOf s a) 64 "SDZ-SEAL"

/-- The vault key of a format nonce. -/
def vaultKey (s : State) (nonce : List Byte) : List Byte :=
  kmac256 (rootBytes s (rootKind s)) nonce 32 "SDZ-VAULT"

/-- The seed of the journal key. -/
def journalSeed (s : State) : List Byte := kmac256 (rootBytes s (rootKind s)) [] 32 "SDZ-JOURNAL"

/-- The seed of the enrolment key. -/
def enrolSeed (s : State) : List Byte := kmac256 (rootBytes s (rootKind s)) [] 64 "SDZ-ENROL"

/-- Bytes that a scheme yields. (DESIGN CHOICE, log entry 6) -/
def schemeBytes (op pset : Nat) (y : Config.Yield) (pub sec rnd : List Byte) (n : Nat) : List Byte :=
  (List.range n).map (Config.schemeByte (BitVec.ofNat 16 op) (BitVec.ofNat 8 pset) y pub sec rnd)

/-- The ML-KEM-1024 sealing public key of an allotment (R334, R337). -/
def sealPublic (s : State) (a : Nat) : List Byte :=
  schemeBytes 0x0101 0x03 .publicKey [] [] (sealSeed s a) 1568

/-- The ML-DSA-87 journal public key (R334, R421). -/
def journalPublic (s : State) : List Byte := schemeBytes 0x0201 0x03 .publicKey [] [] (journalSeed s) 2592

/-! ## Handles (R324 to R326) -/

/-- The owning allotment of a handle. -/
def handleAllot (h : Nat) : Nat := bitsOf h 59 48

/-- KIND: 0 none, 1 blob, 2 slot, 3 resident. -/
def handleKind (h : Nat) : Nat := bitsOf h 47 46

/-- GEN. -/
def handleGen (h : Nat) : Nat := bitsOf h 31 16

/-- INDEX. -/
def handleIndex (h : Nat) : Nat := bitsOf h 15 10

/-- CHECK over the handle with its check bits 0. -/
def handleCheck (s : State) (h : Nat) : Nat :=
  leNat (kmac256 (handleKeyOf s) (leBytes 8 (h / 1024 * 1024)) 4 "SDZ-HANDLE") % 1024

/-- Builds a handle (Table 14-1). -/
def mkHandle (s : State) (a kind gen index : Nat) : W64 :=
  let h := a * 2 ^ 48 + kind * 2 ^ 46 + gen % 65536 * 2 ^ 16 + index % 64 * 2 ^ 10
  BitVec.ofNat 64 (h + handleCheck s h)

/-- The parts of R325 that need no key: owner, kind, reserved bits and CHECK. -/
def handleSound (s : State) (a h : Nat) : Bool :=
  decide (handleAllot h = a) && decide (handleKind h ≠ 0) && decide (bitsOf h 63 60 = 0) &&
    decide (bitsOf h 45 32 = 0) && decide (h % 1024 = handleCheck s h)

/-- The key number of a local slot or resident index. -/
def slotKey (a i : Nat) : Nat := 64 * a + i

/-- Local key slots of an allotment (R323). -/
def slotCount (s : State) (a : Nat) : Nat :=
  if a = 0 then 16 else ((KMap.get? s.allots a).map fun v => v.quota / 4).getD 0

/-- Local state slots of an allotment (R323). -/
def stateSlotCount (s : State) (a : Nat) : Nat :=
  if a = 0 then 2 else ((KMap.get? s.allots a).map fun v => v.quota / 32).getD 0

/-- A live slot key or resident key that a handle names: resident flag, key number, key (R325). -/
def findKey (s : State) (a h : Nat) : Option (Bool × Nat × Key) :=
  if handleSound s a h then
    let k := slotKey a (handleIndex h)
    if handleKind h = 2 then
      match KMap.get? s.ice.keys k with
      | some key => if key.live && decide (KMap.getD s.ice.gens k 0 = handleGen h) then some (false, k, key) else none
      | none => none
    else if handleKind h = 3 then
      match KMap.get? s.ice.residents k with
      | some key =>
        if key.live && decide (KMap.getD s.ice.residentGens k 0 = handleGen h) then some (true, k, key) else none
      | none => none
    else none
  else none

/-- The handle of a slot key. -/
def slotHandle (s : State) (k : Nat) : W64 := mkHandle s (k / 64) 2 (KMap.getD s.ice.gens k 0) (k % 64)

/-- The handle of a resident key. -/
def residentHandle (s : State) (k : Nat) : W64 :=
  mkHandle s (k / 64) 3 (KMap.getD s.ice.residentGens k 0) (k % 64)

/-- The lowest free key number of an allotment among `n` in a map. -/
def freeKey (m : KMap Key) (a n : Nat) : Option Nat :=
  ((List.range n).map (slotKey a)).find? fun k => !KMap.has m k

/-- A key with nothing in it, held for a job that will create it (R323). -/
def Key.reserved : Key :=
  { live := false, withdrawn := false, type := 0, usage := 0, lcmask := 0, exportable := false,
    admin := false, origin := 0, func := none, persisted := false, keyBytes := 0, binding := zeroBytes 8,
    priv := [], pub := [], stateful := none, blocks := 0, tr := [] }

/-- Keeps a slot for a job. -/
def reserveSlot (s : State) (k : Nat) : State :=
  { s with ice.keys := KMap.put s.ice.keys k Key.reserved }

/-- SWM blocks of KEY_BLOCKS an allotment has in use: residents, tree caches, digest and kept blocks
(R179, R185, R213, R287). -/
def keyBlocksUsed (s : State) (a : Nat) : Nat :=
  let own := fun (m : KMap Key) => m.filter fun p => decide (p.1 / 64 = a)
  let res := (own s.ice.residents).foldl (fun n p => n + p.2.blocks) 0
  let trees := (own s.ice.keys).foldl (fun n p => n + ((p.2.stateful.map fun t => t.cacheBlocks).getD 0)) 0
  let v := KMap.get? s.allots a
  res + trees + bit ((v.map fun x => x.digestBlock).getD false) + bit ((v.map fun x => x.keptBlock).getD false)

/-- Free KEY_BLOCKS of an allotment. -/
def keyBlocksFree (s : State) (a : Nat) : Nat :=
  ((KMap.get? s.allots a).map fun v => v.keyBlocks).getD 0 - keyBlocksUsed s a

/-! ## Attribute records and the journal (R328, R411) -/

/-- The 32-byte attribute record (Table 14-3). (DEDUCED, log entry 58) -/
def attributeRecord (k : Key) (resident : Bool) (handle : W64) : List Byte :=
  leBytes 8 handle.toNat ++ leBytes 2 k.type.toNat ++ leBytes 1 k.usage.toNat ++ leBytes 1 k.lcmask.toNat ++
    leBytes 1 (bit k.exportable) ++ leBytes 1 (bit k.admin) ++ leBytes 1 k.origin ++
    leBytes 1 (bit k.func.isSome + 2 * bit k.persisted + 4 * bit resident) ++ leBytes 1 (k.func.getD 0) ++
    zeroBytes 3 ++ leBytes 4 k.keyBytes ++ slice k.binding 0 8

/-- Posts a KEY_EVENT record for a slot key (Table 18-2). -/
def postKeyEvent (s : State) (holder subtype k : Nat) (key : Key) (value : Nat) : State × Nat :=
  postRecord s 3 subtype (BitVec.ofNat 16 (k / 64)) holder
    (attributeRecord key false (slotHandle s k) ++ leBytes 8 value)

/-- A change that the key image takes in the allotment's next append turn (R332, R344). -/
def postImageChange (s : State) (a : Nat) : State × Nat :=
  ({ s with ice.changes := s.ice.changes ++ [(s.ice.changeSeq, a)], ice.changeSeq := s.ice.changeSeq + 1 },
    s.ice.changeSeq)

/-- Gives back a slot kept for a job that created nothing live in it; a key that may already be in the image leaves it with
the next change (R141, R171). -/
def releaseReserved (s : State) (k : Nat) : State :=
  match KMap.get? s.ice.keys k with
  | some key =>
    if key.live then s
    else
      let s := { s with ice.keys := KMap.drop s.ice.keys k }
      if key.type = 0 then s else (postImageChange s (k / 64)).1
  | none => s

/-- Empties every digest context keyed from a handle (R298). -/
def emptyKeyed (s : State) (h : W64) : State :=
  { s with digests := KMap.keep s.digests fun _ c => !(c.keyed && decide (c.keyh = h)) }

/-- Zeroises the state slots of a handle. -/
def dropStateSlots (s : State) (h : W64) : State :=
  { s with ice.stateSlots := KMap.keep s.ice.stateSlots fun _ c => decide (c.keyh ≠ h) }

/-- Zeroises a slot: its value, its tree cache, its state slots and keyed contexts; its generation rises
(R326, R341). -/
def zeroiseSlot (s : State) (k : Nat) : State :=
  let h := slotHandle s k
  let s := emptyKeyed (dropStateSlots s h) h
  let s := { s with
    ice.keys := KMap.drop s.ice.keys k,
    ice.gens := KMap.put s.ice.gens k ((KMap.getD s.ice.gens k 0 + 1) % 65536) }
  (postImageChange s (k / 64)).1

/-- Frees a resident key (R341). -/
def zeroiseResident (s : State) (k : Nat) : State :=
  { s with
    ice.residents := KMap.drop s.ice.residents k,
    ice.residentGens := KMap.put s.ice.residentGens k ((KMap.getD s.ice.residentGens k 0 + 1) % 65536) }

/-- Withdraws a slot key, or ends its withdrawal (R120). -/
def setWithdrawn (s : State) (k : Nat) (b : Bool) : State :=
  { s with ice.keys := KMap.adjust s.ice.keys k fun x => { x with withdrawn := b } }

/-- Live slot keys of an allotment. -/
def liveKeys (s : State) (a : Nat) : List (Nat × Key) :=
  s.ice.keys.filter fun p => decide (p.1 / 64 = a) && p.2.live

/-- The present life-cycle state has a root (R333). -/
def hasRoot (s : State) : Bool := decide (s.lc.inForce = 1 ∨ s.lc.inForce = 2)

/-! ## Erasure (R342 to R344) -/

/-- The generations after a clear: one more for every local index of every allotment (R344). -/
def gensAfterClear (s : State) (count : Nat → Nat) (m : KMap Nat) : KMap Nat :=
  s.allots.foldl (fun m p => (List.range (count p.1)).foldl (fun m i =>
    KMap.put m (slotKey p.1 i) ((KMap.getD m (slotKey p.1 i) 0 + 1) % 65536)) m) m

/-- What both clears zero: slots, state slots, channel keys, derived keys, operand memories, plots, bodies,
digest contexts and the scramble and context-wrap keys (Table 14-9). -/
def clearVolatile (s : State) : State :=
  { s with
    ice := { s.ice with
      ready := false, keys := [], stateSlots := [], residents := [], opsRoot := [], scramble := [], wrapKey := [],
      clearing := true, changes := [],
      gens := gensAfterClear s (slotCount s) s.ice.gens,
      residentGens := gensAfterClear s (fun _ => 64) s.ice.residentGens },
    digests := [], plots := [], bodies := List.replicate 4 Body.idle,
    allots := KMap.mapAll s.allots fun _ v => { v with channelKey := none } }

/-- TZ_ERASE: the volatile items and the Lodge's key-encryption key (R342). -/
def tzErase (s : State) : State :=
  let s := clearVolatile s
  { s with lodge.kek := none, ice.erased := true, ice.secret := none }

/-- What is reloaded from the Vault after a reset, a mount or a pairing: upper nodes and signatures (R181). -/
def reloadCache (c : List CacheLevel) : List CacheLevel := c.map fun x => { x with current := none, next := 0 }

/-- A key's part with its cache as a reset, a mount or a pairing leaves it. -/
def unloadCache (x : Key) : Key := { x with stateful := x.stateful.map fun t => { t with cache := reloadCache t.cache } }

end Sys2Proof.Machine
end

