-- ==== Sys2Proof/Machine/Life.lean ====
section
/-! DEFINITION. How jobs, queues, functions and allotments come to an end: abort (R53, R54), quiesce (R70),
destruction and orphaning (R71, R113), and the full reset (R449, R463). -/
namespace Sys2Proof.Machine
open Sys2Proof

/-! ## Jobs -/

/-- A job that waits on an open stateful reservation (R54). -/
def onReservation (j : Job) : Bool := j.waits.any fun w => match w with
  | .reservation _ => true
  | _ => false

/-- A class of unit that has residences. -/
def hasResidences (u : Nat) : Bool := decide (u < 4) || decide (10 ≤ u)

/-- The key of a plot or operand set. -/
def plotKey (u r : Nat) : Nat := 8 * u + r

/-- Replaces one residence of a unit. -/
def setResidence (s : State) (u r : Nat) (v : Residence) : State :=
  setUnit s u { unitAt s u with residences := (unitAt s u).residences.set r v }

/-- One residence of a unit. -/
def residenceAt (s : State) (u r : Nat) : Residence := (unitAt s u).residences.getD r Residence.idle

/-- Gives a job's residence back; it is zeroed in the next tick before any other placement (R48). -/
def freeResidence (s : State) (j : Job) : State :=
  match j.place with
  | some (u, r) =>
    setResidence s u r { residenceAt s u r with job := none, lastUse := none, zeroAt := some (now s + 1) }
  | none => s

/-- Withdraws a job's posted draws from the Fountain (R316). -/
def dropDraws (s : State) (k : Nat) : State :=
  { s with fountain.queue := KMap.mapAll s.fountain.queue fun _ l => l.filter fun d => decide (d.job ≠ some k) }

/-- A resident index kept for a job that created nothing in it is free again. -/
def dropKeptResident (s : State) (n : Nat) : State :=
  if (KMap.get? s.ice.residents n).any (fun v => v.live) = true then s
  else { s with ice.residents := KMap.drop s.ice.residents n }

/-- A state slot or a curve index kept for a job that created nothing in it is free again (R202, R296). -/
def dropHeld (s : State) (opcode n : Nat) : State :=
  if opcode = 0x2106 then
    { s with ice.stateSlots := KMap.keep s.ice.stateSlots fun i v => decide (i ≠ n) || decide (v.keyh ≠ 0) }
  else { s with curves := KMap.keep s.curves fun i v => decide (i ≠ n) || v.live }

/-- Applies an operation to a number that may be absent. -/
def withSome (s : State) (o : Option Nat) (f : State → Nat → State) : State :=
  match o with
  | some n => f s n
  | none => s

/-- The record of a NOTARISE that has not been assembled goes with its job (R422). -/
def dropStatement (s : State) (j : Job) : State :=
  if j.entry.opcode.toNat = 0x3801 then
    { s with journal.pending := s.journal.pending.filter fun r => !j.waits.contains (.record r.id) }
  else s

/-- The reads of a job that are in flight are answered by the isolation wrapper: what returns is discarded, and each keeps
its tag until then (R53 step 2, R63). -/
def answerReads (s : State) (k : Nat) : State :=
  modAllot s (keyAllot k) fun a => { a with
    reads := a.reads.map fun r => if r.data && decide (r.owner = k) then { r with answered := true } else r }

/-- Gives back what a job holds for a key, a resident key, a state slot or a curve that it has not made live (R141, R185,
R202). -/
def giveBack (s : State) (j : Job) : State :=
  let s := withSome s j.slot releaseReserved
  let s := withSome s j.resident dropKeptResident
  withSome s j.held fun s n => dropHeld s j.entry.opcode.toNat n

/-- Clears what a job holds in the engines: residence, eviction block, slice body, draws, reserved slot, and its reads,
whose tags stay with the allotment (R53 steps 1 to 3). -/
def releaseEngines (s : State) (k : Nat) (j : Job) : State :=
  let s := giveBack (dropStatement (dropDraws (freeResidence (answerReads s k) j) k) j) j
  { s with
    evicted := KMap.drop s.evicted k,
    units := s.units.map fun u => { u with evictions := u.evictions.filter fun e => decide (e.job ≠ k) },
    bodies := s.bodies.map fun b => if b.active && decide (b.job = k) then Body.idle else b }

/-- Ends a job with a failing status; its residence and draws are given back. -/
def endJob (s : State) (k : Nat) (st : Status) : State :=
  match KMap.get? s.jobs k with
  | some j => modJob (releaseEngines s k j) k fun j => { failJob (now s) st j with place := none, slot := none, resident := none, held := none }
  | none => s

/-- A finished job's context leaves the lanes, but for a digest context that it wrote back (R290, R293). -/
def leaveLanes (s : State) (k : Nat) : State :=
  match KMap.get? s.jobs k with
  | some j =>
    if namesContext j && isSuccess j.status && (KMap.get? s.digests (ctxKey (keyAllot k) (ctxNumber j))).isSome then s
    else { s with units := s.units.map fun v => { v with lanes := v.lanes.map fun l => l.filter fun c => decide (c ≠ laneCtx k j) } }
  | none => s

/-- A fetched job leaves the device: its entry is host software's again (R74, R80). -/
def removeJob (s : State) (k : Nat) : State :=
  let s := leaveLanes s k
  let s := answerReads { s with jobs := KMap.drop s.jobs k } k
  let s := modQueue s (keyAllot k) (keyQueue k) fun q => { q with inflight := q.inflight.filter (· ≠ keyIndex k) }
  modAllot s (keyAllot k) fun a => { a with inflight := a.inflight - 1 }

/-- The bays of a destroyed allotment still run decoys, and what it held is not yet another's (R32, R113). -/
def isGhost (s : State) (a : Nat) : Bool := s.sched.ghosts.any fun g => decide (g.1 = a)

/-- Aborts one fetched job: at once, or when its open reservation ends (R53, R54). A further ABORT of a job that is being
aborted leaves the first one's bound as it is (R119). The admin command executing runs to its end; a quiesce or a link
reset takes its completion (R70, R107). (DEDUCED, log entry 107) A slice that runs in the tick of the ABORT ends with its results
discarded; whether SLICES and END_TICK of the ST_ABORTED completion count it the spec does not say, and the model does not
count it. (DESIGN CHOICE, log entry 111) -/
def abortJob (discard : Bool) (s : State) (k : Nat) : State :=
  match KMap.get? s.jobs k with
  | none => s
  | some j =>
    if onReservation j then
      modJob s k fun j =>
        { j with aborted := true, discard := j.discard || discard, decidedAt := if j.aborted then j.decidedAt else now s }
    else if s.regs.admJob = some k then modJob s k fun j => { j with discard := true }
    else
      if discard then removeJob (releaseEngines s k j) k
      else modJob (endJob s k .aborted) k fun j => { j with aborted := true }

/-- The fetched jobs of an allotment, in fetch order of the keys. -/
def jobsOf (s : State) (a : Nat) : List Nat := (s.jobs.map Prod.fst).filter fun k => decide (keyAllot k = a)

/-- The fetched jobs of a queue. -/
def jobsOfQueue (s : State) (a q : Nat) : List Nat := (jobsOf s a).filter fun k => decide (keyQueue k = q)

/-- Aborts a list of jobs. -/
def abortJobs (discard : Bool) (s : State) (ks : List Nat) : State := ks.foldl (abortJob discard) s

/-- The isolation wrapper answers an outstanding descriptor read of a queue: its tag stays held (R53 step 2). -/
def dropDescriptorRead (s : State) (a q : Nat) : State :=
  match KMap.get? s.queues (queueKey a q) with
  | some v =>
    if v.reading then
      modAllot (modQueue s a q fun v => { v with reading := false, stop := some .notOwned }) a fun x =>
        { x with reads := x.reads.map fun r => if !r.data && decide (r.owner = q) then { r with answered := true } else r }
    else modQueue s a q fun v => { v with awaiting := false, stop := some .notOwned }
  | none => s

/-- Aborts a queue (R53). -/
def abortQueue (s : State) (a q : Nat) : State :=
  dropDescriptorRead (abortJobs false s (jobsOfQueue s a q)) a q

/-- Aborts every queue of an allotment. -/
def abortAllotment (s : State) (a : Nat) : State :=
  (queuesOf s a).foldl (fun s k => dropDescriptorRead s a (k % 8)) (abortJobs false s (jobsOf s a))

/-! ## Quiesce of a function (R70) -/

/-- A queue as a quiesce leaves it: scan at 0, nothing in flight but jobs that wait, no moderation. -/
def Queue.quiesced (q : Queue) : Queue :=
  { q with
    scan := 0, inflight := [], stop := some .notOwned, awaiting := false, reading := false, rang := none,
    bell := none, pendCount := 0, pendSince := 0, pendTick := 0, pendNew := 0 }

/-- Quiesces one allotment. -/
def quiesceAllotment (s : State) (a : Nat) : State :=
  let s := (queuesOf s a).foldl (fun s k => dropDescriptorRead s a (k % 8)) s
  let s := abortJobs true s (jobsOf s a)
  let s := { s with
    queues := KMap.mapAll s.queues fun k q => if k / 8 = a then q.quiesced else q,
    digests := KMap.keep s.digests fun k _ => decide (k / 256 ≠ a) }
  modAllot s a fun v => { v with quiesced := true, channelKey := none }

/-- The allotments bound to a function. -/
def boundTo (s : State) (f : Nat) : List Nat :=
  (s.allots.filter fun p => decide (p.2.func = some f)).map Prod.fst

/-- Quiesces every allotment bound to a function. -/
def quiesceFunc (s : State) (f : Nat) : State := (boundTo s f).foldl quiesceAllotment s

/-- The function's allotments may fetch again. -/
def resumeFunc (s : State) (f : Nat) : State :=
  (boundTo s f).foldl (fun s a => modAllot s a fun v => { v with quiesced := false }) s

/-! ## Destruction (R71, R113) -/

/-- Frees every queue of an allotment. -/
def dropQueues (s : State) (a : Nat) : State := { s with queues := KMap.keep s.queues fun k _ => decide (k / 8 ≠ a) }

/-- The fetch turns of a destroyed allotment stand unused to the end of the epoch: its dedicated turn, and its place in
the shared rotation, which keeps its length (R32, R51). (DEDUCED, log entry 25) -/
def vacateTurns (s : State) (a : Nat) : State :=
  { s with
    sched.freedTurns := (s.sched.dedicated.filter fun p => decide (p.2 = a)).foldl (fun l p => insertNat p.1 l) s.sched.freedTurns,
    sched.rotation := s.sched.rotation.map fun x => if x = a then 4096 else x }

/-- Posts the KEY_EVENT records of every slot key of an allotment; answers their numbers. -/
def postDestroyed (s : State) (a holder : Nat) : State × List Nat :=
  (liveKeys s a).foldl (fun (p : State × List Nat) kv =>
    let q := postKeyEvent p.1 holder 3 kv.1 kv.2 0
    (q.1, p.2 ++ [q.2])) (s, [])

/-- The queues of an allotment are being freed: no doorbell restarts them. -/
def closeQueues (s : State) (a : Nat) : State :=
  { s with queues := KMap.mapAll s.queues fun k q => if k / 8 = a then { q with closing := true } else q }

/-- Starts the destruction of an allotment: abort, queues, records (R113 steps 1 to 3). -/
def beginDestroy (s : State) (a holder : Nat) : State :=
  let s := abortAllotment s a
  let p := postDestroyed (closeQueues s a) a holder
  modAllot p.1 a fun v => { v with destroying := true, destroyRecords := p.2 }

/-- Every job of the allotment has ended and every record is durable. -/
def destroyReady (s : State) (a : Nat) : Bool :=
  decide (jobsOf s a = []) && ((KMap.get? s.allots a).any fun v => v.destroying && decide (v.destroyRecords = []))

/-- The residences an allotment holds are zeroed. Who holds a residence changes at an epoch boundary only (R32): until
then no job is placed in them. -/
def clearHolder (s : State) (a : Nat) : State :=
  { s with units := s.units.map fun u => { u with
      residences := u.residences.map fun r =>
        if r.holder = some a then { r with job := none, lastUse := none, zeroAt := some (now s + 1) } else r } }

/-- Ends the destruction: everything of the allotment is zeroised and its number is free; its leased bays run
decoys until the epoch R39 gives (R113 steps 4 and 5). -/
def finishDestroy (s : State) (a : Nat) : State :=
  match KMap.get? s.allots a with
  | none => s
  | some v =>
    let s := (jobsOf s a).foldl (fun s k => removeJob (match KMap.get? s.jobs k with
      | some j => releaseEngines s k j
      | none => s) k) s
    let s := vacateTurns (dropQueues (clearHolder s a) a) a
    let own := fun (k : Nat) => decide (k / 64 ≠ a)
    let s := (postImageChange s a).1
    { s with
      allots := KMap.drop s.allots a,
      ice.keys := KMap.keep s.ice.keys fun k _ => own k,
      ice.gens := KMap.keep s.ice.gens fun k _ => own k,
      ice.residents := KMap.keep s.ice.residents fun k _ => own k,
      ice.residentGens := KMap.keep s.ice.residentGens fun k _ => own k,
      ice.stateSlots := KMap.keep s.ice.stateSlots fun k _ => decide (k / 8 ≠ a),
      digests := KMap.keep s.digests fun k _ => decide (k / 256 ≠ a),
      curves := KMap.keep s.curves fun k _ => decide (k / 8 ≠ a),
      kept := KMap.keep s.kept fun k _ => decide (k / 8 ≠ a),
      swm := KMap.keep s.swm fun k _ => decide (k ≠ a),
      sched.ghosts := s.sched.ghosts ++ [(a, effectEpoch (now s), v.lease)] }

/-- The completion of an aborted job is written: no output, bytes 1 to 63, then byte 0 (R53 step 4, R84). -/
def completeAborted (s : State) (k : Nat) : State :=
  match KMap.get? s.jobs k with
  | none => s
  | some j =>
    if j.phase = .decided then
      let f := funcOf s (keyAllot k)
      let c := completionBytes j (framed s k j) j.written
      let s := send s (.write f (entryAddress s k + 1) (c.drop 1) false)
      let s := send s (.write f (entryAddress s k) (c.take 1) false)
      removeJob { s with regs.completions := s.regs.completions + 1 } k
    else s

/-- Aborts an allotment and writes the completions of its jobs at once: after it the rings are gone. A job that waits on
its reservation follows when that ends, without a completion (R54, R71). (DEDUCED, log entry 107) -/
def abortAtOnce (s : State) (a : Nat) : State :=
  let s := abortAllotment s a
  (jobsOf s a).foldl completeAborted (abortJobs true s (jobsOf s a |>.filter fun k => (KMap.get? s.jobs k).any onReservation))

/-- Orphans an allotment: aborted, its queues destroyed, unbound; its keys, its channel key among them, its lease, windows
and flags stay (R71). -/
def orphan (s : State) (a : Nat) : State :=
  modAllot (dropQueues (abortAtOnce s a) a) a fun v => { v with orphaned := true, func := none, page := 0 }

/-- What a link reset does to one tenant allotment (R71). -/
def linkResetAllotment (s : State) (a : Nat) : State :=
  if liveKeys s a = [] then finishDestroy (abortAtOnce s a) a
  else if vaultWritable s then beginDestroy (abortAtOnce s a) a deviceHolder
  else orphan s a

/-- The tenant allotments. -/
def tenants (s : State) : List Nat := (s.allots.map Prod.fst).filter fun a => decide (1 ≤ a)

/-! ## Full reset (R449, R451, R453, R463) -/

/-- The media as the next mount will find it: not cleanly unmounted if it was in use. -/
def mediaKept (s : State) : Media :=
  { s.vault.media with clean := s.vault.media.clean && !vaultWritable s }

/-- The security events of a debug-unlocked boot wait for the first mount after the reset (R360). (DEDUCED, log entry 96) -/
def heldJournal (s : State) : Journal :=
  if s.lc.debug then
    { Journal.reset with
      nextId := s.journal.nextId,
      pending := s.journal.pending.filter fun r => decide (r.type = 2 ∧ r.subtype ≤ 1 ∧ r.holder = deviceHolder) }
  else Journal.reset

/-- Starts a full reset with a cause: only the Lodge, the OTP, the Vault media, the straps and what has left
the device stay. Stage 1 is next; a thermal trip is held there (R452). -/
def fullReset (s : State) (cause : Nat) (thermal : Bool) : State :=
  { State.reset with
    pending := s.pending, freeCount := s.freeCount, clocks := fullResetClocks s.clocks, otp := s.otp,
    lodge := { s.lodge with failures := s.lodge.failures + bit (s.boot.step ≠ 7) },
    boot := { Boot.reset with
      porst := false, stage := 0, cause := BitVec.ofNat 8 cause, straps := s.boot.straps,
      thermalHold := thermal, error := if thermal then 5 else 0 },
    vault := Vault.reset (mediaKept s),
    dump := { Dump.reset with mediaCopy := s.dump.mediaCopy, mediaDelivered := s.dump.mediaDelivered },
    link := { Link.reset with perst := s.link.perst, out := s.link.out },
    bridge := { Bridge.reset with present := s.bridge.present, wire := s.bridge.wire },
    sundial := { Sundial.reset with thresh := s.otp.sdlThresh },
    journal := heldJournal s,
    fountain := { Fountain.reset with
      biasLim := s.otp.biasLim, corrLim := s.otp.corrLim,
      cells := List.replicate 8 { Cell.reset with biasLim := s.otp.biasLim, corrLim := s.otp.corrLim } },
    gh := { Gatehouse.reset with whileOff := s.gh.whileOff, batteryLost := s.gh.batteryLost, quiesced := decide (s.lodge.holds ≠ 0) } }

/-- The fatal path begins (R478): FATAL_N, the AER report, EV_FATAL, no further fetch, slice or completion. A
second fatal error during it starts the reset at once (R479). (DEDUCED, log entry 104) -/
def fatalOf (s : State) (error unit which cause : Nat) : State :=
  match s.dump.active with
  | some (_, _, _, c) => fullReset s c false
  | none =>
    let s := { s with dump.active := some (now s, error, which, cause), boot.fatalN := true }
    let s := reportAer s 0 .uncorrectableInternal 0
    logEvent s 6 0x0070 0xFFFF (BitVec.ofNat 8 unit) (leBytes 2 error ++ leBytes 1 which)

/-- A fatal error that names a unit. -/
def fatal (s : State) (error unit cause : Nat) : State := fatalOf s error (if unit < 22 then unit else 0xFF) unit cause

/-! ## Block resets (R464, R477) -/

/-- The open window of a unit's block resets: units 0 to 11, 12 the Vault controller, 13 the Footbridge. -/
def resetWindowOf (s : State) (u : Nat) : Option (Nat × Nat) :=
  let w := if u = 12 then s.vault.block.window else if u = 13 then s.bridge.block.window else (unitAt s u).resetWindow
  w.filter fun p => decide (now s < p.1 + 2 ^ 24)

/-- The UNIT number of the Vault controller is 16 and of the Footbridge 17 (R468). (DEDUCED, log entry 44) -/
def eventUnit (u : Nat) : Nat := if u = 12 then 16 else if u = 13 then 17 else u

/-- EV_BLOCK_RESET. -/
def logBlockReset (s : State) (u cause : Nat) : State :=
  let s := { s with boot.blockResets := s.boot.blockResets + 1 }
  logEvent s 3 0x0033 0xFFFF (BitVec.ofNat 8 (eventUnit u))
    (leBytes 1 cause ++ leBytes 1 ((resetWindowOf s u).map Prod.snd |>.getD 0))

end Sys2Proof.Machine
end

