-- ==== Sys2Proof/Machine/Leases.lean ====
section
/-! DEFINITION. Leases: the division over units, the rules of LEASE_SET, and who may run where
(02_bandstand.md, R37 to R45). -/
namespace Sys2Proof.Machine
open Sys2Proof

/-- The bays of a lease in a class. -/
def classBays (l : Lease) : UnitClass → Nat
  | .parterre => l.parterre
  | .maze => l.maze
  | .sha2 => l.sha2
  | .orangery => l.orangery

/-- An allotment's bays on one unit of a class of `n` units (R40). -/
def unitShareOf (bays n u a : Nat) : Nat :=
  if n = 0 then 0 else bays / n + bit (decide ((u + (n - a % n)) % n < bays % n))

/-- An allotment's leased bays on a unit under a lease. -/
def unitShare (s : State) (l : Lease) (a u : Nat) : Nat :=
  let us := classUnits s (unitClass u)
  match us.findIdx? (· = u) with
  | some i => unitShareOf (classBays l (unitClass u)) us.length i a
  | none => 0

/-- Reserved residences on a unit: on each unit where the allotment holds a leased bay (Table 2-1). -/
def unitResidences (s : State) (l : Lease) (a u : Nat) : Nat :=
  if hasResidences u && decide (0 < unitShare s l a u) then l.residences else 0

/-- The lease in force in an epoch. -/
def leaseIn (v : Allotment) (e : Nat) : Lease :=
  match v.pendingLease with
  | some (e0, l) => if e0 ≤ e then l else v.lease
  | none => v.lease

/-- The lease with every pending change applied. -/
def leaseNext (v : Allotment) : Lease := (v.pendingLease.map Prod.snd).getD v.lease

/-- The leases of epoch `e` if allotment `a` is given `l` now, in place of any lease it still waits for: those of the
allotments, and those whose bays still run decoys (R39, R113, R117). -/
def leasesAfter (s : State) (a : Nat) (l : Lease) (e : Nat) : List (Nat × Lease) :=
  s.allots.map (fun p => (p.1, if p.1 = a then (if effectEpoch (now s) ≤ e then l else p.2.lease) else leaseIn p.2 e)) ++
    (s.sched.ghosts.filter fun g => decide (e < g.2.1)).map fun g => (g.1, g.2.2)

/-- Leased bays on a unit in an epoch, with allotment `a`'s lease replaced. -/
def baysAfter (s : State) (a : Nat) (l : Lease) (e u : Nat) : Nat :=
  (leasesAfter s a l e).foldl (fun n p => n + unitShare s p.2 p.1 u) 0

/-- Reserved residences on a unit in an epoch, with allotment `a`'s lease replaced. -/
def residencesAfter (s : State) (a : Nat) (l : Lease) (e u : Nat) : Nat :=
  (leasesAfter s a l e).foldl (fun n p => n + unitResidences s p.2 p.1 u) 0

/-- Residences that allotment `a` would shed on a unit. -/
def shedOn (s : State) (a : Nat) (old new : Lease) (u : Nat) : Nat :=
  unitResidences s old a u - unitResidences s new a u

/-- A unit is over its bays or residences in an epoch (R38, its first three conditions). -/
def overLeased (s : State) (a : Nat) (l : Lease) (e u : Nat) : Bool :=
  let bays := baysAfter s a l e u
  let res := residencesAfter s a l e u
  decide (4096 < bays) || decide (8 < res) || (hasResidences u && decide (res < 8) && decide (4096 - bays < 32 * (8 - res)))

/-- A breach of R38 by the new lease of allotment `a`, in either of the next two epochs: by the second every pending lease
holds, and in the first the allotment keeps the lease in force if R39 puts the new one off. -/
def leaseBreach (s : State) (a : Nat) (old l : Lease) : Bool :=
  ((List.range 12).filter (unitPresent s)).any fun u =>
    overLeased s a l (epochOf (now s) + 1) u || overLeased s a l (epochOf (now s) + 2) u ||
      (decide (0 < shedOn s a old l u) && decide (unitShare s old a u < 8))

/-- Residences shed over the whole device. -/
def shedTotal (s : State) (a : Nat) (old l : Lease) : Nat :=
  (List.range 12).foldl (fun n u => n + shedOn s a old l u) 0

/-- A class count above 4,096 times the present units (R10, R117). -/
def leaseRange (s : State) (l : Lease) : Bool :=
  [UnitClass.parterre, .maze, .sha2, .orangery].all fun c =>
    decide (classBays l c ≤ 4096 * (classUnits s c).length)

/-- The allotment holds leased bays on the class, or is shareable (R44). Allotment 0 holds no lease. -/
def mayUseClass (s : State) (a : Nat) (c : UnitClass) : Bool :=
  match KMap.get? s.allots a with
  | some v => v.shareable || decide (0 < classBays v.lease c)
  | none => false

/-- The allotment is a pool member from this epoch (R44, R111). -/
def inPool (v : Allotment) (e : Nat) : Bool := v.shareable && decide (v.shareFrom ≤ e) && !v.destroying

/-- Jobs of an allotment that hold working state in a residence or its eviction area (R112). -/
def jobsWithState (s : State) (a : Nat) : Nat :=
  (s.jobs.filter fun p => decide (keyAllot p.1 = a) && (p.2.place.isSome || p.2.evicted)).length

/-- The most jobs of R112. -/
def stateLimit (s : State) (a : Nat) : Nat :=
  match KMap.get? s.allots a with
  | some v => v.evictBlocks + (List.range 12).foldl (fun n u => n + unitResidences s v.lease a u) 0
  | none => 0

end Sys2Proof.Machine
end

