-- ==== Sys2Proof/Machine/Operands.lean ====
section
/-! DEFINITION. The operand forms of commands and jobs: the entry's fields, the fragment tables, the INLINE
block, the sealed framing, and register access sizes (04_rings.md, 03_host_link.md). -/
namespace Sys2Proof.Machine
open Sys2Proof

/-- Reads an entry's fields from its 64 bytes (Table 4-1). A reserved bit that is set in CTRL or AUX decides nothing.
(DESIGN CHOICE, log entry 116) -/
def parseEntry (b : List Byte) : Entry :=
  let f := fun off n => fieldAt b off n
  { ctrl := BitVec.ofNat 16 (f 0 2), opcode := BitVec.ofNat 16 (f 2 2), tag := BitVec.ofNat 32 (f 4 4),
    keyh := BitVec.ofNat 64 (f 8 8), inAddr := BitVec.ofNat 64 (f 16 8), inLen := BitVec.ofNat 32 (f 24 4),
    inFrags := BitVec.ofNat 32 (f 28 4), outAddr := BitVec.ofNat 64 (f 32 8), outLen := BitVec.ofNat 32 (f 40 4),
    aux := BitVec.ofNat 32 (f 44 4), inl := BitVec.ofNat 128 (f 48 16) }

/-- OWN (Table 4-2). -/
def Entry.own (e : Entry) : Bool := e.ctrl.getLsbD 0

/-- FRAG. -/
def Entry.frag (e : Entry) : Bool := e.ctrl.getLsbD 1

/-- NOTICE. -/
def Entry.notice (e : Entry) : Bool := e.ctrl.getLsbD 2

/-- CEMODE. -/
def Entry.ceMode (e : Entry) : Bool := e.ctrl.getLsbD 3

/-- `n` bytes of the INLINE block at an entry offset from 48, as a number. -/
def inlineField (j : Job) (off n : Nat) : Nat := fieldAt (leBytes 16 j.inl.toNat) (off - 48) n

/-- The INLINE block as bytes. -/
def inlineBytes (j : Job) : List Byte := leBytes 16 j.inl.toNat

/-- Bits of AUX. -/
def auxBits (j : Job) (hi lo : Nat) : Nat := bitsOf j.entry.aux.toNat hi lo

/-- One fragment-table entry (Table 4-5). -/
structure Fragment where
  addr : W64
  len : Nat
  last : Bool
  chain : Bool
deriving DecidableEq, Repr

/-- Reads the fragment entry at a byte offset of a table. -/
def fragmentAt (b : List Byte) (off : Nat) : Fragment :=
  let flags := fieldAt b (off + 12) 4
  { addr := BitVec.ofNat 64 (fieldAt b off 8), len := fieldAt b (off + 8) 4, last := bitOf flags 0,
    chain := bitOf flags 1 }

/-- How the walk of one table ends. -/
inductive Walk where
  /-- the walk is over: fragments, entries counted -/
  | done (frags : List (W64 × Nat)) (count : Nat)
  /-- a link to a table with a number of entries -/
  | link (addr : W64) (n : Nat) (frags : List (W64 × Nat)) (count : Nat)
  /-- an entry breaks R88: its address -/
  | bad (addr : W64)
deriving DecidableEq, Repr

/-- Walks the `n` entries of a table from index `i` (R86, R88). (DEDUCED, log entry 32) -/
def walkTable (base : W64) (b : List Byte) : Nat → Nat → List (W64 × Nat) → Nat → Walk
  | 0, _, fr, c => .done fr c
  | n + 1, i, fr, c =>
    let e := fragmentAt b (16 * i)
    let here := base + BitVec.ofNat 64 (16 * i)
    if 4096 ≤ c then .bad here
    else if e.last && e.chain then .bad here
    else if e.chain then
      if e.len = 0 ∨ 4096 < e.len then .bad here else .link e.addr e.len fr (c + 1)
    else if e.len = 0 ∨ 0x1000000 < e.len then .bad here
    else if e.last then .done (fr ++ [(e.addr, e.len)]) (c + 1)
    else walkTable base b n (i + 1) (fr ++ [(e.addr, e.len)]) (c + 1)

/-- The spans of host memory that hold the first `len` input bytes (R86). -/
def inputSpans : List (W64 × Nat) → Nat → List (W64 × Nat)
  | [], _ => []
  | (a, n) :: l, len => if len = 0 then [] else (a, min n len) :: inputSpans l (len - n)

/-- The nonce of a sealed entry: bytes 48 to 59 (R95). -/
def sealedNonce (j : Job) : List Byte := slice (leBytes 16 j.entry.inl.toNat) 0 12

/-- The output nonce: the input nonce with bit 0 of byte 0 set (R96). -/
def outputNonce (j : Job) : List Byte :=
  match sealedNonce j with
  | [] => []
  | b :: l => (b ||| 1) :: l

/-- The associated data that binds a ciphertext to its entry (Table 4-7). -/
def associatedData (k : Nat) (e : Entry) : List Byte :=
  leBytes 2 (keyAllot k) ++ leBytes 1 (keyQueue k) ++ leBytes 1 (e.ctrl.toNat / 256) ++ leBytes 2 e.opcode.toNat ++
    zeroBytes 2 ++ leBytes 4 e.tag.toNat ++ leBytes 8 e.keyh.toNat ++ leBytes 4 e.inLen.toNat ++
    leBytes 4 e.outLen.toNat ++ leBytes 4 e.aux.toNat

/-- The byte-enable pattern of a naturally aligned access of 4 or 8 bytes at an offset (R60). -/
def alignedAccess (offset : Nat) (enables : BitVec 8) : Option Nat :=
  if offset % 8 = 0 ∧ enables = 0xFF then some 8
  else if offset % 4 = 0 ∧ enables = 0x0F then some 4
  else none

end Sys2Proof.Machine
end

