-- ==== Sys2Proof/Machine/Twin.lean ====
section
/-! DEFINITION. Frames to the twin and the two-phase commit as the initiator opens it (R432, R436, R438, R439). -/
namespace Sys2Proof.Machine
open Sys2Proof

/-- Puts a frame into a holder's queue of frames (R433). -/
def postFrame (s : State) (holder type tseq : Nat) (payload : List Byte) : State :=
  let f : Frame :=
    { type := type, last := true, isSealed := true, holder := holder, fseq := 0, tseq := tseq, segment := 0,
      payload := payload }
  { s with bridge.queue := KMap.put s.bridge.queue holder (KMap.getD s.bridge.queue holder [] ++ [f]) }

/-- The header of a frame (Table 19-1). -/
def frameHeader (f : Frame) : List Byte :=
  leBytes 1 f.type ++ leBytes 1 (bit f.last + 2 * bit f.isSealed) ++ leBytes 2 (if f.holder = deviceHolder then 0xFFFF else f.holder) ++
    leBytes 4 f.payload.length ++ leBytes 8 f.fseq ++ leBytes 8 f.tseq ++ leBytes 4 f.segment ++ zeroBytes 4

/-- A frame on the wire: sealed under the link key, or with a tag of integrity alone (R430). The direction byte is 0 from East
to West. -/
def frameBytes (s : State) (f : Frame) : List Byte :=
  let h := frameHeader f
  if f.isSealed then
    h ++ gcmSeal (s.bridge.linkKey.getD []) ([if s.boot.straps.getLsbD 4 then 1 else 0, 0, 0, 0] ++ leBytes 8 f.fseq) h f.payload
  else h ++ f.payload ++ slice (sha3_256 (h ++ f.payload)) 0 16

/-- Hands the next segment of a message of a holder to the link (R429, R430). -/
def sendSegment (s : State) (h : Nat) (f : Frame) : State :=
  let last := decide (f.payload.length ≤ 912 * (f.segment + 1))
  let wire : Frame :=
    { f with holder := h, last := last, isSealed := s.bridge.linkKey.isSome && decide (f.type ≠ 0x24), fseq := s.bridge.fseqOut + 1,
             payload := (f.payload.drop (912 * f.segment)).take 912 }
  let sent := s.bridge.sent ++ [wire]
  let q := KMap.getD s.bridge.queue h []
  let q := if last then q.erase f else updateFirst (fun x => decide (x = f)) (fun x => { x with segment := x.segment + 1 }) q
  { s with bridge := { s.bridge with
    queue := KMap.put s.bridge.queue h q, fseqOut := s.bridge.fseqOut + 1, sent := sent.drop (sent.length - 256),
    wire := s.bridge.wire ++ [frameBytes s wire] } }

/-- A tamper notice to the twin, while the link is up: before every other message of the device that has not begun
(R382, R447). -/
def tamperNotice (s : State) (src level : Nat) : State :=
  if s.bridge.paired && s.bridge.linkUp then
    let f : Frame :=
      { type := 0x21, last := true, isSealed := true, holder := deviceHolder, fseq := 0, tseq := 0, segment := 0,
        payload := [BitVec.ofNat 8 src, BitVec.ofNat 8 level] ++ zeroBytes 6 ++ leBytes 8 s.lodge.secTime.toNat }
    let q := KMap.getD s.bridge.queue deviceHolder []
    let begun := q.takeWhile fun x => decide (x.segment ≠ 0) || decide (x.type = 0x21)
    { s with bridge.queue := KMap.put s.bridge.queue deviceHolder (begun ++ f :: q.drop begun.length) }
  else s

/-- The tamper notices that still wait go out under the link key before a tamper reset (R382, R447). (DEDUCED, log entry 75) -/
def flushNotices (s : State) : State :=
  if s.bridge.linkKey.isSome then
    ((KMap.getD s.bridge.queue deviceHolder []).filter fun f => decide (f.type = 0x21)).foldl (fun s f => sendSegment s deviceHolder f) s
  else s

/-- A TWIN record (Table 18-2): the twin's device ID, its next SEQ and head hash as last told. -/
def postTwin (s : State) (subtype : Nat) : State × Nat :=
  postRecord s 7 subtype 0xFFFF deviceHolder
    (leBytes 8 s.bridge.twinId.toNat ++ leBytes 8 s.bridge.peerNext ++ slice s.bridge.peerHead 0 32)

/-- A holder has a commit open; at most one is (R438). -/
def commitOpen (s : State) (holder : Nat) : Bool := s.bridge.commits.any fun p => decide (p.2.holder = holder)

/-- The payload of PREPARE and STATE: kind, identifier, contents (Table 19-3). -/
def itemPayload (kind item : Nat) (contents : List Byte) : List Byte :=
  leBytes 2 kind ++ leBytes 6 item ++ contents

/-- Posts PREPARE for a change in the tick of the change (R439 step 1); answers its TSEQ. -/
def openCommit (s : State) (holder kind item : Nat) (contents : List Byte) (records : List Nat)
    (job : Option Nat) : State × Nat :=
  let t := s.bridge.tseqNext
  let c : Commit :=
    { tseq := t, holder := holder, kind := kind, item := item, contents := contents, records := records,
      acked := false, committing := false, sentAt := none, job := job }
  let busy := commitOpen s holder
  let s := { s with bridge.commits := KMap.put s.bridge.commits t c, bridge.tseqNext := t + 1 }
  (if busy then s else postFrame s holder 0x10 t (itemPayload kind item contents), t)

/-- Ends a commit; the holder's next one, if any waits, posts its PREPARE (R438). -/
def closeCommit (s : State) (t : Nat) : State :=
  match KMap.get? s.bridge.commits t with
  | none => s
  | some c =>
    let s := { s with bridge.commits := KMap.drop s.bridge.commits t }
    match s.bridge.commits.find? fun p => decide (p.2.holder = c.holder) with
    | some p => postFrame s c.holder 0x10 p.1 (itemPayload p.2.kind p.2.item p.2.contents)
    | none => s

/-- The handle key, vault key and format nonce that a twin sends (kind 0x000E). -/
def vaultItem (s : State) : List Byte :=
  slice (handleKeyOf s) 0 32 ++ slice (vaultKey s s.vault.media.nonce) 0 32 ++ s.vault.media.nonce

/-! ## Mirrored items as PREPARE and STATE carry them (Table 19-4) -/

/-- An allotment's definition, with its key-encryption key and sealing seed. -/
def allotItem (s : State) (a : Nat) (v : Allotment) : List Byte :=
  let flags := bit v.isSealed + 2 * bit v.shareable + 4 * bit v.lendable + 8 * bit v.openOk + 16 * bit v.ceDefault
  leBytes 1 flags ++ leBytes 1 v.evictBlocks ++ leBytes 2 v.quota ++ leBytes 1 v.stageBlocks ++ leBytes 1 v.keyBlocks ++
    leBytes 1 (bit v.func.isSome) ++ leBytes 1 (v.func.getD 0) ++ leBytes 2 v.page ++ leBytes 2 v.tagGroup ++
    leBytes 1 v.curves.toNat ++ leBytes 1 v.maxLoad ++ slice v.salt 0 32 ++ leBytes 4 v.blobSerial.toNat ++
    slice (kekOf s a) 0 32 ++ slice (sealSeed s a) 0 64 ++
    leBytes 1 v.windows.length ++ v.windows.flatMap fun w =>
      leBytes 1 w.1 ++ leBytes 8 w.2.base.toNat ++ leBytes 8 w.2.limit.toNat ++ leBytes 1 w.2.perm.toNat

/-- A queue's definition. -/
def queueItem (q : Queue) : List Byte :=
  leBytes 8 q.base.toNat ++ leBytes 1 q.log2n ++ leBytes 2 (q.vector.getD 0xFFFF) ++ leBytes 2 q.modCount ++ leBytes 2 q.modTicks

/-- A lease. -/
def leaseItem (l : Lease) : List Byte :=
  leBytes 2 l.parterre ++ leBytes 2 l.maze ++ leBytes 2 l.sha2 ++ leBytes 2 l.orangery ++ leBytes 1 l.residences ++ leBytes 1 l.quantum

/-- The tamper configuration: sixteen entries as Table 5-6 has them, then the lock (kind 0x000B). -/
def tamperItem (g : Gatehouse) : List Byte :=
  (g.sources.flatMap fun x => leBytes 4 x.thresh.toNat ++ leBytes 1 x.resp ++ leBytes 1 (bit x.enable) ++ leBytes 2 x.rateN ++
    leBytes 4 x.rateWin ++ zeroBytes 4) ++ leBytes 1 (bit g.locked)

/-- The contents in which a slot key travels (kind 0x0004): its attribute record, then its index space and its parts,
wrapped under the pair key (R436). -/
def keyContents (s : State) (k : Nat) (key : Key) : List Byte :=
  attributeRecord key false (slotHandle s k) ++ kwpWrap (s.bridge.pairKey.getD [])
    (leBytes 8 ((key.stateful.map fun t => t.space).getD 0) ++ leBytes 8 ((key.stateful.map fun t => t.start).getD 0) ++
      leBytes 4 key.priv.length ++ key.priv ++ leBytes 4 key.pub.length ++ key.pub)

/-- An item of a kind as it stands (kinds 1 to 3, 0x0A and 0x0B). -/
def standingItem (s : State) (kind item : Nat) : List Byte :=
  match kind with
  | 1 => ((KMap.get? s.allots item).map (allotItem s item)).getD []
  | 2 => ((KMap.get? s.queues item).map queueItem).getD []
  | 3 => ((KMap.get? s.allots item).map fun v => leaseItem (leaseNext v)).getD []
  | 0x0A => leBytes 8 s.lodge.secTime.toNat
  | _ => tamperItem s.gh

end Sys2Proof.Machine
end

