-- ==== Sys2Proof/Machine/Admin.lean ====
section
/-! DEFINITION. The admin commands of allotments, queues, leases, windows, keys, curves and time
(05_admin_commands.md): their gates, preconditions, records, mirrored changes and effects. -/
namespace Sys2Proof.Machine
open Sys2Proof

/-- What an admin command does: its opcode, its marks in Table 5-3, its preconditions (a failing status and
REASON), the random bytes it draws, the records it writes first, the mirrored item it changes, and its effect with
EFFECT and DETAIL. -/
structure AdminCmd where
  opcode : Nat
  markS : Job → Bool
  markQ : Bool
  markE : Bool
  needsRoot : Bool
  check : State → Job → Option (Status × Nat)
  draws : Job → Option (Nat × Bool)
  /-- what happens in the dispatch tick, before any draw or record -/
  prepare : State → Job → State := fun s _ => s
  records : State → Job → State × List Nat
  mirrored : Job → Option (Nat × Nat)
  /-- what happens once the commit is done and before the effect, with records of its own to wait for (R360) -/
  follow : State → Job → State × List Nat := fun s _ => (s, [])
  apply : State → Nat → Job → State × Nat × Nat

/-- A refusal on a command's own preconditions (R107). -/
def refuse (reason : Nat) : Option (Status × Nat) := some (.resource, reason)

/-- The first check that fails. -/
def firstFailure : List (Bool × Option (Status × Nat)) → Option (Status × Nat)
  | [] => none
  | (b, f) :: l => if b then f else firstFailure l

/-- No record is written. -/
def noRecords (s : State) (_ : Job) : State × List Nat := (s, [])

/-- Puts the records of an admin command in allotment 0's positions (Table 18-4). -/
def adminRecord (s : State) (type subtype allot : Nat) (body : List Byte) : State × List Nat :=
  let p := postRecord s type subtype (BitVec.ofNat 16 allot) 0 body
  (p.1, [p.2])

/-- ALLOT in INLINE bytes 48 to 49. -/
def inlAllot (j : Job) : Nat := inlineField j 48 2

/-- The named tenant allotment, or the refusal (R113, R114, R117). The rules give allotment 0 no status: it is
ADMIN_TARGET. (DESIGN CHOICE, log entry 115) -/
def targetFailure (s : State) (a : Nat) : Option (Status × Nat) :=
  if a = 0 then refuse 0x000F
  else match KMap.get? s.allots a with
    | none => refuse 0x0002
    | some v => if v.destroying then refuse 0x0004 else none

/-- The allotment of a key's value or a default. -/
def allotAt (s : State) (a : Nat) : Option Allotment := KMap.get? s.allots a

/-! ## ALLOT_CREATE (R110, R111, R122) -/

/-- Sum of a measure over tenant allotments. -/
def tenantSum (s : State) (f : Allotment → Nat) : Nat :=
  s.allots.foldl (fun n p => if p.1 = 0 then n else n + f p.2) 0

/-- The SWM blocks an allotment holds. -/
def swmBlocks (v : Allotment) : Nat := v.evictBlocks + v.stageBlocks + v.keyBlocks

/-- The ranges of Table 5-4. -/
def createInRange (j : Job) : Bool :=
  let f := inlineField j
  decide (1 ≤ f 48 2 ∧ f 48 2 ≤ 4095) && decide (f 50 1 < 32) && decide (f 51 1 ≤ 16) &&
    decide (1 ≤ f 52 2 ∧ f 52 2 ≤ 256) &&
    (if bitOf (f 50 1) 0 then decide (1 ≤ f 54 1 ∧ f 54 1 ≤ 64) else decide (f 54 1 = 0)) &&
    decide (f 55 1 ≤ 96) && decide (f 56 8 = 0)

/-- The refusals of R110, in order. -/
def createCheck (s : State) (j : Job) : Option (Status × Nat) :=
  let f := inlineField j
  firstFailure
    [((allotAt s (f 48 2)).any fun v => !v.destroying, refuse 0x0003),
     ((allotAt s (f 48 2)).isSome, refuse 0x0004),
     (!createInRange j, refuse 0x0001),
     (decide (8128 < tenantSum s (fun v => v.quota) + f 52 2), refuse 0x0005),
     (decide (tenantBlocks s < tenantSum s swmBlocks + f 51 1 + f 54 1 + f 55 1), refuse 0x0005)]

/-- A new allotment: no lease, no windows, no queues, no binding (Table 5-4, R122). -/
def newAllotment (j : Job) (share : Nat) (salt : List Byte) : Allotment :=
  let f := inlineField j
  { isSealed := bitOf (f 50 1) 0, shareable := bitOf (f 50 1) 1, lendable := bitOf (f 50 1) 2,
    openOk := bitOf (f 50 1) 3, ceDefault := bitOf (f 50 1) 4, evictBlocks := f 51 1, quota := f 52 2,
    stageBlocks := f 54 1, keyBlocks := f 55 1, destroying := false, orphaned := false, quiesced := false,
    lease := Lease.none, pendingLease := none, shareFrom := share, windows := [], func := none, page := 0,
    tagGroup := 0, reads := [], inflight := 0, lastFetch := 7,
    lastResume := 7, curves := 0x7F, maxLoad := 8, salt := salt, blobSerial := 0, channelKey := none,
    digestBlock := false, keptBlock := false, destroyRecords := [], twinKeys := none, usage := [] }

/-- Creates the allotment. -/
def createApply (s : State) (_ : Nat) (j : Job) : State × Nat × Nat :=
  let v := newAllotment j (effectEpoch (now s)) (slice j.drawn 0 32)
  let s := { s with allots := KMap.put s.allots (inlAllot j) v }
  ((postImageChange s (inlAllot j)).1, 0, 0)

/-- ALLOT_CREATE. -/
def cmdAllotCreate : AdminCmd :=
  { opcode := 0xF001, markS := fun _ => true, markQ := false, markE := false, needsRoot := true,
    check := createCheck, draws := fun _ => some (32, false), records := noRecords,
    mirrored := fun j => some (1, inlAllot j), apply := createApply }

/-! ## ALLOT_DESTROY (R113) -/

/-- NOT_FOUND, BUSY, and no Vault while a slot holds a key. -/
def destroyCheck (s : State) (j : Job) : Option (Status × Nat) :=
  match targetFailure s (inlAllot j) with
  | some f => some f
  | none =>
    if !vaultWritable s && decide (liveKeys s (inlAllot j) ≠ []) then some (.vaultMedia, 0) else none

/-- Unpaired: abort, queues and the KEY_EVENT records, in this order (R113). Paired: the records alone, for the change takes
effect on neither twin before the commit (R109, R439). (DEDUCED, log entry 45) -/
def destroyRecords (s : State) (j : Job) : State × List Nat :=
  if mirrors s then postDestroyed s (inlAllot j) 0
  else
    let s := beginDestroy s (inlAllot j) 0
    (s, ((allotAt s (inlAllot j)).map fun v => v.destroyRecords).getD [])

/-- Once the commit is done: the destruction that has not yet begun begins; its records are durable. -/
def destroyFollow (s : State) (j : Job) : State × List Nat :=
  let a := inlAllot j
  if (allotAt s a).any fun v => v.destroying then (s, [])
  else (modAllot (closeQueues (abortAllotment s a) a) a fun v => { v with destroying := true, destroyRecords := [] }, [])

/-- Everything zeroised and returned. -/
def destroyApply (s : State) (_ : Nat) (j : Job) : State × Nat × Nat := (finishDestroy s (inlAllot j), 0, 0)

/-- ALLOT_DESTROY. -/
def cmdAllotDestroy : AdminCmd :=
  { opcode := 0xF002, markS := fun _ => true, markQ := true, markE := true, needsRoot := false,
    check := destroyCheck, draws := fun _ => none, records := destroyRecords,
    mirrored := fun j => some (1, inlAllot j), follow := destroyFollow, apply := destroyApply }

/-! ## ALLOT_BIND (R114) -/

/-- Function `f` is enabled. -/
def funcEnabled (s : State) (f : Nat) : Bool :=
  decide (f = 0) || (s.link.vfEnable && decide (f ≤ s.link.numVfs) && decide (f ≤ 63))

/-- The refusals of R114. -/
def bindCheck (s : State) (j : Job) : Option (Status × Nat) :=
  let a := inlAllot j
  let f := inlineField j 50 1
  let page := inlineField j 51 1
  match targetFailure s a with
  | some e => some e
  | none => firstFailure
      [(decide (63 < f), refuse 0x0001),
       (!funcEnabled s f, refuse 0x0002),
       (decide (queuesOf s a ≠ []), refuse 0x0009),
       (decide (f ≠ 0) && (boundTo s f).any (fun b => decide (b ≠ a) &&
          (allotAt s b).any fun v => decide (v.page = page)), refuse 0x0003),
       (decide (f = 0) && decide (256 ≤ ((boundTo s 0).filter (· ≠ a)).length), refuse 0x0005)]

/-- The lowest PF0 tag group no allotment holds (R63, R114). -/
def freeTagGroup (s : State) (a : Nat) : Nat :=
  let used := (boundTo s 0).filterMap fun b => if b = a then none else (allotAt s b).map fun v => v.tagGroup
  ((List.range 256).find? fun g => !used.contains g).getD 0

/-- Binds the allotment. -/
def bindApply (s : State) (_ : Nat) (j : Job) : State × Nat × Nat :=
  let a := inlAllot j
  let f := inlineField j 50 1
  let page := if f = 0 then a else inlineField j 51 1
  let g := if f = 0 then freeTagGroup s a else page
  let s := modAllot s a fun v =>
    { v with func := some f, page := page, tagGroup := g, orphaned := false, quiesced := !masters s f }
  ((postImageChange s a).1, 0, 0)

/-- ALLOT_BIND. -/
def cmdAllotBind : AdminCmd :=
  { opcode := 0xF003, markS := fun _ => true, markQ := false, markE := false, needsRoot := false,
    check := bindCheck, draws := fun _ => none, records := noRecords, mirrored := fun j => some (1, inlAllot j),
    apply := bindApply }

/-! ## QUEUE_CREATE and QUEUE_DESTROY (R115, R116) -/

/-- The allotment of QUEUE_CREATE and its queue number. -/
def qcAllot (j : Job) : Nat := inlineField j 56 2

/-- QUEUE. -/
def qcQueue (j : Job) : Nat := inlineField j 58 1

/-- A ring lies wholly within windows each of which grants both read and write (R73). -/
def ringCovered (ws : KMap Window) (base n : Nat) : Bool :=
  (windowFault (ws.filter fun p => decide (p.2.perm = 3)) 0 base (64 * n)).isNone

/-- MSI-X vectors of a function (R67). -/
def vectorCount (s : State) (f : Nat) : Nat :=
  if f = 0 then 64 else if s.link.numVfs = 0 then 0 else min 256 (1984 / s.link.numVfs)

/-- The vector condition of R67: in range, serving no other allotment, and not the event-log vector, which serves no queue
(R472). -/
def vectorFree (s : State) (a f v : Nat) : Bool :=
  decide (v < vectorCount s f) &&
    !(s.queues.any fun p => decide (p.1 / 8 ≠ a) && decide (funcOf s (p.1 / 8) = f) && decide (p.2.vector = some v)) &&
    !(decide (f = 0) && decide (s.events.vector = v))

/-- The checks of R115, in order. The rule gives AUX[31:16] other than 0 no status: it is FIELD_RANGE.
(DESIGN CHOICE, log entry 115) -/
def queueCreateCheck (s : State) (j : Job) : Option (Status × Nat) :=
  let a := qcAllot j
  let q := qcQueue j
  let log := inlineField j 59 1
  let vec := inlineField j 60 2
  let range := decide (a ≤ 4095) && decide (q ≤ 7) && !(decide (a = 0) && decide (q = 0)) &&
    decide (4 ≤ log ∧ log ≤ 12) && decide (inlineField j 63 1 = 0) && decide (auxBits j 31 16 = 0)
  if !range then refuse 0x0001
  else match allotAt s a with
    | none => refuse 0x0002
    | some v => firstFailure
        [(v.destroying, refuse 0x0004),
         (v.func.isNone, refuse 0x0009),
         (KMap.has s.queues (queueKey a q), refuse 0x0003),
         (decide (16384 ≤ s.queues.length), refuse 0x0005),
         (decide (inlineField j 48 8 % 4096 ≠ 0) || !ringCovered v.windows (inlineField j 48 8) (2 ^ log),
           refuse 0x0008),
         (decide (vec ≠ 0xFFFF) && !vectorFree s a (v.func.getD 0) vec, refuse 0x0007)]

/-- A new queue: scan pointer 0, stopped NOT_OWNED. -/
def newQueue (base : W64) (log : Nat) (vec : Option Nat) (count ticks : Nat) : Queue :=
  { base := base, log2n := log, scan := 0, inflight := [], stop := some .notOwned, awaiting := false,
    reading := false, rang := none, bell := none, vector := vec, modCount := count, modTicks := ticks,
    pendCount := 0, pendSince := 0, pendTick := 0, pendNew := 0, closing := false }

/-- The first queue of a tenant ends every halt (R518). -/
def releaseHalts (s : State) : State := { s with lc.halt := 0 }

/-- Creates the queue. -/
def queueCreateApply (s : State) (_ : Nat) (j : Job) : State × Nat × Nat :=
  let vec := inlineField j 60 2
  let q := newQueue (BitVec.ofNat 64 (inlineField j 48 8)) (inlineField j 59 1)
    (if vec = 0xFFFF then none else some vec) (inlineField j 62 1 + 1) (auxBits j 15 0)
  let s := if decide (qcAllot j = 0) || tenantsActive s then s else releaseHalts s
  ({ s with queues := KMap.put s.queues (queueKey (qcAllot j) (qcQueue j)) q }, 0, 0)

/-- QUEUE_CREATE. -/
def cmdQueueCreate : AdminCmd :=
  { opcode := 0xF004, markS := fun _ => true, markQ := false, markE := false, needsRoot := false,
    check := queueCreateCheck, draws := fun _ => none, records := noRecords,
    mirrored := fun j => some (2, queueKey (qcAllot j) (qcQueue j)), apply := queueCreateApply }

/-- The refusals of R116. -/
def queueDestroyCheck (s : State) (j : Job) : Option (Status × Nat) :=
  let a := inlAllot j
  let q := inlineField j 50 1
  firstFailure
    [(decide (a = 0 ∧ q = 0), refuse 0x000F),
     (!KMap.has s.queues (queueKey a q) || decide (7 < q), refuse 0x0002),
     ((allotAt s a).any fun v => v.destroying, refuse 0x0004)]

/-- Aborts the queue once any commit is done (R109); no doorbell restarts it. -/
def queueDestroyBegin (s : State) (j : Job) : State × List Nat :=
  let a := inlAllot j
  let q := inlineField j 50 1
  (modQueue (abortQueue s a q) a q fun v => { v with closing := true }, [])

/-- Frees the queue's context and vector. -/
def queueDestroyApply (s : State) (_ : Nat) (j : Job) : State × Nat × Nat :=
  ({ s with queues := KMap.drop s.queues (queueKey (inlAllot j) (inlineField j 50 1)) }, 0, 0)

/-- QUEUE_DESTROY. -/
def cmdQueueDestroy : AdminCmd :=
  { opcode := 0xF005, markS := fun _ => true, markQ := true, markE := true, needsRoot := false,
    check := queueDestroyCheck, draws := fun _ => none, records := noRecords,
    mirrored := fun j => some (2, queueKey (inlAllot j) (inlineField j 50 1)), follow := queueDestroyBegin,
    apply := queueDestroyApply }

/-! ## LEASE_SET (R38, R39, R117) -/

/-- The lease a LEASE_SET carries. -/
def leaseOf (j : Job) : Lease :=
  { parterre := inlineField j 50 2, maze := inlineField j 52 2, sha2 := inlineField j 54 2,
    orangery := inlineField j 56 2, residences := inlineField j 58 1, quantum := inlineField j 59 1 }

/-- The refusals of R117, in order. -/
def leaseCheck (s : State) (j : Job) : Option (Status × Nat) :=
  let a := inlAllot j
  let l := leaseOf j
  match targetFailure s a, allotAt s a with
  | some e, _ => some e
  | none, none => refuse 0x0002
  | none, some v => firstFailure
      [(!leaseRange s l || decide (l.residences < 1 ∨ 8 < l.residences) || decide (l.quantum < 1 ∨ 16 < l.quantum),
         refuse 0x0001),
       (leaseBreach s a v.lease l, refuse 0x0006),
       (decide (v.evictBlocks < shedTotal s a v.lease l), refuse 0x0006)]

/-- The lease takes effect at the epoch of R39. -/
def leaseApply (s : State) (_ : Nat) (j : Job) : State × Nat × Nat :=
  let e := effectEpoch (now s)
  let s := modAllot s (inlAllot j) fun v => { v with pendingLease := some (e, leaseOf j) }
  ((postImageChange s (inlAllot j)).1, e, 0)

/-- LEASE_SET. -/
def cmdLeaseSet : AdminCmd :=
  { opcode := 0xF006, markS := fun _ => true, markQ := false, markE := false, needsRoot := false,
    check := leaseCheck, draws := fun _ => none, records := noRecords, mirrored := fun j => some (3, inlAllot j),
    apply := leaseApply }

/-! ## WINDOW_SET (R118) -/

/-- The windows of an allotment after a WINDOW_SET. -/
def windowsAfter (ws : KMap Window) (j : Job) : KMap Window :=
  let perm := auxBits j 21 20
  if perm = 0 then KMap.drop ws (auxBits j 18 16)
  else KMap.put ws (auxBits j 18 16)
    { base := BitVec.ofNat 64 (inlineField j 48 8), limit := BitVec.ofNat 64 (inlineField j 56 8),
      perm := BitVec.ofNat 2 perm }

/-- Every ring of the allotment stays covered. -/
def ringsCovered (s : State) (a : Nat) (ws : KMap Window) : Bool :=
  s.queues.all fun p => decide (p.1 / 8 ≠ a) || ringCovered ws p.2.base.toNat (2 ^ p.2.log2n)

/-- The refusals of R118, in order. -/
def windowCheck (s : State) (j : Job) : Option (Status × Nat) :=
  let a := auxBits j 15 0
  let base := inlineField j 48 8
  let limit := inlineField j 56 8
  match allotAt s a with
  | none => refuse 0x0002
  | some v => firstFailure
      [(v.destroying, refuse 0x0004),
       (decide (auxBits j 31 22 ≠ 0) || decide (auxBits j 19 19 ≠ 0) ||
         (decide (auxBits j 21 20 ≠ 0) && !(decide (base % 4096 = 0) && decide (limit % 4096 = 0) && decide (base < limit))),
         refuse 0x0001),
       (decide (a = 0 ∧ auxBits j 18 16 = 0), refuse 0x000F),
       (!ringsCovered s a (windowsAfter v.windows j), refuse 0x0008)]

/-- Sets the window. -/
def windowApply (s : State) (_ : Nat) (j : Job) : State × Nat × Nat :=
  let a := auxBits j 15 0
  let s := modAllot s a fun v => { v with windows := windowsAfter v.windows j }
  (if a = 0 then s else (postImageChange s a).1, 0, 0)

/-- WINDOW_SET. -/
def cmdWindowSet : AdminCmd :=
  { opcode := 0xF007, markS := fun _ => true, markQ := false, markE := false, needsRoot := false,
    check := windowCheck, draws := fun _ => none, records := noRecords, mirrored := fun j => some (1, auxBits j 15 0),
    apply := windowApply }

/-! ## ABORT (R53, R54, R119) -/

/-- The jobs of an ABORT's target that are still being aborted or not yet written back. -/
def abortTargets (s : State) (j : Job) : List Nat :=
  let a := inlAllot j
  let ks := if inlineField j 50 1 = 0 then jobsOfQueue s a (inlineField j 51 1) else jobsOf s a
  ks.filter fun k => (KMap.get? s.jobs k).any fun x => x.aborted

/-- The refusals of R119. It gives a SCOPE above 1 no status: it is FIELD_RANGE. (DESIGN CHOICE, log entry 115) -/
def abortCheck (s : State) (j : Job) : Option (Status × Nat) :=
  let a := inlAllot j
  let scope := inlineField j 50 1
  let q := inlineField j 51 1
  firstFailure
    [(decide (1 < scope), refuse 0x0001),
     (decide (a = 0) && (decide (scope = 1) || decide (q = 0) || decide (7 < q)), refuse 0x000F),
     ((allotAt s a).isNone, refuse 0x0002),
     (decide (scope = 0) && (decide (7 < q) || !KMap.has s.queues (queueKey a q)), refuse 0x0002)]

/-- Aborts the target. -/
def abortBegin (s : State) (j : Job) : State × List Nat :=
  let a := inlAllot j
  if (allotAt s a).any fun v => v.destroying then (s, [])
  else if inlineField j 50 1 = 0 then (abortQueue s a (inlineField j 51 1), []) else (abortAllotment s a, [])

/-- An ABORT that waited yields the bound owed to allotment 0 (R55, conflict 1). -/
def abortApply (s : State) (_ : Nat) (j : Job) : State × Nat × Nat :=
  (if j.flags &&& flagAbortExtended = 0 then s else logYield s 0 (inlAllot j) 3, 0, 0)

/-- ABORT. -/
def cmdAbort : AdminCmd :=
  { opcode := 0xF008, markS := fun _ => false, markQ := true, markE := true, needsRoot := false,
    check := abortCheck, draws := fun _ => none, records := abortBegin, mirrored := fun _ => none,
    apply := abortApply }

/-! ## KEY_ADMIN (R120) -/

/-- The handle of KEY_ADMIN. -/
def kaHandle (j : Job) : Nat := inlineField j 48 8

/-- The key KEY_ADMIN names, in any allotment. -/
def kaKey (s : State) (j : Job) : Option (Bool × Nat × Key) :=
  (findKey s (handleAllot (kaHandle j)) (kaHandle j)).bind fun p => if p.2.2.withdrawn then none else some p

/-- The operation's range, then the handle, then the Vault for a destroy. R120 gives an operation other than 1 and 2 no
status: it is FIELD_RANGE. (DESIGN CHOICE, log entry 115) -/
def keyAdminCheck (s : State) (j : Job) : Option (Status × Nat) :=
  let op := inlineField j 56 1
  if op ≠ 1 ∧ op ≠ 2 then refuse 0x0001
  else match kaKey s j with
    | none => some (.keyHandle, 0)
    | some _ => if op = 1 && !vaultWritable s then some (.vaultMedia, 0) else none

/-- Withdraws the key of a handle, or ends its withdrawal (R120). -/
def withdraw (s : State) (h : Nat) (b : Bool) : State :=
  match findKey s (handleAllot h) h with
  | some (false, k, _) => setWithdrawn s k b
  | some (true, k, _) => { s with ice.residents := KMap.adjust s.ice.residents k fun x => { x with withdrawn := b } }
  | none => s

/-- The jobs that were dispatched with a handle in the present tick and whose completion is not yet written. -/
def startedNow (s : State) (h : Nat) : List Nat :=
  (s.jobs.filter fun p => decide (p.2.entry.keyh.toNat = h) && decide (p.2.dispatch = now s) && decide (1 ≤ p.2.dispatchOrder) &&
    decide (p.2.entry.opcode.toNat ≠ 0x3009) && decide (family p.2 ≠ 0xF0) && decide (p.2.done = 0)).map Prod.fst

/-- A key is withdrawn in a destroy's dispatch tick: jobs that reached their dispatch earlier in this tick end with
ST_KEY_HANDLE as those that follow do, and leave any reservation they joined (R120, R163). -/
def keyWithdraw (s : State) (h : Nat) : State :=
  let ks := startedNow s h
  let s := ks.foldl (fun s k => endJob s k .keyHandle) s
  let leave := fun (x : Key) => { x with stateful := x.stateful.map fun t => { t with joined := t.joined.filter fun k => !ks.contains k } }
  let s := match findKey s (handleAllot h) h with
    | some (false, k, _) => { s with ice.keys := KMap.adjust s.ice.keys k leave }
    | _ => s
  withdraw s h true

/-- The reservation of a key being destroyed is still open and not detached (R120). -/
def keyReservationOpen (s : State) (h : Nat) : Bool :=
  match findKey s (handleAllot h) h with
  | some (false, _, key) => key.stateful.any fun t => t.opened.isSome && !t.detached
  | _ => false

/-- The KEY_EVENT record of a key that is destroyed, in a holder's positions. -/
def keyDestroyRecords (s : State) (h holder : Nat) : State × List Nat :=
  match findKey s (handleAllot h) h with
  | some (false, k, key) =>
    let p := postKeyEvent s holder 3 k key 0
    (p.1, [p.2])
  | some (true, k, key) =>
    let p := postRecord s 3 3 (BitVec.ofNat 16 (k / 64)) holder (attributeRecord key true (residentHandle s k) ++ leBytes 8 0)
    (p.1, [p.2])
  | none => (s, [])

/-- Zeroises the key after its record. -/
def keyAdminApply (s : State) (_ : Nat) (j : Job) : State × Nat × Nat :=
  match findKey s (handleAllot (kaHandle j)) (kaHandle j) with
  | some (false, k, _) => (zeroiseSlot s k, 0, 0)
  | some (true, k, _) => (zeroiseResident s k, 0, 0)
  | none => (s, 0, 0)

/-- KEY_ADMIN destroy. -/
def cmdKeyDestroy : AdminCmd :=
  { opcode := 0xF009, markS := fun j => decide (inlineField j 56 1 = 1), markQ := false, markE := false,
    needsRoot := true, check := keyAdminCheck, draws := fun _ => none,
    prepare := fun s j => keyWithdraw s (kaHandle j), records := fun s j => keyDestroyRecords s (kaHandle j) 0,
    mirrored := fun j =>
      if handleKind (kaHandle j) = 2 then some (4, kaHandle j / 2 ^ 48 % 4096 * 64 + handleIndex (kaHandle j)) else none,
    apply := keyAdminApply }

/-- Describe writes the attribute record to the output buffer. -/
def describeApply (s : State) (k : Nat) (j : Job) : State × Nat × Nat :=
  match findKey s (handleAllot (kaHandle j)) (kaHandle j) with
  | some (resident, _, key) =>
    (modJob s k fun x => { x with output := attributeRecord key resident (BitVec.ofNat 64 (kaHandle j)) }, 0, 0)
  | none => (s, 0, 0)

/-- KEY_ADMIN describe. -/
def cmdKeyDescribe : AdminCmd :=
  { cmdKeyDestroy with markS := fun _ => false, prepare := fun s _ => s, records := noRecords, mirrored := fun _ => none,
                       apply := describeApply }

/-! ## CURVE_POLICY (R122) -/

/-- Loaded curves an allotment holds. -/
def loadedCurves (s : State) (a : Nat) : Nat :=
  (s.curves.filter fun p => decide (p.1 / 8 = a) && p.2.live && !p.2.unloading).length

/-- The refusals of R122. -/
def curvePolicyCheck (s : State) (j : Job) : Option (Status × Nat) :=
  let a := inlAllot j
  match allotAt s a with
  | none => refuse 0x0002
  | some v => firstFailure
      [(v.destroying, refuse 0x0004),
       (decide (128 ≤ inlineField j 50 1) || decide (8 < inlineField j 51 1), refuse 0x0001),
       (decide (inlineField j 51 1 < loadedCurves s a), refuse 0x0004)]

/-- Sets the policy. -/
def curvePolicyApply (s : State) (_ : Nat) (j : Job) : State × Nat × Nat :=
  let s := modAllot s (inlAllot j) fun v =>
    { v with curves := BitVec.ofNat 7 (inlineField j 50 1), maxLoad := inlineField j 51 1 }
  (if inlAllot j = 0 then s else (postImageChange s (inlAllot j)).1, 0, 0)

/-- CURVE_POLICY. -/
def cmdCurvePolicy : AdminCmd :=
  { opcode := 0xF00B, markS := fun _ => true, markQ := false, markE := false, needsRoot := false,
    check := curvePolicyCheck, draws := fun _ => none, records := noRecords,
    mirrored := fun j => some (1, inlAllot j), apply := curvePolicyApply }

/-! ## TIME_SET (R123) -/

/-- BACKWARD, then the Vault. -/
def timeCheck (s : State) (j : Job) : Option (Status × Nat) :=
  if inlineField j 48 8 ≤ s.lodge.secTime.toNat then refuse 0x000C
  else if !vaultWritable s then some (.vaultMedia, 0) else none

/-- The TIME_SET record: the counter as it stands and the new value. -/
def timeRecords (s : State) (j : Job) : State × List Nat :=
  adminRecord s 6 0 0xFFFF (leBytes 8 s.lodge.secTime.toNat ++ leBytes 8 (inlineField j 48 8))

/-- Sets the counter; it never runs backward. -/
def timeApply (s : State) (_ : Nat) (j : Job) : State × Nat × Nat :=
  let v := inlineField j 48 8
  ({ s with lodge := { s.lodge with secTime := BitVec.ofNat 64 (max v s.lodge.secTime.toNat), timeValid := true } }, 0, 0)

/-- TIME_SET. -/
def cmdTimeSet : AdminCmd :=
  { opcode := 0xF00C, markS := fun _ => true, markQ := false, markE := false, needsRoot := false,
    check := timeCheck, draws := fun _ => none, records := timeRecords, mirrored := fun _ => some (10, 0),
    apply := timeApply }

/-! ## PATCH_STATUS (R134) -/

/-- The 64 bytes of Table 5-7. -/
def patchStatusBytes (s : State) : List Byte :=
  leBytes 4 s.stores.patchLevel.toNat ++
    leBytes 2 (s.stores.match64.filter fun m => m.getLsbD 63).length ++ leBytes 2 s.boot.rollback ++
    slice s.stores.patchMeasurement 0 32 ++ zeroBytes 24

/-- Writes the bytes and changes nothing. -/
def patchStatusApply (s : State) (k : Nat) (_ : Job) : State × Nat × Nat :=
  (modJob s k fun x => { x with output := patchStatusBytes s }, 0, 0)

/-- PATCH_STATUS. -/
def cmdPatchStatus : AdminCmd :=
  { opcode := 0xF018, markS := fun _ => false, markQ := true, markE := true, needsRoot := false,
    check := fun _ _ => none, draws := fun _ => none, records := noRecords, mirrored := fun _ => none,
    apply := patchStatusApply }

/-! ## Running a command -/

/-- The gates of R108: the status and REASON of the first that fails. -/
def adminGate (c : AdminCmd) (s : State) (j : Job) : Option (Status × Nat) :=
  if s.lc.inForce = 3 && !c.markE then some (.lifecycle, 0)
  else if quiesced s && !c.markQ then some (.tamperQuiesced, 0)
  else if inSolo s && c.markS j then some (.twinUnavailable, 0x000B)
  else if c.needsRoot && !hasRoot s then some (.lifecycle, 0)
  else none

/-- The gates and then the preconditions. -/
def adminFailure (c : AdminCmd) (s : State) (j : Job) : Option (Status × Nat) := adminGate c s j <|> c.check s j

/-- Completes a command with its effect (R103, R106). An effect that fails in part leaves a failing status. -/
def adminFinish (c : AdminCmd) (s : State) (k : Nat) : State :=
  match KMap.get? s.jobs k with
  | none => s
  | some j =>
    let p := c.apply s k j
    modJob p.1 k fun x =>
      { decideAt (now s) (if isSuccess x.status then successOf x.flags else x.status) x with
        effect := BitVec.ofNat 64 p.2.1, detail := BitVec.ofNat 48 p.2.2, reason := 0 }

/-- Fails a command: no effect on any state but its completion (R107). -/
def adminFail (s : State) (k : Nat) (st : Status) (reason : Nat) : State :=
  modJob s k fun j => { failJob (now s) st j with reason := reason, effect := 0, detail := 0 }

/-- The contents in which the change of an admin command travels: the item as the command will leave it, nothing for what it
destroys, the image of OPEN_LOAD, the mask of TAMPER_CLEAR, what the command leaves in its context (VAULT_FORMAT the keys of
kind 0x000E), a destroyed key's attribute record; a command without a kind travels itself. (DEDUCED, log entry 79) -/
def adminContents (c : AdminCmd) (s : State) (k : Nat) (j : Job) (kind item : Nat) : List Byte :=
  if j.context ≠ [] then j.context
  else match j.entry.opcode.toNat with
    | 0xF002 | 0xF005 => []
    | 0xF009 =>
      match findKey s (handleAllot (kaHandle j)) (kaHandle j) with
      | some (resident, _, key) => attributeRecord key resident (BitVec.ofNat 64 (kaHandle j))
      | none => []
    | 0xF00A => j.input
    | 0xF00D => j.input ++ leBytes 1 (auxBits j 0 0)
    | 0xF00E => leBytes 2 (inlineField j 48 2)
    | 0xF00F | 0xF010 => leBytes 2 j.entry.opcode.toNat ++ leBytes 4 j.entry.aux.toNat ++ leBytes 16 j.inl.toNat ++ j.input
    | _ => standingItem (c.apply s k j).1 kind item

/-- The waits of the second stage: the records, or the commit that carries them (R109, R439). (DEDUCED, log entry 45) -/
def adminStage (c : AdminCmd) (s : State) (k : Nat) : State :=
  match KMap.get? s.jobs k with
  | none => s
  | some j =>
    let p := c.records s j
    match if mirrors s && c.markS j then c.mirrored j else none with
    | some (kind, item) =>
      let q := openCommit p.1 0 kind item (adminContents c p.1 k j kind item) p.2 (some k)
      modJob q.1 k fun x => { x with phase := .running, remaining := 0, waits := [.twin q.2] }
    | none => modJob p.1 k fun x => { x with phase := .running, remaining := 0, waits := p.2.map Wait.record }

/-- Nothing is pending for the Vault or on its way to it (R131, R420). -/
def vaultDrained (s : State) : Bool :=
  let j := s.journal
  decide (j.pending = []) && decide (s.ice.changes = []) && decide (s.ice.cacheDue = []) && decide (s.vault.flight = []) &&
    decide (s.vault.rework = []) && decide (j.chunks = []) && j.signing.isNone && decide (j.sinceHs = 0)

/-- What an admin command still waits for besides its listed waits: destruction, freeing, abort, held tags and a
drained Vault end when the state says so. -/
def adminHolds (s : State) (j : Job) : Bool :=
  match j.entry.opcode.toNat with
  | 0xF002 => !destroyReady s (inlAllot j)
  | 0xF003 => (allotAt s (inlAllot j)).any fun v => v.reads.any fun r => r.answered
  | 0xF005 => decide (jobsOfQueue s (inlAllot j) (inlineField j 50 1) ≠ [])
  | 0xF008 => decide (abortTargets s j ≠ [])
  | 0xF011 => s.bist.running
  | 0xF015 => s.bridge.ceremonyJob.isSome
  | 0xF017 => s.bridge.rejoinJob.isSome
  | 0xF014 => decide (inlineField j 48 1 = 0) && vaultWritable s && !vaultDrained s
  | _ => false

/-- Starts a dispatched command: its checks, what the dispatch tick does, and its draw. -/
def adminStart (c : AdminCmd) (s : State) (k : Nat) : State :=
  match KMap.get? s.jobs k with
  | none => s
  | some j =>
    match adminFailure c s j with
    | some (st, reason) => adminFail s k st reason
    | none =>
      modJob (c.prepare s j) k fun x =>
        { x with phase := .running, remaining := 1,
                 draws := (c.draws j).toList.map fun d => { bytes := d.1, fresh := d.2, posted := false } }

/-- A command that waits before its records: a destroyed key's open reservation (R120). -/
def adminHoldsFirst (s : State) (j : Job) : Bool :=
  decide (j.entry.opcode.toNat = 0xF009) && decide (inlineField j 56 1 = 1) && keyReservationOpen s (kaHandle j)

/-- The next stage of a running command whose listed waits and draws have ended. -/
def adminAdvance (c : AdminCmd) (s : State) (k : Nat) : State :=
  match KMap.get? s.jobs k with
  | none => s
  | some j =>
    if decide (j.phase = .running) && decide (j.waits = []) && decide (j.draws = []) then
      if j.remaining = 1 then if adminHoldsFirst s j then s else adminStage c s k
      else if j.index = 0 then
        let p := c.follow s j
        modJob p.1 k fun x => { x with index := 1, waits := p.2.map Wait.record }
      else if adminHolds s j then s
      else adminFinish c s k
    else s

/-- As far as a command can go now. -/
def adminSettle (c : AdminCmd) (s : State) (k : Nat) : State :=
  adminAdvance c (adminAdvance c (adminAdvance c s k) k) k

/-- Undoes what a command did before its record or commit failed: a withdrawal, or a destruction in progress, whose queues
serve again (R107, R120). The jobs that step 1 of R113 has aborted stay aborted, and the pages of a format stay written.
(DEDUCED, log entry 45) -/
def adminUndo (s : State) (j : Job) : State :=
  match j.entry.opcode.toNat with
  | 0xF009 => withdraw s (kaHandle j) false
  | 0xF002 =>
    let s := { s with queues := KMap.mapAll s.queues fun k q => if k / 8 = inlAllot j then { q with closing := false } else q }
    modAllot s (inlAllot j) fun v => { v with destroying := false, destroyRecords := [] }
  | 0xF013 => { s with vault := { s.vault with formatting := false, prepared := none } }
  | _ => s

/-- One admin row: the command of a dispatched entry runs; for any other job nothing happens. -/
def adminRow (c : AdminCmd) (when' : Job → Bool) (r : JobRef) (s : State) : State :=
  match KMap.get? s.jobs (refKey r) with
  | some j =>
    if decide (j.phase = .dispatched) && decide (j.entry.opcode.toNat = c.opcode) && when' j then
      adminSettle c (adminStart c s (refKey r)) (refKey r)
    else s
  | none => s

/-! ## The rows -/

/-- Any entry of the opcode. -/
def anyEntry (_ : Job) : Bool := true

/-- ALLOT_CREATE (R110). -/
def execAllotCreate (r : JobRef) (s : State) : Host.Outcome State Fault Refusal :=
  .next (adminRow cmdAllotCreate anyEntry r s)

/-- ALLOT_DESTROY (R113). -/
def execAllotDestroy (r : JobRef) (s : State) : Host.Outcome State Fault Refusal :=
  .next (adminRow cmdAllotDestroy anyEntry r s)

/-- ALLOT_BIND (R114). -/
def execAllotBind (r : JobRef) (s : State) : Host.Outcome State Fault Refusal :=
  .next (adminRow cmdAllotBind anyEntry r s)

/-- QUEUE_CREATE (R115). -/
def execQueueCreate (r : JobRef) (s : State) : Host.Outcome State Fault Refusal :=
  .next (adminRow cmdQueueCreate anyEntry r s)

/-- QUEUE_DESTROY (R116). -/
def execQueueDestroy (r : JobRef) (s : State) : Host.Outcome State Fault Refusal :=
  .next (adminRow cmdQueueDestroy anyEntry r s)

/-- LEASE_SET (R117). -/
def execLeaseSet (r : JobRef) (s : State) : Host.Outcome State Fault Refusal :=
  .next (adminRow cmdLeaseSet anyEntry r s)

/-- WINDOW_SET (R118). -/
def execWindowSet (r : JobRef) (s : State) : Host.Outcome State Fault Refusal :=
  .next (adminRow cmdWindowSet anyEntry r s)

/-- ABORT of a queue or an allotment (R53, R119); it is extended when a target waits on an open reservation
(R54). -/
def execAbortJobs (r : JobRef) (s : State) : Host.Outcome State Fault Refusal :=
  let s := adminRow cmdAbort anyEntry r s
  match KMap.get? s.jobs (refKey r) with
  | some j =>
    if decide (j.phase = .running) && decide (j.entry.opcode.toNat = 0xF008) &&
        (abortTargets s j).any fun k => (KMap.get? s.jobs k).any onReservation then
      .next (modJob s (refKey r) (setFlag flagAbortExtended))
    else .next s
  | none => .next s

/-- The bound of R54 has run out: reservations still open are detached from the jobs an ABORT or a quiesce
targets, and those jobs end without an index. -/
def execAbortReservationDetach (r : JobRef) (s : State) : Host.Outcome State Fault Refusal :=
  match KMap.get? s.jobs (refKey r) with
  | some j =>
    if j.aborted && onReservation j && decide (j.decidedAt + 4096 ≤ now s) then
      let s := j.waits.foldl (fun s w => match w with
        | .reservation k => { s with ice.keys := KMap.adjust s.ice.keys k fun x =>
            { x with stateful := x.stateful.map fun t => { t with detached := true, joined := t.joined.filter (· ≠ refKey r) } } }
        | _ => s) s
      if j.discard then .next (removeJob (releaseEngines s (refKey r) j) (refKey r))
      else .next (modJob (endJob s (refKey r) .aborted) (refKey r) fun x => { x with aborted := true })
    else .next s
  | none => .next s

/-- KEY_ADMIN destroy (R120). -/
def execKeyAdminDestroy (r : JobRef) (s : State) : Host.Outcome State Fault Refusal :=
  .next (adminRow cmdKeyDestroy (fun j => decide (inlineField j 56 1 ≠ 2)) r s)

/-- KEY_ADMIN describe (R120). -/
def execKeyAdminDescribe (r : JobRef) (s : State) : Host.Outcome State Fault Refusal :=
  .next (adminRow cmdKeyDescribe (fun j => decide (inlineField j 56 1 = 2)) r s)

/-- 4,096 ticks after the dispatch of a key's destruction its open reservation is detached from it (R120). -/
def execKeyReservationDetach (r : JobRef) (s : State) : Host.Outcome State Fault Refusal :=
  match KMap.get? s.jobs (refKey r) with
  | some j =>
    let h := if j.entry.opcode.toNat = 0xF009 then kaHandle j else j.entry.keyh.toNat
    if (decide (j.entry.opcode.toNat = 0xF009) || decide (j.entry.opcode.toNat = 0x3009)) &&
        decide (j.phase = .running) && decide (j.dispatch + 4096 ≤ now s) then
      match findKey s (handleAllot h) h with
      | some (false, k, _) =>
        .next { s with ice.keys := KMap.adjust s.ice.keys k fun x =>
          { x with stateful := x.stateful.map fun t => { t with detached := true } } }
      | _ => .next s
    else .next s
  | none => .next s

/-- CURVE_POLICY (R122). -/
def execCurvePolicy (r : JobRef) (s : State) : Host.Outcome State Fault Refusal :=
  .next (adminRow cmdCurvePolicy anyEntry r s)

/-- TIME_SET (R123). -/
def execTimeSet (r : JobRef) (s : State) : Host.Outcome State Fault Refusal :=
  .next (adminRow cmdTimeSet anyEntry r s)

/-- PATCH_STATUS (R134). -/
def execPatchStatus (r : JobRef) (s : State) : Host.Outcome State Fault Refusal :=
  .next (adminRow cmdPatchStatus anyEntry r s)

end Sys2Proof.Machine
end

