-- ==== Sys2Proof/Machine/Gate.lean ====
section
/-! DEFINITION. The Gatehouse and the Lodge: sources, soft and hard events, responses, evidence, the commands
TAMPER_CONFIG and TAMPER_CLEAR, and the backup cell (16_gatehouse_lodge.md R364 to R383, 05_admin_commands.md R124
and R125). -/
namespace Sys2Proof.Machine
open Sys2Proof

/-! ## Sources -/

/-- The sources that fuses disable: 0 to 5 and 15 alone obey their bit (R361). -/
def disabledMask (s : State) : W16 := s.otp.fuseTamper &&& 0x803F

/-- The fuses disable a source. -/
def sourceOff (s : State) (i : Nat) : Bool := (disabledMask s).getLsbD i

/-- One source. -/
def sourceAt (s : State) (i : Nat) : Source := s.gh.sources.getD i (Source.soft 0 0)

/-- Changes one source. -/
def modSource (s : State) (i : Nat) (f : Source → Source) : State := { s with gh.sources := s.gh.sources.modify i f }

/-- A source with a threshold unit enters excursions; the others have single events (Table 16-1, R367). -/
def hasUnit (i : Nat) : Bool := [6, 7, 8, 9, 10, 11, 13].contains i

/-- Sets a sticky flag, and with it a quiesce hold (R376). -/
def raiseFlag (s : State) (i : Nat) (hold : Bool) : State :=
  { s with lodge := { s.lodge with
      sticky := s.lodge.sticky ||| BitVec.ofNat 16 (2 ^ i),
      holds := if hold then s.lodge.holds ||| BitVec.ofNat 16 (2 ^ i) else s.lodge.holds } }

/-! ## The Lodge ring (R381) -/

/-- The slot that a new entry takes: a free one, or the forwarded entry of the least time. (DEDUCED, log entry 26) -/
def ringSlot (l : List RingEntry) : Option Nat :=
  if l.length < 8 then some l.length
  else
    let best := l.foldl (fun (b : Option RingEntry) e =>
      if e.forwarded then match b with
        | some x => if e.time < x.time then some e else some x
        | none => some e
      else b) none
    best.bind fun x => l.findIdx? fun e => e.forwarded && decide (e.time = x.time)

/-- The mask of an entry's source. -/
def entryMask (e : RingEntry) : W16 :=
  if e.kind = 4 then e.mask else if e.source.toNat < 16 then BitVec.ofNat 16 (2 ^ e.source.toNat) else 0

/-- Writes an entry, or folds it into the overflow entry 7. -/
def ringWrite (l : Lodge) (e : RingEntry) : Lodge :=
  match ringSlot l.ring with
  | some i => { l with ring := if i < l.ring.length then l.ring.set i e else l.ring ++ [e] }
  | none =>
    { l with
      overflow := true,
      ring := l.ring.modify 7 fun x =>
        { x with source := 0xFF, kind := 4, level := 0xFF, count := min (x.count + 1) 0xFFFF, mask := entryMask x ||| entryMask e,
                 record := none } }

/-- An entry of one event. -/
def ringEntry (s : State) (src kind level : Nat) (mask : W16) : RingEntry :=
  { time := s.lodge.secTime, source := BitVec.ofNat 8 src, kind := BitVec.ofNat 8 kind, level := BitVec.ofNat 8 level,
    forwarded := false, count := 1, mask := mask, record := none }

/-- The ring entries of a source that no record yet forwards are forwarded by the pending record of its event. -/
def linkRing (s : State) (code : W16) (src : Nat) : State :=
  match s.journal.pending.find? (isEventOf code (BitVec.ofNat 8 src)) with
  | some r => { s with lodge.ring := s.lodge.ring.map fun e =>
      if e.source.toNat = src && !e.forwarded && e.record.isNone then { e with record := some r.id } else e }
  | none => s

/-- Writes an entry into the ring; an overflow has its event, whose record forwards the overflow entry (R381). -/
def ringPut (s : State) (e : RingEntry) : State :=
  let full := (ringSlot s.lodge.ring).isNone
  let s := { s with lodge := ringWrite s.lodge e }
  if full then linkRing (logEventAt s 5 0x0053 0xFFFF 20 0xFF 0xFF []) 0x0053 0xFF else s

/-! ## Events -/

/-- A response waits for its tick boundary (R369). -/
def triggerResponse (s : State) (src level : Nat) (hard : Bool) : State :=
  { s with gh.responses := s.gh.responses ++ [{ source := src, level := level, hard := hard, tick := now s }] }

/-- A hard event: TZ_ERASE, the twin's notice, flag, hold and ring entry at once; the rest of ZEROISE_ALL at the boundary (R366). -/
def hardEvent (s : State) (src : Nat) (a b : W32) : State :=
  if sourceOff s src then s
  else
    let s := tzErase s
    let s := modSource s src fun x => { x with hardNow := true, readingA := a, readingB := b }
    let s := ringPut (raiseFlag (tamperNotice s src 4) src true) (ringEntry s src 1 0xFF 0)
    triggerResponse { s with gh.eraseActive := true } src 4 true

/-- Counts an event in a window: the window after it, and whether the count is reached (R368). -/
def countInWindow (t n win : Nat) (w : Option (Nat × Nat)) : Option (Nat × Nat) × Bool :=
  match w with
  | some (t0, c) =>
    if t < t0 + win then if n ≤ c + 1 then (none, true) else (some (t0, c + 1), false)
    else (some (t, 1), false)
  | none => (some (t, 1), false)

/-- A soft event of an enabled source: counted, and its response triggered as the rate window decides (R367, R368). -/
def softEvent (s : State) (src : Nat) (a b : W32) : State :=
  let x := sourceAt s src
  if !x.enable || sourceOff s src || !s.gh.calibrated then s
  else
    let p := if x.rateN ≤ 1 then (x.window, true) else countInWindow (now s) x.rateN x.rateWin x.window
    let s := modSource s src fun x =>
      { x with count := min (x.count + 1) 0xFFFFFFFF, readingA := a, readingB := b, excursion := hasUnit src, window := p.1 }
    if p.2 then triggerResponse s src x.resp false else s

/-- One event of source 14: soft, and counted in the fixed hard window (R365, R368). -/
def consistencyEvent (s : State) : State :=
  let s := softEvent s 14 0 0
  let p := countInWindow (now s) 16 (2 ^ 20) (sourceAt s 14).hardWindow
  let s := modSource s 14 fun x => { x with hardWindow := p.1 }
  if p.2 then hardEvent s 14 0 0 else s

/-- An alarm on battery alone (R379). -/
def offAlarm (s : State) (src : Nat) : State :=
  if sourceOff s src then s
  else
    let s := raiseFlag { s with lodge := { s.lodge with kek := none, offAlarm := some src } } src true
    { s with lodge := ringWrite s.lodge (ringEntry s src 2 0xFF 0) }

/-- The Gatehouse runs: stage 1 is released (R365). -/
def gateRuns (s : State) : Bool := decide (1 ≤ s.boot.stage)

/-! ## Responses (R369 to R374) -/

/-- A job whose slice is abandoned: its next slice repeats it; a first slice that ran at all is its first (R33, R238). A job
that has ended has no further slice. -/
def repeatSlice (t : Nat) (j : Job) : Job :=
  if j.phase = .decided then j
  else { j with rerun := true, startTick := if j.done = 0 && !j.rerun then t else j.startTick }

/-- Running slices are abandoned, uncounted, and run again after the quiesce (R370). (DEDUCED, log entry 22) -/
def abandonRunning (s : State) : State :=
  let ks := s.units.flatMap fun u => u.running
  { s with
    jobs := KMap.mapAll s.jobs fun k j => if ks.contains k then repeatSlice (now s) j else j,
    units := s.units.map fun u => { u with running := [] },
    bodies := List.replicate 4 Body.idle }

/-- The device is quiesced from this boundary. (DEDUCED, log entry 77) -/
def quiesceDevice (s : State) : State := { abandonRunning s with gh.quiesced := true }

/-- The record, flag, hold, ring entry, alert and notice of one response at a boundary whose highest level is `top`. -/
def recordResponse (top : Nat) (s : State) (r : Response) : State :=
  let x := sourceAt s r.source
  let code : W16 := if r.hard then 0x0051 else 0x0050
  let s := raiseFlag s r.source (decide (2 ≤ top))
  let s := if r.hard then s else ringPut s (ringEntry s r.source 0 r.level 0)
  let s := logEventAt s 5 code 0xFFFF 20 (BitVec.ofNat 8 r.source) (BitVec.ofNat 8 r.level)
    (leBytes 1 r.level ++ leBytes 4 x.readingA.toNat ++ leBytes 4 x.readingB.toNat)
  let s := linkRing s code r.source
  if 1 ≤ r.level then
    let s := { s with gh.alert := s.gh.alert ||| BitVec.ofNat 16 (2 ^ r.source) }
    if r.hard then s else tamperNotice s r.source r.level
  else s

/-- Ends every job of an allotment at once, open reservations included (R373). -/
def zeroiseAllotment (s : State) (a : Nat) : State :=
  let s := (jobsOf s a).foldl (fun s k => modJob (endJob s k .aborted) k fun j => { j with aborted := true }) s
  (queuesOf s a).foldl (fun s k => dropDescriptorRead s a (k % 8)) s

/-- The volatile clear; the key image is neither read nor written until the next reset (R342, R344). -/
def volatileClear (s : State) : State := { clearVolatile s with ice.imageSuspended := true }

/-- ZEROISE_SESSION: tenants aborted, then the volatile clear; a self-test run ends after its part (R369, R486). -/
def zeroiseSession (s : State) : State :=
  let s := volatileClear ((tenants s).foldl zeroiseAllotment s)
  { s with bist.ended := s.bist.running }

/-- The body of a LIFECYCLE record (Table 18-2). -/
def lifecycleBody (s : State) (pendingState : Nat) (scope : W16) (debugKey : List Byte) : List Byte :=
  leBytes 1 s.lc.inForce ++ leBytes 1 pendingState ++ leBytes 2 (disabledMask s).toNat ++ leBytes 2 scope.toNat ++ zeroBytes 2 ++
    debugKey

/-- END_OF_LIFE steps 3 and 4: every life-cycle word is programmed, then the tamper reset (R374). -/
def endOfLife (s : State) : State := fullReset { flushNotices s with otp.lcWords := List.replicate 4 0xFFFFFFFF } 4 false

/-- END_OF_LIFE goes on when its records are durable, or after 2^16 ticks. -/
def eolSettle (s : State) : State :=
  if s.gh.executing = 6 && (decide (s.gh.eolRecords = []) || decide (s.gh.eolSince + 65536 ≤ now s)) then endOfLife s else s

/-- END_OF_LIFE from step 2 on. (DEDUCED, log entry 78) -/
def eolBegin (s : State) : State :=
  if vaultWritable s then
    let events := (s.journal.pending.filter fun r => decide (r.type = 2 ∧ r.holder = deviceHolder)).map fun r => r.id
    let p := postRecord s 5 3 0xFFFF deviceHolder (lifecycleBody s 3 0 (zeroBytes 32))
    { p.1 with gh := { p.1.gh with executing := 6, eolRecords := events ++ [p.2], eolSince := now s } }
  else endOfLife s

/-- Carries out the responses that wait for this boundary, combined at the highest level (R369, R372).
(DEDUCED, log entry 75) -/
def respond (s : State) : State :=
  let due := s.gh.responses.filter fun r => decide (r.tick < now s)
  if due = [] then s
  else
    let top := due.foldl (fun m r => max m r.level) 0
    let above := decide (s.gh.executing < top + 1)
    let s := { s with gh := { s.gh with
      responses := s.gh.responses.filter fun r => !decide (r.tick < now s), level := max s.gh.level (top + 1) } }
    let s := if 4 ≤ top then tzErase s else s
    let s := due.foldl (recordResponse top) s
    let s := if 2 ≤ top then quiesceDevice s else s
    if !above then s
    else if top = 3 then zeroiseSession s
    else if top = 4 then fullReset (flushNotices s) 4 false
    else if top = 5 then eolBegin s
    else s

/-! ## TAMPER_CONFIG and TAMPER_CLEAR (R124, R125, R375) -/

/-- Entry `i` of the input of TAMPER_CONFIG (Table 5-6). -/
def configEntry (b : List Byte) (i : Nat) (x : Source) : Source :=
  let f := fun off n => fieldAt b (16 * i + off) n
  { x with
    thresh := BitVec.ofNat 32 (f 0 4), resp := f 4 1, enable := decide (f 5 1 = 1), rateN := f 6 2, rateWin := f 8 4 }

/-- An entry is refused: RESP above 5, or above QUIESCE for source 15. -/
def configBad (b : List Byte) : Bool :=
  (List.range 16).any fun i => decide ((if i = 15 then 2 else 5) < fieldAt b (16 * i + 4) 1)

/-- LOCKED, FIELD_RANGE, then the Vault. -/
def tamperConfigCheck (s : State) (j : Job) : Option (Status × Nat) :=
  if s.gh.locked then refuse 0x000A
  else if configBad j.input then refuse 0x0001
  else if !vaultWritable s then some (.vaultMedia, 0) else none

/-- The CONFIG record and its four parts of data (Table 18-2). -/
def tamperConfigRecords (s : State) (j : Job) : State × List Nat :=
  let p := adminRecord s 2 3 0xFFFF (sha3_256 j.input ++ leBytes 1 (auxBits j 0 0))
  [0, 1, 2, 3].foldl (fun (p : State × List Nat) k =>
    let q := adminRecord p.1 2 (4 + k) 0xFFFF (slice j.input (64 * k) 64)
    (q.1, p.2 ++ q.2)) p

/-- Applies the sixteen entries and the lock. -/
def tamperConfigApply (s : State) (_ : Nat) (j : Job) : State × Nat × Nat :=
  ({ s with gh := { s.gh with
      sources := s.gh.sources.mapIdx fun i x => configEntry j.input i x, locked := s.gh.locked || j.entry.aux.getLsbD 0 } }, 0, 0)

/-- TAMPER_CONFIG. -/
def cmdTamperConfig : AdminCmd :=
  { opcode := 0xF00D, markS := fun _ => true, markQ := false, markE := false, needsRoot := false,
    check := tamperConfigCheck, draws := fun _ => none, records := tamperConfigRecords,
    mirrored := fun _ => some (0x0B, 0), apply := tamperConfigApply }

/-- The sources that TAMPER_CLEAR names. -/
def clearMask (j : Job) : W16 := BitVec.ofNat 16 (inlineField j 48 2)

/-- The record that names the flags to be cleared; an act of the owner has no event code. -/
def tamperClearRecords (s : State) (j : Job) : State × List Nat :=
  adminRecord s 2 0 0xFFFF (securityBody 0 0xFF 0xFF 1 (now s) (now s) (leBytes 2 (clearMask j).toNat))

/-- A cleared source whose hard condition persists reaches it again at its next sample (R125, R371): the run of bad
samples stands one short of its length. Runs 0 to 3 are the mesh loops, 4 and 5 the case switches, 6 is VBAT, source 13. -/
def rearmRun (m : W16) (i r : Nat) : Nat :=
  let n := if i < 4 then 2 else 32
  if m.getLsbD (if i = 6 then 13 else i) && decide (n ≤ r) then n - 1 else r

/-- Clears flags and holds, with a ring entry; DETAIL is the flags that stand. A condition that persists raises a new event
at the source's next sample, counted afresh (R125, R371). -/
def tamperClearApply (s : State) (_ : Nat) (j : Job) : State × Nat × Nat :=
  let m := clearMask j
  let anew := fun (i : Nat) (x : Source) =>
    if m.getLsbD i then { x with excursion := false, window := none, hardWindow := none } else x
  let s := { s with
    lodge := { s.lodge with
      sticky := s.lodge.sticky &&& ~~~m, holds := s.lodge.holds &&& ~~~m, runs := s.lodge.runs.mapIdx (rearmRun m) },
    gh.sources := s.gh.sources.mapIdx anew }
  let s := ringPut s (ringEntry s 0xFF 3 0xFF m)
  (s, 0, s.lodge.sticky.toNat)

/-- TAMPER_CLEAR. -/
def cmdTamperClear : AdminCmd :=
  { opcode := 0xF00E, markS := fun _ => true, markQ := true, markE := false, needsRoot := false,
    check := fun s _ => if vaultWritable s then none else some (.vaultMedia, 0), draws := fun _ => none,
    records := tamperClearRecords, mirrored := fun _ => some (0x0C, 0), apply := tamperClearApply }

/-! ## The rows -/

/-- TAMPER_CONFIG (R124). -/
def execTamperConfig (r : JobRef) (s : State) : Host.Outcome State Fault Refusal :=
  .next (adminRow cmdTamperConfig anyEntry r s)

/-- TAMPER_CLEAR (R125). -/
def execTamperClear (r : JobRef) (s : State) : Host.Outcome State Fault Refusal :=
  .next (adminRow cmdTamperClear anyEntry r s)

/-- HARD_EVENT: a hard threshold of sources 0 to 13 is crossed (R366). Source 14 reaches its threshold by its events,
and source 15 has none. -/
def execHardEvent (source : Fin 16) (readingA : W32) (readingB : W32) (s : State) : Host.Outcome State Fault Refusal :=
  .next (if gateRuns s && decide (source.val < 14) then hardEvent s source.val readingA readingB else s)

/-- SOFT_EVENT: an enabled source enters an excursion, or has its single event; source 14 has one event of R365
(R367). Source 15 is told by the twin. -/
def execSoftEvent (source : Fin 16) (readingA : W32) (readingB : W32) (s : State) : Host.Outcome State Fault Refusal :=
  let x := sourceAt s source.val
  .next (if !gateRuns s || decide (source.val = 15) || x.excursion then s
    else if source.val = 14 then consistencyEvent s
    else softEvent s source.val readingA readingB)

/-- EXCURSION_END: 64 samples inside the threshold; a hard condition has ended as well (R366, R367). -/
def execExcursionEnd (source : Fin 16) (s : State) : Host.Outcome State Fault Refusal :=
  let s := modSource s source.val fun x => { x with excursion := false, hardNow := false }
  .next { s with gh.eraseActive := s.gh.eraseActive && s.gh.sources.any fun x => x.hardNow }

/-- A window that has reached its end closes. -/
def closeWindow (t win : Nat) (w : Option (Nat × Nat)) : Option (Nat × Nat) :=
  match w with
  | some (t0, c) => if t0 + win ≤ t then none else some (t0, c)
  | none => none

/-- RATE_WINDOW_END: a window reaches its end without a response (R368). -/
def execRateWindowEnd (source : Fin 16) (s : State) : Host.Outcome State Fault Refusal :=
  .next (modSource s source.val fun x =>
    { x with window := closeWindow (now s) x.rateWin x.window, hardWindow := closeWindow (now s) (2 ^ 20) x.hardWindow })

/-- DETECTOR_DISAGREEMENT: an episode of sources 6 to 11 counts as one event of source 14 (R365). -/
def execDetectorDisagreement (source : Fin 16) (s : State) : Host.Outcome State Fault Refusal :=
  .next (if gateRuns s && decide (6 ≤ source.val) && decide (source.val ≤ 11) then
      consistencyEvent (modSource s source.val fun x => { x with disagreements := min (x.disagreements + 1) 0xFFFF })
    else s)

/-- TAMPER_RESPONSE: the responses of earlier ticks take effect (R369). -/
def execTamperResponse (s : State) : Host.Outcome State Fault Refusal := .next (respond s)

/-- QUIESCE_END: no hold is left, and resident jobs resume (R371). -/
def execQuiesceEnd (s : State) : Host.Outcome State Fault Refusal :=
  .next (if s.gh.quiesced && decide (s.lodge.holds = 0) then { s with gh.quiesced := false } else s)

/-- A write of GH_ALERT clears the bits that it names. -/
def alertWrite (s : State) (value : W32) : State := { s with gh.alert := s.gh.alert &&& ~~~(value.setWidth 16) }

/-- GH_ALERT_CLEAR: a write of ones clears alert bits (R383). -/
def execGhAlertClear (value : W32) (s : State) : Host.Outcome State Fault Refusal :=
  .next (if s.boot.ready then alertWrite s value else s)

/-- LODGE_ALARM_WHILE_OFF: an alarm that the Lodge alone sees (R379). -/
def execLodgeAlarmWhileOff (source : Fin 16) (s : State) : Host.Outcome State Fault Refusal :=
  .next (if decide (s.boot.stage = 0) && s.lodge.battery && [0, 1, 2, 3, 4, 5, 10, 13].contains source.val then
      offAlarm s source.val
    else s)

/-- BATTERY_INSERTION: the cell is in place; stage 0 runs the Lodge on LPO (R451). -/
def execBatteryInsertion (s : State) : Host.Outcome State Fault Refusal :=
  .next { s with lodge.battery := true, clocks := releaseClocks s.clocks fun n => decide (clockStage n = 0) }

/-- BATTERY_REMOVAL: with main power absent the Lodge loses everything, and the loss is its evidence (R380); with main
power present it is a hard event of source 13 (Table 16-1). -/
def execBatteryRemoval (s : State) : Host.Outcome State Fault Refusal :=
  if s.boot.power then
    let s := { s with lodge.battery := false }
    .next (if gateRuns s then hardEvent s 13 0 0 else s)
  else
    let s := { s with
      lodge := { Lodge.fresh with battery := false, lost := true, timeLost := true, failures := 0 },
      clocks := holdClocks s.clocks fun n => decide (clockStage n = 0) }
    .next (offAlarm s 13)

/-! ## LPO samples (Table 16-1, R378) -/

/-- One sample of a source whose condition must last `n` samples: the run after it, and whether it is reached.
(DESIGN CHOICE, log entry 76) -/
def sampleRun (s : State) (i n : Nat) (bad : Bool) : State × Bool × Nat :=
  let r := s.lodge.runs.getD i 0
  ({ s with lodge.runs := s.lodge.runs.set i (if bad then r + 1 else 0) }, bad && decide (r + 1 = n), r)

/-- A hard condition of a Lodge source, with or without main power. -/
def lodgeHard (s : State) (src : Nat) (v : W32) : State :=
  if gateRuns s then hardEvent s src v 0 else if s.lodge.battery then offAlarm s src else s

/-- One sample of a Lodge source: hard after `n` bad samples; a run of at least `m` that ends before is a soft event. -/
def lodgeSample (n m : Nat) (s : State) (src : Nat) (bad : Bool) : State :=
  let p := sampleRun s src n bad
  if p.2.1 then lodgeHard p.1 src 0
  else if !bad && decide (m ≤ p.2.2) && decide (p.2.2 < n) && gateRuns s then softEvent p.1 src 0 0
  else p.1

/-- One sample of VBAT in millivolts, which is the source's reading (R383). -/
def vbatSample (s : State) (mv : W16) : State :=
  let s := if gateRuns s then modSource s 13 fun x => { x with readingA := mv.setWidth 32 } else s
  let p := sampleRun s 6 32 (decide (mv.toNat < 2200))
  let s := if p.2.1 then lodgeHard p.1 13 (mv.setWidth 32) else p.1
  if gateRuns s && decide (mv.toNat < (sourceAt s 13).thresh.toNat % 65536) && !(sourceAt s 13).excursion then
    softEvent s 13 (mv.setWidth 32) 0
  else s

/-- LPO_CYCLE: secure time advances, and the mesh loops, the case switches and VBAT are sampled (R365, R378). -/
def execLpoCycle (mesh : BitVec 4) (cases : BitVec 2) (vbat : W16) (s : State) : Host.Outcome State Fault Refusal :=
  if s.lodge.battery || s.boot.power then
    let s := { s with lodge.secTime := s.lodge.secTime + 1 }
    let s := (List.range 4).foldl (fun s i => lodgeSample 2 1 s i (mesh.getLsbD i)) s
    let s := (List.range 2).foldl (fun s i => lodgeSample 32 2 s (4 + i) (cases.getLsbD i)) s
    .next (vbatSample s vbat)
  else .next s

end Sys2Proof.Machine
end

