-- ==== Sys2Proof/Machine/Pages.lean ====
section
/-! DEFINITION. The bytes of a Vault page: the BCH code, codeword places, the page header, the content, and its encryption
(17_vault_media.md R388 to R391; 18_thadex_journal.md R412). -/
namespace Sys2Proof.Machine
open Sys2Proof

/-! ## GF(2^14) (R388) -/

/-- p(x) = x^14 + x^10 + x^6 + x + 1, by its coefficients as bits. -/
def bchPoly : Nat := 0x4443

/-- The product of a field element and α. -/
def gfTimesAlpha (a : Nat) : Nat := if (2 * a).testBit 14 then 2 * a ^^^ bchPoly else 2 * a

/-- The product of two field elements. -/
def gfMul (a b : Nat) : Nat :=
  (List.range 14).foldr (fun i acc => gfTimesAlpha acc ^^^ (if b.testBit i then a else 0)) 0

/-- α to a power. -/
def alphaPow : Nat → Nat
  | 0 => 1
  | n + 1 => gfTimesAlpha (alphaPow n)

/-- The conjugates of an element: its squares, `n` of them. -/
def conjugates : Nat → Nat → List Nat
  | 0, _ => []
  | n + 1, a => a :: conjugates n (gfMul a a)

/-- A polynomial over the field, lowest coefficient first, times x + a. -/
def timesRoot (p : List Nat) (a : Nat) : List Nat :=
  (List.range (p.length + 1)).map fun i => (if i = 0 then 0 else p.getD (i - 1) 0) ^^^ gfMul a (p.getD i 0)

/-- The minimal polynomial of α^k, k odd, as the bits of its coefficients: its roots are the 14 conjugates. -/
def minimalPoly (k : Nat) : Nat :=
  maskOf ((conjugates 14 (alphaPow k)).foldl timesRoot [1] |>.zipIdx.filterMap fun p => if p.1 = 1 then some p.2 else none)

/-! ## Polynomials over GF(2), by their coefficients as bits -/

/-- The product of two polynomials, the second of degree below `n`. -/
def polyMul (n a b : Nat) : Nat := (List.range n).foldr (fun i acc => 2 * acc ^^^ (if b.testBit i then a else 0)) 0

/-- The remainder of a polynomial of degree below `n` by one of degree `d`. -/
def polyRem (d g n a : Nat) : Nat :=
  (List.range n).foldr (fun i r => let r := 2 * r + bit (a.testBit i); if r.testBit d then r ^^^ g else r) 0

/-! ## The code (R388, R389) -/

/-- g(x): the product of the minimal polynomials of α^(2i − 1) for i = 1 to 40. -/
def bchGenerator : Nat := (List.range 40).foldl (fun g i => polyMul 15 g (minimalPoly (2 * i + 1))) 1

/-- The 70 parity bytes of 1,024 data bytes: the remainder of x^560 · d(x), highest coefficient first. -/
def bchParity (data : List Byte) : List Byte :=
  beBytes 70 (polyRem 560 bchGenerator 8752 (beNat (slice data 0 1024) * 2 ^ 560))

/-- A codeword: data, then parity. -/
def bchCodeword (data : List Byte) : List Byte := slice data 0 1024 ++ bchParity data

/-- 1,094 bytes are a codeword. -/
def isCodeword (w : List Byte) : Bool := decide (w = bchCodeword w)

/-- Bits in which two byte strings differ. -/
def bitErrors (a b : List Byte) : Nat :=
  (xorBytes a b).foldl (fun n x => n + ((List.range 8).filter fun i => x.getLsbD i).length) 0

/-- Bytes as read are erased: at most 40 of their bits are zero. -/
def readsErased (w : List Byte) : Bool := decide (bitErrors w (List.replicate w.length 0xFF) ≤ 40)

/-- Bytes as read decode to a codeword with a number of corrections. -/
def correctsTo (w c : List Byte) (n : Nat) : Bool :=
  !readsErased w && isCodeword c && decide (bitErrors w c = n) && decide (n ≤ 40)

/-! ## Page layout (R390, R391, R412) -/

/-- STREAM (Table 17-3). -/
def streamCode : Stream → Nat
  | .journal => 1
  | .keyImage => 2
  | .cache => 3
  | .history => 4
  | .dump => 5
  | .system => 6

/-- The stream that takes a content. -/
def PageContent.stream : PageContent → Stream
  | .journal _ => .journal
  | .keyImage _ => .keyImage
  | .cache _ _ => .cache
  | .history _ => .history
  | .dump _ _ => .dump
  | .checkpoint _ => .system

/-- The 32 bytes of a header (Table 17-3). -/
def PageHead.bytes (h : PageHead) : List Byte :=
  [0x56, 0x4C, 0x54, 0x50, 1] ++ leBytes 1 (streamCode h.stream) ++ leBytes 1 (bit h.checkpointLast + 2 * bit h.relocated) ++
    [0] ++ leBytes 8 h.pseq ++ leBytes 8 h.segSeq ++ leBytes 4 h.erases ++ slice h.vaultId 0 4

/-- The slot map of a JOURNAL page: 1 a record, 2 a signature chunk. -/
def slotMap (slots : List JSlot) : List Byte :=
  leBytes 32 (slots.zipIdx.foldl (fun m p => m + (if p.1.chunk then 2 else 1) * 4 ^ p.2) 0)

/-- The content of a page in `n` bytes: slot map and slots, history records, bytes of a dump, zeros after them; of the others
the spec gives no layout, and free bytes stand for them. (DESIGN CHOICE, log entry 131) -/
def contentBytes (n pseq : Nat) : PageContent → List Byte
  | .journal slots => slice (slotMap slots ++ slots.flatMap fun x => slice x.bytes 0 128) 0 n
  | .history rs => slice (rs.flatMap fun r => slice r 0 32) 0 n
  | .dump _ b => slice b 0 n
  | .keyImage _ | .cache _ _ | .checkpoint _ => (List.range n).map (Config.pageByte pseq)

/-- The GCM nonce of a page: header bytes 8 to 15, then 28 to 31. -/
def pageNonce (h : PageHead) : List Byte := slice h.bytes 8 8 ++ slice h.bytes 28 4

/-- The payload of a page of `k` KiB: header, ciphertext, tag; the header is the associated data. -/
def pagePayload (key : List Byte) (k : Nat) (p : MediaPage) : List Byte :=
  p.head.bytes ++ gcmSeal key (pageNonce p.head) p.head.bytes (contentBytes (1024 * k - 48) p.head.pseq p.content)

/-- A payload as the `k` codewords of a page. -/
def pageCodewords (k : Nat) (payload : List Byte) : List Byte :=
  (List.range k).flatMap fun i => bchCodeword (slice payload (1024 * i) 1024)

/-- A page as it stands on the media, data and spare areas together: codeword i at byte 1,094 i, the rest unprogrammed. -/
def pageBytes (key : List Byte) (k size : Nat) (p : MediaPage) : List Byte :=
  let w := pageCodewords k (pagePayload key k p)
  w ++ List.replicate (size - w.length) 0xFF

/-- The payload of a page as read, where every codeword is without error. -/
def payloadOf (k : Nat) (page : List Byte) : List Byte := (List.range k).flatMap fun i => slice page (1094 * i) 1024

/-- The content of a payload, where its tag verifies; else the page counts as uncorrectable (R391). -/
def openPayload (key payload : List Byte) : Option (List Byte) :=
  let h := slice payload 0 32
  gcmOpen key (slice h 8 8 ++ slice h 28 4) h (payload.drop 32)

/-- Page `i` of a block of this device's Vault, as a read of the die gives it; past the programmed pages it is erased. -/
def readPage (s : State) (b : Block) (i : Nat) : List Byte :=
  let m := s.vault.media
  let size := ((m.report.map fun r => r.pageBytes).getD 2048)
  let spare := ((m.report.map fun r => r.spareBytes).getD 0)
  match b.written[i]? with
  | some p => pageBytes (vaultKey s m.nonce) (size / 1024) (size + spare) p
  | none => List.replicate (size + spare) 0xFF

end Sys2Proof.Machine
end

