-- ==== Sys2Proof/Machine/Sundial.lean ====
section
/-! DEFINITION. Operating points and the Sundial: measurements, the set point, the planned point, the thermal cap and
the margin history (22_power_sundial.md R489 to R502). -/
namespace Sys2Proof.Machine
open Sys2Proof

/-! ## Margin (R493) -/

/-- A point's core frequency in units of 10 MHz (Table 22-2). -/
def pointFreq (p : Nat) : Int :=
  match p with
  | 0 => 300
  | 1 => 285
  | 2 => 270
  | _ => 240

/-- M at a point, in 0.1 % of its period, for a delay in steps of 0.5 ps: floor(1,000 × (1 − d / P)). -/
def marginAt (d p : Nat) : Int := (200000 - (d : Int) * pointFreq p) / 200

/-- The two delays of a site agree within 10 % (R492). (DEDUCED, log entry 91) -/
def siteValid (p : Nat × Nat) : Bool :=
  decide (10 * (p.1 - p.2) ≤ p.1) && decide (10 * (p.2 - p.1) ≤ p.1)

/-- The sites that are valid. -/
def validSites (sites : List (Nat × Nat)) : List Nat :=
  (List.range 24).filter fun i => siteValid (sites.getD i (0, 0))

/-- The valid site with the largest delay: the delay and the site. -/
def worstSite (sites : List (Nat × Nat)) : Nat × Nat :=
  (validSites sites).foldl (fun (b : Nat × Nat) i =>
    if b.1 < (sites.getD i (0, 0)).1 then ((sites.getD i (0, 0)).1, i) else b) (0, 0)

/-! ## History and events (R497, R499, R501) -/

/-- An event of Table 22-5. -/
def logSundial (s : State) (cls : Nat) (code : W16) (detail : List Byte) : State :=
  logEvent s cls code 0xFFFF 0xFF detail

/-- A history record (Table 22-4). -/
def historyBytes (s : State) (cause : Nat) (temp : W16) : List Byte :=
  let d := s.sundial
  leBytes 8 (now s) ++ leBytes 8 s.lodge.secTime.toNat ++ leBytes 1 d.inForce ++ leBytes 1 d.planned ++
    leBytes 2 d.setPoint ++ leBytes 2 d.margin ++ leBytes 1 d.worstSite ++ leBytes 1 cause ++ leBytes 2 temp.toNat ++
    leBytes 2 d.worstDelay ++ leBytes 4 d.lastStepUp.toNat

/-- Makes a history record; 256 wait at most, and the oldest goes. A temperature that nothing has read since the last
record is a free value. -/
def recordHistory (s : State) (cause : Nat) : State :=
  let p := match s.sundial.highTemp with
    | some t => (t, s)
    | none => ((fresh s).1.setWidth 16, (fresh s).2)
  let s := p.2
  let b := historyBytes s cause p.1
  let l := if s.sundial.history.length < 256 then s.sundial.history else s.sundial.history.drop 1
  { s with sundial.history := l ++ [b], sundial.highTemp := none, sundial.lastChange := now s }

/-- A reading of the die temperature, in 0.1 °C. -/
def noteTemp (s : State) (t : W16) : State :=
  let hotter := match s.sundial.highTemp with
    | some u => if u.toInt < t.toInt then t else u
    | none => t
  let at' := if t.toInt < 1050 then s.sundial.hotAt else now s
  { s with sundial.highTemp := some hotter, sundial.hotAt := at' }

/-! ## The set point (R490, R491, R495) -/

/-- The regulator does not acknowledge a write in three tries (R490). -/
def avsFails (s : State) (status : Byte) : State :=
  logSundial { s with sundial.avsFail := true } 3 0x0085 [0, status]

/-- Moves the glitch reference with the set point: at once when it falls, when the rail settles when it rises (R491). -/
def moveReference (s : State) (old new : Nat) : State :=
  if old < new then { s with sundial.glitchDue := some (now s + 256) }
  else { s with sundial.glitchRef := new, sundial.glitchDue := none }

/-- Writes the set point with a rule's number and a history cause. -/
def writeSetPoint (s : State) (mv rule cause : Nat) (ok : Bool) (status : Byte) : State :=
  let old := s.sundial.setPoint
  if mv = old then s
  else if !ok then avsFails s status
  else
    let s := { s with sundial.setPoint := mv, sundial.voltageChanges := min (s.sundial.voltageChanges + 1) 0xFFFF }
    let s := moveReference s old mv
    let s := logSundial s 0 0x0080 (leBytes 2 old ++ leBytes 2 mv ++ leBytes 2 s.sundial.margin ++ leBytes 1 rule)
    recordHistory s cause

/-! ## Points (R489, R495 to R498) -/

/-- Changes the planned point; the point in force follows at the next epoch boundary. (DEDUCED, log entry 92) -/
def plan (s : State) (p cause : Nat) : State :=
  let old := s.sundial.planned
  if p = old then s
  else
    let s := { s with sundial.planned := p, sundial.changeCause := cause }
    recordHistory (logSundial s 0 0x0081 (leBytes 1 old ++ leBytes 1 p ++ leBytes 1 cause)) cause

/-- The point in force is the lower in frequency of the planned point and the cap. -/
def pointDue (d : Sundial) : Nat := if d.throttled then 3 else d.planned

/-- Puts the point in force that is due (R489). -/
def enterPoint (s : State) (cause : Nat) : State :=
  let old := s.sundial.inForce
  let p := pointDue s.sundial
  if p = old then s
  else
    let s := { s with sundial.inForce := p, sundial.pointChanges := min (s.sundial.pointChanges + 1) 0xFFFF }
    recordHistory (logSundial s 0 0x0081 (leBytes 1 old ++ leBytes 1 p ++ leBytes 1 cause)) cause

/-- The step-up window [w, w + 2^30) has run its full length: the planned point steps one faster (R14, R496). -/
def windowRun (s : State) : State :=
  match s.sundial.window with
  | some w =>
    if decide (w + 2 ^ 30 ≤ now s) && decide (0 < s.sundial.planned) && !s.sundial.unavailable then
      let s := { s with
        sundial.window := none, sundial.lastStepUp := BitVec.ofNat 64 (min (s.lodge.secTime.toNat / 32768) 0xFFFFFFFF) }
      enterPoint (plan s (s.sundial.planned - 1) 3) 3
    else s
  | none => s

/-- The thermal cap ends at its epoch boundary; the detectors' readings in its event are free values. -/
def endCap (s : State) : State :=
  if s.sundial.capEnding then
    let p := fresh s
    let s := { p.2 with sundial.throttled := false, sundial.capEnding := false, sundial.changeCause := 6 }
    recordHistory (logSundial s 0 0x0086 (leBytes 4 p.1.toNat ++ [0])) 6
  else s

/-- What the Sundial does at an epoch boundary (R489, R498, R500). -/
def sundialEpoch (s : State) : State :=
  let s := endCap s
  let s := match s.sundial.pendingPlanned with
    | some p => plan { s with sundial.pendingPlanned := none } (max p s.sundial.planned) 8
    | none => s
  enterPoint s s.sundial.changeCause

/-! ## A measurement (R492 to R496) -/

/-- The delays of the sites as the registers show them. -/
def siteList (sites : Vector SiteDelay 24) : List (Nat × Nat) :=
  sites.toList.map fun x => (x.replica.toNat, x.oscillator.toNat)

/-- Each site that is not valid has its event (R492). -/
def excludeSites (s : State) (l : List (Nat × Nat)) : State :=
  ((List.range 24).filter fun i => !siteValid (l.getD i (0, 0))).foldl (fun s i =>
    logSundial s 0 0x0083 (leBytes 1 i ++ leBytes 2 (l.getD i (0, 0)).1 ++ leBytes 2 (l.getD i (0, 0)).2)) s

/-- What every measurement leaves: sites, the regulator's reading, the threshold in force from it on (R490, R493). -/
def takeReadings (s : State) (l : List (Nat × Nat)) (avs : AvsReport) : State :=
  let d := s.sundial
  let s := { s with sundial := { d with
      sites := l, avsRead := avs.read, avsFail := d.avsFail && !avs.statusOk, thresh := d.pendingThresh.getD d.thresh,
      pendingThresh := none, validSites := (validSites l).length, measuredAt := some (now s) } }
  excludeSites s l

/-- M at the point in force, its site and its delay. -/
def takeMargin (s : State) (l : List (Nat × Nat)) : State :=
  let w := worstSite l
  { s with sundial := { s.sundial with
      unavailable := false, worstDelay := w.1, worstSite := w.2,
      margin := (BitVec.ofInt 16 (marginAt w.1 s.sundial.inForce)).toNat } }

/-- Fewer than 20 valid sites: the set point goes to 0.85 V, and the planned point is held (R494). -/
def measureBlind (s : State) (avs : AvsReport) : State :=
  let s := { s with sundial.unavailable := true, sundial.window := none, sundial.run := 0 }
  let s := logSundial s 0 0x0084 (leBytes 1 s.sundial.validSites)
  if s.sundial.avsFail then s else writeSetPoint s 850 0 7 avs.writeOk avs.status

/-- Rule 2 of Table 22-3. -/
def stepDown (s : State) (m : Int) : State :=
  let s := { s with sundial.window := none }
  if s.sundial.planned < 3 then plan s (s.sundial.planned + 1) 2
  else
    let s := { s with sundial.floor := true }
    logSundial s 3 0x0082 (leBytes 2 (BitVec.ofInt 16 m).toNat ++ leBytes 2 s.sundial.worstDelay)

/-- The first rule of Table 22-3 that holds (R495). -/
def applyRules (s : State) (avs : AvsReport) : State :=
  let d := s.sundial
  let m := marginAt d.worstDelay d.inForce
  let t : Int := d.thresh
  let capped := decide (d.inForce ≠ d.planned)
  let run := if t + 40 ≤ m then d.run + 1 else 0
  let counted := !capped && decide (0 < d.planned) && decide (t + 80 ≤ m) && decide (t ≤ marginAt d.worstDelay (d.planned - 1))
  let s := { s with sundial.run := run }
  if m < t then
    if d.setPoint < 850 ∧ d.avsFail = false then
      let s := if capped then s else { s with sundial.window := none }
      writeSetPoint s (d.setPoint + 5) 1 1 avs.writeOk avs.status
    else stepDown s m
  else if counted then { s with sundial.window := some (d.window.getD (now s)) }
  else
    let s := if capped then s else { s with sundial.window := none }
    if !capped && decide (16 ≤ run) && !d.avsFail && decide (700 < d.setPoint) then
      writeSetPoint s (d.setPoint - 5) 4 4 avs.writeOk avs.status
    else s

/-- One measurement. -/
def measure (s : State) (l : List (Nat × Nat)) (avs : AvsReport) : State :=
  let s := takeReadings s l avs
  if (validSites l).length < 20 then measureBlind s avs else applyRules (takeMargin s l) avs

/-- The measurement of boot step 4: the highest point whose margin is at least T_min is planned (R489). -/
def calibrateSundial (s : State) (l : List (Nat × Nat)) (avs : AvsReport) : State :=
  let s := takeReadings s l avs
  let s := if avs.writeOk then s else avsFails s avs.status
  if (validSites l).length < 20 then measureBlind s avs
  else
    let s := takeMargin s l
    let ok := (List.range 4).find? fun p => decide ((s.sundial.thresh : Int) ≤ marginAt s.sundial.worstDelay p)
    plan s (ok.getD 3) 3

/-- What a mount takes from the newest history record of its own media, and the record with cause 8 (R500).
(DEDUCED, log entry 90) -/
def sundialMount (s : State) (newest : Option (List Byte)) : State :=
  let s := match newest with
    | none => s
    | some b =>
      let p := fieldAt b 17 1
      let s := if s.sundial.planned < p then { s with sundial.pendingPlanned := some (min p 3) } else s
      if s.sundial.setPoint < fieldAt b 18 2 then writeSetPoint s (min (fieldAt b 18 2) 850) 0 8 (!s.sundial.avsFail) 0 else s
  recordHistory s 8

/-! ## The rows -/

/-- SDL_THRESH_WRITE: a value not below the OTP default holds from the next measurement (R493). -/
def threshWrite (s : State) (value : W32) : State :=
  let v := value.toNat % 1024
  if s.otp.sdlThresh ≤ v then { s with sundial.pendingThresh := some v } else s

/-- SDL_THRESH_WRITE (R493). -/
def execSdlThreshWrite (value : W32) (s : State) : Host.Outcome State Fault Refusal :=
  .next (if s.boot.ready then threshWrite s value else s)

/-- SUNDIAL_MEASUREMENT: in every tick whose number is a multiple of 2^20 (R492, R495). A measurement stamped at the end
of a step-up window comes after it (R14). -/
def execSundialMeasurement (sites : Vector SiteDelay 24) (avs : AvsReport) (temp : BitVec 16) (s : State) :
    Host.Outcome State Fault Refusal :=
  .next (if s.boot.ready && decide (now s % 2 ^ 20 = 0) && decide (s.sundial.measuredAt ≠ some (now s)) then
      measure (noteTemp (windowRun s) temp) (siteList sites) avs
    else s)

/-- STEP_UP_WINDOW_END (R496). -/
def execStepUpWindowEnd (s : State) : Host.Outcome State Fault Refusal :=
  .next (windowRun s)

/-- GLITCH_REFERENCE_UPDATE: the rail has settled, or 256 ticks have passed (R491). -/
def execGlitchReferenceUpdate (settled : Bool) (s : State) : Host.Outcome State Fault Refusal :=
  .next (match s.sundial.glitchDue with
    | some t => if settled || decide (t ≤ now s) then { s with sundial.glitchRef := s.sundial.setPoint, sundial.glitchDue := none } else s
    | none => s)

/-- THERMAL_THROTTLE: a reading of 110.0 °C or more caps the point at OP3 from the next epoch (R498). -/
def execThermalThrottle (readingA : BitVec 16) (readingB : BitVec 16) (s : State) : Host.Outcome State Fault Refusal :=
  .next (if s.boot.ready then
      let s := noteTemp (noteTemp s readingA) readingB
      if max readingA.toInt readingB.toInt < 1100 then s
      else if s.sundial.throttled then { s with sundial.capEnding := false }
      else
        let s := { s with sundial.throttled := true, sundial.capEnding := false, sundial.changeCause := 5 }
        let s := logSundial s 0 0x0086 (leBytes 2 readingA.toNat ++ leBytes 2 readingB.toNat ++ [1])
        recordHistory s 5
    else s)

/-- THERMAL_CAP_END: both detectors have read below 105.0 °C throughout a window [c, c + 2^20); the cap ends at the next
epoch boundary (R14, R498). -/
def execThermalCapEnd (s : State) : Host.Outcome State Fault Refusal :=
  .next (if s.sundial.throttled && decide (s.sundial.hotAt + 1 + 2 ^ 20 ≤ now s) then { s with sundial.capEnding := true }
    else s)

/-- HISTORY_PERIODIC: 2^30 ticks have passed without a change (R499). -/
def execHistoryPeriodic (s : State) : Host.Outcome State Fault Refusal :=
  .next (if s.boot.ready && decide (s.sundial.lastChange + 2 ^ 30 ≤ now s) then recordHistory s 0 else s)

end Sys2Proof.Machine
end

