-- ==== Sys2Proof/Machine/Media.lean ====
section
/-! DEFINITION. The Vault's media: dies, blocks and segments, page programs, the reserves, and what a mount and a
format do (17_vault_media.md R384 to R403, 14_icehouse.md R332, 18_thadex_journal.md R424 and R425). -/
namespace Sys2Proof.Machine
open Sys2Proof

/-! ## Acceptance (R384 to R386, R408) -/

/-- The channel of a die as a number: 0 NA, 1 NB. -/
def dieChan (d : DieReport) : Nat := bit d.channel

/-- The dies found on some channels. -/
def diesOn (ds : List DieReport) (chans : List Nat) : List DieReport := ds.filter fun d => chans.contains (dieChan d)

/-- R386 of one die. -/
def geometryBad (ds : List DieReport) (d : DieReport) : Bool :=
  let p := d.pageBytes.toNat
  !([2048, 4096, 8192, 16384].contains p && decide (70 * (p / 1024) ≤ d.spareBytes.toNat)) ||
    ds.any fun e => decide (e.pageBytes ≠ d.pageBytes ∨ e.spareBytes ≠ d.spareBytes ∨ e.pagesPerBlock ≠ d.pagesPerBlock ∨
      e.blocks ≠ d.blocks)

/-- The modes that every die of a channel supports. -/
def commonModes (ds : List DieReport) (c : Nat) : BitVec 16 :=
  (diesOn ds [c]).foldl (fun m d => m &&& d.modes) (BitVec.allOnes 16)

/-- The NV-DDR3 timing modes at or below 800 MT/s: 0 to 10 of ONFI. (PRESUMED, log entry 133) -/
def cappedModes (m : BitVec 16) : BitVec 16 := m &&& 0x07FF

/-- The first reason of Table 17-5 that applies to the dies of the channels in use, with channel and target. -/
def mediaReason (ds : List DieReport) (known : Bool) : Option (Nat × Nat × Nat) :=
  let first := fun (code : Nat) (p : DieReport → Bool) => (ds.find? p).map fun d => (code, (dieChan d), d.target.val)
  let zero := (ds.head?.map fun d => ((dieChan d), d.target.val)).getD (0, 0)
  (first 2 fun d => !d.onfi) <|> (first 3 fun d => !d.slc) <|> (first 4 (geometryBad ds)) <|>
    (first 5 fun d => decide (cappedModes (commonModes ds (dieChan d)) = 0)) <|>
    (if known then none else some (6, zero.1, zero.2)) <|> (first 7 fun d => d.failed)

/-- The selected channels of VAULT_FORMAT. -/
def formatChannels (j : Job) : List Nat := [0, 1].filter fun c => (inlineField j 48 1).testBit c

/-- A die as the device will use it, with its blocks given. -/
def dieOf (d : DieReport) (blocks : List Block) : Die :=
  { channel := (dieChan d), target := d.target.val, lun := bit d.lun, failed := false, timeouts := 0, blocks := blocks, eraseQueue := [] }

/-- A block as a format leaves it: erased once more, or factory bad (R396). -/
def freshBlock (bad : Bool) : Block :=
  { state := if bad then .factoryBad else .free, stream := .system, written := [], erases := 1, reads := 0,
    stamp := 0, reserve := false, refreshDue := false, scrubDue := false, scrubbed := 0 }

/-- The factory bad-block table: the marks, and on a device strapped for Vault boot the boot area (R396, R458). -/
def factoryBad (s : State) (d : DieReport) (b : Nat) : Bool :=
  d.factoryBad.any (fun m => decide (m.toNat = b)) ||
    (decide (s.boot.straps.toNat % 4 = 2) && decide ((dieChan d) = 0 ∧ d.target.val = 0 ∧ d.lun = false ∧ b < 16))

/-- The report of the first die, as the registers show it. -/
def reportOf (d : DieReport) : MediaReport :=
  { onfi := d.onfi, slc := d.slc, pageBytes := d.pageBytes.toNat, spareBytes := d.spareBytes.toNat,
    pagesPerBlock := d.pagesPerBlock.toNat, blocksPerDie := d.blocks.toNat, timingModes := d.modes.toNat,
    progMax := d.progUs.toNat, eraseMax := d.eraseUs.toNat, endurance := d.endurance.toNat }

/-- The highest mode of a mask. -/
def topMode (m : BitVec 16) : Nat := Nat.log2 m.toNat

/-- A channel's mode, and the lengths of its slots: t_PROG and the transfers of its dies, and the erase time (R385, R401). -/
def channelTiming (ds : List DieReport) (c : Nat) : ChannelTiming :=
  let l := diesOn ds [c]
  let top := fun (f : DieReport → Nat) => l.foldl (fun m d => max m (f d)) 0
  if l = [] then { mode := 0, slotUs := 0, eraseUs := 0 }
  else
    { mode := topMode (cappedModes (commonModes ds c)),
      slotUs := ceilDiv (1000 * top (fun d => d.progUs.toNat) + l.length * top (fun d => d.xferNs.toNat)) 1000,
      eraseUs := top fun d => d.eraseUs.toNat }

/-- The channels as configured over the dies found. -/
def fittedOf (ds : List DieReport) : Option Fitted :=
  ds.head?.map fun d =>
    { dies := ds.map fun x => 8 * dieChan x + 2 * x.target.val + bit x.lun, report := reportOf d,
      timing := [channelTiming ds 0, channelTiming ds 1] }

/-- Configures the channels (R385); the media cycles of both start together (R401). -/
def configureVault (s : State) (ds : List DieReport) : State :=
  { s with vault := { s.vault with fitted := fittedOf ds, cyclesFrom := now s, writeEnable := [false, false] } }

/-- Records a refusal of the media in VLT_REASON; answers DETAIL (R408). -/
def refuseMedia (s : State) (r : Nat × Nat × Nat) : State × Nat :=
  let v := r.1 + 2 ^ 16 * r.2.1 + 2 ^ 24 * r.2.2
  ({ s with vault.reason := BitVec.ofNat 32 v }, v)

/-! ## Blocks and space (R397, R398, R403) -/

/-- One die. -/
def dieAt (s : State) (d : Nat) : Option Die := s.vault.media.dies[d]?

/-- Changes one die. -/
def modDie (s : State) (d : Nat) (f : Die → Die) : State := { s with vault.media.dies := s.vault.media.dies.modify d f }

/-- Changes one block. -/
def modBlock (s : State) (d b : Nat) (f : Block → Block) : State := modDie s d fun x => { x with blocks := x.blocks.modify b f }

/-- One block. -/
def blockAt (s : State) (d b : Nat) : Option Block := (dieAt s d).bind fun x => x.blocks[b]?

/-- Pages programmed in a block. -/
def Block.pages (b : Block) : Nat := b.written.length

/-- Pages of a block that are not stale. -/
def Block.valid (b : Block) : Nat := (b.written.filter fun p => p.valid).length

/-- A block that is not bad. -/
def Block.good (b : Block) : Bool := decide (b.state ≠ .factoryBad ∧ b.state ≠ .grownBad)

/-- Good blocks of a die. -/
def Die.goodBlocks (d : Die) : Nat := (d.blocks.filter Block.good).length

/-- Pages per block. -/
def pagesPerBlock (s : State) : Nat := (s.vault.media.report.map fun r => r.pagesPerBlock).getD 0

/-- The die's part of the security reserve: 1% of all good blocks, rounded up, drawn from the dies in ascending order. -/
def securityPart (s : State) (d : Nat) : Nat :=
  let ds := s.vault.media.dies
  let total := ceilDiv (ds.foldl (fun n x => n + x.goodBlocks) 0) 100
  total / ds.length + bit (decide (d < total % ds.length))

/-- Blocks that a die's valid pages take when packed, outside the security reserve. -/
def packedBlocks (s : State) (d : Die) : Nat :=
  ceilDiv ((d.blocks.filter fun b => !b.reserve).foldl (fun n b => n + b.valid) 0) (pagesPerBlock s)

/-- The die is full (R403). -/
def dieFull (s : State) (d : Nat) : Bool :=
  match dieAt s d with
  | some x => decide (x.goodBlocks ≤ packedBlocks s x + 2 + securityPart s d)
  | none => true

/-- Free blocks of a die. -/
def freeBlocks (d : Die) : Nat := (d.blocks.filter fun b => decide (b.state = .free)).length

/-- The free block of the lowest erase count, ties to the lowest number. -/
def leastWorn (d : Die) : Option Nat :=
  let idx := (List.range d.blocks.length).filter fun i => (d.blocks[i]?).any fun b => decide (b.state = .free)
  let wear := fun i => ((d.blocks[i]?).map fun b => b.erases).getD 0
  idx.foldl (fun b i => match b with
    | none => some i
    | some x => if wear i < wear x then some i else some x) none

/-- The open segment of a stream with room; one in the security reserve is for security records alone (R403). -/
def openSegment (s : State) (d : Die) (st : Stream) (security : Bool) : Option Nat :=
  d.blocks.findIdx? fun b =>
    decide (b.state = .opened) && decide (b.stream = st) && decide (b.pages < pagesPerBlock s) && (security || !b.reserve)

/-- A new segment of a stream takes a block; a die has at most one open segment of a stream (R393). -/
def openBlock (s : State) (d b : Nat) (st : Stream) (reserve : Bool) : State :=
  let s := modDie s d fun x => { x with blocks := x.blocks.map fun y =>
    if y.state = .opened ∧ y.stream = st then { y with state := .closed } else y }
  let s := modBlock s d b fun y => { y with state := .opened, stream := st, written := [], stamp := s.lodge.secTime, reserve := reserve }
  if reserve then { s with vault.reserveInUse := true } else s

/-- The block that takes the next page of a stream on a die: the open segment, a free block outside the reserves, one
of the collection reserve unless the die is full, or for security records one of the security reserve. -/
def takeBlock (s : State) (d : Nat) (st : Stream) (security : Bool) : Option (State × Nat) :=
  match dieAt s d with
  | none => none
  | some x =>
    match openSegment s x st security with
    | some b => some (s, b)
    | none =>
      let part := securityPart s d
      let free := freeBlocks x
      let open' := fun (r : Bool) => (leastWorn x).map fun b => (openBlock s d b st r, b)
      if dieFull s d then if security && decide (0 < free) then open' true else none
      else if part < free then open' false
      else none

/-- The header of the next page of a block (R390, R391). -/
def nextHead (s : State) (b : Block) (c : PageContent) (relocated : Bool) : PageHead :=
  let m := s.vault.media
  { stream := c.stream, checkpointLast := decide (c = .checkpoint true), relocated := relocated, pseq := m.pseq,
    segSeq := (b.written.head?.map fun p => p.head.pseq).getD m.pseq, erases := b.erases, vaultId := slice m.nonce 0 4 }

/-- Programs one page into a block taken for it: PSEQ rises, a full block closes (R391, R393). -/
def programPage (s : State) (d b : Nat) (c : PageContent) (relocated : Bool) : State :=
  let n := pagesPerBlock s
  let s := modBlock s d b fun y =>
    { y with
      written := y.written ++ [{ head := nextHead s y c relocated, content := c, valid := true }], stamp := s.lodge.secTime,
      state := if n ≤ y.pages + 1 then .closed else y.state }
  { s with vault := { s.vault with media := { s.vault.media with pseq := s.vault.media.pseq + 1, clean := false } } }

/-- The channel's write enable while a die programs or erases (R387). -/
def driveWp (s : State) (d : Nat) (high : Bool) : State :=
  { s with vault.writeEnable := s.vault.writeEnable.set (((dieAt s d).map fun x => x.channel).getD 0) high }

/-- Work for a housekeeping slot (R402). -/
def addChore (s : State) (cls d b : Nat) : State :=
  let c : Chore := { cls := cls, die := d, block := b }
  if s.vault.chores.contains c then s else { s with vault.chores := s.vault.chores ++ [c] }

/-- Recomputes FULL (R403). -/
def noteFull (s : State) : State :=
  { s with vault.full := s.vault.mounted && (List.range s.vault.media.dies.length).any (dieFull s) }

/-- A block becomes grown bad: its valid pages are relocated and a checkpoint records it (R394, R397). -/
def growBad (s : State) (d b : Nat) : State :=
  let s := modBlock s d b fun y => { y with state := .grownBad }
  let s := if ((blockAt s d b).map fun y => y.valid).getD 0 = 0 then s else addChore s 2 d b
  noteFull (addChore s 3 0 0)

/-- The valid pages of a block that pass a test become stale. -/
def Block.stale (old : MediaPage → Bool) (b : Block) : Block :=
  { b with written := b.written.map fun p => { p with valid := p.valid && !old p } }

/-- Content bytes of a page: 1,024n − 48 (Table 17-2). -/
def contentSize (s : State) : Nat := (s.vault.media.report.map fun r => r.pageBytes).getD 2048 - 48

/-- The pages of the Vault that pass a test become stale: a newer version of their item is on the media (R393). -/
def stalePages (s : State) (old : MediaPage → Bool) : State :=
  { s with vault.media.dies := s.vault.media.dies.map fun x => { x with blocks := x.blocks.map (Block.stale old) } }

/-- The page with a PSEQ. -/
def isPage (pseq : Nat) (p : MediaPage) : Bool := decide (p.head.pseq = pseq)

/-- A block without valid pages, closed, is queued for erase. -/
def queueErase (s : State) (d b : Nat) : State :=
  match blockAt s d b with
  | some y =>
    if y.valid = 0 ∧ y.state = .closed then
      modDie (modBlock s d b fun y => { y with state := .eraseQueued }) d fun x => { x with eraseQueue := x.eraseQueue ++ [b] }
    else s
  | none => s

/-! ## The key image (R332, R463) -/

/-- What of a pairing the key image holds. -/
def twinPart (s : State) : Option TwinPart :=
  if s.bridge.paired then
    some { pairKey := s.bridge.pairKey.getD [], peerId := s.bridge.twinId, west := s.boot.straps.getLsbD 4,
           pairCounter := s.bridge.pairCounter, handleKey := s.bridge.handleKey, peerVault := s.bridge.peerVault }
  else none

/-- An allotment's definition without what a reset ends. -/
def definitionOf (v : Allotment) : Allotment :=
  { v with
    quiesced := false, reads := [], inflight := 0, channelKey := none,
    digestBlock := false, keptBlock := false, destroyRecords := [], usage := [],
    lease := leaseNext' v, pendingLease := none }
where
  leaseNext' (v : Allotment) : Lease := (v.pendingLease.map Prod.snd).getD v.lease

/-- The key-image page of an allotment's append turn: its keys, and those that become live when the change is durable
(R171, R332). -/
def imagePart (s : State) (a : Nat) : ImagePart :=
  let own := fun (k : Nat) => decide (k / 64 = a)
  { allot := a, keys := KMap.keep s.ice.keys fun k v => own k && (v.live || decide (v.type ≠ 0)), gens := KMap.keep s.ice.gens fun k _ => own k,
    definition := if a = 0 then none else (KMap.get? s.allots a).map definitionOf,
    secret := s.ice.secret, enrolCount := s.ice.enrolCount, twin := twinPart s, wrap := imageKey s }

/-- An image with nothing in it. -/
def KeyImage.empty (wrap : List Byte) : KeyImage :=
  { allots := [], keys := [], gens := [], secret := none, enrolCount := 0, twin := none, wrap := wrap }

/-- Puts a durable key-image page into the image. -/
def mergePart (m : KeyImage) (p : ImagePart) : KeyImage :=
  let other := fun (k : Nat) => decide (k / 64 ≠ p.allot)
  let keys := p.keys.foldl (fun m kv => KMap.put m kv.1 { kv.2 with live := true, persisted := true }) (KMap.keep m.keys fun k _ => other k)
  let gens := p.gens.foldl (fun m kv => KMap.put m kv.1 kv.2) (KMap.keep m.gens fun k _ => other k)
  let m := { m with keys := keys, gens := gens, wrap := p.wrap }
  let m := match p.definition with
    | some v => { m with allots := KMap.put m.allots p.allot v }
    | none => { m with allots := KMap.drop m.allots p.allot }
  if p.allot = 0 then { m with secret := p.secret, enrolCount := p.enrolCount, twin := p.twin } else m

/-- A stateful key as a mount restores it: no live block, and the next block above every one that a record names
(R175, R181, R424). -/
def restoreStateful (m : Media) (h : W64) (t : Stateful) : Stateful :=
  let top := m.reserved.foldl (fun n r => if r.1 = h then max n ((r.2.1 + r.2.2 + 1023) / 1024) else n) 0
  { t with live := none, opened := none, joined := [], detached := false, cache := reloadCache t.cache, nextBlock := max t.nextBlock top }

/-- The next quote block above every one that a record names: a record's first value is 65,536 b + 1 (R347, R424). -/
def quoteAfter (m : Media) (n : Nat) : Nat :=
  m.reserved.foldl (fun n r => if r.1 = 0 then max n ((r.2.1 + r.2.2 - 2) / 65536 + 1) else n) n

/-- Restores what the image holds of a pairing: the device enters SOLO by loss, with its record (R435, R443). -/
def restorePairing (s : State) (t : TwinPart) : State :=
  let was := s.bridge.solo
  let s := { s with bridge := { s.bridge with
      paired := true, twinId := t.peerId, pairCounter := t.pairCounter, pairKey := some t.pairKey, handleKey := t.handleKey,
      peerVault := t.peerVault, solo := true, soloCause := if was then s.bridge.soloCause else 1,
      soloTick := if was then s.bridge.soloTick else now s } }
  if was then s else (postTwin s 2).1

/-- A device whose key image is lost is paired no longer (R435). -/
def unpair (s : State) : State :=
  { s with bridge := { s.bridge with
      paired := false, solo := false, soloCause := 0, pairKey := none, linkKey := none, handleKey := none, peerVault := none,
      peerHandleKey := none } }

/-- Drops the keys of the image that no allotment takes, with a KEY_EVENT record for each. -/
def dropImageKeys (s : State) (keys : KMap Key) : State :=
  keys.foldl (fun s kv => (postRecord s 3 4 (BitVec.ofNat 16 (kv.1 / 64)) deviceHolder
    (attributeRecord kv.2 false (mkHandle s (kv.1 / 64) 2 0 (kv.1 % 64)))).1) s

/-- Restores the key image at the first mount after a full reset: definitions, the pairing with the handle key that its
handles are made under, then keys (R175, R332, R356, R463). An image
that does not decrypt is discarded with a SECURITY_EVENT record (R342). -/
def restoreImage (s : State) : State :=
  match s.vault.media.image with
  | none => s
  | some m =>
    if s.ice.imageLoaded || s.ice.imageSuspended || !s.ice.ready || !s.vault.mounted || s.vault.foreign then s
    else if m.wrap ≠ imageKey s then
      let s := unpair { s with vault.media.image := none, ice.imageLost := true }
      (postRecord s 2 0 0xFFFF deviceHolder (securityBody 0 0xFF 0xFF 1 (now s) (now s) [])).1
    else
      let e := effectEpoch (now s)
      let anew := m.allots.filter fun p => !KMap.has s.allots p.1
      let enter := fun (v : Allotment) => { v with pendingLease := some (e, v.lease), lease := Lease.none, shareFrom := e }
      let s := anew.foldl (fun s p => { s with allots := KMap.put s.allots p.1 (enter p.2) }) s
      let fits := fun (k : Nat) => decide (k / 64 = 0) ||
        (decide ((KMap.get? s.allots (k / 64)).map (fun v => v.salt) = (KMap.get? m.allots (k / 64)).map fun v => v.salt) &&
          KMap.has s.allots (k / 64))
      let mine := m.keys.filter fun p => fits p.1 && !KMap.has s.ice.keys p.1
      let lost := m.keys.filter fun p => !fits p.1
      let gens := m.gens.foldl (fun (g : KMap Nat) (p : Nat × Nat) => if fits p.1 then KMap.put g p.1 p.2 else g) s.ice.gens
      let s := match m.twin with
        | some t => restorePairing s t
        | none => s
      let s := { s with ice.gens := gens }
      let back := fun (k : Nat) (x : Key) => { x with stateful := x.stateful.map (restoreStateful s.vault.media (slotHandle s k)) }
      let s := { s with ice := { s.ice with
          imageLoaded := true,
          keys := mine.foldl (fun (ks : KMap Key) (p : Nat × Key) => KMap.put ks p.1 (back p.1 p.2)) s.ice.keys,
          secret := if s.ice.secret.isSome then s.ice.secret else m.secret,
          enrolCount := max s.ice.enrolCount m.enrolCount, quoteNext := quoteAfter s.vault.media s.ice.quoteNext } }
      dropImageKeys s lost

/-! ## The journal as a mount finds it (R395, R424, R425) -/

/-- TYPE of a record's bytes. -/
def recType (b : List Byte) : Nat := fieldAt b 24 1

/-- The records of a list of slots. -/
def recordSlots (l : List JSlot) : List JSlot := l.filter fun x => !x.chunk

/-- Holes in the rising sequence numbers of the records, with the number before each. -/
def holes : Nat → List JSlot → List (Nat × Nat)
  | _, [] => []
  | n, x :: l => if n < x.seq then (n, x.seq - 1) :: holes (x.seq + 1) l else holes (x.seq + 1) l

/-- A hole that a GAP record names already. -/
def gapKnown (l : List JSlot) (p : Nat × Nat) : Bool :=
  l.any fun x => !x.chunk && decide (recType x.bytes = 2 ∧ fieldAt x.bytes 28 2 = 2 ∧ fieldAt x.bytes 64 8 = p.1 ∧ fieldAt x.bytes 72 8 = p.2)

/-- The last HEAD_SIGNATURE whose HSN passes a test: HSN and slot. (DEDUCED, log entry 89) -/
def lastHead (l : List JSlot) (ok : Nat → Bool) : Option (Nat × JSlot) :=
  (recordSlots l).foldl (fun b x => if recType x.bytes = 8 && ok (fieldAt x.bytes 64 8) then some (fieldAt x.bytes 64 8, x) else b) none

/-- Chunks of a head signature on the media. -/
def chunkCount (l : List JSlot) (hsn : Nat) : Nat := (l.filter fun x => x.chunk && decide (fieldAt x.bytes 0 8 = hsn)).length

/-- The journal's registers as read from the slots of the media. -/
def journalFrom (j : Journal) (l : List JSlot) : Journal :=
  let rs := recordSlots l
  let last := rs.getLast?
  let hs := lastHead l fun _ => true
  let whole := lastHead l fun n => decide (chunkCount l n = 39)
  { j with
    next := (last.map fun x => x.seq + 1).getD 1, head := (last.map fun x => sha3_256 x.bytes).getD (zeroBytes 32),
    hsnAssembled := (hs.map Prod.fst).getD 0, hsnDurable := (whole.map Prod.fst).getD 0,
    lastHsSeq := (hs.map fun p => p.2.seq).getD 0,
    sinceHs := (rs.filter fun x => decide (((hs.map fun p => p.2.seq).getD 0) < x.seq)).length,
    hsTime := (hs.map fun p => fieldAt p.2.bytes 8 8).getD 0, firstTime := (rs.head?.map fun x => fieldAt x.bytes 8 8).getD 0,
    signing := match hs with
      | some (n, x) => if chunkCount l n = 39 then none else some (n, x.bytes)
      | none => none,
    chunks := [], slots := [], position := 0, round := 0, unmounting := false }

/-- GAP records of an unclean mount, ahead of all others (R425). -/
def postGaps (s : State) : State :=
  let l := s.vault.media.journal
  let gaps := (holes 1 (recordSlots l)).filter fun p => !gapKnown l p
  let hashOf := fun n => ((recordSlots l).find? fun x => decide (x.seq = n)).map fun x => sha3_256 x.bytes
  let j := s.journal
  let rs := gaps.mapIdx fun i p =>
    ({ id := j.nextId + i, type := 2, subtype := 2, allot := 0xFFFF, holder := deviceHolder, flags := 0,
       body := slice (leBytes 8 p.1 ++ leBytes 8 p.2 ++ (hashOf (p.1 - 1)).getD (zeroBytes 32)) 0 64 } : JRecord)
  { s with journal := { j with nextId := j.nextId + rs.length, pending := rs ++ j.pending } }

/-- The record that names the cause of the last full reset, at the first mount of the boot (R462). -/
def postCause (s : State) : State :=
  if s.boot.causeDue then
    let j := s.journal
    let body := securityBody 0x0001 0xFF 0xFF 1 (now s) (now s)
      ([s.boot.cause] ++ leBytes 1 s.boot.running ++ leBytes 4 s.stores.patchLevel.toNat)
    let r : JRecord := { id := j.nextId, type := 2, subtype := 0, allot := 0xFFFF, holder := deviceHolder, flags := 0, body := slice body 0 64 }
    let isGap := fun (x : JRecord) => decide (x.type = 2 ∧ x.subtype = 2)
    { s with
      boot.causeDue := false,
      journal := { j with nextId := j.nextId + 1, pending := j.pending.filter isGap ++ [r] ++ j.pending.filter fun x => !isGap x } }
  else s

/-- The code under which a Lodge ring entry enters the journal. -/
def ringCode (e : RingEntry) : W16 :=
  match e.kind.toNat with
  | 0 => 0x0050
  | 1 => 0x0051
  | 2 => 0x0052
  | 3 => 0
  | _ => 0x0053

/-- Forwards the entries of the Lodge ring that no record yet carries (R381). -/
def forwardRing (s : State) : State :=
  if !vaultWritable s then s
  else (List.range s.lodge.ring.length).foldl (fun s i =>
    match s.lodge.ring[i]? with
    | some e =>
      if e.forwarded || e.record.isSome then s
      else
        let detail := leBytes 8 e.time.toNat ++ [e.kind, e.level] ++ leBytes 2 e.mask.toNat
        let p := postRecord s 2 0 0xFFFF deviceHolder (securityBody (ringCode e) e.source e.level e.count (now s) (now s) detail)
        { p.1 with lodge.ring := p.1.lodge.ring.modify i fun x => { x with record := some p.2 } }
    | none => s) s

/-- At the first mount of a later boot, with the dump enabled, the newest Vault copy that has not been delivered is written
to the host region (R482). -/
def deliverDump (first : Bool) (s : State) : State :=
  match s.dump.mediaCopy with
  | some (b, parts) =>
    if first && s.dump.enable && !s.dump.mediaDelivered && decide (b ≠ s.lodge.bootCount.toNat) then
      let s := parts.foldl (fun s p => send s (.write 0 (s.dump.base + BitVec.ofNat 64 p.1) p.2 false)) s
      { s with dump.delivered := true, dump.mediaDelivered := true }
    else s
  | none => s

/-- A mount of this device's own media: recovery, the journal, and what waits for it (R131, R395, R463). -/
def mountOwn (s : State) (ds : List DieReport) : State :=
  let m := s.vault.media
  let first := !s.vault.mountedThisBoot
  let unclean := !m.clean
  let s := configureVault s ds
  let dies := m.dies.map fun x =>
    if unclean then { x with blocks := x.blocks.map fun b =>
      { b with reads := b.reads + 1024, state := if b.state = .opened then .closed else b.state } }
    else x
  let opened := (List.range m.dies.length).flatMap fun d =>
    ((m.dies[d]?).map fun x => (List.range x.blocks.length).filterMap fun b =>
      if (x.blocks[b]?).any fun y => decide (y.state = .opened) then some (d, b) else none).getD []
  let m' := { m with dies := dies, pseq := if unclean then m.pseq + 65535 else m.pseq }
  let v := { s.vault with
    media := m', mounted := true, foreign := false, readOnly := decide (s.lc.inForce = 3), unclean := unclean,
    recovering := unclean && decide (opened ≠ []), mountedThisBoot := true,
    reserveInUse := m.dies.any fun x => x.blocks.any fun b => b.reserve && decide (0 < b.valid) }
  let s := { s with vault := v, journal := journalFrom s.journal m.journal }
  let s := if unclean then opened.foldl (fun s p => addChore s 1 p.1 p.2) s else s
  let s := deliverDump first (sundialMount (noteFull s) m.history.getLast?)
  if s.vault.readOnly then s
  else forwardRing (restoreImage (postCause (if unclean then postGaps s else s)))

/-- A foreign mount: the twin's media, to be read (R392). -/
def mountForeign (s : State) (ds : List DieReport) (slots : List (Bool × Vector Byte 128)) : State :=
  let s := configureVault s ds
  let visiting := slots.map fun p =>
    ({ chunk := p.1, seq := if p.1 then 0 else fieldAt p.2.toList 0 8, id := 0, bytes := p.2.toList } : JSlot)
  { s with vault := { s.vault with mounted := true, foreign := true, readOnly := true, unclean := false, visiting := visiting } }

/-- The device's root reads its own media (R356, R357). -/
def ownReadable (s : State) : Bool :=
  let root := if s.lc.inForce = 3 then (if (otpSeed s.otp).all (· = 0) then 1 else 2) else rootKind s
  decide (s.vault.media.formattedBy = 1) && decide (s.vault.media.formatRoot = root)

/-- The media holds a Vault that this device can read. -/
def vaultKnown (s : State) (found : VaultFound) : Bool :=
  match found with
  | .own => ownReadable s
  | .twin _ => s.bridge.peerVault.isSome && s.bridge.paired
  | .unknown => false

/-! ## VAULT_FORMAT (R130, R396) -/

/-- A root that may format: test or production; under the debug root no Vault is served (Table 15-5). -/
def vaultRoot (s : State) : Bool := decide (rootKind s = 1 ∨ rootKind s = 2)

/-- The checks before the media: mask, dies, and in PRODUCTION a readable journal. -/
def formatCheck (ds : List DieReport) (found : VaultFound) (s : State) (j : Job) : Option (Status × Nat) :=
  let m := inlineField j 48 1
  if m = 0 ∨ 3 < m then refuse 0x0001
  else if !vaultRoot s then some (.vaultMedia, 0)
  else if (formatChannels j).any fun c => decide (diesOn ds [c] = []) then some (.vaultMedia, 0)
  else if decide (s.lc.inForce = 2) && vaultKnown s found then refuse 0x0010
  else if (mediaReason (diesOn ds (formatChannels j)) true).isSome then some (.vaultMedia, 0)
  else none

/-- The reason that a failing VAULT_FORMAT reports. -/
def formatReason (ds : List DieReport) (j : Job) : Option (Nat × Nat × Nat) :=
  match (formatChannels j).find? fun c => decide (diesOn ds [c] = []) with
  | some c => some (1, c, 0)
  | none => mediaReason (diesOn ds (formatChannels j)) true

/-- The media as a format will leave it: the dies found, a new nonce, an empty journal; and its channels. -/
def formattingOf (ds : List DieReport) (s : State) (nonce : List Byte) : Formatting :=
  let dies := ds.map fun d => dieOf d ((List.range d.blocks.toNat).map fun b => freshBlock (factoryBad s d b))
  { media := { dies := dies, report := ds.head?.map reportOf, formattedBy := 1, nonce := nonce, formatRoot := rootKind s,
               clean := true, pseq := 1, image := none, journal := [], reserved := [], caches := [], history := [] },
    fitted := fittedOf ds }

/-- In the dispatch tick a format is prepared, and nothing is written: the nonce, the item of kind 0x000E for the twin, and
the journal head that the device holds (R109, R130, R436). -/
def formatPrepare (ds : List DieReport) (s : State) (j : Job) : State :=
  let n := ceilDiv 32 8
  let nonce := slice ((List.range n).flatMap fun i => leBytes 8 (Config.freeWord (s.freeCount + i)).toNat) 0 32
  let item := slice (handleKeyOf s) 0 32 ++ slice (vaultKey s nonce) 0 32 ++ nonce
  let f := formattingOf (diesOn ds (formatChannels j)) s nonce
  let carry := fun (_ : Nat) (x : Job) =>
    if x.entry.opcode.toNat = 0xF013 ∧ x.phase = .dispatched then { x with context := item, fresh := leNat (slice s.journal.head 0 32) } else x
  { s with freeCount := s.freeCount + n, vault.prepared := some f, jobs := KMap.mapAll s.jobs carry }

/-- Formats the media: erased blocks, an empty journal, the first checkpoint; the new Vault is mounted.
(DEDUCED, log entry 86) -/
def formatMedia (f : Formatting) (s : State) : State :=
  let v := { Vault.reset f.media with
    mounted := true, formatting := true, fitted := f.fitted, cyclesFrom := now s, mountedThisBoot := true }
  let s := { s with vault := v, journal := journalFrom { s.journal with exporting := [] } [] }
  match takeBlock s 0 .system false with
  | some (s, b) => noteFull (programPage s 0 b (.checkpoint true) false)
  | none => noteFull s

/-- The record that opens the new journal, ahead of every other: the last head that the device held (R130). -/
def formatRecord (s : State) (j : Job) : State × List Nat :=
  let q := s.journal
  let body := securityBody 0 0xFF 0xFF 1 (now s) (now s) (leBytes 32 j.fresh)
  let r : JRecord := { id := q.nextId, type := 2, subtype := 0, allot := 0xFFFF, holder := 0, flags := 0, body := slice body 0 64 }
  ({ s with journal := { q with nextId := q.nextId + 1, pending := r :: q.pending } }, [q.nextId])

/-- Once any commit is done the media is formatted; the key image is written anew, and the first record is awaited. -/
def formatFollow (s : State) (j : Job) : State × List Nat :=
  match s.vault.prepared with
  | some f =>
    let s := formatMedia f s
    formatRecord (s.allots.foldl (fun s p => (postImageChange s p.1).1) s) j
  | none => (s, [])

/-- VAULT_FORMAT on the dies found. The head held before stands in the job until the record is made. -/
def cmdVaultFormat (ds : List DieReport) (found : VaultFound) : AdminCmd :=
  { opcode := 0xF013, markS := fun _ => true, markQ := false, markE := false, needsRoot := false,
    check := formatCheck ds found, draws := fun _ => none, prepare := formatPrepare ds, records := noRecords,
    mirrored := fun _ => some (0x0E, 0), follow := formatFollow,
    apply := fun s _ _ => (forwardRing { s with vault.formatting := false }, 0, 0) }

/-- VAULT_FORMAT as it goes on after its dispatch tick. -/
def cmdVaultFormatLater : AdminCmd := cmdVaultFormat [] .unknown

/-- Gives a failed command its DETAIL and VLT_REASON (R408). -/
def reportMedia (s : State) (k : Nat) (r : Option (Nat × Nat × Nat)) : State :=
  match r, KMap.get? s.jobs k with
  | some r, some j =>
    if decide (j.phase = .decided) && decide (j.status = .vaultMedia) then
      let p := refuseMedia s r
      modJob p.1 k fun x => { x with detail := BitVec.ofNat 48 p.2 }
    else s
  | _, _ => s

/-! ## VAULT_MOUNT (R131, R392, R395) -/

/-- The reason for which a mount fails. -/
def mountReason (ds : List DieReport) (found : VaultFound) (s : State) : Option (Nat × Nat × Nat) :=
  if ds = [] then some (1, 0, 0) else mediaReason ds (vaultKnown s found)

/-- An operation of 0 or 1; no root that reads a Vault; the media. A mounted Vault is left as it is. -/
def mountCheck (ds : List DieReport) (found : VaultFound) (s : State) (_ : Job) : Option (Status × Nat) :=
  if s.vault.mounted then none
  else if !vaultRoot s && decide (s.lc.inForce ≠ 3) then some (.vaultMedia, 0)
  else if (mountReason ds found s).isSome then some (.vaultMedia, 0)
  else none

/-- The next sequence number of the journal that the mounted media holds: on the twin's media, one above its last record. -/
def mountedNext (s : State) : Nat :=
  if s.vault.foreign then (recordSlots s.vault.visiting).foldl (fun n x => max n (x.seq + 1)) 1 else s.journal.next

/-- Mounts; DETAIL is the low 48 bits of the mounted journal's next sequence number (R131). -/
def mountApply (ds : List DieReport) (found : VaultFound) (s : State) (_ : Nat) (_ : Job) : State × Nat × Nat :=
  let s := if s.vault.mounted then s
    else
      let s := { s with ice.keys := KMap.mapAll s.ice.keys fun _ x => unloadCache x }
      match found with
      | .twin slots => mountForeign s ds slots
      | _ => mountOwn s ds
  (s, 0, mountedNext s % 2 ^ 48)

/-- VAULT_MOUNT, operation 1. -/
def cmdVaultMount (ds : List DieReport) (found : VaultFound) : AdminCmd :=
  { opcode := 0xF014, markS := fun _ => false, markQ := true, markE := true, needsRoot := false,
    check := mountCheck ds found, draws := fun _ => none, records := noRecords, mirrored := fun _ => none,
    apply := mountApply ds found }

/-! ## Unmount (R131, R394, R420) -/

/-- The operation is 0 or 1 (R131). -/
def unmountCheck (_ : State) (j : Job) : Option (Status × Nat) := if 1 < inlineField j 48 1 then refuse 0x0001 else none

/-- Unmount begins: the next device position carries a HEAD_SIGNATURE if any record follows the last (R420). -/
def unmountBegin (s : State) (_ : Job) : State := { s with journal.unmounting := vaultWritable s }

/-- The unmount checkpoint carries a CLEAN mark (R394). -/
def unmountVault (s : State) : State :=
  let s := if vaultWritable s then
      match takeBlock s 0 .system false with
      | some (s, b) => { programPage (stalePages s fun p => decide (p.head.stream = .system)) 0 b (.checkpoint true) false with
          vault.media.clean := true }
      | none => { s with vault.media.clean := true }
    else s
  { s with
    journal.unmounting := false,
    vault := { s.vault with
      mounted := false, readOnly := false, foreign := false, recovering := false, full := false, reserveInUse := false,
      chores := [], visiting := [] } }

/-- VAULT_MOUNT, operation 0. -/
def cmdVaultUnmount : AdminCmd :=
  { opcode := 0xF014, markS := fun _ => false, markQ := true, markE := true, needsRoot := false,
    check := unmountCheck, draws := fun _ => none, prepare := unmountBegin, records := noRecords,
    mirrored := fun _ => none, apply := fun s _ _ => (unmountVault s, 0, 0) }

end Sys2Proof.Machine
end

