-- ==== Sys2Proof/Machine/Sha2.lean ====
section
/-! DEFINITION. The SHA-2 compression functions of FIPS 180-4, which the spec names for the SHA-2 cores
(12_digest.md R284, R291), and the digests built on them. Chaining words are held as numbers below 2^w. -/
namespace Sys2Proof.Machine
open Sys2Proof

/-! ## Constants: fractional parts of roots of the first primes (FIPS 180-4) -/

/-- The first `n` primes, none of which is above 410 for the 80 that the functions use. -/
def firstPrimes (n : Nat) : List Nat :=
  ((List.range 410).filter fun m => decide (2 ≤ m) && (List.range m).all fun d => decide (d < 2) || decide (m % d ≠ 0)).take n

/-- The largest number whose `k`-th power is at most `v`, sought from bit `i - 1` down. -/
def rootFrom (k v : Nat) : Nat → Nat → Nat
  | 0, r => r
  | i + 1, r => rootFrom k v i (if (r + 2 ^ i) ^ k ≤ v then r + 2 ^ i else r)

/-- The first 64 bits of the fractional part of the `k`-th root of a number below 512. -/
def rootBits (k p : Nat) : Nat := rootFrom k (p * 2 ^ (64 * k)) 69 0 % 2 ^ 64

/-- The round constants of SHA-512: of the cube roots of 80 primes. -/
def sha512K : List Nat := (firstPrimes 80).map (rootBits 3)

/-- The round constants of SHA-256: the first 32 bits of 64 of them. -/
def sha256K : List Nat := (sha512K.take 64).map (· / 2 ^ 32)

/-- The initial words of SHA-512: of the square roots of 8 primes. -/
def sha512Init : List Nat := (firstPrimes 8).map (rootBits 2)

/-- The initial words of SHA-384: of the square roots of the next 8. -/
def sha384Init : List Nat := ((firstPrimes 16).drop 8).map (rootBits 2)

/-! ## The functions -/

/-- Rotation right of a `w`-bit number. -/
def rotrN (w v r : Nat) : Nat := (v >>> r ||| v <<< (w - r)) % 2 ^ w

/-- What differs between the two families: word width and the rotations of the four sigma functions. -/
structure Sha2Family where
  w : Nat
  big0 : Nat × Nat × Nat
  big1 : Nat × Nat × Nat
  small0 : Nat × Nat × Nat
  small1 : Nat × Nat × Nat

/-- The SHA-256 family. -/
def sha256Family : Sha2Family := ⟨32, (2, 13, 22), (6, 11, 25), (7, 18, 3), (17, 19, 10)⟩

/-- The SHA-512 family. -/
def sha512Family : Sha2Family := ⟨64, (28, 34, 39), (14, 18, 41), (1, 8, 7), (19, 61, 6)⟩

/-- A sigma function of three rotations. -/
def sigmaBig (w : Nat) (r : Nat × Nat × Nat) (v : Nat) : Nat :=
  rotrN w v r.1 ^^^ rotrN w v r.2.1 ^^^ rotrN w v r.2.2

/-- A sigma function of two rotations and a shift. -/
def sigmaSmall (w : Nat) (r : Nat × Nat × Nat) (v : Nat) : Nat :=
  rotrN w v r.1 ^^^ rotrN w v r.2.1 ^^^ v >>> r.2.2

/-- Extends the message schedule, held newest first, by one word. -/
def sha2Extend (f : Sha2Family) (ws : List Nat) : List Nat :=
  ((sigmaSmall f.w f.small1 (ws.getD 1 0) + ws.getD 6 0 + sigmaSmall f.w f.small0 (ws.getD 14 0) +
    ws.getD 15 0) % 2 ^ f.w) :: ws

/-- The schedule after `n` extensions. -/
def sha2Schedule (f : Sha2Family) : Nat → List Nat → List Nat
  | 0, ws => ws
  | n + 1, ws => sha2Schedule f n (sha2Extend f ws)

/-- One round on the eight working words. -/
def sha2Round (f : Sha2Family) (h : List Nat) (kw : Nat × Nat) : List Nat :=
  match h with
  | [a, b, c, d, e, g, i, j] =>
    let t1 := j + sigmaBig f.w f.big1 e + ((e &&& g) ^^^ ((2 ^ f.w - 1 - e) &&& i)) + kw.1 + kw.2
    let t2 := sigmaBig f.w f.big0 a + ((a &&& b) ^^^ (a &&& c) ^^^ (b &&& c))
    [(t1 + t2) % 2 ^ f.w, a, b, c, (d + t1) % 2 ^ f.w, e, g, i]
  | _ => h

/-- One compression call: the chaining words and one block. -/
def sha2Compress (f : Sha2Family) (ks : List Nat) (h : List Nat) (block : List Byte) : List Nat :=
  let n := f.w / 8
  let w0 := (List.range 16).map fun i => beNat (slice block (n * i) n)
  let ws := (sha2Schedule f (ks.length - 16) w0.reverse).reverse
  let r := (ks.zip ws).foldl (sha2Round f) h
  (h.zip r).map fun p => (p.1 + p.2) % 2 ^ f.w

/-- Initial chaining words, by PSET of Table 12-1: SHA-224 takes the last 32 bits of SHA-384's, SHA-256 the first 32 of
SHA-512's; those of SHA-512/256 come from its own generation function. -/
def sha2Init : Nat → List Nat
  | 1 => sha384Init.map (· % 2 ^ 32)
  | 2 => sha512Init.map (· / 2 ^ 32)
  | 3 => sha384Init
  | 4 => sha512Init
  | _ => [0x22312194fc2bf72c, 0x9f555fa3c84c64c2, 0x2393b86b6f53b151, 0x963877195940eabd] ++
         [0x96283ee2a88effe3, 0xbe5e1e2553863992, 0x2b0199fc2c85b8aa, 0x0eb72ddc81c52ca2]

/-- Whether a PSET belongs to the 64-byte-block family. -/
def sha2Small (pset : Nat) : Bool := decide (pset ≤ 2)

/-- One compression call of a PSET. -/
def sha2Step (pset : Nat) (h : List Nat) (block : List Byte) : List Nat :=
  if sha2Small pset then sha2Compress sha256Family sha256K h block
  else sha2Compress sha512Family sha512K h block

/-- Whole blocks of a PSET. -/
def sha2Blocks (pset b : Nat) : Nat → List Nat → List Byte → List Nat
  | 0, h, _ => h
  | n + 1, h, m => sha2Blocks pset b n (sha2Step pset h (m.take b)) (m.drop b)

/-- SHA-2 padding of a message whose length counts `before` bytes more (R294). -/
def sha2Pad (b before : Nat) (m : List Byte) : List Byte :=
  let l := b / 8
  let z := (2 * b - 1 - l - m.length % b) % b
  m ++ [0x80] ++ zeroBytes z ++ beBytes l (8 * (m.length + before))

/-- Chaining words as big-endian bytes. -/
def sha2Out (pset : Nat) (h : List Nat) : List Byte :=
  h.flatMap fun w => beBytes (if sha2Small pset then 4 else 8) w

/-- Digest bytes of a PSET (Table 12-1). -/
def sha2Len : Nat → Nat
  | 1 => 28 | 2 => 32 | 3 => 48 | 4 => 64 | _ => 32

/-- The digest of a whole message. -/
def sha2Whole (pset : Nat) (m : List Byte) : List Byte :=
  let b := if sha2Small pset then 64 else 128
  let p := sha2Pad b 0 m
  slice (sha2Out pset (sha2Blocks pset b (p.length / b) (sha2Init pset) p)) 0 (sha2Len pset)

/-- SHA-512. -/
def sha512 (m : List Byte) : List Byte := sha2Whole 4 m

end Sys2Proof.Machine
end

