-- ==== Sys2Proof/Machine/Curves.lean ====
section
/-! DEFINITION. The public-key arithmetic of the Orangery: short-Weierstrass, Edwards and Montgomery curves and RSA
(08_orangery.md R196 to R210). The constants and encodings are those of the standards that the chapter names: SP 800-186,
RFC 5639, SEC 2, FIPS 186-5, RFC 8032, RFC 7748, RFC 8017. (PRESUMED, log entry 119) -/
namespace Sys2Proof.Machine
open Sys2Proof

/-! ## Short-Weierstrass curves (R196, R198, R199) -/

/-- A point on a curve y² = x³ + ax + b, or infinity. -/
abbrev CurvePoint := Option (Nat × Nat)

/-- Adds two points modulo p; a slope without an inverse gives infinity. -/
def pointAdd (p a : Nat) : CurvePoint → CurvePoint → CurvePoint
  | none, q => q
  | some q, none => some q
  | some (x1, y1), some (x2, y2) =>
    let slope : Option Nat :=
      if x1 = x2 then
        if (y1 + y2) % p = 0 then none else (modInv (2 * y1) p).map fun i => (3 * x1 * x1 + a) * i % p
      else (modInv (x2 + p - x1) p).map fun i => (y2 + p - y1) * i % p
    slope.map fun m =>
      let x3 := (m * m + 2 * p - x1 - x2) % p
      (x3, (m * (x1 + p - x3) + p - y1) % p)

/-- Multiplies a point by a scalar, from the top bit down. -/
def pointMul (p a : Nat) (q : CurvePoint) (n : Nat) : Nat → CurvePoint → CurvePoint
  | 0, acc => acc
  | i + 1, acc =>
    let d := pointAdd p a acc acc
    pointMul p a q n i (if n.testBit i then pointAdd p a d q else d)

/-- The point is on the curve. -/
def onCurve (p a b x y : Nat) : Bool := decide (y * y % p = (x * x * x + a * x + b) % p)

/-- Domain parameters: field, coefficients, generator, order, cofactor. -/
structure Domain where
  p : Nat
  a : Nat
  b : Nat
  gx : Nat
  gy : Nat
  n : Nat
  h : Nat

/-- The built-in curves of Table 8-2. -/
def builtinDomain : Nat → Option Domain
  | 1 =>
    let p := 2 ^ 256 - 2 ^ 224 + 2 ^ 192 + 2 ^ 96 - 1
    some { p := p, a := p - 3, b := 0x5ac635d8aa3a93e7b3ebbd55769886bc651d06b0cc53b0f63bce3c3e27d2604b,
           gx := 0x6b17d1f2e12c4247f8bce6e563a440f277037d812deb33a0f4a13945d898c296,
           gy := 0x4fe342e2fe1a7f9b8ee7eb4a7c0f9e162bce33576b315ececbb6406837bf51f5,
           n := 0xffffffff00000000ffffffffffffffffbce6faada7179e84f3b9cac2fc632551, h := 1 }
  | 2 =>
    let p := 2 ^ 384 - 2 ^ 128 - 2 ^ 96 + 2 ^ 32 - 1
    some { p := p, a := p - 3,
           b := 0xb3312fa7e23ee7e4988e056be3f82d19181d9c6efe8141120314088f5013875ac656398d8a2ed19d2a85c8edd3ec2aef,
           gx := 0xaa87ca22be8b05378eb1c71ef320ad746e1d3b628ba79b9859f741e082542a385502f25dbf55296c3a545e3872760ab7,
           gy := 0x3617de4a96262c6f5d9e98bf9292dc29f8f41dbd289a147ce9da3113b5f0b8c00a60b1ce1d7e819d7a431d7c90ea0e5f,
           n := 0xffffffffffffffffffffffffffffffffffffffffffffffffc7634d81f4372ddf581a0db248b0a77aecec196accc52973,
           h := 1 }
  | 3 =>
    let p := 2 ^ 521 - 1
    some { p := p, a := p - 3,
           b := 0x51953eb9618e1c9a1f929a21a0b68540eea2da725b99b315f3b8b489918ef109e156193951ec7e937b1652c0bd3bb1bf073573df883d2c34f1ef451fd46b503f00,
           gx := 0xc6858e06b70404e9cd9e3ecb662395b4429c648139053fb521f828af606b4d3dbaa14b5e77efe75928fe1dc127a2ffa8de3348b3c1856a429bf97e7e31c2e5bd66,
           gy := 0x11839296a789a3bc0045c8a5fb42c7d1bd998f54449579b446817afbd17273e662c97ee72995ef42640c550b9013fad0761353c7086a272c24088be94769fd16650,
           n := 0x1fffffffffffffffffffffffffffffffffffffffffffffffffffffffffffffffffa51868783bf2f966b7fcc0148f709a5d03bb5c9b8899c47aebb6fb71e91386409,
           h := 1 }
  | 4 =>
    some { p := 0xA9FB57DBA1EEA9BC3E660A909D838D726E3BF623D52620282013481D1F6E5377,
           a := 0x7D5A0975FC2C3057EEF67530417AFFE7FB8055C126DC5C6CE94A4B44F330B5D9,
           b := 0x26DC5C6CE94A4B44F330B5D9BBD77CBF958416295CF7E1CE6BCCDC18FF8C07B6,
           gx := 0x8BD2AEB9CB7E57CB2C4B482FFC81B7AFB9DE27E1E3BD23C23A4453BD9ACE3262,
           gy := 0x547EF835C3DAC4FD97F8461A14611DC9C27745132DED8E545C1D54C72F046997,
           n := 0xA9FB57DBA1EEA9BC3E660A909D838D718C397AA3B561A6F7901E0E82974856A7, h := 1 }
  | 5 =>
    some { p := 0x8CB91E82A3386D280F5D6F7E50E641DF152F7109ED5456B412B1DA197FB71123ACD3A729901D1A71874700133107EC53,
           a := 0x7BC382C63D8C150C3C72080ACE05AFA0C2BEA28E4FB22787139165EFBA91F90F8AA5814A503AD4EB04A8C7DD22CE2826,
           b := 0x04A8C7DD22CE28268B39B55416F0447C2FB77DE107DCD2A62E880EA53EEB62D57CB4390295DBC9943AB78696FA504C11,
           gx := 0x1D1C64F068CF45FFA2A63A81B7C13F6B8847A3E77EF14FE3DB7FCAFE0CBD10E8E826E03436D646AAEF87B2E247D4AF1E,
           gy := 0x8ABE1D7520F9C2A45CB1EB8E95CFD55262B70B29FEEC5864E19C054FF99129280E4646217791811142820341263C5315,
           n := 0x8CB91E82A3386D280F5D6F7E50E641DF152F7109ED5456B31F166E6CAC0425A7CF3AB6AF6B7FC3103B883202E9046565,
           h := 1 }
  | 6 =>
    some { p := 0xAADD9DB8DBE9C48B3FD4E6AE33C9FC07CB308DB3B3C9D20ED6639CCA703308717D4D9B009BC66842AECDA12AE6A380E62881FF2F2D82C68528AA6056583A48F3,
           a := 0x7830A3318B603B89E2327145AC234CC594CBDD8D3DF91610A83441CAEA9863BC2DED5D5AA8253AA10A2EF1C98B9AC8B57F1117A72BF2C7B9E7C1AC4D77FC94CA,
           b := 0x3DF91610A83441CAEA9863BC2DED5D5AA8253AA10A2EF1C98B9AC8B57F1117A72BF2C7B9E7C1AC4D77FC94CADC083E67984050B75EBAE5DD2809BD638016F723,
           gx := 0x81AEE4BDD82ED9645A21322E9C4C6A9385ED9F70B5D916C1B43B62EEF4D0098EFF3B1F78E2D0D48D50D1687B93B97D5F7C6D5047406A5E688B352209BCB9F822,
           gy := 0x7DDE385D566332ECC0EABFA9CF7822FDF209F70024A57B1AA000C55B881F8111B2DCDE494A5F485E5BCA4BD88A2763AED1CA2B2FA8F0540678CD1E0F3AD80892,
           n := 0xAADD9DB8DBE9C48B3FD4E6AE33C9FC07CB308DB3B3C9D20ED6639CCA70330870553E5C414CA92619418661197FAC10471DB1D381085DDADDB58796829CA90069,
           h := 1 }
  | 7 =>
    some { p := 2 ^ 256 - 2 ^ 32 - 977, a := 0, b := 7,
           gx := 0x79be667ef9dcbbac55a06295ce870b07029bfcdb2dce28d959f2815b16f81798,
           gy := 0x483ada7726a3c4655da4fbfc0e1108a8fd17b448a68554199c47d08ffb10d4b8,
           n := 0xfffffffffffffffffffffffffffffffebaaedce6af48a03bbfd25e8cd0364141, h := 1 }
  | _ => none

/-- A multiple of a point. -/
def Domain.mul (d : Domain) (q : CurvePoint) (k : Nat) : CurvePoint := pointMul d.p d.a q k (Nat.log2 k + 1) none

/-- A multiple of the generator. -/
def Domain.mulG (d : Domain) (k : Nat) : CurvePoint := d.mul (some (d.gx, d.gy)) k

/-- A scalar in [1, n − 1] from random bytes (FIPS 186-5, extra random bits). -/
def Domain.scalar (d : Domain) (rnd : List Byte) : Nat := beNat rnd % (d.n - 1) + 1

/-- The uncompressed encoding of a point in coordinates of `lp` bytes (R196); infinity has none. -/
def pointBytes (lp : Nat) : CurvePoint → List Byte
  | some (x, y) => 0x04 :: (beBytes lp x ++ beBytes lp y)
  | none => zeroBytes (1 + 2 * lp)

/-- The coordinates in an uncompressed encoding. -/
def pointOf (lp : Nat) (b : List Byte) : Nat × Nat := (beNat (slice b 1 lp), beNat (slice b (1 + lp) lp))

/-- What rows 1 and 2 of Table 8-4 say of a point that is given: `some false` a coordinate is out of range, `some true` it is
no point of the curve, none it is good. -/
def Domain.pointBad (d : Domain) (lp : Nat) (b : List Byte) : Option Bool :=
  let (x, y) := pointOf lp b
  if d.p ≤ x ∨ d.p ≤ y then some false
  else if b.head? ≠ some 0x04 ∨ !onCurve d.p d.a d.b x y then some true else none

/-- e: the leftmost NBITS bits of a digest, as a number (R197). -/
def digestNumber (nbits : Nat) (digest : List Byte) : Nat := beNat digest >>> (8 * digest.length - nbits)

/-- r and s of a signature with a per-message scalar. -/
def Domain.sign (d : Domain) (e key k : Nat) : Nat × Nat :=
  let r := match d.mulG k with
    | some (x, _) => x % d.n
    | none => 0
  (r, (modInv k d.n).getD 0 * (e + r * key) % d.n)

/-- A signature verifies: r and s lie in [1, n − 1] and the equation holds (R199). -/
def Domain.verifies (d : Domain) (e : Nat) (q : Nat × Nat) (r s : Nat) : Bool :=
  if r = 0 ∨ s = 0 ∨ d.n ≤ r ∨ d.n ≤ s then false
  else
    let w := (modInv s d.n).getD 0
    match pointAdd d.p d.a (d.mulG (e * w % d.n)) (d.mul (some q) (r * w % d.n)) with
    | some (x, _) => decide (x % d.n = r)
    | none => false

/-- The agreed point: (h·d mod n)·Q (R198). -/
def Domain.agree (d : Domain) (key : Nat) (q : Nat × Nat) : CurvePoint := d.mul (some q) (d.h * key % d.n)

/-! ## Edwards curves (R205, R206) -/

/-- A twisted Edwards curve ax² + y² = 1 + dx²y²: field, coefficients, base point, order, bytes of an encoding. -/
structure EdCurve where
  p : Nat
  a : Nat
  d : Nat
  bx : Nat
  yb : Nat
  order : Nat
  len : Nat

/-- The curve of Ed25519. -/
def ed25519 : EdCurve :=
  let p := 2 ^ 255 - 19
  { p := p, a := p - 1, d := (p - 121665) * (modInv 121666 p).getD 0 % p,
    bx := 15112221349535400772501151409588531511454012693041857206046113283949847762202,
    yb := 4 * (modInv 5 p).getD 0 % p, order := 2 ^ 252 + 27742317777372353535851937790883648493, len := 32 }

/-- The curve of Ed448. -/
def ed448 : EdCurve :=
  let p := 2 ^ 448 - 2 ^ 224 - 1
  { p := p, a := 1, d := p - 39081,
    bx := 224580040295924300187604334099896036246789641632564134246125461686950415467406032909029192869357953282578032075146446173674602635247710,
    yb := 298819210078481492676017930443930673437544040154080242095928241372331506189835876003536878655418784733982303233503462500531545062832660,
    order := 2 ^ 446 - 13818066809895115352007386748515426880336692474882178609894547503885, len := 57 }

/-- Adds two points. -/
def EdCurve.add (c : EdCurve) (q r : Nat × Nat) : Nat × Nat :=
  let t := c.d * (q.1 * r.1 % c.p) % c.p * (q.2 * r.2 % c.p) % c.p
  ((q.1 * r.2 + q.2 * r.1) * (modInv (1 + t) c.p).getD 0 % c.p,
   (q.2 * r.2 + (c.p - c.a) * (q.1 * r.1 % c.p)) * (modInv (1 + c.p - t) c.p).getD 0 % c.p)

/-- Multiplies a point by a scalar, from bit `i - 1` down. -/
def EdCurve.mulAux (c : EdCurve) (q : Nat × Nat) (k : Nat) : Nat → Nat × Nat → Nat × Nat
  | 0, acc => acc
  | i + 1, acc =>
    let t := c.add acc acc
    c.mulAux q k i (if k.testBit i then c.add t q else t)

/-- A multiple of a point. -/
def EdCurve.mul (c : EdCurve) (q : Nat × Nat) (k : Nat) : Nat × Nat := c.mulAux q k (Nat.log2 k + 1) (0, 1)

/-- The encoding of a point: y, with the low bit of x in the top bit. -/
def EdCurve.encode (c : EdCurve) (q : Nat × Nat) : List Byte :=
  leBytes c.len (q.2 + q.1 % 2 * 2 ^ (8 * c.len - 1))

/-- A square root modulo p, for p ≡ 3 modulo 4 or 5 modulo 8. -/
def sqrtMod (p v : Nat) : Option Nat :=
  let x := if p % 4 = 3 then powMod v ((p + 1) / 4) p else powMod v ((p + 3) / 8) p
  let y := if x * x % p = v % p then x else x * powMod 2 ((p - 1) / 4) p % p
  if y * y % p = v % p then some y else none

/-- Decodes a point; a y at or above p, a y with no x, and a negative zero do not decode. -/
def EdCurve.decode (c : EdCurve) (b : List Byte) : Option (Nat × Nat) :=
  let v := leNat b
  let y := v % 2 ^ (8 * c.len - 1)
  let odd := v / 2 ^ (8 * c.len - 1)
  if c.p ≤ y then none
  else
    let den := (c.d * (y * y % c.p) + (c.p - c.a)) % c.p
    match sqrtMod c.p ((y * y + c.p - 1) * (modInv den c.p).getD 0) with
    | none => none
    | some x => if x = 0 ∧ odd = 1 then none else some (if x % 2 = odd then x else c.p - x, y)

/-- A scalar with the cofactor bits clear and the top bit set (RFC 8032, RFC 7748). -/
def clampScalar (top low v : Nat) : Nat := v % 2 ^ top / 2 ^ low * 2 ^ low + 2 ^ top

/-- A scalar of Ed25519 or X25519. -/
def clamp25519 (b : List Byte) : Nat := clampScalar 254 3 (leNat (slice b 0 32))

/-- A scalar of Ed448 or X448. -/
def clamp448 (b : List Byte) : Nat := clampScalar 447 2 (leNat (slice b 0 56))

/-- The curve of a set of Table 8-8. -/
def edCurve (ps : Nat) : EdCurve := if ps ≤ 3 then ed25519 else ed448

/-- The hash of a set. -/
def edHash (ps : Nat) (m : List Byte) : List Byte := if ps ≤ 3 then sha512 m else shake256 m 114

/-- The domain prefix of a set: none for Ed25519 itself. -/
def edDomain (ps : Nat) (ctx : List Byte) : List Byte :=
  if ps = 1 then []
  else ascii (if ps ≤ 3 then "SigEd25519 no Ed25519 collisions" else "SigEd448") ++
    leBytes 1 (bit (decide (ps = 3 ∨ ps = 5))) ++ leBytes 1 ctx.length ++ ctx

/-- The secret scalar of a private key. -/
def edScalar (ps : Nat) (seed : List Byte) : Nat :=
  if ps ≤ 3 then clamp25519 (edHash ps seed) else clamp448 (edHash ps seed)

/-- The public key of a private key. -/
def edPublic (ps : Nat) (seed : List Byte) : List Byte :=
  let c := edCurve ps
  c.encode (c.mul (c.bx, c.yb) (edScalar ps seed))

/-- A signature. -/
def edSign (ps : Nat) (seed ctx m : List Byte) : List Byte :=
  let c := edCurve ps
  let dom := edDomain ps ctx
  let r := leNat (edHash ps (dom ++ (edHash ps seed).drop c.len ++ m)) % c.order
  let rb := c.encode (c.mul (c.bx, c.yb) r)
  let k := leNat (edHash ps (dom ++ rb ++ edPublic ps seed ++ m)) % c.order
  rb ++ leBytes c.len ((r + k * edScalar ps seed) % c.order)

/-- A verification: none where A does not decode; else whether R decodes, S is below the order, and [8][S]B = [8]R + [8][k]A
(R206). -/
def edVerify (ps : Nat) (pub ctx sig m : List Byte) : Option Bool :=
  let c := edCurve ps
  match c.decode pub with
  | none => none
  | some a =>
    let rb := slice sig 0 c.len
    let s := leNat (slice sig c.len c.len)
    match c.decode rb with
    | none => some false
    | some r =>
      let k := leNat (edHash ps (edDomain ps ctx ++ rb ++ pub ++ m)) % c.order
      some (decide (s < c.order) &&
        decide (c.mul (c.mul (c.bx, c.yb) s) 8 = c.add (c.mul r 8) (c.mul (c.mul a k) 8)))

/-! ## Montgomery curves (R206) -/

/-- One step of the ladder on (x2, z2, x3, z3). -/
def ladderStep (p a24 u : Nat) (b : Bool) (s : Nat × Nat × Nat × Nat) : Nat × Nat × Nat × Nat :=
  let (x2, z2, x3, z3) := if b then (s.2.2.1, s.2.2.2, s.1, s.2.1) else s
  let aa := (x2 + z2) * (x2 + z2) % p
  let bb := (x2 + p - z2) * (x2 + p - z2) % p
  let e := (aa + p - bb) % p
  let da := (x3 + p - z3) * (x2 + z2) % p
  let cb := (x3 + z3) * (x2 + p - z2) % p
  let t := (aa * bb % p, e * ((aa + a24 * e) % p) % p, (da + cb) * (da + cb) % p,
    u * ((da + p - cb) * (da + p - cb) % p) % p)
  if b then (t.2.2.1, t.2.2.2, t.1, t.2.1) else t

/-- The ladder over the bits of a scalar, from bit `i - 1` down. -/
def ladder (p a24 u k : Nat) : Nat → Nat × Nat × Nat × Nat → Nat × Nat × Nat × Nat
  | 0, s => s
  | i + 1, s => ladder p a24 u k i (ladderStep p a24 u (k.testBit i) s)

/-- X25519 or X448 of a private key and a u-coordinate; the unused high bits of u are masked (R206). -/
def montgomery (ps : Nat) (key u : List Byte) : List Byte :=
  let small := decide (ps = 6)
  let p := if small then 2 ^ 255 - 19 else 2 ^ 448 - 2 ^ 224 - 1
  let x := (if small then leNat (slice u 0 32) % 2 ^ 255 else leNat (slice u 0 56)) % p
  let k := if small then clamp25519 key else clamp448 key
  let s := ladder p (if small then 121665 else 39081) x k (if small then 255 else 448) (1, 0, x, 1)
  leBytes (if small then 32 else 56) (s.1 * powMod s.2.1 (p - 2) p % p)

/-- The public key of a private key: of the base point u = 9 or u = 5. -/
def montgomeryPublic (ps : Nat) (key : List Byte) : List Byte := montgomery ps key [if ps = 6 then 9 else 5]

/-! ## RSA (R208 to R210) -/

/-- The hash of a PHASH of Table 6-7, 1 to 7. -/
def prehash (ph : Nat) (m : List Byte) : List Byte :=
  if ph ≤ 4 then sha2Whole (ph + 1) m
  else if ph = 5 then sponge 136 0x06 m 32 else if ph = 6 then sponge 104 0x06 m 48 else sponge 72 0x06 m 64

/-- A CRT private key: e, p, q, dP, dQ, qInv (R208). -/
structure RsaPrivate where
  e : Nat
  p : Nat
  q : Nat
  dp : Nat
  dq : Nat
  qinv : Nat

/-- Reads the CRT private key encoding of a modulus of `k` bytes. -/
def rsaPrivate (k : Nat) (b : List Byte) : RsaPrivate :=
  let f := fun i => beNat (slice b (8 + i * (k / 2)) (k / 2))
  { e := beNat (slice b 0 8), p := f 0, q := f 1, dp := f 2, dq := f 3, qinv := f 4 }

/-- n = p·q. -/
def RsaPrivate.n (r : RsaPrivate) : Nat := r.p * r.q

/-- The private operation by the Chinese remainder. -/
def RsaPrivate.raise (r : RsaPrivate) (m : Nat) : Nat :=
  let mp := powMod m r.dp r.p
  let mq := powMod m r.dq r.q
  mq + r.q * (r.qinv * (mp + r.p - mq % r.p) % r.p)

/-- The result raised to the public exponent is the operand again (R209). -/
def RsaPrivate.checks (r : RsaPrivate) (m v : Nat) : Bool := decide (powMod v r.e r.n = m % r.n)

/-- n ‖ e of a private key (R208). -/
def rsaPublicOf (k : Nat) (b : List Byte) : List Byte :=
  let r := rsaPrivate k b
  beBytes k r.n ++ beBytes 8 r.e

/-- MGF1: `n` bytes (RFC 8017). -/
def mgf1 (ph h : Nat) (seed : List Byte) (n : Nat) : List Byte :=
  slice ((List.range (ceilDiv n h)).flatMap fun i => prehash ph (seed ++ beBytes 4 i)) 0 n

/-- The encoded message of v1.5: its DigestInfo carries the identifier `oid` and the digest. -/
def emsaV15 (k : Nat) (oid digest : List Byte) : List Byte :=
  let alg := 0x30 :: leBytes 1 (oid.length + 2) ++ oid ++ [0x05, 0x00]
  let info := 0x30 :: leBytes 1 (alg.length + 2 + digest.length) ++ alg ++ (0x04 :: leBytes 1 digest.length ++ digest)
  [0x00, 0x01] ++ List.replicate (k - 3 - info.length) 0xFF ++ (0x00 :: info)

/-- The encoded message of PSS. -/
def emsaPss (ph h k : Nat) (digest salt : List Byte) : List Byte :=
  let hash := prehash ph (zeroBytes 8 ++ digest ++ salt)
  let db := zeroBytes (k - h - 2 - salt.length) ++ (0x01 :: salt)
  let masked := xorBytes db (mgf1 ph h hash (k - h - 1))
  (BitVec.ofNat 8 (fieldAt masked 0 1 % 128) :: masked.drop 1) ++ hash ++ [0xBC]

/-- PSS decoding and its hash check, for a salt of `slen` bytes. -/
def pssVerifies (ph h k slen : Nat) (digest em : List Byte) : Bool :=
  let masked := slice em 0 (k - h - 1)
  let hash := slice em (k - h - 1) h
  let db := xorBytes masked (mgf1 ph h hash (k - h - 1))
  let db := BitVec.ofNat 8 (fieldAt db 0 1 % 128) :: db.drop 1
  let pad := k - h - 2 - slen
  decide (fieldAt em (k - 1) 1 = 0xBC) && decide (fieldAt em 0 1 < 128) && decide (h + slen + 2 ≤ k) &&
    decide (slice db 0 pad = zeroBytes pad) && decide (fieldAt db pad 1 = 1) &&
    decide (prehash ph (zeroBytes 8 ++ digest ++ slice db (pad + 1) slen) = hash)

/-- OAEP encoding with the empty label. -/
def oaepEncode (ph h k : Nat) (m seed : List Byte) : List Byte :=
  let db := prehash ph [] ++ zeroBytes (k - m.length - 2 * h - 2) ++ (0x01 :: m)
  let masked := xorBytes db (mgf1 ph h seed (k - h - 1))
  0x00 :: xorBytes seed (mgf1 ph h masked h) ++ masked

/-- The message after the zeros and the 0x01 of an OAEP block. -/
def oaepMessage : List Byte → Option (List Byte)
  | [] => none
  | b :: l => if b = 0 then oaepMessage l else if b = 1 then some l else none

/-- OAEP decoding with the empty label. -/
def oaepDecode (ph h k : Nat) (em : List Byte) : Option (List Byte) :=
  let masked := slice em (1 + h) (k - h - 1)
  let seed := xorBytes (slice em 1 h) (mgf1 ph h masked h)
  let db := xorBytes masked (mgf1 ph h seed (k - h - 1))
  if fieldAt em 0 1 = 0 ∧ slice db 0 h = prehash ph [] then oaepMessage (db.drop h) else none

end Sys2Proof.Machine
end

