-- ==== Sys2Proof/Machine/Fountain.lean ====
section
/-! DEFINITION. The Fountain's noise: cells, test windows, conditioning, start-up, and RNG_RAW_MODE
(13_fountain.md R303 to R312, R317 to R322; 05_admin_commands.md R129). -/
namespace Sys2Proof.Machine
open Sys2Proof

/-- One noise cell. -/
def cellAt (s : State) (c : Nat) : Cell := s.fountain.cells.getD c Cell.reset

/-- Changes one noise cell. -/
def modCell (s : State) (c : Nat) (f : Cell → Cell) : State :=
  { s with fountain.cells := s.fountain.cells.modify c f }

/-- A healthy cell (Table 13-5). -/
def Cell.healthy (c : Cell) : Bool := decide (c.stateCode = 1)

/-- Healthy cells. -/
def healthyCount (s : State) : Nat := (s.fountain.cells.filter Cell.healthy).length

/-- The mask of healthy cells (Table 13-2). -/
def healthyMask (s : State) : Nat :=
  maskOf ((List.range 8).filter fun c => (cellAt s c).healthy)

/-- An event of the Fountain. -/
def logFountain (s : State) (cls : Nat) (code : W16) (detail : List Byte) : State :=
  logEvent s cls code 0xFFFF 18 detail

/-! ## The test pattern (R320) -/

/-- Bit `i` of the raw stream while PATTERN_EN is 1: RNG_PATTERN repeated, bit 0 first. -/
def patternBit (p : W32) (i : Nat) : Bool := p.getLsbD (i % 32)

/-- The ones of a window: of the pattern where it is in use, else of the noise. -/
def windowOnes (f : Fountain) (ones : Nat) : Nat :=
  if f.patternEn then 2048 * ((List.range 32).filter (patternBit f.pattern)).length else ones

/-- The equal pairs at one lag in the window of the pattern that starts at an index: those of whole periods, less those
whose earlier bit lies before the window (R306). -/
def patternEqual (p : W32) (start lag : Nat) : Nat :=
  let same := fun i => patternBit p (start + i) == patternBit p (start + i + 32 - lag)
  2048 * ((List.range 32).filter same).length - ((List.range lag).filter same).length

/-- The equal pairs of a window at lags 1 to 4. -/
def windowEqual (f : Fountain) (start : Nat) (equal : List Nat) : List Nat :=
  if f.patternEn then [1, 2, 3, 4].map (patternEqual f.pattern start) else equal

/-- 64 conditioned bits of the pattern, of a window that starts at an index (R304). -/
def patternChunk (p : W32) (start : Nat) : Nat :=
  ((List.range 64).map fun i =>
    let at' := 2 * ((start + 1) / 2 + i)
    bit (patternBit p at' != patternBit p (at' + 1)) * 2 ^ i).sum

/-- The chunk of a cell: of the pattern where it is in use, else of the noise. -/
def cellChunk (s : State) (chunks : List W64) (c : Nat) : Nat :=
  if s.fountain.patternEn then patternChunk s.fountain.pattern ((cellAt s c).windowStart.getD 0) else (chunks.getD c 0).toNat

/-- A test of R305 can fail at a raw bit: always of noise; of the pattern where its run has reached 41 bits, or where the
first bit of the window of 1,024 occurs there for the 795th time. -/
def testMayFail (f : Fountain) (proportion : Bool) (index : Nat) : Bool :=
  if !f.patternEn then true
  else if proportion then
    (patternBit f.pattern index == patternBit f.pattern 0) && decide (((List.range (index % 1024 + 1)).filter fun i =>
      patternBit f.pattern i == patternBit f.pattern 0).length = 795)
  else decide (f.pattern = 0 ∨ f.pattern = BitVec.allOnes 32) && decide (40 ≤ index)

/-! ## Start-up (R317) -/

/-- A cell as a start-up restarts it: sample index 0, nothing counted. -/
def Cell.restart (f : Fountain) (_ : Cell) : Cell := { Cell.reset with biasLim := f.biasLim, corrLim := f.corrLim }

/-- Start-up begins: the expander and every pool are zeroed, every cell restarts, and READY is 0. The chunk periods and
generate slots run on (R311). -/
def startFountain (s : State) : State :=
  let f := s.fountain
  { s with fountain := { f with
      started := true, ready := false, supplyFailed := false, startupExpired := false, rawMode := false,
      cells := f.cells.map (Cell.restart f), pool := [], poolChunks := 0, seed := none, drbgKey := [], drbgV := [],
      instantiated := false, stopped := false, reseeds := 0, readyReseeds := 0, slotNumber := 0, reseedTick := now s,
      queue := KMap.mapAll f.queue fun _ l => l.map fun d => { d with reseedsAt := 0 } } }

/-! ## Supply and quarantine (R305 to R310) -/

/-- Entropy supply fails when fewer than four cells are healthy after readiness (R310). -/
def judgeSupply (s : State) : State :=
  let f := s.fountain
  if f.ready && !f.supplyFailed && decide (healthyCount s < 4) then
    let s := { s with fountain := { f with
        supplyFailed := true, pool := [], poolChunks := 0, cells := f.cells.map fun c => { c with accepted := 0 } } }
    logFountain s 5 0x0042 (leBytes 1 (healthyMask s))
  else if f.supplyFailed && decide (4 ≤ healthyCount s) then
    logFountain { s with fountain := { f with supplyFailed := false } } 5 0x0043 (leBytes 1 (healthyMask s))
  else s

/-- Quarantines a cell at a sample index, with the cause code of Table 13-5. -/
def quarantineCell (s : State) (c cause index : Nat) : State :=
  let s := modCell s c fun x =>
    { x with
      stateCode := 2, passes := 0, lastCause := cause, fails := min (x.fails + 1) 0xFFFFFF, windowStart := none, failures := [],
      sample := index, accepted := 0 }
  let s := logFountain s 0 0x0040 (leBytes 1 c ++ leBytes 1 cause ++ leBytes 8 index)
  judgeSupply s

/-- A window of a cell begins; the limits in force are those of its start (R307). -/
def startWindow (f : Fountain) (index : Nat) (x : Cell) : Cell :=
  { x with windowStart := some index, failures := [], sample := index, biasLim := f.biasLim, corrLim := f.corrLim }

/-- The bits of a window that passed enter the accepted buffer of 4 KiB, unless supply has failed (R308, R310). -/
def acceptWindow (s : State) (c : Nat) : State :=
  if s.fountain.supplyFailed then s else modCell s c fun x => { x with accepted := min (x.accepted + 32768) 32768 }

/-- The bias of a window: the count of ones, saturated (R306). -/
def biasOf (ones : Nat) : Nat := min ones 0xFFFF

/-- A correlation: the count less its expectation, saturated to a signed 16-bit value (R306). -/
def corrOf (lag equal : Nat) : Int :=
  max (-32768) (min 32767 ((equal : Int) - (((65536 - lag) / 2 : Nat) : Int)))

/-- The cause for which a window does not pass: 3 the bias, 4 to 7 a correlation; none where it passes. -/
def windowCause (x : Cell) (bias : Nat) (corrs : List Int) : Option Nat :=
  if x.biasLim.toNat < (if bias < 32768 then 32768 - bias else bias - 32768) then some 3
  else (corrs.findIdx? fun v => decide (x.corrLim.toNat < v.natAbs)).map (· + 4)

/-- The index of a window's end is where the window says: exact for a running window, and not before it for a retest
window, whose start the epoch boundary set. -/
def windowEndsAt (x : Cell) (index : Nat) : Bool :=
  match x.windowStart with
  | some w => if x.stateCode = 2 then decide (w + 65536 ≤ index) else decide (index = w + 65536)
  | none => false

/-- A failure of R305 in the window that ends at an index: the window is half-open (R14). -/
def failedIn (x : Cell) (index : Nat) : Bool := x.failures.any fun f => decide (index ≤ f.1 + 65536) && decide (f.1 < index)

/-- The cell is healthy from the end of its third passing retest window; its next window starts there, and a failure
stamped at that index belongs to it (R14, R309). -/
def restoreCell (s : State) (c index : Nat) : State :=
  let late := (cellAt s c).failures.find? fun f => decide (index ≤ f.1)
  let s := modCell s c fun x => startWindow s.fountain index { x with stateCode := 1, passes := 0 }
  let s := logFountain s 0 0x0041 (leBytes 1 c ++ [0] ++ leBytes 8 index)
  let s := acceptWindow (judgeSupply s) c
  match late with
  | some f => quarantineCell s c (if f.2 then 2 else 1) f.1
  | none => s

/-- A test window of a cell ends (R306, R308, R309). (DEDUCED, log entry 71) -/
def windowEnd (s : State) (c ones : Nat) (equal : List Nat) (index : Nat) : State :=
  let x := cellAt s c
  let bias := biasOf ones
  let corrs := equal.mapIdx fun i n => corrOf (i + 1) n
  let cause := windowCause x bias corrs
  let s := modCell s c fun x =>
    { x with
      bias := BitVec.ofNat 16 bias, corr := corrs.map fun v => BitVec.ofInt 16 v, windows := x.windows + 1,
      sample := index }
  if x.stateCode = 2 then
    if cause.isSome || failedIn x index then
      modCell s c fun x => { x with passes := 0, windowStart := none, failures := [] }
    else if x.passes = 2 then restoreCell s c index
    else modCell s c fun x => { x with passes := x.passes + 1, windowStart := none, failures := [] }
  else match cause with
    | some n => quarantineCell s c n index
    | none => acceptWindow (modCell s c fun x => startWindow s.fountain index { x with stateCode := 1 }) c

/-- Retest windows of quarantined cells start at an epoch boundary (R309). -/
def startRetests (s : State) : State :=
  { s with fountain.cells := s.fountain.cells.map fun x =>
      if decide (x.stateCode = 2) && x.windowStart.isNone then startWindow s.fountain x.sample x else x }

/-! ## Conditioning (R311) -/

/-- A 48-byte seed of a pool. -/
def seedOf (pool : List Byte) : List Byte := sha3_256 (1 :: pool) ++ (sha3_256 (2 :: pool)).take 16

/-- Chunks of the pool that is filling: 20 to instantiate, 8 to reseed. -/
def poolNeed (s : State) : Nat := if s.fountain.instantiated then 8 else 20

/-- A chunk period takes one chunk from each healthy cell whose buffer holds one; a full pool becomes a seed.
(DEDUCED, log entries 16 and 72) -/
def chunkPeriod (s : State) (chunks : Vector W64 8) : State :=
  let f := s.fountain
  if !f.started || f.rawMode || f.supplyFailed || decide (healthyCount s < 4) then s
  else
    let ready := fun (x : Cell) => x.healthy && decide (64 ≤ x.accepted)
    let from' := (List.range 8).filter fun c => ready (cellAt s c)
    let cells := f.cells.map fun x => if ready x then { x with accepted := x.accepted - 64 } else x
    let pool := f.pool ++ from'.flatMap fun c => leBytes 8 (cellChunk s chunks.toList c)
    let n := f.poolChunks + from'.length
    let f := { f with cells := cells, pool := pool, poolChunks := n }
    if poolNeed s ≤ n then
      { s with fountain := { f with
          seed := some (seedOf (pool.take (8 * poolNeed s))), pool := pool.drop (8 * poolNeed s), poolChunks := n - poolNeed s } }
    else { s with fountain := f }

/-! ## RNG_RAW_MODE (R129, R319) -/

/-- The mask of cells. -/
def rawMask (j : Job) : Nat := inlineField j 48 1

/-- TENANTS_ACTIVE, then the ranges of the mask and of OUT_LEN. (DESIGN CHOICE, log entry 73) -/
def rawCheck (s : State) (j : Job) : Option (Status × Nat) :=
  if tenantsActive s then refuse 0x000D
  else if rawMask j = 0 ∨ j.entry.outLen.toNat = 0 ∨ 0x1000000 < j.entry.outLen.toNat then refuse 0x0001
  else none

/-- At dispatch the expander state and every pool are zeroed, and normal output stops. -/
def rawBegin (s : State) (j : Job) : State :=
  let f := s.fountain
  let s := { s with fountain := { f with
      rawMode := true, ready := false, pool := [], poolChunks := 0, seed := none, drbgKey := [], drbgV := [],
      instantiated := false } }
  logFountain s 5 0x0046 (leBytes 1 (rawMask j) ++ zeroBytes 3 ++ leBytes 4 j.entry.outLen.toNat)

/-- The raw bits: samples of noise, which the model leaves free, or the test pattern. -/
def rawApply (s : State) (k : Nat) (j : Job) : State × Nat × Nat :=
  let n := j.entry.outLen.toNat
  let words := ceilDiv n 8
  let raw := fun i =>
    if s.fountain.patternEn then s.fountain.pattern.toNat * (2 ^ 32 + 1) else (Config.freeWord (s.freeCount + i)).toNat
  let bytes := slice ((List.range words).flatMap fun i => leBytes 8 (raw i)) 0 n
  (modJob { s with freeCount := s.freeCount + words } k fun x => { x with output := bytes }, 0, 0)

/-- RNG_RAW_MODE. -/
def cmdRngRawMode : AdminCmd :=
  { opcode := 0xF012, markS := fun _ => false, markQ := false, markE := false, needsRoot := false,
    check := rawCheck, draws := fun _ => none, prepare := rawBegin, records := noRecords, mirrored := fun _ => none,
    apply := rawApply }

/-! ## The rows -/

/-- RNG_RAW_MODE (R129); start-up runs again at its completion. -/
def execRngRawMode (r : JobRef) (s : State) : Host.Outcome State Fault Refusal :=
  .next (adminRow cmdRngRawMode anyEntry r s)

/-- A write of RNG_BIAS_LIM or RNG_CORR_LIM; a write above the vendor default is ignored (R307). -/
def limitWrite (s : State) (corr : Bool) (value : W32) : State :=
  let v := value.setWidth 16
  if corr then if v ≤ s.otp.corrLim then { s with fountain.corrLim := v } else s
  else if v ≤ s.otp.biasLim then { s with fountain.biasLim := v } else s

/-- RNG_LIMIT_WRITE (R307). -/
def execRngLimitWrite (corr : Bool) (value : W32) (s : State) : Host.Outcome State Fault Refusal :=
  .next (if s.boot.ready then limitWrite s corr value else s)

/-- A write of RNG_CTRL: in TEST, a change of PATTERN_EN starts the Fountain again (R317, R320). -/
def patternWrite (s : State) (enable : Bool) : State :=
  if s.lc.inForce = 1 && !(s.fountain.patternEn == enable) then startFountain { s with fountain.patternEn := enable } else s

/-- RNG_PATTERN_ENABLE (R320). -/
def execRngPatternEnable (enable : Bool) (s : State) : Host.Outcome State Fault Refusal :=
  .next (if s.boot.ready then patternWrite s enable else s)

/-- HEALTH_TEST_FAILURE: a test of R305 fails at a raw bit of a cell (R305). A retest window that holds that bit will
not pass. -/
def execHealthTestFailure (cell : Fin 8) (proportion : Bool) (index : W64) (s : State) : Host.Outcome State Fault Refusal :=
  let x := cellAt s cell.val
  .next (match x.windowStart with
    | none => s
    | some w =>
      if !s.fountain.started || decide (index.toNat < w) || !testMayFail s.fountain proportion index.toNat then s
      else if x.stateCode = 2 then modCell s cell.val fun x => { x with failures := x.failures ++ [(index.toNat, proportion)] }
      else if index.toNat < w + 65536 then quarantineCell s cell.val (if proportion then 2 else 1) index.toNat
      else s)

/-- TEST_WINDOW_END: a window of 65,536 raw bits ends, with its count of ones and, for lags 1 to 4, of equal pairs
(R306); those of the test pattern are its own (R320). -/
def execTestWindowEnd (cell : Fin 8) (ones : BitVec 17) (equal : Vector (BitVec 16) 4) (index : W64) (s : State) :
    Host.Outcome State Fault Refusal :=
  .next (if s.fountain.started && windowEndsAt (cellAt s cell.val) index.toNat then
      windowEnd s cell.val (windowOnes s.fountain ones.toNat)
        (windowEqual s.fountain (index.toNat - 65536) (equal.toList.map BitVec.toNat)) index.toNat
    else s)

/-- CHUNK_PERIOD (R311). -/
def execChunkPeriod (chunks : Vector W64 8) (s : State) : Host.Outcome State Fault Refusal :=
  .next (chunkPeriod s chunks)

end Sys2Proof.Machine
end

