-- ==== Sys2Proof/Machine/Facts.lean ====
section
/-! DEFINITION. What the job families have in common: what a job needs before it runs, the key it makes, the
blob it writes, and how it ends (R94, R137 to R141, R335, R336). -/
namespace Sys2Proof.Machine
open Sys2Proof

/-- How a job uses KEYH. -/
inductive KeyUse where
  /-- KEYH is 0 -/
  | none
  /-- 0, or a handle with the verify usage bit; never a blob (R137) -/
  | pub
  /-- a required slot key or blob with this usage bit -/
  | secret (usage : Nat)
  /-- a required slot key, not a blob, with this usage bit -/
  | slotOnly (usage : Nat)
  /-- 0, or a slot key, not a blob, with this usage bit -/
  | optSlot (usage : Nat)
  /-- a required live handle of any kind, with no usage bit -/
  | any
  /-- 0, or a live handle of any kind, with no usage bit -/
  | optAny
deriving DecidableEq, Repr

/-- What a job creates in the Icehouse (R329, R532). -/
inductive Creates where
  | nothing | slot | blob | resident | stateSlot | channel
deriving DecidableEq, Repr

/-- What the device knows of a job from its entry. -/
structure Facts where
  /-- unit classes needed (R44); the class it is placed on, if any -/
  classes : List UnitClass
  placed : Option UnitClass
  keyUse : KeyUse
  /-- the type its key must have, and the type of the key it creates -/
  keyType : Nat
  creates : Creates
  newType : Nat
  /-- usage bits that a created key may have -/
  mayUse : Nat
  /-- bytes of a blob that leads the input; 0 when there is none -/
  blobLen : Nat
  /-- leading input bytes besides a blob that checks 9 to 11 read -/
  probe : Nat
  /-- status of check 11 -/
  size : Option Status
  outLen : Nat
  /-- input bytes that must have landed before dispatch (R142); none: all of it -/
  early : Option Nat
  shared : Bool
  draw : Nat × Bool
  /-- slices in order, for a number of attempts -/
  plan : Nat → List (UnitClass × Nat)
  /-- input bytes that must have landed before slice `i`, counted from 1, is ready (R142, R186) -/
  needs : Nat → Nat

/-- A job with no operand, key, output or slice. -/
def Facts.plain : Facts :=
  { classes := [], placed := none, keyUse := .none, keyType := 0, creates := .nothing, newType := 0, mayUse := 0,
    blobLen := 0, probe := 0, size := none, outLen := 0, early := none, shared := false, draw := (0, false),
    plan := fun _ => [], needs := fun _ => 0 }

/-- How a job ends: status, output, RESULT, and the key it leaves in its slot. -/
structure Ending where
  status : Status
  output : List Byte
  result : BitVec 128
  newKey : Option Key

/-- An ending without output. -/
def Ending.bare (st : Status) : Ending := { status := st, output := [], result := 0, newKey := none }

/-- An ending that writes the full output with zeros (R161). -/
def Ending.zeros (st : Status) (n : Nat) : Ending := { status := st, output := zeroBytes n, result := 0, newKey := none }

/-- A success with output. -/
def Ending.out (o : List Byte) : Ending := { status := .ok, output := o, result := 0, newKey := none }

/-- The operand length: IN_LEN, less the framing of a sealed job (R95). -/
def operandLen (isSealed : Bool) (j : Job) : Nat := if isSealed then j.entry.inLen.toNat - 32 else j.entry.inLen.toNat

/-- The usage bit is set. -/
def Key.may (k : Key) (b : Nat) : Bool := k.usage.getLsbD b

/-- Length of a wrapped blob of a key of `n` bytes (R335). -/
def blobLength (n : Nat) : Nat := 40 + 8 * ceilDiv (16 + n) 8

/-- KEYH names a blob. -/
def blobHandle (j : Job) : Bool := decide (j.entry.keyh ≠ 0) && decide (handleKind j.entry.keyh.toNat = 1)

/-- The blob length that leads the input of a job whose private key encoding has `n` bytes. (DEDUCED, log entry 38) -/
def blobLead (j : Job) (n : Nat) : Nat := if blobHandle j then blobLength n else 0

/-- The size check of an input of exactly `n` bytes. -/
def exactly (len n : Nat) : Option Status := if len = n then none else some .operandSize

/-- The size check of an input of at least `n` bytes. -/
def atLeast (len n : Nat) : Option Status := if n ≤ len then none else some .operandSize

/-! ## Attribute requests and new keys (R327, R330) -/

/-- A key from the attribute request in a job's INLINE block. -/
def requestedKey (k : Nat) (j : Job) (type origin : Nat) (priv pub : List Byte) : Key :=
  let f := inlineField j 48 2
  { Key.reserved with
    live := true, type := BitVec.ofNat 16 type, usage := BitVec.ofNat 8 (inlineField j 50 1),
    lcmask := BitVec.ofNat 8 (inlineField j 51 1), exportable := decide (inlineField j 52 1 = 1),
    admin := decide (keyAllot k = 0), origin := origin,
    func := if bitOf f 15 then some (f % 64) else none,
    keyBytes := if priv = [] then pub.length else priv.length, priv := priv, pub := pub }

/-- The attribute request names only usage bits that the key type can serve (R327). -/
def requestServes (j : Job) (mayUse : Nat) : Bool :=
  decide (inlineField j 50 1 &&& (255 - mayUse % 256) = 0)

/-- tr, the hash of an ML-DSA public key (R160): 64 bytes of SHAKE256. (PRESUMED, log entry 117) -/
def keyHash (type : Nat) (pub : List Byte) : List Byte := if type / 256 = 2 then shake256 pub 64 else []

/-- The key as the Icehouse holds it: with the hash of its public part (R160). -/
def Key.entered (k : Key) : Key := { k with tr := keyHash k.type.toNat k.pub }

/-- The 32-byte header of a blob (Table 14-7). -/
def blobHeader (a serial : Nat) (key : Key) : List Byte :=
  [0x4B, 0x42, 0x4C, 0x42, 1] ++ leBytes 1 key.origin ++ leBytes 2 key.type.toNat ++ leBytes 1 key.usage.toNat ++
    leBytes 1 key.lcmask.toNat ++ [1] ++ leBytes 1 (bit key.func.isSome) ++ leBytes 4 key.keyBytes ++ leBytes 2 a ++
    leBytes 2 (key.func.getD 0xFFFF) ++ leBytes 4 serial ++ slice key.binding 0 8

/-- The encoding that a blob wraps: the private part, or the public part of a public-only key. -/
def keyEncoding (key : Key) : List Byte := if key.priv = [] then key.pub else key.priv

/-- A wrapped blob (R335). -/
def wrapBlob (s : State) (a serial : Nat) (key : Key) : List Byte :=
  let h := blobHeader a serial key
  h ++ kwpWrap (kekOf s a) (slice (sha3_256 h) 0 16 ++ keyEncoding key)

/-- The key of a blob that authenticates for an allotment and a handle (R325, R336). -/
def openBlob (s : State) (a h : Nat) (b : List Byte) : Option Key :=
  let hd := slice b 0 32
  match kwpUnwrap (kekOf s a) (b.drop 32) with
  | none => none
  | some p =>
    if slice p 0 16 = slice (sha3_256 hd) 0 16 ∧ handleSound s a h ∧ handleIndex h = 0 ∧
        fieldAt hd 16 2 = a ∧ fieldAt hd 20 4 % 65536 = handleGen h then
      let f := fieldAt hd 18 2
      let type := fieldAt hd 6 2
      let enc := p.drop 16
      let usage := fieldAt hd 8 1
      some { Key.reserved with
        live := true, type := BitVec.ofNat 16 type, usage := BitVec.ofNat 8 usage,
        lcmask := BitVec.ofNat 8 (fieldAt hd 9 1), exportable := true, admin := decide (a = 0),
        origin := fieldAt hd 5 1, func := if bitOf (fieldAt hd 11 1) 0 then some (f % 64) else none,
        keyBytes := fieldAt hd 12 4, binding := slice hd 24 8, tr := if type / 256 = 2 then slice enc 64 64 else [],
        priv := if usage = 2 ∧ type ≠ 0x3000 then [] else enc, pub := if usage = 2 ∧ type ≠ 0x3000 then enc else [] }
    else none

/-- Writes a blob of a new key: the allotment's serial rises (R326). -/
def takeSerial (s : State) (a : Nat) : State × Nat :=
  (modAllot s a fun v => { v with blobSerial := v.blobSerial + 1 },
    ((KMap.get? s.allots a).map fun v => v.blobSerial.toNat).getD 0)

/-- The handle of a blob. -/
def blobHandleOf (s : State) (a serial : Nat) : W64 := mkHandle s a 1 (serial % 65536) 0

/-- What a job's key must satisfy besides its usage bit: life cycle, binding, world, type (R329). -/
def keyFits (s : State) (a : Nat) (key : Key) (type : Nat) (binding : List Byte) : Bool :=
  key.lcmask.getLsbD s.lc.inForce && (match key.func with
    | some f => decide (((KMap.get? s.allots a).bind fun v => v.func) = some f)
    | none => true) &&
    decide (key.admin = decide (a = 0)) && decide (key.type.toNat = type) &&
    (decide (type ≠ 0x10FF) || decide (slice key.binding 0 8 = binding))

/-! ## Endings shared by the families that make a key or a secret -/

/-- Ends a key generation: the key goes into the reserved slot, or out as a blob after the public key
(R143, R146, R167, R184). -/
def endKeygen (s : State) (k : Nat) (j : Job) (type : Nat) (toBlob : Bool) (pub priv : List Byte) : State × Ending :=
  let a := keyAllot k
  let key := requestedKey k j type 0 priv pub
  if toBlob then
    let p := takeSerial s a
    (p.1, { status := .ok, output := pub ++ wrapBlob s a p.2 key, result := (blobHandleOf s a p.2).setWidth 128, newKey := none })
  else
    (s, { status := .ok, output := pub, result := ((j.slot.map (slotHandle s)).getD 0).setWidth 128, newKey := some key })

/-- Ends a job that yields a shared secret: to the output, or into the reserved slot (R143, R145). -/
def endSecret (s : State) (k : Nat) (j : Job) (toSlot : Bool) (out secret : List Byte) : State × Ending :=
  if toSlot then
    (s, { status := .ok, output := out, result := ((j.slot.map (slotHandle s)).getD 0).setWidth 128,
          newKey := some (requestedKey k j 0x3000 0 secret []) })
  else (s, Ending.out (out ++ secret))

/-- Maze slices that absorb `n` bytes with SHAKE256 (R159). -/
def slicesS (n : Nat) : Nat := ceilDiv (n / 136 + 1) 16

/-- The bytes needed by slice `i` when `n` slices from `start` absorb a message of `msg` bytes that follows
`lead` input bytes and `pre` bytes of prefix, `per` bytes a slice (R142). -/
def streamNeeds (lead msg start n per pre i : Nat) : Nat :=
  if i ≤ start then lead
  else if start + n ≤ i then lead + msg
  else lead + min msg (per * (i - start) - pre)

/-- A class with a count of slices, none when the count is 0. -/
def run (c : UnitClass) (n : Nat) : List (UnitClass × Nat) := if n = 0 then [] else [(c, n)]

end Sys2Proof.Machine
end

