-- ==== Sys2Proof/Machine/Lattice.lean ====
section
/-! DEFINITION. ML-KEM, ML-DSA and FN-DSA (06_lattice_jobs.md): entry facts, slice sequences and endings. -/
namespace Sys2Proof.Machine
open Sys2Proof

/-- Public key, private key, and ciphertext or signature bytes (Table 6-2). -/
def latticeSizes : Nat → Nat → Option (Nat × Nat × Nat)
  | 0x01, 1 => some (800, 1632, 768) | 0x01, 2 => some (1184, 2400, 1088) | 0x01, 3 => some (1568, 3168, 1568)
  | 0x02, 1 => some (1312, 2560, 2420) | 0x02, 2 => some (1952, 4032, 3309) | 0x02, 3 => some (2592, 4896, 4627)
  | 0x03, 1 => some (897, 1281, 666) | 0x03, 2 => some (1793, 2305, 1280)
  | _, _ => none

/-- Digest bytes of a pre-hash function (Table 6-7). -/
def prehashLen : Nat → Option Nat
  | 1 => some 32 | 2 => some 48 | 3 => some 64 | 4 => some 32 | 5 => some 32 | 6 => some 48 | 7 => some 64
  | 8 => some 32 | 9 => some 64 | _ => none

/-- Final arc of the identifier of a pre-hash function (Table 6-7). -/
def prehashArc : Nat → Nat
  | 4 => 6 | 5 => 8 | 6 => 9 | 7 => 10 | 8 => 11 | 9 => 12 | n => n

/-- The DER encoding of 2.16.840.1.101.3.4.2 and a final arc: 11 bytes. -/
def prehashOid (p : Nat) : List Byte :=
  [0x06, 0x09, 0x60, 0x86, 0x48, 0x01, 0x65, 0x03, 0x04, 0x02, BitVec.ofNat 8 (prehashArc p)]

/-- The message representative of a context string and a message or digest (R148). -/
def messageRep (ph : Bool) (phash : Nat) (ctx msg : List Byte) : List Byte :=
  leBytes 1 (bit ph) ++ leBytes 1 ctx.length ++ ctx ++ (if ph then prehashOid phash else []) ++ msg

/-- Operation bytes: 1 KEYGEN, 2 SIGN or ENCAPS, 3 VERIFY or DECAPS, 4 SIGN_PH, 5 VERIFY_PH (Table 6-1). -/
def latticeOpOk : Nat → Nat → Bool
  | 0x01, op => decide (1 ≤ op ∧ op ≤ 3)
  | 0x02, op => decide (1 ≤ op ∧ op ≤ 5)
  | 0x03, op => decide (2 ≤ op ∧ op ≤ 5)
  | _, _ => false

/-- KEYDEST, KDEST, PRED_RES, DETERMINISTIC, PHASH, CTXLEN (Table 6-3). -/
def auxKeyDest (j : Job) : Bool := j.entry.aux.getLsbD 19

/-- KDEST. -/
def auxKDest (j : Job) : Bool := j.entry.aux.getLsbD 18

/-- PRED_RES. -/
def auxPredRes (j : Job) : Bool := j.entry.aux.getLsbD 17

/-- DETERMINISTIC. -/
def auxDeterministic (j : Job) : Bool := j.entry.aux.getLsbD 16

/-- PHASH. -/
def auxPhash (j : Job) : Nat := auxBits j 15 8

/-- CTXLEN. -/
def auxCtxLen (j : Job) : Nat := auxBits j 7 0

/-- A signature operation, a pre-hash one, a signing one. -/
def isPrehash (op : Nat) : Bool := decide (op = 4 ∨ op = 5)

/-- A signing operation. -/
def isSign (op : Nat) : Bool := decide (op = 2 ∨ op = 4)

/-- ML-KEM parterre slices of KEYGEN, ENCAPS, DECAPS (Table 6-8). -/
def kemSlices : Nat → Nat → Nat
  | 1, op => 4 + op | 2, op => 6 + op | 3, 3 => 14 | 3, op => 10 + op | _, _ => 0

/-- ML-DSA: KEYGEN, SIGN base, SIGN per attempt, VERIFY parterre slices (Table 6-8). -/
def dsaSlices : Nat → Nat × Nat × Nat × Nat
  | 1 => (14, 11, 4, 11) | 2 => (20, 14, 6, 16) | _ => (30, 20, 10, 25)

/-- FN-DSA: SIGN base, SIGN per attempt, VERIFY parterre slices (Table 6-8). -/
def fnSlices : Nat → Nat × Nat × Nat
  | 1 => (60, 124, 12) | _ => (130, 258, 22)

/-- The attempt budget B (Table 6-6). -/
def attemptBudget (fam pset : Nat) : Nat :=
  if fam = 3 then 4 else if pset = 1 then 96 else if pset = 2 then 112 else 80

/-- The sequence of an ML-DSA signature (Table 1-10). -/
def dsaSignPlan (pset m' attempts : Nat) : List (UnitClass × Nat) :=
  let (_, base, per, _) := dsaSlices pset
  run .parterre 2 ++ run .maze (slicesS (64 + m')) ++ run .parterre (base - 2) ++
    (List.replicate attempts [(UnitClass.parterre, per / 2), (.maze, 1), (.parterre, per / 2)]).flatten

/-- The sequence of an ML-DSA verification (Table 1-10, R160). -/
def dsaVerifyPlan (pset pk m' : Nat) (held : Bool) : List (UnitClass × Nat) :=
  let (_, _, _, v) := dsaSlices pset
  run .parterre 1 ++ (if held then [] else run .maze (slicesS pk)) ++ run .parterre 1 ++
    run .maze (slicesS (64 + m')) ++ run .parterre (v - 3) ++ run .maze 1 ++ run .parterre 1

/-- The length of the message representative (R159). -/
def repLen (op ctx len : Nat) : Nat := if isPrehash op then 13 + ctx + len else 2 + ctx + len

/-- The facts of a lattice job, or none where check 1 fails (R136, R139). -/
def latticeFacts (isSealed : Bool) (j : Job) : Option Facts :=
  let fam := family j
  let op := operation j
  let ps := psetOf j
  match latticeSizes fam ps with
  | none => none
  | some (pk, sk, ct) =>
    if !latticeOpOk fam op then none
    else
      let len := operandLen isSealed j
      let b := blobLead j sk
      let type := 256 * fam + ps
      let base := { Facts.plain with keyType := type, newType := type, placed := some .parterre }
      if fam = 1 then
        let f := { base with classes := [.parterre], plan := fun _ => run .parterre (kemSlices ps op) }
        if op = 1 then
          some { f with
            creates := if auxKeyDest j then .blob else .slot, mayUse := 0x06, size := exactly len 0,
            outLen := pk + (if auxKeyDest j then blobLength sk else 0), shared := true, draw := (64, true) }
        else if op = 2 then
          some { f with
            keyUse := .pub, creates := if auxKDest j then .slot else .nothing, newType := 0x3000, mayUse := 0x18,
            size := exactly len (if j.entry.keyh = 0 then pk else 0),
            outLen := ct + (if auxKDest j then 0 else 32), draw := (32, auxPredRes j) }
        else
          some { f with
            keyUse := .secret 2, creates := if auxKDest j then .slot else .nothing, newType := 0x3000, mayUse := 0x18,
            blobLen := b, size := exactly len (b + ct), outLen := if auxKDest j then 0 else 32, shared := true }
      else if op = 1 then
        let (g, _, _, _) := dsaSlices ps
        some { base with
          classes := [.parterre], creates := if auxKeyDest j then .blob else .slot, mayUse := 0x03,
          size := exactly len 0, outLen := pk + (if auxKeyDest j then blobLength sk else 0), shared := true,
          draw := (32, true), plan := fun _ => run .parterre g }
      else
        let ctx := auxCtxLen j
        match (if isPrehash op then prehashLen (auxPhash j) else if auxPhash j = 0 then some 0 else none) with
        | none => none
        | some d =>
          let lead := if isSign op then b else ct + (if j.entry.keyh = 0 then pk else 0)
          let rest := len - (lead + ctx)
          let size := if len < lead + ctx then some Status.operandSize
            else if isPrehash op && decide (rest ≠ d) then some .operandSize else none
          let m' := repLen op ctx rest
          let f := { base with classes := [.parterre, .maze], size := size, early := some (lead + ctx) }
          if isSign op then
            let draw := if fam = 3 then 88 else if auxDeterministic j then 0 else 32
            some { f with
              keyUse := .secret 0, blobLen := b, outLen := ct, shared := true, draw := (draw, auxPredRes j),
              needs := if fam = 2 then streamNeeds (lead + ctx) rest 2 (slicesS (64 + m')) 2176 (64 + m' - rest)
                else streamNeeds (lead + ctx) rest 0 (slicesS (40 + m')) 2176 (40 + m' - rest),
              plan := if fam = 2 then dsaSignPlan ps m'
                else fun n => run .maze (slicesS (40 + m')) ++ run .parterre ((fnSlices ps).1 + (fnSlices ps).2.1 * n) }
          else
            some { f with
              keyUse := .pub,
              needs := if fam = 2 then
                  streamNeeds (lead + ctx) rest (2 + if j.entry.keyh = 0 then slicesS pk else 0)
                    (slicesS (64 + m')) 2176 (64 + m' - rest)
                else streamNeeds (lead + ctx) rest 0 (slicesS (40 + m')) 2176 (40 + m' - rest),
              plan := if fam = 2 then fun _ => dsaVerifyPlan ps pk m' (decide (j.entry.keyh ≠ 0))
                else fun _ => run .maze (slicesS (40 + m')) ++ run .parterre (fnSlices ps).2.2 }

/-- Coefficient `i` of an encapsulation key: 12 bits, least significant first (FIPS 203 ByteDecode). -/
def kemCoefficient (pk : List Byte) (i : Nat) : Nat :=
  let v := fieldAt pk (3 * (i / 2)) 3
  if i % 2 = 0 then v % 4096 else v / 4096

/-- The encapsulation-key modulus check: every coefficient is below 3,329 (R144). -/
def kemModulusOk (pset : Nat) (pk : List Byte) : Bool :=
  (List.range (256 * (pset + 1))).all fun i => decide (kemCoefficient pk i < 3329)

/-- The public key of a job: the key's, or what leads the operands. -/
def publicOf (j : Job) (n : Nat) : List Byte :=
  match j.key with
  | some key => key.pub
  | none => slice j.input 0 n

/-- The private part of a job's key. -/
def privateOf (j : Job) : List Byte := (j.key.map fun k => k.priv).getD []

/-! ## What a signing job computes with (R148, R149, R155, R160) -/

/-- A job of rejection-sampled signing. -/
def samplesSignatures (j : Job) : Bool := decide (family j = 2 ∨ family j = 3) && isSign (operation j)

/-- tr of a job's key: held with a key, else formed from the public key in the input (R160). -/
def jobKeyHash (j : Job) (pub : List Byte) : List Byte :=
  match j.key with
  | some key => key.tr
  | none => keyHash (256 * family j + psetOf j) pub

/-- What a signature is made of: for ML-DSA the hash of tr and M′, for FN-DSA M′ itself (R159, R160). -/
def signedPart (j : Job) (pub rep : List Byte) : List Byte :=
  if family j = 2 then shake256 (jobKeyHash j pub ++ rep) 64 else rep

/-- The message representative of a signing job. -/
def signRep (j : Job) : List Byte :=
  let (_, sk, _) := (latticeSizes (family j) (psetOf j)).getD (0, 0, 0)
  let b := blobLead j sk
  let ctx := auxCtxLen j
  signedPart j [] (messageRep (isPrehash (operation j)) (auxPhash j) (slice j.input b ctx) (j.input.drop (b + ctx)))

/-- The random bytes of a signature: rnd, or salt and sampler seed (R149, R151). -/
def signRandom (j : Job) : List Byte := if decide (family j = 2) && auxDeterministic j then zeroBytes 32 else j.drawn

/-- The first candidate that passes, counted from 0. It depends on the job's own message, key and random bytes alone (R6).
(DEDUCED, log entry 48) -/
def firstAccepted (j : Job) : Nat :=
  Config.rejections j.entry.opcode (BitVec.ofNat 8 (psetOf j)) (signRep j) (privateOf j) (signRandom j)

/-- The slices of one candidate (Table 1-10, Table 6-8). -/
def candidatePlan (j : Job) : List (UnitClass × Nat) :=
  if family j = 2 then
    let (_, _, per, _) := dsaSlices (psetOf j)
    [(.parterre, per / 2), (.maze, 1), (.parterre, per / 2)]
  else [(.parterre, (fnSlices (psetOf j)).2.1)]

/-- What a signing job does when its slices so far have run: a candidate that ended counts, and is judged; unless the job
is over, the next begins (R155, R157). -/
def nextCandidate (envelope : Bool) (j : Job) : Job :=
  let tried := if j.trying then j.attempts + 1 else j.attempts
  let passed := decide (firstAccepted j < tried)
  let enough := if envelope then decide (attemptBudget (family j) (psetOf j) ≤ tried) else passed || decide (65535 ≤ tried)
  if enough then { j with attempts := tried, accepted := passed, trying := false }
  else { j with attempts := tried, accepted := passed, trying := true, plan := candidatePlan j }

/-! ## ML-DSA signatures (R150) -/

/-- k, ω, bytes of c̃, bits of a coefficient of z, and β (FIPS 204). (PRESUMED, log entry 117) -/
def dsaShape : Nat → Nat × Nat × Nat × Nat × Nat
  | 1 => (4, 80, 32, 18, 78) | 2 => (6, 55, 48, 20, 196) | _ => (8, 75, 64, 20, 120)

/-- A coefficient of z lies in its bound: z is 2^(bits−1) less the number read, below γ1 − β in magnitude. -/
def dsaCoefficientOk (bits beta v : Nat) : Bool :=
  let g := 2 ^ (bits - 1)
  decide ((if v ≤ g then g - v else v - g) < g - beta)

/-- The numbers rise strictly. -/
def rises : List Nat → Bool
  | a :: b :: l => decide (a < b) && rises (b :: l)
  | _ => true

/-- The hint encoding is canonical: `k` ends that do not fall and are at most ω, positions that rise within each
polynomial, and zeros after the last. -/
def hintOk (k omega : Nat) (y : List Byte) : Bool :=
  let ends := (List.range k).map fun i => fieldAt y (omega + i) 1
  let starts := 0 :: ends
  ((starts.zip ends).all fun p =>
    decide (p.1 ≤ p.2) && decide (p.2 ≤ omega) && rises ((slice y p.1 (p.2 - p.1)).map BitVec.toNat)) &&
    (slice y (ends.getLast?.getD 0) (omega - ends.getLast?.getD 0)).all fun b => decide (b = 0)

/-- The three conditions of R150 that the signature alone shows. -/
def dsaSignatureOk (pset : Nat) (sig : List Byte) : Bool :=
  let (k, omega, c, bits, beta) := dsaShape pset
  let z := leNat (slice sig c (sig.length - (c + omega + k)))
  let n := (sig.length - (c + omega + k)) * 8 / bits
  hintOk k omega (sig.drop (sig.length - (omega + k))) &&
    (List.range n).all fun i => dsaCoefficientOk bits beta (bitsOf z (bits * i + bits - 1) (bits * i))

/-! ## FN-DSA keys and signatures (R152) -/

/-- q of FN-DSA. -/
def fnModulus : Nat := 12289

/-- Bits of bytes, the most significant of each first. -/
def msbBits (b : List Byte) : List Bool := b.flatMap fun x => (List.range 8).map fun i => x.getLsbD (7 - i)

/-- The number that bits spell, the most significant first. -/
def bitsNat (l : List Bool) : Nat := l.foldl (fun n b => 2 * n + bit b) 0

/-- The polynomial of a public key: after its head byte, 14 bits a coefficient (FN-DSA draft). (PRESUMED, log entry 117) -/
def fnPublic (pset : Nat) (pub : List Byte) : List Nat :=
  (List.range (256 * 2 ^ pset)).map fun i => bitsNat (((msbBits (pub.drop 1)).drop (14 * i)).take 14)

/-- Every coefficient of a public key is below q (R152). -/
def fnPublicOk (pset : Nat) (pub : List Byte) : Bool := (fnPublic pset pub).all fun c => decide (c < fnModulus)

/-- The zeros before the next one, and what follows it. -/
def unary : List Bool → Option (Nat × List Bool)
  | [] => none
  | true :: l => some (0, l)
  | false :: l => (unary l).map fun p => (p.1 + 1, p.2)

/-- Coefficients of a compressed polynomial and the bits after them: a sign, seven low bits, the rest in unary; no negative
zero, no magnitude above 2,047. -/
def fnDecompress : Nat → List Bool → Option (List Int × List Bool)
  | 0, b => some ([], b)
  | n + 1, b =>
    match unary (b.drop 8) with
    | none => none
    | some (h, rest) =>
      let m := bitsNat ((b.drop 1).take 7) + 128 * h
      let neg := b.getD 0 false
      if (neg && decide (m = 0)) || decide (2047 < m) then none
      else (fnDecompress n rest).map fun p => ((if neg then -(m : Int) else (m : Int)) :: p.1, p.2)

/-- The polynomial s2 of a padded signature: head byte, 40-byte salt, the compressed polynomial, zeros; none where the
encoding is malformed or its padding is not zero (R152). -/
def fnSignature (pset : Nat) (sig : List Byte) : Option (List Int) :=
  if fieldAt sig 0 1 ≠ 0x38 + pset then none
  else match fnDecompress (256 * 2 ^ pset) (msbBits (sig.drop 41)) with
    | some (c, rest) => if rest.all (! ·) then some c else none
    | none => none

/-- The point of a message: 16-bit numbers of SHAKE256 below 61,445, most significant byte first, modulo q. -/
def fnPoint (pset : Nat) (m : List Byte) : List Nat :=
  let n := 256 * 2 ^ pset
  let b := shake256 m (4 * n)
  (((List.range (2 * n)).map fun i => beNat (slice b (2 * i) 2)).filter (· < 61445)).map (· % fnModulus) |>.take n

/-- A coefficient modulo q, nearest to 0. -/
def fnCentred (v : Int) : Int :=
  let r := v % (fnModulus : Int)
  if r ≤ 6144 then r else r - (fnModulus : Int)

/-- Coefficient `i` of the product of two polynomials modulo x^n + 1. -/
def negacyclic (a : List Int) (b : List Nat) (n i : Nat) : Int :=
  (List.range n).foldl (fun t k =>
    let x := a.getD k 0
    if k ≤ i then t + x * (b.getD (i - k) 0 : Int) else t - x * (b.getD (n + i - k) 0 : Int)) 0

/-- The squared norm of the short vector of a signature (R152). -/
def fnNorm (pset : Nat) (point h : List Nat) (s2 : List Int) : Int :=
  let n := 256 * 2 ^ pset
  let s1 := (List.range n).map fun i => fnCentred ((point.getD i 0 : Int) - negacyclic s2 h n i)
  (s1 ++ s2).foldl (fun t x => t + x * x) 0

/-- The bound of a set (FN-DSA draft). (PRESUMED, log entry 117) -/
def fnBound : Nat → Int
  | 1 => 34034726 | _ => 70265242

/-- An FN-DSA verification holds (R152). -/
def fnVerifies (pset : Nat) (pub sig rep : List Byte) : Bool :=
  match fnSignature pset sig with
  | some s2 => decide (fnNorm pset (fnPoint pset (slice sig 1 40 ++ rep)) (fnPublic pset pub) s2 ≤ fnBound pset)
  | none => false

/-- An ML-DSA signature holds for a hashed representative: it is well formed and within its bounds, and the recomputed
commitment hash is its c̃ (R150). -/
def dsaHoldsFor (pset : Nat) (pub sig hashed : List Byte) : Bool :=
  dsaSignatureOk pset sig && Config.schemeHolds 0x0203 (BitVec.ofNat 8 pset) .commitmentMatches (pub ++ sig) hashed

/-- An ML-DSA signature of a message representative holds under a public key: the device's own checks of R150. -/
def dsaHolds (pset : Nat) (pub sig rep : List Byte) : Bool := dsaHoldsFor pset pub sig (shake256 (keyHash (0x200 + pset) pub ++ rep) 64)

/-- An ML-DSA verification of a job holds (R150). -/
def dsaVerifies (j : Job) (pub sig rep : List Byte) : Bool := dsaHoldsFor (psetOf j) pub sig (signedPart j pub rep)

/-- How a lattice job ends, decided in its last slice (R143 to R161). -/
def latticeEnding (s : State) (k : Nat) (j : Job) : State × Ending :=
  let fam := family j
  let op := operation j
  let opc := j.entry.opcode.toNat
  let ps := psetOf j
  let (pk, sk, ct) := (latticeSizes fam ps).getD (0, 0, 0)
  let b := blobLead j sk
  let type := 256 * fam + ps
  if op = 1 then
    endKeygen s k j type (auxKeyDest j) (schemeBytes opc ps .publicKey [] [] j.drawn pk)
      (schemeBytes opc ps .privateKey [] [] j.drawn sk)
  else if fam = 1 then
    if op = 2 then
      let pub := publicOf j pk
      if j.key.isNone && !kemModulusOk ps pub then
        (s, Ending.zeros .operandRange (ct + (if auxKDest j then 0 else 32)))
      else
        endSecret s k j (auxKDest j) (schemeBytes opc ps .ciphertext pub [] j.drawn ct)
          (schemeBytes opc ps .sharedSecret pub [] j.drawn 32)
    else endSecret s k j (auxKDest j) [] (schemeBytes opc ps .sharedSecret (slice j.input b ct) (privateOf j) [] 32)
  else
    let ctx := auxCtxLen j
    if isSign op then
      if !j.accepted then
        (s, if j.attempts ≠ attemptBudget fam ps then Ending.bare .internal
          else Ending.zeros .attemptBudget ct)
      else
        (s, Ending.out (schemeBytes opc ps .signature (signRep j) (privateOf j) (signRandom j) ct))
    else
      let lead := if j.key.isSome then 0 else pk
      let pub := publicOf j pk
      let sig := slice j.input lead ct
      let rep := messageRep (isPrehash op) (auxPhash j) (slice j.input (lead + ct) ctx) (j.input.drop (lead + ct + ctx))
      (s, Ending.bare
        (if fam = 3 && j.key.isNone && !fnPublicOk ps pub then .operandRange
         else if (if fam = 3 then fnVerifies ps pub sig rep else dsaVerifies j pub sig rep) then .ok else .verifyFail))

end Sys2Proof.Machine
end

