-- ==== Sys2Proof/Machine/HashJobs.lean ====
section
/-! DEFINITION. SLH-DSA, LMS/HSS, XMSS, Classic McEliece and HQC (07_hash_and_code_jobs.md): entry facts, slice
counts, endings, and the reservation of stateful indices. -/
namespace Sys2Proof.Machine
open Sys2Proof

/-- SHA-2 slices that absorb `n` bytes in blocks of `b` bytes (R169). -/
def slicesT (b n : Nat) : Nat := ceilDiv ((n + b / 8) / b + 1) 8

/-! ## SLH-DSA (R166 to R169) -/

/-- n and signature bytes of the six shapes (Table 7-2). -/
def slhSizes : Nat → Nat × Nat
  | 1 => (16, 7856) | 2 => (16, 17088) | 3 => (24, 16224) | 4 => (24, 35664) | 5 => (32, 29792) | _ => (32, 49856)

/-- Base counts KEYGEN, SIGN, VERIFY for SHAKE (Table 7-2b). -/
def slhShake : Nat → Nat × Nat × Nat
  | 1 => (3128, 23764, 31) | 2 => (49, 1144, 41) | 3 => (4553, 40949, 45) | 4 => (72, 1840, 60)
  | 5 => (2989, 35662, 67) | _ => (187, 3760, 61)

/-- Base counts KEYGEN, SIGN, VERIFY for SHA2 (Table 7-2b). -/
def slhSha2 : Nat → Nat × Nat × Nat
  | 1 => (2266, 17215, 22) | 2 => (36, 829, 28) | 3 => (3298, 29664, 31) | 4 => (52, 1333, 41)
  | 5 => (2165, 25834, 46) | _ => (136, 2724, 42)

/-- The facts of an SLH-DSA job. -/
def slhFacts (isSealed : Bool) (j : Job) : Option Facts :=
  let op := operation j
  let ps := psetOf j
  if ps < 1 ∨ 12 < ps ∨ op < 1 ∨ 5 < op then none
  else
    let shake := decide (7 ≤ ps)
    let shape := if shake then ps - 6 else ps
    let (n, sig) := slhSizes shape
    let (g, sg, vf) := if shake then slhShake shape else slhSha2 shape
    let cls : UnitClass := if shake then .maze else .sha2
    let len := operandLen isSealed j
    let b := blobLead j (4 * n)
    let base := { Facts.plain with classes := [cls], keyType := 0x400 + ps, newType := 0x400 + ps }
    if op = 1 then
      some { base with
        creates := if auxKeyDest j then .blob else .slot, mayUse := 0x03, size := exactly len 0,
        outLen := 2 * n + (if auxKeyDest j then blobLength (4 * n) else 0), shared := true, draw := (3 * n, true),
        plan := fun _ => run cls g }
    else
      match (if isPrehash op then prehashLen (auxPhash j) else if auxPhash j = 0 then some 0 else none) with
      | none => none
      | some d =>
        let ctx := auxCtxLen j
        let lead := if isSign op then b else sig + (if j.entry.keyh = 0 then 2 * n else 0)
        let rest := len - (lead + ctx)
        let size := if len < lead + ctx then some Status.operandSize
          else if isPrehash op && decide (rest ≠ d) then some .operandSize else none
        let m' := repLen op ctx rest
        let blk := if n = 16 then 64 else 128
        let per := if shake then 2176 else 8 * blk
        let prf := if shake then slicesS (2 * n + m') else slicesT blk (blk + n + m')
        let hmsg := if shake then slicesS (3 * n + m') else slicesT blk (3 * n + m')
        let pre := (if shake then 2 * n else blk + n) + m' - rest
        let f := { base with size := size, early := some (lead + ctx) }
        if isSign op then
          some { f with
            keyUse := .secret 0, blobLen := b, outLen := sig, shared := true,
            draw := (if auxDeterministic j then 0 else n, auxPredRes j),
            needs := streamNeeds (lead + ctx) rest 0 prf per pre, plan := fun _ => run cls (prf + hmsg + sg) }
        else
          some { f with
            keyUse := .pub, needs := streamNeeds (lead + ctx) rest 0 hmsg per (3 * n + m' - rest),
            plan := fun _ => run cls (hmsg + vf) }

/-- How an SLH-DSA job ends. -/
def slhEnding (s : State) (k : Nat) (j : Job) : State × Ending :=
  let op := operation j
  let opc := j.entry.opcode.toNat
  let ps := psetOf j
  let (n, sig) := slhSizes (if 7 ≤ ps then ps - 6 else ps)
  if op = 1 then
    endKeygen s k j (0x400 + ps) (auxKeyDest j) (schemeBytes opc ps .publicKey [] [] j.drawn (2 * n))
      (schemeBytes opc ps .privateKey [] [] j.drawn (4 * n))
  else
    let ctx := auxCtxLen j
    let rep := fun lead => messageRep (isPrehash op) (auxPhash j) (slice j.input lead ctx) (j.input.drop (lead + ctx))
    if isSign op then
      let b := blobLead j (4 * n)
      let rnd := if auxDeterministic j then slice (privateOf j) (2 * n) n else j.drawn
      (s, Ending.out (schemeBytes opc ps .signature (rep b) (privateOf j) rnd sig))
    else
      let lead := if j.key.isSome then 0 else 2 * n
      let pub := publicOf j (2 * n)
      let ok := Config.schemeHolds j.entry.opcode (BitVec.ofNat 8 ps) .signatureVerifies
        (pub ++ slice j.input lead sig ++ rep (lead + sig)) []
      (s, Ending.bare (if ok then .ok else .verifyFail))

/-! ## LMS/HSS and XMSS (R170 to R182) -/

/-- A stateful parameter set: hash bytes, SHAKE, chains, height of one level, levels, Os, Ov, Hk. -/
structure StatefulSet where
  n : Nat
  shake : Bool
  chains : Nat
  height : Nat
  levels : Nat
  os : Nat
  ov : Nat
  hk : Nat
deriving DecidableEq, Repr

/-- Chains, Os, Ov and Hk of LMS by n and the w code (Table 7-6). -/
def lmsChain : Bool → Nat → Nat × Nat × Nat × Nat
  | false, 0 => (200, 9, 2, 1) | false, 1 => (101, 13, 3, 1) | false, 2 => (51, 32, 6, 2) | false, _ => (26, 277, 52, 18)
  | true, 0 => (265, 12, 3, 1) | true, 1 => (133, 17, 4, 2) | true, 2 => (67, 42, 8, 3) | true, _ => (34, 362, 68, 23)

/-- Height and layers of an XMSS shape (Table 7-4). -/
def xmssShape : Nat → Option (Nat × Nat)
  | 0x00 => some (10, 1) | 0x01 => some (16, 1) | 0x02 => some (20, 1)
  | 0x10 => some (20, 2) | 0x11 => some (20, 4) | 0x12 => some (40, 2) | 0x13 => some (40, 4) | 0x14 => some (40, 8)
  | 0x15 => some (60, 3) | 0x16 => some (60, 6) | 0x17 => some (60, 12) | _ => none

/-- The set that a family, PSET and LEVELS name, or none where check 1 fails (R170). -/
def statefulSet (fam ps levels : Nat) : Option StatefulSet :=
  if fam = 5 then
    let h := 5 * (ps % 8)
    if ps % 8 < 1 ∨ 5 < ps % 8 ∨ bitOf ps 3 ∨ levels < 1 ∨ 8 < levels ∨ 60 < levels * h then none
    else
      let big := bitOf ps 6
      let (p, os, ov, hk) := lmsChain big (bitsOf ps 5 4)
      some { n := if big then 32 else 24, shake := bitOf ps 7, chains := p, height := h, levels := levels,
             os := os, ov := ov, hk := hk }
  else match xmssShape (ps % 64) with
    | none => none
    | some (h, d) =>
      let small := bitOf ps 6
      some { n := if small then 24 else 32, shake := bitOf ps 7, chains := if small then 51 else 67,
             height := h / d, levels := d, os := if small then 55 else 72, ov := if small then 15 else 20,
             hk := if small then 3 else 4 }

/-- Public key bytes (Table 7-5). -/
def statefulPublic (fam : Nat) (t : StatefulSet) : Nat := if fam = 5 then 28 + t.n else 4 + 2 * t.n

/-- Signature bytes (Table 7-5). -/
def statefulSignature (fam : Nat) (t : StatefulSet) : Nat :=
  if fam = 5 then 4 + t.levels * (12 + t.n * (1 + t.chains + t.height)) + (t.levels - 1) * (24 + t.n)
  else if t.levels = 1 then 4 + t.n * (1 + t.chains + t.height)
  else ceilDiv (t.height * t.levels) 8 + t.n * (1 + t.levels * t.chains + t.height * t.levels)

/-- The index space. -/
def indexSpace (t : StatefulSet) : Nat := 2 ^ (t.levels * t.height)

/-- Private state bytes: as generated, SEED and I of each level, or SK_SEED, SK_PRF, PUB_SEED and root (R338). -/
def statefulPrivate (fam : Nat) (t : StatefulSet) : Nat := if fam = 5 then t.levels * (t.n + 16) else 4 * t.n

/-- Blocks of the tree cache (R179): per level, nodes and, but for the lowest, the cached signature. -/
def cacheBlocks (t : StatefulSet) : Nat :=
  let nodes := (if t.height ≤ 10 then 0 else 2 ^ (t.height - 9) - 1) + 2 * (2 ^ (min t.height 10 + 1) - 1)
  let sig := t.n * (1 + t.chains + t.height) + 12
  (t.levels - 1) * ceilDiv (nodes * t.n + sig) 65536 + ceilDiv (nodes * t.n) 65536

/-- The message term M (R182). -/
def messageTerm (fam : Nat) (t : StatefulSet) (len : Nat) : Nat :=
  let x := (if fam = 5 then 22 + t.n else 4 * t.n) + len
  if t.shake then slicesS x else slicesT 64 x

/-- The bytes of M before the message. -/
def messagePrefix (fam : Nat) (t : StatefulSet) : Nat := if fam = 5 then 22 + t.n else 4 * t.n

/-- The facts of a stateful job. (DEDUCED, log entry 49) -/
def statefulFacts (isSealed : Bool) (j : Job) : Option Facts :=
  let fam := family j
  let op := operation j
  let ps := psetOf j
  if op < 1 ∨ 3 < op ∨ auxKeyDest j then none
  else match statefulSet fam ps (auxBits j 3 0) with
    | none => none
    | some t =>
      let cls : UnitClass := if t.shake then .maze else .sha2
      let len := operandLen isSealed j
      let type := 256 * fam + ps
      let base := { Facts.plain with classes := [cls], keyType := type, newType := type }
      let per := if t.shake then 2176 else 512
      if op = 1 then
        some { base with
          creates := .slot, mayUse := 0x43, size := exactly len 0, outLen := statefulPublic fam t,
          draw := (if fam = 5 then t.levels * (t.n + 16) else 3 * t.n, true),
          plan := fun _ => run cls (t.levels * (2 ^ t.height * t.hk + ceilDiv (2 ^ t.height) 32) +
            (t.levels - 1) * (t.os + 1)) }
      else if op = 2 then
        let m := messageTerm fam t len
        some { base with
          keyUse := .slotOnly 0, outLen := statefulSignature fam t, early := some 0, shared := true,
          draw := (if fam = 5 then t.n else 0, auxPredRes j),
          needs := streamNeeds 0 len 0 m per (messagePrefix fam t), plan := fun _ => run cls (m + t.os + 1) }
      else
        let lead := statefulSignature fam t + (if j.entry.keyh = 0 then statefulPublic fam t else 0)
        let m := messageTerm fam t (len - lead)
        some { base with
          keyUse := .pub, size := atLeast len lead, early := some lead,
          needs := streamNeeds lead (len - lead) 0 m per (messagePrefix fam t),
          plan := fun _ => run cls (m + t.levels * (t.ov + 1)) }

/-! ### Tree caches (R179 to R181) -/

/-- The subtree of a level that holds an index, by its number. -/
def subtreeOf (height level index : Nat) : Nat := index / 2 ^ (level * height) / 2 ^ min height 10

/-- A complete cache at an index: nothing of the next subtrees, and each upper level's signature on the tree below. -/
def fullCache (height levels index : Nat) : List CacheLevel :=
  (List.range levels).map fun l =>
    { tops := true, current := some (subtreeOf height l index), next := 0,
      signed := if l = 0 then none else some (index / 2 ^ (l * height)) }

/-- The current subtree is in the cache. -/
def Stateful.cacheLoaded (t : Stateful) : Bool := t.cache.head?.any fun x => x.current.isSome

/-- The cache once an index is taken: each SIGN brings one leaf of the next subtree, which becomes current with its first
index; a level whose tree below is new has its signature anew (R180). -/
def cacheAt (t : Stateful) (index : Nat) : List CacheLevel :=
  t.cache.mapIdx fun l x =>
    let sub := subtreeOf t.height l index
    let moved := decide (x.current ≠ some sub)
    { tops := true, current := some sub,
      next := if l = 0 then (if moved then 1 else min (x.next + 1) (2 ^ min t.height 10)) else if moved then 0 else x.next,
      signed := if l = 0 then none else some (index / 2 ^ (l * t.height)) }

/-- A stateful part as generated or imported with a starting index (R172, R338). -/
def newStateful (t : StatefulSet) (start : Nat) : Stateful :=
  { space := indexSpace t, start := start, nextBlock := start / 1024, live := none, opened := none, joined := [],
    detached := false, levels := t.levels, height := t.height, cacheBlocks := cacheBlocks t,
    cache := fullCache t.height t.levels start }

/-- A generated or imported stateful key: never exported, always sign and stateful (R171). -/
def statefulKey (k : Nat) (j : Job) (fam ps origin start : Nat) (t : StatefulSet) (priv pub : List Byte) : Key :=
  let key := requestedKey k j (256 * fam + ps) origin priv pub
  { key with
    exportable := false, usage := (key.usage ||| 0x41), stateful := some (newStateful t start),
    binding := if fam = 5 then leBytes 1 t.levels ++ zeroBytes 7 else zeroBytes 8 }

/-! ### What a verification reads of a signature (R182; RFC 8554, RFC 8391, SP 800-208: PRESUMED, log entry 125) -/

/-- Big-endian field of `n` bytes. -/
def beAt (b : List Byte) (i n : Nat) : Nat := leNat (slice b i n).reverse

/-- The type codes of LMS and LM-OTS that PSET names. -/
def lmsTypes (ps : Nat) : Nat × Nat :=
  let big := bitOf ps 6
  let base : Nat × Nat := match bitOf ps 7, big with
    | false, true => (4, 1)
    | false, false => (9, 5)
    | true, true => (14, 9)
    | true, false => (19, 13)
  (base.1 + ps % 8, base.2 + bitsOf ps 5 4)

/-- The two type codes of an LMS public key at an offset. -/
def lmsPublicOk (ps : Nat) (b : List Byte) (i : Nat) : Bool :=
  decide (beAt b i 4 = (lmsTypes ps).1) && decide (beAt b (i + 4) 4 = (lmsTypes ps).2)

/-- The index and the type codes of an LMS signature at an offset. -/
def lmsSignatureOk (ps : Nat) (t : StatefulSet) (b : List Byte) (i : Nat) : Bool :=
  decide (beAt b i 4 < 2 ^ t.height) && decide (beAt b (i + 4) 4 = (lmsTypes ps).2) &&
    decide (beAt b (i + 8 + t.n * (1 + t.chains)) 4 = (lmsTypes ps).1)

/-- Level counts, type codes and indices of an HSS public key and signature. -/
def hssFieldsOk (ps : Nat) (t : StatefulSet) (pub sig : List Byte) : Bool :=
  let one := 12 + t.n * (1 + t.chains + t.height)
  let at' := fun i => 4 + i * (one + (24 + t.n))
  decide (beAt pub 0 4 = t.levels) && lmsPublicOk ps pub 4 && decide (beAt sig 0 4 + 1 = t.levels) &&
    (List.range t.levels).all (fun i => lmsSignatureOk ps t sig (at' i)) &&
    (List.range (t.levels - 1)).all fun i => lmsPublicOk ps sig (at' i + one)

/-- The identifier of an XMSS or XMSS^MT set. -/
def xmssOid (ps : Nat) : Nat :=
  let multi := decide (16 ≤ ps % 64)
  let base := match ps / 64, multi with
    | 0, false => 0x01 | 1, false => 0x0D | 2, false => 0x10 | _, false => 0x13
    | 0, true => 0x01 | 1, true => 0x21 | 2, true => 0x29 | _, true => 0x31
  base + ps % 16

/-- The identifier of an XMSS public key and the index of a signature. -/
def xmssFieldsOk (ps : Nat) (t : StatefulSet) (pub sig : List Byte) : Bool :=
  let width := if t.levels = 1 then 4 else ceilDiv (t.height * t.levels) 8
  decide (beAt pub 0 4 = xmssOid ps) && decide (beAt sig 0 width < indexSpace t)

/-- A stateful signature verifies: no field is out of place, and the recomputed root is the key's (R182). -/
def statefulVerifies (j : Job) (t : StatefulSet) (pub sig msg : List Byte) : Bool :=
  (if family j = 5 then hssFieldsOk (psetOf j) t pub sig else xmssFieldsOk (psetOf j) t pub sig) &&
    Config.schemeHolds j.entry.opcode (BitVec.ofNat 8 (psetOf j)) .signatureVerifies (pub ++ sig ++ msg)
      [BitVec.ofNat 8 (auxBits j 3 0)]

/-- How a stateful job ends. -/
def statefulEnding (s : State) (k : Nat) (j : Job) : State × Ending :=
  let fam := family j
  let opc := j.entry.opcode.toNat
  let ps := psetOf j
  match statefulSet fam ps (auxBits j 3 0) with
  | none => (s, Ending.bare .internal)
  | some t =>
    if operation j = 1 then
      let pub := schemeBytes opc ps .publicKey [] [] j.drawn (statefulPublic fam t)
      let priv := schemeBytes opc ps .privateKey [] [] j.drawn (statefulPrivate fam t)
      (s, { status := .ok, output := pub, result := ((j.slot.map (slotHandle s)).getD 0).setWidth 128,
            newKey := some (statefulKey k j fam ps 0 0 t priv pub) })
    else if operation j = 2 then
      (s, { status := .ok,
            output := schemeBytes opc ps .signature (leBytes 8 j.index ++ j.input) (privateOf j) j.drawn
              (statefulSignature fam t),
            result := BitVec.ofNat 128 (j.index + 2 ^ 64 * j.remaining), newKey := none })
    else
      let lead := if j.key.isSome then 0 else statefulPublic fam t
      let rest := j.input.drop lead
      let n := statefulSignature fam t
      let ok := statefulVerifies j t (publicOf j (statefulPublic fam t)) (rest.take n) (rest.drop n)
      (s, Ending.bare (if ok then .ok else .verifyFail))

/-! ### Reservations (R172 to R177) -/

/-- First index and end of a block of a key. -/
def blockRange (t : Stateful) (b : Nat) : Nat × Nat := (max (1024 * b) t.start, min (1024 * (b + 1)) t.space)

/-- The lowest block at or above `b` of a parity: even on the East, odd on the West (R445). -/
def ownBlock (s : State) (b : Nat) : Nat := if b % 2 = bit (s.boot.straps.getLsbD 4) then b else b + 1

/-- The next block that this device may reserve: any in a pair or alone, in SOLO one of its own range. A block without an
index is none (R173, R176, R445). -/
def nextReservable (s : State) (t : Stateful) : Option Nat :=
  let b := if inSolo s then ownBlock s t.nextBlock else t.nextBlock
  let r := blockRange t b
  if r.1 < r.2 then some b else none

/-- Indices of every second block from `b` on. (DEDUCED, log entry 85) -/
def parityIndices (t : Stateful) (b : Nat) : Nat :=
  let last := (t.space - 1) / 1024
  if last < b then 0
  else
    let short := if (last - b) % 2 = 0 then 1024 * (last + 1) - t.space else 0
    1024 * ((last - b) / 2 + 1) - short - (t.start - 1024 * b)

/-- Indices the device can still take (R177, R445). -/
def remainingIndices (s : State) (t : Stateful) : Nat :=
  (t.live.map fun r => r.2 - r.1).getD 0 +
    (if inSolo s then parityIndices t (ownBlock s t.nextBlock) else t.space - max (1024 * t.nextBlock) t.start)

/-- Changes the stateful part of a key. -/
def modStateful (s : State) (k : Nat) (f : Stateful → Stateful) : State :=
  { s with ice.keys := KMap.adjust s.ice.keys k fun x => { x with stateful := x.stateful.map f } }

/-- The stateful part of a slot key. -/
def statefulAt (s : State) (k : Nat) : Option Stateful := (KMap.get? s.ice.keys k).bind fun x => x.stateful

/-- Housekeeping slices after a SIGN (R180). -/
def signHousekeeping (t : StatefulSet) (index : Nat) : Nat :=
  t.hk + (if 1 < t.levels ∧ 10 < t.height then t.hk else 0) +
    ((List.range t.levels).filter fun i => decide (1 ≤ i) && decide (0 < index) &&
      decide (index % 2 ^ (i * t.height) = 0)).length * (t.os + 1)

/-- A job takes the next index of the live block: its number, what remains, its housekeeping (R172, R177). -/
def takeIndex (s : State) (keyNo k : Nat) : State :=
  match statefulAt s keyNo, KMap.get? s.jobs k with
  | some t, some j =>
    match t.live with
    | some (i, e) =>
      let t' := { t with live := if i + 1 < e then some (i + 1, e) else none, cache := cacheAt t i }
      let set := statefulSet (family j) (psetOf j) (auxBits j 3 0)
      let after := (set.map fun x => signHousekeeping x i).getD 0
      let before := if t.cacheLoaded then 0 else (set.map fun x => 2 ^ min x.height 10 * x.hk + 32).getD 0
      let upper := (set.any fun x => decide (1 < x.levels) && decide (0 < i) && decide (i % 2 ^ x.height = 0))
      let s := if upper && !s.ice.cacheDue.contains keyNo then { s with ice.cacheDue := s.ice.cacheDue ++ [keyNo] } else s
      modJob (modStateful s keyNo fun _ => t') k fun j =>
        { j with index := i, remaining := remainingIndices s t', houseBefore := before, houseAfter := after,
                 lastTick := now s, waits := j.waits.filter fun w => decide (w ≠ .reservation keyNo) }
    | none => s
  | _, _ => s

/-- Ends the open reservation of a key in failure: every job that opened or joined it ends (R174). -/
def failReservation (s : State) (keyNo : Nat) (st : Status) : State :=
  match statefulAt s keyNo with
  | none => s
  | some t =>
    let s := modStateful s keyNo fun t => { t with opened := none, joined := [], detached := false }
    t.joined.foldl (fun s k =>
      match KMap.get? s.jobs k with
      | some j =>
        if j.discard then removeJob (releaseEngines s k j) k else endJob s k (if j.aborted then .aborted else st)
      | none => s) s

/-- Opens the reservation of the next block for a job, or fails it (R173, R174). -/
def openReservation (s : State) (keyNo : Nat) (ks : List Nat) : State :=
  match statefulAt s keyNo with
  | none => s
  | some t =>
    let s := modStateful s keyNo fun t => { t with joined := ks }
    match nextReservable s t with
    | none => failReservation s keyNo .stateExhausted
    | some b =>
      if !vaultWritable s then failReservation s keyNo .vaultMedia
      else
        let a := keyNo / 64
        let h := slotHandle s keyNo
        let r := blockRange t b
        let body := leBytes 8 h.toNat ++ leBytes 8 r.1 ++ leBytes 8 (r.2 - r.1)
        let p := postRecord s 4 1 (BitVec.ofNat 16 a) a body
        let s := modStateful p.1 keyNo fun t => { t with opened := some b, joined := ks }
        let s := ks.foldl (fun s k => modJob s k fun j =>
          { j with waits := if j.waits.contains (.reservation keyNo) then j.waits else j.waits ++ [.reservation keyNo] }) s
        if mirrors s then (openCommit s a 8 keyNo (leBytes 8 h.toNat ++ leBytes 8 b) [p.2] none).1 else s

/-- A block becomes live: the jobs that joined take its indices in dispatch order; those left open the next
reservation in the same tick (R172). An aborted job of R54 ends; its index is used (R175). -/
def commitBlock (s : State) (keyNo b : Nat) : State :=
  match statefulAt s keyNo with
  | none => s
  | some t =>
    let r := blockRange t b
    let n := r.2 - r.1
    let s := modStateful s keyNo fun t =>
      { t with live := if r.1 < r.2 then some r else none, opened := none, joined := [], detached := false, nextBlock := max t.nextBlock (b + 1) }
    let s := (t.joined.take n).foldl (fun s k =>
      let s := takeIndex s keyNo k
      match KMap.get? s.jobs k with
      | some j =>
        if j.aborted then
          if j.discard then removeJob (releaseEngines s k j) k
          else modJob (endJob s k .aborted) k fun x => { x with aborted := true }
        else s
      | none => s) s
    if t.joined.drop n = [] then s else openReservation s keyNo (t.joined.drop n)

/-- A dispatched stateful SIGN: an index of the live block, or the open reservation, or a new one (R172). Without a mounted
Vault it ends whatever is live (Table 1-6, R131). -/
def joinReservation (s : State) (keyNo k : Nat) : State :=
  match statefulAt s keyNo with
  | none => s
  | some t =>
    match t.live, t.opened with
    | some _, _ => if s.vault.mounted then takeIndex s keyNo k else endJob s k .vaultMedia
    | none, some _ =>
      modJob (modStateful s keyNo fun t => { t with joined := t.joined ++ [k] }) k fun j =>
        { j with waits := j.waits ++ [.reservation keyNo] }
    | none, none => openReservation s keyNo [k]

/-! ## Classic McEliece and HQC (R183 to R189) -/

/-- Public key, private key, ciphertext, blocks, KEYGEN, ENCAPS, DECAPS slices (Table 7-9). -/
def mcSizes : Nat → Option (Nat × Nat × Nat × Nat × Nat × Nat × Nat)
  | 1 => some (1044992, 13932, 208, 16, 614800, 300, 800) | 2 => some (1044992, 13932, 208, 16, 64400, 300, 800)
  | 3 => some (1047319, 13948, 194, 16, 634000, 310, 830) | 4 => some (1047319, 13948, 194, 16, 66000, 310, 830)
  | 5 => some (1357824, 14120, 208, 21, 799200, 390, 900) | 6 => some (1357824, 14120, 208, 21, 82400, 390, 900)
  | _ => none

/-- RESIDE (R165). -/
def auxReside (j : Job) : Bool := j.entry.aux.getLsbD 20

/-- The facts of a Classic McEliece job. -/
def mcFacts (isSealed : Bool) (j : Job) : Option Facts :=
  let op := operation j
  match mcSizes (psetOf j) with
  | none => none
  | some (pk, sk, ct, _, g, e, d) =>
    let len := operandLen isSealed j
    let type := 0x700 + psetOf j
    let b := blobLead j sk
    let base := { Facts.plain with
      classes := [.parterre], placed := some .parterre, keyType := type, newType := type }
    if op = 1 then
      some { base with
        creates := if auxKeyDest j then .blob else .slot, mayUse := 0x06, size := exactly len 0,
        outLen := pk + (if auxKeyDest j then blobLength sk else 0), shared := true, draw := (32, true),
        plan := fun _ => run .parterre g }
    else if op = 2 then
      let streamed := decide (j.entry.keyh = 0)
      some { base with
        keyUse := .pub, creates := if auxKDest j then .slot else .nothing, newType := 0x3000, mayUse := 0x18,
        size := exactly len (if streamed then pk else 0), outLen := ct + (if auxKDest j then 0 else 32),
        draw := (32, auxPredRes j), early := if streamed then some 0 else none,
        needs := fun i => if streamed then ceilDiv (i * pk) e else 0, plan := fun _ => run .parterre e }
    else if op = 3 then
      some { base with
        keyUse := .secret 2, creates := if auxKDest j then .slot else .nothing, newType := 0x3000, mayUse := 0x18,
        blobLen := b, size := exactly len (b + ct), outLen := if auxKDest j then 0 else 32, shared := true,
        plan := fun _ => run .parterre d }
    else if op = 4 then
      some { Facts.plain with creates := .resident, newType := type, mayUse := 0x02, size := exactly len pk }
    else none

/-- A resident public key (R185). -/
def residentKey (k : Nat) (j : Job) (origin blocks : Nat) (pub : List Byte) : Key :=
  let key := requestedKey k j (0x700 + psetOf j) origin [] pub
  { key with exportable := false, usage := if origin = 0 then 0x02 else key.usage, blocks := blocks }

/-- Bytes that the expansion of a candidate's seed takes before the next seed (n, 32 q, 16 t and 256 bits: Classic
McEliece's SeededKeyGen. PRESUMED, log entry 126). -/
def mcExpansion (ps : Nat) : Nat :=
  if ps ≤ 2 then (6688 + 32 * 8192 + 16 * 128) / 8 else if ps ≤ 4 then (6960 + 32 * 8192 + 16 * 119) / 8
  else (8192 + 32 * 8192 + 16 * 128) / 8

/-- The seed after a candidate's: the last 32 bytes of its expansion. -/
def mcNextSeed (ps : Nat) (seed : List Byte) : List Byte := (shake256 (0x40 :: seed) (mcExpansion ps + 32)).drop (mcExpansion ps)

/-- Candidates that a KEYGEN evaluates: 96, or 8 for an f variant (R184). -/
def mcCandidates (ps : Nat) : Nat := if ps % 2 = 0 then 8 else 96

/-- The first of `n` chained candidates that succeeds, by its seed. -/
def mcCandidate (op : W16) (ps : Nat) : Nat → List Byte → Option (List Byte)
  | 0, _ => none
  | n + 1, seed =>
    if Config.schemeHolds op (BitVec.ofNat 8 ps) .candidateFound [] seed then some seed else mcCandidate op ps n (mcNextSeed ps seed)

/-- How a Classic McEliece job ends. KEYGEN fails when no candidate succeeds (R184). -/
def mcEnding (s : State) (k : Nat) (j : Job) : State × Ending :=
  let op := operation j
  let opc := j.entry.opcode.toNat
  let ps := psetOf j
  let (pk, sk, ct, _, _, _, _) := (mcSizes ps).getD (0, 0, 0, 0, 0, 0, 0)
  let b := blobLead j sk
  if op = 1 then
    match mcCandidate j.entry.opcode ps (mcCandidates ps) (j.drawn.take 32) with
    | some seed =>
      let p := endKeygen s k j (0x700 + ps) (auxKeyDest j) (schemeBytes opc ps .publicKey [] [] seed pk)
        (schemeBytes opc ps .privateKey [] [] seed sk)
      match j.resident with
      | some r => (p.1, { p.2 with result := p.2.result ||| ((residentHandle s r).setWidth 128 <<< 64) })
      | none => p
    | none => (s, Ending.bare .internal)
  else if op = 2 then
    let pub := publicOf j pk
    endSecret s k j (auxKDest j) (schemeBytes opc ps .ciphertext pub [] j.drawn ct)
      (schemeBytes opc ps .sharedSecret pub [] j.drawn 32)
  else if op = 3 then
    endSecret s k j (auxKDest j) [] (schemeBytes opc ps .sharedSecret (slice j.input b ct) (privateOf j) [] 32)
  else
    (s, { status := .ok, output := [], result := ((j.resident.map (residentHandle s)).getD 0).setWidth 128,
          newKey := none })

/-- Public key, private key, ciphertext, k, KEYGEN, ENCAPS, DECAPS slices (Table 7-10). -/
def hqcSizes : Nat → Option (Nat × Nat × Nat × Nat × Nat × Nat × Nat)
  | 1 => some (2249, 2305, 4433, 16, 55, 100, 190) | 2 => some (4522, 4586, 8978, 24, 110, 210, 400)
  | 3 => some (7245, 7317, 14421, 32, 190, 360, 650) | _ => none

/-- The facts of an HQC job. -/
def hqcFacts (isSealed : Bool) (j : Job) : Option Facts :=
  let op := operation j
  match hqcSizes (psetOf j) with
  | none => none
  | some (pk, sk, ct, kk, g, e, d) =>
    let len := operandLen isSealed j
    let type := 0x800 + psetOf j
    let b := blobLead j sk
    let base := { Facts.plain with
      classes := [.parterre], placed := some .parterre, keyType := type, newType := type }
    if op = 1 then
      some { base with
        creates := if auxKeyDest j then .blob else .slot, mayUse := 0x06, size := exactly len 0,
        outLen := pk + (if auxKeyDest j then blobLength sk else 0), shared := true, draw := (80 + kk, true),
        plan := fun _ => run .parterre g }
    else if op = 2 then
      some { base with
        keyUse := .pub, creates := if auxKDest j then .slot else .nothing, newType := 0x3000, mayUse := 0x18,
        size := exactly len (if j.entry.keyh = 0 then pk else 0), outLen := ct + (if auxKDest j then 0 else 64),
        draw := (kk + 16, auxPredRes j), plan := fun _ => run .parterre e }
    else if op = 3 then
      some { base with
        keyUse := .secret 2, creates := if auxKDest j then .slot else .nothing, newType := 0x3000, mayUse := 0x18,
        blobLen := b, size := exactly len (b + ct), outLen := if auxKDest j then 0 else 64, shared := true,
        plan := fun _ => run .parterre d }
    else none

/-- The length in bits of the packed vectors of an HQC set: s of a public key and u of a ciphertext (the fourth-round
parameters. PRESUMED, log entry 126). -/
def hqcBits : Nat → Nat
  | 1 => 17669 | 2 => 35851 | _ => 57637

/-- Bytes with the unused high bits of a packed vector at `i` read as 0 (R188). -/
def packedAt (bits i : Nat) (b : List Byte) : List Byte :=
  if bits % 8 = 0 then b else b.modify (i + bits / 8) fun x => BitVec.ofNat 8 (x.toNat % 2 ^ (bits % 8))

/-- A public key: a 40-byte seed, then s. -/
def hqcPublic (ps : Nat) (b : List Byte) : List Byte := packedAt (hqcBits ps) 40 b

/-- A ciphertext: u first; its other vector v fills whole bytes. -/
def hqcCiphertext (ps : Nat) (b : List Byte) : List Byte := packedAt (hqcBits ps) 0 b

/-- How an HQC job ends. -/
def hqcEnding (s : State) (k : Nat) (j : Job) : State × Ending :=
  let op := operation j
  let opc := j.entry.opcode.toNat
  let ps := psetOf j
  let (pk, sk, ct, _, _, _, _) := (hqcSizes ps).getD (0, 0, 0, 0, 0, 0, 0)
  let b := blobLead j sk
  if op = 1 then
    endKeygen s k j (0x800 + ps) (auxKeyDest j) (schemeBytes opc ps .publicKey [] [] j.drawn pk)
      (schemeBytes opc ps .privateKey [] [] j.drawn sk)
  else if op = 2 then
    let pub := hqcPublic ps (publicOf j pk)
    endSecret s k j (auxKDest j) (schemeBytes opc ps .ciphertext pub [] j.drawn ct)
      (schemeBytes opc ps .sharedSecret pub [] j.drawn 64)
  else endSecret s k j (auxKDest j) [] (schemeBytes opc ps .sharedSecret (hqcCiphertext ps (slice j.input b ct)) (privateOf j) [] 64)

end Sys2Proof.Machine
end

