-- ==== Sys2Proof/Machine/Orangery.lean ====
section
/-! DEFINITION. The Orangery's families 0x10 to 0x13 (08_orangery.md): entry facts, slice counts, endings, the
checks of a loaded curve, and the big-number operations, which are exact. -/
namespace Sys2Proof.Machine
open Sys2Proof

/-! ## Curves (R196, R201, R202) -/

/-- Lp, Ln, NBITS and twice F of a built-in curve (Table 8-2). -/
def builtinCurve : Nat → Option (Nat × Nat × Nat × Nat)
  | 1 => some (32, 32, 256, 2) | 2 => some (48, 48, 384, 2) | 3 => some (66, 66, 521, 2) | 4 => some (32, 32, 256, 3)
  | 5 => some (48, 48, 384, 3) | 6 => some (64, 64, 512, 3) | 7 => some (32, 32, 256, 2) | _ => none

/-- The key of a loaded curve. -/
def curveKey (a i : Nat) : Nat := 8 * a + i

/-- The curve that a job's PSET names among those of its allotment. -/
def namedCurve (s : State) (k : Nat) (j : Job) : Option Curve :=
  let ps := psetOf j
  if 0x10 ≤ ps ∧ ps ≤ 0x17 then
    match KMap.get? s.curves (curveKey (keyAllot k) (ps - 0x10)) with
    | some c => if c.live && (!c.unloading || decide (j.order < c.unloadOrder)) then some c else none
    | none => none
  else none

/-- Lp, Ln, NBITS, twice F, key type and binding of a job's curve; none where check 1 fails (R193, R197). -/
def curveOf (s : State) (k : Nat) (j : Job) : Option (Nat × Nat × Nat × Nat × Nat × List Byte) :=
  let ps := psetOf j
  match builtinCurve ps with
  | some (lp, ln, nb, f) =>
    if j.curves.getLsbD (ps - 1) then some (lp, ln, nb, f, 0x1000 + ps, zeroBytes 8) else none
  | none =>
    (namedCurve s k j).map fun c =>
      (ceilDiv c.pbits 8, ceilDiv c.nbits 8, c.nbits, 3, 0x10FF, slice c.measurement 0 8)

/-- Words of a bit length (R192). -/
def wordsOf (bits : Nat) : Nat := ceilDiv bits 64

/-- K of R200 with `num` for F: K for `f2 = 2F`, and the 1.5-fold term of VERIFY. -/
def curveTerm (num den nb wp : Nat) : Nat := ceilDiv (num * (64 * wordsOf nb) * wp * wp) (den * 1024)

/-- Removes factors of two: the odd part and their number. -/
def oddPart : Nat → Nat → Nat → Nat × Nat
  | 0, d, r => (d, r)
  | f + 1, d, r => if d % 2 = 0 ∧ 0 < d then oddPart f (d / 2) (r + 1) else (d, r)

/-- Some repeated square of `x` reaches n − 1. -/
def reachesMinusOne (n : Nat) : Nat → Nat → Bool
  | 0, _ => false
  | r + 1, x => decide (x = n - 1) || reachesMinusOne n r (x * x % n)

/-- One Miller-Rabin round to a base. -/
def millerRabin (n base : Nat) : Bool :=
  let a := 2 + base % (n - 3)
  let (d, r) := oddPart (Nat.log2 n + 1) (n - 1) 0
  let x := powMod a d n
  decide (x = 1) || reachesMinusOne n r x

/-- 64 rounds, with bases derived from the measurement (R202). -/
def passesPrime (n : Nat) (meas : List Byte) (from' : Nat) : Bool :=
  decide (5 ≤ n) && decide (n % 2 = 1) &&
    (List.range 64).all fun i => millerRabin n (Config.primeBase meas (from' + i))

/-- The fields of a CURVE_LOAD input (Table 8-6): PBITS, NBITS, h, then p, a, b, Gx, Gy, n. -/
def curveFields (m : List Byte) : Nat × Nat × Nat × Nat × Nat × Nat × Nat × Nat × Nat :=
  let pb := fieldAt m 0 2
  let nb := fieldAt m 2 2
  let lp := ceilDiv pb 8
  let f := fun i => beNat (slice m (8 + i * lp) lp)
  (pb, nb, fieldAt m 4 1, f 0, f 1, f 2, f 3, f 4, beNat (slice m (8 + 5 * lp) (ceilDiv nb 8)))

/-- The domain parameters of a loaded curve's image. -/
def imageDomain (m : List Byte) : Domain :=
  let (_, _, h, p, a, b, gx, gy, n) := curveFields m
  { p := p, a := a, b := b, gx := gx, gy := gy, n := n, h := h }

/-- The REASON of the first failing check of Table 8-7; 0 when all pass. -/
def curveReason (m : List Byte) : Nat :=
  let (pb, nb, h, p, a, b, gx, gy, n) := curveFields m
  let meas := sha3_256 m
  let checks : List (Bool × Nat) :=
    [(decide (160 ≤ pb ∧ pb ≤ 576 ∧ 2 ≤ nb ∧ nb ≤ pb + 1 ∧ 1 ≤ h ∧ h ≤ 8) && p.testBit (pb - 1) && n.testBit (nb - 1), 1),
     (passesPrime p meas 0, 2),
     (decide (a < p ∧ b < p), 3),
     (decide ((4 * a * a * a + 27 * b * b) % p ≠ 0), 4),
     (decide (gx < p ∧ gy < p) && onCurve p a b gx gy, 5),
     (passesPrime n meas 64, 6),
     (decide (pointMul p a (some (gx, gy)) n (Nat.log2 n + 1) none = none), 7),
     (decide (((p : Int) + 1 - h * n) * ((p : Int) + 1 - h * n) ≤ 4 * p), 8),
     (decide (n ≠ p), 9),
     ((List.range 20).all fun i => decide (powMod p (i + 1) n ≠ 1 % n), 10)]
  ((checks.find? fun c => !c.1).map Prod.snd).getD 0

/-- The lowest free curve index of an allotment (R202). -/
def freeCurve (s : State) (a : Nat) : Option Nat :=
  (List.range 8).find? fun i => !KMap.has s.curves (curveKey a i)

/-! ## Family 0x10 (R196 to R204) -/

/-- The facts of an ECDSA, ECDH or curve job. Family 0x10 has no hash class to which a digest could stream: the whole input
is in place before dispatch (R191, R194). (DEDUCED, log entry 120) -/
def curveFacts (s : State) (k : Nat) (isSealed : Bool) (j : Job) : Option Facts :=
  let op := operation j
  let len := operandLen isSealed j
  let base := { Facts.plain with classes := [.orangery], placed := some .orangery }
  if op = 5 then
    if psetOf j ≠ 0 then none
    else
      let pb := fieldAt j.landed 0 2
      let nb := fieldAt j.landed 2 2
      let wp := wordsOf pb
      let wn := wordsOf nb
      some { base with
        probe := 4, size := if len < 4 then some .operandSize else exactly len (8 + 5 * ceilDiv pb 8 + ceilDiv nb 8),
        plan := fun _ => run .orangery (64 * ceilDiv (64 * wp ^ 3) 51200 + 64 * ceilDiv (64 * wn ^ 3) 51200 +
          ceilDiv (3 * (64 * wordsOf nb) * wp * wp) 2048 + 24) }
  else if op = 6 then
    if (namedCurve s k j).isSome then some { Facts.plain with size := none } else none
  else match curveOf s k j with
    | none => none
    | some (lp, ln, nb, f2, type, _) =>
      let wp := wordsOf (if type = 0x1003 then 521 else 8 * lp)
      let kk := curveTerm f2 2 nb wp
      let b := blobLead j ln
      let f := { base with keyType := type, newType := type }
      if op = 1 then
        some { f with
          creates := if auxKeyDest j then .blob else .slot, mayUse := 0x13, size := exactly len 0,
          outLen := 1 + 2 * lp + (if auxKeyDest j then blobLength ln else 0), draw := (2 * (ln + 8), true),
          plan := fun _ => run .orangery (kk + 2) }
      else if op = 2 then
        some { f with
          keyUse := .secret 0, blobLen := b, outLen := 2 * ln, draw := (2 * (ln + 8), auxPredRes j),
          size := if b + 20 ≤ len ∧ len ≤ b + 64 then none else some .operandSize,
          plan := fun _ => run .orangery (kk + ceilDiv wp 4 + 2) }
      else if op = 3 then
        let lead := 2 * ln + (if j.entry.keyh = 0 then 1 + 2 * lp else 0)
        some { f with
          keyUse := .pub,
          size := if lead + 20 ≤ len ∧ len ≤ lead + 64 then none else some .operandSize,
          plan := fun _ => run .orangery (curveTerm (3 * f2) 4 nb wp + ceilDiv wp 4 + 2) }
      else if op = 4 then
        some { f with
          keyUse := .secret 4, creates := if auxKDest j then .slot else .nothing, newType := 0x3000, mayUse := 0x18,
          blobLen := b, size := exactly len (b + 1 + 2 * lp), outLen := if auxKDest j then 0 else lp,
          draw := (ln + 8, auxPredRes j), plan := fun _ => run .orangery (kk + 3) }
      else none

/-- The domain parameters of a job's curve. -/
def domainOf (s : State) (k : Nat) (j : Job) : Option Domain :=
  match namedCurve s k j with
  | some c => some (imageDomain c.image)
  | none => builtinDomain (psetOf j)

/-- Rows 1 and 2 of Table 8-4 for an encoded point. -/
def pointFault (d : Domain) (lp : Nat) (pt : List Byte) : Option Status :=
  (d.pointBad lp pt).map fun off => if off then .pointInvalid else .operandRange

/-- How a family 0x10 job ends; curve loading and unloading end in the shared job code. The first Ln + 8 bytes drawn give the
scalar, the rest blinds. (PRESUMED, log entry 119) -/
def curveEnding (s : State) (k : Nat) (j : Job) : State × Ending :=
  let op := operation j
  match curveOf s k j, domainOf s k j with
  | some (lp, ln, nb, _, type, binding), some d =>
    let b := blobLead j ln
    let fresh := d.scalar (slice j.drawn 0 (ln + 8))
    let secret := beNat (privateOf j)
    if op = 1 then
      let p := endKeygen s k j type (auxKeyDest j) (pointBytes lp (d.mulG fresh)) (beBytes ln fresh)
      (p.1, { p.2 with newKey := p.2.newKey.map fun key => { key with binding := slice binding 0 8 } })
    else if op = 2 then
      let sig := d.sign (digestNumber nb (j.input.drop b)) secret fresh
      if sig.1 = 0 ∨ sig.2 = 0 then (s, Ending.zeros .scalarRange (2 * ln))
      else (s, Ending.out (beBytes ln sig.1 ++ beBytes ln sig.2))
    else if op = 3 then
      let lead := if j.key.isSome then 0 else 1 + 2 * lp
      let pub := publicOf j (1 + 2 * lp)
      let e := digestNumber nb (j.input.drop (lead + 2 * ln))
      (s, Ending.bare (match (if j.key.isSome then none else pointFault d lp pub) with
        | some st => st
        | none =>
          if d.verifies e (pointOf lp pub) (beNat (slice j.input lead ln)) (beNat (slice j.input (lead + ln) ln)) then .ok
          else .verifyFail))
    else
      let n := if auxKDest j then 0 else lp
      let pt := slice j.input b (1 + 2 * lp)
      match pointFault d lp pt with
      | some st => (s, Ending.zeros st n)
      | none =>
        match d.agree secret (pointOf lp pt) with
        | none => (s, Ending.zeros .pointInvalid n)
        | some (x, _) => endSecret s k j (auxKDest j) [] (beBytes lp x)
  | _, _ => (s, Ending.bare .ok)

/-! ## Family 0x11 (R205 to R207) -/

/-- Key bytes, signature or secret bytes, draw for KEYGEN, draw for SIGN or AGREE (Tables 8-8, 8-15). -/
def edSizes : Nat → Option (Nat × Nat × Nat × Nat)
  | 1 | 2 | 3 => some (32, 64, 72, 40) | 4 | 5 => some (57, 114, 121, 64) | 6 => some (32, 32, 72, 40)
  | 7 => some (56, 56, 120, 64) | _ => none

/-- m of Table 8-8. -/
def edPrefixed (ps c len : Nat) : Nat := if ps = 1 then len else if ps ≤ 3 then 34 + c + len else 10 + c + len

/-- The facts of a family 0x11 job. -/
def edFacts (isSealed : Bool) (j : Job) : Option Facts :=
  let op := operation j
  let ps := psetOf j
  match edSizes ps with
  | none => none
  | some (key, out, dk, ds) =>
    let len := operandLen isSealed j
    let small := decide (ps ≤ 3)
    let hash : UnitClass := if small then .sha2 else .maze
    let b := blobLead j key
    let type := 0x1100 + ps
    let base := { Facts.plain with
      classes := if ps ≤ 5 then [.orangery, hash] else [.orangery], placed := some .orangery, keyType := type,
      newType := type }
    let ctx := auxCtxLen j
    let ctxBad := (decide (ps = 1) && decide (ctx ≠ 0)) || (decide (ps = 2) && decide (ctx = 0))
    let term := fun n => if small then slicesT 128 n else slicesS n
    let pre := if small then 32 else 57
    let per := if small then 1024 else 2176
    if op = 1 then
      some { base with
        creates := if auxKeyDest j then .blob else .slot, mayUse := if ps ≤ 5 then 0x03 else 0x10,
        size := exactly len 0, outLen := key + (if auxKeyDest j then blobLength key else 0), draw := (dk, true),
        plan := fun _ => (if ps ≤ 5 then run hash 1 else []) ++
          run .orangery (if ps ≤ 3 then 6 else if ps ≤ 5 then 17 else if ps = 6 then 6 else 17) }
    else if (op = 2 ∨ op = 3) ∧ ps ≤ 5 then
      let lead := if op = 2 then b else out + (if j.entry.keyh = 0 then key else 0)
      let rest := len - (lead + ctx)
      let ph := decide (ps = 3) || decide (ps = 5)
      let size := if len < lead + ctx || ctxBad || (ph && decide (rest ≠ 64)) then some Status.operandSize else none
      let m := edPrefixed ps ctx rest
      let f := { base with size := size, early := some (lead + ctx) }
      if op = 2 then
        some { f with
          keyUse := .secret 0, blobLen := b, outLen := out, draw := (ds, auxPredRes j),
          needs := streamNeeds (lead + ctx) rest 0 (term (pre + m)) per (pre + m - rest),
          plan := fun _ => run hash (term (pre + m)) ++ run .orangery (if small then 6 else 17) ++
            run hash (term (2 * pre + m)) ++ run .orangery 1 }
      else
        some { f with
          keyUse := .pub, needs := streamNeeds (lead + ctx) rest 0 (term (2 * pre + m)) per (2 * pre + m - rest),
          plan := fun _ => run hash (term (2 * pre + m)) ++ run .orangery (if small then 11 else 27) }
    else if op = 4 ∧ 6 ≤ ps then
      some { base with
        keyUse := .secret 4, creates := if auxKDest j then .slot else .nothing, newType := 0x3000, mayUse := 0x18,
        blobLen := b, size := exactly len (b + key), outLen := if auxKDest j then 0 else out,
        draw := (ds, auxPredRes j), plan := fun _ => run .orangery (if ps = 6 then 7 else 17) }
    else none

/-- How a family 0x11 job ends. A private key is the first bytes that KEYGEN draws; the rest blinds.
(PRESUMED, log entry 119) -/
def edEnding (s : State) (k : Nat) (j : Job) : State × Ending :=
  let op := operation j
  let ps := psetOf j
  let (key, out, _, _) := (edSizes ps).getD (0, 0, 0, 0)
  let b := blobLead j key
  let ctx := auxCtxLen j
  if op = 1 then
    let seed := slice j.drawn 0 key
    endKeygen s k j (0x1100 + ps) (auxKeyDest j) (if ps ≤ 5 then edPublic ps seed else montgomeryPublic ps seed) seed
  else if op = 2 then
    (s, Ending.out (edSign ps (privateOf j) (slice j.input b ctx) (j.input.drop (b + ctx))))
  else if op = 3 then
    let lead := if j.key.isSome then 0 else key
    (s, Ending.bare
      (match edVerify ps (publicOf j key) (slice j.input (lead + out) ctx) (slice j.input lead out)
          (j.input.drop (lead + out + ctx)) with
       | none => .pointInvalid
       | some ok => if ok then .ok else .verifyFail))
  else
    let sec := montgomery ps (privateOf j) (slice j.input b key)
    if sec.all (· = 0) then (s, Ending.zeros .pointInvalid (if auxKDest j then 0 else out))
    else endSecret s k j (auxKDest j) [] sec

/-! ## Family 0x12 (R208 to R211) -/

/-- X(w, Eb) of R211. -/
def rsaX (w eb : Nat) : Nat := ceilDiv (eb * w * (w + 16)) 9216 + 1

/-- The digest term G of R211. -/
def rsaG (k h : Nat) : Nat := ceilDiv (ceilDiv (k - h - 1) h) 8 + 1

/-- The facts of an RSA job. A PSS digest streams to its hash class (R194); v1.5 has none, and an OAEP message is an operand.
-/
def rsaFacts (isSealed : Bool) (j : Job) : Option Facts :=
  let op := operation j
  let ps := psetOf j
  let secret := decide (op = 1 ∨ op = 3 ∨ op = 6)
  let ph := auxPhash j
  let slen := auxBits j 7 0
  let h := (prehashLen ph).getD 0
  if op < 1 ∨ 6 < op ∨ ps < 4 ∨ 32 < ps ∨ (secret ∧ 16 < ps) ∨ ph < 1 ∨ 7 < ph then none
  else if (if op = 3 ∨ op = 4 then h else 0) < slen then none
  else
    let k := 32 * ps
    let w := 4 * ps
    let len := operandLen isSealed j
    let hashed := decide (3 ≤ op)
    let hash : UnitClass := if ph ≤ 4 then .sha2 else .maze
    let b := blobLead j (8 + 5 * k / 2)
    let lead := if j.entry.keyh = 0 then k + 8 else 0
    let o := if secret then 2 * rsaX (w / 2) (32 * w) + 4 else ceilDiv (w * w) 800
    let g := if hashed then run hash (rsaG k h) else []
    let base := { Facts.plain with
      classes := if hashed then [.orangery, hash] else [.orangery], placed := some .orangery, keyType := 0x1200 + ps }
    if op = 1 ∨ op = 3 then
      some { base with
        keyUse := .secret 0, blobLen := b, size := exactly len (b + h), outLen := k,
        early := if op = 3 then some b else none, needs := fun _ => b + h,
        draw := (k + 32 + (if op = 3 then slen else 0), auxPredRes j), plan := fun _ => g ++ run .orangery o }
    else if op = 2 ∨ op = 4 then
      some { base with keyUse := .pub, size := exactly len (lead + k + h), plan := fun _ => run .orangery o ++ g }
    else if op = 5 then
      some { base with
        keyUse := .pub, size := if lead ≤ len ∧ len - lead + 2 * h + 2 ≤ k then none else some .operandSize,
        outLen := k, draw := (h, auxPredRes j), plan := fun _ => g ++ run .orangery o }
    else
      some { base with
        keyUse := .secret 2, blobLen := b, size := exactly len (b + k), outLen := k - 2 * h - 2,
        draw := (k + 32, auxPredRes j), plan := fun _ => run .orangery o ++ g }

/-- A modulus and exponent given in the input break the first row of Table 8-12. -/
def rsaKeyBad (k : Nat) (pub : List Byte) : Bool :=
  let n := beNat (slice pub 0 k)
  let e := beNat (slice pub k 8)
  decide (n % 2 = 0) || !n.testBit (8 * k - 1) || decide (e % 2 = 0) || decide (e < 3)

/-- A private operation has failed its own check: the event names the engine and operand set on which the job's last
slice ran (R210). -/
def orangeryFault (s : State) (j : Job) : State :=
  logEvent s 3 0x0024 0xFFFF (BitVec.ofNat 8 (j.index / 8)) (leBytes 1 (j.index % 8))

/-- The encoded message of a signature: v1.5, or PSS with a salt of SLEN bytes, the last that the job drew (R209). -/
def rsaEncoded (j : Job) (digest : List Byte) : List Byte :=
  let k := 32 * psetOf j
  let ph := auxPhash j
  if operation j ≤ 2 then emsaV15 k (prehashOid ph) digest
  else emsaPss ph digest.length k digest (slice j.drawn (k + 32) (auxBits j 7 0))

/-- A private operation that fails the check by its public exponent ends so (R195, R210). -/
def rsaFault (s : State) (j : Job) (n : Nat) : State × Ending := (orangeryFault s j, Ending.zeros .internal n)

/-- How a private RSA operation ends (Table 8-12). A PSS message too long for its modulus has no result in the spec.
(DESIGN CHOICE, log entry 119) -/
def rsaPrivateEnding (s : State) (j : Job) : State × Ending :=
  let k := 32 * psetOf j
  let ph := auxPhash j
  let h := (prehashLen ph).getD 0
  let b := blobLead j (8 + 5 * k / 2)
  let key := rsaPrivate k (privateOf j)
  if operation j = 6 then
    let cap := k - 2 * h - 2
    let c := beNat (slice j.input b k)
    let v := key.raise c
    if key.n ≤ c then (s, Ending.zeros .operandRange cap)
    else match oaepDecode ph h k (beBytes k v) with
      | none => (s, Ending.zeros .verifyFail cap)
      | some m =>
        if key.checks c v then
          (s, { status := .ok, output := slice m 0 cap, result := BitVec.ofNat 128 m.length, newKey := none })
        else rsaFault s j cap
  else if operation j = 3 ∧ k < h + auxBits j 7 0 + 2 then
    (s, Ending.out (schemeBytes j.entry.opcode.toNat (psetOf j) .signature (slice j.input b h) (privateOf j) j.drawn k))
  else
    let m := beNat (rsaEncoded j (slice j.input b h))
    let v := key.raise m
    if key.checks m v then (s, Ending.out (beBytes k v)) else rsaFault s j k

/-- How a public RSA operation ends (Table 8-12). -/
def rsaPublicEnding (s : State) (j : Job) : State × Ending :=
  let op := operation j
  let k := 32 * psetOf j
  let ph := auxPhash j
  let h := (prehashLen ph).getD 0
  let lead := if j.key.isSome then 0 else k + 8
  let pub := publicOf j (k + 8)
  let n := beNat (slice pub 0 k)
  let e := beNat (slice pub k 8)
  let bad := j.key.isNone && rsaKeyBad k pub
  if op = 5 then
    if bad then (s, Ending.zeros .operandRange k)
    else (s, Ending.out (beBytes k (powMod (beNat (oaepEncode ph h k (j.input.drop lead) (slice j.drawn 0 h))) e n)))
  else
    let v := beNat (slice j.input lead k)
    let digest := slice j.input (lead + k) h
    let em := beBytes k (powMod v e n)
    let holds := if op = 2 then decide (em = rsaEncoded j digest) else pssVerifies ph h k (auxBits j 7 0) digest em
    (s, Ending.bare (if bad || decide (n ≤ v) then .operandRange else if holds then .ok else .verifyFail))

/-- How an RSA job ends. -/
def rsaEnding (s : State) (_ : Nat) (j : Job) : State × Ending :=
  if operation j = 1 ∨ operation j = 3 ∨ operation j = 6 then rsaPrivateEnding s j else rsaPublicEnding s j

/-! ## Family 0x13 (R212 to R214) -/

/-- The exponent length E of an EXP. -/
def bnExpWords (j : Job) : Nat := inlineField j 48 1

/-- KEEP. -/
def bnKeep (j : Job) : Bool := j.entry.aux.getLsbD 20

/-- Words of B: none for INV, E for EXP. -/
def bnBWords (j : Job) : Nat := if operation j = 4 then 0 else if operation j = 5 then bnExpWords j else psetOf j

/-- M, A and B: whether each is kept, its index, its words (Table 8-14). -/
def bnOperands (j : Job) : List (Bool × Nat × Nat) :=
  [(j.entry.aux.getLsbD 16, auxBits j 15 13, psetOf j), (j.entry.aux.getLsbD 12, auxBits j 11 9, psetOf j),
   (j.entry.aux.getLsbD 8 && decide (operation j ≠ 4), auxBits j 7 5, bnBWords j)]

/-- Input bytes: the operands that are not kept. -/
def bnInput (j : Job) : Nat := (bnOperands j).foldl (fun n o => if o.1 then n else n + 8 * o.2.2) 0

/-- The key of a kept operand. -/
def keptKey (a i : Nat) : Nat := 8 * a + i

/-- A kept operand that a job reads is empty or has another word count (R213). -/
def bnKeptBad (s : State) (k : Nat) (j : Job) : Bool :=
  (bnOperands j).any fun o => o.1 && !(match KMap.get? s.kept (keptKey (keyAllot k) o.2.1) with
    | some v => decide (v.words = o.2.2)
    | none => false)

/-- The operand values as they stand at dispatch, as bytes M, A, B (R213). (DESIGN CHOICE, log entry 35) -/
def bnGather (s : State) (k : Nat) (j : Job) : List Byte :=
  ((bnOperands j).foldl (fun (p : List Byte × Nat) o =>
    if o.1 then
      (p.1 ++ leBytes (8 * o.2.2) (((KMap.get? s.kept (keptKey (keyAllot k) o.2.1)).map Kept.value).getD 0), p.2)
    else (p.1 ++ slice j.input p.2 (8 * o.2.2), p.2 + 8 * o.2.2)) ([], 0)).1

/-- PUBEXP. -/
def bnPublicExponent (j : Job) : Bool := j.entry.aux.getLsbD 21

/-- The facts of a big-number job. -/
def bnFacts (isSealed : Bool) (j : Job) : Option Facts :=
  let op := operation j
  let w := psetOf j
  if op < 1 ∨ 6 < op ∨ w < 1 ∨ 128 < w then none
  else if op = 6 then some { Facts.plain with size := none }
  else
    let e := bnExpWords j
    let slices :=
      if op ≤ 3 then 1 else if op = 4 then ceilDiv w 4 + 1
      else if bnPublicExponent j then ceilDiv (64 * e * w * w) 51200 else rsaX w (64 * e)
    some { Facts.plain with
      classes := [.orangery], placed := some .orangery, size := exactly (operandLen isSealed j) (bnInput j),
      outLen := if bnKeep j then 0 else 8 * w,
      draw := if op = 5 && !bnPublicExponent j then (8 * e + 8, j.entry.aux.getLsbD 22) else (0, false),
      plan := fun _ => run .orangery slices }

/-- The value of a big-number operation, or the status it fails with (R212, R214). -/
def bnValue (op m a b : Nat) : Status ⊕ Nat :=
  if m % 2 = 0 ∨ m < 3 ∨ m ≤ a ∨ (op ≤ 3 ∧ m ≤ b) then .inl .operandRange
  else if op = 1 then .inr ((a + b) % m)
  else if op = 2 then .inr ((a + m - b) % m)
  else if op = 3 then .inr (a * b % m)
  else if op = 4 then
    match modInv a m with
    | some i => .inr i
    | none => .inl .notInvertible
  else .inr (powMod a b m)

/-- How a big-number job ends. An exponent length outside 1 to 128 has an undefined result, which is free
(R100). A value to keep waits in the job until its completion (R213). -/
def bnEnding (s : State) (k : Nat) (j : Job) : State × Ending :=
  let op := operation j
  let w := psetOf j
  let n := if bnKeep j then 0 else 8 * w
  if op = 6 then (s, Ending.bare .ok)
  else
    let m := fieldAt j.context 0 (8 * w)
    let a := fieldAt j.context (8 * w) (8 * w)
    let b := fieldAt j.context (16 * w) (8 * bnBWords j)
    let v : Status ⊕ Nat :=
      if op = 5 ∧ (bnExpWords j < 1 ∨ 128 < bnExpWords j) then
        .inr (leNat (schemeBytes j.entry.opcode.toNat w .message j.context [] (inlineBytes j) (8 * w)))
      else bnValue op m a b
    match v with
    | .inl st => (s, Ending.zeros st n)
    | .inr x =>
      if bnKeep j then (modJob s k fun y => { y with context := leBytes (8 * w) x }, Ending.bare .ok)
      else (s, Ending.out (leBytes (8 * w) x))

/-- What a big-number job leaves at its completion: a kept operand, or none and a freed block (R213).
(DEDUCED, log entry 54) -/
def bnComplete (s : State) (k : Nat) (j : Job) : State :=
  let a := keyAllot k
  if operation j = 6 then
    modAllot { s with kept := KMap.keep s.kept fun x _ => decide (x / 8 ≠ a) } a fun v => { v with keptBlock := false }
  else if bnKeep j then
    let v : Kept := { words := psetOf j, value := fieldAt j.context 0 (8 * psetOf j) }
    { s with kept := KMap.put s.kept (keptKey a (auxBits j 19 17)) v }
  else s

end Sys2Proof.Machine
end

