-- ==== Sys2Proof/Machine/Digest.lean ====
section
/-! DEFINITION. Digest jobs, families 0x20 and 0x21 (12_digest.md): entry facts, contexts, keyed states, export and
import. The algorithms are exact. -/
namespace Sys2Proof.Machine
open Sys2Proof

/-- Block and output bytes of a PSET; output 0 where OUTLEN gives it (Table 12-1). -/
def digestAlg : Nat → Option (Nat × Nat)
  | 0x01 => some (64, 28) | 0x02 => some (64, 32) | 0x03 => some (128, 48) | 0x04 => some (128, 64)
  | 0x05 => some (128, 32) | 0x08 => some (144, 28) | 0x09 => some (136, 32) | 0x0A => some (104, 48)
  | 0x0B => some (72, 64) | 0x0C => some (168, 0) | 0x0D => some (136, 0) | 0x0E => some (168, 0)
  | 0x0F => some (136, 0) | 0x10 => some (168, 0) | 0x11 => some (136, 0) | _ => none

/-- A SHA-2 algorithm. -/
def isSha2 (ps : Nat) : Bool := decide (ps ≤ 5)

/-- KMAC. -/
def isKmac (ps : Nat) : Bool := decide (ps = 0x10 ∨ ps = 0x11)

/-- The PSET belongs to the family. -/
def digestFamilyOk (fam ps : Nat) : Bool :=
  if fam = 0x20 then decide (ps ≤ 0x0F) else decide (ps ≤ 0x0B) || isKmac ps

/-- OUTLEN. -/
def outLenField (j : Job) : Nat := auxBits j 31 8

/-- The state slot of a keyed INIT or RELEASE. -/
def stateSlotField (j : Job) : Nat := inlineField j 48 2

/-- Blocks absorbed per slice (R291). -/
def betaOf (ps : Nat) : Nat := if isSha2 ps then 8 else 16

/-- The class of an algorithm. -/
def digestClass (ps : Nat) : UnitClass := if isSha2 ps then .sha2 else .maze

/-- Output bytes of a FINAL. -/
def finalLen (j : Job) (out : Nat) : Nat := if out = 0 then outLenField j else out

/-- The ranges of R285. -/
def digestFieldsOk (s : State) (k : Nat) (j : Job) (out : Nat) : Bool :=
  let fam := family j
  let op := operation j
  let slotUsed := decide (fam = 0x21) && decide (op = 1 ∨ op = 7)
  (if op = 3 ∧ out = 0 then decide (1 ≤ outLenField j) else decide (outLenField j = 0)) &&
    (if slotUsed then decide (stateSlotField j < stateSlotCount s (keyAllot k)) else decide (stateSlotField j = 0)) &&
    decide (inlineField j 50 14 = 0) && (decide (j.entry.keyh = 0) || (decide (fam = 0x21) && decide (op = 1 ∨ op = 6)))

/-- The facts of a digest job. -/
def digestFacts (s : State) (k : Nat) (isSealed : Bool) (j : Job) : Option Facts :=
  let fam := family j
  let op := operation j
  let ps := psetOf j
  match digestAlg ps with
  | none => none
  | some (r, out) =>
    if !digestFamilyOk fam ps || decide (op < 1 ∨ (if fam = 0x20 then 5 else 7) < op) || !digestFieldsOk s k j out then none
    else
      let len := operandLen isSealed j
      let f := len / r
      let aligned : Option Status := if len % r = 0 then none else some .blockAlign
      let cls := digestClass ps
      let keyed := decide (fam = 0x21)
      let q := if keyed && !isKmac ps then 1 else ceilDiv (finalLen j out) r - 1
      let base := { Facts.plain with keyType := 0x3000 }
      match op with
      | 1 => some { base with keyUse := if keyed then .slotOnly 3 else .none, size := exactly len 0 }
      | 2 => some { base with classes := [cls], size := aligned, plan := fun _ => run cls (ceilDiv f (betaOf ps)) }
      | 3 =>
        some { base with
          classes := [cls], size := if len = 0 then some .operandSize else aligned, outLen := finalLen j out,
          plan := fun _ => run cls (ceilDiv (f + (if out = 0 ∨ keyed then q else 0)) (betaOf ps)) }
      | 4 => some { base with size := exactly len 0, outLen := if keyed then 284 else 256 }
      | 5 => some { base with size := exactly len (if keyed then 284 else 256) }
      | 6 =>
        some { base with
          classes := [cls], keyUse := .slotOnly 3, creates := .stateSlot, plan := fun _ => run cls 1,
          size := if isKmac ps then
              (if len % r = 0 then (if 1 ≤ f ∧ f ≤ 14 then none else some .operandSize) else some .blockAlign)
            else exactly len 0 }
      | _ => some { base with size := exactly len 0 }

/-! ## Contexts -/

/-- An initial 200-byte state: SHA-2 chaining words little-endian, then zeros; Keccak zeros (Table 12-3). -/
def initialState (ps : Nat) : List Byte :=
  if isSha2 ps then slice ((sha2Init ps).flatMap fun w => leBytes (if sha2Small ps then 4 else 8) w) 0 200
  else zeroBytes 200

/-- Chaining words of a stored SHA-2 state. -/
def wordsAt (ps : Nat) (st : List Byte) : List Nat :=
  let n := if sha2Small ps then 4 else 8
  (List.range 8).map fun i => fieldAt st (n * i) n

/-- A stored SHA-2 state of chaining words. -/
def stateOfWords (ps : Nat) (h : List Nat) : List Byte :=
  slice (h.flatMap fun w => leBytes (if sha2Small ps then 4 else 8) w) 0 200

/-- Absorbs whole blocks exactly as given (R286). -/
def absorbAll (ps r : Nat) (st m : List Byte) : List Byte :=
  if isSha2 ps then stateOfWords ps (sha2Blocks ps r (m.length / r) (wordsAt ps st) m)
  else absorbBlocks r (m.length / r) st m

/-- The output of a state: the digest, or `n` squeezed bytes. -/
def outputOf (ps r n : Nat) (st : List Byte) : List Byte :=
  if isSha2 ps then slice (sha2Out ps (wordsAt ps st)) 0 n else squeeze r n st

/-- The final padded block of a message that one block precedes (HMAC's outer message). -/
def outerBlock (ps r : Nat) (d : List Byte) : List Byte :=
  if isSha2 ps then sha2Pad r r d else keccakPad r 0x06 d

/-- A digest of a whole message, for an HMAC key longer than a block. -/
def digestWhole (ps r out : Nat) (m : List Byte) : List Byte :=
  outputOf ps r out (absorbAll ps r (initialState ps) (if isSha2 ps then sha2Pad r 0 m else keccakPad r 0x06 m))

/-- A context as bytes: the copy a job works on (R290). -/
def contextBytes (c : DigestCtx) : List Byte :=
  slice c.state 0 200 ++ slice c.outer 0 200 ++ leBytes 8 c.blocks ++ leBytes 1 c.pset.toNat ++ leBytes 1 (bit c.keyed) ++
    leBytes 8 c.keyh.toNat

/-- The context of a copy. -/
def contextOf (b : List Byte) : DigestCtx :=
  { pset := BitVec.ofNat 8 (fieldAt b 408 1), keyed := decide (fieldAt b 409 1 = 1), blocks := fieldAt b 400 8,
    state := slice b 0 200, outer := slice b 200 200, keyh := BitVec.ofNat 64 (fieldAt b 410 8) }

/-- A job's entry arrived before another's: in an earlier tick, or in the same tick on a lower queue or before it on its
ring (R289). -/
def arrivedBefore (p q : Nat × Job) : Bool :=
  decide (p.2.arrival < q.2.arrival) || (decide (p.2.arrival = q.2.arrival) &&
    (decide (keyQueue p.1 < keyQueue q.1) || (decide (keyQueue p.1 = keyQueue q.1) && decide (p.2.order < q.2.order))))

/-- An earlier job of the allotment on the same context is in flight (R289). -/
def contextBusy (s : State) (k : Nat) (j : Job) : Bool :=
  namesContext j && s.jobs.any fun p => decide (keyAllot p.1 = keyAllot k) && namesContext p.2 &&
    decide (ctxNumber p.2 = ctxNumber j) && arrivedBefore p (k, j)

/-- The checks of R287 and R288 at dispatch; the block is taken whatever the outcome. -/
def digestDispatch (s : State) (k : Nat) (j : Job) : State × Option Status :=
  let a := keyAllot k
  let needBlock := namesContext j && decide (1 ≤ ctxNumber j) && !((KMap.get? s.allots a).map fun v => v.digestBlock).getD false
  if needBlock && decide (keyBlocksFree s a = 0) then (s, some .resource)
  else
    let s := if needBlock then modAllot s a fun v => { v with digestBlock := true } else s
    let op := operation j
    if 2 ≤ op ∧ op ≤ 4 then
      match KMap.get? s.digests (ctxKey a (ctxNumber j)) with
      | none => (s, some .resource)
      | some c =>
        if c.pset.toNat ≠ psetOf j then (s, some .opcodeUnknown)
        else if c.keyed ≠ decide (family j = 0x21) then (s, some .keyAttribute)
        else (modJob s k fun x => { x with context := contextBytes c }, none)
    else (s, none)

/-- HMAC states of a key after the ipad and opad blocks (R295, R296). -/
def hmacStates (ps r out : Nat) (key : List Byte) : List Byte × List Byte :=
  let k0 := slice (if r < key.length then digestWhole ps r out key else key) 0 r
  (absorbAll ps r (initialState ps) (k0.map (· ^^^ 0x36)), absorbAll ps r (initialState ps) (k0.map (· ^^^ 0x5C)))

/-- A context's record (Table 12-3). -/
def contextRecord (c : DigestCtx) : List Byte :=
  [0x44, 0x47, 0x53, 0x54, 1] ++ leBytes 1 c.pset.toNat ++ leBytes 1 (bit c.keyed) ++ [0] ++ leBytes 8 c.blocks ++
    slice c.state 0 200 ++ leBytes 8 (if c.keyed then c.keyh.toNat else 0) ++ zeroBytes 32

/-- The context of a record. Table 12-3 gives HMAC's outer state no place: a keyed import forms it from the key. -/
def recordContext (b : List Byte) : DigestCtx :=
  { pset := BitVec.ofNat 8 (fieldAt b 5 1), keyed := bitOf (fieldAt b 6 1) 0, blocks := fieldAt b 8 8,
    state := slice b 16 200, outer := [], keyh := BitVec.ofNat 64 (fieldAt b 216 8) }

/-- MAGIC, VERSION, ALG, FLAGS and the reserved bytes of a record (R301). -/
def recordSound (ps : Nat) (keyed : Bool) (b : List Byte) : Bool :=
  decide (slice b 0 5 = [0x44, 0x47, 0x53, 0x54, 1]) && decide (fieldAt b 5 1 = ps) &&
    decide (fieldAt b 6 1 = bit keyed) && decide (fieldAt b 7 1 = 0) && decide (fieldAt b 224 32 = 0) &&
    (keyed || decide (fieldAt b 216 8 = 0))

/-- The associated data of a keyed export: the allotment and six zero bytes. -/
def exportAad (a : Nat) : List Byte := leBytes 2 a ++ zeroBytes 6

/-- Whether a record's handle is still a live key of the allotment. -/
def liveHandle (s : State) (a : Nat) (h : W64) : Option Key := (findKey s a h.toNat).map fun p => p.2.2

/-- How a digest job ends. What the context becomes stands in the job's copy until its completion; an empty copy
empties the context. -/
def digestEnding (s : State) (k : Nat) (j : Job) : State × Ending :=
  let fam := family j
  let op := operation j
  let ps := psetOf j
  let a := keyAllot k
  let (r, out) := (digestAlg ps).getD (64, 32)
  let c := contextOf j.context
  let keep := fun (c : DigestCtx) => modJob s k fun x => { x with context := contextBytes c }
  match op with
  | 1 =>
    if fam = 0x20 then
      (keep { pset := BitVec.ofNat 8 ps, keyed := false, blocks := 0, state := initialState ps, outer := [], keyh := 0 },
        Ending.bare .ok)
    else
      (s, Ending.bare .ok)
  | 2 => (keep { c with state := absorbAll ps r c.state j.input, blocks := c.blocks + j.input.length / r }, Ending.bare .ok)
  | 3 =>
    let st := absorbAll ps r c.state j.input
    let o := finalLen j out
    let tag := if c.keyed && !isKmac ps then
        outputOf ps r o (absorbAll ps r c.outer (outerBlock ps r (outputOf ps r out st)))
      else outputOf ps r o st
    (modJob s k fun x => { x with context := [] }, Ending.out tag)
  | 4 =>
    if c.keyed then
      let nonce := leBytes 12 s.ice.exportNonce
      ({ s with ice.exportNonce := s.ice.exportNonce + 1 },
        Ending.out (nonce ++ gcmSeal s.ice.wrapKey nonce (exportAad a) (contextRecord c)))
    else (s, Ending.out (contextRecord c))
  | 5 =>
    if fam = 0x20 then
      if recordSound ps false j.input then (keep (recordContext j.input), Ending.bare .ok)
      else (s, Ending.bare .operandRange)
    else
      match gcmOpen s.ice.wrapKey (slice j.input 0 12) (exportAad a) (j.input.drop 12) with
      | none => (s, Ending.bare .verifyFail)
      | some b =>
        let x := recordContext b
        match liveHandle s a x.keyh with
        | none => (s, Ending.bare .keyHandle)
        | some key =>
          (keep { x with outer := if isKmac x.pset.toNat then [] else
              (hmacStates x.pset.toNat ((digestAlg x.pset.toNat).getD (64, 32)).1 ((digestAlg x.pset.toNat).getD (64, 32)).2
                key.priv).2 }, Ending.bare .ok)
  | 6 => (s, { Ending.bare .ok with result := BitVec.ofNat 128 (j.index) })
  | _ => (s, Ending.bare .ok)

/-- The state that a PREPARE leaves in its state slot (R295). -/
def preparedSlot (j : Job) : StateSlot :=
  let ps := psetOf j
  let (r, out) := (digestAlg ps).getD (64, 32)
  let key := privateOf j
  if isKmac ps then
    let m := j.input ++ bytepad (encodeString key) r
    { keyh := j.entry.keyh, pset := BitVec.ofNat 8 ps, blocks := m.length / r,
      state := absorbBlocks r (m.length / r) (zeroBytes 200) m, outer := [] }
  else
    let p := hmacStates ps r out key
    { keyh := j.entry.keyh, pset := BitVec.ofNat 8 ps, blocks := 1, state := p.1, outer := p.2 }

/-- What a successful digest job leaves at its completion (R290, R298): its context's copy, a prepared state slot, or
a zeroised one. (DEDUCED, log entry 55) -/
def digestComplete (s : State) (k : Nat) (j : Job) : State :=
  let a := keyAllot k
  let home := ctxKey a (ctxNumber j)
  match operation j with
  | 3 => { s with digests := KMap.drop s.digests home }
  | 4 => s
  | 6 => { s with ice.stateSlots := KMap.adjust s.ice.stateSlots (8 * a + j.index) fun _ => preparedSlot j }
  | 7 => { s with ice.stateSlots := KMap.drop s.ice.stateSlots (8 * a + stateSlotField j) }
  | _ =>
    if j.context = [] then s
    else
      let c := contextOf j.context
      if c.keyed && ((liveHandle s a c.keyh).isNone) then s
      else { s with digests := KMap.put s.digests home c }

/-- The context that a keyed INIT copies from its state slot at check 9 (R297). -/
def keyedInitContext (s : State) (k : Nat) (j : Job) : Option DigestCtx :=
  match KMap.get? s.ice.stateSlots (8 * keyAllot k + stateSlotField j) with
  | some t =>
    if t.keyh = j.entry.keyh ∧ t.pset.toNat = psetOf j then
      some { pset := t.pset, keyed := true, blocks := t.blocks, state := t.state, outer := t.outer, keyh := t.keyh }
    else none
  | none => none

end Sys2Proof.Machine
end

