-- ==== Sys2Proof/Machine/IceJobs.lean ====
section
/-! DEFINITION. The tenant key operations of family 0x30 (14_icehouse.md): entry facts, endings, and the Fumel
quote with its counter. -/
namespace Sys2Proof.Machine
open Sys2Proof

/-- Private bytes, public bytes and usable usage bits of a key type (Table 14-4); a loaded curve's sizes are those of
`curve`. -/
def keyShape (type levels : Nat) (curve : Nat × Nat) : Option (Nat × Nat × Nat) :=
  let fam := type / 256
  let ps := type % 256
  match fam with
  | 0x01 => (latticeSizes fam ps).map fun t => (t.2.1, t.1, 0x06)
  | 0x02 => (latticeSizes fam ps).map fun t => (t.2.1, t.1, 0x03)
  | 0x03 => (latticeSizes fam ps).map fun t => (t.2.1, t.1, 0x03)
  | 0x04 => if 1 ≤ ps ∧ ps ≤ 12 then
      let n := (slhSizes (if 7 ≤ ps then ps - 6 else ps)).1
      some (4 * n, 2 * n, 0x03) else none
  | 0x05 => (statefulSet 5 ps levels).map fun t => (statefulPrivate 5 t, statefulPublic 5 t, 0x43)
  | 0x06 => (statefulSet 6 ps 0).map fun t => (statefulPrivate 6 t, statefulPublic 6 t, 0x43)
  | 0x07 => (mcSizes ps).map fun t => (t.2.1, t.1, 0x06)
  | 0x08 => (hqcSizes ps).map fun t => (t.2.1, t.1, 0x06)
  | 0x10 => if ps = 0xFF then some (curve.2, 1 + 2 * curve.1, 0x13)
      else (builtinCurve ps).map fun t => (t.2.1, 1 + 2 * t.1, 0x13)
  | 0x11 => (edSizes ps).map fun t => (t.1, t.1, if ps ≤ 5 then 0x03 else 0x10)
  | 0x12 => if 4 ≤ ps ∧ ps ≤ 32 then some (8 + 80 * ps, 32 * ps + 8, 0x07) else none
  | 0x30 => if ps = 0 then some (0, 0, 0x38) else none
  | _ => none

/-- TYPE of an IMPORT or GENERATE. -/
def auxType (j : Job) : Nat := auxBits j 31 16

/-- KEYDEST of family 0x30. -/
def iceKeyDest (j : Job) : Bool := j.entry.aux.getLsbD 0

/-- KEY_BYTES of a GENERATE. -/
def generateBytes (j : Job) : Nat := auxBits j 15 1 * 8

/-- The lengths Lp, Ln of an allotment's loaded curves. -/
def curveSizes (s : State) (a : Nat) : List (Nat × Nat × Curve) :=
  (s.curves.filter fun p => decide (p.1 / 8 = a) && p.2.live && !p.2.unloading).map fun p =>
    (ceilDiv p.2.pbits 8, ceilDiv p.2.nbits 8, p.2)

/-- The KWP length of a clear length (R338). -/
def kwpLen (n : Nat) : Nat := 8 * ceilDiv n 8 + 8

/-- The request names verify as its only usage bit. -/
def verifyOnly (j : Job) : Bool := decide (inlineField j 50 1 = 2)

/-- The clear lengths an IMPORT of a type may have (R338). -/
def importLengths (s : State) (k : Nat) (j : Job) : List Nat :=
  let type := auxType j
  let fam := type / 256
  let one := fun (levels : Nat) (c : Nat × Nat) =>
    match keyShape type levels c with
    | some (priv, pub, _) => [if verifyOnly j then pub else if fam = 5 ∨ fam = 6 then 8 + priv + pub else priv + pub]
    | none => []
  if type = 0x3000 then (List.range 257).filter (16 ≤ ·)
  else if type = 0x10FF then (curveSizes s (keyAllot k)).flatMap fun c => one 0 (c.1, c.2.1)
  else if fam = 5 then (List.range 8).flatMap fun v => one (v + 1) (0, 0)
  else one 0 (0, 0)

/-- KEY_BYTES of an IMPORT by its input length. A wrapped symmetric key's clear length is known to eight bytes, which fix the
blob's length; of loaded curves whose keys have the length, the longest key counts. (DESIGN CHOICE, log entry 121) -/
def importBytes (s : State) (k : Nat) (j : Job) (len : Nat) : Nat :=
  let type := auxType j
  let fits := fun n => if j.entry.keyh = 0 then decide (n = len) else decide (kwpLen n = len)
  let one := fun (c : Nat × Nat) => match keyShape type 1 c with
    | some (priv, pub, _) => if verifyOnly j then (pub, pub) else (priv + pub, priv)
    | none => (0, 0)
  if type = 0x3000 then (if j.entry.keyh = 0 then len else len - 8)
  else if type = 0x10FF then
    (curveSizes s (keyAllot k)).foldl (fun m c => let p := one (c.1, c.2.1); if fits p.1 then max m p.2 else m) 0
  else (one (0, 0)).2

/-- A type that IMPORT may name (Table 14-4): every key type, private RSA keys to 0x1210 only. -/
def importTypeOk (j : Job) : Bool :=
  let type := auxType j
  let fam := type / 256
  if type = 0x3000 ∨ type = 0x10FF then true
  else if fam = 5 then (List.range 8).any fun v => (statefulSet 5 (type % 256) (v + 1)).isSome
  else if fam = 0x12 then decide (4 ≤ type % 256) && decide (type % 256 ≤ 32) && (verifyOnly j || decide (type % 256 ≤ 16))
  else fam ≠ 0x30 && (keyShape type 0 (0, 0)).isSome

/-- Key bytes of the key that a KEYH names, for an output length before the key is checked. -/
def namedKeyBytes (s : State) (k : Nat) (j : Job) : Nat :=
  ((findKey s (keyAllot k) j.entry.keyh.toNat).map fun p => p.2.2.keyBytes).getD 0

/-- The type that a KEYH names: a live key's, or that of the blob that leads the input. -/
def namedType (s : State) (k : Nat) (j : Job) : Nat :=
  if blobHandle j then fieldAt j.landed 6 2
  else ((findKey s (keyAllot k) j.entry.keyh.toNat).map fun p => p.2.2.type.toNat).getD 0

/-- The loaded curve of an allotment with the measurement that a key is bound to (R204, R330). -/
def boundCurve (s : State) (a : Nat) (binding : List Byte) : Option Curve :=
  ((curveSizes s a).find? fun c => decide (slice c.2.2.measurement 0 8 = binding)).map fun c => c.2.2

/-- Lp and Ln of a curve that may be absent. -/
def sizesOf (c : Option Curve) : Nat × Nat := (c.map fun c => (ceilDiv c.pbits 8, ceilDiv c.nbits 8)).getD (0, 0)

/-- Public bytes of a named key: a slot key's, or by the type and binding of the blob that leads the input. -/
def namedPublic (s : State) (k : Nat) (j : Job) : Nat :=
  match findKey s (keyAllot k) j.entry.keyh.toNat with
  | some p => p.2.2.pub.length
  | none =>
    let curve := sizesOf (boundCurve s (keyAllot k) (slice j.landed 24 8))
    ((keyShape (namedType s k j) 1 curve).map fun t => t.2.1).getD 0

/-- The blob that leads the input, by its own KEY_BYTES. -/
def leadingBlob (j : Job) : Nat := if blobHandle j then blobLength (fieldAt j.landed 12 4) else 0

/-- The facts of a family 0x30 job. -/
def iceFacts (s : State) (k : Nat) (isSealed : Bool) (j : Job) : Option Facts :=
  let op := operation j
  let len := operandLen isSealed j
  let lead := if blobHandle j then 32 else 0
  let blob := leadingBlob j
  if psetOf j ≠ 0 then none
  else match op with
    | 1 => if jobSealed s k then some { Facts.plain with outLen := 1568, size := exactly len 0 } else none
    | 2 =>
      if jobSealed s k then
        some { Facts.plain with
          classes := [.parterre], placed := some .parterre, creates := .channel, size := exactly len 1568,
          shared := true, plan := fun _ => run .parterre 14 }
      else none
    | 3 =>
      let type := auxType j
      let fam := type / 256
      let lens := importLengths s k j
      let ok := if j.entry.keyh = 0 then lens.contains len else lens.any fun n => decide (kwpLen n = len)
      let shape := keyShape type 1 (32, 32)
      let pub := (shape.map fun t => t.2.1).getD 0
      let kb := importBytes s k j len
      let maze := if fam = 2 then slicesS pub else 0
      if !importTypeOk j || (iceKeyDest j && decide (fam = 5 ∨ fam = 6)) then none
      else
        some { Facts.plain with
          classes := if 0 < maze then [.maze] else [], keyUse := .optSlot 5,
          creates := if iceKeyDest j then .blob else .slot, newType := type,
          mayUse := (shape.map fun t => t.2.2).getD 0x43, size := if ok then none else some .operandSize,
          outLen := if iceKeyDest j then blobLength kb else 0, plan := fun _ => run .maze maze }
    | 4 => some { Facts.plain with creates := .slot, newType := 0, mayUse := 0xFF }
    | 5 =>
      let n := generateBytes j
      if auxType j ≠ 0x3000 ∨ n < 16 ∨ 256 < n then none
      else
        some { Facts.plain with
          creates := if iceKeyDest j then .blob else .slot, newType := 0x3000, mayUse := 0x38, size := exactly len 0,
          outLen := if iceKeyDest j then blobLength n else 0, draw := (n, true) }
    | 6 =>
      some { Facts.plain with
        keyUse := .any, creates := .blob, newType := 0, mayUse := 0xFF, size := exactly len 0,
        outLen := blobLength (namedKeyBytes s k j) }
    | 7 =>
      some { Facts.plain with
        keyUse := .any, creates := .slot, newType := 0, mayUse := 0xFF, blobLen := blob, probe := lead,
        size := exactly len blob }
    | 8 =>
      some { Facts.plain with
        keyUse := .any, blobLen := blob, probe := lead, size := exactly len blob, outLen := namedPublic s k j }
    | 9 => some { Facts.plain with keyUse := .any, size := exactly len 0 }
    | 10 =>
      some { Facts.plain with keyUse := .any, blobLen := blob, probe := lead, size := exactly len blob, outLen := 32 }
    | 11 =>
      some { Facts.plain with classes := [.maze], size := exactly len 32, outLen := 288, plan := fun _ => run .maze 1 }
    | _ => none

/-! ## IMPORT and AUTH_IMPORT (R338, R339) -/

/-- What the family of an imported public part checks of it, then the private scalar (R338). -/
def importFault (type : Nat) (curve : Option Curve) (priv pub : List Byte) : Option Status :=
  let ps := type % 256
  match type / 256 with
  | 0x01 => if kemModulusOk ps pub then none else some .operandRange
  | 0x03 => if fnPublicOk ps pub then none else some .operandRange
  | 0x10 =>
    match (match curve with
      | some c => some (imageDomain c.image)
      | none => builtinDomain ps) with
    | none => none
    | some d =>
      match pointFault d ((pub.length - 1) / 2) pub with
      | some st => some st
      | none => if decide (priv ≠ []) && decide (beNat priv = 0 ∨ d.n ≤ beNat priv) then some .scalarRange else none
  | _ => none

/-- The curve of a loaded-curve import: the lowest index whose lengths fit. -/
def importCurve (s : State) (k : Nat) (j : Job) (len : Nat) : Option Curve :=
  ((curveSizes s (keyAllot k)).find? fun c =>
    decide (len = if verifyOnly j then 1 + 2 * c.1 else c.2.1 + 1 + 2 * c.1)).map fun c => c.2.2

/-- The clear input of an IMPORT, unwrapped under its wrap key (R338). -/
def importClear (j : Job) : Option (List Byte) :=
  match j.key with
  | some w => kwpUnwrap w.priv j.input
  | none => some j.input

/-- LEVELS that an LMS/HSS public key names: its first four bytes, big-endian. -/
def publicLevels (pub : List Byte) : Nat := beNat (slice pub 0 4)

/-- The key that a clear import holds for a type and request, and the loaded curve it belongs to; none where its length or
its level count is not one of the type's (R330, R338). -/
def importParts (s : State) (k : Nat) (j : Job) (type origin : Nat) (clear : List Byte) : Option (Key × Option Curve) :=
  let fam := type / 256
  let n := clear.length
  if type = 0x3000 then
    if 16 ≤ n ∧ n ≤ 256 then some (requestedKey k j type origin clear [], none) else none
  else if fam = 5 ∨ fam = 6 then
    let try' := fun (levels : Nat) => match statefulSet fam (type % 256) levels with
      | some t =>
        let pub := statefulPublic fam t
        let priv := statefulPrivate fam t
        if verifyOnly j then
          if n = pub ∧ (fam = 6 ∨ publicLevels clear = levels) then
            some (requestedKey k j type origin [] clear) else none
        else if n = 8 + priv + pub ∧ (fam = 6 ∨ publicLevels (clear.drop (8 + priv)) = levels) then
          let p := slice clear 8 priv
          some (statefulKey k j fam (type % 256) origin (fieldAt clear 0 8) t p (clear.drop (8 + priv)))
        else none
      | none => none
    ((List.range 8).findSome? fun v => try' (v + 1)).map fun key => (key, none)
  else
    let curve := if type = 0x10FF then importCurve s k j n else none
    match keyShape type 0 (sizesOf curve) with
    | none => none
    | some (priv, pub, _) =>
      let sec := if verifyOnly j then [] else slice clear 0 priv
      let out := if verifyOnly j then clear else clear.drop priv
      if n ≠ (if verifyOnly j then pub else priv + pub) then none
      else
        let key := requestedKey k j type origin sec out
        some ({ key with binding := ((curve.map fun c => slice c.measurement 0 8).getD key.binding) }, curve)

/-- The key that a clear import holds for a type and request, or the status it fails with. -/
def importKey (s : State) (k : Nat) (j : Job) (type origin : Nat) (clear : List Byte) : Status ⊕ Key :=
  match importParts s k j type origin clear with
  | none => .inl .operandSize
  | some (key, curve) =>
    match importFault type curve key.priv key.pub with
    | some st => .inl st
    | none => .inr key

/-- What an IMPORT shows at dispatch, when its input is unwrapped: an unwrapping that fails, and a clear length or a level count
that disagrees with the type (R89, R338). -/
def importDispatchFault (s : State) (k : Nat) (j : Job) : Option Status :=
  match importClear j with
  | none => some .keyHandle
  | some clear => if (importParts s k j (auxType j) 1 clear).isNone then some .operandSize else none

/-- Ends an IMPORT: into its slot, or as a blob. -/
def importEnding (s : State) (k : Nat) (j : Job) : State × Ending :=
  match importClear j with
  | none => (s, Ending.bare .keyHandle)
  | some clear =>
    match importKey s k j (auxType j) 1 clear with
    | .inl st => (s, Ending.bare st)
    | .inr key =>
      if iceKeyDest j then
        let p := takeSerial s (keyAllot k)
        (p.1, { status := .ok, output := wrapBlob s (keyAllot k) p.2 key,
                result := (blobHandleOf s (keyAllot k) p.2).setWidth 128, newKey := none })
      else
        (s, { status := .ok, output := [], result := ((j.slot.map (slotHandle s)).getD 0).setWidth 128,
              newKey := some key })

/-- The opening of a package to the enrolment key: the ML-KEM-1024 shared secret. -/
def enrolSecret (s : State) (ct : List Byte) : List Byte :=
  schemeBytes 0x0103 3 .sharedSecret ct (enrolSeed s) [] 32

/-- The anchor key's hash is the fused one, and its ML-DSA-87 signature verifies under the context (R339). -/
def anchorSigned (s : State) (ctx : String) (anchor sig m : List Byte) : Bool :=
  decide (sha3_256 anchor = s.otp.anchorHash) &&
    dsaHolds 3 anchor sig (messageRep false 0 (ascii ctx) m)

/-- Ends an AUTH_IMPORT: every refusal is ST_VERIFY_FAIL (R339). -/
def authImportEnding (s : State) (k : Nat) (j : Job) : State × Ending :=
  let m := j.input
  let n := m.length
  let tail := 2592 + 4627
  if n < 32 + 1568 + 16 + tail then (s, Ending.bare .verifyFail)
  else
    let hd := slice m 0 32
    let body := n - tail
    let anchor := slice m body 2592
    let sound := decide (slice hd 0 6 = [0x41, 0x4B, 0x45, 0x59, 1, 0]) && decide (fieldAt hd 6 2 = keyAllot k) &&
      decide (fieldAt hd 8 8 = s.otp.deviceId.toNat) && decide (fieldAt hd 21 11 = 0)
    if !(sound && anchorSigned s "STRELDOZIN-AUTH" anchor (m.drop (body + 2592)) (slice m 0 (body + 2592))) then
      (s, Ending.bare .verifyFail)
    else match gcmOpen (enrolSecret s (slice m 32 1568)) (zeroBytes 12) hd (slice m 1600 (body - 1600)) with
      | none => (s, Ending.bare .verifyFail)
      | some clear =>
        let inl := leBytes 2 0 ++ slice hd 18 3 ++ zeroBytes 11
        match importKey s k { j with inl := BitVec.ofNat 128 (leNat inl) } (fieldAt hd 16 2) 2 clear with
        | .inl st => (s, Ending.bare st)
        | .inr key =>
          (s, { status := .ok, output := [], result := ((j.slot.map (slotHandle s)).getD 0).setWidth 128,
                newKey := some key })

/-! ## The quote (R346, R347) -/

/-- The life-cycle byte of a quote. -/
def quoteLifeCycle (s : State) : Nat := if s.lc.debug then 4 else s.lc.inForce

/-- The twin byte of a quote. -/
def quoteTwin (s : State) : Nat :=
  if !s.bridge.paired then 0
  else (if s.bridge.solo then 3 else 1) + bit (s.boot.straps.getLsbD 4)

/-- Bytes 0 to 255 of a quote (Table 14-10). -/
def quoteBody (s : State) (a counter : Nat) (challenge : List Byte) : List Byte :=
  [0x46, 0x55, 0x4D, 0x4C, 1, 0] ++ leBytes 2 a ++ leBytes 8 s.otp.deviceId.toNat ++ leBytes 1 (quoteLifeCycle s) ++
    leBytes 1 (quoteTwin s) ++ leBytes 2 s.lodge.sticky.toNat ++ leBytes 4 s.stores.patchLevel.toNat ++
    leBytes 4 s.boot.rollback ++ leBytes 4 ((s.stores.image.map fun i => i.id.toNat).getD 0) ++
    slice s.boot.firmware 0 32 ++ slice s.stores.patchMeasurement 0 32 ++
    ((s.stores.image.map fun i => slice i.measurement 0 32).getD (zeroBytes 32)) ++ leBytes 8 s.journal.next ++
    slice s.journal.head 0 32 ++ leBytes 8 counter ++ leBytes 8 s.lodge.secTime.toNat ++ leBytes 8 s.ice.enrolCount ++
    (if ((KMap.get? s.allots a).map fun v => v.isSealed).getD false then sha3_256 (sealPublic s a) else zeroBytes 32) ++
    slice challenge 0 32

/-- The 288-byte quote. (DEDUCED, log entry 57) -/
def quoteBytes (s : State) (a counter : Nat) (challenge : List Byte) : List Byte :=
  let b := quoteBody s a counter challenge
  b ++ kmac256 (s.ice.secret.getD []) b 32 "SDZ-FUMEL"

/-- The next block of the quote counter that this device may reserve: 65,536 values a block, from 1 (R347). -/
def nextQuoteBlock (s : State) : Option Nat :=
  some (if inSolo s then ownBlock s s.ice.quoteNext else s.ice.quoteNext)

/-- A quote job takes the next value of the live block. -/
def takeQuote (s : State) (k : Nat) : State :=
  match s.ice.quoteLive with
  | some (v, e) =>
    let s := modJob s k fun j => { j with index := v, waits := j.waits.filter fun w => decide (w ≠ .quoteBlock) }
    { s with ice.quoteLive := if v + 1 < e then some (v + 1, e) else none, ice.quoteCount := v }
  | none => s

/-- Ends the open quote reservation in failure. -/
def failQuote (s : State) (st : Status) : State :=
  let ks := s.ice.quoteJoined
  ks.foldl (fun s k => endJob s k st) { s with ice.quoteOpened := none, ice.quoteJoined := [] }

/-- Opens the reservation of the next block of values for some jobs (R173, R174, R347). -/
def openQuote (s : State) (ks : List Nat) : State :=
  let s := { s with ice.quoteJoined := ks }
  match nextQuoteBlock s with
  | none => failQuote s .stateExhausted
  | some b =>
    if !vaultWritable s then failQuote s .vaultMedia
    else
      let body := leBytes 8 0 ++ leBytes 8 (65536 * b + 1) ++ leBytes 8 65536
      let a := (ks.head?.map keyAllot).getD 0
      let p := postRecord s 4 1 0xFFFF a body
      let s := { p.1 with ice.quoteOpened := some b, ice.quoteJoined := ks }
      let s := ks.foldl (fun s k => modJob s k fun j =>
        { j with waits := if j.waits.contains .quoteBlock then j.waits else j.waits ++ [.quoteBlock] }) s
      if mirrors s then (openCommit s a 9 0 (leBytes 8 b) [p.2] none).1 else s

/-- A block of quote values becomes live. -/
def commitQuote (s : State) (b : Nat) : State :=
  let ks := s.ice.quoteJoined
  let s := { s with
    ice.quoteLive := some (65536 * b + 1, 65536 * b + 65537), ice.quoteOpened := none, ice.quoteJoined := [],
    ice.quoteNext := max s.ice.quoteNext (b + 1) }
  let s := (ks.take 65536).foldl takeQuote s
  if ks.drop 65536 = [] then s else openQuote s (ks.drop 65536)

/-- A dispatched quote takes a value, joins the open reservation, or opens one. -/
def joinQuote (s : State) (k : Nat) : State :=
  match s.ice.quoteLive, s.ice.quoteOpened with
  | some _, _ => takeQuote s k
  | none, some _ =>
    modJob { s with ice.quoteJoined := s.ice.quoteJoined ++ [k] } k fun j => { j with waits := j.waits ++ [.quoteBlock] }
  | none, none => openQuote s [k]

/-! ## Endings -/

/-- A key's public encoding of `n` bytes: held, or computed from the private part of a blob (R137, R208, R337). ML-KEM and
SLH-DSA private encodings contain it (PRESUMED, log entry 117); for ML-DSA, FN-DSA, Classic McEliece and HQC it is what the
scheme yields. -/
def publicEncoding (s : State) (a : Nat) (key : Key) (n : Nat) : List Byte :=
  let type := key.type.toNat
  let ps := type % 256
  if key.pub = [] then
    match type / 256 with
    | 0x01 => slice key.priv (384 * (ps + 1)) n
    | 0x04 => key.priv.drop (key.priv.length - n)
    | 0x10 =>
      let d := if ps = 0xFF then (boundCurve s a (slice key.binding 0 8)).map fun c => imageDomain c.image else builtinDomain ps
      pointBytes ((n - 1) / 2) (d.bind fun d => d.mulG (beNat key.priv))
    | 0x11 => if ps ≤ 5 then edPublic ps key.priv else montgomeryPublic ps key.priv
    | 0x12 => rsaPublicOf (32 * ps) key.priv
    | _ => schemeBytes (256 * (type / 256) + 1) ps .publicKey [] key.priv [] n
  else key.pub

/-- The key that an UNWRAP puts into its slot: with its public half, where its type has one (R137). -/
def unwrappedKey (s : State) (k : Nat) (j : Job) (key : Key) : Key :=
  if key.type = 0x3000 then key else { key with pub := publicEncoding s (keyAllot k) key (namedPublic s k j) }

/-- How a family 0x30 job ends. -/
def iceEnding (s : State) (k : Nat) (j : Job) : State × Ending :=
  let a := keyAllot k
  let slotResult := ((j.slot.map (slotHandle s)).getD 0).setWidth 128
  match operation j with
  | 1 => (s, Ending.out (sealPublic s a))
  | 2 =>
    let ss := schemeBytes 0x0103 3 .sharedSecret (slice j.input 0 1568) (sealSeed s a) [] 32
    (modJob s k fun x => { x with context := kmac256 ss (leBytes 2 a ++ saltOf s a) 32 "SDZ-CHANNEL" }, Ending.bare .ok)
  | 3 => importEnding s k j
  | 4 => authImportEnding s k j
  | 5 =>
    let key := requestedKey k j 0x3000 0 j.drawn []
    if iceKeyDest j then
      let p := takeSerial s a
      (p.1, { status := .ok, output := wrapBlob s a p.2 key, result := (blobHandleOf s a p.2).setWidth 128,
              newKey := none })
    else (s, { status := .ok, output := [], result := slotResult, newKey := some key })
  | 6 =>
    match j.key with
    | some key =>
      let p := takeSerial s a
      (p.1, { status := .ok, output := wrapBlob s a p.2 key, result := (blobHandleOf s a p.2).setWidth 128,
              newKey := none })
    | none => (s, Ending.bare .keyHandle)
  | 7 => (s, { status := .ok, output := [], result := slotResult, newKey := j.key.map (unwrappedKey s k j) })
  | 8 => (s, match j.key with
      | some key => Ending.out (publicEncoding s a key (namedPublic s k j))
      | none => Ending.bare .keyHandle)
  | 9 => (s, Ending.bare .ok)
  | 10 => (s, match j.key with
      | some key => Ending.out (attributeRecord key (decide (handleKind j.entry.keyh.toNat = 3)) j.entry.keyh)
      | none => Ending.bare .keyHandle)
  | _ => (s, Ending.out (quoteBytes s a j.index j.input))

end Sys2Proof.Machine
end

