-- ==== Sys2Proof/Machine/Plot.lean ====
section
/-! DEFINITION. Bed memory: the bytes, halves and words of a plot, its provenance bits and its slice context
(09_parterre.md R228, R235; 10_vector_isa.md R241, R243). A plot is the one memory of the device that the model
holds by address. An unlisted byte reads 0, as R48 and R241 leave a zeroed plot. -/
namespace Sys2Proof.Machine
open Sys2Proof

/-- Addressed bytes: pairs of an address and a byte. -/
abbrev Memory := List Host.Cell

/-- Every address is above a bound, the addresses rise, and no byte is 0. -/
def Memory.above : Nat → Memory → Bool
  | _, [] => true
  | b, (a, v) :: m => decide (b ≤ a) && decide (v ≠ 0) && Memory.above (a + 1) m

/-- The canonical form: addresses strictly rising, and no entry equal to what an unlisted address reads as. -/
def Memory.wf (m : Memory) : Bool := Memory.above 0 m

/-- Reads one byte. (DEDUCED, log entry 13) -/
def Memory.read : Memory → Nat → Byte
  | [], _ => 0
  | (a, v) :: m, i => if i = a then v else Memory.read m i

/-- Puts a byte other than 0. -/
def Memory.insert : Memory → Nat → Byte → Memory
  | [], i, b => [(i, b)]
  | (a, v) :: m, i, b =>
    if i < a then (i, b) :: (a, v) :: m
    else if i = a then (i, b) :: m
    else (a, v) :: Memory.insert m i b

/-- Removes a byte. -/
def Memory.erase : Memory → Nat → Memory
  | [], _ => []
  | (a, v) :: m, i => if i = a then m else (a, v) :: Memory.erase m i

/-- Writes one byte; writing 0 removes the entry. -/
def Memory.write (m : Memory) (i : Nat) (b : Byte) : Memory :=
  if b = 0 then Memory.erase m i else Memory.insert m i b

/-- Writes bytes from an address on. -/
def Memory.writeBytes : Memory → Nat → List Byte → Memory
  | m, _, [] => m
  | m, i, b :: l => Memory.writeBytes (Memory.write m i b) (i + 1) l

/-- Reads `n` bytes. -/
def Memory.readBytes (m : Memory) (i n : Nat) : List Byte := (List.range n).map fun d => Memory.read m (i + d)

/-- The 32-bit half `h` of a plot: bytes 4h to 4h + 3 (R243). -/
def Plot.half (p : Plot) (h : Nat) : W32 := BitVec.ofNat 32 (leNat (Memory.readBytes p.mem (4 * h) 4))

/-- A word carries provenance (R222). -/
def Plot.tainted (p : Plot) (w : Nat) : Bool := p.prov.contains w

/-- Writes one half. A word keeps a provenance bit of its other half; a set bit is never lost this way. -/
def Plot.putHalf (p : Plot) (h : Nat) (v : W32) (prov : Bool) : Plot :=
  { p with
    mem := Memory.writeBytes p.mem (4 * h) (leBytes 4 v.toNat),
    prov := if prov then insertNat (h / 2) p.prov else p.prov }

/-- Writes bytes into a plot: plot fill, and results of the Maze (R233, R234). -/
def Plot.fill (p : Plot) (i : Nat) (bs : List Byte) : Plot := { p with mem := Memory.writeBytes p.mem i bs }

/-- Routine data ends at word 7,936 (R228). -/
def plotWords : Nat := 7936

/-- One plot of the device. -/
def plotAt (s : State) (k : Nat) : Plot := KMap.getD s.plots k Plot.zero

/-- Replaces one plot. -/
def setPlot (s : State) (k : Nat) (p : Plot) : State := { s with plots := KMap.put s.plots k p }

/-- Zeroes one plot. -/
def dropPlot (s : State) (k : Nat) : State := { s with plots := KMap.drop s.plots k }

end Sys2Proof.Machine
end

