-- ==== Sys2Proof/Machine/Trellis.lean ====
section
/-! DEFINITION. The control stores as they are fetched from: the routine ROM and the microcode ROM behind the Trellis match
registers, and the fields of a microword (11_control_stores.md R263, R265, R267, R268). -/
namespace Sys2Proof.Machine
open Sys2Proof

/-! ## Match registers (R267) -/

/-- A ROM behind the Trellis: SPACE 0 routine ROM, 1 microcode ROM. -/
inductive RomSpace where
  | routine | micro
deriving DecidableEq, Repr

/-- A match register by the fields of Table 11-4. -/
structure MatchReg where
  valid : Bool
  space : RomSpace
  /-- segment length in patch words, minus 1 -/
  length : Nat
  resume : Nat
  address : Nat
  target : Nat
deriving DecidableEq, Repr

/-- The fields of a match register. -/
def matchReg (w : W64) : MatchReg :=
  let f := fun hi lo => bitsOf w.toNat hi lo
  { valid := w.getLsbD 63, space := if w.getLsbD 62 then .micro else .routine, length := f 58 48, resume := f 47 32,
    address := f 31 16, target := f 10 0 }

/-- A fetch from a ROM address meets a match register. -/
def MatchReg.meets (m : MatchReg) (space : RomSpace) (a : Nat) : Bool :=
  m.valid && decide (m.space = space) && decide (m.address = a)

/-- The segment that a match register redirects to. -/
def MatchReg.segment (m : MatchReg) : Segment := { first := m.target, last := m.target + m.length, resume := m.resume }

/-! ## Fetching (R268) -/

/-- The segment that stands for a ROM address. -/
def redirect (ms : List W64) (space : RomSpace) (a : Nat) : Option Segment :=
  ((ms.map matchReg).find? fun m => m.meets space a).map MatchReg.segment

/-- Where a fetch from a ROM address lands: the first word of a segment, or the ROM word. -/
def landing (s : State) (space : RomSpace) (a : Nat) : Nat × Option Segment :=
  match redirect s.stores.match64 space a with
  | some g => (g.first, some g)
  | none => (a, none)

/-- The word at a place: of patch memory inside a segment, else of the ROM. -/
def romWord (s : State) (space : RomSpace) (p : Nat × Option Segment) : W32 :=
  match p.2, space with
  | some _, _ => s.stores.patchWords.getD p.1 0
  | none, .routine => Config.routineRom p.1
  | none, .micro => Config.microRom p.1

/-- The place after one that ran on to the next word `next`: past the last word of a segment, RESUME; a ROM address may
land on a segment again. -/
def followOn (land : Nat → Nat × Option Segment) (seg : Option Segment) (pc next : Nat) : Nat × Option Segment :=
  match seg with
  | some g => if decide (pc = g.last) && decide (next = pc + 1) then land g.resume else (next, seg)
  | none => land next

/-- Where the vendor routine of a job begins. -/
def vendorEntry (s : State) (j : Job) : Nat × Option Segment :=
  landing s .routine (Config.vendorRoutine j.entry.opcode (psetOf j)).1

/-! ## Microwords (R265) -/

/-- The microword classes of Table 11-3. -/
inductive MicroClass where
  | wait | laneAlu | laneMul | bfly | perm | bedRd | bedWr | gadget | keccak | sample | maskch | scalar | seq | ctx
  | fabric | keyport
deriving DecidableEq, Repr

/-- The class that CLASS names; 0x10 to 0x1F are reserved. -/
def microClass : Nat → Option MicroClass
  | 0x00 => some .wait
  | 0x01 => some .laneAlu
  | 0x02 => some .laneMul
  | 0x03 => some .bfly
  | 0x04 => some .perm
  | 0x05 => some .bedRd
  | 0x06 => some .bedWr
  | 0x07 => some .gadget
  | 0x08 => some .keccak
  | 0x09 => some .sample
  | 0x0A => some .maskch
  | 0x0B => some .scalar
  | 0x0C => some .seq
  | 0x0D => some .ctx
  | 0x0E => some .fabric
  | 0x0F => some .keyport
  | _ => none

/-- A microword by the fields of Table 11-2. -/
structure Microword where
  cls : Option MicroClass
  dest : Nat
  srca : Nat
  srcb : Nat
  ctrl : Nat
deriving DecidableEq, Repr

/-- The fields of a microword. -/
def microword (w : W32) : Microword :=
  let f := fun hi lo => bitsOf w.toNat hi lo
  { cls := microClass (f 31 27), dest := f 26 22, srca := f 21 17, srcb := f 16 12, ctrl := f 11 0 }

/-- The idle cycles of a microword: CTRL of a WAIT. -/
def Microword.idle (m : Microword) : Nat := if m.cls = some .wait then m.ctrl else 0

/-- The microword that a fetch from a microcode address gives, and the segment it came from. -/
def microFetch (s : State) (a : Nat) : Microword × Option Segment :=
  let p := landing s .micro a
  (microword (romWord s .micro p), p.2)

end Sys2Proof.Machine
end

