-- ==== Sys2Proof/Machine/Lanes.lean ====
section
/-! DEFINITION. The lanes of a parterre: elements in two shares, share modes, residues, masks, positions in the plot,
private cores and cycle costs (09_parterre.md R216 to R237; 10_vector_isa.md R240 to R248). -/
namespace Sys2Proof.Machine
open Sys2Proof

/-! ## Fault codes (Table 10-5, Table 11-9) -/

/-- ILLEGAL. -/
def fltIllegal : Nat := 0x0001
/-- MODE. -/
def fltMode : Nat := 0x0002
/-- PLOT_BOUND. -/
def fltPlotBound : Nat := 0x0003
/-- PROVENANCE. -/
def fltProvenance : Nat := 0x0004
/-- KEY. -/
def fltKey : Nat := 0x0005
/-- OVERRUN. -/
def fltOverrun : Nat := 0x0006
/-- PRIVILEGED. -/
def fltPrivileged : Nat := 0x0007
/-- VALUE. -/
def fltValue : Nat := 0x0008
/-- BRANCH. -/
def fltBranch : Nat := 0x0009
/-- IDEMPOTENCE. -/
def fltIdempotence : Nat := 0x0104

/-! ## What an instruction sees -/

/-- The job around a slice body: whether it runs from the Open store, its routine's extent, the most output END may
write, the load view of its key, its resident public key, and its Maze context. -/
structure Env where
  isOpen : Bool
  start : Nat
  words : Nat
  maxOut : Nat
  keyView : Option (List Byte)
  resident : Option (List Byte)
  maze : Option MazeCtx
  /-- the word after the present one -/
  next : W32
  /-- where a fetch from a routine address lands (R268) -/
  land : Nat → Nat × Option Segment
  /-- the bytes of SWM that the job's allotment has (R235, R250) -/
  swmBytes : Nat

/-- A slice body at work: its registers, its plot, the SWM of its allotment, and the number of free values taken. -/
structure Vm where
  body : Body
  plot : Plot
  swm : Swm
  free : Nat

/-- What an instruction does: the new registers and plot, or a fault code (R260). -/
abbrev Effect := Env → Vm → Except Nat Vm

/-! ## Registers -/

/-- A scalar; s0 reads 0. -/
def sreg (m : Vm) (r : Nat) : W32 := if r = 0 then 0 else m.body.sregs.getD r 0

/-- Writes a scalar; writes to s0 are ignored. -/
def setSreg (m : Vm) (r : Nat) (v : W32) : Vm :=
  if r = 0 then m else { m with body.sregs := m.body.sregs.set r v }

/-- A mask register. -/
def mreg (m : Vm) (k : Nat) : MaskReg := m.body.mregs.getD k MaskReg.zero

/-- Writes a mask register; a provenance bit that it carries stays until the register is zeroed (R222). (DEDUCED, log
entry 62) -/
def setMreg (m : Vm) (k : Nat) (v : MaskReg) : Vm :=
  { m with body.mregs := m.body.mregs.set k { v with prov := v.prov || (mreg m k).prov } }

/-- The mode in which a vector register is held. (DEDUCED, log entry 61) -/
def vmode (m : Vm) (r : Nat) : ShareMode := KMap.getD m.body.vmodes r .unshared

/-- Records the mode of a written register. -/
def setVmode (m : Vm) (r : Nat) (d : ShareMode) : Vm := { m with body.vmodes := KMap.put m.body.vmodes r d }

/-- One 32-bit slot of a vector register (R217). -/
def slotAt (m : Vm) (r i : Nat) : Elem := KMap.getD m.body.vregs (256 * r + i) ⟨0, 0, false⟩

/-- Writes one slot; a provenance bit that it carries stays until the register is zeroed (R222). (DEDUCED, log entry 62) -/
def setSlot (m : Vm) (r i : Nat) (e : Elem) : Vm :=
  { m with body.vregs := KMap.put m.body.vregs (256 * r + i) { e with prov := e.prov || (slotAt m r i).prov } }

/-- Bits of an element. -/
def elemBits (m : Vm) : Nat := if m.body.wide then 64 else 32

/-- VLMAX. -/
def vlMax (wide : Bool) : Nat := if wide then 128 else 256

/-- An element's value in each share and its provenance; a 64-bit element takes the slots 2j and 2j + 1 (R218). -/
def elemAt (m : Vm) (r j : Nat) : Nat × Nat × Bool :=
  if m.body.wide then
    let a := slotAt m r (2 * j)
    let b := slotAt m r (2 * j + 1)
    (a.s0.toNat + 2 ^ 32 * b.s0.toNat, a.s1.toNat + 2 ^ 32 * b.s1.toNat, a.prov || b.prov)
  else
    let a := slotAt m r j
    (a.s0.toNat, a.s1.toNat, a.prov)

/-- Writes an element. -/
def setElem (m : Vm) (r j : Nat) (e : Nat × Nat × Bool) : Vm :=
  if m.body.wide then
    setSlot (setSlot m r (2 * j) ⟨BitVec.ofNat 32 e.1, BitVec.ofNat 32 e.2.1, e.2.2⟩) r (2 * j + 1)
      ⟨BitVec.ofNat 32 (e.1 / 2 ^ 32), BitVec.ofNat 32 (e.2.1 / 2 ^ 32), e.2.2⟩
  else setSlot m r j ⟨BitVec.ofNat 32 e.1, BitVec.ofNat 32 e.2.1, e.2.2⟩

/-- A mask bit that is fresh for element `j` of this instruction. -/
def maskWord (m : Vm) (j : Nat) : Nat := (Config.freeWord (m.free + j)).toNat

/-- Takes `n` fresh words. -/
def takeFree (m : Vm) (n : Nat) : Vm := { m with free := m.free + n }

/-! ## Modes and masks (R221, R248) -/

/-- A source that the present mode can take: unshared, or held in that mode. -/
def usable (m : Vm) (r : Nat) : Bool := decide (vmode m r = .unshared) || decide (vmode m r = m.body.mode)

/-- The instruction is admitted, or faults with a code. -/
def need (c : Bool) (code : Nat) (m : Vm) : Except Nat Vm := if c then .ok m else .error code

/-- The elements that an instruction under a mask field writes; a mask that is shared or carries provenance faults. -/
def activeMask (m : Vm) (k : Nat) : Except Nat (Nat → Bool) :=
  if k = 0 then .ok fun _ => true
  else if (mreg m k).shared || (mreg m k).prov then .error fltMode
  else .ok fun j => (mreg m k).s0.getLsbD j

/-- Writes every active element from a function of its index, in the present mode. (DEDUCED, log entry 62) -/
def writeElems (m : Vm) (rd : Nat) (d : ShareMode) (act : Nat → Bool) (f : Nat → Nat × Nat × Bool) : Vm :=
  if m.body.vl = 0 then m
  else (List.range m.body.vl).foldl (fun x j => if act j then setElem x rd j (f j) else x) (setVmode m rd d)

/-- An element-wise instruction under a mask field. -/
def elementwise (rd k : Nat) (f : Vm → Nat → Nat × Nat × Bool) (m : Vm) : Except Nat Vm :=
  match activeMask m k with
  | .error c => .error c
  | .ok act => .ok (writeElems m rd m.body.mode act (f m))

/-! ## Arithmetic (R218, R219, R247) -/

/-- The modulus of the present width. -/
def modulus (m : Vm) : Nat := if m.body.wide then 2 ^ 64 else m.body.vmod

/-- An operand as a residue: unsigned, or signed under signed VTYPE. -/
def residue (m : Vm) (x : Nat) : Nat :=
  if m.body.wide then x % 2 ^ 64
  else if m.body.signed && decide (2 ^ 31 ≤ x) then (x + (2 ^ 32 * m.body.vmod - 2 ^ 32)) % m.body.vmod
  else x % m.body.vmod

/-- The canonical representative of a residue: [0, q), or (−q/2, q/2] in two's complement when signed. -/
def canonical (m : Vm) (n : Nat) : Nat :=
  if m.body.wide then n % 2 ^ 64
  else
    let q := m.body.vmod
    let r := n % q
    if m.body.signed && decide (q < 2 * r) then 2 ^ 32 - (q - r) else r

/-- A scalar as an operand of the present width, signed under signed VTYPE. -/
def scalarOperand (m : Vm) (v : W32) : Nat :=
  if m.body.wide then (if m.body.signed then (v.signExtend 64).toNat else v.toNat) else v.toNat

/-- Sum of residues. -/
def addMod (m : Vm) (a b : Nat) : Nat := canonical m (residue m a + residue m b)

/-- Difference of residues. -/
def subMod (m : Vm) (a b : Nat) : Nat := canonical m (residue m a + (modulus m - residue m b))

/-- Product of residues. -/
def mulMod (m : Vm) (a b : Nat) : Nat := canonical m (residue m a * residue m b)

/-- A number in two's complement of the present width, as an integer. -/
def signedOf (w x : Nat) : Int := if 2 * x < 2 ^ w then (x : Int) else (x : Int) - (2 : Int) ^ w

/-- The value that shares hold (Table 9-1). -/
def joined (m : Vm) (d : ShareMode) (e : Nat × Nat × Bool) : Nat :=
  match d with
  | .unshared => e.1
  | .arithmetic => addMod m e.1 e.2.1
  | .boolean => e.1 ^^^ e.2.1

/-- Fresh shares of a value in a mode; `r` is the mask. -/
def splitAs (m : Vm) (d : ShareMode) (v r : Nat) (p : Bool) : Nat × Nat × Bool :=
  match d with
  | .unshared => (v, 0, p)
  | .arithmetic => let t := canonical m r; (subMod m v t, t, p)
  | .boolean => let t := r % 2 ^ elemBits m; (v ^^^ t, t, p)

/-! ## Positions in the plot (R243, R281) -/

/-- The halves that element position `p` of the present type occupies, lowest part first; the halves of share 1. -/
def positionHalves (m : Vm) (p : Nat) : List Nat × List Nat :=
  match m.body.mode, m.body.wide with
  | .unshared, false => ([p], [])
  | .unshared, true => ([2 * p, 2 * p + 1], [])
  | _, false => ([2 * p], [2 * p + 1])
  | _, true => ([4 * p, 4 * p + 2], [4 * p + 1, 4 * p + 3])

/-- The plot byte at an element position. -/
def positionByte (m : Vm) (p : Nat) : Nat := 4 * ((positionHalves m p).1.headD 0)

/-- Position of element `j`: base + j × stride, both signed. -/
def position (_ : Vm) (base stride : W32) (j : Nat) : Int := base.toInt + (j : Int) * stride.toInt

/-- A position is inside words 0 to 7,935. -/
def positionOk (m : Vm) (p : Int) : Bool :=
  decide (0 ≤ p) && ((positionHalves m p.toNat).1 ++ (positionHalves m p.toNat).2).all fun h => decide (h < 2 * plotWords)

/-- Records that a half was read. -/
def noteRead (m : Vm) (h : Nat) : Vm :=
  if m.body.firstRead.contains h || m.body.firstWritten.contains h then m
  else { m with body.firstRead := h :: m.body.firstRead }

/-- Records that a half was written. -/
def noteWrite (m : Vm) (h : Nat) : Vm :=
  if m.body.firstRead.contains h || m.body.firstWritten.contains h then m
  else { m with body.firstWritten := h :: m.body.firstWritten }

/-- The number that halves spell, lowest first. -/
def halvesValue (p : Plot) (hs : List Nat) : Nat := leNat (hs.flatMap fun h => leBytes 4 (p.half h).toNat)

/-- Writes the halves of a number, lowest first. -/
def putHalves (m : Vm) (v : Nat) (pr : Bool) : List Nat → Vm
  | [] => m
  | h :: hs =>
    putHalves { noteWrite m h with plot := m.plot.putHalf h (BitVec.ofNat 32 v) pr } (v / 2 ^ 32) pr hs

/-! ## Private cores (R227, R253) -/

/-- A private core. -/
def coreAt (m : Vm) (c : Nat) : KCore := m.body.cores.getD c KCore.idle

/-- Replaces a private core. -/
def setCore (m : Vm) (c : Nat) (k : KCore) : Vm := { m with body.cores := m.body.cores.set c k }

/-- 200 fresh bytes. -/
def maskState (m : Vm) : List Byte := bytesOf ((List.range 25).map fun i => Config.freeWord (m.free + i))

/-- One permutation of a core: in shared mode the result is held in fresh shares. -/
def permuteCore (m : Vm) (c : Nat) : Vm :=
  let k := coreAt m c
  let v := keccakP (xorBytes k.s0 k.s1)
  if k.shared then
    let t := maskState m
    setCore (takeFree m 25) c { k with s0 := xorBytes v t, s1 := t, pos := 0 }
  else setCore m c { k with s0 := v, s1 := zeroBytes 200, pos := 0 }

/-- Cycles of one permutation. -/
def permuteCycles (k : KCore) : Nat := if k.shared then 98 else 26

/-- Absorbs one byte into both shares; a full rate permutes. The number of permutations rises with it. -/
def absorbByte (c : Nat) (x : Vm × Nat) (b : Byte × Byte) : Vm × Nat :=
  let k := coreAt x.1 c
  let k := { k with
    s0 := k.s0.set k.pos (k.s0.getD k.pos 0 ^^^ b.1), s1 := k.s1.set k.pos (k.s1.getD k.pos 0 ^^^ b.2), pos := k.pos + 1 }
  let m := setCore x.1 c k
  if k.pos = k.rate then (permuteCore m c, x.2 + 1) else (m, x.2)

/-- Takes `n` output bytes of a finalised core, as shares, with the permutations that it triggers. -/
def squeezeBytes (c : Nat) : Nat → Vm → List (Byte × Byte) → Nat → Vm × List (Byte × Byte) × Nat
  | 0, m, acc, p => (m, acc.reverse, p)
  | n + 1, m, acc, p =>
    let q := if (coreAt m c).pos = (coreAt m c).rate then (permuteCore m c, p + 1) else (m, p)
    let k := coreAt q.1 c
    squeezeBytes c n (setCore q.1 c { k with pos := k.pos + 1 }) ((k.s0.getD k.pos 0, k.s1.getD k.pos 0) :: acc) q.2

/-- Takes the next `n` bits of a finalised core's output, as one number, with the permutations that this triggers; a byte of
which bits remain stays for the next instruction (R254). -/
def squeezeBits (c n : Nat) (m : Vm) : Vm × Nat × Nat :=
  let b := (coreAt m c).bits
  let x := squeezeBytes c (ceilDiv (b + n) 8) m [] 0
  let k := coreAt x.1 c
  let rest := (b + n) % 8
  (setCore x.1 c { k with pos := if rest = 0 then k.pos else k.pos - 1, bits := rest },
    leNat (x.2.1.map fun p => p.1 ^^^ p.2) / 2 ^ b % 2 ^ n, x.2.2)

/-! ## Cycles (R236, R237) -/

/-- Elements per cycle. -/
def rateOf (m : Vm) : Nat :=
  match m.body.mode, m.body.wide with
  | .unshared, false => 32
  | .unshared, true => 16
  | _, false => 16
  | _, true => 8

/-- B. -/
def passes (m : Vm) : Nat := ceilDiv m.body.vl (rateOf m)

/-- Words per share of the present length. -/
def shareWords (m : Vm) : Nat := if m.body.wide then 2 * m.body.vl else m.body.vl

/-- The cost of a gadget operation: ceil(VL / g) + λ, with g given in halves (Table 9-3). -/
def gadgetCost (m : Vm) (g2 lam : Nat) : Nat := ceilDiv (2 * m.body.vl) g2 + lam

/-- How an instruction is charged: its unit in a chain (0 none, 1 multiplier, 2 adder, 3 permute, 4 sampler), its
destination and sources there, its λ, its own cost outside a chain, and the core it waits for. -/
structure Charge where
  unit : Nat
  dest : Nat
  sources : List Nat
  lam : Nat
  cost : Nat
  core : Option Nat

/-- A charge outside every chain. -/
def Charge.flat (n : Nat) : Charge := { unit := 0, dest := 0, sources := [], lam := n, cost := n, core := none }

/-- A charge in a chain: λ + B alone, λ as a later member. -/
def Charge.chained (m : Vm) (u dest : Nat) (sources : List Nat) (lam : Nat) : Charge :=
  { unit := u, dest := dest, sources := sources, lam := lam, cost := lam + passes m, core := none }

/-- The instruction continues the chain before it. -/
def chains (b : Body) (c : Charge) : Bool :=
  decide (1 ≤ c.unit) && b.chain.any fun p => decide (p.1 < c.unit) && c.sources.contains p.2

/-- The cycle at which an instruction starts. -/
def startCycle (b : Body) (c : Charge) : Nat :=
  match c.core with
  | some k => max b.cycles (b.cores.getD k KCore.idle).busyUntil
  | none => b.cycles

/-- The last cycle of a body, counted from its first. -/
def bodyCycles : Nat := 552

/-- Ends a body with a fault: the instruction has no effect (R260). -/
def faultBody (m : Vm) (code : Nat) : Vm := { m with body.fault := some code, body.ended := true }

/-- Runs one instruction: its effect, then its cycles; a body that would pass cycle 552 overruns, and one that is there has
no cycle left in which an instruction could fault (R231). The routine
address moves on before the effect, so that a branch counts from the next word and COMMIT stores the next address; in ROM
the Trellis then decides where that address lands (R268). -/
def issue (e : Env) (c : Vm → Charge) (f : Effect) (m : Vm) : Vm :=
  if bodyCycles ≤ startCycle m.body (c m) then faultBody m fltOverrun
  else match f e { m with body.pc := m.body.pc + 1 } with
  | .error code => faultBody m code
  | .ok x =>
    let ch := c m
    let finish := startCycle m.body ch + (if chains m.body ch then ch.lam else ch.cost) +
      (x.body.cycles - m.body.cycles)
    if bodyCycles < finish then faultBody m fltOverrun
    else
      let p := followOn e.land m.body.seg m.body.pc x.body.pc
      { x with body := { x.body with
      pc := p.1, seg := p.2, cycles := finish, chain := if 1 ≤ ch.unit then some (ch.unit, ch.dest) else none } }

end Sys2Proof.Machine
end

