-- ==== Sys2Proof/Machine/Vector.lean ====
section
/-! DEFINITION. The effects of the Parterre instructions (10_vector_isa.md R244 to R259, Table 10-4): each a function
of the job around it and of the slice body, answering the body after it or the code of the fault it raises. -/
namespace Sys2Proof.Machine
open Sys2Proof

/-! ## Configuration (R244) -/

/-- VSETVL. -/
def vsetvl (rd rs1 : Nat) : Effect := fun _ m =>
  let n := min (sreg m rs1).toNat (vlMax m.body.wide)
  .ok (setSreg { m with body.vl := n } rd (BitVec.ofNat 32 n))

/-- VSETTYPE. -/
def vsettype (t : Nat) : Effect := fun _ m =>
  if t % 4 = 3 ∨ 16 ≤ t then .error fltValue
  else
    let wide := bitOf t 2
    .ok { m with body := { m.body with
      mode := if t % 4 = 0 then .unshared else if t % 4 = 1 then .arithmetic else .boolean,
      wide := wide, signed := bitOf t 3,
      vl := if wide = m.body.wide then m.body.vl else min m.body.vl (vlMax wide) } }

/-- VSETMOD. -/
def vsetmod (rs1 : Nat) : Effect := fun _ m =>
  let q := (sreg m rs1).toNat
  if q % 2 = 0 ∨ q < 3 ∨ 2 ^ 31 ≤ q then .error fltValue else .ok { m with body.vmod := q }

/-! ## Memory (R249, R250) -/

/-- Loads one element from a position. -/
def loadElem (m : Vm) (rd j : Nat) (p : Int) : Vm :=
  let hs := positionHalves m p.toNat
  let x := (hs.1 ++ hs.2).foldl noteRead m
  let pr := (hs.1 ++ hs.2).any fun h => m.plot.tainted (h / 2)
  setElem x rd j (halvesValue m.plot hs.1, halvesValue m.plot hs.2, pr)

/-- VLDS. -/
def vlds (rd rs1 rs2 k : Nat) : Effect := fun e m =>
  match activeMask m k with
  | .error c => .error c
  | .ok act =>
    let js := (List.range m.body.vl).filter act
    let pos := fun j => position m (sreg m rs1) (sreg m rs2) j
    let tainted := fun j => (positionHalves m (pos j).toNat).1.any fun h => m.plot.tainted (h / 2)
    if !js.all (fun j => positionOk m (pos j)) then .error fltPlotBound
    else if e.isOpen && decide (m.body.mode = .unshared) && js.any tainted then .error fltProvenance
    else if m.body.vl = 0 then .ok m
    else .ok (js.foldl (fun x j => loadElem x rd j (pos j)) (setVmode m rd m.body.mode))

/-- Stores one element at a position: its provenance joins that of the words it writes (R222). -/
def storeElem (m : Vm) (rd j : Nat) (p : Int) : Vm :=
  let hs := positionHalves m p.toNat
  let v := elemAt m rd j
  putHalves (putHalves m v.1 v.2.2 hs.1) v.2.1 v.2.2 hs.2

/-- Stores in ascending order; a write to a half first read in the slice faults (R281). -/
def storeAll (m : Vm) (rd : Nat) (pos : Nat → Int) : List Nat → Except Nat Vm
  | [] => .ok m
  | j :: js =>
    let hs := positionHalves m (pos j).toNat
    if (hs.1 ++ hs.2).any fun h => m.body.firstRead.contains h then .error fltIdempotence
    else storeAll (storeElem m rd j (pos j)) rd pos js

/-- VSTS. -/
def vsts (rd rs1 rs2 k : Nat) : Effect := fun _ m =>
  match activeMask m k with
  | .error c => .error c
  | .ok act =>
    let js := (List.range m.body.vl).filter act
    let pos := fun j => position m (sreg m rs1) (sreg m rs2) j
    if !usable m rd then .error fltMode
    else if !js.all (fun j => positionOk m (pos j)) then .error fltPlotBound
    else storeAll m rd pos js

/-- Writes bytes of a resident key into the plot from a byte, with provenance 0 (R235). -/
def putBytes (m : Vm) (at' : Nat) (bs : List Byte) : Vm :=
  let words := (List.range (ceilDiv bs.length 8 + 1)).map fun i => at' / 8 + i
  let inside := words.filter fun w => decide (at' ≤ 8 * w ∧ 8 * w + 8 ≤ at' + bs.length)
  let halves := (List.range (ceilDiv bs.length 4)).map fun i => at' / 4 + i
  let x := halves.foldl noteWrite m
  { x with plot := { mem := Memory.writeBytes x.plot.mem at' bs, prov := x.plot.prov.filter fun w => !inside.contains w,
                     ctx := x.plot.ctx } }

/-- The words of a destination that take a provenance bit when `n` bytes move: those that hold a byte of a source word
which carries it (R235). -/
def carryTaint (src : List Nat) (from' to' n : Nat) (dst : List Nat) : List Nat :=
  src.foldl (fun d w =>
    let lo := max (8 * w) from'
    let hi := min (8 * w + 8) (from' + n)
    if lo < hi then insertNat ((to' + lo - from') / 8) (insertNat ((to' + hi - 1 - from') / 8) d) else d) dst

/-- One row from SWM to the plot, with its provenance (R235). -/
def rowIn (m : Vm) (from' to' n : Nat) : Vm :=
  let x := ((List.range (n / 4)).map fun i => to' / 4 + i).foldl noteWrite m
  { x with plot := { x.plot with
      mem := Memory.writeBytes x.plot.mem to' (Memory.readBytes x.swm.mem from' n),
      prov := carryTaint x.swm.prov from' to' n x.plot.prov } }

/-- One row from the plot to SWM, with its provenance (R235). -/
def rowOut (m : Vm) (from' to' n : Nat) : Vm :=
  let x := ((List.range (n / 4)).map fun i => from' / 4 + i).foldl noteRead m
  { x with swm :=
      { mem := Memory.writeBytes x.swm.mem to' (Memory.readBytes x.plot.mem from' n),
        prov := carryTaint x.plot.prov from' to' n x.swm.prov } }

/-- VXFER: rows between SWM and the plot. An Open routine reads the resident key of its job and nothing else; a vendor
routine reads that key where its rows lie in it, and else the SWM of the job's allotment. (DESIGN CHOICE, log entry 70) -/
def vxfer (rd rs1 rs2 dir fn : Nat) : Effect := fun e m =>
  let row := 16 * (fn + 1)
  let at' := positionByte m (sreg m rd).toNat
  let n := m.body.vl * row
  let halves := (List.range (n / 4)).map fun i => at' / 4 + i
  let key := e.resident.getD []
  let rows := (List.range m.body.vl).map fun i => (at' + i * row, (sreg m rs1).toNat + i * (sreg m rs2).toNat)
  let outside := e.resident.isNone || rows.any fun p => decide (key.length < p.2 + row)
  if e.isOpen && decide (dir = 1) then .error fltPrivileged
  else if e.isOpen && e.resident.isNone then .error fltKey
  else if e.isOpen && outside then .error fltValue
  else if 8 * plotWords < at' + n then .error fltPlotBound
  else if (outside || decide (dir = 1)) && rows.any fun p => decide (e.swmBytes < p.2 + row) then .error fltValue
  else if dir = 1 then .ok (rows.foldl (fun x p => rowOut x p.1 p.2 row) m)
  else if halves.any fun h => m.body.firstRead.contains h then .error fltIdempotence
  else if outside then .ok (rows.foldl (fun x p => rowIn x p.2 p.1 row) m)
  else .ok (putBytes m at' (rows.flatMap fun p => slice key p.2 row))

/-- The cost of a VXFER. -/
def vxferCost (fn : Nat) (m : Vm) : Charge := Charge.flat (40 + ceilDiv (m.body.vl * (16 * (fn + 1))) 16)

/-! ## Arithmetic (R246, R247, Table 9-2) -/

/-- Arithmetic of two sources, share by share; the shares of a public operand are its value and 0. -/
def sharewise (rd k : Nat) (srcs : List Nat) (f : Vm → Nat → Nat × Nat × Bool) : Effect := fun _ m =>
  if decide (m.body.mode = .boolean) || !srcs.all (usable m) then .error fltMode else elementwise rd k f m

/-- VADD. -/
def vadd (rd rs1 rs2 k : Nat) : Effect :=
  sharewise rd k [rs1, rs2] fun m j =>
    let a := elemAt m rs1 j
    let b := elemAt m rs2 j
    (addMod m a.1 b.1, if m.body.mode = .unshared then 0 else addMod m a.2.1 b.2.1, a.2.2 || b.2.2)

/-- VSUB. -/
def vsub (rd rs1 rs2 k : Nat) : Effect :=
  sharewise rd k [rs1, rs2] fun m j =>
    let a := elemAt m rs1 j
    let b := elemAt m rs2 j
    (subMod m a.1 b.1, if m.body.mode = .unshared then 0 else subMod m a.2.1 b.2.1, a.2.2 || b.2.2)

/-- VNEG. -/
def vneg (rd rs1 k : Nat) : Effect :=
  sharewise rd k [rs1] fun m j =>
    let a := elemAt m rs1 j
    (subMod m 0 a.1, if m.body.mode = .unshared then 0 else subMod m 0 a.2.1, a.2.2)

/-- VRED; not in 64-bit mode. -/
def vred (rd rs1 k : Nat) : Effect := fun e m =>
  if m.body.wide then .error fltMode
  else sharewise rd k [rs1] (fun m j =>
    let a := elemAt m rs1 j
    (canonical m (residue m a.1), if m.body.mode = .unshared then 0 else canonical m (residue m a.2.1), a.2.2)) e m

/-- One of two sources is public. -/
def onePublic (m : Vm) (a b : Nat) : Bool := decide (vmode m a = .unshared) || decide (vmode m b = .unshared)

/-- The product of an element and a public one. -/
def productOf (m : Vm) (a b : Nat × Nat × Bool) (aPublic : Bool) : Nat × Nat × Bool :=
  let (x, y) := if aPublic then (b, a) else (a, b)
  (mulMod m x.1 y.1, if m.body.mode = .unshared then 0 else mulMod m x.2.1 y.1, a.2.2 || b.2.2)

/-- VMUL. -/
def vmul (rd rs1 rs2 k : Nat) : Effect := fun e m =>
  if !onePublic m rs1 rs2 then .error fltMode
  else sharewise rd k [rs1, rs2] (fun m j =>
    productOf m (elemAt m rs1 j) (elemAt m rs2 j) (decide (vmode m rs1 = .unshared))) e m

/-- VMAC. -/
def vmac (rd rs1 rs2 k : Nat) : Effect := fun e m =>
  if !onePublic m rs1 rs2 then .error fltMode
  else sharewise rd k [rs1, rs2, rd] (fun m j =>
    let p := productOf m (elemAt m rs1 j) (elemAt m rs2 j) (decide (vmode m rs1 = .unshared))
    let a := elemAt m rd j
    (addMod m a.1 p.1, if m.body.mode = .unshared then 0 else addMod m a.2.1 p.2.1, a.2.2 || p.2.2)) e m

/-- VMULC. -/
def vmulc (rd rs1 rs2 k : Nat) : Effect :=
  sharewise rd k [rs1] fun m j =>
    let a := elemAt m rs1 j
    let c := scalarOperand m (sreg m rs2)
    (mulMod m a.1 c, if m.body.mode = .unshared then 0 else mulMod m a.2.1 c, a.2.2)

/-! ## Logic and shifts -/

/-- VAND: in Boolean mode one operand is public and meets both shares. -/
def vand (rd rs1 rs2 k : Nat) : Effect := fun _ m =>
  let shared := decide (m.body.mode = .boolean)
  if decide (m.body.mode = .arithmetic) || !(usable m rs1 && usable m rs2) || (shared && !onePublic m rs1 rs2) then
    .error fltMode
  else elementwise rd k (fun m j =>
    let a := elemAt m rs1 j
    let b := elemAt m rs2 j
    let (x, y) := if vmode m rs1 = .unshared then (b, a) else (a, b)
    (x.1 &&& y.1, if shared then x.2.1 &&& y.1 else 0, a.2.2 || b.2.2)) m

/-- VOR: unshared only. -/
def vor (rd rs1 rs2 k : Nat) : Effect := fun _ m =>
  if decide (m.body.mode ≠ .unshared) || !(usable m rs1 && usable m rs2) then .error fltMode
  else elementwise rd k (fun m j =>
    let a := elemAt m rs1 j
    let b := elemAt m rs2 j
    (a.1 ||| b.1, 0, a.2.2 || b.2.2)) m

/-- VXOR: share by share; a public operand meets share 0 only. -/
def vxor (rd rs1 rs2 k : Nat) : Effect := fun _ m =>
  if decide (m.body.mode = .arithmetic) || !(usable m rs1 && usable m rs2) then .error fltMode
  else elementwise rd k (fun m j =>
    let a := elemAt m rs1 j
    let b := elemAt m rs2 j
    (a.1 ^^^ b.1, if m.body.mode = .unshared then 0 else a.2.1 ^^^ b.2.1, a.2.2 || b.2.2)) m

/-- Shift left. -/
def shiftLeft (w n x : Nat) : Nat := x * 2 ^ n % 2 ^ w

/-- Logical shift right. -/
def shiftRight (_ n x : Nat) : Nat := x / 2 ^ n

/-- Arithmetic shift right. -/
def shiftArith (w n x : Nat) : Nat := ((signedOf w x / (2 : Int) ^ n) % (2 : Int) ^ w).toNat

/-- Rotate left. -/
def rotateLeft (w n x : Nat) : Nat := (x * 2 ^ n + x / 2 ^ (w - n)) % 2 ^ w

/-- A shift by a fixed amount below the width: unshared, or both Boolean shares. -/
def vshift (f : Nat → Nat → Nat → Nat) (rd rs1 k n : Nat) : Effect := fun _ m =>
  if decide (m.body.mode = .arithmetic) || !usable m rs1 then .error fltMode
  else if elemBits m ≤ n then .error fltValue
  else elementwise rd k (fun m j =>
    let a := elemAt m rs1 j
    (f (elemBits m) n a.1, if m.body.mode = .unshared then 0 else f (elemBits m) n a.2.1, a.2.2)) m

/-! ## Butterflies and permutation (R251) -/

/-- The lowest `n` bits of a number, reversed. -/
def bitReverse : Nat → Nat → Nat
  | 0, _ => 0
  | n + 1, x => (x % 2) * 2 ^ n + bitReverse n (x / 2)

/-- The length of the twiddle table of a modulus. -/
def twiddleLength (q : Nat) : Option Nat :=
  if q = 3329 then some 128 else if q = 8380417 then some 256 else if q = 12289 then some 1024 else none

/-- An entry of the twiddle table. -/
def twiddleEntry (q i : Nat) : Nat :=
  if q = 3329 then powMod 17 (bitReverse 7 i) q
  else if q = 8380417 then powMod 1753 (bitReverse 8 i) q
  else (Config.fnTwiddle i).toNat % q

/-- The twiddle of element `j`: from v[rs2], or from the stream. -/
def twiddleOf (m : Vm) (rs2 j : Nat) (stream : Bool) (low : Nat) : Nat :=
  if stream then
    let q := m.body.vmod
    let i := ((sreg m rs2).toNat + j / 2 ^ (low % 8)) % (twiddleLength q).getD 1
    if bitOf low 3 then (modInv (twiddleEntry q i) q).getD 0 else twiddleEntry q i
  else (elemAt m rs2 j).1

/-- What both butterflies check. -/
def butterflyFault (m : Vm) (rd rs1 rs2 : Nat) (stream : Bool) (low : Nat) : Option Nat :=
  if decide (rd = rs1) || decide (16 ≤ low) || (!stream && decide (low ≠ 0)) then some fltIllegal
  else if m.body.wide || decide (m.body.mode = .boolean) || !(usable m rd && usable m rs1) ||
      (!stream && decide (vmode m rs2 ≠ .unshared)) then some fltMode
  else if stream && (twiddleLength m.body.vmod).isNone then some fltValue
  else none

/-- A butterfly: the two results of `f a b w` on each share, to v[rd] and v[rs1]. -/
def butterfly (f : Vm → Nat → Nat → Nat → Nat × Nat) (rd rs1 rs2 k : Nat) (stream : Bool) (low : Nat) : Effect :=
  fun _ m =>
    match butterflyFault m rd rs1 rs2 stream low, activeMask m k with
    | some c, _ => .error c
    | none, .error c => .error c
    | none, .ok act =>
      let both := fun j =>
        let a := elemAt m rd j
        let b := elemAt m rs1 j
        let w := twiddleOf m rs2 j stream low
        let p := a.2.2 || b.2.2 || (!stream && (elemAt m rs2 j).2.2)
        let z := if m.body.mode = .unshared then (0, 0) else f m a.2.1 b.2.1 w
        (f m a.1 b.1 w, z, p)
      .ok (writeElems (writeElems m rd m.body.mode act fun j => ((both j).1.1, (both j).2.1.1, (both j).2.2)) rs1
        m.body.mode act fun j => ((both j).1.2, (both j).2.1.2, (both j).2.2))

/-- VBFLY.CT: a + w·b and a − w·b. -/
def vbflyCt : Nat → Nat → Nat → Nat → Bool → Nat → Effect :=
  butterfly fun m a b w => (addMod m a (mulMod m w b), subMod m a (mulMod m w b))

/-- VBFLY.GS: a + b and (a − b)·w. -/
def vbflyGs : Nat → Nat → Nat → Nat → Bool → Nat → Effect :=
  butterfly fun m a b w => (addMod m a b, mulMod m (subMod m a b) w)

/-- VPERM. -/
def vperm (rd rs1 k fn : Nat) : Effect := fun _ m =>
  if m.body.wide && decide (2 ≤ fn) then .error fltValue
  else if !usable m rs1 then .error fltMode
  else elementwise rd k (fun m j =>
    if m.body.wide then elemAt m rs1 (if fn = 1 then (if j % 2 = 0 then j + 1 else j - 1) else j)
    else elemAt m rs1 (j / 4 * 4 + fn / 4 ^ (j % 4) % 4)) m

/-! ## Compare and compress (R252) -/

/-- A relation between two elements. -/
def relationHolds (m : Vm) (r a b : Nat) : Bool :=
  let lt := if m.body.signed then decide (signedOf (elemBits m) a < signedOf (elemBits m) b) else decide (a < b)
  match r with
  | 0 => decide (a = b)
  | 1 => decide (a ≠ b)
  | 2 => lt
  | _ => !lt

/-- A mask register of the bits of a test below VL. -/
def maskBits (m : Vm) (f : Nat → Bool) : BitVec 256 :=
  BitVec.ofNat 256 (maskOf ((List.range m.body.vl).filter f))

/-- VCMP. -/
def vcmp (rd rs1 rs2 fn : Nat) : Effect := fun _ m =>
  let scalar := bitOf fn 4
  if 8 ≤ rd ∨ fn % 16 ≠ 0 then .error fltIllegal
  else if decide (m.body.mode ≠ .unshared) || !usable m rs1 || (!scalar && !usable m rs2) then .error fltMode
  else if 4 ≤ fn / 32 then .error fltValue
  else if m.body.vl = 0 then .ok m
  else
    let other := fun j => if scalar then (scalarOperand m (sreg m rs2), 0, false) else elemAt m rs2 j
    let pr := (List.range m.body.vl).any fun j => (elemAt m rs1 j).2.2 || (other j).2.2
    .ok (setMreg m rd { s0 := maskBits m fun j => relationHolds m (fn / 32) (elemAt m rs1 j).1 (other j).1, s1 := 0,
                        shared := false, prov := pr })

/-- VCOMPRESS. (DEDUCED, log entry 63) -/
def vcompress (rd rs1 rs2 k : Nat) : Effect := fun _ m =>
  if k = 0 then .error fltMode
  else match activeMask m k with
    | .error c => .error c
    | .ok act =>
      if !usable m rs1 then .error fltMode
      else if m.body.vl = 0 then .ok m
      else
        let picked := ((List.range m.body.vl).filter act).map (elemAt m rs1)
        let x := writeElems m rd m.body.mode (fun _ => true) fun j => picked.getD j (0, 0, false)
        .ok ((List.range (vlMax m.body.wide)).foldl (fun x j =>
          setElem x rs2 j (if j = 0 then picked.length else 0, 0, false)) (setVmode x rs2 .unshared))

/-! ## Private cores and sampling (R253, R254) -/

/-- VXOF init. -/
def vxofInit (c : Nat) (shake256 : Bool) : Effect := fun _ m =>
  if m.body.mode = .arithmetic then .error fltMode
  else .ok (setCore m c { KCore.idle with
    live := true, shared := decide (m.body.mode = .boolean), rate := if shake256 then 136 else 168,
    busyUntil := max m.body.cycles (coreAt m c).busyUntil + 2 })

/-- A background permutation keeps the core busy after the two issue cycles. -/
def busyAfter (m0 : Vm) (c p : Nat) (m : Vm) : Vm :=
  let k := coreAt m c
  setCore m c { k with busyUntil := max m0.body.cycles (coreAt m0 c).busyUntil + 2 + p * permuteCycles k }

/-- VXOF absorb. -/
def vxofAbsorb (rs1 c : Nat) : Effect := fun _ m =>
  let k := coreAt m c
  let sharedData := decide (vmode m rs1 ≠ .unshared)
  if !k.live || k.finalised then .error fltValue
  else if !usable m rs1 || (sharedData && (!k.shared || decide (vmode m rs1 ≠ .boolean))) then .error fltMode
  else
    let n := elemBits m / 8
    let bytes := (List.range m.body.vl).flatMap fun j =>
      let v := elemAt m rs1 j
      (leBytes n v.1).zip (leBytes n (if sharedData then v.2.1 else 0))
    let pr := (List.range m.body.vl).any fun j => (elemAt m rs1 j).2.2
    let x := bytes.foldl (absorbByte c) (m, 0)
    let k' := coreAt x.1 c
    .ok (busyAfter m c x.2 (setCore x.1 c { k' with prov := k'.prov || pr }))

/-- VXOF finalise: SHAKE's padding and one permutation. -/
def vxofFinalise (c : Nat) : Effect := fun _ m =>
  let k := coreAt m c
  if !k.live || k.finalised then .error fltValue
  else
    let a := k.s0.set k.pos (k.s0.getD k.pos 0 ^^^ 0x1F)
    let b := a.set (k.rate - 1) (a.getD (k.rate - 1) 0 ^^^ 0x80)
    .ok (busyAfter m c 1 (permuteCore (setCore m c { k with s0 := b, finalised := true }) c))

/-- Bits of the modulus. -/
def bitLength (q : Nat) : Nat := Nat.log2 q + 1

/-- VSAMPU: candidate fields and an acceptance mask. -/
def vsampu (rd c dest : Nat) : Effect := fun _ m =>
  let k := coreAt m c
  let q := m.body.vmod
  let f := if q < 4096 then 12 else 8 * ceilDiv (bitLength q) 8
  if m.body.wide || decide (m.body.mode ≠ .unshared) || (k.live && k.shared) then .error fltMode
  else if !k.live || !k.finalised || decide (m.body.vl * f % 8 ≠ 0) then .error fltValue
  else if m.body.vl = 0 then .ok m
  else
    let x := squeezeBits c (m.body.vl * f) m
    let field := fun j => x.2.1 / 2 ^ (f * j) % 2 ^ f % 2 ^ bitLength q
    let y := writeElems x.1 rd .unshared (fun _ => true) fun j => (field j, 0, k.prov)
    let y := setMreg y dest { s0 := maskBits m fun j => decide (field j < q), s1 := 0, shared := false, prov := k.prov }
    .ok { y with body.cycles := y.body.cycles + x.2.2 * 26 }

/-- The centred binomial value of element `j` in a stream (FIPS 203). -/
def cbdValue (stream eta j q : Nat) : Nat :=
  let ones := fun off => ((List.range eta).filter fun i => bitOf stream (2 * eta * j + off + i)).length
  (ones 0 + (q - ones eta % q)) % q

/-- VCBD; a shared core gives arithmetic shares. -/
def vcbd (rd c eta : Nat) : Effect := fun _ m =>
  let k := coreAt m c
  let fits := if k.shared then decide (m.body.mode = .arithmetic) else decide (m.body.mode = .unshared)
  if m.body.wide || (k.live && !fits) then .error fltMode
  else if !k.live || !k.finalised || decide (eta = 0) then .error fltValue
  else if m.body.vl = 0 then .ok m
  else
    let x := squeezeBits c (m.body.vl * 2 * eta) m
    let stream := x.2.1
    let z := x.1
    let y := writeElems z rd m.body.mode (fun _ => true) fun j =>
      splitAs z m.body.mode (canonical z (cbdValue stream eta j z.body.vmod)) (maskWord z j) k.prov
    let y := takeFree y m.body.vl
    .ok { y with body.cycles := y.body.cycles + x.2.2 * permuteCycles k }

/-! ## Shares and publication (R255, R256) -/

/-- VSPLIT. -/
def vsplit (rd rs1 : Nat) : Effect := fun _ m =>
  if m.body.mode = .unshared ∨ vmode m rs1 ≠ .unshared then .error fltMode
  else .ok (takeFree (writeElems m rd m.body.mode (fun _ => true) fun j =>
    let a := elemAt m rs1 j
    splitAs m m.body.mode a.1 (maskWord m j) a.2.2) m.body.vl)

/-- VREFRESH. -/
def vrefresh (rd rs1 : Nat) : Effect := fun _ m =>
  if m.body.mode = .unshared ∨ vmode m rs1 ≠ m.body.mode then .error fltMode
  else .ok (takeFree (writeElems m rd m.body.mode (fun _ => true) fun j =>
    let a := elemAt m rs1 j
    splitAs m m.body.mode (joined m m.body.mode a) (maskWord m j) a.2.2) m.body.vl)

/-- VUNMASK and VPUBLISH: the value, unshared. -/
def unmask (checked : Bool) (rd rs1 k : Nat) : Effect := fun e m =>
  match activeMask m k with
  | .error c => .error c
  | .ok act =>
    if m.body.mode = .unshared ∨ vmode m rs1 ≠ m.body.mode then .error fltMode
    else if checked && e.isOpen && (List.range m.body.vl).any fun j => act j && (elemAt m rs1 j).2.2 then
      .error fltProvenance
    else .ok (writeElems m rd .unshared act fun j =>
      let a := elemAt m rs1 j
      (joined m m.body.mode a, 0, a.2.2))

/-- VUNMASK. -/
def vunmask (rd rs1 k : Nat) : Effect := unmask true rd rs1 k

/-- VPUBLISH: routine ROM only. -/
def vpublish (rd rs1 k : Nat) : Effect := fun e m => if e.isOpen then .error fltPrivileged else unmask false rd rs1 k e m

/-- A shared mask made public. -/
def unmaskMask (checked : Bool) (rd rs1 : Nat) : Effect := fun e m =>
  let a := mreg m rs1
  if !a.shared then .error fltMode
  else if checked && e.isOpen && a.prov then .error fltProvenance
  else .ok (setMreg m rd { s0 := a.s0 ^^^ a.s1, s1 := 0, shared := false, prov := a.prov })

/-- VUNMASK.M. -/
def vunmaskM (rd rs1 : Nat) : Effect := unmaskMask true rd rs1

/-- VPUBLISH.M: routine ROM only. -/
def vpublishM (rd rs1 : Nat) : Effect := fun e m => if e.isOpen then .error fltPrivileged else unmaskMask false rd rs1 e m

/-! ## The gadget unit (R226, Table 9-3) -/

/-- A gadget operation from sources in one mode to fresh shares in another. (DEDUCED, log entry 64) -/
def gadget (src dst : ShareMode) (allowWide : Bool) (srcs : List Nat) (rd : Nat)
    (f : Vm → Nat → Nat) : Effect := fun _ m =>
  if decide (m.body.mode ≠ src) || !srcs.all (fun r => decide (vmode m r = src)) || (m.body.wide && !allowWide) then
    .error fltMode
  else .ok (takeFree (writeElems m rd dst (fun _ => true) fun j =>
    splitAs m dst (f m j) (maskWord m j) (srcs.any fun r => (elemAt m r j).2.2)) m.body.vl)

/-- The value of element `j`. -/
def valueAt (m : Vm) (r j : Nat) : Nat := joined m (vmode m r) (elemAt m r j)

/-- VA2B. -/
def va2b (rd rs1 : Nat) : Effect := gadget .arithmetic .boolean true [rs1] rd fun m j => valueAt m rs1 j

/-- VB2A. -/
def vb2a (rd rs1 : Nat) : Effect :=
  gadget .boolean .arithmetic true [rs1] rd fun m j => canonical m (residue m (valueAt m rs1 j))

/-- VMAND. -/
def vmand (rd rs1 rs2 : Nat) : Effect :=
  gadget .boolean .boolean false [rs1, rs2] rd fun m j => valueAt m rs1 j &&& valueAt m rs2 j

/-- VMOR. -/
def vmor (rd rs1 rs2 : Nat) : Effect :=
  gadget .boolean .boolean false [rs1, rs2] rd fun m j => valueAt m rs1 j ||| valueAt m rs2 j

/-- A gadget operation whose result is one bit per element, to a shared mask. -/
def gadgetMask (src : ShareMode) (srcs : List Nat) (rd : Nat) (f : Vm → Nat → Bool) : Effect := fun _ m =>
  if decide (m.body.mode ≠ src) || !srcs.all (fun r => decide (vmode m r = src)) || m.body.wide then .error fltMode
  else if m.body.vl = 0 then .ok m
  else
    let r := maskBits m fun j => bitOf (maskWord m j) 0
    let pr := (List.range m.body.vl).any fun j => srcs.any fun x => (elemAt m x j).2.2
    .ok (takeFree (setMreg m rd { s0 := maskBits m (f m) ^^^ r, s1 := r, shared := true, prov := pr }) m.body.vl)

/-- VMEQ. -/
def vmeq (rd rs1 rs2 : Nat) : Effect :=
  gadgetMask .boolean [rs1, rs2] rd fun m j => decide (valueAt m rs1 j = valueAt m rs2 j)

/-- The distance of a residue from 0. -/
def centredAbs (q x : Nat) : Nat := if q < 2 * (x % q) then q - x % q else x % q

/-- VMBND. -/
def vmbnd (rd rs1 rs2 : Nat) : Effect :=
  gadgetMask .arithmetic [rs1] rd fun m j =>
    decide (centredAbs m.body.vmod (residue m (valueAt m rs1 j)) < (sreg m rs2).toNat)

/-- Compress_d of FIPS 203. -/
def compressTo (q d x : Nat) : Nat := (2 ^ (d + 1) * x + q) / (2 * q) % 2 ^ d

/-- VMCOMP, for d from 1 to 11. -/
def vmcomp (rd rs1 rs2 : Nat) : Effect := fun e m =>
  let d := (sreg m rs2).toNat
  if d < 1 ∨ 11 < d then .error fltValue
  else gadget .arithmetic .boolean false [rs1] rd (fun m j =>
    compressTo m.body.vmod d (residue m (valueAt m rs1 j))) e m

/-- High and low parts of FIPS 204's Decompose: r1 and r0 modulo q. -/
def decomposeAt (q g x : Nat) : Nat × Nat :=
  let a := 2 * g
  let low : Int := if g < x % a then (x % a : Nat) - (a : Int) else (x % a : Nat)
  if (x : Int) - low = q - 1 then (0, ((low - 1) % (q : Int)).toNat)
  else ((((x : Int) - low) / a).toNat, (low % (q : Int)).toNat)

/-- VMDCMP: the high part to v[rd], the low part to v[rd + 1]. -/
def vmdcmp (rd rs1 rs2 : Nat) : Effect := fun _ m =>
  let g := (sreg m rs2).toNat
  if 31 ≤ rd then .error fltIllegal
  else if m.body.mode ≠ .arithmetic ∨ vmode m rs1 ≠ .arithmetic ∨ m.body.wide then .error fltMode
  else if g = 0 then .error fltValue
  else
    let part := fun j => decomposeAt m.body.vmod g (residue m (valueAt m rs1 j))
    let pr := fun j => (elemAt m rs1 j).2.2
    let high := writeElems m rd .arithmetic (fun _ => true) fun j =>
      splitAs m .arithmetic (canonical m (part j).1) (maskWord m (2 * j)) (pr j)
    .ok (takeFree (writeElems high (rd + 1) .arithmetic (fun _ => true) fun j =>
      splitAs m .arithmetic (canonical m (part j).2) (maskWord m (2 * j + 1)) (pr j)) (2 * m.body.vl))

/-! ## Keys (R257) -/

/-- KLOAD. -/
def kload (rd rs1 : Nat) : Effect := fun e m =>
  let off := (sreg m rs1).toNat
  if m.body.mode ≠ .boolean ∨ m.body.wide then .error fltMode
  else match e.keyView with
    | none => .error fltKey
    | some key =>
      if off % 4 ≠ 0 then .error fltValue
      else .ok (takeFree (writeElems m rd .boolean (fun _ => true) fun j =>
        splitAs m .boolean (leNat (slice key (off + 4 * j) 4)) (maskWord m j) true) m.body.vl)

/-! ## Scalars and control (R245, R259) -/

/-- A scalar operation of two scalars. -/
def scalarOp (f : W32 → W32 → W32) (rd rs1 rs2 : Nat) : Effect := fun _ m =>
  .ok (setSreg m rd (f (sreg m rs1) (sreg m rs2)))

/-- SLI. -/
def sli (rd : Nat) (imm : W16) : Effect := fun _ m => .ok (setSreg m rd (imm.setWidth 32))

/-- SLIH. -/
def slih (rd : Nat) (imm : W16) : Effect := fun _ m =>
  .ok (setSreg m rd ((sreg m rd &&& 0xFFFF) ||| (imm.setWidth 32 <<< 16)))

/-- SADDI. -/
def saddi (rd rs1 : Nat) (imm : W16) : Effect := fun _ m => .ok (setSreg m rd (sreg m rs1 + imm.signExtend 32))

/-- A branch, counted in words from the instruction after it. Its target lies in the routine's extent, or in its segment of
patch memory, whether it is taken or not (R259, R268). (DEDUCED, log entry 128) -/
def branch (taken : W32 → W32 → Bool) (rs1 rs2 : Nat) (off : BitVec 11) : Effect := fun e m =>
  let t : Int := (m.body.pc : Int) + off.toInt
  let bounds : Nat × Nat := match m.body.seg with
    | some g => (g.first, g.last + 1)
    | none => (e.start, e.start + e.words)
  if !(decide ((bounds.1 : Int) ≤ t) && decide (t < (bounds.2 : Int))) then .error fltBranch
  else .ok (if taken (sreg m rs1) (sreg m rs2) then { m with body.pc := t.toNat } else m)

/-- COMMIT. -/
def commitBody : Effect := fun _ m => .ok { m with body.ended := true, body.committed := true }

/-- A byte region of the plot lies in words 0 to 7,935. -/
def regionOk (at' n : Nat) : Bool := decide (at' + n ≤ 8 * plotWords)

/-- A byte region contains a word that carries provenance. -/
def regionTainted (p : Plot) (at' n : Nat) : Bool :=
  decide (0 < n) && p.prov.any fun w => decide (at' < 8 * w + 8 ∧ 8 * w < at' + n)

/-- END: the outcome and where the output lies. -/
def endBody (rs1 rs2 k fn : Nat) : Effect := fun e m =>
  let at' := positionByte m (sreg m rs1).toNat
  let n := (sreg m rs2).toNat
  if e.maxOut < n ∨ (fn ≠ 0 ∧ fn ≠ 0x12) then .error fltValue
  else if !regionOk at' n then .error fltPlotBound
  else if k ≠ 0 ∧ (mreg m k).shared then .error fltMode
  else if e.isOpen && (regionTainted m.plot at' n || (decide (k ≠ 0) && (mreg m k).prov)) then .error fltProvenance
  else
    let all := decide (k = 0) || (List.range m.body.vl).all fun j => (mreg m k).s0.getLsbD j
    let st : Status := if fn = 0x12 then .verifyFail else if all then .ok else .verifyFail
    .ok { m with body.ended := true, body.outcome := some (st, at', n) }

/-- The word COMMIT. -/
def commitWord : W32 := 0xC0000000

/-- Digest bytes of a CALLM algorithm; none for SHAKE. -/
def callmDigest : Nat → Option Nat
  | 2 => some 32 | 3 => some 64 | 4 => some 32 | 5 => some 64 | _ => none

/-- CALLM. -/
def callMaze (action rd rs1 rs2 alg len : Nat) : Effect := fun e m =>
  let at' := positionByte m (sreg m rs1).toNat
  let n := (sreg m rs2).toNat
  let finalises := decide (2 ≤ action)
  let dst := positionByte m (sreg m rd).toNat
  let out := (callmDigest alg).getD (8 * (len + 1))
  let fresh := decide (action = 0 ∨ action = 3)
  if e.next ≠ commitWord then .error fltIllegal
  else if 6 ≤ alg then .error fltValue
  else if !fresh && !(e.maze.any fun c => decide (c.alg = alg)) then .error fltValue
  else if !regionOk at' n || (finalises && !regionOk dst out) then .error fltPlotBound
  else if e.isOpen && regionTainted m.plot at' n then .error fltProvenance
  else
    let c : Callm := ⟨action, alg, Memory.readBytes m.plot.mem at' n, dst, if finalises then out else 0⟩
    .ok { m with body := { m.body with callm := some c } }

end Sys2Proof.Machine
end

