-- ==== Sys2Proof/Machine/Isa.lean ====
section
/-! DEFINITION. The Parterre instructions as words and as rows: the encodings of Table 10-2 and Table 10-4, the cost
of each, the decoder that an Open routine runs through, and one meaning per row of the opcode table
(10_vector_isa.md R242, R245, R246, R260; 09_parterre.md R230, R231, R236, R237). -/
namespace Sys2Proof.Machine
open Sys2Proof

/-! ## Words (R242) -/

/-- Format V. -/
def encodeV (major rd rs1 rs2 mask fn : Nat) : W32 :=
  BitVec.ofNat 32 (major * 2 ^ 26 + rd * 2 ^ 21 + rs1 * 2 ^ 16 + rs2 * 2 ^ 11 + mask * 2 ^ 8 + fn)

/-- Format S. -/
def encodeS (major rd rs1 imm : Nat) : W32 := BitVec.ofNat 32 (major * 2 ^ 26 + rd * 2 ^ 21 + rs1 * 2 ^ 16 + imm)

/-- Format B. -/
def encodeB (major rs1 rs2 offset : Nat) : W32 :=
  BitVec.ofNat 32 (major * 2 ^ 26 + rs1 * 2 ^ 16 + rs2 * 2 ^ 11 + offset)

/-- An instruction with its operands: its cost and its effect. -/
structure Op where
  charge : Vm → Charge
  effect : Effect

/-! ## Cost and effect of each instruction (Table 10-4, Table 9-5) -/

/-- VSETVL. -/
def opVsetvl (rd rs1 : Nat) : Op := ⟨fun _ => .flat 1, vsetvl rd rs1⟩
/-- VSETTYPE. -/
def opVsettype (t : Nat) : Op := ⟨fun _ => .flat 1, vsettype t⟩
/-- VSETMOD. -/
def opVsetmod (rs1 : Nat) : Op := ⟨fun _ => .flat 1, vsetmod rs1⟩
/-- VLDS. -/
def opVlds (rd rs1 rs2 k : Nat) : Op := ⟨fun m => .flat (8 + passes m), vlds rd rs1 rs2 k⟩
/-- VSTS. -/
def opVsts (rd rs1 rs2 k : Nat) : Op := ⟨fun m => .flat (8 + passes m), vsts rd rs1 rs2 k⟩
/-- VXFER. -/
def opVxfer (rd rs1 rs2 dir fn : Nat) : Op := ⟨vxferCost fn, vxfer rd rs1 rs2 dir fn⟩
/-- An adder instruction of two sources. -/
def onAdder (rd : Nat) (sources : List Nat) (f : Effect) : Op := ⟨fun m => .chained m 2 rd sources 2, f⟩
/-- A multiplier instruction. -/
def onMultiplier (rd : Nat) (sources : List Nat) (f : Effect) : Op := ⟨fun m => .chained m 1 rd sources 6, f⟩
/-- VADD. -/
def opVadd (rd rs1 rs2 k : Nat) : Op := onAdder rd [rs1, rs2] (vadd rd rs1 rs2 k)
/-- VSUB. -/
def opVsub (rd rs1 rs2 k : Nat) : Op := onAdder rd [rs1, rs2] (vsub rd rs1 rs2 k)
/-- VNEG. -/
def opVneg (rd rs1 k : Nat) : Op := onAdder rd [rs1] (vneg rd rs1 k)
/-- VRED. -/
def opVred (rd rs1 k : Nat) : Op := onAdder rd [rs1] (vred rd rs1 k)
/-- VMUL. -/
def opVmul (rd rs1 rs2 k : Nat) : Op := onMultiplier rd [rs1, rs2] (vmul rd rs1 rs2 k)
/-- VMAC. -/
def opVmac (rd rs1 rs2 k : Nat) : Op := onMultiplier rd [rs1, rs2, rd] (vmac rd rs1 rs2 k)
/-- VMULC. -/
def opVmulc (rd rs1 rs2 k : Nat) : Op := onMultiplier rd [rs1] (vmulc rd rs1 rs2 k)
/-- VAND. -/
def opVand (rd rs1 rs2 k : Nat) : Op := onAdder rd [rs1, rs2] (vand rd rs1 rs2 k)
/-- VOR. -/
def opVor (rd rs1 rs2 k : Nat) : Op := onAdder rd [rs1, rs2] (vor rd rs1 rs2 k)
/-- VXOR. -/
def opVxor (rd rs1 rs2 k : Nat) : Op := onAdder rd [rs1, rs2] (vxor rd rs1 rs2 k)
/-- VSLL. -/
def opVsll (rd rs1 k n : Nat) : Op := onAdder rd [rs1] (vshift shiftLeft rd rs1 k n)
/-- VSRL. -/
def opVsrl (rd rs1 k n : Nat) : Op := onAdder rd [rs1] (vshift shiftRight rd rs1 k n)
/-- VSRA. -/
def opVsra (rd rs1 k n : Nat) : Op := onAdder rd [rs1] (vshift shiftArith rd rs1 k n)
/-- VROL. -/
def opVrol (rd rs1 k n : Nat) : Op := onAdder rd [rs1] (vshift rotateLeft rd rs1 k n)
/-- VBFLY.CT. -/
def opVbflyCt (rd rs1 rs2 k : Nat) (stream : Bool) (low : Nat) : Op :=
  ⟨fun m => .flat (8 + passes m), vbflyCt rd rs1 rs2 k stream low⟩
/-- VBFLY.GS. -/
def opVbflyGs (rd rs1 rs2 k : Nat) (stream : Bool) (low : Nat) : Op :=
  ⟨fun m => .flat (8 + passes m), vbflyGs rd rs1 rs2 k stream low⟩
/-- VPERM. -/
def opVperm (rd rs1 k fn : Nat) : Op := ⟨fun m => .chained m 3 rd [rs1] 3, vperm rd rs1 k fn⟩
/-- VCMP: its destination is a mask, which is no source of a chain. -/
def opVcmp (rd rs1 rs2 fn : Nat) : Op :=
  ⟨fun m => .chained m 2 32 (if bitOf fn 4 then [rs1] else [rs1, rs2]) 2, vcmp rd rs1 rs2 fn⟩
/-- VCOMPRESS. -/
def opVcompress (rd rs1 rs2 k : Nat) : Op := onAdder rd [rs1] (vcompress rd rs1 rs2 k)
/-- An instruction that waits for a private core. -/
def afterCore (c : Nat) (x : Charge) : Charge := { x with core := some c }
/-- VXOF init. -/
def opVxofInit (c : Nat) (shake256 : Bool) : Op := ⟨fun _ => afterCore c (.flat 2), vxofInit c shake256⟩
/-- VXOF absorb. -/
def opVxofAbsorb (rs1 c : Nat) : Op := ⟨fun _ => afterCore c (.flat 2), vxofAbsorb rs1 c⟩
/-- VXOF finalise. -/
def opVxofFinalise (c : Nat) : Op := ⟨fun _ => afterCore c (.flat 2), vxofFinalise c⟩
/-- VSAMPU. -/
def opVsampu (rd c dest : Nat) : Op := ⟨fun m => afterCore c (.chained m 4 rd [] 4), vsampu rd c dest⟩
/-- VCBD. -/
def opVcbd (rd c eta : Nat) : Op := ⟨fun m => afterCore c (.chained m 4 rd [] 4), vcbd rd c eta⟩
/-- VSPLIT. -/
def opVsplit (rd rs1 : Nat) : Op := ⟨fun m => .flat (4 + ceilDiv (shareWords m) 2), vsplit rd rs1⟩
/-- VREFRESH. -/
def opVrefresh (rd rs1 : Nat) : Op := ⟨fun m => .flat (4 + ceilDiv (shareWords m) 2), vrefresh rd rs1⟩
/-- VUNMASK. -/
def opVunmask (rd rs1 k : Nat) : Op := ⟨fun m => .flat (2 + passes m), vunmask rd rs1 k⟩
/-- VPUBLISH. -/
def opVpublish (rd rs1 k : Nat) : Op := ⟨fun m => .flat (2 + passes m), vpublish rd rs1 k⟩
/-- VUNMASK.M. -/
def opVunmaskM (rd rs1 : Nat) : Op := ⟨fun _ => .flat 2, vunmaskM rd rs1⟩
/-- VPUBLISH.M. -/
def opVpublishM (rd rs1 : Nat) : Op := ⟨fun _ => .flat 2, vpublishM rd rs1⟩
/-- VA2B. -/
def opVa2b (rd rs1 : Nat) : Op :=
  ⟨fun m => .flat (if m.body.wide then gadgetCost m 1 60 else gadgetCost m 2 36), va2b rd rs1⟩
/-- VB2A. -/
def opVb2a (rd rs1 : Nat) : Op :=
  ⟨fun m => .flat (if m.body.wide then gadgetCost m 1 60 else gadgetCost m 2 12), vb2a rd rs1⟩
/-- VMAND. -/
def opVmand (rd rs1 rs2 : Nat) : Op := ⟨fun m => .flat (gadgetCost m 2 6), vmand rd rs1 rs2⟩
/-- VMOR. -/
def opVmor (rd rs1 rs2 : Nat) : Op := ⟨fun m => .flat (gadgetCost m 2 6), vmor rd rs1 rs2⟩
/-- VMEQ. -/
def opVmeq (rd rs1 rs2 : Nat) : Op := ⟨fun m => .flat (gadgetCost m 8 10), vmeq rd rs1 rs2⟩
/-- VMBND. -/
def opVmbnd (rd rs1 rs2 : Nat) : Op := ⟨fun m => .flat (gadgetCost m 4 20), vmbnd rd rs1 rs2⟩
/-- VMCOMP. -/
def opVmcomp (rd rs1 rs2 : Nat) : Op := ⟨fun m => .flat (gadgetCost m 2 40), vmcomp rd rs1 rs2⟩
/-- VMDCMP. -/
def opVmdcmp (rd rs1 rs2 : Nat) : Op := ⟨fun m => .flat (gadgetCost m 2 44), vmdcmp rd rs1 rs2⟩
/-- KLOAD. -/
def opKload (rd rs1 : Nat) : Op := ⟨fun m => .flat (80 + ceilDiv m.body.vl 4), kload rd rs1⟩
/-- A scalar instruction of two scalars. -/
def onScalars (f : W32 → W32 → W32) (rd rs1 rs2 : Nat) : Op := ⟨fun _ => .flat 1, scalarOp f rd rs1 rs2⟩
/-- SADD. -/
def opSadd : Nat → Nat → Nat → Op := onScalars fun a b => a + b
/-- SSUB. -/
def opSsub : Nat → Nat → Nat → Op := onScalars fun a b => a - b
/-- SAND. -/
def opSand : Nat → Nat → Nat → Op := onScalars fun a b => a &&& b
/-- SOR. -/
def opSor : Nat → Nat → Nat → Op := onScalars fun a b => a ||| b
/-- SXOR. -/
def opSxor : Nat → Nat → Nat → Op := onScalars fun a b => a ^^^ b
/-- SSLL. -/
def opSsll : Nat → Nat → Nat → Op := onScalars fun a b => a <<< (b.toNat % 32)
/-- SSRL. -/
def opSsrl : Nat → Nat → Nat → Op := onScalars fun a b => a >>> (b.toNat % 32)
/-- SLI. -/
def opSli (rd : Nat) (imm : W16) : Op := ⟨fun _ => .flat 1, sli rd imm⟩
/-- SLIH. -/
def opSlih (rd : Nat) (imm : W16) : Op := ⟨fun _ => .flat 1, slih rd imm⟩
/-- SADDI. -/
def opSaddi (rd rs1 : Nat) (imm : W16) : Op := ⟨fun _ => .flat 1, saddi rd rs1 imm⟩
/-- SBNE. -/
def opSbne (rs1 rs2 : Nat) (off : BitVec 11) : Op := ⟨fun _ => .flat 2, branch (fun a b => decide (a ≠ b)) rs1 rs2 off⟩
/-- SBEQ. -/
def opSbeq (rs1 rs2 : Nat) (off : BitVec 11) : Op := ⟨fun _ => .flat 2, branch (fun a b => decide (a = b)) rs1 rs2 off⟩
/-- COMMIT. -/
def opCommit : Op := ⟨fun _ => .flat 1, commitBody⟩
/-- END. -/
def opEnd (rs1 rs2 k fn : Nat) : Op := ⟨fun _ => .flat 1, endBody rs1 rs2 k fn⟩
/-- CALLM. -/
def opCallm (action rd rs1 rs2 alg len : Nat) : Op := ⟨fun _ => .flat 4, callMaze action rd rs1 rs2 alg len⟩
/-- An instruction that only faults. -/
def opFault (code : Nat) : Op := ⟨fun _ => .flat 1, fun _ _ => .error code⟩

/-! ## The decoder (R246): every other opcode, fn value or field use is ILLEGAL -/

/-- The instruction where a field that it does not use is 0. (DEDUCED, log entry 60) -/
def given (c : Bool) (o : Op) : Op := if c then o else opFault fltIllegal

/-- Adder opcodes (0x08). -/
def decodeAdder (rd rs1 rs2 k fn : Nat) : Op :=
  if fn = 0 then opVadd rd rs1 rs2 k
  else if fn = 1 then opVsub rd rs1 rs2 k
  else if fn = 2 then given (decide (rs2 = 0)) (opVneg rd rs1 k)
  else given (decide (fn = 3 ∧ rs2 = 0)) (opVred rd rs1 k)

/-- Multiplier opcodes (0x09). -/
def decodeMultiplier (rd rs1 rs2 k fn : Nat) : Op :=
  if fn = 0 then opVmul rd rs1 rs2 k
  else if fn = 1 then opVmac rd rs1 rs2 k
  else given (decide (fn = 2)) (opVmulc rd rs1 rs2 k)

/-- Logic opcodes (0x0A). -/
def decodeLogic (rd rs1 rs2 k fn : Nat) : Op :=
  if fn = 0 then opVand rd rs1 rs2 k
  else if fn = 1 then opVor rd rs1 rs2 k
  else given (decide (fn = 2)) (opVxor rd rs1 rs2 k)

/-- Shift opcodes (0x0B). -/
def decodeShift (rd rs1 k fn : Nat) : Op :=
  if fn / 64 = 0 then opVsll rd rs1 k (fn % 64)
  else if fn / 64 = 1 then opVsrl rd rs1 k (fn % 64)
  else if fn / 64 = 2 then opVsra rd rs1 k (fn % 64)
  else opVrol rd rs1 k (fn % 64)

/-- Core opcodes (0x10). -/
def decodeCore (rs1 fn : Nat) : Op :=
  let c := fn / 16 % 2
  if fn / 64 = 0 then given (decide (rs1 = 0 ∧ fn % 16 = 0)) (opVxofInit c (bitOf fn 5))
  else if fn / 64 = 1 then given (decide (fn % 16 = 0 ∧ fn / 32 % 2 = 0)) (opVxofAbsorb rs1 c)
  else if fn / 64 = 2 then given (decide (rs1 = 0 ∧ fn % 16 = 0 ∧ fn / 32 % 2 = 0)) (opVxofFinalise c)
  else opFault fltValue

/-- Share opcodes (0x14). -/
def decodeShare (rd rs1 k fn : Nat) : Op :=
  if fn = 0 then given (decide (k = 0)) (opVsplit rd rs1)
  else if fn = 1 then given (decide (k = 0)) (opVrefresh rd rs1)
  else if fn = 2 then opVunmask rd rs1 k
  else if fn = 3 then opVpublish rd rs1 k
  else if fn = 4 then given (decide (k = 0 ∧ rd < 8 ∧ rs1 < 8)) (opVunmaskM rd rs1)
  else given (decide (fn = 5 ∧ k = 0 ∧ rd < 8 ∧ rs1 < 8)) (opVpublishM rd rs1)

/-- Gadget opcodes (0x15). -/
def decodeGadget (rd rs1 rs2 fn : Nat) : Op :=
  if fn = 0 then given (decide (rs2 = 0)) (opVa2b rd rs1)
  else if fn = 1 then given (decide (rs2 = 0)) (opVb2a rd rs1)
  else if fn = 2 then opVmand rd rs1 rs2
  else if fn = 3 then opVmor rd rs1 rs2
  else if fn = 4 then given (decide (rd < 8)) (opVmeq rd rs1 rs2)
  else if fn = 5 then given (decide (rd < 8)) (opVmbnd rd rs1 rs2)
  else if fn = 6 then opVmcomp rd rs1 rs2
  else given (decide (fn = 7)) (opVmdcmp rd rs1 rs2)

/-- Scalar opcodes of three registers (0x20). -/
def decodeScalar (rd rs1 rs2 fn : Nat) : Op :=
  if fn = 0 then opSadd rd rs1 rs2
  else if fn = 1 then opSsub rd rs1 rs2
  else if fn = 2 then opSand rd rs1 rs2
  else if fn = 3 then opSor rd rs1 rs2
  else if fn = 4 then opSxor rd rs1 rs2
  else if fn = 5 then opSsll rd rs1 rs2
  else given (decide (fn = 6)) (opSsrl rd rs1 rs2)

/-- The instruction that a word spells. -/
def decodeOp (w : W32) : Op :=
  let v := w.toNat
  let rd := bitsOf v 25 21
  let rs1 := bitsOf v 20 16
  let rs2 := bitsOf v 15 11
  let k := bitsOf v 10 8
  let fn := bitsOf v 7 0
  let imm := BitVec.ofNat 16 v
  match bitsOf v 31 26 with
  | 0x01 => given (decide (rs2 = 0 ∧ k = 0 ∧ fn = 0)) (opVsetvl rd rs1)
  | 0x02 => given (decide (rd = 0 ∧ rs1 = 0 ∧ rs2 = 0 ∧ k = 0)) (opVsettype fn)
  | 0x03 => given (decide (rd = 0 ∧ rs2 = 0 ∧ k = 0 ∧ fn = 0)) (opVsetmod rs1)
  | 0x04 => given (decide (fn = 0)) (opVlds rd rs1 rs2 k)
  | 0x05 => given (decide (fn = 0)) (opVsts rd rs1 rs2 k)
  | 0x06 => given (decide (k < 2)) (opVxfer rd rs1 rs2 k fn)
  | 0x08 => decodeAdder rd rs1 rs2 k fn
  | 0x09 => decodeMultiplier rd rs1 rs2 k fn
  | 0x0A => decodeLogic rd rs1 rs2 k fn
  | 0x0B => given (decide (rs2 = 0)) (decodeShift rd rs1 k fn)
  | 0x0C => if bitOf fn 6 then opVbflyGs rd rs1 rs2 k (bitOf fn 7) (fn % 64)
            else opVbflyCt rd rs1 rs2 k (bitOf fn 7) (fn % 64)
  | 0x0D => given (decide (rs2 = 0)) (opVperm rd rs1 k fn)
  | 0x0E => given (decide (k = 0)) (opVcmp rd rs1 rs2 fn)
  | 0x0F => given (decide (fn = 0)) (opVcompress rd rs1 rs2 k)
  | 0x10 => given (decide (rd = 0 ∧ rs2 = 0 ∧ k = 0)) (decodeCore rs1 fn)
  | 0x11 => given (decide (rs1 = 0 ∧ rs2 = 0 ∧ k = 0 ∧ fn < 32 ∧ fn % 16 < 8)) (opVsampu rd (fn / 16) (fn % 8))
  | 0x12 => given (decide (rs1 = 0 ∧ rs2 = 0 ∧ k = 0 ∧ fn < 32 ∧ fn % 16 < 4)) (opVcbd rd (fn / 16) (fn % 4))
  | 0x14 => given (decide (rs2 = 0)) (decodeShare rd rs1 k fn)
  | 0x15 => given (decide (k = 0)) (decodeGadget rd rs1 rs2 fn)
  | 0x18 => given (decide (rs2 = 0 ∧ k = 0 ∧ fn = 0)) (opKload rd rs1)
  | 0x20 => given (decide (k = 0)) (decodeScalar rd rs1 rs2 fn)
  | 0x21 => given (decide (rs1 = 0)) (opSli rd imm)
  | 0x22 => given (decide (rs1 = 0)) (opSlih rd imm)
  | 0x23 => opSaddi rd rs1 imm
  | 0x24 => given (decide (rd = 0)) (opSbne rs1 rs2 (BitVec.ofNat 11 v))
  | 0x25 => given (decide (rd = 0)) (opSbeq rs1 rs2 (BitVec.ofNat 11 v))
  | 0x30 => given (decide (w = commitWord)) opCommit
  | 0x31 => given (decide (rd = 0)) (opEnd rs1 rs2 k fn)
  | 0x32 => opCallm (fn / 64) rd rs1 rs2 k (fn % 64)
  | _ => opFault fltIllegal

/-! ## The job around a body -/

/-- A word of the Open store; words past the image read 0 (R276). -/
def openWord (s : State) (i : Nat) : W32 := ((s.stores.image.map fun v => v.code).getD []).getD i 0

/-- The routine that a family 0x40 job calls. -/
def routineOf (s : State) (j : Job) : Option Routine := s.stores.image.bind fun v => v.routines[operation j]?

/-- Bytes of SWM: 12 MiB, or 6 MiB on the SDZ-9612 (Table 1-3). -/
def swmSize (s : State) : Nat := if variant s = 2 then 6 * 2 ^ 20 else 12 * 2 ^ 20

/-- The job is a call of an Open routine (R277). -/
def isOpenJob (j : Job) : Bool := decide (family j = 0x40)

/-- The place after the word that a vendor body is at, where that word runs on (R268). -/
def vendorNext (s : State) (b : Body) : Nat × Option Segment := followOn (landing s .routine) b.seg b.pc (b.pc + 1)

/-- What the instructions of a body see of its job. -/
def envOf (s : State) (j : Job) (b : Body) : Env :=
  if isOpenJob j then
    let r := routineOf s j
    let use := (r.map fun x => x.keyUse).getD 0
    { isOpen := true,
      start := (r.map fun x => x.start).getD 0,
      words := (r.map fun x => x.words).getD 0,
      maxOut := min j.entry.outLen.toNat ((r.map fun x => x.maxOut).getD 0),
      keyView := if use = 1 then j.key.map fun k => k.priv else none,
      resident := if use = 2 then j.key.map fun k => k.pub else none,
      maze := j.maze, next := openWord s (b.pc + 1), land := fun a => (a, none), swmBytes := swmSize s }
  else
    let v := Config.vendorRoutine j.entry.opcode (psetOf j)
    { isOpen := false, start := v.1, words := v.2, maxOut := j.entry.outLen.toNat,
      keyView := j.key.map fun k => k.priv, resident := j.key.map fun k => k.pub, maze := j.maze,
      next := romWord s .routine (vendorNext s b), land := landing s .routine, swmBytes := swmSize s }

/-- The SWM of an allotment. -/
def swmAt (s : State) (a : Nat) : Swm := KMap.getD s.swm a ⟨[], []⟩

/-- The body of a unit with its plot and the SWM of its allotment. -/
def vmOf (s : State) (b : Body) : Vm :=
  { body := b, plot := plotAt s b.plot, swm := swmAt s (keyAllot b.job), free := s.freeCount }

/-- Puts a body, its plot and its SWM back. -/
def putVm (s : State) (u : Nat) (m : Vm) : State :=
  let s := setPlot { setBody s u m.body with freeCount := m.free } m.body.plot m.plot
  if m.swm = swmAt s (keyAllot m.body.job) then s else { s with swm := KMap.put s.swm (keyAllot m.body.job) m.swm }

/-- The word that a body fetches: from the Open store, or from the routine ROM through the Trellis (R263, R268). -/
def bodyWord (s : State) (j : Job) (b : Body) : W32 :=
  if isOpenJob j then openWord s b.pc else romWord s .routine (b.pc, b.seg)

/-- An instruction word can issue on a unit: a body runs there, and the word is the one at its routine address.
(DEDUCED, log entry 66) -/
def canIssue (s : State) (u : Nat) (w : W32) : Bool :=
  let b := bodyAt s u
  b.active && !b.ended && (KMap.get? s.jobs b.job).any fun j => decide (bodyWord s j b = w)

/-- Issues an instruction on a unit. (DEDUCED, log entry 65) -/
def issueOn (s : State) (u : Nat) (o : Op) : State :=
  let b := bodyAt s u
  match KMap.get? s.jobs b.job with
  | some j => putVm s u (issue (envOf s j b) o.charge o.effect (vmOf s b))
  | none => s

/-- A row of the instruction set: the instruction issues where it can. -/
def isaRow (u : Nat) (w : W32) (o : Op) (s : State) : Host.Outcome State Fault Refusal :=
  .next (if canIssue s u w then issueOn s u o else s)

/-- Runs a body from the Open store until it ends; every instruction costs a cycle. -/
def runBody (s : State) (j : Job) : Nat → Vm → Vm
  | 0, m => m
  | n + 1, m =>
    if m.body.ended then m
    else
      let o := decodeOp (openWord s m.body.pc)
      runBody s j n (issue (envOf s j m.body) o.charge o.effect m)

/-! ## The rows -/

/-- VSETVL. -/
def execVsetvl (unit : Fin 4) (rd : BitVec 5) (rs1 : BitVec 5) (s : State) : Host.Outcome State Fault Refusal :=
  isaRow unit.val (encodeV 0x01 rd.toNat rs1.toNat 0 0 0) (opVsetvl rd.toNat rs1.toNat) s

/-- VSETTYPE. -/
def execVsettype (unit : Fin 4) (type : BitVec 8) (s : State) : Host.Outcome State Fault Refusal :=
  isaRow unit.val (encodeV 0x02 0 0 0 0 type.toNat) (opVsettype type.toNat) s

/-- VSETMOD. -/
def execVsetmod (unit : Fin 4) (rs1 : BitVec 5) (s : State) : Host.Outcome State Fault Refusal :=
  isaRow unit.val (encodeV 0x03 0 rs1.toNat 0 0 0) (opVsetmod rs1.toNat) s

/-- VLDS. -/
def execVlds (unit : Fin 4) (rd : BitVec 5) (rs1 : BitVec 5) (rs2 : BitVec 5) (mask : BitVec 3) (s : State) :
    Host.Outcome State Fault Refusal :=
  isaRow unit.val (encodeV 0x04 rd.toNat rs1.toNat rs2.toNat mask.toNat 0)
    (opVlds rd.toNat rs1.toNat rs2.toNat mask.toNat) s

/-- VSTS. -/
def execVsts (unit : Fin 4) (rd : BitVec 5) (rs1 : BitVec 5) (rs2 : BitVec 5) (mask : BitVec 3) (s : State) :
    Host.Outcome State Fault Refusal :=
  isaRow unit.val (encodeV 0x05 rd.toNat rs1.toNat rs2.toNat mask.toNat 0)
    (opVsts rd.toNat rs1.toNat rs2.toNat mask.toNat) s

/-- VXFER. -/
def execVxfer (unit : Fin 4) (rd : BitVec 5) (rs1 : BitVec 5) (rs2 : BitVec 5) (toSwm : Bool) (rowLength : BitVec 8) (s : State) :
    Host.Outcome State Fault Refusal :=
  isaRow unit.val (encodeV 0x06 rd.toNat rs1.toNat rs2.toNat (bit toSwm) rowLength.toNat)
    (opVxfer rd.toNat rs1.toNat rs2.toNat (bit toSwm) rowLength.toNat) s

/-- VADD. -/
def execVadd (unit : Fin 4) (rd : BitVec 5) (rs1 : BitVec 5) (rs2 : BitVec 5) (mask : BitVec 3) (s : State) :
    Host.Outcome State Fault Refusal :=
  isaRow unit.val (encodeV 0x08 rd.toNat rs1.toNat rs2.toNat mask.toNat 0x00)
    (opVadd rd.toNat rs1.toNat rs2.toNat mask.toNat) s

/-- VSUB. -/
def execVsub (unit : Fin 4) (rd : BitVec 5) (rs1 : BitVec 5) (rs2 : BitVec 5) (mask : BitVec 3) (s : State) :
    Host.Outcome State Fault Refusal :=
  isaRow unit.val (encodeV 0x08 rd.toNat rs1.toNat rs2.toNat mask.toNat 0x01)
    (opVsub rd.toNat rs1.toNat rs2.toNat mask.toNat) s

/-- VNEG. -/
def execVneg (unit : Fin 4) (rd : BitVec 5) (rs1 : BitVec 5) (mask : BitVec 3) (s : State) :
    Host.Outcome State Fault Refusal :=
  isaRow unit.val (encodeV 0x08 rd.toNat rs1.toNat 0 mask.toNat 0x02) (opVneg rd.toNat rs1.toNat mask.toNat) s

/-- VRED. -/
def execVred (unit : Fin 4) (rd : BitVec 5) (rs1 : BitVec 5) (mask : BitVec 3) (s : State) :
    Host.Outcome State Fault Refusal :=
  isaRow unit.val (encodeV 0x08 rd.toNat rs1.toNat 0 mask.toNat 0x03) (opVred rd.toNat rs1.toNat mask.toNat) s

/-- VMUL. -/
def execVmul (unit : Fin 4) (rd : BitVec 5) (rs1 : BitVec 5) (rs2 : BitVec 5) (mask : BitVec 3) (s : State) :
    Host.Outcome State Fault Refusal :=
  isaRow unit.val (encodeV 0x09 rd.toNat rs1.toNat rs2.toNat mask.toNat 0x00)
    (opVmul rd.toNat rs1.toNat rs2.toNat mask.toNat) s

/-- VMAC. -/
def execVmac (unit : Fin 4) (rd : BitVec 5) (rs1 : BitVec 5) (rs2 : BitVec 5) (mask : BitVec 3) (s : State) :
    Host.Outcome State Fault Refusal :=
  isaRow unit.val (encodeV 0x09 rd.toNat rs1.toNat rs2.toNat mask.toNat 0x01)
    (opVmac rd.toNat rs1.toNat rs2.toNat mask.toNat) s

/-- VMULC. -/
def execVmulc (unit : Fin 4) (rd : BitVec 5) (rs1 : BitVec 5) (rs2 : BitVec 5) (mask : BitVec 3) (s : State) :
    Host.Outcome State Fault Refusal :=
  isaRow unit.val (encodeV 0x09 rd.toNat rs1.toNat rs2.toNat mask.toNat 0x02)
    (opVmulc rd.toNat rs1.toNat rs2.toNat mask.toNat) s

/-- VAND. -/
def execVand (unit : Fin 4) (rd : BitVec 5) (rs1 : BitVec 5) (rs2 : BitVec 5) (mask : BitVec 3) (s : State) :
    Host.Outcome State Fault Refusal :=
  isaRow unit.val (encodeV 0x0A rd.toNat rs1.toNat rs2.toNat mask.toNat 0x00)
    (opVand rd.toNat rs1.toNat rs2.toNat mask.toNat) s

/-- VOR. -/
def execVor (unit : Fin 4) (rd : BitVec 5) (rs1 : BitVec 5) (rs2 : BitVec 5) (mask : BitVec 3) (s : State) :
    Host.Outcome State Fault Refusal :=
  isaRow unit.val (encodeV 0x0A rd.toNat rs1.toNat rs2.toNat mask.toNat 0x01)
    (opVor rd.toNat rs1.toNat rs2.toNat mask.toNat) s

/-- VXOR. -/
def execVxor (unit : Fin 4) (rd : BitVec 5) (rs1 : BitVec 5) (rs2 : BitVec 5) (mask : BitVec 3) (s : State) :
    Host.Outcome State Fault Refusal :=
  isaRow unit.val (encodeV 0x0A rd.toNat rs1.toNat rs2.toNat mask.toNat 0x02)
    (opVxor rd.toNat rs1.toNat rs2.toNat mask.toNat) s

/-- VSLL. -/
def execVsll (unit : Fin 4) (rd : BitVec 5) (rs1 : BitVec 5) (mask : BitVec 3) (amount : BitVec 6) (s : State) :
    Host.Outcome State Fault Refusal :=
  isaRow unit.val (encodeV 0x0B rd.toNat rs1.toNat 0 mask.toNat (0 + amount.toNat))
    (opVsll rd.toNat rs1.toNat mask.toNat amount.toNat) s

/-- VSRL. -/
def execVsrl (unit : Fin 4) (rd : BitVec 5) (rs1 : BitVec 5) (mask : BitVec 3) (amount : BitVec 6) (s : State) :
    Host.Outcome State Fault Refusal :=
  isaRow unit.val (encodeV 0x0B rd.toNat rs1.toNat 0 mask.toNat (64 + amount.toNat))
    (opVsrl rd.toNat rs1.toNat mask.toNat amount.toNat) s

/-- VSRA. -/
def execVsra (unit : Fin 4) (rd : BitVec 5) (rs1 : BitVec 5) (mask : BitVec 3) (amount : BitVec 6) (s : State) :
    Host.Outcome State Fault Refusal :=
  isaRow unit.val (encodeV 0x0B rd.toNat rs1.toNat 0 mask.toNat (128 + amount.toNat))
    (opVsra rd.toNat rs1.toNat mask.toNat amount.toNat) s

/-- VROL. -/
def execVrol (unit : Fin 4) (rd : BitVec 5) (rs1 : BitVec 5) (mask : BitVec 3) (amount : BitVec 6) (s : State) :
    Host.Outcome State Fault Refusal :=
  isaRow unit.val (encodeV 0x0B rd.toNat rs1.toNat 0 mask.toNat (192 + amount.toNat))
    (opVrol rd.toNat rs1.toNat mask.toNat amount.toNat) s

/-- VBFLY.CT. -/
def execVbflyCt (unit : Fin 4) (rd : BitVec 5) (rs1 : BitVec 5) (rs2 : BitVec 5) (mask : BitVec 3) (stream : Bool) (low : BitVec 6) (s : State) :
    Host.Outcome State Fault Refusal :=
  isaRow unit.val (encodeV 0x0C rd.toNat rs1.toNat rs2.toNat mask.toNat (128 * bit stream + 0 + low.toNat))
    (opVbflyCt rd.toNat rs1.toNat rs2.toNat mask.toNat stream low.toNat) s

/-- VBFLY.GS. -/
def execVbflyGs (unit : Fin 4) (rd : BitVec 5) (rs1 : BitVec 5) (rs2 : BitVec 5) (mask : BitVec 3) (stream : Bool) (low : BitVec 6) (s : State) :
    Host.Outcome State Fault Refusal :=
  isaRow unit.val (encodeV 0x0C rd.toNat rs1.toNat rs2.toNat mask.toNat (128 * bit stream + 64 + low.toNat))
    (opVbflyGs rd.toNat rs1.toNat rs2.toNat mask.toNat stream low.toNat) s

/-- VPERM. -/
def execVperm (unit : Fin 4) (rd : BitVec 5) (rs1 : BitVec 5) (mask : BitVec 3) (selector : BitVec 8) (s : State) :
    Host.Outcome State Fault Refusal :=
  isaRow unit.val (encodeV 0x0D rd.toNat rs1.toNat 0 mask.toNat selector.toNat)
    (opVperm rd.toNat rs1.toNat mask.toNat selector.toNat) s

/-- VCMP. -/
def execVcmp (unit : Fin 4) (rd : BitVec 5) (rs1 : BitVec 5) (rs2 : BitVec 5) (fn : BitVec 8) (s : State) :
    Host.Outcome State Fault Refusal :=
  isaRow unit.val (encodeV 0x0E rd.toNat rs1.toNat rs2.toNat 0 fn.toNat)
    (opVcmp rd.toNat rs1.toNat rs2.toNat fn.toNat) s

/-- VCOMPRESS. -/
def execVcompress (unit : Fin 4) (rd : BitVec 5) (rs1 : BitVec 5) (rs2 : BitVec 5) (mask : BitVec 3) (s : State) :
    Host.Outcome State Fault Refusal :=
  isaRow unit.val (encodeV 0x0F rd.toNat rs1.toNat rs2.toNat mask.toNat 0)
    (opVcompress rd.toNat rs1.toNat rs2.toNat mask.toNat) s

/-- VXOF init. -/
def execVxofInit (unit : Fin 4) (core : Fin 2) (shake256 : Bool) (s : State) : Host.Outcome State Fault Refusal :=
  isaRow unit.val (encodeV 0x10 0 0 0 0 (32 * bit shake256 + 16 * core.val)) (opVxofInit core.val shake256) s

/-- VXOF absorb. -/
def execVxofAbsorb (unit : Fin 4) (rs1 : BitVec 5) (core : Fin 2) (s : State) : Host.Outcome State Fault Refusal :=
  isaRow unit.val (encodeV 0x10 0 rs1.toNat 0 0 (0x40 + 16 * core.val)) (opVxofAbsorb rs1.toNat core.val) s

/-- VXOF finalise. -/
def execVxofFinalise (unit : Fin 4) (core : Fin 2) (s : State) : Host.Outcome State Fault Refusal :=
  isaRow unit.val (encodeV 0x10 0 0 0 0 (0x80 + 16 * core.val)) (opVxofFinalise core.val) s

/-- VSAMPU. -/
def execVsampu (unit : Fin 4) (rd : BitVec 5) (core : Fin 2) (dest : BitVec 3) (s : State) :
    Host.Outcome State Fault Refusal :=
  isaRow unit.val (encodeV 0x11 rd.toNat 0 0 0 (16 * core.val + dest.toNat)) (opVsampu rd.toNat core.val dest.toNat) s

/-- VCBD. -/
def execVcbd (unit : Fin 4) (rd : BitVec 5) (core : Fin 2) (eta : BitVec 2) (s : State) :
    Host.Outcome State Fault Refusal :=
  isaRow unit.val (encodeV 0x12 rd.toNat 0 0 0 (16 * core.val + eta.toNat)) (opVcbd rd.toNat core.val eta.toNat) s

/-- VSPLIT. -/
def execVsplit (unit : Fin 4) (rd : BitVec 5) (rs1 : BitVec 5) (s : State) : Host.Outcome State Fault Refusal :=
  isaRow unit.val (encodeV 0x14 rd.toNat rs1.toNat 0 0 0x00) (opVsplit rd.toNat rs1.toNat) s

/-- VREFRESH. -/
def execVrefresh (unit : Fin 4) (rd : BitVec 5) (rs1 : BitVec 5) (s : State) : Host.Outcome State Fault Refusal :=
  isaRow unit.val (encodeV 0x14 rd.toNat rs1.toNat 0 0 0x01) (opVrefresh rd.toNat rs1.toNat) s

/-- VUNMASK. -/
def execVunmask (unit : Fin 4) (rd : BitVec 5) (rs1 : BitVec 5) (mask : BitVec 3) (s : State) :
    Host.Outcome State Fault Refusal :=
  isaRow unit.val (encodeV 0x14 rd.toNat rs1.toNat 0 mask.toNat 0x02) (opVunmask rd.toNat rs1.toNat mask.toNat) s

/-- VPUBLISH. -/
def execVpublish (unit : Fin 4) (rd : BitVec 5) (rs1 : BitVec 5) (mask : BitVec 3) (s : State) :
    Host.Outcome State Fault Refusal :=
  isaRow unit.val (encodeV 0x14 rd.toNat rs1.toNat 0 mask.toNat 0x03) (opVpublish rd.toNat rs1.toNat mask.toNat) s

/-- VUNMASK.M. -/
def execVunmaskM (unit : Fin 4) (rd : BitVec 3) (rs1 : BitVec 3) (s : State) : Host.Outcome State Fault Refusal :=
  isaRow unit.val (encodeV 0x14 rd.toNat rs1.toNat 0 0 0x04) (opVunmaskM rd.toNat rs1.toNat) s

/-- VPUBLISH.M. -/
def execVpublishM (unit : Fin 4) (rd : BitVec 3) (rs1 : BitVec 3) (s : State) : Host.Outcome State Fault Refusal :=
  isaRow unit.val (encodeV 0x14 rd.toNat rs1.toNat 0 0 0x05) (opVpublishM rd.toNat rs1.toNat) s

/-- VA2B. -/
def execVa2b (unit : Fin 4) (rd : BitVec 5) (rs1 : BitVec 5) (s : State) : Host.Outcome State Fault Refusal :=
  isaRow unit.val (encodeV 0x15 rd.toNat rs1.toNat 0 0 0x00) (opVa2b rd.toNat rs1.toNat) s

/-- VB2A. -/
def execVb2a (unit : Fin 4) (rd : BitVec 5) (rs1 : BitVec 5) (s : State) : Host.Outcome State Fault Refusal :=
  isaRow unit.val (encodeV 0x15 rd.toNat rs1.toNat 0 0 0x01) (opVb2a rd.toNat rs1.toNat) s

/-- VMAND. -/
def execVmand (unit : Fin 4) (rd : BitVec 5) (rs1 : BitVec 5) (rs2 : BitVec 5) (s : State) :
    Host.Outcome State Fault Refusal :=
  isaRow unit.val (encodeV 0x15 rd.toNat rs1.toNat rs2.toNat 0 0x02) (opVmand rd.toNat rs1.toNat rs2.toNat) s

/-- VMOR. -/
def execVmor (unit : Fin 4) (rd : BitVec 5) (rs1 : BitVec 5) (rs2 : BitVec 5) (s : State) :
    Host.Outcome State Fault Refusal :=
  isaRow unit.val (encodeV 0x15 rd.toNat rs1.toNat rs2.toNat 0 0x03) (opVmor rd.toNat rs1.toNat rs2.toNat) s

/-- VMEQ. -/
def execVmeq (unit : Fin 4) (rd : BitVec 3) (rs1 : BitVec 5) (rs2 : BitVec 5) (s : State) :
    Host.Outcome State Fault Refusal :=
  isaRow unit.val (encodeV 0x15 rd.toNat rs1.toNat rs2.toNat 0 0x04) (opVmeq rd.toNat rs1.toNat rs2.toNat) s

/-- VMBND. -/
def execVmbnd (unit : Fin 4) (rd : BitVec 3) (rs1 : BitVec 5) (rs2 : BitVec 5) (s : State) :
    Host.Outcome State Fault Refusal :=
  isaRow unit.val (encodeV 0x15 rd.toNat rs1.toNat rs2.toNat 0 0x05) (opVmbnd rd.toNat rs1.toNat rs2.toNat) s

/-- VMCOMP. -/
def execVmcomp (unit : Fin 4) (rd : BitVec 5) (rs1 : BitVec 5) (rs2 : BitVec 5) (s : State) :
    Host.Outcome State Fault Refusal :=
  isaRow unit.val (encodeV 0x15 rd.toNat rs1.toNat rs2.toNat 0 0x06) (opVmcomp rd.toNat rs1.toNat rs2.toNat) s

/-- VMDCMP. -/
def execVmdcmp (unit : Fin 4) (rd : BitVec 5) (rs1 : BitVec 5) (rs2 : BitVec 5) (s : State) :
    Host.Outcome State Fault Refusal :=
  isaRow unit.val (encodeV 0x15 rd.toNat rs1.toNat rs2.toNat 0 0x07) (opVmdcmp rd.toNat rs1.toNat rs2.toNat) s

/-- KLOAD. -/
def execKload (unit : Fin 4) (rd : BitVec 5) (rs1 : BitVec 5) (s : State) : Host.Outcome State Fault Refusal :=
  isaRow unit.val (encodeV 0x18 rd.toNat rs1.toNat 0 0 0) (opKload rd.toNat rs1.toNat) s

/-- SADD. -/
def execSadd (unit : Fin 4) (rd : BitVec 5) (rs1 : BitVec 5) (rs2 : BitVec 5) (s : State) :
    Host.Outcome State Fault Refusal :=
  isaRow unit.val (encodeV 0x20 rd.toNat rs1.toNat rs2.toNat 0 0) (opSadd rd.toNat rs1.toNat rs2.toNat) s

/-- SSUB. -/
def execSsub (unit : Fin 4) (rd : BitVec 5) (rs1 : BitVec 5) (rs2 : BitVec 5) (s : State) :
    Host.Outcome State Fault Refusal :=
  isaRow unit.val (encodeV 0x20 rd.toNat rs1.toNat rs2.toNat 0 1) (opSsub rd.toNat rs1.toNat rs2.toNat) s

/-- SAND. -/
def execSand (unit : Fin 4) (rd : BitVec 5) (rs1 : BitVec 5) (rs2 : BitVec 5) (s : State) :
    Host.Outcome State Fault Refusal :=
  isaRow unit.val (encodeV 0x20 rd.toNat rs1.toNat rs2.toNat 0 2) (opSand rd.toNat rs1.toNat rs2.toNat) s

/-- SOR. -/
def execSor (unit : Fin 4) (rd : BitVec 5) (rs1 : BitVec 5) (rs2 : BitVec 5) (s : State) :
    Host.Outcome State Fault Refusal :=
  isaRow unit.val (encodeV 0x20 rd.toNat rs1.toNat rs2.toNat 0 3) (opSor rd.toNat rs1.toNat rs2.toNat) s

/-- SXOR. -/
def execSxor (unit : Fin 4) (rd : BitVec 5) (rs1 : BitVec 5) (rs2 : BitVec 5) (s : State) :
    Host.Outcome State Fault Refusal :=
  isaRow unit.val (encodeV 0x20 rd.toNat rs1.toNat rs2.toNat 0 4) (opSxor rd.toNat rs1.toNat rs2.toNat) s

/-- SSLL. -/
def execSsll (unit : Fin 4) (rd : BitVec 5) (rs1 : BitVec 5) (rs2 : BitVec 5) (s : State) :
    Host.Outcome State Fault Refusal :=
  isaRow unit.val (encodeV 0x20 rd.toNat rs1.toNat rs2.toNat 0 5) (opSsll rd.toNat rs1.toNat rs2.toNat) s

/-- SSRL. -/
def execSsrl (unit : Fin 4) (rd : BitVec 5) (rs1 : BitVec 5) (rs2 : BitVec 5) (s : State) :
    Host.Outcome State Fault Refusal :=
  isaRow unit.val (encodeV 0x20 rd.toNat rs1.toNat rs2.toNat 0 6) (opSsrl rd.toNat rs1.toNat rs2.toNat) s

/-- SLI. -/
def execSli (unit : Fin 4) (rd : BitVec 5) (imm : W16) (s : State) : Host.Outcome State Fault Refusal :=
  isaRow unit.val (encodeS 0x21 rd.toNat 0 imm.toNat) (opSli rd.toNat imm) s

/-- SLIH. -/
def execSlih (unit : Fin 4) (rd : BitVec 5) (imm : W16) (s : State) : Host.Outcome State Fault Refusal :=
  isaRow unit.val (encodeS 0x22 rd.toNat 0 imm.toNat) (opSlih rd.toNat imm) s

/-- SADDI. -/
def execSaddi (unit : Fin 4) (rd : BitVec 5) (rs1 : BitVec 5) (imm : W16) (s : State) :
    Host.Outcome State Fault Refusal :=
  isaRow unit.val (encodeS 0x23 rd.toNat rs1.toNat imm.toNat) (opSaddi rd.toNat rs1.toNat imm) s

/-- SBNE. -/
def execSbne (unit : Fin 4) (rs1 : BitVec 5) (rs2 : BitVec 5) (offset : BitVec 11) (s : State) :
    Host.Outcome State Fault Refusal :=
  isaRow unit.val (encodeB 0x24 rs1.toNat rs2.toNat offset.toNat) (opSbne rs1.toNat rs2.toNat offset) s

/-- SBEQ. -/
def execSbeq (unit : Fin 4) (rs1 : BitVec 5) (rs2 : BitVec 5) (offset : BitVec 11) (s : State) :
    Host.Outcome State Fault Refusal :=
  isaRow unit.val (encodeB 0x25 rs1.toNat rs2.toNat offset.toNat) (opSbeq rs1.toNat rs2.toNat offset) s

/-- COMMIT. -/
def execCommitSlice (unit : Fin 4) (s : State) : Host.Outcome State Fault Refusal :=
  isaRow unit.val commitWord opCommit s

/-- END. -/
def execEndRoutine (unit : Fin 4) (rs1 : BitVec 5) (rs2 : BitVec 5) (mask : BitVec 3) (status : BitVec 8) (s : State) :
    Host.Outcome State Fault Refusal :=
  isaRow unit.val (encodeV 0x31 0 rs1.toNat rs2.toNat mask.toNat status.toNat)
    (opEnd rs1.toNat rs2.toNat mask.toNat status.toNat) s

/-- CALLM, action 0. -/
def execCallmStartAbsorb (unit : Fin 4) (rd : BitVec 5) (rs1 : BitVec 5) (rs2 : BitVec 5) (alg : BitVec 3) (length : BitVec 6) (s : State) :
    Host.Outcome State Fault Refusal :=
  isaRow unit.val (encodeV 0x32 rd.toNat rs1.toNat rs2.toNat alg.toNat (0 + length.toNat))
    (opCallm 0 rd.toNat rs1.toNat rs2.toNat alg.toNat length.toNat) s

/-- CALLM, action 1. -/
def execCallmAbsorb (unit : Fin 4) (rd : BitVec 5) (rs1 : BitVec 5) (rs2 : BitVec 5) (alg : BitVec 3) (length : BitVec 6) (s : State) :
    Host.Outcome State Fault Refusal :=
  isaRow unit.val (encodeV 0x32 rd.toNat rs1.toNat rs2.toNat alg.toNat (64 + length.toNat))
    (opCallm 1 rd.toNat rs1.toNat rs2.toNat alg.toNat length.toNat) s

/-- CALLM, action 2. -/
def execCallmAbsorbFinalise (unit : Fin 4) (rd : BitVec 5) (rs1 : BitVec 5) (rs2 : BitVec 5) (alg : BitVec 3) (length : BitVec 6) (s : State) :
    Host.Outcome State Fault Refusal :=
  isaRow unit.val (encodeV 0x32 rd.toNat rs1.toNat rs2.toNat alg.toNat (128 + length.toNat))
    (opCallm 2 rd.toNat rs1.toNat rs2.toNat alg.toNat length.toNat) s

/-- CALLM, action 3. -/
def execCallmStartFinalise (unit : Fin 4) (rd : BitVec 5) (rs1 : BitVec 5) (rs2 : BitVec 5) (alg : BitVec 3) (length : BitVec 6) (s : State) :
    Host.Outcome State Fault Refusal :=
  isaRow unit.val (encodeV 0x32 rd.toNat rs1.toNat rs2.toNat alg.toNat (192 + length.toNat))
    (opCallm 3 rd.toNat rs1.toNat rs2.toNat alg.toNat length.toNat) s

end Sys2Proof.Machine
end

