-- ==== Sys2Proof/Machine/Reads.lean ====
section
/-! DEFINITION. The host reads of an allotment: its tag group, its fetch turns, and the data reads that it issues in them
(03_host_link.md R62, R63; 02_bandstand.md R51). -/
namespace Sys2Proof.Machine
open Sys2Proof

/-! ## Tags (R63) -/

/-- The tags of a tag group for descriptor reads or for data reads: with 10-bit tags one and two, else one in common. -/
def groupTags (tag10 : Bool) (g : Nat) (data : Bool) : List Nat :=
  if tag10 then (if data then [257 + 3 * g, 258 + 3 * g] else [256 + 3 * g]) else [g]

/-- A tag of the allotment that no read in flight holds. -/
def freeTag (s : State) (a : Nat) (data : Bool) : Option Nat :=
  (KMap.get? s.allots a).bind fun v =>
    (groupTags (funcAt s (funcOf s a)).tag10 v.tagGroup data).find? fun t => !v.reads.any fun r => decide (r.tag = t)

/-- A descriptor tag of the allotment's tag group is free. -/
def tagFree (s : State) (a : Nat) : Bool := (freeTag s a false).isSome

/-- A read in flight that serves a queue's descriptor or a job's data. -/
def serves (data : Bool) (owner : Nat) (r : HostReq) : Bool := (r.data == data) && decide (r.owner = owner)

/-- Issues a read for an allotment under a tag: it carries the Routing ID of the allotment's function (R62). -/
def issueRead (s : State) (a : Nat) (data : Bool) (owner tag : Nat) (addr : W64) (n : Nat) : State :=
  let s := modAllot s a fun v => { v with
    reads := v.reads ++ [{ tag := tag, data := data, owner := owner, addr := addr, due := n, answered := false }] }
  request s (.read (funcOf s a) tag addr n)

/-- The first read in flight of an allotment that passes a test. -/
def findRead (s : State) (a : Nat) (p : HostReq → Bool) : Option HostReq :=
  (KMap.get? s.allots a).bind fun v => v.reads.find? p

/-- The first of a list that passes a test leaves it. -/
def dropFirst {α : Type} (p : α → Bool) : List α → List α
  | [] => []
  | x :: l => if p x then l else x :: dropFirst p l

/-- A read has returned whole, or has failed: its tag is free. -/
def endRead (s : State) (a : Nat) (p : HostReq → Bool) : State :=
  modAllot s a fun v => { v with reads := dropFirst p v.reads }

/-- Some bytes of a read have returned: its tag is free when none is due. -/
def takeBytes (s : State) (a : Nat) (p : HostReq → Bool) (n : Nat) : State :=
  modAllot s a fun v =>
    let l := updateFirst p (fun r => { r with due := r.due - n }) v.reads
    { v with reads := dropFirst (fun r => p r && decide (r.due = 0)) l }

/-! ## Fetch turns (R51) -/

/-- The allotment may fetch: its function masters the bus and nothing quiesces it, and the device is not on the fatal
path. -/
def mayFetch (s : State) (a : Nat) : Bool :=
  s.boot.ready && s.link.up && s.dump.active.isNone && masters s (funcOf s a) &&
    (KMap.get? s.allots a).any fun v => v.func.isSome && !v.quiesced && !v.destroying

/-- The turns of an allotment in this tick: one for allotment 0 and for the holder of a dedicated turn; else the shared
turns that serve its place in the rotation. -/
def turnsOf (s : State) (a : Nat) : Nat :=
  if decide (a = 0) || s.sched.dedicated.any (fun p => decide (p.2 = a) && !s.sched.freedTurns.contains p.1) then 1
  else
    let r := s.sched.rotation
    ((List.range 16).filter fun i => decide (r ≠ []) && decide (r[(16 * now s + i) % r.length]? = some a)).length

/-- One queue. -/
def queueAt (s : State) (a q : Nat) : Option Queue := KMap.get? s.queues (queueKey a q)

/-- The allotment's queues that await a fetch, in the order in which they take turns. -/
def awaitingQueues (s : State) (a : Nat) : List Nat :=
  let qs := (List.range 8).filter fun q => (queueAt s a q).any fun v => v.awaiting && !v.reading && !v.closing
  let last := ((KMap.get? s.allots a).map fun v => v.lastFetch).getD 7
  startAfter (fun q => decide (q ≤ last)) qs

/-! ## Data reads (R62, R63, R86) -/

/-- The most that one data read of an allotment requests: its function's MRRS, and never above 4,096 bytes. -/
def readLimit (s : State) (a : Nat) : Nat := min 4096 (funcAt s (funcOf s a)).mrrs

/-- What a job reads in its present phase, as spans in order: a fragment table, or its input up to IN_LEN. -/
def readSpans (j : Job) : List (W64 × Nat) :=
  match j.phase with
  | .tables => (j.table.map fun t => (t.1, 16 * t.2)).toList
  | .reading | .ready | .dispatched | .running => if j.opened then [] else inputSpans j.frags j.entry.inLen.toNat
  | _ => []

/-- The place of byte `n` of a list of spans, and what is left of its span. -/
def spanAt : List (W64 × Nat) → Nat → Option (W64 × Nat)
  | [], _ => none
  | (a, m) :: l, n => if n < m then some (a + BitVec.ofNat 64 n, m - n) else spanAt l (n - m)

/-- The job, of those that still have bytes to request, that was fetched first. (DESIGN CHOICE, log entry 31) -/
def nextReader (s : State) (a : Nat) : Option (Nat × Job) :=
  (s.jobs.filter fun p => decide (keyAllot p.1 = a) && (spanAt (readSpans p.2) p.2.asked).isSome).foldl
    (fun b p => match b with
      | none => some p
      | some x => if p.2.order < x.2.order then some p else some x) none

/-- Issues the next data read of an allotment, if one is wanted and a data tag is free. -/
def issueData (s : State) (a : Nat) : State :=
  match freeTag s a true, nextReader s a with
  | some t, some (k, j) =>
    match spanAt (readSpans j) j.asked with
    | some (addr, m) =>
      let n := min m (readLimit s a)
      issueRead (modJob s k fun x => { x with asked := x.asked + n }) a true k t addr n
    | none => s
  | _, _ => s

/-- The data reads of an allotment in a tick in which it has a fetch turn. With one tag in common, a descriptor read that
waits comes first. (DEDUCED, log entry 31) -/
def issueReads (s : State) (a : Nat) : State :=
  if mayFetch s a && decide (0 < turnsOf s a) &&
      ((funcAt s (funcOf s a)).tag10 || decide (awaitingQueues s a = [])) then issueData (issueData s a) a
  else s

/-- The data reads that go at a tick boundary. -/
def issueAll (s : State) : State := (s.allots.map Prod.fst).foldl issueReads s

end Sys2Proof.Machine
end

