-- ==== Sys2Proof/WellFormed.lean ====
section
/-! DEFINITION. What a command's operands must be for such a command to exist outside the block: what no range of an
operand's type already says. A command that breaks it is refused by name. -/
namespace Sys2Proof

/-- A trained link: PCIe rate 1 to 5 at a width of 1, 2, 4 or 8 lanes (Table 3-1, R508). -/
def trainedLink (speed : BitVec 3) (width : BitVec 5) : Bool :=
  [1, 2, 3, 4, 5].contains speed.toNat && [1, 2, 4, 8].contains width.toNat

/-- The bytes of one read completion: at least one, and at most the largest read request, 4,096 (Table 3-1). -/
def readBytes (bytes : List Byte) : Bool := decide (1 ≤ bytes.length ∧ bytes.length ≤ 4096)

/-- A well-formed command. (DESIGN CHOICE, log entry 2) -/
def Instr.wellFormed : Instr → Bool
  | .linkTrainingEnd speed width => trainedLink speed width
  | .dataReadArrival _ bytes => readBytes bytes
  | _ => true

end Sys2Proof
end

