-- ==== Sys2Proof/Machine/Intake.lean ====
section
/-! DEFINITION. How an entry becomes a job: the checks of Table 4-6 in their order, the fragment walk, sealed
intake, placement and readiness (04_rings.md R85 to R99; 09_parterre.md R234; 14_icehouse.md R325, R329, R532). -/
namespace Sys2Proof.Machine
open Sys2Proof

/-! ## What the device knows of an entry -/

/-- The facts of a journal job (R421). -/
def journalFacts (isSealed : Bool) (j : Job) : Option Facts :=
  let len := operandLen isSealed j
  if psetOf j ≠ 0 then none
  else match operation j with
    | 1 => some { Facts.plain with size := if 1 ≤ len ∧ len ≤ 64 then none else some .operandSize, outLen := 144 }
    | 2 => some { Facts.plain with size := exactly len 0, outLen := 2592 }
    | _ => none

/-- The facts of an Open-routine call (R241, R277). -/
def openFacts (isSealed : Bool) (j : Job) : Option Facts :=
  if 0x40 ≤ operation j ∨ psetOf j ≠ 0 then none
  else some { Facts.plain with
    classes := [.parterre, .maze], placed := some .parterre, keyUse := .optAny, blobLen := leadingBlob j,
    probe := if blobHandle j then 32 else 0,
    size := if operandLen isSealed j ≤ 63488 then none else some .operandSize }

/-- The parts that a BIST_RUN selects, in ascending mask bit; bit 15 selects every present unit (R128, R483). -/
def bistParts (s : State) (j : Job) : List Nat :=
  let m := inlineField j 48 4
  (List.range 15).filter fun p => (m.testBit p || m.testBit 15) && (decide (12 ≤ p) || unitPresent s p)

/-- Output bytes of an admin command (Table 5-3). -/
def adminOutput (s : State) (j : Job) : Nat :=
  match j.entry.opcode.toNat with
  | 0xF009 => if inlineField j 56 1 = 2 then 32 else 0
  | 0xF010 => if j.entry.aux.toNat = 0 then 32 else 0
  | 0xF011 => 8 * (bistParts s j).length
  | 0xF018 => 64
  | _ => 0

/-- The random bytes for which an admin command waits undispatched (R104). -/
def adminNeedsFountain (j : Job) : Bool :=
  match j.entry.opcode.toNat with
  | 0xF001 => true
  | 0xF010 => decide (j.entry.aux.toNat = 0)
  | 0xF015 => true
  | 0xF00F => decide (inlineField j 48 1 = 2)
  | _ => false

/-- The facts of an admin command: queue 0 of allotment 0 only, PSET 0 (R5, R105). (DEDUCED, log entry 37) -/
def adminFacts (s : State) (k : Nat) (j : Job) : Option Facts :=
  if k / 4096 ≠ 0 ∨ operation j < 1 ∨ 0x19 < operation j ∨ psetOf j ≠ 0 then none
  else some { Facts.plain with
    outLen := adminOutput s j,
    size := if operation j = 0x0D then exactly j.entry.inLen.toNat 256 else none }

/-- The facts of any entry; none where check 1 fails. -/
def factsOf (s : State) (k : Nat) (j : Job) : Option Facts :=
  let sl := framed s k j
  match family j with
  | 0x01 | 0x02 | 0x03 => latticeFacts sl j
  | 0x04 => slhFacts sl j
  | 0x05 | 0x06 => statefulFacts sl j
  | 0x07 => mcFacts sl j
  | 0x08 => hqcFacts sl j
  | 0x10 => curveFacts s k sl j
  | 0x11 => edFacts sl j
  | 0x12 => rsaFacts sl j
  | 0x13 => bnFacts sl j
  | 0x20 | 0x21 => digestFacts s k sl j
  | 0x30 => iceFacts s k sl j
  | 0x38 => journalFacts sl j
  | 0x40 => openFacts sl j
  | 0xF0 => adminFacts s k j
  | _ => none

/-- The job's facts, where it has any. -/
def factsD (s : State) (k : Nat) (j : Job) : Facts := (factsOf s k j).getD Facts.plain

/-! ## Checks 1 to 3, and what of check 4 needs only the entry -/

/-- Check 2: a needed unit, the Open store or the Footbridge is absent (R9, R11, R12). (DEDUCED, log entry 36) -/
def unitAbsent (s : State) (j : Job) (f : Facts) : Bool :=
  f.classes.any (fun c => decide (classUnits s c = [])) ||
    ((decide (family j = 0x40) || decide (j.entry.opcode.toNat = 0xF00A)) && !hasOpenStore s) ||
    ([0xF015, 0xF016, 0xF017].contains j.entry.opcode.toNat && !hasBridge s)

/-- The checks that need only the entry. (DEDUCED, log entry 33) -/
def entryFailure (s : State) (k : Nat) (j : Job) : Option Status :=
  match factsOf s k j with
  | none => some .opcodeUnknown
  | some f =>
    if unitAbsent s j f then some .unitAbsent
    else if !f.classes.all (mayUseClass s (keyAllot k)) then some .leaseAbsent
    else if framed s k j && decide (65536 * ((allotAt s (keyAllot k)).map fun v => v.stageBlocks).getD 0 < j.entry.inLen.toNat)
      then some .resource
    else none

/-! ## Checks 7 to 11 -/

/-- What the entry alone shows of sealed intake: no channel key, too short, or the nonce bit set (R99). -/
def sealEntryBad (s : State) (k : Nat) (j : Job) : Bool :=
  ((allotAt s (keyAllot k)).bind fun v => v.channelKey).isNone || decide (j.entry.inLen.toNat < 32) ||
    j.entry.inl.getLsbD 0

/-- Check 9: the key that KEYH names, if any, or ST_KEY_HANDLE. A blob where none may lead answers no key. -/
def handleCheck9 (s : State) (k : Nat) (j : Job) (f : Facts) : Except Status (Option Key) :=
  let a := keyAllot k
  let h := j.entry.keyh.toNat
  if h = 0 then
    match f.keyUse with
    | .secret _ | .slotOnly _ | .any => .error .keyHandle
    | _ => .ok none
  else if handleKind h = 1 then
    if f.blobLen = 0 then if handleSound s a h then .ok none else .error .keyHandle
    else match openBlob s a h (slice j.landed 0 f.blobLen) with
      | some key => .ok (some key)
      | none => .error .keyHandle
  else match findKey s a h with
    | some (_, _, key) => .ok (some key)
    | none => .error .keyHandle

/-- The usage bit that a use of a key needs. -/
def usageOk (f : Facts) (key : Key) : Bool :=
  match f.keyUse with
  | .none => false
  | .pub => key.may 1
  | .secret b | .slotOnly b | .optSlot b => key.may b
  | .any | .optAny => true

/-- A blob may be named: where a secret use lets one lead the input, and in the operations on any handle. -/
def blobAllowed (f : Facts) : Bool :=
  match f.keyUse with
  | .secret _ | .any | .optAny => true
  | _ => false

/-- A secret use takes a slot key or a blob, never a resident public key. -/
def residentAllowed (f : Facts) : Bool :=
  match f.keyUse with
  | .pub | .any | .optAny => true
  | _ => false

/-- The type that a use asks for: the job's, or any. -/
def wantedType (f : Facts) (key : Key) : Nat :=
  match f.keyUse with
  | .any | .optAny => key.type.toNat
  | .optSlot _ => 0x3000
  | _ => f.keyType

/-- What family 0x30 asks of its key beyond R329: WRAP an exportable slot key, UNWRAP a blob, PUBLIC a key with a
public part, DESTROY no blob (R335 to R337, R341). -/
def iceKeyOk (j : Job) (key : Key) : Bool :=
  let kind := handleKind j.entry.keyh.toNat
  match j.entry.opcode.toNat with
  | 0x3006 => decide (kind = 2) && key.exportable
  | 0x3007 => decide (kind = 1)
  | 0x3008 => decide (key.type.toNat ≠ 0x3000)
  | 0x3009 => decide (kind ≠ 1)
  | _ => true

/-- Check 10 of a key (R329). The bits of a stateful key are checked on SIGN (R171). -/
def keyCheck10 (s : State) (k : Nat) (j : Job) (f : Facts) (key : Key) : Bool :=
  let kind := handleKind j.entry.keyh.toNat
  let binding := ((curveOf s k j).map fun c => slice c.2.2.2.2.2 0 8).getD (zeroBytes 8)
  usageOk f key && (decide (kind ≠ 1) || blobAllowed f) && (decide (kind ≠ 3) || residentAllowed f) &&
    keyFits s (keyAllot k) key (wantedType f key) (if wantedType f key = 0x10FF ∧ f.keyType ≠ 0x10FF then key.binding else binding) &&
    iceKeyOk j key && (!(decide (family j = 5 ∨ family j = 6) && decide (operation j = 2)) || key.may 6)

/-- The rest of check 10: no root for a job that creates, the request's usage bits, the journal key's root. -/
def creationStatus (s : State) (j : Job) (f : Facts) : Option Status :=
  if !hasRoot s && decide (f.creates ≠ .nothing) then some .lifecycle
  else if decide (j.entry.opcode.toNat = 0x3802) && decide (rootKind s ≠ 1) && decide (rootKind s ≠ 2) then some .lifecycle
  else if (decide (f.creates = .slot) || decide (f.creates = .blob) || decide (f.creates = .resident)) &&
      !requestServes j f.mayUse then some .keyAttribute
  else none

/-- How the checks of a job stand. -/
inductive Verdict where
  | fails (st : Status)
  /-- held before check 9 (R532) -/
  | held
  /-- more input bytes must land first -/
  | needs (n : Nat)
  /-- every check passed, with the key and the context copy of a keyed INIT -/
  | passes (key : Option Key) (ctx : List Byte)
deriving DecidableEq, Repr

/-- Check 11: a PREPARE's key has 16 to 256 bytes, and the input its length (R89, R296). -/
def sizeCheck11 (j : Job) (f : Facts) (key : Option Key) : Option Status :=
  if decide (j.entry.opcode.toNat = 0x2106) && key.any (fun x => decide (x.priv.length < 16 ∨ 256 < x.priv.length)) then
    some .operandSize
  else f.size

/-- Checks 9 to 11 (R325, R329, R89). In a state without a root no handle is examined. -/
def keyVerdict (s : State) (k : Nat) (j : Job) (f : Facts) : Verdict :=
  if decide (j.entry.keyh ≠ 0) && !hasRoot s then .fails .lifecycle
  else match handleCheck9 s k j f with
    | .error st => .fails st
    | .ok key =>
      let keyedInit := decide (j.entry.opcode.toNat = 0x2101)
      let ctx := keyedInitContext s k j
      if keyedInit && ctx.isNone then .fails .keyHandle
      else if decide (j.entry.opcode.toNat = 0x300B) && s.ice.secret.isNone then .fails .keyHandle
      else if decide (j.entry.keyh ≠ 0) && !(key.any (keyCheck10 s k j f)) then .fails .keyAttribute
      else match creationStatus s j f with
        | some st => .fails st
        | none =>
          match sizeCheck11 j f key with
          | some st => .fails st
          | none => .passes key (if keyedInit then (ctx.map contextBytes).getD [] else [])

/-- Checks 7 to 11 in their order, as far as the landed bytes allow. -/
def judge (s : State) (k : Nat) (j : Job) : Verdict :=
  match factsOf s k j with
  | none => .fails .opcodeUnknown
  | some f =>
    let fr := framed s k j
    let len := operandLen fr j
    if fr && !j.opened then if sealEntryBad s k j then .fails .sealAuth else .needs j.entry.inLen.toNat
    else if j.landed.length < min f.probe len then .needs (min f.probe len)
    else if j.entry.outLen.toNat < f.outLen + (if fr then 36 else 0) then .fails .resource
    else if hasRoot s && !s.ice.ready && (decide (j.entry.keyh ≠ 0) || decide (f.creates ≠ .nothing)) then .held
    else if j.landed.length < min f.blobLen len then .needs (min f.blobLen len)
    else keyVerdict s k j f

/-- Every check that needs no byte of the input passes (R234). -/
def placeable (s : State) (k : Nat) (j : Job) : Bool :=
  match judge s k { j with opened := true } with
  | .fails _ => false
  | .held => false
  | _ => true

/-! ## Steps of the intake -/

/-- Ends a job at a check: decided in the tick after the data that the check needed (R94). -/
def rejectJob (s : State) (k : Nat) (st : Status) (addr : Nat) : State :=
  match KMap.get? s.jobs k with
  | none => s
  | some j =>
    modJob (releaseEngines s k j) k fun x =>
      { failJob (now s + 1) st x with place := none, slot := none, resident := none, held := none, fault := BitVec.ofNat 64 addr }

/-- Ends a job at a window check, with its event (R93). -/
def rejectWindow (s : State) (k : Nat) (addr : Nat) : State :=
  logEvent (rejectJob s k .windowViolation addr) 2 0x0020 (BitVec.ofNat 16 (keyAllot k)) 15
    (leBytes 1 (keyQueue k) ++ [0] ++ leBytes 2 (keyIndex k) ++ leBytes 8 addr)

/-- The input bytes that must have landed for a dispatch (R142, R186). -/
def inPlace (s : State) (k : Nat) (j : Job) (f : Facts) : Bool :=
  let len := operandLen (framed s k j) j
  decide (min (f.early.getD len) len ≤ j.landed.length)

/-- Carries a job's checks as far as they go: rejected, held, waiting for a residence or for bytes, or ready. -/
def intake (s : State) (k : Nat) : State :=
  match KMap.get? s.jobs k with
  | none => s
  | some j =>
    let f := factsD s k j
    let wait := f.placed.isSome && j.place.isNone
    match judge s k j with
    | .fails st => rejectJob s k st 0
    | .held => modJob s k fun x => { x with phase := .iceHeld }
    | .needs _ =>
      if wait && placeable s k j then modJob s k fun x => { x with phase := .unplaced, waitFrom := now s }
      else modJob s k fun x => { x with phase := .reading }
    | .passes key ctx =>
      let s := modJob s k fun x => { x with checked := true, key := key, context := if ctx = [] then x.context else ctx }
      if wait then modJob s k fun x => { x with phase := .unplaced, waitFrom := now s }
      else if inPlace s k j f then modJob s k fun x => { x with phase := .ready, lastReady := now s }
      else modJob s k fun x => { x with phase := .reading }

/-- The lowest address of the input or output that the windows in force at the fetch do not grant (R92). -/
def jobWindowFault (j : Job) : Option Nat :=
  let ins := (inputSpans j.frags j.entry.inLen.toNat).filterMap fun p => windowFault j.windows 0 p.1.toNat p.2
  let outs := if j.entry.outLen = 0 then none else windowFault j.windows 1 j.entry.outAddr.toNat j.entry.outLen.toNat
  (ins ++ outs.toList).min?

/-- Checks 5 and 6 after the walk: windows, then the fragment sum (R87, R92). -/
def afterWalk (s : State) (k : Nat) : State :=
  match KMap.get? s.jobs k with
  | none => s
  | some j =>
    match jobWindowFault j with
    | some a => rejectWindow s k a
    | none =>
      if j.fragSum < j.entry.inLen.toNat then rejectJob s k .lengthShort 0
      else intake (modJob s k (flagIf (decide (j.entry.inLen.toNat < j.fragSum)) flagLenExcess)) k

/-- Starts the read of a fragment table, if the windows grant it (R92). Where they do not, the lowest uncovered address is
one of this table. (DESIGN CHOICE, log entry 116) -/
def startTable (s : State) (k : Nat) (addr : W64) (n : Nat) : State :=
  match KMap.get? s.jobs k with
  | none => s
  | some j =>
    match windowFault j.windows 0 addr.toNat (16 * n) with
    | some a => rejectWindow s k a
    | none =>
      if n = 0 then afterWalk (modJob s k fun x => { x with table := none, asked := 0, landed := [] }) k
      else modJob s k fun x => { x with phase := .tables, table := some (addr, n), asked := 0, landed := [] }

/-- A job as its entry arrives (R78). FRAG_SUM of a FRAG job is 0 until the walk ends. (DESIGN CHOICE, log entry 116) -/
def newJob (s : State) (a : Nat) (e : Entry) (isSealed : Bool) : Job :=
  let v := allotAt s a
  { entry := e, windows := (v.map fun x => x.windows).getD [], curves := (v.map fun x => x.curves).getD 0,
    order := s.sched.fetchSeq, arrival := now s, phase := .reading, frags := [], table := none, walked := 0, fragSum := 0,
    asked := 0, landed := [], input := [], opened := false, sealKey := [], checked := false,
    inl := if isSealed && decide (e.opcode.toNat ≠ 0x3001) && decide (e.opcode.toNat ≠ 0x3002) then 0 else e.inl,
    place := none, waitFrom := now s, evicted := false, restoring := 0, dispatch := 0, dispatchOrder := 0, shared := false,
    plan := [], houseBefore := 0, houseAfter := 0, done := 0, startTick := 0, endTick := 0, lastTick := 0, lastReady := now s,
    draws := [], drawn := [], drawReady := 0, waits := [], key := none, keyRef := none, slot := none, resident := none,
    held := none, index := 0, remaining := 0, attempts := 0, accepted := true, trying := false, abandons := 0, rerun := false, aborted := false,
    discard := false, flags := 0, status := .ok, fault := 0, output := [], ended := none, result := 0, reason := 0, effect := 0,
    detail := 0, decidedAt := 0, written := 0, context := [], maze := none, callm := none, fresh := 0 }

/-- Accepts an entry: its checks start (R78, R94, R370). -/
def acceptEntry (s : State) (k : Nat) (e : Entry) : State :=
  let a := keyAllot k
  let j := newJob s a e (jobSealed s k)
  let s := { s with
    jobs := KMap.put s.jobs k j, sched.fetchSeq := s.sched.fetchSeq + 1,
    queues := KMap.adjust s.queues (queueKey a (keyQueue k)) fun q => { q with inflight := insertNat (keyIndex k) q.inflight } }
  let s := modAllot s a fun v => { v with inflight := v.inflight + 1 }
  if quiesced s && decide (family j ≠ 0xF0) then rejectJob s k .tamperQuiesced 0
  else match entryFailure s k j with
    | some st => rejectJob s k st 0
    | none =>
      if e.frag then startTable s k e.inAddr e.inFrags.toNat
      else afterWalk (modJob s k fun x => { x with
        frags := if e.inLen = 0 then [] else [(e.inAddr, e.inLen.toNat)], fragSum := e.inLen.toNat }) k

/-! ## Data (R86, R99, R142, R234) -/

/-- A fragment table is whole: the walk goes on (R86, R88). -/
def tableLanded (s : State) (k : Nat) (j : Job) (bytes : List Byte) : State :=
  match j.table with
  | none => s
  | some (addr, n) =>
    match walkTable addr bytes n 0 j.frags j.walked with
    | .bad at' => rejectJob s k .resource at'.toNat
    | .link next m fr c => startTable (modJob s k fun x => { x with frags := fr, walked := c }) k next m
    | .done fr c =>
      afterWalk (modJob s k fun x => { x with
        frags := fr, walked := c, fragSum := fr.foldl (fun t p => t + p.2) 0, table := none, asked := 0, landed := [],
        phase := .reading }) k

/-- Bytes of a residence that hold a job's data: words 0 to 7,935 of a plot, or the eight slots of 8,192 bits of an operand
set (R191, R228). -/
def residenceBytes (s : State) (k : Nat) (j : Job) : Nat :=
  if (factsD s k j).placed = some .orangery then 8192 else 8 * plotWords

/-- The fill of a residence: input bytes land in the job's plot from word 0, or in its operand set from the first byte of
its first slot, wherever its working state is (R191, R234, R241). (DESIGN CHOICE, log entry 127) -/
def fillPlot (s : State) (k : Nat) : State :=
  match KMap.get? s.jobs k with
  | some j =>
    if framed s k j && !j.opened then s
    else
      let fill := fun p : Plot => Plot.fill p 0 (j.input.take (residenceBytes s k j))
      if j.evicted then { s with evicted := KMap.adjust s.evicted k fill }
      else match j.place with
        | some (u, r) => setPlot s (plotKey u r) (fill (plotAt s (plotKey u r)))
        | none => s
  | none => s

/-- The whole sealed input is staged: its tag decides, and the plaintext takes its place (R95, R99). -/
def openSealed (s : State) (k : Nat) (j : Job) : State :=
  match (allotAt s (keyAllot k)).bind fun v => v.channelKey with
  | none => rejectJob s k .sealAuth 0
  | some key =>
    match gcmOpen key (sealedNonce j) (associatedData k j.entry) j.landed with
    | none => rejectJob s k .sealAuth 0
    | some m =>
      intake (fillPlot (modJob s k fun x => { x with
        opened := true, sealKey := key, inl := BitVec.ofNat 128 (leNat (slice m 0 16)), landed := m.drop 16, input := m.drop 16 }) k) k

/-- Data bytes land: staged, in the plot, or for the checks that wait for them. -/
def dataLanded (s : State) (k : Nat) (j : Job) (bytes : List Byte) : State :=
  let all := j.landed ++ bytes
  let s := modJob s k fun x => { x with landed := all, input := all }
  if framed s k j then
    if all.length = j.entry.inLen.toNat then openSealed s k { j with landed := all } else s
  else
    let s := fillPlot s k
    if j.phase = .reading then intake s k else s

/-- Bytes of a read of a job's tables or data arrive. -/
def dataReturned (s : State) (k : Nat) (j : Job) (bytes : List Byte) : State :=
  if j.phase = .tables then
    let all := j.landed ++ bytes
    if all.length < (j.table.map fun t => 16 * t.2).getD 0 then modJob s k fun x => { x with landed := all }
    else tableLanded s k j all
  else dataLanded s k j bytes

/-- DATA_READ_ARRIVAL: bytes of the job's oldest read in flight return; those of a read that the isolation wrapper answered
are discarded (R53, R63, R86, R94, R142). (DEDUCED, log entry 31) -/
def execDataReadArrival (r : JobRef) (bytes : List Byte) (s : State) : Host.Outcome State Fault Refusal :=
  let k := refKey r
  let a := keyAllot k
  if !readBytes bytes then .refused .illFormed
  else match findRead s a (serves true k) with
  | none => .next s
  | some x =>
    if x.due < bytes.length then .next s
    else
      let s := takeBytes s a (serves true k) bytes.length
      if x.answered then .next (issueReads s a)
      else match KMap.get? s.jobs k with
        | none => .next s
        | some j => .next (issueReads (dataReturned s k j bytes) a)

/-! ## Placement (R45, R112, R191, R234) -/

/-- The free residences of an allotment on a unit: held by it, with no job, not being zeroed or shed. With no eviction
block an allotment runs in its reserved residences only (R112). What a destroyed allotment held is nobody's until the epoch
ends (R32). -/
def freeResidences (s : State) (a u : Nat) : List Nat :=
  let blocks := ((KMap.get? s.allots a).map fun v => v.evictBlocks).getD 0
  (List.range 8).filter fun r =>
    let v := residenceAt s u r
    decide (v.holder = some a) && !isGhost s a && (!v.pool || decide (0 < blocks)) &&
      v.job.isNone && v.zeroAt.isNone && !(unitAt s u).shedding.contains r &&
      !(unitAt s u).evictions.any fun e => decide (e.residence = r)

/-- A unit can take a job: out of block reset and self-test. -/
def unitOpen (s : State) (u : Nat) : Bool :=
  unitPresent s u && (unitAt s u).resetAt.isNone && !(unitAt s u).inBist

/-- The best unit of a list: the most free residences, a tie to the first. -/
def mostFree (s : State) (a : Nat) (us : List Nat) : Option Nat :=
  us.foldl (fun b u =>
    let n := (freeResidences s a u).length
    match b with
    | none => if 0 < n then some u else none
    | some v => if (freeResidences s a v).length < n then some u else some v) none

/-- The residence that a job takes: a parterre with the most free residences, the first Orangery engine with one;
the lowest number. -/
def choosePlace (s : State) (a : Nat) (c : UnitClass) : Option (Nat × Nat) :=
  let us := (classUnits s c).filter (unitOpen s)
  let u := if c = .orangery then us.find? fun u => decide (freeResidences s a u ≠ []) else mostFree s a us
  u.bind fun u => (freeResidences s a u).head?.map fun r => (u, r)

/-- Gives a residence to a job; the slice context of a parterre job is initialised (R241). The residence was last used in
the tick of the job's last slice, wherever that ran (R235). -/
def occupy (s : State) (k u r : Nat) : State :=
  let last := (KMap.get? s.jobs k).bind fun j => if j.done = 0 then none else some j.endTick
  let s := setResidence s u r { residenceAt s u r with job := some k, lastUse := last }
  modJob s k fun x => { x with place := some (u, r) }

/-- Places a waiting job: a first time its input follows, an evicted job is restored by housekeeping slices. -/
def placeJob (s : State) (k : Nat) (j : Job) (u r : Nat) : State :=
  let s := occupy s k u r
  if j.evicted then modJob s k fun x => { x with restoring := if u < 4 then 8 else 1 }
  else
    let m := plotKey u r
    let n := operandLen (framed s k j) j
    let p := vendorEntry s j
    let s := setPlot s m (if u < 4 then
        { Plot.zero with ctx := { SliceCtx.start p.1 n j.entry.outLen.toNat with seg := p.2 } } else Plot.zero)
    intake (fillPlot (modJob s k fun x => { x with phase := .reading }) k) k

/-- The job waits for a residence, new or evicted. -/
def awaitsPlace (j : Job) : Bool :=
  j.place.isNone && (decide (j.phase = .unplaced) || (j.evicted && decide (j.phase = .ready ∨ j.phase = .running)))

/-- JOB_PLACEMENT: a job takes a free residence of its allotment (R112, R191, R234). -/
def execJobPlacement (r : JobRef) (s : State) : Host.Outcome State Fault Refusal :=
  let k := refKey r
  match KMap.get? s.jobs k with
  | none => .next s
  | some j =>
    let a := keyAllot k
    match (factsD s k j).placed with
    | some c =>
      match choosePlace s a c with
      | some (u, n) =>
        if awaitsPlace j && (j.evicted || decide (jobsWithState s a < stateLimit s a)) then
          .next (issueReads (placeJob s k j u n) a)
        else .next s
      | none => .next s
    | none => .next s

end Sys2Proof.Machine
end

