-- ==== Sys2Proof/Machine/Jobs.lean ====
section
/-! DEFINITION. From dispatch to completion: what a job reserves and draws at its dispatch, what it waits for, how it
ends, and its completion in the ring (R94, R97, R141, R155 to R158, R171 to R174, R341, R422, R444; R278 for Open
routines). -/
namespace Sys2Proof.Machine
open Sys2Proof

/-! ## Dispatch-time checks and reservations -/

/-- A check made at dispatch, with what it reserves: the state after it, and the status of a failure. -/
abbrev DispatchCheck := State → Nat → Job → Facts → State × Option Status

/-- Runs dispatch checks in order on the job as it stands; the first that fails decides. -/
def runChecks : List DispatchCheck → State → Nat → Facts → State × Option Status
  | [], s, _, _ => (s, none)
  | c :: cs, s, k, f =>
    match KMap.get? s.jobs k with
    | none => (s, none)
    | some j =>
      let p := c s k j f
      match p.2 with
      | some st => (p.1, some st)
      | none => runChecks cs p.1 k f

/-- A job that creates a slot key or a channel key, or that loads or unloads a curve (R436). -/
def changesMirrored (j : Job) (f : Facts) : Bool :=
  decide (f.creates = .slot) || decide (f.creates = .channel) ||
    [0x1005, 0x1006].contains j.entry.opcode.toNat

/-- In SOLO such a job does not run (R444). -/
def soloCheck : DispatchCheck := fun s _ j f =>
  (s, if inSolo s && changesMirrored j f then some .twinUnavailable else none)

/-- The key is loaded at dispatch; one that is withdrawn or gone fails (R120, R163). -/
def keyLoadCheck : DispatchCheck := fun s k j _ =>
  let h := j.entry.keyh.toNat
  if h = 0 ∨ handleKind h = 1 then (s, none)
  else match findKey s (keyAllot k) h with
    | some (_, n, key) =>
      if key.withdrawn then (s, some .keyHandle)
      else (modJob s k fun x => { x with key := some key, keyRef := some n }, none)
    | none => (s, some .keyHandle)

/-- The codes of Table 11-9 that R278 raises. -/
def openRefusal (s : State) (k : Nat) (j : Job) : Option Nat :=
  let h := j.entry.keyh.toNat
  match s.stores.image with
  | none => some 0x0100
  | some img =>
    match img.routines[operation j]? with
    | none => some 0x0101
    | some r =>
      if !((allotAt s (keyAllot k)).map fun v => v.openOk).getD false then some 0x0102
      else
        let ok :=
          if r.keyUse = 0 then decide (h = 0)
          else if r.keyUse = 1 then decide (handleKind h = 1 ∨ handleKind h = 2) && j.key.any fun key => key.may 4 && !key.may 6
          else decide (handleKind h = 3)
        if ok then none else some 0x0103

/-- R278. -/
def openCheck : DispatchCheck := fun s k j _ =>
  if isOpenJob j then
    match openRefusal s k j with
    | some code => (modJob s k fun x => { x with result := BitVec.ofNat 128 code }, some .openRoutine)
    | none => (s, none)
  else (s, none)

/-- What an IMPORT's clear input shows (R89, R338). -/
def importCheck : DispatchCheck := fun s k j _ =>
  (s, if j.entry.opcode.toNat = 0x3003 then importDispatchFault s k j else none)

/-- Digest contexts (R287, R288). -/
def digestCheck : DispatchCheck := fun s k j _ => if namesContext j then digestDispatch s k j else (s, none)

/-- The Vault: stateful KEYGEN and import, NOTARISE, and the destruction of a slot key (R171, R341, R344, R422). -/
def vaultCheck : DispatchCheck := fun s _ j f =>
  let stateful := decide (f.creates = .slot) && decide (f.newType / 256 = 5 ∨ f.newType / 256 = 6) &&
    !(decide (j.entry.opcode.toNat = 0x3003) && verifyOnly j)
  let bad :=
    (stateful && (!vaultWritable s || s.ice.imageSuspended)) ||
    (decide (j.entry.opcode.toNat = 0x3801) && !vaultWritable s) ||
    (decide (j.entry.opcode.toNat = 0x3009) && decide (handleKind j.entry.keyh.toNat = 2) && !vaultWritable s)
  (s, if bad then some .vaultMedia else none)

/-- A reserved slot's stateful part, whose tree cache holds its blocks from the dispatch (R179). -/
def reservedStateful (j : Job) (f : Facts) : Option Stateful :=
  let fam := f.newType / 256
  if fam = 5 ∨ fam = 6 then
    if decide (j.entry.opcode.toNat = 0x3003) && verifyOnly j then none
    else
      let levels := if family j = 0x30 then
          ((List.range 8).find? fun v => (statefulSet fam (f.newType % 256) (v + 1)).any fun t =>
            decide (j.input.length = 8 + statefulPrivate fam t + statefulPublic fam t)).map (· + 1)
        else some (auxBits j 3 0)
      (levels.bind (statefulSet fam (f.newType % 256))).map fun t => newStateful t 0
  else none

/-- A slot, and the blocks of a tree cache (R141, R179). -/
def slotCheck : DispatchCheck := fun s k j f =>
  if f.creates = .slot then
    match freeKey s.ice.keys (keyAllot k) (slotCount s (keyAllot k)) with
    | none => (s, some .resource)
    | some n =>
      let t := reservedStateful j f
      if keyBlocksFree s (keyAllot k) < (t.map fun x => x.cacheBlocks).getD 0 then (s, some .resource)
      else
        (modJob { s with ice.keys := KMap.put s.ice.keys n { Key.reserved with stateful := t } } k fun x =>
          { x with slot := some n }, none)
  else (s, none)

/-- Blocks of a Classic McEliece public key that a job makes resident. -/
def residentBlocks (j : Job) (f : Facts) : Nat :=
  if decide (f.creates = .resident) || (decide (j.entry.opcode.toNat = 0x0701) && auxReside j) then
    ((mcSizes (psetOf j)).map fun t => t.2.2.2.1).getD 0
  else 0

/-- A resident index and its blocks (R185). -/
def residentCheck : DispatchCheck := fun s k j f =>
  let n := residentBlocks j f
  if n = 0 then (s, none)
  else match freeKey s.ice.residents (keyAllot k) 64 with
    | none => (s, some .resource)
    | some i =>
      if keyBlocksFree s (keyAllot k) < n then (s, some .resource)
      else
        (modJob { s with ice.residents := KMap.put s.ice.residents i { Key.reserved with blocks := n } } k fun x =>
          { x with resident := some i }, none)

/-- A state slot for a PREPARE (R296): kept empty, under no handle, until the job completes. -/
def stateSlotCheck : DispatchCheck := fun s k _ f =>
  if f.creates = .stateSlot then
    let a := keyAllot k
    match (List.range (stateSlotCount s a)).find? fun i => !KMap.has s.ice.stateSlots (8 * a + i) with
    | none => (s, some .resource)
    | some i =>
      let v : StateSlot := { keyh := 0, pset := 0, blocks := 0, state := [], outer := [] }
      (modJob { s with ice.stateSlots := KMap.put s.ice.stateSlots (8 * a + i) v } k fun x =>
        { x with held := some (8 * a + i), index := i }, none)
  else (s, none)

/-- A curve that is only reserved. -/
def Curve.reserved : Curve :=
  { live := false, unloading := false, pbits := 0, nbits := 0, measurement := [], image := [], unloadOrder := 0 }

/-- A curve index within MAXLOAD (R202). -/
def curveCheck : DispatchCheck := fun s k j _ =>
  if j.entry.opcode.toNat = 0x1005 then
    let a := keyAllot k
    let held := (s.curves.filter fun p => decide (p.1 / 8 = a)).length
    match freeCurve s a with
    | none => (s, some .resource)
    | some i =>
      if ((allotAt s a).map fun v => v.maxLoad).getD 0 ≤ held then (s, some .resource)
      else
        (modJob { s with curves := KMap.put s.curves (curveKey a i) Curve.reserved } k fun x =>
          { x with held := some (curveKey a i), index := i }, none)
  else (s, none)

/-- Kept operands: the block of a KEEP, and the operands that a job reads (R213). -/
def keptCheck : DispatchCheck := fun s k j _ =>
  if decide (family j = 0x13) && decide (operation j ≠ 6) then
    let a := keyAllot k
    let need := bnKeep j && !((allotAt s a).map fun v => v.keptBlock).getD false
    if need && decide (keyBlocksFree s a = 0) then (s, some .resource)
    else
      let s := if need then modAllot s a fun v => { v with keptBlock := true } else s
      if bnKeptBad s k j then (s, some .operandSize)
      else (modJob s k fun x => { x with context := bnGather s k x }, none)
  else (s, none)

/-- Every dispatch check, in order. (DEDUCED, log entry 34) -/
def dispatchChecks : List DispatchCheck :=
  [soloCheck, keyLoadCheck, importCheck, openCheck, vaultCheck, digestCheck, slotCheck, residentCheck, stateSlotCheck, curveCheck,
   keptCheck]

/-- Ends a job in the present tick with a status, its RESULT kept. -/
def failNow (s : State) (k : Nat) (st : Status) : State :=
  match KMap.get? s.jobs k with
  | some j =>
    modJob (releaseEngines s k j) k fun x =>
      { failJob (now s) st x with place := none, slot := none, resident := none, held := none }
  | none => s

/-! ## Signing attempts (R155 to R157) -/

/-- Constant-envelope mode is in force. -/
def inEnvelope (s : State) (k : Nat) (j : Job) : Bool :=
  samplesSignatures j && (j.entry.ceMode || ((allotAt s (keyAllot k)).map fun v => v.ceDefault).getD false)

/-- A signing job whose slices so far have run goes on to its next candidate, or is over (R155, R157). -/
def goOn (s : State) (k : Nat) : State :=
  match KMap.get? s.jobs k with
  | some j => if samplesSignatures j && decide (j.plan = []) && j.ended.isNone then modJob s k (nextCandidate (inEnvelope s k j)) else s
  | none => s

/-! ## Starting (R94, R314) -/

/-- What a job does in its dispatch tick besides its reservations: a stateful index, a quote value, a journal
record, a withdrawn key. -/
def startWaits (s : State) (k : Nat) (j : Job) : State :=
  match j.entry.opcode.toNat with
  | 0x0502 | 0x0602 => match j.keyRef with
    | some n => joinReservation s n k
    | none => s
  | 0x300B => joinQuote s k
  | 0x3801 =>
    let p := postRecord s 1 j.input.length (BitVec.ofNat 16 (keyAllot k)) (keyAllot k) j.input
    modJob p.1 k fun x => { x with waits := [.record p.2] }
  | 0x3009 => keyWithdraw s j.entry.keyh.toNat
  | _ => s

/-- The job runs: its draw and its slices are fixed, but for the candidates of a signature, which follow one another
(R155). -/
def launch (s : State) (k : Nat) (f : Facts) : State :=
  match KMap.get? s.jobs k with
  | none => s
  | some j =>
    let s := modJob s k fun x => { x with
      phase := .running, fresh := s.freeCount, attempts := 0, accepted := !samplesSignatures j, trying := false,
      plan := (f.plan 0).filter fun q => decide (q.2 ≠ 0), shared := f.shared,
      draws := if f.draw.1 = 0 then [] else [{ bytes := f.draw.1, fresh := f.draw.2, posted := false }] }
    startWaits { s with freeCount := s.freeCount + 1 } k j

/-- Starts a dispatched job: checks, reservations, then what it waits for (R94). -/
def startJob (s : State) (k : Nat) : State :=
  match KMap.get? s.jobs k with
  | none => s
  | some j =>
    let f := factsD s k j
    let p := runChecks dispatchChecks s k f
    match p.2 with
    | some st => failNow p.1 k st
    | none => launch p.1 k f

/-! ## Ending -/

/-- How a CURVE_LOAD ends: RESULT carries REASON, the index and the measurement's first bytes (R202).
(DEDUCED, log entry 52) -/
def curveLoadEnding (s : State) (_ : Nat) (j : Job) : State × Ending :=
  let r := curveReason j.input
  let m := sha3_256 j.input
  let res := r + 2 ^ 16 * j.index + 2 ^ 64 * fieldAt m 0 8
  (s, { Ending.bare (if r = 0 then .ok else .curveRejected) with result := BitVec.ofNat 128 res })

/-- The receipt stands in the job's context from its assembly (R423). -/
def journalEnding (s : State) (_ : Nat) (j : Job) : State × Ending :=
  if operation j = 1 then
    (s, { status := .ok, output := slice j.context 0 144,
          result := BitVec.ofNat 128 (fieldAt j.context 0 8 + 2 ^ 64 * fieldAt j.context 128 8), newKey := none })
  else (s, Ending.out (journalPublic s))

/-- How a job ends, by its family. -/
def endingOf (s : State) (k : Nat) (j : Job) : State × Ending :=
  match family j with
  | 0x01 | 0x02 | 0x03 => latticeEnding s k j
  | 0x04 => slhEnding s k j
  | 0x05 | 0x06 => statefulEnding s k j
  | 0x07 => mcEnding s k j
  | 0x08 => hqcEnding s k j
  | 0x10 => if operation j = 5 then curveLoadEnding s k j else if operation j = 6 then (s, Ending.bare .ok) else curveEnding s k j
  | 0x11 => edEnding s k j
  | 0x12 => rsaEnding s k j
  | 0x13 => bnEnding s k j
  | 0x20 | 0x21 => digestEnding s k j
  | 0x30 => iceEnding s k j
  | 0x38 => journalEnding s k j
  | _ => (s, { status := j.status, output := j.output, result := j.result, newKey := none })

/-- An ending with what END has written in a vendor routine: its output, and its ST_VERIFY_FAIL (R230, R259). -/
def Ending.after (e : Ending) (ended : Option (Status × List Byte)) : Ending :=
  match ended with
  | some (st, out) => { e with output := out, status := if st = .verifyFail then .verifyFail else e.status }
  | none => e

/-- The job's outcome is known: its key goes into its slot, not yet live, and what must be durable or mirrored first
is started (R141, R171, R203, R340, R439). A failure gives back what the job held for it (R141, R185, R202); in SOLO no job changes a
mirrored item, whenever it was dispatched (R203, R444). -/
def finishJob (s : State) (k : Nat) : State :=
  match KMap.get? s.jobs k with
  | none => s
  | some j =>
    let (s, e) := endingOf s k j
    let e := e.after j.ended
    let padded := inEnvelope s k j && j.accepted && isSuccess e.status
    let s := modJob s k fun x =>
      { flagIf padded flagEnvelopePadded x with phase := .finishing, status := e.status, output := e.output, result := e.result }
    if isSuccess e.status && inSolo s && changesMirrored j (factsD s k j) then failNow s k .twinUnavailable
    else if !isSuccess e.status then modJob (giveBack s j) k fun x => { x with slot := none, resident := none, held := none }
    else
      let a := keyAllot k
      match e.newKey, j.slot with
      | some newKey, some n =>
        let key := newKey.entered
        let s := { s with ice.keys := KMap.put s.ice.keys n { key with live := false } }
        let p : State × List Nat :=
          match key.stateful with
          | some t =>
            let q := postKeyEvent s a (if operation j = 1 ∧ family j ≠ 0x30 then 1 else 2) n key
              (if family j = 0x30 then t.start else t.space)
            let i := postImageChange q.1 a
            (modJob i.1 k fun x => { x with waits := [.record q.2, .image i.2] }, [q.2])
          | none => (s, [])
        if mirrors s then
          let c := openCommit p.1 a 4 n (keyContents p.1 n key) p.2 (some k)
          modJob c.1 k fun x => { x with waits := x.waits ++ [.twin c.2] }
        else p.1
      | _, _ =>
        let one := fun kind item contents =>
          if mirrors s then
            let c := openCommit s a kind item contents [] (some k)
            modJob c.1 k fun x => { x with waits := [.twin c.2] }
          else s
        match j.entry.opcode.toNat with
        | 0x3002 => one 5 a (((KMap.get? s.jobs k).map fun x => x.context).getD [])
        | 0x1005 => one 6 (j.held.getD 0) j.input
        | 0x1006 => one 6 (curveKey a (psetOf j % 8)) []
        | _ => s

/-- The outcome stands: the job is decided in this tick (R33, R84). -/
def concludeJob (s : State) (k : Nat) : State :=
  modJob s k fun x =>
    let st := if isSuccess x.status then successOf x.flags else x.status
    { decideAt (now s) st x with output := x.output }

/-- Destruction of a slot key after its withdrawal: the reservation ends, the record is made, then it is durable and
committed; a resident key goes at once (R341). -/
def destroyStep (s : State) (k : Nat) (j : Job) : State :=
  let h := j.entry.keyh.toNat
  match findKey s (keyAllot k) h with
  | some (true, n, _) => concludeJob (finishJob (zeroiseResident s n) k) k
  | some (false, n, key) =>
    if keyReservationOpen s h then s
    else if j.index = 0 then
      let p := keyDestroyRecords s h (keyAllot k)
      if mirrors s then
        let c := openCommit p.1 (keyAllot k) 4 n (attributeRecord key false (slotHandle s n)) p.2 (some k)
        modJob c.1 k fun x => { x with index := 1, waits := [.twin c.2] }
      else modJob p.1 k fun x => { x with index := 1, waits := p.2.map Wait.record }
    else concludeJob (finishJob (zeroiseSlot s n) k) k
  | none => failNow s k .keyHandle

/-- A running job has nothing left to run, draw or wait for. -/
def spent (j : Job) : Bool :=
  decide (j.plan = []) && decide (j.draws = []) && decide (j.waits = []) && decide (j.houseBefore = 0) &&
    decide (j.houseAfter = 0) && !isOpenJob j

/-- Carries a job on as far as it goes without a slice (R94, R171, R341). Admin commands have their own steps. -/
def advanceJob (s : State) (k : Nat) : State :=
  match KMap.get? s.jobs k with
  | none => s
  | some j =>
    if family j = 0xF0 then s
    else if j.phase = .running && spent j then
      if j.entry.opcode.toNat = 0x3009 then destroyStep s k j
      else
        let s := finishJob s k
        match KMap.get? s.jobs k with
        | some x => if x.waits = [] then concludeJob s k else s
        | none => s
    else if j.phase = .finishing && decide (j.waits = []) then concludeJob s k
    else s

/-- Ends a job whose record, image change or commit failed: its key and reservations go, its slices count
(R171, R341, R439). -/
def failWaiting (s : State) (k : Nat) (st : Status) : State :=
  match KMap.get? s.jobs k with
  | none => s
  | some j =>
    let s := if j.entry.opcode.toNat = 0x3009 then
        match findKey s (keyAllot k) j.entry.keyh.toNat with
        | some (false, n, _) => setWithdrawn s n false
        | _ => s
      else s
    failNow s k st

/-! ## Completion (R84, R97, R98, R141) -/

/-- The job's outcome takes hold outside it, at its completion. (DEDUCED, log entry 56) -/
def completionEffects (s : State) (k : Nat) (j : Job) : State :=
  let a := keyAllot k
  if !isSuccess j.status then s
  else
    let s := match j.slot with
      | some n =>
        let s := { s with ice.keys := KMap.adjust s.ice.keys n fun x => { x with live := true } }
        if ((KMap.get? s.ice.keys n).bind fun x => x.stateful).isSome then { s with ice.cacheDue := s.ice.cacheDue ++ [n] }
        else (postImageChange s a).1
      | none => s
    let s := match j.resident with
      | some n =>
        let origin := if j.entry.opcode.toNat = 0x0704 then 1 else 0
        let pub := if origin = 1 then j.input else slice j.output 0 ((mcSizes (psetOf j)).getD (0, 0, 0, 0, 0, 0, 0)).1
        let key := residentKey k j origin (residentBlocks j (factsD s k j)) pub
        { s with ice.residents := KMap.put s.ice.residents n { key with live := true } }
      | none => s
    match j.entry.opcode.toNat with
    | 0x1005 =>
      let (pb, nb, _, _, _, _, _, _, _) := curveFields j.input
      let c : Curve := Curve.mk true false pb nb (sha3_256 j.input) j.input 0
      { s with curves := KMap.put s.curves (j.held.getD 0) c }
    | 0x1006 =>
      let mark := fun (c : Curve) => { c with unloading := true, unloadOrder := s.sched.fetchSeq }
      { s with curves := KMap.adjust s.curves (curveKey a (psetOf j % 8)) mark }
    | 0x3002 => modAllot s a fun v => { v with channelKey := some j.context }
    | _ =>
      if family j = 0x13 then bnComplete s k j
      else if family j = 0x20 ∨ family j = 0x21 then digestComplete s k j
      else s

/-- Indices of unloaded curves become free when every job fetched before the unload has completed (R204). -/
def freeUnloaded (s : State) : State :=
  { s with curves := KMap.keep s.curves fun i c =>
      !(c.live && c.unloading) || s.jobs.any fun p => decide (keyAllot p.1 = i / 8) && decide (p.2.order < c.unloadOrder) }

/-- A job that passed every check of Table 4-6 and that neither an abort nor a block reset ended writes a sealed
output, whether or not it was dispatched (R97). -/
def sealsOutput (s : State) (k : Nat) (j : Job) : Bool :=
  framed s k j && j.checked && decide (j.status ≠ .aborted) && decide (j.status ≠ .unitReset)

/-- The bytes that a completed job writes to its output buffer. A sealed job writes RESULT, output and status block
under the output nonce and the key with which it was opened (R97, R340). -/
def outputBytes (s : State) (k : Nat) (j : Job) : List Byte :=
  if framed s k j then
    if sealsOutput s k j then
      gcmSeal j.sealKey (outputNonce j) (associatedData k j.entry)
        (leBytes 16 j.result.toNat ++ j.output ++ leBytes 1 (statusCode j.status) ++ leBytes 1 j.flags.toNat ++ leBytes 2 j.attempts)
    else []
  else j.output

/-- The outputs of jobs decided in an earlier tick begin: all of an output in clear, all but the tag of a sealed one (R53,
R98, R162). (DESIGN CHOICE, log entry 118) -/
def emitOutput (s : State) (k : Nat) : State :=
  match KMap.get? s.jobs k with
  | none => s
  | some j =>
    let out := outputBytes s k j
    let part := if framed s k j then out.take (out.length - 16) else out
    if decide (j.phase = .decided) && decide (j.decidedAt < now s) && decide (j.written = 0) && !j.discard &&
        decide (part ≠ []) then
      let f := funcOf s (keyAllot k)
      send (modJob s k fun x => { x with written := part.length }) (.write f j.entry.outAddr part (funcAt s f).relaxed)
    else s

/-- Every output that begins at a boundary, in the order of dispatch. -/
def emitOutputs (s : State) : State := (jobsBy s (fun j => decide (j.phase = .decided)) fun j => j.dispatchOrder).foldl emitOutput s

/-- The queue's moderation counts a completion with NOTICE (R68, R69). -/
def countNotice (s : State) (k : Nat) (j : Job) : State :=
  if j.entry.notice then
    modQueue s (keyAllot k) (keyQueue k) fun q =>
      if q.vector.isSome then
        { q with
          pendCount := q.pendCount + 1, pendSince := if q.pendCount = 0 then now s else q.pendSince,
          pendTick := now s, pendNew := if q.pendTick = now s then q.pendNew + 1 else 1 }
      else q
  else s

/-- Start-up runs again when an RNG_RAW_MODE has ended (R317). -/
def endRawMode (s : State) (j : Job) : State :=
  if decide (j.entry.opcode.toNat = 0xF012) && s.fountain.rawMode then startFountain s else s

/-- Writes a decided job's completion: effects, what is left of the output, bytes 1 to 63, then byte 0 (R84). -/
def writeCompletion (s : State) (k : Nat) (j : Job) : State :=
  let f := funcOf s (keyAllot k)
  let out := (outputBytes s k j).drop j.written
  let written := j.written + out.length
  let s := completionEffects s k j
  let s := endRawMode s j
  let s := if out = [] then s else send s (.write f (j.entry.outAddr + BitVec.ofNat 64 j.written) out (funcAt s f).relaxed)
  let c := completionBytes j (framed s k j) written
  let s := send s (.write f (entryAddress s k + 1) (c.drop 1) false)
  let s := send s (.write f (entryAddress s k) (c.take 1) false)
  let s := { s with regs.completions := s.regs.completions + 1,
                    regs.admJob := if s.regs.admJob = some k then none else s.regs.admJob }
  freeUnloaded (removeJob (freeResidence (countNotice s k j) j) k)

/-- A job that a quiesce has taken leaves no completion; what an admin command has done stands (R70, R107). -/
def dropCompletion (s : State) (k : Nat) (j : Job) : State :=
  let s := { s with regs.admJob := if s.regs.admJob = some k then none else s.regs.admJob }
  freeUnloaded (removeJob (releaseEngines (endRawMode s j) k j) k)

/-- JOB_COMPLETION: a decided job's outcome is written over its entry (R81 to R84); none is written on the fatal path
(R478). -/
def execJobCompletion (r : JobRef) (s : State) : Host.Outcome State Fault Refusal :=
  let k := refKey r
  match KMap.get? s.jobs k with
  | some j =>
    if decide (j.phase = .decided) && decide (j.decidedAt ≤ now s) && s.dump.active.isNone then
      .next (if j.discard then dropCompletion s k j else writeCompletion s k j)
    else .next s
  | none => .next s

/-! ## The rows of the job families -/

/-- A job row: the operation of a job that has just been dispatched starts; for any other job nothing happens. -/
def jobRow (ok : Job → Bool) (r : JobRef) (s : State) : Host.Outcome State Fault Refusal :=
  let k := refKey r
  match KMap.get? s.jobs k with
  | some j => if decide (j.phase = .dispatched) && ok j then .next (advanceJob (startJob s k) k) else .next s
  | none => .next s

/-- An entry of one opcode. -/
def isOpcode (n : Nat) (j : Job) : Bool := decide (j.entry.opcode.toNat = n)

/-- ML_KEM_KEYGEN, 0x0101 (R143). -/
def execMlKemKeygen (r : JobRef) (s : State) : Host.Outcome State Fault Refusal :=
  jobRow (isOpcode 0x0101) r s

/-- ML_KEM_ENCAPS, 0x0102 (R144). -/
def execMlKemEncaps (r : JobRef) (s : State) : Host.Outcome State Fault Refusal :=
  jobRow (isOpcode 0x0102) r s

/-- ML_KEM_DECAPS, 0x0103 (R145). -/
def execMlKemDecaps (r : JobRef) (s : State) : Host.Outcome State Fault Refusal :=
  jobRow (isOpcode 0x0103) r s

/-- ML_DSA_KEYGEN, 0x0201 (R146). -/
def execMlDsaKeygen (r : JobRef) (s : State) : Host.Outcome State Fault Refusal :=
  jobRow (isOpcode 0x0201) r s

/-- ML_DSA_SIGN, 0x0202 (R155). -/
def execMlDsaSign (r : JobRef) (s : State) : Host.Outcome State Fault Refusal :=
  jobRow (isOpcode 0x0202) r s

/-- ML_DSA_VERIFY, 0x0203 (R150). -/
def execMlDsaVerify (r : JobRef) (s : State) : Host.Outcome State Fault Refusal :=
  jobRow (isOpcode 0x0203) r s

/-- ML_DSA_SIGN_PH, 0x0204 (R148). -/
def execMlDsaSignPh (r : JobRef) (s : State) : Host.Outcome State Fault Refusal :=
  jobRow (isOpcode 0x0204) r s

/-- ML_DSA_VERIFY_PH, 0x0205 (R148). -/
def execMlDsaVerifyPh (r : JobRef) (s : State) : Host.Outcome State Fault Refusal :=
  jobRow (isOpcode 0x0205) r s

/-- FN_DSA_SIGN, 0x0302 (R152). -/
def execFnDsaSign (r : JobRef) (s : State) : Host.Outcome State Fault Refusal :=
  jobRow (isOpcode 0x0302) r s

/-- FN_DSA_VERIFY, 0x0303 (R152). -/
def execFnDsaVerify (r : JobRef) (s : State) : Host.Outcome State Fault Refusal :=
  jobRow (isOpcode 0x0303) r s

/-- FN_DSA_SIGN_PH, 0x0304 (R151). -/
def execFnDsaSignPh (r : JobRef) (s : State) : Host.Outcome State Fault Refusal :=
  jobRow (isOpcode 0x0304) r s

/-- FN_DSA_VERIFY_PH, 0x0305 (R151). -/
def execFnDsaVerifyPh (r : JobRef) (s : State) : Host.Outcome State Fault Refusal :=
  jobRow (isOpcode 0x0305) r s

/-- SLH_DSA_KEYGEN, 0x0401 (R167). -/
def execSlhDsaKeygen (r : JobRef) (s : State) : Host.Outcome State Fault Refusal :=
  jobRow (isOpcode 0x0401) r s

/-- SLH_DSA_SIGN, 0x0402 (R167). -/
def execSlhDsaSign (r : JobRef) (s : State) : Host.Outcome State Fault Refusal :=
  jobRow (isOpcode 0x0402) r s

/-- SLH_DSA_VERIFY, 0x0403 (R168). -/
def execSlhDsaVerify (r : JobRef) (s : State) : Host.Outcome State Fault Refusal :=
  jobRow (isOpcode 0x0403) r s

/-- SLH_DSA_SIGN_PH, 0x0404 (R166). -/
def execSlhDsaSignPh (r : JobRef) (s : State) : Host.Outcome State Fault Refusal :=
  jobRow (isOpcode 0x0404) r s

/-- SLH_DSA_VERIFY_PH, 0x0405 (R166). -/
def execSlhDsaVerifyPh (r : JobRef) (s : State) : Host.Outcome State Fault Refusal :=
  jobRow (isOpcode 0x0405) r s

/-- LMS_KEYGEN, 0x0501 (R171). -/
def execLmsKeygen (r : JobRef) (s : State) : Host.Outcome State Fault Refusal :=
  jobRow (isOpcode 0x0501) r s

/-- LMS_SIGN, 0x0502 (R172). -/
def execLmsSign (r : JobRef) (s : State) : Host.Outcome State Fault Refusal :=
  jobRow (isOpcode 0x0502) r s

/-- LMS_VERIFY, 0x0503 (R182). -/
def execLmsVerify (r : JobRef) (s : State) : Host.Outcome State Fault Refusal :=
  jobRow (isOpcode 0x0503) r s

/-- XMSS_KEYGEN, 0x0601 (R171). -/
def execXmssKeygen (r : JobRef) (s : State) : Host.Outcome State Fault Refusal :=
  jobRow (isOpcode 0x0601) r s

/-- XMSS_SIGN, 0x0602 (R172). -/
def execXmssSign (r : JobRef) (s : State) : Host.Outcome State Fault Refusal :=
  jobRow (isOpcode 0x0602) r s

/-- XMSS_VERIFY, 0x0603 (R182). -/
def execXmssVerify (r : JobRef) (s : State) : Host.Outcome State Fault Refusal :=
  jobRow (isOpcode 0x0603) r s

/-- MCELIECE_KEYGEN, 0x0701 (R184). -/
def execMcelieceKeygen (r : JobRef) (s : State) : Host.Outcome State Fault Refusal :=
  jobRow (isOpcode 0x0701) r s

/-- MCELIECE_ENCAPS, 0x0702 (R186). -/
def execMcelieceEncaps (r : JobRef) (s : State) : Host.Outcome State Fault Refusal :=
  jobRow (isOpcode 0x0702) r s

/-- MCELIECE_DECAPS, 0x0703 (R187). -/
def execMcelieceDecaps (r : JobRef) (s : State) : Host.Outcome State Fault Refusal :=
  jobRow (isOpcode 0x0703) r s

/-- KEY_RESIDE, 0x0704 (R185). -/
def execKeyReside (r : JobRef) (s : State) : Host.Outcome State Fault Refusal :=
  jobRow (isOpcode 0x0704) r s

/-- HQC_KEYGEN, 0x0801 (R188). -/
def execHqcKeygen (r : JobRef) (s : State) : Host.Outcome State Fault Refusal :=
  jobRow (isOpcode 0x0801) r s

/-- HQC_ENCAPS, 0x0802 (R188). -/
def execHqcEncaps (r : JobRef) (s : State) : Host.Outcome State Fault Refusal :=
  jobRow (isOpcode 0x0802) r s

/-- HQC_DECAPS, 0x0803 (R188). -/
def execHqcDecaps (r : JobRef) (s : State) : Host.Outcome State Fault Refusal :=
  jobRow (isOpcode 0x0803) r s

/-- ECDSA_KEYGEN, 0x1001 (R200). -/
def execEcdsaKeygen (r : JobRef) (s : State) : Host.Outcome State Fault Refusal :=
  jobRow (isOpcode 0x1001) r s

/-- ECDSA_SIGN, 0x1002 (R199). -/
def execEcdsaSign (r : JobRef) (s : State) : Host.Outcome State Fault Refusal :=
  jobRow (isOpcode 0x1002) r s

/-- ECDSA_VERIFY, 0x1003 (R199). -/
def execEcdsaVerify (r : JobRef) (s : State) : Host.Outcome State Fault Refusal :=
  jobRow (isOpcode 0x1003) r s

/-- ECDH_AGREE, 0x1004 (R198). -/
def execEcdhAgree (r : JobRef) (s : State) : Host.Outcome State Fault Refusal :=
  jobRow (isOpcode 0x1004) r s

/-- CURVE_LOAD, 0x1005 (R202). -/
def execCurveLoad (r : JobRef) (s : State) : Host.Outcome State Fault Refusal :=
  jobRow (isOpcode 0x1005) r s

/-- CURVE_UNLOAD, 0x1006 (R204). -/
def execCurveUnload (r : JobRef) (s : State) : Host.Outcome State Fault Refusal :=
  jobRow (isOpcode 0x1006) r s

/-- EDWARDS_KEYGEN, 0x1101 (R207). -/
def execEdwardsKeygen (r : JobRef) (s : State) : Host.Outcome State Fault Refusal :=
  jobRow (isOpcode 0x1101) r s

/-- EDWARDS_SIGN, 0x1102 (R205). -/
def execEdwardsSign (r : JobRef) (s : State) : Host.Outcome State Fault Refusal :=
  jobRow (isOpcode 0x1102) r s

/-- EDWARDS_VERIFY, 0x1103 (R206). -/
def execEdwardsVerify (r : JobRef) (s : State) : Host.Outcome State Fault Refusal :=
  jobRow (isOpcode 0x1103) r s

/-- MONTGOMERY_AGREE, 0x1104 (R206). -/
def execMontgomeryAgree (r : JobRef) (s : State) : Host.Outcome State Fault Refusal :=
  jobRow (isOpcode 0x1104) r s

/-- RSA_SIGN_V15, 0x1201 (R209). -/
def execRsaSignV15 (r : JobRef) (s : State) : Host.Outcome State Fault Refusal :=
  jobRow (isOpcode 0x1201) r s

/-- RSA_VERIFY_V15, 0x1202 (R209). -/
def execRsaVerifyV15 (r : JobRef) (s : State) : Host.Outcome State Fault Refusal :=
  jobRow (isOpcode 0x1202) r s

/-- RSA_SIGN_PSS, 0x1203 (R209). -/
def execRsaSignPss (r : JobRef) (s : State) : Host.Outcome State Fault Refusal :=
  jobRow (isOpcode 0x1203) r s

/-- RSA_VERIFY_PSS, 0x1204 (R210). -/
def execRsaVerifyPss (r : JobRef) (s : State) : Host.Outcome State Fault Refusal :=
  jobRow (isOpcode 0x1204) r s

/-- RSA_ENCRYPT_OAEP, 0x1205 (R209). -/
def execRsaEncryptOaep (r : JobRef) (s : State) : Host.Outcome State Fault Refusal :=
  jobRow (isOpcode 0x1205) r s

/-- RSA_DECRYPT_OAEP, 0x1206 (R209). -/
def execRsaDecryptOaep (r : JobRef) (s : State) : Host.Outcome State Fault Refusal :=
  jobRow (isOpcode 0x1206) r s

/-- BN_ADD, 0x1301 (R212). -/
def execBnAdd (r : JobRef) (s : State) : Host.Outcome State Fault Refusal :=
  jobRow (isOpcode 0x1301) r s

/-- BN_SUB, 0x1302 (R212). -/
def execBnSub (r : JobRef) (s : State) : Host.Outcome State Fault Refusal :=
  jobRow (isOpcode 0x1302) r s

/-- BN_MUL, 0x1303 (R212). -/
def execBnMul (r : JobRef) (s : State) : Host.Outcome State Fault Refusal :=
  jobRow (isOpcode 0x1303) r s

/-- BN_INV, 0x1304 (R214). -/
def execBnInv (r : JobRef) (s : State) : Host.Outcome State Fault Refusal :=
  jobRow (isOpcode 0x1304) r s

/-- BN_EXP, 0x1305 (R214). -/
def execBnExp (r : JobRef) (s : State) : Host.Outcome State Fault Refusal :=
  jobRow (isOpcode 0x1305) r s

/-- BN_CLEAR, 0x1306 (R213). -/
def execBnClear (r : JobRef) (s : State) : Host.Outcome State Fault Refusal :=
  jobRow (isOpcode 0x1306) r s

/-- DIGEST_INIT, 0x2001 (R287). -/
def execDigestInit (r : JobRef) (s : State) : Host.Outcome State Fault Refusal :=
  jobRow (isOpcode 0x2001) r s

/-- KEYED_INIT, 0x2101 (R297). -/
def execKeyedInit (r : JobRef) (s : State) : Host.Outcome State Fault Refusal :=
  jobRow (isOpcode 0x2101) r s

/-- DIGEST_UPDATE, 0x2002 and 0x2102 (R285). -/
def execDigestUpdate (r : JobRef) (s : State) : Host.Outcome State Fault Refusal :=
  jobRow (fun j => isOpcode 0x2002 j || isOpcode 0x2102 j) r s

/-- DIGEST_FINAL, 0x2003 and 0x2103 (R297). -/
def execDigestFinal (r : JobRef) (s : State) : Host.Outcome State Fault Refusal :=
  jobRow (fun j => isOpcode 0x2003 j || isOpcode 0x2103 j) r s

/-- STATE_EXPORT, 0x2004 and 0x2104 (R299). -/
def execStateExport (r : JobRef) (s : State) : Host.Outcome State Fault Refusal :=
  jobRow (fun j => isOpcode 0x2004 j || isOpcode 0x2104 j) r s

/-- STATE_IMPORT, 0x2005 (R301). -/
def execStateImport (r : JobRef) (s : State) : Host.Outcome State Fault Refusal :=
  jobRow (isOpcode 0x2005) r s

/-- KEYED_STATE_IMPORT, 0x2105 (R302). -/
def execKeyedStateImport (r : JobRef) (s : State) : Host.Outcome State Fault Refusal :=
  jobRow (isOpcode 0x2105) r s

/-- KEYED_PREPARE, 0x2106 (R296). -/
def execKeyedPrepare (r : JobRef) (s : State) : Host.Outcome State Fault Refusal :=
  jobRow (isOpcode 0x2106) r s

/-- RELEASE, 0x2107 (R298). -/
def execReleaseSlot (r : JobRef) (s : State) : Host.Outcome State Fault Refusal :=
  jobRow (isOpcode 0x2107) r s

/-- SEAL_PUBKEY, 0x3001 (R337). -/
def execSealPubkey (r : JobRef) (s : State) : Host.Outcome State Fault Refusal :=
  jobRow (isOpcode 0x3001) r s

/-- SEAL_OPEN, 0x3002 (R340). -/
def execSealOpen (r : JobRef) (s : State) : Host.Outcome State Fault Refusal :=
  jobRow (isOpcode 0x3002) r s

/-- IMPORT, 0x3003 (R338). -/
def execImportKey (r : JobRef) (s : State) : Host.Outcome State Fault Refusal :=
  jobRow (isOpcode 0x3003) r s

/-- AUTH_IMPORT, 0x3004 (R339). -/
def execAuthImport (r : JobRef) (s : State) : Host.Outcome State Fault Refusal :=
  jobRow (isOpcode 0x3004) r s

/-- GENERATE, 0x3005 (R337). -/
def execGenerateKey (r : JobRef) (s : State) : Host.Outcome State Fault Refusal :=
  jobRow (isOpcode 0x3005) r s

/-- WRAP, 0x3006 (R335). -/
def execWrap (r : JobRef) (s : State) : Host.Outcome State Fault Refusal :=
  jobRow (isOpcode 0x3006) r s

/-- UNWRAP, 0x3007 (R336). -/
def execUnwrap (r : JobRef) (s : State) : Host.Outcome State Fault Refusal :=
  jobRow (isOpcode 0x3007) r s

/-- PUBLIC, 0x3008 (R337). -/
def execPublicPart (r : JobRef) (s : State) : Host.Outcome State Fault Refusal :=
  jobRow (isOpcode 0x3008) r s

/-- DESTROY, 0x3009 (R341). -/
def execDestroyKey (r : JobRef) (s : State) : Host.Outcome State Fault Refusal :=
  jobRow (isOpcode 0x3009) r s

/-- DESCRIBE, 0x300A (R328). -/
def execDescribeKey (r : JobRef) (s : State) : Host.Outcome State Fault Refusal :=
  jobRow (isOpcode 0x300A) r s

/-- QUOTE, 0x300B (R346). -/
def execFumelQuote (r : JobRef) (s : State) : Host.Outcome State Fault Refusal :=
  jobRow (isOpcode 0x300B) r s

/-- NOTARISE, 0x3801 (R422). -/
def execNotarise (r : JobRef) (s : State) : Host.Outcome State Fault Refusal :=
  jobRow (isOpcode 0x3801) r s

/-- JOURNAL_KEY, 0x3802 (R421). -/
def execJournalKey (r : JobRef) (s : State) : Host.Outcome State Fault Refusal :=
  jobRow (isOpcode 0x3802) r s

/-- OPEN_ROUTINE_CALL, family 0x40 (R278). -/
def execOpenRoutineCall (r : JobRef) (s : State) : Host.Outcome State Fault Refusal :=
  jobRow isOpenJob r s

end Sys2Proof.Machine
end

