-- ==== Sys2Proof/Machine/Bridge.lean ====
section
/-! DEFINITION. The Footbridge's shared operations: failing and finishing commits, entering SOLO, link keys, and the
items that pairing installs (19_footbridge.md R428 to R446). -/
namespace Sys2Proof.Machine
open Sys2Proof

/-- The West pavilion; the strap reads 0 on the East (Table 20-3). -/
def isWest (s : State) : Bool := s.boot.straps.getLsbD 4

/-- `n` bytes that the device draws for itself: free values. -/
def freshBytes (s : State) (n : Nat) : List Byte × State :=
  let k := ceilDiv n 8
  (slice ((List.range k).flatMap fun i => leBytes 8 (Config.freeWord (s.freeCount + i)).toNat) 0 n,
    { s with freeCount := s.freeCount + k })

/-! ## Commits (R439 to R441) -/

/-- The frames of a transaction leave the queues. -/
def dropFrames (s : State) (t : Nat) : State :=
  { s with bridge.queue := KMap.mapAll s.bridge.queue fun _ l => l.filter fun f => decide (f.tseq ≠ t) || decide (f.type ≠ 0x10) }

/-- What depended on a commit fails (R109, R174, R203). -/
def failDependents (s : State) (c : Commit) (st : Status) : State :=
  match c.kind, c.job with
  | 8, none => failReservation s c.item st
  | 9, none => failQuote s st
  | _, some k =>
    match KMap.get? s.jobs k with
    | some j => if family j = 0xF0 then adminFail (adminUndo s j) k st 0 else failWaiting s k st
    | none => s
  | _, none => s

/-- An open commit fails; a PREPARE that has left is followed by ABANDON (R441). -/
def failCommit (s : State) (t : Nat) (st : Status) : State :=
  match KMap.get? s.bridge.commits t with
  | none => s
  | some c =>
    let s := closeCommit (dropFrames s t) t
    let s := if c.sentAt.isSome then postFrame s c.holder 0x14 t (leBytes 8 t) else s
    failDependents s c st

/-- Own records durable and ACK received: COMMIT is posted (R439 step 3). -/
def commitReady (s : State) : State :=
  s.bridge.commits.foldl (fun s p =>
    if p.2.acked && decide (p.2.records = []) && !p.2.committing then
      let s := { s with bridge.commits := KMap.adjust s.bridge.commits p.1 fun c => { c with committing := true } }
      postFrame s p.2.holder 0x13 p.1 (leBytes 8 p.1)
    else s) s

/-- COMMIT is handed to the link: the change takes effect here (R439 step 3). -/
def commitDone (s : State) (t : Nat) : State :=
  match KMap.get? s.bridge.commits t with
  | none => s
  | some c =>
    let s := closeCommit s t
    let s := { s with bridge := { s.bridge with
      commitsDone := min (s.bridge.commitsDone + 1) 0xFFFFFFFF, committed := s.bridge.committed ++ [t] } }
    match c.kind, c.job with
    | 8, none => match (statefulAt s c.item).bind fun x => x.opened with
      | some b => commitBlock s c.item b
      | none => s
    | 9, none => match s.ice.quoteOpened with
      | some b => commitQuote s b
      | none => s
    | _, some k => modJob s k fun j => { j with waits := j.waits.filter fun w => decide (w ≠ .twin t) }
    | _, none => s

/-- An acknowledgement for every staged change whose records are durable (R439 step 2). -/
def ackReady (s : State) : State :=
  let due := s.bridge.staged.filter fun x => !x.acked && decide (x.records = [])
  due.foldl (fun s x => postFrame s x.holder 0x11 x.tseq (leBytes 8 x.tseq))
    { s with bridge.staged := s.bridge.staged.map fun x => { x with acked := x.acked || decide (x.records = []) } }

/-! ## SOLO (R443, R444) -/

/-- Enters SOLO: 1 by loss, 2 by command or notice, 3 under the debug root. Open commits fail, staged changes stand in
doubt, and a TWIN SOLO record is written. -/
def enterSolo (s : State) (cause : Nat) : State :=
  if s.bridge.solo then (if cause = 3 then { s with bridge.soloCause := 3 } else s)
  else
    let ts := s.bridge.commits.map Prod.fst
    let s := { s with bridge := { s.bridge with
      solo := true, soloCause := cause, soloTick := now s, rejoining := false,
      staged := s.bridge.staged.map fun x => { x with inDoubt := true } } }
    let s := ts.foldl (fun s t => failCommit s t .twinUnavailable) s
    (postTwin s 2).1

/-! ## Link keys and frames (R430, R431) -/

/-- The link key from the pair key and both nonces. -/
def deriveLinkKey (s : State) : Option (List Byte) :=
  match s.bridge.pairKey, s.bridge.ownNonce, s.bridge.peerNonce with
  | some k, some own, some peer =>
    some (kmac256 k (if isWest s then peer ++ own else own ++ peer) 32 "SDZ-LINK")
  | _, _, _ => none

/-- Puts the nonce of this link up into the device's queue, once the Fountain is ready (R431). -/
def postNonce (s : State) : State :=
  if s.fountain.ready then
    let p := freshBytes s 32
    postFrame { p.2 with bridge := { p.2.bridge with ownNonce := some p.1, nonceDue := false } } deviceHolder 0x24 0 p.1
  else { s with bridge.nonceDue := true }

/-- Frame numbers restart at 1 under a new link key, and messages in transit are sent again from their first segment. -/
def restartFrames (s : State) : State :=
  { s with bridge := { s.bridge with
      fseqOut := 0, fseqIn := 0, sent := [], nakSince := none, linkKey := none, ownNonce := none, peerNonce := none,
      queue := KMap.mapAll s.bridge.queue fun _ l =>
        (l.filter fun f => decide (f.type ≠ 0x24) && decide (f.type ≠ 0x23) && decide (f.type ≠ 0x21)).map fun f =>
          { f with fseq := 0, segment := 0 } } }

/-- The link goes down or retrains (R428, R430). -/
def linkLost (s : State) : State :=
  restartFrames { s with bridge := { s.bridge with linkUp := false, lanes := 0, retrainAt := now s + 4096 } }

/-- A retrain is counted. -/
def retrain (s : State) : State :=
  linkLost { s with bridge.retrains := min (s.bridge.retrains + 1) 0xFFFF }

/-- A pairing or rejoin ceremony that fails: the pair key is discarded, and TWIN_PAIR or TWIN_REJOIN ends (R435). -/
def failCeremony (s : State) (st : Status) (reason : Nat) : State :=
  let job := if s.bridge.rejoining then s.bridge.rejoinJob else s.bridge.ceremonyJob
  let wasPaired := s.bridge.paired
  let s := { s with bridge := { s.bridge with
      ceremony := 0, ceremonyJob := none, rejoinJob := none, rejoining := false, authSent := false, authSeen := false,
      helloOwn := [], helloPeer := [], kemEk := [], kemCt := [], sharedSecret := [],
      pairKey := if wasPaired then s.bridge.pairKey else none } }
  match job with
  | some k => adminFail s k st reason
  | none => s

/-! ## Mirrored items as STATE carries them (R436) -/

/-- Entry `i` of the routine table (Table 11-8). -/
def routineAt (b : List Byte) (i : Nat) : Routine :=
  let f := fun off n => fieldAt b (1984 + 16 * i + off) n
  { start := f 0 2, words := f 2 2, maxOut := f 4 4, sliceLimit := f 8 4, keyUse := f 12 1 }

/-- The image that the bytes spell. -/
def openImageOf (b : List Byte) : OpenImage :=
  let r := fieldAt b 6 2
  let c := fieldAt b 8 4
  { id := BitVec.ofNat 32 (fieldAt b 12 4), routines := (List.range r).map (routineAt b),
    code := (List.range c).map fun i => BitVec.ofNat 32 (fieldAt b (1984 + 16 * r + 4 * i) 4), measurement := sha3_256 b,
    bytes := b }

/-- The windows of an item. -/
def itemWindows (b : List Byte) : Nat → KMap Window
  | 0 => []
  | n + 1 =>
    let f := fun off k => fieldAt b (18 * n + off) k
    KMap.put (itemWindows b n) (f 0 1)
      { base := BitVec.ofNat 64 (f 1 8), limit := BitVec.ofNat 64 (f 9 8), perm := BitVec.ofNat 2 (f 17 1) }

/-- Reads an allotment's definition. -/
def itemAllot (b : List Byte) (share : Nat) : Allotment :=
  let f := fieldAt b
  { isSealed := bitOf (f 0 1) 0, shareable := bitOf (f 0 1) 1, lendable := bitOf (f 0 1) 2, openOk := bitOf (f 0 1) 3,
    ceDefault := bitOf (f 0 1) 4, evictBlocks := f 1 1, quota := f 2 2, stageBlocks := f 4 1, keyBlocks := f 5 1,
    destroying := false, orphaned := false, quiesced := false, lease := Lease.none, pendingLease := none, shareFrom := share,
    windows := itemWindows (b.drop 147) (f 146 1), func := if f 6 1 = 1 then some (f 7 1) else none, page := f 8 2,
    tagGroup := f 10 2, reads := [], inflight := 0, lastFetch := 7, lastResume := 7,
    curves := BitVec.ofNat 7 (f 12 1), maxLoad := f 13 1, salt := slice b 14 32, blobSerial := BitVec.ofNat 32 (f 46 4),
    channelKey := none, digestBlock := false, keptBlock := false, destroyRecords := [],
    twinKeys := some (slice b 50 32, slice b 82 64), usage := [] }

/-- Reads a queue's definition. -/
def itemQueue (b : List Byte) : Queue :=
  let f := fieldAt b
  newQueue (BitVec.ofNat 64 (f 0 8)) (f 8 1) (if f 9 2 = 0xFFFF then none else some (f 9 2)) (f 11 2) (f 13 2)

/-- Reads a lease. -/
def itemLease (b : List Byte) : Lease :=
  let f := fieldAt b
  ⟨f 0 2, f 2 2, f 4 2, f 6 2, f 8 1, f 9 1⟩

/-- The lowest block of a stateful key that indices may come from: the one that holds its starting index. -/
def firstBlock (start : Nat) : Nat := start / 1024

/-- The stateful part of a key that an item brings: the twin builds its own tree cache, which takes its blocks here too
(R179, R181). -/
def itemStateful (type levels space start : Nat) : Option Stateful :=
  if space = 0 then none
  else (statefulSet (type / 256) (type % 256) levels).map fun t =>
    let x := newStateful t start
    { x with cache := reloadCache x.cache }

/-- A slot key's item with its sealed part opened under the pair key; none where it does not open (R436). -/
def openKeyItem (s : State) (b : List Byte) : Option (List Byte) :=
  (kwpUnwrap (s.bridge.pairKey.getD []) (b.drop 32)).map fun p => b.take 32 ++ p

/-- Reads a slot key from its attribute record, index space and parts (kind 0x0004). The blocks that the twin knows as
reserved follow as items of kind 0x0008; the tree cache takes its blocks here too (R179). -/
def itemKey (b : List Byte) : Key :=
  let f := fieldAt b
  let n := f 48 4
  let m := f (52 + n) 4
  Key.entered { Key.reserved with
    live := true, type := BitVec.ofNat 16 (f 8 2), usage := BitVec.ofNat 8 (f 10 1), lcmask := BitVec.ofNat 8 (f 11 1),
    exportable := decide (f 12 1 = 1), admin := decide (f 13 1 = 1), origin := f 14 1,
    func := if bitOf (f 15 1) 0 then some (f 16 1) else none, persisted := bitOf (f 15 1) 1, keyBytes := f 20 4,
    binding := slice b 24 8, priv := slice b 52 n, pub := slice b (56 + n) m,
    stateful := itemStateful (f 8 2) (f 24 1) (f 32 8) (f 40 8) }

/-- The blocks that a key's part shows as taken, as an item of kind 0x0008: the handle and the highest block. -/
def blockItem (s : State) (p : Nat × Key) : Option (Nat × Nat × List Byte) :=
  p.2.stateful.bind fun t =>
    if p.2.live && decide (firstBlock t.start < t.nextBlock) then
      some (8, p.1, leBytes 8 (slotHandle s p.1).toNat ++ leBytes 8 (t.nextBlock - 1))
    else none

/-- Every mirrored item, in the order of the kinds and then of the identifiers. -/
def mirroredItems (s : State) : List (Nat × Nat × List Byte) :=
  (s.allots.filter fun p => decide (1 ≤ p.1)).map (fun p => (1, p.1, allotItem s p.1 p.2)) ++
    (s.queues.filter fun p => decide (1 ≤ p.1 / 8)).map (fun p => (2, p.1, queueItem p.2)) ++
    (s.allots.filter fun p => decide (1 ≤ p.1)).map (fun p => (3, p.1, leaseItem (leaseNext p.2))) ++
    (s.ice.keys.filter fun p => p.2.live).map (fun p => (4, p.1, keyContents s p.1 p.2)) ++
    s.allots.filterMap (fun p => p.2.channelKey.map fun c => (5, p.1, c)) ++
    (s.curves.filter fun p => p.2.live && !p.2.unloading).map (fun p => (6, p.1, p.2.image)) ++
    ((s.stores.pending.map Prod.snd <|> s.stores.image).map fun i => (7, 0, i.bytes)).toList ++
    s.ice.keys.filterMap (blockItem s) ++
    (if s.ice.quoteNext = 0 then [] else [(9, 0, leBytes 8 (s.ice.quoteNext - 1))]) ++
    [(0x0A, 0, leBytes 8 s.lodge.secTime.toNat)] ++ [(0x0B, 0, tamperItem s.gh)] ++
    [(0x0D, 0, leBytes 8 s.ice.enrolCount ++ s.ice.secret.getD [])]

/-- Installs one STATE item (R435 step 5). -/
def installItem (s : State) (kind item : Nat) (b : List Byte) : State :=
  match kind with
  | 1 => { s with allots := KMap.put s.allots item (itemAllot b (effectEpoch (now s))) }
  | 2 => { s with queues := KMap.put s.queues item (itemQueue b) }
  | 3 => modAllot s item fun v => { v with pendingLease := some (effectEpoch (now s), itemLease b) }
  | 4 =>
    match openKeyItem s b with
    | some b => { s with
        ice.keys := KMap.put s.ice.keys item (itemKey b),
        ice.gens := KMap.put s.ice.gens item (handleGen (fieldAt b 0 8)) }
    | none => s
  | 5 => modAllot s item fun v => { v with channelKey := some b }
  | 6 =>
    let (pb, nb, _, _, _, _, _, _, _) := curveFields b
    { s with curves := KMap.put s.curves item (Curve.mk true false pb nb (sha3_256 b) b 0) }
  | 7 => { s with stores.pending := some (effectEpoch (now s), openImageOf b) }
  | 8 => modStateful s item fun t => { t with nextBlock := max t.nextBlock (fieldAt b 8 8 + 1) }
  | 9 => { s with ice.quoteNext := max s.ice.quoteNext (fieldAt b 0 8 + 1) }
  | 0x0B => { s with gh := { s.gh with
      sources := s.gh.sources.mapIdx fun i x => configEntry b i x, locked := s.gh.locked || decide (fieldAt b 256 1 = 1) } }
  | 0x0A => { s with lodge := { s.lodge with secTime := BitVec.ofNat 64 (max s.lodge.secTime.toNat (leNat b)), timeValid := true } }
  | 0x0D => { s with ice.enrolCount := fieldAt b 0 8, ice.secret := if b.length = 40 then some (b.drop 8) else none }
  | 0x0E =>
    let s := { s with bridge.peerHandleKey := some (slice b 0 32), bridge.peerVault := some (b.drop 32) }
    if isWest s then { s with bridge.handleKey := some (slice b 0 32) } else s
  | _ => { s with bridge.mirrored := KMap.put s.bridge.mirrored (65536 * kind + item) b }

/-- Puts a record that the pairing waits for. -/
def pairingRecord (p : State × Nat) : State := { p.1 with bridge.pairRecords := p.1.bridge.pairRecords ++ [p.2] }

/-- Installs an item of the twin at a pairing: a slot key or an attestation secret that it takes the place of is destroyed
with its record, which is durable before the pairing completes (R2, R435 step 5). -/
def installState (s : State) (kind item : Nat) (b : List Byte) : State :=
  let s := match kind, KMap.get? s.ice.keys item with
    | 4, some key => if key.live then pairingRecord (postKeyEvent s deviceHolder 3 item key 0) else s
    | 0x0D, _ =>
      if s.ice.secret.isSome && decide (s.ice.secret ≠ some (b.drop 8)) then
        pairingRecord (postRecord s 2 0 0xFFFF deviceHolder (securityBody 0 0xFF 0xFF 1 (now s) (now s) (b.take 8)))
      else s
    | _, _ => s
  installItem s kind item b

end Sys2Proof.Machine
end

