-- ==== Sys2Proof/Machine/Control.lean ====
section
/-! DEFINITION. The commands that change what the device is: OPEN_LOAD, LC_ADVANCE, DEBUG_UNLOCK, BIST_RUN and its
parts, the Vault commands, ATTEST_ENROL (05_admin_commands.md R121, R126 to R131, R135; 11_control_stores.md R273 to
R276; 14_icehouse.md R345; 15_lifecycle_debug.md R349 to R360; 21_errors_dump_bist.md R483 to R486). -/
namespace Sys2Proof.Machine
open Sys2Proof

/-! ## OPEN_LOAD (R121, R273 to R276) -/

/-- The length of an image with `r` routines and `c` words (R273). -/
def openImageLen (r c : Nat) : Nat := 1984 + 16 * r + 4 * c + 3309

/-- A routine-table entry in range (R274). -/
def routineOk (b : List Byte) (c i : Nat) : Bool :=
  let r := routineAt b i
  decide (1 ≤ r.words ∧ r.start + r.words ≤ c ∧ r.maxOut ≤ 31744 ∧ 1 ≤ r.sliceLimit ∧ r.sliceLimit ≤ 2 ^ 20 ∧ r.keyUse ≤ 2) &&
    decide (fieldAt b (1984 + 16 * i + 13) 3 = 0)

/-- Check 1 of R275: the length and every field. -/
def openImageOk (b : List Byte) : Bool :=
  let r := fieldAt b 6 2
  let c := fieldAt b 8 4
  decide (1984 ≤ b.length) && decide (slice b 0 6 = [0x4F, 0x50, 0x4E, 0x53, 1, 0]) && decide (1 ≤ r ∧ r ≤ 64) &&
    decide (1 ≤ c ∧ c ≤ 32768) && decide (b.length = openImageLen r c) && decide (fieldAt b 16 16 = 0) &&
    (List.range r).all (routineOk b c)

/-- The owner key's hash is the fused one, and its ML-DSA-65 signature over the bytes before it holds. -/
def ownerSigned (key hash sig ctx m : List Byte) : Bool :=
  decide (sha3_256 key = hash) &&
    dsaHolds 2 key sig (messageRep false 0 ctx m)

/-- The checks of OPEN_LOAD, in the order of R275. -/
def openLoadCheck (s : State) (j : Job) : Option (Status × Nat) :=
  let b := j.input
  let n := b.length - 3309
  if !hasOpenStore s then some (.unitAbsent, 0)
  else if !openImageOk b then refuse 0x0001
  else if !ownerSigned (slice b 32 1952) s.otp.codeHash (b.drop n) (ascii "STRELDOZIN-OPEN") (b.take n) then some (.verifyFail, 0)
  else none

/-- The verified image waits for its epoch; a later one replaces it. -/
def openLoadApply (s : State) (_ : Nat) (j : Job) : State × Nat × Nat :=
  let e := effectEpoch (now s)
  ({ s with stores.pending := some (e, openImageOf j.input) }, e, 0)

/-- OPEN_LOAD. -/
def cmdOpenLoad : AdminCmd :=
  { opcode := 0xF00A, markS := fun _ => true, markQ := false, markE := false, needsRoot := false,
    check := openLoadCheck, draws := fun _ => none, records := noRecords, mirrored := fun _ => some (7, 0),
    apply := openLoadApply }

/-- A family 0x40 job in flight: dispatched and not yet decided. -/
def openInFlight (j : Job) : Bool :=
  isOpenJob j && decide (j.phase = .dispatched ∨ j.phase = .running ∨ j.phase = .finishing)

/-- The image that waits is installed at its epoch boundary: jobs in flight end with IMAGE_REPLACED, the store is
written in the first 8 ticks (R276). -/
def installImage (s : State) : State :=
  match s.stores.pending with
  | some (e, img) =>
    if e ≤ epochOf (now s) then
      let ks := (s.jobs.filter fun p => openInFlight p.2).map Prod.fst
      let s := ks.foldl (fun s k => failNow (modJob s k fun x => { x with result := 0x0106 }) k .openRoutine) s
      { s with stores := { s.stores with image := some img, pending := none, busyUntil := now s + 8 } }
    else s
  | none => s

/-! ## Life-cycle states (R349 to R354) -/

/-- The legal word sets of Table 15-1. -/
def lifeWords (n : Nat) : List W32 :=
  match n with
  | 0 => [0, 0, 0, 0]
  | 1 => [0x3C3C3C3C, 0xC3C3C3C3, 0x5A5A5A5A, 0xA5A5A5A5]
  | 2 => [0x3CFF3CFF, 0xFFC3FFC3, 0x5AFF5AFF, 0xFFA5FFA5]
  | _ => [0xFFFFFFFF, 0xFFFFFFFF, 0xFFFFFFFF, 0xFFFFFFFF]

/-- The state that four words decode to, and whether the set is illegal (R349). -/
def decodeLife (ws : List W32) : Nat × Bool :=
  match [0, 1, 2, 3].find? fun n => decide (ws = lifeWords n) with
  | some n => (n, false)
  | none => (3, true)

/-- An item that has been programmed. -/
def programmed (b : List Byte) : Bool := b.any (· ≠ 0)

/-- A transition of Table 15-2. -/
def lifeArrow (old new : Nat) : Bool := [(0, 1), (0, 3), (1, 2), (1, 3), (2, 3)].contains (old, new)

/-- A free seed bank (R352). -/
def freeSeedBank (o : Otp) : Bool := !programmed o.seed0 || !programmed o.seed1

/-- The preconditions of a transition (Tables 15-2 and 15-3). -/
def lifeReady (o : Otp) (old new : Nat) : Bool :=
  match old, new with
  | 0, 1 => decide (o.deviceId ≠ 0) && programmed o.patchKey
  | 1, 2 => programmed o.codeHash && programmed o.debugHash && programmed o.anchorHash && freeSeedBank o
  | _, _ => true

/-- The target of LC_ADVANCE. -/
def lifeTarget (j : Job) : Nat := inlineField j 48 1

/-- The checks of R126 and R351. -/
def lcAdvanceCheck (s : State) (j : Job) : Option (Status × Nat) :=
  let t := lifeTarget j
  if t < 1 ∨ 3 < t then refuse 0x0001
  else if t ≤ s.lc.pending then refuse 0x000C
  else if !lifeArrow s.lc.pending t || !lifeReady s.otp s.lc.pending t then some (.lifecycle, 0)
  else if decide (s.lc.pending = 2) && !vaultWritable s then some (.vaultMedia, 0)
  else none

/-- From PRODUCTION a LIFECYCLE record comes first (R126). -/
def lcAdvanceRecords (s : State) (j : Job) : State × List Nat :=
  if s.lc.pending = 2 then adminRecord s 5 1 0xFFFF (lifecycleBody s (lifeTarget j) 0 (zeroBytes 32)) else (s, [])

/-- Programs a seed bank on the way to PRODUCTION (R352). -/
def programSeed (o : Otp) (seed : List Byte) : Otp :=
  if programmed o.seed0 then { o with seed1 := seed } else { o with seed0 := seed }

/-- Programs bits of the life-cycle words: a bit is never cleared (R350). -/
def programLife (o : Otp) (t : Nat) : Otp :=
  { o with lcWords := (List.range 4).map fun i => o.lcWords.getD i 0 ||| (lifeWords t).getD i 0 }

/-- Programs the words and reads them back: DETAIL byte 58 is the state they decode to; a word that reads back other than
its target ends in ST_INTERNAL (R353). -/
def lcAdvanceApply (s : State) (k : Nat) (j : Job) : State × Nat × Nat :=
  let t := lifeTarget j
  let o := if t = 2 then programSeed s.otp (slice j.drawn 0 32) else s.otp
  let o := programLife o t
  let d := decodeLife o.lcWords
  let s := { s with otp := o, lc := { s.lc with pending := d.1, words := o.lcWords } }
  let s := if o.lcWords = lifeWords t then s else modJob s k fun x => { x with status := .internal }
  (s, 0xFFFFFFFFFFFFFFFF, d.1)

/-- LC_ADVANCE. -/
def cmdLcAdvance : AdminCmd :=
  { opcode := 0xF00F, markS := fun _ => true, markQ := false, markE := false, needsRoot := false,
    check := lcAdvanceCheck, draws := fun j => if lifeTarget j = 2 then some (32, true) else none,
    records := lcAdvanceRecords, mirrored := fun _ => some (0, 0), apply := lcAdvanceApply }

/-! ## DEBUG_UNLOCK (R127, R358 to R360) -/

/-- The life-cycle condition of both steps, then the range of AUX: R127 gives AUX above 1 no status, and it is FIELD_RANGE.
(DESIGN CHOICE, log entry 115) -/
def debugLife (s : State) (j : Job) : Option (Status × Nat) :=
  if s.lc.inForce ≠ 2 then some (.lifecycle, 0)
  else if 1 < j.entry.aux.toNat then refuse 0x0001
  else none

/-- The first step leaves a nonce outstanding, in place of any earlier one. -/
def debugNonceApply (s : State) (k : Nat) (j : Job) : State × Nat × Nat :=
  let n := slice j.drawn 0 32
  (modJob { s with lc.nonce := some n } k fun x => { x with output := n }, 0, 0)

/-- DEBUG_UNLOCK with AUX = 0. -/
def cmdDebugNonce : AdminCmd :=
  { opcode := 0xF010, markS := fun _ => true, markQ := false, markE := false, needsRoot := false,
    check := debugLife, draws := fun _ => some (32, false), records := noRecords, mirrored := fun _ => none,
    apply := debugNonceApply }

/-- SCOPE of a token. -/
def tokenScope (j : Job) : W16 := BitVec.ofNat 16 (fieldAt j.input 6 2)

/-- The checks of R359 in order, after NO_NONCE. -/
def debugTokenCheck (s : State) (j : Job) : Option (Status × Nat) :=
  let b := j.input
  match debugLife s j, s.lc.nonce with
  | some e, _ => some e
  | none, none => refuse 0x0012
  | none, some nonce =>
    if !(decide (b.length = 5325) && decide (slice b 0 6 = [0x44, 0x42, 0x47, 0x54, 1, 0]) && decide ((tokenScope j).toNat < 4) &&
        decide (fieldAt b 48 16 = 0)) then refuse 0x0001
    else if !(decide (fieldAt b 8 8 = s.otp.deviceId.toNat) && decide (slice b 16 32 = nonce)) then some (.verifyFail, 0)
    else if !ownerSigned (slice b 64 1952) s.otp.debugHash (b.drop 2016) (ascii "STRELDOZIN-DEBUG") (b.take 2016) then
      some (.verifyFail, 0)
    else none

/-- The effects begin: tenants are aborted, a paired device enters SOLO, and the LIFECYCLE record is made, unless the
device is unlocked already (R127, R360). Without a Vault no record can be made. -/
def debugFollow (s : State) (j : Job) : State × List Nat :=
  let s := (tenants s).foldl abortAllotment s
  let s := if s.bridge.paired then postFrame (enterSolo s 3) deviceHolder 0x22 0 [2] else s
  if vaultWritable s && !s.lc.debug then
    adminRecord s 5 2 0xFFFF (lifecycleBody s s.lc.pending (tokenScope j) (sha3_256 (slice j.input 64 1952)))
  else (s, [])

/-- The volatile clear, the unmount, and the debug root until the next reset, under which no attestation secret is at hand
(R333). Slices whose job lost its key or residence are abandoned (R343). (DEDUCED, log entry 134) -/
def debugTokenApply (s : State) (_ : Nat) (j : Job) : State × Nat × Nat :=
  let s := unmountVault (volatileClear (abandonRunning s))
  ({ s with ice.secret := none, lc := { s.lc with debug := true, scope := s.lc.scope ||| tokenScope j, tokens := s.lc.tokens + 1 } }, 0, 0)

/-- DEBUG_UNLOCK with AUX = 1. -/
def cmdDebugToken : AdminCmd :=
  { opcode := 0xF010, markS := fun _ => true, markQ := false, markE := false, needsRoot := false,
    check := debugTokenCheck, draws := fun _ => none, records := noRecords, mirrored := fun _ => some (0, 0),
    follow := debugFollow, apply := debugTokenApply }

/-- The nonce is spent by every token that reaches its checks (R127). -/
def spendNonce (s : State) (j : Job) : State :=
  if (adminGate cmdDebugToken s j).isNone && (debugLife s j).isNone then { s with lc.nonce := none } else s

/-! ## BIST_RUN (R128, R483 to R486) -/

/-- The mask of a BIST_RUN. (DESIGN CHOICE, log entry 80) -/
def bistMask (j : Job) : Nat := inlineField j 48 4

/-- A scheduled unit with leased bays or reserved residences in the present epoch or the next one. -/
def unitLeased (s : State) (u : Nat) : Bool :=
  let e := epochOf (now s)
  (s.allots.any fun p => [e, e + 1].any fun e => decide (0 < unitShare s (leaseIn p.2 e) p.1 u)) ||
    s.sched.ghosts.any fun g => decide (e < g.2.1) && decide (0 < unitShare s g.2.2 g.1 u)

/-- The refusals of R128. -/
def bistCheck (s : State) (j : Job) : Option (Status × Nat) :=
  let m := bistMask j
  firstFailure
    [(decide (65536 ≤ m), refuse 0x0001),
     (decide (4096 ≤ m) && tenantsActive s, refuse 0x000D),
     ((bistParts s j).any fun p => decide (p < 12) && unitLeased s p, refuse 0x000E),
     ((List.range 12).any fun u => m.testBit u && !unitPresent s u, some (.unitAbsent, 0))]

/-- The moment at which a part may begin (R484, R485). -/
def schedulePart (s : State) (b : Bist) (parts : List Nat) : Bist :=
  match parts with
  | [] => { b with running := false, partActive := false, partsLeft := [], startEpoch := none, startTick := none }
  | p :: _ =>
    if p < 12 then { b with partActive := false, partsLeft := parts, startEpoch := some (effectEpoch (now s)), startTick := none }
    else { b with partActive := false, partsLeft := parts, startEpoch := none, startTick := some (now s + 1) }

/-- The run begins. -/
def bistBegin (s : State) (j : Job) : State :=
  let b := { s.bist with running := true, part := 0, mismatch := 0, output := [], job := s.regs.admJob, ended := false }
  { s with bist := schedulePart s b (bistParts s j) }

/-- The run has ended: the signatures, and in DETAIL the parts that differ; a run cut short is ST_TAMPER_QUIESCED. -/
def bistApply (s : State) (k : Nat) (j : Job) : State × Nat × Nat :=
  let n := 8 * (bistParts s j).length
  let s := modJob s k fun x =>
    { x with output := slice s.bist.output 0 n, status := if s.bist.ended then .tamperQuiesced else x.status }
  ({ s with bist.ended := false }, 0, s.bist.mismatch)

/-- BIST_RUN. -/
def cmdBistRun : AdminCmd :=
  { opcode := 0xF011, markS := fun _ => false, markQ := true, markE := true, needsRoot := false,
    check := bistCheck, draws := fun _ => none, prepare := bistBegin, records := noRecords, mirrored := fun _ => none,
    apply := bistApply }

/-- The reference signature of a part (Table 21-6). -/
def bistReference (s : State) (p : Nat) : W64 :=
  let full : List W64 :=
    [0x8D2E41C79B05F36A, 0x1F70C2A836DE904B, 0xE4630B9D7A2158C5, 0x52B9E714C068AD3F, 0x3A91C4E207B5D118,
     0xC6D85F0392A47E61, 0x7B04A96EDF3C2287, 0x09EF3D586B17C4A0, 0xA25C8071E4F93B6D, 0x64F31BC95A80E712,
     0xD8176E3AB2C5094F, 0x2EA6F4D019378BC8, 0x95C027BB4E61F0D3, 0x4B7D9E20C85316AE, 0xB6E20F457DA9C36B]
  if p = 13 ∧ variant s = 2 then 0xF03962D70A4EB591 else full.getD p 0

/-- A job's working state moves to its allotment's eviction area; its residence is zeroed (R46, R48). -/
def evictJob (s : State) (k : Nat) : State :=
  match KMap.get? s.jobs k with
  | none => s
  | some j =>
    match j.place with
    | some (u, r) =>
      let m := plotKey u r
      let s := { s with evicted := KMap.put s.evicted k (plotAt s m), plots := KMap.drop s.plots m }
      modJob (freeResidence s j) k fun x => { x with place := none, evicted := true, restoring := 0, waitFrom := now s }
    | none => s

/-- The jobs in the residences of a unit. -/
def jobsOn (s : State) (u : Nat) : List Nat := (unitAt s u).residences.filterMap fun r => r.job

/-- A part takes a scheduled unit: its digest contexts go to their homes, its residences have been evicted, and it
starts as a block reset does, without an event or an ended job (R484). -/
def bistTakes (s : State) (u : Nat) : State :=
  let s := logBlockReset s u 3
  let s := setUnit s u { unitAt s u with
    bay := none, running := [], lanes := [[], [], [], []], evictions := [], shedding := [], inBist := true, mask := MaskGen.unseeded }
  if u < 4 then setBody s u Body.idle else s

/-- BIST_PART_START (R484, R485). -/
def bistPartStart (s : State) : State :=
  let b := s.bist
  match b.partsLeft with
  | p :: rest =>
    let due := match b.startEpoch, b.startTick with
      | some e, _ => decide (4096 * e = now s)
      | none, some t => decide (t ≤ now s)
      | none, none => false
    if b.running && !b.partActive && !b.ended && due then
      let s := { s with bist := { b with part := p, partActive := true, partsLeft := rest, startEpoch := none, startTick := none } }
      if p < 12 then bistTakes s p else s
    else s
  | [] => s

/-- A part has ended: its signature is kept and compared; then the next part, or the end of the run (R486). -/
def bistPartEnd (s : State) (sig : W64) : State :=
  let b := s.bist
  if !b.partActive then s
  else
    let p := b.part
    let bad := decide (sig ≠ bistReference s p)
    let b := { b with
      partActive := false, signatures := b.signatures.set p sig, output := b.output ++ leBytes 8 sig.toNat,
      mismatch := if bad then b.mismatch ||| 2 ^ p else b.mismatch }
    let s := { s with bist := if b.ended then schedulePart s b [] else schedulePart s b b.partsLeft }
    if bad then logEvent s 3 0x0034 0xFFFF (BitVec.ofNat 8 p) (leBytes 8 sig.toNat) else s

/-- A run that a ZEROISE_SESSION cut short between two parts ends (R486). -/
def bistCut (s : State) : State :=
  if s.bist.running && s.bist.ended && !s.bist.partActive then { s with bist := schedulePart s s.bist [] } else s

/-- Units whose part is over rejoin the pool at an epoch boundary (R484). -/
def bistRejoin (s : State) : State :=
  { s with units := s.units.mapIdx fun u x =>
      if x.inBist && !(s.bist.partActive && decide (s.bist.part = u)) then { x with inBist := false } else x }

/-! ## ATTEST_ENROL (R135, R345) -/

/-- The secret that an enrolment blob carries, if the blob authenticates. -/
def enrolSecretOf (s : State) (b : List Byte) : Option (List Byte) :=
  let sound := decide (b.length = 8859) && decide (slice b 0 6 = [0x45, 0x4E, 0x52, 0x4C, 1, 0]) && decide (fieldAt b 6 2 = 0) &&
    decide (fieldAt b 8 8 = s.otp.deviceId.toNat)
  if sound && anchorSigned s "STRELDOZIN-AUTH" (slice b 1640 2592) (b.drop 4232) (b.take 4232) then
    gcmOpen (enrolSecret s (slice b 24 1568)) (zeroBytes 12) (b.take 24) (slice b 1592 48)
  else none

/-- ENROL_COUNTER. -/
def enrolCounter (j : Job) : Nat := fieldAt j.input 16 8

/-- The blob, the counter, then the Vault. -/
def enrolCheck (s : State) (j : Job) : Option (Status × Nat) :=
  if (enrolSecretOf s j.input).isNone then some (.verifyFail, 0)
  else if enrolCounter j ≤ s.ice.enrolCount then refuse 0x000C
  else if !vaultWritable s then some (.vaultMedia, 0)
  else none

/-- The item that travels to the twin: the counter and the secret. -/
def enrolPrepare (s : State) (j : Job) : State :=
  let item := leBytes 8 (enrolCounter j) ++ (enrolSecretOf s j.input).getD []
  let carry := fun (_ : Nat) (x : Job) =>
    if x.entry.opcode.toNat = 0xF019 ∧ x.phase = .dispatched then { x with context := item } else x
  { s with jobs := KMap.mapAll s.jobs carry }

/-- The SECURITY_EVENT record of an enrolment; an act of the authority has no event code. -/
def enrolRecords (s : State) (j : Job) : State × List Nat :=
  adminRecord s 2 0 0xFFFF (securityBody 0 0xFF 0xFF 1 (now s) (now s) (leBytes 8 (enrolCounter j)))

/-- The secret takes effect. -/
def enrolApply (s : State) (_ : Nat) (j : Job) : State × Nat × Nat :=
  let s := { s with ice.secret := some (j.context.drop 8), ice.enrolCount := enrolCounter j }
  ((postImageChange s 0).1, 0, 0)

/-- ATTEST_ENROL. -/
def cmdAttestEnrol : AdminCmd :=
  { opcode := 0xF019, markS := fun _ => true, markQ := false, markE := false, needsRoot := true,
    check := enrolCheck, draws := fun _ => none, prepare := enrolPrepare, records := enrolRecords,
    mirrored := fun _ => some (0x0D, 0), apply := enrolApply }

/-! ## The rows -/

/-- OPEN_LOAD (R121). -/
def execOpenLoad (r : JobRef) (s : State) : Host.Outcome State Fault Refusal :=
  .next (adminRow cmdOpenLoad anyEntry r s)

/-- LC_ADVANCE (R351). -/
def execLcAdvance (r : JobRef) (s : State) : Host.Outcome State Fault Refusal :=
  .next (adminRow cmdLcAdvance anyEntry r s)

/-- DEBUG_UNLOCK with AUX = 0 (R127). -/
def execDebugUnlockNonce (r : JobRef) (s : State) : Host.Outcome State Fault Refusal :=
  .next (adminRow cmdDebugNonce (fun j => decide (j.entry.aux.toNat = 0)) r s)

/-- DEBUG_UNLOCK with AUX = 1 (R359). -/
def execDebugUnlockToken (r : JobRef) (s : State) : Host.Outcome State Fault Refusal :=
  let k := refKey r
  match KMap.get? s.jobs k with
  | some j =>
    if decide (j.phase = .dispatched) && decide (j.entry.opcode.toNat = 0xF010) && decide (1 ≤ j.entry.aux.toNat) then
      let t := adminStart cmdDebugToken s k
      .next (adminSettle cmdDebugToken (if (adminGate cmdDebugToken s j).isNone then spendNonce t j else t) k)
    else .next s
  | none => .next s

/-- BIST_RUN (R128). -/
def execBistRun (r : JobRef) (s : State) : Host.Outcome State Fault Refusal :=
  .next (adminRow cmdBistRun anyEntry r s)

/-- BIST_PART_START (R484). -/
def execBistPartStart (s : State) : Host.Outcome State Fault Refusal := .next (bistPartStart s)

/-- BIST_PART_END: a part ends with its signature (R486). -/
def execBistPartEnd (signature : W64) (s : State) : Host.Outcome State Fault Refusal :=
  let s := bistPartEnd s signature
  .next (match s.bist.job with
    | some k => adminSettle cmdBistRun s k
    | none => s)

/-- VAULT_FORMAT on the dies found (R130). -/
def execVaultFormat (r : JobRef) (dies : List DieReport) (found : VaultFound) (s : State) : Host.Outcome State Fault Refusal :=
  let k := refKey r
  let reason := (KMap.get? s.jobs k).bind (formatReason dies)
  let dispatched := (KMap.get? s.jobs k).any fun j => decide (j.phase = .dispatched ∧ j.entry.opcode.toNat = 0xF013)
  let s := adminRow (cmdVaultFormat dies found) anyEntry r s
  .next (if dispatched then reportMedia s k reason else s)

/-- VAULT_MOUNT, operation 1 (R131). -/
def execVaultMount (r : JobRef) (dies : List DieReport) (found : VaultFound) (s : State) : Host.Outcome State Fault Refusal :=
  let k := refKey r
  let reason := mountReason dies found s
  let dispatched := (KMap.get? s.jobs k).any fun j =>
    decide (j.phase = .dispatched ∧ j.entry.opcode.toNat = 0xF014 ∧ inlineField j 48 1 = 1)
  let s := adminRow (cmdVaultMount dies found) (fun j => decide (inlineField j 48 1 = 1)) r s
  .next (if dispatched then reportMedia s k reason else s)

/-- VAULT_MOUNT, operation 0, and the refusal of every operation above 1 (R131). -/
def execVaultUnmount (r : JobRef) (s : State) : Host.Outcome State Fault Refusal :=
  .next (adminRow cmdVaultUnmount (fun j => decide (inlineField j 48 1 ≠ 1)) r s)

/-- ATTEST_ENROL (R345). -/
def execAttestEnrol (r : JobRef) (s : State) : Host.Outcome State Fault Refusal :=
  .next (adminRow cmdAttestEnrol anyEntry r s)

end Sys2Proof.Machine
end

