-- ==== Sys2Proof/Machine/Pairing.lean ====
section
/-! DEFINITION. Pairing, SOLO and rejoin: the endorsement, the ceremony's messages and keys, the commands TWIN_PAIR,
TWIN_SOLO and TWIN_REJOIN, and what is replayed (05_admin_commands.md R132, R133; 19_footbridge.md R434, R435, R443
to R446). -/
namespace Sys2Proof.Machine
open Sys2Proof

/-! ## The endorsement (R434, R435) -/

/-- The ID that the endorsement gives a pavilion. -/
def endorsedId (e : List Byte) (west : Bool) : Nat := fieldAt e (if west then 16 else 8) 8

/-- PAIR_COUNTER. -/
def endorsedCounter (e : List Byte) : Nat := fieldAt e 24 8

/-- The layout of Table 19-5. -/
def endorsementForm (e : List Byte) : Bool :=
  decide (e.length = 5293) && decide (slice e 0 8 = [0x50, 0x41, 0x49, 0x52, 1, 0, 0, 0])

/-- The four checks of R435. -/
def endorsementHolds (s : State) (e : List Byte) : Bool :=
  ownerSigned (slice e 32 1952) s.otp.codeHash (e.drop 1984) (ascii "STRELDOZIN-PAIR") (e.take 1984) &&
    decide (endorsedId e (isWest s) = s.otp.deviceId.toNat) && decide (s.bridge.pairCounter < endorsedCounter e)

/-! ## The ceremony (R435) -/

/-- HELLO of this device. -/
def helloPayload (s : State) (endorsement nonce : List Byte) : List Byte :=
  leBytes 8 s.otp.deviceId.toNat ++ leBytes 1 (bit (isWest s)) ++ leBytes 1 s.lc.inForce ++ leBytes 1 s.otp.fuseVariant.toNat ++
    zeroBytes 5 ++ sha3_256 endorsement ++ slice nonce 0 32 ++ Config.deviceCertificate s.otp.deviceId

/-- The transcript hash T: in a rejoin the REJOIN_REQ payloads stand where the HELLO payloads stand in a pairing. -/
def transcript (s : State) : List Byte :=
  let b := s.bridge
  let east := if isWest s then b.helloPeer else b.helloOwn
  let west := if isWest s then b.helloOwn else b.helloPeer
  sha3_256 (east ++ west ++ b.kemEk ++ b.kemCt)

/-- The East's step 2: KEM_EK. Its seed stands in the shared-secret register until KEM_CT comes. -/
def sendKemEk (s : State) : State :=
  if isWest s then s
  else
    let ek := schemeBytes 0x0101 3 .publicKey [] [] s.bridge.sharedSecret 1568
    postFrame { s with bridge.kemEk := ek } deviceHolder 0x02 0 ek

/-- Both openings are there: step 2 begins. -/
def greeted (s : State) : State := sendKemEk { s with bridge.ceremony := 2 }

/-- Judges the peer's HELLO (R435 step 1). -/
def judgeHello (s : State) : State :=
  let p := s.bridge.helloPeer
  let f := fieldAt p
  let bad := decide (f 8 1 = bit (isWest s)) || decide (slice p 16 32 ≠ sha3_256 s.bridge.endorsement) ||
    decide (f 0 8 ≠ endorsedId s.bridge.endorsement (!isWest s)) || decide (f 9 1 ≠ s.lc.inForce) ||
    decide (f 10 1 ≠ s.otp.fuseVariant.toNat)
  if bad then failCeremony s .resource 0x0011 else greeted s

/-- The pair key from the transcript, and a new link key to follow (R435 step 3). -/
def formPairKey (s : State) (shared : List Byte) : State :=
  let key := kmac256 shared (transcript s) 32 "SDZ-PAIR"
  postNonce { s with bridge := { s.bridge with
    pairKey := some key, linkKey := none, ownNonce := none, peerNonce := none, sharedSecret := [], ceremony := 3 } }

/-- The representative of the transcript that AUTH signs. -/
def authMessage (s : State) : List Byte := messageRep false 0 (ascii "STRELDOZIN-PAIR-AUTH") (transcript s)

/-- AUTH, sealed under the new link key (R435 step 4). -/
def sendAuth (s : State) : State :=
  let p := freshBytes s 32
  let sig := schemeBytes 0x0202 3 .signature (authMessage s) (journalSeed s) p.1 4627
  postFrame { p.2 with bridge.ceremony := 4, bridge.authSent := true } deviceHolder 0x04 0 sig

/-- The peer's signature verifies against the journal public key of its certificate. -/
def authHolds (s : State) (sig : List Byte) : Bool :=
  dsaHolds 3 (Config.certifiedKey (Config.deviceCertificate s.bridge.twinId)) sig (authMessage s)

/-- Every mirrored item as STATE, the handle and vault keys, then STATE_END (R435 step 5). -/
def sendState (s : State) : State :=
  let items := (mirroredItems s ++ [(0x0E, 0, vaultItem s)]).map fun (i : Nat × Nat × List Byte) => itemPayload i.1 i.2.1 i.2.2
  let s := items.foldl (fun s p => postFrame s deviceHolder 0x05 0 p) s
  postFrame s deviceHolder 0x06 0 (leBytes 8 items.length ++ sha3_256 items.flatten)

/-- The TWIN PAIRED record (R435 step 6). -/
def recordPaired (s : State) : State :=
  let p := postTwin s 1
  { p.1 with bridge.ceremony := 6, bridge.pairRecords := p.1.bridge.pairRecords ++ [p.2] }

/-- The record is durable: the pairing is stored, and the command ends. -/
def finishPairing (s : State) : State :=
  let b := s.bridge
  let b := { b with
    paired := true, pairCounter := endorsedCounter b.endorsement, ceremony := 0, ceremonyJob := none, pairRecords := [],
    helloOwn := [], helloPeer := [], kemEk := [], kemCt := [], authSent := false, authSeen := false, solo := false,
    soloCause := 0, hbDeadline := now s + 4096, tseqNext := 1, commits := [], committed := [], peerCommitted := 0, staged := [] }
  (postImageChange { s with bridge := b, ice.keys := KMap.mapAll s.ice.keys fun _ x => unloadCache x } 0).1

/-! ## Rejoin (R446) -/

/-- REJOIN_REQ of this device. -/
def rejoinPayload (s : State) : List Byte :=
  leBytes 8 s.journal.next ++ slice s.journal.head 0 32 ++ leBytes 8 s.bridge.soloRecordSeq ++
    s.bridge.committed.flatMap fun t => leBytes 8 t

/-- Both requests are there: steps 2 to 4 of R435 run again. -/
def rejoinMet (s : State) : State :=
  if s.bridge.rejoining && decide (s.bridge.ceremony = 1) && decide (s.bridge.helloPeer ≠ []) then greeted s else s

/-- Rejoin begins: the request and the TWIN REJOIN_START record. -/
def startRejoin (s : State) (auto : Bool) (job : Option Nat) : State :=
  if s.bridge.rejoining then { s with bridge.rejoinJob := s.bridge.rejoinJob <|> job }
  else
    let p := freshBytes s 64
    let req := rejoinPayload s
    let s := p.2
    let s := { s with bridge := { s.bridge with
      rejoining := true, rejoinSince := now s, rejoinAuto := auto, rejoinJob := job, peerReplayEnd := false, rejoinRecord := none,
      replayed := 0, applied := 0, ceremony := 1, helloOwn := req, kemEk := [], kemCt := [], sharedSecret := p.1,
      authSent := false, authSeen := false } }
    rejoinMet (postFrame (postTwin s 3).1 deviceHolder 0x30 0 req)

/-- SUBTYPE of a record's bytes. -/
def recSubtype (b : List Byte) : Nat := fieldAt b 28 2

/-- The records that a rejoin replays: KEY_EVENT, COUNTER_RESERVE and SECURITY_EVENT since the latest TWIN SOLO. -/
def replayRecords (s : State) : List (List Byte) :=
  ((recordSlots s.vault.media.journal).filter fun x =>
    decide (s.bridge.soloRecordSeq ≤ x.seq) && [2, 3, 4].contains (recType x.bytes)).map fun x => slice x.bytes 0 128

/-- Cuts a list into runs of at most seven. -/
def sevens {α : Type} : Nat → List α → List (List α)
  | 0, _ => []
  | _, [] => []
  | n + 1, l => l.take 7 :: sevens n (l.drop 7)

/-- REPLAY and REPLAY_END (R446 step 3). -/
def sendReplay (s : State) : State :=
  let rs := replayRecords s
  let s := (sevens rs.length rs).foldl (fun s l => postFrame s deviceHolder 0x31 0 l.flatten) s
  let last := (rs.getLast?.map fun b => fieldAt b 0 8).getD 0
  let s := postFrame s deviceHolder 0x32 0 (leBytes 8 last ++ slice s.journal.head 0 32 ++ leBytes 2 s.lodge.sticky.toNat)
  { s with bridge.ceremony := 5, bridge.replayed := rs.length }

/-- Both signatures have passed: the pair's state, or the replay. -/
def authenticated (s : State) : State :=
  if !(s.bridge.authSent && s.bridge.authSeen && decide (s.bridge.ceremony = 4)) then s
  else if s.bridge.rejoining then sendReplay s
  else if isWest s then
    postFrame { s with bridge.ceremony := 5, bridge.stateCount := 0, bridge.stateHash := [] } deviceHolder 0x05 0
      (itemPayload 0x0E 0 (vaultItem s))
  else recordPaired (sendState s)

/-- The link key, once both nonces have crossed; frame numbers start at 1 under it (R431). -/
def tryLinkKey (s : State) : State :=
  let waiting := (KMap.getD s.bridge.queue deviceHolder []).any fun f => decide (f.type = 0x24)
  match deriveLinkKey s with
  | some k =>
    if s.bridge.linkKey.isSome || waiting then s
    else
      let s := { s with bridge := { s.bridge with linkKey := some k, fseqIn := 0, fseqOut := 0, sent := [], nakSince := none } }
      if s.bridge.ceremony = 3 then authenticated (sendAuth s) else s
  | none => s

/-- A record of the twin is applied at a rejoin: a destruction, or a frontier (R446 step 3). -/
def applyReplayed (s : State) (b : List Byte) : State :=
  let s := { s with bridge.applied := min (s.bridge.applied + 1) 0xFFFFFFFF }
  let body := b.drop 64
  let h := fieldAt body 0 8
  match recType b with
  | 3 =>
    if recSubtype b = 3 then
      match findKey s (handleAllot h) h with
      | some (false, k, key) => zeroiseSlot (postKeyEvent s deviceHolder 3 k key 0).1 k
      | _ => s
    else s
  | 4 =>
    let top := fieldAt body 8 8 + fieldAt body 16 8
    if h = 0 then { s with ice.quoteNext := max s.ice.quoteNext ((top - 2) / 65536 + 1) }
    else match findKey s (handleAllot h) h with
      | some (false, k, _) => modStateful s k fun t => { t with nextBlock := max t.nextBlock ((top + 1023) / 1024) }
      | _ => s
  | _ => s

/-- The end of SOLO, at the first tick boundary at which both the record is durable and the peer's replay has been
applied (R446 step 5). -/
def endRejoin (s : State) : State :=
  let b := s.bridge
  if b.rejoining && b.peerReplayEnd && b.rejoinRecord.isNone then
    let b := { b with
      rejoining := false, rejoinJob := none, solo := false, soloCause := 0, ceremony := 0, helloOwn := [], helloPeer := [],
      kemEk := [], kemCt := [], authSent := false, authSeen := false, hbDeadline := now s + 4096, peerReplayEnd := false }
    (postImageChange { s with bridge := b } 0).1
  else s

/-! ## TWIN_PAIR, TWIN_SOLO, TWIN_REJOIN (R132, R133) -/

/-- The refusals of R132, then the endorsement. (DEDUCED, log entry 81) -/
def twinPairCheck (s : State) (j : Job) : Option (Status × Nat) :=
  if !hasBridge s then some (.unitAbsent, 0)
  else if s.bridge.paired || !s.bridge.present || (isWest s && decide (tenants s ≠ [])) then refuse 0x0011
  else if !endorsementForm j.input then refuse 0x0001
  else if !endorsementHolds s j.input then some (.verifyFail, 0)
  else none

/-- The ceremony begins with HELLO. (DEDUCED, log entry 82) -/
def twinPairBegin (s : State) (j : Job) : State × List Nat :=
  let p := freshBytes s 32
  let s := p.2
  let hello := helloPayload s j.input p.1
  let s := { s with bridge := { s.bridge with
    ceremony := 1, ceremonySince := now s, ceremonyJob := s.regs.admJob, endorsement := j.input, helloOwn := hello, kemEk := [],
    kemCt := [], sharedSecret := slice j.drawn 0 64, authSent := false, authSeen := false, stateCount := 0, stateHash := [],
    pairRecords := [], twinId := BitVec.ofNat 64 (endorsedId j.input (!isWest s)) } }
  let s := postFrame s deviceHolder 0x01 0 hello
  (if s.bridge.helloPeer ≠ [] then judgeHello s else s, [])

/-- TWIN_PAIR. -/
def cmdTwinPair : AdminCmd :=
  { opcode := 0xF015, markS := fun _ => true, markQ := false, markE := false, needsRoot := true,
    check := twinPairCheck, draws := fun _ => some (64, true), records := twinPairBegin, mirrored := fun _ => none,
    apply := fun s _ _ => (s, 0, 0) }

/-- TWIN_SOLO needs a pairing. -/
def twinSoloCheck (s : State) (_ : Job) : Option (Status × Nat) :=
  if !hasBridge s then some (.unitAbsent, 0) else if !s.bridge.paired then refuse 0x0011 else none

/-- Enters SOLO by command, and tells the twin. -/
def twinSoloApply (s : State) (_ : Nat) (_ : Job) : State × Nat × Nat :=
  if s.bridge.solo then (s, 0, 0) else (postFrame (enterSolo s 2) deviceHolder 0x22 0 [1], 0, 0)

/-- TWIN_SOLO. -/
def cmdTwinSolo : AdminCmd :=
  { opcode := 0xF016, markS := fun _ => false, markQ := false, markE := false, needsRoot := false,
    check := twinSoloCheck, draws := fun _ => none, records := noRecords, mirrored := fun _ => none, apply := twinSoloApply }

/-- TWIN_REJOIN needs SOLO that is not the debug root's. -/
def twinRejoinCheck (s : State) (_ : Job) : Option (Status × Nat) :=
  if !hasBridge s then some (.unitAbsent, 0)
  else if !s.bridge.solo || decide (s.bridge.soloCause = 3) then refuse 0x0011
  else none

/-- TWIN_REJOIN. -/
def cmdTwinRejoin : AdminCmd :=
  { opcode := 0xF017, markS := fun _ => false, markQ := false, markE := false, needsRoot := false,
    check := twinRejoinCheck, draws := fun _ => none, records := fun s _ => (startRejoin s false s.regs.admJob, []),
    mirrored := fun _ => none, apply := fun s _ _ => (s, 0, 0) }

/-! ## The rows -/

/-- TWIN_PAIR (R132). -/
def execTwinPair (r : JobRef) (s : State) : Host.Outcome State Fault Refusal :=
  .next (adminRow cmdTwinPair anyEntry r s)

/-- TWIN_PAIR_TIMEOUT: 2^24 ticks without the twin's own TWIN_PAIR (R132). -/
def execTwinPairTimeout (s : State) : Host.Outcome State Fault Refusal :=
  .next (if s.bridge.ceremonyJob.isSome && !s.bridge.rejoining && decide (s.bridge.ceremonySince + 2 ^ 24 ≤ now s) then
      failCeremony s .twinUnavailable 0
    else s)

/-- TWIN_SOLO (R133). -/
def execTwinSolo (r : JobRef) (s : State) : Host.Outcome State Fault Refusal :=
  .next (adminRow cmdTwinSolo anyEntry r s)

/-- TWIN_REJOIN (R133). -/
def execTwinRejoin (r : JobRef) (s : State) : Host.Outcome State Fault Refusal :=
  .next (adminRow cmdTwinRejoin anyEntry r s)

/-- REJOIN_TIMEOUT: 2^24 ticks without the twin's answer (R446). -/
def execRejoinTimeout (s : State) : Host.Outcome State Fault Refusal :=
  .next (if s.bridge.rejoining && decide (s.bridge.rejoinSince + 2 ^ 24 ≤ now s) then failCeremony s .twinUnavailable 0 else s)

end Sys2Proof.Machine
end

