-- ==== Sys2Proof/Machine/Settle.lean ====
section
/-! DEFINITION. What follows when something that others wait for has ended: a record that is durable or has failed, a
commit, a draw. The command of each admin opcode, and how far every waiting job, destruction and commit can go
(R103, R107, R113, R171 to R174, R381, R416, R439). -/
namespace Sys2Proof.Machine
open Sys2Proof

/-! ## Admin commands by their entry -/

/-- The command that a running admin entry carries out. -/
def adminCmdOf (j : Job) : Option AdminCmd :=
  match j.entry.opcode.toNat with
  | 0xF001 => some cmdAllotCreate
  | 0xF002 => some cmdAllotDestroy
  | 0xF003 => some cmdAllotBind
  | 0xF004 => some cmdQueueCreate
  | 0xF005 => some cmdQueueDestroy
  | 0xF006 => some cmdLeaseSet
  | 0xF007 => some cmdWindowSet
  | 0xF008 => some cmdAbort
  | 0xF009 => some (if inlineField j 56 1 = 2 then cmdKeyDescribe else cmdKeyDestroy)
  | 0xF00A => some cmdOpenLoad
  | 0xF00B => some cmdCurvePolicy
  | 0xF00C => some cmdTimeSet
  | 0xF00D => some cmdTamperConfig
  | 0xF00E => some cmdTamperClear
  | 0xF00F => some cmdLcAdvance
  | 0xF010 => some (if j.entry.aux.toNat = 0 then cmdDebugNonce else cmdDebugToken)
  | 0xF011 => some cmdBistRun
  | 0xF012 => some cmdRngRawMode
  | 0xF013 => some cmdVaultFormatLater
  | 0xF014 => some (if inlineField j 48 1 = 1 then cmdVaultMount [] .unknown else cmdVaultUnmount)
  | 0xF015 => some cmdTwinPair
  | 0xF016 => some cmdTwinSolo
  | 0xF017 => some cmdTwinRejoin
  | 0xF018 => some cmdPatchStatus
  | 0xF019 => some cmdAttestEnrol
  | _ => none

/-- The admin commands in progress go as far as they can: one, and an ABORT beside it (R103). -/
def settleAdmin (s : State) : State :=
  ((s.jobs.filter fun p => decide (family p.2 = 0xF0) && decide (p.2.phase = .running)).map Prod.fst).foldl (fun s k =>
    match (KMap.get? s.jobs k).bind adminCmdOf with
    | some c => adminSettle c s k
    | none => s) s

/-! ## Destruction and freeing (R71, R113, R116) -/

/-- The admin command in progress has this opcode and names this allotment. -/
def adminNames (s : State) (opcode a : Nat) : Bool :=
  (s.regs.admJob.bind fun k => KMap.get? s.jobs k).any fun j =>
    decide (j.entry.opcode.toNat = opcode) && decide (inlAllot j = a) && decide (j.phase = .running)

/-- Destructions that no command carries out end when they can. -/
def settleDestroyed (s : State) : State :=
  (s.allots.map Prod.fst).foldl (fun s a =>
    if destroyReady s a && !adminNames s 0xF002 a then finishDestroy s a else s) s

/-- Queues that are being freed outside a command are freed when their last job has ended. -/
def settleQueues (s : State) : State :=
  { s with queues := KMap.keep s.queues fun k q =>
      let a := k / 8
      !q.closing || adminNames s 0xF005 a || (allotAt s a).any (fun v => v.destroying) || decide (jobsOfQueue s a (k % 8) ≠ []) }

/-! ## Settling -/

/-- Everything that waits goes as far as it can. (DEDUCED, log entry 46) -/
def settle (s : State) : State :=
  let s := ackReady (commitReady (bistCut s))
  let s := settleAdmin s
  let s := settleQueues (settleDestroyed s)
  let s := (s.jobs.map Prod.fst).foldl advanceJob s
  eolSettle s

/-! ## Records (R174, R393, R416, R424) -/

/-- The key that a COUNTER_RESERVE record's handle names, and its block: 0 is the quote counter. -/
def reservedKey (s : State) (body : List Byte) : Option (Nat × Nat) :=
  let h := fieldAt body 0 8
  match findKey s (handleAllot h) h with
  | some (false, k, _) => some (k, fieldAt body 8 8 / 1024)
  | _ => none

/-- The first key slot's number in a record of a slot whose key is not yet live. -/
def reservedOpen (s : State) (body : List Byte) : Option Nat :=
  (reservedKey s body).bind fun p => if (statefulAt s p.1).any fun t => decide (t.opened = some p.2) then some p.1 else none

/-- A commit of a kind and item is open. -/
def itemOpen (s : State) (kind item : Nat) : Bool :=
  s.bridge.commits.any fun p => decide (p.2.kind = kind ∧ p.2.item = item)

/-- A durable COUNTER_RESERVE: its block is consumed, and without a twin to answer it becomes live (R173, R424). -/
def reserveDurable (s : State) (subtype : Nat) (body : List Byte) : State :=
  let h := fieldAt body 0 8
  let top := fieldAt body 8 8 + fieldAt body 16 8
  let s := { s with vault.media.reserved := s.vault.media.reserved ++ [(BitVec.ofNat 64 h, fieldAt body 8 8, fieldAt body 16 8)] }
  if h = 0 then
    let b := (top - 2) / 65536
    let s := { s with ice.quoteNext := max s.ice.quoteNext (b + 1) }
    if decide (subtype = 1) && decide (s.ice.quoteOpened = some b) && !itemOpen s 9 0 then commitQuote s b else s
  else match reservedKey s body with
    | some (k, b) =>
      let s := modStateful s k fun t => { t with nextBlock := max t.nextBlock (b + 1) }
      if decide (subtype = 1) && !itemOpen s 8 k && (statefulAt s k).any (fun t => decide (t.opened = some b)) then commitBlock s k b else s
    | none => s

/-- Nothing waits for a record any more. -/
def releaseRecord (s : State) (id : Nat) : State :=
  let s := { s with
    jobs := KMap.mapAll s.jobs fun _ j => { j with waits := j.waits.filter fun w => decide (w ≠ Wait.record id) },
    allots := KMap.mapAll s.allots fun _ v => { v with destroyRecords := v.destroyRecords.filter (· ≠ id) },
    gh.eolRecords := s.gh.eolRecords.filter (· ≠ id) }
  { s with
    bridge.commits := KMap.mapAll s.bridge.commits fun _ c => { c with records := c.records.filter (· ≠ id) },
    bridge.staged := s.bridge.staged.map fun c => { c with records := c.records.filter (· ≠ id) } }

/-- The event of the security ring that a durable record forwards. -/
def forwardedEvent (s : State) (id : Nat) : State :=
  { s with lodge.ring := s.lodge.ring.map fun e => if e.record = some id then { e with forwarded := true, record := none } else e }

/-- A record of the pairing is durable; with the last of them, the pairing is complete (R435). -/
def pairDurable (s : State) (id : Nat) : State :=
  if s.bridge.pairRecords.contains id then
    let s := { s with bridge.pairRecords := s.bridge.pairRecords.filter (· ≠ id) }
    if s.bridge.ceremony = 6 ∧ s.bridge.pairRecords = [] then finishPairing s else s
  else s

/-- A record has become durable: its number, its 128 bytes and its sequence number. -/
def recordDurable (s : State) (id seq : Nat) (b : List Byte) : State :=
  let s := forwardedEvent (releaseRecord s id) id
  let s := if recType b = 4 then reserveDurable s (recSubtype b) (b.drop 64) else s
  let s := if recType b = 7 ∧ recSubtype b = 2 then { s with bridge.soloRecordSeq := seq } else s
  let s := pairDurable s id
  if s.bridge.rejoinRecord = some id then { s with bridge.rejoinRecord := none } else s

/-- The jobs that wait for a record. -/
def waitingFor (s : State) (id : Nat) : List Nat :=
  (s.jobs.filter fun p => p.2.waits.contains (.record id)).map Prod.fst

/-- What waits for a record fails with it (R107, R174, R416, R439). -/
def recordFailed (s : State) (r : JRecord) (st : Status) : State :=
  let ks := waitingFor s r.id
  let ts := (s.bridge.commits.filter fun p => p.2.records.contains r.id).map Prod.fst
  let gone := s.bridge.staged.filter fun c => c.records.contains r.id
  let lost := (s.allots.filter fun p => p.2.destroyRecords.contains r.id && !adminNames s 0xF002 p.1).map Prod.fst
  let forget := fun (e : RingEntry) => if e.record = some r.id then { e with record := none } else e
  let s := releaseRecord { s with lodge.ring := s.lodge.ring.map forget } r.id
  let s := ks.foldl (fun s k =>
    match KMap.get? s.jobs k with
    | some j => if family j = 0xF0 then adminFail (adminUndo s j) k st 0 else failWaiting s k st
    | none => s) s
  let s := ts.foldl (fun s t => failCommit s t st) s
  let s := { s with bridge.staged := s.bridge.staged.filter fun c => !(gone.any fun g => decide (g.tseq = c.tseq)) }
  let s := gone.foldl (fun s c => postFrame s c.holder 0x12 c.tseq (leBytes 8 c.tseq ++ leBytes 2 3)) s
  let s := lost.foldl (fun s a => modAllot (orphan s a) a fun v => { v with destroying := false, destroyRecords := [] }) s
  let s := if r.type = 4 ∧ r.subtype = 1 then
      if fieldAt r.body 0 8 = 0 then (if s.ice.quoteOpened.isSome then failQuote s st else s)
      else match reservedOpen s r.body with
        | some k => failReservation s k st
        | none => s
    else s
  if s.bridge.pairRecords.contains r.id = true ∨ s.bridge.rejoinRecord = some r.id then failCeremony s st 0 else s

/-- A key-image change has become durable. -/
def imageDurable (s : State) (ids : List Nat) : State :=
  { s with jobs := KMap.mapAll s.jobs fun _ j => { j with waits := j.waits.filter fun w => match w with
      | .image id => !ids.contains id
      | _ => true } }

/-- A key-image page has found no block: what waits for it fails (R171, R416). -/
def imageFailed (s : State) (ids : List Nat) (st : Status) : State :=
  let waits := fun (j : Job) => j.waits.any fun w => match w with
    | .image id => ids.contains id
    | _ => false
  ((s.jobs.filter fun p => waits p.2).map Prod.fst).foldl (fun s k => failWaiting s k st) s

end Sys2Proof.Machine
end

