-- ==== Sys2Proof/Machine/Upkeep.lean ====
section
/-! DEFINITION. Upkeep of the Vault's media and reading the journal back: housekeeping and erase slots, codewords, the
packing FIFO, timeouts, head signatures and the export ring (17_vault_media.md R389, R396 to R407;
18_thadex_journal.md R419, R426, R427). -/
namespace Sys2Proof.Machine
open Sys2Proof

/-- The index of a die by its bit of VLT_DIES: 8 for channel NB, 2 for a target, 1 for the LUN (Table 17-6). -/
def dieIndex (s : State) (d : Fin 16) : Option Nat :=
  s.vault.media.dies.findIdx? fun x => decide (8 * x.channel + 2 * x.target + x.lun = d.val)

/-- A die in service whose media cycle runs. -/
def dieRuns (s : State) (i : Nat) : Bool :=
  s.vault.mounted && !s.vault.foreign && s.vault.block.at'.isNone && (dieAt s i).any fun x => !x.failed

/-! ## Housekeeping slots (R402) -/

/-- Relocates the first valid page of a block to the open segment of its stream: read, programmed again as relocated, stale
here (R393). (DEDUCED, log entry 87) -/
def relocatePage (s : State) (d b : Nat) : State :=
  match blockAt s d b with
  | none => s
  | some y =>
    match y.written.find? fun p => p.valid with
    | none => s
    | some p =>
      match takeBlock s d y.stream y.reserve with
      | none => s
      | some (s, c) =>
        if c = b then s
        else
          let s := programPage (stalePages s (isPage p.head.pseq)) d c p.content true
          queueErase (modBlock s d b fun y => { y with reads := y.reads + 1 }) d b

/-- Serves one relocation chore; it ends with the block's last valid page. -/
def serveChore (s : State) (c : Chore) : State :=
  let s := if ((blockAt s c.die c.block).map fun y => y.valid).getD 0 = 0 then s else relocatePage s c.die c.block
  if ((blockAt s c.die c.block).map fun y => y.valid).getD 0 = 0 then
    let s := queueErase s c.die c.block
    let s := { s with vault.chores := s.vault.chores.filter fun x => decide (x ≠ c) }
    { s with vault.recovering := s.vault.chores.any fun x => decide (x.cls = 1) }
  else s

/-- Programs a page of the device, if the die has a block for it. -/
def appendSystem (s : State) (d : Nat) (c : PageContent) : State :=
  match takeBlock s d c.stream false with
  | some (s, b) => programPage s d b c false
  | none => s

/-- Writes a checkpoint (R394). -/
def writeCheckpoint (s : State) (d : Nat) : State :=
  let s := appendSystem (stalePages s fun p => decide (p.head.stream = .system)) d (.checkpoint true)
  { s with vault := { s.vault with sinceCheckpoint := 0, chores := s.vault.chores.filter fun x => decide (x.cls ≠ 3) } }

/-- Writes the history records that wait, as many as a page holds (R499). -/
def writeHistory (s : State) (d : Nat) : State :=
  let now' := s.sundial.history.take (contentSize s / 32)
  let s := appendSystem s d (.history now')
  { s with vault.media.history := s.vault.media.history ++ now', sundial.history := s.sundial.history.drop now'.length }

/-- The block of a die that a measure picks: the least, ties to the lowest number. -/
def pickBlock (s : State) (d : Nat) (ok : Block → Bool) (m : Block → Nat) : Option Nat :=
  match dieAt s d with
  | none => none
  | some x =>
    (List.range x.blocks.length).foldl (fun best i =>
      match x.blocks[i]? with
      | some b =>
        if ok b then match best.bind fun j => x.blocks[j]? with
          | some c => if m b < m c then some i else best
          | none => some i
        else best
      | none => best) none

/-- Garbage collection: one page of the closed block with the fewest valid pages (R402). -/
def collect (s : State) (d : Nat) : Option State :=
  (pickBlock s d (fun b => decide (b.state = .closed) && decide (b.valid < b.pages) && !b.reserve) fun b => b.valid).map fun b =>
    if ((blockAt s d b).map fun y => y.valid).getD 0 = 0 then queueErase s d b else relocatePage s d b

/-- Few free blocks outside the reserves (R402, item 5). -/
def shortOfBlocks (s : State) (d : Nat) : Bool :=
  match dieAt s d with
  | some x => decide (freeBlocks x < 2 + 2 + securityPart s d)
  | none => false

/-- One page of a refresh; the block is erased when its last valid page has moved (R399). -/
def refreshBlock (s : State) (d b : Nat) : State :=
  let s := if ((blockAt s d b).map fun y => y.valid).getD 0 = 0 then s else relocatePage s d b
  if ((blockAt s d b).map fun y => y.valid).getD 0 = 0 then
    queueErase (modBlock s d b fun y => { y with refreshDue := false, scrubDue := false }) d b
  else s

/-- One page read of a scrub; after the last the stamp is renewed (R400). -/
def scrubBlock (s : State) (d b : Nat) : State :=
  modBlock s d b fun y =>
    if y.valid ≤ y.scrubbed + 1 then { y with scrubDue := false, scrubbed := 0, stamp := s.lodge.secTime, reads := y.reads + 1 }
    else { y with scrubbed := y.scrubbed + 1, reads := y.reads + 1 }

/-- Static wear levelling: erase counts of good blocks with valid pages that differ by more than 2,000 (R398). -/
def levelWear (s : State) (d : Nat) : Option State :=
  match dieAt s d with
  | none => none
  | some x =>
    let used := x.blocks.filter fun b => b.good && decide (0 < b.valid)
    let top := used.foldl (fun m b => max m b.erases) 0
    (pickBlock s d (fun b => decide (b.state = .closed) && decide (0 < b.valid) && decide (b.erases + 2000 < top)) fun b => b.erases).map
      fun b => relocatePage s d b

/-- The first pending item of a housekeeping slot of a die, in the order of R402. -/
def housekeep (s : State) (d : Nat) : State :=
  let chore := fun (cls : Nat) => s.vault.chores.find? fun c => decide (c.cls = cls ∧ c.die = d)
  match chore 1, chore 2 with
  | some c, _ => serveChore s c
  | none, some c => serveChore s c
  | none, none =>
    if s.vault.chores.any fun c => decide (c.cls = 3) then writeCheckpoint s d
    else if s.sundial.history ≠ [] then writeHistory s d
    else match if shortOfBlocks s d then collect s d else none with
      | some t => t
      | none =>
        match pickBlock s d (fun b => b.refreshDue && decide (b.state = .closed)) (fun _ => 0),
              pickBlock s d (fun b => b.scrubDue && decide (0 < b.valid)) (fun _ => 0) with
        | some b, _ => refreshBlock s d b
        | none, some b => scrubBlock s d b
        | none, none => ((levelWear s d) <|> collect s d).getD s

/-! ## The rows of upkeep -/

/-- HOUSEKEEPING_MEDIA_SLOT (R402). A read-only Vault has nothing to program or erase. -/
def execHousekeepingMediaSlot (die : Fin 16) (s : State) : Host.Outcome State Fault Refusal :=
  .next (match dieIndex s die with
    | some d => if dieRuns s d && !s.vault.readOnly then noteFull (housekeep s d) else s
    | none => s)

/-- ERASE_SLOT: the oldest block of the die's erase queue is erased (R401). -/
def execEraseSlot (die : Fin 16) (s : State) : Host.Outcome State Fault Refusal :=
  .next (match dieIndex s die with
    | some d =>
      match dieAt s d with
      | some x =>
        match x.eraseQueue with
        | b :: rest =>
          if dieRuns s d && !s.vault.readOnly && !(s.vault.erasing.any fun p => decide (p.1 = d)) then
            let s := modDie s d fun x => { x with eraseQueue := rest }
            driveWp { s with vault.erasing := s.vault.erasing ++ [(d, b)] } d true
          else s
        | [] => s
      | none => s
    | none => s)

/-- An erased block is free again, unless it has reached its endurance (R397). -/
def blockErased (s : State) (d b : Nat) : State :=
  let top := (s.vault.media.report.map fun r => r.endurance).getD 0
  let s := modBlock s d b fun y =>
    { y with
      state := .free, written := [], erases := y.erases + 1, reads := 0, reserve := false, refreshDue := false,
      scrubDue := false, scrubbed := 0 }
  if top ≤ ((blockAt s d b).map fun y => y.erases).getD 0 then growBad s d b else noteFull s

/-- ERASE_DONE: a block erase reports PASS or FAIL (R397). -/
def execEraseDone (die : Fin 16) (pass : Bool) (s : State) : Host.Outcome State Fault Refusal :=
  .next (match dieIndex s die with
    | some d =>
      match s.vault.erasing.find? fun p => decide (p.1 = d) with
      | some (_, b) =>
        let s := { s with vault.erasing := s.vault.erasing.filter fun p => decide (p.1 ≠ d) }
        let s := driveWp (modDie s d fun x => { x with timeouts := 0 }) d false
        if pass then blockErased s d b else growBad s d b
      | none => s
    | none => s)

/-- A page that cannot be read: at first it is read again, then its block is grown bad (R397, R406). Answers whether this
was the second time. -/
def suspectPage (s : State) (d b p : Nat) : State × Bool :=
  if s.vault.suspect.contains (d, b, p) then
    let s := { s with vault := { s.vault with
        suspect := s.vault.suspect.filter fun x => decide (x ≠ (d, b, p)), uncorrectable := min (s.vault.uncorrectable + 1) 0xFFFF } }
    (growBad s d b, true)
  else ({ s with vault.suspect := s.vault.suspect ++ [(d, b, p)] }, false)

/-- The packing FIFO of a die's channel. -/
def modFifo (s : State) (d : Nat) (f : PackFifo → PackFifo) : State :=
  { s with vault.fifos := s.vault.fifos.modify (((dieAt s d).map fun x => x.channel).getD 0) f }

/-- CODEWORD_DECODE: the BCH decoder ends with one codeword, whose words have left the FIFO (R389, R399, R405). -/
def execCodewordDecode (die : Fin 16) (block : BitVec 24) (page : BitVec 16) (outcome : Decoded) (s : State) :
    Host.Outcome State Fault Refusal :=
  .next (match dieIndex s die with
    | some d =>
      if !dieRuns s d || (blockAt s d block.toNat).isNone then s
      else
        let s := modFifo s d fun _ => { PackFifo.empty with lastPair := now s }
        match outcome with
        | .corrected n =>
          let s := { s with vault := { s.vault with
              corrected := min (s.vault.corrected + bit (decide (0 < n.val))) 0xFFFFFFFF, highest := max s.vault.highest n.val } }
          if 24 < n.val then modBlock s d block.toNat fun y => { y with refreshDue := true } else s
        | .uncorrectable => (suspectPage s d block.toNat page.toNat).1
        | .erased => s
    | none => s)

/-- FIFO_TAIL_TIMEOUT: after `got` bytes of a codeword no pair arrives for 16 ticks; the partial word is pushed with END
and TIMEOUT, and the unused credit returns (R406). -/
def execFifoTailTimeout (die : Fin 16) (block : BitVec 24) (page : BitVec 16) (got : BitVec 11) (s : State) :
    Host.Outcome State Fault Refusal :=
  .next (match dieIndex s die with
    | some d =>
      let n := got.toNat
      if !dieRuns s d || decide (1094 ≤ n) || decide (n % 64 = 0) || (blockAt s d block.toNat).isNone then s
      else
        let words := List.replicate (n / 64) (64, false, false) ++ [(n % 64, true, true)]
        let s := modFifo s d fun f =>
          { f with words := words, reserved := words.length, assembling := 0, unitLeft := 0, lastPair := now s - 16, timeouts := f.timeouts + 1 }
        let p := suspectPage s d block.toNat page.toNat
        if p.2 then
          match dieAt s d with
          | some x => logEvent p.1 3 0x0060 0xFFFF 16
              (leBytes 1 x.channel ++ leBytes 1 x.target ++ leBytes 4 (block.toNat * pagesPerBlock s + page.toNat))
          | none => p.1
        else p.1
    | none => s)

/-- DIE_TIMEOUT: a die that does not report ready is reset, and at a repeat marked failed; its pages are programmed
elsewhere (R407). -/
def execDieTimeout (die : Fin 16) (s : State) : Host.Outcome State Fault Refusal :=
  .next (match dieIndex s die with
    | some d =>
      match dieAt s d with
      | some x =>
        if !dieRuns s d then s
        else if x.timeouts = 0 then modDie s d fun x => { x with timeouts := 1 }
        else
          let s := driveWp (modDie s d fun x => { x with failed := true, eraseQueue := [] }) d false
          let s := { s with vault := { s.vault with
              rework := s.vault.rework ++ s.vault.flight.filter fun p => decide (p.die = d),
              flight := s.vault.flight.filter fun p => decide (p.die ≠ d),
              erasing := s.vault.erasing.filter fun p => decide (p.1 ≠ d) } }
          logEvent s 3 0x0061 0xFFFF 16 (leBytes 1 x.channel ++ leBytes 1 x.target ++ leBytes 1 x.lun)
      | none => s
    | none => s)

/-- BLOCK_REFRESH: a block's read count reaches 50,000 (R399). -/
def execBlockRefresh (die : Fin 16) (block : BitVec 24) (s : State) : Host.Outcome State Fault Refusal :=
  .next (match dieIndex s die with
    | some d => modBlock s d block.toNat fun y => if 50000 ≤ y.reads ∧ y.good then { y with refreshDue := true } else y
    | none => s)

/-- SCRUB_DUE: secure time leaves a block's window of 30 days (R400). -/
def execScrubDue (die : Fin 16) (block : BitVec 24) (s : State) : Host.Outcome State Fault Refusal :=
  .next (match dieIndex s die with
    | some d => modBlock s d block.toNat fun y =>
        if decide (0 < y.valid) && !inWindow s.lodge.secTime.toNat y.stamp.toNat 84934656000 then { y with scrubDue := true } else y
    | none => s)

/-! ## Head signatures (R419) -/

/-- HEAD_SIGNATURE_READY: the signature over the 128 bytes becomes 39 chunks, ahead of every other device record. -/
def execHeadSignatureReady (s : State) : Host.Outcome State Fault Refusal :=
  .next (match s.journal.signing with
    | some (hsn, rec) =>
      let rnd := (List.range 4).flatMap fun i => leBytes 8 (Config.freeWord (s.freeCount + i)).toNat
      let sig := schemeBytes 0x0202 3 .signature (messageRep false 0 (ascii "STRELDOZIN-THADEX") rec) (journalSeed s) rnd 4627
      let chunks := (List.range 39).map fun j => (j, leBytes 8 hsn ++ slice sig (120 * j) 120)
      { s with freeCount := s.freeCount + 4, journal := { s.journal with signing := none, chunks := chunks } }
    | none => s)

/-! ## The export ring (R426, R427) -/

/-- Room in the export ring. -/
def exportRoom (j : Journal) : Bool := decide ((j.jxProd + 2 ^ 32 - j.jxCons) % 2 ^ 32 < 2 ^ j.jxLog)

/-- One entry: KIND, zeros, the slot. -/
def exportEntry (x : JSlot) : List Byte := [if x.chunk then 2 else 1] ++ zeroBytes 7 ++ slice x.bytes 0 128

/-- JOURNAL_EXPORT_WRITE: the next durable slot is written to the ring while there is room; entries wait as event-log
records do (R426, Table 3-7). -/
def execJournalExportWrite (s : State) : Host.Outcome State Fault Refusal :=
  .next (match s.journal.exporting with
    | x :: rest =>
      let j := s.journal
      if j.jxEnable && exportRoom j && masters s 0 then
        let addr := j.jxRing + BitVec.ofNat 64 (136 * (j.jxProd % 2 ^ j.jxLog))
        let s := send s (.write 0 addr (exportEntry x) false)
        { s with journal := { s.journal with
            jxProd := (j.jxProd + 1) % 2 ^ 32, exporting := rest, jxReplay := j.jxReplay && decide (rest ≠ []) } }
      else s
    | [] => { s with journal.jxReplay := false })

/-- Enables the export ring: its geometry is latched and checked (R427). (DEDUCED, log entry 41) -/
def jxEnable (s : State) : State :=
  let j := s.journal
  if j.jxEnable then s
  else
    let n := j.jxSize.toNat % 32
    if n < 10 ∨ 20 < n then { s with journal.jxConfigError := true }
    else { s with journal := { j with jxConfigError := false, jxEnable := true, jxRing := j.jxBase, jxLog := n, jxProd := 0, jxCons := 0 } }

/-- JX_ENABLE. -/
def execJxEnable (s : State) : Host.Outcome State Fault Refusal :=
  .next (if s.boot.ready then jxEnable s else s)

/-- JX_DISABLE: the export position is kept (R427). -/
def execJxDisable (s : State) : Host.Outcome State Fault Refusal :=
  .next (if s.boot.ready then { s with journal.jxEnable := false } else s)

/-- A replay starts at a record: what is durable from there on, then live export (R427). -/
def startReplay (s : State) : State :=
  if !s.vault.mounted then s
  else
    let all := if s.vault.foreign then s.vault.visiting else s.vault.media.journal
    let from' := all.dropWhile fun x => x.chunk || decide (x.seq < s.journal.jxReplaySeq.toNat)
    { s with journal := { s.journal with jxReplay := true, exporting := from' } }

/-- JX_REPLAY. -/
def execJxReplay (s : State) : Host.Outcome State Fault Refusal :=
  .next (if s.boot.ready then startReplay s else s)

end Sys2Proof.Machine
end

