-- ==== Sys2Proof/Machine/Journal.lean ====
section
/-! DEFINITION. Append turns: whose page an append slot carries, how a page is assembled, and what its program's PASS
or FAIL brings (18_thadex_journal.md R410 to R419; 17_vault_media.md R393, R401, R403; 14_icehouse.md R332, R181). -/
namespace Sys2Proof.Machine
open Sys2Proof

/-! ## Whose turn it is (R413) -/

/-- The holder of position `p` of a round with its members; the device is 4096. -/
def turnHolder (members : List Nat) (round p : Nat) : Option Nat :=
  if p = 0 then some deviceHolder
  else if p = 1 then some 0
  else members[(14 * round + p - 2) % members.length]?

/-- A new round: the membership taken at the last epoch boundary comes into force; the count restarts only where it
differs. -/
def newRound (s : State) : State :=
  let j := s.journal
  if j.position ≠ 0 then s
  else if j.nextMembers = j.members then s
  else { s with journal := { j with members := j.nextMembers, round := 0 } }

/-- The next position. -/
def nextPosition (s : State) : State :=
  let j := s.journal
  if j.position = 15 then { s with journal := { j with position := 0, round := j.round + 1 } }
  else { s with journal.position := j.position + 1 }

/-! ## Assembly (R410, R415, R418, R419, R423) -/

/-- Slots of a JOURNAL page: 15, 31, 63 or 127 (R412). -/
def slotsPerPage (s : State) : Nat := ((s.vault.media.report.map fun r => r.pageBytes).getD 2048 - 80) / 128

/-- The 128 bytes of a record (Table 18-1). -/
def recordBytes (s : State) (r : JRecord) : List Byte :=
  let flags := bit (!s.lodge.timeValid) + 2 * bit s.bridge.solo + (r.flags / 4 % 2) * 4
  leBytes 8 s.journal.next ++ leBytes 8 s.lodge.secTime.toNat ++ leBytes 8 (now s) ++ leBytes 1 r.type ++ leBytes 1 flags ++
    leBytes 2 r.allot.toNat ++ leBytes 2 r.subtype ++ leBytes 2 s.lodge.bootCount.toNat ++ slice s.journal.head 0 32 ++
    slice r.body 0 64

/-- The receipt of a NOTARISE stands in its job from the assembly (R423). -/
def giveReceipt (s : State) (id : Nat) (b : List Byte) : State :=
  let receipt := b ++ leBytes 8 (s.journal.hsnAssembled + 1) ++ leBytes 8 s.otp.deviceId.toNat
  { s with jobs := KMap.mapAll s.jobs fun _ j =>
      if decide (j.entry.opcode.toNat = 0x3801) && j.waits.contains (.record id) then { j with context := receipt } else j }

/-- Assembles one record: it receives its sequence number and the hash of the one before. -/
def assembleRecord (s : State) (r : JRecord) : State × JSlot :=
  let b := recordBytes s r
  let s := if r.type = 1 then giveReceipt s r.id b else s
  let j := s.journal
  let slot : JSlot := { chunk := false, seq := j.next, id := r.id, bytes := b }
  ({ s with journal := { j with
      next := j.next + 1, head := sha3_256 b, sinceHs := j.sinceHs + 1,
      firstTime := if j.next = 1 then s.lodge.secTime.toNat else j.firstTime } }, slot)

/-- A HEAD_SIGNATURE is due (R418, R420). -/
def headDue (s : State) : Bool :=
  let j := s.journal
  let start := if j.lastHsSeq = 0 then j.firstTime else j.hsTime
  j.signing.isNone && decide (j.chunks = []) &&
    (decide (4096 ≤ j.sinceHs) ||
      (decide (1 ≤ j.sinceHs) && (j.unmounting || !inWindow s.lodge.secTime.toNat start 32768)))

/-- Assembles a HEAD_SIGNATURE; the controller begins to sign it. -/
def assembleHead (s : State) : State × JSlot :=
  let j := s.journal
  let hsn := j.hsnAssembled + 1
  let body := leBytes 8 hsn ++ leBytes 8 j.lastHsSeq ++ sha3_256 (journalPublic s) ++ leBytes 8 s.otp.deviceId.toNat
  let r : JRecord :=
    { id := j.nextId, type := 8, subtype := 0, allot := 0xFFFF, holder := deviceHolder, flags := 0, body := slice body 0 64 }
  let p := assembleRecord { s with journal.nextId := j.nextId + 1 } r
  ({ p.1 with journal := { p.1.journal with
      hsnAssembled := hsn, lastHsSeq := p.2.seq, sinceHs := 0, hsTime := s.lodge.secTime.toNat,
      signing := some (hsn, p.2.bytes) } }, p.2)

/-- Assembles records in order. -/
def assembleAll (s : State) (rs : List JRecord) : State × List JSlot :=
  rs.foldl (fun (p : State × List JSlot) r =>
    let q := assembleRecord p.1 r
    (q.1, p.2 ++ [q.2])) (s, [])

/-- The records leave the pending queue. -/
def takePending (s : State) (rs : List JRecord) : State :=
  { s with journal.pending := s.journal.pending.filter fun r => !(rs.any fun x => decide (x.id = r.id)) }

/-! ## Programs (R393, R403) -/

/-- Starts the program of a page in the block taken for it; after 256 appended pages a checkpoint is due (R394). -/
def startProgram (s : State) (d b holder : Nat) (c : PageContent) (changes : List Nat) (security : Bool) : State :=
  let p : PageInFlight :=
    { number := s.vault.nextPage, holder := holder, pseq := s.vault.media.pseq, content := c, changes := changes,
      security := security, die := d, block := b }
  let s := driveWp (programPage s d b c false) d true
  let n := s.vault.sinceCheckpoint + 1
  let s := { s with vault := { s.vault with flight := s.vault.flight ++ [p], nextPage := s.vault.nextPage + 1, sinceCheckpoint := n } }
  let s := if n = 256 then addChore s 3 0 0 else s
  noteFull s

/-- A JOURNAL page of records in a block. -/
def programJournal (s : State) (d b holder : Nat) (security : Bool) (slots : List JSlot) : State :=
  startProgram { s with journal.slots := s.journal.slots ++ slots } d b holder (.journal slots) [] security

/-- The next chunks as slots: they stand after the record assembled last. -/
def chunkSlots (s : State) (n : Nat) : List JSlot :=
  (s.journal.chunks.take n).map fun c => { chunk := true, seq := s.journal.next - 1, id := c.1, bytes := c.2 }

/-- A record that precedes every other of its boot: a GAP record, or the one that names the cause of the reset (R425,
R462). -/
def leads (r : JRecord) : Bool := decide (r.type = 2 ∧ r.subtype = 2) || isEventOf 0x0001 0xFF r

/-- A record that precedes every other of the boot has not been assembled. -/
def leadPending (s : State) : Bool := s.journal.pending.any leads

/-- The pending records that a page of a holder may take: while a format's own record has not been assembled it alone, for it
is the first of the new journal (R130); while a record waits that precedes every other of the boot, the device's alone, where
it stands first (R425, R462). -/
def openRecords (s : State) (h : Nat) : List JRecord :=
  let own := fun (r : JRecord) => decide (r.holder = h)
  if s.vault.formatting && decide (s.journal.next = 1) then (s.journal.pending.take 1).filter own
  else if leadPending s && decide (h ≠ deviceHolder) then []
  else s.journal.pending.filter own

/-- The device's page: chunks, a due HEAD_SIGNATURE, then its records; in a full Vault chunks and SECURITY_EVENT records
alone, in the security reserve (R414, R416, R419). -/
def devicePage (s : State) (d : Nat) : State :=
  let cap := slotsPerPage s
  let mine := openRecords s deviceHolder
  let due := headDue s && !leadPending s
  if s.journal.chunks = [] ∧ !due ∧ mine = [] then s
  else match takeBlock s d .journal false with
    | some (s, b) =>
      let cs := chunkSlots s cap
      let s := { s with journal.chunks := s.journal.chunks.drop cap }
      let (s, hs) : State × List JSlot := if due then let p := assembleHead s; (p.1, [p.2]) else (s, [])
      let rs := mine.take (cap - cs.length - hs.length)
      let p := assembleAll (takePending s rs) rs
      programJournal p.1 d b deviceHolder false (cs ++ hs ++ p.2)
    | none =>
      let failing := (mine.take cap).filter fun r => decide (r.type ≠ 2)
      let s := failing.foldl (fun s r => recordFailed s r .vaultFull) (takePending s failing)
      match takeBlock s d .journal true with
      | some (s, b) =>
        let cs := chunkSlots s cap
        let s := { s with journal.chunks := s.journal.chunks.drop cap }
        let rs := (mine.filter fun r => decide (r.type = 2)).take (cap - cs.length)
        if cs = [] ∧ rs = [] then s
        else
          let p := assembleAll (takePending s rs) rs
          programJournal p.1 d b deviceHolder true (cs ++ p.2)
      | none => s

/-- The key-image page of an allotment. -/
def imagePage (s : State) (d a : Nat) (ids : List Nat) : State :=
  let s := { s with ice.changes := s.ice.changes.filter fun c => decide (c.2 ≠ a) }
  match takeBlock s d .keyImage false with
  | some (s, b) => startProgram s d b a (.keyImage (imagePart s a)) ids false
  | none => imageFailed s ids .vaultFull

/-- The journal page of an allotment. -/
def allotPage (s : State) (d a : Nat) (rs : List JRecord) : State :=
  match takeBlock s d .journal false with
  | some (s, b) =>
    let p := assembleAll (takePending s rs) rs
    programJournal p.1 d b a false p.2
  | none => rs.foldl (fun s r => recordFailed s r .vaultFull) (takePending s rs)

/-- The tree-cache page of a key. -/
def cachePage (s : State) (d a k : Nat) : State :=
  let s := { s with ice.cacheDue := s.ice.cacheDue.filter (· ≠ k) }
  match takeBlock s d .cache false with
  | some (s, b) =>
    let levels := (((KMap.get? s.ice.keys k).bind fun x => x.stateful).map fun t => t.cache).getD []
    startProgram s d b a (.cache (slotHandle s k) levels) [] false
  | none => s

/-- The page of an allotment, the first of R414 that applies. A suspended or absent key image takes no page. -/
def allotmentTurn (s : State) (d a : Nat) : State :=
  let s := if s.ice.imageSuspended then { s with ice.changes := s.ice.changes.filter fun c => decide (c.2 ≠ a) } else s
  let ids := (s.ice.changes.filter fun c => decide (c.2 = a)).map Prod.fst
  let rs := (openRecords s a).take (slotsPerPage s)
  if s.ice.ready && decide (ids ≠ []) then imagePage s d a ids
  else if rs ≠ [] then allotPage s d a rs
  else match s.ice.cacheDue.find? fun k => decide (k / 64 = a) with
    | some k => cachePage s d a k
    | none => s

/-- A failed program's content is programmed again in a slot of another die (R393). It takes no holder's position.
(DEDUCED, log entry 88) -/
def reprogram (s : State) (d : Nat) (p : PageInFlight) : State :=
  match takeBlock s d p.content.stream p.security with
  | some (s, b) =>
    let s := { s with vault.rework := s.vault.rework.filter fun x => decide (x.number ≠ p.number) }
    startProgram s d b p.holder p.content p.changes p.security
  | none => s

/-- One append slot of a die (R401, R413). -/
def appendSlot (s : State) (d : Nat) : State :=
  match s.vault.rework.find? fun p => decide (p.die ≠ d) || decide (s.vault.media.dies.length = 1) with
  | some p => reprogram s d p
  | none =>
    let s := newRound s
    let holder := turnHolder s.journal.members s.journal.round s.journal.position
    let s := nextPosition s
    match holder with
    | some h => if h = deviceHolder then devicePage s d else allotmentTurn s d h
    | none => s

/-! ## Durability (R393) -/

/-- Where a slot stands in the journal: a chunk follows the record assembled before it. -/
def slotOrder (x : JSlot) : Nat := 64 * x.seq + (if x.chunk then 1 + x.id else 0)

/-- Puts a slot into the journal on the media. -/
def insertSlot (x : JSlot) : List JSlot → List JSlot
  | [] => [x]
  | y :: l => if slotOrder x ≤ slotOrder y then x :: y :: l else y :: insertSlot x l

/-- The slots of a journal page are durable: export goes on as far as every slot before is durable too (R426). -/
def journalDurable (s : State) (slots : List JSlot) : State :=
  let s := { s with vault.media.journal := slots.foldl (fun l x => insertSlot x l) s.vault.media.journal }
  let s := slots.foldl (fun s x =>
    if x.chunk then (if x.id = 38 then { s with journal.hsnDurable := fieldAt x.bytes 0 8 } else s)
    else recordDurable s x.id x.seq x.bytes) s
  let ready := s.journal.slots.takeWhile fun x => s.vault.media.journal.contains x
  { s with journal := { s.journal with slots := s.journal.slots.drop ready.length, exporting := s.journal.exporting ++ ready } }

/-- A key-image page is durable: PERSISTED is set from then on (R332). -/
def imagePageDurable (s : State) (p : PageInFlight) (part : ImagePart) : State :=
  let old := s.vault.media.image.getD (KeyImage.empty part.wrap)
  let s := stalePages s fun q => decide (q.head.pseq < p.pseq) && match q.content with
    | .keyImage x => decide (x.allot = part.allot)
    | _ => false
  let persisted := fun (k : Nat) (x : Key) => if KMap.has part.keys k then { x with persisted := true } else x
  let s := { s with vault.media.image := some (mergePart old part), ice.keys := KMap.mapAll s.ice.keys persisted }
  imageDurable s p.changes

/-- A page of a tree cache is durable: the one before it is stale (R181). -/
def cachePageDurable (s : State) (p : PageInFlight) (h : W64) : State :=
  let s := stalePages s fun q => decide (q.head.pseq < p.pseq) && match q.content with
    | .cache x _ => decide (x = h)
    | _ => false
  { s with vault.media.caches := if s.vault.media.caches.contains h then s.vault.media.caches else s.vault.media.caches ++ [h] }

/-- A page's program reports PASS. -/
def pagePassed (s : State) (p : PageInFlight) : State :=
  match p.content with
  | .journal slots => journalDurable s slots
  | .keyImage part => imagePageDurable s p part
  | .cache h _ => cachePageDurable s p h
  | .history _ | .dump _ _ | .checkpoint _ => s

/-- A page's program reports FAIL: what it holds is no version of anything, its content is programmed again, and its block
is grown bad (R393). -/
def pageFailed (s : State) (p : PageInFlight) : State :=
  growBad { stalePages s (isPage p.pseq) with vault.rework := s.vault.rework ++ [p] } p.die p.block

/-! ## The rows -/

/-- APPEND_SLOT (R413). -/
def execAppendSlot (die : Fin 16) (s : State) : Host.Outcome State Fault Refusal :=
  .next (match dieIndex s die with
    | some d => if dieRuns s d && !s.vault.readOnly then settle (appendSlot s d) else s
    | none => s)

/-- PAGE_PROGRAM_DONE: a page program reports PASS or FAIL (R393). -/
def execPageProgramDone (page : W64) (pass : Bool) (s : State) : Host.Outcome State Fault Refusal :=
  .next (match s.vault.flight.find? fun p => decide (p.number = page.toNat) with
    | some p =>
      let s := { s with vault.flight := s.vault.flight.filter fun x => decide (x.number ≠ p.number) }
      let s := driveWp (modDie s p.die fun x => { x with timeouts := 0 }) p.die false
      settle (if pass then pagePassed s p else pageFailed s p)
    | none => s)

end Sys2Proof.Machine
end

