-- ==== Sys2Proof/Machine/Frames.lean ====
section
/-! DEFINITION. The Footbridge's link and messages: what a bridge slot carries, what is accepted, and what each message
does (19_footbridge.md R428 to R447). -/
namespace Sys2Proof.Machine
open Sys2Proof

/-! ## Sending (R429, R430, R433, R442) -/

/-- A new bridge round takes the membership of the last epoch boundary (R433). -/
def newBridgeRound (s : State) : State :=
  let b := s.bridge
  if b.position ≠ 0 then s
  else if b.nextMembers = b.members then s
  else { s with bridge := { b with members := b.nextMembers, round := 0 } }

/-- The next position of the bridge round. -/
def nextBridgePosition (s : State) : State :=
  let b := s.bridge
  if b.position = 15 then { s with bridge := { b with position := 0, round := b.round + 1 } }
  else { s with bridge.position := b.position + 1 }

/-- A pair key exists and this link up has no link key yet: nonces and the pairing's open messages alone may go (R431). -/
def linkOpening (s : State) : Bool :=
  s.bridge.linkKey.isNone && s.bridge.pairKey.isSome && (s.bridge.paired || decide (3 ≤ s.bridge.ceremony))

/-- A message of the pairing ceremony, which uses every position (R433). -/
def pairingType (t : Nat) : Bool := decide (1 ≤ t ∧ t ≤ 6)

/-- The message that a position of a holder carries. -/
def slotFrame (s : State) (holder : Option Nat) : Option (Nat × Frame) :=
  let dev := KMap.getD s.bridge.queue deviceHolder []
  if linkOpening s then
    (dev.find? fun f => decide (1 ≤ f.type ∧ f.type ≤ 3) || (decide (f.type = 0x24) && decide (holder = some deviceHolder))).map
      fun f => (deviceHolder, f)
  else match dev with
    | f :: _ =>
      if pairingType f.type then some (deviceHolder, f)
      else holder.bind fun h => (KMap.getD s.bridge.queue h []).head?.map fun f => (h, f)
    | [] => holder.bind fun h => (KMap.getD s.bridge.queue h []).head?.map fun f => (h, f)

/-- What the last segment of a message brings at the sender (R431, R439, R441). -/
def messageSent (s : State) (f : Frame) : State :=
  match f.type with
  | 0x10 => { s with bridge.commits := KMap.adjust s.bridge.commits f.tseq fun c => { c with sentAt := some (now s) } }
  | 0x13 => settle (commitDone s f.tseq)
  | 0x24 => tryLinkKey s
  | _ => s

/-- Transmits one frame: a frame asked for again as it was, or the next segment of a message. -/
def transmit (s : State) (h : Nat) (f : Frame) : State :=
  if f.fseq ≠ 0 then
    { s with bridge := { s.bridge with
      queue := KMap.put s.bridge.queue h ((KMap.getD s.bridge.queue h []).erase f),
      resent := min (s.bridge.resent + 1) 0xFFFFFFFF, wire := s.bridge.wire ++ [frameBytes s f] } }
  else
    let s := sendSegment s h f
    if f.payload.length ≤ 912 * (f.segment + 1) then messageSent s f else s

/-- The payload of HEARTBEAT (Table 19-3). -/
def heartbeatPayload (s : State) : List Byte :=
  leBytes 8 (now s) ++ leBytes 8 s.lodge.secTime.toNat ++ leBytes 1 (bit s.bridge.solo) ++ zeroBytes 7 ++
    leBytes 8 (s.bridge.committed.getLast?.getD 0) ++ leBytes 8 s.bridge.peerCommitted

/-- A heartbeat is due in this device position (R442). -/
def heartbeatDue (s : State) : Bool :=
  s.bridge.paired && s.bridge.linkKey.isSome && !(s.bridge.solo && decide (s.bridge.soloCause = 3)) &&
    decide (s.bridge.hbSent < now s / 64)

/-- One bridge slot. -/
def bridgeSlot (s : State) : State :=
  let s := newBridgeRound s
  let p := s.bridge.position
  let holder := turnHolder s.bridge.members s.bridge.round p
  let s := nextBridgePosition s
  if p = 0 && heartbeatDue s then
    let f : Frame :=
      { type := 0x20, last := true, isSealed := true, holder := deviceHolder, fseq := 0, tseq := 0, segment := 0,
        payload := heartbeatPayload s }
    let q := KMap.getD s.bridge.queue deviceHolder []
    transmit { s with bridge.queue := KMap.put s.bridge.queue deviceHolder (f :: q), bridge.hbSent := now s / 64 } deviceHolder f
  else match slotFrame s holder with
    | some (h, f) => transmit s h f
    | none => s

/-! ## Receiving (R430) -/

/-- The queue of a frame's HOLDER field. -/
def frameHolder (h : FrameHead) : Nat := if h.holder = 0xFFFF then deviceHolder else h.holder.toNat

/-- The Footbridge takes frames. -/
def bridgeListens (s : State) : Bool := s.bridge.linkUp && s.bridge.block.at'.isNone

/-- A frame is discarded, and the first missing one asked for. -/
def discardFrame (s : State) : State :=
  let s := { s with bridge := { s.bridge with
    discarded := min (s.bridge.discarded + 1) 0xFFFFFFFF, nakSince := s.bridge.nakSince <|> some (now s) } }
  postFrame s deviceHolder 0x23 0 (leBytes 8 (s.bridge.fseqIn + 1))

/-- A whole message is accepted, or discarded; on acceptance it has its effect. -/
def onMessage (s : State) (h : FrameHead) (effect : State → State) : State :=
  if !bridgeListens s then s
  else if h.intact && decide (h.first.toNat = s.bridge.fseqIn + 1) && decide (h.first ≤ h.last) then
    effect { s with bridge := { s.bridge with fseqIn := h.last.toNat, nakSince := none } }
  else discardFrame s

/-! ## Changes of the twin (R436, R439, R440) -/

/-- A command that stands for a change of the twin: its opcode, AUX, INLINE, drawn bytes and input. -/
def commandJob (s : State) (opcode aux : Nat) (inl drawn input : List Byte) : Job :=
  let e : Entry :=
    { ctrl := 0, opcode := BitVec.ofNat 16 opcode, tag := 0, keyh := 0, inAddr := 0, inLen := BitVec.ofNat 32 input.length,
      inFrags := 0, outAddr := 0, outLen := 0, aux := BitVec.ofNat 32 aux, inl := BitVec.ofNat 128 (leNat inl) }
  { newJob s 0 e false with inl := e.inl, drawn := drawn, input := input }

/-- The command that makes an allotment what an item shows: a creation, a destruction where the item is empty, or the change
of the part that differs, the binding, the windows or the curve policy. -/
def allotCommand (s : State) (a : Nat) (b : List Byte) : Job :=
  let w := itemAllot b 0
  if b = [] then commandJob s 0xF002 0 (leBytes 2 a) [] []
  else match KMap.get? s.allots a with
    | none => commandJob s 0xF001 0 (leBytes 2 a ++ slice b 0 6) w.salt []
    | some v =>
      if w.func ≠ v.func ∨ w.page ≠ v.page then commandJob s 0xF003 0 (leBytes 2 a ++ leBytes 1 (w.func.getD 0) ++ leBytes 1 w.page) [] []
      else match (List.range 8).find? fun i => decide (KMap.get? w.windows i ≠ KMap.get? v.windows i) with
        | some i =>
          let x := (KMap.get? w.windows i).getD { base := 0, limit := 0, perm := 0 }
          commandJob s 0xF007 (a + 2 ^ 16 * i + 2 ^ 20 * x.perm.toNat) (leBytes 8 x.base.toNat ++ leBytes 8 x.limit.toNat) [] []
        | none => commandJob s 0xF00B 0 (leBytes 2 a ++ leBytes 1 w.curves.toNat ++ leBytes 1 w.maxLoad) [] []

/-- The command that frees a queue, where its item is empty, or creates it. -/
def queueCommand (s : State) (k : Nat) (b : List Byte) : Job :=
  let q := itemQueue b
  if b = [] then commandJob s 0xF005 0 (leBytes 2 (k / 8) ++ leBytes 1 (k % 8)) [] []
  else commandJob s 0xF004 q.modTicks (leBytes 8 q.base.toNat ++ leBytes 2 (k / 8) ++ leBytes 1 (k % 8) ++ leBytes 1 q.log2n ++
    leBytes 2 (q.vector.getD 0xFFFF) ++ leBytes 1 (q.modCount - 1)) [] []

/-- The command whose preconditions, records and effect a change of the twin has here (R439). (DEDUCED, log entry 79) -/
def peerJob (s : State) (kind item : Nat) (b : List Byte) : Job :=
  match kind with
  | 0 => commandJob s (fieldAt b 0 2) (fieldAt b 2 4) (slice b 6 16) [] (b.drop 22)
  | 1 => allotCommand s item b
  | 2 => queueCommand s item b
  | 3 => commandJob s 0xF006 0 (leBytes 2 item ++ slice b 0 10) [] []
  | 7 => commandJob s 0xF00A 0 [] [] b
  | 0x0A => commandJob s 0xF00C 0 (slice b 0 8) [] []
  | 0x0B => commandJob s 0xF00D (fieldAt b 256 1) [] [] (b.take 256)
  | 0x0C => commandJob s 0xF00E 0 (slice b 0 2) [] []
  | _ => commandJob s 0 0 [] [] []

/-- A number that names no job here. -/
def peerKey : Nat := 2 ^ 40

/-- A commit of this device names the same item; of a stateful or quote block, the same block (R440). -/
def sameOpen (s : State) (kind item : Nat) (b : List Byte) : Bool :=
  if kind = 8 ∨ kind = 9 then s.bridge.commits.any fun p => decide (p.2.kind = kind ∧ p.2.item = item ∧ p.2.contents = b)
  else itemOpen s kind item

/-- The NAK reason with which the receiver's check of a change fails: 1 CONFLICT, 2 KNOWN_BLOCK, 3 INVALID. -/
def changeFault (s : State) (kind item : Nat) (b : List Byte) : Option Nat :=
  let f := fieldAt b
  let need := fun (ok : Bool) => if ok then none else some 3
  if sameOpen s kind item b && !isWest s then some 1
  else match kind with
    | 0 => if f 0 2 = 0xF00F then need (lcAdvanceCheck s (peerJob s kind item b)).isNone else none
    | 0x0E => none
    | 4 =>
      let live := (KMap.get? s.ice.keys item).any fun x => x.live
      need (if b.length = 32 then live && vaultWritable s
        else !live && KMap.has s.allots (item / 64) && (openKeyItem s b).isSome)
    | 5 => need (KMap.has s.allots item)
    | 6 => need (KMap.has s.allots (item / 8))
    | 8 =>
      match findKey s (handleAllot (f 0 8)) (f 0 8) with
      | some (false, k, _) =>
        if (statefulAt s k).any fun t => decide (f 8 8 < t.nextBlock) then some 2 else need (vaultWritable s)
      | _ => some 3
    | 9 => if f 0 8 < s.ice.quoteNext then some 2 else need (vaultWritable s)
    | 0x0D => need (decide (s.ice.enrolCount < f 0 8) && vaultWritable s)
    | _ =>
      let j := peerJob s kind item b
      match adminCmdOf j with
      | some c => need (c.check s j).isNone
      | none => some 3

/-- The receiver's own records of a change, in the same holder's turns (R439 step 2). -/
def changeRecords (s : State) (holder kind item : Nat) (b : List Byte) : State × List Nat :=
  let f := fieldAt b
  let one := fun (p : State × Nat) => (p.1, [p.2])
  let twin := leBytes 8 s.bridge.twinId.toNat
  match kind with
  | 0 => if f 0 2 = 0xF00F then lcAdvanceRecords s (peerJob s kind item b) else (s, [])
  | 5 | 6 | 0x0E => (s, [])
  | 4 =>
    match KMap.get? s.ice.keys item with
    | some key => if b.length = 32 then one (postKeyEvent s holder 3 item key 0) else (s, [])
    | none => (s, [])
  | 8 =>
    let k := item
    match statefulAt s k with
    | some t =>
      let r := blockRange t (f 8 8)
      one (postRecord s 4 2 (BitVec.ofNat 16 (k / 64)) holder (leBytes 8 (f 0 8) ++ leBytes 8 r.1 ++ leBytes 8 (r.2 - r.1) ++ twin))
    | none => (s, [])
  | 9 => one (postRecord s 4 2 0xFFFF holder (leBytes 8 0 ++ leBytes 8 (65536 * f 0 8 + 1) ++ leBytes 8 65536 ++ twin))
  | 0x0D => one (postRecord s 2 0 0xFFFF holder (securityBody 0 0xFF 0xFF 1 (now s) (now s) (b.take 8)))
  | _ =>
    let j := peerJob s kind item b
    match j.entry.opcode.toNat with
    | 0xF002 => postDestroyed s (inlAllot j) holder
    | 0xF005 => (s, [])
    | _ => match adminCmdOf j with
      | some c => c.records s j
      | none => (s, [])

/-- Applies a change of the twin (R439 step 4). -/
def applyStaged (s : State) (x : Staged) : State :=
  let b := x.contents
  match x.kind with
  | 0 =>
    if fieldAt b 0 2 = 0xF00F then
      let p := freshBytes s 32
      (lcAdvanceApply p.2 peerKey { peerJob s 0 x.item b with drawn := p.1 }).1
    else enterSolo s 1
  | 4 => if b.length = 32 then zeroiseSlot s x.item else (postImageChange (installItem s 4 x.item b) (x.item / 64)).1
  | 5 => installItem s 5 x.item b
  | 6 =>
    if b = [] then
      { s with curves := KMap.adjust s.curves x.item fun c => { c with unloading := true, unloadOrder := s.sched.fetchSeq } }
    else installItem s 6 x.item b
  | 8 => modStateful s x.item fun t => { t with nextBlock := max t.nextBlock (fieldAt b 8 8 + 1) }
  | 9 => { s with ice.quoteNext := max s.ice.quoteNext (fieldAt b 0 8 + 1) }
  | 0x0D => (postImageChange (installItem s 0x0D 0 b) 0).1
  | 0x0E => (postImageChange (installItem s 0x0E 0 b) 0).1
  | _ =>
    let j := peerJob s x.kind x.item b
    let a := inlAllot j
    match j.entry.opcode.toNat with
    | 0xF002 => modAllot (abortAllotment (closeQueues s a) a) a fun v => { v with destroying := true, destroyRecords := [] }
    | 0xF005 => modQueue (abortQueue s a (inlineField j 50 1)) a (inlineField j 50 1) fun q => { q with closing := true }
    | 0xF001 => modAllot (createApply s peerKey j).1 a fun v => { v with twinKeys := (itemAllot b 0).twinKeys }
    | _ => match adminCmdOf j with
      | some c => (c.apply s peerKey j).1
      | none => s

/-- PREPARE: checked, staged with its records, or refused. -/
def onPrepare (s : State) (h : FrameHead) (p : List Byte) : State :=
  let kind := fieldAt p 0 2
  let item := fieldAt p 2 6
  let b := p.drop 8
  let holder := frameHolder h
  let t := h.tseq.toNat
  if !mirrors s then s
  else match changeFault s kind item b with
    | some r => postFrame s holder 0x12 t (leBytes 8 t ++ leBytes 2 r)
    | none =>
      let q := changeRecords s holder kind item b
      let x : Staged :=
        { tseq := t, holder := holder, kind := kind, item := item, contents := b, records := q.2, acked := false, inDoubt := false }
      ackReady { q.1 with bridge.staged := q.1.bridge.staged ++ [x] }

/-- COMMIT: the staged change is applied. -/
def onCommit (s : State) (t : Nat) : State :=
  match s.bridge.staged.find? fun x => decide (x.tseq = t) with
  | some x =>
    let s := { s with bridge := { s.bridge with
      staged := s.bridge.staged.filter fun y => decide (y.tseq ≠ t), peerCommitted := max s.bridge.peerCommitted t } }
    settle (applyStaged s x)
  | none => s

/-- A job runs its change again against the new state: another slot, the same command (R440). -/
def rerunJob (s : State) (k : Nat) : State :=
  match KMap.get? s.jobs k with
  | none => s
  | some j =>
    if j.entry.opcode.toNat = 0x3009 then advanceJob (modJob s k fun x => { x with index := 0, waits := [], phase := .running }) k
    else match j.slot with
      | some n =>
        match freeKey s.ice.keys (keyAllot k) (slotCount s (keyAllot k)) with
        | some m =>
          let t := statefulAt s n
          let s := { s with ice.keys := KMap.put (KMap.drop s.ice.keys n) m { Key.reserved with stateful := t } }
          advanceJob (modJob s k fun x => { x with slot := some m, waits := [], phase := .running }) k
        | none => failWaiting s k .twinUnavailable
      | none => advanceJob (modJob s k fun x => { x with waits := [], phase := .running }) k

/-- An admin command's change is offered again after its preconditions are checked anew (R440). -/
def rerunAdmin (s : State) (k : Nat) (c : Commit) : State :=
  match KMap.get? s.jobs k with
  | none => s
  | some j =>
    match (adminCmdOf j).bind fun x => adminFailure x s j with
    | some (st, reason) => adminFail (adminUndo s j) k st reason
    | none =>
      let b := match adminCmdOf j with
        | some x => adminContents x s k j c.kind c.item
        | none => c.contents
      let p := openCommit s c.holder c.kind c.item b c.records (some k)
      modJob p.1 k fun x => { x with waits := [.twin p.2] }

/-- NAK: an invalid change fails; one that lost to the East, or that names a known block, is chosen again (R439, R440).
(DEDUCED, log entry 84) -/
def onNak (s : State) (t reason : Nat) : State :=
  match KMap.get? s.bridge.commits t with
  | none => s
  | some c =>
    let s := { s with bridge.naks := min (s.bridge.naks + 1) 0xFFFF }
    if reason = 3 then failCommit { s with bridge.commits := KMap.adjust s.bridge.commits t fun c => { c with sentAt := none } } t .twinUnavailable
    else
      let s := closeCommit s t
      match c.kind, c.job with
      | 8, none =>
        match statefulAt s c.item with
        | some x =>
          let b := x.opened.getD 0
          openReservation (modStateful s c.item fun y => { y with opened := none, nextBlock := max y.nextBlock (b + 1) }) c.item x.joined
        | none => s
      | 9, none =>
        let b := s.ice.quoteOpened.getD 0
        openQuote { s with ice.quoteOpened := none, ice.quoteNext := max s.ice.quoteNext (b + 1) } s.ice.quoteJoined
      | _, some k =>
        if ((KMap.get? s.jobs k).map family) = some 0xF0 then rerunAdmin s k c else rerunJob s k
      | _, none => s

/-! ## Link rows (R428, R430, R431) -/

/-- The link comes up with its four lanes: frame numbers restart, and a paired device sends its nonce. -/
def linkUp (s : State) : State :=
  let s := restartFrames { s with bridge := { s.bridge with linkUp := true, lanes := 4 } }
  if s.bridge.paired then postNonce s else s

/-- A ceremony does not outlive its link (R435). -/
def endCeremony (s : State) : State :=
  let s := { s with bridge.helloPeer := [] }
  if 1 < s.bridge.ceremony ∧ s.bridge.ceremony < 6 then failCeremony s .twinUnavailable 0 else s

/-- LINK_UP (R428, R431). -/
def execLinkUp (s : State) : Host.Outcome State Fault Refusal :=
  .next (if hasBridge s && s.bridge.present && decide (8 ≤ s.boot.stage) && s.bridge.block.at'.isNone && !s.bridge.linkUp then linkUp s else s)

/-- LINK_DOWN (R428). -/
def execLinkDown (s : State) : Host.Outcome State Fault Refusal :=
  .next (if s.bridge.linkUp then endCeremony (linkLost s) else s)

/-- LINK_RETRAIN: a link that is not up retrains every 4,096 ticks (R428). -/
def execLinkRetrain (s : State) : Host.Outcome State Fault Refusal :=
  .next (if hasBridge s && s.bridge.present && decide (8 ≤ s.boot.stage) && !s.bridge.linkUp && decide (s.bridge.retrainAt ≤ now s) then retrain s else s)

/-- FB_PRESENT_CHANGE: the twin's presence pin moves (R428). -/
def execFbPresentChange (present : Bool) (s : State) : Host.Outcome State Fault Refusal :=
  let s := { s with bridge.present := present }
  .next (if !present && s.bridge.linkUp then endCeremony (linkLost s) else s)

/-- LINK_NAK_TIMEOUT: a frame is not recovered within 64 ticks of its LINK_NAK (R430). -/
def execLinkNakTimeout (s : State) : Host.Outcome State Fault Refusal :=
  .next (match s.bridge.nakSince with
    | some t => if bridgeListens s && decide (t + 64 ≤ now s) then endCeremony (retrain s) else s
    | none => s)

/-- BRIDGE_SLOT (R433). -/
def execBridgeSlot (s : State) : Host.Outcome State Fault Refusal :=
  .next (if bridgeListens s then bridgeSlot s else s)

/-! ## Message rows (Table 19-3) -/

/-- HELLO of the twin (R435 step 1). It is kept until this device's own TWIN_PAIR. -/
def execHello (head : FrameHead) (payload : List Byte) (s : State) : Host.Outcome State Fault Refusal :=
  .next (onMessage s head fun s =>
    if s.bridge.paired || decide (payload.length < 80) then s
    else
      let s := { s with bridge.helloPeer := payload }
      if s.bridge.ceremony = 1 then judgeHello s else s)

/-- KEM_EK: the West encapsulates and answers KEM_CT; both then hold the pair key (R435 steps 2 and 3). -/
def execKemEk (head : FrameHead) (payload : List Byte) (s : State) : Host.Outcome State Fault Refusal :=
  .next (onMessage s head fun s =>
    if isWest s && decide (s.bridge.ceremony = 2) && decide (payload.length = 1568) then
      let rnd := slice s.bridge.sharedSecret 0 32
      let ct := schemeBytes 0x0102 3 .ciphertext payload [] rnd 1568
      let shared := schemeBytes 0x0102 3 .sharedSecret payload [] rnd 32
      let s := postFrame { s with bridge.kemEk := payload, bridge.kemCt := ct } deviceHolder 0x03 0 ct
      formPairKey s shared
    else s)

/-- KEM_CT: the East decapsulates (R435 steps 2 and 3). -/
def execKemCt (head : FrameHead) (payload : List Byte) (s : State) : Host.Outcome State Fault Refusal :=
  .next (onMessage s head fun s =>
    if !isWest s && decide (s.bridge.ceremony = 2) && decide (payload.length = 1568) then
      let shared := schemeBytes 0x0103 3 .sharedSecret payload s.bridge.sharedSecret [] 32
      formPairKey { s with bridge.kemCt := payload } shared
    else s)

/-- AUTH: the peer's signature over the transcript (R435 step 4). -/
def execAuthFrame (head : FrameHead) (payload : List Byte) (s : State) : Host.Outcome State Fault Refusal :=
  .next (onMessage s head fun s =>
    if decide (3 ≤ s.bridge.ceremony ∧ s.bridge.ceremony ≤ 4) && s.bridge.linkKey.isSome then
      if decide (payload.length = 4627) && authHolds s payload then authenticated { s with bridge.authSeen := true }
      else failCeremony s .verifyFail 0
    else s)

/-- STATE: one mirrored item of the twin (R435 step 5, R436). -/
def execStateItem (head : FrameHead) (payload : List Byte) (s : State) : Host.Outcome State Fault Refusal :=
  .next (onMessage s head fun s =>
    let kind := fieldAt payload 0 2
    let install := fun (s : State) => installState s kind (fieldAt payload 2 6) (payload.drop 8)
    if s.bridge.rejoining || decide (s.bridge.ceremony < 4) then s
    else if isWest s then
      install { s with bridge.stateCount := s.bridge.stateCount + 1, bridge.stateHash := s.bridge.stateHash ++ payload }
    else if kind = 0x0E then install s
    else s)

/-- STATE_END: the West checks the count and the hash (R435 step 5). -/
def execStateEnd (head : FrameHead) (payload : List Byte) (s : State) : Host.Outcome State Fault Refusal :=
  .next (onMessage s head fun s =>
    if isWest s && decide (s.bridge.ceremony = 5) && !s.bridge.rejoining then
      if decide (fieldAt payload 0 8 = s.bridge.stateCount) && decide (slice payload 8 32 = sha3_256 s.bridge.stateHash) then recordPaired s
      else failCeremony s .internal 0
    else s)

/-- PREPARE (R439 step 2). -/
def execPrepare (head : FrameHead) (payload : List Byte) (s : State) : Host.Outcome State Fault Refusal :=
  .next (onMessage s head fun s => onPrepare s head payload)

/-- ACK (R439 step 3). -/
def execAck (head : FrameHead) (payload : List Byte) (s : State) : Host.Outcome State Fault Refusal :=
  .next (onMessage s head fun s =>
    settle { s with bridge.commits := KMap.adjust s.bridge.commits (fieldAt payload 0 8) fun c => { c with acked := true } })

/-- NAK (R439, R440). -/
def execNak (head : FrameHead) (payload : List Byte) (s : State) : Host.Outcome State Fault Refusal :=
  .next (onMessage s head fun s => settle (onNak s (fieldAt payload 0 8) (fieldAt payload 8 2)))

/-- COMMIT (R439 step 4). -/
def execFrameCommit (head : FrameHead) (payload : List Byte) (s : State) : Host.Outcome State Fault Refusal :=
  .next (onMessage s head fun s => onCommit s (fieldAt payload 0 8))

/-- ABANDON: the staged change is dropped (R441). -/
def execAbandon (head : FrameHead) (payload : List Byte) (s : State) : Host.Outcome State Fault Refusal :=
  .next (onMessage s head fun s =>
    { s with bridge.staged := s.bridge.staged.filter fun x => decide (x.tseq ≠ fieldAt payload 0 8) })

/-- COMMIT_TIMEOUT: no ACK in the window of 4,096 ticks (R441). -/
def execCommitTimeout (tseq : W64) (s : State) : Host.Outcome State Fault Refusal :=
  let t := tseq.toNat
  .next (match KMap.get? s.bridge.commits t with
    | some c =>
      if !c.acked && c.sentAt.any fun t0 => decide (t0 + 4096 ≤ now s) then
        settle (failCommit { s with bridge.commitTimeouts := min (s.bridge.commitTimeouts + 1) 0xFFFF } t .twinUnavailable)
      else s
    | none => s)

/-- HEARTBEAT: a timely one opens a new window; a late one, or one in SOLO by loss, starts rejoin (R442, R443). -/
def execHeartbeat (head : FrameHead) (payload : List Byte) (s : State) : Host.Outcome State Fault Refusal :=
  .next (onMessage s head fun s =>
    if !s.bridge.paired then s
    else
      let told := fieldAt payload 32 8
      let s := { s with bridge := { s.bridge with hbLast := now s, committed := s.bridge.committed.filter fun t => decide (told ≤ t) } }
      if s.bridge.solo then
        if s.bridge.soloCause = 1 && !s.bridge.rejoining then startRejoin s true none else s
      else if now s < s.bridge.hbDeadline then { s with bridge.hbDeadline := now s + 4096 }
      else startRejoin (enterSolo s 1) true none)

/-- HEARTBEAT_DEADLINE: the device enters SOLO by loss (R442). -/
def execHeartbeatDeadline (s : State) : Host.Outcome State Fault Refusal :=
  .next (if s.bridge.paired && !s.bridge.solo && decide (s.bridge.hbDeadline ≤ now s) then settle (enterSolo s 1) else s)

/-- TAMPER: the twin's notice is a soft event of source 15 (R382, R447). -/
def execTamperNotice (head : FrameHead) (payload : List Byte) (s : State) : Host.Outcome State Fault Refusal :=
  .next (onMessage s head fun s =>
    if s.bridge.paired then softEvent s 15 (BitVec.ofNat 32 (fieldAt payload 0 1)) (BitVec.ofNat 32 (fieldAt payload 1 1)) else s)

/-- SOLO: the twin's notice; a debug unlock there is a loss here (R360, R443). -/
def execSolo (head : FrameHead) (payload : List Byte) (s : State) : Host.Outcome State Fault Refusal :=
  .next (onMessage s head fun s =>
    if s.bridge.paired then settle (enterSolo s (if fieldAt payload 0 1 = 2 then 1 else 2)) else s)

/-- LINK_NAK: the frames from the named one on go again, each in a position of its own holder (R430). -/
def execLinkNak (head : FrameHead) (payload : List Byte) (s : State) : Host.Outcome State Fault Refusal :=
  .next (onMessage s head fun s =>
    let again := s.bridge.sent.filter fun f => decide (fieldAt payload 0 8 ≤ f.fseq)
    again.reverse.foldl (fun s f =>
      let q := KMap.getD s.bridge.queue f.holder []
      if q.contains f then s else { s with bridge.queue := KMap.put s.bridge.queue f.holder (f :: q) }) s)

/-- LINK_NONCE: the twin's nonce of this link up; one whose tag fails forces a retrain (R431). -/
def execLinkNonce (head : FrameHead) (payload : List Byte) (s : State) : Host.Outcome State Fault Refusal :=
  .next (if !bridgeListens s then s
    else if !head.intact then endCeremony (retrain { s with bridge.discarded := min (s.bridge.discarded + 1) 0xFFFFFFFF })
    else onMessage s head fun s => tryLinkKey { s with bridge.peerNonce := some (slice payload 0 32) })

/-- REJOIN_REQ: the twin starts a rejoin, or answers this device's own request (R446). (DEDUCED, log entry 83) -/
def execRejoinReq (head : FrameHead) (payload : List Byte) (s : State) : Host.Outcome State Fault Refusal :=
  .next (onMessage s head fun s =>
    if !s.bridge.paired || (s.bridge.solo && decide (s.bridge.soloCause = 3)) then s
    else
      let s := { s with bridge := { s.bridge with
        helloPeer := payload, peerNext := fieldAt payload 0 8, peerHead := slice payload 8 32 } }
      let s := if s.bridge.solo then s else enterSolo s 1
      if s.bridge.rejoining then rejoinMet s else startRejoin s true none)

/-- REPLAY: up to seven records of the twin (R446 step 3). -/
def execReplay (head : FrameHead) (payload : List Byte) (s : State) : Host.Outcome State Fault Refusal :=
  .next (onMessage s head fun s =>
    if s.bridge.rejoining then
      (List.range (min 7 (payload.length / 128))).foldl (fun s i => applyReplayed s (slice payload (128 * i) 128)) s
    else s)

/-- The in-doubt changes, decided by the twin's REJOIN_REQ (R446 step 4). -/
def decideDoubt (s : State) : State :=
  let req := s.bridge.helloPeer
  let listed := (List.range ((req.length - 48) / 8)).map fun i => fieldAt req (48 + 8 * i) 8
  let due := s.bridge.staged
  let s := { s with bridge.staged := [] }
  due.foldl (fun s x => if listed.contains x.tseq then applyStaged s x else s) s

/-- REPLAY_END: flags new since the divergence, the changes in doubt, and the TWIN REJOIN_DONE record (R382, R446). -/
def execReplayEnd (head : FrameHead) (payload : List Byte) (s : State) : Host.Outcome State Fault Refusal :=
  .next (onMessage s head fun s =>
    if !s.bridge.rejoining then s
    else
      let new := BitVec.ofNat 16 (fieldAt payload 40 2) &&& ~~~s.lodge.sticky
      let s := (List.range 16).foldl (fun s i => if new.getLsbD i then softEvent s 15 (BitVec.ofNat 32 i) 0 else s) s
      let s := decideDoubt { s with bridge.peerHead := slice payload 8 32 }
      let p := postTwin s 4
      settle { p.1 with bridge.peerReplayEnd := true, bridge.rejoinRecord := some p.2 })

end Sys2Proof.Machine
end

