-- ==== Sys2Proof/Machine/Draws.lean ====
section
/-! DEFINITION. The expander and its generate slots, draws, what is held for the Fountain and the Icehouse, and the
Icehouse's return to service (13_fountain.md R312 to R318; 14_icehouse.md R331, R344, R532; 06_lattice.md R158). -/
namespace Sys2Proof.Machine
open Sys2Proof

/-! ## What waits for the Fountain (R104, R158) -/

/-- A use of a secret key. -/
def secretUse : KeyUse → Bool
  | .secret _ | .slotOnly _ => true
  | _ => false

/-- A job that needs randomness: it draws, runs shared, or uses a secret key. (DEDUCED, log entry 51) -/
def needsRandom (s : State) (k : Nat) (j : Job) : Bool :=
  if family j = 0xF0 then adminNeedsFountain j
  else
    let f := factsD s k j
    decide (0 < f.draw.1) || f.shared || secretUse f.keyUse

/-! ## The expander (R312, R315) -/

/-- The personalisation string: device ID, boot count, zeros. -/
def personalisation (s : State) : List Byte :=
  leBytes 8 s.otp.deviceId.toNat ++ leBytes 4 s.lodge.bootCount.toNat ++ zeroBytes 36

/-- A waiting seed instantiates the expander, or reseeds it. -/
def takeSeed (s : State) : State :=
  let f := s.fountain
  match f.seed with
  | none => s
  | some seed =>
    let p := if f.instantiated then drbgUpdate f.drbgKey f.drbgV seed
      else drbgUpdate (zeroBytes 32) (zeroBytes 16) (xorBytes seed (personalisation s))
    { s with fountain := { f with
        seed := none, drbgKey := p.1, drbgV := p.2, instantiated := true, stopped := false, reseeds := f.reseeds + 1,
        slotNumber := 0, reseedTick := now s } }

/-- The Fountain becomes ready: the frame counter starts at 0 (R317). -/
def becomeReady (s : State) : State :=
  let f := s.fountain
  if !f.ready && f.instantiated && decide (4 ≤ healthyCount s) then
    let s := { s with fountain := { f with
        ready := true, readyReseeds := f.reseeds, startupExpired := false, frame := 0, frameSlot := 0, members := f.nextMembers } }
    if s.bridge.nonceDue && s.bridge.linkUp then postNonce s else s
  else s

/-- The holder of slot `n` of a frame (Table 13-1). -/
def slotHolder (f : Fountain) (n : Nat) : Option Nat :=
  if n = 4 then some 0
  else if n < 8 then some (4096 + n)
  else f.members[(248 * f.frame + n - 8) % f.members.length]?

/-- Dispatched jobs post their draws at the boundary, in dispatch order (R314). -/
def postDraws (s : State) : State :=
  let ks := jobsBy s (fun j => j.draws.any fun d => !d.posted) fun j => j.dispatchOrder
  ks.foldl (fun s k =>
    match KMap.get? s.jobs k with
    | none => s
    | some j =>
      let a := keyAllot k
      let posts := (j.draws.filter fun d => !d.posted).map fun d =>
        ({ job := some k, bytes := d.bytes, fresh := d.fresh, reseedsAt := s.fountain.reseeds } : Posted)
      let s := modJob s k fun x => { x with draws := x.draws.map fun d => { d with posted := true } }
      { s with fountain.queue := KMap.put s.fountain.queue a (KMap.getD s.fountain.queue a [] ++ posts) }) s

/-- The expander has stopped: no slot numbered 2^20 or more produces output (R315). -/
def judgeLimit (s : State) : State :=
  let f := s.fountain
  if !f.stopped && f.instantiated && decide (1048576 ≤ f.slotNumber) then
    logFountain { s with fountain.stopped := true } 5 0x0044 (leBytes 8 (now s - f.reseedTick))
  else s

/-- A draw must wait: for a reseed after its posting, or while the expander is stopped (R314, R316). -/
def drawWaits (f : Fountain) (d : Posted) : Bool := f.stopped || (d.fresh && decide (f.reseeds ≤ d.reseedsAt))

/-- A slot's 128 bytes go to the first draw of a holder. A draw that asked for a fresh reseed never carries SEED_AGED
(R158). -/
def serveDraw (s : State) (out : List Byte) (h : Nat) (d : Posted) (rest : List Posted) : State :=
  let f := s.fountain
  let n := min 128 d.bytes
  let aged := decide (4096 ≤ f.slotNumber) && !d.fresh
  let q := if d.bytes ≤ 128 then rest else { d with bytes := d.bytes - 128 } :: rest
  let s := { s with fountain := { f with queue := KMap.put f.queue h q } }
  match d.job with
  | some k =>
    let s := modJob s k fun j =>
      flagIf aged flagSeedAged { j with
        drawn := j.drawn ++ out.take n, drawReady := now s + 1, draws := if d.bytes ≤ 128 then j.draws.drop 1 else j.draws }
    if d.bytes ≤ 128 then settle s else s
  | none => s

/-- A slot of a mask generator delivers the seed it has asked for (R224). (DEDUCED, log entry 17) -/
def serveMask (s : State) (u : Nat) : State :=
  let x := unitAt s u
  if unitPresent s u && x.mask.requested && !x.mask.delivered then setUnit s u { x with mask := { x.mask with delivered := true } }
  else s

/-- What a slot does with its 128 bytes: they go to its holder, if that has something waiting that may be served, and to
nobody else (R313). -/
def giveSlot (s : State) (out : List Byte) : State :=
  let f := s.fountain
  let n := f.frameSlot
  if !f.ready then s
  else if n < 4 then serveMask s n
  else match slotHolder f n with
    | none => s
    | some h =>
      match KMap.getD f.queue h [] with
      | d :: rest => if drawWaits f d then s else serveDraw s out h d rest
      | [] => s

/-- Every slot of an expander that runs generates and updates, whether or not its bytes are used: what one holder draws
never shows in another's bytes (R6, R312). -/
def serveSlot (s : State) : State :=
  let f := s.fountain
  if !f.instantiated || f.stopped then s
  else
    let g := drbgGenerate f.drbgKey f.drbgV
    giveSlot { s with fountain := { f with drbgKey := g.2.1, drbgV := g.2.2 } } g.1

/-- The frame's next slot; a new frame takes the membership of the last epoch boundary (R313). -/
def nextSlot (s : State) : State :=
  let f := s.fountain
  let f := { f with slotNumber := if f.instantiated then f.slotNumber + 1 else f.slotNumber }
  if !f.ready then { s with fountain := f }
  else if f.frameSlot < 255 then { s with fountain := { f with frameSlot := f.frameSlot + 1 } }
  else if f.nextMembers = f.members then { s with fountain := { f with frameSlot := 0, frame := f.frame + 1 } }
  else { s with fountain := { f with frameSlot := 0, frame := 0, members := f.nextMembers } }

/-- One generate slot: the reseed, readiness, postings, and the slot's output. (DEDUCED, log entry 74) -/
def generateSlot (s : State) : State :=
  if !s.fountain.started || s.fountain.rawMode then s
  else nextSlot (serveSlot (judgeLimit (postDraws (becomeReady (takeSeed s)))))

/-! ## The Icehouse's service (R331, R334, R344, R532) -/

/-- A new key-encryption key at the first start after an erasure, once the Fountain is ready. -/
def freshKek (s : State) : State :=
  if s.lodge.kek.isSome then s
  else
    let p := freshBytes s 64
    { p.2 with lodge.kek := some p.1 }

/-- The Icehouse serves: roots and keys are derived, the key image is restored, and held jobs take checks 9 to 11 in the
order of their fetch. -/
def resumeIcehouse (s : State) : State :=
  let s := freshKek s
  let p := freshBytes s 32
  let q := freshBytes p.2 32
  let s := q.2
  let s := { s with ice := { s.ice with
      ready := true, clearing := false, root := rootKind s, opsRoot := deriveOpsRoot s, scramble := p.1, wrapKey := q.1 } }
  let s := restoreImage s
  (jobsBy s (fun j => decide (j.phase = .iceHeld)) fun j => j.order).foldl intake s

/-- The Icehouse may serve: the device is ready, the Fountain is ready, there is a root, nothing has been erased since the last
full reset. -/
def icehouseMay (s : State) : Bool :=
  !s.ice.ready && !s.ice.erased && s.fountain.ready && hasRoot s && s.boot.ready

/-! ## The rows -/

/-- GENERATE_SLOT (R312). -/
def execGenerateSlot (s : State) : Host.Outcome State Fault Refusal := .next (generateSlot s)

/-- A job's posted draw is one that waits with a limit (R316). -/
def drawLimited (s : State) (k : Nat) : Bool :=
  (KMap.getD s.fountain.queue (keyAllot k) []).any fun d => decide (d.job = some k) && drawWaits s.fountain d

/-- DRAW_TIMEOUT: 2 ms have passed from the posting (R316). -/
def execDrawTimeout (r : JobRef) (s : State) : Host.Outcome State Fault Refusal :=
  let k := refKey r
  .next (match KMap.get? s.jobs k with
    | some j =>
      if !drawLimited s k then s
      else if family j = 0xF0 then settle (adminFail (dropDraws (adminUndo s j) k) k .entropyFailed 0)
      else failNow s k .entropyFailed
    | none => s)

/-- STARTUP_EXPIRED: every job held for the Fountain fails (R318). -/
def execStartupExpired (s : State) : Host.Outcome State Fault Refusal :=
  .next (if s.fountain.started && !s.fountain.ready && !s.fountain.startupExpired then
      let held := (s.jobs.filter fun p => decide (p.2.phase = .ready) && needsRandom s p.1 p.2).map Prod.fst
      let s := held.foldl (fun s k => failNow s k .entropyFailed) { s with fountain.startupExpired := true }
      logFountain s 5 0x0045 (leBytes 1 (healthyMask s))
    else s)

/-- REFRESH_GENERATOR_RESEED: an unseeded active state takes the seed; else the standby state does, and it becomes active
when the count of the next 2^16 squeezes ends (R331). -/
def execRefreshGeneratorReseed (generator : Fin 4) (s : State) : Host.Outcome State Fault Refusal :=
  let i := generator.val
  let active := s.ice.refreshSeeded.getD i false
  let standby := s.ice.refreshStandby.getD i false
  .next (if !s.fountain.ready || s.fountain.stopped then s
    else if !active then { s with ice.refreshSeeded := s.ice.refreshSeeded.set i true }
    else { s with ice.refreshStandby := s.ice.refreshStandby.set i (!standby) })

/-- ICEHOUSE_HOLD_EXPIRED: the Icehouse has not begun to serve within 50 ms (R532). -/
def execIcehouseHoldExpired (r : JobRef) (s : State) : Host.Outcome State Fault Refusal :=
  .next (match KMap.get? s.jobs (refKey r) with
    | some j => if decide (j.phase = .iceHeld) && !s.ice.ready then failNow s (refKey r) .entropyFailed else s
    | none => s)

/-- ICEHOUSE_RESUME (R344). -/
def execIcehouseResume (s : State) : Host.Outcome State Fault Refusal :=
  .next (if icehouseMay s then resumeIcehouse s else s)

end Sys2Proof.Machine
end

