-- ==== Sys2Proof/Machine/Boot.lean ====
section
/-! DEFINITION. Reset and boot: the reset sources, the staged release, OTP sensing, the boot source, firmware and patch
verification, and the boot steps (20_reset_boot.md R449 to R463; 11_control_stores.md R267 to R272; 15_lifecycle_debug.md
R349; 16_gatehouse_lodge.md R379 and R380). -/
namespace Sys2Proof.Machine
open Sys2Proof

/-! ## Reset sources (R449) -/

/-- Power-on reset: PORST_N is low, with or without the rails; the count of failed boots is cleared (R453).
(DEDUCED, log entry 93) -/
def powerOnReset (s : State) (power : Bool) : State :=
  let s := fullReset s 1 false
  { s with
    boot := { s.boot with power := power, porst := true },
    lodge := { s.lodge with failures := 0 },
    gh := { s.gh with whileOff := false, batteryLost := false } }

/-- POWER_ON_RESET (R449). -/
def execPowerOnReset (power : Bool) (s : State) : Host.Outcome State Fault Refusal := .next (powerOnReset s power)

/-- PORST_N_RELEASE: the straps are sampled, and stage 1 is due (R451, R455). -/
def execPorstNRelease (straps : BitVec 5) (s : State) : Host.Outcome State Fault Refusal :=
  .next (if s.boot.power && s.boot.porst then
      { s with boot := { s.boot with porst := false, straps := straps.setWidth 6 } }
    else s)

/-- WATCHDOG_EXPIRY: armed from stage 2; it writes no dump (R449, R478). -/
def execWatchdogExpiry (s : State) : Host.Outcome State Fault Refusal :=
  .next (if 2 ≤ s.boot.stage then fullReset s 2 false else s)

/-- A write of RST_GLOBAL: its key starts a global reset, by way of the dump when ON_GLOBAL is set (R467, R478).
(DEDUCED, log entry 94) -/
def globalWrite (s : State) (value : W32) : State :=
  if value = 0x52535447 then
    if s.dump.onGlobal && s.dump.active.isNone then fatal s 0 0xFF 3 else fullReset s 3 false
  else s

/-- GLOBAL_RESET (R449). -/
def execGlobalReset (value : W32) (s : State) : Host.Outcome State Fault Refusal := .next (globalWrite s value)

/-- THERMAL_TRIP: a full reset that is held at stage 1 (R449, R452). -/
def execThermalTrip (s : State) : Host.Outcome State Fault Refusal :=
  .next (if gateRuns s then fullReset s 5 true else s)

/-- THERMAL_HOLD_END (R452). -/
def execThermalHoldEnd (s : State) : Host.Outcome State Fault Refusal :=
  .next (if s.boot.thermalHold then { s with boot := { s.boot with thermalHold := false, error := 0 } } else s)

/-! ## Staged release (R451 to R453) -/

/-- The power-up after an alarm on battery, or after the cell was lost: TZ_ERASE, and its event (R379, R380). The erasure
ends before the boot goes on, so that a new key-encryption key is drawn in this boot. -/
def reportWhileOff (s : State) : State :=
  match s.lodge.offAlarm with
  | none => s
  | some src =>
    let s := tzErase s
    let s := { s with
      ice.erased := false,
      gh := { s.gh with whileOff := true, batteryLost := s.gh.batteryLost || s.lodge.lost, quiesced := true },
      lodge := { s.lodge with offAlarm := none, lost := false } }
    let s := logEventAt s 5 0x0052 0xFFFF 20 (BitVec.ofNat 8 src) 0xFF (0xFF :: zeroBytes 8)
    linkRing s 0x0052 src

/-- Stage 1: the Gatehouse runs. -/
def stageOne (s : State) : State :=
  reportWhileOff { s with boot.stage := 1, gh.quiesced := decide (s.lodge.holds ≠ 0) }

/-- CLK_FIXUP: a test clock outside TEST is treated as a common clock (R455). -/
def fixStraps (straps : BitVec 6) (life : Nat) : BitVec 6 :=
  let fix := straps.extractLsb' 2 2 = 3 ∧ life ≠ 1
  if fix then straps ||| 0x20 else straps &&& 0x1F

/-- Stage 2: OTP is sensed, the boot count rises, boot ROM and the core PLL start (R349, R451, R453). -/
def stageTwo (s : State) (agree : Bool) : State :=
  let d := decodeLife s.otp.lcWords
  let life := if agree then d.1 else 3
  let s := { s with
    otp := { s.otp with fuseTamper := s.otp.tamperBits, fuseVariant := s.otp.variantBits },
    lc := { LifeCycle.blank with inForce := life, pending := d.1, illegal := d.2 || !agree, words := s.otp.lcWords },
    lodge := { s.lodge with bootCount := s.lodge.bootCount + 1 },
    boot := { s.boot with stage := 2, step := 1, pllTries := 0, pllLocked := false, straps := fixStraps s.boot.straps life } }
  if agree then s else consistencyEvent s

/-- Stage 5: after eight full resets in a row without step 7 the device goes no further (R453). -/
def stageFive (s : State) : State :=
  if 8 ≤ s.lodge.failures then
    { s with boot := { s.boot with stage := 5, halted := true, fatalN := true, error := 4 } }
  else { s with boot.stage := 5 }

/-- The next domain of stage 6, during boot step 4. -/
def stageSix (s : State) : State :=
  if s.boot.step ≠ 4 then s
  else if s.boot.domains + 1 < (stageSixClocks s).length then { s with boot.domains := s.boot.domains + 1 }
  else { s with boot := { s.boot with domains := (stageSixClocks s).length, stage := 6 } }

/-- The sequencer's next stage, or the next domain of stage 6. -/
def nextStage (s : State) (agree : Bool) : State :=
  if !s.boot.power || s.boot.porst || s.boot.halted then s
  else match s.boot.stage with
    | 0 => stageOne s
    | 1 => if s.boot.thermalHold then s else stageTwo s agree
    | 2 => { s with boot.stage := 3 }
    | 3 => if s.boot.pllLocked then { s with boot := { s.boot with stage := 4, bstReleased := true }, sched.tick := 0 } else s
    | 4 => stageFive s
    | 5 => stageSix s
    | 6 => { s with boot.stage := 7 }
    | 7 => if hasBridge s then { s with boot.stage := 8 } else s
    | _ => s

/-- Releases the next stage with its clock domains (R23, R451). -/
def releaseStage (s : State) (agree : Bool) : State :=
  let t := nextStage s agree
  if t.boot.stage = s.boot.stage ∧ t.boot.domains = s.boot.domains then t
  else { t with clocks := releaseClocks t.clocks (releasedNow t) }

/-- RESET_STAGE_RELEASE; `agree` tells whether the two readings of the life-cycle words agree (R349, R451). -/
def execResetStageRelease (agree : Bool) (s : State) : Host.Outcome State Fault Refusal := .next (releaseStage s agree)

/-- The core PLL is starting. -/
def pllStarting (s : State) : Bool :=
  decide (s.boot.stage = 2 ∨ s.boot.stage = 3) && !s.boot.pllLocked && !s.boot.halted

/-- CORE_PLL_LOCK (R451). -/
def execCorePllLock (s : State) : Host.Outcome State Fault Refusal :=
  .next (if pllStarting s then { s with boot.pllLocked := true } else s)

/-- PLL_LOCK_TIMEOUT: the PLL restarts; the third failure stops the release (R452). (DESIGN CHOICE, log entry 4) -/
def execPllLockTimeout (s : State) : Host.Outcome State Fault Refusal :=
  .next (if pllStarting s then
      if s.boot.pllTries = 2 then
        { s with boot := { s.boot with pllTries := 3, halted := true, fatalN := true, error := 1 } }
      else { s with boot.pllTries := s.boot.pllTries + 1 }
    else s)

/-! ## The boot source (R457, R458) -/

/-- STRAP_BOOT: 0 QSPI flash, 1 host download, 2 Vault boot area; 3 is treated as 0. -/
def bootSource (s : State) : Nat :=
  match (s.boot.straps.extractLsb' 0 2).toNat with
  | 1 => 1
  | 2 => 2
  | _ => 0

/-- Host download begins once Bus Master Enable and GO are set, at step 2 (R458). -/
def startDownload (s : State) : State :=
  if decide (bootSource s = 1) && s.boot.bootGo && (funcAt s 0).bme && !s.boot.downloaded && decide (s.boot.step ≤ 2) &&
      decide (5 ≤ s.boot.stage) then
    request { s with boot.downloaded := true } (.read 0 0 s.boot.bootAddr s.boot.bootLen.toNat)
  else s

/-- A write that sets RST_BOOT_CTRL.GO. -/
def bootGo (s : State) : State := startDownload { s with boot.bootGo := true }

/-- BOOT_GO (R458). -/
def execBootGo (s : State) : Host.Outcome State Fault Refusal := .next (bootGo s)

/-- A boot directory (Table 20-5). -/
def directoryOk (b : List Byte) : Bool :=
  decide (b.length = 48) && decide (slice b 0 6 = [0x53, 0x42, 0x44, 0x52, 1, 0]) && decide (fieldAt b 6 10 = 0)

/-- The directory lists entry `i`: 0 image A, 1 image B, 2 the patch container, 3 the certificate. -/
def listed (s : State) (i : Nat) : Bool := decide (fieldAt s.boot.directory (20 + 8 * i) 4 ≠ 0)

/-- Boot stops with FATAL_N and ERROR = FIRMWARE (R460). -/
def stopFirmware (s : State) : State :=
  { s with boot := { s.boot with step := 2, halted := true, fatalN := true, error := 2 } }

/-- Step 1 ends: the directory. -/
def endDirectory (s : State) (bytes : Option (List Byte)) : State :=
  match bytes with
  | some b =>
    if directoryOk b then startDownload { s with boot := { s.boot with step := 2, directory := b } }
    else stopFirmware { s with boot := { s.boot with imageA := 0x10, imageB := 0x10 } }
  | none => stopFirmware { s with boot := { s.boot with imageA := 0x10, imageB := 0x10 } }

/-! ## Vendor signatures (R270, R460) -/

/-- One of the vendor's public keys. -/
def vendorKey (which n : Nat) : List Byte := (List.range n).map (Config.vendorKeyByte which)

/-- SHA-384. -/
def sha384 (m : List Byte) : List Byte := sha2Whole 3 m

/-- An ECDSA P-384 signature of a message holds under a public key of 97 bytes. -/
def p384Holds (pub sig m : List Byte) : Bool :=
  (builtinDomain 2).any fun d =>
    decide (d.pointBad 48 pub = none) &&
      d.verifies (digestNumber 384 (sha384 m)) (pointOf 48 pub) (beNat (slice sig 0 48)) (beNat (slice sig 48 48))

/-- Both vendor signatures over a message: ML-DSA-87, then ECDSA P-384 over its SHA-384 digest. -/
def vendorSigned (m sigs : List Byte) : Bool :=
  dsaHolds 3 (vendorKey 0 2592) (slice sigs 0 4627) (messageRep false 0 [] m) && p384Holds (vendorKey 1 97) (slice sigs 4627 96) m

/-- The bit of this part in VARIANTS. -/
def variantBit (s : State) (b : List Byte) : Bool := bitOf (fieldAt b 6 2) (variant s)

/-! ## Firmware (R459, R460) -/

/-- FORMAT: MAGIC, VERSION, reserved bytes and lengths. -/
def firmwareFormat (b : List Byte) : Bool :=
  let n := fieldAt b 16 4
  decide (64 ≤ b.length) && decide (slice b 0 6 = [0x53, 0x46, 0x57, 0x49, 1, 0]) && decide (fieldAt b 6 2 < 8) &&
    decide (fieldAt b 8 4 ≤ 64) && decide (1 ≤ n ∧ n ≤ 2097152) && decide (fieldAt b 20 44 = 0) &&
    decide (b.length = 64 + n + 4723)

/-- The reason for which an image is rejected; 0 where it is accepted. -/
def firmwareReason (s : State) (b : List Byte) : BitVec 8 :=
  let n := b.length - 4723
  if !firmwareFormat b then 0x11
  else if !variantBit s b then 0x12
  else if !vendorSigned (b.take n) (b.drop n) then 0x13
  else if fieldAt b 8 4 < s.otp.rollback then 0x14
  else 0

/-- The reason of an image as read: where a read fails, or the directory lists none, the code of the reason is not given,
and a free value stands for it. (DESIGN CHOICE, log entry 95) -/
def imageReason (s : State) (bytes : Option (List Byte)) : BitVec 8 × State :=
  match bytes with
  | some b => (firmwareReason s b, s)
  | none => (((fresh s).1.setWidth 8), (fresh s).2)

/-- An image runs: its counters and its measurement; step 3 begins. -/
def runFirmware (s : State) (which : Nat) (b : List Byte) : State :=
  { s with boot := { s.boot with
      running := which, rollback := fieldAt b 8 4, minPatch := fieldAt b 12 4, firmware := sha3_256 b, step := 3 } }

/-- The image is accepted. -/
def accepted (s : State) (bytes : Option (List Byte)) : Bool :=
  bytes.any fun b => decide (firmwareReason s b = 0)

/-- Step 2 ends: image A, then image B. A host download must have been read. -/
def endFirmware (s : State) (a b : Option (List Byte)) : State :=
  if decide (bootSource s = 1) && !s.boot.downloaded then s
  else
    let a := if listed s 0 then a else none
    let b := if listed s 1 then b else none
    let p := imageReason s a
    let s := { p.2 with boot.imageA := p.1 }
    if accepted s a then runFirmware s 1 (a.getD [])
    else
      let q := imageReason s b
      let s := { q.2 with boot.imageB := q.1 }
      if accepted s b then runFirmware s 2 (b.getD []) else stopFirmware s

/-! ## The Trellis container (R267, R269 to R272) -/

/-- FORMAT of a container. -/
def containerFormat (b : List Byte) : Bool :=
  let m := fieldAt b 16 2
  let p := fieldAt b 18 2
  let n := fieldAt b 20 4
  decide (64 ≤ b.length) && decide (slice b 0 6 = [0x54, 0x52, 0x4C, 0x50, 1, 0]) && decide (fieldAt b 6 2 < 8) &&
    decide (m ≤ 64) && decide (p ≤ 2048) && decide (n = 8 * m + 4 * p + 16) && decide (fieldAt b 36 28 = 0) &&
    decide (b.length = 64 + n + 4723)

/-- The patch key: the ROM half and the OTP half together (R270). -/
def patchKey (s : State) : List Byte := xorBytes ((List.range 32).map Config.patchRomByte) s.otp.patchKey

/-- The payload, where the tag verifies. -/
def containerPayload (s : State) (b : List Byte) : Option (List Byte) :=
  gcmOpen (patchKey s) (slice b 24 12) (slice b 0 64) (slice b 64 (fieldAt b 20 4))

/-- The match registers of a payload. -/
def matchImages (b payload : List Byte) : List W64 :=
  (List.range (fieldAt b 16 2)).map fun i => BitVec.ofNat 64 (fieldAt payload (8 * i) 8)

/-- One valid match register in range (Table 11-4). -/
def matchOk (p : Nat) (w : W64) : Bool :=
  let m := matchReg w
  decide (m.target + m.length < p) && decide (bitsOf w.toNat 61 59 = 0) && decide (bitsOf w.toNat 15 11 = 0) &&
    (decide (m.space = .routine) || (decide (m.address < 0x4000) && decide (m.resume < 0x4000)))

/-- CONTENT: every valid entry in range, and no two for one address. -/
def contentOk (p : Nat) (ms : List W64) : Bool :=
  let valid := ms.filter fun w => (matchReg w).valid
  valid.all (matchOk p) && decide ((valid.map fun w => ((matchReg w).space, (matchReg w).address)).Nodup)

/-- The reason for which a container is rejected (Table 11-6); 0 on success. -/
def containerReason (s : State) (b : List Byte) : BitVec 8 :=
  let n := b.length - 4723
  if !containerFormat b then 0x02
  else if !variantBit s b then 0x03
  else if !vendorSigned (b.take n) (b.drop n) then 0x04
  else if s.boot.rollback < fieldAt b 12 4 ∨ fieldAt b 8 4 < s.boot.minPatch then 0x06
  else match containerPayload s b with
    | none => 0x05
    | some c => if contentOk (fieldAt b 18 2) (matchImages b c) then 0 else 0x07

/-- A rejected container leaves the engines unreleased until the next reset (R272). -/
def stopPatch (s : State) (reason : BitVec 8) : State :=
  { s with boot := { s.boot with halted := true, error := 3 }, stores.loadStatus := reason }

/-- A container takes effect: match registers, patch memory, level and measurement; both are locked. -/
def loadContainer (s : State) (b : List Byte) : State :=
  let c := (containerPayload s b).getD []
  let m := fieldAt b 16 2
  { s with
    boot.step := 4,
    stores := { s.stores with
      loadStatus := 0, loaded := true, patchLevel := BitVec.ofNat 32 (fieldAt b 8 4),
      match64 := matchImages b c ++ List.replicate (64 - m) 0,
      patchWords := ((List.range (fieldAt b 18 2)).map fun i => BitVec.ofNat 32 (fieldAt c (8 * m + 4 * i) 4)) ++
        List.replicate (2048 - fieldAt b 18 2) 0,
      trellisLocked := true, patchMeasurement := sha3_256 b } }

/-- Step 3 ends: the Trellis container (R271, R272). -/
def endContainer (s : State) (bytes : Option (List Byte)) : State :=
  if !listed s 2 then
    if s.boot.minPatch = 0 then
      { s with boot.step := 4, stores := { s.stores with match64 := List.replicate 64 0, trellisLocked := true } }
    else stopPatch s 0x01
  else match bytes with
    | none => stopPatch (fresh s).2 ((fresh s).1.setWidth 8)
    | some b => if containerReason s b = 0 then loadContainer s b else stopPatch s (containerReason s b)

/-! ## Steps 4 to 7 (R461, R462) -/

/-- The last stage of the release on this part. -/
def lastStage (s : State) : Nat := if hasBridge s then 8 else 7

/-- Step 4 ends: the Sundial plans its point, and the soft thresholds are active (R365, R489). -/
def endCalibration (s : State) (sites : Vector SiteDelay 24) (avs : AvsReport) : State :=
  if s.boot.stage ≠ lastStage s then s
  else
    let s := calibrateSundial s (siteList sites) avs
    { s with gh.calibrated := true, boot.step := 5 }

/-- The admin allotment as it comes to exist: bound to PF0, quota 64 (R80, R102). (DEDUCED, log entry 59) -/
def Allotment.admin : Allotment :=
  { isSealed := false, shareable := false, lendable := false, openOk := false, ceDefault := false, evictBlocks := 0,
    quota := 64, stageBlocks := 0, keyBlocks := 0, destroying := false, orphaned := false, quiesced := false,
    lease := Lease.none, pendingLease := none, shareFrom := 0, windows := [], func := some 0, page := 0, tagGroup := 0,
    reads := [], inflight := 0, lastFetch := 7, lastResume := 7, curves := 0x7F,
    maxLoad := 8, salt := zeroBytes 32, blobSerial := 0, channelKey := none, digestBlock := false, keptBlock := false,
    destroyRecords := [], twinKeys := none, usage := [] }

/-- DETAIL of EV_RESET_CAUSE: the cause, the running image and the patch level. -/
def causeDetail (s : State) : List Byte :=
  [s.boot.cause] ++ leBytes 1 s.boot.running ++ leBytes 4 s.stores.patchLevel.toNat

/-- The OTP thermometer follows the running image, except in END_OF_LIFE (R460). -/
def raiseThermometer (s : State) : State :=
  if s.lc.inForce = 3 then s else { s with otp.rollback := max s.otp.rollback s.boot.rollback }

/-- Step 7: READY, SYS_READY, and the event that names the cause of the reset. -/
def becomeBooted (s : State) : State :=
  let s := startFountain s
  let s := { s with
    boot := { s.boot with step := 7, error := 0, ready := true, sysReady := true, causeDue := true },
    lodge := { s.lodge with failures := 0 },
    allots := KMap.put s.allots 0 Allotment.admin }
  raiseThermometer (logEvent s 0 0x0001 0xFFFF 0xFF (causeDetail s))

/-- A hard tamper condition is present (R366). -/
def hardPresent (s : State) : Bool := s.gh.sources.any fun x => x.hardNow

/-- Step 5 ends: every memory is zero. A hard tamper condition holds the device before the end of the step. -/
def endZeroising (s : State) : State :=
  if hardPresent s then { s with boot.error := 6 } else becomeBooted s

/-- A boot step ends with what it found. -/
def endStep (s : State) (r : BootReport) : State :=
  if s.boot.halted || !s.boot.power || s.boot.porst then s
  else match s.boot.step, r with
    | 1, .directory b => endDirectory s b
    | 2, .firmware a b => endFirmware s a b
    | 3, .container b => endContainer s b
    | 4, .calibrated sites avs => endCalibration s sites avs
    | 5, .zeroised => endZeroising s
    | _, _ => s

/-- BOOT_STEP_COMPLETE (R461). (DESIGN CHOICE, log entry 15) -/
def execBootStepComplete (report : BootReport) (s : State) : Host.Outcome State Fault Refusal := .next (endStep s report)

end Sys2Proof.Machine
end

