-- ==== Sys2Proof/Machine/Link.lean ====
section
/-! DEFINITION. The host link: configuration space, function-level and link-level events, credit, failed reads and AER
(03_host_link.md R56 to R72; 20_reset_boot.md R450 and R454). -/
namespace Sys2Proof.Machine
open Sys2Proof

/-! ## Functions -/

/-- An event of the host interface: class LINK, unit 15. -/
def logLink (s : State) (code allot : W16) (detail : List Byte) : State := logEvent s 4 code allot 15 detail

/-- A function that exists now: PF0, or an enabled VF. -/
def funcExists (s : State) (f : Nat) : Bool := decide (f = 0) || (s.link.vfEnable && decide (f ≤ s.link.numVfs))

/-- The function's allotments resume when nothing quiesces it. -/
def resumeIfMaster (s : State) (f : Nat) : State := if masters s f then resumeFunc s f else s

/-! ## Bus Master Enable, D3hot, FLR, VFs (R67, R70) -/

/-- Bus Master Enable is cleared. -/
def bmeClear (s : State) (f : Nat) : State :=
  if (funcAt s f).bme then
    logLink (quiesceFunc (setFunc s f { funcAt s f with bme := false }) f) 0x0014 0xFFFF (leBytes 1 f)
  else s

/-- Bus Master Enable is set. -/
def bmeSet (s : State) (f : Nat) : State :=
  let s := resumeIfMaster (setFunc s f { funcAt s f with bme := true }) f
  if f = 0 then startDownload s else s

/-- Entry to D3hot acts as Bus Master Enable cleared. -/
def enterD3 (s : State) (f : Nat) : State :=
  if (funcAt s f).d3hot then s
  else logLink (quiesceFunc (setFunc s f { funcAt s f with d3hot := true }) f) 0x0015 0xFFFF (leBytes 1 f)

/-- Return to D0 keeps the configuration. -/
def leaveD3 (s : State) (f : Nat) : State :=
  if (funcAt s f).d3hot then resumeIfMaster (setFunc s f { funcAt s f with d3hot := false }) f else s

/-- FLR of a VF. -/
def flrOf (s : State) (f : Nat) : State :=
  if f = 0 then s
  else logLink (setFunc (quiesceFunc s f) f { Func.reset with mse := (funcAt s f).mse }) 0x0013 0xFFFF (leBytes 1 f)

/-- VF Enable is set with `n` VFs; it has no effect with another page size than 4 KiB (R59). -/
def vfsOn (s : State) (n : Nat) : State :=
  if s.link.vfEnable || decide (n = 0) || decide (s.link.pageSize ≠ 1) then s
  else
    let funcs := (List.range n).foldl (fun m i => KMap.put m (i + 1) Func.reset) s.link.funcs
    { s with link := { s.link with vfEnable := true, numVfs := n, funcs := funcs } }

/-- An allotment loses its function: quiesced, its queues destroyed, unbound. -/
def unbind (s : State) (a : Nat) : State :=
  modAllot (dropQueues (quiesceAllotment s a) a) a fun v =>
    { v with func := none, page := 0, tagGroup := 0, quiesced := false }

/-- The allotments bound to any VF. -/
def vfBound (s : State) : List Nat := (s.allots.filter fun p => p.2.func.any fun f => decide (1 ≤ f)).map Prod.fst

/-- VF Enable is cleared, or NumVFs changes: a write that changes NumVFs while VF Enable is set clears VF Enable as well, and
one while it is clear records no event. (DESIGN CHOICE, log entry 114) -/
def vfsOff (s : State) (n : Nat) : State :=
  if !s.link.vfEnable then { s with link.numVfs := n }
  else
    let s := (vfBound s).foldl unbind s
    let s := { s with link := { s.link with vfEnable := false, numVfs := n, funcs := s.link.funcs.filter fun p => decide (p.1 = 0) } }
    logLink s 0x0016 0xFFFF [0]

/-! ## Link reset (R71, R450, R506) -/

/-- What the queue registers and rings that name host addresses lose (R506). -/
def dropRings (s : State) : State :=
  { s with
    regs := { s.regs with admCtrl := s.regs.admCtrl - s.regs.admCtrl % 2, admEnabled := false, admDraining := false },
    events.enable := false, journal.jxEnable := false, dump.enable := false }

/-- The configuration of the link at its reset values. -/
def linkDown (s : State) (perst : Bool) : State :=
  { s with link := { Link.reset with perst := perst, out := s.link.out } }

/-- Allotment 0 loses its queues and stays. -/
def dropAdminQueues (s : State) : State :=
  modAllot (dropQueues (abortAtOnce s 0) 0) 0 fun v => { v with windows := KMap.drop v.windows 0, reads := [] }

/-- A link reset while the device is ready. -/
def resetLink (s : State) (perst : Bool) : State :=
  let s := (tenants s).foldl linkResetAllotment { s with clocks := holdClocks s.clocks fun n => decide (clockStage n = 5) }
  let s := (tenants s).foldl (fun s a => modAllot s a fun v => { v with func := none, page := 0, tagGroup := 0, reads := [] }) s
  let s := linkDown (dropRings (dropAdminQueues s)) perst
  let n := (s.allots.filter fun p => p.2.orphaned).length
  logLink s 0x0017 0xFFFF ([0] ++ leBytes 1 (min n 255))

/-- LINK_RESET: `perst` tells PE_PERST_N from the other three causes. Before the device is ready it only holds the PCIe
domains (R450). -/
def execLinkReset (perst : Bool) (s : State) : Host.Outcome State Fault Refusal :=
  .next (if s.boot.ready then resetLink s perst
    else { s with
      link := { s.link with perst := s.link.perst || perst, up := false, speed := 0, width := 0 },
      clocks := holdClocks s.clocks fun n => decide (clockStage n = 5) })

/-- LINK_RESET_END: the PCIe domains are released again (R450). -/
def execLinkResetEnd (s : State) : Host.Outcome State Fault Refusal :=
  .next { s with
    link.perst := false,
    clocks := releaseClocks s.clocks fun n => decide (clockStage n = 5) && decide (5 ≤ s.boot.stage) }

/-- LINK_TRAINING_END: the link is up at its trained speed and width (R454, R508). -/
def execLinkTrainingEnd (speed : BitVec 3) (width : BitVec 5) (s : State) : Host.Outcome State Fault Refusal :=
  if !trainedLink speed width then .refused .illFormed
  else .next (if decide (5 ≤ s.boot.stage) && !s.link.perst && !s.link.up then
      { s with link := { s.link with up := true, speed := speed.toNat, width := width.toNat } }
    else s)

/-! ## Configuration space (R58, R59, Tables 3-2 and 3-3) -/

/-- PF0's Device ID by variant. -/
def pfDeviceId (s : State) : Nat := [0x9620, 0x9618, 0x9612].getD (variant s) 0x9612

/-- A VF's Device ID by variant. -/
def vfDeviceId (s : State) : Nat := [0x9621, 0x9619, 0x9613].getD (variant s) 0x9613

/-- A BAR dword: what was written, above the size of the BAR, and the type bits. -/
def barWord (v : Func) (off : Nat) (size type : Nat) : Nat :=
  let w := (KMap.getD v.config off 0).toNat
  w / size * size + type

/-- The header of a capability structure: its ID and the place of the next. -/
def pciCapWord (id next : Nat) : Nat := id + 2 ^ 8 * next

/-- The header of an extended capability structure: its ID, its version and the place of the next. -/
def pciExtCapWord (id version next : Nat) : Nat := id + 2 ^ 16 * version + 2 ^ 20 * next

/-- The list of Table 3-3: a VF carries it without SR-IOV and Device Serial Number. The capability IDs and versions are
PCIe's. (PRESUMED, log entry 10) -/
def structureHeader (pf : Bool) (off : Nat) : Option Nat :=
  match off with
  | 0x040 => some (pciCapWord 0x01 0x50)
  | 0x050 => some (pciCapWord 0x11 0x60)
  | 0x060 => some (pciCapWord 0x10 0x00)
  | 0x100 => some (pciExtCapWord 0x0001 2 0x148)
  | 0x148 => some (pciExtCapWord 0x000E 1 (if pf then 0x150 else 0x1A0))
  | 0x150 => if pf then some (pciExtCapWord 0x0010 1 0x190) else none
  | 0x190 => if pf then some (pciExtCapWord 0x0003 1 0x1A0) else none
  | 0x1A0 => some (pciExtCapWord 0x0019 1 0x1C0)
  | 0x1C0 => some (pciExtCapWord 0x0025 1 0x1D0)
  | 0x1D0 => some (pciExtCapWord 0x0026 1 0x200)
  | 0x200 => some (pciExtCapWord 0x002A 1 0x230)
  | 0x230 => some (pciExtCapWord 0x0027 1 0x000)
  | _ => none

/-- What a register offers by Table 3-1 within the bits that decide it, over the bits that no table decides. -/
def offered (other mask value : Nat) : Nat := (other &&& (0xFFFFFFFF ^^^ mask)) ||| value

/-- The Power Management structure: D0 and D3hot, no D1, D2 or PME, No_Soft_Reset 1 (R56). -/
def powerWord (v : Func) (off other : Nat) : Nat :=
  if off = 0x40 then pciCapWord 0x01 0x50 + 2 ^ 16 * offered other 0xFE00 0 % 2 ^ 32
  else 8 + (if v.d3hot then 3 else 0)

/-- The PCI Express structure from 0x60: what Table 3-1 offers, and what the host has set. Every enable of an absent
feature reads 0. FLR is offered on VFs; ASPM is L1 only; the completion timeout has ranges A, B and C, and its setting 0
is the default of 32 ms (R65). (PRESUMED, log entry 10) -/
def expressWord (s : State) (v : Func) (pf : Bool) (off other : Nat) : Nat :=
  let kept := (KMap.getD v.config off 0).toNat
  match off with
  | 0x60 => pciCapWord 0x10 0x00 + 2 ^ 16 * 2
  | 0x64 => offered other 0x1000803F (2 + 2 ^ 5 + 2 ^ 15 + (if pf then 0 else 2 ^ 28))
  | 0x68 => kept + 16 * bit v.relaxed + 32 * (Nat.log2 v.mps - 7) + 4096 * (Nat.log2 v.mrrs - 7)
  | 0x6C => offered other 0xFFF 0x885
  | 0x70 => kept + 2 ^ 16 * (s.link.speed + 16 * s.link.width)
  | 0x84 => offered other 0x33BEF (7 + 2 ^ 16 + 2 ^ 17)
  | 0x88 => kept + 2 ^ 12 * bit v.tag10
  | 0x8C => offered other 0xFE 0x3E
  | _ => other

/-- The AER structure from 0x100 (R72): the statuses, the masks, the severities of Table 3-8, the header of the first
error. ECRC is offered for generation and check. (PRESUMED, log entry 10) -/
def aerWord (v : Func) (off : Nat) : Nat :=
  match off with
  | 0x104 => v.aerUncor.toNat
  | 0x10C => (KMap.getD v.config off severityReset).toNat
  | 0x110 => v.aerCor.toNat
  | 0x118 => v.aerFirst + 0xA0 + (KMap.getD v.config off 0).toNat
  | 0x11C => v.aerHeader.toNat / 2 ^ 96
  | 0x120 => v.aerHeader.toNat / 2 ^ 64 % 2 ^ 32
  | 0x124 => v.aerHeader.toNat / 2 ^ 32 % 2 ^ 32
  | 0x128 => v.aerHeader.toNat % 2 ^ 32
  | _ => (KMap.getD v.config off 0).toNat

/-- The SR-IOV structure of PF0 from 0x150 (R58, R59). -/
def sriovWord (s : State) (v : Func) (off other : Nat) : Nat :=
  let l := s.link
  let kept := (KMap.getD v.config off 0).toNat
  match off with
  | 0x154 => other
  | 0x158 => bit l.vfEnable + 8 * bit ((l.funcs.filter fun p => p.1 ≠ 0).any fun p => p.2.mse) + 16 * bit l.ari
  | 0x15C => 63 + 65536 * 63
  | 0x160 => l.numVfs
  | 0x164 => 1 + 65536
  | 0x168 => 65536 * vfDeviceId s
  | 0x16C => 1
  | 0x170 => l.pageSize.toNat
  | 0x174 => barWord v off 4096 4
  | 0x17C => barWord v off (2 ^ 20) 12
  | 0x184 => barWord v off 8192 4
  | 0x178 | 0x180 | 0x188 => kept
  | _ => 0

/-- The header and BARs of a function (Tables 3-2 and 3-4). A VF's BARs are those of the SR-IOV structure. -/
def identityWord (s : State) (v : Func) (pf : Bool) (off : Nat) : Nat :=
  let kept := (KMap.getD v.config off 0).toNat
  match off with
  | 0x00 => if pf then 0xC96B + 65536 * pfDeviceId s else 0xFFFFFFFF
  | 0x04 => 2 * bit v.mse + 4 * bit v.bme + 0x100000
  | 0x08 => 0x10 + 256 * 0x108000
  | 0x10 => if pf then barWord v off 65536 4 else 0
  | 0x18 => if pf then barWord v off 16777216 12 else 0
  | 0x20 => if pf then barWord v off 8192 4 else 0
  | 0x14 | 0x1C | 0x24 => if pf then kept else 0
  | 0x2C => s.otp.subsystem.toNat
  | 0x34 => 0x40
  | 0x3C => kept % 256
  | _ => 0

/-- The dword of a function's configuration space at an aligned offset: by the structures of Table 3-3. A dword of a
structure that no table decides reads as an unknown constant of the device, and one of no structure reads 0. -/
def configWord (s : State) (f off : Nat) : W32 :=
  let v := funcAt s f
  let pf := decide (f = 0)
  let other := (Config.configWord pf off).toNat
  BitVec.ofNat 32 <|
    if off < 0x40 then identityWord s v pf off
    else if off < 0x50 then (if off < 0x48 then powerWord v off other else 0)
    else if off < 0x60 then
      match off with
      | 0x50 => pciCapWord 0x11 0x60 + 65536 * (vectorCount s f - 1 + 16384 * bit v.functionMask + 32768 * bit v.msixEnable)
      | 0x54 => 4
      | 0x58 => 0x1004
      | _ => 0
    else if off < 0x9C then expressWord s v pf off other
    else if off < 0x100 then 0
    else match structureHeader pf off with
      | some w => w
      | none =>
        if off < 0x148 then aerWord v off
        else if off < 0x150 then 0
        else if off < 0x190 then (if pf then sriovWord s v off other else 0)
        else if off < 0x1A0 then
          (if !pf then 0 else if off = 0x194 then s.otp.deviceId.toNat % 2 ^ 32
            else if off = 0x198 then s.otp.deviceId.toNat / 2 ^ 32 else 0)
        else other

/-- A write merged with the dword that stands, by its byte enables. -/
def mergeBytes (old new : W32) (enables : BitVec 4) : W32 :=
  BitVec.ofNat 32 (leNat ((List.range 4).map fun i =>
    BitVec.ofNat 8 ((if enables.getLsbD i then new else old).toNat / 256 ^ i)))

/-- Bus Master Enable takes the value written. -/
def writeBme (s : State) (f : Nat) (b : Bool) : State :=
  if b == (funcAt s f).bme then s else if b then bmeSet s f else bmeClear s f

/-- The power state takes the value written. -/
def writePower (s : State) (f state : Nat) : State :=
  if state = 3 then enterD3 s f else if state = 0 then leaveD3 s f else s

/-- VF Enable takes the value written. -/
def writeVfEnable (s : State) (b : Bool) : State :=
  if b == s.link.vfEnable then s else if b then vfsOn s s.link.numVfs else vfsOff s s.link.numVfs

/-- Memory Space Enable of every VF. -/
def writeVfMse (s : State) (b : Bool) : State :=
  { s with link.funcs := KMap.mapAll s.link.funcs fun i v => if i = 0 then v else { v with mse := b } }

/-- The bits of a dword that only keep what is written (R56): the BARs, the enables of features that Table 3-1 offers, the
masks and severities of AER. Every other bit is read-only. (PRESUMED, log entry 10) -/
def keptBits (pf : Bool) (off : Nat) : W32 :=
  match off with
  | 0x10 | 0x14 | 0x18 | 0x1C | 0x20 | 0x24 => if pf then 0xFFFFFFFF else 0
  | 0x3C => 0xFF
  | 0x68 => 0x010F
  | 0x70 => 0x01CA
  | 0x88 => 0x1F
  | 0x108 | 0x10C => 0x007FF010
  | 0x114 => 0x0000F1C1
  | 0x118 => 0x140
  | 0x174 | 0x178 | 0x17C | 0x180 | 0x184 | 0x188 => if pf then 0xFFFFFFFF else 0
  | _ => 0

/-- The kept bits of a dword take what is written. -/
def keepBits (s : State) (f off : Nat) (w : W32) : State :=
  let m := keptBits (decide (f = 0)) off
  if m = 0 then s else setFunc s f { funcAt s f with config := KMap.put (funcAt s f).config off (w &&& m) }

/-- Fields of PF0's SR-IOV structure take what is written. -/
def writeSriov (s : State) (off n : Nat) : State :=
  match off with
  | 0x158 =>
    let s := writeVfEnable s (bitOf n 0)
    let s := writeVfMse s (bitOf n 3)
    { s with link.ari := bitOf n 4 }
  | 0x160 => if s.link.numVfs = n % 64 then s else vfsOff s (n % 64)
  | 0x170 => if s.link.vfEnable then s else { s with link.pageSize := BitVec.ofNat 32 n }
  | _ => s

/-- A configuration write of a whole dword: the fields that the device acts on, and the bits that keep what is written. A
status bit of AER is cleared by writing 1. -/
def configWrite (s : State) (f off : Nat) (w : W32) : State :=
  let s := keepBits s f off w
  let n := w.toNat
  let v := funcAt s f
  match off with
  | 0x04 =>
    let s := if f = 0 then setFunc s f { v with mse := bitOf n 1 } else s
    writeBme s f (bitOf n 2)
  | 0x44 => writePower s f (n % 4)
  | 0x50 => setFunc s f { v with functionMask := bitOf n 30, msixEnable := bitOf n 31 }
  | 0x68 =>
    let s := setFunc s f { v with relaxed := bitOf n 4, mps := 128 * 2 ^ min (bitsOf n 7 5) 2, mrrs := 128 * 2 ^ min (bitsOf n 14 12) 5 }
    if bitOf n 15 then flrOf s f else s
  | 0x88 => setFunc s f { v with tag10 := bitOf n 12 }
  | 0x104 => setFunc s f { v with aerUncor := v.aerUncor &&& ~~~w }
  | 0x110 => setFunc s f { v with aerCor := v.aerCor &&& ~~~w }
  | _ => if f = 0 then writeSriov s off n else s

/-- CONFIG_REQUEST: answered from the end of link training, never with a retry status (R58). -/
def execConfigRequest (func : Fin 64) (offset : BitVec 12) (enables : BitVec 4) (write : Option W32) (s : State) :
    Host.Outcome State Fault Refusal :=
  let f := func.val
  let off := offset.toNat / 4 * 4
  .next (if !s.link.up || !funcExists s f then s
    else match write with
      | none => reply s ((configWord s f off).setWidth 64)
      | some w => configWrite s f off (mergeBytes (configWord s f off) w enables))

/-! ## Rows of the functions -/

/-- FLR (R70); PF0 does not advertise it. -/
def execFlr (vf : Fin 64) (s : State) : Host.Outcome State Fault Refusal :=
  .next (if funcExists s vf.val then flrOf s vf.val else s)

/-- BME_CLEARED (R70). -/
def execBmeCleared (func : Fin 64) (s : State) : Host.Outcome State Fault Refusal :=
  .next (if funcExists s func.val then bmeClear s func.val else s)

/-- BME_SET (R70). -/
def execBmeSet (func : Fin 64) (s : State) : Host.Outcome State Fault Refusal :=
  .next (if funcExists s func.val then bmeSet s func.val else s)

/-- D3HOT_ENTRY (R70). -/
def execD3hotEntry (func : Fin 64) (s : State) : Host.Outcome State Fault Refusal :=
  .next (if funcExists s func.val then enterD3 s func.val else s)

/-- D0_RETURN (R70). -/
def execD0Return (func : Fin 64) (s : State) : Host.Outcome State Fault Refusal :=
  .next (if funcExists s func.val then leaveD3 s func.val else s)

/-- VF_ENABLE (R67). -/
def execVfEnable (numVfs : Fin 64) (s : State) : Host.Outcome State Fault Refusal := .next (vfsOn s numVfs.val)

/-- VF_DISABLE: VF Enable is cleared, or NumVFs changed (R70). -/
def execVfDisable (numVfs : Fin 64) (s : State) : Host.Outcome State Fault Refusal := .next (vfsOff s numVfs.val)

/-- A message that may go has its PBA bit no more. -/
def clearPba (s : State) (f v : Nat) : State := setFunc s f { funcAt s f with pba := (funcAt s f).pba.filter (· ≠ v) }

/-- MSIX_UNMASK: host software writes a vector's table entry, with its message address and data and its mask bit. Where the
mask ends, a held message goes at the next tick boundary (R59, R69). -/
def execMsixUnmask (func : Fin 64) (entry : VectorEntry) (s : State) : Host.Outcome State Fault Refusal :=
  let f := func.val
  let v := entry.vector.val
  let x := funcAt s f
  .next (if funcExists s f && decide (v < vectorCount s f) then
      setFunc s f { x with
        table := KMap.put x.table v (entry.addr, entry.data),
        masked := if entry.mask then insertNat v x.masked else x.masked.filter (· ≠ v) }
    else s)

/-- The messages that no condition holds any more are sent at a tick boundary (R69). -/
def sendHeld (s : State) : State :=
  s.link.funcs.foldl (fun s p =>
    (p.2.pba.filter (vectorOpen p.2)).foldl (fun s v => send (clearPba s p.1 v) (messageOf s p.1 v)) s) s

/-! ## Errors (R65, R66, R72) -/

/-- An error after which the link is retrained (Table 3-8). -/
def retrains (e : AerError) : Bool :=
  match e with
  | .malformedTlp | .flowControl | .receiverOverflow | .dataLinkProtocol => true
  | _ => false

/-- AER_ERROR: logged, and reported by the function it is tied to (R72); a fatal link error retrains the link. What else the
table states has rows of its own. (DEDUCED, log entry 30) -/
def execAerError (error : AerError) (func : Fin 64) (header : BitVec 128) (s : State) : Host.Outcome State Fault Refusal :=
  let f := if funcExists s func.val then func.val else 0
  let s := reportAer s f error header
  .next (if retrains error then { s with link.up := false } else s)

/-- The completion status byte of a failed read: PCIe's code of UR and of CA; poisoned data and a timeout have none that
the spec gives, and a free value stands for it. (PRESUMED, log entry 11) -/
def readStatus (s : State) (c : Option ReadFailure) : Byte × State :=
  match c with
  | some .unsupported => (1, s)
  | some .aborted => (4, s)
  | _ => ((fresh s).1.setWidth 8, (fresh s).2)

/-- A descriptor read has failed: nothing is written to the ring, and the scan stays on the entry (R65). -/
def descriptorFailed (s : State) (a q : Nat) (c : Option ReadFailure) (address : W64) : State :=
  match KMap.get? s.queues (queueKey a q) with
  | some v =>
    let p := readStatus s c
    let s := logLink p.2 0x0012 (BitVec.ofNat 16 a) (leBytes 1 q ++ [p.1] ++ leBytes 2 v.scan ++ leBytes 8 address.toNat)
    modQueue s a q fun v => { v with reading := false, stop := some .notOwned }
  | none => s

/-- A data read has failed: its job ends ST_INTERNAL with the address (R65). -/
def dataFailed (s : State) (k : Nat) (c : Option ReadFailure) (address : W64) : State :=
  let p := readStatus s c
  rejectJob (logLink p.2 0x0011 (BitVec.ofNat 16 (keyAllot k)) ([p.1] ++ leBytes 8 address.toNat)) k .internal address.toNat

/-- A host read fails, or its timeout expires: its tag is free. One that the isolation wrapper has answered ends without a
report (R63, R65). -/
def readFailed (s : State) (r : HostRead) (c : Option ReadFailure) (address : W64) : State :=
  let (a, p) := match r with
    | .descriptor a q => (a.toNat, fun (x : HostReq) => serves false q.toNat x && decide (x.addr = address))
    | .data j => (j.allot.toNat, fun (x : HostReq) => serves true (refKey j) x && decide (x.addr = address))
  match findRead s a p with
  | none => s
  | some x =>
    let s := endRead s a p
    if x.answered then settle s
    else match r with
      | .descriptor a q => issueReads (descriptorFailed s a.toNat q.toNat c address) a.toNat
      | .data j => issueReads (dataFailed s (refKey j) c address) a

/-- HOST_READ_ERROR (R65). -/
def execHostReadError (read : HostRead) (cause : ReadFailure) (address : W64) (s : State) : Host.Outcome State Fault Refusal :=
  .next (readFailed s read (some cause) address)

/-- READ_COMPLETION_TIMEOUT (R65). -/
def execReadCompletionTimeout (read : HostRead) (address : W64) (s : State) : Host.Outcome State Fault Refusal :=
  .next (readFailed s read none address)

/-- LATE_COMPLETION: the completion of a read that a wrapper answered is discarded, and its tag returns to the allotment
(R63). (DEDUCED, log entry 108) -/
def execLateCompletion (allot : BitVec 12) (s : State) : Host.Outcome State Fault Refusal :=
  let a := allot.toNat
  .next (match findRead s a fun r => r.answered with
    | none => s
    | some _ => issueReads (settle (endRead s a fun r => r.answered)) a)

/-- POSTED_CREDIT_STALL: no credit for 4,096 ticks (R66). The report waits with the other posted writes, and the event in
the FIFO. -/
def execPostedCreditStall (s : State) : Host.Outcome State Fault Refusal :=
  .next (if s.link.credit then
      let s := { s with link := { s.link with credit := false, stalledSince := now s - 4096 } }
      logLink (reportAer s 0 .uncorrectableInternal 0) 0x0018 0xFFFF (leBytes 8 4096)
    else s)

/-- POSTED_CREDIT_RETURN: every held write is placed, in order (R66). -/
def execPostedCreditReturn (s : State) : Host.Outcome State Fault Refusal :=
  .next { s with link := { s.link with credit := true, out := s.link.out ++ s.link.held, held := [] } }

end Sys2Proof.Machine
end

