-- ==== Sys2Proof/Machine/Rings.lean ====
section
/-! DEFINITION. Doorbells, scans, descriptor reads and queue moderation (03_host_link.md R61, R68; 04_rings.md R76 to R80;
02_bandstand.md R51 and R52). -/
namespace Sys2Proof.Machine
open Sys2Proof

/-! ## Doorbells (R61) -/

/-- The allotment that owns a doorbell page of a function. -/
def pageOwner (s : State) (f page : Nat) : Option Nat :=
  (s.allots.find? fun p => decide (p.2.func = some f) && decide ((if f = 0 then p.1 else p.2.page) = page)).map Prod.fst

/-- The queue that a byte of a BAR 2 rings: its allotment and number. -/
def rungBy (s : State) (f offset : Nat) : Option (Nat × Nat) :=
  let low := offset % 4096
  if low < 512 ∧ low % 64 < 4 ∧ offset / 4096 < (if f = 0 then 4096 else 256) then
    (pageOwner s f (offset / 4096)).map fun a => (a, low / 64)
  else none

/-- A doorbell lands: on a scan that is stopped NOT_OWNED or BUSY it is seen at the next boundary (R52, R78); a scan that
runs remembers it for its read (R79). (DEDUCED, log entry 27) -/
def ring (s : State) (p : Nat × Nat) : State :=
  modQueue s p.1 p.2 fun v =>
    if v.closing then v
    else match v.stop with
      | none => { v with bell := some (now s) }
      | some .limit => v
      | some _ => { v with rang := some (now s) }

/-- DOORBELL: a posted write to BAR 2, with the bytes that it covers (R61). -/
def execDoorbell (func : Fin 64) (covered : List (BitVec 24)) (s : State) : Host.Outcome State Fault Refusal :=
  let f := func.val
  .next (if s.boot.ready && funcExists s f && (funcAt s f).mse then
      (covered.filterMap fun o => rungBy s f o.toNat).foldl ring s
    else s)

/-! ## The scan (R78 to R80) -/

/-- The queue has 32 jobs in flight, or its allotment has its quota (R80). -/
def atLimit (v : Queue) (x : Allotment) : Bool := decide (32 ≤ v.inflight.length) || decide (x.quota ≤ x.inflight)

/-- The top of the scan loop: stopped with LIMIT or BUSY, or waiting for a fetch turn. (DEDUCED, log entry 31) -/
def beginRead (s : State) (a q : Nat) : State :=
  match queueAt s a q, KMap.get? s.allots a with
  | some v, some x =>
    let stop := if atLimit v x then some StopReason.limit
      else if v.inflight.contains v.scan || KMap.has s.jobs (jobKey a q v.scan) then some .busy else none
    modQueue s a q fun v => { v with stop := stop, awaiting := stop.isNone }
  | _, _ => s

/-- SCAN_RESTART: the boundary after a doorbell restarts a scan that is stopped NOT_OWNED or BUSY (R52, R78). -/
def execScanRestart (allot : BitVec 12) (queue : BitVec 3) (s : State) : Host.Outcome State Fault Refusal :=
  let a := allot.toNat
  let q := queue.toNat
  .next (match queueAt s a q with
    | some v =>
      if v.rang.any (fun t => decide (t < now s)) && mayFetch s a && !v.closing then
        let s := modQueue s a q fun v => { v with rang := none }
        if v.stop = some .notOwned ∨ v.stop = some .busy then beginRead s a q else s
      else s
    | none => s)

/-- The allotment's queues that are stopped with LIMIT and below their own, in the order in which they resume (R80). -/
def limited (s : State) (a : Nat) : List Nat :=
  let qs := (List.range 8).filter fun q =>
    (queueAt s a q).any fun v => decide (v.stop = some .limit) && decide (v.inflight.length < 32)
  let last := ((KMap.get? s.allots a).map fun v => v.lastResume).getD 7
  startAfter (fun q => decide (q ≤ last)) qs

/-- LIMIT_RESUME: a completion has brought the count below the limit (R80). -/
def execLimitResume (allot : BitVec 12) (queue : BitVec 3) (s : State) : Host.Outcome State Fault Refusal :=
  let a := allot.toNat
  let q := queue.toNat
  let room := (KMap.get? s.allots a).any fun v => decide (v.inflight < v.quota)
  .next (if room && decide ((limited s a).head? = some q) && mayFetch s a then
      beginRead (modAllot s a fun v => { v with lastResume := q }) a q
    else s)

/-! ## Fetch turns (R51, R63) -/

/-- DESCRIPTOR_READ_ISSUE: one fetch turn of an allotment serves the next of its queues (R51, R76). A scan that has come to
its limit while it waited for its turn stops (R80). -/
def execDescriptorReadIssue (allot : BitVec 12) (queue : BitVec 3) (s : State) : Host.Outcome State Fault Refusal :=
  let a := allot.toNat
  let q := queue.toNat
  .next (match queueAt s a q, freeTag s a false with
    | some v, some tag =>
      if mayFetch s a && decide ((awaitingQueues s a).head? = some q) && decide (KMap.getD s.sched.served a 0 < turnsOf s a) then
        if (KMap.get? s.allots a).any (atLimit v) then beginRead s a q
        else
          let t := now s
          let s := modQueue s a q fun v =>
            { v with awaiting := false, reading := true, bell := v.bell.filter fun b => decide (b = t) }
          let s := modAllot s a fun v => { v with lastFetch := q }
          let s := { s with
            sched.served := KMap.put s.sched.served a (KMap.getD s.sched.served a 0 + 1), regs.descReads := s.regs.descReads + 1 }
          issueRead s a false q tag (v.base + BitVec.ofNat 64 (64 * v.scan)) 64
      else s
    | _, _ => s)

/-- An entry that host software owns ends the scan, unless a doorbell landed in or after the tick in which its read was
issued: then it is read once more (R79). -/
def notOwned (s : State) (a q : Nat) (v : Queue) : State :=
  if v.bell.isSome then beginRead (modQueue s a q fun v => { v with bell := none }) a q
  else modQueue s a q fun v => { v with stop := some .notOwned }

/-- An entry that is the device's is accepted, and the scan goes on behind it. -/
def owned (s : State) (a q : Nat) (v : Queue) (e : Entry) : State :=
  let s := acceptEntry s (jobKey a q v.scan) e
  beginRead (modQueue s a q fun v => { v with scan := (v.scan + 1) % 2 ^ v.log2n }) a q

/-- ENTRY_ARRIVAL: the one read of an entry returns (R76, R78). -/
def execEntryArrival (allot : BitVec 12) (queue : BitVec 3) (bytes : Vector Byte 64) (s : State) :
    Host.Outcome State Fault Refusal :=
  let a := allot.toNat
  let q := queue.toNat
  .next (match queueAt s a q with
    | some v =>
      if v.reading then
        let s := modQueue s a q fun v => { v with reading := false }
        let s := endRead s a fun r => serves false q r && !r.answered
        let e := parseEntry bytes.toList
        issueReads (if e.own then owned s a q v e else notOwned s a q v) a
      else s
    | none => s)

/-! ## Moderation (R68) -/

/-- The completions that had become pending when tick `t` started. -/
def pendingAt (t : Nat) (v : Queue) : Nat := if v.pendTick = t then v.pendCount - v.pendNew else v.pendCount

/-- The queue's message is due at the start of tick `t`. -/
def noticeDue (t : Nat) (v : Queue) : Bool :=
  decide (1 ≤ pendingAt t v) && (decide (v.modCount ≤ pendingAt t v) || decide (v.pendSince + v.modTicks ≤ t))

/-- The message covers what was pending when the tick started; a completion of the tick itself opens the next window. -/
def spendNotice (t : Nat) (v : Queue) : Queue := { v with pendCount := v.pendCount - pendingAt t v, pendSince := t }

/-- The queues of the allotment that trigger the same vector share the message. -/
def spendNotices (s : State) (a v : Nat) : State :=
  { s with queues := KMap.mapAll s.queues fun k x =>
      if k / 8 = a && decide (x.vector = some v) && noticeDue (now s) x then spendNotice (now s) x else x }

/-- The message of one queue, if it is due. -/
def moderate (s : State) (a q : Nat) : State :=
  match queueAt s a q with
  | some x =>
    match x.vector with
    | some v => if noticeDue (now s) x then sendVector (spendNotices s a v) (funcOf s a) v else s
    | none => s
  | none => s

/-- The messages of the queues that are due at the start of a tick. -/
def moderateAll (s : State) : State := (s.queues.map Prod.fst).foldl (fun s k => moderate s (k / 8) (k % 8)) s

/-- MSIX_MODERATION (R68). -/
def execMsixModeration (allot : BitVec 12) (queue : BitVec 3) (s : State) : Host.Outcome State Fault Refusal :=
  .next (moderate s allot.toNat queue.toNat)

end Sys2Proof.Machine
end

