-- ==== Sys2Proof/Machine/Regs.lean ====
section
/-! DEFINITION. PF0 BAR 0 as host software reads it, and the status page of each VF: one word of 32 bits for each offset
(23_registers.md R503 to R518; Tables 13-3 to 13-5, 14-11, 14-12, 15-7, 15-8, 16-4, 16-5, 17-6, 17-7, 18-7, 19-7, 19-8,
20-10, 20-11, 21-7 and 22-6). -/
namespace Sys2Proof.Machine
open Sys2Proof

/-- The half of a 64-bit register that stands at a word offset (R504). -/
def halfOf (off v : Nat) : Nat := if off % 8 = 4 then v / 2 ^ 32 % 2 ^ 32 else v % 2 ^ 32

/-- Eight bytes of an image, as the register at an offset shows its half. -/
def imageHalf (off base : Nat) (b : List Byte) : Nat := fieldAt b (off - base) 4

/-! ## HIF (R507 to R509) -/

/-- Present scheduled units, a bit for each (Table 23-4). -/
def unitMask (s : State) : Nat := maskOf ((List.range 12).filter (unitPresent s))

/-- HIF_CAP0 (Table 23-5): AEAD and the Vault controller are present on every variant. -/
def capWord (s : State) : Nat :=
  unitMask s + 2 ^ 12 + bit (hasBridge s) * 2 ^ 13 + 2 ^ 14 + bit (hasOpenStore s) * 2 ^ 15 +
    (if variant s = 2 then 6 else 12) * 2 ^ 16

/-- HIF_STATUS (Table 23-3). -/
def hifStatus (s : State) : Nat :=
  bit s.boot.ready + 2 * bit s.boot.fatalN + 4 * bit (decide (s.lodge.holds ≠ 0)) + 8 * bit s.bridge.solo + 16 * bit s.fountain.ready +
    32 * bit s.vault.mounted + 2 ^ 8 * s.lc.inForce + 2 ^ 10 * s.sundial.inForce + 2 ^ 16 * s.link.width + 2 ^ 24 * s.link.speed

/-- Vectors of each VF (R67). -/
def vfVectors (s : State) : Nat := if s.link.vfEnable then vectorCount s 1 else 0

/-- The HIF block. -/
def hifWord (s : State) (off : Nat) : Nat :=
  match off with
  | 0x000 => hifStatus s
  | 0x004 => 0x10 + 2 ^ 8 + 2 ^ 16 * pfDeviceId s
  | 0x008 | 0x00C => halfOf off s.otp.deviceId.toNat
  | 0x010 => capWord s
  | 0x014 => 4096 + 2 ^ 16 * 16384
  | 0x018 => 8192 + 2 ^ 16 * 2048
  | 0x01C => 256 + 2 ^ 16 * 63 + 2 ^ 24 * tenantBlocks s
  | 0x020 => s.link.numVfs + 2 ^ 8 * bit s.link.vfEnable + 2 ^ 16 * vfVectors s
  | 0x028 => s.regs.inflightView
  | 0x030 | 0x034 => halfOf off s.regs.completions
  | 0x038 | 0x03C => halfOf off s.regs.descReads
  | _ => 0

/-! ## BST (R511, R512) -/

/-- The BST block; from 0x018 on the view taken at the last tick boundary. -/
def bstWord (s : State) (off : Nat) : Nat :=
  match off with
  | 0x000 | 0x004 => halfOf off (now s)
  | 0x008 => bit (decide (3584 ≤ offsetOf (now s)))
  | 0x00C => s.sched.rotation.length + 2 ^ 16 * s.sched.dedicated.length
  | 0x010 => (s.regs.bstSelNext.getD s.regs.bstSel).toNat
  | _ => if 0x018 ≤ off ∧ off < 0x050 then halfOf off ((s.regs.view.getD (off / 8 - 3) 0).toNat) else 0

/-! ## ADM (R513 to R515) -/

/-- A stop reason's code (Table 23-10). -/
def stopCode : Option StopReason → Nat
  | some .busy => 1
  | some .limit => 2
  | _ => 0

/-- ADM_STATUS. -/
def admStatus (s : State) : Nat :=
  bit s.regs.admEnabled + 2 * bit s.regs.admConfigError + 4 * bit s.regs.admDraining + 2 ^ 5 * s.regs.admReason +
    match KMap.get? s.queues 0 with
    | some q => 2 ^ 3 * stopCode q.stop + 2 ^ 8 * q.scan + 2 ^ 20 * q.inflight.length
    | none => 0

/-- The admin command that is held for the Fountain: every input has arrived and no command is before it (R104).
(DEDUCED, log entry 40) -/
def admHeld (s : State) : Option Nat :=
  let waiting := fun (j : Job) => decide (family j = 0xF0) && !isOpcode 0xF008 j
  if s.fountain.ready then none
  else (s.jobs.find? fun p => waiting p.2 && decide (p.2.phase = .ready) && adminNeedsFountain p.2 &&
    !s.jobs.any fun q => waiting q.2 && decide (q.2.order < p.2.order)).map Prod.fst

/-- ADM_CMD: the admin command executing, or the one held. -/
def admCmd (s : State) : Nat :=
  let word := fun (k held : Nat) =>
    ((KMap.get? s.jobs k).map fun j => j.entry.opcode.toNat).getD 0 + 2 ^ 16 * held + 2 ^ 20 * keyIndex k
  match s.regs.admJob, admHeld s with
  | some k, _ => word k 0
  | none, some k => word k 1
  | none, none => 0

/-- The ADM block. -/
def admWord (s : State) (off : Nat) : Nat :=
  match off with
  | 0x000 | 0x004 => halfOf off s.regs.admBase.toNat
  | 0x008 | 0x00C => halfOf off s.regs.admCtrl.toNat
  | 0x010 | 0x014 => halfOf off s.regs.admWinBase.toNat
  | 0x018 | 0x01C => halfOf off s.regs.admWinLimit.toNat
  | 0x020 => admStatus s
  | 0x028 => admCmd s
  | _ => 0

/-! ## EVT and DMP (R487) -/

/-- The ring is full (R471). -/
def eventRingFull (l : EventLog) : Bool := l.enable && decide (2 ^ l.ringLog ≤ (l.prod + 2 ^ 32 - l.cons) % 2 ^ 32)

/-- The EVT block. -/
def evtWord (s : State) (off : Nat) : Nat :=
  let l := s.events
  match off with
  | 0x000 | 0x004 => halfOf off l.base.toNat
  | 0x008 => l.size.toNat % 32
  | 0x00C => bit l.enable + 2 * bit l.notice + 2 ^ 8 * l.vector
  | 0x010 => l.prod
  | 0x014 => l.cons
  | 0x018 => l.modReg.toNat
  | 0x01C => bit l.ffcValid + 2 * bit (eventRingFull l) + 2 ^ 8 * l.fifo.length + 2 ^ 15 * bit l.configError
  | 0x040 | 0x044 => halfOf off l.dropped
  | _ =>
    if 0x020 ≤ off ∧ off < 0x040 then imageHalf off 0x020 l.ffc
    else if 0x080 ≤ off ∧ off < 0x0B8 then halfOf off (l.counts.getD (off / 8 - 16) 0) else 0

/-- The DMP block. -/
def dmpWord (s : State) (off : Nat) : Nat :=
  let d := s.dump
  match off with
  | 0x000 | 0x004 => halfOf off d.base.toNat
  | 0x008 => d.size.toNat
  | 0x00C => bit d.enable + 2 * bit d.onGlobal + 4 * bit d.vaultCopy
  | 0x010 => bit d.delivered
  | _ => 0

/-! ## RNG, ICE, LC (R322, R348, R363) -/

/-- Cells in quarantine, a bit for each. -/
def quarantineMask (s : State) : Nat := maskOf ((List.range 8).filter fun c => decide ((cellAt s c).stateCode = 2))

/-- RNG_STATUS (Table 13-4). -/
def rngStatus (s : State) : Nat :=
  let f := s.fountain
  bit f.ready + 2 * bit f.supplyFailed + 4 * bit f.rawMode + 8 * bit f.patternEn + 16 * bit f.startupExpired +
    2 ^ 8 * healthyCount s + 2 ^ 16 * quarantineMask s

/-- The registers of one cell (Tables 13-3 and 13-5). -/
def cellWord (c : Cell) (off : Nat) : Nat :=
  match off with
  | 0x00 => c.stateCode + 4 * c.passes + 16 * c.lastCause + 2 ^ 8 * min c.fails (2 ^ 24 - 1)
  | 0x08 => c.bias.toNat
  | 0x10 | 0x14 => halfOf off (leNat (c.corr.flatMap fun v => leBytes 2 v.toNat))
  | 0x18 | 0x1C => halfOf off c.windows
  | _ => 0

/-- The RNG block. -/
def rngWord (s : State) (off : Nat) : Nat :=
  let f := s.fountain
  match off with
  | 0x000 => rngStatus s
  | 0x008 => min f.slotNumber (2 ^ 32 - 1)
  | 0x00C => if f.ready then min (f.reseeds - f.readyReseeds) (2 ^ 32 - 1) else 0
  | 0x010 => f.biasLim.toNat
  | 0x014 => f.corrLim.toNat
  | 0x018 => bit f.patternEn
  | 0x01C => f.pattern.toNat
  | _ => if 0x100 ≤ off ∧ off < 0x200 then cellWord (cellAt s (off / 32 - 8)) (off % 32) else 0

/-- The ICE block. -/
def iceWord (s : State) (off : Nat) : Nat :=
  let i := s.ice
  match off with
  | 0x000 => bit i.ready + 2 * i.root + 8 * bit i.imageLoaded + 16 * bit i.imageLost + 32 * bit i.secret.isSome
  | 0x008 => (i.keys.filter fun p => p.2.live).length +
      2 ^ 16 * (i.stateSlots.filter fun p => decide (p.2.keyh ≠ 0)).length
  | 0x010 | 0x014 => halfOf off i.quoteCount
  | 0x018 | 0x01C => halfOf off i.enrolCount
  | _ => 0

/-- LC_STATUS (Table 15-8). -/
def lcStatus (s : State) : Nat :=
  let l := s.lc
  l.inForce + 4 * l.pending + 16 * bit l.debug + 32 * bit l.illegal + 64 * bit l.nonce.isSome

/-- LC_PERSO. -/
def lcPerso (s : State) : Nat :=
  let o := s.otp
  bit (decide (o.deviceId ≠ 0)) + 2 * bit (programmed o.patchKey) + 4 * bit (programmed o.seed0) + 8 * bit (programmed o.seed1) +
    16 * bit (programmed o.codeHash) + 32 * bit (programmed o.debugHash) + 64 * bit (programmed o.anchorHash) +
    128 * bit (decide (o.subsystem ≠ 0))

/-- The LC block. -/
def lcWord (s : State) (off : Nat) : Nat :=
  match off with
  | 0x000 => lcStatus s
  | 0x004 => s.otp.fuseTamper.toNat
  | 0x008 => s.otp.fuseVariant.toNat
  | 0x00C => lcPerso s
  | 0x010 => (s.lc.words.getD 0 0).toNat
  | 0x014 => (s.lc.words.getD 1 0).toNat
  | 0x018 => (s.lc.words.getD 2 0).toNat
  | 0x01C => (s.lc.words.getD 3 0).toNat
  | _ => 0

/-! ## GH (R383) -/

/-- GH_STATUS (Table 16-5). -/
def ghStatus (s : State) : Nat :=
  let g := s.gh
  bit g.calibrated + 2 * bit (decide (s.lodge.holds ≠ 0)) + 4 * bit g.eraseActive + 8 * bit g.whileOff + 16 * bit g.batteryLost +
    32 * bit g.locked + 64 * bit s.lodge.overflow + 2 ^ 8 * g.level

/-- A ring entry's 16 bytes (Table 16-3). -/
def ringBytes (e : RingEntry) : List Byte :=
  leBytes 8 e.time.toNat ++ [e.source, e.kind, e.level] ++ leBytes 1 (bit e.forwarded) ++ leBytes 2 (min e.count 0xFFFF) ++
    leBytes 2 e.mask.toNat

/-- A source's entry as applied (Table 5-6). -/
def sourceBytes (x : Source) : List Byte :=
  leBytes 4 x.thresh.toNat ++ leBytes 1 x.resp ++ leBytes 1 (bit x.enable) ++ leBytes 2 x.rateN ++ leBytes 4 x.rateWin ++
    zeroBytes 4

/-- The registers of one source; the readings of a source without a unit read 0. -/
def sourceWord (x : Source) (unit : Bool) (off : Nat) : Nat :=
  match off with
  | 0x10 => if unit then x.readingA.toNat else 0
  | 0x14 => if unit then x.readingB.toNat else 0
  | 0x18 => min x.count (2 ^ 32 - 1)
  | 0x1C => min ((x.window.map Prod.snd).getD 0) 0xFFFF + 2 ^ 16 * min x.disagreements 0xFFFF
  | _ => fieldAt (sourceBytes x) off 4

/-- The GH block. -/
def ghWord (s : State) (off : Nat) : Nat :=
  match off with
  | 0x000 => ghStatus s
  | 0x004 => s.gh.alert.toNat
  | 0x008 => s.lodge.sticky.toNat
  | 0x00C => s.lodge.holds.toNat
  | 0x010 | 0x014 => halfOf off s.lodge.secTime.toNat
  | 0x018 => bit s.lodge.timeValid + 2 * bit s.lodge.timeLost
  | _ =>
    if 0x020 ≤ off ∧ off < 0x034 then (s.otp.hard.getD (off / 4 - 8) 0).toNat
    else if 0x100 ≤ off ∧ off < 0x300 then sourceWord (sourceAt s (off / 32 - 8)) (hasUnit (off / 32 - 8)) (off % 32)
    else if 0x300 ≤ off ∧ off < 0x380 then
      ((s.lodge.ring[off / 16 - 0x30]?).map fun e => fieldAt (ringBytes e) (off % 16) 4).getD 0
    else 0

/-! ## VLT (R409, R427) -/

/-- VLT_STATUS (Table 17-7). -/
def vltStatus (s : State) : Nat :=
  let v := s.vault
  bit v.mounted + 2 * bit v.readOnly + 4 * bit v.foreign + 8 * bit v.unclean + 16 * bit v.recovering + 32 * bit v.full +
    64 * bit v.reserveInUse + 128 * bit v.formatting

/-- Good blocks of the Vault. -/
def goodBlocks (s : State) : Nat := s.vault.media.dies.foldl (fun n d => n + d.goodBlocks) 0

/-- Blocks outside the reserves that no valid page takes (R403). -/
def spaceBlocks (s : State) : Nat :=
  ((List.range s.vault.media.dies.length).map fun i =>
    match dieAt s i with
    | some d => d.goodBlocks - (packedBlocks s d + 2 + securityPart s i)
    | none => 0).foldl (· + ·) 0

/-- The good blocks' erase counts. -/
def wearCounts (s : State) : List Nat :=
  s.vault.media.dies.flatMap fun d => (d.blocks.filter Block.good).map fun b => b.erases

/-- Blocks in one state. -/
def blocksIn (s : State) (st : BlockState) : Nat :=
  s.vault.media.dies.foldl (fun n d => n + (d.blocks.filter fun b => decide (b.state = st)).length) 0

/-- A die's place in VLT_DIES. -/
def dieBit (d : Die) : Nat := 8 * d.channel + 2 * d.target + d.lun

/-- Of two channels with dies the registers show NA's mode and slots. (DESIGN CHOICE, log entry 133) -/
def shownTiming (x : Fitted) : ChannelTiming :=
  let nb := x.dies.all fun n => decide (8 ≤ n)
  x.timing.getD (bit nb) { mode := 0, slotUs := 0, eraseUs := 0 }

/-- What the twin's media hold of space, wear and sequence numbers no command tells: a free value. (DESIGN CHOICE, log
entry 133) -/
def foreignWord (s : State) (off : Nat) : Nat := ((Config.freeWord (s.freeCount + off)).setWidth 32).toNat

/-- The VLT block. -/
def vltWord (s : State) (off : Nat) : Nat :=
  let v := s.vault
  let j := s.journal
  let rep := fun f => (v.fitted.map fun x => f x.report).getD 0
  let dies := (v.fitted.map fun x => x.dies).getD []
  let timing := fun f => (v.fitted.map fun x => f (shownTiming x)).getD 0
  let own := fun (n : Nat) => if v.foreign then foreignWord s off else if v.fitted.isNone then 0 else n
  match off with
  | 0x000 => vltStatus s
  | 0x004 => v.reason.toNat
  | 0x008 => rep (fun r => r.pageBytes) + 2 ^ 16 * rep (fun r => r.spareBytes)
  | 0x00C => rep (fun r => r.pagesPerBlock) + 2 ^ 16 * dies.length + 2 ^ 24 * timing fun t => t.mode
  | 0x010 => own (spaceBlocks s)
  | 0x014 => own (goodBlocks s)
  | 0x018 => (timing fun t => t.slotUs) + 2 ^ 16 * timing fun t => t.eraseUs
  | 0x020 | 0x024 => own (halfOf off v.media.pseq)
  | 0x028 => min v.corrected (2 ^ 32 - 1)
  | 0x02C => min v.uncorrectable 0xFFFF + 2 ^ 16 * min v.highest 0xFF
  | 0x030 => own ((wearCounts s).foldl max 0)
  | 0x034 => own (match wearCounts s with
    | [] => 0
    | n :: l => l.foldl min n)
  | 0x038 => own (blocksIn s .factoryBad + 2 ^ 16 * blocksIn s .grownBad)
  | 0x03C => maskOf dies + 2 ^ 16 * (if v.foreign then 0 else maskOf ((v.media.dies.filter fun d => d.failed).map dieBit))
  | 0x040 | 0x044 => halfOf off j.jxBase.toNat
  | 0x048 => j.jxSize.toNat % 32
  | 0x04C => bit j.jxEnable + 2 * bit j.jxReplay + 4 * bit j.jxConfigError
  | 0x050 => j.jxProd
  | 0x054 => j.jxCons
  | 0x058 | 0x05C => halfOf off j.jxReplaySeq.toNat
  | 0x060 | 0x064 => halfOf off j.next
  | 0x068 | 0x06C => halfOf off j.hsnDurable
  | _ => 0

/-! ## FB and SDL (R448, R502) -/

/-- FB_STATUS (Table 19-8). -/
def fbStatus (s : State) : Nat :=
  let b := s.bridge
  bit (isWest s) + 2 * bit b.present + 4 * bit b.linkUp + 8 * bit b.paired + 16 * bit b.solo + 32 * b.soloCause +
    128 * bit b.rejoining + 256 * bit (b.staged.any fun x => x.inDoubt)

/-- The FB block; all zero without a Footbridge. -/
def fbWord (s : State) (off : Nat) : Nat :=
  let b := s.bridge
  let cap := fun (n v : Nat) => min v (2 ^ n - 1)
  if !hasBridge s then 0
  else match off with
  | 0x000 => fbStatus s
  | 0x004 => b.lanes + 2 ^ 16 * cap 16 b.retrains
  | 0x008 | 0x00C => halfOf off (if b.paired then b.twinId.toNat else 0)
  | 0x010 | 0x014 => halfOf off b.hbLast
  | 0x018 | 0x01C => halfOf off b.hbDeadline
  | 0x020 | 0x024 => halfOf off b.soloTick
  | 0x028 => cap 32 b.commitsDone
  | 0x02C => cap 16 b.commitTimeouts + 2 ^ 16 * cap 16 b.naks
  | 0x030 => cap 32 b.resent
  | 0x034 => cap 32 b.discarded
  | 0x038 => cap 32 b.replayed
  | 0x03C => cap 32 b.applied
  | _ => 0

/-- SDL_STATUS (Table 22-7). -/
def sdlStatus (s : State) : Nat :=
  let d := s.sundial
  2 * bit d.throttled + 4 * bit d.floor + 8 * bit d.avsFail + 16 * bit d.unavailable + 2 ^ 8 * d.inForce + 2 ^ 10 * d.planned

/-- The SDL block. -/
def sdlWord (s : State) (off : Nat) : Nat :=
  let d := s.sundial
  match off with
  | 0x000 => sdlStatus s
  | 0x004 => d.pendingThresh.getD d.thresh
  | 0x008 => d.setPoint
  | 0x00C => d.margin % 65536 + 2 ^ 16 * d.worstSite + 2 ^ 24 * d.validSites
  | 0x010 | 0x014 => halfOf off (d.window.getD 0)
  | 0x018 => d.avsRead.toNat
  | 0x020 => min d.voltageChanges 0xFFFF + 2 ^ 16 * min d.pointChanges 0xFFFF
  | _ =>
    if 0x100 ≤ off ∧ off < 0x1C0 ∧ off % 8 = 0 then
      let p := d.sites.getD (off / 8 - 32) (0, 0)
      p.1 + 2 ^ 16 * p.2
    else 0

/-! ## RST, BIST, TRL, DBG (R467, R487, R516, R517) -/

/-- The RST block; RST_BOOT_CTRL.GO reads the bit that was set, RST_GLOBAL reads 0. (DEDUCED, log entry 101) -/
def rstWord (s : State) (off : Nat) : Nat :=
  let b := s.boot
  match off with
  | 0x000 => b.stage + 16 * b.step + 2 ^ 8 * b.error.toNat
  | 0x004 => b.cause.toNat + 2 ^ 8 * min s.lodge.failures 255
  | 0x008 => b.straps.toNat
  | 0x00C => b.imageA.toNat + 2 ^ 8 * b.imageB.toNat + 2 ^ 16 * b.running
  | 0x010 | 0x014 => halfOf off b.bootAddr.toNat
  | 0x018 => b.bootLen.toNat
  | 0x01C => bit b.bootGo
  | 0x028 => s.lodge.bootCount.toNat
  | 0x030 => min b.blockResets (2 ^ 32 - 1)
  | _ => 0

/-- The BIST block. -/
def bistWord (s : State) (off : Nat) : Nat :=
  let b := s.bist
  if off = 0 then bit b.running + 2 ^ 8 * b.part + 2 ^ 16 * (b.mismatch % 2 ^ 15)
  else if 0x100 ≤ off ∧ off < 0x178 then halfOf off (b.signatures.getD (off / 8 - 32) 0).toNat else 0

/-- The TRL block. -/
def trlWord (s : State) (off : Nat) : Nat :=
  let t := s.stores
  match off with
  | 0x000 => t.loadStatus.toNat + 2 ^ 16 * bit t.loaded
  | 0x004 => t.patchLevel.toNat
  | 0x008 => (t.match64.filter fun m => m.getLsbD 63).length
  | 0x00C => s.boot.rollback + 2 ^ 8 * s.otp.rollback
  | 0x010 => s.boot.minPatch
  | 0x080 => bit t.image.isSome + 2 * bit t.pending.isSome + 2 ^ 8 * ((t.image.map fun i => i.routines.length).getD 0)
  | 0x084 => ((t.image.map OpenImage.id).getD 0).toNat
  | 0x088 => (t.pending.map Prod.fst).getD 0 % 2 ^ 32
  | 0x08C => (t.pending.map Prod.fst).getD 0 / 2 ^ 32
  | _ =>
    if 0x020 ≤ off ∧ off < 0x040 then imageHalf off 0x020 t.patchMeasurement
    else if 0x040 ≤ off ∧ off < 0x060 then imageHalf off 0x040 s.boot.firmware
    else if 0x060 ≤ off ∧ off < 0x080 then imageHalf off 0x060 ((t.image.map fun i => i.measurement).getD [])
    else 0

/-- JTAG is open: in BLANK and TEST, and in part in END_OF_LIFE (R358). (DEDUCED, log entry 98) -/
def jtagOpen (s : State) : Bool := decide (2 ≤ s.boot.stage) && decide (s.lc.inForce = 0 ∨ s.lc.inForce = 1)

/-- The debug access port may halt units: SCOPE bit 0, or JTAG open in BLANK or TEST (R517). -/
def dapOpen (s : State) : Bool := jtagOpen s || (s.lc.debug && s.lc.scope.getLsbD 0)

/-- Halted units, a bit for each. -/
def haltedMask (s : State) : Nat := maskOf ((List.range 12).filter fun u => (unitAt s u).halted)

/-- The DBG block. -/
def dbgWord (s : State) (off : Nat) : Nat :=
  let l := s.lc
  match off with
  | 0x000 => bit (jtagOpen s) + 2 * bit (l.debug && l.scope.getLsbD 0) + 4 * bit (l.debug && l.scope.getLsbD 1) +
      8 * bit (decide (2 ≤ s.boot.stage) && decide (l.inForce = 3)) + 16 * bit l.haltRefused + 2 ^ 8 * haltedMask s
  | 0x004 => l.halt.toNat
  | 0x008 => min l.tokens.toNat 255
  | _ => 0

/-! ## BAR 0 as a whole (R503, R510) -/

/-- The word of PF0 BAR 0 at an offset; an offset that no table names reads 0. -/
def regWord (s : State) (off : Nat) : W32 :=
  let o := off % 4096
  BitVec.ofNat 32 (match off / 4096 with
    | 0x0 => hifWord s o
    | 0x1 => bstWord s o
    | 0x2 => admWord s o
    | 0x3 => evtWord s o
    | 0x4 => dmpWord s o
    | 0x5 => rngWord s o
    | 0x6 => iceWord s o
    | 0x7 => lcWord s o
    | 0x8 => ghWord s o
    | 0x9 => vltWord s o
    | 0xA => fbWord s o
    | 0xB => sdlWord s o
    | 0xC => rstWord s o
    | 0xD => bistWord s o
    | 0xE => trlWord s o
    | 0xF => dbgWord s o
    | _ => 0)

/-- The word of a VF's status page (R510). -/
def pageWord (s : State) (vf off : Nat) : W32 :=
  BitVec.ofNat 32 (
    if off = 0 then hifStatus s
    else if off = 4 then vectorCount s vf + 2 ^ 16 * (boundTo s vf).length
    else if off = 8 then vf
    else if 0x10 ≤ off ∧ off < 0x410 then
      match pageOwner s vf (off / 4 - 4) with
      | some a => a + 2 ^ 31
      | none => 0
    else 0)

/-- A byte of BAR 2: doorbell pages read 0 and a read has no side effect (R61). -/
def bar2Read (_ : State) (_ _ : Nat) : Byte := 0

/-- A word of a function's BAR 4: the MSI-X table from 0x0000, sixteen bytes for each vector, and the PBA from 0x1000
(R59, R67, R69). -/
def bar4Read (s : State) (f off : Nat) : W32 :=
  let v := funcAt s f
  let n := off / 16
  if off < 16 * vectorCount s f then
    let e := KMap.getD v.table n (0, 0)
    match off / 4 % 4 with
    | 0 => e.1.setWidth 32
    | 1 => (e.1 >>> 32).setWidth 32
    | 2 => e.2
    | _ => BitVec.ofNat 32 (bit (v.masked.contains n))
  else if 0x1000 ≤ off ∧ off < 0x1020 then
    BitVec.ofNat 32 (maskOf ((v.pba.filter fun p => decide (p / 32 = (off - 0x1000) / 4)).map fun p => p % 32))
  else 0

/-- The 64 bits that a function's BAR 0 reads at an offset: a 32-bit read answers the low half. (DEDUCED, log entry 29) -/
def barRead (s : State) (f off : Nat) (wide : Bool) : W64 :=
  let w := fun o => if f = 0 then (regWord s o).toNat else (pageWord s f o).toNat
  BitVec.ofNat 64 (w off + if wide then 2 ^ 32 * w (off + 4) else 0)

/-! ## Output balls (Table 20-4, R374, R376, R387, R525) -/

/-- The output balls whose level the state decides. -/
structure Balls where
  /-- SYS_READY is high from boot step 7 until the next full reset -/
  sysReady : Bool
  /-- FATAL_N is asserted, that is low -/
  fatalN : Bool
  /-- ALERT_N is asserted while a bit of GH_ALERT is set -/
  alertN : Bool
  /-- TAMPER_OUT_N is driven low while a sticky flag is set and VDDIO_18 is present -/
  tamperOutN : Bool
  /-- SMB_ALERT_N is asserted while GH_ALERT is not zero or SDL_STATUS.THROTTLED is 1 -/
  smbAlertN : Bool
  /-- WP_N of each channel, high -/
  wpN : List Bool
deriving DecidableEq, Repr

/-- The balls at a moment; VDDIO_18 is present with the main power. -/
def balls (s : State) : Balls :=
  { sysReady := s.boot.sysReady, fatalN := s.boot.fatalN, alertN := decide (s.gh.alert ≠ 0),
    tamperOutN := decide (s.lodge.sticky ≠ 0) && s.boot.power,
    smbAlertN := decide (s.gh.alert ≠ 0) || s.sundial.throttled, wpN := s.vault.writeEnable }

end Sys2Proof.Machine
end

