-- ==== Sys2Proof/Machine/Setup.lean ====
section
/-! DEFINITION. Writes of set-up registers, and what reaches them from outside the host link: the event ring, the admin
queue's registers, the debug access port, OTP programming and the SMBus (21_errors_dump_bist.md R470 to R474;
23_registers.md R503 to R518; 15_lifecycle_debug.md R351, R361, R362; 24_balls_electrical.md R525). -/
namespace Sys2Proof.Machine
open Sys2Proof

/-! ## Access (R60, R503) -/

/-- BAR0_ACCESS_SIZE: an access of PF0's or a VF's BAR 0. One that is not naturally aligned of 4 or 8 bytes is recorded,
reads 0 and writes nothing; an aligned read answers the register (R60, R503, R510). A function whose Memory Space Enable is
clear answers a read with Unsupported Request and takes no write (R72, Table 3-8). (DEDUCED, log entry 29) -/
def execBar0AccessSize (func : Fin 64) (offset : W16) (enables : BitVec 8) (write : Bool) (s : State) :
    Host.Outcome State Fault Refusal :=
  let f := func.val
  .next (if !funcExists s f then s
    else if !(funcAt s f).mse then if write then s else answerUnsupported s f
    else match alignedAccess offset.toNat enables with
    | some n => if write then s else reply s (barRead s f offset.toNat (decide (n = 8)))
    | none =>
      let s := logLink s 0x0010 0xFFFF (leBytes 4 offset.toNat ++ [enables])
      if write then s else reply s 0)

/-! ## The event ring (R470 to R474) -/

/-- ENABLE is set: the geometry is latched and checked (R470). (DEDUCED, log entry 41) -/
def eventEnable (s : State) : State :=
  let l := s.events
  if l.enable then s
  else
    let n := l.size.toNat % 32
    if n < 6 ∨ 16 < n then { s with events.configError := true }
    else
      { s with events := { l with
          enable := true, configError := false, ring := l.base, ringLog := n, prod := 0, cons := 0 } }

/-- The message of a vector of a function. -/
def isMessage (f v : Nat) (o : Outbound) : Bool :=
  match o with
  | .msix g w _ _ => decide (g = f) && decide (w = v)
  | _ => false

/-- NOTICE is cleared: nothing is pending, and a message not yet sent is withdrawn with its PBA bit (R472). -/
def noticeClear (s : State) : State :=
  if s.events.notice then
    let v := s.events.vector
    let s := { s with
      events := { s.events with notice := false, pendCount := 0, pendSince := 0 },
      link.held := s.link.held.filter fun o => !isMessage 0 v o }
    setFunc s 0 { funcAt s 0 with pba := (funcAt s 0).pba.filter (· ≠ v) }
  else s

/-- NOTICE is set: records count from the next one written (R472). -/
def noticeSet (s : State) : State :=
  if s.events.notice then s
  else { s with events := { s.events with notice := true, pendCount := 0, pendSince := 0 } }

/-- The event log's vector as a write names it: one that serves a queue of PF0 is not taken (R67, R472). (DESIGN CHOICE,
log entry 113) -/
def eventVector (s : State) (v : Nat) : Nat :=
  if s.queues.any fun p => decide (funcOf s (p.1 / 8) = 0) && decide (p.2.vector = some v) then s.events.vector else v

/-- A write of EVT_CTRL. -/
def eventCtrl (s : State) (v : W32) : State :=
  let s := if v.getLsbD 1 then s else noticeClear s
  let s := { s with events.vector := eventVector s (bitsOf v.toNat 13 8) }
  let s := if v.getLsbD 1 then noticeSet s else s
  if v.getLsbD 0 then eventEnable s else { s with events.enable := false }

/-- EVT_ENABLE: a write of EVT_CTRL with ENABLE set. -/
def execEvtEnable (value : W32) (s : State) : Host.Outcome State Fault Refusal :=
  .next (if s.boot.ready then eventCtrl s (value ||| 1) else s)

/-- EVT_NOTICE_CLEAR. -/
def execEvtNoticeClear (s : State) : Host.Outcome State Fault Refusal :=
  .next (if s.boot.ready then noticeClear s else s)

/-- EVT_NOTICE_SET. -/
def execEvtNoticeSet (s : State) : Host.Outcome State Fault Refusal :=
  .next (if s.boot.ready then noticeSet s else s)

/-- FFC_VALID_CLEAR: first-failure capture waits for the next event (R474). -/
def execFfcValidClear (s : State) : Host.Outcome State Fault Refusal :=
  .next (if s.boot.ready then { s with events.ffcValid := false } else s)

/-- The record with a UNIT and CODE below another's (R471). -/
def earlier (a b : Event) : Bool :=
  decide (a.unit.toNat < b.unit.toNat) || (decide (a.unit = b.unit) && decide (a.code.toNat < b.code.toNat))

/-- The record to write next: of those whose first events share the oldest tick, the one of the lowest UNIT and CODE;
and the records that stay. (DEDUCED, log entry 43) -/
def nextRecord : List Event → Option (Event × List Event)
  | [] => none
  | e :: l =>
    let same := (e :: l).takeWhile fun x => decide (x.tick = e.tick)
    let best := same.foldl (fun b x => if earlier x b then x else b) e
    some (best, (e :: l).erase best)

/-- A record can be written in this tick (R471); without posted credit it stays in the FIFO (R66). -/
def mayWriteRecord (s : State) : Bool :=
  s.events.enable && masters s 0 && s.link.credit && !eventRingFull s.events && decide (s.events.lastWrite ≠ some (now s))

/-- EVENT_RECORD_WRITE: the oldest record that an earlier tick entered goes to the ring: bytes 1 to 31, then byte 0
(R470 to R473). -/
def execEventRecordWrite (s : State) : Host.Outcome State Fault Refusal :=
  .next (match nextRecord s.events.fifo with
    | some (e, rest) =>
      if mayWriteRecord s && decide (e.tick < now s) then
        let l := s.events
        let n := 2 ^ l.ringLog
        let b := eventBytes e (decide (l.prod / n % 2 = 0)) l.drops
        let addr := l.ring + BitVec.ofNat 64 (32 * (l.prod % n))
        let s := send (send s (.write 0 (addr + 1) (b.drop 1) false)) (.write 0 addr (b.take 1) false)
        let s := { s with events := { l with
          fifo := rest, drops := 0, prod := (l.prod + 1) % 2 ^ 32, lastWrite := some (now s),
          history := (l.history ++ [b]).drop (l.history.length - 1023) } }
        if l.notice then
          { s with events.pendCount := l.pendCount + 1, events.pendSince := if l.pendCount = 0 then now s else l.pendSince }
        else s
      else s
    | none => s)

/-- The event log's message is due at the start of a tick (R68, R472). -/
def eventNotice (s : State) : State :=
  let l := s.events
  let due := l.notice && decide (1 ≤ l.pendCount) && decide (l.pendSince < now s) &&
    (decide (bitsOf l.modReg.toNat 7 0 + 1 ≤ l.pendCount) || decide (l.pendSince + bitsOf l.modReg.toNat 31 16 ≤ now s))
  if due then sendVector { s with events := { l with pendCount := 0, pendSince := 0 } } 0 l.vector else s

/-! ## The admin queue's registers (R513 to R515) -/

/-- The defined bits of ADM_RING_CTRL but ENABLE. -/
def admMask : W64 := 0x0000FFFFFF3F01F0

/-- The first failing check of an enabling write (R514). -/
def admFailure (s : State) (v : W64) : Option Nat :=
  let log := bitsOf v.toNat 7 4
  let lo := s.regs.admWinBase.toNat
  let hi := s.regs.admWinLimit.toNat
  let base := s.regs.admBase.toNat
  if log < 4 ∨ 12 < log then some 1
  else if hi ≤ lo then some 5
  else if base < lo ∨ hi < base + 64 * 2 ^ log then some 3
  else if bitsOf v.toNat 21 16 = s.events.vector then some 4
  else none

/-- Queue 0 of allotment 0 enters service. -/
def admStart (s : State) (v : W64) : State :=
  let vec := if v.getLsbD 8 then some (bitsOf v.toNat 21 16) else none
  let q := newQueue s.regs.admBase (bitsOf v.toNat 7 4) vec (bitsOf v.toNat 31 24 + 1) (bitsOf v.toNat 47 32)
  let w : Window := { base := s.regs.admWinBase, limit := s.regs.admWinLimit, perm := 3 }
  let s := modAllot { s with queues := KMap.put s.queues 0 q } 0 fun a => { a with windows := KMap.put a.windows 0 w }
  { s with regs := { s.regs with
      admCtrl := (v &&& admMask) ||| 1, admEnabled := true, admConfigError := false, admReason := 0 } }

/-- A write that sets ENABLE (R514); while ENABLE is 1 it is ignored. (DEDUCED, log entry 41) -/
def admEnable (s : State) (v : W64) : State :=
  if s.regs.admCtrl.getLsbD 0 then s
  else match admFailure s v with
    | some r => { s with regs := { s.regs with admCtrl := v &&& admMask, admConfigError := true, admReason := r } }
    | none => admStart s v

/-- A fetched command that is not yet dispatched. -/
def undispatched (j : Job) : Bool :=
  match j.phase with
  | .tables | .unplaced | .reading | .iceHeld | .ready => true
  | _ => false

/-- A write that clears ENABLE: queue 0 drains (R515). (DEDUCED, log entry 42) -/
def admDrain (s : State) : State :=
  if s.regs.admEnabled && !s.regs.admDraining then
    let s := modQueue { s with regs.admDraining := true } 0 0 fun q => { q with closing := true }
    let ks := (jobsOfQueue s 0 0).filter fun k => (KMap.get? s.jobs k).any undispatched
    dropDescriptorRead (abortJobs false s ks) 0 0
  else s

/-- A write of ADM_RING_CTRL. -/
def admCtrlWrite (s : State) (v : W64) : State :=
  if s.regs.admCtrl.getLsbD 0 then if v.getLsbD 0 then s else admDrain s
  else if v.getLsbD 0 then admEnable s v
  else { s with regs.admCtrl := v &&& admMask }

/-- ADM_RING_ENABLE. -/
def execAdmRingEnable (value : W64) (s : State) : Host.Outcome State Fault Refusal :=
  .next (if s.boot.ready then admEnable s value else s)

/-- ADM_RING_DISABLE. -/
def execAdmRingDisable (s : State) : Host.Outcome State Fault Refusal :=
  .next (if s.boot.ready then admDrain s else s)

/-- ADM_DRAIN_END: no command of queue 0 is left. -/
def execAdmDrainEnd (s : State) : Host.Outcome State Fault Refusal :=
  .next (if s.regs.admDraining && decide (jobsOfQueue s 0 0 = []) then
      { s with
        queues := KMap.drop s.queues 0,
        regs := { s.regs with admCtrl := s.regs.admCtrl &&& admMask, admEnabled := false, admDraining := false } }
    else s)

/-! ## BST_SEL and DBG_HALT (R512, R518) -/

/-- A write of BST_SEL: the view changes at the next boundary. -/
def selWrite (s : State) (v : W32) : State := { s with regs.bstSelNext := some (v &&& 0xFFFF) }

/-- BST_SEL_WRITE. -/
def execBstSelWrite (value : W32) (s : State) : Host.Outcome State Fault Refusal :=
  .next (if s.boot.ready then selWrite s value else s)

/-- DBG_HALT: a write through the debug access port (R517, R518). -/
def execDbgHalt (value : W32) (s : State) : Host.Outcome State Fault Refusal :=
  .next (if !dapOpen s then s
    else if tenantsActive s then { s with lc.haltRefused := true }
    else tapReleased { s with lc := { s.lc with haltRefused := false, halt := value.setWidth 12 } })

/-! ## Register writes (R503 to R505) -/

/-- The 64-bit registers that take writes. -/
def wideRegister (off : Nat) : Bool :=
  [0x2000, 0x2008, 0x2010, 0x2018, 0x3000, 0x4000, 0x9040, 0x9058, 0xC010].contains off

/-- An address register whose low twelve bits read 0. -/
def pageAligned (v : W64) : W64 := BitVec.ofNat 64 (v.toNat / 4096 * 4096)

/-- Writes a 64-bit register. -/
def writeWide (s : State) (off : Nat) (v : W64) : State :=
  let open' := !s.regs.admCtrl.getLsbD 0
  match off with
  | 0x2000 => if open' then { s with regs.admBase := pageAligned v } else s
  | 0x2008 => admCtrlWrite s v
  | 0x2010 => if open' then { s with regs.admWinBase := pageAligned v } else s
  | 0x2018 => if open' then { s with regs.admWinLimit := pageAligned v } else s
  | 0x3000 => if s.events.enable then s else { s with events.base := pageAligned v }
  | 0x4000 => { s with dump.base := v }
  | 0x9040 => if s.journal.jxEnable then s else { s with journal.jxBase := pageAligned v }
  | 0x9058 => { s with journal.jxReplaySeq := v }
  | 0xC010 => { s with boot.bootAddr := v }
  | _ => s

/-- A write of VLT_JX_CTRL: ENABLE, and REPLAY, which only sets. -/
def jxCtrlWrite (s : State) (v : W32) : State :=
  let s := if v.getLsbD 0 then jxEnable s else { s with journal.jxEnable := false }
  if v.getLsbD 1 then startReplay s else s

/-- Writes a 32-bit register; a read-only one, and an offset that no table names, ignores it. -/
def writeWord (s : State) (off : Nat) (v : W32) : State :=
  match off with
  | 0x1010 => selWrite s v
  | 0x3008 => if s.events.enable then s else { s with events.size := v &&& 0x1F }
  | 0x300C => eventCtrl s v
  | 0x3014 => { s with events.cons := v.toNat }
  | 0x3018 => { s with events.modReg := v &&& 0xFFFF00FF }
  | 0x301C => if v.getLsbD 0 then { s with events.ffcValid := false } else s
  | 0x4008 => { s with dump.size := v }
  | 0x400C => { s with dump := { s.dump with enable := v.getLsbD 0, onGlobal := v.getLsbD 1, vaultCopy := v.getLsbD 2 } }
  | 0x5010 => limitWrite s false v
  | 0x5014 => limitWrite s true v
  | 0x5018 => patternWrite s (v.getLsbD 0)
  | 0x501C => if s.lc.inForce = 1 then { s with fountain.pattern := v } else s
  | 0x8004 => alertWrite s v
  | 0x9048 => if s.journal.jxEnable then s else { s with journal.jxSize := v &&& 0x1F }
  | 0x904C => jxCtrlWrite s v
  | 0x9054 => { s with journal.jxCons := v.toNat }
  | 0xB004 => threshWrite s v
  | 0xC018 => { s with boot.bootLen := v }
  | 0xC01C => if v.getLsbD 0 then bootGo s else s
  | 0xC020 => globalWrite s v
  | _ => s

/-- A 32-bit write: of a register, or of one half of a 64-bit register, whose other half keeps its value. -/
def writeHalf (s : State) (off : Nat) (v : W32) : State :=
  let base := off / 8 * 8
  if wideRegister base then
    let other := (regWord s (if off % 8 = 4 then base else base + 4)).toNat
    writeWide s base (BitVec.ofNat 64 (if off % 8 = 4 then other + 2 ^ 32 * v.toNat else v.toNat + 2 ^ 32 * other))
  else writeWord s off v

/-- The registers that take writes before the device is ready (R503). -/
def bootRegister (off : Nat) : Bool := [0xC010, 0xC014, 0xC018, 0xC01C, 0xC020].contains off

/-- A write of one word that the device does not ignore. -/
def writeOpen (s : State) (off : Nat) (v : W32) : State :=
  if s.boot.ready || bootRegister off then writeHalf s off v else s

/-- REGISTER_WRITE: a naturally aligned write of 32 or 64 bits. -/
def execRegisterWrite (offset : W16) (wide : Bool) (value : W64) (s : State) : Host.Outcome State Fault Refusal :=
  let off := offset.toNat
  .next (
    if wide then
      if off % 8 ≠ 0 then s
      else if wideRegister off then if s.boot.ready || bootRegister off then writeWide s off value else s
      else writeOpen (writeOpen s off (value.setWidth 32)) (off + 4) ((value >>> 32).setWidth 32)
    else if off % 4 ≠ 0 then s else writeOpen s off (value.setWidth 32))

/-! ## JTAG (R351, R361, R362, R482) -/

/-- Programs bits of a bank of OTP bytes: they only rise (R350). -/
def programBytes (old new : List Byte) : List Byte := List.zipWith (· ||| ·) old new

/-- A write of bits of a life-cycle word is taken unless the words would then spell another state of Table 15-1 whose
transition Table 15-2 does not list or whose preconditions do not hold; words that spell no state are on the way to one.
(DEDUCED, log entry 97) -/
def lifeWrite (o : Otp) (w : Fin 4) (bits : W32) : Bool :=
  let old := decodeLife o.lcWords
  let new := decodeLife (o.lcWords.modify w.val fun v => v ||| bits)
  new.2 || decide (new = old) || (List.range new.1).any fun f =>
    decide (List.zipWith (· &&& ·) o.lcWords (lifeWords f) = lifeWords f) &&
      lifeArrow f new.1 && lifeReady o f new.1

/-- Programs one item; each is open in the states of Table 15-3, R361 and R362. (DEDUCED, log entry 97) -/
def programItem (s : State) (i : OtpItem) : State :=
  let blank := decide (s.lc.inForce = 0)
  let test := decide (s.lc.inForce = 1)
  match i with
  | .lifeCycle w bits =>
    if lifeWrite s.otp w bits then
      let words := s.otp.lcWords.modify w.val fun v => v ||| bits
      { s with otp.lcWords := words, lc.pending := (decodeLife words).1 }
    else s
  | .deviceId v => if blank then { s with otp.deviceId := s.otp.deviceId ||| v } else s
  | .patchKey v => if blank then { s with otp.patchKey := programBytes s.otp.patchKey v.toList } else s
  | .codeHash v => if test then { s with otp.codeHash := programBytes s.otp.codeHash v.toList } else s
  | .debugHash v => if test then { s with otp.debugHash := programBytes s.otp.debugHash v.toList } else s
  | .anchorHash v => if test then { s with otp.anchorHash := programBytes s.otp.anchorHash v.toList } else s
  | .subsystem v => { s with otp.subsystem := s.otp.subsystem ||| v }
  | .fuseTamper v => if test then { s with otp.tamperBits := s.otp.tamperBits ||| v } else s
  | .fuseVariant v => if blank then { s with otp.variantBits := s.otp.variantBits ||| v } else s

/-- JTAG_OTP_PROGRAM: accepted only in BLANK and TEST. -/
def execJtagOtpProgram (item : OtpItem) (s : State) : Host.Outcome State Fault Refusal :=
  .next (if jtagOpen s then programItem (tapReleased s) item else s)

/-- JTAG_DUMP_READOUT: in END_OF_LIFE the newest Vault copy of a dump is read out (R482). -/
def execJtagDumpReadout (s : State) : Host.Outcome State Fault Refusal :=
  .next (if decide (2 ≤ s.boot.stage) && decide (s.lc.inForce = 3) then
      match s.dump.mediaCopy with
      | some (_, parts) => { tapReleased s with link.out := s.link.out ++ parts.map fun p => Outbound.jtag p.2 }
      | none => s
    else s)

/-! ## SMBus (R525) -/

/-- The higher of the two readings of source 10. -/
def higherReading (s : State) : Nat :=
  let x := sourceAt s 10
  let a := x.readingA.setWidth 16
  let b := x.readingB.setWidth 16
  (if b.toInt ≤ a.toInt then a else b).toNat

/-- The word of a command code; no other code is acknowledged. (DEDUCED, log entry 100) -/
def smbusWord (s : State) (command : Nat) : Option Nat :=
  match command with
  | 0x00 => some (hifStatus s % 2 ^ 16)
  | 0x01 => some (hifStatus s / 2 ^ 16 % 2 ^ 16)
  | 0x02 => some (higherReading s)
  | 0x03 => some s.lodge.sticky.toNat
  | 0x04 => some (rstWord s 0x004 % 2 ^ 16)
  | _ => none

/-- SMBUS_READ_WORD: from the release of stage 1. -/
def execSmbusReadWord (command : BitVec 8) (s : State) : Host.Outcome State Fault Refusal :=
  .next (match smbusWord s command.toNat with
    | some v => if 1 ≤ s.boot.stage then { s with link.out := s.link.out ++ [.smbus v] } else s
    | none => s)

/-- SMBUS_ALERT_RESPONSE: the target answers with its address. -/
def execSmbusAlertResponse (s : State) : Host.Outcome State Fault Refusal :=
  .next (if 1 ≤ s.boot.stage then { s with link.out := s.link.out ++ [.smbus 0x4E] } else s)

end Sys2Proof.Machine
end

