-- ==== Sys2Proof/Machine/Blocks.lean ====
section
/-! DEFINITION. Block resets, the fatal path and the dump (20_reset_boot.md R464 to R466; 21_errors_dump_bist.md R476 to
R482). -/
namespace Sys2Proof.Machine
open Sys2Proof

/-! ## Block resets (R464 to R466, R477) -/

/-- The unit is on this part: 0 to 11 are the scheduled units, 12 the Vault controller, 13 the Footbridge. -/
def blockPresent (s : State) (u : Nat) : Bool :=
  if u = 13 then hasBridge s else decide (u = 12) || unitPresent s u

/-- The tick in which the unit's present block reset began. -/
def resetTick (s : State) (u : Nat) : Option Nat :=
  if u = 12 then s.vault.block.at' else if u = 13 then s.bridge.block.at' else (unitAt s u).resetAt

/-- The unit is in reset, or in a self-test part. -/
def outOfService (s : State) (u : Nat) : Bool := (resetTick s u).isSome || (decide (u < 12) && (unitAt s u).inBist)

/-- The jobs that a reset of the unit ends (Table 20-9). -/
def resetJobs (s : State) (u : Nat) : List Nat :=
  if hasResidences u then (s.jobs.filter fun p => p.2.place.any fun q => decide (q.1 = u)).map Prod.fst
  else if u < 12 then
    let v := unitAt s u
    (s.jobs.filter fun p => v.running.contains p.1 ||
      (decide (p.2.phase = .running) && decide (0 < p.2.done) && v.lanes.any fun l => l.contains (laneCtx p.1 p.2))).map Prod.fst
  else []

/-- A job that a block reset ends, in the next tick (R466). -/
def resetJob (s : State) (k : Nat) : State :=
  match KMap.get? s.jobs k with
  | some j =>
    if j.phase = .decided then s
    else
      modJob (endJob s k .unitReset) k fun x =>
        { x with
          decidedAt := now s + 1,
          startTick := if x.done = 0 then now s + 1 else x.startTick,
          endTick := if x.done = 0 then now s + 1 else x.endTick }
  | none => s

/-- A scheduled unit is isolated and zeroed. -/
def zeroUnit (s : State) (u : Nat) : State :=
  let s := (resetJobs s u).foldl resetJob s
  let v := unitAt s u
  let s := setUnit s u { v with
    bay := none, running := [], lanes := [[], [], [], []], evictions := [], shedding := [], mask := MaskGen.unseeded,
    residences := v.residences.map fun r => { Residence.idle with holder := r.holder, pool := r.pool },
    resetAt := some (now s), resets := v.resets + 1 }
  let s := { s with plots := KMap.keep s.plots fun k _ => decide (k / 8 ≠ u) }
  if u < 4 then setBody s u Body.idle else s

/-- The Vault controller: pages whose program was cut are programmed again, and erases begin again; the mount stays.
(DEDUCED, log entry 103) -/
def zeroVault (s : State) : State :=
  let v := s.vault
  let s := v.erasing.foldl (fun s p =>
    modBlock (modDie s p.1 fun d => { d with eraseQueue := p.2 :: d.eraseQueue }) p.1 p.2 fun b => { b with state := .eraseQueued }) s
  { s with vault := { s.vault with
      block := { v.block with at' := some (now s), count := v.block.count + 1 },
      flight := [], rework := v.rework ++ v.flight, erasing := [], fifos := [PackFifo.empty, PackFifo.empty],
      writeEnable := [false, false] } }

/-- The Footbridge: its link retrains (R430). -/
def zeroBridge (s : State) : State :=
  retrain { s with bridge.block := { s.bridge.block with at' := some (now s), count := s.bridge.block.count + 1 } }

/-- Sets a unit's window of block resets. -/
def setResetWindow (s : State) (u : Nat) (w : Nat × Nat) : State :=
  if u = 12 then { s with vault.block := { s.vault.block with window := some w } }
  else if u = 13 then { s with bridge.block := { s.bridge.block with window := some w } }
  else setUnit s u { unitAt s u with resetWindow := some w }

/-- Resets one unit; the fourth reset in its window takes the fatal path instead (R477). (DEDUCED, log entry 102) -/
def blockReset (s : State) (u : Nat) (hang : Bool) : State :=
  let s := if hang then
      logEvent s 3 0x0032 0xFFFF (BitVec.ofNat 8 u) (leBytes 4 (unitAt s u).lastRoutine.toNat)
    else s
  let w := (resetWindowOf s u).getD (now s, 0)
  if 3 ≤ w.2 then fatal s (if hang then 0x0032 else 0x0033) (eventUnit u) 6
  else
    let s := logBlockReset (setResetWindow s u (w.1, w.2 + 1)) u (if hang then 1 else 2)
    let s := { s with clocks := holdClocks s.clocks (blockClock u) }
    if u = 12 then zeroVault s else if u = 13 then zeroBridge s else zeroUnit s u

/-- BLOCK_RESET: of a scheduled unit that hangs, or of a unit with a parity or state error (R464, R476). -/
def execBlockReset (unit : Fin 14) (hang : Bool) (s : State) : Host.Outcome State Fault Refusal :=
  let u := unit.val
  .next (if decide (6 ≤ s.boot.stage) && blockPresent s u && !outOfService s u then blockReset s u (hang && decide (u < 12)) else s)

/-- BLOCK_RESET_RETURN: the first tick boundary at or after r + 64 (R465). -/
def execBlockResetReturn (unit : Fin 14) (s : State) : Host.Outcome State Fault Refusal :=
  let u := unit.val
  .next (if (resetTick s u).any fun r => decide (r + 64 ≤ now s) then
      let s := { s with clocks := releaseClocks s.clocks (blockClock u) }
      if u = 12 then { s with vault.block := { s.vault.block with at' := none } }
      else if u = 13 then { s with bridge.block := { s.bridge.block with at' := none } }
      else setUnit s u { unitAt s u with resetAt := none }
    else s)

/-! ## The dump (R478 to R482) -/

/-- Pads or cuts to a length. -/
def sized (n : Nat) (b : List Byte) : List Byte := slice (b ++ zeroBytes (n - b.length)) 0 n

/-- Section 1: BAR 0 by offset. -/
def registerSection (s : State) : List Byte := (List.range 16384).flatMap fun i => leBytes 4 (regWord s (4 * i)).toNat

/-- One allotment's entry; byte 3 of an unbound allotment is a free value. -/
def allotmentEntry (s : State) (a : Nat) (v : Allotment) : List Byte :=
  let l := v.lease
  let sum := fun (f : Usage → Nat) => v.usage.foldl (fun n p => n + f p.2) 0
  let flags := bit v.isSealed + 2 * bit v.shareable + 4 * bit v.lendable + 8 * bit v.openOk + 16 * bit v.ceDefault
  leBytes 2 a ++ leBytes 1 flags ++ leBytes 1 (v.func.getD (Config.freeWord s.freeCount).toNat) ++ leBytes 2 v.quota ++
    leBytes 2 v.inflight ++ leBytes 2 l.parterre ++ leBytes 2 l.maze ++ leBytes 2 l.sha2 ++ leBytes 2 l.orangery ++
    leBytes 1 l.residences ++ leBytes 1 l.quantum ++ leBytes 1 v.evictBlocks ++ leBytes 1 v.stageBlocks ++
    leBytes 1 v.keyBlocks ++ leBytes 1 (liveKeys s a).length ++ leBytes 2 v.page ++ leBytes 8 (sum fun u => u.used) ++
    leBytes 8 (sum fun u => u.housekeeping)

/-- Section 2. -/
def allotmentSection (s : State) : List Byte :=
  (List.range 4096).flatMap fun a => sized 64 (((KMap.get? s.allots a).map (allotmentEntry s a)).getD [])

/-- One queue's entry. -/
def queueEntry (k : Nat) (q : Queue) : List Byte :=
  leBytes 2 (k / 8) ++ leBytes 1 (k % 8) ++ leBytes 1 q.log2n ++ leBytes 2 q.scan ++ leBytes 1 q.inflight.length ++
    leBytes 1 (stopCode q.stop) ++ leBytes 8 q.base.toNat ++ leBytes 2 (q.vector.getD 0xFFFF) ++ leBytes 1 (q.modCount - 1) ++
    [0] ++ leBytes 2 q.modTicks ++ leBytes 2 q.pendCount ++ zeroBytes 8 ++
    slice (((sortBy id q.inflight).flatMap fun i => leBytes 2 i) ++ List.replicate 64 0xFF) 0 64

/-- Section 3. -/
def queueSection (s : State) : List Byte := sized (16384 * 128) (s.queues.flatMap fun p => sized 128 (queueEntry p.1 p.2))

/-- Section 4: the last 1,024 records, written or still in the FIFO. -/
def historySection (s : State) : List Byte :=
  let l := s.events.history ++ s.events.fifo.map fun e => eventBytes e false 0
  sized (1024 * 32) (l.drop (l.length - 1024)).flatten

/-- A block's state in section 5: absent, in service, in self-test or halted, in block reset. -/
def blockState (s : State) (u : Nat) : Nat :=
  if u < 12 then
    let v := unitAt s u
    if !unitPresent s u then 0 else if v.inBist || v.halted then 2 else if v.resetAt.isSome then 3 else 1
  else if u = 17 ∧ !hasBridge s then 0
  else if (u = 16 ∧ s.vault.block.at'.isSome) ∨ (u = 17 ∧ s.bridge.block.at'.isSome) then 3
  else if s.bist.partActive ∧ s.bist.part = u then 2
  else 1

/-- One block's entry. -/
def engineEntry (s : State) (u : Nat) : List Byte :=
  let holders := fun (l : List Residence) => l.flatMap fun r => leBytes 2 (r.holder.getD 0xFFFF)
  let counts := fun (l : List Nat) => l.flatMap (leBytes 8)
  let head := fun (resets : Nat) => leBytes 1 u ++ leBytes 1 (blockState s u) ++ zeroBytes 2 ++ leBytes 4 resets
  if u < 12 then
    let v := unitAt s u
    head v.resets ++ holders v.residences ++ counts [v.slices, v.abandonments, v.corrected, v.uncorrectable] ++
      leBytes 4 v.lastRoutine.toNat
  else
    head (if u = 16 then s.vault.block.count else if u = 17 then s.bridge.block.count else 0) ++
      List.replicate 16 0xFF ++ counts [0, 0, KMap.getD s.regs.corrected u 0, KMap.getD s.regs.uncorrectable u 0]

/-- Section 5. -/
def engineSection (s : State) : List Byte := (List.range 22).flatMap fun u => sized 128 (engineEntry s u)

/-- A bay's kind (Table 21-5). -/
def bayKind : BayKind → Nat
  | .leased => 0 | .pool => 1 | .lent => 2 | .decoy => 3 | .housekeeping => 4 | .idle => 5 | .bist => 6

/-- One bay decision; the entry index of a bay without a job is a free value. -/
def bayEntry (s : State) (b : Bay) : List Byte :=
  leBytes 8 b.tick ++ leBytes 1 b.unit ++ leBytes 1 (bayKind b.kind) ++ leBytes 2 (b.allot.getD 0xFFFF) ++
    leBytes 1 (b.residence.getD 0xFF) ++ leBytes 1 ((b.job.map keyQueue).getD 0xFF) ++
    leBytes 2 ((b.job.map keyIndex).getD (Config.freeWord s.freeCount).toNat)

/-- Section 6. -/
def bayLog (s : State) : List Byte := sized (256 * 16) (s.sched.bays.flatMap (bayEntry s))

/-- A section's bytes by TYPE. -/
def sectionBytes (s : State) : Nat → List Byte
  | 1 => registerSection s
  | 2 => allotmentSection s
  | 3 => queueSection s
  | 4 => historySection s
  | 5 => engineSection s
  | _ => bayLog s

/-- A section's offset and its entries; of REGISTERS the spec gives no count, and a free value stands for it. -/
def sectionPlace (s : State) : Nat → Nat × Nat
  | 1 => (0x1000, (Config.freeWord s.freeCount).toNat)
  | 2 => (0x11000, 4096)
  | 3 => (0x51000, 16384)
  | 4 => (0x251000, 1024)
  | 5 => (0x259000, 22)
  | _ => (0x25A000, 256)

/-- The dump goes to the host region (R478). -/
def hostDump (s : State) : Bool := s.dump.enable && decide (4 * 2 ^ 20 ≤ s.dump.size.toNat) && masters s 0

/-- The dump goes to the Vault as well. -/
def vaultDump (s : State) : Bool := vaultWritable s && s.dump.vaultCopy

/-- Sections that a copy holds: the Vault copy leaves out 2 and 3. -/
def inCopy (copy : Bool) (t : Nat) : Bool := !copy || decide (t ≠ 2 ∧ t ≠ 3)

/-- The header (Table 21-4). -/
def dumpHeader (s : State) (at' error cause : Nat) (copy : Bool) : List Byte :=
  let have' := s.dump.sections.filter fun p => inCopy copy p.1
  let desc := fun (t : Nat) =>
    let p := sectionPlace s t
    match KMap.get? have' t with
    | some b => leBytes 2 t ++ zeroBytes 2 ++ leBytes 4 p.1 ++ leBytes 4 b.length ++ leBytes 4 p.2
    | none => leBytes 2 t ++ zeroBytes 2 ++ leBytes 4 p.1 ++ zeroBytes 8
  let cut := decide (s.dump.sections.length < 6)
  [0x53, 0x44, 0x4D, 0x50] ++ leBytes 2 1 ++ leBytes 2 (bit cut + 2 * bit copy) ++ leBytes 8 s.otp.deviceId.toNat ++
    leBytes 4 s.lodge.bootCount.toNat ++ leBytes 2 error ++ leBytes 1 cause ++ [0] ++ leBytes 8 at' ++
    leBytes 8 s.lodge.secTime.toNat ++ (if s.events.ffcValid then slice s.events.ffc 0 32 else zeroBytes 32) ++
    leBytes 4 s.boot.rollback ++ leBytes 4 s.stores.patchLevel.toNat ++ leBytes 2 6 ++ zeroBytes 14 ++
    (List.range 6).flatMap (fun i => desc (i + 1)) ++ zeroBytes 32 ++ sha3_256 (have'.flatMap Prod.snd)

/-- Bytes of a dump as pages of a size, with their offsets. -/
def dumpPages (size : Nat) (parts : List (Nat × List Byte)) : List PageContent :=
  parts.flatMap fun p => (List.range (ceilDiv p.2.length size)).map fun i =>
    .dump (p.1 + size * i) ((p.2.drop (size * i)).take size)

/-- The pages of the Vault copy, one on each die in turn; an older copy's are stale (R393, R482). -/
def programDump (s : State) (pages : List PageContent) : State :=
  let n := s.vault.media.dies.length
  pages.zipIdx.foldl (fun s p => match takeBlock s (p.2 % n) .dump false with
    | some (s, b) => programPage s (p.2 % n) b p.1 false
    | none => s) (stalePages s fun p => decide (p.head.stream = .dump))

/-- The header is written last, MAGIC after the rest; then the full reset (R478, R479). -/
def finishDump (s : State) (at' error cause : Nat) : State :=
  let s := if hostDump s then
      let h := dumpHeader s at' error cause false
      send (send s (.write 0 (s.dump.base + 4) (h.drop 4) false)) (.write 0 s.dump.base (h.take 4) false)
    else s
  let s := if vaultDump s then
      let parts := (0, dumpHeader s at' error cause true) ::
        (s.dump.sections.filter fun p => inCopy true p.1).map fun p => ((sectionPlace s p.1).1, p.2)
      { programDump s (dumpPages (contentSize s) parts) with
        dump.mediaCopy := some (s.lodge.bootCount.toNat, parts), dump.mediaDelivered := false }
    else s
  fullReset { s with freeCount := s.freeCount + 1 } cause false

/-- One tick of the fatal path: the next section, or the end. (DESIGN CHOICE, log entry 105) -/
def dumpStep (s : State) : State :=
  match s.dump.active with
  | none => s
  | some (at', error, _, cause) =>
    if !(hostDump s || vaultDump s) then fullReset s cause false
    else match [1, 2, 3, 4, 5, 6].find? fun t => !KMap.has s.dump.sections t with
      | some t =>
        let b := sectionBytes s t
        let s := if hostDump s then send s (.write 0 (s.dump.base + BitVec.ofNat 64 (sectionPlace s t).1) b false) else s
        { s with dump.sections := KMap.put s.dump.sections t b }
      | none => finishDump s at' error cause

/-- FATAL_ERROR: an error in critical state or in the fabric, by memory and word (R476, R478). -/
def execFatalError (memory : BitVec 8) (word : W32) (s : State) : Host.Outcome State Fault Refusal :=
  let s' := logEvent s 3 0x0035 0xFFFF 0xFF (leBytes 1 memory.toNat ++ leBytes 4 word.toNat)
  .next (if 2 ≤ s.boot.stage then fatalOf s' 0x0035 0xFF memory.toNat 6 else s)

/-- DUMP_WINDOW_EXPIRY: 50 ms after FATAL_N what is not complete is left out (R479). -/
def execDumpWindowExpiry (s : State) : Host.Outcome State Fault Refusal :=
  .next (match s.dump.active with
    | some (at', error, _, cause) => finishDump { s with dump.truncated := true } at' error cause
    | none => s)

end Sys2Proof.Machine
end

