-- ==== Sys2Proof/Machine/Bays.lean ====
section
/-! DEFINITION. The bays of the Bandstand: slot tables, the pool, residences, fetch turns, what changes at an epoch
boundary, and which slices run in a bay (02_bandstand.md R40 to R51; 09_parterre.md R232; 12_digest.md R291 to R293). -/
namespace Sys2Proof.Machine
open Sys2Proof

/-! ## Slot tables (R40, R41) -/

/-- The pool's number in a slot table. -/
def poolId : Nat := 4096

/-- Shares of a unit by allotment, ascending: leases in force, and those of destroyed allotments whose bays still run
decoys (R113). -/
def sharesOn (s : State) (u : Nat) : KMap Nat :=
  let own := s.allots.map fun p => (p.1, unitShare s p.2.lease p.1 u)
  let gone := s.sched.ghosts.map fun g => (g.1, unitShare s g.2.2 g.1 u)
  (own ++ gone).foldl (fun m p => if p.2 = 0 then m else KMap.put m p.1 p.2) []

/-- A unit's entries at the start of an epoch. (DEDUCED, log entry 18) -/
def slotStart (s : State) (u : Nat) : List SlotEntry :=
  let shares := sharesOn s u
  let sum := shares.foldl (fun n p => n + p.2) 0
  shares.map (fun p => { id := p.1, weight := p.2, cur := 0 }) ++ [{ id := poolId, weight := 4096 - sum, cur := 0 }]

/-- One round of the procedure of R41: every counter rises by its weight, and the first of the highest is picked. -/
def slotPick (l : List SlotEntry) : Nat × List SlotEntry :=
  let up := l.map fun e => { e with cur := e.cur + e.weight }
  match up with
  | [] => (poolId, [])
  | e :: rest =>
    let best := rest.foldl (fun (b : SlotEntry) x => if b.cur < x.cur then x else b) e
    (best.id, up.map fun x => if x.id = best.id then { x with cur := x.cur - 4096 } else x)

/-! ## Residences (R45) -/

/-- The unit whose self-test part begins with an epoch (R128, R484). -/
def bistUnit (s : State) (e : Nat) : Option Nat :=
  if s.bist.running && !s.bist.partActive && !s.bist.ended && decide (s.bist.startEpoch = some e) then s.bist.partsLeft.head?
  else none

/-- The units whose residences are handed out in an epoch, in the order of R45: a unit in self-test has left the pool
(R128). -/
def residenceUnits (s : State) (e : Nat) : List Nat :=
  [0, 1, 2, 3, 10, 11].filter fun u => unitPresent s u && !(unitAt s u).inBist && decide (bistUnit s e ≠ some u)

/-- An allotment keeps the lowest of the residences that were reserved for it, up to its count. (DEDUCED, log entry 23) -/
def keptResidences (old : List Residence) (a n : Nat) : List Nat :=
  ((List.range 8).filter fun r => (old[r]?).any fun x => decide (x.holder = some a) && !x.pool).take n

/-- The reserved residences of a unit under given leases: what each allotment keeps, then in ascending order the lowest
that are free. -/
def reservedOn (old : List Residence) (counts : List (Nat × Nat)) : KMap Nat :=
  let kept := counts.foldl (fun (m : KMap Nat) c => (keptResidences old c.1 c.2).foldl (fun m r => KMap.put m r c.1) m) []
  counts.foldl (fun (m : KMap Nat) c =>
    let have' := (m.filter fun p => decide (p.2 = c.1)).length
    let free := (List.range 8).filter fun r => !KMap.has m r
    (free.take (c.2 - have')).foldl (fun m r => KMap.put m r c.1) m) kept

/-- The allotments that share the pool in an epoch, ascending (R44, R111). -/
def sharers (s : State) (e : Nat) : List Nat := (s.allots.filter fun p => inPool p.2 e).map Prod.fst

/-- The next allotment of the hand-out: the lowest that is not below a number, or the lowest of all. -/
def nextSharer (ms : List Nat) (from' : Nat) : Option Nat := (ms.find? fun a => decide (from' ≤ a)) <|> ms.head?

/-- The reserved holders of each unit in an epoch; the lease of a destroyed allotment ends at its epoch of R39 (R113). -/
def reservedPlan (s : State) (e u : Nat) : KMap Nat :=
  let own := s.allots.map fun p => (p.1, unitResidences s (leaseIn p.2 e) p.1 u)
  let gone := (s.sched.ghosts.filter fun g => decide (e < g.2.1)).map fun g => (g.1, unitResidences s g.2.2 g.1 u)
  reservedOn (unitAt s u).residences (((own ++ gone).filter fun c => decide (0 < c.2)).foldl (fun m c => KMap.put m c.1 c.2) [])

/-- The holders of every residence in an epoch, unit by unit, and where the hand-out stops (R45). -/
def holderPlan (s : State) (e : Nat) : KMap (Nat × Bool) × Nat :=
  let ms := sharers s e
  let places := (residenceUnits s e).flatMap fun u => (List.range 8).map fun r => (u, r)
  places.foldl (fun (p : KMap (Nat × Bool) × Nat) x =>
    match KMap.get? (reservedPlan s e x.1) x.2 with
    | some a => (KMap.put p.1 (plotKey x.1 x.2) (a, false), p.2)
    | none =>
      match nextSharer ms p.2 with
      | some a => (KMap.put p.1 (plotKey x.1 x.2) (a, true), a + 1)
      | none => p) ([], s.sched.handOut)

/-- The pool residences of a unit: those reserved for nobody. -/
def poolResidences (s : State) (u : Nat) : List Nat :=
  if hasResidences u then (List.range 8).filter fun r => (residenceAt s u r).pool else []

/-- Housekeeping slices of one move: 8 for a plot, 1 for an operand set (R46). -/
def moveSlices (u : Nat) : Nat := if u < 4 then 8 else 1

/-- The allotments that hold a pool residence on the unit, or every sharer for a Maze or SHA-2 unit (R44). -/
def poolMembers (s : State) (u : Nat) : List Nat :=
  if hasResidences u then
    (sharers s (epochOf (now s))).filter fun a => (poolResidences s u).any fun r => decide ((residenceAt s u r).holder = some a)
  else sharers s (epochOf (now s))

/-! ## What runs (R232, R292) -/

/-- The class of a job's next slice: after its plan an Open routine goes on in the parterre. -/
def nextClass (j : Job) : Option UnitClass :=
  match j.plan with
  | p :: _ => some p.1
  | [] => if isOpenJob j then some .parterre else none

/-- A mask generator's active state has a seed; past squeeze tick 1,311 that is the standby state's (R224, R225). -/
def maskSeeded (s : State) (u : Nat) : Bool :=
  let m := (unitAt s u).mask
  m.seeded && (decide (m.squeezeTick < 1312) || m.standby)

/-- The generator of a parterre has its seed and runs (R225). -/
def maskRuns (s : State) (u : Nat) : Bool := maskSeeded s u && decide ((unitAt s u).mask.restartAt ≤ now s)

/-- A dispatched job can go on: nothing has stopped it, its draws are in place, and no reservation is open (R172, R232). -/
def freeToRun (s : State) (j : Job) : Bool :=
  decide (j.phase = .running) && !j.aborted && decide (j.draws = []) && decide (j.drawReady ≤ now s) &&
    j.waits.all fun w => match w with
      | .reservation _ => false
      | .quoteBlock => false
      | _ => true

/-- The bytes of the next slice have landed (R142, R186). -/
def bytesLanded (s : State) (k : Nat) (j : Job) : Bool := decide ((factsD s k j).needs (j.done + 1) ≤ j.landed.length)

/-- The residence that a job occupies on a unit, whole and not about to move. -/
def settledOn (s : State) (u : Nat) (j : Job) : Bool :=
  match j.place with
  | some (v, r) =>
    decide (v = u) && decide (j.restoring = 0) && !((unitAt s u).evictions.any fun e => decide (e.residence = r))
  | none => false

/-- A job has a ready slice for a unit (R232, R292). -/
def readyOn (s : State) (u k : Nat) (j : Job) : Bool :=
  freeToRun s j && decide (nextClass j = some (unitClass u)) && decide (j.houseBefore = 0) && bytesLanded s k j &&
    (!hasResidences u || settledOn s u j) && (!(decide (u < 4) && j.shared) || maskRuns s u) &&
    (!isOpenJob j || decide (s.stores.busyUntil ≤ now s))

/-- Jobs of an allotment that pass a test, earliest dispatch first. -/
def dispatched (s : State) (a : Nat) (ok : Nat → Job → Bool) : List Nat :=
  sortBy (fun k => ((KMap.get? s.jobs k).map fun j => j.dispatchOrder).getD 0)
    ((s.jobs.filter fun p => decide (keyAllot p.1 = a) && ok p.1 p.2).map Prod.fst)

/-- A vendor routine that takes all four lane parts (R291). -/
def takesFour (j : Job) : Bool := decide (family j = 4 ∨ family j = 5 ∨ family j = 6)

/-- The job holds a lane part in this tick on another group of the class (R292). -/
def heldElsewhere (s : State) (u k : Nat) : Bool :=
  (List.range 12).any fun v => decide (v ≠ u) && decide (unitClass v = unitClass u) &&
    (unitAt s v).bay.any (fun b => decide (b.tick = now s)) && (unitAt s v).running.contains k

/-- The lane parts of a bay: earliest dispatched first, four-part routines only into four free parts. -/
def fillLanes (s : State) : List Nat → List Nat → List Nat
  | [], got => got
  | k :: ks, got =>
    match KMap.get? s.jobs k with
    | none => fillLanes s ks got
    | some j =>
      if takesFour j then if got = [] then [k] else fillLanes s ks got
      else if got.length < 4 then fillLanes s ks (got ++ [k])
      else got

/-- What an allotment runs in a bay of a unit. -/
inductive Work where
  /-- a move of a residence, or a housekeeping slice of a job -/
  | house (residence job : Option Nat)
  | slices (ks : List Nat)
deriving DecidableEq, Repr

/-- A residence of the allotment that is being moved out in its own bays for a waiting job (R47). -/
def ownEviction (s : State) (u a : Nat) : Option Eviction :=
  (unitAt s u).evictions.find? fun e => decide (0 < e.left) && decide (keyAllot e.job = a) && e.next.isSome

/-- A job of the allotment that is being moved in on the unit, by other slices than those of the fixed positions. -/
def ownRestore (s : State) (u a : Nat) : Option (Nat × Nat) :=
  (s.jobs.find? fun p => decide (keyAllot p.1 = a) && decide (0 < p.2.restoring) &&
    p.2.place.any fun q => decide (q.1 = u) && !(unitAt s u).incoming.contains q.2).bind
    fun p => p.2.place.map fun q => (q.2, p.1)

/-- Another leased bay of the allotment comes in this tick on a later group of the class. -/
def laterBay (s : State) (u a : Nat) : Bool :=
  (List.range 12).any fun v => decide (u < v) && decide (unitClass v = unitClass u) && unitPresent s v &&
    decide ((slotPick (if (unitAt s v).slots = [] then slotStart s v else (unitAt s v).slots)).1 = a)

/-- Housekeeping bays that a job has in this tick on other groups. -/
def housesNow (s : State) (k : Nat) : Nat :=
  ((List.range 12).filter fun v => (unitAt s v).bay.any fun b =>
    decide (b.tick = now s) && decide (b.kind = .housekeeping) && decide (b.residence = none) && decide (b.job = some k)).length

/-- A housekeeping slice that follows a SIGN may run: it needs no slice of the sequence, so it takes a bay beside one, a bay
once the first has run that no later group offers, or what comes after the last (R180, R533). (DEDUCED, log entry 122) -/
def houseAfterReady (s : State) (u a k : Nat) (j : Job) : Bool :=
  decide (housesNow s k < j.houseAfter) && (factsD s k j).classes.contains (unitClass u) && decide (j.houseBefore = 0) &&
    (decide (j.plan = []) || heldElsewhere s u k || (decide (0 < j.done) && !laterBay s u a))

/-- The next housekeeping slice of a stateful SIGN on the class (R180, R181). -/
def ownHouse (s : State) (u a : Nat) : Option Nat :=
  if unitClass u = .maze ∨ unitClass u = .sha2 then
    (dispatched s a fun k j => freeToRun s j &&
      ((decide (housesNow s k < j.houseBefore) && decide (nextClass j = some (unitClass u)) && !heldElsewhere s u k) ||
        houseAfterReady s u a k j)).head?
  else none

/-- What an allotment has ready for a unit (R42, R47, R232, R292). -/
def workOf (s : State) (u a : Nat) : Option Work :=
  match ownEviction s u a with
  | some e => some (.house (some e.residence) (some e.job))
  | none =>
    match ownRestore s u a with
    | some (r, k) => some (.house (some r) (some k))
    | none =>
      match ownHouse s u a with
      | some k => some (.house none (some k))
      | none =>
        let ks := dispatched s a fun k j => readyOn s u k j && (hasResidences u || !heldElsewhere s u k)
        match (if hasResidences u then ks.take 1 else fillLanes s ks []) with
        | [] => none
        | l => some (.slices l)

/-! ## Starting a bay -/

/-- The prologue of a parterre slice: the context is loaded and the vector registers are zero (R230). A routine starts at
its first word. -/
def startBody (s : State) (u k : Nat) : State :=
  match (KMap.get? s.jobs k).bind fun j => j.place.map fun p => (j, p.2) with
  | some (j, r) =>
    let c := (plotAt s (plotKey u r)).ctx
    let p := if isOpenJob j && decide (j.done = 0) then (((routineOf s j).map fun x => x.start).getD 0, none) else (c.pc, c.seg)
    setBody s u { Body.idle with
      active := true, job := k, plot := plotKey u r, pc := p.1, seg := p.2, sregs := c.sregs, mregs := c.mregs, vl := c.vl,
      wide := c.wide, signed := c.signed, mode := c.mode, vmod := c.vmod, cores := c.cores.map fun x => { x with busyUntil := 0 } }
  | none => s

/-- The routine address that the model does not know: where an Orangery, Maze or SHA-2 routine, or a vendor routine that no
command has run, stands. -/
def freeAddress (j : Job) : W32 := (Config.freeWord (j.fresh + j.done)).setWidth 32

/-- The routine address of a slice: on a parterre its body's own. -/
def routineAddress (s : State) (u k : Nat) : W32 :=
  match KMap.get? s.jobs k with
  | some j => if u < 4 then BitVec.ofNat 32 (bodyAt s u).pc else freeAddress j
  | none => 0

/-- A context becomes live on a lane; the least recently used of five goes home (R293). -/
def liveOn (l : List LaneCtx) (c : LaneCtx) : List LaneCtx := (c :: l.filter (· ≠ c)).take 4

/-- The live contexts after a bay's lane parts: lane part i of four, or all four of a routine of R291. -/
def takeLanes (lanes : List (List LaneCtx)) (cs : List LaneCtx) (four : Bool) : List (List LaneCtx) :=
  lanes.mapIdx fun i l => match (if four then cs.head? else cs[i]?) with
    | some c => liveOn l c
    | none => l

/-- The contexts of a bay's slices leave every lane where they were live, and are live on the unit (R293). -/
def moveLive (s : State) (u : Nat) (run : List Nat) : State :=
  let js := run.filterMap fun k => (KMap.get? s.jobs k).map fun j => (k, j)
  let cs := js.map fun p => laneCtx p.1 p.2
  let units := s.units.map fun v => { v with lanes := v.lanes.map fun l => l.filter fun c => !cs.contains c }
  { s with units := units.modify u fun v => { v with lanes := takeLanes v.lanes cs (js.any fun p => takesFour p.2) } }

/-- Logs a bay decision and sets what runs in it. -/
def setBay (s : State) (u : Nat) (kind : BayKind) (a r k : Option Nat) (run : List Nat) : State :=
  let b : Bay := { tick := now s, unit := u, kind := kind, allot := a, residence := r, job := k }
  let s := if hasResidences u then s else moveLive s u run
  let s := setUnit s u { unitAt s u with bay := some b, running := run }
  { s with sched.bays := (s.sched.bays ++ [b]).drop (s.sched.bays.length - 255) }

/-- Starts an allotment's work in a bay. -/
def startWork (s : State) (u a : Nat) (kind : BayKind) (w : Work) : State :=
  match w with
  | .house r k => setBay s u .housekeeping (some a) r k []
  | .slices ks =>
    let k := ks.head?
    let r := ((k.bind (KMap.get? s.jobs ·)).bind fun j => j.place).map Prod.snd
    let s := setBay s u kind (some a) r k ks
    match k with
    | some k =>
      let s := if u < 4 then startBody s u k else s
      setUnit s u { unitAt s u with lastRoutine := routineAddress s u k }
    | none => s

/-- Adds to a usage counter of an allotment on a unit; the counters saturate (R512). -/
def chargeUsage (s : State) (a u : Nat) (f : Usage → Usage) : State :=
  modAllot s a fun v => { v with usage := KMap.put v.usage u (f (KMap.getD v.usage u Usage.zero)) }

/-- A counter of 64 bits. -/
def sat64 (n : Nat) : Nat := satAdd n 1 (2 ^ 64 - 1)

/-! ## Fixed positions (R46, R47) -/

/-- The reserved residences that an allotment sheds on a unit at the next epoch boundary. -/
def shedList (s : State) (u a : Nat) : List Nat :=
  match allotAt s a with
  | some v =>
    let n := unitResidences s (leaseIn v (epochOf (now s) + 1)) a u
    let own := (List.range 8).filter fun r => decide ((residenceAt s u r).holder = some a) && !(residenceAt s u r).pool
    own.drop (keptResidences (unitAt s u).residences a n).length
  | none => []

/-- A residence goes on moving out at a fixed position: its job stops there, and nothing is placed in it. -/
def beginMove (s : State) (u r : Nat) : State :=
  let v := unitAt s u
  let v := { v with shedding := insertNat r v.shedding }
  match (residenceAt s u r).job with
  | some k =>
    setUnit s u (if v.evictions.any fun e => decide (e.residence = r) then v
      else { v with evictions := v.evictions ++ [{ job := k, residence := r, left := moveSlices u, next := none }] })
  | none => setUnit s u v

/-- A fixed position that moves a residence out: housekeeping, or idle where there is nothing to move. -/
def moveOutBay (s : State) (u r : Nat) (always : Bool) (a : Option Nat) : State :=
  let s := beginMove s u r
  let k := (residenceAt s u r).job
  if k.isSome || always then setBay s u .housekeeping a (some r) k [] else setBay s u .idle none none none []

/-- A fixed position that moves an evicted job of the residence's holder in. -/
def moveInBay (s : State) (u r : Nat) : State :=
  let x := residenceAt s u r
  match x.job with
  | some k =>
    if (unitAt s u).incoming.contains r && (KMap.get? s.jobs k).any fun j => decide (0 < j.restoring) then
      setBay s u .housekeeping x.holder (some r) (some k) []
    else setBay s u .idle none none none []
  | none => setBay s u .idle none none none []

/-- The residence's holder is another in the next epoch. -/
def outgoing (s : State) (u r : Nat) : Bool :=
  let x := residenceAt s u r
  x.holder.isSome && decide ((KMap.get? (holderPlan s (epochOf (now s) + 1)).1 (plotKey u r)).map Prod.fst ≠ x.holder)

/-! ## One bay (R42, R43) -/

/-- An allotment's pool quantum; that of a destroyed one to the end of its lease (R32). -/
def quantumOf (s : State) (a : Nat) : Nat :=
  match s.sched.ghosts.find? fun g => decide (g.1 = a) with
  | some g => g.2.2.quantum
  | none => ((allotAt s a).map fun v => v.lease.quantum).getD 1

/-- The turn of a pool bay, spent whether or not it is used. -/
def poolTurn (s : State) (u : Nat) : Option Nat × State :=
  let v := unitAt s u
  match v.members[v.ptr]? with
  | none => (none, s)
  | some a =>
    let d := KMap.getD v.deficits a 0
    let d := (if d = 0 then quantumOf s a else d) - 1
    (some a, setUnit s u { v with
      deficits := KMap.put v.deficits a d, ptr := if d = 0 then (v.ptr + 1) % v.members.length else v.ptr })

/-- A pool bay: the member whose turn it is runs, or the bay idles. -/
def poolBay (s : State) (u : Nat) (kind : BayKind) (run : Bool) : State :=
  let p := poolTurn s u
  if !run then p.2
  else match p.1.bind fun a => if isGhost s a then none else (workOf p.2 u a).map fun w => (a, w) with
    | some (a, w) => startWork p.2 u a kind w
    | none => setBay p.2 u .idle none none none []

/-- A pool position: the first move residences in, the last move them out, the others are turns (R46). -/
def poolPosition (s : State) (u : Nat) (run : Bool) : State :=
  let v := unitAt s u
  let p := v.poolSeen
  let s := setUnit s u { v with poolSeen := p + 1 }
  let rs := poolResidences s u
  let n := moveSlices u * rs.length
  let total := ((v.slots.find? fun e => decide (e.id = poolId)).map fun e => e.weight).getD 0
  let fixed := fun (i : Nat) => rs[i / moveSlices u]?
  if p < n then if run then match fixed p with
      | some r => moveInBay s u r
      | none => s
    else s
  else if total ≤ p + n then if run then match fixed (p + n - total) with
      | some r => if outgoing s u r then moveOutBay s u r false (residenceAt s u r).holder else setBay s u .idle none none none []
      | none => s
    else s
  else poolBay (setUnit s u { unitAt s u with incoming := [] }) u .pool run

/-- A leased bay: housekeeping at the end of an epoch in which residences are shed, the owner's slices, a bay lent to
the pool, or a decoy (R42, R47). -/
def leasedBay (s : State) (u a : Nat) (run : Bool) : State :=
  let v := unitAt s u
  let i := KMap.getD v.leasedSeen a 0
  let s := setUnit s u { v with leasedSeen := KMap.put v.leasedSeen a (i + 1) }
  let share := ((v.slots.find? fun e => decide (e.id = a)).map fun e => e.weight).getD 0
  let shed := if hasResidences u then shedList s u a else []
  let n := moveSlices u * shed.length
  let gone := (allotAt s a).isNone || isGhost s a
  if !run then s
  else if !gone && decide (share ≤ i + n) && decide (0 < n) then
    match shed[(i + n - share) / moveSlices u]? with
    | some r => moveOutBay s u r true (some a)
    | none => s
  else match (if gone then none else workOf s u a) with
    | some w => startWork s u a .leased w
    | none =>
      if (allotAt s a).any fun x => x.lendable && !gone then
        poolBay (chargeUsage s a u fun x => { x with lent := sat64 x.lent }) u .lent run
      else setBay s u .decoy (some a) none none []

/-- The bay of a unit in the present tick. In block reset, self-test, a halt or a tamper quiesce the tables and the
rotation go on and nothing runs (R370, R465, R484, R518). -/
def startBay (s : State) (u : Nat) : State :=
  if !unitPresent s u then s
  else
    let v := unitAt s u
    let p := slotPick (if v.slots = [] then slotStart s u else v.slots)
    let run := v.resetAt.isNone && !v.inBist && !v.halted && !quiesced s
    let s := setUnit s u { v with slots := p.2, bay := none, running := [] }
    let s := if p.1 = poolId then poolPosition s u run else leasedBay s u p.1 run
    if v.inBist then setBay s u .bist none none none [] else s

/-! ## The epoch boundary (R32, R39, R41, R44, R45, R51) -/

/-- Leases that take effect, and bays of destroyed allotments that become pool positions. -/
def applyLeases (s : State) : State :=
  let e := epochOf (now s)
  { s with
    allots := KMap.mapAll s.allots fun _ v =>
      match v.pendingLease with
      | some (e0, l) => if e0 ≤ e then { v with lease := l, pendingLease := none } else v
      | none => v,
    sched.ghosts := s.sched.ghosts.filter fun g => decide (e < g.2.1) }

/-- A residence changes its holder: what is still in it goes to its job's eviction area, and it is zero for the new holder
from the boundary on, whatever the old one left (R48, R49). (DEDUCED, log entry 24) -/
def setHolder (s : State) (u r : Nat) (h : Option (Nat × Bool)) : State :=
  let x := residenceAt s u r
  let holder := h.map Prod.fst
  let pool := (h.map Prod.snd).getD true
  if x.holder = holder then setResidence s u r { x with pool := pool }
  else
    let s := match x.job with
      | some k => evictJob s k
      | none => s
    let s := setResidence s u r { holder := holder, pool := pool, job := none, lastUse := none, zeroAt := none }
    { s with plots := KMap.drop s.plots (plotKey u r) }

/-- A reserved residence that has passed to another holder, of the pool or by lease: the allotment that shed it yielded its
throughput (R55). (DEDUCED, log entry 25) -/
def shedYield (s : State) (old : Residence) (u r : Nat) : State :=
  match old.holder, (residenceAt s u r).holder with
  | some a, some b => if !old.pool && decide (a ≠ b) && (allotAt s a).isSome then logYield s a b 4 else s
  | _, _ => s

/-- The pool residences of a unit that have a new holder since `old`. -/
def incomingOn (old s : State) (u : Nat) : List Nat :=
  (List.range 8).filter fun r =>
    let x := residenceAt s u r
    x.pool && x.holder.isSome && decide (x.holder ≠ (residenceAt old u r).holder)

/-- Evicted jobs that wait to be restored, earliest dispatch first. -/
def evictedJobs (s : State) : List Nat :=
  sortBy (fun k => ((KMap.get? s.jobs k).map fun j => j.dispatchOrder).getD 0)
    ((s.jobs.filter fun p => p.2.evicted && awaitsPlace p.2).map Prod.fst)

/-- An evicted job takes the residence that the placement rule gives it, where that is an incoming one; its restore slices
are the first fixed positions of the epoch (R46, R234). -/
def restoreOne (s : State) (k : Nat) : State :=
  match (KMap.get? s.jobs k).bind fun j => ((factsD s k j).placed.bind (choosePlace s (keyAllot k))).map fun p => (j, p) with
  | some (j, u, r) => if (unitAt s u).incoming.contains r then placeJob s k j u r else s
  | none => s

/-- The incoming holders' evicted jobs get their residences at the boundary (R46). (DEDUCED, log entry 23) -/
def restoreIncoming (old s : State) : State :=
  let s := { s with units := s.units.mapIdx fun u v => { v with
      incoming := if hasResidences u then incomingOn old s u else [], shedding := [],
      evictions := v.evictions.filter fun e =>
        e.next.isSome && (decide (e.left = 0) || decide ((residenceAt s u e.residence).job = some e.job)) } }
  (evictedJobs s).foldl restoreOne s

/-- Every residence goes to its holder of the new epoch. -/
def assignResidences (s : State) : State :=
  let p := holderPlan s (epochOf (now s))
  let s0 := s
  let s := ([0, 1, 2, 3, 10, 11].filter (unitPresent s)).foldl (fun s u => (List.range 8).foldl (fun s r =>
    shedYield (setHolder s u r (KMap.get? p.1 (plotKey u r))) (residenceAt s0 u r) u r) s) s
  restoreIncoming s0 { s with sched.handOut := p.2 }

/-- The new slot table, members and counters of a unit. -/
def startEpochUnit (s : State) (u : Nat) : State :=
  if !unitPresent s u then s
  else
    let v := unitAt s u
    let ms := poolMembers s u
    let v := { v with slots := slotStart s u, poolSeen := 0, leasedSeen := [] }
    setUnit s u (if ms = v.members then v else { v with members := ms, ptr := 0, deficits := [] })

/-- Tenants that own a queue, ascending. -/
def owners (s : State) : List Nat := (tenants s).filter fun a => decide (queuesOf s a ≠ [])

/-- Gives free turns, lowest first, to allotments in order. -/
def giveTurns : List Nat → List Nat → KMap Nat → KMap Nat × List Nat
  | t :: ts, a :: as, m => giveTurns ts as (KMap.put m t a)
  | _, as, m => (m, as)

/-- The fetch-turn assignment: holders that still own a queue keep their turns, free turns go to members of the shared
rotation and then to newcomers, and the rest share (R51, R55). -/
def assignTurns (s : State) : State :=
  let own := owners s
  let kept := s.sched.dedicated.filter fun p => own.contains p.2 && !s.sched.freedTurns.contains p.1
  let rest := own.filter fun a => !kept.any fun p => decide (p.2 = a)
  let old := rest.filter s.sched.rotation.contains
  let fresh := rest.filter fun a => !s.sched.rotation.contains a
  let free := (List.range 240).filter fun t => decide (1 ≤ t) && !KMap.has kept t
  let p := giveTurns free (old ++ fresh) kept
  let s := { s with sched := { s.sched with
      dedicated := p.1, freedTurns := [], rotation := (owners s).filter p.2.contains } }
  (fresh.filter p.2.contains).foldl (fun s a => logYield s a 0xFFFF 3) s

/-- The services that take their membership at the boundary (R313, R413, R433). -/
def assignMembers (s : State) : State :=
  let l := owners s
  { s with fountain.nextMembers := l, journal.nextMembers := l, bridge.nextMembers := l }

/-- What changes at an epoch boundary. -/
def epochBoundary (s : State) : State :=
  let s := assignResidences (applyLeases (bistRejoin s))
  let s := (List.range 12).foldl startEpochUnit s
  startRetests (sundialEpoch (installImage (assignMembers (assignTurns s))))

end Sys2Proof.Machine
end

