-- ==== Sys2Proof/Machine/Tick.lean ====
section
/-! DEFINITION. A tick boundary: the slices of the ending tick reach their commit phases, what waits for the boundary
happens, and the bays of the new tick start; then the rows that act at a boundary (02_bandstand.md R31 to R36, R46 to
R48; 09_parterre.md R223 to R239; 10_parterre_isa.md R258 to R261; 11_control_stores.md R279 to R282). -/
namespace Sys2Proof.Machine
open Sys2Proof

/-! ## How a slice ends -/

/-- A job ends with a status in the next tick, its RESULT kept (R261, R282). -/
def failNext (s : State) (k : Nat) (st : Status) : State := modJob (failNow s k st) k (failJob (now s + 1) st)

/-- One slice fewer in a plan. (DEDUCED, log entry 47) -/
def planStep : List (UnitClass × Nat) → List (UnitClass × Nat)
  | (c, n) :: rest => if n ≤ 1 then rest else (c, n - 1) :: rest
  | [] => []

/-- A slice of a job has reached its commit phase (R33, R35, R235, R282). -/
def countSlice (s : State) (u k : Nat) : State :=
  let n := now s
  let s := modJob s k fun j => { j with
    done := j.done + 1, startTick := if j.done = 0 && !j.rerun then n else j.startTick, endTick := n, lastTick := n,
    abandons := 0, rerun := false, plan := planStep j.plan }
  if hasResidences u then
    match (KMap.get? s.jobs k).bind fun j => j.place with
    | some (_, r) => setResidence s u r { residenceAt s u r with lastUse := some n }
    | none => s
  else s

/-- A job that runs no more slices gives its residence back; which one it was stays with an Orangery job (R48, R210). -/
def leavePlace (s : State) (k : Nat) : State :=
  match KMap.get? s.jobs k with
  | some j =>
    match j.place with
    | some (u, r) =>
      modJob (freeResidence s j) k fun x => { x with place := none, index := if family j = 0x12 then plotKey u r else x.index }
    | none => s
  | none => s

/-- A job that no slice can repeat ends, and its event names the unit and the routine address (R282). -/
def endAbandoned (s : State) (u k : Nat) : State :=
  logEvent (failNext s k .internal) 3 0x0023 (BitVec.ofNat 16 (keyAllot k)) (BitVec.ofNat 8 u)
    (leBytes 4 (unitAt s u).lastRoutine.toNat)

/-- A counted abandonment; the third in a row ends the job, and the first where its context store is lost (R238, R282,
R283). -/
def abandonSlice (lost : Bool) (s : State) (u k : Nat) : State :=
  let s := modJob s k fun j => { repeatSlice (now s) j with abandons := j.abandons + 1 }
  let s := setUnit s u { unitAt s u with abandonments := (unitAt s u).abandonments + 1 }
  if !lost && decide (((KMap.get? s.jobs k).map fun j => j.abandons).getD 0 < 3) then s else endAbandoned s u k

/-- A fault of an Open routine, with its code and the word address of the instruction; its slice is already counted
(R261, R279). -/
def openFault (s : State) (u k code addr : Nat) : State :=
  match KMap.get? s.jobs k with
  | some j =>
    let s := modJob s k fun x => { x with result := BitVec.ofNat 128 (code + 2 ^ 32 * addr + 2 ^ 64 * j.done) }
    logEvent (failNext s k .openRoutine) 2 0x0021 (BitVec.ofNat 16 (keyAllot k)) (BitVec.ofNat 8 u)
      (leBytes 1 (operation j) ++ zeroBytes 1 ++ leBytes 2 code ++ leBytes 4 addr ++ leBytes 4 j.done)
  | none => s

/-- The slice context that COMMIT stores (R230). -/
def contextOfBody (b : Body) : SliceCtx :=
  { pc := b.pc, seg := b.seg, sregs := b.sregs, mregs := b.mregs, vl := b.vl, wide := b.wide, signed := b.signed, mode := b.mode, vmod := b.vmod,
    cores := b.cores }

/-- COMMIT: the context goes into the plot. -/
def storeContext (s : State) (b : Body) : State := setPlot s b.plot { plotAt s b.plot with ctx := contextOfBody b }

/-! ## CALLM (R233, R258) -/

/-- PSET, block bytes and digest bytes of a CALLM algorithm; no digest bytes for SHAKE. -/
def callmAlg : Nat → Nat × Nat × Nat
  | 0 => (0x0C, 168, 0)
  | 1 => (0x0D, 136, 0)
  | 2 => (0x09, 136, 32)
  | 3 => (0x0B, 72, 64)
  | 4 => (0x02, 64, 32)
  | _ => (0x04, 128, 64)

/-- What the Maze context has absorbed before a request. -/
def callmBefore (j : Job) (c : Callm) : List Byte :=
  if c.action = 0 ∨ c.action = 3 then [] else (j.maze.map fun m => m.absorbed).getD []

/-- Maze slices of a request: at least one, at 16 blocks each (R291). (DEDUCED, log entry 68) -/
def callmSlices (j : Job) (c : Callm) : Nat :=
  let (ps, r, _) := callmAlg c.alg
  let before := callmBefore j c
  let all := before ++ c.data
  let blocks :=
    if c.action < 2 then all.length / r - before.length / r
    else (if isSha2 ps then (sha2Pad r 0 all).length / r else all.length / r + 1) - before.length / r + (ceilDiv c.resultLen r - 1)
  max 1 (ceilDiv blocks 16)

/-- The bytes that a finalising request writes. -/
def callmResult (j : Job) (c : Callm) : List Byte :=
  let (ps, r, out) := callmAlg c.alg
  let all := callmBefore j c ++ c.data
  if out = 0 then sponge r 0x1F all c.resultLen else digestWhole ps r out all

/-- The Maze slices of a job's present request have run. -/
def requestRun (j : Job) : Bool := !(j.plan.head?.any fun p => decide (p.1 = .maze))

/-- The last Maze slice of a request: its result is in the plot from the next boundary, wherever the plot is. -/
def callmEnd (s : State) (k : Nat) : State :=
  match KMap.get? s.jobs k with
  | some j =>
    match j.callm, requestRun j with
    | some c, true =>
      let s := modJob s k fun x => { x with
        callm := none,
        maze := if c.action < 2 then some { alg := c.alg, absorbed := callmBefore j c ++ c.data } else none }
      if c.action < 2 then s
      else
        let b := callmResult j c
        if j.evicted then { s with evicted := KMap.adjust s.evicted k fun p => Plot.fill p c.resultAt b }
        else match j.place with
          | some (u, r) => setPlot s (plotKey u r) (Plot.fill (plotAt s (plotKey u r)) c.resultAt b)
          | none => s
    | _, _ => s
  | none => s

/-! ## The commit phase of each kind of slice -/

/-- The slice of an Open routine: what is left of its body runs, then END, COMMIT or a fault (R230, R231, R259 to R261,
R279). -/
def openSlice (s : State) (u k : Nat) : State :=
  match KMap.get? s.jobs k with
  | none => s
  | some j =>
    let m := runBody s j (bodyCycles + 1) (vmOf s (bodyAt s u))
    let b := m.body
    let s := countSlice (putVm s u m) u k
    match b.fault, b.outcome with
    | some code, _ => openFault s u k code b.pc
    | none, some (st, at', n) =>
      let out := Memory.readBytes (plotAt s b.plot).mem at' n
      leavePlace (modJob s k fun x => { x with phase := .finishing, plan := [], status := st, output := out }) k
    | none, none =>
      if ((routineOf s j).map fun r => r.sliceLimit).getD 0 ≤ j.done + 1 then openFault s u k 0x0105 (b.pc - 1)
      else
        let s := storeContext s b
        match b.callm with
        | some c => modJob s k fun x => { x with callm := some c, plan := [(.maze, callmSlices j c)] }
        | none => s

/-- COMMIT of a vendor routine: the context is stored, and a CALLM posts its request (R230, R233, R258). -/
def vendorCommit (s : State) (k : Nat) (b : Body) : State :=
  let s := storeContext s b
  match b.callm with
  | some c => modJob s k fun x => { x with
      callm := some c, plan := if requestRun x then (.maze, callmSlices x c) :: x.plan else x.plan }
  | none => s

/-- END of a vendor routine: no slice follows, its status and its output stand, and the residence is given back by the
commit phase (R230, R259). -/
def vendorEnd (s : State) (k : Nat) (b : Body) (st : Status) (at' n : Nat) : State :=
  modJob s k fun x => { x with
    plan := [], accepted := true, ended := some (st, Memory.readBytes (plotAt s b.plot).mem at' n) }

/-- A slice of a vendor routine on a parterre: END, COMMIT or a fault, which ends the job (R230, R259, R261, R281). Where
the commands have not run the body to its end, the plan tells what it does, and the address of its next slice is a free
value. (DESIGN CHOICE, log entry 67) -/
def vendorSlice (s : State) (u k : Nat) : State :=
  let b := bodyAt s u
  match b.fault with
  | some code =>
    logEvent (failNext (countSlice s u k) k .internal) 3 0x0022 (BitVec.ofNat 16 (keyAllot k)) (BitVec.ofNat 8 u)
      (leBytes 2 code ++ leBytes 4 (unitAt s u).lastRoutine.toNat)
  | none =>
    let s := countSlice s u k
    match b.outcome with
    | some (st, at', n) => vendorEnd s k b st at' n
    | none =>
      if b.committed then vendorCommit s k b
      else
        let pc := ((KMap.get? s.jobs k).map fun j => (freeAddress j).toNat % 2 ^ 16).getD 0
        storeContext s { b with pc := pc, seg := none }

/-- A Maze slice of an Open routine: it ends the request, and past the routine's limit of slices the job (R233, R279).
(DEDUCED, log entry 128) -/
def mazeSlice (s : State) (u k : Nat) : State :=
  let s := callmEnd (countSlice s u k) k
  match KMap.get? s.jobs k with
  | some j =>
    let last := ((j.place.map fun p => (plotAt s (plotKey p.1 p.2)).ctx.pc).getD
      (((KMap.get? s.evicted k).map fun p => p.ctx.pc).getD 0)) - 1
    if ((routineOf s j).map fun r => r.sliceLimit).getD 0 ≤ j.done then openFault s u k 0x0105 last else s
  | none => s

/-- A job with nothing left to run leaves its residence. -/
def leaveIfDone (s : State) (k : Nat) : State :=
  match KMap.get? s.jobs k with
  | some j => if j.plan = [] ∧ j.houseAfter = 0 ∧ isOpenJob j = false ∧ j.phase = .running then leavePlace s k else s
  | none => s

/-- A job's slice on a unit reaches its commit phase. (DEDUCED, log entry 69) -/
def commitSlice (s : State) (u k : Nat) : State :=
  match KMap.get? s.jobs k with
  | none => s
  | some j =>
    if j.phase ≠ .running then s
    else if isOpenJob j then (if u < 4 then openSlice s u k else mazeSlice s u k)
    else leaveIfDone (goOn (if u < 4 then vendorSlice s u k else callmEnd (countSlice s u k) k) k) k

/-! ## Housekeeping (R46, R47, R180, R181, R235) -/

/-- One slice of moving a residence out; with the last, its job is in the eviction area. -/
def moveOut (s : State) (u r k : Nat) : State :=
  let v := unitAt s u
  let left : Nat := ((v.evictions.find? fun e => decide (e.residence = r)).map fun e => e.left).getD 0
  let step : Eviction → Eviction := fun e => if e.residence = r then { e with left := e.left - 1 } else e
  let s := setUnit s u { v with evictions := (v.evictions.map step).filter fun e => decide (0 < e.left) || e.next.isSome }
  if left = 1 then evictJob s k else s

/-- One slice of moving a job in; with the last, the residence holds it. -/
def moveIn (s : State) (u r k : Nat) : State :=
  match KMap.get? s.jobs k with
  | some j =>
    if j.restoring = 0 then s
    else
      let s := modJob s k fun x => { x with restoring := x.restoring - 1, evicted := decide (1 < x.restoring) }
      if j.restoring = 1 then
        match KMap.get? s.evicted k with
        | some p => { setPlot s (plotKey u r) p with evicted := KMap.drop s.evicted k }
        | none => s
      else s
  | none => s

/-- One housekeeping slice of a stateful SIGN. -/
def houseOf (s : State) (k : Nat) : State :=
  modJob s k fun j =>
    if 0 < j.houseBefore then { j with houseBefore := j.houseBefore - 1, lastTick := now s }
    else { j with houseAfter := j.houseAfter - 1, lastTick := now s }

/-- What a housekeeping bay has done at its end. -/
def houseStep (s : State) (u : Nat) (b : Bay) : State :=
  match b.residence, b.job with
  | some r, some k =>
    if ((unitAt s u).evictions.any fun e => decide (e.residence = r) && decide (e.job = k) && decide (0 < e.left)) then moveOut s u r k
    else moveIn s u r k
  | none, some k => houseOf s k
  | _, none => s

/-! ## Mishaps (R229, R239, R282, R476) -/

/-- A mishap that abandons the slice running on a unit: one that arises before its commit phase (R283). -/
def strikes (u : Nat) : Mishap → Bool
  | .uncorrectable v _ _ c => decide (v.val = u) && decide (c.val < 576)
  | .maskFault v _ c => decide (v.val = u) && decide (c.val < 576)
  | _ => false

/-- A mishap that leaves the slice running on a unit no state to restart from (R283). -/
def ruins (u : Nat) : Mishap → Bool
  | .contextError v _ _ => decide (v.val = u)
  | _ => false

/-- Counts an error of a block by UNIT. -/
def countError (s : State) (u : Nat) (fixed : Bool) : State :=
  if u < 12 then
    let v := unitAt s u
    setUnit s u (if fixed then { v with corrected := v.corrected + 1 } else { v with uncorrectable := v.uncorrectable + 1 })
  else if fixed then { s with regs.corrected := KMap.put s.regs.corrected u (KMap.getD s.regs.corrected u 0 + 1) }
  else { s with regs.uncorrectable := KMap.put s.regs.uncorrectable u (KMap.getD s.regs.uncorrectable u 0 + 1) }

/-- A block of the device by UNIT number is present. -/
def blockThere (s : State) (u : Nat) : Bool := if u < 12 then unitPresent s u else decide (u ≠ 17) || hasBridge s

/-- What a mishap leaves behind besides the abandoned slice. -/
def mishap (s : State) (m : Mishap) : State :=
  match m with
  | .corrected u mem word =>
    if blockThere s u.val then
      logEvent (reportAer (countError s u.val true) 0 .correctedInternal 0) 1 0x0030 0xFFFF (BitVec.ofNat 8 u.val) (leBytes 1 mem.toNat ++ leBytes 4 word.toNat)
    else s
  | .uncorrectable u _ _ _ => if unitPresent s u.val then countError s u.val false else s
  | .contextError u _ _ => if unitPresent s u.val then countError s u.val false else s
  | .maskFault u cause _ =>
    if unitPresent s u.val then
      let s := setUnit s u.val { unitAt s u.val with mask := MaskGen.unseeded }
      consistencyEvent (logEvent s 3 0x0031 0xFFFF (BitVec.ofNat 8 u.val) (leBytes 1 (cause.val + 1)))
    else s
  | .swmRead r mem word =>
    let k := refKey r
    match KMap.get? s.jobs k with
    | some j =>
      if j.phase = .decided then s
      else
        logEvent (countError (if family j = 0xF0 then adminFail (adminUndo s j) k .internal 0 else failNow s k .internal) 13 false)
          3 0x0035 0xFFFF 13 (leBytes 1 mem.toNat ++ leBytes 4 word.toNat)
    | none => s

/-! ## The end of a bay -/

/-- An allotment's bay has run a slice: routine work, or a repeated slice as housekeeping (R48, R238, R511). -/
def chargeRun (s : State) (u a : Nat) (again : Bool) : State :=
  if again then
    let s := setUnit s u { unitAt s u with housekeeping := (unitAt s u).housekeeping + 1 }
    chargeUsage s a u fun x => { x with housekeeping := sat64 x.housekeeping }
  else
    let s := setUnit s u { unitAt s u with slices := (unitAt s u).slices + 1 }
    chargeUsage s a u fun x => { x with used := sat64 x.used }

/-- A slice of a unit ends: it commits, or it is abandoned. -/
def endSlice (ms : List Mishap) (u : Nat) (s : State) (k : Nat) : State :=
  if ms.any (ruins u) then abandonSlice true s u k
  else if ms.any (strikes u) then abandonSlice false s u k
  else commitSlice s u k

/-- The bay of a unit ends. -/
def endBay (ms : List Mishap) (s : State) (u : Nat) : State :=
  let v := unitAt s u
  match v.bay with
  | none => s
  | some b =>
    let a := b.allot.getD 0
    match b.kind with
    | .idle => setUnit s u { v with idleBays := v.idleBays + 1 }
    | .decoy => chargeUsage (setUnit s u { v with decoys := v.decoys + 1 }) a u fun x => { x with decoy := sat64 x.decoy }
    | .bist => s
    | .housekeeping =>
      let s := setUnit s u { v with housekeeping := v.housekeeping + 1 }
      houseStep (chargeUsage s a u fun x => { x with housekeeping := sat64 x.housekeeping }) u b
    | .leased | .pool | .lent =>
      if v.running = [] then s
      else
        let again := v.running.all fun k => (KMap.get? s.jobs k).any fun j => j.rerun
        let s := chargeRun s u a again
        let s := v.running.foldl (endSlice ms u) s
        if u < 4 then setBody s u Body.idle else s

/-- Every bay of the tick ends. A response of QUIESCE or above that acts at this boundary abandons the slices (R370). -/
def endBays (ms : List Mishap) (s : State) : State :=
  let s := if (s.gh.responses.any fun r => decide (r.tick ≤ now s) && decide (2 ≤ r.level)) then abandonRunning s else s
  let s := (List.range 12).foldl (endBay ms) s
  { s with units := s.units.map fun v => { v with bay := none, running := [] } }

/-! ## What a boundary does -/

/-- Residences that their zeroing has finished are free. (DEDUCED, log entry 24) -/
def zeroResidences (s : State) : State :=
  { s with
    units := s.units.map fun v => { v with residences := v.residences.map fun x =>
      if (x.zeroAt.any fun t => decide (t < now s)) then { x with zeroAt := none } else x },
    plots := KMap.keep s.plots fun k _ => !(residenceAt s (k / 8) (k % 8)).zeroAt.any fun t => decide (t ≤ now s) }

/-- A residence freed for a waiting job takes it, unless it is about to change its holder (R46, R47). -/
def settleEvictions (s : State) : State :=
  (List.range 12).foldl (fun s u =>
    let done := (unitAt s u).evictions.filter fun e =>
      decide (e.left = 0) && (residenceAt s u e.residence).zeroAt.isNone && (residenceAt s u e.residence).job.isNone
    done.foldl (fun s e =>
      let v := unitAt s u
      let s := setUnit s u { v with evictions := v.evictions.filter fun x => decide (x ≠ e) }
      match e.next.bind fun k => (KMap.get? s.jobs k).map fun j => (k, j) with
      | some (k, j) =>
        if awaitsPlace j && decide ((residenceAt s u e.residence).holder = some (keyAllot k)) &&
            !(unitAt s u).shedding.contains e.residence then placeJob s k j u e.residence
        else s
      | none => s) s) s

/-- A mask generator at a boundary: it squeezes, or asks for its first seed (R224, R225). -/
def maskTick (s : State) (u : Nat) : State :=
  let v := unitAt s u
  if !unitPresent s u || v.resetAt.isSome || v.inBist then s
  else if v.mask.seeded then
    if v.mask.restartAt ≤ now s then setUnit s u { v with mask := { v.mask with squeezeTick := v.mask.squeezeTick + 1 } } else s
  else if v.mask.requested then s
  else setUnit s u { v with mask := { v.mask with requested := true } }

/-- Resident shared jobs whose generator runs wait for no seed (R225). -/
def noteReady (s : State) : State :=
  { s with jobs := KMap.mapAll s.jobs fun _ j =>
      if j.shared && j.place.any (fun p => decide (4 ≤ p.1) || maskRuns s p.1) then { j with lastReady := now s } else j }

/-- The halt bits take hold at the boundary (R518). (DEDUCED, log entry 99) -/
def takeHalts (s : State) : State :=
  { s with units := s.units.mapIdx fun u v => { v with halted := s.lc.halt.getLsbD u } }

/-- The words of the BST view from 0x1018 on (R511, R512). -/
def viewOf (s : State) (a u : Nat) : List W64 :=
  match allotAt s a with
  | none => List.replicate 7 0
  | some x =>
    if !unitPresent s u then List.replicate 7 0
    else
      let v := unitAt s u
      let l := x.lease
      let use := KMap.getD x.usage u Usage.zero
      let pool := ((v.slots.find? fun e => decide (e.id = poolId)).map fun e => e.weight).getD 0
      let held := (v.residences.filter fun r => !r.pool && r.holder.isSome).length
      let kept := if hasResidences u then (v.residences.filter fun r => r.pool).length else 0
      [BitVec.ofNat 64 (l.parterre + 2 ^ 16 * l.maze + 2 ^ 32 * l.sha2 + 2 ^ 48 * l.orangery),
       BitVec.ofNat 64 (l.residences + 2 ^ 8 * l.quantum + 2 ^ 16 * bit x.pendingLease.isSome),
       BitVec.ofNat 64 use.used, BitVec.ofNat 64 use.housekeeping, BitVec.ofNat 64 use.decoy, BitVec.ofNat 64 use.lent,
       BitVec.ofNat 64 ((4096 - pool) + 2 ^ 16 * pool + 2 ^ 32 * v.members.length + 2 ^ 44 * held + 2 ^ 48 * kept)]

/-- The registers that show the last boundary (R507, R511). -/
def takeViews (s : State) : State :=
  let sel := s.regs.bstSelNext.getD s.regs.bstSel
  let quotas := (s.allots.filter fun p => decide (1 ≤ p.1)).foldl (fun n p => n + p.2.quota) 0
  { s with regs := { s.regs with
      bstSel := sel, bstSelNext := none, view := viewOf s (bitsOf sel.toNat 11 0) (bitsOf sel.toNat 15 12),
      inflightView := s.jobs.length + 2 ^ 16 * quotas } }

/-- The boundary that begins tick n + 1, up to the start of its bays. -/
def crossBoundary (ms : List Mishap) (s : State) : State :=
  let s := endBays ms s
  let s := respond { s with sched := { s.sched with tick := s.sched.tick + 1, served := [] } }
  if s.boot.stage < 4 then s
  else
    let s := ms.foldl mishap (endRejoin s)
    let s := if offsetOf (now s) = 0 then epochBoundary s else s
    let s := settleEvictions (zeroResidences (settle s))
    issueAll (takeViews (takeHalts (noteReady ((List.range 4).foldl maskTick (eventNotice (moderateAll (emitOutputs (sendHeld s))))))))

/-- One tick: nothing ticks before BSTCLK is released at stage 4; a fatal dump goes on in place of the bays.
(DEDUCED, log entry 20) -/
def tick (ms : List Mishap) (s : State) : State :=
  if s.boot.stage < 4 then s
  else
    let n := now s
    let s := crossBoundary ms s
    if s.dump.active.isSome then dumpStep s
    else if now s = n + 1 ∧ s.boot.ready then gateClocks ((List.range 12).foldl startBay s)
    else s

/-! ## The rows -/

/-- TICK (R31). (DEDUCED, log entry 21; DESIGN CHOICE, log entry 109) -/
def execTick (mishaps : List Mishap) (s : State) : Host.Outcome State Fault Refusal := .next (tick mishaps s)

/-- EPOCH_BOUNDARY: the tick boundary that ends an epoch (R32). (DEDUCED, log entry 19) -/
def execEpochBoundary (s : State) : Host.Outcome State Fault Refusal :=
  .next (if decide (offsetOf (now s) = 4095) then tick [] s else s)

/-- Changes a mask generator. -/
def modMask (s : State) (u : Nat) (f : MaskGen → MaskGen) : State := setUnit s u { unitAt s u with mask := f (unitAt s u).mask }

/-- MASK_SEED_REQUEST (R224). -/
def execMaskSeedRequest (unit : Fin 4) (s : State) : Host.Outcome State Fault Refusal :=
  let m := (unitAt s unit.val).mask
  .next (if m.seeded && !m.standby && !m.requested && decide (657 ≤ m.squeezeTick) then
      modMask s unit.val fun m => { m with requested := true }
    else s)

/-- MASK_STATE_SWAP: the standby state becomes active; one that has no seed leaves the generator unseeded (R224, R225). -/
def execMaskStateSwap (unit : Fin 4) (s : State) : Host.Outcome State Fault Refusal :=
  let m := (unitAt s unit.val).mask
  .next (if m.seeded && decide (1312 ≤ m.squeezeTick) then
      modMask s unit.val fun m =>
        if m.standby then { m with standby := false, squeezeTick := m.squeezeTick - 1311 }
        else { MaskGen.unseeded with requested := m.requested, delivered := m.delivered }
    else s)

/-- MASK_SEED_ARRIVAL (R224, R225). -/
def execMaskSeedArrival (unit : Fin 4) (s : State) : Host.Outcome State Fault Refusal :=
  .next (if (unitAt s unit.val).mask.delivered then
      modMask s unit.val fun m =>
        if m.seeded then { m with standby := true, requested := false, delivered := false }
        else { m with seeded := true, squeezeTick := 0, restartAt := now s + 1, requested := false, delivered := false }
    else s)

/-- SHARED_JOB_ENTROPY_TIMEOUT (R225). -/
def execSharedJobEntropyTimeout (r : JobRef) (s : State) : Host.Outcome State Fault Refusal :=
  let k := refKey r
  .next (match KMap.get? s.jobs k with
    | some j =>
      let held := (decide (j.phase = .running) && j.shared) || (decide (j.phase = .ready) && (factsD s k j).shared)
      if held && j.place.any (fun p => decide (p.1 < 4) && !maskSeeded s p.1) && decide (j.lastReady + 262144 ≤ now s) then
        failNow s k .entropyFailed
      else s
    | none => s)

/-! ## Waiting for a residence (R47, R112, R235) -/

/-- The residences of an allotment on a unit whose jobs can be moved out. -/
def evictable (s : State) (a u : Nat) : List Nat :=
  (List.range 8).filter fun r =>
    let x := residenceAt s u r
    decide (x.holder = some a) && !(unitAt s u).shedding.contains r && !((unitAt s u).evictions.any fun e => decide (e.residence = r)) &&
      x.job.any fun k => (KMap.get? s.jobs k).any fun j => decide (j.restoring = 0)

/-- The least recently used of them: one that has run no slice first, a tie to the lower number. -/
def leastUsed (s : State) (u : Nat) (l : List Nat) : Option Nat :=
  (sortBy (fun r => ((residenceAt s u r).lastUse.map (· + 1)).getD 0) l).head?

/-- A waiting job has an eviction under way. -/
def evictionFor (s : State) (k : Nat) : Bool := s.units.any fun v => v.evictions.any fun e => decide (e.next = some k)

/-- RESIDENCE_WAIT_EXPIRY: one of the allotment's residences begins to move out for a job that has waited 64 ticks (R47). -/
def execResidenceWaitExpiry (r : JobRef) (s : State) : Host.Outcome State Fault Refusal :=
  let k := refKey r
  .next (match KMap.get? s.jobs k with
    | some j =>
      let a := keyAllot k
      match (factsD s k j).placed with
      | some c =>
        if awaitsPlace j && decide (j.waitFrom + 64 ≤ now s) && (choosePlace s a c).isNone && !evictionFor s k &&
            (j.evicted || decide (jobsWithState s a < stateLimit s a)) then
          match (classUnits s c).find? fun u => unitOpen s u && decide (evictable s a u ≠ []) with
          | some u =>
            match leastUsed s u (evictable s a u) with
            | some n =>
              match (residenceAt s u n).job with
              | some x =>
                let v := unitAt s u
                setUnit s u { v with evictions := v.evictions ++ [{ job := x, residence := n, left := moveSlices u, next := some k }] }
              | none => s
            | none => s
          | none => s
        else s
      | none => s
    | none => s)

/-! ## Dispatch (R94, R103, R153, R289) -/

/-- An admin command: an entry of allotment 0's queue 0 that no check has turned away. -/
def isCommand (k : Nat) (j : Job) : Bool :=
  decide (k / 4096 = 0) && decide (family j = 0xF0) && !(decide (j.phase = .decided) && decide (j.dispatchOrder = 0))

/-- No admin command is before this one; an ABORT waits for none (R103). (DEDUCED, log entry 39) -/
def adminTurn (s : State) (k : Nat) (j : Job) : Bool :=
  isOpcode 0xF008 j || !s.jobs.any fun p => decide (p.1 ≠ k) && isCommand p.1 p.2 && decide (p.2.order < j.order)

/-- The generator that a shared job is held for has its seed (R153). (DEDUCED, log entry 50) -/
def seedFor (s : State) (j : Job) : Bool :=
  match j.place with
  | some (u, _) => if u < 4 then maskSeeded s u else [0, 1, 2, 3].any fun v => maskSeeded s v
  | none => [0, 1, 2, 3].any fun v => maskSeeded s v

/-- The job is dispatched in this tick. -/
def dispatchJob (s : State) (k : Nat) : State :=
  let s := { s with sched.dispatchSeq := s.sched.dispatchSeq + 1 }
  let s := modJob s k fun x => flagIf (inSolo s) flagSolo { x with
    phase := .dispatched, dispatch := now s, dispatchOrder := s.sched.dispatchSeq }
  match KMap.get? s.jobs k with
  | some j =>
    if family j = 0xF0 ∧ (isOpcode 0xF008 j = false ∨ s.regs.admJob = none) then { s with regs.admJob := some k } else s
  | none => s

/-- JOB_DISPATCH: at the first boundary after its input is in place and what holds it has gone (R94). A job that needs
the Fountain after its start-up has expired fails (R318). -/
def execJobDispatch (r : JobRef) (s : State) : Host.Outcome State Fault Refusal :=
  let k := refKey r
  .next (match KMap.get? s.jobs k with
    | some j =>
      let admin := decide (family j = 0xF0)
      if decide (j.phase = .ready) && decide (j.lastReady < now s) && s.dump.active.isNone && !contextBusy s k j &&
          (!admin || adminTurn s k j) then
        if needsRandom s k j && !s.fountain.ready then
          if s.fountain.startupExpired then (if admin then adminFail s k .entropyFailed 0 else failNow s k .entropyFailed) else s
        else if !admin && (factsD s k j).shared && !seedFor s j then s
        else dispatchJob s k
      else s
    | none => s)

end Sys2Proof.Machine
end

