-- ==== Sys2Proof/Machine/Dispatch.lean ====
section
/-! DEFINITION. One arm per command: the meaning of each row of the opcode table. -/
namespace Sys2Proof.Machine
open Sys2Proof

/-- The effect of a command on everything but the queue. -/
def exec (i : Instr) (s : State) : Host.Outcome State Fault Refusal :=
  match i with
  | .powerOnReset power => Sys2Proof.Machine.execPowerOnReset power s
  | .batteryInsertion => Sys2Proof.Machine.execBatteryInsertion s
  | .porstNRelease straps => Sys2Proof.Machine.execPorstNRelease straps s
  | .resetStageRelease agree => Sys2Proof.Machine.execResetStageRelease agree s
  | .corePllLock => Sys2Proof.Machine.execCorePllLock s
  | .pllLockTimeout => Sys2Proof.Machine.execPllLockTimeout s
  | .watchdogExpiry => Sys2Proof.Machine.execWatchdogExpiry s
  | .globalReset value => Sys2Proof.Machine.execGlobalReset value s
  | .thermalTrip => Sys2Proof.Machine.execThermalTrip s
  | .thermalHoldEnd => Sys2Proof.Machine.execThermalHoldEnd s
  | .bootGo => Sys2Proof.Machine.execBootGo s
  | .bootStepComplete report => Sys2Proof.Machine.execBootStepComplete report s
  | .linkReset perst => Sys2Proof.Machine.execLinkReset perst s
  | .linkResetEnd => Sys2Proof.Machine.execLinkResetEnd s
  | .configRequest func offset enables write => Sys2Proof.Machine.execConfigRequest func offset enables write s
  | .flr vf => Sys2Proof.Machine.execFlr vf s
  | .bmeCleared func => Sys2Proof.Machine.execBmeCleared func s
  | .bmeSet func => Sys2Proof.Machine.execBmeSet func s
  | .d3hotEntry func => Sys2Proof.Machine.execD3hotEntry func s
  | .vfEnable numVfs => Sys2Proof.Machine.execVfEnable numVfs s
  | .vfDisable numVfs => Sys2Proof.Machine.execVfDisable numVfs s
  | .msixUnmask func vector => Sys2Proof.Machine.execMsixUnmask func vector s
  | .bar0AccessSize func offset enables write => Sys2Proof.Machine.execBar0AccessSize func offset enables write s
  | .registerWrite offset wide value => Sys2Proof.Machine.execRegisterWrite offset wide value s
  | .aerError error func header => Sys2Proof.Machine.execAerError error func header s
  | .hostReadError read cause address => Sys2Proof.Machine.execHostReadError read cause address s
  | .readCompletionTimeout read address => Sys2Proof.Machine.execReadCompletionTimeout read address s
  | .lateCompletion allot => Sys2Proof.Machine.execLateCompletion allot s
  | .postedCreditStall => Sys2Proof.Machine.execPostedCreditStall s
  | .postedCreditReturn => Sys2Proof.Machine.execPostedCreditReturn s
  | .doorbell func covered => Sys2Proof.Machine.execDoorbell func covered s
  | .scanRestart allot queue => Sys2Proof.Machine.execScanRestart allot queue s
  | .limitResume allot queue => Sys2Proof.Machine.execLimitResume allot queue s
  | .descriptorReadIssue allot queue => Sys2Proof.Machine.execDescriptorReadIssue allot queue s
  | .entryArrival allot queue bytes => Sys2Proof.Machine.execEntryArrival allot queue bytes s
  | .dataReadArrival r bytes => Sys2Proof.Machine.execDataReadArrival r bytes s
  | .jobPlacement r => Sys2Proof.Machine.execJobPlacement r s
  | .residenceWaitExpiry r => Sys2Proof.Machine.execResidenceWaitExpiry r s
  | .jobDispatch r => Sys2Proof.Machine.execJobDispatch r s
  | .jobCompletion r => Sys2Proof.Machine.execJobCompletion r s
  | .msixModeration allot queue => Sys2Proof.Machine.execMsixModeration allot queue s
  | .tick mishaps => Sys2Proof.Machine.execTick mishaps s
  | .epochBoundary => Sys2Proof.Machine.execEpochBoundary s
  | .maskSeedRequest unit => Sys2Proof.Machine.execMaskSeedRequest unit s
  | .maskStateSwap unit => Sys2Proof.Machine.execMaskStateSwap unit s
  | .maskSeedArrival unit => Sys2Proof.Machine.execMaskSeedArrival unit s
  | .sharedJobEntropyTimeout r => Sys2Proof.Machine.execSharedJobEntropyTimeout r s
  | .allotCreate r => Sys2Proof.Machine.execAllotCreate r s
  | .allotDestroy r => Sys2Proof.Machine.execAllotDestroy r s
  | .allotBind r => Sys2Proof.Machine.execAllotBind r s
  | .queueCreate r => Sys2Proof.Machine.execQueueCreate r s
  | .queueDestroy r => Sys2Proof.Machine.execQueueDestroy r s
  | .leaseSet r => Sys2Proof.Machine.execLeaseSet r s
  | .windowSet r => Sys2Proof.Machine.execWindowSet r s
  | .abortJobs r => Sys2Proof.Machine.execAbortJobs r s
  | .abortReservationDetach r => Sys2Proof.Machine.execAbortReservationDetach r s
  | .keyAdminDestroy r => Sys2Proof.Machine.execKeyAdminDestroy r s
  | .keyAdminDescribe r => Sys2Proof.Machine.execKeyAdminDescribe r s
  | .keyReservationDetach r => Sys2Proof.Machine.execKeyReservationDetach r s
  | .openLoad r => Sys2Proof.Machine.execOpenLoad r s
  | .curvePolicy r => Sys2Proof.Machine.execCurvePolicy r s
  | .timeSet r => Sys2Proof.Machine.execTimeSet r s
  | .tamperConfig r => Sys2Proof.Machine.execTamperConfig r s
  | .tamperClear r => Sys2Proof.Machine.execTamperClear r s
  | .lcAdvance r => Sys2Proof.Machine.execLcAdvance r s
  | .debugUnlockNonce r => Sys2Proof.Machine.execDebugUnlockNonce r s
  | .debugUnlockToken r => Sys2Proof.Machine.execDebugUnlockToken r s
  | .bistRun r => Sys2Proof.Machine.execBistRun r s
  | .bistPartStart => Sys2Proof.Machine.execBistPartStart s
  | .bistPartEnd signature => Sys2Proof.Machine.execBistPartEnd signature s
  | .rngRawMode r => Sys2Proof.Machine.execRngRawMode r s
  | .vaultFormat r dies found => Sys2Proof.Machine.execVaultFormat r dies found s
  | .vaultMount r dies found => Sys2Proof.Machine.execVaultMount r dies found s
  | .vaultUnmount r => Sys2Proof.Machine.execVaultUnmount r s
  | .twinPair r => Sys2Proof.Machine.execTwinPair r s
  | .twinPairTimeout => Sys2Proof.Machine.execTwinPairTimeout s
  | .twinSolo r => Sys2Proof.Machine.execTwinSolo r s
  | .twinRejoin r => Sys2Proof.Machine.execTwinRejoin r s
  | .rejoinTimeout => Sys2Proof.Machine.execRejoinTimeout s
  | .patchStatus r => Sys2Proof.Machine.execPatchStatus r s
  | .attestEnrol r => Sys2Proof.Machine.execAttestEnrol r s
  | .mlKemKeygen r => Sys2Proof.Machine.execMlKemKeygen r s
  | .mlKemEncaps r => Sys2Proof.Machine.execMlKemEncaps r s
  | .mlKemDecaps r => Sys2Proof.Machine.execMlKemDecaps r s
  | .mlDsaKeygen r => Sys2Proof.Machine.execMlDsaKeygen r s
  | .mlDsaSign r => Sys2Proof.Machine.execMlDsaSign r s
  | .mlDsaVerify r => Sys2Proof.Machine.execMlDsaVerify r s
  | .mlDsaSignPh r => Sys2Proof.Machine.execMlDsaSignPh r s
  | .mlDsaVerifyPh r => Sys2Proof.Machine.execMlDsaVerifyPh r s
  | .fnDsaSign r => Sys2Proof.Machine.execFnDsaSign r s
  | .fnDsaVerify r => Sys2Proof.Machine.execFnDsaVerify r s
  | .fnDsaSignPh r => Sys2Proof.Machine.execFnDsaSignPh r s
  | .fnDsaVerifyPh r => Sys2Proof.Machine.execFnDsaVerifyPh r s
  | .slhDsaKeygen r => Sys2Proof.Machine.execSlhDsaKeygen r s
  | .slhDsaSign r => Sys2Proof.Machine.execSlhDsaSign r s
  | .slhDsaVerify r => Sys2Proof.Machine.execSlhDsaVerify r s
  | .slhDsaSignPh r => Sys2Proof.Machine.execSlhDsaSignPh r s
  | .slhDsaVerifyPh r => Sys2Proof.Machine.execSlhDsaVerifyPh r s
  | .lmsKeygen r => Sys2Proof.Machine.execLmsKeygen r s
  | .lmsSign r => Sys2Proof.Machine.execLmsSign r s
  | .lmsVerify r => Sys2Proof.Machine.execLmsVerify r s
  | .xmssKeygen r => Sys2Proof.Machine.execXmssKeygen r s
  | .xmssSign r => Sys2Proof.Machine.execXmssSign r s
  | .xmssVerify r => Sys2Proof.Machine.execXmssVerify r s
  | .mcelieceKeygen r => Sys2Proof.Machine.execMcelieceKeygen r s
  | .mcelieceEncaps r => Sys2Proof.Machine.execMcelieceEncaps r s
  | .mcelieceDecaps r => Sys2Proof.Machine.execMcelieceDecaps r s
  | .keyReside r => Sys2Proof.Machine.execKeyReside r s
  | .hqcKeygen r => Sys2Proof.Machine.execHqcKeygen r s
  | .hqcEncaps r => Sys2Proof.Machine.execHqcEncaps r s
  | .hqcDecaps r => Sys2Proof.Machine.execHqcDecaps r s
  | .ecdsaKeygen r => Sys2Proof.Machine.execEcdsaKeygen r s
  | .ecdsaSign r => Sys2Proof.Machine.execEcdsaSign r s
  | .ecdsaVerify r => Sys2Proof.Machine.execEcdsaVerify r s
  | .ecdhAgree r => Sys2Proof.Machine.execEcdhAgree r s
  | .curveLoad r => Sys2Proof.Machine.execCurveLoad r s
  | .curveUnload r => Sys2Proof.Machine.execCurveUnload r s
  | .edwardsKeygen r => Sys2Proof.Machine.execEdwardsKeygen r s
  | .edwardsSign r => Sys2Proof.Machine.execEdwardsSign r s
  | .edwardsVerify r => Sys2Proof.Machine.execEdwardsVerify r s
  | .montgomeryAgree r => Sys2Proof.Machine.execMontgomeryAgree r s
  | .rsaSignV15 r => Sys2Proof.Machine.execRsaSignV15 r s
  | .rsaVerifyV15 r => Sys2Proof.Machine.execRsaVerifyV15 r s
  | .rsaSignPss r => Sys2Proof.Machine.execRsaSignPss r s
  | .rsaVerifyPss r => Sys2Proof.Machine.execRsaVerifyPss r s
  | .rsaEncryptOaep r => Sys2Proof.Machine.execRsaEncryptOaep r s
  | .rsaDecryptOaep r => Sys2Proof.Machine.execRsaDecryptOaep r s
  | .bnAdd r => Sys2Proof.Machine.execBnAdd r s
  | .bnSub r => Sys2Proof.Machine.execBnSub r s
  | .bnMul r => Sys2Proof.Machine.execBnMul r s
  | .bnInv r => Sys2Proof.Machine.execBnInv r s
  | .bnExp r => Sys2Proof.Machine.execBnExp r s
  | .bnClear r => Sys2Proof.Machine.execBnClear r s
  | .digestInit r => Sys2Proof.Machine.execDigestInit r s
  | .keyedInit r => Sys2Proof.Machine.execKeyedInit r s
  | .digestUpdate r => Sys2Proof.Machine.execDigestUpdate r s
  | .digestFinal r => Sys2Proof.Machine.execDigestFinal r s
  | .stateExport r => Sys2Proof.Machine.execStateExport r s
  | .stateImport r => Sys2Proof.Machine.execStateImport r s
  | .keyedStateImport r => Sys2Proof.Machine.execKeyedStateImport r s
  | .keyedPrepare r => Sys2Proof.Machine.execKeyedPrepare r s
  | .releaseSlot r => Sys2Proof.Machine.execReleaseSlot r s
  | .sealPubkey r => Sys2Proof.Machine.execSealPubkey r s
  | .sealOpen r => Sys2Proof.Machine.execSealOpen r s
  | .importKey r => Sys2Proof.Machine.execImportKey r s
  | .authImport r => Sys2Proof.Machine.execAuthImport r s
  | .generateKey r => Sys2Proof.Machine.execGenerateKey r s
  | .wrap r => Sys2Proof.Machine.execWrap r s
  | .unwrap r => Sys2Proof.Machine.execUnwrap r s
  | .publicPart r => Sys2Proof.Machine.execPublicPart r s
  | .destroyKey r => Sys2Proof.Machine.execDestroyKey r s
  | .describeKey r => Sys2Proof.Machine.execDescribeKey r s
  | .fumelQuote r => Sys2Proof.Machine.execFumelQuote r s
  | .notarise r => Sys2Proof.Machine.execNotarise r s
  | .journalKey r => Sys2Proof.Machine.execJournalKey r s
  | .openRoutineCall r => Sys2Proof.Machine.execOpenRoutineCall r s
  | .vsetvl unit rd rs1 => Sys2Proof.Machine.execVsetvl unit rd rs1 s
  | .vsettype unit type => Sys2Proof.Machine.execVsettype unit type s
  | .vsetmod unit rs1 => Sys2Proof.Machine.execVsetmod unit rs1 s
  | .vlds unit rd rs1 rs2 mask => Sys2Proof.Machine.execVlds unit rd rs1 rs2 mask s
  | .vsts unit rd rs1 rs2 mask => Sys2Proof.Machine.execVsts unit rd rs1 rs2 mask s
  | .vxfer unit rd rs1 rs2 toSwm rowLength => Sys2Proof.Machine.execVxfer unit rd rs1 rs2 toSwm rowLength s
  | .vadd unit rd rs1 rs2 mask => Sys2Proof.Machine.execVadd unit rd rs1 rs2 mask s
  | .vsub unit rd rs1 rs2 mask => Sys2Proof.Machine.execVsub unit rd rs1 rs2 mask s
  | .vneg unit rd rs1 mask => Sys2Proof.Machine.execVneg unit rd rs1 mask s
  | .vred unit rd rs1 mask => Sys2Proof.Machine.execVred unit rd rs1 mask s
  | .vmul unit rd rs1 rs2 mask => Sys2Proof.Machine.execVmul unit rd rs1 rs2 mask s
  | .vmac unit rd rs1 rs2 mask => Sys2Proof.Machine.execVmac unit rd rs1 rs2 mask s
  | .vmulc unit rd rs1 rs2 mask => Sys2Proof.Machine.execVmulc unit rd rs1 rs2 mask s
  | .vand unit rd rs1 rs2 mask => Sys2Proof.Machine.execVand unit rd rs1 rs2 mask s
  | .vor unit rd rs1 rs2 mask => Sys2Proof.Machine.execVor unit rd rs1 rs2 mask s
  | .vxor unit rd rs1 rs2 mask => Sys2Proof.Machine.execVxor unit rd rs1 rs2 mask s
  | .vsll unit rd rs1 mask amount => Sys2Proof.Machine.execVsll unit rd rs1 mask amount s
  | .vsrl unit rd rs1 mask amount => Sys2Proof.Machine.execVsrl unit rd rs1 mask amount s
  | .vsra unit rd rs1 mask amount => Sys2Proof.Machine.execVsra unit rd rs1 mask amount s
  | .vrol unit rd rs1 mask amount => Sys2Proof.Machine.execVrol unit rd rs1 mask amount s
  | .vbflyCt unit rd rs1 rs2 mask stream low => Sys2Proof.Machine.execVbflyCt unit rd rs1 rs2 mask stream low s
  | .vbflyGs unit rd rs1 rs2 mask stream low => Sys2Proof.Machine.execVbflyGs unit rd rs1 rs2 mask stream low s
  | .vperm unit rd rs1 mask selector => Sys2Proof.Machine.execVperm unit rd rs1 mask selector s
  | .vcmp unit rd rs1 rs2 fn => Sys2Proof.Machine.execVcmp unit rd rs1 rs2 fn s
  | .vcompress unit rd rs1 rs2 mask => Sys2Proof.Machine.execVcompress unit rd rs1 rs2 mask s
  | .vxofInit unit core shake256 => Sys2Proof.Machine.execVxofInit unit core shake256 s
  | .vxofAbsorb unit rs1 core => Sys2Proof.Machine.execVxofAbsorb unit rs1 core s
  | .vxofFinalise unit core => Sys2Proof.Machine.execVxofFinalise unit core s
  | .vsampu unit rd core dest => Sys2Proof.Machine.execVsampu unit rd core dest s
  | .vcbd unit rd core eta => Sys2Proof.Machine.execVcbd unit rd core eta s
  | .vsplit unit rd rs1 => Sys2Proof.Machine.execVsplit unit rd rs1 s
  | .vrefresh unit rd rs1 => Sys2Proof.Machine.execVrefresh unit rd rs1 s
  | .vunmask unit rd rs1 mask => Sys2Proof.Machine.execVunmask unit rd rs1 mask s
  | .vpublish unit rd rs1 mask => Sys2Proof.Machine.execVpublish unit rd rs1 mask s
  | .vunmaskM unit rd rs1 => Sys2Proof.Machine.execVunmaskM unit rd rs1 s
  | .vpublishM unit rd rs1 => Sys2Proof.Machine.execVpublishM unit rd rs1 s
  | .va2b unit rd rs1 => Sys2Proof.Machine.execVa2b unit rd rs1 s
  | .vb2a unit rd rs1 => Sys2Proof.Machine.execVb2a unit rd rs1 s
  | .vmand unit rd rs1 rs2 => Sys2Proof.Machine.execVmand unit rd rs1 rs2 s
  | .vmor unit rd rs1 rs2 => Sys2Proof.Machine.execVmor unit rd rs1 rs2 s
  | .vmeq unit rd rs1 rs2 => Sys2Proof.Machine.execVmeq unit rd rs1 rs2 s
  | .vmbnd unit rd rs1 rs2 => Sys2Proof.Machine.execVmbnd unit rd rs1 rs2 s
  | .vmcomp unit rd rs1 rs2 => Sys2Proof.Machine.execVmcomp unit rd rs1 rs2 s
  | .vmdcmp unit rd rs1 rs2 => Sys2Proof.Machine.execVmdcmp unit rd rs1 rs2 s
  | .kload unit rd rs1 => Sys2Proof.Machine.execKload unit rd rs1 s
  | .sadd unit rd rs1 rs2 => Sys2Proof.Machine.execSadd unit rd rs1 rs2 s
  | .ssub unit rd rs1 rs2 => Sys2Proof.Machine.execSsub unit rd rs1 rs2 s
  | .sand unit rd rs1 rs2 => Sys2Proof.Machine.execSand unit rd rs1 rs2 s
  | .sor unit rd rs1 rs2 => Sys2Proof.Machine.execSor unit rd rs1 rs2 s
  | .sxor unit rd rs1 rs2 => Sys2Proof.Machine.execSxor unit rd rs1 rs2 s
  | .ssll unit rd rs1 rs2 => Sys2Proof.Machine.execSsll unit rd rs1 rs2 s
  | .ssrl unit rd rs1 rs2 => Sys2Proof.Machine.execSsrl unit rd rs1 rs2 s
  | .sli unit rd imm => Sys2Proof.Machine.execSli unit rd imm s
  | .slih unit rd imm => Sys2Proof.Machine.execSlih unit rd imm s
  | .saddi unit rd rs1 imm => Sys2Proof.Machine.execSaddi unit rd rs1 imm s
  | .sbne unit rs1 rs2 offset => Sys2Proof.Machine.execSbne unit rs1 rs2 offset s
  | .sbeq unit rs1 rs2 offset => Sys2Proof.Machine.execSbeq unit rs1 rs2 offset s
  | .commitSlice unit => Sys2Proof.Machine.execCommitSlice unit s
  | .endRoutine unit rs1 rs2 mask status => Sys2Proof.Machine.execEndRoutine unit rs1 rs2 mask status s
  | .callmStartAbsorb unit rd rs1 rs2 alg length => Sys2Proof.Machine.execCallmStartAbsorb unit rd rs1 rs2 alg length s
  | .callmAbsorb unit rd rs1 rs2 alg length => Sys2Proof.Machine.execCallmAbsorb unit rd rs1 rs2 alg length s
  | .callmAbsorbFinalise unit rd rs1 rs2 alg length => Sys2Proof.Machine.execCallmAbsorbFinalise unit rd rs1 rs2 alg length s
  | .callmStartFinalise unit rd rs1 rs2 alg length => Sys2Proof.Machine.execCallmStartFinalise unit rd rs1 rs2 alg length s
  | .blockReset unit hang => Sys2Proof.Machine.execBlockReset unit hang s
  | .blockResetReturn unit => Sys2Proof.Machine.execBlockResetReturn unit s
  | .fatalError memory word => Sys2Proof.Machine.execFatalError memory word s
  | .dumpWindowExpiry => Sys2Proof.Machine.execDumpWindowExpiry s
  | .eventRecordWrite => Sys2Proof.Machine.execEventRecordWrite s
  | .evtEnable value => Sys2Proof.Machine.execEvtEnable value s
  | .evtNoticeClear => Sys2Proof.Machine.execEvtNoticeClear s
  | .evtNoticeSet => Sys2Proof.Machine.execEvtNoticeSet s
  | .ffcValidClear => Sys2Proof.Machine.execFfcValidClear s
  | .admRingEnable value => Sys2Proof.Machine.execAdmRingEnable value s
  | .admRingDisable => Sys2Proof.Machine.execAdmRingDisable s
  | .admDrainEnd => Sys2Proof.Machine.execAdmDrainEnd s
  | .bstSelWrite value => Sys2Proof.Machine.execBstSelWrite value s
  | .ghAlertClear value => Sys2Proof.Machine.execGhAlertClear value s
  | .dbgHalt value => Sys2Proof.Machine.execDbgHalt value s
  | .jtagOtpProgram item => Sys2Proof.Machine.execJtagOtpProgram item s
  | .jtagDumpReadout => Sys2Proof.Machine.execJtagDumpReadout s
  | .smbusReadWord command => Sys2Proof.Machine.execSmbusReadWord command s
  | .smbusAlertResponse => Sys2Proof.Machine.execSmbusAlertResponse s
  | .rngLimitWrite corr value => Sys2Proof.Machine.execRngLimitWrite corr value s
  | .rngPatternEnable enable => Sys2Proof.Machine.execRngPatternEnable enable s
  | .sdlThreshWrite value => Sys2Proof.Machine.execSdlThreshWrite value s
  | .startupExpired => Sys2Proof.Machine.execStartupExpired s
  | .healthTestFailure cell proportion index => Sys2Proof.Machine.execHealthTestFailure cell proportion index s
  | .testWindowEnd cell ones equal index => Sys2Proof.Machine.execTestWindowEnd cell ones equal index s
  | .chunkPeriod chunks => Sys2Proof.Machine.execChunkPeriod chunks s
  | .generateSlot => Sys2Proof.Machine.execGenerateSlot s
  | .drawTimeout r => Sys2Proof.Machine.execDrawTimeout r s
  | .refreshGeneratorReseed generator => Sys2Proof.Machine.execRefreshGeneratorReseed generator s
  | .icehouseHoldExpired r => Sys2Proof.Machine.execIcehouseHoldExpired r s
  | .icehouseResume => Sys2Proof.Machine.execIcehouseResume s
  | .hardEvent source readingA readingB => Sys2Proof.Machine.execHardEvent source readingA readingB s
  | .softEvent source readingA readingB => Sys2Proof.Machine.execSoftEvent source readingA readingB s
  | .excursionEnd source => Sys2Proof.Machine.execExcursionEnd source s
  | .rateWindowEnd source => Sys2Proof.Machine.execRateWindowEnd source s
  | .detectorDisagreement source => Sys2Proof.Machine.execDetectorDisagreement source s
  | .tamperResponse => Sys2Proof.Machine.execTamperResponse s
  | .quiesceEnd => Sys2Proof.Machine.execQuiesceEnd s
  | .lodgeAlarmWhileOff source => Sys2Proof.Machine.execLodgeAlarmWhileOff source s
  | .appendSlot die => Sys2Proof.Machine.execAppendSlot die s
  | .housekeepingMediaSlot die => Sys2Proof.Machine.execHousekeepingMediaSlot die s
  | .eraseSlot die => Sys2Proof.Machine.execEraseSlot die s
  | .pageProgramDone page pass => Sys2Proof.Machine.execPageProgramDone page pass s
  | .codewordDecode die block page outcome => Sys2Proof.Machine.execCodewordDecode die block page outcome s
  | .fifoTailTimeout die block page got => Sys2Proof.Machine.execFifoTailTimeout die block page got s
  | .dieTimeout die => Sys2Proof.Machine.execDieTimeout die s
  | .blockRefresh die block => Sys2Proof.Machine.execBlockRefresh die block s
  | .scrubDue die block => Sys2Proof.Machine.execScrubDue die block s
  | .headSignatureReady => Sys2Proof.Machine.execHeadSignatureReady s
  | .journalExportWrite => Sys2Proof.Machine.execJournalExportWrite s
  | .jxEnable => Sys2Proof.Machine.execJxEnable s
  | .jxDisable => Sys2Proof.Machine.execJxDisable s
  | .jxReplay => Sys2Proof.Machine.execJxReplay s
  | .linkUp => Sys2Proof.Machine.execLinkUp s
  | .linkDown => Sys2Proof.Machine.execLinkDown s
  | .linkRetrain => Sys2Proof.Machine.execLinkRetrain s
  | .fbPresentChange present => Sys2Proof.Machine.execFbPresentChange present s
  | .linkNakTimeout => Sys2Proof.Machine.execLinkNakTimeout s
  | .bridgeSlot => Sys2Proof.Machine.execBridgeSlot s
  | .hello head payload => Sys2Proof.Machine.execHello head payload s
  | .kemEk head payload => Sys2Proof.Machine.execKemEk head payload s
  | .kemCt head payload => Sys2Proof.Machine.execKemCt head payload s
  | .authFrame head payload => Sys2Proof.Machine.execAuthFrame head payload s
  | .stateItem head payload => Sys2Proof.Machine.execStateItem head payload s
  | .stateEnd head payload => Sys2Proof.Machine.execStateEnd head payload s
  | .prepare head payload => Sys2Proof.Machine.execPrepare head payload s
  | .ack head payload => Sys2Proof.Machine.execAck head payload s
  | .nak head payload => Sys2Proof.Machine.execNak head payload s
  | .frameCommit head payload => Sys2Proof.Machine.execFrameCommit head payload s
  | .abandon head payload => Sys2Proof.Machine.execAbandon head payload s
  | .commitTimeout tseq => Sys2Proof.Machine.execCommitTimeout tseq s
  | .heartbeat head payload => Sys2Proof.Machine.execHeartbeat head payload s
  | .heartbeatDeadline => Sys2Proof.Machine.execHeartbeatDeadline s
  | .tamperNotice head payload => Sys2Proof.Machine.execTamperNotice head payload s
  | .solo head payload => Sys2Proof.Machine.execSolo head payload s
  | .linkNak head payload => Sys2Proof.Machine.execLinkNak head payload s
  | .linkNonce head payload => Sys2Proof.Machine.execLinkNonce head payload s
  | .rejoinReq head payload => Sys2Proof.Machine.execRejoinReq head payload s
  | .replay head payload => Sys2Proof.Machine.execReplay head payload s
  | .replayEnd head payload => Sys2Proof.Machine.execReplayEnd head payload s
  | .sundialMeasurement sites avs temp => Sys2Proof.Machine.execSundialMeasurement sites avs temp s
  | .stepUpWindowEnd => Sys2Proof.Machine.execStepUpWindowEnd s
  | .glitchReferenceUpdate settled => Sys2Proof.Machine.execGlitchReferenceUpdate settled s
  | .thermalThrottle readingA readingB => Sys2Proof.Machine.execThermalThrottle readingA readingB s
  | .thermalCapEnd => Sys2Proof.Machine.execThermalCapEnd s
  | .historyPeriodic => Sys2Proof.Machine.execHistoryPeriodic s
  | .batteryRemoval => Sys2Proof.Machine.execBatteryRemoval s
  | .lpoCycle mesh cases vbat => Sys2Proof.Machine.execLpoCycle mesh cases vbat s
  | .linkTrainingEnd speed width => Sys2Proof.Machine.execLinkTrainingEnd speed width s
  | .d0Return func => Sys2Proof.Machine.execD0Return func s
  | .eraseDone die pass => Sys2Proof.Machine.execEraseDone die pass s

end Sys2Proof.Machine
end

