-- ==== Sys2Proof/Safety.lean ====
section
/-! DEFINITION. The words in which the claims are stated: what is answered, the rows of a family with the opcodes, words
and operations that they carry out, and the invariants of the machine. -/
namespace Sys2Proof.Machine
open Sys2Proof

/-- A command is answered: with a next state, neither a fault nor a refusal. -/
def answers (c : Instr) (s : State) : Prop := ∃ t, exec c s = .next t

/-- Nothing is under way that a tick boundary would carry on: no job, tamper response, destruction, freed queue, self-test,
commit, rejoin, running slice, move of a residence or fatal dump. -/
def quiet (s : State) : Prop :=
  s.jobs = [] ∧ s.gh.responses = [] ∧ s.gh.executing ≠ 6 ∧ s.dump.active = none ∧ s.bist.running = false ∧
    s.bridge.commits = [] ∧ s.bridge.staged = [] ∧ s.bridge.rejoining = false ∧
    (s.allots.all fun p => !p.2.destroying) = true ∧ (s.queues.all fun p => !p.2.closing) = true ∧
    (s.units.all fun v => v.bay.isNone && decide (v.evictions = []) && decide (v.running = [])) = true

/-- What every full reset leaves: nothing released, ready or running; every clock domain but LPO and TCK is in reset;
the Lodge's evidence, the OTP and what the media hold stay; the waiting commands stay. -/
def restarted (cause : Nat) (s t : State) : Prop :=
  t.boot.stage = 0 ∧ t.boot.ready = false ∧ t.boot.sysReady = false ∧ t.boot.cause = BitVec.ofNat 8 cause ∧
    t.jobs = [] ∧ t.queues = [] ∧ t.allots = [] ∧ t.ice = Ice.reset ∧ t.regs = Regs.reset ∧ t.digests = [] ∧ t.curves = [] ∧
    t.plots = [] ∧ t.stores = Stores.reset ∧ t.events = EventLog.reset ∧ t.otp = s.otp ∧
    t.lodge.sticky = s.lodge.sticky ∧ t.lodge.holds = s.lodge.holds ∧ t.lodge.ring = s.lodge.ring ∧
    t.lodge.secTime = s.lodge.secTime ∧ t.vault.mounted = false ∧ t.vault.media.journal = s.vault.media.journal ∧
    t.vault.media.image = s.vault.media.image ∧ t.clocks = fullResetClocks s.clocks ∧ t.pending = s.pending

/-- The opcodes of the jobs that reserve more than an engine at their start: stateful SIGN, QUOTE, NOTARISE, DESTROY. -/
def reservingOpcodes : List Nat := [0x0502, 0x0602, 0x300B, 0x3801, 0x3009]

/-! ## The rows of the job families (Tables 6-1 to 14-10) -/

/-- The rows of the job families 0x01 to 0x06 with their opcodes. -/
def jobRowsA : List ((JobRef → Instr) × List Nat) :=
  [(.mlKemKeygen, [0x0101]), (.mlKemEncaps, [0x0102]), (.mlKemDecaps, [0x0103]), (.mlDsaKeygen, [0x0201]),
   (.mlDsaSign, [0x0202]), (.mlDsaVerify, [0x0203]), (.mlDsaSignPh, [0x0204]), (.mlDsaVerifyPh, [0x0205]),
   (.fnDsaSign, [0x0302]), (.fnDsaVerify, [0x0303]), (.fnDsaSignPh, [0x0304]), (.fnDsaVerifyPh, [0x0305]),
   (.slhDsaKeygen, [0x0401]), (.slhDsaSign, [0x0402]), (.slhDsaVerify, [0x0403]), (.slhDsaSignPh, [0x0404]),
   (.slhDsaVerifyPh, [0x0405]), (.lmsKeygen, [0x0501]), (.lmsSign, [0x0502]), (.lmsVerify, [0x0503]),
   (.xmssKeygen, [0x0601]), (.xmssSign, [0x0602]), (.xmssVerify, [0x0603])]

/-- The rows of the job families 0x07 to 0x13 with their opcodes. -/
def jobRowsB : List ((JobRef → Instr) × List Nat) :=
  [(.mcelieceKeygen, [0x0701]), (.mcelieceEncaps, [0x0702]), (.mcelieceDecaps, [0x0703]), (.keyReside, [0x0704]),
   (.hqcKeygen, [0x0801]), (.hqcEncaps, [0x0802]), (.hqcDecaps, [0x0803]), (.ecdsaKeygen, [0x1001]),
   (.ecdsaSign, [0x1002]), (.ecdsaVerify, [0x1003]), (.ecdhAgree, [0x1004]), (.curveLoad, [0x1005]),
   (.curveUnload, [0x1006]), (.edwardsKeygen, [0x1101]), (.edwardsSign, [0x1102]), (.edwardsVerify, [0x1103]),
   (.montgomeryAgree, [0x1104]), (.rsaSignV15, [0x1201]), (.rsaVerifyV15, [0x1202]), (.rsaSignPss, [0x1203]),
   (.rsaVerifyPss, [0x1204]), (.rsaEncryptOaep, [0x1205]), (.rsaDecryptOaep, [0x1206]), (.bnAdd, [0x1301]),
   (.bnSub, [0x1302]), (.bnMul, [0x1303]), (.bnInv, [0x1304]), (.bnExp, [0x1305]), (.bnClear, [0x1306])]

/-- The rows of the job families 0x20 to 0x38 with their opcodes. -/
def jobRowsC : List ((JobRef → Instr) × List Nat) :=
  [(.digestInit, [0x2001]), (.keyedInit, [0x2101]), (.digestUpdate, [0x2002, 0x2102]),
   (.digestFinal, [0x2003, 0x2103]), (.stateExport, [0x2004, 0x2104]), (.stateImport, [0x2005]),
   (.keyedStateImport, [0x2105]), (.keyedPrepare, [0x2106]), (.releaseSlot, [0x2107]), (.sealPubkey, [0x3001]),
   (.sealOpen, [0x3002]), (.importKey, [0x3003]), (.authImport, [0x3004]), (.generateKey, [0x3005]),
   (.wrap, [0x3006]), (.unwrap, [0x3007]), (.publicPart, [0x3008]), (.destroyKey, [0x3009]),
   (.describeKey, [0x300A]), (.fumelQuote, [0x300B]), (.notarise, [0x3801]), (.journalKey, [0x3802])]

/-- Every row that starts a job, with the opcodes of the jobs that it starts; family 0x40 is the Open routines'. -/
def jobRows : List ((JobRef → Instr) × List Nat) :=
  jobRowsA ++ jobRowsB ++ jobRowsC ++ [(.openRoutineCall, (List.range 256).map (0x4000 + ·))]

/-! ## The rows of the Parterre instructions (Table 10-4) -/

/-- The unit, the word and the operation of a command that issues a Parterre instruction. -/
def isaOp : Instr → Option (Nat × W32 × Op)
  | .vsetvl unit rd rs1 => some (unit.val, (encodeV 0x01 rd.toNat rs1.toNat 0 0 0), (opVsetvl rd.toNat rs1.toNat))
  | .vsettype unit type => some (unit.val, (encodeV 0x02 0 0 0 0 type.toNat), (opVsettype type.toNat))
  | .vsetmod unit rs1 => some (unit.val, (encodeV 0x03 0 rs1.toNat 0 0 0), (opVsetmod rs1.toNat))
  | .vlds unit rd rs1 rs2 mask =>
    some (unit.val, (encodeV 0x04 rd.toNat rs1.toNat rs2.toNat mask.toNat 0), (opVlds rd.toNat rs1.toNat rs2.toNat mask.toNat))
  | .vsts unit rd rs1 rs2 mask =>
    some (unit.val, (encodeV 0x05 rd.toNat rs1.toNat rs2.toNat mask.toNat 0), (opVsts rd.toNat rs1.toNat rs2.toNat mask.toNat))
  | .vxfer unit rd rs1 rs2 toSwm rowLength =>
    some (unit.val, (encodeV 0x06 rd.toNat rs1.toNat rs2.toNat (bit toSwm) rowLength.toNat), (opVxfer rd.toNat rs1.toNat rs2.toNat (bit toSwm) rowLength.toNat))
  | .vadd unit rd rs1 rs2 mask =>
    some (unit.val, (encodeV 0x08 rd.toNat rs1.toNat rs2.toNat mask.toNat 0x00), (opVadd rd.toNat rs1.toNat rs2.toNat mask.toNat))
  | .vsub unit rd rs1 rs2 mask =>
    some (unit.val, (encodeV 0x08 rd.toNat rs1.toNat rs2.toNat mask.toNat 0x01), (opVsub rd.toNat rs1.toNat rs2.toNat mask.toNat))
  | .vneg unit rd rs1 mask =>
    some (unit.val, (encodeV 0x08 rd.toNat rs1.toNat 0 mask.toNat 0x02), (opVneg rd.toNat rs1.toNat mask.toNat))
  | .vred unit rd rs1 mask =>
    some (unit.val, (encodeV 0x08 rd.toNat rs1.toNat 0 mask.toNat 0x03), (opVred rd.toNat rs1.toNat mask.toNat))
  | .vmul unit rd rs1 rs2 mask =>
    some (unit.val, (encodeV 0x09 rd.toNat rs1.toNat rs2.toNat mask.toNat 0x00), (opVmul rd.toNat rs1.toNat rs2.toNat mask.toNat))
  | .vmac unit rd rs1 rs2 mask =>
    some (unit.val, (encodeV 0x09 rd.toNat rs1.toNat rs2.toNat mask.toNat 0x01), (opVmac rd.toNat rs1.toNat rs2.toNat mask.toNat))
  | .vmulc unit rd rs1 rs2 mask =>
    some (unit.val, (encodeV 0x09 rd.toNat rs1.toNat rs2.toNat mask.toNat 0x02), (opVmulc rd.toNat rs1.toNat rs2.toNat mask.toNat))
  | .vand unit rd rs1 rs2 mask =>
    some (unit.val, (encodeV 0x0A rd.toNat rs1.toNat rs2.toNat mask.toNat 0x00), (opVand rd.toNat rs1.toNat rs2.toNat mask.toNat))
  | .vor unit rd rs1 rs2 mask =>
    some (unit.val, (encodeV 0x0A rd.toNat rs1.toNat rs2.toNat mask.toNat 0x01), (opVor rd.toNat rs1.toNat rs2.toNat mask.toNat))
  | .vxor unit rd rs1 rs2 mask =>
    some (unit.val, (encodeV 0x0A rd.toNat rs1.toNat rs2.toNat mask.toNat 0x02), (opVxor rd.toNat rs1.toNat rs2.toNat mask.toNat))
  | .vsll unit rd rs1 mask amount =>
    some (unit.val, (encodeV 0x0B rd.toNat rs1.toNat 0 mask.toNat (0 + amount.toNat)), (opVsll rd.toNat rs1.toNat mask.toNat amount.toNat))
  | .vsrl unit rd rs1 mask amount =>
    some (unit.val, (encodeV 0x0B rd.toNat rs1.toNat 0 mask.toNat (64 + amount.toNat)), (opVsrl rd.toNat rs1.toNat mask.toNat amount.toNat))
  | .vsra unit rd rs1 mask amount =>
    some (unit.val, (encodeV 0x0B rd.toNat rs1.toNat 0 mask.toNat (128 + amount.toNat)), (opVsra rd.toNat rs1.toNat mask.toNat amount.toNat))
  | .vrol unit rd rs1 mask amount =>
    some (unit.val, (encodeV 0x0B rd.toNat rs1.toNat 0 mask.toNat (192 + amount.toNat)), (opVrol rd.toNat rs1.toNat mask.toNat amount.toNat))
  | .vbflyCt unit rd rs1 rs2 mask stream low =>
    some (unit.val, (encodeV 0x0C rd.toNat rs1.toNat rs2.toNat mask.toNat (128 * bit stream + 0 + low.toNat)), (opVbflyCt rd.toNat rs1.toNat rs2.toNat mask.toNat stream low.toNat))
  | .vbflyGs unit rd rs1 rs2 mask stream low =>
    some (unit.val, (encodeV 0x0C rd.toNat rs1.toNat rs2.toNat mask.toNat (128 * bit stream + 64 + low.toNat)), (opVbflyGs rd.toNat rs1.toNat rs2.toNat mask.toNat stream low.toNat))
  | .vperm unit rd rs1 mask selector =>
    some (unit.val, (encodeV 0x0D rd.toNat rs1.toNat 0 mask.toNat selector.toNat), (opVperm rd.toNat rs1.toNat mask.toNat selector.toNat))
  | .vcmp unit rd rs1 rs2 fn =>
    some (unit.val, (encodeV 0x0E rd.toNat rs1.toNat rs2.toNat 0 fn.toNat), (opVcmp rd.toNat rs1.toNat rs2.toNat fn.toNat))
  | .vcompress unit rd rs1 rs2 mask =>
    some (unit.val, (encodeV 0x0F rd.toNat rs1.toNat rs2.toNat mask.toNat 0), (opVcompress rd.toNat rs1.toNat rs2.toNat mask.toNat))
  | .vxofInit unit core shake256 =>
    some (unit.val, (encodeV 0x10 0 0 0 0 (32 * bit shake256 + 16 * core.val)), (opVxofInit core.val shake256))
  | .vxofAbsorb unit rs1 core =>
    some (unit.val, (encodeV 0x10 0 rs1.toNat 0 0 (0x40 + 16 * core.val)), (opVxofAbsorb rs1.toNat core.val))
  | .vxofFinalise unit core =>
    some (unit.val, (encodeV 0x10 0 0 0 0 (0x80 + 16 * core.val)), (opVxofFinalise core.val))
  | .vsampu unit rd core dest =>
    some (unit.val, (encodeV 0x11 rd.toNat 0 0 0 (16 * core.val + dest.toNat)), (opVsampu rd.toNat core.val dest.toNat))
  | .vcbd unit rd core eta =>
    some (unit.val, (encodeV 0x12 rd.toNat 0 0 0 (16 * core.val + eta.toNat)), (opVcbd rd.toNat core.val eta.toNat))
  | .vsplit unit rd rs1 => some (unit.val, (encodeV 0x14 rd.toNat rs1.toNat 0 0 0x00), (opVsplit rd.toNat rs1.toNat))
  | .vrefresh unit rd rs1 =>
    some (unit.val, (encodeV 0x14 rd.toNat rs1.toNat 0 0 0x01), (opVrefresh rd.toNat rs1.toNat))
  | .vunmask unit rd rs1 mask =>
    some (unit.val, (encodeV 0x14 rd.toNat rs1.toNat 0 mask.toNat 0x02), (opVunmask rd.toNat rs1.toNat mask.toNat))
  | .vpublish unit rd rs1 mask =>
    some (unit.val, (encodeV 0x14 rd.toNat rs1.toNat 0 mask.toNat 0x03), (opVpublish rd.toNat rs1.toNat mask.toNat))
  | .vunmaskM unit rd rs1 =>
    some (unit.val, (encodeV 0x14 rd.toNat rs1.toNat 0 0 0x04), (opVunmaskM rd.toNat rs1.toNat))
  | .vpublishM unit rd rs1 =>
    some (unit.val, (encodeV 0x14 rd.toNat rs1.toNat 0 0 0x05), (opVpublishM rd.toNat rs1.toNat))
  | .va2b unit rd rs1 => some (unit.val, (encodeV 0x15 rd.toNat rs1.toNat 0 0 0x00), (opVa2b rd.toNat rs1.toNat))
  | .vb2a unit rd rs1 => some (unit.val, (encodeV 0x15 rd.toNat rs1.toNat 0 0 0x01), (opVb2a rd.toNat rs1.toNat))
  | .vmand unit rd rs1 rs2 =>
    some (unit.val, (encodeV 0x15 rd.toNat rs1.toNat rs2.toNat 0 0x02), (opVmand rd.toNat rs1.toNat rs2.toNat))
  | .vmor unit rd rs1 rs2 =>
    some (unit.val, (encodeV 0x15 rd.toNat rs1.toNat rs2.toNat 0 0x03), (opVmor rd.toNat rs1.toNat rs2.toNat))
  | .vmeq unit rd rs1 rs2 =>
    some (unit.val, (encodeV 0x15 rd.toNat rs1.toNat rs2.toNat 0 0x04), (opVmeq rd.toNat rs1.toNat rs2.toNat))
  | .vmbnd unit rd rs1 rs2 =>
    some (unit.val, (encodeV 0x15 rd.toNat rs1.toNat rs2.toNat 0 0x05), (opVmbnd rd.toNat rs1.toNat rs2.toNat))
  | .vmcomp unit rd rs1 rs2 =>
    some (unit.val, (encodeV 0x15 rd.toNat rs1.toNat rs2.toNat 0 0x06), (opVmcomp rd.toNat rs1.toNat rs2.toNat))
  | .vmdcmp unit rd rs1 rs2 =>
    some (unit.val, (encodeV 0x15 rd.toNat rs1.toNat rs2.toNat 0 0x07), (opVmdcmp rd.toNat rs1.toNat rs2.toNat))
  | .kload unit rd rs1 => some (unit.val, (encodeV 0x18 rd.toNat rs1.toNat 0 0 0), (opKload rd.toNat rs1.toNat))
  | .sadd unit rd rs1 rs2 =>
    some (unit.val, (encodeV 0x20 rd.toNat rs1.toNat rs2.toNat 0 0), (opSadd rd.toNat rs1.toNat rs2.toNat))
  | .ssub unit rd rs1 rs2 =>
    some (unit.val, (encodeV 0x20 rd.toNat rs1.toNat rs2.toNat 0 1), (opSsub rd.toNat rs1.toNat rs2.toNat))
  | .sand unit rd rs1 rs2 =>
    some (unit.val, (encodeV 0x20 rd.toNat rs1.toNat rs2.toNat 0 2), (opSand rd.toNat rs1.toNat rs2.toNat))
  | .sor unit rd rs1 rs2 =>
    some (unit.val, (encodeV 0x20 rd.toNat rs1.toNat rs2.toNat 0 3), (opSor rd.toNat rs1.toNat rs2.toNat))
  | .sxor unit rd rs1 rs2 =>
    some (unit.val, (encodeV 0x20 rd.toNat rs1.toNat rs2.toNat 0 4), (opSxor rd.toNat rs1.toNat rs2.toNat))
  | .ssll unit rd rs1 rs2 =>
    some (unit.val, (encodeV 0x20 rd.toNat rs1.toNat rs2.toNat 0 5), (opSsll rd.toNat rs1.toNat rs2.toNat))
  | .ssrl unit rd rs1 rs2 =>
    some (unit.val, (encodeV 0x20 rd.toNat rs1.toNat rs2.toNat 0 6), (opSsrl rd.toNat rs1.toNat rs2.toNat))
  | .sli unit rd imm => some (unit.val, (encodeS 0x21 rd.toNat 0 imm.toNat), (opSli rd.toNat imm))
  | .slih unit rd imm => some (unit.val, (encodeS 0x22 rd.toNat 0 imm.toNat), (opSlih rd.toNat imm))
  | .saddi unit rd rs1 imm =>
    some (unit.val, (encodeS 0x23 rd.toNat rs1.toNat imm.toNat), (opSaddi rd.toNat rs1.toNat imm))
  | .sbne unit rs1 rs2 offset =>
    some (unit.val, (encodeB 0x24 rs1.toNat rs2.toNat offset.toNat), (opSbne rs1.toNat rs2.toNat offset))
  | .sbeq unit rs1 rs2 offset =>
    some (unit.val, (encodeB 0x25 rs1.toNat rs2.toNat offset.toNat), (opSbeq rs1.toNat rs2.toNat offset))
  | .commitSlice unit => some (unit.val, commitWord, opCommit)
  | .endRoutine unit rs1 rs2 mask status =>
    some (unit.val, (encodeV 0x31 0 rs1.toNat rs2.toNat mask.toNat status.toNat), (opEnd rs1.toNat rs2.toNat mask.toNat status.toNat))
  | .callmStartAbsorb unit rd rs1 rs2 alg length =>
    some (unit.val, (encodeV 0x32 rd.toNat rs1.toNat rs2.toNat alg.toNat (0 + length.toNat)), (opCallm 0 rd.toNat rs1.toNat rs2.toNat alg.toNat length.toNat))
  | .callmAbsorb unit rd rs1 rs2 alg length =>
    some (unit.val, (encodeV 0x32 rd.toNat rs1.toNat rs2.toNat alg.toNat (64 + length.toNat)), (opCallm 1 rd.toNat rs1.toNat rs2.toNat alg.toNat length.toNat))
  | .callmAbsorbFinalise unit rd rs1 rs2 alg length =>
    some (unit.val, (encodeV 0x32 rd.toNat rs1.toNat rs2.toNat alg.toNat (128 + length.toNat)), (opCallm 2 rd.toNat rs1.toNat rs2.toNat alg.toNat length.toNat))
  | .callmStartFinalise unit rd rs1 rs2 alg length =>
    some (unit.val, (encodeV 0x32 rd.toNat rs1.toNat rs2.toNat alg.toNat (192 + length.toNat)), (opCallm 3 rd.toNat rs1.toNat rs2.toNat alg.toNat length.toNat))
  | _ => none

/-- A body differs from another only in one vector register, in elements below VL: every other register, the scalars, the
masks and the plot stay. -/
def onlyRegister (m x : Vm) (rd : Nat) : Prop :=
  (∀ r j, r ≠ rd → j < vlMax m.body.wide → elemAt x r j = elemAt m r j ∧ vmode x r = vmode m r) ∧
    (∀ j, m.body.vl ≤ j → j < vlMax m.body.wide → elemAt x rd j = elemAt m rd j) ∧
    x.body.sregs = m.body.sregs ∧ x.body.mregs = m.body.mregs ∧ x.body.cores = m.body.cores ∧ x.body.vl = m.body.vl ∧
    x.body.pc = m.body.pc ∧ x.plot = m.plot

/-- A body whose elements are unshared residues of 32 bits under a legal modulus. -/
def plainBody (m : Vm) : Prop :=
  m.body.mode = .unshared ∧ m.body.wide = false ∧ m.body.signed = false ∧ m.body.vl ≤ 256 ∧ 3 ≤ m.body.vmod ∧
    m.body.vmod < 2 ^ 31 ∧ ∀ r, vmode m r = .unshared

/-- A body in one shared mode of 32 bits under a legal modulus, with unsigned values. -/
def sharedBody (m : Vm) (d : ShareMode) : Prop :=
  m.body.mode = d ∧ d ≠ .unshared ∧ m.body.wide = false ∧ m.body.signed = false ∧ m.body.vl ≤ 256 ∧ 3 ≤ m.body.vmod ∧
    m.body.vmod < 2 ^ 31

/-! ## The rows of the admin commands (Table 5-3) -/

/-- The rows of admin commands with their commands and the entries of the opcode that are theirs; the token step of
DEBUG_UNLOCK and the Vault's two commands, which carry what is found on the media, stand apart. -/
def adminRows : List ((JobRef → Instr) × AdminCmd × (Job → Bool)) :=
  [(.allotCreate, cmdAllotCreate, anyEntry), (.allotDestroy, cmdAllotDestroy, anyEntry), (.allotBind, cmdAllotBind, anyEntry),
   (.queueCreate, cmdQueueCreate, anyEntry), (.queueDestroy, cmdQueueDestroy, anyEntry), (.leaseSet, cmdLeaseSet, anyEntry),
   (.windowSet, cmdWindowSet, anyEntry), (.abortJobs, cmdAbort, anyEntry),
   (.keyAdminDestroy, cmdKeyDestroy, fun j => decide (inlineField j 56 1 ≠ 2)),
   (.keyAdminDescribe, cmdKeyDescribe, fun j => decide (inlineField j 56 1 = 2)), (.openLoad, cmdOpenLoad, anyEntry),
   (.curvePolicy, cmdCurvePolicy, anyEntry), (.timeSet, cmdTimeSet, anyEntry), (.tamperConfig, cmdTamperConfig, anyEntry),
   (.tamperClear, cmdTamperClear, anyEntry), (.lcAdvance, cmdLcAdvance, anyEntry),
   (.debugUnlockNonce, cmdDebugNonce, fun j => decide (j.entry.aux.toNat = 0)), (.bistRun, cmdBistRun, anyEntry),
   (.rngRawMode, cmdRngRawMode, anyEntry), (.vaultUnmount, cmdVaultUnmount, fun j => decide (inlineField j 48 1 ≠ 1)),
   (.twinPair, cmdTwinPair, anyEntry), (.twinSolo, cmdTwinSolo, anyEntry), (.twinRejoin, cmdTwinRejoin, anyEntry),
   (.patchStatus, cmdPatchStatus, anyEntry), (.attestEnrol, cmdAttestEnrol, anyEntry)]

/-- A dispatched entry of an admin command that passes the gates of R108 and the command's own preconditions, on a
device where it needs no commit with the twin. -/
def adminReady (c : AdminCmd) (s : State) (r : JobRef) (j : Job) : Prop :=
  KMap.get? s.jobs (refKey r) = some j ∧ j.phase = .dispatched ∧ j.entry.opcode.toNat = c.opcode ∧ j.status = .ok ∧
    j.waits = [] ∧ j.draws = [] ∧ j.index = 0 ∧ adminFailure c s j = none ∧ (mirrors s && c.markS j) = false

/-- An admin command has completed with an EFFECT and DETAIL: a success, with output `out`. -/
def adminDone (t : State) (r : JobRef) (effect detail : Nat) (out : List Byte) : Prop :=
  ∃ x, KMap.get? t.jobs (refKey r) = some x ∧ x.phase = .decided ∧ isSuccess x.status = true ∧ x.reason = 0 ∧
    x.effect = BitVec.ofNat 64 effect ∧ x.detail = BitVec.ofNat 48 detail ∧ x.output = out ∧ x.decidedAt = now t

/-- An admin command runs and waits for these records. -/
def adminAwaits (t : State) (r : JobRef) (ids : List Nat) : Prop :=
  ∃ x, KMap.get? t.jobs (refKey r) = some x ∧ x.phase = .running ∧ x.waits = ids.map Wait.record

/-- An admin command whose draws (`stage` 1) or records (`stage` 0) are all there. -/
def adminResumes (c : AdminCmd) (s : State) (r : JobRef) (j : Job) (stage : Nat) : Prop :=
  KMap.get? s.jobs (refKey r) = some j ∧ j.phase = .running ∧ j.status = .ok ∧ j.waits = [] ∧ j.draws = [] ∧ j.index = 0 ∧
    j.remaining = stage ∧ j.entry.opcode.toNat = c.opcode ∧ mirrors s = false

/-! ## The Footbridge's messages (Table 19-3) -/

/-- The row of a frame whose whole message must stand next in the sequence; LINK_NONCE has its own rule. -/
def messageRow (h : FrameHead) (p : List Byte) (c : Instr) : Prop :=
  c = .hello h p ∨ c = .kemEk h p ∨ c = .kemCt h p ∨ c = .authFrame h p ∨ c = .stateItem h p ∨ c = .stateEnd h p ∨
    c = .prepare h p ∨ c = .ack h p ∨ c = .nak h p ∨ c = .frameCommit h p ∨ c = .abandon h p ∨ c = .heartbeat h p ∨
    c = .tamperNotice h p ∨ c = .solo h p ∨ c = .linkNak h p ∨ c = .rejoinReq h p ∨ c = .replay h p ∨ c = .replayEnd h p

/-- A frame that a listening Footbridge accepts: it passed its check and is the next in the sequence. -/
def takesFrame (s : State) (h : FrameHead) : Prop :=
  bridgeListens s = true ∧ h.intact = true ∧ h.first.toNat = s.bridge.fseqIn + 1 ∧ h.first ≤ h.last

/-- Nothing waits that a settling would carry on: no job, destruction, freed queue, self-test, commit or staged change. -/
def atRest (s : State) : Prop :=
  s.jobs = [] ∧ s.gh.executing ≠ 6 ∧ s.bist.running = false ∧ s.bridge.commits = [] ∧ s.bridge.staged = [] ∧
    (s.allots.all fun p => !p.2.destroying) = true ∧ (s.queues.all fun p => !p.2.closing) = true

/-! ## What every step keeps -/

/-- No life-cycle bit of the OTP has been cleared. -/
def lifeBitsKept (s t : State) : Prop :=
  ∀ w b, w < 4 → (s.otp.lcWords.getD w 0).getLsbD b = true → (t.otp.lcWords.getD w 0).getLsbD b = true

end Sys2Proof.Machine
end

