-- ==== Sys2Proof/Certificates/Slice0/Obligations.lean ====
section
/-! DEFINITION. What is claimed of the model, for the provers: one proposition for each claim. A clause that says which
next state a command answers states the whole state, and with it that everything else stays. -/
open Sys2Proof Sys2Proof.Machine

/-! ## The block as a machine -/

/-- A step runs the command at the front of the queue on the state with the queue's rest. -/
def Obligations.StepRunsFront : Prop :=
  ∀ (c : Instr) (s : State), step (s.push c) = exec c s

/-- With no command waiting the block idles: the model's choice of log entry 1.
Every command but an ill-formed one is answered with a next state, in every state; the two that can be ill-formed are
then refused under that name: the model's choice of log entry 2. -/
def Obligations.QueueAndForm : Prop :=
  (∀ s : State, s.pending = [] → step s = .next s) ∧
  (∀ (c : Instr) (s : State), (c.wellFormed = true → answers c s) ∧ (c.wellFormed = false → exec c s = .refused .illFormed))

/-- R350 and the queue of commands: whatever command is in front, a step takes it and no other, and clears no life-cycle bit
of the OTP. -/
def Obligations.EveryStepKeeps : Prop :=
  ∀ s t : State, step s = .next t → t.pending = s.pending.tail ∧ lifeBitsKept s t

/-! ## Reset and boot (20_reset_boot.md) -/

/-- The sources of a full reset: power, the watchdog from stage 2, the key in RST_GLOBAL, the thermal trip from stage 1. -/
def Obligations.ResetSources : Prop :=
  ∀ s : State,
    (∀ power, ∃ t, exec (.powerOnReset power) s = .next t ∧ restarted 1 s t ∧ t.boot.porst = true) ∧
    (2 ≤ s.boot.stage → ∃ t, exec .watchdogExpiry s = .next t ∧ restarted 2 s t) ∧
    (s.dump.onGlobal = false → ∃ t, exec (.globalReset 0x52535447) s = .next t ∧ restarted 3 s t) ∧
    (1 ≤ s.boot.stage → ∃ t, exec .thermalTrip s = .next t ∧ restarted 5 s t ∧ t.boot.thermalHold = true)

/-- The events of the release: the straps, the backup cell, the PLL's lock and its failures, the end of a thermal hold.
The release stages: each end of a count releases the next one, on the conditions of Table 20-2, and with it the clock
domains of Table 1-5; PE_PERST_N holds the PCIe domains. -/
def Obligations.ReleaseOfReset : Prop :=
  (∀ s : State,
    exec .batteryInsertion s = .next { s with lodge.battery := true } ∧
    (∀ straps, s.boot.power = true → s.boot.porst = true →
      exec (.porstNRelease straps) s = .next { s with boot := { s.boot with porst := false, straps := straps.setWidth 6 } }) ∧
    (s.boot.thermalHold = true →
      exec .thermalHoldEnd s = .next { s with boot := { s.boot with thermalHold := false, error := 0 } }) ∧
    (s.boot.stage = 2 ∨ s.boot.stage = 3 → s.boot.pllLocked = false → s.boot.halted = false →
      exec .corePllLock s = .next { s with boot.pllLocked := true } ∧
      (s.boot.pllTries < 2 → exec .pllLockTimeout s = .next { s with boot.pllTries := s.boot.pllTries + 1 }) ∧
      (s.boot.pllTries = 2 → exec .pllLockTimeout s = .next { s with boot := { s.boot with
        pllTries := 3, halted := true, fatalN := true, error := 1 } }))) ∧
  (∀ (s : State) (agree : Bool), s.boot.power = true → s.boot.porst = false → s.boot.halted = false →
    ∃ t, exec (.resetStageRelease agree) s = .next t ∧
      (s.boot.stage = 0 → t.boot.stage = 1) ∧
      (s.boot.stage = 1 → s.boot.thermalHold = false → t.boot.stage = 2 ∧ t.boot.step = 1 ∧
        t.lodge.bootCount = s.lodge.bootCount + 1 ∧ t.otp.fuseVariant = s.otp.variantBits ∧
        (agree = true → t.lc.inForce = (decodeLife s.otp.lcWords).1) ∧ (agree = false → t.lc.inForce = 3)) ∧
      (s.boot.stage = 1 → s.boot.thermalHold = true → t = s) ∧
      (s.boot.stage = 2 → t.boot.stage = 3) ∧
      (s.boot.stage = 3 → s.boot.pllLocked = true → t.boot.stage = 4 ∧ t.sched.tick = 0) ∧
      (s.boot.stage = 3 → s.boot.pllLocked = false → t = s) ∧
      (s.boot.stage = 4 → t.boot.stage = 5 ∧ (8 ≤ s.lodge.failures → t.boot.halted = true ∧ t.boot.fatalN = true)) ∧
      (s.boot.stage = 6 → t.boot.stage = 7) ∧
      (s.boot.stage = 7 → t.boot.stage = if hasBridge s then 8 else 7) ∧
      (t.boot.stage = s.boot.stage + 1 → t.boot.stage ≠ 6 → ∀ n c, 1 ≤ n → clockStage n = t.boot.stage →
        (clockStage n = 5 → s.link.perst = false) → t.clocks[n - 1]? = some c → c.reset = false) ∧
      (s.boot.stage = 4 → s.link.perst = true → ∀ n, 1 ≤ n → clockStage n = 5 → t.clocks[n - 1]? = s.clocks[n - 1]?))

/-- The boot steps: what each finds carries the boot to the next one, and READY comes with the last.
GO keeps, and the host download begins once Bus Master Enable is set too. -/
def Obligations.BootStepsAdvance : Prop :=
  (∀ s : State, s.boot.power = true → s.boot.porst = false → s.boot.halted = false →
    (∀ b, s.boot.step = 1 → directoryOk b = true →
      ∃ t, exec (.bootStepComplete (.directory (some b))) s = .next t ∧ t.boot.step = 2 ∧ t.boot.directory = b) ∧
    (∀ b, s.boot.step = 1 → directoryOk b = false →
      ∃ t, exec (.bootStepComplete (.directory (some b))) s = .next t ∧ t.boot.fatalN = true ∧ t.boot.halted = true ∧ t.boot.error = 2) ∧
    (∀ a b, s.boot.step = 2 → bootSource s ≠ 1 → listed s 0 = true → firmwareReason s a = 0 →
      ∃ t, exec (.bootStepComplete (.firmware (some a) b)) s = .next t ∧ t.boot.step = 3 ∧ t.boot.running = 1 ∧
        t.boot.rollback = fieldAt a 8 4 ∧ t.boot.firmware = sha3_256 a) ∧
    (∀ b, s.boot.step = 3 → listed s 2 = true → containerReason s b = 0 →
      ∃ t, exec (.bootStepComplete (.container (some b))) s = .next t ∧ t.boot.step = 4 ∧ t.stores.loaded = true ∧
        t.stores.patchMeasurement = sha3_256 b) ∧
    (∀ sites avs, s.boot.step = 4 → s.boot.stage = lastStage s →
      ∃ t, exec (.bootStepComplete (.calibrated sites avs)) s = .next t ∧ t.boot.step = 5 ∧ t.gh.calibrated = true) ∧
    (s.boot.step = 5 → hardPresent s = false →
      ∃ t, exec (.bootStepComplete .zeroised) s = .next t ∧ t.boot.step = 7 ∧ t.boot.ready = true ∧ t.boot.sysReady = true ∧
        t.lodge.failures = 0 ∧ KMap.get? t.allots 0 = some Allotment.admin)) ∧
  (∀ s : State, ∃ t, exec .bootGo s = .next t ∧ t.boot.bootGo = true ∧ t.boot.bootAddr = s.boot.bootAddr ∧
    (bootSource s = 1 → (funcAt s 0).bme = true → s.boot.downloaded = false → s.boot.step ≤ 2 → 5 ≤ s.boot.stage →
      t.boot.downloaded = true ∧ t.link.out = s.link.out ++ [.read 0 0 s.boot.bootAddr s.boot.bootLen.toNat]))

/-! ## The host link (03_host_link.md) -/

/-- The link's events: a reset of the link before and after the device is ready, its end, training, posted credit, a reported
error, and the write of a vector's table entry.
A link reset of a ready device: the link's configuration, the rings that name host memory and the admin queue go, and no
tenant is bound; with no job in flight, what becomes of each tenant follows from its keys and from the Vault. -/
def Obligations.LinkEvents : Prop :=
  (∀ s : State,
    (∀ perst, s.boot.ready = false → exec (.linkReset perst) s = .next { s with
      link := { s.link with perst := s.link.perst || perst, up := false, speed := 0, width := 0 },
      clocks := holdClocks s.clocks fun n => decide (clockStage n = 5) }) ∧
    exec .linkResetEnd s = .next { s with
      link.perst := false,
      clocks := releaseClocks s.clocks fun n => decide (clockStage n = 5) && decide (5 ≤ s.boot.stage) } ∧
    (∀ speed width, trainedLink speed width = true →
      (5 ≤ s.boot.stage → s.link.perst = false → s.link.up = false → exec (.linkTrainingEnd speed width) s =
        .next { s with link := { s.link with up := true, speed := speed.toNat, width := width.toNat } }) ∧
      (s.boot.stage < 5 ∨ s.link.perst = true ∨ s.link.up = true → exec (.linkTrainingEnd speed width) s = .next s)) ∧
    exec .postedCreditReturn s =
      .next { s with link := { s.link with credit := true, out := s.link.out ++ s.link.held, held := [] } } ∧
    (s.link.credit = true → ∃ t, exec .postedCreditStall s = .next t ∧ t.link.credit = false ∧
      t.link.stalledSince = now s - 4096 ∧ t.link.out = s.link.out ∧ t.jobs = s.jobs ∧ t.queues = s.queues ∧
      t.link.held = s.link.held ++ (if aerMasked (funcAt s 0) .uncorrectableInternal then []
        else [.aer 0 .uncorrectableInternal (aerSeverity (funcAt s 0) .uncorrectableInternal)]) ∧
      t.events = enterEvent s.events
        { first := false, cls := 4, code := 0x0018, allot := 0xFFFF, unit := 15, source := 0xFF, tick := now s, count := 1,
          detail := leBytes 12 4096 }) ∧
    (s.link.credit = false → exec .postedCreditStall s = .next s) ∧
    (∀ error (f : Fin 64) header g, g = (if funcExists s f.val then f.val else 0) →
      ∃ t, exec (.aerError error f header) s = .next t ∧
        t.link.aerLog = s.link.aerLog ++ [(g, error, if headerLogged error then header else 0)] ∧
        funcAt t g = noteAer (funcAt s g) error header ∧ (∀ i, i ≠ g → funcAt t i = funcAt s i) ∧
        t.link.up = (s.link.up && !retrains error) ∧
        (aerMasked (funcAt s g) error = true → t.link.out = s.link.out ∧ t.link.held = s.link.held) ∧
        (aerMasked (funcAt s g) error = false → s.link.credit = true →
          t.link.out = s.link.out ++ [.aer g error (aerSeverity (funcAt s g) error)] ∧ t.link.held = s.link.held) ∧
        (aerMasked (funcAt s g) error = false → s.link.credit = false →
          t.link.out = s.link.out ∧ t.link.held = s.link.held ++ [.aer g error (aerSeverity (funcAt s g) error)]) ∧
        t.events = s.events ∧ t.jobs = s.jobs ∧ t.queues = s.queues ∧ t.allots = s.allots) ∧
    (∀ (f : Fin 64) (e : VectorEntry), funcExists s f.val = true → e.vector.val < vectorCount s f.val →
      ∃ t, exec (.msixUnmask f e) s = .next t ∧ t = setFunc s f.val (funcAt t f.val) ∧
        bar4Read t f.val (16 * e.vector.val) = e.addr.setWidth 32 ∧
        bar4Read t f.val (16 * e.vector.val + 4) = (e.addr >>> 32).setWidth 32 ∧
        bar4Read t f.val (16 * e.vector.val + 8) = e.data ∧
        (funcAt t f.val).masked.contains e.vector.val = e.mask ∧
        (∀ v, v ≠ e.vector.val → KMap.get? (funcAt t f.val).table v = KMap.get? (funcAt s f.val).table v ∧
          (funcAt t f.val).masked.contains v = (funcAt s f.val).masked.contains v) ∧
        (funcAt t f.val).pba = (funcAt s f.val).pba) ∧
    (∀ (f : Fin 64) (e : VectorEntry), funcExists s f.val = false ∨ vectorCount s f.val ≤ e.vector.val →
      exec (.msixUnmask f e) s = .next s)) ∧
  (∀ (s : State) (perst : Bool), s.boot.ready = true → ∃ t, exec (.linkReset perst) s = .next t ∧
    t.link = { Link.reset with perst := perst, out := t.link.out } ∧
    t.regs.admEnabled = false ∧ t.regs.admDraining = false ∧ t.regs.admCtrl.getLsbD 0 = false ∧ t.events.enable = false ∧
    t.journal.jxEnable = false ∧ t.dump.enable = false ∧
    (∀ q, q < 8 → KMap.get? t.queues q = none) ∧
    (∀ a v, 1 ≤ a → KMap.get? t.allots a = some v → v.func = none ∧ v.reads = []) ∧
    (s.jobs = [] → t.jobs = [] ∧ t.link.out = s.link.out ∧ t.boot = s.boot ∧ t.otp = s.otp ∧
      ∀ a v, 1 ≤ a → KMap.get? s.allots a = some v → liveKeys s a ≠ [] →
        ∃ w, KMap.get? t.allots a = some w ∧ w.lease = v.lease ∧ w.windows = v.windows ∧ w.channelKey = v.channelKey ∧
          (vaultWritable s = false → w.orphaned = true) ∧ (vaultWritable s = true → w.destroying = true)) ∧
    (s.jobs = [] → tenants s = [] → t.plots = s.plots ∧ t.ice.keys = s.ice.keys))

/-- Bus Master Enable, D3hot and its return, FLR, and VF Enable, in the functions that exist.
VF Enable with its number of VFs, its end, and a number written while it is clear. -/
def Obligations.FunctionEvents : Prop :=
  (∀ (s : State) (f : Fin 64), funcExists s f.val = true →
    ((funcAt s f.val).bme = true → ∃ t, exec (.bmeCleared f) s = .next t ∧ (funcAt t f.val).bme = false ∧
      ∀ a v, KMap.get? s.allots a = some v → v.func = some f.val → ∃ w, KMap.get? t.allots a = some w ∧ w.quiesced = true) ∧
    ((funcAt s f.val).bme = false → exec (.bmeCleared f) s = .next s) ∧
    (∃ t, exec (.bmeSet f) s = .next t ∧ (funcAt t f.val).bme = true ∧ t.jobs = s.jobs ∧ t.queues = s.queues) ∧
    ((funcAt s f.val).d3hot = false → ∃ t, exec (.d3hotEntry f) s = .next t ∧ (funcAt t f.val).d3hot = true ∧
      ∀ a v, KMap.get? s.allots a = some v → v.func = some f.val → ∃ w, KMap.get? t.allots a = some w ∧ w.quiesced = true) ∧
    ((funcAt s f.val).d3hot = true → exec (.d3hotEntry f) s = .next s) ∧
    ((funcAt s f.val).d3hot = true → ∃ t, exec (.d0Return f) s = .next t ∧ (funcAt t f.val).d3hot = false ∧
      t.jobs = s.jobs ∧ t.queues = s.queues) ∧
    ((funcAt s f.val).d3hot = false → exec (.d0Return f) s = .next s) ∧
    (f.val ≠ 0 → ∃ t, exec (.flr f) s = .next t ∧ funcAt t f.val = { Func.reset with mse := (funcAt s f.val).mse }) ∧
    (f.val = 0 → exec (.flr f) s = .next s)) ∧
  (∀ (s : State) (n : Fin 64),
    (s.link.vfEnable = false → n.val ≠ 0 → s.link.pageSize = 1 → ∃ t, exec (.vfEnable n) s = .next t ∧
      t.link.vfEnable = true ∧ t.link.numVfs = n.val ∧ t.jobs = s.jobs ∧ t.allots = s.allots ∧
      ∀ v, 1 ≤ v → v ≤ n.val → funcAt t v = Func.reset) ∧
    (s.link.vfEnable = true ∨ n.val = 0 ∨ s.link.pageSize ≠ 1 → exec (.vfEnable n) s = .next s) ∧
    (s.link.vfEnable = false → exec (.vfDisable n) s = .next { s with link.numVfs := n.val }) ∧
    (s.link.vfEnable = true → ∃ t, exec (.vfDisable n) s = .next t ∧ t.link.vfEnable = false ∧ t.link.numVfs = n.val))

/-- A configuration read of a function is answered with its dword, and changes nothing else; no retry status exists.
The identity dwords of PF0 in configuration space: vendor and device by variant, revision and class, subsystem; the sizes of
its three BARs. -/
def Obligations.ConfigurationReads : Prop :=
  (∀ (s : State) (f : Fin 64) (off : BitVec 12) (e : BitVec 4),
    (s.link.up = true → funcExists s f.val = true → exec (.configRequest f off e none) s =
      .next { s with link.out := s.link.out ++ [.reply ((configWord s f.val (off.toNat / 4 * 4)).setWidth 64)] }) ∧
    (s.link.up = false ∨ funcExists s f.val = false → ∀ w, exec (.configRequest f off e w) s = .next s)) ∧
  (∀ s : State,
    (s.otp.fuseVariant = 0 → configWord s 0 0 = 0x9620C96B) ∧
    (s.otp.fuseVariant = 1 → configWord s 0 0 = 0x9618C96B) ∧
    (s.otp.fuseVariant = 2 → configWord s 0 0 = 0x9612C96B) ∧
    (∀ f, configWord s f 8 = 0x10800010 ∧ configWord s f 0x2C = s.otp.subsystem) ∧
    (∀ f, f ≠ 0 → configWord s f 0 = 0xFFFFFFFF) ∧
    (s.link.up = true → ∀ (off : BitVec 12) (w : W32),
      off = 0x10 ∧ w = 0xFFFF0004 ∨ off = 0x18 ∧ w = 0xFF00000C ∨ off = 0x20 ∧ w = 0xFFFFE004 →
      ∃ t, exec (.configRequest 0 off 15 (some 0xFFFFFFFF)) s = .next t ∧ configWord t 0 off.toNat = w ∧
        t.link.out = s.link.out ∧ t.jobs = s.jobs ∧ t.queues = s.queues ∧ t.allots = s.allots))

/-- A failed descriptor read leaves the scan on its entry, ends its tag's use and writes nothing to the ring; a failed data read
ends its job with ST_INTERNAL and the address.
A completion that arrives after its isolation-wrapper answer gives its tag back to the allotment. -/
def Obligations.FailedReads : Prop :=
  (∀ (s : State) (address : W64) (cmd : HostRead → Instr),
    cmd = (fun r => .readCompletionTimeout r address) ∨ (∃ e, cmd = fun r => .hostReadError r e address) →
    (∀ (a : BitVec 12) (q : BitVec 3) (v : Queue) (x : Allotment) (r : HostReq),
      KMap.get? s.queues (queueKey a.toNat q.toNat) = some v → KMap.get? s.allots a.toNat = some x →
      x.reads.find? (fun r => serves false q.toNat r && decide (r.addr = address)) = some r → r.answered = false →
      ∃ t w l, exec (cmd (.descriptor a q)) s = .next t ∧
        KMap.get? t.queues (queueKey a.toNat q.toNat) = some { v with reading := false, stop := some .notOwned } ∧
        KMap.get? t.allots a.toNat = some w ∧
        w.reads = dropFirst (fun r => serves false q.toNat r && decide (r.addr = address)) x.reads ++ l ∧
        (∀ n ∈ l, n.data = true) ∧ (s.jobs = [] → l = [] ∧ t.link = s.link ∧ t.jobs = [])) ∧
    (∀ (r : JobRef) (j : Job) (x : Allotment) (d : HostReq), KMap.get? s.jobs (refKey r) = some j →
      KMap.get? s.allots r.allot.toNat = some x →
      x.reads.find? (fun n => serves true (refKey r) n && decide (n.addr = address)) = some d → d.answered = false →
      ∃ t y, exec (cmd (.data r)) s = .next t ∧ KMap.get? t.jobs (refKey r) = some y ∧ y.phase = .decided ∧
        y.status = .internal ∧ y.fault = address ∧ y.output = [] ∧ y.decidedAt = now s + 1)) ∧
  (∀ (s : State) (a : BitVec 12),
    (findRead s a.toNat (fun r => r.answered) = none → exec (.lateCompletion a) s = .next s) ∧
    (atRest s → (findRead s a.toNat fun r => r.answered).isSome = true → exec (.lateCompletion a) s =
      .next (modAllot s a.toNat fun v => { v with reads := dropFirst (fun r => r.answered) v.reads })))

/-- An aligned read of 4 or 8 bytes answers the register and changes nothing else; any other access is recorded, and a read
of it answers 0; a function whose Memory Space Enable is clear answers a read with Unsupported Request and takes no write.
Writes of registers: each takes its fields, a half of a 64-bit register leaves the other half, what is locked or read-only
keeps its value, and before READY only the boot registers take a write. -/
def Obligations.RegisterAccesses : Prop :=
  (∀ (s : State) (f : Fin 64) (off : W16) (e : BitVec 8),
    (funcExists s f.val = false → ∀ w, exec (.bar0AccessSize f off e w) s = .next s) ∧
    (funcExists s f.val = true → (funcAt s f.val).mse = false →
      exec (.bar0AccessSize f off e true) s = .next s ∧
      ∃ t header, exec (.bar0AccessSize f off e false) s = .next t ∧
        t.link.aerLog = s.link.aerLog ++ [(f.val, .unsupportedSent, header)] ∧
        (∃ l, t.link.out = s.link.out ++ .unsupported :: l) ∧ t.regs = s.regs ∧ t.events = s.events ∧ t.jobs = s.jobs) ∧
    (funcExists s f.val = true → (funcAt s f.val).mse = true →
      (∀ n, alignedAccess off.toNat e = some n →
        exec (.bar0AccessSize f off e false) s =
          .next { s with link.out := s.link.out ++ [.reply (barRead s f.val off.toNat (decide (n = 8)))] } ∧
        exec (.bar0AccessSize f off e true) s = .next s) ∧
      (alignedAccess off.toNat e = none →
        exec (.bar0AccessSize f off e false) s = .next (reply (logLink s 0x0010 0xFFFF (leBytes 4 off.toNat ++ [e])) 0) ∧
        exec (.bar0AccessSize f off e true) s = .next (logLink s 0x0010 0xFFFF (leBytes 4 off.toNat ++ [e]))))) ∧
  (∀ (s : State) (off : W16) (v : W64),
    (off.toNat % 8 ≠ 0 → exec (.registerWrite off true v) s = .next s) ∧
    (off.toNat % 4 ≠ 0 → exec (.registerWrite off false v) s = .next s) ∧
    ([0x0, 0x6, 0x7, 0xA, 0xD, 0xE, 0xF].contains (off.toNat / 4096) = true → ∀ wide, exec (.registerWrite off wide v) s = .next s) ∧
    (s.boot.ready = false → bootRegister off.toNat = false → exec (.registerWrite off false v) s = .next s)) ∧
  (∀ (s : State) (v : W64),
    exec (.registerWrite 0xC010 true v) s = .next { s with boot.bootAddr := v } ∧
    exec (.registerWrite 0xC018 false v) s = .next { s with boot.bootLen := v.setWidth 32 } ∧
    exec (.registerWrite 0xC018 true v) s = exec (.registerWrite 0xC01C false (v >>> 32)) { s with boot.bootLen := v.setWidth 32 } ∧
    (v.getLsbD 0 = true → exec (.registerWrite 0xC01C false v) s = exec .bootGo s) ∧
    (v.getLsbD 0 = false → exec (.registerWrite 0xC01C false v) s = .next s) ∧
    exec (.registerWrite 0xC020 false v) s = exec (.globalReset (v.setWidth 32)) s) ∧
  (∀ (s : State) (v : W64), s.boot.ready = true →
    (s.regs.admCtrl.getLsbD 0 = false →
      exec (.registerWrite 0x2000 true v) s = .next { s with regs.admBase := pageAligned v } ∧
      exec (.registerWrite 0x2010 true v) s = .next { s with regs.admWinBase := pageAligned v } ∧
      exec (.registerWrite 0x2018 true v) s = .next { s with regs.admWinLimit := pageAligned v } ∧
      (v.getLsbD 0 = true → exec (.registerWrite 0x2008 true v) s = exec (.admRingEnable v) s)) ∧
    (s.regs.admCtrl.getLsbD 0 = true →
      exec (.registerWrite 0x2000 true v) s = .next s ∧ exec (.registerWrite 0x2010 true v) s = .next s ∧
      exec (.registerWrite 0x2018 true v) s = .next s ∧
      (v.getLsbD 0 = true → exec (.registerWrite 0x2008 true v) s = .next s) ∧
      (v.getLsbD 0 = false → exec (.registerWrite 0x2008 true v) s = exec .admRingDisable s)) ∧
    exec (.registerWrite 0x1010 false v) s = exec (.bstSelWrite (v.setWidth 32)) s ∧
    (s.events.enable = false →
      exec (.registerWrite 0x3000 true v) s = .next { s with events.base := pageAligned v } ∧
      exec (.registerWrite 0x3008 false v) s = .next { s with events.size := v.setWidth 32 &&& 0x1F }) ∧
    (s.events.enable = true →
      exec (.registerWrite 0x3000 true v) s = .next s ∧ exec (.registerWrite 0x3008 false v) s = .next s) ∧
    (v.getLsbD 0 = true → exec (.registerWrite 0x300C false v) s = exec (.evtEnable (v.setWidth 32)) s) ∧
    (v.getLsbD 0 = false → v.getLsbD 1 = s.events.notice → exec (.registerWrite 0x300C false v) s =
      .next { s with events := { s.events with enable := false, vector := eventVector s (v.toNat / 256 % 64) } }) ∧
    exec (.registerWrite 0x3014 false v) s = .next { s with events.cons := (v.setWidth 32).toNat } ∧
    exec (.registerWrite 0x3018 false v) s = .next { s with events.modReg := v.setWidth 32 &&& 0xFFFF00FF } ∧
    (v.getLsbD 0 = true → exec (.registerWrite 0x301C false v) s = exec .ffcValidClear s) ∧
    (v.getLsbD 0 = false → exec (.registerWrite 0x301C false v) s = .next s) ∧
    exec (.registerWrite 0x4000 true v) s = .next { s with dump.base := v } ∧
    exec (.registerWrite 0x4000 false v) s =
      .next { s with dump.base := (s.dump.base &&& 0xFFFFFFFF00000000) ||| (v &&& 0xFFFFFFFF) } ∧
    exec (.registerWrite 0x4004 false v) s = .next { s with dump.base := (v <<< 32) ||| (s.dump.base &&& 0xFFFFFFFF) } ∧
    exec (.registerWrite 0x4008 false v) s = .next { s with dump.size := v.setWidth 32 } ∧
    exec (.registerWrite 0x400C false v) s = .next { s with dump := { s.dump with
      enable := v.getLsbD 0, onGlobal := v.getLsbD 1, vaultCopy := v.getLsbD 2 } } ∧
    exec (.registerWrite 0x5010 false v) s = exec (.rngLimitWrite false (v.setWidth 32)) s ∧
    exec (.registerWrite 0x5014 false v) s = exec (.rngLimitWrite true (v.setWidth 32)) s ∧
    exec (.registerWrite 0x5018 false v) s = exec (.rngPatternEnable (v.getLsbD 0)) s ∧
    (s.lc.inForce = 1 → exec (.registerWrite 0x501C false v) s = .next { s with fountain.pattern := v.setWidth 32 }) ∧
    (s.lc.inForce ≠ 1 → exec (.registerWrite 0x501C false v) s = .next s) ∧
    exec (.registerWrite 0x8004 false v) s = exec (.ghAlertClear (v.setWidth 32)) s ∧
    (s.journal.jxEnable = false →
      exec (.registerWrite 0x9040 true v) s = .next { s with journal.jxBase := pageAligned v } ∧
      exec (.registerWrite 0x9048 false v) s = .next { s with journal.jxSize := v.setWidth 32 &&& 0x1F }) ∧
    (s.journal.jxEnable = true →
      exec (.registerWrite 0x9040 true v) s = .next s ∧ exec (.registerWrite 0x9048 false v) s = .next s) ∧
    (v.getLsbD 1 = false → v.getLsbD 0 = true → exec (.registerWrite 0x904C false v) s = exec .jxEnable s) ∧
    (v.getLsbD 1 = false → v.getLsbD 0 = false → exec (.registerWrite 0x904C false v) s = exec .jxDisable s) ∧
    exec (.registerWrite 0x9054 false v) s = .next { s with journal.jxCons := (v.setWidth 32).toNat } ∧
    exec (.registerWrite 0x9058 true v) s = .next { s with journal.jxReplaySeq := v } ∧
    exec (.registerWrite 0xB004 false v) s = exec (.sdlThreshWrite (v.setWidth 32)) s ∧
    exec (.registerWrite 0x3010 false v) s = .next s ∧ exec (.registerWrite 0x9000 true v) s = .next s)

/-! ## The event log, set-up and debug registers (15_lifecycle_debug.md, 21_errors_dump_bist.md, 23_registers.md) -/

/-- Enabling the event ring latches its geometry or refuses it, and takes the vector that no queue of PF0 has; NOTICE and
first-failure capture are set and cleared; before READY none of them has an effect. That the geometry is checked in the
tick of the write is the model's choice (log entry 41). -/
def Obligations.EventRegisters : Prop :=
  (∀ s : State, s.boot.ready = false → (∀ v, exec (.evtEnable v) s = .next s) ∧ exec .evtNoticeClear s = .next s ∧
    exec .evtNoticeSet s = .next s ∧ exec .ffcValidClear s = .next s) ∧
  (∀ s : State, s.boot.ready = true →
    (∀ v : W32, ∃ t, exec (.evtEnable v) s = .next t ∧ t.events.vector = eventVector s (v.toNat / 256 % 64) ∧
      t.events.notice = v.getLsbD 1 ∧
      (v.getLsbD 1 = s.events.notice → t.events.pendCount = s.events.pendCount ∧ t.link = s.link) ∧
      (v.getLsbD 1 ≠ s.events.notice → t.events.pendCount = 0) ∧
      (s.events.enable = true → t.events.enable = true ∧ t.events.ring = s.events.ring ∧ t.events.prod = s.events.prod ∧
        t.events.cons = s.events.cons ∧ t.events.configError = s.events.configError) ∧
      (s.events.enable = false → 6 ≤ s.events.size.toNat % 32 ∧ s.events.size.toNat % 32 ≤ 16 →
        t.events.enable = true ∧ t.events.configError = false ∧ t.events.ring = s.events.base ∧
        t.events.ringLog = s.events.size.toNat % 32 ∧ t.events.prod = 0 ∧ t.events.cons = 0) ∧
      (s.events.enable = false → s.events.size.toNat % 32 < 6 ∨ 16 < s.events.size.toNat % 32 →
        t.events.enable = false ∧ t.events.configError = true) ∧
      t.events.fifo = s.events.fifo ∧ t.events.ffc = s.events.ffc ∧ t.jobs = s.jobs ∧ t.queues = s.queues ∧
      t.allots = s.allots ∧ t.journal = s.journal) ∧
    (∀ v, (∀ k q, KMap.get? s.queues k = some q → funcOf s (k / 8) = 0 → q.vector ≠ some v) → KMap.wf s.queues = true →
      eventVector s v = v) ∧
    (s.events.notice = true → exec .evtNoticeClear s = .next { s with
      events := { s.events with notice := false, pendCount := 0, pendSince := 0 },
      link := { s.link with
        held := s.link.held.filter fun o => !isMessage 0 s.events.vector o,
        funcs := KMap.put s.link.funcs 0
          { funcAt s 0 with pba := (funcAt s 0).pba.filter (· ≠ s.events.vector) } } }) ∧
    (s.events.notice = false → exec .evtNoticeClear s = .next s) ∧
    (s.events.notice = false → exec .evtNoticeSet s = .next { s with
      events := { s.events with notice := true, pendCount := 0, pendSince := 0 } }) ∧
    (s.events.notice = true → exec .evtNoticeSet s = .next s) ∧
    exec .ffcValidClear s = .next { s with events.ffcValid := false })

/-- An event folds into the unwritten record with its key, else takes a place among 64, else is dropped and counted;
first-failure capture takes the first event of class JOB or higher.
The record written next is the oldest, of one tick's records one that no other precedes by UNIT and CODE; the others
stay in their order.
A record leaves for the ring: bytes 1 to 31 and then byte 0 of the entry at EVT_PROD, and the counters move. -/
def Obligations.EventsLogged : Prop :=
  (∀ (l : EventLog) (e : Event),
    (l.ffcValid = true ∨ e.cls < 2 → (enterEvent l e).ffc = l.ffc ∧ (enterEvent l e).ffcValid = l.ffcValid) ∧
    (l.ffcValid = false → 2 ≤ e.cls →
      (enterEvent l e).ffc = eventBytes { e with first := true } false 0 ∧ (enterEvent l e).ffcValid = true) ∧
    (l.fifo.any (sameKey · e) = true →
      (enterEvent l e).fifo.length = l.fifo.length ∧ (enterEvent l e).drops = l.drops) ∧
    (l.fifo.any (sameKey · e) = false → l.fifo.length < 64 →
      (enterEvent l e).fifo = l.fifo ++ [{ e with first := !l.ffcValid && decide (2 ≤ e.cls) }] ∧
        (enterEvent l e).drops = l.drops) ∧
    (l.fifo.any (sameKey · e) = false → 64 ≤ l.fifo.length →
      (enterEvent l e).fifo = l.fifo ∧ (enterEvent l e).drops = min (l.drops + 1) 0xFFFF)) ∧
  (∀ (l : List Event), l.Pairwise (fun a b => a.tick ≤ b.tick) → l ≠ [] →
    ∃ e, nextRecord l = some (e, l.erase e) ∧ e ∈ l ∧ (∀ x ∈ l, e.tick ≤ x.tick) ∧
      ∀ x ∈ l, x.tick = e.tick → e.unit.toNat < x.unit.toNat ∨ e.unit = x.unit ∧ e.code.toNat ≤ x.code.toNat) ∧
  (∀ (s : State) (e : Event) (rest : List Event), nextRecord s.events.fifo = some (e, rest) → e.tick < now s →
    s.events.enable = true → masters s 0 = true → s.link.credit = true → s.events.lastWrite ≠ some (now s) →
    eventRingFull s.events = false →
    ∃ t b, exec .eventRecordWrite s = .next t ∧
      b = eventBytes e (decide (s.events.prod / 2 ^ s.events.ringLog % 2 = 0)) s.events.drops ∧
      t.link.out = s.link.out ++
        [.write 0 (s.events.ring + BitVec.ofNat 64 (32 * (s.events.prod % 2 ^ s.events.ringLog)) + 1) (b.drop 1) false,
         .write 0 (s.events.ring + BitVec.ofNat 64 (32 * (s.events.prod % 2 ^ s.events.ringLog))) (b.take 1) false] ∧
      t.events.fifo = rest ∧ t.events.drops = 0 ∧ t.events.prod = (s.events.prod + 1) % 2 ^ 32 ∧
      t.events.pendCount = (if s.events.notice then s.events.pendCount + 1 else s.events.pendCount) ∧
      t.events.lastWrite = some (now s) ∧ t.events.ffc = s.events.ffc ∧ t.jobs = s.jobs ∧ t.queues = s.queues ∧
      t.journal = s.journal)

/-- The admin queue enters service when the checks pass; the first failing check gives the reason; it drains, and the end
of the drain frees it. That the checks are made in the tick of the write is the model's choice (log entry 41). -/
def Obligations.AdminRing : Prop :=
  ∀ (s : State) (v : W64), s.boot.ready = true →
    (s.regs.admCtrl.getLsbD 0 = false → admFailure s v = none → ∃ t, exec (.admRingEnable v) s = .next t ∧
      t.regs.admEnabled = true ∧ t.regs.admConfigError = false ∧ t.regs.admCtrl.getLsbD 0 = true ∧
      ∃ q, KMap.get? t.queues 0 = some q ∧ q.base = s.regs.admBase ∧ q.log2n = v.toNat / 16 % 16 ∧ q.scan = 0 ∧
        q.stop = some .notOwned ∧ q.inflight = [] ∧
        q.vector = (if v.getLsbD 8 then some (v.toNat / 2 ^ 16 % 64) else none) ∧
        q.modCount = v.toNat / 2 ^ 24 % 256 + 1 ∧ q.modTicks = v.toNat / 2 ^ 32 % 65536) ∧
    (s.regs.admCtrl.getLsbD 0 = false → ∀ r, admFailure s v = some r → ∃ t, exec (.admRingEnable v) s = .next t ∧
      t.regs.admConfigError = true ∧ t.regs.admReason = r ∧ t.regs.admCtrl.getLsbD 0 = false ∧ t.queues = s.queues) ∧
    (s.regs.admCtrl.getLsbD 0 = true → exec (.admRingEnable v) s = .next s) ∧
    (v.toNat / 16 % 16 < 4 ∨ 12 < v.toNat / 16 % 16 → admFailure s v = some 1) ∧
    (4 ≤ v.toNat / 16 % 16 → v.toNat / 16 % 16 ≤ 12 → s.regs.admWinLimit.toNat ≤ s.regs.admWinBase.toNat →
      admFailure s v = some 5) ∧
    (s.regs.admEnabled = true → s.regs.admDraining = false → jobsOfQueue s 0 0 = [] → ∃ t, exec .admRingDisable s = .next t ∧
      t.regs.admDraining = true ∧ t.regs.admEnabled = true ∧ t.jobs = s.jobs) ∧
    (s.regs.admDraining = true → jobsOfQueue s 0 0 = [] → ∃ t, exec .admDrainEnd s = .next t ∧
      t.queues = KMap.drop s.queues 0 ∧ t.regs.admEnabled = false ∧ t.regs.admDraining = false ∧
      t.regs.admCtrl.getLsbD 0 = false ∧ t.jobs = s.jobs ∧ t.allots = s.allots)

/-- Rows of single registers: BST_SEL, GH_ALERT, the Fountain's limits and pattern, SDL_THRESH, the export ring; before READY
none of them has an effect. That the export ring is checked in the tick of the write is the model's choice (log entry 41). -/
def Obligations.SetupWrites : Prop :=
  (∀ (s : State) (v : W32) (b : Bool), s.boot.ready = false →
    exec (.bstSelWrite v) s = .next s ∧ exec (.ghAlertClear v) s = .next s ∧ exec (.rngLimitWrite b v) s = .next s ∧
    exec (.rngPatternEnable b) s = .next s ∧ exec (.sdlThreshWrite v) s = .next s ∧ exec .jxEnable s = .next s ∧
    exec .jxDisable s = .next s ∧ exec .jxReplay s = .next s) ∧
  (∀ (s : State) (v : W32), s.boot.ready = true →
    exec (.bstSelWrite v) s = .next { s with regs.bstSelNext := some (v &&& 0xFFFF) } ∧
    exec (.ghAlertClear v) s = .next { s with gh.alert := s.gh.alert &&& ~~~(v.setWidth 16) } ∧
    (v.setWidth 16 ≤ s.otp.biasLim →
      exec (.rngLimitWrite false v) s = .next { s with fountain.biasLim := v.setWidth 16 }) ∧
    (v.setWidth 16 ≤ s.otp.corrLim →
      exec (.rngLimitWrite true v) s = .next { s with fountain.corrLim := v.setWidth 16 }) ∧
    (s.otp.biasLim < v.setWidth 16 → exec (.rngLimitWrite false v) s = .next s) ∧
    (s.otp.corrLim < v.setWidth 16 → exec (.rngLimitWrite true v) s = .next s) ∧
    (∀ en, s.lc.inForce = 1 → s.fountain.patternEn ≠ en → ∃ t, exec (.rngPatternEnable en) s = .next t ∧
      t.fountain.patternEn = en ∧ t.fountain.ready = false ∧ t.fountain.instantiated = false ∧ t.fountain.pool = [] ∧
      t.jobs = s.jobs) ∧
    (∀ en, s.lc.inForce ≠ 1 ∨ s.fountain.patternEn = en → exec (.rngPatternEnable en) s = .next s) ∧
    (s.otp.sdlThresh ≤ v.toNat % 1024 →
      exec (.sdlThreshWrite v) s = .next { s with sundial.pendingThresh := some (v.toNat % 1024) }) ∧
    (v.toNat % 1024 < s.otp.sdlThresh → exec (.sdlThreshWrite v) s = .next s) ∧
    (s.journal.jxEnable = false → 10 ≤ s.journal.jxSize.toNat % 32 → s.journal.jxSize.toNat % 32 ≤ 20 →
      exec .jxEnable s = .next { s with journal := { s.journal with
        jxConfigError := false, jxEnable := true, jxRing := s.journal.jxBase, jxLog := s.journal.jxSize.toNat % 32,
        jxProd := 0, jxCons := 0 } }) ∧
    (s.journal.jxEnable = false → s.journal.jxSize.toNat % 32 < 10 ∨ 20 < s.journal.jxSize.toNat % 32 →
      exec .jxEnable s = .next { s with journal.jxConfigError := true }) ∧
    (s.journal.jxEnable = true → exec .jxEnable s = .next s) ∧
    exec .jxDisable s = .next { s with journal.jxEnable := false } ∧
    (s.vault.mounted = true → s.vault.foreign = false → exec .jxReplay s = .next { s with journal := { s.journal with
      jxReplay := true,
      exporting := s.vault.media.journal.dropWhile fun x => x.chunk || decide (x.seq < s.journal.jxReplaySeq.toNat) } }) ∧
    (s.vault.mounted = true → s.vault.foreign = true → exec .jxReplay s = .next { s with journal := { s.journal with
      jxReplay := true,
      exporting := s.vault.visiting.dropWhile fun x => x.chunk || decide (x.seq < s.journal.jxReplaySeq.toNat) } }) ∧
    (s.vault.mounted = false → exec .jxReplay s = .next s))

/-- DBG_HALT through an open port: refused while a tenant owns a queue, else the halts asked for; a closed port does nothing.
OTP programming through JTAG in BLANK and TEST: bits only rise, each item programs in its own states, and a
life-cycle word takes its bits unless they would complete a transition that is not permitted (log entry 97).
The dump readout of END_OF_LIFE, the SMBus words, and the alert response. -/
def Obligations.DebugPorts : Prop :=
  (∀ (s : State) (v : W32),
    (dapOpen s = false → exec (.dbgHalt v) s = .next s) ∧
    (2 ≤ s.boot.stage ∧ (s.lc.inForce = 0 ∨ s.lc.inForce = 1) ∨ (s.lc.debug = true ∧ s.lc.scope.getLsbD 0 = true) →
    (tenantsActive s = true → exec (.dbgHalt v) s = .next { s with lc.haltRefused := true }) ∧
    (tenantsActive s = false →
      exec (.dbgHalt v) s = .next (tapReleased { s with lc := { s.lc with haltRefused := false, halt := v.setWidth 12 } })))) ∧
  (∀ s : State, 2 ≤ s.boot.stage →
    (s.lc.inForce = 0 →
      (∀ v, exec (.jtagOtpProgram (.deviceId v)) s = .next { tapReleased s with otp.deviceId := s.otp.deviceId ||| v }) ∧
      (∀ v, exec (.jtagOtpProgram (.patchKey v)) s =
        .next { tapReleased s with otp.patchKey := List.zipWith (· ||| ·) s.otp.patchKey v.toList }) ∧
      (∀ v, exec (.jtagOtpProgram (.fuseVariant v)) s = .next { tapReleased s with otp.variantBits := s.otp.variantBits ||| v }) ∧
      (∀ v, exec (.jtagOtpProgram (.codeHash v)) s = .next (tapReleased s))) ∧
    (s.lc.inForce = 1 →
      (∀ v, exec (.jtagOtpProgram (.codeHash v)) s =
        .next { tapReleased s with otp.codeHash := List.zipWith (· ||| ·) s.otp.codeHash v.toList }) ∧
      (∀ v, exec (.jtagOtpProgram (.debugHash v)) s =
        .next { tapReleased s with otp.debugHash := List.zipWith (· ||| ·) s.otp.debugHash v.toList }) ∧
      (∀ v, exec (.jtagOtpProgram (.anchorHash v)) s =
        .next { tapReleased s with otp.anchorHash := List.zipWith (· ||| ·) s.otp.anchorHash v.toList }) ∧
      (∀ v, exec (.jtagOtpProgram (.fuseTamper v)) s = .next { tapReleased s with otp.tamperBits := s.otp.tamperBits ||| v }) ∧
      (∀ v, exec (.jtagOtpProgram (.deviceId v)) s = .next (tapReleased s))) ∧
    (s.lc.inForce = 0 ∨ s.lc.inForce = 1 →
      (∀ v, exec (.jtagOtpProgram (.subsystem v)) s = .next { tapReleased s with otp.subsystem := s.otp.subsystem ||| v }) ∧
      (∀ w bits, lifeWrite s.otp w bits = true → exec (.jtagOtpProgram (.lifeCycle w bits)) s = .next { tapReleased s with
        otp.lcWords := s.otp.lcWords.modify w.val fun x => x ||| bits,
        lc.pending := (decodeLife (s.otp.lcWords.modify w.val fun x => x ||| bits)).1 }) ∧
      (∀ w bits, lifeWrite s.otp w bits = false → exec (.jtagOtpProgram (.lifeCycle w bits)) s = .next (tapReleased s))) ∧
    (2 ≤ s.lc.inForce → ∀ i, exec (.jtagOtpProgram i) s = .next s)) ∧
  (∀ s : State,
    (∀ i, tapReleased s = { s with clocks := (tapReleased s).clocks } ∧
      (i ≠ 39 → (tapReleased s).clocks[i]? = s.clocks[i]?) ∧ (∀ c, (tapReleased s).clocks[39]? = some c → c.reset = false)) ∧
    (∀ n parts, 2 ≤ s.boot.stage → s.lc.inForce = 3 → s.dump.mediaCopy = some (n, parts) → exec .jtagDumpReadout s =
      .next { tapReleased s with link.out := s.link.out ++ parts.map fun p => Outbound.jtag p.2 }) ∧
    (s.boot.stage < 2 ∨ s.lc.inForce ≠ 3 ∨ s.dump.mediaCopy = none → exec .jtagDumpReadout s = .next s) ∧
    (1 ≤ s.boot.stage →
      exec (.smbusReadWord 0) s = .next { s with link.out := s.link.out ++ [.smbus (hifStatus s % 2 ^ 16)] } ∧
      exec (.smbusReadWord 1) s = .next { s with link.out := s.link.out ++ [.smbus (hifStatus s / 2 ^ 16 % 2 ^ 16)] } ∧
      exec (.smbusReadWord 3) s = .next { s with link.out := s.link.out ++ [.smbus s.lodge.sticky.toNat] } ∧
      (∀ c : BitVec 8, 4 < c.toNat → exec (.smbusReadWord c) s = .next s) ∧
      exec .smbusAlertResponse s = .next { s with link.out := s.link.out ++ [.smbus 0x4E] }))

/-! ## Rings and jobs (02_bandstand.md, 04_rings.md) -/

/-- A doorbell rings the queue whose byte it covers, and any other byte of BAR 2 does nothing.
A scan that stopped NOT_OWNED or BUSY, or with LIMIT, goes on: with room and a free entry it waits for a fetch turn.
A fetch turn issues the descriptor read of the queue whose turn it is, under a free tag: its entry at the scan pointer, 64
bytes; a queue at its limit stops instead.
An entry arrives: one that host software owns stops the scan, or is read again where a doorbell has landed since its read was
issued, and one with OWN = 1 becomes a job. -/
def Obligations.QueueScan : Prop :=
  (∀ (s : State) (f : Fin 64),
    (s.boot.ready = false ∨ funcExists s f.val = false ∨ (funcAt s f.val).mse = false → ∀ l, exec (.doorbell f l) s = .next s) ∧
    (s.boot.ready = true → funcExists s f.val = true → (funcAt s f.val).mse = true → ∀ o : BitVec 24,
      (∀ a, pageOwner s f.val (o.toNat / 4096) = some a → o.toNat % 4096 < 512 → o.toNat % 64 < 4 →
        o.toNat / 4096 < (if f.val = 0 then 4096 else 256) →
        exec (.doorbell f [o]) s = .next (modQueue s a (o.toNat % 4096 / 64) fun v =>
          if v.closing = true ∨ v.stop = some .limit then v
          else if v.stop = none then { v with bell := some (now s) } else { v with rang := some (now s) })) ∧
      (512 ≤ o.toNat % 4096 ∨ 4 ≤ o.toNat % 64 ∨ pageOwner s f.val (o.toNat / 4096) = none →
        exec (.doorbell f [o]) s = .next s) ∧
      exec (.doorbell f []) s = .next s)) ∧
  (∀ (s : State) (a : BitVec 12) (q : BitVec 3) (v : Queue) (x : Allotment),
    KMap.get? s.queues (queueKey a.toNat q.toNat) = some v → KMap.get? s.allots a.toNat = some x →
    mayFetch s a.toNat = true → v.closing = false → v.inflight.length < 32 → x.inflight < x.quota →
    v.inflight.contains v.scan = false → KMap.has s.jobs (jobKey a.toNat q.toNat v.scan) = false →
    (∀ t, v.rang = some t → t < now s → v.stop = some .notOwned ∨ v.stop = some .busy →
      ∃ t', exec (.scanRestart a q) s = .next t' ∧ KMap.get? t'.queues (queueKey a.toNat q.toNat) =
        some { v with rang := none, stop := none, awaiting := true }) ∧
    (v.stop = some .limit → (limited s a.toNat).head? = some q.toNat →
      ∃ t', exec (.limitResume a q) s = .next t' ∧ KMap.get? t'.queues (queueKey a.toNat q.toNat) =
        some { v with stop := none, awaiting := true } ∧
        KMap.get? t'.allots a.toNat = some { x with lastResume := q.toNat })) ∧
  (∀ (s : State) (a : BitVec 12) (q : BitVec 3) (v : Queue) (x : Allotment) (n : Nat),
    KMap.get? s.queues (queueKey a.toNat q.toNat) = some v → KMap.get? s.allots a.toNat = some x →
    mayFetch s a.toNat = true → (awaitingQueues s a.toNat).head? = some q.toNat →
    KMap.getD s.sched.served a.toNat 0 < turnsOf s a.toNat → freeTag s a.toNat false = some n →
    (v.inflight.length < 32 → x.inflight < x.quota → ∃ t, exec (.descriptorReadIssue a q) s = .next t ∧
      KMap.get? t.queues (queueKey a.toNat q.toNat) =
        some { v with awaiting := false, reading := true, bell := v.bell.filter fun b => decide (b = now s) } ∧
      KMap.get? t.allots a.toNat = some { x with
        lastFetch := q.toNat,
        reads := x.reads ++ [⟨n, false, q.toNat, v.base + BitVec.ofNat 64 (64 * v.scan), 64, false⟩] } ∧
      t.link.out = s.link.out ++ [.read (x.func.getD 0) n (v.base + BitVec.ofNat 64 (64 * v.scan)) 64] ∧
      KMap.getD t.sched.served a.toNat 0 = KMap.getD s.sched.served a.toNat 0 + 1 ∧
      t.regs.descReads = s.regs.descReads + 1 ∧ t.jobs = s.jobs) ∧
    (32 ≤ v.inflight.length ∨ x.quota ≤ x.inflight → ∃ t, exec (.descriptorReadIssue a q) s = .next t ∧
      KMap.get? t.queues (queueKey a.toNat q.toNat) = some { v with stop := some .limit, awaiting := false } ∧
      t.link = s.link ∧ t.allots = s.allots ∧ t.jobs = s.jobs)) ∧
  (∀ (s : State) (a : BitVec 12) (q : BitVec 3) (v : Queue) (x : Allotment) (b : Vector Byte 64),
    KMap.get? s.queues (queueKey a.toNat q.toNat) = some v → KMap.get? s.allots a.toNat = some x →
    (v.reading = false → exec (.entryArrival a q b) s = .next s) ∧
    (v.reading = true →
      ((parseEntry b.toList).own = false → v.bell = none → ∃ t w l, exec (.entryArrival a q b) s = .next t ∧
        KMap.get? t.queues (queueKey a.toNat q.toNat) = some { v with reading := false, stop := some .notOwned } ∧
        KMap.get? t.allots a.toNat = some w ∧
        w.reads = dropFirst (fun r => serves false q.toNat r && !r.answered) x.reads ++ l ∧ (∀ r ∈ l, r.data = true) ∧
        (s.jobs = [] → l = [] ∧ t.jobs = [] ∧ t.link = s.link)) ∧
      (∀ c, (parseEntry b.toList).own = false → v.bell = some c → v.inflight.length < 32 → x.inflight < x.quota →
        v.inflight.contains v.scan = false → KMap.has s.jobs (jobKey a.toNat q.toNat v.scan) = false →
        ∃ t, exec (.entryArrival a q b) s = .next t ∧ KMap.get? t.queues (queueKey a.toNat q.toNat) =
          some { v with reading := false, bell := none, stop := none, awaiting := true }) ∧
      ((parseEntry b.toList).own = true → v.scan < 2 ^ v.log2n → v.log2n ≤ 12 → ∃ t j, exec (.entryArrival a q b) s = .next t ∧
        KMap.get? t.jobs (jobKey a.toNat q.toNat v.scan) = some j ∧ j.entry = parseEntry b.toList ∧ j.arrival = now s ∧
        j.order = s.sched.fetchSeq ∧ t.sched.fetchSeq = s.sched.fetchSeq + 1)))

/-- R5: an admin command on any other queue than queue 0 of allotment 0 completes with ST_OPCODE_UNKNOWN and has no effect. -/
def Obligations.AdminQueueOnly : Prop :=
  ∀ (s : State) (a : BitVec 12) (q : BitVec 3) (v : Queue) (x : Allotment) (b : Vector Byte 64),
    KMap.get? s.queues (queueKey a.toNat q.toNat) = some v → KMap.get? s.allots a.toNat = some x → v.reading = true →
    v.scan < 2 ^ v.log2n → v.log2n ≤ 12 → (parseEntry b.toList).own = true →
    (parseEntry b.toList).opcode.toNat / 256 = 0xF0 → a ≠ 0 ∨ q ≠ 0 →
    ∃ t j, exec (.entryArrival a q b) s = .next t ∧ KMap.get? t.jobs (jobKey a.toNat q.toNat v.scan) = some j ∧
      j.phase = .decided ∧ j.status = .opcodeUnknown ∧ j.output = [] ∧ j.entry = parseEntry b.toList ∧
      (∀ i, i ≠ a.toNat → KMap.get? t.allots i = KMap.get? s.allots i) ∧
      (∀ y, KMap.get? t.allots a.toNat = some y →
        y = { x with reads := y.reads, inflight := x.inflight + 1 }) ∧
      (∀ i, i ≠ queueKey a.toNat q.toNat → KMap.get? t.queues i = KMap.get? s.queues i) ∧
      t.regs = s.regs ∧ t.ice = s.ice ∧ t.lc = s.lc ∧ t.otp = s.otp ∧ t.gh = s.gh ∧ t.lodge = s.lodge ∧ t.vault = s.vault ∧
      t.journal = s.journal ∧ t.bridge = s.bridge ∧ t.stores = s.stores ∧ t.bist = s.bist ∧ t.curves = s.curves ∧ t.boot = s.boot

/-- Input bytes land behind those that landed before: of a table, of a job past its checks, and of one under check; bytes of a
read that the isolation wrapper has answered are discarded. -/
def Obligations.DataLands : Prop :=
  ∀ (s : State) (r : JobRef) (j : Job) (x : Allotment) (d : HostReq) (b : List Byte), KMap.get? s.jobs (refKey r) = some j →
    KMap.get? s.allots r.allot.toNat = some x → x.reads.find? (serves true (refKey r)) = some d →
    1 ≤ b.length → b.length ≤ 4096 → b.length ≤ d.due →
    (d.answered = false → j.phase = .tables → ∀ n addr, j.table = some (addr, n) → j.landed.length + b.length < 16 * n →
      ∃ t y w l, exec (.dataReadArrival r b) s = .next t ∧ KMap.get? t.jobs (refKey r) = some y ∧ y.landed = j.landed ++ b ∧
        y = { j with landed := y.landed, asked := y.asked } ∧ KMap.get? t.allots r.allot.toNat = some w ∧
        w.reads = dropFirst (fun n => serves true (refKey r) n && decide (n.due = 0))
          (updateFirst (serves true (refKey r)) (fun n => { n with due := n.due - b.length }) x.reads) ++ l ∧
        (∀ n ∈ l, n.data = true)) ∧
    (d.answered = false → j.phase ≠ .tables → framed s (refKey r) j = false → ∃ t y,
      exec (.dataReadArrival r b) s = .next t ∧ KMap.get? t.jobs (refKey r) = some y ∧ y.landed = j.landed ++ b ∧
      y.input = j.landed ++ b) ∧
    (d.answered = true → ∃ t y, exec (.dataReadArrival r b) s = .next t ∧ KMap.get? t.jobs (refKey r) = some y ∧
      y = { j with asked := y.asked })

/-- A waiting job takes a free residence: one moved out before is restored by housekeeping slices, a new one goes on with
its input or is rejected by its checks; a wait of 64 ticks begins to move the least recently used residence out. -/
def Obligations.JobPlaced : Prop :=
  ∀ (s : State) (r : JobRef) (j : Job) (c : UnitClass), KMap.get? s.jobs (refKey r) = some j →
    (factsD s (refKey r) j).placed = some c → awaitsPlace j = true →
    j.evicted = true ∨ jobsWithState s (keyAllot (refKey r)) < stateLimit s (keyAllot (refKey r)) →
    (∀ u n, choosePlace s (keyAllot (refKey r)) c = some (u, n) →
      (j.evicted = true → ∃ t x, exec (.jobPlacement r) s = .next t ∧ KMap.get? t.jobs (refKey r) = some x ∧
        x = { j with place := some (u, n), restoring := if u < 4 then 8 else 1, asked := x.asked }) ∧
      (j.evicted = false → ∃ t x, exec (.jobPlacement r) s = .next t ∧ KMap.get? t.jobs (refKey r) = some x ∧
        (x.phase ≠ .decided → x.place = some (u, n)))) ∧
    (∀ u n k, choosePlace s (keyAllot (refKey r)) c = none → j.waitFrom + 64 ≤ now s → evictionFor s (refKey r) = false →
      ((classUnits s c).find? fun u => unitOpen s u && decide (evictable s (keyAllot (refKey r)) u ≠ [])) = some u →
      leastUsed s u (evictable s (keyAllot (refKey r)) u) = some n → (residenceAt s u n).job = some k →
      exec (.residenceWaitExpiry r) s = .next (setUnit s u { unitAt s u with
        evictions := (unitAt s u).evictions ++ [{ job := k, residence := n, left := moveSlices u, next := some (refKey r) }] }))

/-- A ready job is dispatched in the tick after its input stood; without the entropy that it needs it fails or waits.
The same for the jobs of tenants, which a mask generator's seed can hold and whose failure leaves no output. -/
def Obligations.JobDispatched : Prop :=
  (∀ (s : State) (r : JobRef) (j : Job), KMap.get? s.jobs (refKey r) = some j → j.phase = .ready → j.lastReady < now s →
    s.dump.active = none → contextBusy s (refKey r) j = false → family j = 0xF0 → adminTurn s (refKey r) j = true →
    (needsRandom s (refKey r) j = false ∨ s.fountain.ready = true → ∃ t, exec (.jobDispatch r) s = .next t ∧
      KMap.get? t.jobs (refKey r) = some (flagIf (inSolo s) flagSolo { j with
        phase := .dispatched, dispatch := now s, dispatchOrder := s.sched.dispatchSeq + 1 }) ∧
      t.sched.dispatchSeq = s.sched.dispatchSeq + 1 ∧ t.link = s.link ∧
      (j.entry.opcode ≠ 0xF008 → t.regs.admJob = some (refKey r))) ∧
    (needsRandom s (refKey r) j = true → s.fountain.ready = false → s.fountain.startupExpired = false →
      exec (.jobDispatch r) s = .next s)) ∧
  (∀ (s : State) (r : JobRef) (j : Job), KMap.get? s.jobs (refKey r) = some j → j.phase = .ready → j.lastReady < now s →
    s.dump.active = none → contextBusy s (refKey r) j = false → family j ≠ 0xF0 →
    (needsRandom s (refKey r) j = false ∨ s.fountain.ready = true →
      ((factsD s (refKey r) j).shared = false ∨ seedFor s j = true → ∃ t, exec (.jobDispatch r) s = .next t ∧
        KMap.get? t.jobs (refKey r) = some (flagIf (inSolo s) flagSolo { j with
          phase := .dispatched, dispatch := now s, dispatchOrder := s.sched.dispatchSeq + 1 }) ∧
        t.sched.dispatchSeq = s.sched.dispatchSeq + 1 ∧ t.link = s.link ∧ t.regs = s.regs) ∧
      ((factsD s (refKey r) j).shared = true → seedFor s j = false → exec (.jobDispatch r) s = .next s)) ∧
    (needsRandom s (refKey r) j = true → s.fountain.ready = false → s.fountain.startupExpired = true →
      ∃ t x, exec (.jobDispatch r) s = .next t ∧ KMap.get? t.jobs (refKey r) = some x ∧ x.phase = .decided ∧
        x.status = .entropyFailed ∧ x.output = []))

/-- A completion is written over its entry: what is left of the output first, then bytes 1 to 63, then byte 0; without posted
credit the writes wait; what a quiesce discards writes nothing.
Moderation: when the count or the window is due at the start of the tick, the queue's message goes out, or its PBA bit is set;
before that nothing happens. -/
def Obligations.CompletionWritten : Prop :=
  (∀ (s : State) (r : JobRef) (j : Job) (f : Nat) (out : List Byte) (l : List Outbound),
    KMap.get? s.jobs (refKey r) = some j → j.phase = .decided → j.decidedAt ≤ now s → s.dump.active = none →
    f = funcOf s (keyAllot (refKey r)) → out = (outputBytes s (refKey r) j).drop j.written →
    l = (if out = [] then [] else [.write f (j.entry.outAddr + BitVec.ofNat 64 j.written) out (funcAt s f).relaxed]) ++
      [.write f (entryAddress s (refKey r) + 1)
         ((completionBytes j (framed s (refKey r) j) (j.written + out.length)).drop 1) false,
       .write f (entryAddress s (refKey r)) ((completionBytes j (framed s (refKey r) j) (j.written + out.length)).take 1) false] →
    (j.discard = false → ∃ t, exec (.jobCompletion r) s = .next t ∧ t.regs.completions = s.regs.completions + 1 ∧
      (s.link.credit = true → t.link.out = s.link.out ++ l ∧ t.link.held = s.link.held) ∧
      (s.link.credit = false → t.link.out = s.link.out ∧ t.link.held = s.link.held ++ l)) ∧
    (j.discard = true → ∃ t, exec (.jobCompletion r) s = .next t ∧ t.link = s.link ∧ t.regs.completions = s.regs.completions)) ∧
  (∀ (s : State) (a : BitVec 12) (q : BitVec 3) (x : Queue) (n : Nat),
    KMap.get? s.queues (queueKey a.toNat q.toNat) = some x → x.vector = some n →
    (1 ≤ pendingAt (now s) x → x.modCount ≤ pendingAt (now s) x ∨ x.pendSince + x.modTicks ≤ now s →
      ∃ t, exec (.msixModeration a q) s = .next t ∧
        KMap.get? t.queues (queueKey a.toNat q.toNat) =
          some { x with pendCount := x.pendCount - pendingAt (now s) x, pendSince := now s } ∧
        (vectorOpen (funcAt s (funcOf s a.toNat)) n = true → s.link.credit = true →
          t.link.out = s.link.out ++ [messageOf s (funcOf s a.toNat) n]) ∧
        (vectorOpen (funcAt s (funcOf s a.toNat)) n = false →
          t.link.out = s.link.out ∧ n ∈ (funcAt t (funcOf s a.toNat)).pba)) ∧
    (pendingAt (now s) x = 0 ∨ pendingAt (now s) x < x.modCount ∧ now s < x.pendSince + x.modTicks →
      exec (.msixModeration a q) s = .next s))

/-- The 64 bytes of a completion: OWN 0 and DONE 1 in byte 0, then each field of Table 4-3 in its place. -/
def Obligations.CompletionLayout : Prop :=
  ∀ (j : Job) (b : Bool) (n : Nat),
    (completionBytes j b n).length = 64 ∧
    fieldAt (completionBytes j b n) 0 1 % 2 = 0 ∧ fieldAt (completionBytes j b n) 0 1 / 16 % 2 = 1 ∧
    fieldAt (completionBytes j b n) 2 2 = j.entry.opcode.toNat ∧ fieldAt (completionBytes j b n) 4 4 = j.entry.tag.toNat ∧
    fieldAt (completionBytes j b n) 8 1 = statusCode j.status ∧ fieldAt (completionBytes j b n) 9 1 = j.flags.toNat ∧
    fieldAt (completionBytes j b n) 10 2 = j.attempts % 2 ^ 16 ∧ fieldAt (completionBytes j b n) 12 4 = n % 2 ^ 32 ∧
    fieldAt (completionBytes j b n) 16 8 = j.fault.toNat ∧ fieldAt (completionBytes j b n) 24 4 = j.done % 2 ^ 32 ∧
    fieldAt (completionBytes j b n) 32 8 = j.startTick % 2 ^ 64 ∧ fieldAt (completionBytes j b n) 40 8 = j.endTick % 2 ^ 64 ∧
    (b = true → slice (completionBytes j b n) 48 16 = zeroBytes 16)

/-! ## Ticks, slots and the rows of the job families (02_bandstand.md, 06_lattice.md to 14_icehouse.md) -/

/-- A tick of a quiet device: the count rises, fetch turns are fresh, and the view, the halts and the queues of commands
stand as the boundary leaves them; before stage 4 nothing ticks.
The boundary at the end of an epoch: leases whose epoch has come replace the old ones. -/
def Obligations.Ticks : Prop :=
  (∀ s : State,
    (quiet s → 4 ≤ s.boot.stage → offsetOf (now s) ≠ 4095 → ∃ t, exec (.tick []) s = .next t ∧
      t.sched.tick = s.sched.tick + 1 ∧ t.sched.served = [] ∧ t.regs.bstSel = s.regs.bstSelNext.getD s.regs.bstSel ∧
      t.regs.bstSelNext = none ∧ t.jobs = [] ∧ t.otp = s.otp ∧ t.pending = s.pending ∧
      ((s.queues.all fun p => decide (p.2.pendCount = 0)) = true → t.queues = s.queues)) ∧
    (∀ ms, s.boot.stage < 4 → exec (.tick ms) s = .next s)) ∧
  (∀ s : State, quiet s → 4 ≤ s.boot.stage → offsetOf (now s) = 4095 → ∃ t, exec .epochBoundary s = .next t ∧
    t.sched.tick = s.sched.tick + 1 ∧
    ∀ a v, KMap.get? s.allots a = some v → ∃ w, KMap.get? t.allots a = some w ∧
      (∀ e l, v.pendingLease = some (e, l) → 4096 * e ≤ s.sched.tick + 1 → w.lease = l ∧ w.pendingLease = none) ∧
      (∀ e l, v.pendingLease = some (e, l) → s.sched.tick + 1 < 4096 * e → w.lease = v.lease ∧ w.pendingLease = some (e, l)) ∧
      (v.pendingLease = none → w.lease = v.lease ∧ w.pendingLease = none))

/-- One step of the slot procedure: the entry of the greatest counter, the first of them, is picked and pays for all; the
counters keep their sum when the weights fill the epoch. -/
def Obligations.SlotStepFair : Prop :=
  ∀ l : List SlotEntry, l ≠ [] → (l.map fun e => e.id).Nodup → (l.map fun e => e.weight).sum = 4096 →
    (((slotPick l).2.map fun e => e.cur).sum = (l.map fun e => e.cur).sum) ∧
    ((slotPick l).2.map fun e => (e.id, e.weight)) = (l.map fun e => (e.id, e.weight)) ∧
    ∃ e ∈ l, (slotPick l).1 = e.id ∧ ∀ x ∈ l, x.cur + x.weight ≤ e.cur + e.weight

/-- A mask generator asks for its standby seed, takes a seed that has arrived, and swaps at the end of squeeze tick 1,311.
A resident shared job that has had no ready slice for 262,144 ticks for want of a seed ends in ST_ENTROPY_FAILED. -/
def Obligations.MasksAndSharing : Prop :=
  (∀ (s : State) (u : Fin 4) (m : MaskGen), m = (unitAt s u.val).mask →
    (m.seeded = true → m.standby = false → m.requested = false → 657 ≤ m.squeezeTick →
      exec (.maskSeedRequest u) s = .next (setUnit s u.val { unitAt s u.val with mask := { m with requested := true } })) ∧
    (m.seeded = true → m.standby = true → 1312 ≤ m.squeezeTick → exec (.maskStateSwap u) s =
      .next (setUnit s u.val { unitAt s u.val with
        mask := { m with standby := false, squeezeTick := m.squeezeTick - 1311 } })) ∧
    (m.seeded = true → m.standby = false → 1312 ≤ m.squeezeTick → ∃ v, exec (.maskStateSwap u) s =
      .next (setUnit s u.val { unitAt s u.val with mask := v }) ∧ v.seeded = false) ∧
    (m.delivered = true → m.seeded = true → exec (.maskSeedArrival u) s =
      .next (setUnit s u.val { unitAt s u.val with
        mask := { m with standby := true, requested := false, delivered := false } })) ∧
    (m.delivered = true → m.seeded = false → exec (.maskSeedArrival u) s =
      .next (setUnit s u.val { unitAt s u.val with
        mask := { m with seeded := true, squeezeTick := 0, restartAt := now s + 1, requested := false, delivered := false } })) ∧
    (m.seeded = true → m.squeezeTick < 657 → exec (.maskSeedRequest u) s = .next s)) ∧
  (∀ (s : State) (r : JobRef) (j : Job) (u n : Nat), KMap.get? s.jobs (refKey r) = some j →
    j.phase = .running ∧ j.shared = true ∨ j.phase = .ready ∧ (factsD s (refKey r) j).shared = true → j.place = some (u, n) → u < 4 → (unitAt s u).mask.seeded = false →
    (j.lastReady + 262144 ≤ now s → ∃ t x, exec (.sharedJobEntropyTimeout r) s = .next t ∧
      KMap.get? t.jobs (refKey r) = some x ∧ x.phase = .decided ∧ x.status = .entropyFailed ∧ x.output = [] ∧ x.place = none) ∧
    (now s < j.lastReady + 262144 → exec (.sharedJobEntropyTimeout r) s = .next s))

/-- A dispatched job whose checks pass runs its operation: its slices, its draw and its sharing are those of its family's
facts; what other rows would start, and a job that is not dispatched, is left alone. -/
def Obligations.JobRowsStart : Prop :=
  ∀ p ∈ jobRows, ∀ (s : State) (r : JobRef) (j : Job) (c : State), KMap.get? s.jobs (refKey r) = some j →
    (j.phase = .dispatched → j.entry.opcode.toNat ∈ p.2 → j.entry.opcode.toNat ∉ reservingOpcodes →
      runChecks dispatchChecks s (refKey r) (factsD s (refKey r) j) = (c, none) →
      (factsD s (refKey r) j).draw.1 ≠ 0 ∨ isOpenJob j = true ∨
        (∀ n, ((factsD s (refKey r) j).plan n).filter (fun q => decide (q.2 ≠ 0)) ≠ []) →
      ∃ t x, exec (p.1 r) s = .next t ∧ KMap.get? t.jobs (refKey r) = some x ∧ x.phase = .running ∧ x.entry = j.entry ∧
        x.plan = ((factsD s (refKey r) j).plan x.attempts).filter (fun q => decide (q.2 ≠ 0)) ∧
        x.shared = (factsD s (refKey r) j).shared ∧
        x.draws = (if (factsD s (refKey r) j).draw.1 = 0 then []
          else [{ bytes := (factsD s (refKey r) j).draw.1, fresh := (factsD s (refKey r) j).draw.2, posted := false }]) ∧
        t.link = c.link ∧ t.sched = c.sched ∧ t.freeCount = c.freeCount + 1) ∧
    (j.phase ≠ .dispatched ∨ j.entry.opcode.toNat ∉ p.2 → exec (p.1 r) s = .next s)

/-- The same for the jobs that draw and run nothing: the outcome is decided at once. -/
def Obligations.JobRowsDecide : Prop :=
  ∀ p ∈ jobRows, ∀ (s : State) (r : JobRef) (j : Job) (c : State), KMap.get? s.jobs (refKey r) = some j →
    j.phase = .dispatched → j.entry.opcode.toNat ∈ p.2 → j.entry.opcode.toNat ∉ reservingOpcodes → isOpenJob j = false →
    runChecks dispatchChecks s (refKey r) (factsD s (refKey r) j) = (c, none) →
    (factsD s (refKey r) j).draw.1 = 0 →
    (∀ n, ((factsD s (refKey r) j).plan n).filter (fun q => decide (q.2 ≠ 0)) = []) →
    (KMap.get? c.jobs (refKey r)).all (fun x => decide (x.waits = []) && decide (x.houseBefore = 0) && decide (x.houseAfter = 0) &&
      x.slot.isNone && x.ended.isNone) = true → mirrors c = false → inSolo c = false →
    ∃ t x y, exec (p.1 r) s = .next t ∧ KMap.get? (launch c (refKey r) (factsD s (refKey r) j)).jobs (refKey r) = some y ∧
      KMap.get? t.jobs (refKey r) = some x ∧ x.phase = .decided ∧
      x.output = (endingOf (launch c (refKey r) (factsD s (refKey r) j)) (refKey r) y).2.output ∧
      (isSuccess x.status = isSuccess (endingOf (launch c (refKey r) (factsD s (refKey r) j)) (refKey r) y).2.status) ∧
      x.result = (endingOf (launch c (refKey r) (factsD s (refKey r) j)) (refKey r) y).2.result

/-- A dispatched job that fails a dispatch check is decided in the same tick with that status and no output.
A job that names no key and creates nothing, and is of a family that keeps nothing in the device, passes every dispatch
check and changes nothing by it. -/
def Obligations.JobRowsFail : Prop :=
  (∀ p ∈ jobRows, ∀ (s : State) (r : JobRef) (j : Job) (c : State) (st : Status), KMap.get? s.jobs (refKey r) = some j →
    j.phase = .dispatched → j.entry.opcode.toNat ∈ p.2 →
    runChecks dispatchChecks s (refKey r) (factsD s (refKey r) j) = (c, some st) →
    ∃ t x, exec (p.1 r) s = .next t ∧ KMap.get? t.jobs (refKey r) = some x ∧ x.phase = .decided ∧ x.status = st ∧
      x.output = [] ∧ x.entry = j.entry ∧ x.decidedAt = now s ∧ x.place = none) ∧
  (∀ (s : State) (k : Nat) (j : Job), KMap.get? s.jobs k = some j → j.entry.keyh = 0 → (factsD s k j).creates = .nothing →
    family j ∈ [0x01, 0x02, 0x03, 0x04, 0x08, 0x11, 0x12] → runChecks dispatchChecks s k (factsD s k j) = (s, none))

/-- Jobs that reserve at their start: a stateful SIGN takes the next index of the live block, a QUOTE the next value, a
NOTARISE posts its record and waits for it.
DESTROY of a resident key takes it away and is decided at once; of a slot key it withdraws the key first. -/
def Obligations.ReservingJobsStart : Prop :=
  (∀ (s : State) (r : JobRef) (j : Job) (c : State) (y : Job), KMap.get? s.jobs (refKey r) = some j → j.phase = .dispatched →
    runChecks dispatchChecks s (refKey r) (factsD s (refKey r) j) = (c, none) → KMap.get? c.jobs (refKey r) = some y →
    (∀ n u i e, j.entry.opcode = 0x0502 ∨ j.entry.opcode = 0x0602 → y.keyRef = some n → statefulAt c n = some u →
      u.live = some (i, e) → (factsD s (refKey r) j).draw.1 ≠ 0 ∨
        (∀ m, ((factsD s (refKey r) j).plan m).filter (fun q => decide (q.2 ≠ 0)) ≠ []) →
      ∃ t x v, exec (.lmsSign r) s = .next (if j.entry.opcode = 0x0502 then t else s) ∧
        exec (.xmssSign r) s = .next (if j.entry.opcode = 0x0602 then t else s) ∧
        KMap.get? t.jobs (refKey r) = some x ∧ x.index = i ∧ x.phase = .running ∧ statefulAt t n = some v ∧
        v.live = (if i + 1 < e then some (i + 1, e) else none)) ∧
    (∀ v e, j.entry.opcode = 0x300B → c.ice.quoteLive = some (v, e) →
      (∀ m, ((factsD s (refKey r) j).plan m).filter (fun q => decide (q.2 ≠ 0)) ≠ []) →
      ∃ t x, exec (.fumelQuote r) s = .next t ∧ KMap.get? t.jobs (refKey r) = some x ∧ x.index = v ∧ t.ice.quoteCount = v ∧
        t.ice.quoteLive = (if v + 1 < e then some (v + 1, e) else none)) ∧
    (j.entry.opcode = 0x3801 → ∃ t x, exec (.notarise r) s = .next t ∧ KMap.get? t.jobs (refKey r) = some x ∧
      x.phase = .running ∧ x.waits = [.record c.journal.nextId] ∧ t.journal.pending = c.journal.pending ++
        [{ id := c.journal.nextId, type := 1, subtype := y.input.length, allot := BitVec.ofNat 16 (keyAllot (refKey r)),
           holder := keyAllot (refKey r), flags := 0, body := slice y.input 0 64 }])) ∧
  (∀ (s : State) (r : JobRef) (j : Job) (c : State) (n : Nat) (key : Key) (y : Job), KMap.get? s.jobs (refKey r) = some j →
    j.phase = .dispatched → j.entry.opcode = 0x3009 →
    runChecks dispatchChecks s (refKey r) (factsD s (refKey r) j) = (c, none) →
    (factsD s (refKey r) j).draw.1 = 0 → (∀ m, (factsD s (refKey r) j).plan m = []) →
    KMap.get? c.jobs (refKey r) = some y → y.waits = [] → y.index = 0 → y.houseBefore = 0 → y.houseAfter = 0 → mirrors c = false →
    (findKey c (keyAllot (refKey r)) j.entry.keyh.toNat = some (false, n, key) → key.stateful = none →
      ∃ t, exec (.destroyKey r) s = .next t ∧ KMap.get? t.ice.keys n = some { key with withdrawn := true }) ∧
    (findKey c (keyAllot (refKey r)) j.entry.keyh.toNat = some (true, n, key) →
      ∃ t x, exec (.destroyKey r) s = .next t ∧ t.ice.residents = KMap.drop c.ice.residents n ∧
        KMap.get? t.jobs (refKey r) = some x ∧ x.phase = .decided ∧ isSuccess x.status = true))

/-- BN_ADD, BN_SUB, BN_MUL: the sum, the difference and the product modulo M; an even or small modulus and operands that
are not below it are out of range.
BN_INV and BN_EXP: an inverse is one, and none is reported only where none exists; the power is the power. -/
def Obligations.BigNumbers : Prop :=
  (∀ m a b : Nat,
    (m % 2 = 1 → 3 ≤ m → a < m → b < m →
      bnValue 1 m a b = .inr ((a + b) % m) ∧
      (∃ d, bnValue 2 m a b = .inr d ∧ d < m ∧ (d + b) % m = a) ∧
      bnValue 3 m a b = .inr (a * b % m)) ∧
    (∀ op, m % 2 = 0 ∨ m < 3 ∨ m ≤ a → bnValue op m a b = .inl .operandRange) ∧
    (∀ op, op ≤ 3 → m ≤ b → bnValue op m a b = .inl .operandRange)) ∧
  (∀ m a b : Nat, m % 2 = 1 → 3 ≤ m → a < m →
    (∀ x, bnValue 4 m a b = .inr x → x < m ∧ a * x % m = 1) ∧
    (bnValue 4 m a b = .inl .notInvertible → Nat.gcd a m ≠ 1) ∧
    bnValue 5 m a b = .inr (a ^ b % m))

/-! ## The Parterre's instructions (10_parterre_isa.md) -/

/-- The word of every instruction row, encoded by Tables 10-2 and 10-4, decodes to the row's operation with every operand
at every value that it admits. -/
def Obligations.WordsDecodeToRows : Prop :=
  ∀ (c : Instr) (u : Nat) (w : W32) (o : Op), isaOp c = some (u, w, o) → decodeOp w = o

/-- An instruction row issues on the body of its unit: with its effect the registers, the plot, the SWM and the cycles move on,
and the routine address goes where the Trellis lets it land; with a fault or past cycle 552 the body ends there and nothing
else changes. Where no body runs nothing happens. -/
def Obligations.IsaRowsIssue : Prop :=
  ∀ (c : Instr) (u : Nat) (w : W32) (o : Op) (s : State) (b : Body) (ch : Charge), isaOp c = some (u, w, o) →
    s.bodies.length = 4 → u < 4 → b = bodyAt s u → ch = o.charge (vmOf s b) →
    (∀ j, canIssue s u w = true → KMap.get? s.jobs b.job = some j →
      (552 ≤ startCycle b ch → ∃ t, exec c s = .next t ∧ bodyAt t u = { b with fault := some fltOverrun, ended := true } ∧
        (∀ k, plotAt t k = plotAt s k)) ∧
      (startCycle b ch < 552 →
        (∀ x n, o.effect (envOf s j b) { vmOf s b with body.pc := b.pc + 1 } = .ok x →
          n = startCycle b ch + (if chains b ch then ch.lam else ch.cost) + (x.body.cycles - b.cycles) →
          (n ≤ 552 → ∃ t, exec c s = .next t ∧
            bodyAt t u = { x.body with
              pc := (followOn (envOf s j b).land b.seg b.pc x.body.pc).1,
              seg := (followOn (envOf s j b).land b.seg b.pc x.body.pc).2, cycles := n,
              chain := if 1 ≤ ch.unit then some (ch.unit, ch.dest) else none } ∧
            plotAt t x.body.plot = x.plot ∧ (∀ k, k ≠ x.body.plot → plotAt t k = plotAt s k) ∧
            swmAt t (keyAllot x.body.job) = x.swm ∧ (∀ k, k ≠ keyAllot x.body.job → swmAt t k = swmAt s k) ∧
            t.freeCount = x.free ∧ (∀ v, v ≠ u → bodyAt t v = bodyAt s v) ∧ t.jobs = s.jobs ∧ t.ice = s.ice ∧
            t.link = s.link ∧ t.units = s.units) ∧
          (552 < n → ∃ t, exec c s = .next t ∧ bodyAt t u = { b with fault := some fltOverrun, ended := true } ∧
            (∀ k, plotAt t k = plotAt s k) ∧ t.swm = s.swm)) ∧
        (∀ code, o.effect (envOf s j b) { vmOf s b with body.pc := b.pc + 1 } = .error code →
          ∃ t, exec c s = .next t ∧ bodyAt t u = { b with fault := some code, ended := true } ∧
            (∀ k, plotAt t k = plotAt s k) ∧ t.swm = s.swm ∧ t.freeCount = s.freeCount ∧ t.jobs = s.jobs))) ∧
    (canIssue s u w = false → exec c s = .next s)

/-- Unshared 32-bit arithmetic modulo q: VADD, VSUB, VNEG, VRED, VMUL, VMAC and VMULC.
Unshared 32-bit logic and shifts: VAND, VOR, VXOR, VSLL, VSRL, VSRA, VROL; a shift by the width or more faults.
A mask field writes only the elements whose bit is set; a shared mask, or one with provenance, faults. -/
def Obligations.UnsharedArithmetic : Prop :=
  (∀ (e : Env) (m : Vm) (rd rs1 rs2 : Nat) (o : Op) (f : Nat → Nat → Nat → Nat), plainBody m → m.body.vl ≠ 0 →
    (o, f) ∈ [(opVadd rd rs1 rs2 0, fun a b _ => (a + b) % m.body.vmod),
      (opVsub rd rs1 rs2 0, fun a b _ => (a + (m.body.vmod - b % m.body.vmod)) % m.body.vmod),
      (opVneg rd rs1 0, fun a _ _ => (m.body.vmod - a % m.body.vmod) % m.body.vmod),
      (opVred rd rs1 0, fun a _ _ => a % m.body.vmod), (opVmul rd rs1 rs2 0, fun a b _ => a * b % m.body.vmod),
      (opVmac rd rs1 rs2 0, fun a b d => (d + a * b) % m.body.vmod),
      (opVmulc rd rs1 rs2 0, fun a _ _ => a * (sreg m rs2).toNat % m.body.vmod)] →
    ∃ x, o.effect e m = .ok x ∧ onlyRegister m x rd ∧ vmode x rd = .unshared ∧
      ∀ j, j < m.body.vl → (elemAt x rd j).1 = f (elemAt m rs1 j).1 (elemAt m rs2 j).1 (elemAt m rd j).1) ∧
  (∀ (e : Env) (m : Vm) (rd rs1 rs2 n : Nat) (o : Op) (f : W32 → W32 → W32), plainBody m → m.body.vl ≠ 0 →
    (n < 32 → (o, f) ∈ [(opVand rd rs1 rs2 0, fun (a b : W32) => a &&& b), (opVor rd rs1 rs2 0, fun (a b : W32) => a ||| b),
        (opVxor rd rs1 rs2 0, fun (a b : W32) => a ^^^ b), (opVsll rd rs1 0 n, fun (a _ : W32) => a <<< n),
        (opVsrl rd rs1 0 n, fun (a _ : W32) => a >>> n), (opVsra rd rs1 0 n, fun (a _ : W32) => a.sshiftRight n),
        (opVrol rd rs1 0 n, fun (a _ : W32) => a.rotateLeft n)] →
      ∃ x, o.effect e m = .ok x ∧ onlyRegister m x rd ∧ vmode x rd = .unshared ∧
        ∀ j, j < m.body.vl → (elemAt x rd j).1 =
          (f (BitVec.ofNat 32 (elemAt m rs1 j).1) (BitVec.ofNat 32 (elemAt m rs2 j).1)).toNat) ∧
    (32 ≤ n → ∀ o ∈ [opVsll rd rs1 0 n, opVsrl rd rs1 0 n, opVsra rd rs1 0 n, opVrol rd rs1 0 n],
      o.effect e m = .error fltValue)) ∧
  (∀ (e : Env) (m : Vm) (rd rs1 rs2 k : Nat), plainBody m → m.body.vl ≠ 0 → k ≠ 0 →
    ((mreg m k).shared = false → (mreg m k).prov = false → ∃ x, (opVadd rd rs1 rs2 k).effect e m = .ok x ∧
      onlyRegister m x rd ∧ ∀ j, j < m.body.vl → (elemAt x rd j).1 =
        if (mreg m k).s0.getLsbD j then ((elemAt m rs1 j).1 + (elemAt m rs2 j).1) % m.body.vmod else (elemAt m rd j).1) ∧
    ((mreg m k).shared = true ∨ (mreg m k).prov = true → (opVadd rd rs1 rs2 k).effect e m = .error fltMode))

/-- VSTS stores element j at base + j × stride, and no other byte of the plot changes; VLDS reads it back; a position
outside the plot faults in both.
VXFER moves rows of the resident key into the plot, and in a vendor routine rows between SWM and the plot; in an Open routine
a transfer to SWM is privileged, and without a key it faults.
KLOAD: words of the key as Boolean shares that carry provenance; without a load view it faults. -/
def Obligations.MemoryAndKeys : Prop :=
  (∀ (e : Env) (m : Vm) (rd rs1 rs2 : Nat), plainBody m → m.body.vl ≠ 0 →
    ((∀ j, j < m.body.vl → positionOk m (position m (sreg m rs1) (sreg m rs2) j) = true) →
      (∀ h, m.body.firstRead.contains h = false) → (sreg m rs2).toInt ≠ 0 → Memory.wf m.plot.mem = true →
      ∃ x, (opVsts rd rs1 rs2 0).effect e m = .ok x ∧
        (∀ j, j < m.body.vl → (x.plot.half (position m (sreg m rs1) (sreg m rs2) j).toNat).toNat = (elemAt m rd j).1) ∧
        (∀ h, (∀ j, j < m.body.vl → (position m (sreg m rs1) (sreg m rs2) j).toNat ≠ h) → x.plot.half h = m.plot.half h) ∧
        x.body.vregs = m.body.vregs ∧ x.body.sregs = m.body.sregs) ∧
    ((∀ j, j < m.body.vl → positionOk m (position m (sreg m rs1) (sreg m rs2) j) = true) → e.isOpen = false →
      ∃ x, (opVlds rd rs1 rs2 0).effect e m = .ok x ∧ x.plot = m.plot ∧
        ∀ j, j < m.body.vl → (elemAt x rd j).1 = (m.plot.half (position m (sreg m rs1) (sreg m rs2) j).toNat).toNat) ∧
    (∀ j, j < m.body.vl → positionOk m (position m (sreg m rs1) (sreg m rs2) j) = false → e.isOpen = false →
      (opVlds rd rs1 rs2 0).effect e m = .error fltPlotBound ∧ (opVsts rd rs1 rs2 0).effect e m = .error fltPlotBound)) ∧
  (∀ (e : Env) (m : Vm) (rd rs1 rs2 fn : Nat) (key : List Byte), plainBody m →
    (e.resident = some key → m.body.firstRead = [] → Memory.wf m.plot.mem = true →
      (∀ i, i < m.body.vl → (sreg m rs1).toNat + i * (sreg m rs2).toNat + 16 * (fn + 1) ≤ key.length) →
      positionByte m (sreg m rd).toNat + m.body.vl * (16 * (fn + 1)) ≤ 8 * plotWords →
      ∃ x, (opVxfer rd rs1 rs2 0 fn).effect e m = .ok x ∧ x.body.vregs = m.body.vregs ∧
        ∀ i d, i < m.body.vl → d < 16 * (fn + 1) →
          Memory.read x.plot.mem (positionByte m (sreg m rd).toNat + i * (16 * (fn + 1)) + d) =
            key.getD ((sreg m rs1).toNat + i * (sreg m rs2).toNat + d) 0) ∧
    (e.isOpen = false → e.resident = none → m.body.firstRead = [] → Memory.wf m.plot.mem = true → Memory.wf m.swm.mem = true →
      positionByte m (sreg m rd).toNat + m.body.vl * (16 * (fn + 1)) ≤ 8 * plotWords →
      (∀ i, i < m.body.vl → (sreg m rs1).toNat + i * (sreg m rs2).toNat + 16 * (fn + 1) ≤ e.swmBytes) →
      (∃ x, (opVxfer rd rs1 rs2 0 fn).effect e m = .ok x ∧ x.body.vregs = m.body.vregs ∧ x.swm = m.swm ∧
        ∀ i d, i < m.body.vl → d < 16 * (fn + 1) →
          Memory.read x.plot.mem (positionByte m (sreg m rd).toNat + i * (16 * (fn + 1)) + d) =
            Memory.read m.swm.mem ((sreg m rs1).toNat + i * (sreg m rs2).toNat + d)) ∧
      (16 * (fn + 1) ≤ (sreg m rs2).toNat →
        ∃ x, (opVxfer rd rs1 rs2 1 fn).effect e m = .ok x ∧ x.body.vregs = m.body.vregs ∧ x.plot = m.plot ∧
          ∀ i d, i < m.body.vl → d < 16 * (fn + 1) →
            Memory.read x.swm.mem ((sreg m rs1).toNat + i * (sreg m rs2).toNat + d) =
              Memory.read m.plot.mem (positionByte m (sreg m rd).toNat + i * (16 * (fn + 1)) + d))) ∧
    (e.isOpen = true → (opVxfer rd rs1 rs2 1 fn).effect e m = .error fltPrivileged) ∧
    (e.isOpen = true → e.resident = none → (opVxfer rd rs1 rs2 0 fn).effect e m = .error fltKey)) ∧
  (∀ (e : Env) (m : Vm) (rd rs1 : Nat) (key : List Byte), sharedBody m .boolean → m.body.vl ≠ 0 →
    (e.keyView = some key → (sreg m rs1).toNat % 4 = 0 → ∃ x, (opKload rd rs1).effect e m = .ok x ∧ vmode x rd = .boolean ∧
      ∀ j, j < m.body.vl → valueAt x rd j = leNat (slice key ((sreg m rs1).toNat + 4 * j) 4) ∧ (elemAt x rd j).2.2 = true) ∧
    (e.keyView = none → (opKload rd rs1).effect e m = .error fltKey) ∧
    (e.keyView = some key → (sreg m rs1).toNat % 4 ≠ 0 → (opKload rd rs1).effect e m = .error fltValue))

/-- The butterflies modulo q: CT gives a + w·b and a − w·b, GS a + b and (a − b)·w; the same register twice is illegal.
VPERM within groups of four, with its provenance beside what the destination carries (the model's reading of R222, log entry
62), VCMP to a mask, VCOMPRESS of the elements under a mask with their count.
The private cores: initialised, absorbing, finalised by SHAKE's padding and a permutation; one that is not ready
faults.
Sampling: VSAMPU's candidates and its acceptance mask, VCBD's centred values, both below q. -/
def Obligations.ButterfliesAndSampling : Prop :=
  (∀ (e : Env) (m : Vm) (rd rs1 rs2 : Nat), plainBody m → m.body.vl ≠ 0 → rd ≠ rs1 →
    (∃ x, (opVbflyCt rd rs1 rs2 0 false 0).effect e m = .ok x ∧ x.plot = m.plot ∧ ∀ j, j < m.body.vl →
      (elemAt x rd j).1 = ((elemAt m rd j).1 + (elemAt m rs2 j).1 * (elemAt m rs1 j).1) % m.body.vmod ∧
      ((elemAt x rs1 j).1 + (elemAt m rs2 j).1 * (elemAt m rs1 j).1) % m.body.vmod = (elemAt m rd j).1 % m.body.vmod) ∧
    (∃ x, (opVbflyGs rd rs1 rs2 0 false 0).effect e m = .ok x ∧ x.plot = m.plot ∧ ∀ j, j < m.body.vl →
      (elemAt x rd j).1 = ((elemAt m rd j).1 + (elemAt m rs1 j).1) % m.body.vmod ∧
      ((elemAt x rs1 j).1 + (elemAt m rs1 j).1 * (elemAt m rs2 j).1) % m.body.vmod =
        (elemAt m rd j).1 * (elemAt m rs2 j).1 % m.body.vmod) ∧
    (opVbflyCt rd rd rs2 0 false 0).effect e m = .error fltIllegal ∧
    (opVbflyGs rd rd rs2 0 false 0).effect e m = .error fltIllegal) ∧
  (∀ (e : Env) (m : Vm) (rd rs1 rs2 k fn : Nat), plainBody m → m.body.vl ≠ 0 → fn < 256 →
    (∃ x, (opVperm rd rs1 0 fn).effect e m = .ok x ∧ onlyRegister m x rd ∧ ∀ j, j < m.body.vl →
      (elemAt x rd j).1 = (elemAt m rs1 (j / 4 * 4 + fn / 4 ^ (j % 4) % 4)).1 ∧
      (elemAt x rd j).2.2 = ((elemAt m rs1 (j / 4 * 4 + fn / 4 ^ (j % 4) % 4)).2.2 || (elemAt m rd j).2.2)) ∧
    (∀ c, rd < 8 → m.body.mregs.length = 8 → c < 4 →
      ∃ x, (opVcmp rd rs1 rs2 (32 * c)).effect e m = .ok x ∧ x.body.vregs = m.body.vregs ∧ (mreg x rd).shared = false ∧
        ∀ j, j < m.body.vl → (mreg x rd).s0.getLsbD j =
          (if c = 0 then decide ((elemAt m rs1 j).1 = (elemAt m rs2 j).1)
           else if c = 1 then decide ((elemAt m rs1 j).1 ≠ (elemAt m rs2 j).1)
           else if c = 2 then decide ((elemAt m rs1 j).1 < (elemAt m rs2 j).1)
           else decide ((elemAt m rs2 j).1 ≤ (elemAt m rs1 j).1))) ∧
    (k ≠ 0 → (mreg m k).shared = false → (mreg m k).prov = false → rd ≠ rs2 →
      ∃ x, (opVcompress rd rs1 rs2 k).effect e m = .ok x ∧
        (elemAt x rs2 0).1 = ((List.range m.body.vl).filter fun j => (mreg m k).s0.getLsbD j).length ∧
        ∀ j, j < m.body.vl → (elemAt x rd j).1 =
          ((((List.range m.body.vl).filter fun j => (mreg m k).s0.getLsbD j).map (elemAt m rs1)).getD j (0, 0, false)).1) ∧
    (opVcompress rd rs1 rs2 0).effect e m = .error fltMode) ∧
  (∀ (e : Env) (m : Vm) (c rs1 : Nat) (sh : Bool), plainBody m → c < 2 → m.body.cores.length = 2 →
    (∃ x, (opVxofInit c sh).effect e m = .ok x ∧ (coreAt x c).live = true ∧ (coreAt x c).finalised = false ∧
      (coreAt x c).rate = (if sh then 136 else 168) ∧ (coreAt x c).pos = 0 ∧
      xorBytes (coreAt x c).s0 (coreAt x c).s1 = zeroBytes 200) ∧
    ((coreAt m c).live = true → (coreAt m c).finalised = false → (coreAt m c).shared = false → (coreAt m c).s0.length = 200 →
      (coreAt m c).pos + 4 < (coreAt m c).rate → (coreAt m c).rate ≤ 168 → m.body.vl = 1 →
      ∃ x, (opVxofAbsorb rs1 c).effect e m = .ok x ∧ (coreAt x c).pos = (coreAt m c).pos + 4 ∧
        ∀ i, i < 4 → (coreAt x c).s0.getD ((coreAt m c).pos + i) 0 =
          (coreAt m c).s0.getD ((coreAt m c).pos + i) 0 ^^^ (leBytes 4 (elemAt m rs1 0).1).getD i 0) ∧
    ((coreAt m c).live = true → (coreAt m c).finalised = false → (coreAt m c).shared = false →
      ∃ x, (opVxofFinalise c).effect e m = .ok x ∧ (coreAt x c).finalised = true ∧ (coreAt x c).pos = 0) ∧
    ((coreAt m c).live = false ∨ (coreAt m c).finalised = true →
      (opVxofAbsorb rs1 c).effect e m = .error fltValue ∧ (opVxofFinalise c).effect e m = .error fltValue)) ∧
  (∀ (e : Env) (m : Vm) (rd c dest eta : Nat), plainBody m → c < 2 → m.body.cores.length = 2 → m.body.vl ≠ 0 →
    m.body.mregs.length = 8 → dest < 8 → (coreAt m c).live = true → (coreAt m c).finalised = true → (coreAt m c).shared = false →
    (m.body.vmod = 3329 → m.body.vl % 2 = 0 → ∃ x, (opVsampu rd c dest).effect e m = .ok x ∧
      ∀ j, j < m.body.vl → (elemAt x rd j).1 < 4096 ∧
        (mreg x dest).s0.getLsbD j = decide ((elemAt x rd j).1 < 3329)) ∧
    (1 ≤ eta → eta < 4 → ∃ x, (opVcbd rd c eta).effect e m = .ok x ∧ ∀ j, j < m.body.vl →
      (elemAt x rd j).1 ≤ eta ∨ m.body.vmod - eta ≤ (elemAt x rd j).1 ∧ (elemAt x rd j).1 < m.body.vmod) ∧
    (opVcbd rd c 0).effect e m = .error fltValue)

/-- Arithmetic on shares keeps the sum of the shares: VADD, VSUB, VNEG, VRED and the product by a scalar.
Shares: VSPLIT, VREFRESH, VUNMASK and VPUBLISH keep the value, whatever the free masks are.
Shared masks made public, and the operations that a mask register refuses. -/
def Obligations.SharesKeepValues : Prop :=
  (∀ (e : Env) (m : Vm) (rd rs1 rs2 : Nat) (o : Op) (f : Nat → Nat → Nat), sharedBody m .arithmetic → m.body.vl ≠ 0 →
    vmode m rs1 = .arithmetic → vmode m rs2 = .arithmetic →
    (o, f) ∈ [(opVadd rd rs1 rs2 0, fun a b => (a + b) % m.body.vmod),
      (opVsub rd rs1 rs2 0, fun a b => (a + (m.body.vmod - b)) % m.body.vmod),
      (opVneg rd rs1 0, fun a _ => (m.body.vmod - a) % m.body.vmod), (opVred rd rs1 0, fun a _ => a),
      (opVmulc rd rs1 rs2 0, fun a _ => a * (sreg m rs2).toNat % m.body.vmod)] →
    ∃ x, o.effect e m = .ok x ∧ onlyRegister m x rd ∧ vmode x rd = .arithmetic ∧
      ∀ j, j < m.body.vl → valueAt x rd j = f (valueAt m rs1 j) (valueAt m rs2 j)) ∧
  (∀ (e : Env) (m : Vm) (d : ShareMode) (rd rs1 : Nat), sharedBody m d → m.body.vl ≠ 0 →
    (vmode m rs1 = .unshared → (∀ j, j < m.body.vl → d = .arithmetic → (elemAt m rs1 j).1 < m.body.vmod) →
      ∃ x, (opVsplit rd rs1).effect e m = .ok x ∧ vmode x rd = d ∧ ∀ j, j < m.body.vl → valueAt x rd j = (elemAt m rs1 j).1) ∧
    (vmode m rs1 = d → ∃ x, (opVrefresh rd rs1).effect e m = .ok x ∧ vmode x rd = d ∧
      ∀ j, j < m.body.vl → valueAt x rd j = valueAt m rs1 j) ∧
    (vmode m rs1 = d → e.isOpen = false → ∀ o ∈ [opVunmask rd rs1 0, opVpublish rd rs1 0], ∃ x, o.effect e m = .ok x ∧
      vmode x rd = .unshared ∧ ∀ j, j < m.body.vl → (elemAt x rd j).1 = valueAt m rs1 j) ∧
    (e.isOpen = true → (opVpublish rd rs1 0).effect e m = .error fltPrivileged) ∧
    (∀ j, vmode m rs1 = d → e.isOpen = true → j < m.body.vl → (elemAt m rs1 j).2.2 = true →
      (opVunmask rd rs1 0).effect e m = .error fltProvenance)) ∧
  (∀ (e : Env) (m : Vm) (rd rs1 : Nat), rd < 8 → m.body.mregs.length = 8 →
    ((mreg m rs1).shared = true → e.isOpen = false → ∀ o ∈ [opVunmaskM rd rs1, opVpublishM rd rs1], ∃ x, o.effect e m = .ok x ∧
      (mreg x rd).s0 = (mreg m rs1).s0 ^^^ (mreg m rs1).s1 ∧ (mreg x rd).shared = false ∧ x.body.vregs = m.body.vregs) ∧
    ((mreg m rs1).shared = true → e.isOpen = true → (mreg m rs1).prov = true →
      (opVunmaskM rd rs1).effect e m = .error fltProvenance) ∧
    ((mreg m rs1).shared = false → (opVunmaskM rd rs1).effect e m = .error fltMode) ∧
    (e.isOpen = true → (opVpublishM rd rs1).effect e m = .error fltPrivileged))

/-- The gadget unit on Boolean shares: VB2A, VMAND, VMOR and VMEQ compute on the values, whatever the free masks are.
The gadget unit on arithmetic shares: VA2B, VMBND, VMCOMP and VMDCMP. -/
def Obligations.Gadgets : Prop :=
  (∀ (e : Env) (m : Vm) (rd rs1 rs2 : Nat), sharedBody m .boolean → m.body.vl ≠ 0 → vmode m rs1 = .boolean →
    vmode m rs2 = .boolean →
    (∃ x, (opVb2a rd rs1).effect e m = .ok x ∧ vmode x rd = .arithmetic ∧
      ∀ j, j < m.body.vl → valueAt x rd j = valueAt m rs1 j % m.body.vmod) ∧
    (∃ x, (opVmand rd rs1 rs2).effect e m = .ok x ∧ ∀ j, j < m.body.vl →
      valueAt x rd j = valueAt m rs1 j &&& valueAt m rs2 j) ∧
    (∃ x, (opVmor rd rs1 rs2).effect e m = .ok x ∧ ∀ j, j < m.body.vl →
      valueAt x rd j = valueAt m rs1 j ||| valueAt m rs2 j) ∧
    (rd < 8 → m.body.mregs.length = 8 → ∃ x, (opVmeq rd rs1 rs2).effect e m = .ok x ∧ (mreg x rd).shared = true ∧
      ∀ j, j < m.body.vl → ((mreg x rd).s0 ^^^ (mreg x rd).s1).getLsbD j = decide (valueAt m rs1 j = valueAt m rs2 j))) ∧
  (∀ (e : Env) (m : Vm) (rd rs1 rs2 : Nat), sharedBody m .arithmetic → m.body.vl ≠ 0 → vmode m rs1 = .arithmetic →
    (∃ x, (opVa2b rd rs1).effect e m = .ok x ∧ vmode x rd = .boolean ∧
      ∀ j, j < m.body.vl → valueAt x rd j = valueAt m rs1 j) ∧
    (rd < 8 → m.body.mregs.length = 8 → ∃ x, (opVmbnd rd rs1 rs2).effect e m = .ok x ∧ (mreg x rd).shared = true ∧
      ∀ j, j < m.body.vl → ((mreg x rd).s0 ^^^ (mreg x rd).s1).getLsbD j =
        decide (centredAbs m.body.vmod (valueAt m rs1 j) < (sreg m rs2).toNat)) ∧
    (1 ≤ (sreg m rs2).toNat → (sreg m rs2).toNat ≤ 11 → ∃ x, (opVmcomp rd rs1 rs2).effect e m = .ok x ∧
      vmode x rd = .boolean ∧ ∀ j, j < m.body.vl → valueAt x rd j =
        (2 ^ ((sreg m rs2).toNat + 1) * valueAt m rs1 j + m.body.vmod) / (2 * m.body.vmod) % 2 ^ (sreg m rs2).toNat) ∧
    (rd < 31 → 1 ≤ (sreg m rs2).toNat → (sreg m rs2).toNat < m.body.vmod → ∃ x, (opVmdcmp rd rs1 rs2).effect e m = .ok x ∧
      ∀ j, j < m.body.vl → valueAt x rd j * (2 * (sreg m rs2).toNat) < m.body.vmod + (sreg m rs2).toNat ∧
        (valueAt x rd j * (2 * (sreg m rs2).toNat) + valueAt x (rd + 1) j) % m.body.vmod = valueAt m rs1 j) ∧
    (11 < (sreg m rs2).toNat → (opVmcomp rd rs1 rs2).effect e m = .error fltValue) ∧
    (31 ≤ rd → (opVmdcmp rd rs1 rs2).effect e m = .error fltIllegal))

/-- VSETVL, VSETTYPE and VSETMOD.
The scalar instructions; s0 reads 0 and discards writes.
Branches, whose target lies in the routine or, inside a patch segment, in that segment, whether the branch is taken or not;
COMMIT, END and CALLM. -/
def Obligations.ScalarsAndControl : Prop :=
  (∀ (e : Env) (m : Vm) (rd rs1 : Nat),
    (opVsetvl rd rs1).effect e m = .ok (setSreg { m with body.vl := min (sreg m rs1).toNat (vlMax m.body.wide) } rd
      (BitVec.ofNat 32 (min (sreg m rs1).toNat (vlMax m.body.wide)))) ∧
    (∀ t, t % 4 = 3 ∨ 16 ≤ t → (opVsettype t).effect e m = .error fltValue) ∧
    (∀ t, t % 4 ≠ 3 → t < 16 → ∃ x, (opVsettype t).effect e m = .ok x ∧
      x.body.mode = [ShareMode.unshared, .arithmetic, .boolean].getD (t % 4) .unshared ∧ x.body.wide = decide (4 ≤ t % 8) ∧
      x.body.signed = decide (8 ≤ t) ∧ x.body.vregs = m.body.vregs ∧ (m.body.vl ≤ vlMax m.body.wide → x.body.vl ≤ vlMax x.body.wide) ∧
      (x.body.wide = m.body.wide → x.body.vl = m.body.vl)) ∧
    ((sreg m rs1).toNat % 2 = 1 → 3 ≤ (sreg m rs1).toNat → (sreg m rs1).toNat < 2 ^ 31 →
      (opVsetmod rs1).effect e m = .ok { m with body.vmod := (sreg m rs1).toNat }) ∧
    ((sreg m rs1).toNat % 2 = 0 ∨ (sreg m rs1).toNat < 3 ∨ 2 ^ 31 ≤ (sreg m rs1).toNat →
      (opVsetmod rs1).effect e m = .error fltValue)) ∧
  (∀ (e : Env) (m : Vm) (rd rs1 rs2 : Nat) (imm : W16) (o : Op) (v : W32), m.body.sregs.length = 32 → rd < 32 →
    (o, v) ∈ [(opSadd rd rs1 rs2, sreg m rs1 + sreg m rs2), (opSsub rd rs1 rs2, sreg m rs1 - sreg m rs2),
      (opSand rd rs1 rs2, sreg m rs1 &&& sreg m rs2), (opSor rd rs1 rs2, sreg m rs1 ||| sreg m rs2),
      (opSxor rd rs1 rs2, sreg m rs1 ^^^ sreg m rs2), (opSsll rd rs1 rs2, sreg m rs1 <<< ((sreg m rs2).toNat % 32)),
      (opSsrl rd rs1 rs2, sreg m rs1 >>> ((sreg m rs2).toNat % 32)), (opSli rd imm, imm.setWidth 32),
      (opSlih rd imm, (sreg m rd &&& 0xFFFF) ||| (imm.setWidth 32 <<< 16)), (opSaddi rd rs1 imm, sreg m rs1 + imm.signExtend 32)] →
    ∃ x, o.effect e m = .ok x ∧ (∀ r, r < 32 → sreg x r = if r = rd ∧ rd ≠ 0 then v else sreg m r) ∧
      x.body.vregs = m.body.vregs ∧ x.body.mregs = m.body.mregs ∧ x.plot = m.plot ∧ x.body.pc = m.body.pc) ∧
  (∀ (e : Env) (m : Vm) (rs1 rs2 : Nat) (off : BitVec 11),
    (∀ lo hi : Nat, (m.body.seg = none ∧ lo = e.start ∧ hi = e.start + e.words) ∨
        (∃ g, m.body.seg = some g ∧ lo = g.first ∧ hi = g.last + 1) →
      ((lo : Int) ≤ m.body.pc + off.toInt → (m.body.pc : Int) + off.toInt < hi →
        (opSbne rs1 rs2 off).effect e m = .ok (if sreg m rs1 = sreg m rs2 then m
          else { m with body.pc := ((m.body.pc : Int) + off.toInt).toNat }) ∧
        (opSbeq rs1 rs2 off).effect e m = .ok (if sreg m rs1 = sreg m rs2
          then { m with body.pc := ((m.body.pc : Int) + off.toInt).toNat } else m)) ∧
      ((m.body.pc : Int) + off.toInt < lo ∨ (hi : Int) ≤ m.body.pc + off.toInt →
        (opSbne rs1 rs2 off).effect e m = .error fltBranch ∧ (opSbeq rs1 rs2 off).effect e m = .error fltBranch)) ∧
    opCommit.effect e m = .ok { m with body.ended := true, body.committed := true } ∧
    ((sreg m rs2).toNat ≤ e.maxOut → positionByte m (sreg m rs1).toNat + (sreg m rs2).toNat ≤ 8 * plotWords → e.isOpen = false →
      (opEnd rs1 rs2 0 0).effect e m = .ok { m with
        body.ended := true, body.outcome := some (.ok, positionByte m (sreg m rs1).toNat, (sreg m rs2).toNat) } ∧
      (opEnd rs1 rs2 0 0x12).effect e m = .ok { m with
        body.ended := true, body.outcome := some (.verifyFail, positionByte m (sreg m rs1).toNat, (sreg m rs2).toNat) }) ∧
    (e.maxOut < (sreg m rs2).toNat → (opEnd rs1 rs2 0 0).effect e m = .error fltValue) ∧
    (∀ rd alg len act, alg < 6 → act = 0 ∨ act = 3 ∨ act < 4 ∧ (∃ z, e.maze = some z ∧ z.alg = alg) → e.next = commitWord → e.isOpen = false →
      positionByte m (sreg m rs1).toNat + (sreg m rs2).toNat ≤ 8 * plotWords →
      positionByte m (sreg m rd).toNat + 8 * (len + 1) + 64 ≤ 8 * plotWords →
      ∃ c, (opCallm act rd rs1 rs2 alg len).effect e m = .ok { m with body.callm := some c } ∧ c.action = act ∧ c.alg = alg ∧
        c.data = Memory.readBytes m.plot.mem (positionByte m (sreg m rs1).toNat) (sreg m rs2).toNat) ∧
    (∀ rd alg len act, e.next ≠ commitWord → (opCallm act rd rs1 rs2 alg len).effect e m = .error fltIllegal))

/-! ## The admin commands (05_admin_commands.md) -/

/-- A gate of R108 or a precondition that fails decides an admin command with its status and REASON, and nothing else
changes; the gates come in their order, with the marks of Table 5-3. -/
def Obligations.AdminRefused : Prop :=
  ∀ p ∈ adminRows, ∀ (s : State) (r : JobRef) (j : Job),
    (∀ st reason, KMap.get? s.jobs (refKey r) = some j → j.phase = .dispatched → j.entry.opcode.toNat = p.2.1.opcode →
      p.2.2 j = true → adminFailure p.2.1 s j = some (st, reason) → exec (p.1 r) s =
        .next (modJob s (refKey r) fun x => { failJob (now s) st x with reason := reason, effect := 0, detail := 0 })) ∧
    (KMap.get? s.jobs (refKey r) = none ∨ j.phase ≠ .dispatched ∧ j.phase ≠ .running ∧ KMap.get? s.jobs (refKey r) = some j →
      exec (p.1 r) s = .next s) ∧
    (s.lc.inForce = 3 → p.2.1.markE = false → adminFailure p.2.1 s j = some (.lifecycle, 0)) ∧
    (s.lc.inForce ≠ 3 → s.gh.quiesced = true → p.2.1.markQ = false → adminFailure p.2.1 s j = some (.tamperQuiesced, 0)) ∧
    (s.lc.inForce ≠ 3 → s.gh.quiesced = false → s.bridge.solo = true → p.2.1.markS j = true →
      adminFailure p.2.1 s j = some (.twinUnavailable, 0x000B)) ∧
    p.2.1.markQ = decide (p.2.1.opcode ∈ [0xF002, 0xF005, 0xF008, 0xF00E, 0xF011, 0xF014, 0xF018]) ∧
    p.2.1.markE = decide (p.2.1.opcode ∈ [0xF002, 0xF005, 0xF008, 0xF011, 0xF014, 0xF018]) ∧
    (p.2.1.opcode ≠ 0xF009 → p.2.1.markS j =
      decide (p.2.1.opcode ∉ [0xF008, 0xF011, 0xF012, 0xF014, 0xF016, 0xF017, 0xF018]))

/-- Commands that take effect at once on allotments, queues, leases and windows.
Commands that take effect at once on keys, images and the device. -/
def Obligations.AdminSets : Prop :=
  (∀ (s : State) (r : JobRef) (j : Job) (v : Allotment),
    (adminReady cmdAllotBind s r j → KMap.get? s.allots (inlAllot j) = some v → (∀ q ∈ v.reads, q.answered = false) →
      ∃ t, exec (.allotBind r) s = .next t ∧ adminDone t r 0 0 j.output ∧ KMap.get? t.allots (inlAllot j) = some { v with
        func := some (inlineField j 50 1), page := if inlineField j 50 1 = 0 then inlAllot j else inlineField j 51 1,
        tagGroup := if inlineField j 50 1 = 0 then freeTagGroup s (inlAllot j) else inlineField j 51 1,
        orphaned := false, quiesced := !masters s (inlineField j 50 1) } ∧ t.queues = s.queues ∧ t.otp = s.otp) ∧
    (adminReady cmdQueueCreate s r j → ∃ t q, exec (.queueCreate r) s = .next t ∧ adminDone t r 0 0 j.output ∧
      KMap.get? t.queues (queueKey (qcAllot j) (qcQueue j)) = some q ∧ q.base = BitVec.ofNat 64 (inlineField j 48 8) ∧
      q.log2n = inlineField j 59 1 ∧ q.scan = 0 ∧ q.inflight = [] ∧ q.stop = some .notOwned ∧
      q.vector = (if inlineField j 60 2 = 0xFFFF then none else some (inlineField j 60 2)) ∧
      q.modCount = inlineField j 62 1 + 1 ∧ q.modTicks = auxBits j 15 0 ∧
      t.lc.halt = (if qcAllot j ≠ 0 ∧ tenantsActive s = false then 0 else s.lc.halt) ∧ t.allots = s.allots) ∧
    (adminReady cmdLeaseSet s r j → KMap.get? s.allots (inlAllot j) = some v →
      ∃ t, exec (.leaseSet r) s = .next t ∧ adminDone t r (effectEpoch (now s)) 0 j.output ∧
        KMap.get? t.allots (inlAllot j) = some { v with pendingLease := some (effectEpoch (now s), leaseOf j) } ∧
        (∀ a, a ≠ inlAllot j → KMap.get? t.allots a = KMap.get? s.allots a) ∧ t.sched = s.sched ∧ t.queues = s.queues) ∧
    (adminReady cmdWindowSet s r j → KMap.get? s.allots (auxBits j 15 0) = some v →
      ∃ t, exec (.windowSet r) s = .next t ∧ adminDone t r 0 0 j.output ∧
        KMap.get? t.allots (auxBits j 15 0) = some { v with windows := windowsAfter v.windows j } ∧
        (∀ a, a ≠ auxBits j 15 0 → KMap.get? t.allots a = KMap.get? s.allots a) ∧ t.queues = s.queues) ∧
    (adminReady cmdCurvePolicy s r j → KMap.get? s.allots (inlAllot j) = some v →
      ∃ t, exec (.curvePolicy r) s = .next t ∧ adminDone t r 0 0 j.output ∧ KMap.get? t.allots (inlAllot j) =
        some { v with curves := BitVec.ofNat 7 (inlineField j 50 1), maxLoad := inlineField j 51 1 } ∧ t.curves = s.curves)) ∧
  (∀ (s : State) (r : JobRef) (j : Job),
    (∀ resident n key, adminReady cmdKeyDescribe s r j → inlineField j 56 1 = 2 →
      findKey s (handleAllot (kaHandle j)) (kaHandle j) = some (resident, n, key) → ∃ t, exec (.keyAdminDescribe r) s = .next t ∧
        adminDone t r 0 0 (attributeRecord key resident (BitVec.ofNat 64 (kaHandle j))) ∧ t.ice = s.ice) ∧
    (adminReady cmdOpenLoad s r j → ∃ t, exec (.openLoad r) s = .next t ∧ adminDone t r (effectEpoch (now s)) 0 j.output ∧
      t.stores = { s.stores with pending := some (effectEpoch (now s), openImageOf j.input) } ∧ t.allots = s.allots) ∧
    (adminReady cmdPatchStatus s r j → ∃ t out, exec (.patchStatus r) s = .next t ∧ adminDone t r 0 0 out ∧
      fieldAt out 0 4 = s.stores.patchLevel.toNat ∧
      fieldAt out 4 2 = (s.stores.match64.filter fun m => m.getLsbD 63).length % 65536 ∧
      slice out 8 32 = slice s.stores.patchMeasurement 0 32 ∧ t.stores = s.stores) ∧
    (adminReady cmdRngRawMode s r j → ∃ t out, exec (.rngRawMode r) s = .next t ∧ adminDone t r 0 0 out ∧
      out.length = j.entry.outLen.toNat ∧ t.fountain.rawMode = true ∧ t.fountain.ready = false ∧ t.fountain.pool = [] ∧
      t.fountain.seed = none ∧ t.fountain.instantiated = false ∧ t.fountain.cells = s.fountain.cells) ∧
    (adminReady cmdTwinSolo s r j → s.bridge.solo = false → s.bridge.commits = [] → ∃ t, exec (.twinSolo r) s = .next t ∧
      adminDone t r 0 0 j.output ∧ t.bridge.solo = true ∧ t.bridge.soloCause = 2 ∧ t.bridge.soloTick = now s ∧
      ∃ b, t.journal.pending = s.journal.pending ++ [b] ∧ b.type = 7 ∧ b.subtype = 2) ∧
    (adminReady cmdLcAdvance s r j → lifeTarget j ≠ 2 → s.lc.pending ≤ 1 → s.otp.lcWords = lifeWords s.lc.pending →
      ∃ t, exec (.lcAdvance r) s = .next t ∧ adminDone t r 0xFFFFFFFFFFFFFFFF (lifeTarget j) j.output ∧
        t.otp = { s.otp with lcWords := lifeWords (lifeTarget j) } ∧ t.lc.pending = lifeTarget j ∧ t.lc.inForce = s.lc.inForce))

/-- Commands that make their records first: the records stand in allotment 0's positions, and the command waits for them.
Their effects once the records are durable. -/
def Obligations.AdminRecords : Prop :=
  (∀ (s : State) (r : JobRef) (j : Job),
    (adminReady cmdTimeSet s r j → ∃ t x, exec (.timeSet r) s = .next t ∧ adminAwaits t r [s.journal.nextId] ∧
      t.journal.pending = s.journal.pending ++ [x] ∧ x.type = 6 ∧ x.holder = 0 ∧ fieldAt x.body 0 8 = s.lodge.secTime.toNat ∧
      fieldAt x.body 8 8 = inlineField j 48 8 % 2 ^ 64 ∧ t.lodge = s.lodge) ∧
    (adminReady cmdTamperConfig s r j → ∃ t x, exec (.tamperConfig r) s = .next t ∧
      adminAwaits t r ((List.range 5).map (s.journal.nextId + ·)) ∧
      t.journal.pending = s.journal.pending ++ x ∧ x.map (fun y => (y.type, y.subtype)) = [(2, 3), (2, 4), (2, 5), (2, 6), (2, 7)] ∧
      t.gh = s.gh) ∧
    (adminReady cmdTamperClear s r j → ∃ t x, exec (.tamperClear r) s = .next t ∧ adminAwaits t r [s.journal.nextId] ∧
      t.journal.pending = s.journal.pending ++ [x] ∧ x.type = 2 ∧ x.subtype = 0 ∧ t.lodge = s.lodge) ∧
    (∀ n key, adminReady cmdKeyDestroy s r j → inlineField j 56 1 = 1 → KMap.get? s.ice.keys n = some key →
      findKey s (handleAllot (kaHandle j)) (kaHandle j) = some (false, n, key) → key.stateful = none →
      startedNow s (kaHandle j) = [] →
      ∃ t x, exec (.keyAdminDestroy r) s = .next t ∧ KMap.get? t.ice.keys n = some { key with withdrawn := true } ∧
        adminAwaits t r [s.journal.nextId] ∧ t.journal.pending = s.journal.pending ++ [x] ∧ x.type = 3 ∧ x.subtype = 3) ∧
    (∀ n key, adminReady cmdKeyDestroy s r j → inlineField j 56 1 = 1 →
      findKey s (handleAllot (kaHandle j)) (kaHandle j) = some (true, n, key) → startedNow s (kaHandle j) = [] →
      ∃ t x, exec (.keyAdminDestroy r) s = .next t ∧ KMap.get? t.ice.residents n = some { key with withdrawn := true } ∧
        adminAwaits t r [s.journal.nextId] ∧ t.journal.pending = s.journal.pending ++ [x] ∧ x.type = 3 ∧ x.subtype = 3 ∧
        t.ice.keys = s.ice.keys) ∧
    (∀ k, adminReady cmdKeyDestroy s r j → inlineField j 56 1 = 1 → k ∈ startedNow s (kaHandle j) →
      ∃ t y, exec (.keyAdminDestroy r) s = .next t ∧ KMap.get? t.jobs k = some y ∧ y.phase = .decided ∧
        y.status = .keyHandle ∧ y.output = []) ∧
    (adminReady cmdLcAdvance s r j → s.lc.pending = 2 → lifeTarget j = 3 → ∃ t x, exec (.lcAdvance r) s = .next t ∧
      adminAwaits t r [s.journal.nextId] ∧ t.journal.pending = s.journal.pending ++ [x] ∧ x.type = 5 ∧ x.subtype = 1 ∧
      t.otp = s.otp) ∧
    (adminReady cmdAttestEnrol s r j → ∃ t x y, exec (.attestEnrol r) s = .next t ∧ adminAwaits t r [s.journal.nextId] ∧
      t.journal.pending = s.journal.pending ++ [x] ∧ x.type = 2 ∧ KMap.get? t.jobs (refKey r) = some y ∧
      y.context = leBytes 8 (enrolCounter j) ++ (enrolSecretOf s j.input).getD [] ∧ t.ice = s.ice) ∧
    (∀ v, adminReady cmdAllotDestroy s r j → KMap.get? s.allots (inlAllot j) = some v → jobsOf s (inlAllot j) = [] →
      liveKeys s (inlAllot j) ≠ [] → queuesOf s (inlAllot j) = [] → ∃ t w, exec (.allotDestroy r) s = .next t ∧
        KMap.get? t.allots (inlAllot j) = some w ∧ w.destroying = true ∧ w.destroyRecords.length = (liveKeys s (inlAllot j)).length ∧
        adminAwaits t r w.destroyRecords ∧ t.ice.keys = s.ice.keys)) ∧
  (∀ (s : State) (r : JobRef) (j : Job),
    (adminResumes cmdTimeSet s r j 0 → ∃ t, adminSettle cmdTimeSet s (refKey r) = t ∧ adminDone t r 0 0 j.output ∧
      t.lodge = { s.lodge with
        secTime := BitVec.ofNat 64 (max (inlineField j 48 8) s.lodge.secTime.toNat), timeValid := true }) ∧
    (adminResumes cmdTamperConfig s r j 0 → ∃ t, adminSettle cmdTamperConfig s (refKey r) = t ∧ adminDone t r 0 0 j.output ∧
      t.gh.locked = (s.gh.locked || j.entry.aux.getLsbD 0) ∧ t.gh.quiesced = s.gh.quiesced ∧
      ∀ i x, s.gh.sources[i]? = some x → ∃ y, t.gh.sources[i]? = some y ∧
        y.thresh = BitVec.ofNat 32 (fieldAt j.input (16 * i) 4) ∧ y.resp = fieldAt j.input (16 * i + 4) 1 ∧
        y.enable = decide (fieldAt j.input (16 * i + 5) 1 = 1) ∧ y.rateN = fieldAt j.input (16 * i + 6) 2 ∧
        y.rateWin = fieldAt j.input (16 * i + 8) 4 ∧ y.count = x.count ∧ y.window = x.window) ∧
    (adminResumes cmdTamperClear s r j 0 → ∃ t, adminSettle cmdTamperClear s (refKey r) = t ∧
      adminDone t r 0 (s.lodge.sticky &&& ~~~(clearMask j)).toNat j.output ∧
      t.lodge.sticky = s.lodge.sticky &&& ~~~(clearMask j) ∧ t.lodge.holds = s.lodge.holds &&& ~~~(clearMask j)) ∧
    (∀ resident n key, adminResumes cmdKeyDestroy s r j 0 →
      findKey s (handleAllot (kaHandle j)) (kaHandle j) = some (resident, n, key) →
      ∃ t, adminSettle cmdKeyDestroy s (refKey r) = t ∧ adminDone t r 0 0 j.output ∧
        t.ice.keys = (if resident then s.ice.keys else KMap.drop s.ice.keys n) ∧
        t.ice.residents = (if resident then KMap.drop s.ice.residents n else s.ice.residents)) ∧
    (adminResumes cmdLcAdvance s r j 0 → s.otp.lcWords = lifeWords 2 → lifeTarget j = 3 →
      ∃ t, adminSettle cmdLcAdvance s (refKey r) = t ∧ adminDone t r 0xFFFFFFFFFFFFFFFF 3 j.output ∧
        t.otp.lcWords = lifeWords 3 ∧ t.lc.pending = 3) ∧
    (adminResumes cmdAttestEnrol s r j 0 → ∃ t, adminSettle cmdAttestEnrol s (refKey r) = t ∧ adminDone t r 0 0 j.output ∧
      t.ice.secret = some (j.context.drop 8) ∧ t.ice.enrolCount = enrolCounter j) ∧
    (adminResumes cmdAllotDestroy s r j 0 → KMap.wf s.allots = true → destroyReady s (inlAllot j) = true →
      ∃ t, adminSettle cmdAllotDestroy s (refKey r) = t ∧ KMap.get? t.allots (inlAllot j) = none ∧
        (∀ p ∈ t.ice.keys, p.1 / 64 ≠ inlAllot j) ∧ (∀ p ∈ t.queues, p.1 / 8 ≠ inlAllot j) ∧
        (∀ p ∈ t.curves, p.1 / 8 ≠ inlAllot j) ∧ ∀ p ∈ t.digests, p.1 / 256 ≠ inlAllot j))

/-- Commands that draw post their draw and change nothing else; the drawn bytes then become the salt, the seed bank, the
nonce or the ceremony's secret. -/
def Obligations.AdminDraws : Prop :=
  ∀ (s : State) (r : JobRef) (j : Job),
    (∀ row c n fresh, (row, c, n, fresh) ∈ [(Instr.allotCreate r, cmdAllotCreate, 32, false),
        (.debugUnlockNonce r, cmdDebugNonce, 32, false), (.twinPair r, cmdTwinPair, 64, true)] →
      adminReady c s r j → (row = .debugUnlockNonce r → j.entry.aux = 0) → exec row s = .next (modJob s (refKey r) fun x => { x with
        phase := .running, remaining := 1, draws := [{ bytes := n, fresh := fresh, posted := false }] })) ∧
    (adminReady cmdLcAdvance s r j → lifeTarget j = 2 → exec (.lcAdvance r) s = .next (modJob s (refKey r) fun x => { x with
      phase := .running, remaining := 1, draws := [{ bytes := 32, fresh := true, posted := false }] })) ∧
    (adminResumes cmdAllotCreate s r j 1 → ∃ t v, adminSettle cmdAllotCreate s (refKey r) = t ∧ adminDone t r 0 0 j.output ∧
      KMap.get? t.allots (inlAllot j) = some v ∧ v.salt = slice j.drawn 0 32 ∧ v.quota = inlineField j 52 2 ∧
      v.evictBlocks = inlineField j 51 1 ∧ v.isSealed = bitOf (inlineField j 50 1) 0 ∧
      v.shareable = bitOf (inlineField j 50 1) 1 ∧ v.lendable = bitOf (inlineField j 50 1) 2 ∧ v.lease = Lease.none ∧
      v.windows = [] ∧ v.func = none ∧ v.shareFrom = effectEpoch (now s) ∧
      ∀ a, a ≠ inlAllot j → KMap.get? t.allots a = KMap.get? s.allots a) ∧
    (adminResumes cmdLcAdvance s r j 1 → lifeTarget j = 2 → s.lc.pending = 1 → s.otp.lcWords = lifeWords 1 →
      programmed s.otp.seed0 = false → ∃ t, adminSettle cmdLcAdvance s (refKey r) = t ∧
        adminDone t r 0xFFFFFFFFFFFFFFFF 2 j.output ∧
        t.otp = { s.otp with seed0 := slice j.drawn 0 32, lcWords := lifeWords 2 } ∧ t.lc.pending = 2) ∧
    (adminResumes cmdDebugNonce s r j 1 → ∃ t, adminSettle cmdDebugNonce s (refKey r) = t ∧
      adminDone t r 0 0 (slice j.drawn 0 32) ∧ t.lc.nonce = some (slice j.drawn 0 32)) ∧
    (adminResumes cmdTwinPair s r j 1 → s.regs.admJob = some (refKey r) → s.bridge.helloPeer = [] →
      ∃ t, adminSettle cmdTwinPair s (refKey r) = t ∧ t.bridge.ceremony = 1 ∧ t.bridge.ceremonyJob = some (refKey r) ∧
        t.bridge.sharedSecret = slice j.drawn 0 64 ∧ adminAwaits t r [] ∧
        ∃ f, KMap.getD t.bridge.queue deviceHolder [] = KMap.getD s.bridge.queue deviceHolder [] ++ [f] ∧ f.type = 1)

/-- Commands that end work in progress or begin longer work. -/
def Obligations.AdminWork : Prop :=
  ∀ (s : State) (r : JobRef) (j : Job),
    (adminReady cmdQueueDestroy s r j → KMap.wf s.queues = true → jobsOfQueue s (inlAllot j) (inlineField j 50 1) = [] →
      ∃ t, exec (.queueDestroy r) s = .next t ∧ adminDone t r 0 0 j.output ∧
        KMap.get? t.queues (queueKey (inlAllot j) (inlineField j 50 1)) = none ∧
        ∀ k, k ≠ queueKey (inlAllot j) (inlineField j 50 1) → KMap.get? t.queues k = KMap.get? s.queues k) ∧
    (adminReady cmdAllotDestroy s r j → KMap.wf s.allots = true → jobsOf s (inlAllot j) = [] → liveKeys s (inlAllot j) = [] →
      ∃ t, exec (.allotDestroy r) s = .next t ∧ adminDone t r 0 0 j.output ∧ KMap.get? t.allots (inlAllot j) = none ∧
        ∀ p ∈ t.queues, p.1 / 8 ≠ inlAllot j) ∧
    (adminReady cmdAbort s r j → inlineField j 50 1 = 0 → (allotAt s (inlAllot j)).any (fun v => v.destroying) = false →
      (jobsOfQueue s (inlAllot j) (inlineField j 51 1) = [] → ∃ t, exec (.abortJobs r) s = .next t ∧
        adminDone t r 0 0 j.output ∧ ∀ k, k ≠ refKey r → KMap.get? t.jobs k = KMap.get? s.jobs k) ∧
      (∀ k x, k ∈ jobsOfQueue s (inlAllot j) (inlineField j 51 1) → k ≠ refKey r → KMap.get? s.jobs k = some x →
        onReservation x = false → s.regs.admJob ≠ some k → ∃ t y, exec (.abortJobs r) s = .next t ∧ KMap.get? t.jobs k = some y ∧ y.phase = .decided ∧
          y.status = .aborted ∧ y.output = [])) ∧
    (∀ x, KMap.get? s.jobs (refKey r) = some x → x.aborted = true → onReservation x = true → x.decidedAt + 4096 ≤ now s →
      x.discard = false → ∃ t y, exec (.abortReservationDetach r) s = .next t ∧ KMap.get? t.jobs (refKey r) = some y ∧
        y.phase = .decided ∧ y.status = .aborted ∧ y.output = [] ∧ y.waits = []) ∧
    (∀ n key, KMap.get? s.jobs (refKey r) = some j → j.entry.opcode = 0xF009 → j.phase = .running → j.dispatch + 4096 ≤ now s →
      findKey s (handleAllot (kaHandle j)) (kaHandle j) = some (false, n, key) → exec (.keyReservationDetach r) s =
        .next { s with ice.keys := KMap.adjust s.ice.keys n fun x =>
          { x with stateful := x.stateful.map fun t => { t with detached := true } } }) ∧
    (adminReady cmdTwinRejoin s r j → s.bridge.rejoining = false → s.bridge.helloPeer = [] → s.regs.admJob = some (refKey r) →
      ∃ t, exec (.twinRejoin r) s = .next t ∧ t.bridge.rejoining = true ∧ t.bridge.ceremony = 1 ∧
        t.bridge.rejoinJob = some (refKey r) ∧ adminAwaits t r [] ∧
        ∃ b, t.journal.pending = s.journal.pending ++ [b] ∧ b.type = 7 ∧ b.subtype = 3) ∧
    (adminReady cmdDebugToken s r j → j.entry.aux = 1 → vaultWritable s = false → tenants s = [] → s.bridge.paired = false →
      ∃ t, exec (.debugUnlockToken r) s = .next t ∧ adminDone t r 0 0 j.output ∧ t.lc.debug = true ∧
        t.lc.scope = s.lc.scope ||| tokenScope j ∧ t.lc.tokens = s.lc.tokens + 1 ∧ t.lc.nonce = none ∧
        t.vault.mounted = false)

/-- The Vault's commands: formatting leaves a mounted, empty Vault with the record of the old head first; a mount of the
device's own media and an unmount complete at once when nothing waits. -/
def Obligations.VaultCommands : Prop :=
  ∀ (s : State) (r : JobRef) (j : Job) (ds : List DieReport) (found : VaultFound),
    (adminReady (cmdVaultFormat ds found) s r j → ∃ t x, exec (.vaultFormat r ds found) s = .next t ∧
      t.vault.mounted = true ∧ t.vault.formatting = true ∧ t.vault.media.journal = [] ∧ t.vault.media.image = none ∧
      t.vault.media.formattedBy = 1 ∧ t.journal.next = 1 ∧ t.journal.pending = x :: s.journal.pending ∧ x.type = 2 ∧
      adminAwaits t r [s.journal.nextId]) ∧
    (∀ st reason, KMap.get? s.jobs (refKey r) = some j → j.phase = .dispatched → j.entry.opcode.toNat = 0xF013 →
      adminFailure (cmdVaultFormat ds found) s j = some (st, reason) → st ≠ .vaultMedia → ∃ t x,
        exec (.vaultFormat r ds found) s = .next t ∧ KMap.get? t.jobs (refKey r) = some x ∧ x.phase = .decided ∧ x.status = st ∧
        x.reason = reason ∧ t.vault = s.vault) ∧
    (adminReady (cmdVaultMount ds .own) s r j → inlineField j 48 1 = 1 → s.vault.mounted = false →
      ∃ t, exec (.vaultMount r ds .own) s = .next t ∧ t.vault.mounted = true ∧ t.vault.foreign = false ∧
        t.vault.readOnly = decide (s.lc.inForce = 3) ∧ t.vault.unclean = !s.vault.media.clean ∧
        t.vault.media.journal = s.vault.media.journal ∧ adminDone t r 0 (t.journal.next % 2 ^ 48) j.output) ∧
    (adminReady (cmdVaultMount ds found) s r j → inlineField j 48 1 = 1 → s.vault.mounted = true →
      ∃ t, exec (.vaultMount r ds found) s = .next t ∧ t.vault = s.vault ∧ adminDone t r 0 (s.journal.next % 2 ^ 48) j.output) ∧
    (adminReady cmdVaultUnmount s r j → inlineField j 48 1 = 0 → vaultWritable s = false ∨ vaultDrained s = true →
      ∃ t, exec (.vaultUnmount r) s = .next t ∧ t.vault.mounted = false ∧ adminDone t r 0 0 j.output ∧
        (vaultWritable s = true → t.vault.media.clean = true) ∧ t.vault.media.journal = s.vault.media.journal)

/-- While the device is paired and not in SOLO, a command marked S opens a commit of its item and waits for it; its effect
does not come yet. -/
def Obligations.AdminMirrored : Prop :=
  ∀ (s : State) (r : JobRef) (j : Job) (row : Instr) (c : AdminCmd) (kind item : Nat),
    (row, c, kind, item) ∈ [(.allotBind r, cmdAllotBind, 1, inlAllot j),
      (.queueCreate r, cmdQueueCreate, 2, queueKey (qcAllot j) (qcQueue j)), (.leaseSet r, cmdLeaseSet, 3, inlAllot j),
      (.windowSet r, cmdWindowSet, 1, auxBits j 15 0), (.curvePolicy r, cmdCurvePolicy, 1, inlAllot j),
      (.openLoad r, cmdOpenLoad, 7, 0)] →
    KMap.get? s.jobs (refKey r) = some j → j.phase = .dispatched → j.entry.opcode.toNat = c.opcode → j.draws = [] →
    j.waits = [] → adminFailure c s j = none → mirrors s = true →
    ∃ t x y, exec row s = .next t ∧ KMap.get? t.bridge.commits s.bridge.tseqNext = some x ∧ x.kind = kind ∧ x.item = item ∧
      x.job = some (refKey r) ∧ x.acked = false ∧ KMap.get? t.jobs (refKey r) = some y ∧ y.phase = .running ∧
      y.waits = [.twin s.bridge.tseqNext] ∧ t.allots = s.allots ∧ t.queues = s.queues ∧ t.stores = s.stores

/-! ## The Fountain, the Gatehouse and the Lodge (13_fountain.md, 16_gatehouse_lodge.md) -/

/-- Cells: a health test that fails quarantines a running cell and spoils a retest; a window that passes is accepted and
the next one begins under the limits in force; one that does not pass quarantines; a third clean retest window restores.
Chunks, seeds and slots: the pool fills from the healthy cells and a full pool becomes a seed; a seed instantiates the
expander and makes the Fountain ready; a slot serves its holder's first draw and the output state moves on. -/
def Obligations.Noise : Prop :=
  (∀ (s : State) (c : Fin 8) (x : Cell) (w : Nat) (ones : BitVec 17) (equal : Vector (BitVec 16) 4) (i : W64),
    s.fountain.cells[c.val]? = some x → s.fountain.started = true → x.windowStart = some w → ∀ m e,
    m = windowOnes s.fountain ones.toNat →
    e = windowEqual s.fountain (i.toNat - 65536) (equal.toList.map BitVec.toNat) →
    (∀ p, testMayFail s.fountain p i.toNat = true → x.stateCode ≠ 2 → w ≤ i.toNat → i.toNat < w + 65536 → ∃ t y, exec (.healthTestFailure c p i) s = .next t ∧
      t.fountain.cells[c.val]? = some y ∧ y.stateCode = 2 ∧ y.lastCause = (if p then 2 else 1) ∧ y.windowStart = none ∧
      y.accepted = 0 ∧ y.fails = min (x.fails + 1) 0xFFFFFF) ∧
    (∀ p, testMayFail s.fountain p i.toNat = true → x.stateCode = 2 → w ≤ i.toNat →
      exec (.healthTestFailure c p i) s = .next (modCell s c.val fun x => { x with failures := x.failures ++ [(i.toNat, p)] })) ∧
    (∀ p, i.toNat < w ∨ testMayFail s.fountain p i.toNat = false → exec (.healthTestFailure c p i) s = .next s) ∧
    (∀ p, s.fountain.patternEn = false → testMayFail s.fountain p i.toNat = true) ∧
    (s.fountain.patternEn = false → m = ones.toNat ∧ e = equal.toList.map BitVec.toNat) ∧
    (x.stateCode ≠ 2 → i.toNat = w + 65536 →
      windowCause x (biasOf m) (e.mapIdx fun k n => corrOf (k + 1) n) = none →
      ∃ t y, exec (.testWindowEnd c ones equal i) s = .next t ∧ t.fountain.cells[c.val]? = some y ∧ y.stateCode = 1 ∧
        y.windowStart = some i.toNat ∧ y.windows = x.windows + 1 ∧ y.biasLim = s.fountain.biasLim ∧
        y.accepted = (if s.fountain.supplyFailed then x.accepted else min (x.accepted + 32768) 32768)) ∧
    (∀ n, x.stateCode ≠ 2 → i.toNat = w + 65536 →
      windowCause x (biasOf m) (e.mapIdx fun k n => corrOf (k + 1) n) = some n →
      ∃ t y, exec (.testWindowEnd c ones equal i) s = .next t ∧ t.fountain.cells[c.val]? = some y ∧ y.stateCode = 2 ∧
        y.lastCause = n ∧ y.passes = 0) ∧
    (x.stateCode = 2 → failedIn x i.toNat = false → w + 65536 ≤ i.toNat →
      windowCause x (biasOf m) (e.mapIdx fun k n => corrOf (k + 1) n) = none →
      ∃ t y, exec (.testWindowEnd c ones equal i) s = .next t ∧ t.fountain.cells[c.val]? = some y ∧
        (x.passes = 2 → (∀ f ∈ x.failures, f.1 < i.toNat) → y.stateCode = 1 ∧ y.passes = 0 ∧ y.windowStart = some i.toNat) ∧
        (x.passes = 2 → (∃ f ∈ x.failures, i.toNat ≤ f.1) → y.stateCode = 2 ∧ y.passes = 0 ∧ y.windowStart = none) ∧
        (x.passes ≠ 2 → y.stateCode = 2 ∧ y.passes = x.passes + 1 ∧ y.windowStart = none)) ∧
    (x.stateCode = 2 → w + 65536 ≤ i.toNat → failedIn x i.toNat = true ∨
      windowCause x (biasOf m) (e.mapIdx fun k n => corrOf (k + 1) n) ≠ none →
      ∃ t y, exec (.testWindowEnd c ones equal i) s = .next t ∧ t.fountain.cells[c.val]? = some y ∧ y.stateCode = 2 ∧
        y.passes = 0 ∧ y.windowStart = none) ∧
    (x.biasLim.toNat < Int.natAbs (32768 - (biasOf m : Int)) → ∀ l, windowCause x (biasOf m) l = some 3)) ∧
  (∀ (s : State),
    (∀ chunks : Vector W64 8, s.fountain.started = true → s.fountain.rawMode = false → s.fountain.supplyFailed = false →
      4 ≤ healthyCount s → ∀ l p, l = ((List.range 8).filter fun c => (cellAt s c).healthy && decide (64 ≤ (cellAt s c).accepted)) →
      p = s.fountain.pool ++ l.flatMap (fun c => leBytes 8 (cellChunk s chunks.toList c)) →
      (s.fountain.patternEn = false → ∀ c, cellChunk s chunks.toList c = (chunks.toList.getD c 0).toNat) ∧
      ∃ t, exec (.chunkPeriod chunks) s = .next t ∧ t.fountain.ready = s.fountain.ready ∧
        (s.fountain.poolChunks + l.length < poolNeed s → t.fountain.pool = p ∧ t.fountain.seed = s.fountain.seed ∧
          t.fountain.poolChunks = s.fountain.poolChunks + l.length) ∧
        (poolNeed s ≤ s.fountain.poolChunks + l.length → t.fountain.pool = p.drop (8 * poolNeed s) ∧
          t.fountain.seed = some (sha3_256 (1 :: p.take (8 * poolNeed s)) ++ (sha3_256 (2 :: p.take (8 * poolNeed s))).take 16))) ∧
    (∀ chunks, healthyCount s < 4 → exec (.chunkPeriod chunks) s = .next s) ∧
    (s.fountain.started = false ∨ s.fountain.rawMode = true → exec .generateSlot s = .next s) ∧
    (∀ seed, s.jobs = [] → s.fountain.started = true → s.fountain.rawMode = false → s.fountain.seed = some seed →
      s.fountain.instantiated = false → s.fountain.ready = false → ∃ t, exec .generateSlot s = .next t ∧
        (t.fountain.drbgKey, t.fountain.drbgV) = (drbgGenerate
          (drbgUpdate (zeroBytes 32) (zeroBytes 16) (xorBytes seed (personalisation s))).1
          (drbgUpdate (zeroBytes 32) (zeroBytes 16) (xorBytes seed (personalisation s))).2).2 ∧
        t.fountain.seed = none ∧ t.fountain.instantiated = true ∧ t.fountain.ready = decide (4 ≤ healthyCount s) ∧
        t.fountain.reseeds = s.fountain.reseeds + 1 ∧ t.fountain.slotNumber = 1) ∧
    (∀ k j d rest, (∀ p ∈ s.jobs, ∀ e ∈ p.2.draws, e.posted = true) → s.fountain.started = true → s.fountain.rawMode = false →
      s.fountain.seed = none → s.fountain.ready = true → s.fountain.instantiated = true → s.fountain.stopped = false →
      s.fountain.slotNumber < 4096 → s.fountain.frameSlot = 4 → KMap.get? s.fountain.queue 0 = some (d :: rest) →
      d.job = some k → KMap.get? s.jobs k = some j → d.fresh = false → 128 < d.bytes → ∃ t y, exec .generateSlot s = .next t ∧
        KMap.get? t.jobs k = some y ∧ y.drawn = j.drawn ++ (drbgGenerate s.fountain.drbgKey s.fountain.drbgV).1.take 128 ∧
        y.drawReady = now s + 1 ∧ KMap.get? t.fountain.queue 0 = some ({ d with bytes := d.bytes - 128 } :: rest) ∧
        (t.fountain.drbgKey, t.fountain.drbgV) = (drbgGenerate s.fountain.drbgKey s.fountain.drbgV).2 ∧
        t.fountain.frameSlot = 5 ∧ t.fountain.slotNumber = s.fountain.slotNumber + 1))

/-- What expires or waits for the Fountain and the Icehouse: a draw, a start-up, a job held for the Icehouse; the refresh
generators' seeds; and the Icehouse's return to service. -/
def Obligations.FountainWaits : Prop :=
  ∀ (s : State) (r : JobRef) (j : Job),
    (KMap.get? s.jobs (refKey r) = some j → drawLimited s (refKey r) = true → family j ≠ 0xF0 → ∃ t y,
      exec (.drawTimeout r) s = .next t ∧ KMap.get? t.jobs (refKey r) = some y ∧ y.phase = .decided ∧ y.status = .entropyFailed ∧
      y.output = []) ∧
    (drawLimited s (refKey r) = false → exec (.drawTimeout r) s = .next s) ∧
    (s.fountain.started = true → s.fountain.ready = false → s.fountain.startupExpired = false → ∃ t,
      exec .startupExpired s = .next t ∧ t.fountain.startupExpired = true ∧ ∀ k x, KMap.get? s.jobs k = some x →
        x.phase = .ready → needsRandom s k x = true → ∃ y, KMap.get? t.jobs k = some y ∧ y.phase = .decided ∧
          y.status = .entropyFailed ∧ y.output = []) ∧
    (∀ g : Fin 4, s.fountain.ready = true → s.fountain.stopped = false → exec (.refreshGeneratorReseed g) s = .next
      (if s.ice.refreshSeeded.getD g.val false
        then { s with ice.refreshStandby := s.ice.refreshStandby.set g.val (!(s.ice.refreshStandby.getD g.val false)) }
        else { s with ice.refreshSeeded := s.ice.refreshSeeded.set g.val true })) ∧
    (KMap.get? s.jobs (refKey r) = some j → j.phase = .iceHeld → s.ice.ready = false → ∃ t y,
      exec (.icehouseHoldExpired r) s = .next t ∧ KMap.get? t.jobs (refKey r) = some y ∧ y.phase = .decided ∧
      y.status = .entropyFailed ∧ y.output = []) ∧
    (s.jobs = [] → s.ice.ready = false → s.ice.erased = false → s.fountain.ready = true → hasRoot s = true → s.boot.ready = true →
      ∃ t, exec .icehouseResume s = .next t ∧ t.ice.ready = true ∧ t.ice.clearing = false ∧ t.ice.root = rootKind s ∧
        t.lodge.kek.isSome = true ∧ (s.lodge.kek.isSome = true → t.lodge.kek = s.lodge.kek)) ∧
    (s.ice.erased = true ∨ s.fountain.ready = false ∨ s.boot.ready = false → exec .icehouseResume s = .next s)

/-- Sources: a hard event erases at once and calls its response; a soft one counts and answers as its window decides; the
ends of excursions and windows; an episode of disagreement counts for source 14.
The Lodge: an alarm on battery alone, the removal of the cell with power and without, and an LPO cycle with its samples. -/
def Obligations.TamperSources : Prop :=
  (∀ (s : State) (src : Fin 16) (x : Source) (a b : W32), s.gh.sources[src.val]? = some x → 1 ≤ s.boot.stage →
    (src.val < 14 → sourceOff s src.val = false → ∃ t y, exec (.hardEvent src a b) s = .next t ∧ t.lodge.kek = none ∧
      t.ice.keys = [] ∧ t.ice.residents = [] ∧ t.ice.ready = false ∧ t.plots = [] ∧ t.digests = [] ∧
      t.lodge.sticky.getLsbD src.val = true ∧ t.lodge.holds.getLsbD src.val = true ∧ t.gh.eraseActive = true ∧
      t.gh.responses = s.gh.responses ++ [{ source := src.val, level := 4, hard := true, tick := now s }] ∧
      t.gh.sources[src.val]? = some y ∧ y.hardNow = true ∧ y.readingA = a ∧ y.readingB = b ∧ t.jobs = s.jobs ∧ t.otp = s.otp) ∧
    (14 ≤ src.val ∨ sourceOff s src.val = true → exec (.hardEvent src a b) s = .next s) ∧
    (src.val < 14 → sourceOff s src.val = false → x.enable = true → s.gh.calibrated = true → x.excursion = false →
      (x.rateN ≤ 1 → ∃ t y, exec (.softEvent src a b) s = .next t ∧
        t.gh.responses = s.gh.responses ++ [{ source := src.val, level := x.resp, hard := false, tick := now s }] ∧
        t.gh.sources[src.val]? = some y ∧ y.count = min (x.count + 1) 0xFFFFFFFF ∧ y.excursion = hasUnit src.val) ∧
      (2 ≤ x.rateN → x.window = none → ∃ t y, exec (.softEvent src a b) s = .next t ∧ t.gh.responses = s.gh.responses ∧
        t.gh.sources[src.val]? = some y ∧ y.window = some (now s, 1)) ∧
      (∀ t0 n, x.window = some (t0, n) → now s < t0 + x.rateWin → n + 1 < x.rateN → ∃ t y,
        exec (.softEvent src a b) s = .next t ∧ t.gh.responses = s.gh.responses ∧ t.gh.sources[src.val]? = some y ∧
        y.window = some (t0, n + 1)) ∧
      (∀ t0 n, x.window = some (t0, n) → now s < t0 + x.rateWin → x.rateN = n + 1 → ∃ t, exec (.softEvent src a b) s = .next t ∧
        t.gh.responses = s.gh.responses ++ [{ source := src.val, level := x.resp, hard := false, tick := now s }])) ∧
    (x.enable = false → src.val ≠ 14 → exec (.softEvent src a b) s = .next s) ∧
    (∃ t y, exec (.excursionEnd src) s = .next t ∧ t.gh.sources[src.val]? = some y ∧ y.excursion = false ∧ y.hardNow = false ∧
      y.count = x.count ∧ t.lodge = s.lodge ∧ t.gh.responses = s.gh.responses) ∧
    (∀ t0 n, x.window = some (t0, n) → x.hardWindow = none → exec (.rateWindowEnd src) s = .next (modSource s src.val fun y =>
      { y with window := if t0 + y.rateWin ≤ now s then none else some (t0, n), hardWindow := none })) ∧
    (∀ z, 6 ≤ src.val → src.val ≤ 11 → s.gh.sources[14]? = some z → z.hardWindow = none → ∃ t y u,
      exec (.detectorDisagreement src) s = .next t ∧ t.gh.sources[src.val]? = some y ∧
      y.disagreements = min (x.disagreements + 1) 0xFFFF ∧ t.gh.sources[14]? = some u ∧ u.hardWindow = some (now s, 1)) ∧
    (src.val < 6 ∨ 11 < src.val → exec (.detectorDisagreement src) s = .next s)) ∧
  (∀ (s : State),
    (∀ src : Fin 16, s.boot.stage = 0 → s.lodge.battery = true → src.val ∈ [0, 1, 2, 3, 4, 5, 10, 13] → sourceOff s src.val = false →
      ∃ t, exec (.lodgeAlarmWhileOff src) s = .next t ∧ t.lodge.kek = none ∧ t.lodge.offAlarm = some src.val ∧
        t.lodge.sticky.getLsbD src.val = true ∧ t.lodge.holds.getLsbD src.val = true ∧ t.gh = s.gh ∧ t.otp = s.otp) ∧
    (∀ src : Fin 16, 1 ≤ s.boot.stage ∨ s.lodge.battery = false → exec (.lodgeAlarmWhileOff src) s = .next s) ∧
    (s.boot.power = true → 1 ≤ s.boot.stage → ∃ t, exec .batteryRemoval s = .next t ∧ t.lodge.battery = false ∧
      t.lodge.kek = none ∧ t.lodge.sticky.getLsbD 13 = true ∧ t.lodge.secTime = s.lodge.secTime ∧
      t.gh.responses = s.gh.responses ++ [{ source := 13, level := 4, hard := true, tick := now s }]) ∧
    (s.boot.power = false → ∃ t, exec .batteryRemoval s = .next t ∧ t.lodge.battery = false ∧ t.lodge.kek = none ∧
      t.lodge.lost = true ∧ t.lodge.timeLost = true ∧ t.lodge.timeValid = false ∧ t.lodge.sticky = 0x2000 ∧
      t.lodge.holds = 0x2000 ∧ t.lodge.failures = 0) ∧
    (∀ mesh cases vbat, s.lodge.battery = true ∨ s.boot.power = true → ∃ t, exec (.lpoCycle mesh cases vbat) s = .next t ∧
      t.lodge.secTime = s.lodge.secTime + 1 ∧ t.jobs = s.jobs ∧ t.otp = s.otp ∧
      ∀ i, i < 4 → s.lodge.runs.length = 7 → s.lodge.runs.getD i 0 = 1 → mesh.getLsbD i = true → sourceOff s i = false →
        1 ≤ s.boot.stage ∨ s.lodge.battery = true → t.lodge.kek = none ∧ t.lodge.sticky.getLsbD i = true) ∧
    (∀ mesh cases vbat, s.lodge.battery = false → s.boot.power = false → exec (.lpoCycle mesh cases vbat) s = .next s))

/-- A response of an earlier tick takes effect at the boundary by its level: the record and the flag, the alert, the
quiesce with its hold, the session's keys and jobs, the reset, the end of life; quiescence ends when no hold is left. -/
def Obligations.TamperResponses : Prop :=
  ∀ (s : State) (x : Response), s.gh.responses = [x] → x.tick < now s → s.gh.executing = 0 → x.source < 16 →
    (x.level = 0 → ∃ t, exec .tamperResponse s = .next t ∧ t.lodge.sticky.getLsbD x.source = true ∧ t.lodge.holds = s.lodge.holds ∧
      t.gh.alert = s.gh.alert ∧ t.gh.quiesced = s.gh.quiesced ∧ t.gh.responses = [] ∧ t.jobs = s.jobs) ∧
    (x.level = 1 → ∃ t, exec .tamperResponse s = .next t ∧ t.lodge.sticky.getLsbD x.source = true ∧ t.lodge.holds = s.lodge.holds ∧
      t.gh.alert.getLsbD x.source = true ∧ t.gh.quiesced = s.gh.quiesced ∧ t.gh.responses = [] ∧ t.jobs = s.jobs) ∧
    (x.level = 2 → ∃ t, exec .tamperResponse s = .next t ∧ t.lodge.holds.getLsbD x.source = true ∧ t.gh.quiesced = true ∧
      t.gh.alert.getLsbD x.source = true ∧ (∀ u ∈ t.units, u.running = []) ∧ t.ice = s.ice ∧ t.plots = s.plots) ∧
    (x.level = 3 → ∃ t, exec .tamperResponse s = .next t ∧ t.gh.quiesced = true ∧ t.ice.keys = [] ∧ t.ice.residents = [] ∧
      t.plots = [] ∧ t.digests = [] ∧ ∀ k j, KMap.get? s.jobs k = some j → keyAllot k ∈ tenants s → ∃ y,
        KMap.get? t.jobs k = some y ∧ y.phase = .decided ∧ y.status = .aborted ∧ y.output = []) ∧
    (x.level = 4 → ∃ t, exec .tamperResponse s = .next t ∧ t.boot.stage = 0 ∧ t.boot.cause = 4 ∧ t.jobs = [] ∧ t.ice.keys = [] ∧
      t.otp = s.otp ∧ t.lodge.sticky.getLsbD x.source = true ∧ t.lodge.kek = none) ∧
    (x.level = 5 → vaultWritable s = false → ∃ t, exec .tamperResponse s = .next t ∧ t.boot.stage = 0 ∧ t.boot.cause = 4 ∧
      t.otp = { s.otp with lcWords := List.replicate 4 0xFFFFFFFF } ∧ t.lodge.kek = none) ∧
    (x.level = 5 → vaultWritable s = true → ∃ t b, exec .tamperResponse s = .next t ∧ t.gh.executing = 6 ∧ t.otp = s.otp ∧
      t.journal.pending.getLast? = some b ∧ b.type = 5 ∧ b.subtype = 3 ∧ t.gh.eolRecords.getLast? = some b.id) ∧
    (s.gh.quiesced = true → s.lodge.holds = 0 → exec .quiesceEnd s = .next { s with gh.quiesced := false }) ∧
    (s.lodge.holds ≠ 0 → exec .quiesceEnd s = .next s)

/-! ## The Vault, the journal, the Footbridge and the Sundial (17_vault_media.md to 22_power_sundial.md) -/

/-- Erases, timeouts and codewords: the oldest queued block is erased and comes back free, or grown bad; a die that times
out twice has failed; a codeword's corrections count; a page that fails twice takes its block out of service. -/
def Obligations.MediaUpkeep : Prop :=
  ∀ (s : State) (die : Fin 16) (d : Nat) (x : Die), dieIndex s die = some d → dieAt s d = some x → dieRuns s d = true →
    (∀ b rest, x.eraseQueue = b :: rest → s.vault.readOnly = false → (s.vault.erasing.any fun p => decide (p.1 = d)) = false →
      ∃ t y, exec (.eraseSlot die) s = .next t ∧ t.vault.erasing = s.vault.erasing ++ [(d, b)] ∧ dieAt t d = some y ∧
        y.eraseQueue = rest ∧ y.blocks = x.blocks) ∧
    (x.eraseQueue = [] → exec (.eraseSlot die) s = .next s) ∧
    (∀ b y, (s.vault.erasing.find? fun p => decide (p.1 = d)) = some (d, b) → blockAt s d b = some y →
      (∀ m, s.vault.media.report = some m → y.erases + 1 < m.endurance → ∃ t z, exec (.eraseDone die true) s = .next t ∧
        blockAt t d b = some z ∧ z.state = .free ∧ z.erases = y.erases + 1 ∧ z.written = [] ∧ z.reads = 0 ∧
        (∀ p ∈ t.vault.erasing, p.1 ≠ d)) ∧
      ∃ t z, exec (.eraseDone die false) s = .next t ∧ blockAt t d b = some z ∧ z.state = .grownBad ∧
        (∀ p ∈ t.vault.erasing, p.1 ≠ d)) ∧
    (x.timeouts = 0 → exec (.dieTimeout die) s = .next (modDie s d fun x => { x with timeouts := 1 })) ∧
    (x.timeouts ≠ 0 → ∃ t y, exec (.dieTimeout die) s = .next t ∧ dieAt t d = some y ∧ y.failed = true ∧
      t.vault.rework = s.vault.rework ++ s.vault.flight.filter (fun p => decide (p.die = d)) ∧
      (∀ p ∈ t.vault.flight, p.die ≠ d)) ∧
    (∀ (b : BitVec 24) (p : BitVec 16) (y : Block), blockAt s d b.toNat = some y →
      (∀ n : Fin 41, ∃ t z, exec (.codewordDecode die b p (.corrected n)) s = .next t ∧
        t.vault.highest = max s.vault.highest n.val ∧
        t.vault.corrected = min (s.vault.corrected + (if 0 < n.val then 1 else 0)) 0xFFFFFFFF ∧ blockAt t d b.toNat = some z ∧
        z.refreshDue = (y.refreshDue || decide (24 < n.val)) ∧ z.state = y.state) ∧
      ((d, b.toNat, p.toNat) ∉ s.vault.suspect → ∃ t, exec (.codewordDecode die b p .uncorrectable) s = .next t ∧
        t.vault.suspect = s.vault.suspect ++ [(d, b.toNat, p.toNat)] ∧ t.vault.uncorrectable = s.vault.uncorrectable) ∧
      ((d, b.toNat, p.toNat) ∈ s.vault.suspect → ∃ t z, exec (.codewordDecode die b p .uncorrectable) s = .next t ∧
        t.vault.uncorrectable = min (s.vault.uncorrectable + 1) 0xFFFF ∧ blockAt t d b.toNat = some z ∧ z.state = .grownBad) ∧
      (∀ n : BitVec 11, n.toNat < 1094 → n.toNat % 64 ≠ 0 → (d, b.toNat, p.toNat) ∉ s.vault.suspect → x.channel < s.vault.fifos.length →
        ∃ t f g, exec (.fifoTailTimeout die b p n) s = .next t ∧ s.vault.fifos[x.channel]? = some g ∧
          t.vault.fifos[x.channel]? = some f ∧ f.timeouts = g.timeouts + 1 ∧
          f.words = List.replicate (n.toNat / 64) (64, false, false) ++ [(n.toNat % 64, true, true)] ∧
          t.vault.suspect = s.vault.suspect ++ [(d, b.toNat, p.toNat)]) ∧
      (50000 ≤ y.reads → y.good = true → ∃ t z, exec (.blockRefresh die b) s = .next t ∧ blockAt t d b.toNat = some z ∧
        z = { y with refreshDue := true }) ∧
      (y.reads < 50000 → exec (.blockRefresh die b) s = .next s) ∧
      (0 < y.valid → inWindow s.lodge.secTime.toNat y.stamp.toNat 84934656000 = false → ∃ t z, exec (.scrubDue die b) s = .next t ∧
        blockAt t d b.toNat = some z ∧ z = { y with scrubDue := true })) ∧
    (∀ c, s.vault.readOnly = false → c ∈ s.vault.chores → (∀ c ∈ s.vault.chores, c.cls = 3) →
      ∃ t, exec (.housekeepingMediaSlot die) s = .next t ∧ t.vault.sinceCheckpoint = 0 ∧ t.vault.chores = []) ∧
    (s.vault.readOnly = false → s.vault.chores = [] → s.sundial.history ≠ [] → ∃ t, exec (.housekeepingMediaSlot die) s = .next t ∧
      t.vault.media.history = s.vault.media.history ++ s.sundial.history.take (contentSize s / 32) ∧
      t.sundial.history = s.sundial.history.drop (contentSize s / 32))

/-- Append slots and programs: allotment 0's position carries its record with the next sequence number and the hash chain;
while a GAP record or the cause record waits it carries none; PASS makes the slots durable, FAIL queues the page again and its
block is grown bad. A slot without a running die does nothing. -/
def Obligations.JournalAppends : Prop :=
  ∀ (s : State) (die : Fin 16),
    (∀ d r u b, atRest s → dieIndex s die = some d → dieRuns s d = true → s.vault.readOnly = false → s.vault.rework = [] →
      s.journal.position = 1 → s.ice.changes = [] → s.journal.pending = [r] → r.holder = 0 → r.type ≠ 1 → leads r = false → 1 ≤ slotsPerPage s →
      takeBlock (nextPosition s) d .journal false = some (u, b) → ∃ t p, exec (.appendSlot die) s = .next t ∧
        t.vault.flight = s.vault.flight ++ [p] ∧ p.number = s.vault.nextPage ∧ p.holder = 0 ∧
        p.content = .journal [{ chunk := false, seq := s.journal.next, id := r.id, bytes := recordBytes s r }] ∧
        t.journal.next = s.journal.next + 1 ∧ t.journal.head = sha3_256 (recordBytes s r) ∧ t.journal.pending = [] ∧
        t.journal.position = 2) ∧
    (∀ d, atRest s → dieIndex s die = some d → dieRuns s d = true → s.vault.readOnly = false → s.vault.rework = [] →
      s.journal.position = 1 → s.ice.changes = [] → s.ice.cacheDue = [] → leadPending s = true → s.vault.formatting = false →
      ∃ t, exec (.appendSlot die) s = .next t ∧ t.vault.flight = s.vault.flight ∧ t.journal.pending = s.journal.pending ∧
        t.journal.next = s.journal.next ∧ t.journal.position = 2) ∧
    (dieIndex s die = none ∨ s.vault.readOnly = true → exec (.appendSlot die) s = .next s) ∧
    (∀ r, fieldAt (recordBytes s r) 0 8 = s.journal.next % 2 ^ 64 ∧ fieldAt (recordBytes s r) 8 8 = s.lodge.secTime.toNat ∧
      fieldAt (recordBytes s r) 24 1 = r.type % 256 ∧ slice (recordBytes s r) 32 32 = slice s.journal.head 0 32 ∧
      slice (recordBytes s r) 64 64 = slice r.body 0 64 ∧ (recordBytes s r).length = 128) ∧
    (∀ (n : W64) p l, atRest s → (s.vault.flight.find? fun q => decide (q.number = n.toNat)) = some p → p.content = .journal l →
      (∃ t, exec (.pageProgramDone n true) s = .next t ∧ (∀ x ∈ l, x ∈ t.vault.media.journal) ∧
        ∀ q ∈ t.vault.flight, q.number ≠ n.toNat) ∧
      (∀ y, blockAt s p.die p.block = some y → ∃ t z, exec (.pageProgramDone n false) s = .next t ∧
        t.vault.rework = s.vault.rework ++ [p] ∧ t.vault.media.journal = s.vault.media.journal ∧
        blockAt t p.die p.block = some z ∧ z.state = .grownBad)) ∧
    (∀ n rec, s.journal.signing = some (n, rec) → ∃ t, exec .headSignatureReady s = .next t ∧ t.journal.signing = none ∧
      t.journal.chunks.length = 39 ∧ (∀ c ∈ t.journal.chunks, fieldAt c.2 0 8 = n % 2 ^ 64 ∧ c.2.length = 128) ∧
      t.journal.pending = s.journal.pending) ∧
    (s.journal.signing = none → exec .headSignatureReady s = .next s) ∧
    (∀ x rest, s.journal.exporting = x :: rest → s.journal.jxEnable = true → exportRoom s.journal = true →
      masters s 0 = true → s.link.credit = true → ∃ t, exec .journalExportWrite s = .next t ∧
        t.link.out = s.link.out ++ [.write 0 (s.journal.jxRing + BitVec.ofNat 64 (136 * (s.journal.jxProd % 2 ^ s.journal.jxLog)))
          ((if x.chunk then 2 else 1) :: zeroBytes 7 ++ slice x.bytes 0 128) false] ∧
        t.journal.exporting = rest ∧ t.journal.jxProd = (s.journal.jxProd + 1) % 2 ^ 32) ∧
    (s.journal.jxEnable = false → s.journal.exporting ≠ [] → exec .journalExportWrite s = .next s)

/-- The link comes up with fresh frame numbers and no link key, goes down, retrains, and gives up on a lost frame; the
presence pin; a bridge slot carries one frame of the position's holder.
A frame to which the Footbridge does not listen is dropped; one out of sequence or whose check fails is counted, and the first missing
one asked for; a nonce whose tag fails forces a retrain. -/
def Obligations.BridgeLink : Prop :=
  (∀ s : State,
    (hasBridge s = true → s.bridge.present = true → 8 ≤ s.boot.stage → s.bridge.block.at' = none → s.bridge.linkUp = false →
      ∃ t, exec .linkUp s = .next t ∧ t.bridge.linkUp = true ∧ t.bridge.lanes = 4 ∧ t.bridge.fseqIn = 0 ∧ t.bridge.fseqOut = 0 ∧
        t.bridge.linkKey = none ∧ t.bridge.peerNonce = none ∧
        (s.bridge.paired = true → s.fountain.ready = true → t.bridge.ownNonce.isSome = true) ∧
        (s.bridge.paired = true → s.fountain.ready = false → t.bridge.nonceDue = true ∧ t.bridge.ownNonce = none)) ∧
    (s.bridge.linkUp = true → ∃ t, exec .linkDown s = .next t ∧ t.bridge.linkUp = false ∧ t.bridge.linkKey = none ∧
      t.bridge.helloPeer = [] ∧ t.bridge.retrains = s.bridge.retrains) ∧
    (hasBridge s = true → s.bridge.present = true → 8 ≤ s.boot.stage → s.bridge.linkUp = false → s.bridge.retrainAt ≤ now s →
      ∃ t, exec .linkRetrain s = .next t ∧ t.bridge.retrains = min (s.bridge.retrains + 1) 0xFFFF ∧
        t.bridge.retrainAt = now s + 4096 ∧ t.bridge.linkUp = false) ∧
    (∀ p, ∃ t, exec (.fbPresentChange p) s = .next t ∧ t.bridge.present = p ∧
      (p = false → t.bridge.linkUp = false) ∧ (p = true → t.bridge.linkUp = s.bridge.linkUp)) ∧
    (∀ n, s.bridge.nakSince = some n → bridgeListens s = true → n + 64 ≤ now s → ∃ t, exec .linkNakTimeout s = .next t ∧
      t.bridge.linkUp = false ∧ t.bridge.nakSince = none ∧ t.bridge.retrains = min (s.bridge.retrains + 1) 0xFFFF) ∧
    (s.bridge.nakSince = none → exec .linkNakTimeout s = .next s) ∧
    (∀ f k, bridgeListens s = true → s.bridge.position = 0 → s.bridge.nextMembers = s.bridge.members → heartbeatDue s = false →
      s.bridge.linkKey = some k → KMap.get? s.bridge.queue deviceHolder = some [f] → f.fseq = 0 → f.segment = 0 →
      f.payload.length ≤ 912 → f.type ∈ [0x11, 0x12, 0x14, 0x21, 0x22, 0x23, 0x30, 0x31, 0x32] → ∃ t,
        exec .bridgeSlot s = .next t ∧ t.bridge.position = 1 ∧ t.bridge.fseqOut = s.bridge.fseqOut + 1 ∧
        KMap.get? t.bridge.queue deviceHolder = some [] ∧ t.bridge.sent.getLast? = some { f with
          holder := deviceHolder, last := true, isSealed := true, fseq := s.bridge.fseqOut + 1 }) ∧
    (bridgeListens s = true → s.bridge.position = 0 → s.bridge.nextMembers = s.bridge.members → heartbeatDue s = true →
      ∃ t f, exec .bridgeSlot s = .next t ∧ t.bridge.hbSent = now s / 64 ∧ t.bridge.sent.getLast? = some f ∧ f.type = 0x20 ∧
        fieldAt f.payload 0 8 = now s % 2 ^ 64 ∧ fieldAt f.payload 8 8 = s.lodge.secTime.toNat) ∧
    (bridgeListens s = false → exec .bridgeSlot s = .next s)) ∧
  (∀ (s : State) (h : FrameHead) (p : List Byte) (c : Instr),
    (messageRow h p c ∨ c = .linkNonce h p → bridgeListens s = false → exec c s = .next s) ∧
    (messageRow h p c ∨ c = .linkNonce h p ∧ h.intact = true → bridgeListens s = true → ¬ takesFrame s h → ∃ t f, exec c s = .next t ∧
      t.bridge.discarded = min (s.bridge.discarded + 1) 0xFFFFFFFF ∧ t.bridge.fseqIn = s.bridge.fseqIn ∧
      (s.bridge.nakSince = none → t.bridge.nakSince = some (now s)) ∧
      KMap.getD t.bridge.queue deviceHolder [] = KMap.getD s.bridge.queue deviceHolder [] ++ [f] ∧ f.type = 0x23 ∧
      f.payload = leBytes 8 (s.bridge.fseqIn + 1) ∧ t.jobs = s.jobs ∧ t.allots = s.allots ∧ t.ice = s.ice) ∧
    (bridgeListens s = true → h.intact = false → ∃ t, exec (.linkNonce h p) s = .next t ∧ t.bridge.linkUp = false ∧
      t.bridge.retrains = min (s.bridge.retrains + 1) 0xFFFF))

/-- The messages of a pairing: the openings, the key exchange, the signatures, the items of the pair's state and their end. -/
def Obligations.PairingMessages : Prop :=
  ∀ (s : State) (h : FrameHead) (p : List Byte), takesFrame s h →
    (s.bridge.paired = false → 80 ≤ p.length → s.bridge.ceremony ≠ 1 → exec (.hello h p) s = .next { s with
      bridge := { s.bridge with fseqIn := h.last.toNat, nakSince := none, helloPeer := p } }) ∧
    (isWest s = true → s.bridge.ceremony = 2 → p.length = 1568 → ∃ t, exec (.kemEk h p) s = .next t ∧ t.bridge.kemEk = p ∧
      t.bridge.pairKey.isSome = true ∧ t.bridge.ceremony = 3 ∧ t.bridge.linkKey = none ∧ t.bridge.sharedSecret = [] ∧
      ∃ f, f ∈ KMap.getD t.bridge.queue deviceHolder [] ∧ f.type = 3 ∧ f.payload = t.bridge.kemCt) ∧
    (isWest s = false → s.bridge.ceremony = 2 → p.length = 1568 → ∃ t, exec (.kemCt h p) s = .next t ∧ t.bridge.kemCt = p ∧
      t.bridge.pairKey.isSome = true ∧ t.bridge.ceremony = 3 ∧ t.bridge.linkKey = none ∧ t.bridge.sharedSecret = []) ∧
    (∀ k, s.bridge.ceremony = 3 ∨ s.bridge.ceremony = 4 → s.bridge.linkKey = some k →
      (p.length ≠ 4627 → ∃ t, exec (.authFrame h p) s = .next t ∧ t.bridge.ceremony = 0 ∧
        (s.bridge.paired = false → t.bridge.pairKey = none)) ∧
      (p.length = 4627 → authHolds s p = true → s.bridge.authSent = false → exec (.authFrame h p) s = .next { s with
        bridge := { s.bridge with fseqIn := h.last.toNat, nakSince := none, authSeen := true } })) ∧
    (isWest s = true → 4 ≤ s.bridge.ceremony → s.bridge.rejoining = false → ∃ t, exec (.stateItem h p) s = .next t ∧
      t.bridge.stateCount = s.bridge.stateCount + 1 ∧ t.bridge.stateHash = s.bridge.stateHash ++ p ∧
      (fieldAt p 0 2 = 0x0A → t.lodge.secTime = BitVec.ofNat 64 (max s.lodge.secTime.toNat (leNat (p.drop 8)))) ∧
      (∀ b, fieldAt p 0 2 = 4 → openKeyItem s (p.drop 8) = some b → KMap.get? t.ice.keys (fieldAt p 2 6) = some (itemKey b)) ∧
      (fieldAt p 0 2 = 4 → openKeyItem s (p.drop 8) = none → KMap.get? t.ice.keys (fieldAt p 2 6) = KMap.get? s.ice.keys (fieldAt p 2 6)) ∧
      (∀ key, fieldAt p 0 2 = 4 → KMap.get? s.ice.keys (fieldAt p 2 6) = some key → key.live = true → ∃ b,
        t.journal.pending = s.journal.pending ++ [b] ∧ b.type = 3 ∧ b.subtype = 3 ∧
        t.bridge.pairRecords = s.bridge.pairRecords ++ [b.id])) ∧
    (isWest s = true → s.bridge.ceremony = 5 → s.bridge.rejoining = false →
      (fieldAt p 0 8 = s.bridge.stateCount → slice p 8 32 = sha3_256 s.bridge.stateHash → ∃ t b, exec (.stateEnd h p) s = .next t ∧
        t.bridge.ceremony = 6 ∧ t.bridge.pairRecords = s.bridge.pairRecords ++ [b.id] ∧
        t.journal.pending = s.journal.pending ++ [b] ∧ b.type = 7 ∧ b.subtype = 1) ∧
      (fieldAt p 0 8 ≠ s.bridge.stateCount → ∃ t, exec (.stateEnd h p) s = .next t ∧ t.bridge.ceremony = 0)) ∧
    (∀ k own, h.intact = true → s.bridge.pairKey = some k → s.bridge.ownNonce = some own → s.bridge.linkKey = none →
      s.bridge.ceremony ≠ 3 → ((KMap.getD s.bridge.queue deviceHolder []).any fun f => decide (f.type = 0x24)) = false →
      ∃ t, exec (.linkNonce h p) s = .next t ∧ t.bridge.linkKey = some (kmac256 k
        (if isWest s then slice p 0 32 ++ own else own ++ slice p 0 32) 32 "SDZ-LINK") ∧
        t.bridge.fseqIn = 0 ∧ t.bridge.fseqOut = 0 ∧ t.bridge.sent = []) ∧
    (∀ k, s.bridge.ceremonyJob = some k → s.bridge.rejoining = false → s.bridge.ceremonySince + 2 ^ 24 ≤ now s →
      (KMap.get? s.jobs k).isSome = true → ∃ t y, exec .twinPairTimeout s = .next t ∧ t.bridge.ceremony = 0 ∧
        KMap.get? t.jobs k = some y ∧ y.phase = .decided ∧ y.status = .twinUnavailable)

/-- The two-phase commit's messages and their timeout. -/
def Obligations.CommitMessages : Prop :=
  ∀ (s : State) (h : FrameHead) (p : List Byte), takesFrame s h →
    (mirrors s = false → exec (.prepare h p) s = .next { s with
      bridge := { s.bridge with fseqIn := h.last.toNat, nakSince := none } }) ∧
    (∀ k, mirrors s = true → k = fieldAt p 0 2 → k = 0 ∧ fieldAt (p.drop 8) 0 2 ≠ 0xF00F ∨ k = 0x0E →
      itemOpen s k (fieldAt p 2 6) = false ∨ isWest s = true → s.bridge.staged = [] →
      ∃ t f, exec (.prepare h p) s = .next t ∧ t.bridge.staged = [{
          tseq := h.tseq.toNat, holder := frameHolder h, kind := k, item := fieldAt p 2 6, contents := p.drop 8, records := [], acked := true, inDoubt := false }] ∧
        KMap.getD t.bridge.queue (frameHolder h) [] = KMap.getD s.bridge.queue (frameHolder h) [] ++ [f] ∧ f.type = 0x11 ∧
        f.tseq = h.tseq.toNat) ∧
    (mirrors s = true → sameOpen s (fieldAt p 0 2) (fieldAt p 2 6) (p.drop 8) = true → isWest s = false → ∃ t f,
      exec (.prepare h p) s = .next t ∧ t.bridge.staged = s.bridge.staged ∧
      KMap.getD t.bridge.queue (frameHolder h) [] = KMap.getD s.bridge.queue (frameHolder h) [] ++ [f] ∧ f.type = 0x12 ∧
      fieldAt f.payload 8 2 = 1) ∧
    (∀ c, atRest { s with bridge.commits := [] } → s.bridge.commits = [(fieldAt p 0 8, c)] → c.committing = false →
      ∃ t, exec (.ack h p) s = .next t ∧
        t.bridge.commits = [(fieldAt p 0 8, { c with acked := true, committing := decide (c.records = []) })] ∧
        (c.records = [] → ∃ f, KMap.getD t.bridge.queue c.holder [] = KMap.getD s.bridge.queue c.holder [] ++ [f] ∧ f.type = 0x13)) ∧
    (∀ c, atRest { s with bridge.commits := [] } → s.bridge.commits = [(fieldAt p 0 8, c)] → fieldAt p 8 2 = 3 → c.job = none →
      c.kind = 3 → ∃ t, exec (.nak h p) s = .next t ∧ t.bridge.commits = [] ∧ t.bridge.naks = min (s.bridge.naks + 1) 0xFFFF) ∧
    (∀ x, atRest { s with bridge.staged := [] } → s.bridge.staged = [x] → x.tseq = fieldAt p 0 8 → x.kind = 9 →
      ∃ t, exec (.frameCommit h p) s = .next t ∧ t.bridge.staged = [] ∧
        t.bridge.peerCommitted = max s.bridge.peerCommitted (fieldAt p 0 8) ∧
        t.ice.quoteNext = max s.ice.quoteNext (fieldAt x.contents 0 8 + 1)) ∧
    exec (.abandon h p) s = .next { s with bridge := { s.bridge with
      fseqIn := h.last.toNat, nakSince := none, staged := s.bridge.staged.filter fun x => decide (x.tseq ≠ fieldAt p 0 8) } } ∧
    (∀ (n : W64) c t0, atRest { s with bridge.commits := [] } → s.bridge.commits = [(n.toNat, c)] → c.acked = false →
      c.sentAt = some t0 → t0 + 4096 ≤ now s → c.job = none → c.kind = 3 → ∃ t f, exec (.commitTimeout n) s = .next t ∧
        t.bridge.commits = [] ∧ t.bridge.commitTimeouts = min (s.bridge.commitTimeouts + 1) 0xFFFF ∧
        f ∈ KMap.getD t.bridge.queue c.holder [] ∧ f.type = 0x14) ∧
    (∀ (n : W64) c, KMap.get? s.bridge.commits n.toNat = some c → c.acked = true → exec (.commitTimeout n) s = .next s)

/-- Heartbeats, SOLO, rejoin and the other notices of the twin. -/
def Obligations.TwinNotices : Prop :=
  ∀ (s : State) (h : FrameHead) (p : List Byte), takesFrame s h → s.bridge.paired = true →
    (s.bridge.solo = false → now s < s.bridge.hbDeadline → exec (.heartbeat h p) s = .next { s with bridge := { s.bridge with
      fseqIn := h.last.toNat, nakSince := none, hbLast := now s,
      committed := s.bridge.committed.filter fun t => decide (fieldAt p 32 8 ≤ t), hbDeadline := now s + 4096 } }) ∧
    (s.bridge.solo = false → s.bridge.hbDeadline ≤ now s → s.bridge.commits = [] → s.bridge.helloPeer = [] → ∃ t,
      exec (.heartbeat h p) s = .next t ∧ t.bridge.solo = true ∧ t.bridge.soloCause = 1 ∧ t.bridge.rejoining = true) ∧
    (atRest s → s.bridge.solo = false → s.bridge.hbDeadline ≤ now s → ∃ t b, exec .heartbeatDeadline s = .next t ∧
      t.bridge.solo = true ∧ t.bridge.soloCause = 1 ∧ t.journal.pending = s.journal.pending ++ [b] ∧ b.type = 7 ∧ b.subtype = 2) ∧
    (s.bridge.solo = true ∨ now s < s.bridge.hbDeadline → exec .heartbeatDeadline s = .next s) ∧
    (atRest s → s.bridge.solo = false → ∃ t, exec (.solo h p) s = .next t ∧ t.bridge.solo = true ∧
      t.bridge.soloCause = if fieldAt p 0 1 = 2 then 1 else 2) ∧
    (∀ x, s.gh.sources[15]? = some x → x.enable = true → sourceOff s 15 = false → s.gh.calibrated = true → x.rateN ≤ 1 →
      ∃ t, exec (.tamperNotice h p) s = .next t ∧
        t.gh.responses = s.gh.responses ++ [{ source := 15, level := x.resp, hard := false, tick := now s }]) ∧
    (∃ t, exec (.linkNak h p) s = .next t ∧ ∀ f ∈ s.bridge.sent, fieldAt p 0 8 ≤ f.fseq → f ∈ KMap.getD t.bridge.queue f.holder []) ∧
    (s.bridge.solo = true → s.bridge.soloCause ≠ 3 → s.bridge.rejoining = false → ∃ t, exec (.rejoinReq h p) s = .next t ∧
      t.bridge.rejoining = true ∧ t.bridge.peerNext = fieldAt p 0 8 ∧ t.bridge.peerHead = slice p 8 32) ∧
    (s.bridge.rejoining = true → ∃ t, exec (.replay h p) s = .next t ∧
      t.bridge.applied = (if p.length < 128 then s.bridge.applied else
        min (s.bridge.applied + min 7 (p.length / 128)) 0xFFFFFFFF)) ∧
    (atRest s → s.bridge.rejoining = true → BitVec.ofNat 16 (fieldAt p 40 2) &&& ~~~s.lodge.sticky = 0 → ∃ t b,
      exec (.replayEnd h p) s = .next t ∧ t.bridge.peerReplayEnd = true ∧ t.bridge.rejoinRecord = some b.id ∧
      t.journal.pending = s.journal.pending ++ [b] ∧ b.type = 7 ∧ b.subtype = 4) ∧
    (s.bridge.rejoining = true → s.bridge.rejoinSince + 2 ^ 24 ≤ now s → ∃ t, exec .rejoinTimeout s = .next t ∧
      t.bridge.rejoining = false ∧ t.bridge.ceremony = 0 ∧ t.bridge.solo = s.bridge.solo) ∧
    (s.bridge.rejoining = false → exec .rejoinTimeout s = .next s)

/-- The rows between measurements: the step up, the glitch reference, the thermal cap, the periodic history. -/
def Obligations.SundialRows : Prop :=
  ∀ s : State,
    (∀ w, s.sundial.window = some w → now s < w + 2 ^ 30 → exec .stepUpWindowEnd s = .next s) ∧
    (∀ w, s.sundial.window = some w → w + 2 ^ 30 ≤ now s → 0 < s.sundial.planned → s.sundial.unavailable = false → ∃ t,
      exec .stepUpWindowEnd s = .next t ∧ t.sundial.planned = s.sundial.planned - 1 ∧ t.sundial.window = none ∧
      t.sundial.inForce = (if s.sundial.throttled then 3 else s.sundial.planned - 1)) ∧
    (s.sundial.window = none → exec .stepUpWindowEnd s = .next s) ∧
    (∀ n b, s.sundial.glitchDue = some n → b = true ∨ n ≤ now s → exec (.glitchReferenceUpdate b) s = .next
      { s with sundial := { s.sundial with glitchRef := s.sundial.setPoint, glitchDue := none } }) ∧
    (∀ n, s.sundial.glitchDue = some n → now s < n → exec (.glitchReferenceUpdate false) s = .next s) ∧
    (∀ a b : BitVec 16, s.boot.ready = true → 1100 ≤ a.toInt ∨ 1100 ≤ b.toInt → ∃ t, exec (.thermalThrottle a b) s = .next t ∧
      t.sundial.throttled = true ∧ t.sundial.capEnding = false ∧ t.sundial.inForce = s.sundial.inForce) ∧
    (∀ a b : BitVec 16, a.toInt < 1100 → b.toInt < 1100 → exec (.thermalThrottle a b) s = .next
      (if s.boot.ready then noteTemp (noteTemp s a) b else s)) ∧
    (∀ a : BitVec 16, noteTemp s a = { s with sundial := { s.sundial with
      highTemp := some ((s.sundial.highTemp.filter fun x => decide (a.toInt ≤ x.toInt)).getD a),
      hotAt := if a.toInt < 1050 then s.sundial.hotAt else now s } }) ∧
    (s.sundial.throttled = true → s.sundial.hotAt + 1 + 2 ^ 20 ≤ now s →
      exec .thermalCapEnd s = .next { s with sundial.capEnding := true }) ∧
    (s.sundial.throttled = false ∨ now s < s.sundial.hotAt + 1 + 2 ^ 20 → exec .thermalCapEnd s = .next s) ∧
    (s.boot.ready = true → s.sundial.lastChange + 2 ^ 30 ≤ now s → s.sundial.history.length < 256 → ∃ t b,
      exec .historyPeriodic s = .next t ∧ t.sundial.history = s.sundial.history ++ [b] ∧ fieldAt b 0 8 = now s % 2 ^ 64 ∧
      fieldAt b 16 1 = s.sundial.inForce % 256 ∧ fieldAt b 18 2 = s.sundial.setPoint % 65536 ∧ t.sundial.lastChange = now s) ∧
    (∀ sites avs temp, s.boot.ready = true → now s % 2 ^ 20 = 0 → s.sundial.measuredAt ≠ some (now s) →
      20 ≤ (validSites (siteList sites)).length → ∀ m d, d = (worstSite (siteList sites)).1 → m = marginAt d s.sundial.inForce →
      (∀ w, s.sundial.window = some w → now s < w + 2 ^ 30) →
      ∃ t, exec (.sundialMeasurement sites avs temp) s = .next t ∧ t.sundial.measuredAt = some (now s) ∧
        t.sundial.worstDelay = d ∧ t.sundial.margin = (BitVec.ofInt 16 m).toNat ∧ t.sundial.unavailable = false ∧
        (m < (s.sundial.pendingThresh.getD s.sundial.thresh : Nat) → s.sundial.setPoint < 850 → s.sundial.avsFail = false →
          avs.writeOk = true → t.sundial.setPoint = s.sundial.setPoint + 5 ∧ t.sundial.planned = s.sundial.planned) ∧
        (m < (s.sundial.pendingThresh.getD s.sundial.thresh : Nat) → 850 ≤ s.sundial.setPoint →
          t.sundial.planned = min 3 (s.sundial.planned + 1) ∨ 3 ≤ s.sundial.planned ∧ t.sundial.floor = true))

/-- R494: a measurement with fewer than 20 valid sites. -/
def Obligations.UnavailableMeasurement : Prop :=
  ∀ (s : State) (sites : Vector SiteDelay 24) (avs : AvsReport) (temp : BitVec 16), s.boot.ready = true → now s % 2 ^ 20 = 0 →
    s.sundial.measuredAt ≠ some (now s) → (validSites (siteList sites)).length < 20 →
    ∃ t, exec (.sundialMeasurement sites avs temp) s = .next t ∧ t.sundial.unavailable = true ∧
      (s.sundial.avsFail = false ∨ avs.statusOk = true → avs.writeOk = true → t.sundial.setPoint = 850) ∧
      t.sundial.planned = (windowRun s).sundial.planned ∧ t.sundial.window = none ∧
      ((windowRun s).events.fifo.length < 62 → (t.events.fifo.any fun e => decide (e.code = 0x0084)) = true)

/-- A block reset zeroes its unit, holds its clock in reset, ends the jobs that stood there and counts; it returns after 64 ticks.
The fatal path: FATAL_N and the report go out at once, a second fatal error or the end of its window is a full reset. -/
def Obligations.BlockResetsAndFatal : Prop :=
  (∀ (s : State) (u : Fin 14) (hang : Bool), 6 ≤ s.boot.stage → blockPresent s u.val = true → outOfService s u.val = false →
    (u.val < 12 → s.units.length = 12 → ((resetWindowOf s u.val).getD (now s, 0)).2 < 3 → ∃ t v, exec (.blockReset u hang) s = .next t ∧
      v = unitAt t u.val ∧ v.running = [] ∧ v.bay = none ∧ v.resetAt = some (now s) ∧ v.resets = (unitAt s u.val).resets + 1 ∧ t.clocks = holdClocks s.clocks (blockClock u.val) ∧
      (∀ r ∈ v.residences, r.job = none) ∧ (∀ p ∈ t.plots, p.1 / 8 ≠ u.val) ∧ t.otp = s.otp ∧ t.queues = s.queues ∧
      ∀ k j, KMap.get? s.jobs k = some j → k ∈ resetJobs s u.val → j.phase ≠ .decided → ∃ y, KMap.get? t.jobs k = some y ∧
        y.phase = .decided ∧ y.status = .unitReset ∧ y.decidedAt = now s + 1 ∧ y.output = []) ∧
    (u.val = 12 → ((resetWindowOf s u.val).getD (now s, 0)).2 < 3 → ∃ t, exec (.blockReset u hang) s = .next t ∧
      t.vault.block.at' = some (now s) ∧ t.vault.flight = [] ∧ t.vault.rework = s.vault.rework ++ s.vault.flight ∧
      t.vault.erasing = [] ∧ t.vault.mounted = s.vault.mounted) ∧
    (u.val = 13 → ((resetWindowOf s u.val).getD (now s, 0)).2 < 3 → ∃ t, exec (.blockReset u hang) s = .next t ∧
      t.bridge.block.at' = some (now s) ∧ t.bridge.linkUp = false ∧ t.bridge.paired = s.bridge.paired) ∧
    (3 ≤ ((resetWindowOf s u.val).getD (now s, 0)).2 → s.dump.active = none → ∃ t x, exec (.blockReset u hang) s = .next t ∧
      t.dump.active = some x ∧ t.boot.fatalN = true) ∧
    (u.val < 12 → s.units.length = 12 → exec (.blockReset u hang) { s with boot := { s.boot with stage := 5 } } = .next { s with boot := { s.boot with stage := 5 } }) ∧
    (∀ r t, t = { s with units := s.units.set u.val { unitAt s u.val with resetAt := some r } } → u.val < 12 → s.units.length = 12 →
      (r + 64 ≤ now s → exec (.blockResetReturn u) t = .next (setUnit { t with clocks := releaseClocks t.clocks (blockClock u.val) } u.val
        { unitAt t u.val with resetAt := none })) ∧
      (now s < r + 64 → exec (.blockResetReturn u) t = .next t))) ∧
  (∀ (s : State) (m : BitVec 8) (w : W32),
    (2 ≤ s.boot.stage → s.dump.active = none → ∃ t, exec (.fatalError m w) s = .next t ∧ t.boot.fatalN = true ∧
      t.dump.active = some (now s, 0x35, m.toNat, 6) ∧
      (s.link.credit = true → aerMasked (funcAt s 0) .uncorrectableInternal = false → t.link.out = s.link.out ++
        [.aer 0 .uncorrectableInternal (aerSeverity (funcAt s 0) .uncorrectableInternal)]) ∧ t.jobs = s.jobs) ∧
    (s.boot.stage < 2 → exec (.fatalError m w) s = .next s) ∧
    (∀ a e u c, 2 ≤ s.boot.stage → s.dump.active = some (a, e, u, c) → ∃ t, exec (.fatalError m w) s = .next t ∧
      t.boot.stage = 0 ∧ t.boot.cause = BitVec.ofNat 8 c ∧ t.jobs = []) ∧
    (∀ a e u c, s.dump.active = some (a, e, u, c) → ∃ t, exec .dumpWindowExpiry s = .next t ∧ t.boot.stage = 0 ∧
      t.boot.cause = BitVec.ofNat 8 c ∧ t.jobs = [] ∧ t.queues = [] ∧ t.otp = s.otp ∧ t.pending = s.pending) ∧
    (s.dump.active = none → exec .dumpWindowExpiry s = .next s))

/-- BIST_RUN begins a run of its parts; a part takes its unit at its epoch and ends with its signature, which is kept and
compared with the reference. -/
def Obligations.SelfTests : Prop :=
  ∀ (s : State),
    (∀ r j p ps, adminReady cmdBistRun s r j → bistParts s j = p :: ps → ∃ t, exec (.bistRun r) s = .next t ∧
      t.bist.running = true ∧ t.bist.partActive = false ∧ t.bist.partsLeft = p :: ps ∧ t.bist.mismatch = 0 ∧ t.bist.output = [] ∧
      t.bist.startEpoch = (if p < 12 then some (effectEpoch (now s)) else none) ∧
      t.bist.startTick = (if p < 12 then none else some (now s + 1)) ∧ adminAwaits t r []) ∧
    (∀ p ps e, s.bist.running = true → s.bist.partActive = false → s.bist.ended = false → s.bist.partsLeft = p :: ps →
      s.bist.startEpoch = some e → 4096 * e = now s → p < 12 → s.units.length = 12 → ∃ t, exec .bistPartStart s = .next t ∧
        t.bist.partActive = true ∧ t.bist.part = p ∧ t.bist.partsLeft = ps ∧ (unitAt t p).inBist = true ∧ (unitAt t p).running = [] ∧
        (unitAt t p).bay = none) ∧
    (s.bist.partsLeft = [] → exec .bistPartStart s = .next s) ∧
    (∀ sig : W64, s.bist.partActive = true → s.bist.job = none → s.bist.part < s.bist.signatures.length →
      ∃ t, exec (.bistPartEnd sig) s = .next t ∧ t.bist.partActive = false ∧ t.bist.signatures[s.bist.part]? = some sig ∧
        t.bist.output = s.bist.output ++ leBytes 8 sig.toNat ∧
        t.bist.mismatch = (if sig = bistReference s s.bist.part then s.bist.mismatch else s.bist.mismatch ||| 2 ^ s.bist.part) ∧
        t.bist.running = (!(decide (s.bist.partsLeft = []) || s.bist.ended) && (s.bist.running))) ∧
    (∀ sig : W64, s.bist.partActive = false → s.bist.job = none → exec (.bistPartEnd sig) s = .next s)
end

