-- ==== Sys2Proof/Laws/KMap.lean ====
section
/-! SUPPORT. Laws of the finite maps: what is read after a change, and that every change keeps the canonical form. -/
namespace Sys2Proof.KMap
variable {α : Type}

/-! ## Reading after a change -/

@[simp] theorem get?_nil (i : Nat) : get? ([] : KMap α) i = none := rfl

@[simp] theorem get?_put_same (m : KMap α) (i : Nat) (a : α) : get? (put m i a) i = some a := by
  induction m with
  | nil => simp [put, get?]
  | cons p m ih =>
    obtain ⟨k, v⟩ := p
    simp only [put]
    split
    · simp [get?]
    · split
      · simp [get?]
      · simp_all [get?]

theorem get?_put_ne (m : KMap α) {i k : Nat} (a : α) (h : i ≠ k) : get? (put m k a) i = get? m i := by
  induction m with
  | nil => simp [put, get?, h]
  | cons p m ih =>
    obtain ⟨j, v⟩ := p
    simp only [put]
    split
    · simp [get?, h]
    · split
      · subst_vars; simp [get?, h]
      · simp [get?, ih]

theorem get?_put (m : KMap α) (i k : Nat) (a : α) : get? (put m k a) i = if i = k then some a else get? m i := by
  by_cases h : i = k
  · subst h; simp
  · simp [h, get?_put_ne]

@[simp] theorem get?_adjust_same (m : KMap α) (i : Nat) (f : α → α) : get? (adjust m i f) i = (get? m i).map f := by
  induction m with
  | nil => rfl
  | cons p m ih =>
    obtain ⟨k, v⟩ := p
    simp only [adjust, List.map_cons] at ih ⊢
    by_cases h : k = i
    · subst h; simp [get?]
    · simp [get?, h, Ne.symm h, ih]

theorem get?_adjust_ne (m : KMap α) {i k : Nat} (f : α → α) (h : i ≠ k) : get? (adjust m k f) i = get? m i := by
  induction m with
  | nil => rfl
  | cons p m ih =>
    obtain ⟨j, v⟩ := p
    simp only [adjust, List.map_cons] at ih ⊢
    by_cases e : j = k
    · subst e; simp [get?, h, ih]
    · simp [get?, e, ih]

@[simp] theorem get?_mapAll (m : KMap α) (i : Nat) (f : Nat → α → α) : get? (mapAll m f) i = (get? m i).map (f i) := by
  induction m with
  | nil => rfl
  | cons p m ih =>
    obtain ⟨k, v⟩ := p
    simp only [mapAll, List.map_cons, get?] at ih ⊢
    split
    · subst_vars; rfl
    · exact ih

theorem get?_drop_ne (m : KMap α) {i k : Nat} (h : i ≠ k) : get? (drop m k) i = get? m i := by
  induction m with
  | nil => rfl
  | cons p m ih =>
    obtain ⟨j, v⟩ := p
    simp only [drop]
    split
    · subst_vars; simp [get?, h]
    · simp [get?, ih]

theorem get?_of_above (m : KMap α) {b i : Nat} (h : above b m = true) (hi : i ≤ b) : get? m i = none := by
  induction m generalizing b with
  | nil => rfl
  | cons p m ih =>
    obtain ⟨k, v⟩ := p
    simp only [above, Bool.and_eq_true, decide_eq_true_eq] at h
    simp only [get?, show ¬ i = k by omega, if_false]
    exact ih h.2 (by omega)

theorem get?_drop_same (m : KMap α) (i : Nat) (h : wf m = true) : get? (drop m i) i = none := by
  cases m with
  | nil => rfl
  | cons p m =>
    obtain ⟨k, v⟩ := p
    have key : ∀ (m : KMap α) (b : Nat), above b m = true → get? (drop m i) i = none := by
      intro m
      induction m with
      | nil => intros; rfl
      | cons p m ih =>
        intro b hb
        obtain ⟨j, w⟩ := p
        simp only [above, Bool.and_eq_true, decide_eq_true_eq] at hb
        simp only [drop]
        split
        · subst_vars; exact get?_of_above m hb.2 (Nat.le_refl _)
        · rename_i hj
          simp only [get?, hj, if_false]
          exact ih j hb.2
    simp only [wf] at h
    simp only [drop]
    split
    · subst_vars; exact get?_of_above m h (Nat.le_refl _)
    · rename_i hk
      simp only [get?, hk, if_false]
      exact key m k h

theorem mem_of_get? {m : KMap α} {i : Nat} {a : α} (h : get? m i = some a) : (i, a) ∈ m := by
  induction m with
  | nil => simp at h
  | cons p m ih =>
    obtain ⟨k, v⟩ := p
    simp only [get?] at h
    split at h
    · subst_vars; simp_all
    · exact List.mem_cons_of_mem _ (ih h)

theorem get?_keep (m : KMap α) (i : Nat) (f : Nat → α → Bool) (h : wf m = true) :
    get? (keep m f) i = (get? m i).filter (f i) := by
  have key : ∀ (m : KMap α) (b : Nat), above b m = true → get? (keep m f) i = (get? m i).filter (f i) := by
    intro m
    induction m with
    | nil => intros; rfl
    | cons p m ih =>
      intro b hb
      obtain ⟨k, v⟩ := p
      simp only [above, Bool.and_eq_true, decide_eq_true_eq] at hb
      have := ih k hb.2
      simp only [keep, List.filter_cons] at this ⊢
      by_cases hk : i = k
      · subst hk
        have hn := get?_of_above m hb.2 (Nat.le_refl i)
        cases e : f i v
        · simp only [Bool.false_eq_true, if_false, get?, if_true, Option.filter, e]
          rw [this, hn]; rfl
        · simp [get?, Option.filter, e]
      · cases e : f k v <;> simp [get?, hk, this]
  cases m with
  | nil => rfl
  | cons p m =>
    obtain ⟨k, v⟩ := p
    simp only [wf] at h
    have := key m k h
    simp only [keep, List.filter_cons] at this ⊢
    by_cases hk : i = k
    · subst hk
      have hn := get?_of_above m h (Nat.le_refl i)
      cases e : f i v
      · simp only [Bool.false_eq_true, if_false, get?, if_true, Option.filter, e]
        rw [this, hn]; rfl
      · simp [get?, Option.filter, e]
    · cases e : f k v <;> simp [get?, hk, this]

/-! ## The canonical form is kept -/

theorem above_put {m : KMap α} {b i : Nat} (a : α) (h : above b m = true) (hi : b < i) : above b (put m i a) = true := by
  induction m generalizing b with
  | nil => simp [put, above, hi]
  | cons p m ih =>
    obtain ⟨k, v⟩ := p
    simp only [above, Bool.and_eq_true, decide_eq_true_eq] at h
    simp only [put]
    split
    · simp [above, *]
    · split
      · subst_vars; simp [above, *]
      · simp only [above, Bool.and_eq_true, decide_eq_true_eq]
        exact ⟨h.1, ih h.2 (by omega)⟩

theorem wf_put {m : KMap α} (i : Nat) (a : α) (h : wf m = true) : wf (put m i a) = true := by
  cases m with
  | nil => rfl
  | cons p m =>
    obtain ⟨k, v⟩ := p
    simp only [wf] at h
    simp only [put]
    split
    · simp [wf, above, *]
    · split
      · subst_vars; simpa [wf] using h
      · simp only [wf]; exact above_put a h (by omega)

theorem above_weaken {m : KMap α} {b c : Nat} (h : above b m = true) (hc : c ≤ b) : above c m = true := by
  cases m with
  | nil => rfl
  | cons p m =>
    simp only [above, Bool.and_eq_true, decide_eq_true_eq] at h ⊢
    exact ⟨by omega, h.2⟩

theorem above_drop {m : KMap α} {b : Nat} (i : Nat) (h : above b m = true) : above b (drop m i) = true := by
  induction m generalizing b with
  | nil => rfl
  | cons p m ih =>
    obtain ⟨k, v⟩ := p
    simp only [above, Bool.and_eq_true, decide_eq_true_eq] at h
    simp only [drop]
    split
    · exact above_weaken h.2 (by omega)
    · simp only [above, Bool.and_eq_true, decide_eq_true_eq]
      exact ⟨h.1, ih h.2⟩

theorem wf_of_above {m : KMap α} {b : Nat} (h : above b m = true) : wf m = true := by
  cases m with
  | nil => rfl
  | cons p m =>
    simp only [above, Bool.and_eq_true] at h
    exact h.2

theorem wf_drop {m : KMap α} (i : Nat) (h : wf m = true) : wf (drop m i) = true := by
  cases m with
  | nil => rfl
  | cons p m =>
    obtain ⟨k, v⟩ := p
    simp only [wf] at h
    simp only [drop]
    split
    · exact wf_of_above h
    · exact above_drop i h

theorem above_map {β : Type} {m : KMap α} {b : Nat} (f : Nat × α → β) :
    above b (m.map fun p => (p.1, f p)) = above b m := by
  induction m generalizing b with
  | nil => rfl
  | cons p m ih => simp only [List.map_cons, above, ih]

@[simp] theorem wf_adjust (m : KMap α) (i : Nat) (f : α → α) : wf (adjust m i f) = wf m := by
  have e : adjust m i f = m.map fun p => (p.1, if p.1 = i then f p.2 else p.2) := by
    simp only [adjust]
    apply List.map_congr_left
    intro p _
    split <;> rfl
  rw [e]
  cases m with
  | nil => rfl
  | cons p m => exact above_map _

@[simp] theorem wf_mapAll (m : KMap α) (f : Nat → α → α) : wf (mapAll m f) = wf m := by
  cases m with
  | nil => rfl
  | cons p m => exact above_map _

theorem above_keep {m : KMap α} {b : Nat} (f : Nat → α → Bool) (h : above b m = true) : above b (keep m f) = true := by
  induction m generalizing b with
  | nil => rfl
  | cons p m ih =>
    obtain ⟨k, v⟩ := p
    simp only [above, Bool.and_eq_true, decide_eq_true_eq] at h
    have := ih h.2
    simp only [keep, List.filter_cons] at this ⊢
    split
    · simp only [above, Bool.and_eq_true, decide_eq_true_eq]; exact ⟨h.1, this⟩
    · exact above_weaken this (by omega)

theorem wf_keep {m : KMap α} (f : Nat → α → Bool) (h : wf m = true) : wf (keep m f) = true := by
  cases m with
  | nil => rfl
  | cons p m =>
    obtain ⟨k, v⟩ := p
    simp only [wf] at h
    have := above_keep f h
    simp only [keep, List.filter_cons] at this ⊢
    split
    · exact this
    · exact wf_of_above this

end Sys2Proof.KMap
end

