-- ==== Sys2Proof/Laws/Keys.lean ====
section
/-! SUPPORT. Laws of handles: a handle that the device builds is sound, and names the key it was built for. -/
namespace Sys2Proof.Machine
open Sys2Proof

theorem handleCheck_congr (s : State) {h g : Nat} (e : h / 1024 = g / 1024) : handleCheck s h = handleCheck s g := by
  simp only [handleCheck, e]

theorem handleCheck_lt (s : State) (h : Nat) : handleCheck s h < 1024 := Nat.mod_lt _ (by decide)

theorem mkHandle_toNat (s : State) {a kind gen index : Nat} (ha : a < 4096) (hk : kind < 4) (hi : index < 64) :
    (mkHandle s a kind gen index).toNat = a * 2 ^ 48 + kind * 2 ^ 46 + gen % 65536 * 2 ^ 16 + index * 2 ^ 10 +
      handleCheck s (a * 2 ^ 48 + kind * 2 ^ 46 + gen % 65536 * 2 ^ 16 + index * 2 ^ 10) := by
  have hc := handleCheck_lt s (a * 2 ^ 48 + kind * 2 ^ 46 + gen % 65536 * 2 ^ 16 + index * 2 ^ 10)
  simp only [mkHandle, BitVec.toNat_ofNat, Nat.mod_eq_of_lt hi]
  omega

/-- What the fields of a built handle read. -/
theorem handle_fields (s : State) {a kind gen index : Nat} (ha : a < 4096) (hk : kind < 4) (hi : index < 64) :
    let h := (mkHandle s a kind gen index).toNat
    handleAllot h = a ∧ handleKind h = kind ∧ handleGen h = gen % 65536 ∧ handleIndex h = index ∧ bitsOf h 63 60 = 0 ∧
      bitsOf h 45 32 = 0 ∧ h % 1024 = handleCheck s h := by
  have e := mkHandle_toNat s (gen := gen) ha hk hi
  have hc := handleCheck_lt s (a * 2 ^ 48 + kind * 2 ^ 46 + gen % 65536 * 2 ^ 16 + index * 2 ^ 10)
  have ec : handleCheck s (mkHandle s a kind gen index).toNat =
      handleCheck s (a * 2 ^ 48 + kind * 2 ^ 46 + gen % 65536 * 2 ^ 16 + index * 2 ^ 10) := handleCheck_congr s (by omega)
  simp only [handleAllot, handleKind, handleGen, handleIndex, bitsOf, Nat.shiftRight_eq_div_pow, ec]
  refine ⟨?_, ?_, ?_, ?_, ?_, ?_, ?_⟩ <;> omega

theorem handleSound_mkHandle (s : State) {a kind gen index : Nat} (ha : a < 4096) (hk : kind < 4) (hz : kind ≠ 0)
    (hi : index < 64) : handleSound s a (mkHandle s a kind gen index).toNat = true := by
  obtain ⟨h1, h2, -, -, h5, h6, h7⟩ := handle_fields s (gen := gen) ha hk hi
  simp only [handleSound, h1, h2, h5, h6, ← h7, decide_true, Bool.and_true, Bool.true_and]
  simpa using hz

/-- What a handle finds rests on the Icehouse and on a handle key that the twin sent. -/
theorem findKey_congr {s t : State} (hi : s.ice = t.ice) (hb : s.bridge.handleKey = t.bridge.handleKey) (a h : Nat) :
    findKey s a h = findKey t a h := by
  have hc : handleCheck s h = handleCheck t h := by simp only [handleCheck, handleKeyOf, hi, hb]
  have hs : handleSound s a h = handleSound t a h := by simp only [handleSound, hc]
  simp only [findKey, hs, hi]

/-- The handle of a live slot key finds it. -/
theorem findKey_slot (s : State) {a index : Nat} {key : Key} (ha : a < 4096) (hi : index < 64)
    (hk : KMap.get? s.ice.keys (slotKey a index) = some key) (hl : key.live = true)
    (hg : KMap.getD s.ice.gens (slotKey a index) 0 < 65536) :
    findKey s a (mkHandle s a 2 (KMap.getD s.ice.gens (slotKey a index) 0) index).toNat =
      some (false, slotKey a index, key) := by
  obtain ⟨-, h2, h3, h4, -, -, -⟩ := handle_fields s (gen := KMap.getD s.ice.gens (slotKey a index) 0) ha (kind := 2) (by decide) hi
  simp only [findKey, handleSound_mkHandle s ha (kind := 2) (by decide) (by decide) hi, h2, h3, h4, hk, hl, Nat.mod_eq_of_lt hg,
    decide_true, Bool.and_self, if_true]

/-- The handle of a live resident key finds it. -/
theorem findKey_resident (s : State) {a index : Nat} {key : Key} (ha : a < 4096) (hi : index < 64)
    (hk : KMap.get? s.ice.residents (slotKey a index) = some key) (hl : key.live = true)
    (hg : KMap.getD s.ice.residentGens (slotKey a index) 0 < 65536) :
    findKey s a (mkHandle s a 3 (KMap.getD s.ice.residentGens (slotKey a index) 0) index).toNat =
      some (true, slotKey a index, key) := by
  obtain ⟨-, h2, h3, h4, -, -, -⟩ :=
    handle_fields s (gen := KMap.getD s.ice.residentGens (slotKey a index) 0) ha (kind := 3) (by decide) hi
  simp only [findKey, handleSound_mkHandle s ha (kind := 3) (by decide) (by decide) hi, h2, h3, h4, hk, hl, Nat.mod_eq_of_lt hg,
    decide_true, Bool.and_self, if_true, show (3 : Nat) ≠ 2 by decide, if_false]

end Sys2Proof.Machine
end

