-- ==== Sys2Proof/Laws/Jobs.lean ====
section
/-! SUPPORT. Laws of the dispatch checks: how a job that names a live key and creates nothing passes them. -/
namespace Sys2Proof.Machine
open Sys2Proof

/-- A changed job reads as changed. -/
theorem get?_modJob_same {s : State} {k : Nat} {j : Job} (g : Job → Job) (h : KMap.get? s.jobs k = some j) :
    KMap.get? (modJob s k g).jobs k = some (g j) := by
  simp [modJob, h]

/-- Another job reads as before. -/
theorem get?_modJob_ne (s : State) {i k : Nat} (g : Job → Job) (h : i ≠ k) :
    KMap.get? (modJob s k g).jobs i = KMap.get? s.jobs i := KMap.get?_adjust_ne _ _ h

/-- Handles find the same keys after a change of a job. -/
@[simp] theorem findKey_modJob (s : State) (k : Nat) (g : Job → Job) (a h : Nat) :
    findKey (modJob s k g) a h = findKey s a h := findKey_congr rfl rfl a h

/-- The key of a handle is loaded where the handle finds it. -/
theorem keyLoadCheck_found {s : State} {k : Nat} {j : Job} {f : Facts} {r : Bool} {n : Nat} {key : Key}
    (h : findKey s (keyAllot k) j.entry.keyh.toNat = some (r, n, key))
    (hz : j.entry.keyh.toNat ≠ 0) (hb : handleKind j.entry.keyh.toNat ≠ 1) (hw : key.withdrawn = false) :
    keyLoadCheck s k j f = (modJob s k fun x => { x with key := some key, keyRef := some n }, none) := by
  simp only [keyLoadCheck, hz, hb, or_self, if_false, h, hw, Bool.false_eq_true]

/-- A SIGN or DESTROY that finds its key, and the Vault that a destruction needs, passes every dispatch check; only the key
is loaded. -/
theorem runChecks_found {s : State} {k : Nat} {j : Job} {f : Facts} {r : Bool} {n : Nat} {key : Key}
    (hj : KMap.get? s.jobs k = some j) (ho : j.entry.opcode = 0x0502 ∨ j.entry.opcode = 0x0602 ∨ j.entry.opcode = 0x3009)
    (hc : f.creates = .nothing) (h : findKey s (keyAllot k) j.entry.keyh.toNat = some (r, n, key))
    (hz : j.entry.keyh.toNat ≠ 0) (hb : handleKind j.entry.keyh.toNat ≠ 1) (hw : key.withdrawn = false)
    (hv : vaultWritable s = true) :
    runChecks dispatchChecks s k f = (modJob s k fun x => { x with key := some key, keyRef := some n }, none) := by
  have e := keyLoadCheck_found (f := f) h hz hb hw
  have hg : KMap.get? (modJob s k fun x => { x with key := some key, keyRef := some n }).jobs k =
      some { j with key := some key, keyRef := some n } := by
    simp [modJob, hj]
  have hv' : vaultWritable (modJob s k fun x => { x with key := some key, keyRef := some n }) = true := hv
  rcases ho with ho | ho | ho <;>
    simp [runChecks, dispatchChecks, hj, hg, hv', soloCheck, e, importCheck, openCheck, vaultCheck, digestCheck, slotCheck, residentCheck,
      stateSlotCheck, curveCheck, keptCheck, changesMirrored, hc, ho, namesContext, isOpenJob, family, operation, residentBlocks]

end Sys2Proof.Machine
end

