-- ==== Sys2Proof/Laws/Admin.lean ====
section
/-! SUPPORT. Laws of the admin commands: the gates that a command passes, and when KEY_ADMIN finds its key. -/
namespace Sys2Proof.Machine
open Sys2Proof

/-- A device outside END_OF_LIFE, quiescence and SOLO that has a root lets every command pass its gates. -/
theorem adminGate_none {c : AdminCmd} {s : State} {j : Job} (h1 : s.lc.inForce ≠ 3) (h2 : s.gh.quiesced = false)
    (h3 : s.bridge.solo = false) (h4 : hasRoot s = true) : adminGate c s j = none := by
  simp [adminGate, h1, quiesced, h2, inSolo, h3, h4]

/-- KEY_ADMIN that finds a live key, with a Vault to destroy a slot key in, has no failing precondition. -/
theorem keyAdminCheck_none {s : State} {j : Job} {r : Bool} {n : Nat} {key : Key}
    (ho : inlineField j 56 1 = 1 ∨ inlineField j 56 1 = 2)
    (hf : findKey s (handleAllot (kaHandle j)) (kaHandle j) = some (r, n, key)) (hw : key.withdrawn = false)
    (hv : vaultWritable s = true) : keyAdminCheck s j = none := by
  rcases ho with ho | ho <;> simp [keyAdminCheck, kaKey, ho, hf, hw, hv]

/-- A job that a change of jobs is aimed at reads as changed, if it is there. -/
theorem get?_modJob (s : State) (k : Nat) (f : Job → Job) :
    KMap.get? (modJob s k f).jobs k = (KMap.get? s.jobs k).map f := by
  simp [modJob]

/-- A job changed twice is changed once, by both. -/
theorem modJob_modJob (s : State) (k : Nat) (f g : Job → Job) : modJob (modJob s k f) k g = modJob s k (fun x => g (f x)) := by
  simp only [modJob, KMap.adjust, List.map_map]
  congr 1
  apply List.map_congr_left
  intro p _
  by_cases h : p.1 = k <;> simp [h]

/-- A command that is not running goes no further. -/
theorem adminSettle_idle (c : AdminCmd) {s : State} {k : Nat} {j : Job} (h : KMap.get? s.jobs k = some j)
    (hp : j.phase ≠ .running) : adminSettle c s k = s := by
  have e : adminAdvance c s k = s := by simp [adminAdvance, h, hp]
  simp [adminSettle, e]

/-- A dispatched command that fails a gate or a precondition is decided with that status and REASON. -/
theorem adminRow_refused (c : AdminCmd) (w : Job → Bool) {s : State} {r : JobRef} {j : Job} {st : Status} {reason : Nat}
    (h1 : KMap.get? s.jobs (refKey r) = some j) (h2 : j.phase = .dispatched) (h3 : j.entry.opcode.toNat = c.opcode)
    (h4 : w j = true) (h5 : adminFailure c s j = some (st, reason)) :
    adminRow c w r s = adminFail s (refKey r) st reason := by
  have e : adminStart c s (refKey r) = adminFail s (refKey r) st reason := by simp [adminStart, h1, h5]
  simp only [adminRow, h1, h2, h3, h4, e]
  simp
  apply adminSettle_idle (j := { failJob (now s) st j with reason := reason, effect := 0, detail := 0 })
  · exact get?_modJob_same _ h1
  · simp [failJob, decideAt]

/-- A command without draws, records and waits completes in the tick of its dispatch. -/
theorem adminRow_immediate (c : AdminCmd) {s : State} {r : JobRef} {j : Job} (h : adminReady c s r j) {w : Job → Bool}
    (hw : w j = true) (hj : KMap.get? (c.prepare s j).jobs (refKey r) = some j)
    (hm : mirrors (c.prepare s j) = mirrors s) (hd : c.draws j = none) (hr : c.records = noRecords)
    (hf : c.follow = fun s _ => (s, []))
    (hms : c.markS { j with phase := .running, remaining := 1, draws := [], waits := [] } = c.markS j)
    (h1 : ∀ s, adminHoldsFirst s { j with phase := .running, remaining := 1, draws := [], waits := [] } = false)
    (h2 : adminHolds (modJob (c.prepare s j) (refKey r) fun x =>
        { x with phase := .running, remaining := 0, draws := [], waits := [], index := 1 })
      { j with phase := .running, remaining := 0, draws := [], waits := [], index := 1 } = false) :
    adminRow c w r s = adminFinish c (modJob (c.prepare s j) (refKey r) fun x =>
      { x with phase := .running, remaining := 0, draws := [], waits := [], index := 1 }) (refKey r) := by
  obtain ⟨g1, g2, g3, g4, g5, g6, g7, g8, g9⟩ := h
  have e0 : adminStart c s (refKey r) =
      modJob (c.prepare s j) (refKey r) fun x => { x with phase := .running, remaining := 1, draws := [] } := by
    simp [adminStart, g1, g8, hd]
  have hm' : mirrors (modJob (c.prepare s j) (refKey r) fun x =>
      { x with phase := .running, remaining := 1, draws := [] }) = mirrors s := hm
  have e1 : adminAdvance c (adminStart c s (refKey r)) (refKey r) =
      modJob (c.prepare s j) (refKey r) fun x => { x with phase := .running, remaining := 0, draws := [], waits := [] } := by
    rw [e0]
    simp [adminAdvance, hj, g5, h1, adminStage, hr, noRecords, hm', hms, g9, modJob_modJob, get?_modJob]
  have e2 : adminAdvance c (adminAdvance c (adminStart c s (refKey r)) (refKey r)) (refKey r) =
      modJob (c.prepare s j) (refKey r) fun x =>
        { x with phase := .running, remaining := 0, draws := [], waits := [], index := 1 } := by
    rw [e1]
    simp [adminAdvance, hj, g7, hf, modJob_modJob, get?_modJob]
  simp only [adminRow, g1, g2, g3, hw, decide_true, Bool.and_self, ite_true, adminSettle, e2]
  simp [adminAdvance, hj, h2, get?_modJob]

end Sys2Proof.Machine
end

