-- ==== Sys2Proof/Laws/Bits.lean ====
section
/-! SUPPORT. Laws of bytes and numbers: little-endian fields, slices and their lengths. -/
namespace Sys2Proof

@[simp] theorem length_leBytes (n v : Nat) : (leBytes n v).length = n := by
  induction n generalizing v with
  | zero => rfl
  | succ n ih => simp [leBytes, ih]

@[simp] theorem length_slice (l : List Byte) (off n : Nat) : (slice l off n).length = n := by simp [slice]

@[simp] theorem length_zeroBytes (n : Nat) : (zeroBytes n).length = n := by simp [zeroBytes]

/-- Bytes written little-endian spell the number, as far as they reach. -/
theorem leNat_leBytes (n v : Nat) : leNat (leBytes n v) = v % 256 ^ n := by
  induction n generalizing v with
  | zero => simp [leBytes, leNat, Nat.mod_one]
  | succ n ih =>
    have e : (BitVec.ofNat 8 v).toNat = v % 256 := BitVec.toNat_ofNat v 8
    rw [leBytes, leNat, ih, e, Nat.pow_succ', Nat.mod_mul]

theorem leNat_append (a b : List Byte) : leNat (a ++ b) = leNat a + 256 ^ a.length * leNat b := by
  induction a with
  | nil => simp [leNat]
  | cons x a ih => simp only [List.cons_append, leNat, ih, List.length_cons, Nat.pow_succ']; ring

theorem leNat_lt (l : List Byte) : leNat l < 256 ^ l.length := by
  induction l with
  | nil => simp [leNat]
  | cons x l ih =>
    have hx := x.isLt
    simp only [leNat, List.length_cons, Nat.pow_succ']
    omega

/-- A byte of a number. -/
theorem getD_leBytes (n v i : Nat) (h : i < n) : (leBytes n v).getD i 0 = BitVec.ofNat 8 (v / 256 ^ i) := by
  induction n generalizing v i with
  | zero => omega
  | succ n ih =>
    cases i with
    | zero => simp [leBytes]
    | succ i => simp only [leBytes, List.getD_cons_succ, ih (v / 256) i (by omega), Nat.div_div_eq_div_mul, Nat.pow_succ']

/-- A slice of a number's bytes spells that field. -/
theorem fieldAt_leBytes (n v off k : Nat) (h : off + k ≤ n) : fieldAt (leBytes n v) off k = v / 256 ^ off % 256 ^ k := by
  rw [← leNat_leBytes, fieldAt]
  congr 1
  refine List.ext_getElem (by simp) fun i h1 h2 => ?_
  have hi : i < k := by simpa using h1
  have e := getD_leBytes k (v / 256 ^ off) i hi
  rw [List.getD_eq_getElem _ _ h2] at e
  rw [e]
  simp only [slice, List.getElem_map, List.getElem_range]
  rw [getD_leBytes n v (off + i) (by omega), Nat.div_div_eq_div_mul, Nat.pow_add]

/-- A slice of a whole list is the list. -/
theorem slice_self (l : List Byte) : slice l 0 l.length = l := by
  refine List.ext_getElem (by simp) fun i h1 h2 => ?_
  simp [slice, h2]

/-- The bytes of a number that a list spells are the list. -/
theorem leBytes_leNat (l : List Byte) : leBytes l.length (leNat l) = l := by
  induction l with
  | nil => rfl
  | cons x l ih =>
    have hx := x.isLt
    have h1 : (x.toNat + 256 * leNat l) / 256 = leNat l := by omega
    simp only [List.length_cons, leBytes, leNat, h1, ih, List.cons.injEq, and_true]
    refine BitVec.eq_of_toNat_eq ?_
    simp only [BitVec.toNat_ofNat]
    omega

end Sys2Proof
end

