-- ==== Sys2Proof/Laws/Keeps.lean ====
section
/-! SUPPORT. A property that nearly every operation keeps: the queue of commands is the one it was, and every life-cycle bit
that was set is set. The other files of this name say it of every operation of the machine. -/
namespace Sys2Proof.Machine
open Sys2Proof

/-- The queue is `P`, and every bit of the words `W` is set in the life-cycle words. -/
def Keeps (P : List Instr) (W : List W32) (s : State) : Prop :=
  s.pending = P ∧ ∀ w b, w < 4 → (W.getD w 0).getLsbD b = true → (s.otp.lcWords.getD w 0).getLsbD b = true

/-- The same of the state of a pair. -/
def Keeps1 {α : Type} (P : List Instr) (W : List W32) (p : State × α) : Prop := Keeps P W p.1

/-- The same of the state of a pair whose second part it is. -/
def Keeps2 {α : Type} (P : List Instr) (W : List W32) (p : α × State) : Prop := Keeps P W p.2

/-- The same of an outcome that is a next state. -/
def KeepsO (P : List Instr) (W : List W32) (o : Host.Outcome State Fault Refusal) : Prop := ∀ t, o = .next t → Keeps P W t

variable {P : List Instr} {W : List W32}

/-- A change that touches neither keeps both. -/
theorem Keeps.upd {s t : State} (h : Keeps P W s) (hp : t.pending = s.pending) (ho : t.otp.lcWords = s.otp.lcWords) :
    Keeps P W t := by
  unfold Keeps at *; rw [hp, ho]; exact h

/-- A change that leaves the queue alone and sets life-cycle bits at most keeps both. -/
theorem Keeps.bits {s t : State} (h : Keeps P W s) (hp : t.pending = s.pending)
    (ho : ∀ w b, w < 4 → (s.otp.lcWords.getD w 0).getLsbD b = true → (t.otp.lcWords.getD w 0).getLsbD b = true) :
    Keeps P W t :=
  ⟨hp.trans h.1, fun w b hw hb => ho w b hw (h.2 w b hw hb)⟩

/-- Either branch. -/
theorem Keeps.ite {c : Prop} [Decidable c] {s t : State} (h1 : Keeps P W s) (h2 : Keeps P W t) :
    Keeps P W (if c then s else t) := by split <;> assumption

/-- Either branch of a pair. -/
theorem Keeps1.ite {α : Type} {c : Prop} [Decidable c] {s t : State × α} (h1 : Keeps1 P W s) (h2 : Keeps1 P W t) :
    Keeps1 P W (if c then s else t) := by split <;> assumption

/-- Either branch of an outcome. -/
theorem KeepsO.ite {c : Prop} [Decidable c] {s t : Host.Outcome State Fault Refusal} (h1 : KeepsO P W s)
    (h2 : KeepsO P W t) : KeepsO P W (if c then s else t) := by split <;> assumption

/-- A next state. -/
theorem KeepsO.next {s : State} (h : Keeps P W s) : KeepsO P W (.next s) := by
  intro t e; cases e; exact h

/-- No next state. -/
theorem KeepsO.refused {r : Refusal} : KeepsO P W (.refused r) := by intro t e; cases e

/-- A pair. -/
theorem Keeps1.mk {α : Type} {s : State} {a : α} (h : Keeps P W s) : Keeps1 P W (s, a) := h

/-- The state of a pair that keeps both. -/
theorem Keeps1.fst {α : Type} {p : State × α} (h : Keeps1 P W p) : Keeps P W p.1 := h

/-- The state of a pair that a match has taken apart. -/
theorem Keeps1.of_eq {α : Type} {p : State × α} {s : State} {a : α} (e : p = (s, a)) (h : Keeps1 P W p) : Keeps P W s := by
  subst e; exact h

/-- Either branch of such a pair. -/
theorem Keeps2.ite {α : Type} {c : Prop} [Decidable c] {s t : α × State} (h1 : Keeps2 P W s) (h2 : Keeps2 P W t) :
    Keeps2 P W (if c then s else t) := by split <;> assumption

/-- Such a pair. -/
theorem Keeps2.mk {α : Type} {s : State} {a : α} (h : Keeps P W s) : Keeps2 P W (a, s) := h

/-- The state of such a pair. -/
theorem Keeps2.snd {α : Type} {p : α × State} (h : Keeps2 P W p) : Keeps P W p.2 := h

/-- The state of such a pair that a match has taken apart. -/
theorem Keeps2.of_eq {α : Type} {p : α × State} {s : State} {a : α} (e : p = (a, s)) (h : Keeps2 P W p) : Keeps P W s := by
  subst e; exact h

/-- Along a list with such a pair. -/
theorem Keeps2.foldl {α β : Type} {f : β × State → α → β × State} {l : List α} {p : β × State}
    (hf : ∀ p x, Keeps2 P W p → Keeps2 P W (f p x)) (h : Keeps2 P W p) : Keeps2 P W (l.foldl f p) := by
  induction l generalizing p with
  | nil => exact h
  | cons x l ih => exact ih (hf _ _ h)

/-- Along a list. -/
theorem Keeps.foldl {α : Type} {f : State → α → State} {l : List α} {s : State}
    (hf : ∀ s x, Keeps P W s → Keeps P W (f s x)) (h : Keeps P W s) : Keeps P W (l.foldl f s) := by
  induction l generalizing s with
  | nil => exact h
  | cons x l ih => exact ih (hf _ _ h)

/-- Along a list with a pair. -/
theorem Keeps1.foldl {α β : Type} {f : State × β → α → State × β} {l : List α} {p : State × β}
    (hf : ∀ p x, Keeps1 P W p → Keeps1 P W (f p x)) (h : Keeps1 P W p) : Keeps1 P W (l.foldl f p) := by
  induction l generalizing p with
  | nil => exact h
  | cons x l ih => exact ih (hf _ _ h)

end Sys2Proof.Machine
end

