-- ==== Sys2Proof/Laws/KeepsAdmin.lean ====
section
/-! SUPPORT. What it means that an admin command keeps the queue and the life-cycle bits. -/
namespace Sys2Proof.Machine
open Sys2Proof

/-- Every part of an admin command keeps the queue and the life-cycle bits. -/
structure AdminCmd.Keeps (c : AdminCmd) : Prop where
  prepare : ∀ {P W s j}, Machine.Keeps P W s → Machine.Keeps P W (c.prepare s j)
  records : ∀ {P W s j}, Machine.Keeps P W s → Keeps1 P W (c.records s j)
  follow : ∀ {P W s j}, Machine.Keeps P W s → Keeps1 P W (c.follow s j)
  apply : ∀ {P W s k j}, Machine.Keeps P W s → Keeps1 P W (c.apply s k j)

end Sys2Proof.Machine
end

