-- ==== Sys2Proof/Laws/KeepsOps.lean ====
section
/-! SUPPORT. The queue and the life-cycle bits are kept by the shared operations: one lemma for each operation. -/
namespace Sys2Proof.Machine
open Sys2Proof

variable {P : List Instr} {W : List W32}

theorem setUnit_keeps {s : State} (x2 : Nat) (x3 : UnitSt) (h : Keeps P W s) : Keeps P W (setUnit s x2 x3) := by
  unfold setUnit
  refine Keeps.upd (s := s) ?_ rfl rfl
  exact h

theorem setBody_keeps {s : State} (x2 : Nat) (x3 : Body) (h : Keeps P W s) : Keeps P W (setBody s x2 x3) := by
  unfold setBody
  refine Keeps.upd (s := s) ?_ rfl rfl
  exact h

theorem fresh_keeps {s : State} (h : Keeps P W s) : Keeps2 P W (fresh s) := by
  unfold fresh
  refine Keeps2.mk ?_
  refine Keeps.upd (s := s) ?_ rfl rfl
  exact h

theorem postRecord_keeps {s : State} (x2 : Nat) (x3 : Nat) (x4 : W16) (x5 : Nat) (x6 : List Byte) (h : Keeps P W s) : Keeps1 P W (postRecord s x2 x3 x4 x5 x6) := by
  unfold postRecord
  extract_lets +onlyGivenNames s1
  extract_lets +onlyGivenNames s2
  refine Keeps1.mk ?_
  refine Keeps.upd (s := s) ?_ rfl rfl
  exact h

theorem postSecurity_keeps {s : State} (x2 : W16) (x3 : Byte) (x4 : Byte) (x5 : List Byte) (h : Keeps P W s) : Keeps P W (postSecurity s x2 x3 x4 x5) := by
  unfold postSecurity
  extract_lets +onlyGivenNames s1
  extract_lets +onlyGivenNames s2
  refine Keeps.ite ?_ ?_
  · refine Keeps.upd (s := s) ?_ rfl rfl
    exact h
  · refine Keeps.ite ?_ ?_
    · refine Keeps1.fst ?_
      apply postRecord_keeps
      exact h
    · extract_lets +onlyGivenNames s3
      extract_lets +onlyGivenNames s4
      refine Keeps.ite ?_ ?_
      · refine Keeps.upd (s := s) ?_ rfl rfl
        exact h
      · extract_lets +onlyGivenNames s5
        have h1 : Keeps P W s5 := by
          dsimp -zeta only [s5]
          refine Keeps1.fst ?_
          apply postRecord_keeps
          exact h
        clear_value s5
        refine Keeps.upd (s := s5) ?_ rfl rfl
        exact h1

theorem logEventAt_keeps {s : State} (x2 : Nat) (x3 : W16) (x4 : W16) (x5 : Byte) (x6 : Byte) (x7 : Byte) (x8 : List Byte) (h : Keeps P W s) : Keeps P W (logEventAt s x2 x3 x4 x5 x6 x7 x8) := by
  unfold logEventAt
  extract_lets +onlyGivenNames s1
  extract_lets +onlyGivenNames s2
  have h1 : Keeps P W s2 := by
    dsimp -zeta only [s2]
    refine Keeps.upd (s := s) ?_ rfl rfl
    exact h
  clear_value s2
  refine Keeps.ite ?_ ?_
  · apply postSecurity_keeps
    exact h1
  · exact h1

theorem logEvent_keeps {s : State} (x2 : Nat) (x3 : W16) (x4 : W16) (x5 : Byte) (x6 : List Byte) (h : Keeps P W s) : Keeps P W (logEvent s x2 x3 x4 x5 x6) := by
  unfold logEvent
  apply logEventAt_keeps
  exact h

theorem logYield_keeps {s : State} (x2 : Nat) (x3 : Nat) (x4 : Nat) (h : Keeps P W s) : Keeps P W (logYield s x2 x3 x4) := by
  unfold logYield
  apply logEvent_keeps
  exact h

theorem send_keeps {s : State} (x2 : Outbound) (h : Keeps P W s) : Keeps P W (send s x2) := by
  unfold send
  refine Keeps.ite ?_ ?_
  · refine Keeps.upd (s := s) ?_ rfl rfl
    exact h
  · refine Keeps.upd (s := s) ?_ rfl rfl
    exact h

theorem request_keeps {s : State} (x2 : Outbound) (h : Keeps P W s) : Keeps P W (request s x2) := by
  unfold request
  refine Keeps.upd (s := s) ?_ rfl rfl
  exact h

theorem setFunc_keeps {s : State} (x2 : Nat) (x3 : Func) (h : Keeps P W s) : Keeps P W (setFunc s x2 x3) := by
  unfold setFunc
  refine Keeps.upd (s := s) ?_ rfl rfl
  exact h

theorem reply_keeps {s : State} (x2 : W64) (h : Keeps P W s) : Keeps P W (reply s x2) := by
  unfold reply
  apply request_keeps
  exact h

theorem sendVector_keeps {s : State} (x2 : Nat) (x3 : Nat) (h : Keeps P W s) : Keeps P W (sendVector s x2 x3) := by
  unfold sendVector
  refine Keeps.ite ?_ ?_
  · apply send_keeps
    exact h
  · apply setFunc_keeps
    exact h

theorem reportAer_keeps {s : State} (x2 : Nat) (x3 : AerError) (x4 : BitVec 128) (h : Keeps P W s) : Keeps P W (reportAer s x2 x3 x4) := by
  unfold reportAer
  extract_lets +onlyGivenNames s1
  have h1 : Keeps P W s1 := by
    dsimp -zeta only [s1]
    apply setFunc_keeps
    exact h
  clear_value s1
  extract_lets +onlyGivenNames s2
  extract_lets +onlyGivenNames s3
  have h3 : Keeps P W s3 := by
    dsimp -zeta only [s3]
    refine Keeps.upd (s := s1) ?_ rfl rfl
    exact h1
  clear_value s3
  refine Keeps.ite ?_ ?_
  · exact h3
  · apply send_keeps
    exact h3

theorem answerUnsupported_keeps {s : State} (x2 : Nat) (h : Keeps P W s) : Keeps P W (answerUnsupported s x2) := by
  unfold answerUnsupported
  extract_lets +onlyGivenNames s1
  have h1 : Keeps2 P W s1 := by
    dsimp -zeta only [s1]
    apply fresh_keeps
    exact h
  clear_value s1
  extract_lets +onlyGivenNames s2
  have h2 : Keeps2 P W s2 := by
    dsimp -zeta only [s2]
    apply fresh_keeps
    apply Keeps2.snd
    exact h1
  clear_value s2
  apply reportAer_keeps
  apply request_keeps
  apply Keeps2.snd
  exact h2

theorem modAllot_keeps {s : State} (x2 : Nat) (x3 : Allotment → Allotment) (h : Keeps P W s) : Keeps P W (modAllot s x2 x3) := by
  unfold modAllot
  refine Keeps.upd (s := s) ?_ rfl rfl
  exact h

theorem modQueue_keeps {s : State} (x2 : Nat) (x3 : Nat) (x4 : Queue → Queue) (h : Keeps P W s) : Keeps P W (modQueue s x2 x3 x4) := by
  unfold modQueue
  refine Keeps.upd (s := s) ?_ rfl rfl
  exact h

theorem modJob_keeps {s : State} (x2 : Nat) (x3 : Job → Job) (h : Keeps P W s) : Keeps P W (modJob s x2 x3) := by
  unfold modJob
  refine Keeps.upd (s := s) ?_ rfl rfl
  exact h

theorem tapReleased_keeps {s : State} (h : Keeps P W s) : Keeps P W (tapReleased s) := by
  unfold tapReleased
  refine Keeps.upd (s := s) ?_ rfl rfl
  exact h

theorem gateClocks_keeps {s : State} (h : Keeps P W s) : Keeps P W (gateClocks s) := by
  unfold gateClocks
  refine Keeps.upd (s := s) ?_ rfl rfl
  exact h

theorem reserveSlot_keeps {s : State} (x2 : Nat) (h : Keeps P W s) : Keeps P W (reserveSlot s x2) := by
  unfold reserveSlot
  refine Keeps.upd (s := s) ?_ rfl rfl
  exact h

theorem postKeyEvent_keeps {s : State} (x2 : Nat) (x3 : Nat) (x4 : Nat) (x5 : Key) (x6 : Nat) (h : Keeps P W s) : Keeps1 P W (postKeyEvent s x2 x3 x4 x5 x6) := by
  unfold postKeyEvent
  apply postRecord_keeps
  exact h

theorem postImageChange_keeps {s : State} (x2 : Nat) (h : Keeps P W s) : Keeps1 P W (postImageChange s x2) := by
  unfold postImageChange
  refine Keeps1.mk ?_
  refine Keeps.upd (s := s) ?_ rfl rfl
  exact h

theorem releaseReserved_keeps {s : State} (x2 : Nat) (h : Keeps P W s) : Keeps P W (releaseReserved s x2) := by
  unfold releaseReserved
  split
  · refine Keeps.ite ?_ ?_
    · exact h
    · extract_lets +onlyGivenNames s3
      extract_lets +onlyGivenNames s4
      have h4 : Keeps P W s4 := by
        dsimp -zeta only [s4]
        refine Keeps.upd (s := s) ?_ rfl rfl
        exact h
      clear_value s4
      refine Keeps.ite ?_ ?_
      · exact h4
      · apply Keeps1.fst
        apply postImageChange_keeps
        exact h4
  · exact h

theorem emptyKeyed_keeps {s : State} (x2 : W64) (h : Keeps P W s) : Keeps P W (emptyKeyed s x2) := by
  unfold emptyKeyed
  refine Keeps.upd (s := s) ?_ rfl rfl
  exact h

theorem dropStateSlots_keeps {s : State} (x2 : W64) (h : Keeps P W s) : Keeps P W (dropStateSlots s x2) := by
  unfold dropStateSlots
  refine Keeps.upd (s := s) ?_ rfl rfl
  exact h

theorem zeroiseSlot_keeps {s : State} (x2 : Nat) (h : Keeps P W s) : Keeps P W (zeroiseSlot s x2) := by
  unfold zeroiseSlot
  extract_lets +onlyGivenNames s1
  extract_lets +onlyGivenNames s2
  have h1 : Keeps P W s2 := by
    dsimp -zeta only [s2]
    apply emptyKeyed_keeps
    apply dropStateSlots_keeps
    exact h
  clear_value s2
  extract_lets +onlyGivenNames s3
  extract_lets +onlyGivenNames s4
  have h2 : Keeps P W s4 := by
    dsimp -zeta only [s4]
    refine Keeps.upd (s := s2) ?_ rfl rfl
    exact h1
  clear_value s4
  refine Keeps1.fst ?_
  apply postImageChange_keeps
  exact h2

theorem zeroiseResident_keeps {s : State} (x2 : Nat) (h : Keeps P W s) : Keeps P W (zeroiseResident s x2) := by
  unfold zeroiseResident
  refine Keeps.upd (s := s) ?_ rfl rfl
  exact h

theorem setWithdrawn_keeps {s : State} (x2 : Nat) (x3 : Bool) (h : Keeps P W s) : Keeps P W (setWithdrawn s x2 x3) := by
  unfold setWithdrawn
  refine Keeps.upd (s := s) ?_ rfl rfl
  exact h

theorem clearVolatile_keeps {s : State} (h : Keeps P W s) : Keeps P W (clearVolatile s) := by
  unfold clearVolatile
  refine Keeps.upd (s := s) ?_ rfl rfl
  exact h

theorem tzErase_keeps {s : State} (h : Keeps P W s) : Keeps P W (tzErase s) := by
  unfold tzErase
  extract_lets +onlyGivenNames s1
  have h1 : Keeps P W s1 := by
    dsimp -zeta only [s1]
    apply clearVolatile_keeps
    exact h
  clear_value s1
  refine Keeps.upd (s := s1) ?_ rfl rfl
  exact h1

theorem setResidence_keeps {s : State} (x2 : Nat) (x3 : Nat) (x4 : Residence) (h : Keeps P W s) : Keeps P W (setResidence s x2 x3 x4) := by
  unfold setResidence
  apply setUnit_keeps
  exact h

theorem freeResidence_keeps {s : State} (x2 : Job) (h : Keeps P W s) : Keeps P W (freeResidence s x2) := by
  unfold freeResidence
  split
  · apply setResidence_keeps
    exact h
  · exact h

theorem dropDraws_keeps {s : State} (x2 : Nat) (h : Keeps P W s) : Keeps P W (dropDraws s x2) := by
  unfold dropDraws
  refine Keeps.upd (s := s) ?_ rfl rfl
  exact h

theorem dropKeptResident_keeps {s : State} (x2 : Nat) (h : Keeps P W s) : Keeps P W (dropKeptResident s x2) := by
  unfold dropKeptResident
  refine Keeps.ite ?_ ?_
  · exact h
  · refine Keeps.upd (s := s) ?_ rfl rfl
    exact h

theorem dropHeld_keeps {s : State} (x2 : Nat) (x3 : Nat) (h : Keeps P W s) : Keeps P W (dropHeld s x2 x3) := by
  unfold dropHeld
  refine Keeps.ite ?_ ?_
  · refine Keeps.upd (s := s) ?_ rfl rfl
    exact h
  · refine Keeps.upd (s := s) ?_ rfl rfl
    exact h

/-- What holds of an operation on one number holds of it on an optional number. -/
theorem withSome_keeps {s : State} (o : Option Nat) (f : State → Nat → State)
    (hf : ∀ s n, Keeps P W s → Keeps P W (f s n)) (h : Keeps P W s) : Keeps P W (withSome s o f) := by
  unfold withSome
  split
  · exact hf _ _ h
  · exact h

theorem dropStatement_keeps {s : State} (x2 : Job) (h : Keeps P W s) : Keeps P W (dropStatement s x2) := by
  unfold dropStatement
  refine Keeps.ite ?_ ?_
  · refine Keeps.upd (s := s) ?_ rfl rfl
    exact h
  · exact h

theorem answerReads_keeps {s : State} (x2 : Nat) (h : Keeps P W s) : Keeps P W (answerReads s x2) := by
  unfold answerReads
  apply modAllot_keeps
  exact h

theorem giveBack_keeps {s : State} (x2 : Job) (h : Keeps P W s) : Keeps P W (giveBack s x2) := by
  unfold giveBack
  apply withSome_keeps _ _ fun s n h => dropHeld_keeps _ n h
  apply withSome_keeps _ _ fun s n h => dropKeptResident_keeps n h
  exact withSome_keeps _ _ (fun s n h => releaseReserved_keeps n h) h

theorem releaseEngines_keeps {s : State} (x2 : Nat) (x3 : Job) (h : Keeps P W s) : Keeps P W (releaseEngines s x2 x3) := by
  unfold releaseEngines
  extract_lets +onlyGivenNames s1
  have h1 : Keeps P W s1 := by
    dsimp -zeta only [s1]
    apply giveBack_keeps
    apply dropStatement_keeps
    apply dropDraws_keeps
    apply freeResidence_keeps
    apply answerReads_keeps
    exact h
  clear_value s1
  refine Keeps.upd (s := s1) ?_ rfl rfl
  exact h1

theorem endJob_keeps {s : State} (x2 : Nat) (x3 : Status) (h : Keeps P W s) : Keeps P W (endJob s x2 x3) := by
  unfold endJob
  split
  · apply modJob_keeps
    apply releaseEngines_keeps
    exact h
  · exact h

theorem leaveLanes_keeps {s : State} (x2 : Nat) (h : Keeps P W s) : Keeps P W (leaveLanes s x2) := by
  unfold leaveLanes
  split
  · refine Keeps.ite ?_ ?_
    · exact h
    · refine Keeps.upd (s := s) ?_ rfl rfl
      exact h
  · exact h

theorem removeJob_keeps {s : State} (x2 : Nat) (h : Keeps P W s) : Keeps P W (removeJob s x2) := by
  unfold removeJob
  extract_lets +onlyGivenNames s1
  have h1 : Keeps P W s1 := by
    dsimp -zeta only [s1]
    apply leaveLanes_keeps
    exact h
  clear_value s1
  extract_lets +onlyGivenNames s2
  have h2 : Keeps P W s2 := by
    dsimp -zeta only [s2]
    apply answerReads_keeps
    refine Keeps.upd (s := s1) ?_ rfl rfl
    exact h1
  clear_value s2
  extract_lets +onlyGivenNames s3
  have h3 : Keeps P W s3 := by
    dsimp -zeta only [s3]
    apply modQueue_keeps
    exact h2
  clear_value s3
  apply modAllot_keeps
  exact h3

theorem abortJob_keeps (x1 : Bool) {s : State} (x3 : Nat) (h : Keeps P W s) : Keeps P W (abortJob x1 s x3) := by
  unfold abortJob
  split
  · exact h
  · refine Keeps.ite ?_ ?_
    · apply modJob_keeps
      exact h
    · refine Keeps.ite ?_ ?_
      · apply modJob_keeps
        exact h
      · refine Keeps.ite ?_ ?_
        · apply removeJob_keeps
          apply releaseEngines_keeps
          exact h
        · apply modJob_keeps
          apply endJob_keeps
          exact h

theorem abortJobs_keeps (x1 : Bool) {s : State} (x3 : List Nat) (h : Keeps P W s) : Keeps P W (abortJobs x1 s x3) := by
  unfold abortJobs
  refine Keeps.foldl ?_ ?_
  · intro a1 a2 a3
    apply abortJob_keeps
    exact a3
  · exact h

theorem dropDescriptorRead_keeps {s : State} (x2 : Nat) (x3 : Nat) (h : Keeps P W s) : Keeps P W (dropDescriptorRead s x2 x3) := by
  unfold dropDescriptorRead
  split
  · refine Keeps.ite ?_ ?_
    · apply modAllot_keeps
      apply modQueue_keeps
      exact h
    · apply modQueue_keeps
      exact h
  · exact h

theorem abortQueue_keeps {s : State} (x2 : Nat) (x3 : Nat) (h : Keeps P W s) : Keeps P W (abortQueue s x2 x3) := by
  unfold abortQueue
  apply dropDescriptorRead_keeps
  apply abortJobs_keeps
  exact h

theorem abortAllotment_keeps {s : State} (x2 : Nat) (h : Keeps P W s) : Keeps P W (abortAllotment s x2) := by
  unfold abortAllotment
  refine Keeps.foldl ?_ ?_
  · intro a1 a2 a3
    apply dropDescriptorRead_keeps
    exact a3
  · apply abortJobs_keeps
    exact h

theorem quiesceAllotment_keeps {s : State} (x2 : Nat) (h : Keeps P W s) : Keeps P W (quiesceAllotment s x2) := by
  unfold quiesceAllotment
  extract_lets +onlyGivenNames s1
  have h1 : Keeps P W s1 := by
    dsimp -zeta only [s1]
    refine Keeps.foldl ?_ ?_
    · intro a1 a2 a3
      apply dropDescriptorRead_keeps
      exact a3
    · exact h
  clear_value s1
  extract_lets +onlyGivenNames s2
  have h2 : Keeps P W s2 := by
    dsimp -zeta only [s2]
    apply abortJobs_keeps
    exact h1
  clear_value s2
  extract_lets +onlyGivenNames s3
  have h3 : Keeps P W s3 := by
    dsimp -zeta only [s3]
    refine Keeps.upd (s := s2) ?_ rfl rfl
    exact h2
  clear_value s3
  apply modAllot_keeps
  exact h3

theorem quiesceFunc_keeps {s : State} (x2 : Nat) (h : Keeps P W s) : Keeps P W (quiesceFunc s x2) := by
  unfold quiesceFunc
  refine Keeps.foldl ?_ ?_
  · intro a1 a2 a3
    apply quiesceAllotment_keeps
    exact a3
  · exact h

theorem resumeFunc_keeps {s : State} (x2 : Nat) (h : Keeps P W s) : Keeps P W (resumeFunc s x2) := by
  unfold resumeFunc
  refine Keeps.foldl ?_ ?_
  · intro a1 a2 a3
    apply modAllot_keeps
    exact a3
  · exact h

theorem dropQueues_keeps {s : State} (x2 : Nat) (h : Keeps P W s) : Keeps P W (dropQueues s x2) := by
  unfold dropQueues
  refine Keeps.upd (s := s) ?_ rfl rfl
  exact h

theorem vacateTurns_keeps {s : State} (x2 : Nat) (h : Keeps P W s) : Keeps P W (vacateTurns s x2) := by
  unfold vacateTurns
  refine Keeps.upd (s := s) ?_ rfl rfl
  exact h

theorem postDestroyed_keeps {s : State} (x2 : Nat) (x3 : Nat) (h : Keeps P W s) : Keeps1 P W (postDestroyed s x2 x3) := by
  unfold postDestroyed
  refine Keeps1.foldl ?_ ?_
  · intro a1 a2 a3
    extract_lets +onlyGivenNames s1
    have h1 : Keeps1 P W s1 := by
      dsimp -zeta only [s1]
      apply postKeyEvent_keeps
      refine Keeps1.fst ?_
      exact a3
    clear_value s1
    refine Keeps1.mk ?_
    refine Keeps1.fst ?_
    exact h1
  · refine Keeps1.mk ?_
    exact h

theorem closeQueues_keeps {s : State} (x2 : Nat) (h : Keeps P W s) : Keeps P W (closeQueues s x2) := by
  unfold closeQueues
  refine Keeps.upd (s := s) ?_ rfl rfl
  exact h

theorem beginDestroy_keeps {s : State} (x2 : Nat) (x3 : Nat) (h : Keeps P W s) : Keeps P W (beginDestroy s x2 x3) := by
  unfold beginDestroy
  extract_lets +onlyGivenNames s1
  have h1 : Keeps P W s1 := by
    dsimp -zeta only [s1]
    apply abortAllotment_keeps
    exact h
  clear_value s1
  extract_lets +onlyGivenNames s2
  have h2 : Keeps1 P W s2 := by
    dsimp -zeta only [s2]
    apply postDestroyed_keeps
    apply closeQueues_keeps
    exact h1
  clear_value s2
  apply modAllot_keeps
  apply Keeps1.fst
  exact h2

theorem clearHolder_keeps {s : State} (x2 : Nat) (h : Keeps P W s) : Keeps P W (clearHolder s x2) := by
  unfold clearHolder
  refine Keeps.upd (s := s) ?_ rfl rfl
  exact h

theorem finishDestroy_keeps {s : State} (x2 : Nat) (h : Keeps P W s) : Keeps P W (finishDestroy s x2) := by
  unfold finishDestroy
  split
  · exact h
  · extract_lets +onlyGivenNames s2
    have h2 : Keeps P W s2 := by
      dsimp -zeta only [s2]
      refine Keeps.foldl (fun s12 x12 h12 => ?_) ?_
      · apply removeJob_keeps
        split
        · apply releaseEngines_keeps
          exact h12
        · exact h12
      · exact h
    clear_value s2
    extract_lets +onlyGivenNames s3
    have h3 : Keeps P W s3 := by
      dsimp -zeta only [s3]
      apply vacateTurns_keeps
      apply dropQueues_keeps
      apply clearHolder_keeps
      exact h2
    clear_value s3
    extract_lets +onlyGivenNames s4
    extract_lets +onlyGivenNames s5
    have h5 : Keeps P W s5 := by
      dsimp -zeta only [s5]
      apply Keeps1.fst
      apply postImageChange_keeps
      exact h3
    clear_value s5
    refine Keeps.upd (s := s5) ?_ rfl rfl
    exact h5

theorem completeAborted_keeps {s : State} (x2 : Nat) (h : Keeps P W s) : Keeps P W (completeAborted s x2) := by
  unfold completeAborted
  split
  · exact h
  · refine Keeps.ite ?_ ?_
    · extract_lets +onlyGivenNames s3
      extract_lets +onlyGivenNames s4
      extract_lets +onlyGivenNames s5
      have h5 : Keeps P W s5 := by
        dsimp -zeta only [s5]
        apply send_keeps
        exact h
      clear_value s5
      extract_lets +onlyGivenNames s6
      have h6 : Keeps P W s6 := by
        dsimp -zeta only [s6]
        apply send_keeps
        exact h5
      clear_value s6
      apply removeJob_keeps
      refine Keeps.upd (s := s6) ?_ rfl rfl
      exact h6
    · exact h

theorem abortAtOnce_keeps {s : State} (x2 : Nat) (h : Keeps P W s) : Keeps P W (abortAtOnce s x2) := by
  unfold abortAtOnce
  extract_lets +onlyGivenNames s1
  have h1 : Keeps P W s1 := by
    dsimp -zeta only [s1]
    apply abortAllotment_keeps
    exact h
  clear_value s1
  refine Keeps.foldl (fun s2 x2 h2 => ?_) ?_
  · apply completeAborted_keeps
    exact h2
  · apply abortJobs_keeps
    exact h1

theorem orphan_keeps {s : State} (x2 : Nat) (h : Keeps P W s) : Keeps P W (orphan s x2) := by
  unfold orphan
  apply modAllot_keeps
  apply dropQueues_keeps
  apply abortAtOnce_keeps
  exact h

theorem linkResetAllotment_keeps {s : State} (x2 : Nat) (h : Keeps P W s) : Keeps P W (linkResetAllotment s x2) := by
  unfold linkResetAllotment
  refine Keeps.ite ?_ ?_
  · apply finishDestroy_keeps
    apply abortAtOnce_keeps
    exact h
  · refine Keeps.ite ?_ ?_
    · apply beginDestroy_keeps
      apply abortAtOnce_keeps
      exact h
    · apply orphan_keeps
      exact h

theorem fullReset_keeps {s : State} (x2 : Nat) (x3 : Bool) (h : Keeps P W s) : Keeps P W (fullReset s x2 x3) := by
  exact Keeps.upd h rfl rfl

theorem fatalOf_keeps {s : State} (x2 : Nat) (x3 : Nat) (x4 : Nat) (x5 : Nat) (h : Keeps P W s) : Keeps P W (fatalOf s x2 x3 x4 x5) := by
  unfold fatalOf
  split
  · apply fullReset_keeps
    exact h
  · extract_lets +onlyGivenNames s2
    extract_lets +onlyGivenNames s3
    extract_lets +onlyGivenNames s4
    have h4 : Keeps P W s4 := by
      dsimp -zeta only [s4]
      refine Keeps.upd (s := s) ?_ rfl rfl
      exact h
    clear_value s4
    extract_lets +onlyGivenNames s5
    have h5 : Keeps P W s5 := by
      dsimp -zeta only [s5]
      apply reportAer_keeps
      exact h4
    clear_value s5
    apply logEvent_keeps
    exact h5

theorem fatal_keeps {s : State} (x2 : Nat) (x3 : Nat) (x4 : Nat) (h : Keeps P W s) : Keeps P W (fatal s x2 x3 x4) := by
  unfold fatal
  apply fatalOf_keeps
  exact h

theorem logBlockReset_keeps {s : State} (x2 : Nat) (x3 : Nat) (h : Keeps P W s) : Keeps P W (logBlockReset s x2 x3) := by
  unfold logBlockReset
  extract_lets +onlyGivenNames s1
  extract_lets +onlyGivenNames s2
  have h1 : Keeps P W s2 := by
    dsimp -zeta only [s2]
    refine Keeps.upd (s := s) ?_ rfl rfl
    exact h
  clear_value s2
  apply logEvent_keeps
  exact h1

theorem issueRead_keeps {s : State} (x2 : Nat) (x3 : Bool) (x4 : Nat) (x5 : Nat) (x6 : W64) (x7 : Nat) (h : Keeps P W s) : Keeps P W (issueRead s x2 x3 x4 x5 x6 x7) := by
  unfold issueRead
  extract_lets +onlyGivenNames s1
  have h1 : Keeps P W s1 := by
    dsimp -zeta only [s1]
    apply modAllot_keeps
    exact h
  clear_value s1
  apply request_keeps
  exact h1

theorem endRead_keeps {s : State} (x2 : Nat) (x3 : HostReq → Bool) (h : Keeps P W s) : Keeps P W (endRead s x2 x3) := by
  unfold endRead
  apply modAllot_keeps
  exact h

theorem takeBytes_keeps {s : State} (x2 : Nat) (x3 : HostReq → Bool) (x4 : Nat) (h : Keeps P W s) : Keeps P W (takeBytes s x2 x3 x4) := by
  unfold takeBytes
  apply modAllot_keeps
  exact h

theorem issueData_keeps {s : State} (x2 : Nat) (h : Keeps P W s) : Keeps P W (issueData s x2) := by
  unfold issueData
  split
  · split
    · extract_lets +onlyGivenNames s3
      apply issueRead_keeps
      apply modJob_keeps
      exact h
    · exact h
  · exact h

theorem issueReads_keeps {s : State} (x2 : Nat) (h : Keeps P W s) : Keeps P W (issueReads s x2) := by
  unfold issueReads
  refine Keeps.ite ?_ ?_
  · apply issueData_keeps
    apply issueData_keeps
    exact h
  · exact h

theorem issueAll_keeps {s : State} (h : Keeps P W s) : Keeps P W (issueAll s) := by
  unfold issueAll
  refine Keeps.foldl (fun s1 x1 h1 => ?_) ?_
  · apply issueReads_keeps
    exact h1
  · exact h

theorem postFrame_keeps {s : State} (x2 : Nat) (x3 : Nat) (x4 : Nat) (x5 : List Byte) (h : Keeps P W s) : Keeps P W (postFrame s x2 x3 x4 x5) := by
  unfold postFrame
  extract_lets +onlyGivenNames s1
  refine Keeps.upd (s := s) ?_ rfl rfl
  exact h

theorem sendSegment_keeps {s : State} (x2 : Nat) (x3 : Frame) (h : Keeps P W s) : Keeps P W (sendSegment s x2 x3) := by
  unfold sendSegment
  extract_lets +onlyGivenNames s1
  extract_lets +onlyGivenNames s2
  extract_lets +onlyGivenNames s3
  extract_lets +onlyGivenNames s4
  extract_lets +onlyGivenNames s5
  refine Keeps.upd (s := s) ?_ rfl rfl
  exact h

theorem tamperNotice_keeps {s : State} (x2 : Nat) (x3 : Nat) (h : Keeps P W s) : Keeps P W (tamperNotice s x2 x3) := by
  unfold tamperNotice
  refine Keeps.ite ?_ ?_
  · extract_lets +onlyGivenNames s2
    extract_lets +onlyGivenNames s3
    extract_lets +onlyGivenNames s4
    refine Keeps.upd (s := s) ?_ rfl rfl
    exact h
  · exact h

theorem flushNotices_keeps {s : State} (h : Keeps P W s) : Keeps P W (flushNotices s) := by
  unfold flushNotices
  refine Keeps.ite ?_ ?_
  · refine Keeps.foldl (fun s11 x11 h11 => ?_) ?_
    · apply sendSegment_keeps
      exact h11
    · exact h
  · exact h

theorem postTwin_keeps {s : State} (x2 : Nat) (h : Keeps P W s) : Keeps1 P W (postTwin s x2) := by
  unfold postTwin
  apply postRecord_keeps
  exact h

theorem openCommit_keeps {s : State} (x2 : Nat) (x3 : Nat) (x4 : Nat) (x5 : List Byte) (x6 : List Nat) (x7 : Option Nat) (h : Keeps P W s) : Keeps1 P W (openCommit s x2 x3 x4 x5 x6 x7) := by
  unfold openCommit
  extract_lets +onlyGivenNames s1
  extract_lets +onlyGivenNames s2
  extract_lets +onlyGivenNames s3
  extract_lets +onlyGivenNames s4
  extract_lets +onlyGivenNames s5
  have h1 : Keeps P W s5 := by
    dsimp -zeta only [s5]
    refine Keeps.upd (s := s) ?_ rfl rfl
    exact h
  clear_value s5
  refine Keeps1.mk ?_
  refine Keeps.ite ?_ ?_
  · exact h1
  · apply postFrame_keeps
    exact h1

theorem closeCommit_keeps {s : State} (x2 : Nat) (h : Keeps P W s) : Keeps P W (closeCommit s x2) := by
  unfold closeCommit
  split
  · exact h
  · extract_lets +onlyGivenNames s1
    extract_lets +onlyGivenNames s2
    have h1 : Keeps P W s2 := by
      dsimp -zeta only [s2]
      refine Keeps.upd (s := s) ?_ rfl rfl
      exact h
    clear_value s2
    split
    · apply postFrame_keeps
      exact h1
    · exact h1

end Sys2Proof.Machine
end

