-- ==== Sys2Proof/Laws/KeepsCommands.lean ====
section
/-! SUPPORT. The queue and the life-cycle bits are kept by the admin commands: one lemma for each operation. -/
namespace Sys2Proof.Machine
open Sys2Proof

variable {P : List Instr} {W : List W32}

theorem noRecords_keeps {s : State} (x2 : Job) (h : Keeps P W s) : Keeps1 P W (noRecords s x2) := by
  unfold noRecords
  refine Keeps1.mk ?_
  exact h

theorem adminRecord_keeps {s : State} (x2 : Nat) (x3 : Nat) (x4 : Nat) (x5 : List Byte) (h : Keeps P W s) : Keeps1 P W (adminRecord s x2 x3 x4 x5) := by
  unfold adminRecord
  extract_lets +onlyGivenNames s1
  have h1 : Keeps1 P W s1 := by
    dsimp -zeta only [s1]
    apply postRecord_keeps
    exact h
  clear_value s1
  refine Keeps1.mk ?_
  refine Keeps1.fst ?_
  exact h1

theorem createApply_keeps {s : State} (x2 : Nat) (x3 : Job) (h : Keeps P W s) : Keeps1 P W (createApply s x2 x3) := by
  unfold createApply
  extract_lets +onlyGivenNames s1
  extract_lets +onlyGivenNames s2
  have h1 : Keeps P W s2 := by
    dsimp -zeta only [s2]
    refine Keeps.upd (s := s) ?_ rfl rfl
    exact h
  clear_value s2
  refine Keeps1.mk ?_
  refine Keeps1.fst ?_
  apply postImageChange_keeps
  exact h1

theorem cmdAllotCreate_keeps : AdminCmd.Keeps (cmdAllotCreate) := by
  refine ⟨?_, ?_, ?_, ?_⟩
  · intro P W s j h
    dsimp -zeta only [cmdAllotCreate]
    exact h
  · intro P W s j h
    dsimp -zeta only [cmdAllotCreate]
    apply noRecords_keeps
    exact h
  · intro P W s j h
    dsimp -zeta only [cmdAllotCreate]
    refine Keeps1.mk ?_
    exact h
  · intro P W s k j h
    dsimp -zeta only [cmdAllotCreate]
    apply createApply_keeps
    exact h

theorem destroyRecords_keeps {s : State} (x2 : Job) (h : Keeps P W s) : Keeps1 P W (destroyRecords s x2) := by
  unfold destroyRecords
  refine Keeps1.ite ?_ ?_
  · apply postDestroyed_keeps
    exact h
  · extract_lets +onlyGivenNames s2
    have h2 : Keeps P W s2 := by
      dsimp -zeta only [s2]
      apply beginDestroy_keeps
      exact h
    clear_value s2
    refine Keeps1.mk ?_
    exact h2

theorem destroyFollow_keeps {s : State} (x2 : Job) (h : Keeps P W s) : Keeps1 P W (destroyFollow s x2) := by
  unfold destroyFollow
  extract_lets +onlyGivenNames s1
  refine Keeps1.ite ?_ ?_
  · refine Keeps1.mk ?_
    exact h
  · refine Keeps1.mk ?_
    apply modAllot_keeps
    apply closeQueues_keeps
    apply abortAllotment_keeps
    exact h

theorem destroyApply_keeps {s : State} (x2 : Nat) (x3 : Job) (h : Keeps P W s) : Keeps1 P W (destroyApply s x2 x3) := by
  unfold destroyApply
  refine Keeps1.mk ?_
  apply finishDestroy_keeps
  exact h

theorem cmdAllotDestroy_keeps : AdminCmd.Keeps (cmdAllotDestroy) := by
  refine ⟨?_, ?_, ?_, ?_⟩
  · intro P W s j h
    exact h
  · intro P W s j h
    exact destroyRecords_keeps j h
  · intro P W s j h
    exact destroyFollow_keeps j h
  · intro P W s k j h
    exact destroyApply_keeps k j h

theorem bindApply_keeps {s : State} (x2 : Nat) (x3 : Job) (h : Keeps P W s) : Keeps1 P W (bindApply s x2 x3) := by
  unfold bindApply
  extract_lets +onlyGivenNames s1
  extract_lets +onlyGivenNames s2
  extract_lets +onlyGivenNames s3
  extract_lets +onlyGivenNames s4
  extract_lets +onlyGivenNames s5
  have h1 : Keeps P W s5 := by
    dsimp -zeta only [s5]
    apply modAllot_keeps
    exact h
  clear_value s5
  refine Keeps1.mk ?_
  refine Keeps1.fst ?_
  apply postImageChange_keeps
  exact h1

theorem cmdAllotBind_keeps : AdminCmd.Keeps (cmdAllotBind) := by
  refine ⟨?_, ?_, ?_, ?_⟩
  · intro P W s j h
    dsimp -zeta only [cmdAllotBind]
    exact h
  · intro P W s j h
    dsimp -zeta only [cmdAllotBind]
    apply noRecords_keeps
    exact h
  · intro P W s j h
    dsimp -zeta only [cmdAllotBind]
    refine Keeps1.mk ?_
    exact h
  · intro P W s k j h
    dsimp -zeta only [cmdAllotBind]
    apply bindApply_keeps
    exact h

theorem releaseHalts_keeps {s : State} (h : Keeps P W s) : Keeps P W (releaseHalts s) := by
  unfold releaseHalts
  refine Keeps.upd (s := s) ?_ rfl rfl
  exact h

theorem queueCreateApply_keeps {s : State} (x2 : Nat) (x3 : Job) (h : Keeps P W s) : Keeps1 P W (queueCreateApply s x2 x3) := by
  unfold queueCreateApply
  extract_lets +onlyGivenNames s1
  extract_lets +onlyGivenNames s2
  extract_lets +onlyGivenNames s3
  have h1 : Keeps P W s3 := by
    dsimp -zeta only [s3]
    refine Keeps.ite ?_ ?_
    · exact h
    · apply releaseHalts_keeps
      exact h
  clear_value s3
  refine Keeps1.mk ?_
  refine Keeps.upd (s := s3) ?_ rfl rfl
  exact h1

theorem cmdQueueCreate_keeps : AdminCmd.Keeps (cmdQueueCreate) := by
  refine ⟨?_, ?_, ?_, ?_⟩
  · intro P W s j h
    dsimp -zeta only [cmdQueueCreate]
    exact h
  · intro P W s j h
    dsimp -zeta only [cmdQueueCreate]
    apply noRecords_keeps
    exact h
  · intro P W s j h
    dsimp -zeta only [cmdQueueCreate]
    refine Keeps1.mk ?_
    exact h
  · intro P W s k j h
    dsimp -zeta only [cmdQueueCreate]
    apply queueCreateApply_keeps
    exact h

theorem queueDestroyBegin_keeps {s : State} (x2 : Job) (h : Keeps P W s) : Keeps1 P W (queueDestroyBegin s x2) := by
  unfold queueDestroyBegin
  extract_lets +onlyGivenNames s1
  extract_lets +onlyGivenNames s2
  refine Keeps1.mk ?_
  apply modQueue_keeps
  apply abortQueue_keeps
  exact h

theorem queueDestroyApply_keeps {s : State} (x2 : Nat) (x3 : Job) (h : Keeps P W s) : Keeps1 P W (queueDestroyApply s x2 x3) := by
  unfold queueDestroyApply
  refine Keeps1.mk ?_
  refine Keeps.upd (s := s) ?_ rfl rfl
  exact h

theorem cmdQueueDestroy_keeps : AdminCmd.Keeps (cmdQueueDestroy) := by
  refine ⟨?_, ?_, ?_, ?_⟩
  · intro P W s j h
    exact h
  · intro P W s j h
    exact noRecords_keeps j h
  · intro P W s j h
    exact queueDestroyBegin_keeps j h
  · intro P W s k j h
    exact queueDestroyApply_keeps k j h

theorem leaseApply_keeps {s : State} (x2 : Nat) (x3 : Job) (h : Keeps P W s) : Keeps1 P W (leaseApply s x2 x3) := by
  unfold leaseApply
  extract_lets +onlyGivenNames s1
  extract_lets +onlyGivenNames s2
  have h1 : Keeps P W s2 := by
    dsimp -zeta only [s2]
    apply modAllot_keeps
    exact h
  clear_value s2
  refine Keeps1.mk ?_
  refine Keeps1.fst ?_
  apply postImageChange_keeps
  exact h1

theorem cmdLeaseSet_keeps : AdminCmd.Keeps (cmdLeaseSet) := by
  refine ⟨?_, ?_, ?_, ?_⟩
  · intro P W s j h
    dsimp -zeta only [cmdLeaseSet]
    exact h
  · intro P W s j h
    dsimp -zeta only [cmdLeaseSet]
    apply noRecords_keeps
    exact h
  · intro P W s j h
    dsimp -zeta only [cmdLeaseSet]
    refine Keeps1.mk ?_
    exact h
  · intro P W s k j h
    dsimp -zeta only [cmdLeaseSet]
    apply leaseApply_keeps
    exact h

theorem windowApply_keeps {s : State} (x2 : Nat) (x3 : Job) (h : Keeps P W s) : Keeps1 P W (windowApply s x2 x3) := by
  unfold windowApply
  extract_lets +onlyGivenNames s1
  extract_lets +onlyGivenNames s2
  have h1 : Keeps P W s2 := by
    dsimp -zeta only [s2]
    apply modAllot_keeps
    exact h
  clear_value s2
  refine Keeps1.mk ?_
  refine Keeps.ite ?_ ?_
  · exact h1
  · refine Keeps1.fst ?_
    apply postImageChange_keeps
    exact h1

theorem cmdWindowSet_keeps : AdminCmd.Keeps (cmdWindowSet) := by
  refine ⟨?_, ?_, ?_, ?_⟩
  · intro P W s j h
    dsimp -zeta only [cmdWindowSet]
    exact h
  · intro P W s j h
    dsimp -zeta only [cmdWindowSet]
    apply noRecords_keeps
    exact h
  · intro P W s j h
    dsimp -zeta only [cmdWindowSet]
    refine Keeps1.mk ?_
    exact h
  · intro P W s k j h
    dsimp -zeta only [cmdWindowSet]
    apply windowApply_keeps
    exact h

theorem abortBegin_keeps {s : State} (x2 : Job) (h : Keeps P W s) : Keeps1 P W (abortBegin s x2) := by
  unfold abortBegin
  extract_lets +onlyGivenNames s1
  refine Keeps1.ite ?_ ?_
  · refine Keeps1.mk ?_
    exact h
  · refine Keeps1.ite ?_ ?_
    · refine Keeps1.mk ?_
      apply abortQueue_keeps
      exact h
    · refine Keeps1.mk ?_
      apply abortAllotment_keeps
      exact h

theorem abortApply_keeps {s : State} (x2 : Nat) (x3 : Job) (h : Keeps P W s) : Keeps1 P W (abortApply s x2 x3) := by
  unfold abortApply
  refine Keeps1.mk ?_
  refine Keeps.ite ?_ ?_
  · exact h
  · apply logYield_keeps
    exact h

theorem cmdAbort_keeps : AdminCmd.Keeps (cmdAbort) := by
  refine ⟨?_, ?_, ?_, ?_⟩
  · intro P W s j h
    dsimp -zeta only [cmdAbort]
    exact h
  · intro P W s j h
    dsimp -zeta only [cmdAbort]
    apply abortBegin_keeps
    exact h
  · intro P W s j h
    dsimp -zeta only [cmdAbort]
    refine Keeps1.mk ?_
    exact h
  · intro P W s k j h
    dsimp -zeta only [cmdAbort]
    apply abortApply_keeps
    exact h

theorem withdraw_keeps {s : State} (x2 : Nat) (x3 : Bool) (h : Keeps P W s) : Keeps P W (withdraw s x2 x3) := by
  unfold withdraw
  split
  · apply setWithdrawn_keeps
    exact h
  · refine Keeps.upd (s := s) ?_ rfl rfl
    exact h
  · exact h

theorem keyWithdraw_keeps {s : State} (x2 : Nat) (h : Keeps P W s) : Keeps P W (keyWithdraw s x2) := by
  unfold keyWithdraw
  extract_lets +onlyGivenNames s1
  extract_lets +onlyGivenNames s2
  have h2 : Keeps P W s2 := by
    dsimp -zeta only [s2]
    refine Keeps.foldl (fun s3 x3 h3 => ?_) ?_
    · apply endJob_keeps
      exact h3
    · exact h
  clear_value s2
  extract_lets +onlyGivenNames s3
  extract_lets +onlyGivenNames s4
  extract_lets +onlyGivenNames s5
  have h5 : Keeps P W s5 := by
    dsimp -zeta only [s5]
    split
    · refine Keeps.upd (s := s2) ?_ rfl rfl
      exact h2
    · exact h2
  clear_value s5
  apply withdraw_keeps
  exact h5

theorem keyDestroyRecords_keeps {s : State} (x2 : Nat) (x3 : Nat) (h : Keeps P W s) : Keeps1 P W (keyDestroyRecords s x2 x3) := by
  unfold keyDestroyRecords
  split
  · extract_lets +onlyGivenNames s2
    have h2 : Keeps1 P W s2 := by
      dsimp -zeta only [s2]
      apply postKeyEvent_keeps
      exact h
    clear_value s2
    refine Keeps1.mk ?_
    apply Keeps1.fst
    exact h2
  · extract_lets +onlyGivenNames s2
    have h2 : Keeps1 P W s2 := by
      dsimp -zeta only [s2]
      apply postRecord_keeps
      exact h
    clear_value s2
    refine Keeps1.mk ?_
    apply Keeps1.fst
    exact h2
  · refine Keeps1.mk ?_
    exact h

theorem keyAdminApply_keeps {s : State} (x2 : Nat) (x3 : Job) (h : Keeps P W s) : Keeps1 P W (keyAdminApply s x2 x3) := by
  unfold keyAdminApply
  split
  · refine Keeps1.mk ?_
    apply zeroiseSlot_keeps
    exact h
  · refine Keeps1.mk ?_
    apply zeroiseResident_keeps
    exact h
  · refine Keeps1.mk ?_
    exact h

theorem cmdKeyDestroy_keeps : AdminCmd.Keeps (cmdKeyDestroy) := by
  refine ⟨?_, ?_, ?_, ?_⟩
  · intro P W s j h
    dsimp -zeta only [cmdKeyDestroy]
    apply keyWithdraw_keeps
    exact h
  · intro P W s j h
    dsimp -zeta only [cmdKeyDestroy]
    apply keyDestroyRecords_keeps
    exact h
  · intro P W s j h
    dsimp -zeta only [cmdKeyDestroy]
    refine Keeps1.mk ?_
    exact h
  · intro P W s k j h
    dsimp -zeta only [cmdKeyDestroy]
    apply keyAdminApply_keeps
    exact h

theorem describeApply_keeps {s : State} (x2 : Nat) (x3 : Job) (h : Keeps P W s) : Keeps1 P W (describeApply s x2 x3) := by
  unfold describeApply
  split
  · refine Keeps1.mk ?_
    apply modJob_keeps
    exact h
  · refine Keeps1.mk ?_
    exact h

/-- KEY_ADMIN's describe. -/
theorem cmdKeyDescribe_keeps : AdminCmd.Keeps cmdKeyDescribe :=
  ⟨fun h => h, fun h => h, fun {_ _ _ j} h => cmdKeyDestroy_keeps.follow (j := j) h, fun h => describeApply_keeps _ _ h⟩

theorem curvePolicyApply_keeps {s : State} (x2 : Nat) (x3 : Job) (h : Keeps P W s) : Keeps1 P W (curvePolicyApply s x2 x3) := by
  unfold curvePolicyApply
  extract_lets +onlyGivenNames s1
  have h1 : Keeps P W s1 := by
    dsimp -zeta only [s1]
    apply modAllot_keeps
    exact h
  clear_value s1
  refine Keeps1.mk ?_
  refine Keeps.ite ?_ ?_
  · exact h1
  · refine Keeps1.fst ?_
    apply postImageChange_keeps
    exact h1

theorem cmdCurvePolicy_keeps : AdminCmd.Keeps (cmdCurvePolicy) := by
  refine ⟨?_, ?_, ?_, ?_⟩
  · intro P W s j h
    dsimp -zeta only [cmdCurvePolicy]
    exact h
  · intro P W s j h
    dsimp -zeta only [cmdCurvePolicy]
    apply noRecords_keeps
    exact h
  · intro P W s j h
    dsimp -zeta only [cmdCurvePolicy]
    refine Keeps1.mk ?_
    exact h
  · intro P W s k j h
    dsimp -zeta only [cmdCurvePolicy]
    apply curvePolicyApply_keeps
    exact h

theorem timeRecords_keeps {s : State} (x2 : Job) (h : Keeps P W s) : Keeps1 P W (timeRecords s x2) := by
  unfold timeRecords
  apply adminRecord_keeps
  exact h

theorem timeApply_keeps {s : State} (x2 : Nat) (x3 : Job) (h : Keeps P W s) : Keeps1 P W (timeApply s x2 x3) := by
  unfold timeApply
  extract_lets +onlyGivenNames s1
  refine Keeps1.mk ?_
  refine Keeps.upd (s := s) ?_ rfl rfl
  exact h

theorem cmdTimeSet_keeps : AdminCmd.Keeps (cmdTimeSet) := by
  refine ⟨?_, ?_, ?_, ?_⟩
  · intro P W s j h
    dsimp -zeta only [cmdTimeSet]
    exact h
  · intro P W s j h
    dsimp -zeta only [cmdTimeSet]
    apply timeRecords_keeps
    exact h
  · intro P W s j h
    dsimp -zeta only [cmdTimeSet]
    refine Keeps1.mk ?_
    exact h
  · intro P W s k j h
    dsimp -zeta only [cmdTimeSet]
    apply timeApply_keeps
    exact h

theorem patchStatusApply_keeps {s : State} (x2 : Nat) (x3 : Job) (h : Keeps P W s) : Keeps1 P W (patchStatusApply s x2 x3) := by
  unfold patchStatusApply
  refine Keeps1.mk ?_
  apply modJob_keeps
  exact h

theorem cmdPatchStatus_keeps : AdminCmd.Keeps (cmdPatchStatus) := by
  refine ⟨?_, ?_, ?_, ?_⟩
  · intro P W s j h
    dsimp -zeta only [cmdPatchStatus]
    exact h
  · intro P W s j h
    dsimp -zeta only [cmdPatchStatus]
    apply noRecords_keeps
    exact h
  · intro P W s j h
    dsimp -zeta only [cmdPatchStatus]
    refine Keeps1.mk ?_
    exact h
  · intro P W s k j h
    dsimp -zeta only [cmdPatchStatus]
    apply patchStatusApply_keeps
    exact h

theorem adminFinish_keeps (x1 : AdminCmd) (hx1 : AdminCmd.Keeps x1) {s : State} (x3 : Nat) (h : Keeps P W s) : Keeps P W (adminFinish x1 s x3) := by
  unfold adminFinish
  split
  · exact h
  · extract_lets +onlyGivenNames s1
    have h1 : Keeps1 P W s1 := by
      dsimp -zeta only [s1]
      refine AdminCmd.Keeps.apply ?_ ?_
      · exact hx1
      · exact h
    clear_value s1
    apply modJob_keeps
    refine Keeps1.fst ?_
    exact h1

theorem adminFail_keeps {s : State} (x2 : Nat) (x3 : Status) (x4 : Nat) (h : Keeps P W s) : Keeps P W (adminFail s x2 x3 x4) := by
  unfold adminFail
  apply modJob_keeps
  exact h

theorem adminStage_keeps (x1 : AdminCmd) (hx1 : AdminCmd.Keeps x1) {s : State} (x3 : Nat) (h : Keeps P W s) : Keeps P W (adminStage x1 s x3) := by
  unfold adminStage
  split
  · exact h
  · extract_lets +onlyGivenNames s2
    have h2 : Keeps1 P W s2 := by
      dsimp -zeta only [s2]
      apply hx1.records
      exact h
    clear_value s2
    split
    · extract_lets +onlyGivenNames s4
      have h4 : Keeps1 P W s4 := by
        dsimp -zeta only [s4]
        apply openCommit_keeps
        apply Keeps1.fst
        exact h2
      clear_value s4
      apply modJob_keeps
      apply Keeps1.fst
      exact h4
    · apply modJob_keeps
      apply Keeps1.fst
      exact h2

theorem adminStart_keeps (x1 : AdminCmd) (hx1 : AdminCmd.Keeps x1) {s : State} (x3 : Nat) (h : Keeps P W s) : Keeps P W (adminStart x1 s x3) := by
  unfold adminStart
  split
  · exact h
  · split
    · apply adminFail_keeps
      exact h
    · apply modJob_keeps
      refine AdminCmd.Keeps.prepare ?_ ?_
      · exact hx1
      · exact h

theorem adminAdvance_keeps (x1 : AdminCmd) (hx1 : AdminCmd.Keeps x1) {s : State} (x3 : Nat) (h : Keeps P W s) : Keeps P W (adminAdvance x1 s x3) := by
  unfold adminAdvance
  split
  · exact h
  · refine Keeps.ite ?_ ?_
    · refine Keeps.ite ?_ ?_
      · refine Keeps.ite ?_ ?_
        · exact h
        · apply adminStage_keeps
          · exact hx1
          · exact h
      · refine Keeps.ite ?_ ?_
        · extract_lets +onlyGivenNames s1
          have h1 : Keeps1 P W s1 := by
            dsimp -zeta only [s1]
            refine AdminCmd.Keeps.follow ?_ ?_
            · exact hx1
            · exact h
          clear_value s1
          apply modJob_keeps
          refine Keeps1.fst ?_
          exact h1
        · refine Keeps.ite ?_ ?_
          · exact h
          · apply adminFinish_keeps
            · exact hx1
            · exact h
    · exact h

theorem adminSettle_keeps (x1 : AdminCmd) (hx1 : AdminCmd.Keeps x1) {s : State} (x3 : Nat) (h : Keeps P W s) : Keeps P W (adminSettle x1 s x3) := by
  unfold adminSettle
  apply adminAdvance_keeps
  · exact hx1
  · apply adminAdvance_keeps
    · exact hx1
    · apply adminAdvance_keeps
      · exact hx1
      · exact h

theorem adminUndo_keeps {s : State} (x2 : Job) (h : Keeps P W s) : Keeps P W (adminUndo s x2) := by
  unfold adminUndo
  split
  · apply withdraw_keeps
    exact h
  · extract_lets +onlyGivenNames s2
    have h2 : Keeps P W s2 := by
      dsimp -zeta only [s2]
      refine Keeps.upd (s := s) ?_ rfl rfl
      exact h
    clear_value s2
    apply modAllot_keeps
    exact h2
  · refine Keeps.upd (s := s) ?_ rfl rfl
    exact h
  · exact h

theorem adminRow_keeps (x1 : AdminCmd) (hx1 : AdminCmd.Keeps x1) (x2 : Job → Bool) (x3 : JobRef) {s : State} (h : Keeps P W s) : Keeps P W (adminRow x1 x2 x3 s) := by
  unfold adminRow
  split
  · refine Keeps.ite ?_ ?_
    · apply adminSettle_keeps
      · exact hx1
      · apply adminStart_keeps
        · exact hx1
        · exact h
    · exact h
  · exact h

theorem execAllotCreate_keeps (x1 : JobRef) {s : State} (h : Keeps P W s) : KeepsO P W (execAllotCreate x1 s) := by
  unfold execAllotCreate
  refine KeepsO.next ?_
  apply adminRow_keeps
  · exact cmdAllotCreate_keeps
  · exact h

theorem execAllotDestroy_keeps (x1 : JobRef) {s : State} (h : Keeps P W s) : KeepsO P W (execAllotDestroy x1 s) := by
  unfold execAllotDestroy
  refine KeepsO.next ?_
  apply adminRow_keeps
  · exact cmdAllotDestroy_keeps
  · exact h

theorem execAllotBind_keeps (x1 : JobRef) {s : State} (h : Keeps P W s) : KeepsO P W (execAllotBind x1 s) := by
  unfold execAllotBind
  refine KeepsO.next ?_
  apply adminRow_keeps
  · exact cmdAllotBind_keeps
  · exact h

theorem execQueueCreate_keeps (x1 : JobRef) {s : State} (h : Keeps P W s) : KeepsO P W (execQueueCreate x1 s) := by
  unfold execQueueCreate
  refine KeepsO.next ?_
  apply adminRow_keeps
  · exact cmdQueueCreate_keeps
  · exact h

theorem execQueueDestroy_keeps (x1 : JobRef) {s : State} (h : Keeps P W s) : KeepsO P W (execQueueDestroy x1 s) := by
  unfold execQueueDestroy
  refine KeepsO.next ?_
  apply adminRow_keeps
  · exact cmdQueueDestroy_keeps
  · exact h

theorem execLeaseSet_keeps (x1 : JobRef) {s : State} (h : Keeps P W s) : KeepsO P W (execLeaseSet x1 s) := by
  unfold execLeaseSet
  refine KeepsO.next ?_
  apply adminRow_keeps
  · exact cmdLeaseSet_keeps
  · exact h

theorem execWindowSet_keeps (x1 : JobRef) {s : State} (h : Keeps P W s) : KeepsO P W (execWindowSet x1 s) := by
  unfold execWindowSet
  refine KeepsO.next ?_
  apply adminRow_keeps
  · exact cmdWindowSet_keeps
  · exact h

theorem execAbortJobs_keeps (x1 : JobRef) {s : State} (h : Keeps P W s) : KeepsO P W (execAbortJobs x1 s) := by
  unfold execAbortJobs
  extract_lets +onlyGivenNames s1
  have h1 : Keeps P W s1 := by
    dsimp -zeta only [s1]
    apply adminRow_keeps
    · exact cmdAbort_keeps
    · exact h
  clear_value s1
  split
  · refine KeepsO.ite ?_ ?_
    · refine KeepsO.next ?_
      apply modJob_keeps
      exact h1
    · refine KeepsO.next ?_
      exact h1
  · refine KeepsO.next ?_
    exact h1

theorem execAbortReservationDetach_keeps (x1 : JobRef) {s : State} (h : Keeps P W s) : KeepsO P W (execAbortReservationDetach x1 s) := by
  unfold execAbortReservationDetach
  split
  · refine KeepsO.ite ?_ ?_
    · extract_lets +onlyGivenNames s1
      have h1 : Keeps P W s1 := by
        dsimp -zeta only [s1]
        refine Keeps.foldl ?_ ?_
        · intro a1 a2 a3
          split
          · refine Keeps.upd (s := a1) ?_ rfl rfl
            exact a3
          · exact a3
        · exact h
      clear_value s1
      refine KeepsO.ite ?_ ?_
      · refine KeepsO.next ?_
        apply removeJob_keeps
        apply releaseEngines_keeps
        exact h1
      · refine KeepsO.next ?_
        apply modJob_keeps
        apply endJob_keeps
        exact h1
    · refine KeepsO.next ?_
      exact h
  · refine KeepsO.next ?_
    exact h

theorem execKeyAdminDestroy_keeps (x1 : JobRef) {s : State} (h : Keeps P W s) : KeepsO P W (execKeyAdminDestroy x1 s) := by
  unfold execKeyAdminDestroy
  refine KeepsO.next ?_
  apply adminRow_keeps
  · exact cmdKeyDestroy_keeps
  · exact h

theorem execKeyAdminDescribe_keeps (x1 : JobRef) {s : State} (h : Keeps P W s) : KeepsO P W (execKeyAdminDescribe x1 s) := by
  unfold execKeyAdminDescribe
  refine KeepsO.next ?_
  apply adminRow_keeps
  · exact cmdKeyDescribe_keeps
  · exact h

theorem execKeyReservationDetach_keeps (x1 : JobRef) {s : State} (h : Keeps P W s) : KeepsO P W (execKeyReservationDetach x1 s) := by
  unfold execKeyReservationDetach
  split
  · extract_lets +onlyGivenNames s1
    refine KeepsO.ite ?_ ?_
    · split
      · refine KeepsO.next ?_
        refine Keeps.upd (s := s) ?_ rfl rfl
        exact h
      · refine KeepsO.next ?_
        exact h
    · refine KeepsO.next ?_
      exact h
  · refine KeepsO.next ?_
    exact h

theorem execCurvePolicy_keeps (x1 : JobRef) {s : State} (h : Keeps P W s) : KeepsO P W (execCurvePolicy x1 s) := by
  unfold execCurvePolicy
  refine KeepsO.next ?_
  apply adminRow_keeps
  · exact cmdCurvePolicy_keeps
  · exact h

theorem execTimeSet_keeps (x1 : JobRef) {s : State} (h : Keeps P W s) : KeepsO P W (execTimeSet x1 s) := by
  unfold execTimeSet
  refine KeepsO.next ?_
  apply adminRow_keeps
  · exact cmdTimeSet_keeps
  · exact h

theorem execPatchStatus_keeps (x1 : JobRef) {s : State} (h : Keeps P W s) : KeepsO P W (execPatchStatus x1 s) := by
  unfold execPatchStatus
  refine KeepsO.next ?_
  apply adminRow_keeps
  · exact cmdPatchStatus_keeps
  · exact h

end Sys2Proof.Machine
end

