-- ==== Sys2Proof/Laws/KeepsJobs.lean ====
section
/-! SUPPORT. The queue and the life-cycle bits are kept by the job families and the Parterre: one lemma for each operation. -/
namespace Sys2Proof.Machine
open Sys2Proof

variable {P : List Instr} {W : List W32}

theorem takeSerial_keeps {s : State} (x2 : Nat) (h : Keeps P W s) : Keeps1 P W (takeSerial s x2) := by
  unfold takeSerial
  refine Keeps1.mk ?_
  apply modAllot_keeps
  exact h

theorem endKeygen_keeps {s : State} (x2 : Nat) (x3 : Job) (x4 : Nat) (x5 : Bool) (x6 : List Byte) (x7 : List Byte) (h : Keeps P W s) : Keeps1 P W (endKeygen s x2 x3 x4 x5 x6 x7) := by
  unfold endKeygen
  extract_lets +onlyGivenNames s1
  extract_lets +onlyGivenNames s2
  refine Keeps1.ite ?_ ?_
  · extract_lets +onlyGivenNames s3
    have h1 : Keeps1 P W s3 := by
      dsimp -zeta only [s3]
      apply takeSerial_keeps
      exact h
    clear_value s3
    refine Keeps1.mk ?_
    refine Keeps1.fst ?_
    exact h1
  · refine Keeps1.mk ?_
    exact h

theorem endSecret_keeps {s : State} (x2 : Nat) (x3 : Job) (x4 : Bool) (x5 : List Byte) (x6 : List Byte) (h : Keeps P W s) : Keeps1 P W (endSecret s x2 x3 x4 x5 x6) := by
  unfold endSecret
  refine Keeps1.ite ?_ ?_
  · refine Keeps1.mk ?_
    exact h
  · refine Keeps1.mk ?_
    exact h

theorem latticeEnding_keeps {s : State} (x2 : Nat) (x3 : Job) (h : Keeps P W s) : Keeps1 P W (latticeEnding s x2 x3) := by
  unfold latticeEnding
  extract_lets +onlyGivenNames s1
  extract_lets +onlyGivenNames s2
  extract_lets +onlyGivenNames s3
  extract_lets +onlyGivenNames s4
  split
  extract_lets +onlyGivenNames s6
  extract_lets +onlyGivenNames s7
  refine Keeps1.ite ?_ ?_
  · apply endKeygen_keeps
    exact h
  · refine Keeps1.ite ?_ ?_
    · refine Keeps1.ite ?_ ?_
      · extract_lets +onlyGivenNames s11
        refine Keeps1.ite ?_ ?_
        · refine Keeps1.mk ?_
          exact h
        · apply endSecret_keeps
          exact h
      · apply endSecret_keeps
        exact h
    · extract_lets +onlyGivenNames s10
      refine Keeps1.ite ?_ ?_
      · refine Keeps1.ite ?_ ?_
        · refine Keeps1.mk ?_
          exact h
        · refine Keeps1.mk ?_
          exact h
      · extract_lets +onlyGivenNames s12
        extract_lets +onlyGivenNames s13
        extract_lets +onlyGivenNames s5
        extract_lets +onlyGivenNames s6
        refine Keeps1.mk ?_
        exact h

theorem slhEnding_keeps {s : State} (x2 : Nat) (x3 : Job) (h : Keeps P W s) : Keeps1 P W (slhEnding s x2 x3) := by
  unfold slhEnding
  extract_lets +onlyGivenNames s1
  extract_lets +onlyGivenNames s2
  extract_lets +onlyGivenNames s3
  split
  refine Keeps1.ite ?_ ?_
  · apply endKeygen_keeps
    exact h
  · extract_lets +onlyGivenNames s4
    extract_lets +onlyGivenNames s5
    refine Keeps1.ite ?_ ?_
    · extract_lets +onlyGivenNames s6
      extract_lets +onlyGivenNames s7
      refine Keeps1.mk ?_
      exact h
    · extract_lets +onlyGivenNames s6
      extract_lets +onlyGivenNames s7
      extract_lets +onlyGivenNames s8
      refine Keeps1.mk ?_
      exact h

theorem statefulEnding_keeps {s : State} (x2 : Nat) (x3 : Job) (h : Keeps P W s) : Keeps1 P W (statefulEnding s x2 x3) := by
  unfold statefulEnding
  extract_lets +onlyGivenNames s1
  extract_lets +onlyGivenNames s2
  extract_lets +onlyGivenNames s3
  split
  · refine Keeps1.mk ?_
    exact h
  · refine Keeps1.ite ?_ ?_
    · extract_lets +onlyGivenNames s4
      extract_lets +onlyGivenNames s5
      refine Keeps1.mk ?_
      exact h
    · refine Keeps1.ite ?_ ?_
      · refine Keeps1.mk ?_
        exact h
      · extract_lets +onlyGivenNames s4
        extract_lets +onlyGivenNames s5
        extract_lets +onlyGivenNames s6
        refine Keeps1.mk ?_
        exact h

theorem modStateful_keeps {s : State} (x2 : Nat) (x3 : Stateful → Stateful) (h : Keeps P W s) : Keeps P W (modStateful s x2 x3) := by
  unfold modStateful
  refine Keeps.upd (s := s) ?_ rfl rfl
  exact h

theorem takeIndex_keeps {s : State} (x2 : Nat) (x3 : Nat) (h : Keeps P W s) : Keeps P W (takeIndex s x2 x3) := by
  unfold takeIndex
  split
  · split
    · extract_lets +onlyGivenNames s1
      extract_lets +onlyGivenNames s2
      extract_lets +onlyGivenNames s3
      extract_lets +onlyGivenNames s4
      extract_lets +onlyGivenNames s5
      extract_lets +onlyGivenNames s6
      extract_lets +onlyGivenNames s7
      have h1 : Keeps P W s7 := by
        dsimp -zeta only [s7]
        refine Keeps.ite ?_ ?_
        · refine Keeps.upd (s := s) ?_ rfl rfl
          exact h
        · exact h
      clear_value s7
      apply modJob_keeps
      apply modStateful_keeps
      exact h1
    · exact h
  · exact h

theorem failReservation_keeps {s : State} (x2 : Nat) (x3 : Status) (h : Keeps P W s) : Keeps P W (failReservation s x2 x3) := by
  unfold failReservation
  split
  · exact h
  · extract_lets +onlyGivenNames s1
    have h1 : Keeps P W s1 := by
      dsimp -zeta only [s1]
      apply modStateful_keeps
      exact h
    clear_value s1
    refine Keeps.foldl ?_ ?_
    · intro a1 a2 a3
      split
      · refine Keeps.ite ?_ ?_
        · apply removeJob_keeps
          apply releaseEngines_keeps
          exact a3
        · apply endJob_keeps
          exact a3
      · exact a3
    · exact h1

theorem openReservation_keeps {s : State} (x2 : Nat) (x3 : List Nat) (h : Keeps P W s) : Keeps P W (openReservation s x2 x3) := by
  unfold openReservation
  split
  · exact h
  · extract_lets +onlyGivenNames s1
    have h1 : Keeps P W s1 := by
      dsimp -zeta only [s1]
      apply modStateful_keeps
      exact h
    clear_value s1
    split
    · apply failReservation_keeps
      exact h1
    · refine Keeps.ite ?_ ?_
      · apply failReservation_keeps
        exact h1
      · extract_lets +onlyGivenNames s2
        extract_lets +onlyGivenNames s3
        extract_lets +onlyGivenNames s4
        extract_lets +onlyGivenNames s5
        extract_lets +onlyGivenNames s6
        have h2 : Keeps1 P W s6 := by
          dsimp -zeta only [s6]
          apply postRecord_keeps
          exact h1
        clear_value s6
        extract_lets +onlyGivenNames s7
        have h3 : Keeps P W s7 := by
          dsimp -zeta only [s7]
          apply modStateful_keeps
          refine Keeps1.fst ?_
          exact h2
        clear_value s7
        extract_lets +onlyGivenNames s8
        have h4 : Keeps P W s8 := by
          dsimp -zeta only [s8]
          refine Keeps.foldl ?_ ?_
          · intro a1 a2 a3
            apply modJob_keeps
            exact a3
          · exact h3
        clear_value s8
        refine Keeps.ite ?_ ?_
        · refine Keeps1.fst ?_
          apply openCommit_keeps
          exact h4
        · exact h4

theorem commitBlock_keeps {s : State} (x2 : Nat) (x3 : Nat) (h : Keeps P W s) : Keeps P W (commitBlock s x2 x3) := by
  unfold commitBlock
  split
  · exact h
  · extract_lets +onlyGivenNames s1
    extract_lets +onlyGivenNames s2
    extract_lets +onlyGivenNames s3
    have h1 : Keeps P W s3 := by
      dsimp -zeta only [s3]
      apply modStateful_keeps
      exact h
    clear_value s3
    extract_lets +onlyGivenNames s4
    have h2 : Keeps P W s4 := by
      dsimp -zeta only [s4]
      refine Keeps.foldl ?_ ?_
      · intro a1 a2 a3
        extract_lets +onlyGivenNames s5
        have h2 : Keeps P W s5 := by
          dsimp -zeta only [s5]
          apply takeIndex_keeps
          exact a3
        clear_value s5
        split
        · refine Keeps.ite ?_ ?_
          · refine Keeps.ite ?_ ?_
            · apply removeJob_keeps
              apply releaseEngines_keeps
              exact h2
            · apply modJob_keeps
              apply endJob_keeps
              exact h2
          · exact h2
        · exact h2
      · exact h1
    clear_value s4
    refine Keeps.ite ?_ ?_
    · exact h2
    · apply openReservation_keeps
      exact h2

theorem joinReservation_keeps {s : State} (x2 : Nat) (x3 : Nat) (h : Keeps P W s) : Keeps P W (joinReservation s x2 x3) := by
  unfold joinReservation
  split
  · exact h
  · split
    · refine Keeps.ite ?_ ?_
      · apply takeIndex_keeps
        exact h
      · apply endJob_keeps
        exact h
    · apply modJob_keeps
      apply modStateful_keeps
      exact h
    · apply openReservation_keeps
      exact h

theorem mcEnding_keeps {s : State} (x2 : Nat) (x3 : Job) (h : Keeps P W s) : Keeps1 P W (mcEnding s x2 x3) := by
  unfold mcEnding
  extract_lets +onlyGivenNames s1
  extract_lets +onlyGivenNames s2
  extract_lets +onlyGivenNames s3
  split
  extract_lets +onlyGivenNames s5
  refine Keeps1.ite ?_ ?_
  · split
    · extract_lets +onlyGivenNames s8
      have h8 : Keeps1 P W s8 := by
        dsimp -zeta only [s8]
        apply endKeygen_keeps
        exact h
      clear_value s8
      split
      · refine Keeps1.mk ?_
        apply Keeps1.fst
        exact h8
      · exact h8
    · refine Keeps1.mk ?_
      exact h
  · refine Keeps1.ite ?_ ?_
    · extract_lets +onlyGivenNames s8
      apply endSecret_keeps
      exact h
    · refine Keeps1.ite ?_ ?_
      · apply endSecret_keeps
        exact h
      · refine Keeps1.mk ?_
        exact h

theorem hqcEnding_keeps {s : State} (x2 : Nat) (x3 : Job) (h : Keeps P W s) : Keeps1 P W (hqcEnding s x2 x3) := by
  unfold hqcEnding
  extract_lets +onlyGivenNames s1
  extract_lets +onlyGivenNames s2
  extract_lets +onlyGivenNames s3
  split
  extract_lets +onlyGivenNames s4
  refine Keeps1.ite ?_ ?_
  · apply endKeygen_keeps
    exact h
  · refine Keeps1.ite ?_ ?_
    · extract_lets +onlyGivenNames s5
      apply endSecret_keeps
      exact h
    · apply endSecret_keeps
      exact h

theorem curveEnding_keeps {s : State} (x2 : Nat) (x3 : Job) (h : Keeps P W s) : Keeps1 P W (curveEnding s x2 x3) := by
  unfold curveEnding
  extract_lets +onlyGivenNames s1
  split
  · extract_lets +onlyGivenNames s3
    extract_lets +onlyGivenNames s4
    extract_lets +onlyGivenNames s5
    refine Keeps1.ite ?_ ?_
    · extract_lets +onlyGivenNames s7
      have h7 : Keeps1 P W s7 := by
        dsimp -zeta only [s7]
        apply endKeygen_keeps
        exact h
      clear_value s7
      refine Keeps1.mk ?_
      apply Keeps1.fst
      exact h7
    · refine Keeps1.ite ?_ ?_
      · extract_lets +onlyGivenNames s8
        refine Keeps1.ite ?_ ?_
        · refine Keeps1.mk ?_
          exact h
        · refine Keeps1.mk ?_
          exact h
      · refine Keeps1.ite ?_ ?_
        · extract_lets +onlyGivenNames s9
          extract_lets +onlyGivenNames s10
          extract_lets +onlyGivenNames s11
          refine Keeps1.mk ?_
          exact h
        · extract_lets +onlyGivenNames s9
          extract_lets +onlyGivenNames s10
          split
          · refine Keeps1.mk ?_
            exact h
          · split
            · refine Keeps1.mk ?_
              exact h
            · apply endSecret_keeps
              exact h
  · refine Keeps1.mk ?_
    exact h

theorem edEnding_keeps {s : State} (x2 : Nat) (x3 : Job) (h : Keeps P W s) : Keeps1 P W (edEnding s x2 x3) := by
  unfold edEnding
  extract_lets +onlyGivenNames s1
  extract_lets +onlyGivenNames s2
  split
  extract_lets +onlyGivenNames s4
  extract_lets +onlyGivenNames s5
  refine Keeps1.ite ?_ ?_
  · extract_lets +onlyGivenNames s7
    apply endKeygen_keeps
    exact h
  · refine Keeps1.ite ?_ ?_
    · refine Keeps1.mk ?_
      exact h
    · refine Keeps1.ite ?_ ?_
      · extract_lets +onlyGivenNames s9
        refine Keeps1.mk ?_
        exact h
      · extract_lets +onlyGivenNames s9
        refine Keeps1.ite ?_ ?_
        · refine Keeps1.mk ?_
          exact h
        · apply endSecret_keeps
          exact h

theorem orangeryFault_keeps {s : State} (x2 : Job) (h : Keeps P W s) : Keeps P W (orangeryFault s x2) := by
  unfold orangeryFault
  apply logEvent_keeps
  exact h

theorem rsaFault_keeps {s : State} (x2 : Job) (x3 : Nat) (h : Keeps P W s) : Keeps1 P W (rsaFault s x2 x3) := by
  unfold rsaFault
  refine Keeps1.mk ?_
  apply orangeryFault_keeps
  exact h

theorem rsaPrivateEnding_keeps {s : State} (x2 : Job) (h : Keeps P W s) : Keeps1 P W (rsaPrivateEnding s x2) := by
  unfold rsaPrivateEnding
  extract_lets +onlyGivenNames s1
  extract_lets +onlyGivenNames s2
  extract_lets +onlyGivenNames s3
  extract_lets +onlyGivenNames s4
  extract_lets +onlyGivenNames s5
  refine Keeps1.ite ?_ ?_
  · extract_lets +onlyGivenNames s7
    extract_lets +onlyGivenNames s8
    extract_lets +onlyGivenNames s9
    refine Keeps1.ite ?_ ?_
    · refine Keeps1.mk ?_
      exact h
    · split
      · refine Keeps1.mk ?_
        exact h
      · refine Keeps1.ite ?_ ?_
        · refine Keeps1.mk ?_
          exact h
        · apply rsaFault_keeps
          exact h
  · refine Keeps1.ite ?_ ?_
    · refine Keeps1.mk ?_
      exact h
    · extract_lets +onlyGivenNames s8
      extract_lets +onlyGivenNames s9
      refine Keeps1.ite ?_ ?_
      · refine Keeps1.mk ?_
        exact h
      · apply rsaFault_keeps
        exact h

theorem rsaPublicEnding_keeps {s : State} (x2 : Job) (h : Keeps P W s) : Keeps1 P W (rsaPublicEnding s x2) := by
  unfold rsaPublicEnding
  extract_lets +onlyGivenNames s1
  extract_lets +onlyGivenNames s2
  extract_lets +onlyGivenNames s3
  extract_lets +onlyGivenNames s4
  extract_lets +onlyGivenNames s5
  extract_lets +onlyGivenNames s6
  extract_lets +onlyGivenNames s7
  extract_lets +onlyGivenNames s8
  extract_lets +onlyGivenNames s9
  refine Keeps1.ite ?_ ?_
  · refine Keeps1.ite ?_ ?_
    · refine Keeps1.mk ?_
      exact h
    · refine Keeps1.mk ?_
      exact h
  · extract_lets +onlyGivenNames s2
    extract_lets +onlyGivenNames s3
    extract_lets +onlyGivenNames s4
    extract_lets +onlyGivenNames s5
    refine Keeps1.mk ?_
    exact h

theorem rsaEnding_keeps {s : State} (x2 : Nat) (x3 : Job) (h : Keeps P W s) : Keeps1 P W (rsaEnding s x2 x3) := by
  unfold rsaEnding
  refine Keeps1.ite ?_ ?_
  · apply rsaPrivateEnding_keeps
    exact h
  · apply rsaPublicEnding_keeps
    exact h

theorem bnEnding_keeps {s : State} (x2 : Nat) (x3 : Job) (h : Keeps P W s) : Keeps1 P W (bnEnding s x2 x3) := by
  unfold bnEnding
  extract_lets +onlyGivenNames s1
  extract_lets +onlyGivenNames s2
  extract_lets +onlyGivenNames s3
  refine Keeps1.ite ?_ ?_
  · refine Keeps1.mk ?_
    exact h
  · extract_lets +onlyGivenNames s4
    extract_lets +onlyGivenNames s5
    extract_lets +onlyGivenNames s6
    extract_lets +onlyGivenNames s7
    clear_value s7
    clear_value s6
    clear_value s5
    clear_value s4
    clear_value s3
    clear_value s2
    clear_value s1
    split
    · refine Keeps1.mk ?_
      exact h
    · refine Keeps1.ite ?_ ?_
      · refine Keeps1.mk ?_
        apply modJob_keeps
        exact h
      · refine Keeps1.mk ?_
        exact h

theorem bnComplete_keeps {s : State} (x2 : Nat) (x3 : Job) (h : Keeps P W s) : Keeps P W (bnComplete s x2 x3) := by
  unfold bnComplete
  extract_lets +onlyGivenNames s1
  refine Keeps.ite ?_ ?_
  · apply modAllot_keeps
    refine Keeps.upd (s := s) ?_ rfl rfl
    exact h
  · refine Keeps.ite ?_ ?_
    · extract_lets +onlyGivenNames s2
      refine Keeps.upd (s := s) ?_ rfl rfl
      exact h
    · exact h

theorem digestDispatch_keeps {s : State} (x2 : Nat) (x3 : Job) (h : Keeps P W s) : Keeps1 P W (digestDispatch s x2 x3) := by
  unfold digestDispatch
  extract_lets +onlyGivenNames s1
  extract_lets +onlyGivenNames s2
  refine Keeps1.ite ?_ ?_
  · refine Keeps1.mk ?_
    exact h
  · extract_lets +onlyGivenNames s3
    have h1 : Keeps P W s3 := by
      dsimp -zeta only [s3]
      refine Keeps.ite ?_ ?_
      · apply modAllot_keeps
        exact h
      · exact h
    clear_value s3
    extract_lets +onlyGivenNames s4
    refine Keeps1.ite ?_ ?_
    · split
      · refine Keeps1.mk ?_
        exact h1
      · refine Keeps1.ite ?_ ?_
        · refine Keeps1.mk ?_
          exact h1
        · refine Keeps1.ite ?_ ?_
          · refine Keeps1.mk ?_
            exact h1
          · refine Keeps1.mk ?_
            apply modJob_keeps
            exact h1
    · refine Keeps1.mk ?_
      exact h1

theorem digestEnding_keeps {s : State} (x2 : Nat) (x3 : Job) (h : Keeps P W s) : Keeps1 P W (digestEnding s x2 x3) := by
  unfold digestEnding
  extract_lets +onlyGivenNames s1
  extract_lets +onlyGivenNames s2
  extract_lets +onlyGivenNames s3
  extract_lets +onlyGivenNames s4
  split
  extract_lets +onlyGivenNames s5
  extract_lets +onlyGivenNames s6
  clear_value s5
  clear_value s4
  clear_value s3
  clear_value s2
  clear_value s1
  split
  · refine Keeps1.ite ?_ ?_
    · refine Keeps1.mk ?_
      dsimp -zeta only [s6]
      apply modJob_keeps
      exact h
    · refine Keeps1.mk ?_
      exact h
  · refine Keeps1.mk ?_
    dsimp -zeta only [s6]
    apply modJob_keeps
    exact h
  · extract_lets +onlyGivenNames s2
    extract_lets +onlyGivenNames s7
    extract_lets +onlyGivenNames s8
    refine Keeps1.mk ?_
    apply modJob_keeps
    exact h
  · refine Keeps1.ite ?_ ?_
    · extract_lets +onlyGivenNames s2
      refine Keeps1.mk ?_
      refine Keeps.upd (s := s) ?_ rfl rfl
      exact h
    · refine Keeps1.mk ?_
      exact h
  · refine Keeps1.ite ?_ ?_
    · refine Keeps1.ite ?_ ?_
      · refine Keeps1.mk ?_
        dsimp -zeta only [s6]
        apply modJob_keeps
        exact h
      · refine Keeps1.mk ?_
        exact h
    · split
      · refine Keeps1.mk ?_
        exact h
      · extract_lets +onlyGivenNames s2
        split
        · refine Keeps1.mk ?_
          exact h
        · refine Keeps1.mk ?_
          dsimp -zeta only [s6]
          apply modJob_keeps
          exact h
  · refine Keeps1.mk ?_
    exact h
  · refine Keeps1.mk ?_
    exact h

theorem digestComplete_keeps {s : State} (x2 : Nat) (x3 : Job) (h : Keeps P W s) : Keeps P W (digestComplete s x2 x3) := by
  unfold digestComplete
  extract_lets +onlyGivenNames s1
  extract_lets +onlyGivenNames s2
  split
  · refine Keeps.upd (s := s) ?_ rfl rfl
    exact h
  · exact h
  · refine Keeps.upd (s := s) ?_ rfl rfl
    exact h
  · refine Keeps.upd (s := s) ?_ rfl rfl
    exact h
  · refine Keeps.ite ?_ ?_
    · exact h
    · extract_lets +onlyGivenNames s3
      refine Keeps.ite ?_ ?_
      · exact h
      · refine Keeps.upd (s := s) ?_ rfl rfl
        exact h

theorem importEnding_keeps {s : State} (x2 : Nat) (x3 : Job) (h : Keeps P W s) : Keeps1 P W (importEnding s x2 x3) := by
  unfold importEnding
  split
  · refine Keeps1.mk ?_
    exact h
  · split
    · refine Keeps1.mk ?_
      exact h
    · refine Keeps1.ite ?_ ?_
      · extract_lets +onlyGivenNames s1
        have h1 : Keeps1 P W s1 := by
          dsimp -zeta only [s1]
          apply takeSerial_keeps
          exact h
        clear_value s1
        refine Keeps1.mk ?_
        refine Keeps1.fst ?_
        exact h1
      · refine Keeps1.mk ?_
        exact h

theorem authImportEnding_keeps {s : State} (x2 : Nat) (x3 : Job) (h : Keeps P W s) : Keeps1 P W (authImportEnding s x2 x3) := by
  unfold authImportEnding
  extract_lets +onlyGivenNames s1
  extract_lets +onlyGivenNames s2
  extract_lets +onlyGivenNames s3
  refine Keeps1.ite ?_ ?_
  · refine Keeps1.mk ?_
    exact h
  · extract_lets +onlyGivenNames s4
    extract_lets +onlyGivenNames s5
    extract_lets +onlyGivenNames s6
    extract_lets +onlyGivenNames s7
    refine Keeps1.ite ?_ ?_
    · refine Keeps1.mk ?_
      exact h
    · split
      · refine Keeps1.mk ?_
        exact h
      · extract_lets +onlyGivenNames s8
        split
        · refine Keeps1.mk ?_
          exact h
        · refine Keeps1.mk ?_
          exact h

theorem takeQuote_keeps {s : State} (x2 : Nat) (h : Keeps P W s) : Keeps P W (takeQuote s x2) := by
  unfold takeQuote
  split
  · extract_lets +onlyGivenNames s1
    have h1 : Keeps P W s1 := by
      dsimp -zeta only [s1]
      apply modJob_keeps
      exact h
    clear_value s1
    refine Keeps.upd (s := s1) ?_ rfl rfl
    exact h1
  · exact h

theorem failQuote_keeps {s : State} (x2 : Status) (h : Keeps P W s) : Keeps P W (failQuote s x2) := by
  unfold failQuote
  extract_lets +onlyGivenNames s1
  refine Keeps.foldl ?_ ?_
  · intro a1 a2 a3
    apply endJob_keeps
    exact a3
  · refine Keeps.upd (s := s) ?_ rfl rfl
    exact h

theorem openQuote_keeps {s : State} (x2 : List Nat) (h : Keeps P W s) : Keeps P W (openQuote s x2) := by
  unfold openQuote
  extract_lets +onlyGivenNames s1
  extract_lets +onlyGivenNames s2
  have h1 : Keeps P W s2 := by
    dsimp -zeta only [s2]
    refine Keeps.upd (s := s) ?_ rfl rfl
    exact h
  clear_value s2
  split
  · apply failQuote_keeps
    exact h1
  · refine Keeps.ite ?_ ?_
    · apply failQuote_keeps
      exact h1
    · extract_lets +onlyGivenNames s3
      extract_lets +onlyGivenNames s4
      extract_lets +onlyGivenNames s5
      have h2 : Keeps1 P W s5 := by
        dsimp -zeta only [s5]
        apply postRecord_keeps
        exact h1
      clear_value s5
      extract_lets +onlyGivenNames s6
      have h3 : Keeps P W s6 := by
        dsimp -zeta only [s6]
        refine Keeps1.fst ?_
        exact h2
      clear_value s6
      extract_lets +onlyGivenNames s7
      extract_lets +onlyGivenNames s8
      have h4 : Keeps P W s8 := by
        dsimp -zeta only [s8]
        refine Keeps.upd (s := s6) ?_ rfl rfl
        exact h3
      clear_value s8
      extract_lets +onlyGivenNames s9
      have h5 : Keeps P W s9 := by
        dsimp -zeta only [s9]
        refine Keeps.foldl ?_ ?_
        · intro a1 a2 a3
          apply modJob_keeps
          exact a3
        · exact h4
      clear_value s9
      refine Keeps.ite ?_ ?_
      · refine Keeps1.fst ?_
        apply openCommit_keeps
        exact h5
      · exact h5

theorem commitQuote_keeps {s : State} (x2 : Nat) (h : Keeps P W s) : Keeps P W (commitQuote s x2) := by
  unfold commitQuote
  extract_lets +onlyGivenNames s1
  extract_lets +onlyGivenNames s2
  extract_lets +onlyGivenNames s3
  have h1 : Keeps P W s3 := by
    dsimp -zeta only [s3]
    refine Keeps.upd (s := s) ?_ rfl rfl
    exact h
  clear_value s3
  extract_lets +onlyGivenNames s4
  have h2 : Keeps P W s4 := by
    dsimp -zeta only [s4]
    refine Keeps.foldl ?_ ?_
    · intro a1 a2 a3
      apply takeQuote_keeps
      exact a3
    · exact h1
  clear_value s4
  refine Keeps.ite ?_ ?_
  · exact h2
  · apply openQuote_keeps
    exact h2

theorem joinQuote_keeps {s : State} (x2 : Nat) (h : Keeps P W s) : Keeps P W (joinQuote s x2) := by
  unfold joinQuote
  split
  · apply takeQuote_keeps
    exact h
  · apply modJob_keeps
    refine Keeps.upd (s := s) ?_ rfl rfl
    exact h
  · apply openQuote_keeps
    exact h

theorem iceEnding_keeps {s : State} (x2 : Nat) (x3 : Job) (h : Keeps P W s) : Keeps1 P W (iceEnding s x2 x3) := by
  unfold iceEnding
  extract_lets +onlyGivenNames s1
  extract_lets +onlyGivenNames s2
  split
  · refine Keeps1.mk ?_
    exact h
  · extract_lets +onlyGivenNames s3
    refine Keeps1.mk ?_
    apply modJob_keeps
    exact h
  · apply importEnding_keeps
    exact h
  · apply authImportEnding_keeps
    exact h
  · extract_lets +onlyGivenNames s3
    refine Keeps1.ite ?_ ?_
    · extract_lets +onlyGivenNames s4
      have h1 : Keeps1 P W s4 := by
        dsimp -zeta only [s4]
        apply takeSerial_keeps
        exact h
      clear_value s4
      refine Keeps1.mk ?_
      refine Keeps1.fst ?_
      exact h1
    · refine Keeps1.mk ?_
      exact h
  · split
    · extract_lets +onlyGivenNames s3
      have h1 : Keeps1 P W s3 := by
        dsimp -zeta only [s3]
        apply takeSerial_keeps
        exact h
      clear_value s3
      refine Keeps1.mk ?_
      refine Keeps1.fst ?_
      exact h1
    · refine Keeps1.mk ?_
      exact h
  · refine Keeps1.mk ?_
    exact h
  · refine Keeps1.mk ?_
    exact h
  · refine Keeps1.mk ?_
    exact h
  · refine Keeps1.mk ?_
    exact h
  · refine Keeps1.mk ?_
    exact h

theorem setPlot_keeps {s : State} (x2 : Nat) (x3 : Plot) (h : Keeps P W s) : Keeps P W (setPlot s x2 x3) := by
  unfold setPlot
  refine Keeps.upd (s := s) ?_ rfl rfl
  exact h

theorem dropPlot_keeps {s : State} (x2 : Nat) (h : Keeps P W s) : Keeps P W (dropPlot s x2) := by
  unfold dropPlot
  refine Keeps.upd (s := s) ?_ rfl rfl
  exact h

theorem putVm_keeps {s : State} (x2 : Nat) (x3 : Vm) (h : Keeps P W s) : Keeps P W (putVm s x2 x3) := by
  unfold putVm
  extract_lets +onlyGivenNames s1
  have h1 : Keeps P W s1 := by
    dsimp -zeta only [s1]
    apply setBody_keeps
    exact h
  clear_value s1
  extract_lets +onlyGivenNames s2
  have h2 : Keeps P W s2 := by
    dsimp -zeta only [s2]
    apply setPlot_keeps
    refine Keeps.upd (s := s1) ?_ rfl rfl
    exact h1
  clear_value s2
  refine Keeps.ite ?_ ?_
  · exact h2
  · refine Keeps.upd (s := s2) ?_ rfl rfl
    exact h2

theorem issueOn_keeps {s : State} (x2 : Nat) (x3 : Op) (h : Keeps P W s) : Keeps P W (issueOn s x2 x3) := by
  unfold issueOn
  extract_lets +onlyGivenNames s1
  split
  · apply putVm_keeps
    exact h
  · exact h

theorem isaRow_keeps (x1 : Nat) (x2 : W32) (x3 : Op) {s : State} (h : Keeps P W s) : KeepsO P W (isaRow x1 x2 x3 s) := by
  unfold isaRow
  refine KeepsO.next ?_
  refine Keeps.ite ?_ ?_
  · apply issueOn_keeps
    exact h
  · exact h

theorem execVsetvl_keeps (x1 : Fin 4) (x2 : BitVec 5) (x3 : BitVec 5) {s : State} (h : Keeps P W s) : KeepsO P W (execVsetvl x1 x2 x3 s) := by
  unfold execVsetvl
  apply isaRow_keeps
  exact h

theorem execVsettype_keeps (x1 : Fin 4) (x2 : BitVec 8) {s : State} (h : Keeps P W s) : KeepsO P W (execVsettype x1 x2 s) := by
  unfold execVsettype
  apply isaRow_keeps
  exact h

theorem execVsetmod_keeps (x1 : Fin 4) (x2 : BitVec 5) {s : State} (h : Keeps P W s) : KeepsO P W (execVsetmod x1 x2 s) := by
  unfold execVsetmod
  apply isaRow_keeps
  exact h

theorem execVlds_keeps (x1 : Fin 4) (x2 : BitVec 5) (x3 : BitVec 5) (x4 : BitVec 5) (x5 : BitVec 3) {s : State} (h : Keeps P W s) : KeepsO P W (execVlds x1 x2 x3 x4 x5 s) := by
  unfold execVlds
  apply isaRow_keeps
  exact h

theorem execVsts_keeps (x1 : Fin 4) (x2 : BitVec 5) (x3 : BitVec 5) (x4 : BitVec 5) (x5 : BitVec 3) {s : State} (h : Keeps P W s) : KeepsO P W (execVsts x1 x2 x3 x4 x5 s) := by
  unfold execVsts
  apply isaRow_keeps
  exact h

theorem execVxfer_keeps (x1 : Fin 4) (x2 : BitVec 5) (x3 : BitVec 5) (x4 : BitVec 5) (x5 : Bool) (x6 : BitVec 8) {s : State} (h : Keeps P W s) : KeepsO P W (execVxfer x1 x2 x3 x4 x5 x6 s) := by
  unfold execVxfer
  apply isaRow_keeps
  exact h

theorem execVadd_keeps (x1 : Fin 4) (x2 : BitVec 5) (x3 : BitVec 5) (x4 : BitVec 5) (x5 : BitVec 3) {s : State} (h : Keeps P W s) : KeepsO P W (execVadd x1 x2 x3 x4 x5 s) := by
  unfold execVadd
  apply isaRow_keeps
  exact h

theorem execVsub_keeps (x1 : Fin 4) (x2 : BitVec 5) (x3 : BitVec 5) (x4 : BitVec 5) (x5 : BitVec 3) {s : State} (h : Keeps P W s) : KeepsO P W (execVsub x1 x2 x3 x4 x5 s) := by
  unfold execVsub
  apply isaRow_keeps
  exact h

theorem execVneg_keeps (x1 : Fin 4) (x2 : BitVec 5) (x3 : BitVec 5) (x4 : BitVec 3) {s : State} (h : Keeps P W s) : KeepsO P W (execVneg x1 x2 x3 x4 s) := by
  unfold execVneg
  apply isaRow_keeps
  exact h

theorem execVred_keeps (x1 : Fin 4) (x2 : BitVec 5) (x3 : BitVec 5) (x4 : BitVec 3) {s : State} (h : Keeps P W s) : KeepsO P W (execVred x1 x2 x3 x4 s) := by
  unfold execVred
  apply isaRow_keeps
  exact h

theorem execVmul_keeps (x1 : Fin 4) (x2 : BitVec 5) (x3 : BitVec 5) (x4 : BitVec 5) (x5 : BitVec 3) {s : State} (h : Keeps P W s) : KeepsO P W (execVmul x1 x2 x3 x4 x5 s) := by
  unfold execVmul
  apply isaRow_keeps
  exact h

theorem execVmac_keeps (x1 : Fin 4) (x2 : BitVec 5) (x3 : BitVec 5) (x4 : BitVec 5) (x5 : BitVec 3) {s : State} (h : Keeps P W s) : KeepsO P W (execVmac x1 x2 x3 x4 x5 s) := by
  unfold execVmac
  apply isaRow_keeps
  exact h

theorem execVmulc_keeps (x1 : Fin 4) (x2 : BitVec 5) (x3 : BitVec 5) (x4 : BitVec 5) (x5 : BitVec 3) {s : State} (h : Keeps P W s) : KeepsO P W (execVmulc x1 x2 x3 x4 x5 s) := by
  unfold execVmulc
  apply isaRow_keeps
  exact h

theorem execVand_keeps (x1 : Fin 4) (x2 : BitVec 5) (x3 : BitVec 5) (x4 : BitVec 5) (x5 : BitVec 3) {s : State} (h : Keeps P W s) : KeepsO P W (execVand x1 x2 x3 x4 x5 s) := by
  unfold execVand
  apply isaRow_keeps
  exact h

theorem execVor_keeps (x1 : Fin 4) (x2 : BitVec 5) (x3 : BitVec 5) (x4 : BitVec 5) (x5 : BitVec 3) {s : State} (h : Keeps P W s) : KeepsO P W (execVor x1 x2 x3 x4 x5 s) := by
  unfold execVor
  apply isaRow_keeps
  exact h

theorem execVxor_keeps (x1 : Fin 4) (x2 : BitVec 5) (x3 : BitVec 5) (x4 : BitVec 5) (x5 : BitVec 3) {s : State} (h : Keeps P W s) : KeepsO P W (execVxor x1 x2 x3 x4 x5 s) := by
  unfold execVxor
  apply isaRow_keeps
  exact h

theorem execVsll_keeps (x1 : Fin 4) (x2 : BitVec 5) (x3 : BitVec 5) (x4 : BitVec 3) (x5 : BitVec 6) {s : State} (h : Keeps P W s) : KeepsO P W (execVsll x1 x2 x3 x4 x5 s) := by
  unfold execVsll
  apply isaRow_keeps
  exact h

theorem execVsrl_keeps (x1 : Fin 4) (x2 : BitVec 5) (x3 : BitVec 5) (x4 : BitVec 3) (x5 : BitVec 6) {s : State} (h : Keeps P W s) : KeepsO P W (execVsrl x1 x2 x3 x4 x5 s) := by
  unfold execVsrl
  apply isaRow_keeps
  exact h

theorem execVsra_keeps (x1 : Fin 4) (x2 : BitVec 5) (x3 : BitVec 5) (x4 : BitVec 3) (x5 : BitVec 6) {s : State} (h : Keeps P W s) : KeepsO P W (execVsra x1 x2 x3 x4 x5 s) := by
  unfold execVsra
  apply isaRow_keeps
  exact h

theorem execVrol_keeps (x1 : Fin 4) (x2 : BitVec 5) (x3 : BitVec 5) (x4 : BitVec 3) (x5 : BitVec 6) {s : State} (h : Keeps P W s) : KeepsO P W (execVrol x1 x2 x3 x4 x5 s) := by
  unfold execVrol
  apply isaRow_keeps
  exact h

theorem execVbflyCt_keeps (x1 : Fin 4) (x2 : BitVec 5) (x3 : BitVec 5) (x4 : BitVec 5) (x5 : BitVec 3) (x6 : Bool) (x7 : BitVec 6) {s : State} (h : Keeps P W s) : KeepsO P W (execVbflyCt x1 x2 x3 x4 x5 x6 x7 s) := by
  unfold execVbflyCt
  apply isaRow_keeps
  exact h

theorem execVbflyGs_keeps (x1 : Fin 4) (x2 : BitVec 5) (x3 : BitVec 5) (x4 : BitVec 5) (x5 : BitVec 3) (x6 : Bool) (x7 : BitVec 6) {s : State} (h : Keeps P W s) : KeepsO P W (execVbflyGs x1 x2 x3 x4 x5 x6 x7 s) := by
  unfold execVbflyGs
  apply isaRow_keeps
  exact h

theorem execVperm_keeps (x1 : Fin 4) (x2 : BitVec 5) (x3 : BitVec 5) (x4 : BitVec 3) (x5 : BitVec 8) {s : State} (h : Keeps P W s) : KeepsO P W (execVperm x1 x2 x3 x4 x5 s) := by
  unfold execVperm
  apply isaRow_keeps
  exact h

theorem execVcmp_keeps (x1 : Fin 4) (x2 : BitVec 5) (x3 : BitVec 5) (x4 : BitVec 5) (x5 : BitVec 8) {s : State} (h : Keeps P W s) : KeepsO P W (execVcmp x1 x2 x3 x4 x5 s) := by
  unfold execVcmp
  apply isaRow_keeps
  exact h

theorem execVcompress_keeps (x1 : Fin 4) (x2 : BitVec 5) (x3 : BitVec 5) (x4 : BitVec 5) (x5 : BitVec 3) {s : State} (h : Keeps P W s) : KeepsO P W (execVcompress x1 x2 x3 x4 x5 s) := by
  unfold execVcompress
  apply isaRow_keeps
  exact h

theorem execVxofInit_keeps (x1 : Fin 4) (x2 : Fin 2) (x3 : Bool) {s : State} (h : Keeps P W s) : KeepsO P W (execVxofInit x1 x2 x3 s) := by
  unfold execVxofInit
  apply isaRow_keeps
  exact h

theorem execVxofAbsorb_keeps (x1 : Fin 4) (x2 : BitVec 5) (x3 : Fin 2) {s : State} (h : Keeps P W s) : KeepsO P W (execVxofAbsorb x1 x2 x3 s) := by
  unfold execVxofAbsorb
  apply isaRow_keeps
  exact h

theorem execVxofFinalise_keeps (x1 : Fin 4) (x2 : Fin 2) {s : State} (h : Keeps P W s) : KeepsO P W (execVxofFinalise x1 x2 s) := by
  unfold execVxofFinalise
  apply isaRow_keeps
  exact h

theorem execVsampu_keeps (x1 : Fin 4) (x2 : BitVec 5) (x3 : Fin 2) (x4 : BitVec 3) {s : State} (h : Keeps P W s) : KeepsO P W (execVsampu x1 x2 x3 x4 s) := by
  unfold execVsampu
  apply isaRow_keeps
  exact h

theorem execVcbd_keeps (x1 : Fin 4) (x2 : BitVec 5) (x3 : Fin 2) (x4 : BitVec 2) {s : State} (h : Keeps P W s) : KeepsO P W (execVcbd x1 x2 x3 x4 s) := by
  unfold execVcbd
  apply isaRow_keeps
  exact h

theorem execVsplit_keeps (x1 : Fin 4) (x2 : BitVec 5) (x3 : BitVec 5) {s : State} (h : Keeps P W s) : KeepsO P W (execVsplit x1 x2 x3 s) := by
  unfold execVsplit
  apply isaRow_keeps
  exact h

theorem execVrefresh_keeps (x1 : Fin 4) (x2 : BitVec 5) (x3 : BitVec 5) {s : State} (h : Keeps P W s) : KeepsO P W (execVrefresh x1 x2 x3 s) := by
  unfold execVrefresh
  apply isaRow_keeps
  exact h

theorem execVunmask_keeps (x1 : Fin 4) (x2 : BitVec 5) (x3 : BitVec 5) (x4 : BitVec 3) {s : State} (h : Keeps P W s) : KeepsO P W (execVunmask x1 x2 x3 x4 s) := by
  unfold execVunmask
  apply isaRow_keeps
  exact h

theorem execVpublish_keeps (x1 : Fin 4) (x2 : BitVec 5) (x3 : BitVec 5) (x4 : BitVec 3) {s : State} (h : Keeps P W s) : KeepsO P W (execVpublish x1 x2 x3 x4 s) := by
  unfold execVpublish
  apply isaRow_keeps
  exact h

theorem execVunmaskM_keeps (x1 : Fin 4) (x2 : BitVec 3) (x3 : BitVec 3) {s : State} (h : Keeps P W s) : KeepsO P W (execVunmaskM x1 x2 x3 s) := by
  unfold execVunmaskM
  apply isaRow_keeps
  exact h

theorem execVpublishM_keeps (x1 : Fin 4) (x2 : BitVec 3) (x3 : BitVec 3) {s : State} (h : Keeps P W s) : KeepsO P W (execVpublishM x1 x2 x3 s) := by
  unfold execVpublishM
  apply isaRow_keeps
  exact h

theorem execVa2b_keeps (x1 : Fin 4) (x2 : BitVec 5) (x3 : BitVec 5) {s : State} (h : Keeps P W s) : KeepsO P W (execVa2b x1 x2 x3 s) := by
  unfold execVa2b
  apply isaRow_keeps
  exact h

theorem execVb2a_keeps (x1 : Fin 4) (x2 : BitVec 5) (x3 : BitVec 5) {s : State} (h : Keeps P W s) : KeepsO P W (execVb2a x1 x2 x3 s) := by
  unfold execVb2a
  apply isaRow_keeps
  exact h

theorem execVmand_keeps (x1 : Fin 4) (x2 : BitVec 5) (x3 : BitVec 5) (x4 : BitVec 5) {s : State} (h : Keeps P W s) : KeepsO P W (execVmand x1 x2 x3 x4 s) := by
  unfold execVmand
  apply isaRow_keeps
  exact h

theorem execVmor_keeps (x1 : Fin 4) (x2 : BitVec 5) (x3 : BitVec 5) (x4 : BitVec 5) {s : State} (h : Keeps P W s) : KeepsO P W (execVmor x1 x2 x3 x4 s) := by
  unfold execVmor
  apply isaRow_keeps
  exact h

theorem execVmeq_keeps (x1 : Fin 4) (x2 : BitVec 3) (x3 : BitVec 5) (x4 : BitVec 5) {s : State} (h : Keeps P W s) : KeepsO P W (execVmeq x1 x2 x3 x4 s) := by
  unfold execVmeq
  apply isaRow_keeps
  exact h

theorem execVmbnd_keeps (x1 : Fin 4) (x2 : BitVec 3) (x3 : BitVec 5) (x4 : BitVec 5) {s : State} (h : Keeps P W s) : KeepsO P W (execVmbnd x1 x2 x3 x4 s) := by
  unfold execVmbnd
  apply isaRow_keeps
  exact h

theorem execVmcomp_keeps (x1 : Fin 4) (x2 : BitVec 5) (x3 : BitVec 5) (x4 : BitVec 5) {s : State} (h : Keeps P W s) : KeepsO P W (execVmcomp x1 x2 x3 x4 s) := by
  unfold execVmcomp
  apply isaRow_keeps
  exact h

theorem execVmdcmp_keeps (x1 : Fin 4) (x2 : BitVec 5) (x3 : BitVec 5) (x4 : BitVec 5) {s : State} (h : Keeps P W s) : KeepsO P W (execVmdcmp x1 x2 x3 x4 s) := by
  unfold execVmdcmp
  apply isaRow_keeps
  exact h

theorem execKload_keeps (x1 : Fin 4) (x2 : BitVec 5) (x3 : BitVec 5) {s : State} (h : Keeps P W s) : KeepsO P W (execKload x1 x2 x3 s) := by
  unfold execKload
  apply isaRow_keeps
  exact h

theorem execSadd_keeps (x1 : Fin 4) (x2 : BitVec 5) (x3 : BitVec 5) (x4 : BitVec 5) {s : State} (h : Keeps P W s) : KeepsO P W (execSadd x1 x2 x3 x4 s) := by
  unfold execSadd
  apply isaRow_keeps
  exact h

theorem execSsub_keeps (x1 : Fin 4) (x2 : BitVec 5) (x3 : BitVec 5) (x4 : BitVec 5) {s : State} (h : Keeps P W s) : KeepsO P W (execSsub x1 x2 x3 x4 s) := by
  unfold execSsub
  apply isaRow_keeps
  exact h

theorem execSand_keeps (x1 : Fin 4) (x2 : BitVec 5) (x3 : BitVec 5) (x4 : BitVec 5) {s : State} (h : Keeps P W s) : KeepsO P W (execSand x1 x2 x3 x4 s) := by
  unfold execSand
  apply isaRow_keeps
  exact h

theorem execSor_keeps (x1 : Fin 4) (x2 : BitVec 5) (x3 : BitVec 5) (x4 : BitVec 5) {s : State} (h : Keeps P W s) : KeepsO P W (execSor x1 x2 x3 x4 s) := by
  unfold execSor
  apply isaRow_keeps
  exact h

theorem execSxor_keeps (x1 : Fin 4) (x2 : BitVec 5) (x3 : BitVec 5) (x4 : BitVec 5) {s : State} (h : Keeps P W s) : KeepsO P W (execSxor x1 x2 x3 x4 s) := by
  unfold execSxor
  apply isaRow_keeps
  exact h

theorem execSsll_keeps (x1 : Fin 4) (x2 : BitVec 5) (x3 : BitVec 5) (x4 : BitVec 5) {s : State} (h : Keeps P W s) : KeepsO P W (execSsll x1 x2 x3 x4 s) := by
  unfold execSsll
  apply isaRow_keeps
  exact h

theorem execSsrl_keeps (x1 : Fin 4) (x2 : BitVec 5) (x3 : BitVec 5) (x4 : BitVec 5) {s : State} (h : Keeps P W s) : KeepsO P W (execSsrl x1 x2 x3 x4 s) := by
  unfold execSsrl
  apply isaRow_keeps
  exact h

theorem execSli_keeps (x1 : Fin 4) (x2 : BitVec 5) (x3 : W16) {s : State} (h : Keeps P W s) : KeepsO P W (execSli x1 x2 x3 s) := by
  unfold execSli
  apply isaRow_keeps
  exact h

theorem execSlih_keeps (x1 : Fin 4) (x2 : BitVec 5) (x3 : W16) {s : State} (h : Keeps P W s) : KeepsO P W (execSlih x1 x2 x3 s) := by
  unfold execSlih
  apply isaRow_keeps
  exact h

theorem execSaddi_keeps (x1 : Fin 4) (x2 : BitVec 5) (x3 : BitVec 5) (x4 : W16) {s : State} (h : Keeps P W s) : KeepsO P W (execSaddi x1 x2 x3 x4 s) := by
  unfold execSaddi
  apply isaRow_keeps
  exact h

theorem execSbne_keeps (x1 : Fin 4) (x2 : BitVec 5) (x3 : BitVec 5) (x4 : BitVec 11) {s : State} (h : Keeps P W s) : KeepsO P W (execSbne x1 x2 x3 x4 s) := by
  unfold execSbne
  apply isaRow_keeps
  exact h

theorem execSbeq_keeps (x1 : Fin 4) (x2 : BitVec 5) (x3 : BitVec 5) (x4 : BitVec 11) {s : State} (h : Keeps P W s) : KeepsO P W (execSbeq x1 x2 x3 x4 s) := by
  unfold execSbeq
  apply isaRow_keeps
  exact h

theorem execCommitSlice_keeps (x1 : Fin 4) {s : State} (h : Keeps P W s) : KeepsO P W (execCommitSlice x1 s) := by
  unfold execCommitSlice
  apply isaRow_keeps
  exact h

theorem execEndRoutine_keeps (x1 : Fin 4) (x2 : BitVec 5) (x3 : BitVec 5) (x4 : BitVec 3) (x5 : BitVec 8) {s : State} (h : Keeps P W s) : KeepsO P W (execEndRoutine x1 x2 x3 x4 x5 s) := by
  unfold execEndRoutine
  apply isaRow_keeps
  exact h

theorem execCallmStartAbsorb_keeps (x1 : Fin 4) (x2 : BitVec 5) (x3 : BitVec 5) (x4 : BitVec 5) (x5 : BitVec 3) (x6 : BitVec 6) {s : State} (h : Keeps P W s) : KeepsO P W (execCallmStartAbsorb x1 x2 x3 x4 x5 x6 s) := by
  unfold execCallmStartAbsorb
  apply isaRow_keeps
  exact h

theorem execCallmAbsorb_keeps (x1 : Fin 4) (x2 : BitVec 5) (x3 : BitVec 5) (x4 : BitVec 5) (x5 : BitVec 3) (x6 : BitVec 6) {s : State} (h : Keeps P W s) : KeepsO P W (execCallmAbsorb x1 x2 x3 x4 x5 x6 s) := by
  unfold execCallmAbsorb
  apply isaRow_keeps
  exact h

theorem execCallmAbsorbFinalise_keeps (x1 : Fin 4) (x2 : BitVec 5) (x3 : BitVec 5) (x4 : BitVec 5) (x5 : BitVec 3) (x6 : BitVec 6) {s : State} (h : Keeps P W s) : KeepsO P W (execCallmAbsorbFinalise x1 x2 x3 x4 x5 x6 s) := by
  unfold execCallmAbsorbFinalise
  apply isaRow_keeps
  exact h

theorem execCallmStartFinalise_keeps (x1 : Fin 4) (x2 : BitVec 5) (x3 : BitVec 5) (x4 : BitVec 5) (x5 : BitVec 3) (x6 : BitVec 6) {s : State} (h : Keeps P W s) : KeepsO P W (execCallmStartFinalise x1 x2 x3 x4 x5 x6 s) := by
  unfold execCallmStartFinalise
  apply isaRow_keeps
  exact h

theorem rejectJob_keeps {s : State} (x2 : Nat) (x3 : Status) (x4 : Nat) (h : Keeps P W s) : Keeps P W (rejectJob s x2 x3 x4) := by
  unfold rejectJob
  split
  · exact h
  · apply modJob_keeps
    apply releaseEngines_keeps
    exact h

theorem rejectWindow_keeps {s : State} (x2 : Nat) (x3 : Nat) (h : Keeps P W s) : Keeps P W (rejectWindow s x2 x3) := by
  unfold rejectWindow
  apply logEvent_keeps
  apply rejectJob_keeps
  exact h

theorem intake_keeps {s : State} (x2 : Nat) (h : Keeps P W s) : Keeps P W (intake s x2) := by
  unfold intake
  split
  · exact h
  · extract_lets +onlyGivenNames s1
    extract_lets +onlyGivenNames s2
    split
    · apply rejectJob_keeps
      exact h
    · apply modJob_keeps
      exact h
    · refine Keeps.ite ?_ ?_
      · apply modJob_keeps
        exact h
      · apply modJob_keeps
        exact h
    · extract_lets +onlyGivenNames s3
      have h1 : Keeps P W s3 := by
        dsimp -zeta only [s3]
        apply modJob_keeps
        exact h
      clear_value s3
      refine Keeps.ite ?_ ?_
      · apply modJob_keeps
        exact h1
      · refine Keeps.ite ?_ ?_
        · apply modJob_keeps
          exact h1
        · apply modJob_keeps
          exact h1

theorem afterWalk_keeps {s : State} (x2 : Nat) (h : Keeps P W s) : Keeps P W (afterWalk s x2) := by
  unfold afterWalk
  split
  · exact h
  · split
    · apply rejectWindow_keeps
      exact h
    · refine Keeps.ite ?_ ?_
      · apply rejectJob_keeps
        exact h
      · apply intake_keeps
        apply modJob_keeps
        exact h

theorem startTable_keeps {s : State} (x2 : Nat) (x3 : W64) (x4 : Nat) (h : Keeps P W s) : Keeps P W (startTable s x2 x3 x4) := by
  unfold startTable
  split
  · exact h
  · split
    · apply rejectWindow_keeps
      exact h
    · refine Keeps.ite ?_ ?_
      · apply afterWalk_keeps
        apply modJob_keeps
        exact h
      · apply modJob_keeps
        exact h

theorem acceptEntry_keeps {s : State} (x2 : Nat) (x3 : Entry) (h : Keeps P W s) : Keeps P W (acceptEntry s x2 x3) := by
  unfold acceptEntry
  extract_lets +onlyGivenNames s1
  extract_lets +onlyGivenNames s2
  extract_lets +onlyGivenNames s3
  extract_lets +onlyGivenNames s4
  have h1 : Keeps P W s4 := by
    dsimp -zeta only [s4]
    refine Keeps.upd (s := s) ?_ rfl rfl
    exact h
  clear_value s4
  extract_lets +onlyGivenNames s5
  have h2 : Keeps P W s5 := by
    dsimp -zeta only [s5]
    apply modAllot_keeps
    exact h1
  clear_value s5
  refine Keeps.ite ?_ ?_
  · apply rejectJob_keeps
    exact h2
  · split
    · apply rejectJob_keeps
      exact h2
    · refine Keeps.ite ?_ ?_
      · apply startTable_keeps
        exact h2
      · apply afterWalk_keeps
        apply modJob_keeps
        exact h2

theorem tableLanded_keeps {s : State} (x2 : Nat) (x3 : Job) (x4 : List Byte) (h : Keeps P W s) : Keeps P W (tableLanded s x2 x3 x4) := by
  unfold tableLanded
  split
  · exact h
  · split
    · apply rejectJob_keeps
      exact h
    · apply startTable_keeps
      apply modJob_keeps
      exact h
    · apply afterWalk_keeps
      apply modJob_keeps
      exact h

theorem fillPlot_keeps {s : State} (x2 : Nat) (h : Keeps P W s) : Keeps P W (fillPlot s x2) := by
  unfold fillPlot
  split
  · refine Keeps.ite ?_ ?_
    · exact h
    · extract_lets +onlyGivenNames s3
      refine Keeps.ite ?_ ?_
      · refine Keeps.upd (s := s) ?_ rfl rfl
        exact h
      · split
        · apply setPlot_keeps
          exact h
        · exact h
  · exact h

theorem openSealed_keeps {s : State} (x2 : Nat) (x3 : Job) (h : Keeps P W s) : Keeps P W (openSealed s x2 x3) := by
  unfold openSealed
  split
  · apply rejectJob_keeps
    exact h
  · split
    · apply rejectJob_keeps
      exact h
    · apply intake_keeps
      apply fillPlot_keeps
      apply modJob_keeps
      exact h

theorem dataLanded_keeps {s : State} (x2 : Nat) (x3 : Job) (x4 : List Byte) (h : Keeps P W s) : Keeps P W (dataLanded s x2 x3 x4) := by
  unfold dataLanded
  extract_lets +onlyGivenNames s1
  extract_lets +onlyGivenNames s2
  have h1 : Keeps P W s2 := by
    dsimp -zeta only [s2]
    apply modJob_keeps
    exact h
  clear_value s2
  refine Keeps.ite ?_ ?_
  · refine Keeps.ite ?_ ?_
    · apply openSealed_keeps
      exact h1
    · exact h1
  · extract_lets +onlyGivenNames s3
    have h2 : Keeps P W s3 := by
      dsimp -zeta only [s3]
      apply fillPlot_keeps
      exact h1
    clear_value s3
    refine Keeps.ite ?_ ?_
    · apply intake_keeps
      exact h2
    · exact h2

theorem dataReturned_keeps {s : State} (x2 : Nat) (x3 : Job) (x4 : List Byte) (h : Keeps P W s) : Keeps P W (dataReturned s x2 x3 x4) := by
  unfold dataReturned
  refine Keeps.ite ?_ ?_
  · extract_lets +onlyGivenNames s2
    refine Keeps.ite ?_ ?_
    · apply modJob_keeps
      exact h
    · apply tableLanded_keeps
      exact h
  · apply dataLanded_keeps
    exact h

theorem execDataReadArrival_keeps (x1 : JobRef) (x2 : List Byte) {s : State} (h : Keeps P W s) : KeepsO P W (execDataReadArrival x1 x2 s) := by
  unfold execDataReadArrival
  extract_lets +onlyGivenNames s1
  extract_lets +onlyGivenNames s2
  refine KeepsO.ite ?_ ?_
  · exact KeepsO.refused
  · split
    · refine KeepsO.next ?_
      exact h
    · refine KeepsO.ite ?_ ?_
      · refine KeepsO.next ?_
        exact h
      · extract_lets +onlyGivenNames s6
        have h6 : Keeps P W s6 := by
          dsimp -zeta only [s6]
          apply takeBytes_keeps
          exact h
        clear_value s6
        refine KeepsO.ite ?_ ?_
        · refine KeepsO.next ?_
          apply issueReads_keeps
          exact h6
        · split
          · refine KeepsO.next ?_
            exact h6
          · refine KeepsO.next ?_
            apply issueReads_keeps
            apply dataReturned_keeps
            exact h6

theorem occupy_keeps {s : State} (x2 : Nat) (x3 : Nat) (x4 : Nat) (h : Keeps P W s) : Keeps P W (occupy s x2 x3 x4) := by
  unfold occupy
  extract_lets +onlyGivenNames s1
  extract_lets +onlyGivenNames s2
  extract_lets +onlyGivenNames s3
  have h3 : Keeps P W s3 := by
    dsimp -zeta only [s3]
    apply setResidence_keeps
    exact h
  clear_value s3
  apply modJob_keeps
  exact h3

theorem placeJob_keeps {s : State} (x2 : Nat) (x3 : Job) (x4 : Nat) (x5 : Nat) (h : Keeps P W s) : Keeps P W (placeJob s x2 x3 x4 x5) := by
  unfold placeJob
  extract_lets +onlyGivenNames s1
  have h1 : Keeps P W s1 := by
    dsimp -zeta only [s1]
    apply occupy_keeps
    exact h
  clear_value s1
  refine Keeps.ite ?_ ?_
  · apply modJob_keeps
    exact h1
  · extract_lets +onlyGivenNames s3
    extract_lets +onlyGivenNames s4
    extract_lets +onlyGivenNames s5
    extract_lets +onlyGivenNames s6
    extract_lets +onlyGivenNames s7
    extract_lets +onlyGivenNames s8
    have h8 : Keeps P W s8 := by
      dsimp -zeta only [s8]
      apply setPlot_keeps
      exact h1
    clear_value s8
    apply intake_keeps
    apply fillPlot_keeps
    apply modJob_keeps
    exact h8

theorem execJobPlacement_keeps (x1 : JobRef) {s : State} (h : Keeps P W s) : KeepsO P W (execJobPlacement x1 s) := by
  unfold execJobPlacement
  extract_lets +onlyGivenNames s1
  split
  · refine KeepsO.next ?_
    exact h
  · extract_lets +onlyGivenNames s3
    split
    · split
      · refine KeepsO.ite ?_ ?_
        · refine KeepsO.next ?_
          apply issueReads_keeps
          apply placeJob_keeps
          exact h
        · refine KeepsO.next ?_
          exact h
      · refine KeepsO.next ?_
        exact h
    · refine KeepsO.next ?_
      exact h

end Sys2Proof.Machine
end

