-- ==== Sys2Proof/Laws/KeepsGate.lean ====
section
/-! SUPPORT. The queue and the life-cycle bits are kept by the Gatehouse and the Fountain: one lemma for each operation. -/
namespace Sys2Proof.Machine
open Sys2Proof

variable {P : List Instr} {W : List W32}

theorem modSource_keeps {s : State} (x2 : Nat) (x3 : Source → Source) (h : Keeps P W s) : Keeps P W (modSource s x2 x3) := by
  unfold modSource
  refine Keeps.upd (s := s) ?_ rfl rfl
  exact h

theorem raiseFlag_keeps {s : State} (x2 : Nat) (x3 : Bool) (h : Keeps P W s) : Keeps P W (raiseFlag s x2 x3) := by
  unfold raiseFlag
  refine Keeps.upd (s := s) ?_ rfl rfl
  exact h

theorem linkRing_keeps {s : State} (x2 : W16) (x3 : Nat) (h : Keeps P W s) : Keeps P W (linkRing s x2 x3) := by
  unfold linkRing
  split
  · refine Keeps.upd (s := s) ?_ rfl rfl
    exact h
  · exact h

theorem ringPut_keeps {s : State} (x2 : RingEntry) (h : Keeps P W s) : Keeps P W (ringPut s x2) := by
  unfold ringPut
  extract_lets +onlyGivenNames s1
  extract_lets +onlyGivenNames s2
  have h2 : Keeps P W s2 := by
    dsimp -zeta only [s2]
    refine Keeps.upd (s := s) ?_ rfl rfl
    exact h
  clear_value s2
  refine Keeps.ite ?_ ?_
  · apply linkRing_keeps
    apply logEventAt_keeps
    exact h2
  · exact h2

theorem triggerResponse_keeps {s : State} (x2 : Nat) (x3 : Nat) (x4 : Bool) (h : Keeps P W s) : Keeps P W (triggerResponse s x2 x3 x4) := by
  unfold triggerResponse
  refine Keeps.upd (s := s) ?_ rfl rfl
  exact h

theorem hardEvent_keeps {s : State} (x2 : Nat) (x3 : W32) (x4 : W32) (h : Keeps P W s) : Keeps P W (hardEvent s x2 x3 x4) := by
  unfold hardEvent
  refine Keeps.ite ?_ ?_
  · exact h
  · extract_lets +onlyGivenNames s2
    have h2 : Keeps P W s2 := by
      dsimp -zeta only [s2]
      apply tzErase_keeps
      exact h
    clear_value s2
    extract_lets +onlyGivenNames s3
    have h3 : Keeps P W s3 := by
      dsimp -zeta only [s3]
      apply modSource_keeps
      exact h2
    clear_value s3
    extract_lets +onlyGivenNames s4
    have h4 : Keeps P W s4 := by
      dsimp -zeta only [s4]
      apply ringPut_keeps
      apply raiseFlag_keeps
      apply tamperNotice_keeps
      exact h3
    clear_value s4
    apply triggerResponse_keeps
    refine Keeps.upd (s := s4) ?_ rfl rfl
    exact h4

theorem softEvent_keeps {s : State} (x2 : Nat) (x3 : W32) (x4 : W32) (h : Keeps P W s) : Keeps P W (softEvent s x2 x3 x4) := by
  unfold softEvent
  extract_lets +onlyGivenNames s1
  refine Keeps.ite ?_ ?_
  · exact h
  · extract_lets +onlyGivenNames s2
    extract_lets +onlyGivenNames s3
    have h1 : Keeps P W s3 := by
      dsimp -zeta only [s3]
      apply modSource_keeps
      exact h
    clear_value s3
    refine Keeps.ite ?_ ?_
    · apply triggerResponse_keeps
      exact h1
    · exact h1

theorem consistencyEvent_keeps {s : State} (h : Keeps P W s) : Keeps P W (consistencyEvent s) := by
  unfold consistencyEvent
  extract_lets +onlyGivenNames s1
  have h1 : Keeps P W s1 := by
    dsimp -zeta only [s1]
    apply softEvent_keeps
    exact h
  clear_value s1
  extract_lets +onlyGivenNames s2
  extract_lets +onlyGivenNames s3
  have h2 : Keeps P W s3 := by
    dsimp -zeta only [s3]
    apply modSource_keeps
    exact h1
  clear_value s3
  refine Keeps.ite ?_ ?_
  · apply hardEvent_keeps
    exact h2
  · exact h2

theorem offAlarm_keeps {s : State} (x2 : Nat) (h : Keeps P W s) : Keeps P W (offAlarm s x2) := by
  unfold offAlarm
  refine Keeps.ite ?_ ?_
  · exact h
  · extract_lets +onlyGivenNames s1
    extract_lets +onlyGivenNames s2
    have h1 : Keeps P W s2 := by
      dsimp -zeta only [s2]
      apply raiseFlag_keeps
      refine Keeps.upd (s := s) ?_ rfl rfl
      exact h
    clear_value s2
    refine Keeps.upd (s := s2) ?_ rfl rfl
    exact h1

theorem abandonRunning_keeps {s : State} (h : Keeps P W s) : Keeps P W (abandonRunning s) := by
  unfold abandonRunning
  extract_lets +onlyGivenNames s1
  refine Keeps.upd (s := s) ?_ rfl rfl
  exact h

theorem quiesceDevice_keeps {s : State} (h : Keeps P W s) : Keeps P W (quiesceDevice s) := by
  unfold quiesceDevice
  extract_lets +onlyGivenNames s1
  have h1 : Keeps P W s1 := by
    dsimp -zeta only [s1]
    apply abandonRunning_keeps
    exact h
  clear_value s1
  refine Keeps.upd (s := s1) ?_ rfl rfl
  exact h1

theorem recordResponse_keeps (x1 : Nat) {s : State} (x3 : Response) (h : Keeps P W s) : Keeps P W (recordResponse x1 s x3) := by
  unfold recordResponse
  extract_lets +onlyGivenNames s1
  extract_lets +onlyGivenNames s2
  extract_lets +onlyGivenNames s3
  have h3 : Keeps P W s3 := by
    dsimp -zeta only [s3]
    apply raiseFlag_keeps
    exact h
  clear_value s3
  extract_lets +onlyGivenNames s4
  have h4 : Keeps P W s4 := by
    dsimp -zeta only [s4]
    refine Keeps.ite ?_ ?_
    · exact h3
    · apply ringPut_keeps
      exact h3
  clear_value s4
  extract_lets +onlyGivenNames s5
  have h5 : Keeps P W s5 := by
    dsimp -zeta only [s5]
    apply logEventAt_keeps
    exact h4
  clear_value s5
  extract_lets +onlyGivenNames s6
  have h6 : Keeps P W s6 := by
    dsimp -zeta only [s6]
    apply linkRing_keeps
    exact h5
  clear_value s6
  refine Keeps.ite ?_ ?_
  · extract_lets +onlyGivenNames s8
    extract_lets +onlyGivenNames s9
    have h9 : Keeps P W s9 := by
      dsimp -zeta only [s9]
      refine Keeps.upd (s := s6) ?_ rfl rfl
      exact h6
    clear_value s9
    refine Keeps.ite ?_ ?_
    · exact h9
    · apply tamperNotice_keeps
      exact h9
  · exact h6

theorem zeroiseAllotment_keeps {s : State} (x2 : Nat) (h : Keeps P W s) : Keeps P W (zeroiseAllotment s x2) := by
  unfold zeroiseAllotment
  extract_lets +onlyGivenNames s1
  have h1 : Keeps P W s1 := by
    dsimp -zeta only [s1]
    refine Keeps.foldl (fun s2 x2 h2 => ?_) ?_
    · apply modJob_keeps
      apply endJob_keeps
      exact h2
    · exact h
  clear_value s1
  refine Keeps.foldl (fun s2 x2 h2 => ?_) ?_
  · apply dropDescriptorRead_keeps
    exact h2
  · exact h1

theorem volatileClear_keeps {s : State} (h : Keeps P W s) : Keeps P W (volatileClear s) := by
  unfold volatileClear
  extract_lets +onlyGivenNames s1
  have h1 : Keeps P W s1 := by
    dsimp -zeta only [s1]
    apply clearVolatile_keeps
    exact h
  clear_value s1
  refine Keeps.upd (s := s1) ?_ rfl rfl
  exact h1

theorem zeroiseSession_keeps {s : State} (h : Keeps P W s) : Keeps P W (zeroiseSession s) := by
  unfold zeroiseSession
  extract_lets +onlyGivenNames s1
  have h1 : Keeps P W s1 := by
    dsimp -zeta only [s1]
    apply volatileClear_keeps
    refine Keeps.foldl ?_ ?_
    · intro a1 a2 a3
      apply zeroiseAllotment_keeps
      exact a3
    · exact h
  clear_value s1
  refine Keeps.upd (s := s1) ?_ rfl rfl
  exact h1

theorem endOfLife_keeps {s : State} (h : Keeps P W s) : Keeps P W (endOfLife s) := by
  refine fullReset_keeps _ _ ((flushNotices_keeps h).bits rfl ?_)
  intro w b hw hb
  have : w = 0 ∨ w = 1 ∨ w = 2 ∨ w = 3 := by omega
  have hlt := BitVec.lt_of_getLsbD hb
  have ones : ∀ n : Fin 32, (0xFFFFFFFF : W32).getLsbD n.val = true := by decide
  rcases this with rfl | rfl | rfl | rfl <;> exact ones ⟨b, hlt⟩

theorem eolSettle_keeps {s : State} (h : Keeps P W s) : Keeps P W (eolSettle s) := by
  unfold eolSettle
  refine Keeps.ite ?_ ?_
  · apply endOfLife_keeps
    exact h
  · exact h

theorem eolBegin_keeps {s : State} (h : Keeps P W s) : Keeps P W (eolBegin s) := by
  unfold eolBegin
  refine Keeps.ite ?_ ?_
  · extract_lets +onlyGivenNames s1
    extract_lets +onlyGivenNames s2
    have h1 : Keeps1 P W s2 := by
      dsimp -zeta only [s2]
      apply postRecord_keeps
      exact h
    clear_value s2
    extract_lets +onlyGivenNames s3
    have h2 : Keeps P W s3 := by
      dsimp -zeta only [s3]
      refine Keeps1.fst ?_
      exact h1
    clear_value s3
    refine Keeps.upd (s := s3) ?_ rfl rfl
    exact h2
  · apply endOfLife_keeps
    exact h

theorem respond_keeps {s : State} (h : Keeps P W s) : Keeps P W (respond s) := by
  unfold respond
  extract_lets +onlyGivenNames s1
  refine Keeps.ite ?_ ?_
  · exact h
  · extract_lets +onlyGivenNames s3
    extract_lets +onlyGivenNames s4
    extract_lets +onlyGivenNames s5
    extract_lets +onlyGivenNames s6
    have h6 : Keeps P W s6 := by
      dsimp -zeta only [s6]
      refine Keeps.upd (s := s) ?_ rfl rfl
      exact h
    clear_value s6
    extract_lets +onlyGivenNames s7
    have h7 : Keeps P W s7 := by
      dsimp -zeta only [s7]
      refine Keeps.ite ?_ ?_
      · apply tzErase_keeps
        exact h6
      · exact h6
    clear_value s7
    extract_lets +onlyGivenNames s8
    have h8 : Keeps P W s8 := by
      dsimp -zeta only [s8]
      refine Keeps.foldl (fun s18 x18 h18 => ?_) ?_
      · apply recordResponse_keeps
        exact h18
      · exact h7
    clear_value s8
    extract_lets +onlyGivenNames s9
    have h9 : Keeps P W s9 := by
      dsimp -zeta only [s9]
      refine Keeps.ite ?_ ?_
      · apply quiesceDevice_keeps
        exact h8
      · exact h8
    clear_value s9
    refine Keeps.ite ?_ ?_
    · exact h9
    · refine Keeps.ite ?_ ?_
      · apply zeroiseSession_keeps
        exact h9
      · refine Keeps.ite ?_ ?_
        · apply fullReset_keeps
          apply flushNotices_keeps
          exact h9
        · refine Keeps.ite ?_ ?_
          · apply eolBegin_keeps
            exact h9
          · exact h9

theorem tamperConfigRecords_keeps {s : State} (x2 : Job) (h : Keeps P W s) : Keeps1 P W (tamperConfigRecords s x2) := by
  unfold tamperConfigRecords
  extract_lets +onlyGivenNames s1
  have h1 : Keeps1 P W s1 := by
    dsimp -zeta only [s1]
    apply adminRecord_keeps
    exact h
  clear_value s1
  refine Keeps1.foldl ?_ ?_
  · intro a1 a2 a3
    extract_lets +onlyGivenNames s2
    have h2 : Keeps1 P W s2 := by
      dsimp -zeta only [s2]
      apply adminRecord_keeps
      refine Keeps1.fst ?_
      exact a3
    clear_value s2
    refine Keeps1.mk ?_
    refine Keeps1.fst ?_
    exact h2
  · exact h1

theorem tamperConfigApply_keeps {s : State} (x2 : Nat) (x3 : Job) (h : Keeps P W s) : Keeps1 P W (tamperConfigApply s x2 x3) := by
  unfold tamperConfigApply
  refine Keeps1.mk ?_
  refine Keeps.upd (s := s) ?_ rfl rfl
  exact h

theorem cmdTamperConfig_keeps : AdminCmd.Keeps (cmdTamperConfig) := by
  refine ⟨?_, ?_, ?_, ?_⟩
  · intro P W s j h
    dsimp -zeta only [cmdTamperConfig]
    exact h
  · intro P W s j h
    dsimp -zeta only [cmdTamperConfig]
    apply tamperConfigRecords_keeps
    exact h
  · intro P W s j h
    dsimp -zeta only [cmdTamperConfig]
    refine Keeps1.mk ?_
    exact h
  · intro P W s k j h
    dsimp -zeta only [cmdTamperConfig]
    apply tamperConfigApply_keeps
    exact h

theorem tamperClearRecords_keeps {s : State} (x2 : Job) (h : Keeps P W s) : Keeps1 P W (tamperClearRecords s x2) := by
  unfold tamperClearRecords
  apply adminRecord_keeps
  exact h

theorem tamperClearApply_keeps {s : State} (x2 : Nat) (x3 : Job) (h : Keeps P W s) : Keeps1 P W (tamperClearApply s x2 x3) := by
  unfold tamperClearApply
  extract_lets +onlyGivenNames s1
  extract_lets +onlyGivenNames s2
  extract_lets +onlyGivenNames s3
  extract_lets +onlyGivenNames s4
  extract_lets +onlyGivenNames s5
  have h5 : Keeps P W s5 := by
    dsimp -zeta only [s5]
    refine Keeps.upd (s := s) ?_ rfl rfl
    exact h
  clear_value s5
  extract_lets +onlyGivenNames s6
  have h6 : Keeps P W s6 := by
    dsimp -zeta only [s6]
    apply ringPut_keeps
    exact h5
  clear_value s6
  refine Keeps1.mk ?_
  exact h6

theorem cmdTamperClear_keeps : AdminCmd.Keeps (cmdTamperClear) := by
  refine ⟨?_, ?_, ?_, ?_⟩
  · intro P W s j h
    dsimp -zeta only [cmdTamperClear]
    exact h
  · intro P W s j h
    dsimp -zeta only [cmdTamperClear]
    apply tamperClearRecords_keeps
    exact h
  · intro P W s j h
    dsimp -zeta only [cmdTamperClear]
    refine Keeps1.mk ?_
    exact h
  · intro P W s k j h
    dsimp -zeta only [cmdTamperClear]
    apply tamperClearApply_keeps
    exact h

theorem execTamperConfig_keeps (x1 : JobRef) {s : State} (h : Keeps P W s) : KeepsO P W (execTamperConfig x1 s) := by
  unfold execTamperConfig
  refine KeepsO.next ?_
  apply adminRow_keeps
  · exact cmdTamperConfig_keeps
  · exact h

theorem execTamperClear_keeps (x1 : JobRef) {s : State} (h : Keeps P W s) : KeepsO P W (execTamperClear x1 s) := by
  unfold execTamperClear
  refine KeepsO.next ?_
  apply adminRow_keeps
  · exact cmdTamperClear_keeps
  · exact h

theorem execHardEvent_keeps (x1 : Fin 16) (x2 : W32) (x3 : W32) {s : State} (h : Keeps P W s) : KeepsO P W (execHardEvent x1 x2 x3 s) := by
  unfold execHardEvent
  refine KeepsO.next ?_
  refine Keeps.ite ?_ ?_
  · apply hardEvent_keeps
    exact h
  · exact h

theorem execSoftEvent_keeps (x1 : Fin 16) (x2 : W32) (x3 : W32) {s : State} (h : Keeps P W s) : KeepsO P W (execSoftEvent x1 x2 x3 s) := by
  unfold execSoftEvent
  extract_lets +onlyGivenNames s1
  refine KeepsO.next ?_
  refine Keeps.ite ?_ ?_
  · exact h
  · refine Keeps.ite ?_ ?_
    · apply consistencyEvent_keeps
      exact h
    · apply softEvent_keeps
      exact h

theorem execExcursionEnd_keeps (x1 : Fin 16) {s : State} (h : Keeps P W s) : KeepsO P W (execExcursionEnd x1 s) := by
  unfold execExcursionEnd
  extract_lets +onlyGivenNames s1
  have h1 : Keeps P W s1 := by
    dsimp -zeta only [s1]
    apply modSource_keeps
    exact h
  clear_value s1
  refine KeepsO.next ?_
  refine Keeps.upd (s := s1) ?_ rfl rfl
  exact h1

theorem execRateWindowEnd_keeps (x1 : Fin 16) {s : State} (h : Keeps P W s) : KeepsO P W (execRateWindowEnd x1 s) := by
  unfold execRateWindowEnd
  refine KeepsO.next ?_
  apply modSource_keeps
  exact h

theorem execDetectorDisagreement_keeps (x1 : Fin 16) {s : State} (h : Keeps P W s) : KeepsO P W (execDetectorDisagreement x1 s) := by
  unfold execDetectorDisagreement
  refine KeepsO.next ?_
  refine Keeps.ite ?_ ?_
  · apply consistencyEvent_keeps
    apply modSource_keeps
    exact h
  · exact h

theorem execTamperResponse_keeps {s : State} (h : Keeps P W s) : KeepsO P W (execTamperResponse s) := by
  unfold execTamperResponse
  refine KeepsO.next ?_
  apply respond_keeps
  exact h

theorem execQuiesceEnd_keeps {s : State} (h : Keeps P W s) : KeepsO P W (execQuiesceEnd s) := by
  unfold execQuiesceEnd
  refine KeepsO.next ?_
  refine Keeps.ite ?_ ?_
  · refine Keeps.upd (s := s) ?_ rfl rfl
    exact h
  · exact h

theorem alertWrite_keeps {s : State} (x2 : W32) (h : Keeps P W s) : Keeps P W (alertWrite s x2) := by
  unfold alertWrite
  refine Keeps.upd (s := s) ?_ rfl rfl
  exact h

theorem execGhAlertClear_keeps (x1 : W32) {s : State} (h : Keeps P W s) : KeepsO P W (execGhAlertClear x1 s) := by
  unfold execGhAlertClear
  refine KeepsO.next ?_
  refine Keeps.ite ?_ ?_
  · apply alertWrite_keeps
    exact h
  · exact h

theorem execLodgeAlarmWhileOff_keeps (x1 : Fin 16) {s : State} (h : Keeps P W s) : KeepsO P W (execLodgeAlarmWhileOff x1 s) := by
  unfold execLodgeAlarmWhileOff
  refine KeepsO.next ?_
  refine Keeps.ite ?_ ?_
  · apply offAlarm_keeps
    exact h
  · exact h

theorem execBatteryInsertion_keeps {s : State} (h : Keeps P W s) : KeepsO P W (execBatteryInsertion s) := by
  unfold execBatteryInsertion
  refine KeepsO.next ?_
  refine Keeps.upd (s := s) ?_ rfl rfl
  exact h

theorem execBatteryRemoval_keeps {s : State} (h : Keeps P W s) : KeepsO P W (execBatteryRemoval s) := by
  unfold execBatteryRemoval
  refine KeepsO.ite ?_ ?_
  · extract_lets +onlyGivenNames s1
    extract_lets +onlyGivenNames s2
    have h1 : Keeps P W s2 := by
      dsimp -zeta only [s2]
      refine Keeps.upd (s := s) ?_ rfl rfl
      exact h
    clear_value s2
    refine KeepsO.next ?_
    refine Keeps.ite ?_ ?_
    · apply hardEvent_keeps
      exact h1
    · exact h1
  · extract_lets +onlyGivenNames s1
    extract_lets +onlyGivenNames s2
    have h1 : Keeps P W s2 := by
      dsimp -zeta only [s2]
      refine Keeps.upd (s := s) ?_ rfl rfl
      exact h
    clear_value s2
    refine KeepsO.next ?_
    apply offAlarm_keeps
    exact h1

theorem sampleRun_keeps {s : State} (x2 : Nat) (x3 : Nat) (x4 : Bool) (h : Keeps P W s) : Keeps1 P W (sampleRun s x2 x3 x4) := by
  unfold sampleRun
  extract_lets +onlyGivenNames s1
  refine Keeps1.mk ?_
  refine Keeps.upd (s := s) ?_ rfl rfl
  exact h

theorem lodgeHard_keeps {s : State} (x2 : Nat) (x3 : W32) (h : Keeps P W s) : Keeps P W (lodgeHard s x2 x3) := by
  unfold lodgeHard
  refine Keeps.ite ?_ ?_
  · apply hardEvent_keeps
    exact h
  · refine Keeps.ite ?_ ?_
    · apply offAlarm_keeps
      exact h
    · exact h

theorem lodgeSample_keeps (x1 : Nat) (x2 : Nat) {s : State} (x4 : Nat) (x5 : Bool) (h : Keeps P W s) : Keeps P W (lodgeSample x1 x2 s x4 x5) := by
  unfold lodgeSample
  extract_lets +onlyGivenNames s1
  have h1 : Keeps1 P W s1 := by
    dsimp -zeta only [s1]
    apply sampleRun_keeps
    exact h
  clear_value s1
  refine Keeps.ite ?_ ?_
  · apply lodgeHard_keeps
    refine Keeps1.fst ?_
    exact h1
  · refine Keeps.ite ?_ ?_
    · apply softEvent_keeps
      refine Keeps1.fst ?_
      exact h1
    · refine Keeps1.fst ?_
      exact h1

theorem vbatSample_keeps {s : State} (x2 : W16) (h : Keeps P W s) : Keeps P W (vbatSample s x2) := by
  unfold vbatSample
  extract_lets +onlyGivenNames s1
  have h1 : Keeps P W s1 := by
    dsimp -zeta only [s1]
    refine Keeps.ite ?_ ?_
    · apply modSource_keeps
      exact h
    · exact h
  clear_value s1
  extract_lets +onlyGivenNames s2
  have h2 : Keeps1 P W s2 := by
    dsimp -zeta only [s2]
    apply sampleRun_keeps
    exact h1
  clear_value s2
  extract_lets +onlyGivenNames s3
  have h3 : Keeps P W s3 := by
    dsimp -zeta only [s3]
    refine Keeps.ite ?_ ?_
    · apply lodgeHard_keeps
      apply Keeps1.fst
      exact h2
    · apply Keeps1.fst
      exact h2
  clear_value s3
  refine Keeps.ite ?_ ?_
  · apply softEvent_keeps
    exact h3
  · exact h3

theorem execLpoCycle_keeps (x1 : BitVec 4) (x2 : BitVec 2) (x3 : W16) {s : State} (h : Keeps P W s) : KeepsO P W (execLpoCycle x1 x2 x3 s) := by
  unfold execLpoCycle
  refine KeepsO.ite ?_ ?_
  · extract_lets +onlyGivenNames s1
    extract_lets +onlyGivenNames s2
    have h1 : Keeps P W s2 := by
      dsimp -zeta only [s2]
      refine Keeps.upd (s := s) ?_ rfl rfl
      exact h
    clear_value s2
    extract_lets +onlyGivenNames s3
    have h2 : Keeps P W s3 := by
      dsimp -zeta only [s3]
      refine Keeps.foldl ?_ ?_
      · intro a1 a2 a3
        apply lodgeSample_keeps
        exact a3
      · exact h1
    clear_value s3
    extract_lets +onlyGivenNames s4
    have h3 : Keeps P W s4 := by
      dsimp -zeta only [s4]
      refine Keeps.foldl ?_ ?_
      · intro a1 a2 a3
        apply lodgeSample_keeps
        exact a3
      · exact h2
    clear_value s4
    refine KeepsO.next ?_
    apply vbatSample_keeps
    exact h3
  · refine KeepsO.next ?_
    exact h

theorem modCell_keeps {s : State} (x2 : Nat) (x3 : Cell → Cell) (h : Keeps P W s) : Keeps P W (modCell s x2 x3) := by
  unfold modCell
  refine Keeps.upd (s := s) ?_ rfl rfl
  exact h

theorem logFountain_keeps {s : State} (x2 : Nat) (x3 : W16) (x4 : List Byte) (h : Keeps P W s) : Keeps P W (logFountain s x2 x3 x4) := by
  unfold logFountain
  apply logEvent_keeps
  exact h

theorem startFountain_keeps {s : State} (h : Keeps P W s) : Keeps P W (startFountain s) := by
  unfold startFountain
  extract_lets +onlyGivenNames s1
  refine Keeps.upd (s := s) ?_ rfl rfl
  exact h

theorem judgeSupply_keeps {s : State} (h : Keeps P W s) : Keeps P W (judgeSupply s) := by
  unfold judgeSupply
  extract_lets +onlyGivenNames s1
  refine Keeps.ite ?_ ?_
  · extract_lets +onlyGivenNames s2
    have h1 : Keeps P W s2 := by
      dsimp -zeta only [s2]
      refine Keeps.upd (s := s) ?_ rfl rfl
      exact h
    clear_value s2
    apply logFountain_keeps
    exact h1
  · refine Keeps.ite ?_ ?_
    · apply logFountain_keeps
      refine Keeps.upd (s := s) ?_ rfl rfl
      exact h
    · exact h

theorem quarantineCell_keeps {s : State} (x2 : Nat) (x3 : Nat) (x4 : Nat) (h : Keeps P W s) : Keeps P W (quarantineCell s x2 x3 x4) := by
  unfold quarantineCell
  extract_lets +onlyGivenNames s1
  have h1 : Keeps P W s1 := by
    dsimp -zeta only [s1]
    apply modCell_keeps
    exact h
  clear_value s1
  extract_lets +onlyGivenNames s2
  have h2 : Keeps P W s2 := by
    dsimp -zeta only [s2]
    apply logFountain_keeps
    exact h1
  clear_value s2
  apply judgeSupply_keeps
  exact h2

theorem acceptWindow_keeps {s : State} (x2 : Nat) (h : Keeps P W s) : Keeps P W (acceptWindow s x2) := by
  unfold acceptWindow
  refine Keeps.ite ?_ ?_
  · exact h
  · apply modCell_keeps
    exact h

theorem restoreCell_keeps {s : State} (x2 : Nat) (x3 : Nat) (h : Keeps P W s) : Keeps P W (restoreCell s x2 x3) := by
  unfold restoreCell
  extract_lets +onlyGivenNames s1
  extract_lets +onlyGivenNames s2
  have h2 : Keeps P W s2 := by
    dsimp -zeta only [s2]
    apply modCell_keeps
    exact h
  clear_value s2
  extract_lets +onlyGivenNames s3
  have h3 : Keeps P W s3 := by
    dsimp -zeta only [s3]
    apply logFountain_keeps
    exact h2
  clear_value s3
  extract_lets +onlyGivenNames s4
  have h4 : Keeps P W s4 := by
    dsimp -zeta only [s4]
    apply acceptWindow_keeps
    apply judgeSupply_keeps
    exact h3
  clear_value s4 s1
  split
  · apply quarantineCell_keeps
    exact h4
  · exact h4

theorem windowEnd_keeps {s : State} (x2 : Nat) (x3 : Nat) (x4 : List Nat) (x5 : Nat) (h : Keeps P W s) : Keeps P W (windowEnd s x2 x3 x4 x5) := by
  unfold windowEnd
  extract_lets +onlyGivenNames s1
  extract_lets +onlyGivenNames s2
  extract_lets +onlyGivenNames s3
  extract_lets +onlyGivenNames s4
  extract_lets +onlyGivenNames s5
  have h5 : Keeps P W s5 := by
    dsimp -zeta only [s5]
    apply modCell_keeps
    exact h
  clear_value s5
  refine Keeps.ite ?_ ?_
  · refine Keeps.ite ?_ ?_
    · apply modCell_keeps
      exact h5
    · refine Keeps.ite ?_ ?_
      · apply restoreCell_keeps
        exact h5
      · apply modCell_keeps
        exact h5
  · clear_value s4
    split
    · apply quarantineCell_keeps
      exact h5
    · apply acceptWindow_keeps
      apply modCell_keeps
      exact h5

theorem startRetests_keeps {s : State} (h : Keeps P W s) : Keeps P W (startRetests s) := by
  unfold startRetests
  refine Keeps.upd (s := s) ?_ rfl rfl
  exact h

theorem chunkPeriod_keeps {s : State} (x2 : Vector W64 8) (h : Keeps P W s) : Keeps P W (chunkPeriod s x2) := by
  unfold chunkPeriod
  extract_lets +onlyGivenNames s1
  refine Keeps.ite ?_ ?_
  · exact h
  · extract_lets +onlyGivenNames s3
    extract_lets +onlyGivenNames s4
    extract_lets +onlyGivenNames s5
    extract_lets +onlyGivenNames s6
    extract_lets +onlyGivenNames s7
    extract_lets +onlyGivenNames s8
    refine Keeps.ite ?_ ?_
    · refine Keeps.upd (s := s) ?_ rfl rfl
      exact h
    · refine Keeps.upd (s := s) ?_ rfl rfl
      exact h

theorem rawBegin_keeps {s : State} (x2 : Job) (h : Keeps P W s) : Keeps P W (rawBegin s x2) := by
  unfold rawBegin
  extract_lets +onlyGivenNames s1
  extract_lets +onlyGivenNames s2
  have h1 : Keeps P W s2 := by
    dsimp -zeta only [s2]
    refine Keeps.upd (s := s) ?_ rfl rfl
    exact h
  clear_value s2
  apply logFountain_keeps
  exact h1

theorem rawApply_keeps {s : State} (x2 : Nat) (x3 : Job) (h : Keeps P W s) : Keeps1 P W (rawApply s x2 x3) := by
  unfold rawApply
  extract_lets +onlyGivenNames s1
  extract_lets +onlyGivenNames s2
  extract_lets +onlyGivenNames s3
  extract_lets +onlyGivenNames s4
  refine Keeps1.mk ?_
  apply modJob_keeps
  refine Keeps.upd (s := s) ?_ rfl rfl
  exact h

theorem cmdRngRawMode_keeps : AdminCmd.Keeps (cmdRngRawMode) := by
  refine ⟨?_, ?_, ?_, ?_⟩
  · intro P W s j h
    dsimp -zeta only [cmdRngRawMode]
    apply rawBegin_keeps
    exact h
  · intro P W s j h
    dsimp -zeta only [cmdRngRawMode]
    apply noRecords_keeps
    exact h
  · intro P W s j h
    dsimp -zeta only [cmdRngRawMode]
    refine Keeps1.mk ?_
    exact h
  · intro P W s k j h
    dsimp -zeta only [cmdRngRawMode]
    apply rawApply_keeps
    exact h

theorem execRngRawMode_keeps (x1 : JobRef) {s : State} (h : Keeps P W s) : KeepsO P W (execRngRawMode x1 s) := by
  unfold execRngRawMode
  refine KeepsO.next ?_
  apply adminRow_keeps
  · exact cmdRngRawMode_keeps
  · exact h

theorem limitWrite_keeps {s : State} (x2 : Bool) (x3 : W32) (h : Keeps P W s) : Keeps P W (limitWrite s x2 x3) := by
  unfold limitWrite
  extract_lets +onlyGivenNames s1
  refine Keeps.ite ?_ ?_
  · refine Keeps.ite ?_ ?_
    · refine Keeps.upd (s := s) ?_ rfl rfl
      exact h
    · exact h
  · refine Keeps.ite ?_ ?_
    · refine Keeps.upd (s := s) ?_ rfl rfl
      exact h
    · exact h

theorem execRngLimitWrite_keeps (x1 : Bool) (x2 : W32) {s : State} (h : Keeps P W s) : KeepsO P W (execRngLimitWrite x1 x2 s) := by
  unfold execRngLimitWrite
  refine KeepsO.next ?_
  refine Keeps.ite ?_ ?_
  · apply limitWrite_keeps
    exact h
  · exact h

theorem patternWrite_keeps {s : State} (x2 : Bool) (h : Keeps P W s) : Keeps P W (patternWrite s x2) := by
  unfold patternWrite
  refine Keeps.ite ?_ ?_
  · apply startFountain_keeps
    refine Keeps.upd (s := s) ?_ rfl rfl
    exact h
  · exact h

theorem execRngPatternEnable_keeps (x1 : Bool) {s : State} (h : Keeps P W s) : KeepsO P W (execRngPatternEnable x1 s) := by
  unfold execRngPatternEnable
  refine KeepsO.next ?_
  refine Keeps.ite ?_ ?_
  · apply patternWrite_keeps
    exact h
  · exact h

theorem execHealthTestFailure_keeps (x1 : Fin 8) (x2 : Bool) (x3 : W64) {s : State} (h : Keeps P W s) : KeepsO P W (execHealthTestFailure x1 x2 x3 s) := by
  unfold execHealthTestFailure
  extract_lets +onlyGivenNames s1
  refine KeepsO.next ?_
  split
  · exact h
  · refine Keeps.ite ?_ ?_
    · exact h
    · refine Keeps.ite ?_ ?_
      · apply modCell_keeps
        exact h
      · refine Keeps.ite ?_ ?_
        · apply quarantineCell_keeps
          exact h
        · exact h

theorem execTestWindowEnd_keeps (x1 : Fin 8) (x2 : BitVec 17) (x3 : Vector (BitVec 16) 4) (x4 : W64) {s : State} (h : Keeps P W s) : KeepsO P W (execTestWindowEnd x1 x2 x3 x4 s) := by
  unfold execTestWindowEnd
  refine KeepsO.next ?_
  refine Keeps.ite ?_ ?_
  · apply windowEnd_keeps
    exact h
  · exact h

theorem execChunkPeriod_keeps (x1 : Vector W64 8) {s : State} (h : Keeps P W s) : KeepsO P W (execChunkPeriod x1 s) := by
  unfold execChunkPeriod
  refine KeepsO.next ?_
  apply chunkPeriod_keeps
  exact h

end Sys2Proof.Machine
end

