-- ==== Sys2Proof/Laws/KeepsJobRows.lean ====
section
/-! SUPPORT. The queue and the life-cycle bits are kept by the rows of jobs: one lemma for each operation. -/
namespace Sys2Proof.Machine
open Sys2Proof

variable {P : List Instr} {W : List W32}

theorem soloCheck_keeps {s : State} (x2 : Nat) (x3 : Job) (x4 : Facts) (h : Keeps P W s) : Keeps1 P W (soloCheck s x2 x3 x4) := by
  unfold soloCheck
  refine Keeps1.mk ?_
  exact h

theorem keyLoadCheck_keeps {s : State} (x2 : Nat) (x3 : Job) (x4 : Facts) (h : Keeps P W s) : Keeps1 P W (keyLoadCheck s x2 x3 x4) := by
  unfold keyLoadCheck
  extract_lets +onlyGivenNames s1
  refine Keeps1.ite ?_ ?_
  · refine Keeps1.mk ?_
    exact h
  · split
    · refine Keeps1.ite ?_ ?_
      · refine Keeps1.mk ?_
        exact h
      · refine Keeps1.mk ?_
        apply modJob_keeps
        exact h
    · refine Keeps1.mk ?_
      exact h

theorem openCheck_keeps {s : State} (x2 : Nat) (x3 : Job) (x4 : Facts) (h : Keeps P W s) : Keeps1 P W (openCheck s x2 x3 x4) := by
  unfold openCheck
  refine Keeps1.ite ?_ ?_
  · split
    · refine Keeps1.mk ?_
      apply modJob_keeps
      exact h
    · refine Keeps1.mk ?_
      exact h
  · refine Keeps1.mk ?_
    exact h

theorem digestCheck_keeps {s : State} (x2 : Nat) (x3 : Job) (x4 : Facts) (h : Keeps P W s) : Keeps1 P W (digestCheck s x2 x3 x4) := by
  unfold digestCheck
  refine Keeps1.ite ?_ ?_
  · apply digestDispatch_keeps
    exact h
  · refine Keeps1.mk ?_
    exact h

theorem vaultCheck_keeps {s : State} (x2 : Nat) (x3 : Job) (x4 : Facts) (h : Keeps P W s) : Keeps1 P W (vaultCheck s x2 x3 x4) := by
  unfold vaultCheck
  extract_lets +onlyGivenNames s1
  extract_lets +onlyGivenNames s2
  refine Keeps1.mk ?_
  exact h

theorem slotCheck_keeps {s : State} (x2 : Nat) (x3 : Job) (x4 : Facts) (h : Keeps P W s) : Keeps1 P W (slotCheck s x2 x3 x4) := by
  unfold slotCheck
  refine Keeps1.ite ?_ ?_
  · split
    · refine Keeps1.mk ?_
      exact h
    · extract_lets +onlyGivenNames s1
      refine Keeps1.ite ?_ ?_
      · refine Keeps1.mk ?_
        exact h
      · refine Keeps1.mk ?_
        apply modJob_keeps
        refine Keeps.upd (s := s) ?_ rfl rfl
        exact h
  · refine Keeps1.mk ?_
    exact h

theorem residentCheck_keeps {s : State} (x2 : Nat) (x3 : Job) (x4 : Facts) (h : Keeps P W s) : Keeps1 P W (residentCheck s x2 x3 x4) := by
  unfold residentCheck
  extract_lets +onlyGivenNames s1
  refine Keeps1.ite ?_ ?_
  · refine Keeps1.mk ?_
    exact h
  · split
    · refine Keeps1.mk ?_
      exact h
    · refine Keeps1.ite ?_ ?_
      · refine Keeps1.mk ?_
        exact h
      · refine Keeps1.mk ?_
        apply modJob_keeps
        refine Keeps.upd (s := s) ?_ rfl rfl
        exact h

theorem stateSlotCheck_keeps {s : State} (x2 : Nat) (x3 : Job) (x4 : Facts) (h : Keeps P W s) : Keeps1 P W (stateSlotCheck s x2 x3 x4) := by
  unfold stateSlotCheck
  refine Keeps1.ite ?_ ?_
  · extract_lets +onlyGivenNames s1
    split
    · refine Keeps1.mk ?_
      exact h
    · extract_lets +onlyGivenNames s2
      refine Keeps1.mk ?_
      apply modJob_keeps
      refine Keeps.upd (s := s) ?_ rfl rfl
      exact h
  · refine Keeps1.mk ?_
    exact h

theorem curveCheck_keeps {s : State} (x2 : Nat) (x3 : Job) (x4 : Facts) (h : Keeps P W s) : Keeps1 P W (curveCheck s x2 x3 x4) := by
  unfold curveCheck
  refine Keeps1.ite ?_ ?_
  · extract_lets +onlyGivenNames s1
    extract_lets +onlyGivenNames s2
    split
    · refine Keeps1.mk ?_
      exact h
    · refine Keeps1.ite ?_ ?_
      · refine Keeps1.mk ?_
        exact h
      · refine Keeps1.mk ?_
        apply modJob_keeps
        refine Keeps.upd (s := s) ?_ rfl rfl
        exact h
  · refine Keeps1.mk ?_
    exact h

theorem keptCheck_keeps {s : State} (x2 : Nat) (x3 : Job) (x4 : Facts) (h : Keeps P W s) : Keeps1 P W (keptCheck s x2 x3 x4) := by
  unfold keptCheck
  refine Keeps1.ite ?_ ?_
  · extract_lets +onlyGivenNames s1
    extract_lets +onlyGivenNames s2
    refine Keeps1.ite ?_ ?_
    · refine Keeps1.mk ?_
      exact h
    · extract_lets +onlyGivenNames s3
      have h1 : Keeps P W s3 := by
        dsimp -zeta only [s3]
        refine Keeps.ite ?_ ?_
        · apply modAllot_keeps
          exact h
        · exact h
      clear_value s3
      refine Keeps1.ite ?_ ?_
      · refine Keeps1.mk ?_
        exact h1
      · refine Keeps1.mk ?_
        apply modJob_keeps
        exact h1
  · refine Keeps1.mk ?_
    exact h

theorem importCheck_keeps {s : State} (x2 : Nat) (x3 : Job) (x4 : Facts) (h : Keeps P W s) : Keeps1 P W (importCheck s x2 x3 x4) := h

/-- The dispatch checks, whichever of them are made. -/
theorem runChecks_list_keeps {l : List DispatchCheck} {s : State} (k : Nat) (f : Facts)
    (hl : ∀ c ∈ l, ∀ s k j f, Keeps P W s → Keeps1 P W (c s k j f)) (h : Keeps P W s) : Keeps1 P W (runChecks l s k f) := by
  induction l generalizing s with
  | nil => exact h
  | cons c l ih =>
    unfold runChecks
    cases KMap.get? s.jobs k with
    | none => exact h
    | some j =>
      have h1 := hl c (List.mem_cons_self ..) s k j f h
      dsimp only
      split
      · exact h1
      · exact ih (fun c hc => hl c (List.mem_cons_of_mem _ hc)) h1

/-- All the dispatch checks. -/
theorem runChecks_keeps {s : State} (k : Nat) (f : Facts) (h : Keeps P W s) : Keeps1 P W (runChecks dispatchChecks s k f) := by
  refine runChecks_list_keeps k f ?_ h
  simp only [dispatchChecks, List.forall_mem_cons, List.not_mem_nil, false_implies, implies_true, and_true]
  refine ⟨?_, ?_, ?_, ?_, ?_, ?_, ?_, ?_, ?_, ?_, ?_⟩ <;> intro s k j f h
  · exact soloCheck_keeps _ _ _ h
  · exact keyLoadCheck_keeps _ _ _ h
  · exact importCheck_keeps _ _ _ h
  · exact openCheck_keeps _ _ _ h
  · exact vaultCheck_keeps _ _ _ h
  · exact digestCheck_keeps _ _ _ h
  · exact slotCheck_keeps _ _ _ h
  · exact residentCheck_keeps _ _ _ h
  · exact stateSlotCheck_keeps _ _ _ h
  · exact curveCheck_keeps _ _ _ h
  · exact keptCheck_keeps _ _ _ h

theorem failNow_keeps {s : State} (x2 : Nat) (x3 : Status) (h : Keeps P W s) : Keeps P W (failNow s x2 x3) := by
  unfold failNow
  split
  · apply modJob_keeps
    apply releaseEngines_keeps
    exact h
  · exact h

theorem goOn_keeps {s : State} (x2 : Nat) (h : Keeps P W s) : Keeps P W (goOn s x2) := by
  unfold goOn
  split
  · refine Keeps.ite ?_ ?_
    · apply modJob_keeps
      exact h
    · exact h
  · exact h

theorem startWaits_keeps {s : State} (x2 : Nat) (x3 : Job) (h : Keeps P W s) : Keeps P W (startWaits s x2 x3) := by
  unfold startWaits
  split
  · split
    · apply joinReservation_keeps
      exact h
    · exact h
  · split
    · apply joinReservation_keeps
      exact h
    · exact h
  · apply joinQuote_keeps
    exact h
  · extract_lets +onlyGivenNames s1
    have h1 : Keeps1 P W s1 := by
      dsimp -zeta only [s1]
      apply postRecord_keeps
      exact h
    clear_value s1
    apply modJob_keeps
    refine Keeps1.fst ?_
    exact h1
  · apply keyWithdraw_keeps
    exact h
  · exact h

theorem launch_keeps {s : State} (x2 : Nat) (x3 : Facts) (h : Keeps P W s) : Keeps P W (launch s x2 x3) := by
  unfold launch
  split
  · exact h
  · extract_lets +onlyGivenNames s2
    have h2 : Keeps P W s2 := by
      dsimp -zeta only [s2]
      apply modJob_keeps
      exact h
    clear_value s2
    apply startWaits_keeps
    refine Keeps.upd (s := s2) ?_ rfl rfl
    exact h2

theorem startJob_keeps {s : State} (x2 : Nat) (h : Keeps P W s) : Keeps P W (startJob s x2) := by
  unfold startJob
  split
  · exact h
  · extract_lets +onlyGivenNames s1
    extract_lets +onlyGivenNames s2
    have h1 : Keeps1 P W s2 := by
      dsimp -zeta only [s2]
      apply runChecks_keeps
      exact h
    clear_value s2
    split
    · apply failNow_keeps
      refine Keeps1.fst ?_
      exact h1
    · apply launch_keeps
      refine Keeps1.fst ?_
      exact h1

theorem curveLoadEnding_keeps {s : State} (x2 : Nat) (x3 : Job) (h : Keeps P W s) : Keeps1 P W (curveLoadEnding s x2 x3) := by
  unfold curveLoadEnding
  extract_lets +onlyGivenNames s1
  extract_lets +onlyGivenNames s2
  extract_lets +onlyGivenNames s3
  refine Keeps1.mk ?_
  exact h

theorem journalEnding_keeps {s : State} (x2 : Nat) (x3 : Job) (h : Keeps P W s) : Keeps1 P W (journalEnding s x2 x3) := by
  unfold journalEnding
  refine Keeps1.ite ?_ ?_
  · refine Keeps1.mk ?_
    exact h
  · refine Keeps1.mk ?_
    exact h

theorem endingOf_keeps {s : State} (x2 : Nat) (x3 : Job) (h : Keeps P W s) : Keeps1 P W (endingOf s x2 x3) := by
  unfold endingOf
  split
  · apply latticeEnding_keeps
    exact h
  · apply latticeEnding_keeps
    exact h
  · apply latticeEnding_keeps
    exact h
  · apply slhEnding_keeps
    exact h
  · apply statefulEnding_keeps
    exact h
  · apply statefulEnding_keeps
    exact h
  · apply mcEnding_keeps
    exact h
  · apply hqcEnding_keeps
    exact h
  · refine Keeps1.ite ?_ ?_
    · apply curveLoadEnding_keeps
      exact h
    · refine Keeps1.ite ?_ ?_
      · refine Keeps1.mk ?_
        exact h
      · apply curveEnding_keeps
        exact h
  · apply edEnding_keeps
    exact h
  · apply rsaEnding_keeps
    exact h
  · apply bnEnding_keeps
    exact h
  · apply digestEnding_keeps
    exact h
  · apply digestEnding_keeps
    exact h
  · apply iceEnding_keeps
    exact h
  · apply journalEnding_keeps
    exact h
  · refine Keeps1.mk ?_
    exact h

theorem finishJob_keeps {s : State} (x2 : Nat) (h : Keeps P W s) : Keeps P W (finishJob s x2) := by
  unfold finishJob
  split
  · exact h
  · split
    extract_lets +onlyGivenNames s3
    extract_lets +onlyGivenNames s4
    extract_lets +onlyGivenNames s5
    have h5 : Keeps P W s5 := by
      dsimp -zeta only [s5]
      apply modJob_keeps
      refine Keeps1.of_eq ‹_ = _› ?_
      apply endingOf_keeps
      exact h
    clear_value s5
    refine Keeps.ite ?_ ?_
    · apply failNow_keeps
      exact h5
    · refine Keeps.ite ?_ ?_
      · apply modJob_keeps
        apply giveBack_keeps
        exact h5
      · extract_lets +onlyGivenNames s8
        split
        · extract_lets +onlyGivenNames s10
          extract_lets +onlyGivenNames s11
          extract_lets +onlyGivenNames s12
          have h12 : Keeps P W s12 := by
            dsimp -zeta only [s12]
            refine Keeps.upd (s := s5) ?_ rfl rfl
            exact h5
          clear_value s12
          extract_lets +onlyGivenNames s13
          have h13 : Keeps1 P W s13 := by
            dsimp -zeta only [s13]
            split
            · extract_lets +onlyGivenNames s15
              have h15 : Keeps1 P W s15 := by
                dsimp -zeta only [s15]
                apply postKeyEvent_keeps
                exact h12
              clear_value s15
              extract_lets +onlyGivenNames s7
              have h7 : Keeps1 P W s7 := by
                dsimp -zeta only [s7]
                apply postImageChange_keeps
                apply Keeps1.fst
                exact h15
              clear_value s7
              refine Keeps1.mk ?_
              apply modJob_keeps
              apply Keeps1.fst
              exact h7
            · refine Keeps1.mk ?_
              exact h12
          clear_value s13
          refine Keeps.ite ?_ ?_
          · extract_lets +onlyGivenNames s15
            have h15 : Keeps1 P W s15 := by
              dsimp -zeta only [s15]
              apply openCommit_keeps
              apply Keeps1.fst
              exact h13
            clear_value s15
            apply modJob_keeps
            apply Keeps1.fst
            exact h15
          · apply Keeps1.fst
            exact h13
        · extract_lets +onlyGivenNames one
          have hone : ∀ kind item contents, Keeps P W (one kind item contents) := fun kind item contents =>
            Keeps.ite (modJob_keeps _ _ (Keeps1.fst (openCommit_keeps _ _ _ _ _ _ h5))) h5
          split
          · exact hone ..
          · exact hone ..
          · exact hone ..
          · exact h5

theorem concludeJob_keeps {s : State} (x2 : Nat) (h : Keeps P W s) : Keeps P W (concludeJob s x2) := by
  unfold concludeJob
  apply modJob_keeps
  exact h

theorem destroyStep_keeps {s : State} (x2 : Nat) (x3 : Job) (h : Keeps P W s) : Keeps P W (destroyStep s x2 x3) := by
  unfold destroyStep
  extract_lets +onlyGivenNames s1
  split
  · apply concludeJob_keeps
    apply finishJob_keeps
    apply zeroiseResident_keeps
    exact h
  · refine Keeps.ite ?_ ?_
    · exact h
    · refine Keeps.ite ?_ ?_
      · extract_lets +onlyGivenNames s2
        have h1 : Keeps1 P W s2 := by
          dsimp -zeta only [s2]
          apply keyDestroyRecords_keeps
          exact h
        clear_value s2
        refine Keeps.ite ?_ ?_
        · extract_lets +onlyGivenNames s3
          have h2 : Keeps1 P W s3 := by
            dsimp -zeta only [s3]
            apply openCommit_keeps
            refine Keeps1.fst ?_
            exact h1
          clear_value s3
          apply modJob_keeps
          refine Keeps1.fst ?_
          exact h2
        · apply modJob_keeps
          refine Keeps1.fst ?_
          exact h1
      · apply concludeJob_keeps
        apply finishJob_keeps
        apply zeroiseSlot_keeps
        exact h
  · apply failNow_keeps
    exact h

theorem advanceJob_keeps {s : State} (x2 : Nat) (h : Keeps P W s) : Keeps P W (advanceJob s x2) := by
  unfold advanceJob
  split
  · exact h
  · refine Keeps.ite ?_ ?_
    · exact h
    · refine Keeps.ite ?_ ?_
      · refine Keeps.ite ?_ ?_
        · apply destroyStep_keeps
          exact h
        · extract_lets +onlyGivenNames s1
          have h1 : Keeps P W s1 := by
            dsimp -zeta only [s1]
            apply finishJob_keeps
            exact h
          clear_value s1
          split
          · refine Keeps.ite ?_ ?_
            · apply concludeJob_keeps
              exact h1
            · exact h1
          · exact h1
      · refine Keeps.ite ?_ ?_
        · apply concludeJob_keeps
          exact h
        · exact h

theorem failWaiting_keeps {s : State} (x2 : Nat) (x3 : Status) (h : Keeps P W s) : Keeps P W (failWaiting s x2 x3) := by
  unfold failWaiting
  split
  · exact h
  · extract_lets +onlyGivenNames s1
    have h1 : Keeps P W s1 := by
      dsimp -zeta only [s1]
      refine Keeps.ite ?_ ?_
      · split
        · apply setWithdrawn_keeps
          exact h
        · exact h
      · exact h
    clear_value s1
    apply failNow_keeps
    exact h1

theorem completionEffects_keeps {s : State} (x2 : Nat) (x3 : Job) (h : Keeps P W s) : Keeps P W (completionEffects s x2 x3) := by
  unfold completionEffects
  extract_lets +onlyGivenNames s1
  refine Keeps.ite ?_ ?_
  · exact h
  · extract_lets +onlyGivenNames s2
    extract_lets +onlyGivenNames s3
    have h1 : Keeps P W s3 := by
      dsimp -zeta only [s3]
      split
      · extract_lets +onlyGivenNames s4
        have h1 : Keeps P W s4 := by
          dsimp -zeta only [s4]
          refine Keeps.upd (s := s) ?_ rfl rfl
          exact h
        clear_value s4
        refine Keeps.ite ?_ ?_
        · refine Keeps.upd (s := s4) ?_ rfl rfl
          exact h1
        · refine Keeps1.fst ?_
          apply postImageChange_keeps
          exact h1
      · exact h
    clear_value s3
    extract_lets +onlyGivenNames s4
    extract_lets +onlyGivenNames s5
    extract_lets +onlyGivenNames s6
    extract_lets +onlyGivenNames s7
    extract_lets +onlyGivenNames s8
    have h2 : Keeps P W s8 := by
      dsimp -zeta only [s8]
      split
      · refine Keeps.upd (s := s3) ?_ rfl rfl
        exact h1
      · exact h1
    clear_value s8
    split
    · split
      extract_lets +onlyGivenNames s9
      refine Keeps.upd (s := s8) ?_ rfl rfl
      exact h2
    · extract_lets +onlyGivenNames s9
      refine Keeps.upd (s := s8) ?_ rfl rfl
      exact h2
    · apply modAllot_keeps
      exact h2
    · refine Keeps.ite ?_ ?_
      · apply bnComplete_keeps
        exact h2
      · refine Keeps.ite ?_ ?_
        · apply digestComplete_keeps
          exact h2
        · exact h2

theorem freeUnloaded_keeps {s : State} (h : Keeps P W s) : Keeps P W (freeUnloaded s) := by
  unfold freeUnloaded
  refine Keeps.upd (s := s) ?_ rfl rfl
  exact h

theorem emitOutput_keeps {s : State} (x2 : Nat) (h : Keeps P W s) : Keeps P W (emitOutput s x2) := by
  unfold emitOutput
  split
  · exact h
  · extract_lets +onlyGivenNames s2
    extract_lets +onlyGivenNames s3
    refine Keeps.ite ?_ ?_
    · extract_lets +onlyGivenNames s5
      apply send_keeps
      apply modJob_keeps
      exact h
    · exact h

theorem emitOutputs_keeps {s : State} (h : Keeps P W s) : Keeps P W (emitOutputs s) := by
  unfold emitOutputs
  refine Keeps.foldl (fun s1 x1 h1 => ?_) ?_
  · apply emitOutput_keeps
    exact h1
  · exact h

theorem countNotice_keeps {s : State} (x2 : Nat) (x3 : Job) (h : Keeps P W s) : Keeps P W (countNotice s x2 x3) := by
  unfold countNotice
  refine Keeps.ite ?_ ?_
  · apply modQueue_keeps
    exact h
  · exact h

theorem endRawMode_keeps {s : State} (x2 : Job) (h : Keeps P W s) : Keeps P W (endRawMode s x2) := by
  unfold endRawMode
  refine Keeps.ite ?_ ?_
  · apply startFountain_keeps
    exact h
  · exact h

theorem writeCompletion_keeps {s : State} (x2 : Nat) (x3 : Job) (h : Keeps P W s) : Keeps P W (writeCompletion s x2 x3) := by
  unfold writeCompletion
  extract_lets +onlyGivenNames s1
  extract_lets +onlyGivenNames s2
  extract_lets +onlyGivenNames s3
  extract_lets +onlyGivenNames s4
  have h4 : Keeps P W s4 := by
    dsimp -zeta only [s4]
    apply completionEffects_keeps
    exact h
  clear_value s4
  extract_lets +onlyGivenNames s5
  have h5 : Keeps P W s5 := by
    dsimp -zeta only [s5]
    apply endRawMode_keeps
    exact h4
  clear_value s5
  extract_lets +onlyGivenNames s6
  have h6 : Keeps P W s6 := by
    dsimp -zeta only [s6]
    refine Keeps.ite ?_ ?_
    · exact h5
    · apply send_keeps
      exact h5
  clear_value s6
  extract_lets +onlyGivenNames s7
  extract_lets +onlyGivenNames s8
  have h8 : Keeps P W s8 := by
    dsimp -zeta only [s8]
    apply send_keeps
    exact h6
  clear_value s8
  extract_lets +onlyGivenNames s9
  have h9 : Keeps P W s9 := by
    dsimp -zeta only [s9]
    apply send_keeps
    exact h8
  clear_value s9
  extract_lets +onlyGivenNames s1
  extract_lets +onlyGivenNames s2
  have h2 : Keeps P W s2 := by
    dsimp -zeta only [s2]
    refine Keeps.upd (s := s9) ?_ rfl rfl
    exact h9
  clear_value s2
  apply freeUnloaded_keeps
  apply removeJob_keeps
  apply freeResidence_keeps
  apply countNotice_keeps
  exact h2

theorem dropCompletion_keeps {s : State} (x2 : Nat) (x3 : Job) (h : Keeps P W s) : Keeps P W (dropCompletion s x2 x3) := by
  unfold dropCompletion
  extract_lets +onlyGivenNames s1
  extract_lets +onlyGivenNames s2
  have h2 : Keeps P W s2 := by
    dsimp -zeta only [s2]
    refine Keeps.upd (s := s) ?_ rfl rfl
    exact h
  clear_value s2
  apply freeUnloaded_keeps
  apply removeJob_keeps
  apply releaseEngines_keeps
  apply endRawMode_keeps
  exact h2

theorem execJobCompletion_keeps (x1 : JobRef) {s : State} (h : Keeps P W s) : KeepsO P W (execJobCompletion x1 s) := by
  unfold execJobCompletion
  extract_lets +onlyGivenNames s1
  split
  · refine KeepsO.ite ?_ ?_
    · refine KeepsO.next ?_
      refine Keeps.ite ?_ ?_
      · apply dropCompletion_keeps
        exact h
      · apply writeCompletion_keeps
        exact h
    · refine KeepsO.next ?_
      exact h
  · refine KeepsO.next ?_
    exact h

theorem jobRow_keeps (x1 : Job → Bool) (x2 : JobRef) {s : State} (h : Keeps P W s) : KeepsO P W (jobRow x1 x2 s) := by
  unfold jobRow
  extract_lets +onlyGivenNames s1
  split
  · refine KeepsO.ite ?_ ?_
    · refine KeepsO.next ?_
      apply advanceJob_keeps
      apply startJob_keeps
      exact h
    · refine KeepsO.next ?_
      exact h
  · refine KeepsO.next ?_
    exact h

theorem execMlKemKeygen_keeps (x1 : JobRef) {s : State} (h : Keeps P W s) : KeepsO P W (execMlKemKeygen x1 s) := by
  unfold execMlKemKeygen
  apply jobRow_keeps
  exact h

theorem execMlKemEncaps_keeps (x1 : JobRef) {s : State} (h : Keeps P W s) : KeepsO P W (execMlKemEncaps x1 s) := by
  unfold execMlKemEncaps
  apply jobRow_keeps
  exact h

theorem execMlKemDecaps_keeps (x1 : JobRef) {s : State} (h : Keeps P W s) : KeepsO P W (execMlKemDecaps x1 s) := by
  unfold execMlKemDecaps
  apply jobRow_keeps
  exact h

theorem execMlDsaKeygen_keeps (x1 : JobRef) {s : State} (h : Keeps P W s) : KeepsO P W (execMlDsaKeygen x1 s) := by
  unfold execMlDsaKeygen
  apply jobRow_keeps
  exact h

theorem execMlDsaSign_keeps (x1 : JobRef) {s : State} (h : Keeps P W s) : KeepsO P W (execMlDsaSign x1 s) := by
  unfold execMlDsaSign
  apply jobRow_keeps
  exact h

theorem execMlDsaVerify_keeps (x1 : JobRef) {s : State} (h : Keeps P W s) : KeepsO P W (execMlDsaVerify x1 s) := by
  unfold execMlDsaVerify
  apply jobRow_keeps
  exact h

theorem execMlDsaSignPh_keeps (x1 : JobRef) {s : State} (h : Keeps P W s) : KeepsO P W (execMlDsaSignPh x1 s) := by
  unfold execMlDsaSignPh
  apply jobRow_keeps
  exact h

theorem execMlDsaVerifyPh_keeps (x1 : JobRef) {s : State} (h : Keeps P W s) : KeepsO P W (execMlDsaVerifyPh x1 s) := by
  unfold execMlDsaVerifyPh
  apply jobRow_keeps
  exact h

theorem execFnDsaSign_keeps (x1 : JobRef) {s : State} (h : Keeps P W s) : KeepsO P W (execFnDsaSign x1 s) := by
  unfold execFnDsaSign
  apply jobRow_keeps
  exact h

theorem execFnDsaVerify_keeps (x1 : JobRef) {s : State} (h : Keeps P W s) : KeepsO P W (execFnDsaVerify x1 s) := by
  unfold execFnDsaVerify
  apply jobRow_keeps
  exact h

theorem execFnDsaSignPh_keeps (x1 : JobRef) {s : State} (h : Keeps P W s) : KeepsO P W (execFnDsaSignPh x1 s) := by
  unfold execFnDsaSignPh
  apply jobRow_keeps
  exact h

theorem execFnDsaVerifyPh_keeps (x1 : JobRef) {s : State} (h : Keeps P W s) : KeepsO P W (execFnDsaVerifyPh x1 s) := by
  unfold execFnDsaVerifyPh
  apply jobRow_keeps
  exact h

theorem execSlhDsaKeygen_keeps (x1 : JobRef) {s : State} (h : Keeps P W s) : KeepsO P W (execSlhDsaKeygen x1 s) := by
  unfold execSlhDsaKeygen
  apply jobRow_keeps
  exact h

theorem execSlhDsaSign_keeps (x1 : JobRef) {s : State} (h : Keeps P W s) : KeepsO P W (execSlhDsaSign x1 s) := by
  unfold execSlhDsaSign
  apply jobRow_keeps
  exact h

theorem execSlhDsaVerify_keeps (x1 : JobRef) {s : State} (h : Keeps P W s) : KeepsO P W (execSlhDsaVerify x1 s) := by
  unfold execSlhDsaVerify
  apply jobRow_keeps
  exact h

theorem execSlhDsaSignPh_keeps (x1 : JobRef) {s : State} (h : Keeps P W s) : KeepsO P W (execSlhDsaSignPh x1 s) := by
  unfold execSlhDsaSignPh
  apply jobRow_keeps
  exact h

theorem execSlhDsaVerifyPh_keeps (x1 : JobRef) {s : State} (h : Keeps P W s) : KeepsO P W (execSlhDsaVerifyPh x1 s) := by
  unfold execSlhDsaVerifyPh
  apply jobRow_keeps
  exact h

theorem execLmsKeygen_keeps (x1 : JobRef) {s : State} (h : Keeps P W s) : KeepsO P W (execLmsKeygen x1 s) := by
  unfold execLmsKeygen
  apply jobRow_keeps
  exact h

theorem execLmsSign_keeps (x1 : JobRef) {s : State} (h : Keeps P W s) : KeepsO P W (execLmsSign x1 s) := by
  unfold execLmsSign
  apply jobRow_keeps
  exact h

theorem execLmsVerify_keeps (x1 : JobRef) {s : State} (h : Keeps P W s) : KeepsO P W (execLmsVerify x1 s) := by
  unfold execLmsVerify
  apply jobRow_keeps
  exact h

theorem execXmssKeygen_keeps (x1 : JobRef) {s : State} (h : Keeps P W s) : KeepsO P W (execXmssKeygen x1 s) := by
  unfold execXmssKeygen
  apply jobRow_keeps
  exact h

theorem execXmssSign_keeps (x1 : JobRef) {s : State} (h : Keeps P W s) : KeepsO P W (execXmssSign x1 s) := by
  unfold execXmssSign
  apply jobRow_keeps
  exact h

theorem execXmssVerify_keeps (x1 : JobRef) {s : State} (h : Keeps P W s) : KeepsO P W (execXmssVerify x1 s) := by
  unfold execXmssVerify
  apply jobRow_keeps
  exact h

theorem execMcelieceKeygen_keeps (x1 : JobRef) {s : State} (h : Keeps P W s) : KeepsO P W (execMcelieceKeygen x1 s) := by
  unfold execMcelieceKeygen
  apply jobRow_keeps
  exact h

theorem execMcelieceEncaps_keeps (x1 : JobRef) {s : State} (h : Keeps P W s) : KeepsO P W (execMcelieceEncaps x1 s) := by
  unfold execMcelieceEncaps
  apply jobRow_keeps
  exact h

theorem execMcelieceDecaps_keeps (x1 : JobRef) {s : State} (h : Keeps P W s) : KeepsO P W (execMcelieceDecaps x1 s) := by
  unfold execMcelieceDecaps
  apply jobRow_keeps
  exact h

theorem execKeyReside_keeps (x1 : JobRef) {s : State} (h : Keeps P W s) : KeepsO P W (execKeyReside x1 s) := by
  unfold execKeyReside
  apply jobRow_keeps
  exact h

theorem execHqcKeygen_keeps (x1 : JobRef) {s : State} (h : Keeps P W s) : KeepsO P W (execHqcKeygen x1 s) := by
  unfold execHqcKeygen
  apply jobRow_keeps
  exact h

theorem execHqcEncaps_keeps (x1 : JobRef) {s : State} (h : Keeps P W s) : KeepsO P W (execHqcEncaps x1 s) := by
  unfold execHqcEncaps
  apply jobRow_keeps
  exact h

theorem execHqcDecaps_keeps (x1 : JobRef) {s : State} (h : Keeps P W s) : KeepsO P W (execHqcDecaps x1 s) := by
  unfold execHqcDecaps
  apply jobRow_keeps
  exact h

theorem execEcdsaKeygen_keeps (x1 : JobRef) {s : State} (h : Keeps P W s) : KeepsO P W (execEcdsaKeygen x1 s) := by
  unfold execEcdsaKeygen
  apply jobRow_keeps
  exact h

theorem execEcdsaSign_keeps (x1 : JobRef) {s : State} (h : Keeps P W s) : KeepsO P W (execEcdsaSign x1 s) := by
  unfold execEcdsaSign
  apply jobRow_keeps
  exact h

theorem execEcdsaVerify_keeps (x1 : JobRef) {s : State} (h : Keeps P W s) : KeepsO P W (execEcdsaVerify x1 s) := by
  unfold execEcdsaVerify
  apply jobRow_keeps
  exact h

theorem execEcdhAgree_keeps (x1 : JobRef) {s : State} (h : Keeps P W s) : KeepsO P W (execEcdhAgree x1 s) := by
  unfold execEcdhAgree
  apply jobRow_keeps
  exact h

theorem execCurveLoad_keeps (x1 : JobRef) {s : State} (h : Keeps P W s) : KeepsO P W (execCurveLoad x1 s) := by
  unfold execCurveLoad
  apply jobRow_keeps
  exact h

theorem execCurveUnload_keeps (x1 : JobRef) {s : State} (h : Keeps P W s) : KeepsO P W (execCurveUnload x1 s) := by
  unfold execCurveUnload
  apply jobRow_keeps
  exact h

theorem execEdwardsKeygen_keeps (x1 : JobRef) {s : State} (h : Keeps P W s) : KeepsO P W (execEdwardsKeygen x1 s) := by
  unfold execEdwardsKeygen
  apply jobRow_keeps
  exact h

theorem execEdwardsSign_keeps (x1 : JobRef) {s : State} (h : Keeps P W s) : KeepsO P W (execEdwardsSign x1 s) := by
  unfold execEdwardsSign
  apply jobRow_keeps
  exact h

theorem execEdwardsVerify_keeps (x1 : JobRef) {s : State} (h : Keeps P W s) : KeepsO P W (execEdwardsVerify x1 s) := by
  unfold execEdwardsVerify
  apply jobRow_keeps
  exact h

theorem execMontgomeryAgree_keeps (x1 : JobRef) {s : State} (h : Keeps P W s) : KeepsO P W (execMontgomeryAgree x1 s) := by
  unfold execMontgomeryAgree
  apply jobRow_keeps
  exact h

theorem execRsaSignV15_keeps (x1 : JobRef) {s : State} (h : Keeps P W s) : KeepsO P W (execRsaSignV15 x1 s) := by
  unfold execRsaSignV15
  apply jobRow_keeps
  exact h

theorem execRsaVerifyV15_keeps (x1 : JobRef) {s : State} (h : Keeps P W s) : KeepsO P W (execRsaVerifyV15 x1 s) := by
  unfold execRsaVerifyV15
  apply jobRow_keeps
  exact h

theorem execRsaSignPss_keeps (x1 : JobRef) {s : State} (h : Keeps P W s) : KeepsO P W (execRsaSignPss x1 s) := by
  unfold execRsaSignPss
  apply jobRow_keeps
  exact h

theorem execRsaVerifyPss_keeps (x1 : JobRef) {s : State} (h : Keeps P W s) : KeepsO P W (execRsaVerifyPss x1 s) := by
  unfold execRsaVerifyPss
  apply jobRow_keeps
  exact h

theorem execRsaEncryptOaep_keeps (x1 : JobRef) {s : State} (h : Keeps P W s) : KeepsO P W (execRsaEncryptOaep x1 s) := by
  unfold execRsaEncryptOaep
  apply jobRow_keeps
  exact h

theorem execRsaDecryptOaep_keeps (x1 : JobRef) {s : State} (h : Keeps P W s) : KeepsO P W (execRsaDecryptOaep x1 s) := by
  unfold execRsaDecryptOaep
  apply jobRow_keeps
  exact h

theorem execBnAdd_keeps (x1 : JobRef) {s : State} (h : Keeps P W s) : KeepsO P W (execBnAdd x1 s) := by
  unfold execBnAdd
  apply jobRow_keeps
  exact h

theorem execBnSub_keeps (x1 : JobRef) {s : State} (h : Keeps P W s) : KeepsO P W (execBnSub x1 s) := by
  unfold execBnSub
  apply jobRow_keeps
  exact h

theorem execBnMul_keeps (x1 : JobRef) {s : State} (h : Keeps P W s) : KeepsO P W (execBnMul x1 s) := by
  unfold execBnMul
  apply jobRow_keeps
  exact h

theorem execBnInv_keeps (x1 : JobRef) {s : State} (h : Keeps P W s) : KeepsO P W (execBnInv x1 s) := by
  unfold execBnInv
  apply jobRow_keeps
  exact h

theorem execBnExp_keeps (x1 : JobRef) {s : State} (h : Keeps P W s) : KeepsO P W (execBnExp x1 s) := by
  unfold execBnExp
  apply jobRow_keeps
  exact h

theorem execBnClear_keeps (x1 : JobRef) {s : State} (h : Keeps P W s) : KeepsO P W (execBnClear x1 s) := by
  unfold execBnClear
  apply jobRow_keeps
  exact h

theorem execDigestInit_keeps (x1 : JobRef) {s : State} (h : Keeps P W s) : KeepsO P W (execDigestInit x1 s) := by
  unfold execDigestInit
  apply jobRow_keeps
  exact h

theorem execKeyedInit_keeps (x1 : JobRef) {s : State} (h : Keeps P W s) : KeepsO P W (execKeyedInit x1 s) := by
  unfold execKeyedInit
  apply jobRow_keeps
  exact h

theorem execDigestUpdate_keeps (x1 : JobRef) {s : State} (h : Keeps P W s) : KeepsO P W (execDigestUpdate x1 s) := by
  unfold execDigestUpdate
  apply jobRow_keeps
  exact h

theorem execDigestFinal_keeps (x1 : JobRef) {s : State} (h : Keeps P W s) : KeepsO P W (execDigestFinal x1 s) := by
  unfold execDigestFinal
  apply jobRow_keeps
  exact h

theorem execStateExport_keeps (x1 : JobRef) {s : State} (h : Keeps P W s) : KeepsO P W (execStateExport x1 s) := by
  unfold execStateExport
  apply jobRow_keeps
  exact h

theorem execStateImport_keeps (x1 : JobRef) {s : State} (h : Keeps P W s) : KeepsO P W (execStateImport x1 s) := by
  unfold execStateImport
  apply jobRow_keeps
  exact h

theorem execKeyedStateImport_keeps (x1 : JobRef) {s : State} (h : Keeps P W s) : KeepsO P W (execKeyedStateImport x1 s) := by
  unfold execKeyedStateImport
  apply jobRow_keeps
  exact h

theorem execKeyedPrepare_keeps (x1 : JobRef) {s : State} (h : Keeps P W s) : KeepsO P W (execKeyedPrepare x1 s) := by
  unfold execKeyedPrepare
  apply jobRow_keeps
  exact h

theorem execReleaseSlot_keeps (x1 : JobRef) {s : State} (h : Keeps P W s) : KeepsO P W (execReleaseSlot x1 s) := by
  unfold execReleaseSlot
  apply jobRow_keeps
  exact h

theorem execSealPubkey_keeps (x1 : JobRef) {s : State} (h : Keeps P W s) : KeepsO P W (execSealPubkey x1 s) := by
  unfold execSealPubkey
  apply jobRow_keeps
  exact h

theorem execSealOpen_keeps (x1 : JobRef) {s : State} (h : Keeps P W s) : KeepsO P W (execSealOpen x1 s) := by
  unfold execSealOpen
  apply jobRow_keeps
  exact h

theorem execImportKey_keeps (x1 : JobRef) {s : State} (h : Keeps P W s) : KeepsO P W (execImportKey x1 s) := by
  unfold execImportKey
  apply jobRow_keeps
  exact h

theorem execAuthImport_keeps (x1 : JobRef) {s : State} (h : Keeps P W s) : KeepsO P W (execAuthImport x1 s) := by
  unfold execAuthImport
  apply jobRow_keeps
  exact h

theorem execGenerateKey_keeps (x1 : JobRef) {s : State} (h : Keeps P W s) : KeepsO P W (execGenerateKey x1 s) := by
  unfold execGenerateKey
  apply jobRow_keeps
  exact h

theorem execWrap_keeps (x1 : JobRef) {s : State} (h : Keeps P W s) : KeepsO P W (execWrap x1 s) := by
  unfold execWrap
  apply jobRow_keeps
  exact h

theorem execUnwrap_keeps (x1 : JobRef) {s : State} (h : Keeps P W s) : KeepsO P W (execUnwrap x1 s) := by
  unfold execUnwrap
  apply jobRow_keeps
  exact h

theorem execPublicPart_keeps (x1 : JobRef) {s : State} (h : Keeps P W s) : KeepsO P W (execPublicPart x1 s) := by
  unfold execPublicPart
  apply jobRow_keeps
  exact h

theorem execDestroyKey_keeps (x1 : JobRef) {s : State} (h : Keeps P W s) : KeepsO P W (execDestroyKey x1 s) := by
  unfold execDestroyKey
  apply jobRow_keeps
  exact h

theorem execDescribeKey_keeps (x1 : JobRef) {s : State} (h : Keeps P W s) : KeepsO P W (execDescribeKey x1 s) := by
  unfold execDescribeKey
  apply jobRow_keeps
  exact h

theorem execFumelQuote_keeps (x1 : JobRef) {s : State} (h : Keeps P W s) : KeepsO P W (execFumelQuote x1 s) := by
  unfold execFumelQuote
  apply jobRow_keeps
  exact h

theorem execNotarise_keeps (x1 : JobRef) {s : State} (h : Keeps P W s) : KeepsO P W (execNotarise x1 s) := by
  unfold execNotarise
  apply jobRow_keeps
  exact h

theorem execJournalKey_keeps (x1 : JobRef) {s : State} (h : Keeps P W s) : KeepsO P W (execJournalKey x1 s) := by
  unfold execJournalKey
  apply jobRow_keeps
  exact h

theorem execOpenRoutineCall_keeps (x1 : JobRef) {s : State} (h : Keeps P W s) : KeepsO P W (execOpenRoutineCall x1 s) := by
  unfold execOpenRoutineCall
  apply jobRow_keeps
  exact h

end Sys2Proof.Machine
end

