-- ==== Sys2Proof/Laws/KeepsMedia.lean ====
section
/-! SUPPORT. The queue and the life-cycle bits are kept by the twin, the Sundial and the media: one lemma for each operation. -/
namespace Sys2Proof.Machine
open Sys2Proof

variable {P : List Instr} {W : List W32}

theorem freshBytes_keeps {s : State} (x2 : Nat) (h : Keeps P W s) : Keeps2 P W (freshBytes s x2) := by
  unfold freshBytes
  extract_lets +onlyGivenNames s1
  refine Keeps2.mk ?_
  refine Keeps.upd (s := s) ?_ rfl rfl
  exact h

theorem dropFrames_keeps {s : State} (x2 : Nat) (h : Keeps P W s) : Keeps P W (dropFrames s x2) := by
  unfold dropFrames
  refine Keeps.upd (s := s) ?_ rfl rfl
  exact h

theorem failDependents_keeps {s : State} (x2 : Commit) (x3 : Status) (h : Keeps P W s) : Keeps P W (failDependents s x2 x3) := by
  unfold failDependents
  split
  · apply failReservation_keeps
    exact h
  · apply failQuote_keeps
    exact h
  · split
    · refine Keeps.ite ?_ ?_
      · apply adminFail_keeps
        apply adminUndo_keeps
        exact h
      · apply failWaiting_keeps
        exact h
    · exact h
  · exact h

theorem failCommit_keeps {s : State} (x2 : Nat) (x3 : Status) (h : Keeps P W s) : Keeps P W (failCommit s x2 x3) := by
  unfold failCommit
  split
  · exact h
  · extract_lets +onlyGivenNames s1
    have h1 : Keeps P W s1 := by
      dsimp -zeta only [s1]
      apply closeCommit_keeps
      apply dropFrames_keeps
      exact h
    clear_value s1
    extract_lets +onlyGivenNames s2
    have h2 : Keeps P W s2 := by
      dsimp -zeta only [s2]
      refine Keeps.ite ?_ ?_
      · apply postFrame_keeps
        exact h1
      · exact h1
    clear_value s2
    apply failDependents_keeps
    exact h2

theorem commitReady_keeps {s : State} (h : Keeps P W s) : Keeps P W (commitReady s) := by
  unfold commitReady
  refine Keeps.foldl ?_ ?_
  · intro a1 a2 a3
    refine Keeps.ite ?_ ?_
    · extract_lets +onlyGivenNames s1
      extract_lets +onlyGivenNames s2
      have h1 : Keeps P W s2 := by
        dsimp -zeta only [s2]
        refine Keeps.upd (s := a1) ?_ rfl rfl
        exact a3
      clear_value s2
      apply postFrame_keeps
      exact h1
    · exact a3
  · exact h

theorem commitDone_keeps {s : State} (x2 : Nat) (h : Keeps P W s) : Keeps P W (commitDone s x2) := by
  unfold commitDone
  split
  · exact h
  · extract_lets +onlyGivenNames s1
    have h1 : Keeps P W s1 := by
      dsimp -zeta only [s1]
      apply closeCommit_keeps
      exact h
    clear_value s1
    extract_lets +onlyGivenNames s2
    extract_lets +onlyGivenNames s3
    have h2 : Keeps P W s3 := by
      dsimp -zeta only [s3]
      refine Keeps.upd (s := s1) ?_ rfl rfl
      exact h1
    clear_value s3
    split
    · split
      · apply commitBlock_keeps
        exact h2
      · exact h2
    · split
      · apply commitQuote_keeps
        exact h2
      · exact h2
    · apply modJob_keeps
      exact h2
    · exact h2

theorem ackReady_keeps {s : State} (h : Keeps P W s) : Keeps P W (ackReady s) := by
  unfold ackReady
  extract_lets +onlyGivenNames s1
  refine Keeps.foldl ?_ ?_
  · intro a1 a2 a3
    apply postFrame_keeps
    exact a3
  · refine Keeps.upd (s := s) ?_ rfl rfl
    exact h

theorem enterSolo_keeps {s : State} (x2 : Nat) (h : Keeps P W s) : Keeps P W (enterSolo s x2) := by
  unfold enterSolo
  refine Keeps.ite ?_ ?_
  · refine Keeps.ite ?_ ?_
    · refine Keeps.upd (s := s) ?_ rfl rfl
      exact h
    · exact h
  · extract_lets +onlyGivenNames s1
    extract_lets +onlyGivenNames s2
    extract_lets +onlyGivenNames s3
    have h1 : Keeps P W s3 := by
      dsimp -zeta only [s3]
      refine Keeps.upd (s := s) ?_ rfl rfl
      exact h
    clear_value s3
    extract_lets +onlyGivenNames s4
    have h2 : Keeps P W s4 := by
      dsimp -zeta only [s4]
      refine Keeps.foldl ?_ ?_
      · intro a1 a2 a3
        apply failCommit_keeps
        exact a3
      · exact h1
    clear_value s4
    refine Keeps1.fst ?_
    apply postTwin_keeps
    exact h2

theorem postNonce_keeps {s : State} (h : Keeps P W s) : Keeps P W (postNonce s) := by
  unfold postNonce
  refine Keeps.ite ?_ ?_
  · extract_lets +onlyGivenNames s1
    have h1 : Keeps2 P W s1 := by
      dsimp -zeta only [s1]
      apply freshBytes_keeps
      exact h
    clear_value s1
    apply postFrame_keeps
    extract_lets +onlyGivenNames s2
    have h2 : Keeps P W s2 := by
      dsimp -zeta only [s2]
      refine Keeps2.snd ?_
      exact h1
    clear_value s2
    refine Keeps.upd (s := s2) ?_ rfl rfl
    exact h2
  · refine Keeps.upd (s := s) ?_ rfl rfl
    exact h

theorem restartFrames_keeps {s : State} (h : Keeps P W s) : Keeps P W (restartFrames s) := by
  unfold restartFrames
  refine Keeps.upd (s := s) ?_ rfl rfl
  exact h

theorem linkLost_keeps {s : State} (h : Keeps P W s) : Keeps P W (linkLost s) := by
  unfold linkLost
  apply restartFrames_keeps
  refine Keeps.upd (s := s) ?_ rfl rfl
  exact h

theorem retrain_keeps {s : State} (h : Keeps P W s) : Keeps P W (retrain s) := by
  unfold retrain
  apply linkLost_keeps
  refine Keeps.upd (s := s) ?_ rfl rfl
  exact h

theorem failCeremony_keeps {s : State} (x2 : Status) (x3 : Nat) (h : Keeps P W s) : Keeps P W (failCeremony s x2 x3) := by
  unfold failCeremony
  extract_lets +onlyGivenNames s1
  extract_lets +onlyGivenNames s2
  extract_lets +onlyGivenNames s3
  extract_lets +onlyGivenNames s4
  have h1 : Keeps P W s4 := by
    dsimp -zeta only [s4]
    refine Keeps.upd (s := s) ?_ rfl rfl
    exact h
  clear_value s4
  clear_value s3
  clear_value s2
  clear_value s1
  split
  · apply adminFail_keeps
    exact h1
  · exact h1

theorem installItem_keeps {s : State} (x2 : Nat) (x3 : Nat) (x4 : List Byte) (h : Keeps P W s) : Keeps P W (installItem s x2 x3 x4) := by
  unfold installItem
  split
  · refine Keeps.upd (s := s) ?_ rfl rfl
    exact h
  · refine Keeps.upd (s := s) ?_ rfl rfl
    exact h
  · apply modAllot_keeps
    exact h
  · split
    · refine Keeps.upd (s := s) ?_ rfl rfl
      exact h
    · exact h
  · apply modAllot_keeps
    exact h
  · split
    refine Keeps.upd (s := s) ?_ rfl rfl
    exact h
  · refine Keeps.upd (s := s) ?_ rfl rfl
    exact h
  · apply modStateful_keeps
    exact h
  · refine Keeps.upd (s := s) ?_ rfl rfl
    exact h
  · refine Keeps.upd (s := s) ?_ rfl rfl
    exact h
  · refine Keeps.upd (s := s) ?_ rfl rfl
    exact h
  · refine Keeps.upd (s := s) ?_ rfl rfl
    exact h
  · extract_lets +onlyGivenNames s2
    extract_lets +onlyGivenNames s3
    have h3 : Keeps P W s3 := by
      dsimp -zeta only [s3]
      refine Keeps.upd (s := s) ?_ rfl rfl
      exact h
    clear_value s3
    refine Keeps.ite ?_ ?_
    · refine Keeps.upd (s := s3) ?_ rfl rfl
      exact h3
    · exact h3
  · refine Keeps.upd (s := s) ?_ rfl rfl
    exact h

theorem pairingRecord_keeps {p : State × Nat} (h : Keeps1 P W p) : Keeps P W (pairingRecord p) := Keeps.upd h rfl rfl

theorem installState_keeps {s : State} (x2 : Nat) (x3 : Nat) (x4 : List Byte) (h : Keeps P W s) : Keeps P W (installState s x2 x3 x4) := by
  unfold installState
  extract_lets +onlyGivenNames s1
  have h1 : Keeps P W s1 := by
    dsimp -zeta only [s1]
    split
    · refine Keeps.ite ?_ h
      exact pairingRecord_keeps (postKeyEvent_keeps _ _ _ _ _ h)
    · refine Keeps.ite ?_ h
      exact pairingRecord_keeps (postRecord_keeps _ _ _ _ _ h)
    · exact h
  exact installItem_keeps _ _ _ h1

theorem logSundial_keeps {s : State} (x2 : Nat) (x3 : W16) (x4 : List Byte) (h : Keeps P W s) : Keeps P W (logSundial s x2 x3 x4) := by
  unfold logSundial
  apply logEvent_keeps
  exact h

theorem recordHistory_keeps {s : State} (x2 : Nat) (h : Keeps P W s) : Keeps P W (recordHistory s x2) := by
  unfold recordHistory
  extract_lets +onlyGivenNames s1
  have h1 : Keeps2 P W s1 := by
    dsimp -zeta only [s1]
    split
    · refine Keeps2.mk ?_
      exact h
    · refine Keeps2.mk ?_
      refine Keeps2.snd ?_
      apply fresh_keeps
      exact h
  clear_value s1
  extract_lets +onlyGivenNames s2
  have h2 : Keeps P W s2 := by
    dsimp -zeta only [s2]
    refine Keeps2.snd ?_
    exact h1
  clear_value s2
  extract_lets +onlyGivenNames s3
  extract_lets +onlyGivenNames s4
  refine Keeps.upd (s := s2) ?_ rfl rfl
  exact h2

theorem noteTemp_keeps {s : State} (x2 : W16) (h : Keeps P W s) : Keeps P W (noteTemp s x2) := by
  unfold noteTemp
  extract_lets +onlyGivenNames s1
  refine Keeps.upd (s := s) ?_ rfl rfl
  exact h

theorem avsFails_keeps {s : State} (x2 : Byte) (h : Keeps P W s) : Keeps P W (avsFails s x2) := by
  unfold avsFails
  apply logSundial_keeps
  refine Keeps.upd (s := s) ?_ rfl rfl
  exact h

theorem moveReference_keeps {s : State} (x2 : Nat) (x3 : Nat) (h : Keeps P W s) : Keeps P W (moveReference s x2 x3) := by
  unfold moveReference
  refine Keeps.ite ?_ ?_
  · refine Keeps.upd (s := s) ?_ rfl rfl
    exact h
  · refine Keeps.upd (s := s) ?_ rfl rfl
    exact h

theorem writeSetPoint_keeps {s : State} (x2 : Nat) (x3 : Nat) (x4 : Nat) (x5 : Bool) (x6 : Byte) (h : Keeps P W s) : Keeps P W (writeSetPoint s x2 x3 x4 x5 x6) := by
  unfold writeSetPoint
  extract_lets +onlyGivenNames s1
  refine Keeps.ite ?_ ?_
  · exact h
  · refine Keeps.ite ?_ ?_
    · apply avsFails_keeps
      exact h
    · extract_lets +onlyGivenNames s2
      extract_lets +onlyGivenNames s3
      have h1 : Keeps P W s3 := by
        dsimp -zeta only [s3]
        refine Keeps.upd (s := s) ?_ rfl rfl
        exact h
      clear_value s3
      extract_lets +onlyGivenNames s4
      have h2 : Keeps P W s4 := by
        dsimp -zeta only [s4]
        apply moveReference_keeps
        exact h1
      clear_value s4
      extract_lets +onlyGivenNames s5
      have h3 : Keeps P W s5 := by
        dsimp -zeta only [s5]
        apply logSundial_keeps
        exact h2
      clear_value s5
      apply recordHistory_keeps
      exact h3

theorem plan_keeps {s : State} (x2 : Nat) (x3 : Nat) (h : Keeps P W s) : Keeps P W (plan s x2 x3) := by
  unfold plan
  extract_lets +onlyGivenNames s1
  refine Keeps.ite ?_ ?_
  · exact h
  · extract_lets +onlyGivenNames s2
    extract_lets +onlyGivenNames s3
    have h1 : Keeps P W s3 := by
      dsimp -zeta only [s3]
      refine Keeps.upd (s := s) ?_ rfl rfl
      exact h
    clear_value s3
    apply recordHistory_keeps
    apply logSundial_keeps
    exact h1

theorem enterPoint_keeps {s : State} (x2 : Nat) (h : Keeps P W s) : Keeps P W (enterPoint s x2) := by
  unfold enterPoint
  extract_lets +onlyGivenNames s1
  extract_lets +onlyGivenNames s2
  refine Keeps.ite ?_ ?_
  · exact h
  · extract_lets +onlyGivenNames s3
    extract_lets +onlyGivenNames s4
    have h1 : Keeps P W s4 := by
      dsimp -zeta only [s4]
      refine Keeps.upd (s := s) ?_ rfl rfl
      exact h
    clear_value s4
    apply recordHistory_keeps
    apply logSundial_keeps
    exact h1

theorem windowRun_keeps {s : State} (h : Keeps P W s) : Keeps P W (windowRun s) := by
  unfold windowRun
  split
  · refine Keeps.ite ?_ ?_
    · extract_lets +onlyGivenNames s3
      extract_lets +onlyGivenNames s4
      have h4 : Keeps P W s4 := by
        dsimp -zeta only [s4]
        refine Keeps.upd (s := s) ?_ rfl rfl
        exact h
      clear_value s4
      apply enterPoint_keeps
      apply plan_keeps
      exact h4
    · exact h
  · exact h

theorem endCap_keeps {s : State} (h : Keeps P W s) : Keeps P W (endCap s) := by
  unfold endCap
  refine Keeps.ite ?_ ?_
  · extract_lets +onlyGivenNames s1
    have h1 : Keeps2 P W s1 := by
      dsimp -zeta only [s1]
      apply fresh_keeps
      exact h
    clear_value s1
    extract_lets +onlyGivenNames s2
    have h2 : Keeps P W s2 := by
      dsimp -zeta only [s2]
      refine Keeps2.snd ?_
      exact h1
    clear_value s2
    extract_lets +onlyGivenNames s3
    extract_lets +onlyGivenNames s4
    have h3 : Keeps P W s4 := by
      dsimp -zeta only [s4]
      refine Keeps.upd (s := s2) ?_ rfl rfl
      exact h2
    clear_value s4
    apply recordHistory_keeps
    apply logSundial_keeps
    exact h3
  · exact h

theorem sundialEpoch_keeps {s : State} (h : Keeps P W s) : Keeps P W (sundialEpoch s) := by
  unfold sundialEpoch
  extract_lets +onlyGivenNames s1
  have h1 : Keeps P W s1 := by
    dsimp -zeta only [s1]
    apply endCap_keeps
    exact h
  clear_value s1
  extract_lets +onlyGivenNames s2
  extract_lets +onlyGivenNames s3
  have h2 : Keeps P W s3 := by
    dsimp -zeta only [s3]
    split
    · apply plan_keeps
      refine Keeps.upd (s := s1) ?_ rfl rfl
      exact h1
    · exact h1
  clear_value s3
  apply enterPoint_keeps
  exact h2

theorem excludeSites_keeps {s : State} (x2 : List (Nat × Nat)) (h : Keeps P W s) : Keeps P W (excludeSites s x2) := by
  unfold excludeSites
  refine Keeps.foldl ?_ ?_
  · intro a1 a2 a3
    apply logSundial_keeps
    exact a3
  · exact h

theorem takeReadings_keeps {s : State} (x2 : List (Nat × Nat)) (x3 : AvsReport) (h : Keeps P W s) : Keeps P W (takeReadings s x2 x3) := by
  unfold takeReadings
  extract_lets +onlyGivenNames s1
  extract_lets +onlyGivenNames s2
  have h1 : Keeps P W s2 := by
    dsimp -zeta only [s2]
    refine Keeps.upd (s := s) ?_ rfl rfl
    exact h
  clear_value s2
  apply excludeSites_keeps
  exact h1

theorem takeMargin_keeps {s : State} (x2 : List (Nat × Nat)) (h : Keeps P W s) : Keeps P W (takeMargin s x2) := by
  unfold takeMargin
  extract_lets +onlyGivenNames s1
  refine Keeps.upd (s := s) ?_ rfl rfl
  exact h

theorem measureBlind_keeps {s : State} (x2 : AvsReport) (h : Keeps P W s) : Keeps P W (measureBlind s x2) := by
  unfold measureBlind
  extract_lets +onlyGivenNames s1
  extract_lets +onlyGivenNames s2
  have h1 : Keeps P W s2 := by
    dsimp -zeta only [s2]
    refine Keeps.upd (s := s) ?_ rfl rfl
    exact h
  clear_value s2
  extract_lets +onlyGivenNames s3
  have h2 : Keeps P W s3 := by
    dsimp -zeta only [s3]
    apply logSundial_keeps
    exact h1
  clear_value s3
  refine Keeps.ite ?_ ?_
  · exact h2
  · apply writeSetPoint_keeps
    exact h2

theorem stepDown_keeps {s : State} (x2 : ℤ) (h : Keeps P W s) : Keeps P W (stepDown s x2) := by
  unfold stepDown
  extract_lets +onlyGivenNames s1
  extract_lets +onlyGivenNames s2
  have h1 : Keeps P W s2 := by
    dsimp -zeta only [s2]
    refine Keeps.upd (s := s) ?_ rfl rfl
    exact h
  clear_value s2
  refine Keeps.ite ?_ ?_
  · apply plan_keeps
    exact h1
  · extract_lets +onlyGivenNames s3
    extract_lets +onlyGivenNames s4
    have h2 : Keeps P W s4 := by
      dsimp -zeta only [s4]
      refine Keeps.upd (s := s2) ?_ rfl rfl
      exact h1
    clear_value s4
    apply logSundial_keeps
    exact h2

theorem applyRules_keeps {s : State} (x2 : AvsReport) (h : Keeps P W s) : Keeps P W (applyRules s x2) := by
  unfold applyRules
  extract_lets +onlyGivenNames s1
  extract_lets +onlyGivenNames s2
  extract_lets +onlyGivenNames s3
  extract_lets +onlyGivenNames s4
  extract_lets +onlyGivenNames s5
  extract_lets +onlyGivenNames s6
  extract_lets +onlyGivenNames s7
  have h1 : Keeps P W s7 := by
    dsimp -zeta only [s7]
    refine Keeps.upd (s := s) ?_ rfl rfl
    exact h
  clear_value s7
  refine Keeps.ite ?_ ?_
  · refine Keeps.ite ?_ ?_
    · extract_lets +onlyGivenNames s8
      extract_lets +onlyGivenNames s9
      have h2 : Keeps P W s9 := by
        dsimp -zeta only [s9]
        refine Keeps.ite ?_ ?_
        · exact h1
        · refine Keeps.upd (s := s7) ?_ rfl rfl
          exact h1
      clear_value s9
      apply writeSetPoint_keeps
      exact h2
    · apply stepDown_keeps
      exact h1
  · refine Keeps.ite ?_ ?_
    · refine Keeps.upd (s := s7) ?_ rfl rfl
      exact h1
    · extract_lets +onlyGivenNames s8
      extract_lets +onlyGivenNames s9
      have h2 : Keeps P W s9 := by
        dsimp -zeta only [s9]
        refine Keeps.ite ?_ ?_
        · exact h1
        · refine Keeps.upd (s := s7) ?_ rfl rfl
          exact h1
      clear_value s9
      refine Keeps.ite ?_ ?_
      · apply writeSetPoint_keeps
        exact h2
      · exact h2

theorem measure_keeps {s : State} (x2 : List (Nat × Nat)) (x3 : AvsReport) (h : Keeps P W s) : Keeps P W (Sys2Proof.Machine.measure s x2 x3) := by
  unfold Sys2Proof.Machine.measure
  extract_lets +onlyGivenNames s1
  have h1 : Keeps P W s1 := by
    dsimp -zeta only [s1]
    apply takeReadings_keeps
    exact h
  clear_value s1
  refine Keeps.ite ?_ ?_
  · apply measureBlind_keeps
    exact h1
  · apply applyRules_keeps
    apply takeMargin_keeps
    exact h1

theorem calibrateSundial_keeps {s : State} (x2 : List (Nat × Nat)) (x3 : AvsReport) (h : Keeps P W s) : Keeps P W (calibrateSundial s x2 x3) := by
  unfold calibrateSundial
  extract_lets +onlyGivenNames s1
  have h1 : Keeps P W s1 := by
    dsimp -zeta only [s1]
    apply takeReadings_keeps
    exact h
  clear_value s1
  extract_lets +onlyGivenNames s2
  have h2 : Keeps P W s2 := by
    dsimp -zeta only [s2]
    refine Keeps.ite ?_ ?_
    · exact h1
    · apply avsFails_keeps
      exact h1
  clear_value s2
  refine Keeps.ite ?_ ?_
  · apply measureBlind_keeps
    exact h2
  · extract_lets +onlyGivenNames s3
    have h3 : Keeps P W s3 := by
      dsimp -zeta only [s3]
      apply takeMargin_keeps
      exact h2
    clear_value s3
    extract_lets +onlyGivenNames s4
    apply plan_keeps
    exact h3

theorem sundialMount_keeps {s : State} (x2 : Option (List Byte)) (h : Keeps P W s) : Keeps P W (sundialMount s x2) := by
  unfold sundialMount
  extract_lets +onlyGivenNames s1
  extract_lets +onlyGivenNames s2
  have h1 : Keeps P W s2 := by
    dsimp -zeta only [s2]
    split
    · exact h
    · extract_lets +onlyGivenNames s3
      extract_lets +onlyGivenNames s4
      have h1 : Keeps P W s4 := by
        dsimp -zeta only [s4]
        refine Keeps.ite ?_ ?_
        · refine Keeps.upd (s := s) ?_ rfl rfl
          exact h
        · exact h
      clear_value s4
      refine Keeps.ite ?_ ?_
      · apply writeSetPoint_keeps
        exact h1
      · exact h1
  clear_value s2
  apply recordHistory_keeps
  exact h1

theorem threshWrite_keeps {s : State} (x2 : W32) (h : Keeps P W s) : Keeps P W (threshWrite s x2) := by
  unfold threshWrite
  extract_lets +onlyGivenNames s1
  refine Keeps.ite ?_ ?_
  · refine Keeps.upd (s := s) ?_ rfl rfl
    exact h
  · exact h

theorem execSdlThreshWrite_keeps (x1 : W32) {s : State} (h : Keeps P W s) : KeepsO P W (execSdlThreshWrite x1 s) := by
  unfold execSdlThreshWrite
  refine KeepsO.next ?_
  refine Keeps.ite ?_ ?_
  · apply threshWrite_keeps
    exact h
  · exact h

theorem execSundialMeasurement_keeps (x1 : Vector SiteDelay 24) (x2 : AvsReport) (x3 : BitVec 16) {s : State} (h : Keeps P W s) : KeepsO P W (execSundialMeasurement x1 x2 x3 s) := by
  unfold execSundialMeasurement
  refine KeepsO.next ?_
  refine Keeps.ite ?_ ?_
  · apply measure_keeps
    apply noteTemp_keeps
    apply windowRun_keeps
    exact h
  · exact h

theorem execStepUpWindowEnd_keeps {s : State} (h : Keeps P W s) : KeepsO P W (execStepUpWindowEnd s) := by
  unfold execStepUpWindowEnd
  refine KeepsO.next ?_
  apply windowRun_keeps
  exact h

theorem execGlitchReferenceUpdate_keeps (x1 : Bool) {s : State} (h : Keeps P W s) : KeepsO P W (execGlitchReferenceUpdate x1 s) := by
  unfold execGlitchReferenceUpdate
  refine KeepsO.next ?_
  split
  · refine Keeps.ite ?_ ?_
    · refine Keeps.upd (s := s) ?_ rfl rfl
      exact h
    · exact h
  · exact h

theorem execThermalThrottle_keeps (x1 : BitVec 16) (x2 : BitVec 16) {s : State} (h : Keeps P W s) : KeepsO P W (execThermalThrottle x1 x2 s) := by
  unfold execThermalThrottle
  refine KeepsO.next ?_
  refine Keeps.ite ?_ ?_
  · extract_lets +onlyGivenNames s3
    have h3 : Keeps P W s3 := by
      dsimp -zeta only [s3]
      apply noteTemp_keeps
      apply noteTemp_keeps
      exact h
    clear_value s3
    refine Keeps.ite ?_ ?_
    · exact h3
    · refine Keeps.ite ?_ ?_
      · refine Keeps.upd (s := s3) ?_ rfl rfl
        exact h3
      · extract_lets +onlyGivenNames s6
        extract_lets +onlyGivenNames s7
        have h7 : Keeps P W s7 := by
          dsimp -zeta only [s7]
          refine Keeps.upd (s := s3) ?_ rfl rfl
          exact h3
        clear_value s7
        extract_lets +onlyGivenNames s8
        have h8 : Keeps P W s8 := by
          dsimp -zeta only [s8]
          apply logSundial_keeps
          exact h7
        clear_value s8
        apply recordHistory_keeps
        exact h8
  · exact h

theorem execThermalCapEnd_keeps {s : State} (h : Keeps P W s) : KeepsO P W (execThermalCapEnd s) := by
  unfold execThermalCapEnd
  refine KeepsO.next ?_
  refine Keeps.ite ?_ ?_
  · refine Keeps.upd (s := s) ?_ rfl rfl
    exact h
  · exact h

theorem execHistoryPeriodic_keeps {s : State} (h : Keeps P W s) : KeepsO P W (execHistoryPeriodic s) := by
  unfold execHistoryPeriodic
  refine KeepsO.next ?_
  refine Keeps.ite ?_ ?_
  · apply recordHistory_keeps
    exact h
  · exact h

theorem configureVault_keeps {s : State} (x2 : List DieReport) (h : Keeps P W s) : Keeps P W (configureVault s x2) := by
  unfold configureVault
  refine Keeps.upd (s := s) ?_ rfl rfl
  exact h

theorem refuseMedia_keeps {s : State} (x2 : Nat × Nat × Nat) (h : Keeps P W s) : Keeps1 P W (refuseMedia s x2) := by
  unfold refuseMedia
  extract_lets +onlyGivenNames s1
  refine Keeps1.mk ?_
  refine Keeps.upd (s := s) ?_ rfl rfl
  exact h

theorem modDie_keeps {s : State} (x2 : Nat) (x3 : Die → Die) (h : Keeps P W s) : Keeps P W (modDie s x2 x3) := by
  unfold modDie
  refine Keeps.upd (s := s) ?_ rfl rfl
  exact h

theorem modBlock_keeps {s : State} (x2 : Nat) (x3 : Nat) (x4 : Block → Block) (h : Keeps P W s) : Keeps P W (modBlock s x2 x3 x4) := by
  unfold modBlock
  apply modDie_keeps
  exact h

theorem openBlock_keeps {s : State} (x2 : Nat) (x3 : Nat) (x4 : Stream) (x5 : Bool) (h : Keeps P W s) : Keeps P W (openBlock s x2 x3 x4 x5) := by
  unfold openBlock
  extract_lets +onlyGivenNames s1
  have h1 : Keeps P W s1 := by
    dsimp -zeta only [s1]
    apply modDie_keeps
    exact h
  clear_value s1
  extract_lets +onlyGivenNames s2
  have h2 : Keeps P W s2 := by
    dsimp -zeta only [s2]
    apply modBlock_keeps
    exact h1
  clear_value s2
  refine Keeps.ite ?_ ?_
  · refine Keeps.upd (s := s2) ?_ rfl rfl
    exact h2
  · exact h2

/-- Taking a block for a page. -/
theorem takeBlock_keeps {s t : State} {d : Nat} {st : Stream} {b : Bool} {n : Nat} (h : Keeps P W s)
    (e : takeBlock s d st b = some (t, n)) : Keeps P W t := by
  have ho : ∀ (x : Die) (r : Bool), (leastWorn x).map (fun b => (openBlock s d b st r, b)) = some (t, n) → Keeps P W t := by
    intro x r e
    simp only [Option.map_eq_some_iff, Prod.mk.injEq] at e
    obtain ⟨b, _, rfl, _⟩ := e
    exact openBlock_keeps _ _ _ _ h
  unfold takeBlock at e
  split at e
  · cases e
  · split at e
    · cases e; exact h
    · dsimp only at e
      split at e
      · split at e
        · exact ho _ true e
        · cases e
      · split at e
        · exact ho _ false e
        · cases e

theorem programPage_keeps {s : State} (x2 : Nat) (x3 : Nat) (x4 : PageContent) (x5 : Bool) (h : Keeps P W s) : Keeps P W (programPage s x2 x3 x4 x5) := by
  unfold programPage
  extract_lets +onlyGivenNames s1
  extract_lets +onlyGivenNames s2
  have h2 : Keeps P W s2 := by
    dsimp -zeta only [s2]
    apply modBlock_keeps
    exact h
  clear_value s2
  refine Keeps.upd (s := s2) ?_ rfl rfl
  exact h2

theorem driveWp_keeps {s : State} (x2 : Nat) (x3 : Bool) (h : Keeps P W s) : Keeps P W (driveWp s x2 x3) := by
  unfold driveWp
  refine Keeps.upd (s := s) ?_ rfl rfl
  exact h

theorem addChore_keeps {s : State} (x2 : Nat) (x3 : Nat) (x4 : Nat) (h : Keeps P W s) : Keeps P W (addChore s x2 x3 x4) := by
  unfold addChore
  extract_lets +onlyGivenNames s1
  refine Keeps.ite ?_ ?_
  · exact h
  · refine Keeps.upd (s := s) ?_ rfl rfl
    exact h

theorem noteFull_keeps {s : State} (h : Keeps P W s) : Keeps P W (noteFull s) := by
  unfold noteFull
  refine Keeps.upd (s := s) ?_ rfl rfl
  exact h

theorem growBad_keeps {s : State} (x2 : Nat) (x3 : Nat) (h : Keeps P W s) : Keeps P W (growBad s x2 x3) := by
  unfold growBad
  extract_lets +onlyGivenNames s1
  have h1 : Keeps P W s1 := by
    dsimp -zeta only [s1]
    apply modBlock_keeps
    exact h
  clear_value s1
  extract_lets +onlyGivenNames s2
  have h2 : Keeps P W s2 := by
    dsimp -zeta only [s2]
    refine Keeps.ite ?_ ?_
    · exact h1
    · apply addChore_keeps
      exact h1
  clear_value s2
  apply noteFull_keeps
  apply addChore_keeps
  exact h2

theorem stalePages_keeps {s : State} (x2 : MediaPage → Bool) (h : Keeps P W s) : Keeps P W (stalePages s x2) := by
  unfold stalePages
  refine Keeps.upd (s := s) ?_ rfl rfl
  exact h

theorem queueErase_keeps {s : State} (x2 : Nat) (x3 : Nat) (h : Keeps P W s) : Keeps P W (queueErase s x2 x3) := by
  unfold queueErase
  split
  · refine Keeps.ite ?_ ?_
    · apply modDie_keeps
      apply modBlock_keeps
      exact h
    · exact h
  · exact h

theorem restorePairing_keeps {s : State} (x2 : TwinPart) (h : Keeps P W s) : Keeps P W (restorePairing s x2) := by
  unfold restorePairing
  extract_lets +onlyGivenNames s1
  extract_lets +onlyGivenNames s2
  extract_lets +onlyGivenNames s3
  have h3 : Keeps P W s3 := by
    dsimp -zeta only [s3]
    refine Keeps.upd (s := s) ?_ rfl rfl
    exact h
  clear_value s3
  refine Keeps.ite ?_ ?_
  · exact h3
  · apply Keeps1.fst
    apply postTwin_keeps
    exact h3

theorem unpair_keeps {s : State} (h : Keeps P W s) : Keeps P W (unpair s) := by
  unfold unpair
  refine Keeps.upd (s := s) ?_ rfl rfl
  exact h

theorem dropImageKeys_keeps {s : State} (x2 : KMap Key) (h : Keeps P W s) : Keeps P W (dropImageKeys s x2) := by
  unfold dropImageKeys
  refine Keeps.foldl ?_ ?_
  · intro a1 a2 a3
    refine Keeps1.fst ?_
    apply postRecord_keeps
    exact a3
  · exact h

theorem restoreImage_keeps {s : State} (h : Keeps P W s) : Keeps P W (restoreImage s) := by
  unfold restoreImage
  split
  · exact h
  · refine Keeps.ite ?_ ?_
    · exact h
    · refine Keeps.ite ?_ ?_
      · extract_lets +onlyGivenNames s4
        extract_lets +onlyGivenNames s5
        extract_lets +onlyGivenNames s6
        extract_lets +onlyGivenNames s7
        have h7 : Keeps P W s7 := by
          dsimp -zeta only [s7]
          apply unpair_keeps
          refine Keeps.upd (s := s) ?_ rfl rfl
          exact h
        clear_value s7
        apply Keeps1.fst
        apply postRecord_keeps
        exact h7
      · extract_lets +onlyGivenNames s4
        extract_lets +onlyGivenNames s5
        extract_lets +onlyGivenNames s6
        extract_lets +onlyGivenNames s7
        have h7 : Keeps P W s7 := by
          dsimp -zeta only [s7]
          refine Keeps.foldl (fun s35 x35 h35 => ?_) ?_
          · refine Keeps.upd (s := s35) ?_ rfl rfl
            exact h35
          · exact h
        clear_value s7
        extract_lets +onlyGivenNames s8
        extract_lets +onlyGivenNames s9
        extract_lets +onlyGivenNames s10
        extract_lets +onlyGivenNames s11
        extract_lets +onlyGivenNames s12
        have h12 : Keeps P W s12 := by
          dsimp -zeta only [s12]
          split
          · apply restorePairing_keeps
            exact h7
          · exact h7
        clear_value s12
        extract_lets +onlyGivenNames s4
        extract_lets +onlyGivenNames s5
        have h5 : Keeps P W s5 := by
          dsimp -zeta only [s5]
          refine Keeps.upd (s := s12) ?_ rfl rfl
          exact h12
        clear_value s5
        extract_lets +onlyGivenNames s6
        extract_lets +onlyGivenNames s7
        extract_lets +onlyGivenNames s8
        have h8 : Keeps P W s8 := by
          dsimp -zeta only [s8]
          refine Keeps.upd (s := s5) ?_ rfl rfl
          exact h5
        clear_value s8
        apply dropImageKeys_keeps
        exact h8

theorem postGaps_keeps {s : State} (h : Keeps P W s) : Keeps P W (postGaps s) := by
  unfold postGaps
  extract_lets +onlyGivenNames s1
  extract_lets +onlyGivenNames s2
  extract_lets +onlyGivenNames s3
  extract_lets +onlyGivenNames s4
  extract_lets +onlyGivenNames s5
  refine Keeps.upd (s := s) ?_ rfl rfl
  exact h

theorem postCause_keeps {s : State} (h : Keeps P W s) : Keeps P W (postCause s) := by
  unfold postCause
  refine Keeps.ite ?_ ?_
  · extract_lets +onlyGivenNames s1
    extract_lets +onlyGivenNames s2
    extract_lets +onlyGivenNames s3
    extract_lets +onlyGivenNames s4
    refine Keeps.upd (s := s) ?_ rfl rfl
    exact h
  · exact h

theorem forwardRing_keeps {s : State} (h : Keeps P W s) : Keeps P W (forwardRing s) := by
  unfold forwardRing
  refine Keeps.ite ?_ ?_
  · exact h
  · refine Keeps.foldl ?_ ?_
    · intro a1 a2 a3
      split
      · refine Keeps.ite ?_ ?_
        · exact a3
        · extract_lets +onlyGivenNames s1
          extract_lets +onlyGivenNames s2
          have h1 : Keeps1 P W s2 := by
            dsimp -zeta only [s2]
            apply postRecord_keeps
            exact a3
          clear_value s2
          extract_lets +onlyGivenNames s3
          have h2 : Keeps P W s3 := by
            dsimp -zeta only [s3]
            refine Keeps1.fst ?_
            exact h1
          clear_value s3
          refine Keeps.upd (s := s3) ?_ rfl rfl
          exact h2
      · exact a3
    · exact h

theorem deliverDump_keeps (x1 : Bool) {s : State} (h : Keeps P W s) : Keeps P W (deliverDump x1 s) := by
  unfold deliverDump
  split
  · refine Keeps.ite ?_ ?_
    · extract_lets +onlyGivenNames s1
      have h1 : Keeps P W s1 := by
        dsimp -zeta only [s1]
        refine Keeps.foldl ?_ ?_
        · intro a1 a2 a3
          apply send_keeps
          exact a3
        · exact h
      clear_value s1
      refine Keeps.upd (s := s1) ?_ rfl rfl
      exact h1
    · exact h
  · exact h

theorem mountOwn_keeps {s : State} (x2 : List DieReport) (h : Keeps P W s) : Keeps P W (mountOwn s x2) := by
  unfold mountOwn
  extract_lets +onlyGivenNames s1
  extract_lets +onlyGivenNames s2
  extract_lets +onlyGivenNames s3
  extract_lets +onlyGivenNames s4
  have h4 : Keeps P W s4 := by
    dsimp -zeta only [s4]
    apply configureVault_keeps
    exact h
  clear_value s4
  extract_lets +onlyGivenNames s5
  extract_lets +onlyGivenNames s6
  extract_lets +onlyGivenNames s7
  extract_lets +onlyGivenNames s8
  extract_lets +onlyGivenNames s9
  extract_lets +onlyGivenNames s1
  have h1 : Keeps P W s1 := by
    dsimp -zeta only [s1]
    refine Keeps.upd (s := s4) ?_ rfl rfl
    exact h4
  clear_value s1
  extract_lets +onlyGivenNames s2
  have h2 : Keeps P W s2 := by
    dsimp -zeta only [s2]
    refine Keeps.ite ?_ ?_
    · refine Keeps.foldl (fun s22 x22 h22 => ?_) ?_
      · apply addChore_keeps
        exact h22
      · exact h1
    · exact h1
  clear_value s2
  extract_lets +onlyGivenNames s3
  have h3 : Keeps P W s3 := by
    dsimp -zeta only [s3]
    apply deliverDump_keeps
    apply sundialMount_keeps
    apply noteFull_keeps
    exact h2
  clear_value s3
  refine Keeps.ite ?_ ?_
  · exact h3
  · apply forwardRing_keeps
    apply restoreImage_keeps
    apply postCause_keeps
    refine Keeps.ite ?_ ?_
    · apply postGaps_keeps
      exact h3
    · exact h3

theorem mountForeign_keeps {s : State} (x2 : List DieReport) (x3 : List (Bool × Vector Byte 128)) (h : Keeps P W s) : Keeps P W (mountForeign s x2 x3) := by
  unfold mountForeign
  extract_lets +onlyGivenNames s1
  have h1 : Keeps P W s1 := by
    dsimp -zeta only [s1]
    apply configureVault_keeps
    exact h
  clear_value s1
  extract_lets +onlyGivenNames s2
  refine Keeps.upd (s := s1) ?_ rfl rfl
  exact h1

theorem formatPrepare_keeps (x1 : List DieReport) {s : State} (x3 : Job) (h : Keeps P W s) : Keeps P W (formatPrepare x1 s x3) := by
  unfold formatPrepare
  extract_lets +onlyGivenNames s1
  extract_lets +onlyGivenNames s2
  extract_lets +onlyGivenNames s3
  extract_lets +onlyGivenNames s4
  extract_lets +onlyGivenNames s5
  refine Keeps.upd (s := s) ?_ rfl rfl
  exact h

theorem formatMedia_keeps {s : State} (f : Formatting) (h : Keeps P W s) : Keeps P W (formatMedia f s) := by
  have h1 : ∀ u : State, Keeps P W u → Keeps P W (match takeBlock u 0 .system false with
      | some (s, b) => noteFull (programPage s 0 b (.checkpoint true) false)
      | none => noteFull u) := by
    intro u hu
    split
    · rename_i v4
      exact noteFull_keeps (programPage_keeps _ _ _ _ (takeBlock_keeps hu v4))
    · exact noteFull_keeps hu
  exact h1 _ (Keeps.upd (s := s) h rfl rfl)

theorem formatRecord_keeps {s : State} (x2 : Job) (h : Keeps P W s) : Keeps1 P W (formatRecord s x2) := by
  unfold formatRecord
  extract_lets +onlyGivenNames s1
  extract_lets +onlyGivenNames s2
  extract_lets +onlyGivenNames s3
  refine Keeps1.mk ?_
  refine Keeps.upd (s := s) ?_ rfl rfl
  exact h

theorem formatFollow_keeps {s : State} (x2 : Job) (h : Keeps P W s) : Keeps1 P W (formatFollow s x2) := by
  unfold formatFollow
  split
  · extract_lets +onlyGivenNames s2
    have h2 : Keeps P W s2 := by
      dsimp -zeta only [s2]
      apply formatMedia_keeps
      exact h
    clear_value s2
    apply formatRecord_keeps
    refine Keeps.foldl (fun s22 x22 h22 => ?_) ?_
    · apply Keeps1.fst
      apply postImageChange_keeps
      exact h22
    · exact h2
  · refine Keeps1.mk ?_
    exact h

theorem cmdVaultFormat_keeps (x1 : List DieReport) (x2 : VaultFound) : AdminCmd.Keeps (cmdVaultFormat x1 x2) := by
  refine ⟨?_, ?_, ?_, ?_⟩
  · intro P W s j h
    exact formatPrepare_keeps x1 j h
  · intro P W s j h
    exact noRecords_keeps j h
  · intro P W s j h
    exact formatFollow_keeps j h
  · intro P W s k j h
    exact forwardRing_keeps (Keeps.upd (s := s) h rfl rfl)

theorem cmdVaultFormatLater_keeps : AdminCmd.Keeps (cmdVaultFormatLater) := by
  refine ⟨?_, ?_, ?_, ?_⟩
  · intro P W s j h
    dsimp -zeta only [cmdVaultFormatLater]
    refine AdminCmd.Keeps.prepare ?_ ?_
    · exact cmdVaultFormat_keeps _ _
    · exact h
  · intro P W s j h
    dsimp -zeta only [cmdVaultFormatLater]
    refine AdminCmd.Keeps.records ?_ ?_
    · exact cmdVaultFormat_keeps _ _
    · exact h
  · intro P W s j h
    dsimp -zeta only [cmdVaultFormatLater]
    refine AdminCmd.Keeps.follow ?_ ?_
    · exact cmdVaultFormat_keeps _ _
    · exact h
  · intro P W s k j h
    dsimp -zeta only [cmdVaultFormatLater]
    refine AdminCmd.Keeps.apply ?_ ?_
    · exact cmdVaultFormat_keeps _ _
    · exact h

theorem reportMedia_keeps {s : State} (x2 : Nat) (x3 : Option (Nat × Nat × Nat)) (h : Keeps P W s) : Keeps P W (reportMedia s x2 x3) := by
  unfold reportMedia
  split
  · refine Keeps.ite ?_ ?_
    · extract_lets +onlyGivenNames s1
      have h1 : Keeps1 P W s1 := by
        dsimp -zeta only [s1]
        apply refuseMedia_keeps
        exact h
      clear_value s1
      apply modJob_keeps
      refine Keeps1.fst ?_
      exact h1
    · exact h
  · exact h

theorem mountApply_keeps (x1 : List DieReport) (x2 : VaultFound) {s : State} (x4 : Nat) (x5 : Job) (h : Keeps P W s) : Keeps1 P W (mountApply x1 x2 s x4 x5) := by
  unfold mountApply
  extract_lets +onlyGivenNames s1
  extract_lets +onlyGivenNames s2
  have h2 : Keeps P W s2 := by
    dsimp -zeta only [s2]
    refine Keeps.upd (s := s) ?_ rfl rfl
    exact h
  clear_value s2
  extract_lets +onlyGivenNames s3
  have h3 : Keeps P W s3 := by
    dsimp -zeta only [s3]
    refine Keeps.ite ?_ ?_
    · exact h
    · split
      · apply mountForeign_keeps
        exact h2
      · apply mountOwn_keeps
        exact h2
  clear_value s3
  refine Keeps1.mk ?_
  exact h3

theorem cmdVaultMount_keeps (x1 : List DieReport) (x2 : VaultFound) : AdminCmd.Keeps (cmdVaultMount x1 x2) := by
  refine ⟨?_, ?_, ?_, ?_⟩
  · intro P W s j h
    dsimp -zeta only [cmdVaultMount]
    exact h
  · intro P W s j h
    dsimp -zeta only [cmdVaultMount]
    apply noRecords_keeps
    exact h
  · intro P W s j h
    dsimp -zeta only [cmdVaultMount]
    refine Keeps1.mk ?_
    exact h
  · intro P W s k j h
    dsimp -zeta only [cmdVaultMount]
    apply mountApply_keeps
    exact h

theorem unmountBegin_keeps {s : State} (x2 : Job) (h : Keeps P W s) : Keeps P W (unmountBegin s x2) := by
  unfold unmountBegin
  refine Keeps.upd (s := s) ?_ rfl rfl
  exact h

theorem unmountVault_keeps {s : State} (h : Keeps P W s) : Keeps P W (unmountVault s) := by
  unfold unmountVault
  extract_lets +onlyGivenNames s1
  extract_lets +onlyGivenNames s2
  extract_lets +onlyGivenNames s3
  have h3 : Keeps P W s3 := by
    dsimp -zeta only [s3]
    refine Keeps.ite ?_ ?_
    · split
      · rename_i v4
        extract_lets +onlyGivenNames s6
        have h6 : Keeps P W s6 := by
          dsimp -zeta only [s6]
          apply programPage_keeps
          apply stalePages_keeps
          exact takeBlock_keeps h v4
        clear_value s6
        refine Keeps.upd (s := s6) ?_ rfl rfl
        exact h6
      · refine Keeps.upd (s := s) ?_ rfl rfl
        exact h
    · exact h
  clear_value s3
  refine Keeps.upd (s := s3) ?_ rfl rfl
  exact h3

theorem cmdVaultUnmount_keeps : AdminCmd.Keeps (cmdVaultUnmount) := by
  refine ⟨?_, ?_, ?_, ?_⟩
  · intro P W s j h
    dsimp -zeta only [cmdVaultUnmount]
    apply unmountBegin_keeps
    exact h
  · intro P W s j h
    dsimp -zeta only [cmdVaultUnmount]
    apply noRecords_keeps
    exact h
  · intro P W s j h
    dsimp -zeta only [cmdVaultUnmount]
    refine Keeps1.mk ?_
    exact h
  · intro P W s k j h
    dsimp -zeta only [cmdVaultUnmount]
    refine Keeps1.mk ?_
    apply unmountVault_keeps
    exact h

end Sys2Proof.Machine
end

