-- ==== Sys2Proof/Laws/KeepsControl.lean ====
section
/-! SUPPORT. The queue and the life-cycle bits are kept by the control commands and the pairing: one lemma for each operation. -/
namespace Sys2Proof.Machine
open Sys2Proof

variable {P : List Instr} {W : List W32}

theorem openLoadApply_keeps {s : State} (x2 : Nat) (x3 : Job) (h : Keeps P W s) : Keeps1 P W (openLoadApply s x2 x3) := by
  unfold openLoadApply
  extract_lets +onlyGivenNames s1
  refine Keeps1.mk ?_
  refine Keeps.upd (s := s) ?_ rfl rfl
  exact h

theorem cmdOpenLoad_keeps : AdminCmd.Keeps (cmdOpenLoad) := by
  refine ⟨?_, ?_, ?_, ?_⟩
  · intro P W s j h
    dsimp -zeta only [cmdOpenLoad]
    exact h
  · intro P W s j h
    dsimp -zeta only [cmdOpenLoad]
    apply noRecords_keeps
    exact h
  · intro P W s j h
    dsimp -zeta only [cmdOpenLoad]
    refine Keeps1.mk ?_
    exact h
  · intro P W s k j h
    dsimp -zeta only [cmdOpenLoad]
    apply openLoadApply_keeps
    exact h

theorem installImage_keeps {s : State} (h : Keeps P W s) : Keeps P W (installImage s) := by
  unfold installImage
  split
  · refine Keeps.ite ?_ ?_
    · extract_lets +onlyGivenNames s1
      extract_lets +onlyGivenNames s2
      have h1 : Keeps P W s2 := by
        dsimp -zeta only [s2]
        refine Keeps.foldl ?_ ?_
        · intro a1 a2 a3
          apply failNow_keeps
          apply modJob_keeps
          exact a3
        · exact h
      clear_value s2
      refine Keeps.upd (s := s2) ?_ rfl rfl
      exact h1
    · exact h
  · exact h

theorem lcAdvanceRecords_keeps {s : State} (x2 : Job) (h : Keeps P W s) : Keeps1 P W (lcAdvanceRecords s x2) := by
  unfold lcAdvanceRecords
  refine Keeps1.ite ?_ ?_
  · apply adminRecord_keeps
    exact h
  · refine Keeps1.mk ?_
    exact h

/-- Programming a life-cycle state sets bits. -/
theorem programLife_bits (o : Otp) (t w b : Nat) (hw : w < 4) (h : (o.lcWords.getD w 0).getLsbD b = true) :
    ((programLife o t).lcWords.getD w 0).getLsbD b = true := by
  have : w = 0 ∨ w = 1 ∨ w = 2 ∨ w = 3 := by omega
  rcases this with rfl | rfl | rfl | rfl <;> simp [programLife, List.range, List.range.loop] at * <;> simp [h]

/-- Programming a seed leaves the life-cycle words alone. -/
theorem programSeed_lcWords (o : Otp) (seed : List Byte) : (programSeed o seed).lcWords = o.lcWords := by
  unfold programSeed; split <;> rfl

/-- LC_ADVANCE's effect. -/
theorem lcAdvanceApply_keeps {s : State} (k : Nat) (j : Job) (h : Keeps P W s) : Keeps1 P W (lcAdvanceApply s k j) := by
  unfold lcAdvanceApply
  dsimp only
  refine Keeps1.mk (Keeps.ite ?_ ?_)
  · refine h.bits rfl fun w b hw hb => programLife_bits _ _ w b hw ?_
    split <;> simpa only [programSeed_lcWords] using hb
  · refine modJob_keeps _ _ (h.bits rfl fun w b hw hb => programLife_bits _ _ w b hw ?_)
    split <;> simpa only [programSeed_lcWords] using hb

theorem cmdLcAdvance_keeps : AdminCmd.Keeps (cmdLcAdvance) := by
  refine ⟨?_, ?_, ?_, ?_⟩
  · intro P W s j h
    dsimp -zeta only [cmdLcAdvance]
    exact h
  · intro P W s j h
    dsimp -zeta only [cmdLcAdvance]
    apply lcAdvanceRecords_keeps
    exact h
  · intro P W s j h
    dsimp -zeta only [cmdLcAdvance]
    refine Keeps1.mk ?_
    exact h
  · intro P W s k j h
    dsimp -zeta only [cmdLcAdvance]
    apply lcAdvanceApply_keeps
    exact h

theorem debugNonceApply_keeps {s : State} (x2 : Nat) (x3 : Job) (h : Keeps P W s) : Keeps1 P W (debugNonceApply s x2 x3) := by
  unfold debugNonceApply
  extract_lets +onlyGivenNames s1
  refine Keeps1.mk ?_
  apply modJob_keeps
  refine Keeps.upd (s := s) ?_ rfl rfl
  exact h

theorem cmdDebugNonce_keeps : AdminCmd.Keeps (cmdDebugNonce) := by
  refine ⟨?_, ?_, ?_, ?_⟩
  · intro P W s j h
    dsimp -zeta only [cmdDebugNonce]
    exact h
  · intro P W s j h
    dsimp -zeta only [cmdDebugNonce]
    apply noRecords_keeps
    exact h
  · intro P W s j h
    dsimp -zeta only [cmdDebugNonce]
    refine Keeps1.mk ?_
    exact h
  · intro P W s k j h
    dsimp -zeta only [cmdDebugNonce]
    apply debugNonceApply_keeps
    exact h

theorem debugFollow_keeps {s : State} (x2 : Job) (h : Keeps P W s) : Keeps1 P W (debugFollow s x2) := by
  unfold debugFollow
  extract_lets +onlyGivenNames s1
  have h1 : Keeps P W s1 := by
    dsimp -zeta only [s1]
    refine Keeps.foldl ?_ ?_
    · intro a1 a2 a3
      apply abortAllotment_keeps
      exact a3
    · exact h
  clear_value s1
  extract_lets +onlyGivenNames s2
  have h2 : Keeps P W s2 := by
    dsimp -zeta only [s2]
    refine Keeps.ite ?_ ?_
    · apply postFrame_keeps
      apply enterSolo_keeps
      exact h1
    · exact h1
  clear_value s2
  refine Keeps1.ite ?_ ?_
  · apply adminRecord_keeps
    exact h2
  · refine Keeps1.mk ?_
    exact h2

theorem debugTokenApply_keeps {s : State} (x2 : Nat) (x3 : Job) (h : Keeps P W s) : Keeps1 P W (debugTokenApply s x2 x3) := by
  unfold debugTokenApply
  extract_lets +onlyGivenNames s1
  have h1 : Keeps P W s1 := by
    dsimp -zeta only [s1]
    apply unmountVault_keeps
    apply volatileClear_keeps
    exact h
  clear_value s1
  refine Keeps1.mk ?_
  refine Keeps.upd (s := s1) ?_ rfl rfl
  exact h1

theorem cmdDebugToken_keeps : AdminCmd.Keeps (cmdDebugToken) := by
  refine ⟨?_, ?_, ?_, ?_⟩
  · intro P W s j h
    dsimp -zeta only [cmdDebugToken]
    exact h
  · intro P W s j h
    dsimp -zeta only [cmdDebugToken]
    apply noRecords_keeps
    exact h
  · intro P W s j h
    dsimp -zeta only [cmdDebugToken]
    apply debugFollow_keeps
    exact h
  · intro P W s k j h
    dsimp -zeta only [cmdDebugToken]
    apply debugTokenApply_keeps
    exact h

theorem spendNonce_keeps {s : State} (x2 : Job) (h : Keeps P W s) : Keeps P W (spendNonce s x2) := by
  unfold spendNonce
  refine Keeps.ite ?_ ?_
  · refine Keeps.upd (s := s) ?_ rfl rfl
    exact h
  · exact h

theorem bistBegin_keeps {s : State} (x2 : Job) (h : Keeps P W s) : Keeps P W (bistBegin s x2) := by
  unfold bistBegin
  extract_lets +onlyGivenNames s1
  extract_lets +onlyGivenNames s2
  refine Keeps.upd (s := s) ?_ rfl rfl
  exact h

theorem bistApply_keeps {s : State} (x2 : Nat) (x3 : Job) (h : Keeps P W s) : Keeps1 P W (bistApply s x2 x3) := by
  unfold bistApply
  extract_lets +onlyGivenNames s1
  extract_lets +onlyGivenNames s2
  have h1 : Keeps P W s2 := by
    dsimp -zeta only [s2]
    apply modJob_keeps
    exact h
  clear_value s2
  refine Keeps1.mk ?_
  refine Keeps.upd (s := s2) ?_ rfl rfl
  exact h1

theorem cmdBistRun_keeps : AdminCmd.Keeps (cmdBistRun) := by
  refine ⟨?_, ?_, ?_, ?_⟩
  · intro P W s j h
    dsimp -zeta only [cmdBistRun]
    apply bistBegin_keeps
    exact h
  · intro P W s j h
    dsimp -zeta only [cmdBistRun]
    apply noRecords_keeps
    exact h
  · intro P W s j h
    dsimp -zeta only [cmdBistRun]
    refine Keeps1.mk ?_
    exact h
  · intro P W s k j h
    dsimp -zeta only [cmdBistRun]
    apply bistApply_keeps
    exact h

theorem evictJob_keeps {s : State} (x2 : Nat) (h : Keeps P W s) : Keeps P W (evictJob s x2) := by
  unfold evictJob
  split
  · exact h
  · split
    · extract_lets +onlyGivenNames s3
      extract_lets +onlyGivenNames s4
      have h4 : Keeps P W s4 := by
        dsimp -zeta only [s4]
        refine Keeps.upd (s := s) ?_ rfl rfl
        exact h
      clear_value s4
      apply modJob_keeps
      apply freeResidence_keeps
      exact h4
    · exact h

theorem bistTakes_keeps {s : State} (x2 : Nat) (h : Keeps P W s) : Keeps P W (bistTakes s x2) := by
  unfold bistTakes
  extract_lets +onlyGivenNames s1
  have h1 : Keeps P W s1 := by
    dsimp -zeta only [s1]
    apply logBlockReset_keeps
    exact h
  clear_value s1
  extract_lets +onlyGivenNames s2
  extract_lets +onlyGivenNames s3
  have h3 : Keeps P W s3 := by
    dsimp -zeta only [s3]
    apply setUnit_keeps
    exact h1
  clear_value s3
  refine Keeps.ite ?_ ?_
  · apply setBody_keeps
    exact h3
  · exact h3

theorem bistPartStart_keeps {s : State} (h : Keeps P W s) : Keeps P W (bistPartStart s) := by
  unfold bistPartStart
  extract_lets +onlyGivenNames s1
  split
  · extract_lets +onlyGivenNames s2
    refine Keeps.ite ?_ ?_
    · extract_lets +onlyGivenNames s3
      have h1 : Keeps P W s3 := by
        dsimp -zeta only [s3]
        refine Keeps.upd (s := s) ?_ rfl rfl
        exact h
      clear_value s3
      refine Keeps.ite ?_ ?_
      · apply bistTakes_keeps
        exact h1
      · exact h1
    · exact h
  · exact h

theorem bistPartEnd_keeps {s : State} (x2 : W64) (h : Keeps P W s) : Keeps P W (bistPartEnd s x2) := by
  unfold bistPartEnd
  extract_lets +onlyGivenNames s1
  refine Keeps.ite ?_ ?_
  · exact h
  · extract_lets +onlyGivenNames s2
    extract_lets +onlyGivenNames s3
    extract_lets +onlyGivenNames s4
    extract_lets +onlyGivenNames s5
    have h1 : Keeps P W s5 := by
      dsimp -zeta only [s5]
      refine Keeps.upd (s := s) ?_ rfl rfl
      exact h
    clear_value s5
    refine Keeps.ite ?_ ?_
    · apply logEvent_keeps
      exact h1
    · exact h1

theorem bistCut_keeps {s : State} (h : Keeps P W s) : Keeps P W (bistCut s) := by
  unfold bistCut
  refine Keeps.ite ?_ ?_
  · refine Keeps.upd (s := s) ?_ rfl rfl
    exact h
  · exact h

theorem bistRejoin_keeps {s : State} (h : Keeps P W s) : Keeps P W (bistRejoin s) := by
  unfold bistRejoin
  refine Keeps.upd (s := s) ?_ rfl rfl
  exact h

theorem enrolPrepare_keeps {s : State} (x2 : Job) (h : Keeps P W s) : Keeps P W (enrolPrepare s x2) := by
  unfold enrolPrepare
  extract_lets +onlyGivenNames s1
  extract_lets +onlyGivenNames s2
  refine Keeps.upd (s := s) ?_ rfl rfl
  exact h

theorem enrolRecords_keeps {s : State} (x2 : Job) (h : Keeps P W s) : Keeps1 P W (enrolRecords s x2) := by
  unfold enrolRecords
  apply adminRecord_keeps
  exact h

theorem enrolApply_keeps {s : State} (x2 : Nat) (x3 : Job) (h : Keeps P W s) : Keeps1 P W (enrolApply s x2 x3) := by
  unfold enrolApply
  extract_lets +onlyGivenNames s1
  extract_lets +onlyGivenNames s2
  have h1 : Keeps P W s2 := by
    dsimp -zeta only [s2]
    refine Keeps.upd (s := s) ?_ rfl rfl
    exact h
  clear_value s2
  refine Keeps1.mk ?_
  refine Keeps1.fst ?_
  apply postImageChange_keeps
  exact h1

theorem cmdAttestEnrol_keeps : AdminCmd.Keeps (cmdAttestEnrol) := by
  refine ⟨?_, ?_, ?_, ?_⟩
  · intro P W s j h
    dsimp -zeta only [cmdAttestEnrol]
    apply enrolPrepare_keeps
    exact h
  · intro P W s j h
    dsimp -zeta only [cmdAttestEnrol]
    apply enrolRecords_keeps
    exact h
  · intro P W s j h
    dsimp -zeta only [cmdAttestEnrol]
    refine Keeps1.mk ?_
    exact h
  · intro P W s k j h
    dsimp -zeta only [cmdAttestEnrol]
    apply enrolApply_keeps
    exact h

theorem execOpenLoad_keeps (x1 : JobRef) {s : State} (h : Keeps P W s) : KeepsO P W (execOpenLoad x1 s) := by
  unfold execOpenLoad
  refine KeepsO.next ?_
  apply adminRow_keeps
  · exact cmdOpenLoad_keeps
  · exact h

theorem execLcAdvance_keeps (x1 : JobRef) {s : State} (h : Keeps P W s) : KeepsO P W (execLcAdvance x1 s) := by
  unfold execLcAdvance
  refine KeepsO.next ?_
  apply adminRow_keeps
  · exact cmdLcAdvance_keeps
  · exact h

theorem execDebugUnlockNonce_keeps (x1 : JobRef) {s : State} (h : Keeps P W s) : KeepsO P W (execDebugUnlockNonce x1 s) := by
  unfold execDebugUnlockNonce
  refine KeepsO.next ?_
  apply adminRow_keeps
  · exact cmdDebugNonce_keeps
  · exact h

theorem execDebugUnlockToken_keeps (x1 : JobRef) {s : State} (h : Keeps P W s) : KeepsO P W (execDebugUnlockToken x1 s) := by
  unfold execDebugUnlockToken
  extract_lets +onlyGivenNames s1
  split
  · refine KeepsO.ite ?_ ?_
    · extract_lets +onlyGivenNames s2
      have h1 : Keeps P W s2 := by
        dsimp -zeta only [s2]
        apply adminStart_keeps
        · exact cmdDebugToken_keeps
        · exact h
      clear_value s2
      refine KeepsO.next ?_
      apply adminSettle_keeps
      · exact cmdDebugToken_keeps
      · refine Keeps.ite ?_ ?_
        · apply spendNonce_keeps
          exact h1
        · exact h1
    · refine KeepsO.next ?_
      exact h
  · refine KeepsO.next ?_
    exact h

theorem execBistRun_keeps (x1 : JobRef) {s : State} (h : Keeps P W s) : KeepsO P W (execBistRun x1 s) := by
  unfold execBistRun
  refine KeepsO.next ?_
  apply adminRow_keeps
  · exact cmdBistRun_keeps
  · exact h

theorem execBistPartStart_keeps {s : State} (h : Keeps P W s) : KeepsO P W (execBistPartStart s) := by
  unfold execBistPartStart
  refine KeepsO.next ?_
  apply bistPartStart_keeps
  exact h

theorem execBistPartEnd_keeps (x1 : W64) {s : State} (h : Keeps P W s) : KeepsO P W (execBistPartEnd x1 s) := by
  unfold execBistPartEnd
  extract_lets +onlyGivenNames s1
  have h1 : Keeps P W s1 := by
    dsimp -zeta only [s1]
    apply bistPartEnd_keeps
    exact h
  clear_value s1
  refine KeepsO.next ?_
  split
  · apply adminSettle_keeps
    · exact cmdBistRun_keeps
    · exact h1
  · exact h1

theorem execVaultFormat_keeps (x1 : JobRef) (x2 : List DieReport) (x3 : VaultFound) {s : State} (h : Keeps P W s) : KeepsO P W (execVaultFormat x1 x2 x3 s) := by
  unfold execVaultFormat
  extract_lets +onlyGivenNames s1
  extract_lets +onlyGivenNames s2
  extract_lets +onlyGivenNames s3
  extract_lets +onlyGivenNames s4
  have h1 : Keeps P W s4 := by
    dsimp -zeta only [s4]
    apply adminRow_keeps
    · exact cmdVaultFormat_keeps _ _
    · exact h
  clear_value s4
  refine KeepsO.next ?_
  refine Keeps.ite ?_ ?_
  · apply reportMedia_keeps
    exact h1
  · exact h1

theorem execVaultMount_keeps (x1 : JobRef) (x2 : List DieReport) (x3 : VaultFound) {s : State} (h : Keeps P W s) : KeepsO P W (execVaultMount x1 x2 x3 s) := by
  unfold execVaultMount
  extract_lets +onlyGivenNames s1
  extract_lets +onlyGivenNames s2
  extract_lets +onlyGivenNames s3
  extract_lets +onlyGivenNames s4
  have h1 : Keeps P W s4 := by
    dsimp -zeta only [s4]
    apply adminRow_keeps
    · exact cmdVaultMount_keeps _ _
    · exact h
  clear_value s4
  refine KeepsO.next ?_
  refine Keeps.ite ?_ ?_
  · apply reportMedia_keeps
    exact h1
  · exact h1

theorem execVaultUnmount_keeps (x1 : JobRef) {s : State} (h : Keeps P W s) : KeepsO P W (execVaultUnmount x1 s) := by
  unfold execVaultUnmount
  refine KeepsO.next ?_
  apply adminRow_keeps
  · exact cmdVaultUnmount_keeps
  · exact h

theorem execAttestEnrol_keeps (x1 : JobRef) {s : State} (h : Keeps P W s) : KeepsO P W (execAttestEnrol x1 s) := by
  unfold execAttestEnrol
  refine KeepsO.next ?_
  apply adminRow_keeps
  · exact cmdAttestEnrol_keeps
  · exact h

theorem sendKemEk_keeps {s : State} (h : Keeps P W s) : Keeps P W (sendKemEk s) := by
  unfold sendKemEk
  refine Keeps.ite ?_ ?_
  · exact h
  · extract_lets +onlyGivenNames s1
    apply postFrame_keeps
    refine Keeps.upd (s := s) ?_ rfl rfl
    exact h

theorem greeted_keeps {s : State} (h : Keeps P W s) : Keeps P W (greeted s) := by
  unfold greeted
  apply sendKemEk_keeps
  refine Keeps.upd (s := s) ?_ rfl rfl
  exact h

theorem judgeHello_keeps {s : State} (h : Keeps P W s) : Keeps P W (judgeHello s) := by
  unfold judgeHello
  extract_lets +onlyGivenNames s1
  extract_lets +onlyGivenNames s2
  extract_lets +onlyGivenNames s3
  refine Keeps.ite ?_ ?_
  · apply failCeremony_keeps
    exact h
  · apply greeted_keeps
    exact h

theorem formPairKey_keeps {s : State} (x2 : List Byte) (h : Keeps P W s) : Keeps P W (formPairKey s x2) := by
  unfold formPairKey
  extract_lets +onlyGivenNames s1
  apply postNonce_keeps
  refine Keeps.upd (s := s) ?_ rfl rfl
  exact h

theorem sendAuth_keeps {s : State} (h : Keeps P W s) : Keeps P W (sendAuth s) := by
  unfold sendAuth
  extract_lets +onlyGivenNames s1
  have h1 : Keeps2 P W s1 := by
    dsimp -zeta only [s1]
    apply freshBytes_keeps
    exact h
  clear_value s1
  extract_lets +onlyGivenNames s2
  apply postFrame_keeps
  extract_lets +onlyGivenNames s3
  have h2 : Keeps P W s3 := by
    dsimp -zeta only [s3]
    refine Keeps2.snd ?_
    exact h1
  clear_value s3
  refine Keeps.upd (s := s3) ?_ rfl rfl
  exact h2

theorem sendState_keeps {s : State} (h : Keeps P W s) : Keeps P W (sendState s) := by
  unfold sendState
  extract_lets +onlyGivenNames s1
  extract_lets +onlyGivenNames s2
  have h1 : Keeps P W s2 := by
    dsimp -zeta only [s2]
    refine Keeps.foldl ?_ ?_
    · intro a1 a2 a3
      apply postFrame_keeps
      exact a3
    · exact h
  clear_value s2
  apply postFrame_keeps
  exact h1

theorem recordPaired_keeps {s : State} (h : Keeps P W s) : Keeps P W (recordPaired s) := by
  unfold recordPaired
  extract_lets +onlyGivenNames s1
  have h1 : Keeps1 P W s1 := by
    dsimp -zeta only [s1]
    apply postTwin_keeps
    exact h
  clear_value s1
  extract_lets +onlyGivenNames s2
  have h2 : Keeps P W s2 := by
    dsimp -zeta only [s2]
    refine Keeps1.fst ?_
    exact h1
  clear_value s2
  refine Keeps.upd (s := s2) ?_ rfl rfl
  exact h2

theorem finishPairing_keeps {s : State} (h : Keeps P W s) : Keeps P W (finishPairing s) := by
  unfold finishPairing
  extract_lets +onlyGivenNames s1
  extract_lets +onlyGivenNames s2
  refine Keeps1.fst ?_
  apply postImageChange_keeps
  refine Keeps.upd (s := s) ?_ rfl rfl
  exact h

theorem rejoinMet_keeps {s : State} (h : Keeps P W s) : Keeps P W (rejoinMet s) := by
  unfold rejoinMet
  refine Keeps.ite ?_ ?_
  · apply greeted_keeps
    exact h
  · exact h

theorem startRejoin_keeps {s : State} (x2 : Bool) (x3 : Option Nat) (h : Keeps P W s) : Keeps P W (startRejoin s x2 x3) := by
  unfold startRejoin
  refine Keeps.ite ?_ ?_
  · refine Keeps.upd (s := s) ?_ rfl rfl
    exact h
  · extract_lets +onlyGivenNames s1
    have h1 : Keeps2 P W s1 := by
      dsimp -zeta only [s1]
      apply freshBytes_keeps
      exact h
    clear_value s1
    extract_lets +onlyGivenNames s2
    extract_lets +onlyGivenNames s3
    have h2 : Keeps P W s3 := by
      dsimp -zeta only [s3]
      refine Keeps2.snd ?_
      exact h1
    clear_value s3
    extract_lets +onlyGivenNames s4
    extract_lets +onlyGivenNames s5
    have h3 : Keeps P W s5 := by
      dsimp -zeta only [s5]
      refine Keeps.upd (s := s3) ?_ rfl rfl
      exact h2
    clear_value s5
    apply rejoinMet_keeps
    apply postFrame_keeps
    refine Keeps1.fst ?_
    apply postTwin_keeps
    exact h3

theorem sendReplay_keeps {s : State} (h : Keeps P W s) : Keeps P W (sendReplay s) := by
  unfold sendReplay
  extract_lets +onlyGivenNames s1
  extract_lets +onlyGivenNames s2
  have h1 : Keeps P W s2 := by
    dsimp -zeta only [s2]
    refine Keeps.foldl ?_ ?_
    · intro a1 a2 a3
      apply postFrame_keeps
      exact a3
    · exact h
  clear_value s2
  extract_lets +onlyGivenNames s3
  extract_lets +onlyGivenNames s4
  have h2 : Keeps P W s4 := by
    dsimp -zeta only [s4]
    apply postFrame_keeps
    exact h1
  clear_value s4
  refine Keeps.upd (s := s4) ?_ rfl rfl
  exact h2

theorem authenticated_keeps {s : State} (h : Keeps P W s) : Keeps P W (authenticated s) := by
  unfold authenticated
  refine Keeps.ite ?_ ?_
  · exact h
  · refine Keeps.ite ?_ ?_
    · apply sendReplay_keeps
      exact h
    · refine Keeps.ite ?_ ?_
      · apply postFrame_keeps
        refine Keeps.upd (s := s) ?_ rfl rfl
        exact h
      · apply recordPaired_keeps
        apply sendState_keeps
        exact h

theorem tryLinkKey_keeps {s : State} (h : Keeps P W s) : Keeps P W (tryLinkKey s) := by
  unfold tryLinkKey
  extract_lets +onlyGivenNames s1
  split
  · refine Keeps.ite ?_ ?_
    · exact h
    · extract_lets +onlyGivenNames s2
      extract_lets +onlyGivenNames s3
      have h1 : Keeps P W s3 := by
        dsimp -zeta only [s3]
        refine Keeps.upd (s := s) ?_ rfl rfl
        exact h
      refine Keeps.ite ?_ ?_
      · apply authenticated_keeps
        apply sendAuth_keeps
        exact h1
      · exact h1
  · exact h

theorem applyReplayed_keeps {s : State} (x2 : List Byte) (h : Keeps P W s) : Keeps P W (applyReplayed s x2) := by
  unfold applyReplayed
  extract_lets +onlyGivenNames s1
  extract_lets +onlyGivenNames s2
  have h1 : Keeps P W s2 := by
    dsimp -zeta only [s2]
    refine Keeps.upd (s := s) ?_ rfl rfl
    exact h
  clear_value s2
  extract_lets +onlyGivenNames s3
  extract_lets +onlyGivenNames s4
  split
  · refine Keeps.ite ?_ ?_
    · split
      · apply zeroiseSlot_keeps
        refine Keeps1.fst ?_
        apply postKeyEvent_keeps
        exact h1
      · exact h1
    · exact h1
  · extract_lets +onlyGivenNames s5
    refine Keeps.ite ?_ ?_
    · refine Keeps.upd (s := s2) ?_ rfl rfl
      exact h1
    · split
      · apply modStateful_keeps
        exact h1
      · exact h1
  · exact h1

theorem endRejoin_keeps {s : State} (h : Keeps P W s) : Keeps P W (endRejoin s) := by
  unfold endRejoin
  extract_lets +onlyGivenNames s1
  refine Keeps.ite ?_ ?_
  · extract_lets +onlyGivenNames s2
    refine Keeps1.fst ?_
    apply postImageChange_keeps
    refine Keeps.upd (s := s) ?_ rfl rfl
    exact h
  · exact h

theorem twinPairBegin_keeps {s : State} (x2 : Job) (h : Keeps P W s) : Keeps1 P W (twinPairBegin s x2) := by
  unfold twinPairBegin
  extract_lets +onlyGivenNames s1
  have h1 : Keeps2 P W s1 := by
    dsimp -zeta only [s1]
    apply freshBytes_keeps
    exact h
  clear_value s1
  extract_lets +onlyGivenNames s2
  have h2 : Keeps P W s2 := by
    dsimp -zeta only [s2]
    refine Keeps2.snd ?_
    exact h1
  clear_value s2
  extract_lets +onlyGivenNames s3
  extract_lets +onlyGivenNames s4
  extract_lets +onlyGivenNames s5
  have h3 : Keeps P W s5 := by
    dsimp -zeta only [s5]
    refine Keeps.upd (s := s2) ?_ rfl rfl
    exact h2
  clear_value s5
  extract_lets +onlyGivenNames s6
  have h4 : Keeps P W s6 := by
    dsimp -zeta only [s6]
    apply postFrame_keeps
    exact h3
  clear_value s6
  refine Keeps1.mk ?_
  refine Keeps.ite ?_ ?_
  · apply judgeHello_keeps
    exact h4
  · exact h4

theorem cmdTwinPair_keeps : AdminCmd.Keeps (cmdTwinPair) := by
  refine ⟨?_, ?_, ?_, ?_⟩
  · intro P W s j h
    dsimp -zeta only [cmdTwinPair]
    exact h
  · intro P W s j h
    dsimp -zeta only [cmdTwinPair]
    apply twinPairBegin_keeps
    exact h
  · intro P W s j h
    dsimp -zeta only [cmdTwinPair]
    refine Keeps1.mk ?_
    exact h
  · intro P W s k j h
    dsimp -zeta only [cmdTwinPair]
    refine Keeps1.mk ?_
    exact h

theorem twinSoloApply_keeps {s : State} (x2 : Nat) (x3 : Job) (h : Keeps P W s) : Keeps1 P W (twinSoloApply s x2 x3) := by
  unfold twinSoloApply
  refine Keeps1.ite ?_ ?_
  · refine Keeps1.mk ?_
    exact h
  · refine Keeps1.mk ?_
    apply postFrame_keeps
    apply enterSolo_keeps
    exact h

theorem cmdTwinSolo_keeps : AdminCmd.Keeps (cmdTwinSolo) := by
  refine ⟨?_, ?_, ?_, ?_⟩
  · intro P W s j h
    dsimp -zeta only [cmdTwinSolo]
    exact h
  · intro P W s j h
    dsimp -zeta only [cmdTwinSolo]
    apply noRecords_keeps
    exact h
  · intro P W s j h
    dsimp -zeta only [cmdTwinSolo]
    refine Keeps1.mk ?_
    exact h
  · intro P W s k j h
    dsimp -zeta only [cmdTwinSolo]
    apply twinSoloApply_keeps
    exact h

theorem cmdTwinRejoin_keeps : AdminCmd.Keeps (cmdTwinRejoin) := by
  refine ⟨?_, ?_, ?_, ?_⟩
  · intro P W s j h
    dsimp -zeta only [cmdTwinRejoin]
    exact h
  · intro P W s j h
    dsimp -zeta only [cmdTwinRejoin]
    refine Keeps1.mk ?_
    apply startRejoin_keeps
    exact h
  · intro P W s j h
    dsimp -zeta only [cmdTwinRejoin]
    refine Keeps1.mk ?_
    exact h
  · intro P W s k j h
    dsimp -zeta only [cmdTwinRejoin]
    refine Keeps1.mk ?_
    exact h

theorem execTwinPair_keeps (x1 : JobRef) {s : State} (h : Keeps P W s) : KeepsO P W (execTwinPair x1 s) := by
  unfold execTwinPair
  refine KeepsO.next ?_
  apply adminRow_keeps
  · exact cmdTwinPair_keeps
  · exact h

theorem execTwinPairTimeout_keeps {s : State} (h : Keeps P W s) : KeepsO P W (execTwinPairTimeout s) := by
  unfold execTwinPairTimeout
  refine KeepsO.next ?_
  refine Keeps.ite ?_ ?_
  · apply failCeremony_keeps
    exact h
  · exact h

theorem execTwinSolo_keeps (x1 : JobRef) {s : State} (h : Keeps P W s) : KeepsO P W (execTwinSolo x1 s) := by
  unfold execTwinSolo
  refine KeepsO.next ?_
  apply adminRow_keeps
  · exact cmdTwinSolo_keeps
  · exact h

theorem execTwinRejoin_keeps (x1 : JobRef) {s : State} (h : Keeps P W s) : KeepsO P W (execTwinRejoin x1 s) := by
  unfold execTwinRejoin
  refine KeepsO.next ?_
  apply adminRow_keeps
  · exact cmdTwinRejoin_keeps
  · exact h

theorem execRejoinTimeout_keeps {s : State} (h : Keeps P W s) : KeepsO P W (execRejoinTimeout s) := by
  unfold execRejoinTimeout
  refine KeepsO.next ?_
  refine Keeps.ite ?_ ?_
  · apply failCeremony_keeps
    exact h
  · exact h

end Sys2Proof.Machine
end

