-- ==== Sys2Proof/Laws/KeepsUpkeep.lean ====
section
/-! SUPPORT. The queue and the life-cycle bits are kept by what others wait for, the upkeep and the journal: one lemma for each operation. -/
namespace Sys2Proof.Machine
open Sys2Proof

variable {P : List Instr} {W : List W32}

/-- Every admin command. -/
theorem adminCmdOf_keeps {j : Job} {c : AdminCmd} (e : adminCmdOf j = some c) : AdminCmd.Keeps c := by
  unfold adminCmdOf at e
  split at e <;> cases e
  · exact cmdAllotCreate_keeps
  · exact cmdAllotDestroy_keeps
  · exact cmdAllotBind_keeps
  · exact cmdQueueCreate_keeps
  · exact cmdQueueDestroy_keeps
  · exact cmdLeaseSet_keeps
  · exact cmdWindowSet_keeps
  · exact cmdAbort_keeps
  · split
    · exact cmdKeyDescribe_keeps
    · exact cmdKeyDestroy_keeps
  · exact cmdOpenLoad_keeps
  · exact cmdCurvePolicy_keeps
  · exact cmdTimeSet_keeps
  · exact cmdTamperConfig_keeps
  · exact cmdTamperClear_keeps
  · exact cmdLcAdvance_keeps
  · split
    · exact cmdDebugNonce_keeps
    · exact cmdDebugToken_keeps
  · exact cmdBistRun_keeps
  · exact cmdRngRawMode_keeps
  · exact cmdVaultFormatLater_keeps
  · split
    · exact cmdVaultMount_keeps _ _
    · exact cmdVaultUnmount_keeps
  · exact cmdTwinPair_keeps
  · exact cmdTwinSolo_keeps
  · exact cmdTwinRejoin_keeps
  · exact cmdPatchStatus_keeps
  · exact cmdAttestEnrol_keeps

/-- The admin command of an optional job. -/
theorem adminCmdOf_bind_keeps {o : Option Job} {c : AdminCmd} (e : o.bind adminCmdOf = some c) : AdminCmd.Keeps c := by
  cases o with
  | none => cases e
  | some j => exact adminCmdOf_keeps e

theorem settleAdmin_keeps {s : State} (h : Keeps P W s) : Keeps P W (settleAdmin s) := by
  unfold settleAdmin
  refine Keeps.foldl ?_ ?_
  · intro a1 a2 a3
    split
    · rename_i v1 v2 v3
      apply adminSettle_keeps
      · exact adminCmdOf_bind_keeps v3
      · exact a3
    · exact a3
  · exact h

theorem settleDestroyed_keeps {s : State} (h : Keeps P W s) : Keeps P W (settleDestroyed s) := by
  unfold settleDestroyed
  refine Keeps.foldl ?_ ?_
  · intro a1 a2 a3
    refine Keeps.ite ?_ ?_
    · apply finishDestroy_keeps
      exact a3
    · exact a3
  · exact h

theorem settleQueues_keeps {s : State} (h : Keeps P W s) : Keeps P W (settleQueues s) := by
  unfold settleQueues
  refine Keeps.upd (s := s) ?_ rfl rfl
  exact h

theorem settle_keeps {s : State} (h : Keeps P W s) : Keeps P W (settle s) := by
  unfold settle
  extract_lets +onlyGivenNames s1
  have h1 : Keeps P W s1 := by
    dsimp -zeta only [s1]
    apply ackReady_keeps
    apply commitReady_keeps
    apply bistCut_keeps
    exact h
  clear_value s1
  extract_lets +onlyGivenNames s2
  have h2 : Keeps P W s2 := by
    dsimp -zeta only [s2]
    apply settleAdmin_keeps
    exact h1
  clear_value s2
  extract_lets +onlyGivenNames s3
  have h3 : Keeps P W s3 := by
    dsimp -zeta only [s3]
    apply settleQueues_keeps
    apply settleDestroyed_keeps
    exact h2
  clear_value s3
  extract_lets +onlyGivenNames s4
  have h4 : Keeps P W s4 := by
    dsimp -zeta only [s4]
    refine Keeps.foldl ?_ ?_
    · intro a1 a2 a3
      apply advanceJob_keeps
      exact a3
    · exact h3
  clear_value s4
  apply eolSettle_keeps
  exact h4

theorem reserveDurable_keeps {s : State} (x2 : Nat) (x3 : List Byte) (h : Keeps P W s) : Keeps P W (reserveDurable s x2 x3) := by
  unfold reserveDurable
  extract_lets +onlyGivenNames s1
  extract_lets +onlyGivenNames s2
  extract_lets +onlyGivenNames s3
  extract_lets +onlyGivenNames s4
  extract_lets +onlyGivenNames s5
  have h1 : Keeps P W s5 := by
    dsimp -zeta only [s5]
    refine Keeps.upd (s := s) ?_ rfl rfl
    exact h
  clear_value s5
  refine Keeps.ite ?_ ?_
  · extract_lets +onlyGivenNames s6
    extract_lets +onlyGivenNames s7
    extract_lets +onlyGivenNames s8
    have h2 : Keeps P W s8 := by
      dsimp -zeta only [s8]
      refine Keeps.upd (s := s5) ?_ rfl rfl
      exact h1
    refine Keeps.ite ?_ ?_
    · apply commitQuote_keeps
      exact h2
    · exact h2
  · split
    · extract_lets +onlyGivenNames s6
      have h2 : Keeps P W s6 := by
        dsimp -zeta only [s6]
        apply modStateful_keeps
        exact h1
      refine Keeps.ite ?_ ?_
      · apply commitBlock_keeps
        exact h2
      · exact h2
    · exact h1

theorem releaseRecord_keeps {s : State} (x2 : Nat) (h : Keeps P W s) : Keeps P W (releaseRecord s x2) := by
  unfold releaseRecord
  extract_lets +onlyGivenNames s1
  extract_lets +onlyGivenNames s2
  have h1 : Keeps P W s2 := by
    dsimp -zeta only [s2]
    refine Keeps.upd (s := s) ?_ rfl rfl
    exact h
  clear_value s2
  refine Keeps.upd (s := s2) ?_ rfl rfl
  exact h1

theorem forwardedEvent_keeps {s : State} (x2 : Nat) (h : Keeps P W s) : Keeps P W (forwardedEvent s x2) := by
  unfold forwardedEvent
  refine Keeps.upd (s := s) ?_ rfl rfl
  exact h

theorem pairDurable_keeps {s : State} (x2 : Nat) (h : Keeps P W s) : Keeps P W (pairDurable s x2) := by
  unfold pairDurable
  refine Keeps.ite ?_ ?_
  · extract_lets +onlyGivenNames s2
    extract_lets +onlyGivenNames s3
    have h3 : Keeps P W s3 := by
      dsimp -zeta only [s3]
      refine Keeps.upd (s := s) ?_ rfl rfl
      exact h
    refine Keeps.ite ?_ ?_
    · apply finishPairing_keeps
      exact h3
    · exact h3
  · exact h

theorem recordDurable_keeps {s : State} (x2 : Nat) (x3 : Nat) (x4 : List Byte) (h : Keeps P W s) : Keeps P W (recordDurable s x2 x3 x4) := by
  unfold recordDurable
  extract_lets +onlyGivenNames s1
  have h1 : Keeps P W s1 := by
    dsimp -zeta only [s1]
    apply forwardedEvent_keeps
    apply releaseRecord_keeps
    exact h
  clear_value s1
  extract_lets +onlyGivenNames s2
  have h2 : Keeps P W s2 := by
    dsimp -zeta only [s2]
    refine Keeps.ite ?_ ?_
    · apply reserveDurable_keeps
      exact h1
    · exact h1
  clear_value s2
  extract_lets +onlyGivenNames s3
  extract_lets +onlyGivenNames s4
  have h4 : Keeps P W s4 := by
    dsimp -zeta only [s4]
    refine Keeps.ite ?_ ?_
    · refine Keeps.upd (s := s2) ?_ rfl rfl
      exact h2
    · exact h2
  clear_value s4
  extract_lets +onlyGivenNames s5
  have h5 : Keeps P W s5 := by
    dsimp -zeta only [s5]
    apply pairDurable_keeps
    exact h4
  clear_value s5
  refine Keeps.ite ?_ ?_
  · refine Keeps.upd (s := s5) ?_ rfl rfl
    exact h5
  · exact h5

theorem recordFailed_keeps {s : State} (x2 : JRecord) (x3 : Status) (h : Keeps P W s) : Keeps P W (recordFailed s x2 x3) := by
  unfold recordFailed
  extract_lets +onlyGivenNames s1
  extract_lets +onlyGivenNames s2
  extract_lets +onlyGivenNames s3
  extract_lets +onlyGivenNames s4
  extract_lets +onlyGivenNames s5
  extract_lets +onlyGivenNames s6
  extract_lets +onlyGivenNames s7
  have h1 : Keeps P W s7 := by
    dsimp -zeta only [s7]
    apply releaseRecord_keeps
    refine Keeps.upd (s := s) ?_ rfl rfl
    exact h
  clear_value s7
  extract_lets +onlyGivenNames s8
  have h2 : Keeps P W s8 := by
    dsimp -zeta only [s8]
    refine Keeps.foldl ?_ ?_
    · intro a1 a2 a3
      split
      · refine Keeps.ite ?_ ?_
        · apply adminFail_keeps
          apply adminUndo_keeps
          exact a3
        · apply failWaiting_keeps
          exact a3
      · exact a3
    · exact h1
  clear_value s8
  extract_lets +onlyGivenNames s9
  have h3 : Keeps P W s9 := by
    dsimp -zeta only [s9]
    refine Keeps.foldl ?_ ?_
    · intro a1 a2 a3
      apply failCommit_keeps
      exact a3
    · exact h2
  clear_value s9
  extract_lets +onlyGivenNames s10
  extract_lets +onlyGivenNames s11
  have h4 : Keeps P W s11 := by
    dsimp -zeta only [s11]
    refine Keeps.upd (s := s9) ?_ rfl rfl
    exact h3
  clear_value s11
  extract_lets +onlyGivenNames s12
  have h5 : Keeps P W s12 := by
    dsimp -zeta only [s12]
    refine Keeps.foldl ?_ ?_
    · intro a1 a2 a3
      apply postFrame_keeps
      exact a3
    · exact h4
  clear_value s12
  extract_lets +onlyGivenNames s13
  have h6 : Keeps P W s13 := by
    dsimp -zeta only [s13]
    refine Keeps.foldl ?_ ?_
    · intro a1 a2 a3
      apply modAllot_keeps
      apply orphan_keeps
      exact a3
    · exact h5
  clear_value s13
  extract_lets +onlyGivenNames s14
  have h7 : Keeps P W s14 := by
    dsimp -zeta only [s14]
    refine Keeps.ite ?_ ?_
    · refine Keeps.ite ?_ ?_
      · refine Keeps.ite ?_ ?_
        · apply failQuote_keeps
          exact h6
        · exact h6
      · split
        · apply failReservation_keeps
          exact h6
        · exact h6
    · exact h6
  clear_value s14
  refine Keeps.ite ?_ ?_
  · apply failCeremony_keeps
    exact h7
  · exact h7

theorem imageDurable_keeps {s : State} (x2 : List Nat) (h : Keeps P W s) : Keeps P W (imageDurable s x2) := by
  unfold imageDurable
  refine Keeps.upd (s := s) ?_ rfl rfl
  exact h

theorem imageFailed_keeps {s : State} (x2 : List Nat) (x3 : Status) (h : Keeps P W s) : Keeps P W (imageFailed s x2 x3) := by
  unfold imageFailed
  extract_lets +onlyGivenNames s1
  refine Keeps.foldl ?_ ?_
  · intro a1 a2 a3
    apply failWaiting_keeps
    exact a3
  · exact h

theorem relocatePage_keeps {s : State} (x2 : Nat) (x3 : Nat) (h : Keeps P W s) : Keeps P W (relocatePage s x2 x3) := by
  unfold relocatePage
  split
  · exact h
  · split
    · exact h
    · split
      · exact h
      · refine Keeps.ite ?_ ?_
        · refine takeBlock_keeps ?_ ‹_ = some (_, _)›
          exact h
        · extract_lets +onlyGivenNames s5
          have h5 : Keeps P W s5 := by
            dsimp -zeta only [s5]
            apply programPage_keeps
            apply stalePages_keeps
            refine takeBlock_keeps ?_ ‹_ = some (_, _)›
            exact h
          clear_value s5
          apply queueErase_keeps
          apply modBlock_keeps
          exact h5

theorem serveChore_keeps {s : State} (x2 : Chore) (h : Keeps P W s) : Keeps P W (serveChore s x2) := by
  unfold serveChore
  extract_lets +onlyGivenNames s1
  have h1 : Keeps P W s1 := by
    dsimp -zeta only [s1]
    refine Keeps.ite ?_ ?_
    · exact h
    · apply relocatePage_keeps
      exact h
  clear_value s1
  refine Keeps.ite ?_ ?_
  · extract_lets +onlyGivenNames s2
    have h2 : Keeps P W s2 := by
      dsimp -zeta only [s2]
      apply queueErase_keeps
      exact h1
    clear_value s2
    extract_lets +onlyGivenNames s3
    extract_lets +onlyGivenNames s4
    have h3 : Keeps P W s4 := by
      dsimp -zeta only [s4]
      refine Keeps.upd (s := s2) ?_ rfl rfl
      exact h2
    clear_value s4
    refine Keeps.upd (s := s4) ?_ rfl rfl
    exact h3
  · exact h1

theorem appendSystem_keeps {s : State} (x2 : Nat) (x3 : PageContent) (h : Keeps P W s) : Keeps P W (appendSystem s x2 x3) := by
  unfold appendSystem
  split
  · apply programPage_keeps
    refine takeBlock_keeps ?_ ‹_ = some (_, _)›
    exact h
  · exact h

theorem writeCheckpoint_keeps {s : State} (x2 : Nat) (h : Keeps P W s) : Keeps P W (writeCheckpoint s x2) := by
  unfold writeCheckpoint
  extract_lets +onlyGivenNames s1
  have h1 : Keeps P W s1 := by
    dsimp -zeta only [s1]
    apply appendSystem_keeps
    apply stalePages_keeps
    exact h
  clear_value s1
  refine Keeps.upd (s := s1) ?_ rfl rfl
  exact h1

theorem writeHistory_keeps {s : State} (x2 : Nat) (h : Keeps P W s) : Keeps P W (writeHistory s x2) := by
  unfold writeHistory
  extract_lets +onlyGivenNames s1
  extract_lets +onlyGivenNames s2
  have h2 : Keeps P W s2 := by
    dsimp -zeta only [s2]
    apply appendSystem_keeps
    exact h
  clear_value s2
  refine Keeps.upd (s := s2) ?_ rfl rfl
  exact h2

theorem refreshBlock_keeps {s : State} (x2 : Nat) (x3 : Nat) (h : Keeps P W s) : Keeps P W (refreshBlock s x2 x3) := by
  unfold refreshBlock
  extract_lets +onlyGivenNames s1
  have h1 : Keeps P W s1 := by
    dsimp -zeta only [s1]
    refine Keeps.ite ?_ ?_
    · exact h
    · apply relocatePage_keeps
      exact h
  clear_value s1
  refine Keeps.ite ?_ ?_
  · apply queueErase_keeps
    apply modBlock_keeps
    exact h1
  · exact h1

theorem scrubBlock_keeps {s : State} (x2 : Nat) (x3 : Nat) (h : Keeps P W s) : Keeps P W (scrubBlock s x2 x3) := by
  unfold scrubBlock
  apply modBlock_keeps
  exact h

/-- Collecting a block's valid pages. -/
theorem collect_keeps {s t : State} {d : Nat} (h : Keeps P W s) (e : collect s d = some t) : Keeps P W t := by
  unfold collect at e
  simp only [Option.map_eq_some_iff] at e
  obtain ⟨b, _, rfl⟩ := e
  exact Keeps.ite (queueErase_keeps _ _ h) (relocatePage_keeps _ _ h)

/-- Levelling the wear of a die's blocks. -/
theorem levelWear_keeps {s t : State} {d : Nat} (h : Keeps P W s) (e : levelWear s d = some t) : Keeps P W t := by
  unfold levelWear at e
  split at e
  · cases e
  · simp only [Option.map_eq_some_iff] at e
    obtain ⟨b, _, rfl⟩ := e
    exact relocatePage_keeps _ _ h

/-- One housekeeping slot. -/
theorem housekeep_keeps {s : State} (d : Nat) (h : Keeps P W s) : Keeps P W (housekeep s d) := by
  unfold housekeep
  dsimp only
  split
  · exact serveChore_keeps _ h
  · exact serveChore_keeps _ h
  · split
    · exact writeCheckpoint_keeps _ h
    · split
      · exact writeHistory_keeps _ h
      · split
        · rename_i t e
          split at e
          · exact collect_keeps h e
          · cases e
        · split
          · exact refreshBlock_keeps _ _ h
          · exact scrubBlock_keeps _ _ h
          · cases e1 : levelWear s d with
            | some t => simpa [e1] using levelWear_keeps h e1
            | none =>
              cases e2 : collect s d with
              | some t => simpa [e2] using collect_keeps h e2
              | none => simpa using h

theorem execHousekeepingMediaSlot_keeps (x1 : Fin 16) {s : State} (h : Keeps P W s) : KeepsO P W (execHousekeepingMediaSlot x1 s) := by
  unfold execHousekeepingMediaSlot
  refine KeepsO.next ?_
  split
  · refine Keeps.ite ?_ ?_
    · apply noteFull_keeps
      apply housekeep_keeps
      exact h
    · exact h
  · exact h

theorem execEraseSlot_keeps (x1 : Fin 16) {s : State} (h : Keeps P W s) : KeepsO P W (execEraseSlot x1 s) := by
  unfold execEraseSlot
  refine KeepsO.next ?_
  split
  · split
    · split
      · refine Keeps.ite ?_ ?_
        · extract_lets +onlyGivenNames s1
          have h1 : Keeps P W s1 := by
            dsimp -zeta only [s1]
            apply modDie_keeps
            exact h
          clear_value s1
          apply driveWp_keeps
          refine Keeps.upd (s := s1) ?_ rfl rfl
          exact h1
        · exact h
      · exact h
    · exact h
  · exact h

theorem blockErased_keeps {s : State} (x2 : Nat) (x3 : Nat) (h : Keeps P W s) : Keeps P W (blockErased s x2 x3) := by
  unfold blockErased
  extract_lets +onlyGivenNames s1
  extract_lets +onlyGivenNames s2
  have h1 : Keeps P W s2 := by
    dsimp -zeta only [s2]
    apply modBlock_keeps
    exact h
  clear_value s2
  refine Keeps.ite ?_ ?_
  · apply growBad_keeps
    exact h1
  · apply noteFull_keeps
    exact h1

theorem execEraseDone_keeps (x1 : Fin 16) (x2 : Bool) {s : State} (h : Keeps P W s) : KeepsO P W (execEraseDone x1 x2 s) := by
  unfold execEraseDone
  refine KeepsO.next ?_
  split
  · split
    · extract_lets +onlyGivenNames s1
      extract_lets +onlyGivenNames s2
      have h1 : Keeps P W s2 := by
        dsimp -zeta only [s2]
        refine Keeps.upd (s := s) ?_ rfl rfl
        exact h
      clear_value s2
      extract_lets +onlyGivenNames s3
      have h2 : Keeps P W s3 := by
        dsimp -zeta only [s3]
        apply driveWp_keeps
        apply modDie_keeps
        exact h1
      clear_value s3
      refine Keeps.ite ?_ ?_
      · apply blockErased_keeps
        exact h2
      · apply growBad_keeps
        exact h2
    · exact h
  · exact h

theorem suspectPage_keeps {s : State} (x2 : Nat) (x3 : Nat) (x4 : Nat) (h : Keeps P W s) : Keeps1 P W (suspectPage s x2 x3 x4) := by
  unfold suspectPage
  refine Keeps1.ite ?_ ?_
  · extract_lets +onlyGivenNames s1
    extract_lets +onlyGivenNames s2
    have h1 : Keeps P W s2 := by
      dsimp -zeta only [s2]
      refine Keeps.upd (s := s) ?_ rfl rfl
      exact h
    clear_value s2
    refine Keeps1.mk ?_
    apply growBad_keeps
    exact h1
  · refine Keeps1.mk ?_
    refine Keeps.upd (s := s) ?_ rfl rfl
    exact h

theorem modFifo_keeps {s : State} (x2 : Nat) (x3 : PackFifo → PackFifo) (h : Keeps P W s) : Keeps P W (modFifo s x2 x3) := by
  unfold modFifo
  refine Keeps.upd (s := s) ?_ rfl rfl
  exact h

theorem execCodewordDecode_keeps (x1 : Fin 16) (x2 : BitVec 24) (x3 : BitVec 16) (x4 : Decoded) {s : State} (h : Keeps P W s) : KeepsO P W (execCodewordDecode x1 x2 x3 x4 s) := by
  unfold execCodewordDecode
  refine KeepsO.next ?_
  split
  · refine Keeps.ite ?_ ?_
    · exact h
    · extract_lets +onlyGivenNames s1
      extract_lets +onlyGivenNames s2
      have h1 : Keeps P W s2 := by
        dsimp -zeta only [s2]
        apply modFifo_keeps
        exact h
      clear_value s2
      split
      · extract_lets +onlyGivenNames s3
        extract_lets +onlyGivenNames s4
        have h2 : Keeps P W s4 := by
          dsimp -zeta only [s4]
          refine Keeps.upd (s := s2) ?_ rfl rfl
          exact h1
        clear_value s4
        refine Keeps.ite ?_ ?_
        · apply modBlock_keeps
          exact h2
        · exact h2
      · refine Keeps1.fst ?_
        apply suspectPage_keeps
        exact h1
      · exact h1
  · exact h

theorem execFifoTailTimeout_keeps (x1 : Fin 16) (x2 : BitVec 24) (x3 : BitVec 16) (x4 : BitVec 11) {s : State} (h : Keeps P W s) : KeepsO P W (execFifoTailTimeout x1 x2 x3 x4 s) := by
  unfold execFifoTailTimeout
  refine KeepsO.next ?_
  split
  · extract_lets +onlyGivenNames s1
    refine Keeps.ite ?_ ?_
    · exact h
    · extract_lets +onlyGivenNames s2
      extract_lets +onlyGivenNames s3
      have h1 : Keeps P W s3 := by
        dsimp -zeta only [s3]
        apply modFifo_keeps
        exact h
      clear_value s3
      extract_lets +onlyGivenNames s4
      have h2 : Keeps1 P W s4 := by
        dsimp -zeta only [s4]
        apply suspectPage_keeps
        exact h1
      clear_value s4
      refine Keeps.ite ?_ ?_
      · split
        · apply logEvent_keeps
          refine Keeps1.fst ?_
          exact h2
        · refine Keeps1.fst ?_
          exact h2
      · refine Keeps1.fst ?_
        exact h2
  · exact h

theorem execDieTimeout_keeps (x1 : Fin 16) {s : State} (h : Keeps P W s) : KeepsO P W (execDieTimeout x1 s) := by
  unfold execDieTimeout
  refine KeepsO.next ?_
  split
  · split
    · refine Keeps.ite ?_ ?_
      · exact h
      · refine Keeps.ite ?_ ?_
        · apply modDie_keeps
          exact h
        · extract_lets +onlyGivenNames s1
          have h1 : Keeps P W s1 := by
            dsimp -zeta only [s1]
            apply driveWp_keeps
            apply modDie_keeps
            exact h
          clear_value s1
          extract_lets +onlyGivenNames s2
          extract_lets +onlyGivenNames s3
          have h2 : Keeps P W s3 := by
            dsimp -zeta only [s3]
            refine Keeps.upd (s := s1) ?_ rfl rfl
            exact h1
          clear_value s3
          apply logEvent_keeps
          exact h2
    · exact h
  · exact h

theorem execBlockRefresh_keeps (x1 : Fin 16) (x2 : BitVec 24) {s : State} (h : Keeps P W s) : KeepsO P W (execBlockRefresh x1 x2 s) := by
  unfold execBlockRefresh
  refine KeepsO.next ?_
  split
  · apply modBlock_keeps
    exact h
  · exact h

theorem execScrubDue_keeps (x1 : Fin 16) (x2 : BitVec 24) {s : State} (h : Keeps P W s) : KeepsO P W (execScrubDue x1 x2 s) := by
  unfold execScrubDue
  refine KeepsO.next ?_
  split
  · apply modBlock_keeps
    exact h
  · exact h

theorem execHeadSignatureReady_keeps {s : State} (h : Keeps P W s) : KeepsO P W (execHeadSignatureReady s) := by
  unfold execHeadSignatureReady
  refine KeepsO.next ?_
  split
  · extract_lets +onlyGivenNames s1
    extract_lets +onlyGivenNames s2
    extract_lets +onlyGivenNames s3
    refine Keeps.upd (s := s) ?_ rfl rfl
    exact h
  · exact h

theorem execJournalExportWrite_keeps {s : State} (h : Keeps P W s) : KeepsO P W (execJournalExportWrite s) := by
  unfold execJournalExportWrite
  refine KeepsO.next ?_
  split
  · extract_lets +onlyGivenNames s3
    refine Keeps.ite ?_ ?_
    · extract_lets +onlyGivenNames s5
      extract_lets +onlyGivenNames s6
      have h6 : Keeps P W s6 := by
        dsimp -zeta only [s6]
        apply send_keeps
        exact h
      clear_value s6
      refine Keeps.upd (s := s6) ?_ rfl rfl
      exact h6
    · exact h
  · refine Keeps.upd (s := s) ?_ rfl rfl
    exact h

theorem jxEnable_keeps {s : State} (h : Keeps P W s) : Keeps P W (jxEnable s) := by
  unfold jxEnable
  extract_lets +onlyGivenNames s1
  refine Keeps.ite ?_ ?_
  · exact h
  · extract_lets +onlyGivenNames s2
    refine Keeps.ite ?_ ?_
    · refine Keeps.upd (s := s) ?_ rfl rfl
      exact h
    · refine Keeps.upd (s := s) ?_ rfl rfl
      exact h

theorem execJxEnable_keeps {s : State} (h : Keeps P W s) : KeepsO P W (execJxEnable s) := by
  unfold execJxEnable
  refine KeepsO.next ?_
  refine Keeps.ite ?_ ?_
  · apply jxEnable_keeps
    exact h
  · exact h

theorem execJxDisable_keeps {s : State} (h : Keeps P W s) : KeepsO P W (execJxDisable s) := by
  unfold execJxDisable
  refine KeepsO.next ?_
  refine Keeps.ite ?_ ?_
  · refine Keeps.upd (s := s) ?_ rfl rfl
    exact h
  · exact h

theorem startReplay_keeps {s : State} (h : Keeps P W s) : Keeps P W (startReplay s) := by
  unfold startReplay
  refine Keeps.ite ?_ ?_
  · exact h
  · extract_lets +onlyGivenNames s1
    extract_lets +onlyGivenNames s2
    refine Keeps.upd (s := s) ?_ rfl rfl
    exact h

theorem execJxReplay_keeps {s : State} (h : Keeps P W s) : KeepsO P W (execJxReplay s) := by
  unfold execJxReplay
  refine KeepsO.next ?_
  refine Keeps.ite ?_ ?_
  · apply startReplay_keeps
    exact h
  · exact h

theorem newRound_keeps {s : State} (h : Keeps P W s) : Keeps P W (newRound s) := by
  unfold newRound
  extract_lets +onlyGivenNames s1
  refine Keeps.ite ?_ ?_
  · exact h
  · refine Keeps.ite ?_ ?_
    · exact h
    · refine Keeps.upd (s := s) ?_ rfl rfl
      exact h

theorem nextPosition_keeps {s : State} (h : Keeps P W s) : Keeps P W (nextPosition s) := by
  unfold nextPosition
  extract_lets +onlyGivenNames s1
  refine Keeps.ite ?_ ?_
  · refine Keeps.upd (s := s) ?_ rfl rfl
    exact h
  · refine Keeps.upd (s := s) ?_ rfl rfl
    exact h

theorem giveReceipt_keeps {s : State} (x2 : Nat) (x3 : List Byte) (h : Keeps P W s) : Keeps P W (giveReceipt s x2 x3) := by
  unfold giveReceipt
  extract_lets +onlyGivenNames s1
  refine Keeps.upd (s := s) ?_ rfl rfl
  exact h

theorem assembleRecord_keeps {s : State} (x2 : JRecord) (h : Keeps P W s) : Keeps1 P W (assembleRecord s x2) := by
  unfold assembleRecord
  extract_lets +onlyGivenNames s1
  extract_lets +onlyGivenNames s2
  have h1 : Keeps P W s2 := by
    dsimp -zeta only [s2]
    refine Keeps.ite ?_ ?_
    · apply giveReceipt_keeps
      exact h
    · exact h
  clear_value s2
  extract_lets +onlyGivenNames s3
  extract_lets +onlyGivenNames s4
  refine Keeps1.mk ?_
  refine Keeps.upd (s := s2) ?_ rfl rfl
  exact h1

theorem assembleHead_keeps {s : State} (h : Keeps P W s) : Keeps1 P W (assembleHead s) := by
  unfold assembleHead
  extract_lets +onlyGivenNames s1
  extract_lets +onlyGivenNames s2
  extract_lets +onlyGivenNames s3
  extract_lets +onlyGivenNames s4
  extract_lets +onlyGivenNames s5
  have h1 : Keeps1 P W s5 := by
    dsimp -zeta only [s5]
    apply assembleRecord_keeps
    refine Keeps.upd (s := s) ?_ rfl rfl
    exact h
  clear_value s5
  refine Keeps1.mk ?_
  extract_lets +onlyGivenNames s6
  have h2 : Keeps P W s6 := by
    dsimp -zeta only [s6]
    refine Keeps1.fst ?_
    exact h1
  clear_value s6
  refine Keeps.upd (s := s6) ?_ rfl rfl
  exact h2

theorem assembleAll_keeps {s : State} (x2 : List JRecord) (h : Keeps P W s) : Keeps1 P W (assembleAll s x2) := by
  unfold assembleAll
  refine Keeps1.foldl ?_ ?_
  · intro a1 a2 a3
    extract_lets +onlyGivenNames s1
    have h1 : Keeps1 P W s1 := by
      dsimp -zeta only [s1]
      apply assembleRecord_keeps
      refine Keeps1.fst ?_
      exact a3
    clear_value s1
    refine Keeps1.mk ?_
    refine Keeps1.fst ?_
    exact h1
  · refine Keeps1.mk ?_
    exact h

theorem takePending_keeps {s : State} (x2 : List JRecord) (h : Keeps P W s) : Keeps P W (takePending s x2) := by
  unfold takePending
  refine Keeps.upd (s := s) ?_ rfl rfl
  exact h

theorem startProgram_keeps {s : State} (x2 : Nat) (x3 : Nat) (x4 : Nat) (x5 : PageContent) (x6 : List Nat) (x7 : Bool) (h : Keeps P W s) : Keeps P W (startProgram s x2 x3 x4 x5 x6 x7) := by
  unfold startProgram
  extract_lets +onlyGivenNames s1
  extract_lets +onlyGivenNames s2
  have h2 : Keeps P W s2 := by
    dsimp -zeta only [s2]
    apply driveWp_keeps
    apply programPage_keeps
    exact h
  clear_value s2
  extract_lets +onlyGivenNames s3
  extract_lets +onlyGivenNames s4
  extract_lets +onlyGivenNames s5
  have h5 : Keeps P W s5 := by
    dsimp -zeta only [s5]
    refine Keeps.upd (s := s2) ?_ rfl rfl
    exact h2
  clear_value s5
  extract_lets +onlyGivenNames s6
  have h6 : Keeps P W s6 := by
    dsimp -zeta only [s6]
    refine Keeps.ite ?_ ?_
    · apply addChore_keeps
      exact h5
    · exact h5
  clear_value s6
  apply noteFull_keeps
  exact h6

theorem programJournal_keeps {s : State} (x2 : Nat) (x3 : Nat) (x4 : Nat) (x5 : Bool) (x6 : List JSlot) (h : Keeps P W s) : Keeps P W (programJournal s x2 x3 x4 x5 x6) := by
  unfold programJournal
  apply startProgram_keeps
  refine Keeps.upd (s := s) ?_ rfl rfl
  exact h

theorem devicePage_keeps {s : State} (x2 : Nat) (h : Keeps P W s) : Keeps P W (devicePage s x2) := by
  unfold devicePage
  extract_lets +onlyGivenNames s1
  extract_lets +onlyGivenNames s2
  extract_lets +onlyGivenNames s3
  refine Keeps.ite ?_ ?_
  · exact h
  · split
    · rename_i v1 v2 v3 v4
      extract_lets +onlyGivenNames s4
      extract_lets +onlyGivenNames s5
      extract_lets +onlyGivenNames s6
      have h1 : Keeps P W s6 := by
        dsimp -zeta only [s6]
        refine Keeps.upd (s := v2) ?_ rfl rfl
        refine takeBlock_keeps ?_ v4
        exact h
      clear_value s6
      split
      rename_i v5 v6 v7 v8
      have h2 : Keeps P W v6 := by
        refine Keeps1.of_eq v8 ?_
        refine Keeps1.ite ?_ ?_
        · extract_lets +onlyGivenNames s7
          have h2 : Keeps1 P W s7 := by
            dsimp -zeta only [s7]
            apply assembleHead_keeps
            exact h1
          clear_value s7
          refine Keeps1.mk ?_
          refine Keeps1.fst ?_
          exact h2
        · refine Keeps1.mk ?_
          exact h1
      extract_lets +onlyGivenNames s7
      extract_lets +onlyGivenNames s8
      have h3 : Keeps1 P W s8 := by
        dsimp -zeta only [s8]
        apply assembleAll_keeps
        apply takePending_keeps
        exact h2
      clear_value s8
      apply programJournal_keeps
      refine Keeps1.fst ?_
      exact h3
    · rename_i v1 v2
      extract_lets +onlyGivenNames s4
      extract_lets +onlyGivenNames s5
      have h1 : Keeps P W s5 := by
        dsimp -zeta only [s5]
        refine Keeps.foldl ?_ ?_
        · intro a1 a2 a3
          apply recordFailed_keeps
          exact a3
        · apply takePending_keeps
          exact h
      clear_value s5
      split
      · rename_i v3 v4 v5 v6
        extract_lets +onlyGivenNames s6
        extract_lets +onlyGivenNames s7
        extract_lets +onlyGivenNames s8
        have h2 : Keeps P W s8 := by
          dsimp -zeta only [s8]
          refine Keeps.upd (s := v4) ?_ rfl rfl
          refine takeBlock_keeps ?_ v6
          exact h1
        clear_value s8
        extract_lets +onlyGivenNames s9
        refine Keeps.ite ?_ ?_
        · exact h2
        · extract_lets +onlyGivenNames s10
          have h3 : Keeps1 P W s10 := by
            dsimp -zeta only [s10]
            apply assembleAll_keeps
            apply takePending_keeps
            exact h2
          clear_value s10
          apply programJournal_keeps
          refine Keeps1.fst ?_
          exact h3
      · rename_i v3 v4
        exact h1

theorem imagePage_keeps {s : State} (x2 : Nat) (x3 : Nat) (x4 : List Nat) (h : Keeps P W s) : Keeps P W (imagePage s x2 x3 x4) := by
  unfold imagePage
  extract_lets +onlyGivenNames s1
  extract_lets +onlyGivenNames s2
  have h2 : Keeps P W s2 := by
    dsimp -zeta only [s2]
    refine Keeps.upd (s := s) ?_ rfl rfl
    exact h
  clear_value s2
  split
  · apply startProgram_keeps
    refine takeBlock_keeps ?_ ‹_ = some (_, _)›
    exact h2
  · apply imageFailed_keeps
    exact h2

theorem allotPage_keeps {s : State} (x2 : Nat) (x3 : Nat) (x4 : List JRecord) (h : Keeps P W s) : Keeps P W (allotPage s x2 x3 x4) := by
  unfold allotPage
  split
  · rename_i v1 v2 v3 v4
    extract_lets +onlyGivenNames s1
    have h1 : Keeps1 P W s1 := by
      dsimp -zeta only [s1]
      apply assembleAll_keeps
      apply takePending_keeps
      refine takeBlock_keeps ?_ v4
      exact h
    clear_value s1
    apply programJournal_keeps
    refine Keeps1.fst ?_
    exact h1
  · rename_i v1 v2
    refine Keeps.foldl ?_ ?_
    · intro a1 a2 a3
      apply recordFailed_keeps
      exact a3
    · apply takePending_keeps
      exact h

theorem cachePage_keeps {s : State} (x2 : Nat) (x3 : Nat) (x4 : Nat) (h : Keeps P W s) : Keeps P W (cachePage s x2 x3 x4) := by
  unfold cachePage
  extract_lets +onlyGivenNames s1
  extract_lets +onlyGivenNames s2
  have h2 : Keeps P W s2 := by
    dsimp -zeta only [s2]
    refine Keeps.upd (s := s) ?_ rfl rfl
    exact h
  clear_value s2
  split
  · extract_lets +onlyGivenNames s4
    apply startProgram_keeps
    refine takeBlock_keeps ?_ ‹_ = some (_, _)›
    exact h2
  · exact h2

theorem allotmentTurn_keeps {s : State} (x2 : Nat) (x3 : Nat) (h : Keeps P W s) : Keeps P W (allotmentTurn s x2 x3) := by
  unfold allotmentTurn
  extract_lets +onlyGivenNames s1
  extract_lets +onlyGivenNames s2
  have h1 : Keeps P W s2 := by
    dsimp -zeta only [s2]
    refine Keeps.ite ?_ ?_
    · refine Keeps.upd (s := s) ?_ rfl rfl
      exact h
    · exact h
  clear_value s2
  extract_lets +onlyGivenNames s3
  extract_lets +onlyGivenNames s4
  refine Keeps.ite ?_ ?_
  · apply imagePage_keeps
    exact h1
  · refine Keeps.ite ?_ ?_
    · apply allotPage_keeps
      exact h1
    · split
      · apply cachePage_keeps
        exact h1
      · exact h1

theorem reprogram_keeps {s : State} (x2 : Nat) (x3 : PageInFlight) (h : Keeps P W s) : Keeps P W (reprogram s x2 x3) := by
  unfold reprogram
  split
  · rename_i v4
    exact startProgram_keeps _ _ _ _ _ _ (Keeps.upd (takeBlock_keeps h v4) rfl rfl)
  · exact h

theorem appendSlot_keeps {s : State} (x2 : Nat) (h : Keeps P W s) : Keeps P W (appendSlot s x2) := by
  unfold appendSlot
  split
  · apply reprogram_keeps
    exact h
  · extract_lets +onlyGivenNames s1
    have h1 : Keeps P W s1 := by
      dsimp -zeta only [s1]
      apply newRound_keeps
      exact h
    clear_value s1
    extract_lets +onlyGivenNames s2
    extract_lets +onlyGivenNames s3
    have h2 : Keeps P W s3 := by
      dsimp -zeta only [s3]
      apply nextPosition_keeps
      exact h1
    clear_value s3
    clear_value s2
    split
    · refine Keeps.ite ?_ ?_
      · apply devicePage_keeps
        exact h2
      · apply allotmentTurn_keeps
        exact h2
    · exact h2

theorem journalDurable_keeps {s : State} (x2 : List JSlot) (h : Keeps P W s) : Keeps P W (journalDurable s x2) := by
  unfold journalDurable
  extract_lets +onlyGivenNames s1
  extract_lets +onlyGivenNames s2
  extract_lets +onlyGivenNames s3
  have h1 : Keeps P W s3 := by
    dsimp -zeta only [s3]
    refine Keeps.upd (s := s) ?_ rfl rfl
    exact h
  clear_value s3
  extract_lets +onlyGivenNames s4
  have h2 : Keeps P W s4 := by
    dsimp -zeta only [s4]
    refine Keeps.foldl ?_ ?_
    · intro a1 a2 a3
      refine Keeps.ite ?_ ?_
      · refine Keeps.ite ?_ ?_
        · refine Keeps.upd (s := a1) ?_ rfl rfl
          exact a3
        · exact a3
      · apply recordDurable_keeps
        exact a3
    · exact h1
  clear_value s4
  extract_lets +onlyGivenNames s5
  refine Keeps.upd (s := s4) ?_ rfl rfl
  exact h2

theorem imagePageDurable_keeps {s : State} (x2 : PageInFlight) (x3 : ImagePart) (h : Keeps P W s) : Keeps P W (imagePageDurable s x2 x3) := by
  unfold imagePageDurable
  extract_lets +onlyGivenNames s1
  extract_lets +onlyGivenNames s2
  have h2 : Keeps P W s2 := by
    dsimp -zeta only [s2]
    apply stalePages_keeps
    exact h
  clear_value s2
  extract_lets +onlyGivenNames s3
  extract_lets +onlyGivenNames s4
  extract_lets +onlyGivenNames s5
  extract_lets +onlyGivenNames s6
  extract_lets +onlyGivenNames s7
  have h7 : Keeps P W s7 := by
    dsimp -zeta only [s7]
    refine Keeps.upd (s := s2) ?_ rfl rfl
    exact h2
  clear_value s7
  apply imageDurable_keeps
  exact h7

theorem cachePageDurable_keeps {s : State} (x2 : PageInFlight) (x3 : W64) (h : Keeps P W s) : Keeps P W (cachePageDurable s x2 x3) := by
  unfold cachePageDurable
  extract_lets +onlyGivenNames s1
  have h1 : Keeps P W s1 := by
    dsimp -zeta only [s1]
    apply stalePages_keeps
    exact h
  clear_value s1
  refine Keeps.upd (s := s1) ?_ rfl rfl
  exact h1

theorem pagePassed_keeps {s : State} (x2 : PageInFlight) (h : Keeps P W s) : Keeps P W (pagePassed s x2) := by
  unfold pagePassed
  split
  · apply journalDurable_keeps
    exact h
  · apply imagePageDurable_keeps
    exact h
  · apply cachePageDurable_keeps
    exact h
  · exact h
  · exact h
  · exact h

theorem pageFailed_keeps {s : State} (x2 : PageInFlight) (h : Keeps P W s) : Keeps P W (pageFailed s x2) := by
  unfold pageFailed
  apply growBad_keeps
  extract_lets +onlyGivenNames s2
  have h2 : Keeps P W s2 := by
    dsimp -zeta only [s2]
    apply stalePages_keeps
    exact h
  clear_value s2
  refine Keeps.upd (s := s2) ?_ rfl rfl
  exact h2

theorem execAppendSlot_keeps (x1 : Fin 16) {s : State} (h : Keeps P W s) : KeepsO P W (execAppendSlot x1 s) := by
  unfold execAppendSlot
  refine KeepsO.next ?_
  split
  · refine Keeps.ite ?_ ?_
    · apply settle_keeps
      apply appendSlot_keeps
      exact h
    · exact h
  · exact h

theorem execPageProgramDone_keeps (x1 : W64) (x2 : Bool) {s : State} (h : Keeps P W s) : KeepsO P W (execPageProgramDone x1 x2 s) := by
  unfold execPageProgramDone
  refine KeepsO.next ?_
  split
  · extract_lets +onlyGivenNames s1
    extract_lets +onlyGivenNames s2
    have h1 : Keeps P W s2 := by
      dsimp -zeta only [s2]
      refine Keeps.upd (s := s) ?_ rfl rfl
      exact h
    clear_value s2
    extract_lets +onlyGivenNames s3
    have h2 : Keeps P W s3 := by
      dsimp -zeta only [s3]
      apply driveWp_keeps
      apply modDie_keeps
      exact h1
    clear_value s3
    apply settle_keeps
    refine Keeps.ite ?_ ?_
    · apply pagePassed_keeps
      exact h2
    · apply growBad_keeps
      refine Keeps.upd (s := s3) ?_ rfl rfl
      exact h2
  · exact h

end Sys2Proof.Machine
end

