-- ==== Sys2Proof/Laws/KeepsFrames.lean ====
section
/-! SUPPORT. The queue and the life-cycle bits are kept by the frames and the draws: one lemma for each operation. -/
namespace Sys2Proof.Machine
open Sys2Proof

variable {P : List Instr} {W : List W32}

theorem newBridgeRound_keeps {s : State} (h : Keeps P W s) : Keeps P W (newBridgeRound s) := by
  unfold newBridgeRound
  extract_lets +onlyGivenNames s1
  refine Keeps.ite ?_ ?_
  · exact h
  · refine Keeps.ite ?_ ?_
    · exact h
    · refine Keeps.upd (s := s) ?_ rfl rfl
      exact h

theorem nextBridgePosition_keeps {s : State} (h : Keeps P W s) : Keeps P W (nextBridgePosition s) := by
  unfold nextBridgePosition
  extract_lets +onlyGivenNames s1
  refine Keeps.ite ?_ ?_
  · refine Keeps.upd (s := s) ?_ rfl rfl
    exact h
  · refine Keeps.upd (s := s) ?_ rfl rfl
    exact h

theorem messageSent_keeps {s : State} (x2 : Frame) (h : Keeps P W s) : Keeps P W (messageSent s x2) := by
  unfold messageSent
  split
  · refine Keeps.upd (s := s) ?_ rfl rfl
    exact h
  · apply settle_keeps
    apply commitDone_keeps
    exact h
  · apply tryLinkKey_keeps
    exact h
  · exact h

theorem transmit_keeps {s : State} (x2 : Nat) (x3 : Frame) (h : Keeps P W s) : Keeps P W (transmit s x2 x3) := by
  unfold transmit
  refine Keeps.ite ?_ ?_
  · refine Keeps.upd (s := s) ?_ rfl rfl
    exact h
  · extract_lets +onlyGivenNames s2
    have h2 : Keeps P W s2 := by
      dsimp -zeta only [s2]
      apply sendSegment_keeps
      exact h
    clear_value s2
    refine Keeps.ite ?_ ?_
    · apply messageSent_keeps
      exact h2
    · exact h2

theorem bridgeSlot_keeps {s : State} (h : Keeps P W s) : Keeps P W (bridgeSlot s) := by
  unfold bridgeSlot
  extract_lets +onlyGivenNames s1
  have h1 : Keeps P W s1 := by
    dsimp -zeta only [s1]
    apply newBridgeRound_keeps
    exact h
  clear_value s1
  extract_lets +onlyGivenNames s2
  extract_lets +onlyGivenNames s3
  extract_lets +onlyGivenNames s4
  have h2 : Keeps P W s4 := by
    dsimp -zeta only [s4]
    apply nextBridgePosition_keeps
    exact h1
  clear_value s4
  refine Keeps.ite ?_ ?_
  · extract_lets +onlyGivenNames s5
    extract_lets +onlyGivenNames s6
    apply transmit_keeps
    refine Keeps.upd (s := s4) ?_ rfl rfl
    exact h2
  · split
    · apply transmit_keeps
      exact h2
    · exact h2

theorem discardFrame_keeps {s : State} (h : Keeps P W s) : Keeps P W (discardFrame s) := by
  unfold discardFrame
  extract_lets +onlyGivenNames s1
  extract_lets +onlyGivenNames s2
  have h1 : Keeps P W s2 := by
    dsimp -zeta only [s2]
    refine Keeps.upd (s := s) ?_ rfl rfl
    exact h
  clear_value s2
  apply postFrame_keeps
  exact h1

theorem onMessage_keeps {s : State} (x2 : FrameHead) (x3 : Machine.State → Machine.State) (hx3 : ∀ y1, Keeps P W y1 → Keeps P W (x3 y1)) (h : Keeps P W s) : Keeps P W (onMessage s x2 x3) := by
  unfold onMessage
  refine Keeps.ite ?_ ?_
  · exact h
  · refine Keeps.ite ?_ ?_
    · apply hx3
      refine Keeps.upd (s := s) ?_ rfl rfl
      exact h
    · apply discardFrame_keeps
      exact h

theorem changeRecords_keeps {s : State} (x2 : Nat) (x3 : Nat) (x4 : Nat) (x5 : List Byte) (h : Keeps P W s) : Keeps1 P W (changeRecords s x2 x3 x4 x5) := by
  unfold changeRecords
  extract_lets +onlyGivenNames s1
  extract_lets +onlyGivenNames s2
  extract_lets +onlyGivenNames s3
  split
  · refine Keeps1.ite ?_ ?_
    · apply lcAdvanceRecords_keeps
      exact h
    · refine Keeps1.mk ?_
      exact h
  · refine Keeps1.mk ?_
    exact h
  · refine Keeps1.mk ?_
    exact h
  · refine Keeps1.mk ?_
    exact h
  · split
    · refine Keeps1.ite ?_ ?_
      · dsimp -zeta only [s2]
        refine Keeps1.mk ?_
        apply Keeps1.fst
        apply postKeyEvent_keeps
        exact h
      · refine Keeps1.mk ?_
        exact h
    · refine Keeps1.mk ?_
      exact h
  · extract_lets +onlyGivenNames s5
    split
    · extract_lets +onlyGivenNames s7
      dsimp -zeta only [s2]
      refine Keeps1.mk ?_
      apply Keeps1.fst
      apply postRecord_keeps
      exact h
    · refine Keeps1.mk ?_
      exact h
  · dsimp -zeta only [s2]
    refine Keeps1.mk ?_
    apply Keeps1.fst
    apply postRecord_keeps
    exact h
  · dsimp -zeta only [s2]
    refine Keeps1.mk ?_
    apply Keeps1.fst
    apply postRecord_keeps
    exact h
  · extract_lets +onlyGivenNames s5
    split
    · apply postDestroyed_keeps
      exact h
    · refine Keeps1.mk ?_
      exact h
    · split
      · refine AdminCmd.Keeps.records (adminCmdOf_keeps ‹_ = some _›) ?_
        exact h
      · refine Keeps1.mk ?_
        exact h

theorem applyStaged_keeps {s : State} (x2 : Staged) (h : Keeps P W s) : Keeps P W (applyStaged s x2) := by
  unfold applyStaged
  extract_lets +onlyGivenNames s1
  split
  · refine Keeps.ite ?_ ?_
    · extract_lets +onlyGivenNames s4
      have h4 : Keeps2 P W s4 := by
        dsimp -zeta only [s4]
        apply freshBytes_keeps
        exact h
      clear_value s4
      apply Keeps1.fst
      apply lcAdvanceApply_keeps
      apply Keeps2.snd
      exact h4
    · apply enterSolo_keeps
      exact h
  · refine Keeps.ite ?_ ?_
    · apply zeroiseSlot_keeps
      exact h
    · apply Keeps1.fst
      apply postImageChange_keeps
      apply installItem_keeps
      exact h
  · apply installItem_keeps
    exact h
  · refine Keeps.ite ?_ ?_
    · refine Keeps.upd (s := s) ?_ rfl rfl
      exact h
    · apply installItem_keeps
      exact h
  · apply modStateful_keeps
    exact h
  · refine Keeps.upd (s := s) ?_ rfl rfl
    exact h
  · apply Keeps1.fst
    apply postImageChange_keeps
    apply installItem_keeps
    exact h
  · apply Keeps1.fst
    apply postImageChange_keeps
    apply installItem_keeps
    exact h
  · extract_lets +onlyGivenNames s3
    extract_lets +onlyGivenNames s4
    split
    · apply modAllot_keeps
      apply abortAllotment_keeps
      apply closeQueues_keeps
      exact h
    · apply modQueue_keeps
      apply abortQueue_keeps
      exact h
    · apply modAllot_keeps
      apply Keeps1.fst
      apply createApply_keeps
      exact h
    · split
      · apply Keeps1.fst
        refine AdminCmd.Keeps.apply (adminCmdOf_keeps ‹_ = some _›) ?_
        exact h
      · exact h

theorem onPrepare_keeps {s : State} (x2 : FrameHead) (x3 : List Byte) (h : Keeps P W s) : Keeps P W (onPrepare s x2 x3) := by
  unfold onPrepare
  extract_lets +onlyGivenNames s1
  extract_lets +onlyGivenNames s2
  extract_lets +onlyGivenNames s3
  extract_lets +onlyGivenNames s4
  extract_lets +onlyGivenNames s5
  refine Keeps.ite ?_ ?_
  · exact h
  · split
    · apply postFrame_keeps
      exact h
    · extract_lets +onlyGivenNames s6
      have h1 : Keeps1 P W s6 := by
        dsimp -zeta only [s6]
        apply changeRecords_keeps
        exact h
      clear_value s6
      extract_lets +onlyGivenNames s7
      apply ackReady_keeps
      extract_lets +onlyGivenNames s8
      have h2 : Keeps P W s8 := by
        dsimp -zeta only [s8]
        refine Keeps1.fst ?_
        exact h1
      clear_value s8
      refine Keeps.upd (s := s8) ?_ rfl rfl
      exact h2

theorem onCommit_keeps {s : State} (x2 : Nat) (h : Keeps P W s) : Keeps P W (onCommit s x2) := by
  unfold onCommit
  split
  · extract_lets +onlyGivenNames s1
    extract_lets +onlyGivenNames s2
    have h1 : Keeps P W s2 := by
      dsimp -zeta only [s2]
      refine Keeps.upd (s := s) ?_ rfl rfl
      exact h
    clear_value s2
    apply settle_keeps
    apply applyStaged_keeps
    exact h1
  · exact h

theorem rerunJob_keeps {s : State} (x2 : Nat) (h : Keeps P W s) : Keeps P W (rerunJob s x2) := by
  unfold rerunJob
  split
  · exact h
  · refine Keeps.ite ?_ ?_
    · apply advanceJob_keeps
      apply modJob_keeps
      exact h
    · split
      · split
        · extract_lets +onlyGivenNames s1
          extract_lets +onlyGivenNames s2
          extract_lets +onlyGivenNames s3
          extract_lets +onlyGivenNames s4
          have h1 : Keeps P W s4 := by
            dsimp -zeta only [s4]
            refine Keeps.upd (s := s) ?_ rfl rfl
            exact h
          clear_value s4
          apply advanceJob_keeps
          apply modJob_keeps
          exact h1
        · apply failWaiting_keeps
          exact h
      · apply advanceJob_keeps
        apply modJob_keeps
        exact h

theorem rerunAdmin_keeps {s : State} (x2 : Nat) (x3 : Commit) (h : Keeps P W s) : Keeps P W (rerunAdmin s x2 x3) := by
  unfold rerunAdmin
  split
  · exact h
  · split
    · apply adminFail_keeps
      apply adminUndo_keeps
      exact h
    · extract_lets +onlyGivenNames s3
      extract_lets +onlyGivenNames s4
      have h4 : Keeps1 P W s4 := by
        dsimp -zeta only [s4]
        apply openCommit_keeps
        exact h
      clear_value s4
      apply modJob_keeps
      apply Keeps1.fst
      exact h4

theorem onNak_keeps {s : State} (x2 : Nat) (x3 : Nat) (h : Keeps P W s) : Keeps P W (onNak s x2 x3) := by
  unfold onNak
  split
  · exact h
  · extract_lets +onlyGivenNames s1
    extract_lets +onlyGivenNames s2
    have h1 : Keeps P W s2 := by
      dsimp -zeta only [s2]
      refine Keeps.upd (s := s) ?_ rfl rfl
      exact h
    clear_value s2
    refine Keeps.ite ?_ ?_
    · apply failCommit_keeps
      refine Keeps.upd (s := s2) ?_ rfl rfl
      exact h1
    · extract_lets +onlyGivenNames s3
      have h2 : Keeps P W s3 := by
        dsimp -zeta only [s3]
        apply closeCommit_keeps
        exact h1
      clear_value s3
      split
      · split
        · extract_lets +onlyGivenNames s4
          apply openReservation_keeps
          apply modStateful_keeps
          exact h2
        · exact h2
      · extract_lets +onlyGivenNames s4
        apply openQuote_keeps
        refine Keeps.upd (s := s3) ?_ rfl rfl
        exact h2
      · refine Keeps.ite ?_ ?_
        · apply rerunAdmin_keeps
          exact h2
        · apply rerunJob_keeps
          exact h2
      · exact h2

theorem linkUp_keeps {s : State} (h : Keeps P W s) : Keeps P W (linkUp s) := by
  unfold linkUp
  extract_lets +onlyGivenNames s1
  extract_lets +onlyGivenNames s2
  have h1 : Keeps P W s2 := by
    dsimp -zeta only [s2]
    apply restartFrames_keeps
    refine Keeps.upd (s := s) ?_ rfl rfl
    exact h
  clear_value s2
  refine Keeps.ite ?_ ?_
  · apply postNonce_keeps
    exact h1
  · exact h1

theorem endCeremony_keeps {s : State} (h : Keeps P W s) : Keeps P W (endCeremony s) := by
  unfold endCeremony
  extract_lets +onlyGivenNames s1
  extract_lets +onlyGivenNames s2
  have h1 : Keeps P W s2 := by
    dsimp -zeta only [s2]
    refine Keeps.upd (s := s) ?_ rfl rfl
    exact h
  refine Keeps.ite ?_ ?_
  · apply failCeremony_keeps
    exact h1
  · exact h1

theorem execLinkUp_keeps {s : State} (h : Keeps P W s) : KeepsO P W (execLinkUp s) := by
  unfold execLinkUp
  refine KeepsO.next ?_
  refine Keeps.ite ?_ ?_
  · apply linkUp_keeps
    exact h
  · exact h

theorem execLinkDown_keeps {s : State} (h : Keeps P W s) : KeepsO P W (execLinkDown s) := by
  unfold execLinkDown
  refine KeepsO.next ?_
  refine Keeps.ite ?_ ?_
  · apply endCeremony_keeps
    apply linkLost_keeps
    exact h
  · exact h

theorem execLinkRetrain_keeps {s : State} (h : Keeps P W s) : KeepsO P W (execLinkRetrain s) := by
  unfold execLinkRetrain
  refine KeepsO.next ?_
  refine Keeps.ite ?_ ?_
  · apply retrain_keeps
    exact h
  · exact h

theorem execFbPresentChange_keeps (x1 : Bool) {s : State} (h : Keeps P W s) : KeepsO P W (execFbPresentChange x1 s) := by
  unfold execFbPresentChange
  extract_lets +onlyGivenNames s1
  extract_lets +onlyGivenNames s2
  have h1 : Keeps P W s2 := by
    dsimp -zeta only [s2]
    refine Keeps.upd (s := s) ?_ rfl rfl
    exact h
  clear_value s2
  refine KeepsO.next ?_
  refine Keeps.ite ?_ ?_
  · apply endCeremony_keeps
    apply linkLost_keeps
    exact h1
  · exact h1

theorem execLinkNakTimeout_keeps {s : State} (h : Keeps P W s) : KeepsO P W (execLinkNakTimeout s) := by
  unfold execLinkNakTimeout
  refine KeepsO.next ?_
  split
  · refine Keeps.ite ?_ ?_
    · apply endCeremony_keeps
      apply retrain_keeps
      exact h
    · exact h
  · exact h

theorem execBridgeSlot_keeps {s : State} (h : Keeps P W s) : KeepsO P W (execBridgeSlot s) := by
  unfold execBridgeSlot
  refine KeepsO.next ?_
  refine Keeps.ite ?_ ?_
  · apply bridgeSlot_keeps
    exact h
  · exact h

theorem execHello_keeps (x1 : FrameHead) (x2 : List Byte) {s : State} (h : Keeps P W s) : KeepsO P W (execHello x1 x2 s) := by
  unfold execHello
  refine KeepsO.next ?_
  apply onMessage_keeps
  · intro a1 a2
    refine Keeps.ite ?_ ?_
    · exact a2
    · extract_lets +onlyGivenNames s1
      extract_lets +onlyGivenNames s2
      have h1 : Keeps P W s2 := by
        dsimp -zeta only [s2]
        refine Keeps.upd (s := a1) ?_ rfl rfl
        exact a2
      refine Keeps.ite ?_ ?_
      · apply judgeHello_keeps
        exact h1
      · exact h1
  · exact h

theorem execKemEk_keeps (x1 : FrameHead) (x2 : List Byte) {s : State} (h : Keeps P W s) : KeepsO P W (execKemEk x1 x2 s) := by
  unfold execKemEk
  refine KeepsO.next ?_
  apply onMessage_keeps
  · intro a1 a2
    refine Keeps.ite ?_ ?_
    · extract_lets +onlyGivenNames s1
      extract_lets +onlyGivenNames s2
      extract_lets +onlyGivenNames s3
      extract_lets +onlyGivenNames s4
      extract_lets +onlyGivenNames s5
      have h1 : Keeps P W s5 := by
        dsimp -zeta only [s5]
        apply postFrame_keeps
        refine Keeps.upd (s := a1) ?_ rfl rfl
        exact a2
      clear_value s5
      apply formPairKey_keeps
      exact h1
    · exact a2
  · exact h

theorem execKemCt_keeps (x1 : FrameHead) (x2 : List Byte) {s : State} (h : Keeps P W s) : KeepsO P W (execKemCt x1 x2 s) := by
  unfold execKemCt
  refine KeepsO.next ?_
  apply onMessage_keeps
  · intro a1 a2
    refine Keeps.ite ?_ ?_
    · extract_lets +onlyGivenNames s1
      apply formPairKey_keeps
      refine Keeps.upd (s := a1) ?_ rfl rfl
      exact a2
    · exact a2
  · exact h

theorem execAuthFrame_keeps (x1 : FrameHead) (x2 : List Byte) {s : State} (h : Keeps P W s) : KeepsO P W (execAuthFrame x1 x2 s) := by
  unfold execAuthFrame
  refine KeepsO.next ?_
  apply onMessage_keeps
  · intro a1 a2
    refine Keeps.ite ?_ ?_
    · refine Keeps.ite ?_ ?_
      · apply authenticated_keeps
        refine Keeps.upd (s := a1) ?_ rfl rfl
        exact a2
      · apply failCeremony_keeps
        exact a2
    · exact a2
  · exact h

theorem execStateItem_keeps (x1 : FrameHead) (x2 : List Byte) {s : State} (h : Keeps P W s) : KeepsO P W (execStateItem x1 x2 s) := by
  unfold execStateItem
  refine KeepsO.next ?_
  apply onMessage_keeps
  · intro a h
    refine Keeps.ite h (Keeps.ite ?_ (Keeps.ite (installState_keeps _ _ _ h) h))
    exact installState_keeps _ _ _ (Keeps.upd (s := a) h rfl rfl)
  · exact h

theorem execStateEnd_keeps (x1 : FrameHead) (x2 : List Byte) {s : State} (h : Keeps P W s) : KeepsO P W (execStateEnd x1 x2 s) := by
  unfold execStateEnd
  refine KeepsO.next ?_
  apply onMessage_keeps
  · intro a1 a2
    refine Keeps.ite ?_ ?_
    · refine Keeps.ite ?_ ?_
      · apply recordPaired_keeps
        exact a2
      · apply failCeremony_keeps
        exact a2
    · exact a2
  · exact h

theorem execPrepare_keeps (x1 : FrameHead) (x2 : List Byte) {s : State} (h : Keeps P W s) : KeepsO P W (execPrepare x1 x2 s) := by
  unfold execPrepare
  refine KeepsO.next ?_
  apply onMessage_keeps
  · intro a1 a2
    apply onPrepare_keeps
    exact a2
  · exact h

theorem execAck_keeps (x1 : FrameHead) (x2 : List Byte) {s : State} (h : Keeps P W s) : KeepsO P W (execAck x1 x2 s) := by
  unfold execAck
  refine KeepsO.next ?_
  apply onMessage_keeps
  · intro a1 a2
    apply settle_keeps
    refine Keeps.upd (s := a1) ?_ rfl rfl
    exact a2
  · exact h

theorem execNak_keeps (x1 : FrameHead) (x2 : List Byte) {s : State} (h : Keeps P W s) : KeepsO P W (execNak x1 x2 s) := by
  unfold execNak
  refine KeepsO.next ?_
  apply onMessage_keeps
  · intro a1 a2
    apply settle_keeps
    apply onNak_keeps
    exact a2
  · exact h

theorem execFrameCommit_keeps (x1 : FrameHead) (x2 : List Byte) {s : State} (h : Keeps P W s) : KeepsO P W (execFrameCommit x1 x2 s) := by
  unfold execFrameCommit
  refine KeepsO.next ?_
  apply onMessage_keeps
  · intro a1 a2
    apply onCommit_keeps
    exact a2
  · exact h

theorem execAbandon_keeps (x1 : FrameHead) (x2 : List Byte) {s : State} (h : Keeps P W s) : KeepsO P W (execAbandon x1 x2 s) := by
  unfold execAbandon
  refine KeepsO.next ?_
  apply onMessage_keeps
  · intro a1 a2
    refine Keeps.upd (s := a1) ?_ rfl rfl
    exact a2
  · exact h

theorem execCommitTimeout_keeps (x1 : W64) {s : State} (h : Keeps P W s) : KeepsO P W (execCommitTimeout x1 s) := by
  unfold execCommitTimeout
  extract_lets +onlyGivenNames s1
  refine KeepsO.next ?_
  split
  · refine Keeps.ite ?_ ?_
    · apply settle_keeps
      apply failCommit_keeps
      refine Keeps.upd (s := s) ?_ rfl rfl
      exact h
    · exact h
  · exact h

theorem execHeartbeat_keeps (x1 : FrameHead) (x2 : List Byte) {s : State} (h : Keeps P W s) : KeepsO P W (execHeartbeat x1 x2 s) := by
  unfold execHeartbeat
  refine KeepsO.next ?_
  apply onMessage_keeps
  · intro a1 a2
    refine Keeps.ite ?_ ?_
    · exact a2
    · extract_lets +onlyGivenNames s1
      extract_lets +onlyGivenNames s2
      extract_lets +onlyGivenNames s3
      have h1 : Keeps P W s3 := by
        dsimp -zeta only [s3]
        refine Keeps.upd (s := a1) ?_ rfl rfl
        exact a2
      clear_value s3
      refine Keeps.ite ?_ ?_
      · refine Keeps.ite ?_ ?_
        · apply startRejoin_keeps
          exact h1
        · exact h1
      · refine Keeps.ite ?_ ?_
        · refine Keeps.upd (s := s3) ?_ rfl rfl
          exact h1
        · apply startRejoin_keeps
          apply enterSolo_keeps
          exact h1
  · exact h

theorem execHeartbeatDeadline_keeps {s : State} (h : Keeps P W s) : KeepsO P W (execHeartbeatDeadline s) := by
  unfold execHeartbeatDeadline
  refine KeepsO.next ?_
  refine Keeps.ite ?_ ?_
  · apply settle_keeps
    apply enterSolo_keeps
    exact h
  · exact h

theorem execTamperNotice_keeps (x1 : FrameHead) (x2 : List Byte) {s : State} (h : Keeps P W s) : KeepsO P W (execTamperNotice x1 x2 s) := by
  unfold execTamperNotice
  refine KeepsO.next ?_
  apply onMessage_keeps
  · intro a1 a2
    refine Keeps.ite ?_ ?_
    · apply softEvent_keeps
      exact a2
    · exact a2
  · exact h

theorem execSolo_keeps (x1 : FrameHead) (x2 : List Byte) {s : State} (h : Keeps P W s) : KeepsO P W (execSolo x1 x2 s) := by
  unfold execSolo
  refine KeepsO.next ?_
  apply onMessage_keeps
  · intro a1 a2
    refine Keeps.ite ?_ ?_
    · apply settle_keeps
      apply enterSolo_keeps
      exact a2
    · exact a2
  · exact h

theorem execLinkNak_keeps (x1 : FrameHead) (x2 : List Byte) {s : State} (h : Keeps P W s) : KeepsO P W (execLinkNak x1 x2 s) := by
  unfold execLinkNak
  refine KeepsO.next ?_
  apply onMessage_keeps
  · intro a1 a2
    extract_lets +onlyGivenNames s1
    refine Keeps.foldl ?_ ?_
    · intro a3 a4 a5
      extract_lets +onlyGivenNames s2
      refine Keeps.ite ?_ ?_
      · exact a5
      · refine Keeps.upd (s := a3) ?_ rfl rfl
        exact a5
    · exact a2
  · exact h

theorem execLinkNonce_keeps (x1 : FrameHead) (x2 : List Byte) {s : State} (h : Keeps P W s) : KeepsO P W (execLinkNonce x1 x2 s) := by
  unfold execLinkNonce
  refine KeepsO.next ?_
  refine Keeps.ite ?_ ?_
  · exact h
  · refine Keeps.ite ?_ ?_
    · apply endCeremony_keeps
      apply retrain_keeps
      refine Keeps.upd (s := s) ?_ rfl rfl
      exact h
    · apply onMessage_keeps
      · intro a1 a2
        apply tryLinkKey_keeps
        refine Keeps.upd (s := a1) ?_ rfl rfl
        exact a2
      · exact h

theorem execRejoinReq_keeps (x1 : FrameHead) (x2 : List Byte) {s : State} (h : Keeps P W s) : KeepsO P W (execRejoinReq x1 x2 s) := by
  unfold execRejoinReq
  refine KeepsO.next ?_
  apply onMessage_keeps
  · intro a1 a2
    refine Keeps.ite ?_ ?_
    · exact a2
    · extract_lets +onlyGivenNames s1
      extract_lets +onlyGivenNames s2
      have h1 : Keeps P W s2 := by
        dsimp -zeta only [s2]
        refine Keeps.upd (s := a1) ?_ rfl rfl
        exact a2
      clear_value s2
      extract_lets +onlyGivenNames s3
      have h2 : Keeps P W s3 := by
        dsimp -zeta only [s3]
        refine Keeps.ite ?_ ?_
        · exact h1
        · apply enterSolo_keeps
          exact h1
      clear_value s3
      refine Keeps.ite ?_ ?_
      · apply rejoinMet_keeps
        exact h2
      · apply startRejoin_keeps
        exact h2
  · exact h

theorem execReplay_keeps (x1 : FrameHead) (x2 : List Byte) {s : State} (h : Keeps P W s) : KeepsO P W (execReplay x1 x2 s) := by
  unfold execReplay
  refine KeepsO.next ?_
  apply onMessage_keeps
  · intro a1 a2
    refine Keeps.ite ?_ ?_
    · refine Keeps.foldl ?_ ?_
      · intro a3 a4 a5
        apply applyReplayed_keeps
        exact a5
      · exact a2
    · exact a2
  · exact h

theorem decideDoubt_keeps {s : State} (h : Keeps P W s) : Keeps P W (decideDoubt s) := by
  unfold decideDoubt
  extract_lets +onlyGivenNames s1
  extract_lets +onlyGivenNames s2
  extract_lets +onlyGivenNames s3
  extract_lets +onlyGivenNames s4
  extract_lets +onlyGivenNames s5
  have h1 : Keeps P W s5 := by
    dsimp -zeta only [s5]
    refine Keeps.upd (s := s) ?_ rfl rfl
    exact h
  clear_value s5
  refine Keeps.foldl ?_ ?_
  · intro a1 a2 a3
    refine Keeps.ite ?_ ?_
    · apply applyStaged_keeps
      exact a3
    · exact a3
  · exact h1

theorem execReplayEnd_keeps (x1 : FrameHead) (x2 : List Byte) {s : State} (h : Keeps P W s) : KeepsO P W (execReplayEnd x1 x2 s) := by
  unfold execReplayEnd
  refine KeepsO.next ?_
  apply onMessage_keeps
  · intro a1 a2
    refine Keeps.ite ?_ ?_
    · exact a2
    · extract_lets +onlyGivenNames s1
      extract_lets +onlyGivenNames s2
      have h1 : Keeps P W s2 := by
        dsimp -zeta only [s2]
        refine Keeps.foldl ?_ ?_
        · intro a3 a4 a5
          refine Keeps.ite ?_ ?_
          · apply softEvent_keeps
            exact a5
          · exact a5
        · exact a2
      clear_value s2
      extract_lets +onlyGivenNames s3
      extract_lets +onlyGivenNames s4
      have h2 : Keeps P W s4 := by
        dsimp -zeta only [s4]
        apply decideDoubt_keeps
        refine Keeps.upd (s := s2) ?_ rfl rfl
        exact h1
      clear_value s4
      extract_lets +onlyGivenNames s5
      have h3 : Keeps1 P W s5 := by
        dsimp -zeta only [s5]
        apply postTwin_keeps
        exact h2
      clear_value s5
      apply settle_keeps
      extract_lets +onlyGivenNames s6
      have h4 : Keeps P W s6 := by
        dsimp -zeta only [s6]
        refine Keeps1.fst ?_
        exact h3
      clear_value s6
      refine Keeps.upd (s := s6) ?_ rfl rfl
      exact h4
  · exact h

theorem takeSeed_keeps {s : State} (h : Keeps P W s) : Keeps P W (takeSeed s) := by
  unfold takeSeed
  extract_lets +onlyGivenNames s1
  split
  · exact h
  · extract_lets +onlyGivenNames s2
    refine Keeps.upd (s := s) ?_ rfl rfl
    exact h

theorem becomeReady_keeps {s : State} (h : Keeps P W s) : Keeps P W (becomeReady s) := by
  unfold becomeReady
  extract_lets +onlyGivenNames s1
  refine Keeps.ite ?_ ?_
  · extract_lets +onlyGivenNames s3
    have h3 : Keeps P W s3 := by
      dsimp -zeta only [s3]
      refine Keeps.upd (s := s) ?_ rfl rfl
      exact h
    clear_value s3
    refine Keeps.ite ?_ ?_
    · apply postNonce_keeps
      exact h3
    · exact h3
  · exact h

theorem postDraws_keeps {s : State} (h : Keeps P W s) : Keeps P W (postDraws s) := by
  unfold postDraws
  extract_lets +onlyGivenNames s1
  refine Keeps.foldl ?_ ?_
  · intro a1 a2 a3
    split
    · exact a3
    · extract_lets +onlyGivenNames s2
      extract_lets +onlyGivenNames s3
      extract_lets +onlyGivenNames s4
      have h1 : Keeps P W s4 := by
        dsimp -zeta only [s4]
        apply modJob_keeps
        exact a3
      clear_value s4
      refine Keeps.upd (s := s4) ?_ rfl rfl
      exact h1
  · exact h

theorem judgeLimit_keeps {s : State} (h : Keeps P W s) : Keeps P W (judgeLimit s) := by
  unfold judgeLimit
  extract_lets +onlyGivenNames s1
  refine Keeps.ite ?_ ?_
  · apply logFountain_keeps
    refine Keeps.upd (s := s) ?_ rfl rfl
    exact h
  · exact h

theorem serveDraw_keeps {s : State} (x2 : List Byte) (x3 : Nat) (x4 : Posted) (x5 : List Posted) (h : Keeps P W s) : Keeps P W (serveDraw s x2 x3 x4 x5) := by
  unfold serveDraw
  extract_lets +onlyGivenNames s1
  extract_lets +onlyGivenNames s2
  extract_lets +onlyGivenNames s3
  extract_lets +onlyGivenNames s4
  extract_lets +onlyGivenNames s5
  have h5 : Keeps P W s5 := by
    dsimp -zeta only [s5]
    refine Keeps.upd (s := s) ?_ rfl rfl
    exact h
  clear_value s5
  split
  · extract_lets +onlyGivenNames s7
    have h7 : Keeps P W s7 := by
      dsimp -zeta only [s7]
      apply modJob_keeps
      exact h5
    clear_value s7
    refine Keeps.ite ?_ ?_
    · apply settle_keeps
      exact h7
    · exact h7
  · exact h5

theorem serveMask_keeps {s : State} (x2 : Nat) (h : Keeps P W s) : Keeps P W (serveMask s x2) := by
  unfold serveMask
  extract_lets +onlyGivenNames s1
  refine Keeps.ite ?_ ?_
  · apply setUnit_keeps
    exact h
  · exact h

theorem giveSlot_keeps {s : State} (x2 : List Byte) (h : Keeps P W s) : Keeps P W (giveSlot s x2) := by
  unfold giveSlot
  extract_lets +onlyGivenNames s1
  extract_lets +onlyGivenNames s2
  refine Keeps.ite ?_ ?_
  · exact h
  · refine Keeps.ite ?_ ?_
    · apply serveMask_keeps
      exact h
    · split
      · exact h
      · split
        · refine Keeps.ite ?_ ?_
          · exact h
          · apply serveDraw_keeps
            exact h
        · exact h

theorem serveSlot_keeps {s : State} (h : Keeps P W s) : Keeps P W (serveSlot s) := by
  unfold serveSlot
  extract_lets +onlyGivenNames s1
  refine Keeps.ite ?_ ?_
  · exact h
  · extract_lets +onlyGivenNames s3
    apply giveSlot_keeps
    refine Keeps.upd (s := s) ?_ rfl rfl
    exact h

theorem nextSlot_keeps {s : State} (h : Keeps P W s) : Keeps P W (nextSlot s) := by
  unfold nextSlot
  extract_lets +onlyGivenNames s1
  extract_lets +onlyGivenNames s2
  refine Keeps.ite ?_ ?_
  · refine Keeps.upd (s := s) ?_ rfl rfl
    exact h
  · refine Keeps.ite ?_ ?_
    · refine Keeps.upd (s := s) ?_ rfl rfl
      exact h
    · refine Keeps.ite ?_ ?_
      · refine Keeps.upd (s := s) ?_ rfl rfl
        exact h
      · refine Keeps.upd (s := s) ?_ rfl rfl
        exact h

theorem generateSlot_keeps {s : State} (h : Keeps P W s) : Keeps P W (generateSlot s) := by
  unfold generateSlot
  refine Keeps.ite ?_ ?_
  · exact h
  · apply nextSlot_keeps
    apply serveSlot_keeps
    apply judgeLimit_keeps
    apply postDraws_keeps
    apply becomeReady_keeps
    apply takeSeed_keeps
    exact h

theorem freshKek_keeps {s : State} (h : Keeps P W s) : Keeps P W (freshKek s) := by
  unfold freshKek
  refine Keeps.ite ?_ ?_
  · exact h
  · extract_lets +onlyGivenNames s1
    have h1 : Keeps2 P W s1 := by
      dsimp -zeta only [s1]
      apply freshBytes_keeps
      exact h
    clear_value s1
    extract_lets +onlyGivenNames s2
    have h2 : Keeps P W s2 := by
      dsimp -zeta only [s2]
      refine Keeps2.snd ?_
      exact h1
    clear_value s2
    refine Keeps.upd (s := s2) ?_ rfl rfl
    exact h2

theorem resumeIcehouse_keeps {s : State} (h : Keeps P W s) : Keeps P W (resumeIcehouse s) := by
  unfold resumeIcehouse
  extract_lets +onlyGivenNames s1
  have h1 : Keeps P W s1 := by
    dsimp -zeta only [s1]
    apply freshKek_keeps
    exact h
  clear_value s1
  extract_lets +onlyGivenNames s2
  have h2 : Keeps2 P W s2 := by
    dsimp -zeta only [s2]
    apply freshBytes_keeps
    exact h1
  clear_value s2
  extract_lets +onlyGivenNames s3
  have h3 : Keeps2 P W s3 := by
    dsimp -zeta only [s3]
    apply freshBytes_keeps
    refine Keeps2.snd ?_
    exact h2
  clear_value s3
  extract_lets +onlyGivenNames s4
  have h4 : Keeps P W s4 := by
    dsimp -zeta only [s4]
    refine Keeps2.snd ?_
    exact h3
  clear_value s4
  extract_lets +onlyGivenNames s5
  extract_lets +onlyGivenNames s6
  have h5 : Keeps P W s6 := by
    dsimp -zeta only [s6]
    refine Keeps.upd (s := s4) ?_ rfl rfl
    exact h4
  clear_value s6
  extract_lets +onlyGivenNames s7
  have h6 : Keeps P W s7 := by
    dsimp -zeta only [s7]
    apply restoreImage_keeps
    exact h5
  clear_value s7
  refine Keeps.foldl ?_ ?_
  · intro a1 a2 a3
    apply intake_keeps
    exact a3
  · exact h6

theorem execGenerateSlot_keeps {s : State} (h : Keeps P W s) : KeepsO P W (execGenerateSlot s) := by
  unfold execGenerateSlot
  refine KeepsO.next ?_
  apply generateSlot_keeps
  exact h

theorem execDrawTimeout_keeps (x1 : JobRef) {s : State} (h : Keeps P W s) : KeepsO P W (execDrawTimeout x1 s) := by
  unfold execDrawTimeout
  extract_lets +onlyGivenNames s1
  refine KeepsO.next ?_
  split
  · refine Keeps.ite ?_ ?_
    · exact h
    · refine Keeps.ite ?_ ?_
      · apply settle_keeps
        apply adminFail_keeps
        apply dropDraws_keeps
        apply adminUndo_keeps
        exact h
      · apply failNow_keeps
        exact h
  · exact h

theorem execStartupExpired_keeps {s : State} (h : Keeps P W s) : KeepsO P W (execStartupExpired s) := by
  unfold execStartupExpired
  refine KeepsO.next ?_
  refine Keeps.ite ?_ ?_
  · extract_lets +onlyGivenNames s1
    extract_lets +onlyGivenNames s2
    extract_lets +onlyGivenNames s3
    have h1 : Keeps P W s3 := by
      dsimp -zeta only [s3]
      refine Keeps.foldl ?_ ?_
      · intro a1 a2 a3
        apply failNow_keeps
        exact a3
      · refine Keeps.upd (s := s) ?_ rfl rfl
        exact h
    clear_value s3
    apply logFountain_keeps
    exact h1
  · exact h

theorem execRefreshGeneratorReseed_keeps (x1 : Fin 4) {s : State} (h : Keeps P W s) : KeepsO P W (execRefreshGeneratorReseed x1 s) := by
  unfold execRefreshGeneratorReseed
  extract_lets +onlyGivenNames s1
  extract_lets +onlyGivenNames s2
  extract_lets +onlyGivenNames s3
  refine KeepsO.next ?_
  refine Keeps.ite ?_ ?_
  · exact h
  · refine Keeps.ite ?_ ?_
    · refine Keeps.upd (s := s) ?_ rfl rfl
      exact h
    · refine Keeps.upd (s := s) ?_ rfl rfl
      exact h

theorem execIcehouseHoldExpired_keeps (x1 : JobRef) {s : State} (h : Keeps P W s) : KeepsO P W (execIcehouseHoldExpired x1 s) := by
  unfold execIcehouseHoldExpired
  refine KeepsO.next ?_
  split
  · refine Keeps.ite ?_ ?_
    · apply failNow_keeps
      exact h
    · exact h
  · exact h

theorem execIcehouseResume_keeps {s : State} (h : Keeps P W s) : KeepsO P W (execIcehouseResume s) := by
  unfold execIcehouseResume
  refine KeepsO.next ?_
  refine Keeps.ite ?_ ?_
  · apply resumeIcehouse_keeps
    exact h
  · exact h

end Sys2Proof.Machine
end

