-- ==== Sys2Proof/Laws/KeepsLink.lean ====
section
/-! SUPPORT. The queue and the life-cycle bits are kept by boot, link, rings, set-up and block resets: one lemma for each operation. -/
namespace Sys2Proof.Machine
open Sys2Proof

variable {P : List Instr} {W : List W32}

theorem powerOnReset_keeps {s : State} (x2 : Bool) (h : Keeps P W s) : Keeps P W (powerOnReset s x2) := by
  unfold powerOnReset
  extract_lets +onlyGivenNames s1
  have h1 : Keeps P W s1 := by
    dsimp -zeta only [s1]
    apply fullReset_keeps
    exact h
  clear_value s1
  refine Keeps.upd (s := s1) ?_ rfl rfl
  exact h1

theorem execPowerOnReset_keeps (x1 : Bool) {s : State} (h : Keeps P W s) : KeepsO P W (execPowerOnReset x1 s) := by
  unfold execPowerOnReset
  refine KeepsO.next ?_
  apply powerOnReset_keeps
  exact h

theorem execPorstNRelease_keeps (x1 : BitVec 5) {s : State} (h : Keeps P W s) : KeepsO P W (execPorstNRelease x1 s) := by
  unfold execPorstNRelease
  refine KeepsO.next ?_
  refine Keeps.ite ?_ ?_
  · refine Keeps.upd (s := s) ?_ rfl rfl
    exact h
  · exact h

theorem execWatchdogExpiry_keeps {s : State} (h : Keeps P W s) : KeepsO P W (execWatchdogExpiry s) := by
  unfold execWatchdogExpiry
  refine KeepsO.next ?_
  refine Keeps.ite ?_ ?_
  · apply fullReset_keeps
    exact h
  · exact h

theorem globalWrite_keeps {s : State} (x2 : W32) (h : Keeps P W s) : Keeps P W (globalWrite s x2) := by
  unfold globalWrite
  refine Keeps.ite ?_ ?_
  · refine Keeps.ite ?_ ?_
    · apply fatal_keeps
      exact h
    · apply fullReset_keeps
      exact h
  · exact h

theorem execGlobalReset_keeps (x1 : W32) {s : State} (h : Keeps P W s) : KeepsO P W (execGlobalReset x1 s) := by
  unfold execGlobalReset
  refine KeepsO.next ?_
  apply globalWrite_keeps
  exact h

theorem execThermalTrip_keeps {s : State} (h : Keeps P W s) : KeepsO P W (execThermalTrip s) := by
  unfold execThermalTrip
  refine KeepsO.next ?_
  refine Keeps.ite ?_ ?_
  · apply fullReset_keeps
    exact h
  · exact h

theorem execThermalHoldEnd_keeps {s : State} (h : Keeps P W s) : KeepsO P W (execThermalHoldEnd s) := by
  unfold execThermalHoldEnd
  refine KeepsO.next ?_
  refine Keeps.ite ?_ ?_
  · refine Keeps.upd (s := s) ?_ rfl rfl
    exact h
  · exact h

theorem reportWhileOff_keeps {s : State} (h : Keeps P W s) : Keeps P W (reportWhileOff s) := by
  unfold reportWhileOff
  split
  · exact h
  · extract_lets +onlyGivenNames s1
    have h1 : Keeps P W s1 := by
      dsimp -zeta only [s1]
      apply tzErase_keeps
      exact h
    clear_value s1
    extract_lets +onlyGivenNames s2
    extract_lets +onlyGivenNames s3
    extract_lets +onlyGivenNames s4
    extract_lets +onlyGivenNames s5
    have h2 : Keeps P W s5 := by
      dsimp -zeta only [s5]
      refine Keeps.upd (s := s1) ?_ rfl rfl
      exact h1
    clear_value s5
    extract_lets +onlyGivenNames s6
    have h3 : Keeps P W s6 := by
      dsimp -zeta only [s6]
      apply logEventAt_keeps
      exact h2
    clear_value s6
    apply linkRing_keeps
    exact h3

theorem stageOne_keeps {s : State} (h : Keeps P W s) : Keeps P W (stageOne s) := by
  unfold stageOne
  apply reportWhileOff_keeps
  refine Keeps.upd (s := s) ?_ rfl rfl
  exact h

theorem stageTwo_keeps {s : State} (x2 : Bool) (h : Keeps P W s) : Keeps P W (stageTwo s x2) := by
  unfold stageTwo
  extract_lets +onlyGivenNames s1
  extract_lets +onlyGivenNames s2
  extract_lets +onlyGivenNames s3
  extract_lets +onlyGivenNames s4
  extract_lets +onlyGivenNames s5
  extract_lets +onlyGivenNames s6
  extract_lets +onlyGivenNames s7
  have h1 : Keeps P W s7 := by
    dsimp -zeta only [s7]
    refine Keeps.upd (s := s) ?_ rfl rfl
    exact h
  clear_value s7
  refine Keeps.ite ?_ ?_
  · exact h1
  · apply consistencyEvent_keeps
    exact h1

theorem stageFive_keeps {s : State} (h : Keeps P W s) : Keeps P W (stageFive s) := by
  unfold stageFive
  refine Keeps.ite ?_ ?_
  · refine Keeps.upd (s := s) ?_ rfl rfl
    exact h
  · refine Keeps.upd (s := s) ?_ rfl rfl
    exact h

theorem stageSix_keeps {s : State} (h : Keeps P W s) : Keeps P W (stageSix s) := by
  unfold stageSix
  refine Keeps.ite ?_ ?_
  · exact h
  · refine Keeps.ite ?_ ?_
    · refine Keeps.upd (s := s) ?_ rfl rfl
      exact h
    · refine Keeps.upd (s := s) ?_ rfl rfl
      exact h

theorem nextStage_keeps {s : State} (x2 : Bool) (h : Keeps P W s) : Keeps P W (nextStage s x2) := by
  unfold nextStage
  refine Keeps.ite ?_ ?_
  · exact h
  · split
    · apply stageOne_keeps
      exact h
    · refine Keeps.ite ?_ ?_
      · exact h
      · apply stageTwo_keeps
        exact h
    · refine Keeps.upd (s := s) ?_ rfl rfl
      exact h
    · refine Keeps.ite ?_ ?_
      · refine Keeps.upd (s := s) ?_ rfl rfl
        exact h
      · exact h
    · apply stageFive_keeps
      exact h
    · apply stageSix_keeps
      exact h
    · refine Keeps.upd (s := s) ?_ rfl rfl
      exact h
    · refine Keeps.ite ?_ ?_
      · refine Keeps.upd (s := s) ?_ rfl rfl
        exact h
      · exact h
    · exact h

theorem releaseStage_keeps {s : State} (x2 : Bool) (h : Keeps P W s) : Keeps P W (releaseStage s x2) := by
  unfold releaseStage
  extract_lets +onlyGivenNames s1
  have h1 : Keeps P W s1 := by
    dsimp -zeta only [s1]
    apply nextStage_keeps
    exact h
  clear_value s1
  refine Keeps.ite ?_ ?_
  · exact h1
  · refine Keeps.upd (s := s1) ?_ rfl rfl
    exact h1

theorem execResetStageRelease_keeps (x1 : Bool) {s : State} (h : Keeps P W s) : KeepsO P W (execResetStageRelease x1 s) := by
  unfold execResetStageRelease
  refine KeepsO.next ?_
  apply releaseStage_keeps
  exact h

theorem execCorePllLock_keeps {s : State} (h : Keeps P W s) : KeepsO P W (execCorePllLock s) := by
  unfold execCorePllLock
  refine KeepsO.next ?_
  refine Keeps.ite ?_ ?_
  · refine Keeps.upd (s := s) ?_ rfl rfl
    exact h
  · exact h

theorem execPllLockTimeout_keeps {s : State} (h : Keeps P W s) : KeepsO P W (execPllLockTimeout s) := by
  unfold execPllLockTimeout
  refine KeepsO.next ?_
  refine Keeps.ite ?_ ?_
  · refine Keeps.ite ?_ ?_
    · refine Keeps.upd (s := s) ?_ rfl rfl
      exact h
    · refine Keeps.upd (s := s) ?_ rfl rfl
      exact h
  · exact h

theorem startDownload_keeps {s : State} (h : Keeps P W s) : Keeps P W (startDownload s) := by
  unfold startDownload
  refine Keeps.ite ?_ ?_
  · apply request_keeps
    refine Keeps.upd (s := s) ?_ rfl rfl
    exact h
  · exact h

theorem bootGo_keeps {s : State} (h : Keeps P W s) : Keeps P W (bootGo s) := by
  unfold bootGo
  apply startDownload_keeps
  refine Keeps.upd (s := s) ?_ rfl rfl
  exact h

theorem execBootGo_keeps {s : State} (h : Keeps P W s) : KeepsO P W (execBootGo s) := by
  unfold execBootGo
  refine KeepsO.next ?_
  apply bootGo_keeps
  exact h

theorem stopFirmware_keeps {s : State} (h : Keeps P W s) : Keeps P W (stopFirmware s) := by
  unfold stopFirmware
  refine Keeps.upd (s := s) ?_ rfl rfl
  exact h

theorem endDirectory_keeps {s : State} (x2 : Option (List Byte)) (h : Keeps P W s) : Keeps P W (endDirectory s x2) := by
  unfold endDirectory
  split
  · refine Keeps.ite ?_ ?_
    · apply startDownload_keeps
      refine Keeps.upd (s := s) ?_ rfl rfl
      exact h
    · apply stopFirmware_keeps
      refine Keeps.upd (s := s) ?_ rfl rfl
      exact h
  · apply stopFirmware_keeps
    refine Keeps.upd (s := s) ?_ rfl rfl
    exact h

theorem imageReason_keeps {s : State} (x2 : Option (List Byte)) (h : Keeps P W s) : Keeps2 P W (imageReason s x2) := by
  unfold imageReason
  split
  · refine Keeps2.mk ?_
    exact h
  · refine Keeps2.mk ?_
    refine Keeps2.snd ?_
    apply fresh_keeps
    exact h

theorem runFirmware_keeps {s : State} (x2 : Nat) (x3 : List Byte) (h : Keeps P W s) : Keeps P W (runFirmware s x2 x3) := by
  unfold runFirmware
  refine Keeps.upd (s := s) ?_ rfl rfl
  exact h

theorem endFirmware_keeps {s : State} (x2 : Option (List Byte)) (x3 : Option (List Byte)) (h : Keeps P W s) : Keeps P W (endFirmware s x2 x3) := by
  unfold endFirmware
  refine Keeps.ite ?_ ?_
  · exact h
  · extract_lets +onlyGivenNames s1
    extract_lets +onlyGivenNames s2
    extract_lets +onlyGivenNames s3
    have h1 : Keeps2 P W s3 := by
      dsimp -zeta only [s3]
      apply imageReason_keeps
      exact h
    clear_value s3
    extract_lets +onlyGivenNames s4
    have h2 : Keeps P W s4 := by
      dsimp -zeta only [s4]
      refine Keeps2.snd ?_
      exact h1
    clear_value s4
    extract_lets +onlyGivenNames s5
    extract_lets +onlyGivenNames s6
    have h3 : Keeps P W s6 := by
      dsimp -zeta only [s6]
      refine Keeps.upd (s := s4) ?_ rfl rfl
      exact h2
    clear_value s6
    refine Keeps.ite ?_ ?_
    · apply runFirmware_keeps
      exact h3
    · extract_lets +onlyGivenNames s7
      have h4 : Keeps2 P W s7 := by
        dsimp -zeta only [s7]
        apply imageReason_keeps
        exact h3
      clear_value s7
      extract_lets +onlyGivenNames s8
      have h5 : Keeps P W s8 := by
        dsimp -zeta only [s8]
        refine Keeps2.snd ?_
        exact h4
      clear_value s8
      extract_lets +onlyGivenNames s9
      extract_lets +onlyGivenNames s10
      have h6 : Keeps P W s10 := by
        dsimp -zeta only [s10]
        refine Keeps.upd (s := s8) ?_ rfl rfl
        exact h5
      clear_value s10
      refine Keeps.ite ?_ ?_
      · apply runFirmware_keeps
        exact h6
      · apply stopFirmware_keeps
        exact h6

theorem stopPatch_keeps {s : State} (x2 : BitVec 8) (h : Keeps P W s) : Keeps P W (stopPatch s x2) := by
  unfold stopPatch
  refine Keeps.upd (s := s) ?_ rfl rfl
  exact h

theorem loadContainer_keeps {s : State} (x2 : List Byte) (h : Keeps P W s) : Keeps P W (loadContainer s x2) := by
  unfold loadContainer
  extract_lets +onlyGivenNames s1
  extract_lets +onlyGivenNames s2
  refine Keeps.upd (s := s) ?_ rfl rfl
  exact h

theorem endContainer_keeps {s : State} (x2 : Option (List Byte)) (h : Keeps P W s) : Keeps P W (endContainer s x2) := by
  unfold endContainer
  refine Keeps.ite ?_ ?_
  · refine Keeps.ite ?_ ?_
    · refine Keeps.upd (s := s) ?_ rfl rfl
      exact h
    · apply stopPatch_keeps
      exact h
  · split
    · apply stopPatch_keeps
      refine Keeps2.snd ?_
      apply fresh_keeps
      exact h
    · refine Keeps.ite ?_ ?_
      · apply loadContainer_keeps
        exact h
      · apply stopPatch_keeps
        exact h

theorem endCalibration_keeps {s : State} (x2 : Vector SiteDelay 24) (x3 : AvsReport) (h : Keeps P W s) : Keeps P W (endCalibration s x2 x3) := by
  unfold endCalibration
  refine Keeps.ite ?_ ?_
  · exact h
  · extract_lets +onlyGivenNames s1
    have h1 : Keeps P W s1 := by
      dsimp -zeta only [s1]
      apply calibrateSundial_keeps
      exact h
    clear_value s1
    refine Keeps.upd (s := s1) ?_ rfl rfl
    exact h1

theorem raiseThermometer_keeps {s : State} (h : Keeps P W s) : Keeps P W (raiseThermometer s) := by
  unfold raiseThermometer
  refine Keeps.ite ?_ ?_
  · exact h
  · refine Keeps.upd (s := s) ?_ rfl rfl
    exact h

theorem becomeBooted_keeps {s : State} (h : Keeps P W s) : Keeps P W (becomeBooted s) := by
  unfold becomeBooted
  extract_lets +onlyGivenNames s1
  have h1 : Keeps P W s1 := by
    dsimp -zeta only [s1]
    apply startFountain_keeps
    exact h
  clear_value s1
  extract_lets +onlyGivenNames s2
  extract_lets +onlyGivenNames s3
  extract_lets +onlyGivenNames s4
  have h2 : Keeps P W s4 := by
    dsimp -zeta only [s4]
    refine Keeps.upd (s := s1) ?_ rfl rfl
    exact h1
  clear_value s4
  apply raiseThermometer_keeps
  apply logEvent_keeps
  exact h2

theorem endZeroising_keeps {s : State} (h : Keeps P W s) : Keeps P W (endZeroising s) := by
  unfold endZeroising
  refine Keeps.ite ?_ ?_
  · refine Keeps.upd (s := s) ?_ rfl rfl
    exact h
  · apply becomeBooted_keeps
    exact h

theorem endStep_keeps {s : State} (x2 : BootReport) (h : Keeps P W s) : Keeps P W (endStep s x2) := by
  unfold endStep
  refine Keeps.ite ?_ ?_
  · exact h
  · split
    · apply endDirectory_keeps
      exact h
    · apply endFirmware_keeps
      exact h
    · apply endContainer_keeps
      exact h
    · apply endCalibration_keeps
      exact h
    · apply endZeroising_keeps
      exact h
    · exact h

theorem execBootStepComplete_keeps (x1 : BootReport) {s : State} (h : Keeps P W s) : KeepsO P W (execBootStepComplete x1 s) := by
  unfold execBootStepComplete
  refine KeepsO.next ?_
  apply endStep_keeps
  exact h

theorem logLink_keeps {s : State} (x2 : W16) (x3 : W16) (x4 : List Byte) (h : Keeps P W s) : Keeps P W (logLink s x2 x3 x4) := by
  unfold logLink
  apply logEvent_keeps
  exact h

theorem resumeIfMaster_keeps {s : State} (x2 : Nat) (h : Keeps P W s) : Keeps P W (resumeIfMaster s x2) := by
  unfold resumeIfMaster
  refine Keeps.ite ?_ ?_
  · apply resumeFunc_keeps
    exact h
  · exact h

theorem bmeClear_keeps {s : State} (x2 : Nat) (h : Keeps P W s) : Keeps P W (bmeClear s x2) := by
  unfold bmeClear
  refine Keeps.ite ?_ ?_
  · apply logLink_keeps
    apply quiesceFunc_keeps
    apply setFunc_keeps
    exact h
  · exact h

theorem bmeSet_keeps {s : State} (x2 : Nat) (h : Keeps P W s) : Keeps P W (bmeSet s x2) := by
  unfold bmeSet
  extract_lets +onlyGivenNames s1
  extract_lets +onlyGivenNames s2
  have h1 : Keeps P W s2 := by
    dsimp -zeta only [s2]
    apply resumeIfMaster_keeps
    apply setFunc_keeps
    exact h
  clear_value s2
  refine Keeps.ite ?_ ?_
  · apply startDownload_keeps
    exact h1
  · exact h1

theorem enterD3_keeps {s : State} (x2 : Nat) (h : Keeps P W s) : Keeps P W (enterD3 s x2) := by
  unfold enterD3
  refine Keeps.ite ?_ ?_
  · exact h
  · apply logLink_keeps
    apply quiesceFunc_keeps
    apply setFunc_keeps
    exact h

theorem leaveD3_keeps {s : State} (x2 : Nat) (h : Keeps P W s) : Keeps P W (leaveD3 s x2) := by
  unfold leaveD3
  refine Keeps.ite ?_ ?_
  · apply resumeIfMaster_keeps
    apply setFunc_keeps
    exact h
  · exact h

theorem flrOf_keeps {s : State} (x2 : Nat) (h : Keeps P W s) : Keeps P W (flrOf s x2) := by
  unfold flrOf
  refine Keeps.ite ?_ ?_
  · exact h
  · apply logLink_keeps
    apply setFunc_keeps
    apply quiesceFunc_keeps
    exact h

theorem vfsOn_keeps {s : State} (x2 : Nat) (h : Keeps P W s) : Keeps P W (vfsOn s x2) := by
  unfold vfsOn
  refine Keeps.ite ?_ ?_
  · exact h
  · extract_lets +onlyGivenNames s1
    refine Keeps.upd (s := s) ?_ rfl rfl
    exact h

theorem unbind_keeps {s : State} (x2 : Nat) (h : Keeps P W s) : Keeps P W (unbind s x2) := by
  unfold unbind
  apply modAllot_keeps
  apply dropQueues_keeps
  apply quiesceAllotment_keeps
  exact h

theorem vfsOff_keeps {s : State} (x2 : Nat) (h : Keeps P W s) : Keeps P W (vfsOff s x2) := by
  unfold vfsOff
  refine Keeps.ite ?_ ?_
  · refine Keeps.upd (s := s) ?_ rfl rfl
    exact h
  · extract_lets +onlyGivenNames s1
    have h1 : Keeps P W s1 := by
      dsimp -zeta only [s1]
      refine Keeps.foldl ?_ ?_
      · intro a1 a2 a3
        apply unbind_keeps
        exact a3
      · exact h
    clear_value s1
    extract_lets +onlyGivenNames s2
    extract_lets +onlyGivenNames s3
    have h2 : Keeps P W s3 := by
      dsimp -zeta only [s3]
      refine Keeps.upd (s := s1) ?_ rfl rfl
      exact h1
    clear_value s3
    apply logLink_keeps
    exact h2

theorem dropRings_keeps {s : State} (h : Keeps P W s) : Keeps P W (dropRings s) := by
  unfold dropRings
  refine Keeps.upd (s := s) ?_ rfl rfl
  exact h

theorem linkDown_keeps {s : State} (x2 : Bool) (h : Keeps P W s) : Keeps P W (linkDown s x2) := by
  unfold linkDown
  refine Keeps.upd (s := s) ?_ rfl rfl
  exact h

theorem dropAdminQueues_keeps {s : State} (h : Keeps P W s) : Keeps P W (dropAdminQueues s) := by
  unfold dropAdminQueues
  apply modAllot_keeps
  apply dropQueues_keeps
  apply abortAtOnce_keeps
  exact h

theorem resetLink_keeps {s : State} (x2 : Bool) (h : Keeps P W s) : Keeps P W (resetLink s x2) := by
  unfold resetLink
  extract_lets +onlyGivenNames s1
  have h1 : Keeps P W s1 := by
    dsimp -zeta only [s1]
    refine Keeps.foldl ?_ ?_
    · intro a1 a2 a3
      apply linkResetAllotment_keeps
      exact a3
    · exact h
  clear_value s1
  extract_lets +onlyGivenNames s2
  have h2 : Keeps P W s2 := by
    dsimp -zeta only [s2]
    refine Keeps.foldl ?_ ?_
    · intro a1 a2 a3
      apply modAllot_keeps
      exact a3
    · exact h1
  clear_value s2
  extract_lets +onlyGivenNames s3
  have h3 : Keeps P W s3 := by
    dsimp -zeta only [s3]
    apply linkDown_keeps
    apply dropRings_keeps
    apply dropAdminQueues_keeps
    exact h2
  clear_value s3
  extract_lets +onlyGivenNames s4
  apply logLink_keeps
  exact h3

theorem execLinkReset_keeps (x1 : Bool) {s : State} (h : Keeps P W s) : KeepsO P W (execLinkReset x1 s) := by
  unfold execLinkReset
  refine KeepsO.next ?_
  refine Keeps.ite ?_ ?_
  · apply resetLink_keeps
    exact h
  · refine Keeps.upd (s := s) ?_ rfl rfl
    exact h

theorem execLinkResetEnd_keeps {s : State} (h : Keeps P W s) : KeepsO P W (execLinkResetEnd s) := by
  unfold execLinkResetEnd
  refine KeepsO.next ?_
  refine Keeps.upd (s := s) ?_ rfl rfl
  exact h

theorem execLinkTrainingEnd_keeps (x1 : BitVec 3) (x2 : BitVec 5) {s : State} (h : Keeps P W s) : KeepsO P W (execLinkTrainingEnd x1 x2 s) := by
  unfold execLinkTrainingEnd
  refine KeepsO.ite ?_ ?_
  · exact KeepsO.refused
  · refine KeepsO.next ?_
    refine Keeps.ite ?_ ?_
    · refine Keeps.upd (s := s) ?_ rfl rfl
      exact h
    · exact h

theorem writeBme_keeps {s : State} (x2 : Nat) (x3 : Bool) (h : Keeps P W s) : Keeps P W (writeBme s x2 x3) := by
  unfold writeBme
  refine Keeps.ite ?_ ?_
  · exact h
  · refine Keeps.ite ?_ ?_
    · apply bmeSet_keeps
      exact h
    · apply bmeClear_keeps
      exact h

theorem writePower_keeps {s : State} (x2 : Nat) (x3 : Nat) (h : Keeps P W s) : Keeps P W (writePower s x2 x3) := by
  unfold writePower
  refine Keeps.ite ?_ ?_
  · apply enterD3_keeps
    exact h
  · refine Keeps.ite ?_ ?_
    · apply leaveD3_keeps
      exact h
    · exact h

theorem writeVfEnable_keeps {s : State} (x2 : Bool) (h : Keeps P W s) : Keeps P W (writeVfEnable s x2) := by
  unfold writeVfEnable
  refine Keeps.ite ?_ ?_
  · exact h
  · refine Keeps.ite ?_ ?_
    · apply vfsOn_keeps
      exact h
    · apply vfsOff_keeps
      exact h

theorem writeVfMse_keeps {s : State} (x2 : Bool) (h : Keeps P W s) : Keeps P W (writeVfMse s x2) := by
  unfold writeVfMse
  refine Keeps.upd (s := s) ?_ rfl rfl
  exact h

theorem keepBits_keeps {s : State} (x2 : Nat) (x3 : Nat) (x4 : W32) (h : Keeps P W s) : Keeps P W (keepBits s x2 x3 x4) := by
  unfold keepBits
  extract_lets +onlyGivenNames s1
  refine Keeps.ite ?_ ?_
  · exact h
  · apply setFunc_keeps
    exact h

theorem writeSriov_keeps {s : State} (x2 : Nat) (x3 : Nat) (h : Keeps P W s) : Keeps P W (writeSriov s x2 x3) := by
  unfold writeSriov
  split
  · extract_lets +onlyGivenNames s2
    have h2 : Keeps P W s2 := by
      dsimp -zeta only [s2]
      apply writeVfEnable_keeps
      exact h
    clear_value s2
    extract_lets +onlyGivenNames s3
    have h3 : Keeps P W s3 := by
      dsimp -zeta only [s3]
      apply writeVfMse_keeps
      exact h2
    clear_value s3
    refine Keeps.upd (s := s3) ?_ rfl rfl
    exact h3
  · refine Keeps.ite ?_ ?_
    · exact h
    · apply vfsOff_keeps
      exact h
  · refine Keeps.ite ?_ ?_
    · exact h
    · refine Keeps.upd (s := s) ?_ rfl rfl
      exact h
  · exact h

theorem configWrite_keeps {s : State} (x2 : Nat) (x3 : Nat) (x4 : W32) (h : Keeps P W s) : Keeps P W (configWrite s x2 x3 x4) := by
  unfold configWrite
  extract_lets +onlyGivenNames s1
  have h1 : Keeps P W s1 := by
    dsimp -zeta only [s1]
    apply keepBits_keeps
    exact h
  clear_value s1
  extract_lets +onlyGivenNames s2
  extract_lets +onlyGivenNames s3
  split
  · extract_lets +onlyGivenNames s5
    have h5 : Keeps P W s5 := by
      dsimp -zeta only [s5]
      refine Keeps.ite ?_ ?_
      · apply setFunc_keeps
        exact h1
      · exact h1
    clear_value s5
    apply writeBme_keeps
    exact h5
  · apply writePower_keeps
    exact h1
  · apply setFunc_keeps
    exact h1
  · extract_lets +onlyGivenNames s5
    have h5 : Keeps P W s5 := by
      dsimp -zeta only [s5]
      apply setFunc_keeps
      exact h1
    clear_value s5
    refine Keeps.ite ?_ ?_
    · apply flrOf_keeps
      exact h5
    · exact h5
  · apply setFunc_keeps
    exact h1
  · apply setFunc_keeps
    exact h1
  · apply setFunc_keeps
    exact h1
  · refine Keeps.ite ?_ ?_
    · apply writeSriov_keeps
      exact h1
    · exact h1

theorem execConfigRequest_keeps (x1 : Fin 64) (x2 : BitVec 12) (x3 : BitVec 4) (x4 : Option W32) {s : State} (h : Keeps P W s) : KeepsO P W (execConfigRequest x1 x2 x3 x4 s) := by
  unfold execConfigRequest
  extract_lets +onlyGivenNames s1
  extract_lets +onlyGivenNames s2
  refine KeepsO.next ?_
  refine Keeps.ite ?_ ?_
  · exact h
  · split
    · apply reply_keeps
      exact h
    · apply configWrite_keeps
      exact h

theorem execFlr_keeps (x1 : Fin 64) {s : State} (h : Keeps P W s) : KeepsO P W (execFlr x1 s) := by
  unfold execFlr
  refine KeepsO.next ?_
  refine Keeps.ite ?_ ?_
  · apply flrOf_keeps
    exact h
  · exact h

theorem execBmeCleared_keeps (x1 : Fin 64) {s : State} (h : Keeps P W s) : KeepsO P W (execBmeCleared x1 s) := by
  unfold execBmeCleared
  refine KeepsO.next ?_
  refine Keeps.ite ?_ ?_
  · apply bmeClear_keeps
    exact h
  · exact h

theorem execBmeSet_keeps (x1 : Fin 64) {s : State} (h : Keeps P W s) : KeepsO P W (execBmeSet x1 s) := by
  unfold execBmeSet
  refine KeepsO.next ?_
  refine Keeps.ite ?_ ?_
  · apply bmeSet_keeps
    exact h
  · exact h

theorem execD3hotEntry_keeps (x1 : Fin 64) {s : State} (h : Keeps P W s) : KeepsO P W (execD3hotEntry x1 s) := by
  unfold execD3hotEntry
  refine KeepsO.next ?_
  refine Keeps.ite ?_ ?_
  · apply enterD3_keeps
    exact h
  · exact h

theorem execD0Return_keeps (x1 : Fin 64) {s : State} (h : Keeps P W s) : KeepsO P W (execD0Return x1 s) := by
  unfold execD0Return
  refine KeepsO.next ?_
  refine Keeps.ite ?_ ?_
  · apply leaveD3_keeps
    exact h
  · exact h

theorem execVfEnable_keeps (x1 : Fin 64) {s : State} (h : Keeps P W s) : KeepsO P W (execVfEnable x1 s) := by
  unfold execVfEnable
  refine KeepsO.next ?_
  apply vfsOn_keeps
  exact h

theorem execVfDisable_keeps (x1 : Fin 64) {s : State} (h : Keeps P W s) : KeepsO P W (execVfDisable x1 s) := by
  unfold execVfDisable
  refine KeepsO.next ?_
  apply vfsOff_keeps
  exact h

theorem clearPba_keeps {s : State} (x2 : Nat) (x3 : Nat) (h : Keeps P W s) : Keeps P W (clearPba s x2 x3) := by
  unfold clearPba
  apply setFunc_keeps
  exact h

theorem execMsixUnmask_keeps (x1 : Fin 64) (x2 : VectorEntry) {s : State} (h : Keeps P W s) : KeepsO P W (execMsixUnmask x1 x2 s) := by
  unfold execMsixUnmask
  extract_lets +onlyGivenNames s1
  extract_lets +onlyGivenNames s2
  extract_lets +onlyGivenNames s3
  refine KeepsO.next ?_
  refine Keeps.ite ?_ ?_
  · apply setFunc_keeps
    exact h
  · exact h

theorem sendHeld_keeps {s : State} (h : Keeps P W s) : Keeps P W (sendHeld s) := by
  unfold sendHeld
  refine Keeps.foldl ?_ ?_
  · intro a1 a2 a3
    refine Keeps.foldl ?_ ?_
    · intro a4 a5 a6
      apply send_keeps
      apply setFunc_keeps
      exact a6
    · exact a3
  · exact h

theorem execAerError_keeps (x1 : AerError) (x2 : Fin 64) (x3 : BitVec 128) {s : State} (h : Keeps P W s) : KeepsO P W (execAerError x1 x2 x3 s) := by
  unfold execAerError
  extract_lets +onlyGivenNames s1
  extract_lets +onlyGivenNames s2
  have h2 : Keeps P W s2 := by
    dsimp -zeta only [s2]
    apply reportAer_keeps
    exact h
  clear_value s2
  refine KeepsO.next ?_
  refine Keeps.ite ?_ ?_
  · refine Keeps.upd (s := s2) ?_ rfl rfl
    exact h2
  · exact h2

theorem readStatus_keeps {s : State} (x2 : Option ReadFailure) (h : Keeps P W s) : Keeps2 P W (readStatus s x2) := by
  unfold readStatus
  split
  · refine Keeps2.mk ?_
    exact h
  · refine Keeps2.mk ?_
    exact h
  · refine Keeps2.mk ?_
    refine Keeps2.snd ?_
    apply fresh_keeps
    exact h

theorem descriptorFailed_keeps {s : State} (x2 : Nat) (x3 : Nat) (x4 : Option ReadFailure) (x5 : W64) (h : Keeps P W s) : Keeps P W (descriptorFailed s x2 x3 x4 x5) := by
  unfold descriptorFailed
  split
  · extract_lets +onlyGivenNames s2
    have h2 : Keeps2 P W s2 := by
      dsimp -zeta only [s2]
      apply readStatus_keeps
      exact h
    clear_value s2
    extract_lets +onlyGivenNames s3
    have h3 : Keeps P W s3 := by
      dsimp -zeta only [s3]
      apply logLink_keeps
      apply Keeps2.snd
      exact h2
    clear_value s3
    apply modQueue_keeps
    exact h3
  · exact h

theorem dataFailed_keeps {s : State} (x2 : Nat) (x3 : Option ReadFailure) (x4 : W64) (h : Keeps P W s) : Keeps P W (dataFailed s x2 x3 x4) := by
  unfold dataFailed
  extract_lets +onlyGivenNames s1
  have h1 : Keeps2 P W s1 := by
    dsimp -zeta only [s1]
    apply readStatus_keeps
    exact h
  clear_value s1
  apply rejectJob_keeps
  apply logLink_keeps
  apply Keeps2.snd
  exact h1

theorem readFailed_keeps {s : State} (x2 : HostRead) (x3 : Option ReadFailure) (x4 : W64) (h : Keeps P W s) : Keeps P W (readFailed s x2 x3 x4) := by
  unfold readFailed
  split
  split
  · exact h
  · extract_lets +onlyGivenNames s3
    have h3 : Keeps P W s3 := by
      dsimp -zeta only [s3]
      apply endRead_keeps
      exact h
    clear_value s3
    refine Keeps.ite ?_ ?_
    · apply settle_keeps
      exact h3
    · split
      · apply issueReads_keeps
        apply descriptorFailed_keeps
        exact h3
      · apply issueReads_keeps
        apply dataFailed_keeps
        exact h3

theorem execHostReadError_keeps (x1 : HostRead) (x2 : ReadFailure) (x3 : W64) {s : State} (h : Keeps P W s) : KeepsO P W (execHostReadError x1 x2 x3 s) := by
  unfold execHostReadError
  refine KeepsO.next ?_
  apply readFailed_keeps
  exact h

theorem execReadCompletionTimeout_keeps (x1 : HostRead) (x2 : W64) {s : State} (h : Keeps P W s) : KeepsO P W (execReadCompletionTimeout x1 x2 s) := by
  unfold execReadCompletionTimeout
  refine KeepsO.next ?_
  apply readFailed_keeps
  exact h

theorem execLateCompletion_keeps (x1 : BitVec 12) {s : State} (h : Keeps P W s) : KeepsO P W (execLateCompletion x1 s) := by
  unfold execLateCompletion
  extract_lets +onlyGivenNames s1
  refine KeepsO.next ?_
  split
  · exact h
  · apply issueReads_keeps
    apply settle_keeps
    apply endRead_keeps
    exact h

theorem execPostedCreditStall_keeps {s : State} (h : Keeps P W s) : KeepsO P W (execPostedCreditStall s) := by
  unfold execPostedCreditStall
  refine KeepsO.next ?_
  refine Keeps.ite ?_ ?_
  · extract_lets +onlyGivenNames s3
    extract_lets +onlyGivenNames s4
    have h4 : Keeps P W s4 := by
      dsimp -zeta only [s4]
      refine Keeps.upd (s := s) ?_ rfl rfl
      exact h
    clear_value s4
    apply logLink_keeps
    apply reportAer_keeps
    exact h4
  · exact h

theorem execPostedCreditReturn_keeps {s : State} (h : Keeps P W s) : KeepsO P W (execPostedCreditReturn s) := by
  unfold execPostedCreditReturn
  refine KeepsO.next ?_
  refine Keeps.upd (s := s) ?_ rfl rfl
  exact h

theorem ring_keeps {s : State} (x2 : Nat × Nat) (h : Keeps P W s) : Keeps P W (ring s x2) := by
  unfold ring
  apply modQueue_keeps
  exact h

theorem execDoorbell_keeps (x1 : Fin 64) (x2 : List (BitVec 24)) {s : State} (h : Keeps P W s) : KeepsO P W (execDoorbell x1 x2 s) := by
  unfold execDoorbell
  extract_lets +onlyGivenNames s1
  refine KeepsO.next ?_
  refine Keeps.ite ?_ ?_
  · refine Keeps.foldl ?_ ?_
    · intro a1 a2 a3
      apply ring_keeps
      exact a3
    · exact h
  · exact h

theorem beginRead_keeps {s : State} (x2 : Nat) (x3 : Nat) (h : Keeps P W s) : Keeps P W (beginRead s x2 x3) := by
  unfold beginRead
  split
  · extract_lets +onlyGivenNames s1
    apply modQueue_keeps
    exact h
  · exact h

theorem execScanRestart_keeps (x1 : BitVec 12) (x2 : BitVec 3) {s : State} (h : Keeps P W s) : KeepsO P W (execScanRestart x1 x2 s) := by
  unfold execScanRestart
  extract_lets +onlyGivenNames s1
  extract_lets +onlyGivenNames s2
  refine KeepsO.next ?_
  split
  · refine Keeps.ite ?_ ?_
    · extract_lets +onlyGivenNames s3
      have h1 : Keeps P W s3 := by
        dsimp -zeta only [s3]
        apply modQueue_keeps
        exact h
      clear_value s3
      refine Keeps.ite ?_ ?_
      · apply beginRead_keeps
        exact h1
      · exact h1
    · exact h
  · exact h

theorem execLimitResume_keeps (x1 : BitVec 12) (x2 : BitVec 3) {s : State} (h : Keeps P W s) : KeepsO P W (execLimitResume x1 x2 s) := by
  unfold execLimitResume
  extract_lets +onlyGivenNames s1
  extract_lets +onlyGivenNames s2
  extract_lets +onlyGivenNames s3
  refine KeepsO.next ?_
  refine Keeps.ite ?_ ?_
  · apply beginRead_keeps
    apply modAllot_keeps
    exact h
  · exact h

theorem execDescriptorReadIssue_keeps (x1 : BitVec 12) (x2 : BitVec 3) {s : State} (h : Keeps P W s) : KeepsO P W (execDescriptorReadIssue x1 x2 s) := by
  unfold execDescriptorReadIssue
  extract_lets +onlyGivenNames s1
  extract_lets +onlyGivenNames s2
  refine KeepsO.next ?_
  split
  · refine Keeps.ite ?_ ?_
    · refine Keeps.ite ?_ ?_
      · apply beginRead_keeps
        exact h
      · extract_lets +onlyGivenNames s7
        extract_lets +onlyGivenNames s8
        have h8 : Keeps P W s8 := by
          dsimp -zeta only [s8]
          apply modQueue_keeps
          exact h
        clear_value s8
        extract_lets +onlyGivenNames s9
        have h9 : Keeps P W s9 := by
          dsimp -zeta only [s9]
          apply modAllot_keeps
          exact h8
        clear_value s9
        extract_lets +onlyGivenNames s10
        extract_lets +onlyGivenNames s11
        extract_lets +onlyGivenNames s12
        have h12 : Keeps P W s12 := by
          dsimp -zeta only [s12]
          refine Keeps.upd (s := s9) ?_ rfl rfl
          exact h9
        clear_value s12
        apply issueRead_keeps
        exact h12
    · exact h
  · exact h

theorem notOwned_keeps {s : State} (x2 : Nat) (x3 : Nat) (x4 : Queue) (h : Keeps P W s) : Keeps P W (notOwned s x2 x3 x4) := by
  unfold notOwned
  refine Keeps.ite ?_ ?_
  · apply beginRead_keeps
    apply modQueue_keeps
    exact h
  · apply modQueue_keeps
    exact h

theorem owned_keeps {s : State} (x2 : Nat) (x3 : Nat) (x4 : Queue) (x5 : Entry) (h : Keeps P W s) : Keeps P W (owned s x2 x3 x4 x5) := by
  unfold owned
  extract_lets +onlyGivenNames s1
  have h1 : Keeps P W s1 := by
    dsimp -zeta only [s1]
    apply acceptEntry_keeps
    exact h
  clear_value s1
  apply beginRead_keeps
  apply modQueue_keeps
  exact h1

theorem execEntryArrival_keeps (x1 : BitVec 12) (x2 : BitVec 3) (x3 : Vector Byte 64) {s : State} (h : Keeps P W s) : KeepsO P W (execEntryArrival x1 x2 x3 s) := by
  unfold execEntryArrival
  extract_lets +onlyGivenNames s1
  extract_lets +onlyGivenNames s2
  refine KeepsO.next ?_
  split
  · refine Keeps.ite ?_ ?_
    · extract_lets +onlyGivenNames s6
      have h6 : Keeps P W s6 := by
        dsimp -zeta only [s6]
        apply modQueue_keeps
        exact h
      clear_value s6
      extract_lets +onlyGivenNames s7
      have h7 : Keeps P W s7 := by
        dsimp -zeta only [s7]
        apply endRead_keeps
        exact h6
      clear_value s7
      extract_lets +onlyGivenNames s8
      apply issueReads_keeps
      refine Keeps.ite ?_ ?_
      · apply owned_keeps
        exact h7
      · apply notOwned_keeps
        exact h7
    · exact h
  · exact h

theorem spendNotices_keeps {s : State} (x2 : Nat) (x3 : Nat) (h : Keeps P W s) : Keeps P W (spendNotices s x2 x3) := by
  unfold spendNotices
  refine Keeps.upd (s := s) ?_ rfl rfl
  exact h

theorem moderate_keeps {s : State} (x2 : Nat) (x3 : Nat) (h : Keeps P W s) : Keeps P W (moderate s x2 x3) := by
  unfold moderate
  split
  · split
    · refine Keeps.ite ?_ ?_
      · apply sendVector_keeps
        apply spendNotices_keeps
        exact h
      · exact h
    · exact h
  · exact h

theorem moderateAll_keeps {s : State} (h : Keeps P W s) : Keeps P W (moderateAll s) := by
  unfold moderateAll
  refine Keeps.foldl (fun s1 x1 h1 => ?_) ?_
  · apply moderate_keeps
    exact h1
  · exact h

theorem execMsixModeration_keeps (x1 : BitVec 12) (x2 : BitVec 3) {s : State} (h : Keeps P W s) : KeepsO P W (execMsixModeration x1 x2 s) := by
  unfold execMsixModeration
  refine KeepsO.next ?_
  apply moderate_keeps
  exact h

theorem execBar0AccessSize_keeps (x1 : Fin 64) (x2 : W16) (x3 : BitVec 8) (x4 : Bool) {s : State} (h : Keeps P W s) : KeepsO P W (execBar0AccessSize x1 x2 x3 x4 s) := by
  unfold execBar0AccessSize
  extract_lets +onlyGivenNames s1
  refine KeepsO.next ?_
  refine Keeps.ite ?_ ?_
  · exact h
  · refine Keeps.ite ?_ ?_
    · refine Keeps.ite ?_ ?_
      · exact h
      · apply answerUnsupported_keeps
        exact h
    · split
      · refine Keeps.ite ?_ ?_
        · exact h
        · apply reply_keeps
          exact h
      · extract_lets +onlyGivenNames s6
        have h6 : Keeps P W s6 := by
          dsimp -zeta only [s6]
          apply logLink_keeps
          exact h
        clear_value s6
        refine Keeps.ite ?_ ?_
        · exact h6
        · apply reply_keeps
          exact h6

theorem eventEnable_keeps {s : State} (h : Keeps P W s) : Keeps P W (eventEnable s) := by
  unfold eventEnable
  extract_lets +onlyGivenNames s1
  refine Keeps.ite ?_ ?_
  · exact h
  · extract_lets +onlyGivenNames s2
    refine Keeps.ite ?_ ?_
    · refine Keeps.upd (s := s) ?_ rfl rfl
      exact h
    · refine Keeps.upd (s := s) ?_ rfl rfl
      exact h

theorem noticeClear_keeps {s : State} (h : Keeps P W s) : Keeps P W (noticeClear s) := by
  unfold noticeClear
  refine Keeps.ite ?_ ?_
  · extract_lets +onlyGivenNames s1
    extract_lets +onlyGivenNames s2
    extract_lets +onlyGivenNames s3
    extract_lets +onlyGivenNames s4
    have h1 : Keeps P W s4 := by
      dsimp -zeta only [s4]
      refine Keeps.upd (s := s) ?_ rfl rfl
      exact h
    clear_value s4
    apply setFunc_keeps
    exact h1
  · exact h

theorem noticeSet_keeps {s : State} (h : Keeps P W s) : Keeps P W (noticeSet s) := by
  unfold noticeSet
  refine Keeps.ite ?_ ?_
  · exact h
  · refine Keeps.upd (s := s) ?_ rfl rfl
    exact h

theorem eventCtrl_keeps {s : State} (x2 : W32) (h : Keeps P W s) : Keeps P W (eventCtrl s x2) := by
  unfold eventCtrl
  extract_lets +onlyGivenNames s1
  have h1 : Keeps P W s1 := by
    dsimp -zeta only [s1]
    refine Keeps.ite ?_ ?_
    · exact h
    · apply noticeClear_keeps
      exact h
  clear_value s1
  extract_lets +onlyGivenNames s2
  extract_lets +onlyGivenNames s3
  have h2 : Keeps P W s3 := by
    dsimp -zeta only [s3]
    refine Keeps.upd (s := s1) ?_ rfl rfl
    exact h1
  clear_value s3
  extract_lets +onlyGivenNames s4
  have h3 : Keeps P W s4 := by
    dsimp -zeta only [s4]
    refine Keeps.ite ?_ ?_
    · apply noticeSet_keeps
      exact h2
    · exact h2
  clear_value s4
  refine Keeps.ite ?_ ?_
  · apply eventEnable_keeps
    exact h3
  · refine Keeps.upd (s := s4) ?_ rfl rfl
    exact h3

theorem execEvtEnable_keeps (x1 : W32) {s : State} (h : Keeps P W s) : KeepsO P W (execEvtEnable x1 s) := by
  unfold execEvtEnable
  refine KeepsO.next ?_
  refine Keeps.ite ?_ ?_
  · apply eventCtrl_keeps
    exact h
  · exact h

theorem execEvtNoticeClear_keeps {s : State} (h : Keeps P W s) : KeepsO P W (execEvtNoticeClear s) := by
  unfold execEvtNoticeClear
  refine KeepsO.next ?_
  refine Keeps.ite ?_ ?_
  · apply noticeClear_keeps
    exact h
  · exact h

theorem execEvtNoticeSet_keeps {s : State} (h : Keeps P W s) : KeepsO P W (execEvtNoticeSet s) := by
  unfold execEvtNoticeSet
  refine KeepsO.next ?_
  refine Keeps.ite ?_ ?_
  · apply noticeSet_keeps
    exact h
  · exact h

theorem execFfcValidClear_keeps {s : State} (h : Keeps P W s) : KeepsO P W (execFfcValidClear s) := by
  unfold execFfcValidClear
  refine KeepsO.next ?_
  refine Keeps.ite ?_ ?_
  · refine Keeps.upd (s := s) ?_ rfl rfl
    exact h
  · exact h

theorem execEventRecordWrite_keeps {s : State} (h : Keeps P W s) : KeepsO P W (execEventRecordWrite s) := by
  unfold execEventRecordWrite
  refine KeepsO.next ?_
  split
  · refine Keeps.ite ?_ ?_
    · extract_lets +onlyGivenNames s1
      extract_lets +onlyGivenNames s2
      extract_lets +onlyGivenNames s3
      extract_lets +onlyGivenNames s4
      extract_lets +onlyGivenNames s5
      have h1 : Keeps P W s5 := by
        dsimp -zeta only [s5]
        apply send_keeps
        apply send_keeps
        exact h
      clear_value s5
      extract_lets +onlyGivenNames s6
      have h2 : Keeps P W s6 := by
        dsimp -zeta only [s6]
        refine Keeps.upd (s := s5) ?_ rfl rfl
        exact h1
      clear_value s6
      refine Keeps.ite ?_ ?_
      · refine Keeps.upd (s := s6) ?_ rfl rfl
        exact h2
      · exact h2
    · exact h
  · exact h

theorem eventNotice_keeps {s : State} (h : Keeps P W s) : Keeps P W (eventNotice s) := by
  unfold eventNotice
  extract_lets +onlyGivenNames s1
  extract_lets +onlyGivenNames s2
  refine Keeps.ite ?_ ?_
  · apply sendVector_keeps
    refine Keeps.upd (s := s) ?_ rfl rfl
    exact h
  · exact h

theorem admStart_keeps {s : State} (x2 : W64) (h : Keeps P W s) : Keeps P W (admStart s x2) := by
  unfold admStart
  extract_lets +onlyGivenNames s1
  extract_lets +onlyGivenNames s2
  extract_lets +onlyGivenNames s3
  extract_lets +onlyGivenNames s4
  have h1 : Keeps P W s4 := by
    dsimp -zeta only [s4]
    apply modAllot_keeps
    refine Keeps.upd (s := s) ?_ rfl rfl
    exact h
  clear_value s4
  refine Keeps.upd (s := s4) ?_ rfl rfl
  exact h1

theorem admEnable_keeps {s : State} (x2 : W64) (h : Keeps P W s) : Keeps P W (admEnable s x2) := by
  unfold admEnable
  refine Keeps.ite ?_ ?_
  · exact h
  · split
    · refine Keeps.upd (s := s) ?_ rfl rfl
      exact h
    · apply admStart_keeps
      exact h

theorem admDrain_keeps {s : State} (h : Keeps P W s) : Keeps P W (admDrain s) := by
  unfold admDrain
  refine Keeps.ite ?_ ?_
  · extract_lets +onlyGivenNames s1
    extract_lets +onlyGivenNames s2
    have h1 : Keeps P W s2 := by
      dsimp -zeta only [s2]
      apply modQueue_keeps
      refine Keeps.upd (s := s) ?_ rfl rfl
      exact h
    clear_value s2
    extract_lets +onlyGivenNames s3
    apply dropDescriptorRead_keeps
    apply abortJobs_keeps
    exact h1
  · exact h

theorem admCtrlWrite_keeps {s : State} (x2 : W64) (h : Keeps P W s) : Keeps P W (admCtrlWrite s x2) := by
  unfold admCtrlWrite
  refine Keeps.ite ?_ ?_
  · refine Keeps.ite ?_ ?_
    · exact h
    · apply admDrain_keeps
      exact h
  · refine Keeps.ite ?_ ?_
    · apply admEnable_keeps
      exact h
    · refine Keeps.upd (s := s) ?_ rfl rfl
      exact h

theorem execAdmRingEnable_keeps (x1 : W64) {s : State} (h : Keeps P W s) : KeepsO P W (execAdmRingEnable x1 s) := by
  unfold execAdmRingEnable
  refine KeepsO.next ?_
  refine Keeps.ite ?_ ?_
  · apply admEnable_keeps
    exact h
  · exact h

theorem execAdmRingDisable_keeps {s : State} (h : Keeps P W s) : KeepsO P W (execAdmRingDisable s) := by
  unfold execAdmRingDisable
  refine KeepsO.next ?_
  refine Keeps.ite ?_ ?_
  · apply admDrain_keeps
    exact h
  · exact h

theorem execAdmDrainEnd_keeps {s : State} (h : Keeps P W s) : KeepsO P W (execAdmDrainEnd s) := by
  unfold execAdmDrainEnd
  refine KeepsO.next ?_
  refine Keeps.ite ?_ ?_
  · refine Keeps.upd (s := s) ?_ rfl rfl
    exact h
  · exact h

theorem selWrite_keeps {s : State} (x2 : W32) (h : Keeps P W s) : Keeps P W (selWrite s x2) := by
  unfold selWrite
  refine Keeps.upd (s := s) ?_ rfl rfl
  exact h

theorem execBstSelWrite_keeps (x1 : W32) {s : State} (h : Keeps P W s) : KeepsO P W (execBstSelWrite x1 s) := by
  unfold execBstSelWrite
  refine KeepsO.next ?_
  refine Keeps.ite ?_ ?_
  · apply selWrite_keeps
    exact h
  · exact h

theorem execDbgHalt_keeps (x1 : W32) {s : State} (h : Keeps P W s) : KeepsO P W (execDbgHalt x1 s) := by
  unfold execDbgHalt
  refine KeepsO.next ?_
  refine Keeps.ite ?_ ?_
  · exact h
  · refine Keeps.ite ?_ ?_
    · refine Keeps.upd (s := s) ?_ rfl rfl
      exact h
    · refine Keeps.upd (s := s) ?_ rfl rfl
      exact h

theorem writeWide_keeps {s : State} (x2 : Nat) (x3 : W64) (h : Keeps P W s) : Keeps P W (writeWide s x2 x3) := by
  unfold writeWide
  extract_lets +onlyGivenNames s1
  split
  · refine Keeps.ite ?_ ?_
    · refine Keeps.upd (s := s) ?_ rfl rfl
      exact h
    · exact h
  · apply admCtrlWrite_keeps
    exact h
  · refine Keeps.ite ?_ ?_
    · refine Keeps.upd (s := s) ?_ rfl rfl
      exact h
    · exact h
  · refine Keeps.ite ?_ ?_
    · refine Keeps.upd (s := s) ?_ rfl rfl
      exact h
    · exact h
  · refine Keeps.ite ?_ ?_
    · exact h
    · refine Keeps.upd (s := s) ?_ rfl rfl
      exact h
  · refine Keeps.upd (s := s) ?_ rfl rfl
    exact h
  · refine Keeps.ite ?_ ?_
    · exact h
    · refine Keeps.upd (s := s) ?_ rfl rfl
      exact h
  · refine Keeps.upd (s := s) ?_ rfl rfl
    exact h
  · refine Keeps.upd (s := s) ?_ rfl rfl
    exact h
  · exact h

theorem jxCtrlWrite_keeps {s : State} (x2 : W32) (h : Keeps P W s) : Keeps P W (jxCtrlWrite s x2) := by
  unfold jxCtrlWrite
  extract_lets +onlyGivenNames s1
  extract_lets +onlyGivenNames s2
  have h1 : Keeps P W s2 := by
    dsimp -zeta only [s2]
    refine Keeps.ite ?_ ?_
    · apply jxEnable_keeps
      exact h
    · refine Keeps.upd (s := s) ?_ rfl rfl
      exact h
  clear_value s2
  refine Keeps.ite ?_ ?_
  · apply startReplay_keeps
    exact h1
  · exact h1

theorem writeWord_keeps {s : State} (x2 : Nat) (x3 : W32) (h : Keeps P W s) : Keeps P W (writeWord s x2 x3) := by
  unfold writeWord
  split
  · apply selWrite_keeps
    exact h
  · refine Keeps.ite ?_ ?_
    · exact h
    · refine Keeps.upd (s := s) ?_ rfl rfl
      exact h
  · apply eventCtrl_keeps
    exact h
  · refine Keeps.upd (s := s) ?_ rfl rfl
    exact h
  · refine Keeps.upd (s := s) ?_ rfl rfl
    exact h
  · refine Keeps.ite ?_ ?_
    · refine Keeps.upd (s := s) ?_ rfl rfl
      exact h
    · exact h
  · refine Keeps.upd (s := s) ?_ rfl rfl
    exact h
  · refine Keeps.upd (s := s) ?_ rfl rfl
    exact h
  · apply limitWrite_keeps
    exact h
  · apply limitWrite_keeps
    exact h
  · apply patternWrite_keeps
    exact h
  · refine Keeps.ite ?_ ?_
    · refine Keeps.upd (s := s) ?_ rfl rfl
      exact h
    · exact h
  · apply alertWrite_keeps
    exact h
  · refine Keeps.ite ?_ ?_
    · exact h
    · refine Keeps.upd (s := s) ?_ rfl rfl
      exact h
  · apply jxCtrlWrite_keeps
    exact h
  · refine Keeps.upd (s := s) ?_ rfl rfl
    exact h
  · apply threshWrite_keeps
    exact h
  · refine Keeps.upd (s := s) ?_ rfl rfl
    exact h
  · refine Keeps.ite ?_ ?_
    · apply bootGo_keeps
      exact h
    · exact h
  · apply globalWrite_keeps
    exact h
  · exact h

theorem writeHalf_keeps {s : State} (x2 : Nat) (x3 : W32) (h : Keeps P W s) : Keeps P W (writeHalf s x2 x3) := by
  unfold writeHalf
  extract_lets +onlyGivenNames s1
  refine Keeps.ite ?_ ?_
  · extract_lets +onlyGivenNames s2
    apply writeWide_keeps
    exact h
  · apply writeWord_keeps
    exact h

theorem writeOpen_keeps {s : State} (x2 : Nat) (x3 : W32) (h : Keeps P W s) : Keeps P W (writeOpen s x2 x3) := by
  unfold writeOpen
  refine Keeps.ite ?_ ?_
  · apply writeHalf_keeps
    exact h
  · exact h

theorem execRegisterWrite_keeps (x1 : W16) (x2 : Bool) (x3 : W64) {s : State} (h : Keeps P W s) : KeepsO P W (execRegisterWrite x1 x2 x3 s) := by
  unfold execRegisterWrite
  extract_lets +onlyGivenNames s1
  refine KeepsO.next ?_
  refine Keeps.ite ?_ ?_
  · refine Keeps.ite ?_ ?_
    · exact h
    · refine Keeps.ite ?_ ?_
      · refine Keeps.ite ?_ ?_
        · apply writeWide_keeps
          exact h
        · exact h
      · apply writeOpen_keeps
        apply writeOpen_keeps
        exact h
  · refine Keeps.ite ?_ ?_
    · exact h
    · apply writeOpen_keeps
      exact h

/-- Programming through JTAG sets bits. -/
theorem programItem_keeps {s : State} (i : OtpItem) (h : Keeps P W s) : Keeps P W (programItem s i) := by
  cases i with
  | lifeCycle w bits =>
    refine Keeps.ite (h.bits rfl fun v b hv hb => ?_) h
    show (List.getD (s.otp.lcWords.modify w.val fun v => v ||| bits) v 0).getLsbD b = true
    rw [List.getD_eq_getElem?_getD] at hb ⊢
    rw [List.getElem?_modify]
    cases hg : s.otp.lcWords[v]? with
    | none => rw [hg] at hb; simp at hb
    | some x =>
      rw [hg] at hb
      simp only [Option.getD_some] at hb
      by_cases e : w.val = v <;> simp [e, hb]
  | subsystem v => exact h.upd rfl rfl
  | deviceId v | patchKey v | codeHash v | debugHash v | anchorHash v | fuseTamper v | fuseVariant v =>
    exact Keeps.ite (h.upd rfl rfl) h

theorem execJtagOtpProgram_keeps (x1 : OtpItem) {s : State} (h : Keeps P W s) : KeepsO P W (execJtagOtpProgram x1 s) := by
  unfold execJtagOtpProgram
  refine KeepsO.next ?_
  refine Keeps.ite ?_ ?_
  · apply programItem_keeps
    exact h
  · exact h

theorem execJtagDumpReadout_keeps {s : State} (h : Keeps P W s) : KeepsO P W (execJtagDumpReadout s) := by
  unfold execJtagDumpReadout
  refine KeepsO.next ?_
  refine Keeps.ite ?_ ?_
  · split
    · refine Keeps.upd (s := s) ?_ rfl rfl
      exact h
    · exact h
  · exact h

theorem execSmbusReadWord_keeps (x1 : BitVec 8) {s : State} (h : Keeps P W s) : KeepsO P W (execSmbusReadWord x1 s) := by
  unfold execSmbusReadWord
  refine KeepsO.next ?_
  split
  · refine Keeps.ite ?_ ?_
    · refine Keeps.upd (s := s) ?_ rfl rfl
      exact h
    · exact h
  · exact h

theorem execSmbusAlertResponse_keeps {s : State} (h : Keeps P W s) : KeepsO P W (execSmbusAlertResponse s) := by
  unfold execSmbusAlertResponse
  refine KeepsO.next ?_
  refine Keeps.ite ?_ ?_
  · refine Keeps.upd (s := s) ?_ rfl rfl
    exact h
  · exact h

theorem resetJob_keeps {s : State} (x2 : Nat) (h : Keeps P W s) : Keeps P W (resetJob s x2) := by
  unfold resetJob
  split
  · refine Keeps.ite ?_ ?_
    · exact h
    · apply modJob_keeps
      apply endJob_keeps
      exact h
  · exact h

theorem zeroUnit_keeps {s : State} (x2 : Nat) (h : Keeps P W s) : Keeps P W (zeroUnit s x2) := by
  unfold zeroUnit
  extract_lets +onlyGivenNames s1
  have h1 : Keeps P W s1 := by
    dsimp -zeta only [s1]
    refine Keeps.foldl ?_ ?_
    · intro a1 a2 a3
      apply resetJob_keeps
      exact a3
    · exact h
  clear_value s1
  extract_lets +onlyGivenNames s2
  extract_lets +onlyGivenNames s3
  extract_lets +onlyGivenNames s4
  have h2 : Keeps P W s4 := by
    dsimp -zeta only [s4]
    apply setUnit_keeps
    exact h1
  clear_value s4
  extract_lets +onlyGivenNames s5
  have h3 : Keeps P W s5 := by
    dsimp -zeta only [s5]
    refine Keeps.upd (s := s4) ?_ rfl rfl
    exact h2
  clear_value s5
  refine Keeps.ite ?_ ?_
  · apply setBody_keeps
    exact h3
  · exact h3

theorem zeroVault_keeps {s : State} (h : Keeps P W s) : Keeps P W (zeroVault s) := by
  unfold zeroVault
  extract_lets +onlyGivenNames s1
  extract_lets +onlyGivenNames s2
  have h1 : Keeps P W s2 := by
    dsimp -zeta only [s2]
    refine Keeps.foldl ?_ ?_
    · intro a1 a2 a3
      apply modBlock_keeps
      apply modDie_keeps
      exact a3
    · exact h
  clear_value s2
  refine Keeps.upd (s := s2) ?_ rfl rfl
  exact h1

theorem zeroBridge_keeps {s : State} (h : Keeps P W s) : Keeps P W (zeroBridge s) := by
  unfold zeroBridge
  apply retrain_keeps
  refine Keeps.upd (s := s) ?_ rfl rfl
  exact h

theorem setResetWindow_keeps {s : State} (x2 : Nat) (x3 : Nat × Nat) (h : Keeps P W s) : Keeps P W (setResetWindow s x2 x3) := by
  unfold setResetWindow
  refine Keeps.ite ?_ ?_
  · refine Keeps.upd (s := s) ?_ rfl rfl
    exact h
  · refine Keeps.ite ?_ ?_
    · refine Keeps.upd (s := s) ?_ rfl rfl
      exact h
    · apply setUnit_keeps
      exact h

theorem blockReset_keeps {s : State} (x2 : Nat) (x3 : Bool) (h : Keeps P W s) : Keeps P W (blockReset s x2 x3) := by
  unfold blockReset
  extract_lets +onlyGivenNames s1
  have h1 : Keeps P W s1 := by
    dsimp -zeta only [s1]
    refine Keeps.ite ?_ ?_
    · apply logEvent_keeps
      exact h
    · exact h
  clear_value s1
  extract_lets +onlyGivenNames s2
  refine Keeps.ite ?_ ?_
  · apply fatal_keeps
    exact h1
  · extract_lets +onlyGivenNames s3
    have h2 : Keeps P W s3 := by
      dsimp -zeta only [s3]
      apply logBlockReset_keeps
      apply setResetWindow_keeps
      exact h1
    clear_value s3
    refine Keeps.ite ?_ ?_
    · apply zeroVault_keeps
      exact h2
    · refine Keeps.ite ?_ ?_
      · apply zeroBridge_keeps
        exact h2
      · apply zeroUnit_keeps
        exact h2

theorem execBlockReset_keeps (x1 : Fin 14) (x2 : Bool) {s : State} (h : Keeps P W s) : KeepsO P W (execBlockReset x1 x2 s) := by
  unfold execBlockReset
  extract_lets +onlyGivenNames s1
  refine KeepsO.next ?_
  refine Keeps.ite ?_ ?_
  · apply blockReset_keeps
    exact h
  · exact h

theorem execBlockResetReturn_keeps (x1 : Fin 14) {s : State} (h : Keeps P W s) : KeepsO P W (execBlockResetReturn x1 s) := by
  unfold execBlockResetReturn
  extract_lets +onlyGivenNames s1
  refine KeepsO.next ?_
  refine Keeps.ite ?_ ?_
  · refine Keeps.ite ?_ ?_
    · refine Keeps.upd (s := s) ?_ rfl rfl
      exact h
    · refine Keeps.ite ?_ ?_
      · refine Keeps.upd (s := s) ?_ rfl rfl
        exact h
      · apply setUnit_keeps
        exact h
  · exact h

theorem programDump_keeps {s : State} (x2 : List PageContent) (h : Keeps P W s) : Keeps P W (programDump s x2) := by
  unfold programDump
  extract_lets +onlyGivenNames s1
  refine Keeps.foldl (fun s2 x2 h2 => ?_) ?_
  · split
    · apply programPage_keeps
      refine takeBlock_keeps ?_ ‹_ = some (_, _)›
      exact h2
    · exact h2
  · apply stalePages_keeps
    exact h

theorem finishDump_keeps {s : State} (x2 : Nat) (x3 : Nat) (x4 : Nat) (h : Keeps P W s) : Keeps P W (finishDump s x2 x3 x4) := by
  unfold finishDump
  extract_lets +onlyGivenNames s1
  extract_lets +onlyGivenNames s2
  have h2 : Keeps P W s2 := by
    dsimp -zeta only [s2]
    refine Keeps.ite ?_ ?_
    · apply send_keeps
      apply send_keeps
      exact h
    · exact h
  clear_value s2
  extract_lets +onlyGivenNames s3
  extract_lets +onlyGivenNames s4
  have h4 : Keeps P W s4 := by
    dsimp -zeta only [s4]
    apply programDump_keeps
    exact h2
  clear_value s4
  extract_lets +onlyGivenNames s5
  extract_lets +onlyGivenNames s6
  have h6 : Keeps P W s6 := by
    dsimp -zeta only [s6]
    refine Keeps.ite ?_ ?_
    · refine Keeps.upd (s := s4) ?_ rfl rfl
      exact h4
    · exact h2
  clear_value s6
  apply fullReset_keeps
  refine Keeps.upd (s := s6) ?_ rfl rfl
  exact h6

theorem dumpStep_keeps {s : State} (h : Keeps P W s) : Keeps P W (dumpStep s) := by
  unfold dumpStep
  split
  · exact h
  · refine Keeps.ite ?_ ?_
    · apply fullReset_keeps
      exact h
    · split
      · extract_lets +onlyGivenNames s1
        extract_lets +onlyGivenNames s2
        have h1 : Keeps P W s2 := by
          dsimp -zeta only [s2]
          refine Keeps.ite ?_ ?_
          · apply send_keeps
            exact h
          · exact h
        clear_value s2
        refine Keeps.upd (s := s2) ?_ rfl rfl
        exact h1
      · apply finishDump_keeps
        exact h

theorem execFatalError_keeps (x1 : BitVec 8) (x2 : W32) {s : State} (h : Keeps P W s) : KeepsO P W (execFatalError x1 x2 s) := by
  unfold execFatalError
  extract_lets +onlyGivenNames s1
  have h1 : Keeps P W s1 := by
    dsimp -zeta only [s1]
    apply logEvent_keeps
    exact h
  clear_value s1
  refine KeepsO.next ?_
  refine Keeps.ite ?_ ?_
  · apply fatalOf_keeps
    exact h1
  · exact h

theorem execDumpWindowExpiry_keeps {s : State} (h : Keeps P W s) : KeepsO P W (execDumpWindowExpiry s) := by
  unfold execDumpWindowExpiry
  refine KeepsO.next ?_
  split
  · apply finishDump_keeps
    refine Keeps.upd (s := s) ?_ rfl rfl
    exact h
  · exact h

end Sys2Proof.Machine
end

