-- ==== Sys2Proof/Laws/KeepsTick.lean ====
section
/-! SUPPORT. The queue and the life-cycle bits are kept by bays and ticks: one lemma for each operation. -/
namespace Sys2Proof.Machine
open Sys2Proof

variable {P : List Instr} {W : List W32}

theorem startBody_keeps {s : State} (x2 : Nat) (x3 : Nat) (h : Keeps P W s) : Keeps P W (startBody s x2 x3) := by
  unfold startBody
  split
  · extract_lets +onlyGivenNames s1
    extract_lets +onlyGivenNames s2
    apply setBody_keeps
    exact h
  · exact h

theorem moveLive_keeps {s : State} (x2 : Nat) (x3 : List Nat) (h : Keeps P W s) : Keeps P W (moveLive s x2 x3) := by
  unfold moveLive
  extract_lets +onlyGivenNames s1
  extract_lets +onlyGivenNames s2
  extract_lets +onlyGivenNames s3
  refine Keeps.upd (s := s) ?_ rfl rfl
  exact h

theorem setBay_keeps {s : State} (x2 : Nat) (x3 : BayKind) (x4 : Option Nat) (x5 : Option Nat) (x6 : Option Nat) (x7 : List Nat) (h : Keeps P W s) : Keeps P W (setBay s x2 x3 x4 x5 x6 x7) := by
  unfold setBay
  extract_lets +onlyGivenNames s1
  extract_lets +onlyGivenNames s2
  have h2 : Keeps P W s2 := by
    dsimp -zeta only [s2]
    refine Keeps.ite ?_ ?_
    · exact h
    · apply moveLive_keeps
      exact h
  clear_value s2
  extract_lets +onlyGivenNames s3
  extract_lets +onlyGivenNames s4
  have h4 : Keeps P W s4 := by
    dsimp -zeta only [s4]
    apply setUnit_keeps
    exact h2
  clear_value s4
  refine Keeps.upd (s := s4) ?_ rfl rfl
  exact h4

theorem startWork_keeps {s : State} (x2 : Nat) (x3 : Nat) (x4 : BayKind) (x5 : Work) (h : Keeps P W s) : Keeps P W (startWork s x2 x3 x4 x5) := by
  unfold startWork
  split
  · apply setBay_keeps
    exact h
  · extract_lets +onlyGivenNames s1
    extract_lets +onlyGivenNames s2
    extract_lets +onlyGivenNames s3
    have h1 : Keeps P W s3 := by
      dsimp -zeta only [s3]
      apply setBay_keeps
      exact h
    clear_value s3
    clear_value s2
    clear_value s1
    split
    · extract_lets +onlyGivenNames s1
      have h2 : Keeps P W s1 := by
        dsimp -zeta only [s1]
        refine Keeps.ite ?_ ?_
        · apply startBody_keeps
          exact h1
        · exact h1
      clear_value s1
      apply setUnit_keeps
      exact h2
    · exact h1

theorem chargeUsage_keeps {s : State} (x2 : Nat) (x3 : Nat) (x4 : Usage → Usage) (h : Keeps P W s) : Keeps P W (chargeUsage s x2 x3 x4) := by
  unfold chargeUsage
  apply modAllot_keeps
  exact h

theorem beginMove_keeps {s : State} (x2 : Nat) (x3 : Nat) (h : Keeps P W s) : Keeps P W (beginMove s x2 x3) := by
  unfold beginMove
  extract_lets +onlyGivenNames s1
  extract_lets +onlyGivenNames s2
  split
  · apply setUnit_keeps
    exact h
  · apply setUnit_keeps
    exact h

theorem moveOutBay_keeps {s : State} (x2 : Nat) (x3 : Nat) (x4 : Bool) (x5 : Option Nat) (h : Keeps P W s) : Keeps P W (moveOutBay s x2 x3 x4 x5) := by
  unfold moveOutBay
  extract_lets +onlyGivenNames s1
  have h1 : Keeps P W s1 := by
    dsimp -zeta only [s1]
    apply beginMove_keeps
    exact h
  clear_value s1
  extract_lets +onlyGivenNames s2
  refine Keeps.ite ?_ ?_
  · apply setBay_keeps
    exact h1
  · apply setBay_keeps
    exact h1

theorem moveInBay_keeps {s : State} (x2 : Nat) (x3 : Nat) (h : Keeps P W s) : Keeps P W (moveInBay s x2 x3) := by
  unfold moveInBay
  extract_lets +onlyGivenNames s1
  split
  · refine Keeps.ite ?_ ?_
    · apply setBay_keeps
      exact h
    · apply setBay_keeps
      exact h
  · apply setBay_keeps
    exact h

theorem poolTurn_keeps {s : State} (x2 : Nat) (h : Keeps P W s) : Keeps2 P W (poolTurn s x2) := by
  unfold poolTurn
  extract_lets +onlyGivenNames s1
  split
  · refine Keeps2.mk ?_
    exact h
  · extract_lets +onlyGivenNames s2
    extract_lets +onlyGivenNames s3
    refine Keeps2.mk ?_
    apply setUnit_keeps
    exact h

theorem poolBay_keeps {s : State} (x2 : Nat) (x3 : BayKind) (x4 : Bool) (h : Keeps P W s) : Keeps P W (poolBay s x2 x3 x4) := by
  unfold poolBay
  extract_lets +onlyGivenNames s1
  have h1 : Keeps2 P W s1 := by
    dsimp -zeta only [s1]
    apply poolTurn_keeps
    exact h
  clear_value s1
  refine Keeps.ite ?_ ?_
  · refine Keeps2.snd ?_
    exact h1
  · split
    · apply startWork_keeps
      refine Keeps2.snd ?_
      exact h1
    · apply setBay_keeps
      refine Keeps2.snd ?_
      exact h1

theorem poolPosition_keeps {s : State} (x2 : Nat) (x3 : Bool) (h : Keeps P W s) : Keeps P W (poolPosition s x2 x3) := by
  unfold poolPosition
  extract_lets +onlyGivenNames s1
  extract_lets +onlyGivenNames s2
  extract_lets +onlyGivenNames s3
  have h1 : Keeps P W s3 := by
    dsimp -zeta only [s3]
    apply setUnit_keeps
    exact h
  clear_value s3
  extract_lets +onlyGivenNames s4
  extract_lets +onlyGivenNames s5
  extract_lets +onlyGivenNames s6
  extract_lets +onlyGivenNames s7
  refine Keeps.ite ?_ ?_
  · refine Keeps.ite ?_ ?_
    · split
      · apply moveInBay_keeps
        exact h1
      · exact h1
    · exact h1
  · refine Keeps.ite ?_ ?_
    · refine Keeps.ite ?_ ?_
      · split
        · refine Keeps.ite ?_ ?_
          · apply moveOutBay_keeps
            exact h1
          · apply setBay_keeps
            exact h1
        · exact h1
      · exact h1
    · apply poolBay_keeps
      exact h1

theorem leasedBay_keeps {s : State} (x2 : Nat) (x3 : Nat) (x4 : Bool) (h : Keeps P W s) : Keeps P W (leasedBay s x2 x3 x4) := by
  unfold leasedBay
  extract_lets +onlyGivenNames s1
  extract_lets +onlyGivenNames s2
  extract_lets +onlyGivenNames s3
  have h1 : Keeps P W s3 := by
    dsimp -zeta only [s3]
    apply setUnit_keeps
    exact h
  clear_value s3
  extract_lets +onlyGivenNames s4
  extract_lets +onlyGivenNames s5
  extract_lets +onlyGivenNames s6
  extract_lets +onlyGivenNames s7
  refine Keeps.ite ?_ ?_
  · exact h1
  · refine Keeps.ite ?_ ?_
    · split
      · apply moveOutBay_keeps
        exact h1
      · exact h1
    · split
      · apply startWork_keeps
        exact h1
      · refine Keeps.ite ?_ ?_
        · apply poolBay_keeps
          apply chargeUsage_keeps
          exact h1
        · apply setBay_keeps
          exact h1

theorem startBay_keeps {s : State} (x2 : Nat) (h : Keeps P W s) : Keeps P W (startBay s x2) := by
  unfold startBay
  refine Keeps.ite ?_ ?_
  · exact h
  · extract_lets +onlyGivenNames s1
    extract_lets +onlyGivenNames s2
    extract_lets +onlyGivenNames s3
    extract_lets +onlyGivenNames s4
    have h1 : Keeps P W s4 := by
      dsimp -zeta only [s4]
      apply setUnit_keeps
      exact h
    clear_value s4
    extract_lets +onlyGivenNames s5
    have h2 : Keeps P W s5 := by
      dsimp -zeta only [s5]
      refine Keeps.ite ?_ ?_
      · apply poolPosition_keeps
        exact h1
      · apply leasedBay_keeps
        exact h1
    clear_value s5
    refine Keeps.ite ?_ ?_
    · apply setBay_keeps
      exact h2
    · exact h2

theorem applyLeases_keeps {s : State} (h : Keeps P W s) : Keeps P W (applyLeases s) := by
  unfold applyLeases
  extract_lets +onlyGivenNames s1
  refine Keeps.upd (s := s) ?_ rfl rfl
  exact h

theorem setHolder_keeps {s : State} (x2 : Nat) (x3 : Nat) (x4 : Option (Nat × Bool)) (h : Keeps P W s) : Keeps P W (setHolder s x2 x3 x4) := by
  unfold setHolder
  extract_lets +onlyGivenNames s1
  extract_lets +onlyGivenNames s2
  extract_lets +onlyGivenNames s3
  refine Keeps.ite ?_ ?_
  · apply setResidence_keeps
    exact h
  · extract_lets +onlyGivenNames s5
    have h5 : Keeps P W s5 := by
      dsimp -zeta only [s5]
      split
      · apply evictJob_keeps
        exact h
      · exact h
    clear_value s5
    extract_lets +onlyGivenNames s6
    have h6 : Keeps P W s6 := by
      dsimp -zeta only [s6]
      apply setResidence_keeps
      exact h5
    clear_value s6
    refine Keeps.upd (s := s6) ?_ rfl rfl
    exact h6

theorem shedYield_keeps {s : State} (x2 : Residence) (x3 : Nat) (x4 : Nat) (h : Keeps P W s) : Keeps P W (shedYield s x2 x3 x4) := by
  unfold shedYield
  split
  · refine Keeps.ite ?_ ?_
    · apply logYield_keeps
      exact h
    · exact h
  · exact h

theorem restoreOne_keeps {s : State} (x2 : Nat) (h : Keeps P W s) : Keeps P W (restoreOne s x2) := by
  unfold restoreOne
  split
  · refine Keeps.ite ?_ ?_
    · apply placeJob_keeps
      exact h
    · exact h
  · exact h

theorem restoreIncoming_keeps (old : State) {s : State} (h : Keeps P W s) : Keeps P W (restoreIncoming old s) := by
  unfold restoreIncoming
  refine Keeps.foldl (fun _ _ h => restoreOne_keeps _ h) ?_
  exact Keeps.upd (s := s) h rfl rfl

theorem assignResidences_keeps {s : State} (h : Keeps P W s) : Keeps P W (assignResidences s) := by
  unfold assignResidences
  extract_lets +onlyGivenNames s1
  extract_lets +onlyGivenNames s2
  have h2 : Keeps P W s2 := by
    dsimp -zeta only [s2]
    exact h
  clear_value s2
  extract_lets +onlyGivenNames s3
  have h3 : Keeps P W s3 := by
    dsimp -zeta only [s3]
    refine Keeps.foldl (fun s4 x4 h4 => ?_) ?_
    · refine Keeps.foldl (fun s5 x5 h5 => ?_) ?_
      · apply shedYield_keeps
        apply setHolder_keeps
        exact h5
      · exact h4
    · exact h
  clear_value s3
  apply restoreIncoming_keeps
  refine Keeps.upd (s := s3) ?_ rfl rfl
  exact h3

theorem startEpochUnit_keeps {s : State} (x2 : Nat) (h : Keeps P W s) : Keeps P W (startEpochUnit s x2) := by
  unfold startEpochUnit
  refine Keeps.ite ?_ ?_
  · exact h
  · extract_lets +onlyGivenNames s1
    extract_lets +onlyGivenNames s2
    extract_lets +onlyGivenNames s3
    apply setUnit_keeps
    exact h

theorem assignTurns_keeps {s : State} (h : Keeps P W s) : Keeps P W (assignTurns s) := by
  unfold assignTurns
  extract_lets +onlyGivenNames s1
  extract_lets +onlyGivenNames s2
  extract_lets +onlyGivenNames s3
  extract_lets +onlyGivenNames s4
  extract_lets +onlyGivenNames s5
  extract_lets +onlyGivenNames s6
  extract_lets +onlyGivenNames s7
  extract_lets +onlyGivenNames s8
  extract_lets +onlyGivenNames s9
  have h1 : Keeps P W s9 := by
    dsimp -zeta only [s9]
    refine Keeps.upd (s := s) ?_ rfl rfl
    exact h
  clear_value s9
  refine Keeps.foldl ?_ ?_
  · intro a1 a2 a3
    apply logYield_keeps
    exact a3
  · exact h1

theorem assignMembers_keeps {s : State} (h : Keeps P W s) : Keeps P W (assignMembers s) := by
  unfold assignMembers
  extract_lets +onlyGivenNames s1
  refine Keeps.upd (s := s) ?_ rfl rfl
  exact h

theorem epochBoundary_keeps {s : State} (h : Keeps P W s) : Keeps P W (epochBoundary s) := by
  unfold epochBoundary
  extract_lets +onlyGivenNames s1
  have h1 : Keeps P W s1 := by
    dsimp -zeta only [s1]
    apply assignResidences_keeps
    apply applyLeases_keeps
    apply bistRejoin_keeps
    exact h
  clear_value s1
  extract_lets +onlyGivenNames s2
  have h2 : Keeps P W s2 := by
    dsimp -zeta only [s2]
    refine Keeps.foldl ?_ ?_
    · intro a1 a2 a3
      apply startEpochUnit_keeps
      exact a3
    · exact h1
  clear_value s2
  apply startRetests_keeps
  apply sundialEpoch_keeps
  apply installImage_keeps
  apply assignMembers_keeps
  apply assignTurns_keeps
  exact h2

theorem failNext_keeps {s : State} (x2 : Nat) (x3 : Status) (h : Keeps P W s) : Keeps P W (failNext s x2 x3) := by
  unfold failNext
  apply modJob_keeps
  apply failNow_keeps
  exact h

theorem countSlice_keeps {s : State} (x2 : Nat) (x3 : Nat) (h : Keeps P W s) : Keeps P W (countSlice s x2 x3) := by
  unfold countSlice
  extract_lets +onlyGivenNames s1
  extract_lets +onlyGivenNames s2
  have h1 : Keeps P W s2 := by
    dsimp -zeta only [s2]
    apply modJob_keeps
    exact h
  clear_value s2
  refine Keeps.ite ?_ ?_
  · split
    · apply setResidence_keeps
      exact h1
    · exact h1
  · exact h1

theorem leavePlace_keeps {s : State} (x2 : Nat) (h : Keeps P W s) : Keeps P W (leavePlace s x2) := by
  unfold leavePlace
  split
  · split
    · apply modJob_keeps
      apply freeResidence_keeps
      exact h
    · exact h
  · exact h

theorem endAbandoned_keeps {s : State} (x2 : Nat) (x3 : Nat) (h : Keeps P W s) : Keeps P W (endAbandoned s x2 x3) := by
  unfold endAbandoned
  apply logEvent_keeps
  apply failNext_keeps
  exact h

theorem abandonSlice_keeps (x1 : Bool) {s : State} (x3 : Nat) (x4 : Nat) (h : Keeps P W s) : Keeps P W (abandonSlice x1 s x3 x4) := by
  unfold abandonSlice
  extract_lets +onlyGivenNames s1
  have h1 : Keeps P W s1 := by
    dsimp -zeta only [s1]
    apply modJob_keeps
    exact h
  clear_value s1
  extract_lets +onlyGivenNames s2
  extract_lets +onlyGivenNames s3
  have h3 : Keeps P W s3 := by
    dsimp -zeta only [s3]
    apply setUnit_keeps
    exact h1
  clear_value s3
  refine Keeps.ite ?_ ?_
  · exact h3
  · apply endAbandoned_keeps
    exact h3

theorem openFault_keeps {s : State} (x2 : Nat) (x3 : Nat) (x4 : Nat) (x5 : Nat) (h : Keeps P W s) : Keeps P W (openFault s x2 x3 x4 x5) := by
  unfold openFault
  split
  · extract_lets +onlyGivenNames s1
    have h1 : Keeps P W s1 := by
      dsimp -zeta only [s1]
      apply modJob_keeps
      exact h
    clear_value s1
    apply logEvent_keeps
    apply failNext_keeps
    exact h1
  · exact h

theorem storeContext_keeps {s : State} (x2 : Body) (h : Keeps P W s) : Keeps P W (storeContext s x2) := by
  unfold storeContext
  apply setPlot_keeps
  exact h

theorem callmEnd_keeps {s : State} (x2 : Nat) (h : Keeps P W s) : Keeps P W (callmEnd s x2) := by
  unfold callmEnd
  split
  · split
    · extract_lets +onlyGivenNames s1
      have h1 : Keeps P W s1 := by
        dsimp -zeta only [s1]
        apply modJob_keeps
        exact h
      clear_value s1
      refine Keeps.ite ?_ ?_
      · exact h1
      · extract_lets +onlyGivenNames s2
        refine Keeps.ite ?_ ?_
        · refine Keeps.upd (s := s1) ?_ rfl rfl
          exact h1
        · split
          · apply setPlot_keeps
            exact h1
          · exact h1
    · exact h
  · exact h

theorem openSlice_keeps {s : State} (x2 : Nat) (x3 : Nat) (h : Keeps P W s) : Keeps P W (openSlice s x2 x3) := by
  unfold openSlice
  split
  · exact h
  · extract_lets +onlyGivenNames s1
    extract_lets +onlyGivenNames s2
    extract_lets +onlyGivenNames s3
    have h1 : Keeps P W s3 := by
      dsimp -zeta only [s3]
      apply countSlice_keeps
      apply putVm_keeps
      exact h
    clear_value s3
    split
    · apply openFault_keeps
      exact h1
    · extract_lets +onlyGivenNames s4
      apply leavePlace_keeps
      apply modJob_keeps
      exact h1
    · refine Keeps.ite ?_ ?_
      · apply openFault_keeps
        exact h1
      · extract_lets +onlyGivenNames s4
        have h2 : Keeps P W s4 := by
          dsimp -zeta only [s4]
          apply storeContext_keeps
          exact h1
        clear_value s4
        split
        · apply modJob_keeps
          exact h2
        · exact h2

theorem vendorCommit_keeps {s : State} (x2 : Nat) (x3 : Body) (h : Keeps P W s) : Keeps P W (vendorCommit s x2 x3) := by
  unfold vendorCommit
  extract_lets +onlyGivenNames s1
  have h1 : Keeps P W s1 := by
    dsimp -zeta only [s1]
    apply storeContext_keeps
    exact h
  clear_value s1
  split
  · apply modJob_keeps
    exact h1
  · exact h1

theorem vendorEnd_keeps {s : State} (x2 : Nat) (x3 : Body) (x4 : Status) (x5 : Nat) (x6 : Nat) (h : Keeps P W s) : Keeps P W (vendorEnd s x2 x3 x4 x5 x6) := by
  unfold vendorEnd
  apply modJob_keeps
  exact h

theorem vendorSlice_keeps {s : State} (x2 : Nat) (x3 : Nat) (h : Keeps P W s) : Keeps P W (vendorSlice s x2 x3) := by
  unfold vendorSlice
  extract_lets +onlyGivenNames s1
  split
  · apply logEvent_keeps
    apply failNext_keeps
    apply countSlice_keeps
    exact h
  · extract_lets +onlyGivenNames s3
    have h3 : Keeps P W s3 := by
      dsimp -zeta only [s3]
      apply countSlice_keeps
      exact h
    clear_value s3
    split
    · apply vendorEnd_keeps
      exact h3
    · refine Keeps.ite ?_ ?_
      · apply vendorCommit_keeps
        exact h3
      · extract_lets +onlyGivenNames s6
        apply storeContext_keeps
        exact h3

theorem mazeSlice_keeps {s : State} (x2 : Nat) (x3 : Nat) (h : Keeps P W s) : Keeps P W (mazeSlice s x2 x3) := by
  unfold mazeSlice
  extract_lets +onlyGivenNames s1
  have h1 : Keeps P W s1 := by
    dsimp -zeta only [s1]
    apply callmEnd_keeps
    apply countSlice_keeps
    exact h
  clear_value s1
  split
  · extract_lets +onlyGivenNames s3
    refine Keeps.ite ?_ ?_
    · apply openFault_keeps
      exact h1
    · exact h1
  · exact h1

theorem leaveIfDone_keeps {s : State} (x2 : Nat) (h : Keeps P W s) : Keeps P W (leaveIfDone s x2) := by
  unfold leaveIfDone
  split
  · refine Keeps.ite ?_ ?_
    · apply leavePlace_keeps
      exact h
    · exact h
  · exact h

theorem commitSlice_keeps {s : State} (x2 : Nat) (x3 : Nat) (h : Keeps P W s) : Keeps P W (commitSlice s x2 x3) := by
  unfold commitSlice
  split
  · exact h
  · refine Keeps.ite ?_ ?_
    · exact h
    · refine Keeps.ite ?_ ?_
      · refine Keeps.ite ?_ ?_
        · apply openSlice_keeps
          exact h
        · apply mazeSlice_keeps
          exact h
      · apply leaveIfDone_keeps
        apply goOn_keeps
        refine Keeps.ite ?_ ?_
        · apply vendorSlice_keeps
          exact h
        · apply callmEnd_keeps
          apply countSlice_keeps
          exact h

theorem moveOut_keeps {s : State} (x2 : Nat) (x3 : Nat) (x4 : Nat) (h : Keeps P W s) : Keeps P W (moveOut s x2 x3 x4) := by
  unfold moveOut
  extract_lets +onlyGivenNames s1
  extract_lets +onlyGivenNames s2
  extract_lets +onlyGivenNames s3
  extract_lets +onlyGivenNames s4
  have h1 : Keeps P W s4 := by
    dsimp -zeta only [s4]
    apply setUnit_keeps
    exact h
  clear_value s4
  refine Keeps.ite ?_ ?_
  · apply evictJob_keeps
    exact h1
  · exact h1

theorem moveIn_keeps {s : State} (x2 : Nat) (x3 : Nat) (x4 : Nat) (h : Keeps P W s) : Keeps P W (moveIn s x2 x3 x4) := by
  unfold moveIn
  split
  · refine Keeps.ite ?_ ?_
    · exact h
    · extract_lets +onlyGivenNames s1
      have h1 : Keeps P W s1 := by
        dsimp -zeta only [s1]
        apply modJob_keeps
        exact h
      clear_value s1
      refine Keeps.ite ?_ ?_
      · split
        · extract_lets +onlyGivenNames s2
          have h2 : Keeps P W s2 := by
            dsimp -zeta only [s2]
            apply setPlot_keeps
            exact h1
          clear_value s2
          refine Keeps.upd (s := s2) ?_ rfl rfl
          exact h2
        · exact h1
      · exact h1
  · exact h

theorem houseOf_keeps {s : State} (x2 : Nat) (h : Keeps P W s) : Keeps P W (houseOf s x2) := by
  unfold houseOf
  apply modJob_keeps
  exact h

theorem houseStep_keeps {s : State} (x2 : Nat) (x3 : Bay) (h : Keeps P W s) : Keeps P W (houseStep s x2 x3) := by
  unfold houseStep
  split
  · refine Keeps.ite ?_ ?_
    · apply moveOut_keeps
      exact h
    · apply moveIn_keeps
      exact h
  · apply houseOf_keeps
    exact h
  · exact h

theorem countError_keeps {s : State} (x2 : Nat) (x3 : Bool) (h : Keeps P W s) : Keeps P W (countError s x2 x3) := by
  unfold countError
  refine Keeps.ite ?_ ?_
  · extract_lets +onlyGivenNames s1
    apply setUnit_keeps
    exact h
  · refine Keeps.ite ?_ ?_
    · refine Keeps.upd (s := s) ?_ rfl rfl
      exact h
    · refine Keeps.upd (s := s) ?_ rfl rfl
      exact h

theorem mishap_keeps {s : State} (x2 : Mishap) (h : Keeps P W s) : Keeps P W (mishap s x2) := by
  unfold mishap
  split
  · refine Keeps.ite ?_ ?_
    · apply logEvent_keeps
      apply reportAer_keeps
      apply countError_keeps
      exact h
    · exact h
  · refine Keeps.ite ?_ ?_
    · apply countError_keeps
      exact h
    · exact h
  · refine Keeps.ite ?_ ?_
    · apply countError_keeps
      exact h
    · exact h
  · refine Keeps.ite ?_ ?_
    · extract_lets +onlyGivenNames s3
      extract_lets +onlyGivenNames s4
      have h4 : Keeps P W s4 := by
        dsimp -zeta only [s4]
        apply setUnit_keeps
        exact h
      clear_value s4
      apply consistencyEvent_keeps
      apply logEvent_keeps
      exact h4
    · exact h
  · extract_lets +onlyGivenNames s2
    split
    · refine Keeps.ite ?_ ?_
      · exact h
      · apply logEvent_keeps
        apply countError_keeps
        refine Keeps.ite ?_ ?_
        · apply adminFail_keeps
          apply adminUndo_keeps
          exact h
        · apply failNow_keeps
          exact h
    · exact h

theorem chargeRun_keeps {s : State} (x2 : Nat) (x3 : Nat) (x4 : Bool) (h : Keeps P W s) : Keeps P W (chargeRun s x2 x3 x4) := by
  unfold chargeRun
  refine Keeps.ite ?_ ?_
  · extract_lets +onlyGivenNames s1
    extract_lets +onlyGivenNames s2
    have h1 : Keeps P W s2 := by
      dsimp -zeta only [s2]
      apply setUnit_keeps
      exact h
    clear_value s2
    apply chargeUsage_keeps
    exact h1
  · extract_lets +onlyGivenNames s1
    extract_lets +onlyGivenNames s2
    have h1 : Keeps P W s2 := by
      dsimp -zeta only [s2]
      apply setUnit_keeps
      exact h
    clear_value s2
    apply chargeUsage_keeps
    exact h1

theorem endSlice_keeps (x1 : List Mishap) (x2 : Nat) {s : State} (x4 : Nat) (h : Keeps P W s) : Keeps P W (endSlice x1 x2 s x4) := by
  unfold endSlice
  refine Keeps.ite ?_ ?_
  · apply abandonSlice_keeps
    exact h
  · refine Keeps.ite ?_ ?_
    · apply abandonSlice_keeps
      exact h
    · apply commitSlice_keeps
      exact h

theorem endBay_keeps (x1 : List Mishap) {s : State} (x3 : Nat) (h : Keeps P W s) : Keeps P W (endBay x1 s x3) := by
  unfold endBay
  extract_lets +onlyGivenNames s1
  split
  · exact h
  · extract_lets +onlyGivenNames s3
    split
    · apply setUnit_keeps
      exact h
    · apply chargeUsage_keeps
      apply setUnit_keeps
      exact h
    · exact h
    · extract_lets +onlyGivenNames s5
      have h5 : Keeps P W s5 := by
        dsimp -zeta only [s5]
        apply setUnit_keeps
        exact h
      clear_value s5
      apply houseStep_keeps
      apply chargeUsage_keeps
      exact h5
    · refine Keeps.ite ?_ ?_
      · exact h
      · extract_lets +onlyGivenNames s6
        extract_lets +onlyGivenNames s7
        have h7 : Keeps P W s7 := by
          dsimp -zeta only [s7]
          apply chargeRun_keeps
          exact h
        clear_value s7
        extract_lets +onlyGivenNames s8
        have h8 : Keeps P W s8 := by
          dsimp -zeta only [s8]
          refine Keeps.foldl (fun s36 x36 h36 => ?_) ?_
          · apply endSlice_keeps
            exact h36
          · exact h7
        clear_value s8
        refine Keeps.ite ?_ ?_
        · apply setBody_keeps
          exact h8
        · exact h8
    · refine Keeps.ite ?_ ?_
      · exact h
      · extract_lets +onlyGivenNames s6
        extract_lets +onlyGivenNames s7
        have h7 : Keeps P W s7 := by
          dsimp -zeta only [s7]
          apply chargeRun_keeps
          exact h
        clear_value s7
        extract_lets +onlyGivenNames s8
        have h8 : Keeps P W s8 := by
          dsimp -zeta only [s8]
          refine Keeps.foldl (fun s36 x36 h36 => ?_) ?_
          · apply endSlice_keeps
            exact h36
          · exact h7
        clear_value s8
        refine Keeps.ite ?_ ?_
        · apply setBody_keeps
          exact h8
        · exact h8
    · refine Keeps.ite ?_ ?_
      · exact h
      · extract_lets +onlyGivenNames s6
        extract_lets +onlyGivenNames s7
        have h7 : Keeps P W s7 := by
          dsimp -zeta only [s7]
          apply chargeRun_keeps
          exact h
        clear_value s7
        extract_lets +onlyGivenNames s8
        have h8 : Keeps P W s8 := by
          dsimp -zeta only [s8]
          refine Keeps.foldl (fun s36 x36 h36 => ?_) ?_
          · apply endSlice_keeps
            exact h36
          · exact h7
        clear_value s8
        refine Keeps.ite ?_ ?_
        · apply setBody_keeps
          exact h8
        · exact h8

theorem endBays_keeps (x1 : List Mishap) {s : State} (h : Keeps P W s) : Keeps P W (endBays x1 s) := by
  unfold endBays
  extract_lets +onlyGivenNames s1
  have h1 : Keeps P W s1 := by
    dsimp -zeta only [s1]
    refine Keeps.ite ?_ ?_
    · apply abandonRunning_keeps
      exact h
    · exact h
  clear_value s1
  extract_lets +onlyGivenNames s2
  have h2 : Keeps P W s2 := by
    dsimp -zeta only [s2]
    refine Keeps.foldl ?_ ?_
    · intro a1 a2 a3
      apply endBay_keeps
      exact a3
    · exact h1
  clear_value s2
  refine Keeps.upd (s := s2) ?_ rfl rfl
  exact h2

theorem zeroResidences_keeps {s : State} (h : Keeps P W s) : Keeps P W (zeroResidences s) := by
  unfold zeroResidences
  refine Keeps.upd (s := s) ?_ rfl rfl
  exact h

theorem settleEvictions_keeps {s : State} (h : Keeps P W s) : Keeps P W (settleEvictions s) := by
  unfold settleEvictions
  refine Keeps.foldl ?_ ?_
  · intro a1 a2 a3
    extract_lets +onlyGivenNames s1
    refine Keeps.foldl ?_ ?_
    · intro a4 a5 a6
      extract_lets +onlyGivenNames s2
      extract_lets +onlyGivenNames s3
      have h1 : Keeps P W s3 := by
        dsimp -zeta only [s3]
        apply setUnit_keeps
        exact a6
      clear_value s3
      split
      · refine Keeps.ite ?_ ?_
        · apply placeJob_keeps
          exact h1
        · exact h1
      · exact h1
    · exact a3
  · exact h

theorem maskTick_keeps {s : State} (x2 : Nat) (h : Keeps P W s) : Keeps P W (maskTick s x2) := by
  unfold maskTick
  extract_lets +onlyGivenNames s1
  refine Keeps.ite ?_ ?_
  · exact h
  · refine Keeps.ite ?_ ?_
    · refine Keeps.ite ?_ ?_
      · apply setUnit_keeps
        exact h
      · exact h
    · refine Keeps.ite ?_ ?_
      · exact h
      · apply setUnit_keeps
        exact h

theorem noteReady_keeps {s : State} (h : Keeps P W s) : Keeps P W (noteReady s) := by
  unfold noteReady
  refine Keeps.upd (s := s) ?_ rfl rfl
  exact h

theorem takeHalts_keeps {s : State} (h : Keeps P W s) : Keeps P W (takeHalts s) := by
  unfold takeHalts
  refine Keeps.upd (s := s) ?_ rfl rfl
  exact h

theorem takeViews_keeps {s : State} (h : Keeps P W s) : Keeps P W (takeViews s) := by
  unfold takeViews
  extract_lets +onlyGivenNames s1
  extract_lets +onlyGivenNames s2
  refine Keeps.upd (s := s) ?_ rfl rfl
  exact h

theorem crossBoundary_keeps (x1 : List Mishap) {s : State} (h : Keeps P W s) : Keeps P W (crossBoundary x1 s) := by
  unfold crossBoundary
  extract_lets +onlyGivenNames s1
  have h1 : Keeps P W s1 := by
    dsimp -zeta only [s1]
    apply endBays_keeps
    exact h
  clear_value s1
  extract_lets +onlyGivenNames s2
  extract_lets +onlyGivenNames s3
  have h3 : Keeps P W s3 := by
    dsimp -zeta only [s3]
    apply respond_keeps
    refine Keeps.upd (s := s1) ?_ rfl rfl
    exact h1
  clear_value s3
  refine Keeps.ite ?_ ?_
  · exact h3
  · extract_lets +onlyGivenNames s5
    have h5 : Keeps P W s5 := by
      dsimp -zeta only [s5]
      refine Keeps.foldl (fun s15 x15 h15 => ?_) ?_
      · apply mishap_keeps
        exact h15
      · apply endRejoin_keeps
        exact h3
    clear_value s5
    extract_lets +onlyGivenNames s6
    have h6 : Keeps P W s6 := by
      dsimp -zeta only [s6]
      refine Keeps.ite ?_ ?_
      · apply epochBoundary_keeps
        exact h5
      · exact h5
    clear_value s6
    extract_lets +onlyGivenNames s7
    have h7 : Keeps P W s7 := by
      dsimp -zeta only [s7]
      apply settleEvictions_keeps
      apply zeroResidences_keeps
      apply settle_keeps
      exact h6
    clear_value s7
    apply issueAll_keeps
    apply takeViews_keeps
    apply takeHalts_keeps
    apply noteReady_keeps
    refine Keeps.foldl (fun s57 x57 h57 => ?_) ?_
    · apply maskTick_keeps
      exact h57
    · apply eventNotice_keeps
      apply moderateAll_keeps
      apply emitOutputs_keeps
      apply sendHeld_keeps
      exact h7

theorem tick_keeps (x1 : List Mishap) {s : State} (h : Keeps P W s) : Keeps P W (tick x1 s) := by
  unfold tick
  refine Keeps.ite ?_ ?_
  · exact h
  · extract_lets +onlyGivenNames s2
    extract_lets +onlyGivenNames s3
    have h3 : Keeps P W s3 := by
      dsimp -zeta only [s3]
      apply crossBoundary_keeps
      exact h
    clear_value s3
    refine Keeps.ite ?_ ?_
    · apply dumpStep_keeps
      exact h3
    · refine Keeps.ite ?_ ?_
      · apply gateClocks_keeps
        refine Keeps.foldl (fun s43 x43 h43 => ?_) ?_
        · apply startBay_keeps
          exact h43
        · exact h3
      · exact h3

theorem execTick_keeps (x1 : List Mishap) {s : State} (h : Keeps P W s) : KeepsO P W (execTick x1 s) := by
  unfold execTick
  refine KeepsO.next ?_
  apply tick_keeps
  exact h

theorem execEpochBoundary_keeps {s : State} (h : Keeps P W s) : KeepsO P W (execEpochBoundary s) := by
  unfold execEpochBoundary
  refine KeepsO.next ?_
  refine Keeps.ite ?_ ?_
  · apply tick_keeps
    exact h
  · exact h

theorem modMask_keeps {s : State} (x2 : Nat) (x3 : MaskGen → MaskGen) (h : Keeps P W s) : Keeps P W (modMask s x2 x3) := by
  unfold modMask
  apply setUnit_keeps
  exact h

theorem execMaskSeedRequest_keeps (x1 : Fin 4) {s : State} (h : Keeps P W s) : KeepsO P W (execMaskSeedRequest x1 s) := by
  unfold execMaskSeedRequest
  extract_lets +onlyGivenNames s1
  refine KeepsO.next ?_
  refine Keeps.ite ?_ ?_
  · apply modMask_keeps
    exact h
  · exact h

theorem execMaskStateSwap_keeps (x1 : Fin 4) {s : State} (h : Keeps P W s) : KeepsO P W (execMaskStateSwap x1 s) := by
  unfold execMaskStateSwap
  extract_lets +onlyGivenNames s1
  refine KeepsO.next ?_
  refine Keeps.ite ?_ ?_
  · apply modMask_keeps
    exact h
  · exact h

theorem execMaskSeedArrival_keeps (x1 : Fin 4) {s : State} (h : Keeps P W s) : KeepsO P W (execMaskSeedArrival x1 s) := by
  unfold execMaskSeedArrival
  refine KeepsO.next ?_
  refine Keeps.ite ?_ ?_
  · apply modMask_keeps
    exact h
  · exact h

theorem execSharedJobEntropyTimeout_keeps (x1 : JobRef) {s : State} (h : Keeps P W s) : KeepsO P W (execSharedJobEntropyTimeout x1 s) := by
  unfold execSharedJobEntropyTimeout
  extract_lets +onlyGivenNames s1
  refine KeepsO.next ?_
  split
  · refine Keeps.ite ?_ ?_
    · apply failNow_keeps
      exact h
    · exact h
  · exact h

theorem execResidenceWaitExpiry_keeps (x1 : JobRef) {s : State} (h : Keeps P W s) : KeepsO P W (execResidenceWaitExpiry x1 s) := by
  unfold execResidenceWaitExpiry
  extract_lets +onlyGivenNames s1
  refine KeepsO.next ?_
  split
  · extract_lets +onlyGivenNames s2
    split
    · refine Keeps.ite ?_ ?_
      · split
        · split
          · split
            · extract_lets +onlyGivenNames s3
              apply setUnit_keeps
              exact h
            · exact h
          · exact h
        · exact h
      · exact h
    · exact h
  · exact h

theorem dispatchJob_keeps {s : State} (x2 : Nat) (h : Keeps P W s) : Keeps P W (dispatchJob s x2) := by
  unfold dispatchJob
  extract_lets +onlyGivenNames s1
  extract_lets +onlyGivenNames s2
  have h1 : Keeps P W s2 := by
    dsimp -zeta only [s2]
    refine Keeps.upd (s := s) ?_ rfl rfl
    exact h
  clear_value s2
  extract_lets +onlyGivenNames s3
  have h2 : Keeps P W s3 := by
    dsimp -zeta only [s3]
    apply modJob_keeps
    exact h1
  clear_value s3
  split
  · refine Keeps.ite ?_ ?_
    · refine Keeps.upd (s := s3) ?_ rfl rfl
      exact h2
    · exact h2
  · exact h2

theorem execJobDispatch_keeps (x1 : JobRef) {s : State} (h : Keeps P W s) : KeepsO P W (execJobDispatch x1 s) := by
  unfold execJobDispatch
  extract_lets +onlyGivenNames s1
  refine KeepsO.next ?_
  split
  · extract_lets +onlyGivenNames s2
    refine Keeps.ite ?_ ?_
    · refine Keeps.ite ?_ ?_
      · refine Keeps.ite ?_ ?_
        · refine Keeps.ite ?_ ?_
          · apply adminFail_keeps
            exact h
          · apply failNow_keeps
            exact h
        · exact h
      · refine Keeps.ite ?_ ?_
        · exact h
        · apply dispatchJob_keeps
          exact h
    · exact h
  · exact h

end Sys2Proof.Machine
end

