-- ==== Sys2Proof/Laws/KeepsExec.lean ====
section
/-! SUPPORT. The queue and the life-cycle bits are kept by every command: one lemma for each operation. -/
namespace Sys2Proof.Machine
open Sys2Proof

variable {P : List Instr} {W : List W32}

theorem exec_keeps (x1 : Instr) {s : State} (h : Keeps P W s) : KeepsO P W (exec x1 s) := by
  unfold exec
  split
  · apply execPowerOnReset_keeps
    exact h
  · apply execBatteryInsertion_keeps
    exact h
  · apply execPorstNRelease_keeps
    exact h
  · apply execResetStageRelease_keeps
    exact h
  · apply execCorePllLock_keeps
    exact h
  · apply execPllLockTimeout_keeps
    exact h
  · apply execWatchdogExpiry_keeps
    exact h
  · apply execGlobalReset_keeps
    exact h
  · apply execThermalTrip_keeps
    exact h
  · apply execThermalHoldEnd_keeps
    exact h
  · apply execBootGo_keeps
    exact h
  · apply execBootStepComplete_keeps
    exact h
  · apply execLinkReset_keeps
    exact h
  · apply execLinkResetEnd_keeps
    exact h
  · apply execConfigRequest_keeps
    exact h
  · apply execFlr_keeps
    exact h
  · apply execBmeCleared_keeps
    exact h
  · apply execBmeSet_keeps
    exact h
  · apply execD3hotEntry_keeps
    exact h
  · apply execVfEnable_keeps
    exact h
  · apply execVfDisable_keeps
    exact h
  · apply execMsixUnmask_keeps
    exact h
  · apply execBar0AccessSize_keeps
    exact h
  · apply execRegisterWrite_keeps
    exact h
  · apply execAerError_keeps
    exact h
  · apply execHostReadError_keeps
    exact h
  · apply execReadCompletionTimeout_keeps
    exact h
  · apply execLateCompletion_keeps
    exact h
  · apply execPostedCreditStall_keeps
    exact h
  · apply execPostedCreditReturn_keeps
    exact h
  · apply execDoorbell_keeps
    exact h
  · apply execScanRestart_keeps
    exact h
  · apply execLimitResume_keeps
    exact h
  · apply execDescriptorReadIssue_keeps
    exact h
  · apply execEntryArrival_keeps
    exact h
  · apply execDataReadArrival_keeps
    exact h
  · apply execJobPlacement_keeps
    exact h
  · apply execResidenceWaitExpiry_keeps
    exact h
  · apply execJobDispatch_keeps
    exact h
  · apply execJobCompletion_keeps
    exact h
  · apply execMsixModeration_keeps
    exact h
  · apply execTick_keeps
    exact h
  · apply execEpochBoundary_keeps
    exact h
  · apply execMaskSeedRequest_keeps
    exact h
  · apply execMaskStateSwap_keeps
    exact h
  · apply execMaskSeedArrival_keeps
    exact h
  · apply execSharedJobEntropyTimeout_keeps
    exact h
  · apply execAllotCreate_keeps
    exact h
  · apply execAllotDestroy_keeps
    exact h
  · apply execAllotBind_keeps
    exact h
  · apply execQueueCreate_keeps
    exact h
  · apply execQueueDestroy_keeps
    exact h
  · apply execLeaseSet_keeps
    exact h
  · apply execWindowSet_keeps
    exact h
  · apply execAbortJobs_keeps
    exact h
  · apply execAbortReservationDetach_keeps
    exact h
  · apply execKeyAdminDestroy_keeps
    exact h
  · apply execKeyAdminDescribe_keeps
    exact h
  · apply execKeyReservationDetach_keeps
    exact h
  · apply execOpenLoad_keeps
    exact h
  · apply execCurvePolicy_keeps
    exact h
  · apply execTimeSet_keeps
    exact h
  · apply execTamperConfig_keeps
    exact h
  · apply execTamperClear_keeps
    exact h
  · apply execLcAdvance_keeps
    exact h
  · apply execDebugUnlockNonce_keeps
    exact h
  · apply execDebugUnlockToken_keeps
    exact h
  · apply execBistRun_keeps
    exact h
  · apply execBistPartStart_keeps
    exact h
  · apply execBistPartEnd_keeps
    exact h
  · apply execRngRawMode_keeps
    exact h
  · apply execVaultFormat_keeps
    exact h
  · apply execVaultMount_keeps
    exact h
  · apply execVaultUnmount_keeps
    exact h
  · apply execTwinPair_keeps
    exact h
  · apply execTwinPairTimeout_keeps
    exact h
  · apply execTwinSolo_keeps
    exact h
  · apply execTwinRejoin_keeps
    exact h
  · apply execRejoinTimeout_keeps
    exact h
  · apply execPatchStatus_keeps
    exact h
  · apply execAttestEnrol_keeps
    exact h
  · apply execMlKemKeygen_keeps
    exact h
  · apply execMlKemEncaps_keeps
    exact h
  · apply execMlKemDecaps_keeps
    exact h
  · apply execMlDsaKeygen_keeps
    exact h
  · apply execMlDsaSign_keeps
    exact h
  · apply execMlDsaVerify_keeps
    exact h
  · apply execMlDsaSignPh_keeps
    exact h
  · apply execMlDsaVerifyPh_keeps
    exact h
  · apply execFnDsaSign_keeps
    exact h
  · apply execFnDsaVerify_keeps
    exact h
  · apply execFnDsaSignPh_keeps
    exact h
  · apply execFnDsaVerifyPh_keeps
    exact h
  · apply execSlhDsaKeygen_keeps
    exact h
  · apply execSlhDsaSign_keeps
    exact h
  · apply execSlhDsaVerify_keeps
    exact h
  · apply execSlhDsaSignPh_keeps
    exact h
  · apply execSlhDsaVerifyPh_keeps
    exact h
  · apply execLmsKeygen_keeps
    exact h
  · apply execLmsSign_keeps
    exact h
  · apply execLmsVerify_keeps
    exact h
  · apply execXmssKeygen_keeps
    exact h
  · apply execXmssSign_keeps
    exact h
  · apply execXmssVerify_keeps
    exact h
  · apply execMcelieceKeygen_keeps
    exact h
  · apply execMcelieceEncaps_keeps
    exact h
  · apply execMcelieceDecaps_keeps
    exact h
  · apply execKeyReside_keeps
    exact h
  · apply execHqcKeygen_keeps
    exact h
  · apply execHqcEncaps_keeps
    exact h
  · apply execHqcDecaps_keeps
    exact h
  · apply execEcdsaKeygen_keeps
    exact h
  · apply execEcdsaSign_keeps
    exact h
  · apply execEcdsaVerify_keeps
    exact h
  · apply execEcdhAgree_keeps
    exact h
  · apply execCurveLoad_keeps
    exact h
  · apply execCurveUnload_keeps
    exact h
  · apply execEdwardsKeygen_keeps
    exact h
  · apply execEdwardsSign_keeps
    exact h
  · apply execEdwardsVerify_keeps
    exact h
  · apply execMontgomeryAgree_keeps
    exact h
  · apply execRsaSignV15_keeps
    exact h
  · apply execRsaVerifyV15_keeps
    exact h
  · apply execRsaSignPss_keeps
    exact h
  · apply execRsaVerifyPss_keeps
    exact h
  · apply execRsaEncryptOaep_keeps
    exact h
  · apply execRsaDecryptOaep_keeps
    exact h
  · apply execBnAdd_keeps
    exact h
  · apply execBnSub_keeps
    exact h
  · apply execBnMul_keeps
    exact h
  · apply execBnInv_keeps
    exact h
  · apply execBnExp_keeps
    exact h
  · apply execBnClear_keeps
    exact h
  · apply execDigestInit_keeps
    exact h
  · apply execKeyedInit_keeps
    exact h
  · apply execDigestUpdate_keeps
    exact h
  · apply execDigestFinal_keeps
    exact h
  · apply execStateExport_keeps
    exact h
  · apply execStateImport_keeps
    exact h
  · apply execKeyedStateImport_keeps
    exact h
  · apply execKeyedPrepare_keeps
    exact h
  · apply execReleaseSlot_keeps
    exact h
  · apply execSealPubkey_keeps
    exact h
  · apply execSealOpen_keeps
    exact h
  · apply execImportKey_keeps
    exact h
  · apply execAuthImport_keeps
    exact h
  · apply execGenerateKey_keeps
    exact h
  · apply execWrap_keeps
    exact h
  · apply execUnwrap_keeps
    exact h
  · apply execPublicPart_keeps
    exact h
  · apply execDestroyKey_keeps
    exact h
  · apply execDescribeKey_keeps
    exact h
  · apply execFumelQuote_keeps
    exact h
  · apply execNotarise_keeps
    exact h
  · apply execJournalKey_keeps
    exact h
  · apply execOpenRoutineCall_keeps
    exact h
  · apply execVsetvl_keeps
    exact h
  · apply execVsettype_keeps
    exact h
  · apply execVsetmod_keeps
    exact h
  · apply execVlds_keeps
    exact h
  · apply execVsts_keeps
    exact h
  · apply execVxfer_keeps
    exact h
  · apply execVadd_keeps
    exact h
  · apply execVsub_keeps
    exact h
  · apply execVneg_keeps
    exact h
  · apply execVred_keeps
    exact h
  · apply execVmul_keeps
    exact h
  · apply execVmac_keeps
    exact h
  · apply execVmulc_keeps
    exact h
  · apply execVand_keeps
    exact h
  · apply execVor_keeps
    exact h
  · apply execVxor_keeps
    exact h
  · apply execVsll_keeps
    exact h
  · apply execVsrl_keeps
    exact h
  · apply execVsra_keeps
    exact h
  · apply execVrol_keeps
    exact h
  · apply execVbflyCt_keeps
    exact h
  · apply execVbflyGs_keeps
    exact h
  · apply execVperm_keeps
    exact h
  · apply execVcmp_keeps
    exact h
  · apply execVcompress_keeps
    exact h
  · apply execVxofInit_keeps
    exact h
  · apply execVxofAbsorb_keeps
    exact h
  · apply execVxofFinalise_keeps
    exact h
  · apply execVsampu_keeps
    exact h
  · apply execVcbd_keeps
    exact h
  · apply execVsplit_keeps
    exact h
  · apply execVrefresh_keeps
    exact h
  · apply execVunmask_keeps
    exact h
  · apply execVpublish_keeps
    exact h
  · apply execVunmaskM_keeps
    exact h
  · apply execVpublishM_keeps
    exact h
  · apply execVa2b_keeps
    exact h
  · apply execVb2a_keeps
    exact h
  · apply execVmand_keeps
    exact h
  · apply execVmor_keeps
    exact h
  · apply execVmeq_keeps
    exact h
  · apply execVmbnd_keeps
    exact h
  · apply execVmcomp_keeps
    exact h
  · apply execVmdcmp_keeps
    exact h
  · apply execKload_keeps
    exact h
  · apply execSadd_keeps
    exact h
  · apply execSsub_keeps
    exact h
  · apply execSand_keeps
    exact h
  · apply execSor_keeps
    exact h
  · apply execSxor_keeps
    exact h
  · apply execSsll_keeps
    exact h
  · apply execSsrl_keeps
    exact h
  · apply execSli_keeps
    exact h
  · apply execSlih_keeps
    exact h
  · apply execSaddi_keeps
    exact h
  · apply execSbne_keeps
    exact h
  · apply execSbeq_keeps
    exact h
  · apply execCommitSlice_keeps
    exact h
  · apply execEndRoutine_keeps
    exact h
  · apply execCallmStartAbsorb_keeps
    exact h
  · apply execCallmAbsorb_keeps
    exact h
  · apply execCallmAbsorbFinalise_keeps
    exact h
  · apply execCallmStartFinalise_keeps
    exact h
  · apply execBlockReset_keeps
    exact h
  · apply execBlockResetReturn_keeps
    exact h
  · apply execFatalError_keeps
    exact h
  · apply execDumpWindowExpiry_keeps
    exact h
  · apply execEventRecordWrite_keeps
    exact h
  · apply execEvtEnable_keeps
    exact h
  · apply execEvtNoticeClear_keeps
    exact h
  · apply execEvtNoticeSet_keeps
    exact h
  · apply execFfcValidClear_keeps
    exact h
  · apply execAdmRingEnable_keeps
    exact h
  · apply execAdmRingDisable_keeps
    exact h
  · apply execAdmDrainEnd_keeps
    exact h
  · apply execBstSelWrite_keeps
    exact h
  · apply execGhAlertClear_keeps
    exact h
  · apply execDbgHalt_keeps
    exact h
  · apply execJtagOtpProgram_keeps
    exact h
  · apply execJtagDumpReadout_keeps
    exact h
  · apply execSmbusReadWord_keeps
    exact h
  · apply execSmbusAlertResponse_keeps
    exact h
  · apply execRngLimitWrite_keeps
    exact h
  · apply execRngPatternEnable_keeps
    exact h
  · apply execSdlThreshWrite_keeps
    exact h
  · apply execStartupExpired_keeps
    exact h
  · apply execHealthTestFailure_keeps
    exact h
  · apply execTestWindowEnd_keeps
    exact h
  · apply execChunkPeriod_keeps
    exact h
  · apply execGenerateSlot_keeps
    exact h
  · apply execDrawTimeout_keeps
    exact h
  · apply execRefreshGeneratorReseed_keeps
    exact h
  · apply execIcehouseHoldExpired_keeps
    exact h
  · apply execIcehouseResume_keeps
    exact h
  · apply execHardEvent_keeps
    exact h
  · apply execSoftEvent_keeps
    exact h
  · apply execExcursionEnd_keeps
    exact h
  · apply execRateWindowEnd_keeps
    exact h
  · apply execDetectorDisagreement_keeps
    exact h
  · apply execTamperResponse_keeps
    exact h
  · apply execQuiesceEnd_keeps
    exact h
  · apply execLodgeAlarmWhileOff_keeps
    exact h
  · apply execAppendSlot_keeps
    exact h
  · apply execHousekeepingMediaSlot_keeps
    exact h
  · apply execEraseSlot_keeps
    exact h
  · apply execPageProgramDone_keeps
    exact h
  · apply execCodewordDecode_keeps
    exact h
  · apply execFifoTailTimeout_keeps
    exact h
  · apply execDieTimeout_keeps
    exact h
  · apply execBlockRefresh_keeps
    exact h
  · apply execScrubDue_keeps
    exact h
  · apply execHeadSignatureReady_keeps
    exact h
  · apply execJournalExportWrite_keeps
    exact h
  · apply execJxEnable_keeps
    exact h
  · apply execJxDisable_keeps
    exact h
  · apply execJxReplay_keeps
    exact h
  · apply execLinkUp_keeps
    exact h
  · apply execLinkDown_keeps
    exact h
  · apply execLinkRetrain_keeps
    exact h
  · apply execFbPresentChange_keeps
    exact h
  · apply execLinkNakTimeout_keeps
    exact h
  · apply execBridgeSlot_keeps
    exact h
  · apply execHello_keeps
    exact h
  · apply execKemEk_keeps
    exact h
  · apply execKemCt_keeps
    exact h
  · apply execAuthFrame_keeps
    exact h
  · apply execStateItem_keeps
    exact h
  · apply execStateEnd_keeps
    exact h
  · apply execPrepare_keeps
    exact h
  · apply execAck_keeps
    exact h
  · apply execNak_keeps
    exact h
  · apply execFrameCommit_keeps
    exact h
  · apply execAbandon_keeps
    exact h
  · apply execCommitTimeout_keeps
    exact h
  · apply execHeartbeat_keeps
    exact h
  · apply execHeartbeatDeadline_keeps
    exact h
  · apply execTamperNotice_keeps
    exact h
  · apply execSolo_keeps
    exact h
  · apply execLinkNak_keeps
    exact h
  · apply execLinkNonce_keeps
    exact h
  · apply execRejoinReq_keeps
    exact h
  · apply execReplay_keeps
    exact h
  · apply execReplayEnd_keeps
    exact h
  · apply execSundialMeasurement_keeps
    exact h
  · apply execStepUpWindowEnd_keeps
    exact h
  · apply execGlitchReferenceUpdate_keeps
    exact h
  · apply execThermalThrottle_keeps
    exact h
  · apply execThermalCapEnd_keeps
    exact h
  · apply execHistoryPeriodic_keeps
    exact h
  · apply execBatteryRemoval_keeps
    exact h
  · apply execLpoCycle_keeps
    exact h
  · apply execLinkTrainingEnd_keeps
    exact h
  · apply execD0Return_keeps
    exact h
  · apply execEraseDone_keeps
    exact h

end Sys2Proof.Machine
end

