-- ==== Sys2Proof/Laws/Memory.lean ====
section
/-! SUPPORT. Laws of the plot memory: a read after a write, and that every operation keeps the canonical form. -/
namespace Sys2Proof.Machine
open Sys2Proof

/-! ## Reading after a write -/

@[simp] theorem Memory.read_nil (i : Nat) : Memory.read [] i = 0 := rfl

theorem Memory.read_of_above {m : Memory} {b i : Nat} (h : Memory.above b m = true) (hi : i < b) : Memory.read m i = 0 := by
  induction m generalizing b with
  | nil => rfl
  | cons p m ih =>
    obtain ⟨a, v⟩ := p
    simp only [Memory.above, Bool.and_eq_true, decide_eq_true_eq] at h
    simp only [Memory.read, show ¬ i = a by omega, if_false]
    exact ih h.2 (by omega)

@[simp] theorem Memory.read_insert_same (m : Memory) (i : Nat) (b : Byte) : Memory.read (Memory.insert m i b) i = b := by
  induction m with
  | nil => simp [Memory.insert, Memory.read]
  | cons p m ih =>
    obtain ⟨a, v⟩ := p
    simp only [Memory.insert]
    split
    · simp [Memory.read]
    · split
      · simp [Memory.read]
      · simp_all [Memory.read]

theorem Memory.read_insert_ne (m : Memory) {i k : Nat} (b : Byte) (h : i ≠ k) :
    Memory.read (Memory.insert m k b) i = Memory.read m i := by
  induction m with
  | nil => simp [Memory.insert, Memory.read, h]
  | cons p m ih =>
    obtain ⟨a, v⟩ := p
    simp only [Memory.insert]
    split
    · simp [Memory.read, h]
    · split
      · subst_vars; simp [Memory.read, h]
      · simp [Memory.read, ih]

theorem Memory.read_erase_ne (m : Memory) {i k : Nat} (h : i ≠ k) : Memory.read (Memory.erase m k) i = Memory.read m i := by
  induction m with
  | nil => rfl
  | cons p m ih =>
    obtain ⟨a, v⟩ := p
    simp only [Memory.erase]
    split
    · subst_vars; simp [Memory.read, h]
    · simp [Memory.read, ih]

theorem Memory.read_erase_above {m : Memory} {b : Nat} (i : Nat) (h : Memory.above b m = true) :
    Memory.read (Memory.erase m i) i = 0 := by
  induction m generalizing b with
  | nil => rfl
  | cons p m ih =>
    obtain ⟨a, v⟩ := p
    simp only [Memory.above, Bool.and_eq_true, decide_eq_true_eq] at h
    simp only [Memory.erase]
    split
    · subst_vars; exact Memory.read_of_above h.2 (by omega)
    · rename_i hi
      simp only [Memory.read, hi, if_false]
      exact ih h.2

/-- A byte reads as it was last written. -/
theorem Memory.read_write_same {m : Memory} (i : Nat) (b : Byte) (h : m.wf = true) : Memory.read (m.write i b) i = b := by
  simp only [Memory.write]
  split
  · subst_vars; exact Memory.read_erase_above i h
  · simp

/-- A write leaves every other byte alone. -/
theorem Memory.read_write_ne (m : Memory) {i k : Nat} (b : Byte) (h : i ≠ k) : Memory.read (m.write k b) i = Memory.read m i := by
  simp only [Memory.write]
  split
  · exact Memory.read_erase_ne m h
  · exact Memory.read_insert_ne m b h

/-! ## The canonical form is kept -/

theorem Memory.above_weaken {m : Memory} {b c : Nat} (h : Memory.above b m = true) (hc : c ≤ b) : Memory.above c m = true := by
  cases m with
  | nil => rfl
  | cons p m =>
    simp only [Memory.above, Bool.and_eq_true, decide_eq_true_eq] at h ⊢
    exact ⟨⟨by omega, h.1.2⟩, h.2⟩

theorem Memory.above_insert {m : Memory} {b i : Nat} {v : Byte} (h : Memory.above b m = true) (hi : b ≤ i) (hv : v ≠ 0) :
    Memory.above b (Memory.insert m i v) = true := by
  induction m generalizing b with
  | nil => simpa [Memory.insert, Memory.above, hi] using hv
  | cons p m ih =>
    obtain ⟨a, w⟩ := p
    simp only [Memory.above, Bool.and_eq_true, decide_eq_true_eq] at h
    simp only [Memory.insert]
    split
    · simp only [Memory.above, Bool.and_eq_true, decide_eq_true_eq]
      exact ⟨⟨hi, hv⟩, ⟨by omega, h.1.2⟩, h.2⟩
    · split
      · subst_vars; simp only [Memory.above, Bool.and_eq_true, decide_eq_true_eq]; exact ⟨⟨hi, hv⟩, h.2⟩
      · simp only [Memory.above, Bool.and_eq_true, decide_eq_true_eq]
        exact ⟨h.1, ih h.2 (by omega)⟩

theorem Memory.above_erase {m : Memory} {b : Nat} (i : Nat) (h : Memory.above b m = true) :
    Memory.above b (Memory.erase m i) = true := by
  induction m generalizing b with
  | nil => rfl
  | cons p m ih =>
    obtain ⟨a, w⟩ := p
    simp only [Memory.above, Bool.and_eq_true, decide_eq_true_eq] at h
    simp only [Memory.erase]
    split
    · exact Memory.above_weaken h.2 (by omega)
    · simp only [Memory.above, Bool.and_eq_true, decide_eq_true_eq]; exact ⟨h.1, ih h.2⟩

theorem Memory.wf_write {m : Memory} (i : Nat) (b : Byte) (h : m.wf = true) : (m.write i b).wf = true := by
  simp only [Memory.write]
  split
  · exact Memory.above_erase i h
  · rename_i hb; exact Memory.above_insert h (Nat.zero_le _) hb

theorem Memory.wf_writeBytes {m : Memory} (i : Nat) (l : List Byte) (h : m.wf = true) : (m.writeBytes i l).wf = true := by
  induction l generalizing m i with
  | nil => exact h
  | cons b l ih => exact ih (i + 1) (Memory.wf_write i b h)

theorem Memory.read_writeBytes_ne (m : Memory) (i : Nat) (l : List Byte) {k : Nat} (h : k < i ∨ i + l.length ≤ k) :
    Memory.read (m.writeBytes i l) k = Memory.read m k := by
  induction l generalizing m i with
  | nil => rfl
  | cons b l ih =>
    simp only [List.length_cons] at h
    simp only [Memory.writeBytes]
    rw [ih (m.write i b) (i + 1) (by omega)]
    exact Memory.read_write_ne m b (by omega)

theorem Memory.read_writeBytes {m : Memory} (i : Nat) (l : List Byte) (h : m.wf = true) {d : Nat} (hd : d < l.length) :
    Memory.read (m.writeBytes i l) (i + d) = l.getD d 0 := by
  induction l generalizing m i d with
  | nil => simp at hd
  | cons b l ih =>
    simp only [List.length_cons] at hd
    simp only [Memory.writeBytes]
    cases d with
    | zero =>
      rw [Memory.read_writeBytes_ne _ _ _ (by omega)]
      simpa using Memory.read_write_same i b h
    | succ d =>
      have := ih (i + 1) (Memory.wf_write i b h) (d := d) (by omega)
      rw [show i + (d + 1) = i + 1 + d by omega, this]
      simp

@[simp] theorem Memory.length_readBytes (m : Memory) (i n : Nat) : (m.readBytes i n).length = n := by simp [Memory.readBytes]

/-- A plot's memory stays in canonical form when a half or a run of bytes is written. -/
theorem Plot.wf_putHalf {p : Plot} (k : Nat) (v : W32) (pr : Bool) (h : Memory.wf p.mem = true) :
    Memory.wf (p.putHalf k v pr).mem = true := Memory.wf_writeBytes _ _ h

theorem Plot.wf_fill {p : Plot} (i : Nat) (bs : List Byte) (h : Memory.wf p.mem = true) : Memory.wf (p.fill i bs).mem = true :=
  Memory.wf_writeBytes _ _ h

theorem Plot.half_putHalf_ne (p : Plot) {k n : Nat} (v : W32) (pr : Bool) (h : n ≠ k) : (p.putHalf k v pr).half n = p.half n := by
  simp only [Plot.half, Plot.putHalf, Memory.readBytes]
  congr 2
  apply List.map_congr_left
  intro d hd
  have := List.mem_range.mp hd
  exact Memory.read_writeBytes_ne _ _ _ (by simp only [leBytes, List.length_cons, List.length_nil]; omega)

theorem Plot.half_putHalf_same {p : Plot} (k : Nat) (v : W32) (pr : Bool) (h : Memory.wf p.mem = true) :
    (p.putHalf k v pr).half k = v := by
  have e : ∀ d, d < 4 → Memory.read (p.putHalf k v pr).mem (4 * k + d) = (leBytes 4 v.toNat).getD d 0 := fun d hd =>
    Memory.read_writeBytes (4 * k) (leBytes 4 v.toNat) h (by simpa [leBytes] using hd)
  simp only [Plot.half, Memory.readBytes, List.range_succ, List.range_zero, List.nil_append, List.cons_append, List.map_cons,
    List.map_nil, e 0 (by omega), e 1 (by omega), e 2 (by omega), e 3 (by omega)]
  apply BitVec.eq_of_toNat_eq
  have := v.isLt
  simp [leBytes, leNat]
  omega

/-- The plots of the machine after reset hold nothing, in canonical form. -/
theorem State.reset_plots : State.reset.plots = [] ∧ Memory.wf Plot.zero.mem = true := ⟨rfl, rfl⟩

end Sys2Proof.Machine
end

