-- ==== Sys2Proof/Laws/State.lean ====
section
/-! SUPPORT. Laws of the state: what each shared update leaves unchanged, field by field. -/
namespace Sys2Proof.Machine
open Sys2Proof

/-! ## A command put in front -/

@[simp] theorem push_freeCount (s : State) (c : Instr) : (State.push c s).freeCount = s.freeCount := rfl
@[simp] theorem push_boot (s : State) (c : Instr) : (State.push c s).boot = s.boot := rfl
@[simp] theorem push_clocks (s : State) (c : Instr) : (State.push c s).clocks = s.clocks := rfl
@[simp] theorem push_otp (s : State) (c : Instr) : (State.push c s).otp = s.otp := rfl
@[simp] theorem push_lc (s : State) (c : Instr) : (State.push c s).lc = s.lc := rfl
@[simp] theorem push_lodge (s : State) (c : Instr) : (State.push c s).lodge = s.lodge := rfl
@[simp] theorem push_gh (s : State) (c : Instr) : (State.push c s).gh = s.gh := rfl
@[simp] theorem push_link (s : State) (c : Instr) : (State.push c s).link = s.link := rfl
@[simp] theorem push_regs (s : State) (c : Instr) : (State.push c s).regs = s.regs := rfl
@[simp] theorem push_sched (s : State) (c : Instr) : (State.push c s).sched = s.sched := rfl
@[simp] theorem push_units (s : State) (c : Instr) : (State.push c s).units = s.units := rfl
@[simp] theorem push_allots (s : State) (c : Instr) : (State.push c s).allots = s.allots := rfl
@[simp] theorem push_queues (s : State) (c : Instr) : (State.push c s).queues = s.queues := rfl
@[simp] theorem push_jobs (s : State) (c : Instr) : (State.push c s).jobs = s.jobs := rfl
@[simp] theorem push_ice (s : State) (c : Instr) : (State.push c s).ice = s.ice := rfl
@[simp] theorem push_digests (s : State) (c : Instr) : (State.push c s).digests = s.digests := rfl
@[simp] theorem push_curves (s : State) (c : Instr) : (State.push c s).curves = s.curves := rfl
@[simp] theorem push_kept (s : State) (c : Instr) : (State.push c s).kept = s.kept := rfl
@[simp] theorem push_stores (s : State) (c : Instr) : (State.push c s).stores = s.stores := rfl
@[simp] theorem push_plots (s : State) (c : Instr) : (State.push c s).plots = s.plots := rfl
@[simp] theorem push_swm (s : State) (c : Instr) : (State.push c s).swm = s.swm := rfl
@[simp] theorem push_evicted (s : State) (c : Instr) : (State.push c s).evicted = s.evicted := rfl
@[simp] theorem push_bodies (s : State) (c : Instr) : (State.push c s).bodies = s.bodies := rfl
@[simp] theorem push_fountain (s : State) (c : Instr) : (State.push c s).fountain = s.fountain := rfl
@[simp] theorem push_events (s : State) (c : Instr) : (State.push c s).events = s.events := rfl
@[simp] theorem push_dump (s : State) (c : Instr) : (State.push c s).dump = s.dump := rfl
@[simp] theorem push_bist (s : State) (c : Instr) : (State.push c s).bist = s.bist := rfl
@[simp] theorem push_journal (s : State) (c : Instr) : (State.push c s).journal = s.journal := rfl
@[simp] theorem push_vault (s : State) (c : Instr) : (State.push c s).vault = s.vault := rfl
@[simp] theorem push_bridge (s : State) (c : Instr) : (State.push c s).bridge = s.bridge := rfl
@[simp] theorem push_sundial (s : State) (c : Instr) : (State.push c s).sundial = s.sundial := rfl

/-! ## A unit's state -/

@[simp] theorem setUnit_pending (s : State) (u : Nat) (v : UnitSt) : (setUnit s u v).pending = s.pending := rfl
@[simp] theorem setUnit_freeCount (s : State) (u : Nat) (v : UnitSt) : (setUnit s u v).freeCount = s.freeCount := rfl
@[simp] theorem setUnit_boot (s : State) (u : Nat) (v : UnitSt) : (setUnit s u v).boot = s.boot := rfl
@[simp] theorem setUnit_clocks (s : State) (u : Nat) (v : UnitSt) : (setUnit s u v).clocks = s.clocks := rfl
@[simp] theorem setUnit_otp (s : State) (u : Nat) (v : UnitSt) : (setUnit s u v).otp = s.otp := rfl
@[simp] theorem setUnit_lc (s : State) (u : Nat) (v : UnitSt) : (setUnit s u v).lc = s.lc := rfl
@[simp] theorem setUnit_lodge (s : State) (u : Nat) (v : UnitSt) : (setUnit s u v).lodge = s.lodge := rfl
@[simp] theorem setUnit_gh (s : State) (u : Nat) (v : UnitSt) : (setUnit s u v).gh = s.gh := rfl
@[simp] theorem setUnit_link (s : State) (u : Nat) (v : UnitSt) : (setUnit s u v).link = s.link := rfl
@[simp] theorem setUnit_regs (s : State) (u : Nat) (v : UnitSt) : (setUnit s u v).regs = s.regs := rfl
@[simp] theorem setUnit_sched (s : State) (u : Nat) (v : UnitSt) : (setUnit s u v).sched = s.sched := rfl
@[simp] theorem setUnit_allots (s : State) (u : Nat) (v : UnitSt) : (setUnit s u v).allots = s.allots := rfl
@[simp] theorem setUnit_queues (s : State) (u : Nat) (v : UnitSt) : (setUnit s u v).queues = s.queues := rfl
@[simp] theorem setUnit_jobs (s : State) (u : Nat) (v : UnitSt) : (setUnit s u v).jobs = s.jobs := rfl
@[simp] theorem setUnit_ice (s : State) (u : Nat) (v : UnitSt) : (setUnit s u v).ice = s.ice := rfl
@[simp] theorem setUnit_digests (s : State) (u : Nat) (v : UnitSt) : (setUnit s u v).digests = s.digests := rfl
@[simp] theorem setUnit_curves (s : State) (u : Nat) (v : UnitSt) : (setUnit s u v).curves = s.curves := rfl
@[simp] theorem setUnit_kept (s : State) (u : Nat) (v : UnitSt) : (setUnit s u v).kept = s.kept := rfl
@[simp] theorem setUnit_stores (s : State) (u : Nat) (v : UnitSt) : (setUnit s u v).stores = s.stores := rfl
@[simp] theorem setUnit_plots (s : State) (u : Nat) (v : UnitSt) : (setUnit s u v).plots = s.plots := rfl
@[simp] theorem setUnit_swm (s : State) (u : Nat) (v : UnitSt) : (setUnit s u v).swm = s.swm := rfl
@[simp] theorem setUnit_evicted (s : State) (u : Nat) (v : UnitSt) : (setUnit s u v).evicted = s.evicted := rfl
@[simp] theorem setUnit_bodies (s : State) (u : Nat) (v : UnitSt) : (setUnit s u v).bodies = s.bodies := rfl
@[simp] theorem setUnit_fountain (s : State) (u : Nat) (v : UnitSt) : (setUnit s u v).fountain = s.fountain := rfl
@[simp] theorem setUnit_events (s : State) (u : Nat) (v : UnitSt) : (setUnit s u v).events = s.events := rfl
@[simp] theorem setUnit_dump (s : State) (u : Nat) (v : UnitSt) : (setUnit s u v).dump = s.dump := rfl
@[simp] theorem setUnit_bist (s : State) (u : Nat) (v : UnitSt) : (setUnit s u v).bist = s.bist := rfl
@[simp] theorem setUnit_journal (s : State) (u : Nat) (v : UnitSt) : (setUnit s u v).journal = s.journal := rfl
@[simp] theorem setUnit_vault (s : State) (u : Nat) (v : UnitSt) : (setUnit s u v).vault = s.vault := rfl
@[simp] theorem setUnit_bridge (s : State) (u : Nat) (v : UnitSt) : (setUnit s u v).bridge = s.bridge := rfl
@[simp] theorem setUnit_sundial (s : State) (u : Nat) (v : UnitSt) : (setUnit s u v).sundial = s.sundial := rfl

/-! ## A slice body -/

@[simp] theorem setBody_pending (s : State) (u : Nat) (b : Body) : (setBody s u b).pending = s.pending := rfl
@[simp] theorem setBody_freeCount (s : State) (u : Nat) (b : Body) : (setBody s u b).freeCount = s.freeCount := rfl
@[simp] theorem setBody_boot (s : State) (u : Nat) (b : Body) : (setBody s u b).boot = s.boot := rfl
@[simp] theorem setBody_clocks (s : State) (u : Nat) (b : Body) : (setBody s u b).clocks = s.clocks := rfl
@[simp] theorem setBody_otp (s : State) (u : Nat) (b : Body) : (setBody s u b).otp = s.otp := rfl
@[simp] theorem setBody_lc (s : State) (u : Nat) (b : Body) : (setBody s u b).lc = s.lc := rfl
@[simp] theorem setBody_lodge (s : State) (u : Nat) (b : Body) : (setBody s u b).lodge = s.lodge := rfl
@[simp] theorem setBody_gh (s : State) (u : Nat) (b : Body) : (setBody s u b).gh = s.gh := rfl
@[simp] theorem setBody_link (s : State) (u : Nat) (b : Body) : (setBody s u b).link = s.link := rfl
@[simp] theorem setBody_regs (s : State) (u : Nat) (b : Body) : (setBody s u b).regs = s.regs := rfl
@[simp] theorem setBody_sched (s : State) (u : Nat) (b : Body) : (setBody s u b).sched = s.sched := rfl
@[simp] theorem setBody_units (s : State) (u : Nat) (b : Body) : (setBody s u b).units = s.units := rfl
@[simp] theorem setBody_allots (s : State) (u : Nat) (b : Body) : (setBody s u b).allots = s.allots := rfl
@[simp] theorem setBody_queues (s : State) (u : Nat) (b : Body) : (setBody s u b).queues = s.queues := rfl
@[simp] theorem setBody_jobs (s : State) (u : Nat) (b : Body) : (setBody s u b).jobs = s.jobs := rfl
@[simp] theorem setBody_ice (s : State) (u : Nat) (b : Body) : (setBody s u b).ice = s.ice := rfl
@[simp] theorem setBody_digests (s : State) (u : Nat) (b : Body) : (setBody s u b).digests = s.digests := rfl
@[simp] theorem setBody_curves (s : State) (u : Nat) (b : Body) : (setBody s u b).curves = s.curves := rfl
@[simp] theorem setBody_kept (s : State) (u : Nat) (b : Body) : (setBody s u b).kept = s.kept := rfl
@[simp] theorem setBody_stores (s : State) (u : Nat) (b : Body) : (setBody s u b).stores = s.stores := rfl
@[simp] theorem setBody_plots (s : State) (u : Nat) (b : Body) : (setBody s u b).plots = s.plots := rfl
@[simp] theorem setBody_swm (s : State) (u : Nat) (b : Body) : (setBody s u b).swm = s.swm := rfl
@[simp] theorem setBody_evicted (s : State) (u : Nat) (b : Body) : (setBody s u b).evicted = s.evicted := rfl
@[simp] theorem setBody_fountain (s : State) (u : Nat) (b : Body) : (setBody s u b).fountain = s.fountain := rfl
@[simp] theorem setBody_events (s : State) (u : Nat) (b : Body) : (setBody s u b).events = s.events := rfl
@[simp] theorem setBody_dump (s : State) (u : Nat) (b : Body) : (setBody s u b).dump = s.dump := rfl
@[simp] theorem setBody_bist (s : State) (u : Nat) (b : Body) : (setBody s u b).bist = s.bist := rfl
@[simp] theorem setBody_journal (s : State) (u : Nat) (b : Body) : (setBody s u b).journal = s.journal := rfl
@[simp] theorem setBody_vault (s : State) (u : Nat) (b : Body) : (setBody s u b).vault = s.vault := rfl
@[simp] theorem setBody_bridge (s : State) (u : Nat) (b : Body) : (setBody s u b).bridge = s.bridge := rfl
@[simp] theorem setBody_sundial (s : State) (u : Nat) (b : Body) : (setBody s u b).sundial = s.sundial := rfl

/-! ## A function's configuration -/

@[simp] theorem setFunc_pending (s : State) (f : Nat) (v : Func) : (setFunc s f v).pending = s.pending := rfl
@[simp] theorem setFunc_freeCount (s : State) (f : Nat) (v : Func) : (setFunc s f v).freeCount = s.freeCount := rfl
@[simp] theorem setFunc_boot (s : State) (f : Nat) (v : Func) : (setFunc s f v).boot = s.boot := rfl
@[simp] theorem setFunc_clocks (s : State) (f : Nat) (v : Func) : (setFunc s f v).clocks = s.clocks := rfl
@[simp] theorem setFunc_otp (s : State) (f : Nat) (v : Func) : (setFunc s f v).otp = s.otp := rfl
@[simp] theorem setFunc_lc (s : State) (f : Nat) (v : Func) : (setFunc s f v).lc = s.lc := rfl
@[simp] theorem setFunc_lodge (s : State) (f : Nat) (v : Func) : (setFunc s f v).lodge = s.lodge := rfl
@[simp] theorem setFunc_gh (s : State) (f : Nat) (v : Func) : (setFunc s f v).gh = s.gh := rfl
@[simp] theorem setFunc_regs (s : State) (f : Nat) (v : Func) : (setFunc s f v).regs = s.regs := rfl
@[simp] theorem setFunc_sched (s : State) (f : Nat) (v : Func) : (setFunc s f v).sched = s.sched := rfl
@[simp] theorem setFunc_units (s : State) (f : Nat) (v : Func) : (setFunc s f v).units = s.units := rfl
@[simp] theorem setFunc_allots (s : State) (f : Nat) (v : Func) : (setFunc s f v).allots = s.allots := rfl
@[simp] theorem setFunc_queues (s : State) (f : Nat) (v : Func) : (setFunc s f v).queues = s.queues := rfl
@[simp] theorem setFunc_jobs (s : State) (f : Nat) (v : Func) : (setFunc s f v).jobs = s.jobs := rfl
@[simp] theorem setFunc_ice (s : State) (f : Nat) (v : Func) : (setFunc s f v).ice = s.ice := rfl
@[simp] theorem setFunc_digests (s : State) (f : Nat) (v : Func) : (setFunc s f v).digests = s.digests := rfl
@[simp] theorem setFunc_curves (s : State) (f : Nat) (v : Func) : (setFunc s f v).curves = s.curves := rfl
@[simp] theorem setFunc_kept (s : State) (f : Nat) (v : Func) : (setFunc s f v).kept = s.kept := rfl
@[simp] theorem setFunc_stores (s : State) (f : Nat) (v : Func) : (setFunc s f v).stores = s.stores := rfl
@[simp] theorem setFunc_plots (s : State) (f : Nat) (v : Func) : (setFunc s f v).plots = s.plots := rfl
@[simp] theorem setFunc_swm (s : State) (f : Nat) (v : Func) : (setFunc s f v).swm = s.swm := rfl
@[simp] theorem setFunc_evicted (s : State) (f : Nat) (v : Func) : (setFunc s f v).evicted = s.evicted := rfl
@[simp] theorem setFunc_bodies (s : State) (f : Nat) (v : Func) : (setFunc s f v).bodies = s.bodies := rfl
@[simp] theorem setFunc_fountain (s : State) (f : Nat) (v : Func) : (setFunc s f v).fountain = s.fountain := rfl
@[simp] theorem setFunc_events (s : State) (f : Nat) (v : Func) : (setFunc s f v).events = s.events := rfl
@[simp] theorem setFunc_dump (s : State) (f : Nat) (v : Func) : (setFunc s f v).dump = s.dump := rfl
@[simp] theorem setFunc_bist (s : State) (f : Nat) (v : Func) : (setFunc s f v).bist = s.bist := rfl
@[simp] theorem setFunc_journal (s : State) (f : Nat) (v : Func) : (setFunc s f v).journal = s.journal := rfl
@[simp] theorem setFunc_vault (s : State) (f : Nat) (v : Func) : (setFunc s f v).vault = s.vault := rfl
@[simp] theorem setFunc_bridge (s : State) (f : Nat) (v : Func) : (setFunc s f v).bridge = s.bridge := rfl
@[simp] theorem setFunc_sundial (s : State) (f : Nat) (v : Func) : (setFunc s f v).sundial = s.sundial := rfl

/-! ## An allotment -/

@[simp] theorem modAllot_pending (s : State) (a : Nat) (f : Allotment → Allotment) : (modAllot s a f).pending = s.pending := rfl
@[simp] theorem modAllot_freeCount (s : State) (a : Nat) (f : Allotment → Allotment) : (modAllot s a f).freeCount = s.freeCount := rfl
@[simp] theorem modAllot_boot (s : State) (a : Nat) (f : Allotment → Allotment) : (modAllot s a f).boot = s.boot := rfl
@[simp] theorem modAllot_clocks (s : State) (a : Nat) (f : Allotment → Allotment) : (modAllot s a f).clocks = s.clocks := rfl
@[simp] theorem modAllot_otp (s : State) (a : Nat) (f : Allotment → Allotment) : (modAllot s a f).otp = s.otp := rfl
@[simp] theorem modAllot_lc (s : State) (a : Nat) (f : Allotment → Allotment) : (modAllot s a f).lc = s.lc := rfl
@[simp] theorem modAllot_lodge (s : State) (a : Nat) (f : Allotment → Allotment) : (modAllot s a f).lodge = s.lodge := rfl
@[simp] theorem modAllot_gh (s : State) (a : Nat) (f : Allotment → Allotment) : (modAllot s a f).gh = s.gh := rfl
@[simp] theorem modAllot_link (s : State) (a : Nat) (f : Allotment → Allotment) : (modAllot s a f).link = s.link := rfl
@[simp] theorem modAllot_regs (s : State) (a : Nat) (f : Allotment → Allotment) : (modAllot s a f).regs = s.regs := rfl
@[simp] theorem modAllot_sched (s : State) (a : Nat) (f : Allotment → Allotment) : (modAllot s a f).sched = s.sched := rfl
@[simp] theorem modAllot_units (s : State) (a : Nat) (f : Allotment → Allotment) : (modAllot s a f).units = s.units := rfl
@[simp] theorem modAllot_queues (s : State) (a : Nat) (f : Allotment → Allotment) : (modAllot s a f).queues = s.queues := rfl
@[simp] theorem modAllot_jobs (s : State) (a : Nat) (f : Allotment → Allotment) : (modAllot s a f).jobs = s.jobs := rfl
@[simp] theorem modAllot_ice (s : State) (a : Nat) (f : Allotment → Allotment) : (modAllot s a f).ice = s.ice := rfl
@[simp] theorem modAllot_digests (s : State) (a : Nat) (f : Allotment → Allotment) : (modAllot s a f).digests = s.digests := rfl
@[simp] theorem modAllot_curves (s : State) (a : Nat) (f : Allotment → Allotment) : (modAllot s a f).curves = s.curves := rfl
@[simp] theorem modAllot_kept (s : State) (a : Nat) (f : Allotment → Allotment) : (modAllot s a f).kept = s.kept := rfl
@[simp] theorem modAllot_stores (s : State) (a : Nat) (f : Allotment → Allotment) : (modAllot s a f).stores = s.stores := rfl
@[simp] theorem modAllot_plots (s : State) (a : Nat) (f : Allotment → Allotment) : (modAllot s a f).plots = s.plots := rfl
@[simp] theorem modAllot_swm (s : State) (a : Nat) (f : Allotment → Allotment) : (modAllot s a f).swm = s.swm := rfl
@[simp] theorem modAllot_evicted (s : State) (a : Nat) (f : Allotment → Allotment) : (modAllot s a f).evicted = s.evicted := rfl
@[simp] theorem modAllot_bodies (s : State) (a : Nat) (f : Allotment → Allotment) : (modAllot s a f).bodies = s.bodies := rfl
@[simp] theorem modAllot_fountain (s : State) (a : Nat) (f : Allotment → Allotment) : (modAllot s a f).fountain = s.fountain := rfl
@[simp] theorem modAllot_events (s : State) (a : Nat) (f : Allotment → Allotment) : (modAllot s a f).events = s.events := rfl
@[simp] theorem modAllot_dump (s : State) (a : Nat) (f : Allotment → Allotment) : (modAllot s a f).dump = s.dump := rfl
@[simp] theorem modAllot_bist (s : State) (a : Nat) (f : Allotment → Allotment) : (modAllot s a f).bist = s.bist := rfl
@[simp] theorem modAllot_journal (s : State) (a : Nat) (f : Allotment → Allotment) : (modAllot s a f).journal = s.journal := rfl
@[simp] theorem modAllot_vault (s : State) (a : Nat) (f : Allotment → Allotment) : (modAllot s a f).vault = s.vault := rfl
@[simp] theorem modAllot_bridge (s : State) (a : Nat) (f : Allotment → Allotment) : (modAllot s a f).bridge = s.bridge := rfl
@[simp] theorem modAllot_sundial (s : State) (a : Nat) (f : Allotment → Allotment) : (modAllot s a f).sundial = s.sundial := rfl

/-! ## A queue -/

@[simp] theorem modQueue_pending (s : State) (a q : Nat) (f : Queue → Queue) : (modQueue s a q f).pending = s.pending := rfl
@[simp] theorem modQueue_freeCount (s : State) (a q : Nat) (f : Queue → Queue) : (modQueue s a q f).freeCount = s.freeCount := rfl
@[simp] theorem modQueue_boot (s : State) (a q : Nat) (f : Queue → Queue) : (modQueue s a q f).boot = s.boot := rfl
@[simp] theorem modQueue_clocks (s : State) (a q : Nat) (f : Queue → Queue) : (modQueue s a q f).clocks = s.clocks := rfl
@[simp] theorem modQueue_otp (s : State) (a q : Nat) (f : Queue → Queue) : (modQueue s a q f).otp = s.otp := rfl
@[simp] theorem modQueue_lc (s : State) (a q : Nat) (f : Queue → Queue) : (modQueue s a q f).lc = s.lc := rfl
@[simp] theorem modQueue_lodge (s : State) (a q : Nat) (f : Queue → Queue) : (modQueue s a q f).lodge = s.lodge := rfl
@[simp] theorem modQueue_gh (s : State) (a q : Nat) (f : Queue → Queue) : (modQueue s a q f).gh = s.gh := rfl
@[simp] theorem modQueue_link (s : State) (a q : Nat) (f : Queue → Queue) : (modQueue s a q f).link = s.link := rfl
@[simp] theorem modQueue_regs (s : State) (a q : Nat) (f : Queue → Queue) : (modQueue s a q f).regs = s.regs := rfl
@[simp] theorem modQueue_sched (s : State) (a q : Nat) (f : Queue → Queue) : (modQueue s a q f).sched = s.sched := rfl
@[simp] theorem modQueue_units (s : State) (a q : Nat) (f : Queue → Queue) : (modQueue s a q f).units = s.units := rfl
@[simp] theorem modQueue_allots (s : State) (a q : Nat) (f : Queue → Queue) : (modQueue s a q f).allots = s.allots := rfl
@[simp] theorem modQueue_jobs (s : State) (a q : Nat) (f : Queue → Queue) : (modQueue s a q f).jobs = s.jobs := rfl
@[simp] theorem modQueue_ice (s : State) (a q : Nat) (f : Queue → Queue) : (modQueue s a q f).ice = s.ice := rfl
@[simp] theorem modQueue_digests (s : State) (a q : Nat) (f : Queue → Queue) : (modQueue s a q f).digests = s.digests := rfl
@[simp] theorem modQueue_curves (s : State) (a q : Nat) (f : Queue → Queue) : (modQueue s a q f).curves = s.curves := rfl
@[simp] theorem modQueue_kept (s : State) (a q : Nat) (f : Queue → Queue) : (modQueue s a q f).kept = s.kept := rfl
@[simp] theorem modQueue_stores (s : State) (a q : Nat) (f : Queue → Queue) : (modQueue s a q f).stores = s.stores := rfl
@[simp] theorem modQueue_plots (s : State) (a q : Nat) (f : Queue → Queue) : (modQueue s a q f).plots = s.plots := rfl
@[simp] theorem modQueue_swm (s : State) (a q : Nat) (f : Queue → Queue) : (modQueue s a q f).swm = s.swm := rfl
@[simp] theorem modQueue_evicted (s : State) (a q : Nat) (f : Queue → Queue) : (modQueue s a q f).evicted = s.evicted := rfl
@[simp] theorem modQueue_bodies (s : State) (a q : Nat) (f : Queue → Queue) : (modQueue s a q f).bodies = s.bodies := rfl
@[simp] theorem modQueue_fountain (s : State) (a q : Nat) (f : Queue → Queue) : (modQueue s a q f).fountain = s.fountain := rfl
@[simp] theorem modQueue_events (s : State) (a q : Nat) (f : Queue → Queue) : (modQueue s a q f).events = s.events := rfl
@[simp] theorem modQueue_dump (s : State) (a q : Nat) (f : Queue → Queue) : (modQueue s a q f).dump = s.dump := rfl
@[simp] theorem modQueue_bist (s : State) (a q : Nat) (f : Queue → Queue) : (modQueue s a q f).bist = s.bist := rfl
@[simp] theorem modQueue_journal (s : State) (a q : Nat) (f : Queue → Queue) : (modQueue s a q f).journal = s.journal := rfl
@[simp] theorem modQueue_vault (s : State) (a q : Nat) (f : Queue → Queue) : (modQueue s a q f).vault = s.vault := rfl
@[simp] theorem modQueue_bridge (s : State) (a q : Nat) (f : Queue → Queue) : (modQueue s a q f).bridge = s.bridge := rfl
@[simp] theorem modQueue_sundial (s : State) (a q : Nat) (f : Queue → Queue) : (modQueue s a q f).sundial = s.sundial := rfl

/-! ## A job -/

@[simp] theorem modJob_pending (s : State) (k : Nat) (f : Job → Job) : (modJob s k f).pending = s.pending := rfl
@[simp] theorem modJob_freeCount (s : State) (k : Nat) (f : Job → Job) : (modJob s k f).freeCount = s.freeCount := rfl
@[simp] theorem modJob_boot (s : State) (k : Nat) (f : Job → Job) : (modJob s k f).boot = s.boot := rfl
@[simp] theorem modJob_clocks (s : State) (k : Nat) (f : Job → Job) : (modJob s k f).clocks = s.clocks := rfl
@[simp] theorem modJob_otp (s : State) (k : Nat) (f : Job → Job) : (modJob s k f).otp = s.otp := rfl
@[simp] theorem modJob_lc (s : State) (k : Nat) (f : Job → Job) : (modJob s k f).lc = s.lc := rfl
@[simp] theorem modJob_lodge (s : State) (k : Nat) (f : Job → Job) : (modJob s k f).lodge = s.lodge := rfl
@[simp] theorem modJob_gh (s : State) (k : Nat) (f : Job → Job) : (modJob s k f).gh = s.gh := rfl
@[simp] theorem modJob_link (s : State) (k : Nat) (f : Job → Job) : (modJob s k f).link = s.link := rfl
@[simp] theorem modJob_regs (s : State) (k : Nat) (f : Job → Job) : (modJob s k f).regs = s.regs := rfl
@[simp] theorem modJob_sched (s : State) (k : Nat) (f : Job → Job) : (modJob s k f).sched = s.sched := rfl
@[simp] theorem modJob_units (s : State) (k : Nat) (f : Job → Job) : (modJob s k f).units = s.units := rfl
@[simp] theorem modJob_allots (s : State) (k : Nat) (f : Job → Job) : (modJob s k f).allots = s.allots := rfl
@[simp] theorem modJob_queues (s : State) (k : Nat) (f : Job → Job) : (modJob s k f).queues = s.queues := rfl
@[simp] theorem modJob_ice (s : State) (k : Nat) (f : Job → Job) : (modJob s k f).ice = s.ice := rfl
@[simp] theorem modJob_digests (s : State) (k : Nat) (f : Job → Job) : (modJob s k f).digests = s.digests := rfl
@[simp] theorem modJob_curves (s : State) (k : Nat) (f : Job → Job) : (modJob s k f).curves = s.curves := rfl
@[simp] theorem modJob_kept (s : State) (k : Nat) (f : Job → Job) : (modJob s k f).kept = s.kept := rfl
@[simp] theorem modJob_stores (s : State) (k : Nat) (f : Job → Job) : (modJob s k f).stores = s.stores := rfl
@[simp] theorem modJob_plots (s : State) (k : Nat) (f : Job → Job) : (modJob s k f).plots = s.plots := rfl
@[simp] theorem modJob_swm (s : State) (k : Nat) (f : Job → Job) : (modJob s k f).swm = s.swm := rfl
@[simp] theorem modJob_evicted (s : State) (k : Nat) (f : Job → Job) : (modJob s k f).evicted = s.evicted := rfl
@[simp] theorem modJob_bodies (s : State) (k : Nat) (f : Job → Job) : (modJob s k f).bodies = s.bodies := rfl
@[simp] theorem modJob_fountain (s : State) (k : Nat) (f : Job → Job) : (modJob s k f).fountain = s.fountain := rfl
@[simp] theorem modJob_events (s : State) (k : Nat) (f : Job → Job) : (modJob s k f).events = s.events := rfl
@[simp] theorem modJob_dump (s : State) (k : Nat) (f : Job → Job) : (modJob s k f).dump = s.dump := rfl
@[simp] theorem modJob_bist (s : State) (k : Nat) (f : Job → Job) : (modJob s k f).bist = s.bist := rfl
@[simp] theorem modJob_journal (s : State) (k : Nat) (f : Job → Job) : (modJob s k f).journal = s.journal := rfl
@[simp] theorem modJob_vault (s : State) (k : Nat) (f : Job → Job) : (modJob s k f).vault = s.vault := rfl
@[simp] theorem modJob_bridge (s : State) (k : Nat) (f : Job → Job) : (modJob s k f).bridge = s.bridge := rfl
@[simp] theorem modJob_sundial (s : State) (k : Nat) (f : Job → Job) : (modJob s k f).sundial = s.sundial := rfl

/-! ## A plot -/

@[simp] theorem setPlot_pending (s : State) (k : Nat) (p : Plot) : (setPlot s k p).pending = s.pending := rfl
@[simp] theorem setPlot_freeCount (s : State) (k : Nat) (p : Plot) : (setPlot s k p).freeCount = s.freeCount := rfl
@[simp] theorem setPlot_boot (s : State) (k : Nat) (p : Plot) : (setPlot s k p).boot = s.boot := rfl
@[simp] theorem setPlot_clocks (s : State) (k : Nat) (p : Plot) : (setPlot s k p).clocks = s.clocks := rfl
@[simp] theorem setPlot_otp (s : State) (k : Nat) (p : Plot) : (setPlot s k p).otp = s.otp := rfl
@[simp] theorem setPlot_lc (s : State) (k : Nat) (p : Plot) : (setPlot s k p).lc = s.lc := rfl
@[simp] theorem setPlot_lodge (s : State) (k : Nat) (p : Plot) : (setPlot s k p).lodge = s.lodge := rfl
@[simp] theorem setPlot_gh (s : State) (k : Nat) (p : Plot) : (setPlot s k p).gh = s.gh := rfl
@[simp] theorem setPlot_link (s : State) (k : Nat) (p : Plot) : (setPlot s k p).link = s.link := rfl
@[simp] theorem setPlot_regs (s : State) (k : Nat) (p : Plot) : (setPlot s k p).regs = s.regs := rfl
@[simp] theorem setPlot_sched (s : State) (k : Nat) (p : Plot) : (setPlot s k p).sched = s.sched := rfl
@[simp] theorem setPlot_units (s : State) (k : Nat) (p : Plot) : (setPlot s k p).units = s.units := rfl
@[simp] theorem setPlot_allots (s : State) (k : Nat) (p : Plot) : (setPlot s k p).allots = s.allots := rfl
@[simp] theorem setPlot_queues (s : State) (k : Nat) (p : Plot) : (setPlot s k p).queues = s.queues := rfl
@[simp] theorem setPlot_jobs (s : State) (k : Nat) (p : Plot) : (setPlot s k p).jobs = s.jobs := rfl
@[simp] theorem setPlot_ice (s : State) (k : Nat) (p : Plot) : (setPlot s k p).ice = s.ice := rfl
@[simp] theorem setPlot_digests (s : State) (k : Nat) (p : Plot) : (setPlot s k p).digests = s.digests := rfl
@[simp] theorem setPlot_curves (s : State) (k : Nat) (p : Plot) : (setPlot s k p).curves = s.curves := rfl
@[simp] theorem setPlot_kept (s : State) (k : Nat) (p : Plot) : (setPlot s k p).kept = s.kept := rfl
@[simp] theorem setPlot_stores (s : State) (k : Nat) (p : Plot) : (setPlot s k p).stores = s.stores := rfl
@[simp] theorem setPlot_evicted (s : State) (k : Nat) (p : Plot) : (setPlot s k p).evicted = s.evicted := rfl
@[simp] theorem setPlot_bodies (s : State) (k : Nat) (p : Plot) : (setPlot s k p).bodies = s.bodies := rfl
@[simp] theorem setPlot_fountain (s : State) (k : Nat) (p : Plot) : (setPlot s k p).fountain = s.fountain := rfl
@[simp] theorem setPlot_events (s : State) (k : Nat) (p : Plot) : (setPlot s k p).events = s.events := rfl
@[simp] theorem setPlot_dump (s : State) (k : Nat) (p : Plot) : (setPlot s k p).dump = s.dump := rfl
@[simp] theorem setPlot_bist (s : State) (k : Nat) (p : Plot) : (setPlot s k p).bist = s.bist := rfl
@[simp] theorem setPlot_journal (s : State) (k : Nat) (p : Plot) : (setPlot s k p).journal = s.journal := rfl
@[simp] theorem setPlot_vault (s : State) (k : Nat) (p : Plot) : (setPlot s k p).vault = s.vault := rfl
@[simp] theorem setPlot_bridge (s : State) (k : Nat) (p : Plot) : (setPlot s k p).bridge = s.bridge := rfl
@[simp] theorem setPlot_sundial (s : State) (k : Nat) (p : Plot) : (setPlot s k p).sundial = s.sundial := rfl

/-! ## A noise cell -/

@[simp] theorem modCell_pending (s : State) (c : Nat) (f : Cell → Cell) : (modCell s c f).pending = s.pending := rfl
@[simp] theorem modCell_freeCount (s : State) (c : Nat) (f : Cell → Cell) : (modCell s c f).freeCount = s.freeCount := rfl
@[simp] theorem modCell_boot (s : State) (c : Nat) (f : Cell → Cell) : (modCell s c f).boot = s.boot := rfl
@[simp] theorem modCell_clocks (s : State) (c : Nat) (f : Cell → Cell) : (modCell s c f).clocks = s.clocks := rfl
@[simp] theorem modCell_otp (s : State) (c : Nat) (f : Cell → Cell) : (modCell s c f).otp = s.otp := rfl
@[simp] theorem modCell_lc (s : State) (c : Nat) (f : Cell → Cell) : (modCell s c f).lc = s.lc := rfl
@[simp] theorem modCell_lodge (s : State) (c : Nat) (f : Cell → Cell) : (modCell s c f).lodge = s.lodge := rfl
@[simp] theorem modCell_gh (s : State) (c : Nat) (f : Cell → Cell) : (modCell s c f).gh = s.gh := rfl
@[simp] theorem modCell_link (s : State) (c : Nat) (f : Cell → Cell) : (modCell s c f).link = s.link := rfl
@[simp] theorem modCell_regs (s : State) (c : Nat) (f : Cell → Cell) : (modCell s c f).regs = s.regs := rfl
@[simp] theorem modCell_sched (s : State) (c : Nat) (f : Cell → Cell) : (modCell s c f).sched = s.sched := rfl
@[simp] theorem modCell_units (s : State) (c : Nat) (f : Cell → Cell) : (modCell s c f).units = s.units := rfl
@[simp] theorem modCell_allots (s : State) (c : Nat) (f : Cell → Cell) : (modCell s c f).allots = s.allots := rfl
@[simp] theorem modCell_queues (s : State) (c : Nat) (f : Cell → Cell) : (modCell s c f).queues = s.queues := rfl
@[simp] theorem modCell_jobs (s : State) (c : Nat) (f : Cell → Cell) : (modCell s c f).jobs = s.jobs := rfl
@[simp] theorem modCell_ice (s : State) (c : Nat) (f : Cell → Cell) : (modCell s c f).ice = s.ice := rfl
@[simp] theorem modCell_digests (s : State) (c : Nat) (f : Cell → Cell) : (modCell s c f).digests = s.digests := rfl
@[simp] theorem modCell_curves (s : State) (c : Nat) (f : Cell → Cell) : (modCell s c f).curves = s.curves := rfl
@[simp] theorem modCell_kept (s : State) (c : Nat) (f : Cell → Cell) : (modCell s c f).kept = s.kept := rfl
@[simp] theorem modCell_stores (s : State) (c : Nat) (f : Cell → Cell) : (modCell s c f).stores = s.stores := rfl
@[simp] theorem modCell_plots (s : State) (c : Nat) (f : Cell → Cell) : (modCell s c f).plots = s.plots := rfl
@[simp] theorem modCell_swm (s : State) (c : Nat) (f : Cell → Cell) : (modCell s c f).swm = s.swm := rfl
@[simp] theorem modCell_evicted (s : State) (c : Nat) (f : Cell → Cell) : (modCell s c f).evicted = s.evicted := rfl
@[simp] theorem modCell_bodies (s : State) (c : Nat) (f : Cell → Cell) : (modCell s c f).bodies = s.bodies := rfl
@[simp] theorem modCell_events (s : State) (c : Nat) (f : Cell → Cell) : (modCell s c f).events = s.events := rfl
@[simp] theorem modCell_dump (s : State) (c : Nat) (f : Cell → Cell) : (modCell s c f).dump = s.dump := rfl
@[simp] theorem modCell_bist (s : State) (c : Nat) (f : Cell → Cell) : (modCell s c f).bist = s.bist := rfl
@[simp] theorem modCell_journal (s : State) (c : Nat) (f : Cell → Cell) : (modCell s c f).journal = s.journal := rfl
@[simp] theorem modCell_vault (s : State) (c : Nat) (f : Cell → Cell) : (modCell s c f).vault = s.vault := rfl
@[simp] theorem modCell_bridge (s : State) (c : Nat) (f : Cell → Cell) : (modCell s c f).bridge = s.bridge := rfl
@[simp] theorem modCell_sundial (s : State) (c : Nat) (f : Cell → Cell) : (modCell s c f).sundial = s.sundial := rfl

/-! ## A tamper source -/

@[simp] theorem modSource_pending (s : State) (i : Nat) (f : Source → Source) : (modSource s i f).pending = s.pending := rfl
@[simp] theorem modSource_freeCount (s : State) (i : Nat) (f : Source → Source) : (modSource s i f).freeCount = s.freeCount := rfl
@[simp] theorem modSource_boot (s : State) (i : Nat) (f : Source → Source) : (modSource s i f).boot = s.boot := rfl
@[simp] theorem modSource_clocks (s : State) (i : Nat) (f : Source → Source) : (modSource s i f).clocks = s.clocks := rfl
@[simp] theorem modSource_otp (s : State) (i : Nat) (f : Source → Source) : (modSource s i f).otp = s.otp := rfl
@[simp] theorem modSource_lc (s : State) (i : Nat) (f : Source → Source) : (modSource s i f).lc = s.lc := rfl
@[simp] theorem modSource_lodge (s : State) (i : Nat) (f : Source → Source) : (modSource s i f).lodge = s.lodge := rfl
@[simp] theorem modSource_link (s : State) (i : Nat) (f : Source → Source) : (modSource s i f).link = s.link := rfl
@[simp] theorem modSource_regs (s : State) (i : Nat) (f : Source → Source) : (modSource s i f).regs = s.regs := rfl
@[simp] theorem modSource_sched (s : State) (i : Nat) (f : Source → Source) : (modSource s i f).sched = s.sched := rfl
@[simp] theorem modSource_units (s : State) (i : Nat) (f : Source → Source) : (modSource s i f).units = s.units := rfl
@[simp] theorem modSource_allots (s : State) (i : Nat) (f : Source → Source) : (modSource s i f).allots = s.allots := rfl
@[simp] theorem modSource_queues (s : State) (i : Nat) (f : Source → Source) : (modSource s i f).queues = s.queues := rfl
@[simp] theorem modSource_jobs (s : State) (i : Nat) (f : Source → Source) : (modSource s i f).jobs = s.jobs := rfl
@[simp] theorem modSource_ice (s : State) (i : Nat) (f : Source → Source) : (modSource s i f).ice = s.ice := rfl
@[simp] theorem modSource_digests (s : State) (i : Nat) (f : Source → Source) : (modSource s i f).digests = s.digests := rfl
@[simp] theorem modSource_curves (s : State) (i : Nat) (f : Source → Source) : (modSource s i f).curves = s.curves := rfl
@[simp] theorem modSource_kept (s : State) (i : Nat) (f : Source → Source) : (modSource s i f).kept = s.kept := rfl
@[simp] theorem modSource_stores (s : State) (i : Nat) (f : Source → Source) : (modSource s i f).stores = s.stores := rfl
@[simp] theorem modSource_plots (s : State) (i : Nat) (f : Source → Source) : (modSource s i f).plots = s.plots := rfl
@[simp] theorem modSource_swm (s : State) (i : Nat) (f : Source → Source) : (modSource s i f).swm = s.swm := rfl
@[simp] theorem modSource_evicted (s : State) (i : Nat) (f : Source → Source) : (modSource s i f).evicted = s.evicted := rfl
@[simp] theorem modSource_bodies (s : State) (i : Nat) (f : Source → Source) : (modSource s i f).bodies = s.bodies := rfl
@[simp] theorem modSource_fountain (s : State) (i : Nat) (f : Source → Source) : (modSource s i f).fountain = s.fountain := rfl
@[simp] theorem modSource_events (s : State) (i : Nat) (f : Source → Source) : (modSource s i f).events = s.events := rfl
@[simp] theorem modSource_dump (s : State) (i : Nat) (f : Source → Source) : (modSource s i f).dump = s.dump := rfl
@[simp] theorem modSource_bist (s : State) (i : Nat) (f : Source → Source) : (modSource s i f).bist = s.bist := rfl
@[simp] theorem modSource_journal (s : State) (i : Nat) (f : Source → Source) : (modSource s i f).journal = s.journal := rfl
@[simp] theorem modSource_vault (s : State) (i : Nat) (f : Source → Source) : (modSource s i f).vault = s.vault := rfl
@[simp] theorem modSource_bridge (s : State) (i : Nat) (f : Source → Source) : (modSource s i f).bridge = s.bridge := rfl
@[simp] theorem modSource_sundial (s : State) (i : Nat) (f : Source → Source) : (modSource s i f).sundial = s.sundial := rfl

/-! ## A die -/

@[simp] theorem modDie_pending (s : State) (d : Nat) (f : Die → Die) : (modDie s d f).pending = s.pending := rfl
@[simp] theorem modDie_freeCount (s : State) (d : Nat) (f : Die → Die) : (modDie s d f).freeCount = s.freeCount := rfl
@[simp] theorem modDie_boot (s : State) (d : Nat) (f : Die → Die) : (modDie s d f).boot = s.boot := rfl
@[simp] theorem modDie_clocks (s : State) (d : Nat) (f : Die → Die) : (modDie s d f).clocks = s.clocks := rfl
@[simp] theorem modDie_otp (s : State) (d : Nat) (f : Die → Die) : (modDie s d f).otp = s.otp := rfl
@[simp] theorem modDie_lc (s : State) (d : Nat) (f : Die → Die) : (modDie s d f).lc = s.lc := rfl
@[simp] theorem modDie_lodge (s : State) (d : Nat) (f : Die → Die) : (modDie s d f).lodge = s.lodge := rfl
@[simp] theorem modDie_gh (s : State) (d : Nat) (f : Die → Die) : (modDie s d f).gh = s.gh := rfl
@[simp] theorem modDie_link (s : State) (d : Nat) (f : Die → Die) : (modDie s d f).link = s.link := rfl
@[simp] theorem modDie_regs (s : State) (d : Nat) (f : Die → Die) : (modDie s d f).regs = s.regs := rfl
@[simp] theorem modDie_sched (s : State) (d : Nat) (f : Die → Die) : (modDie s d f).sched = s.sched := rfl
@[simp] theorem modDie_units (s : State) (d : Nat) (f : Die → Die) : (modDie s d f).units = s.units := rfl
@[simp] theorem modDie_allots (s : State) (d : Nat) (f : Die → Die) : (modDie s d f).allots = s.allots := rfl
@[simp] theorem modDie_queues (s : State) (d : Nat) (f : Die → Die) : (modDie s d f).queues = s.queues := rfl
@[simp] theorem modDie_jobs (s : State) (d : Nat) (f : Die → Die) : (modDie s d f).jobs = s.jobs := rfl
@[simp] theorem modDie_ice (s : State) (d : Nat) (f : Die → Die) : (modDie s d f).ice = s.ice := rfl
@[simp] theorem modDie_digests (s : State) (d : Nat) (f : Die → Die) : (modDie s d f).digests = s.digests := rfl
@[simp] theorem modDie_curves (s : State) (d : Nat) (f : Die → Die) : (modDie s d f).curves = s.curves := rfl
@[simp] theorem modDie_kept (s : State) (d : Nat) (f : Die → Die) : (modDie s d f).kept = s.kept := rfl
@[simp] theorem modDie_stores (s : State) (d : Nat) (f : Die → Die) : (modDie s d f).stores = s.stores := rfl
@[simp] theorem modDie_plots (s : State) (d : Nat) (f : Die → Die) : (modDie s d f).plots = s.plots := rfl
@[simp] theorem modDie_swm (s : State) (d : Nat) (f : Die → Die) : (modDie s d f).swm = s.swm := rfl
@[simp] theorem modDie_evicted (s : State) (d : Nat) (f : Die → Die) : (modDie s d f).evicted = s.evicted := rfl
@[simp] theorem modDie_bodies (s : State) (d : Nat) (f : Die → Die) : (modDie s d f).bodies = s.bodies := rfl
@[simp] theorem modDie_fountain (s : State) (d : Nat) (f : Die → Die) : (modDie s d f).fountain = s.fountain := rfl
@[simp] theorem modDie_events (s : State) (d : Nat) (f : Die → Die) : (modDie s d f).events = s.events := rfl
@[simp] theorem modDie_dump (s : State) (d : Nat) (f : Die → Die) : (modDie s d f).dump = s.dump := rfl
@[simp] theorem modDie_bist (s : State) (d : Nat) (f : Die → Die) : (modDie s d f).bist = s.bist := rfl
@[simp] theorem modDie_journal (s : State) (d : Nat) (f : Die → Die) : (modDie s d f).journal = s.journal := rfl
@[simp] theorem modDie_bridge (s : State) (d : Nat) (f : Die → Die) : (modDie s d f).bridge = s.bridge := rfl
@[simp] theorem modDie_sundial (s : State) (d : Nat) (f : Die → Die) : (modDie s d f).sundial = s.sundial := rfl

/-! ## A block -/

@[simp] theorem modBlock_pending (s : State) (d b : Nat) (f : Block → Block) : (modBlock s d b f).pending = s.pending := rfl
@[simp] theorem modBlock_freeCount (s : State) (d b : Nat) (f : Block → Block) : (modBlock s d b f).freeCount = s.freeCount := rfl
@[simp] theorem modBlock_boot (s : State) (d b : Nat) (f : Block → Block) : (modBlock s d b f).boot = s.boot := rfl
@[simp] theorem modBlock_clocks (s : State) (d b : Nat) (f : Block → Block) : (modBlock s d b f).clocks = s.clocks := rfl
@[simp] theorem modBlock_otp (s : State) (d b : Nat) (f : Block → Block) : (modBlock s d b f).otp = s.otp := rfl
@[simp] theorem modBlock_lc (s : State) (d b : Nat) (f : Block → Block) : (modBlock s d b f).lc = s.lc := rfl
@[simp] theorem modBlock_lodge (s : State) (d b : Nat) (f : Block → Block) : (modBlock s d b f).lodge = s.lodge := rfl
@[simp] theorem modBlock_gh (s : State) (d b : Nat) (f : Block → Block) : (modBlock s d b f).gh = s.gh := rfl
@[simp] theorem modBlock_link (s : State) (d b : Nat) (f : Block → Block) : (modBlock s d b f).link = s.link := rfl
@[simp] theorem modBlock_regs (s : State) (d b : Nat) (f : Block → Block) : (modBlock s d b f).regs = s.regs := rfl
@[simp] theorem modBlock_sched (s : State) (d b : Nat) (f : Block → Block) : (modBlock s d b f).sched = s.sched := rfl
@[simp] theorem modBlock_units (s : State) (d b : Nat) (f : Block → Block) : (modBlock s d b f).units = s.units := rfl
@[simp] theorem modBlock_allots (s : State) (d b : Nat) (f : Block → Block) : (modBlock s d b f).allots = s.allots := rfl
@[simp] theorem modBlock_queues (s : State) (d b : Nat) (f : Block → Block) : (modBlock s d b f).queues = s.queues := rfl
@[simp] theorem modBlock_jobs (s : State) (d b : Nat) (f : Block → Block) : (modBlock s d b f).jobs = s.jobs := rfl
@[simp] theorem modBlock_ice (s : State) (d b : Nat) (f : Block → Block) : (modBlock s d b f).ice = s.ice := rfl
@[simp] theorem modBlock_digests (s : State) (d b : Nat) (f : Block → Block) : (modBlock s d b f).digests = s.digests := rfl
@[simp] theorem modBlock_curves (s : State) (d b : Nat) (f : Block → Block) : (modBlock s d b f).curves = s.curves := rfl
@[simp] theorem modBlock_kept (s : State) (d b : Nat) (f : Block → Block) : (modBlock s d b f).kept = s.kept := rfl
@[simp] theorem modBlock_stores (s : State) (d b : Nat) (f : Block → Block) : (modBlock s d b f).stores = s.stores := rfl
@[simp] theorem modBlock_plots (s : State) (d b : Nat) (f : Block → Block) : (modBlock s d b f).plots = s.plots := rfl
@[simp] theorem modBlock_swm (s : State) (d b : Nat) (f : Block → Block) : (modBlock s d b f).swm = s.swm := rfl
@[simp] theorem modBlock_evicted (s : State) (d b : Nat) (f : Block → Block) : (modBlock s d b f).evicted = s.evicted := rfl
@[simp] theorem modBlock_bodies (s : State) (d b : Nat) (f : Block → Block) : (modBlock s d b f).bodies = s.bodies := rfl
@[simp] theorem modBlock_fountain (s : State) (d b : Nat) (f : Block → Block) : (modBlock s d b f).fountain = s.fountain := rfl
@[simp] theorem modBlock_events (s : State) (d b : Nat) (f : Block → Block) : (modBlock s d b f).events = s.events := rfl
@[simp] theorem modBlock_dump (s : State) (d b : Nat) (f : Block → Block) : (modBlock s d b f).dump = s.dump := rfl
@[simp] theorem modBlock_bist (s : State) (d b : Nat) (f : Block → Block) : (modBlock s d b f).bist = s.bist := rfl
@[simp] theorem modBlock_journal (s : State) (d b : Nat) (f : Block → Block) : (modBlock s d b f).journal = s.journal := rfl
@[simp] theorem modBlock_bridge (s : State) (d b : Nat) (f : Block → Block) : (modBlock s d b f).bridge = s.bridge := rfl
@[simp] theorem modBlock_sundial (s : State) (d b : Nat) (f : Block → Block) : (modBlock s d b f).sundial = s.sundial := rfl

/-! ## A packing FIFO -/

@[simp] theorem modFifo_pending (s : State) (d : Nat) (f : PackFifo → PackFifo) : (modFifo s d f).pending = s.pending := rfl
@[simp] theorem modFifo_freeCount (s : State) (d : Nat) (f : PackFifo → PackFifo) : (modFifo s d f).freeCount = s.freeCount := rfl
@[simp] theorem modFifo_boot (s : State) (d : Nat) (f : PackFifo → PackFifo) : (modFifo s d f).boot = s.boot := rfl
@[simp] theorem modFifo_clocks (s : State) (d : Nat) (f : PackFifo → PackFifo) : (modFifo s d f).clocks = s.clocks := rfl
@[simp] theorem modFifo_otp (s : State) (d : Nat) (f : PackFifo → PackFifo) : (modFifo s d f).otp = s.otp := rfl
@[simp] theorem modFifo_lc (s : State) (d : Nat) (f : PackFifo → PackFifo) : (modFifo s d f).lc = s.lc := rfl
@[simp] theorem modFifo_lodge (s : State) (d : Nat) (f : PackFifo → PackFifo) : (modFifo s d f).lodge = s.lodge := rfl
@[simp] theorem modFifo_gh (s : State) (d : Nat) (f : PackFifo → PackFifo) : (modFifo s d f).gh = s.gh := rfl
@[simp] theorem modFifo_link (s : State) (d : Nat) (f : PackFifo → PackFifo) : (modFifo s d f).link = s.link := rfl
@[simp] theorem modFifo_regs (s : State) (d : Nat) (f : PackFifo → PackFifo) : (modFifo s d f).regs = s.regs := rfl
@[simp] theorem modFifo_sched (s : State) (d : Nat) (f : PackFifo → PackFifo) : (modFifo s d f).sched = s.sched := rfl
@[simp] theorem modFifo_units (s : State) (d : Nat) (f : PackFifo → PackFifo) : (modFifo s d f).units = s.units := rfl
@[simp] theorem modFifo_allots (s : State) (d : Nat) (f : PackFifo → PackFifo) : (modFifo s d f).allots = s.allots := rfl
@[simp] theorem modFifo_queues (s : State) (d : Nat) (f : PackFifo → PackFifo) : (modFifo s d f).queues = s.queues := rfl
@[simp] theorem modFifo_jobs (s : State) (d : Nat) (f : PackFifo → PackFifo) : (modFifo s d f).jobs = s.jobs := rfl
@[simp] theorem modFifo_ice (s : State) (d : Nat) (f : PackFifo → PackFifo) : (modFifo s d f).ice = s.ice := rfl
@[simp] theorem modFifo_digests (s : State) (d : Nat) (f : PackFifo → PackFifo) : (modFifo s d f).digests = s.digests := rfl
@[simp] theorem modFifo_curves (s : State) (d : Nat) (f : PackFifo → PackFifo) : (modFifo s d f).curves = s.curves := rfl
@[simp] theorem modFifo_kept (s : State) (d : Nat) (f : PackFifo → PackFifo) : (modFifo s d f).kept = s.kept := rfl
@[simp] theorem modFifo_stores (s : State) (d : Nat) (f : PackFifo → PackFifo) : (modFifo s d f).stores = s.stores := rfl
@[simp] theorem modFifo_plots (s : State) (d : Nat) (f : PackFifo → PackFifo) : (modFifo s d f).plots = s.plots := rfl
@[simp] theorem modFifo_swm (s : State) (d : Nat) (f : PackFifo → PackFifo) : (modFifo s d f).swm = s.swm := rfl
@[simp] theorem modFifo_evicted (s : State) (d : Nat) (f : PackFifo → PackFifo) : (modFifo s d f).evicted = s.evicted := rfl
@[simp] theorem modFifo_bodies (s : State) (d : Nat) (f : PackFifo → PackFifo) : (modFifo s d f).bodies = s.bodies := rfl
@[simp] theorem modFifo_fountain (s : State) (d : Nat) (f : PackFifo → PackFifo) : (modFifo s d f).fountain = s.fountain := rfl
@[simp] theorem modFifo_events (s : State) (d : Nat) (f : PackFifo → PackFifo) : (modFifo s d f).events = s.events := rfl
@[simp] theorem modFifo_dump (s : State) (d : Nat) (f : PackFifo → PackFifo) : (modFifo s d f).dump = s.dump := rfl
@[simp] theorem modFifo_bist (s : State) (d : Nat) (f : PackFifo → PackFifo) : (modFifo s d f).bist = s.bist := rfl
@[simp] theorem modFifo_journal (s : State) (d : Nat) (f : PackFifo → PackFifo) : (modFifo s d f).journal = s.journal := rfl
@[simp] theorem modFifo_bridge (s : State) (d : Nat) (f : PackFifo → PackFifo) : (modFifo s d f).bridge = s.bridge := rfl
@[simp] theorem modFifo_sundial (s : State) (d : Nat) (f : PackFifo → PackFifo) : (modFifo s d f).sundial = s.sundial := rfl

/-! ## A mask generator -/

@[simp] theorem modMask_pending (s : State) (u : Nat) (f : MaskGen → MaskGen) : (modMask s u f).pending = s.pending := rfl
@[simp] theorem modMask_freeCount (s : State) (u : Nat) (f : MaskGen → MaskGen) : (modMask s u f).freeCount = s.freeCount := rfl
@[simp] theorem modMask_boot (s : State) (u : Nat) (f : MaskGen → MaskGen) : (modMask s u f).boot = s.boot := rfl
@[simp] theorem modMask_clocks (s : State) (u : Nat) (f : MaskGen → MaskGen) : (modMask s u f).clocks = s.clocks := rfl
@[simp] theorem modMask_otp (s : State) (u : Nat) (f : MaskGen → MaskGen) : (modMask s u f).otp = s.otp := rfl
@[simp] theorem modMask_lc (s : State) (u : Nat) (f : MaskGen → MaskGen) : (modMask s u f).lc = s.lc := rfl
@[simp] theorem modMask_lodge (s : State) (u : Nat) (f : MaskGen → MaskGen) : (modMask s u f).lodge = s.lodge := rfl
@[simp] theorem modMask_gh (s : State) (u : Nat) (f : MaskGen → MaskGen) : (modMask s u f).gh = s.gh := rfl
@[simp] theorem modMask_link (s : State) (u : Nat) (f : MaskGen → MaskGen) : (modMask s u f).link = s.link := rfl
@[simp] theorem modMask_regs (s : State) (u : Nat) (f : MaskGen → MaskGen) : (modMask s u f).regs = s.regs := rfl
@[simp] theorem modMask_sched (s : State) (u : Nat) (f : MaskGen → MaskGen) : (modMask s u f).sched = s.sched := rfl
@[simp] theorem modMask_allots (s : State) (u : Nat) (f : MaskGen → MaskGen) : (modMask s u f).allots = s.allots := rfl
@[simp] theorem modMask_queues (s : State) (u : Nat) (f : MaskGen → MaskGen) : (modMask s u f).queues = s.queues := rfl
@[simp] theorem modMask_jobs (s : State) (u : Nat) (f : MaskGen → MaskGen) : (modMask s u f).jobs = s.jobs := rfl
@[simp] theorem modMask_ice (s : State) (u : Nat) (f : MaskGen → MaskGen) : (modMask s u f).ice = s.ice := rfl
@[simp] theorem modMask_digests (s : State) (u : Nat) (f : MaskGen → MaskGen) : (modMask s u f).digests = s.digests := rfl
@[simp] theorem modMask_curves (s : State) (u : Nat) (f : MaskGen → MaskGen) : (modMask s u f).curves = s.curves := rfl
@[simp] theorem modMask_kept (s : State) (u : Nat) (f : MaskGen → MaskGen) : (modMask s u f).kept = s.kept := rfl
@[simp] theorem modMask_stores (s : State) (u : Nat) (f : MaskGen → MaskGen) : (modMask s u f).stores = s.stores := rfl
@[simp] theorem modMask_plots (s : State) (u : Nat) (f : MaskGen → MaskGen) : (modMask s u f).plots = s.plots := rfl
@[simp] theorem modMask_swm (s : State) (u : Nat) (f : MaskGen → MaskGen) : (modMask s u f).swm = s.swm := rfl
@[simp] theorem modMask_evicted (s : State) (u : Nat) (f : MaskGen → MaskGen) : (modMask s u f).evicted = s.evicted := rfl
@[simp] theorem modMask_bodies (s : State) (u : Nat) (f : MaskGen → MaskGen) : (modMask s u f).bodies = s.bodies := rfl
@[simp] theorem modMask_fountain (s : State) (u : Nat) (f : MaskGen → MaskGen) : (modMask s u f).fountain = s.fountain := rfl
@[simp] theorem modMask_events (s : State) (u : Nat) (f : MaskGen → MaskGen) : (modMask s u f).events = s.events := rfl
@[simp] theorem modMask_dump (s : State) (u : Nat) (f : MaskGen → MaskGen) : (modMask s u f).dump = s.dump := rfl
@[simp] theorem modMask_bist (s : State) (u : Nat) (f : MaskGen → MaskGen) : (modMask s u f).bist = s.bist := rfl
@[simp] theorem modMask_journal (s : State) (u : Nat) (f : MaskGen → MaskGen) : (modMask s u f).journal = s.journal := rfl
@[simp] theorem modMask_vault (s : State) (u : Nat) (f : MaskGen → MaskGen) : (modMask s u f).vault = s.vault := rfl
@[simp] theorem modMask_bridge (s : State) (u : Nat) (f : MaskGen → MaskGen) : (modMask s u f).bridge = s.bridge := rfl
@[simp] theorem modMask_sundial (s : State) (u : Nat) (f : MaskGen → MaskGen) : (modMask s u f).sundial = s.sundial := rfl

/-! ## A residence -/

@[simp] theorem setResidence_pending (s : State) (u r : Nat) (v : Residence) : (setResidence s u r v).pending = s.pending := rfl
@[simp] theorem setResidence_freeCount (s : State) (u r : Nat) (v : Residence) : (setResidence s u r v).freeCount = s.freeCount := rfl
@[simp] theorem setResidence_boot (s : State) (u r : Nat) (v : Residence) : (setResidence s u r v).boot = s.boot := rfl
@[simp] theorem setResidence_clocks (s : State) (u r : Nat) (v : Residence) : (setResidence s u r v).clocks = s.clocks := rfl
@[simp] theorem setResidence_otp (s : State) (u r : Nat) (v : Residence) : (setResidence s u r v).otp = s.otp := rfl
@[simp] theorem setResidence_lc (s : State) (u r : Nat) (v : Residence) : (setResidence s u r v).lc = s.lc := rfl
@[simp] theorem setResidence_lodge (s : State) (u r : Nat) (v : Residence) : (setResidence s u r v).lodge = s.lodge := rfl
@[simp] theorem setResidence_gh (s : State) (u r : Nat) (v : Residence) : (setResidence s u r v).gh = s.gh := rfl
@[simp] theorem setResidence_link (s : State) (u r : Nat) (v : Residence) : (setResidence s u r v).link = s.link := rfl
@[simp] theorem setResidence_regs (s : State) (u r : Nat) (v : Residence) : (setResidence s u r v).regs = s.regs := rfl
@[simp] theorem setResidence_sched (s : State) (u r : Nat) (v : Residence) : (setResidence s u r v).sched = s.sched := rfl
@[simp] theorem setResidence_allots (s : State) (u r : Nat) (v : Residence) : (setResidence s u r v).allots = s.allots := rfl
@[simp] theorem setResidence_queues (s : State) (u r : Nat) (v : Residence) : (setResidence s u r v).queues = s.queues := rfl
@[simp] theorem setResidence_jobs (s : State) (u r : Nat) (v : Residence) : (setResidence s u r v).jobs = s.jobs := rfl
@[simp] theorem setResidence_ice (s : State) (u r : Nat) (v : Residence) : (setResidence s u r v).ice = s.ice := rfl
@[simp] theorem setResidence_digests (s : State) (u r : Nat) (v : Residence) : (setResidence s u r v).digests = s.digests := rfl
@[simp] theorem setResidence_curves (s : State) (u r : Nat) (v : Residence) : (setResidence s u r v).curves = s.curves := rfl
@[simp] theorem setResidence_kept (s : State) (u r : Nat) (v : Residence) : (setResidence s u r v).kept = s.kept := rfl
@[simp] theorem setResidence_stores (s : State) (u r : Nat) (v : Residence) : (setResidence s u r v).stores = s.stores := rfl
@[simp] theorem setResidence_plots (s : State) (u r : Nat) (v : Residence) : (setResidence s u r v).plots = s.plots := rfl
@[simp] theorem setResidence_swm (s : State) (u r : Nat) (v : Residence) : (setResidence s u r v).swm = s.swm := rfl
@[simp] theorem setResidence_evicted (s : State) (u r : Nat) (v : Residence) : (setResidence s u r v).evicted = s.evicted := rfl
@[simp] theorem setResidence_bodies (s : State) (u r : Nat) (v : Residence) : (setResidence s u r v).bodies = s.bodies := rfl
@[simp] theorem setResidence_fountain (s : State) (u r : Nat) (v : Residence) : (setResidence s u r v).fountain = s.fountain := rfl
@[simp] theorem setResidence_events (s : State) (u r : Nat) (v : Residence) : (setResidence s u r v).events = s.events := rfl
@[simp] theorem setResidence_dump (s : State) (u r : Nat) (v : Residence) : (setResidence s u r v).dump = s.dump := rfl
@[simp] theorem setResidence_bist (s : State) (u r : Nat) (v : Residence) : (setResidence s u r v).bist = s.bist := rfl
@[simp] theorem setResidence_journal (s : State) (u r : Nat) (v : Residence) : (setResidence s u r v).journal = s.journal := rfl
@[simp] theorem setResidence_vault (s : State) (u r : Nat) (v : Residence) : (setResidence s u r v).vault = s.vault := rfl
@[simp] theorem setResidence_bridge (s : State) (u r : Nat) (v : Residence) : (setResidence s u r v).bridge = s.bridge := rfl
@[simp] theorem setResidence_sundial (s : State) (u r : Nat) (v : Residence) : (setResidence s u r v).sundial = s.sundial := rfl

/-! ## An answer to a read -/

@[simp] theorem reply_pending (s : State) (v : W64) : (reply s v).pending = s.pending := rfl
@[simp] theorem reply_freeCount (s : State) (v : W64) : (reply s v).freeCount = s.freeCount := rfl
@[simp] theorem reply_boot (s : State) (v : W64) : (reply s v).boot = s.boot := rfl
@[simp] theorem reply_clocks (s : State) (v : W64) : (reply s v).clocks = s.clocks := rfl
@[simp] theorem reply_otp (s : State) (v : W64) : (reply s v).otp = s.otp := rfl
@[simp] theorem reply_lc (s : State) (v : W64) : (reply s v).lc = s.lc := rfl
@[simp] theorem reply_lodge (s : State) (v : W64) : (reply s v).lodge = s.lodge := rfl
@[simp] theorem reply_gh (s : State) (v : W64) : (reply s v).gh = s.gh := rfl
@[simp] theorem reply_regs (s : State) (v : W64) : (reply s v).regs = s.regs := rfl
@[simp] theorem reply_sched (s : State) (v : W64) : (reply s v).sched = s.sched := rfl
@[simp] theorem reply_units (s : State) (v : W64) : (reply s v).units = s.units := rfl
@[simp] theorem reply_allots (s : State) (v : W64) : (reply s v).allots = s.allots := rfl
@[simp] theorem reply_queues (s : State) (v : W64) : (reply s v).queues = s.queues := rfl
@[simp] theorem reply_jobs (s : State) (v : W64) : (reply s v).jobs = s.jobs := rfl
@[simp] theorem reply_ice (s : State) (v : W64) : (reply s v).ice = s.ice := rfl
@[simp] theorem reply_digests (s : State) (v : W64) : (reply s v).digests = s.digests := rfl
@[simp] theorem reply_curves (s : State) (v : W64) : (reply s v).curves = s.curves := rfl
@[simp] theorem reply_kept (s : State) (v : W64) : (reply s v).kept = s.kept := rfl
@[simp] theorem reply_stores (s : State) (v : W64) : (reply s v).stores = s.stores := rfl
@[simp] theorem reply_plots (s : State) (v : W64) : (reply s v).plots = s.plots := rfl
@[simp] theorem reply_swm (s : State) (v : W64) : (reply s v).swm = s.swm := rfl
@[simp] theorem reply_evicted (s : State) (v : W64) : (reply s v).evicted = s.evicted := rfl
@[simp] theorem reply_bodies (s : State) (v : W64) : (reply s v).bodies = s.bodies := rfl
@[simp] theorem reply_fountain (s : State) (v : W64) : (reply s v).fountain = s.fountain := rfl
@[simp] theorem reply_events (s : State) (v : W64) : (reply s v).events = s.events := rfl
@[simp] theorem reply_dump (s : State) (v : W64) : (reply s v).dump = s.dump := rfl
@[simp] theorem reply_bist (s : State) (v : W64) : (reply s v).bist = s.bist := rfl
@[simp] theorem reply_journal (s : State) (v : W64) : (reply s v).journal = s.journal := rfl
@[simp] theorem reply_vault (s : State) (v : W64) : (reply s v).vault = s.vault := rfl
@[simp] theorem reply_bridge (s : State) (v : W64) : (reply s v).bridge = s.bridge := rfl
@[simp] theorem reply_sundial (s : State) (v : W64) : (reply s v).sundial = s.sundial := rfl

/-! ## A free value taken -/

@[simp] theorem fresh_pending (s : State) : (fresh s).2.pending = s.pending := rfl
@[simp] theorem fresh_boot (s : State) : (fresh s).2.boot = s.boot := rfl
@[simp] theorem fresh_clocks (s : State) : (fresh s).2.clocks = s.clocks := rfl
@[simp] theorem fresh_otp (s : State) : (fresh s).2.otp = s.otp := rfl
@[simp] theorem fresh_lc (s : State) : (fresh s).2.lc = s.lc := rfl
@[simp] theorem fresh_lodge (s : State) : (fresh s).2.lodge = s.lodge := rfl
@[simp] theorem fresh_gh (s : State) : (fresh s).2.gh = s.gh := rfl
@[simp] theorem fresh_link (s : State) : (fresh s).2.link = s.link := rfl
@[simp] theorem fresh_regs (s : State) : (fresh s).2.regs = s.regs := rfl
@[simp] theorem fresh_sched (s : State) : (fresh s).2.sched = s.sched := rfl
@[simp] theorem fresh_units (s : State) : (fresh s).2.units = s.units := rfl
@[simp] theorem fresh_allots (s : State) : (fresh s).2.allots = s.allots := rfl
@[simp] theorem fresh_queues (s : State) : (fresh s).2.queues = s.queues := rfl
@[simp] theorem fresh_jobs (s : State) : (fresh s).2.jobs = s.jobs := rfl
@[simp] theorem fresh_ice (s : State) : (fresh s).2.ice = s.ice := rfl
@[simp] theorem fresh_digests (s : State) : (fresh s).2.digests = s.digests := rfl
@[simp] theorem fresh_curves (s : State) : (fresh s).2.curves = s.curves := rfl
@[simp] theorem fresh_kept (s : State) : (fresh s).2.kept = s.kept := rfl
@[simp] theorem fresh_stores (s : State) : (fresh s).2.stores = s.stores := rfl
@[simp] theorem fresh_plots (s : State) : (fresh s).2.plots = s.plots := rfl
@[simp] theorem fresh_swm (s : State) : (fresh s).2.swm = s.swm := rfl
@[simp] theorem fresh_evicted (s : State) : (fresh s).2.evicted = s.evicted := rfl
@[simp] theorem fresh_bodies (s : State) : (fresh s).2.bodies = s.bodies := rfl
@[simp] theorem fresh_fountain (s : State) : (fresh s).2.fountain = s.fountain := rfl
@[simp] theorem fresh_events (s : State) : (fresh s).2.events = s.events := rfl
@[simp] theorem fresh_dump (s : State) : (fresh s).2.dump = s.dump := rfl
@[simp] theorem fresh_bist (s : State) : (fresh s).2.bist = s.bist := rfl
@[simp] theorem fresh_journal (s : State) : (fresh s).2.journal = s.journal := rfl
@[simp] theorem fresh_vault (s : State) : (fresh s).2.vault = s.vault := rfl
@[simp] theorem fresh_bridge (s : State) : (fresh s).2.bridge = s.bridge := rfl
@[simp] theorem fresh_sundial (s : State) : (fresh s).2.sundial = s.sundial := rfl

/-! ## A record posted -/

@[simp] theorem postRecord_pending (s : State) (type subtype : Nat) (allot : W16) (holder : Nat) (body : List Byte) : (postRecord s type subtype allot holder body).1.pending = s.pending := rfl
@[simp] theorem postRecord_freeCount (s : State) (type subtype : Nat) (allot : W16) (holder : Nat) (body : List Byte) : (postRecord s type subtype allot holder body).1.freeCount = s.freeCount := rfl
@[simp] theorem postRecord_boot (s : State) (type subtype : Nat) (allot : W16) (holder : Nat) (body : List Byte) : (postRecord s type subtype allot holder body).1.boot = s.boot := rfl
@[simp] theorem postRecord_clocks (s : State) (type subtype : Nat) (allot : W16) (holder : Nat) (body : List Byte) : (postRecord s type subtype allot holder body).1.clocks = s.clocks := rfl
@[simp] theorem postRecord_otp (s : State) (type subtype : Nat) (allot : W16) (holder : Nat) (body : List Byte) : (postRecord s type subtype allot holder body).1.otp = s.otp := rfl
@[simp] theorem postRecord_lc (s : State) (type subtype : Nat) (allot : W16) (holder : Nat) (body : List Byte) : (postRecord s type subtype allot holder body).1.lc = s.lc := rfl
@[simp] theorem postRecord_lodge (s : State) (type subtype : Nat) (allot : W16) (holder : Nat) (body : List Byte) : (postRecord s type subtype allot holder body).1.lodge = s.lodge := rfl
@[simp] theorem postRecord_gh (s : State) (type subtype : Nat) (allot : W16) (holder : Nat) (body : List Byte) : (postRecord s type subtype allot holder body).1.gh = s.gh := rfl
@[simp] theorem postRecord_link (s : State) (type subtype : Nat) (allot : W16) (holder : Nat) (body : List Byte) : (postRecord s type subtype allot holder body).1.link = s.link := rfl
@[simp] theorem postRecord_regs (s : State) (type subtype : Nat) (allot : W16) (holder : Nat) (body : List Byte) : (postRecord s type subtype allot holder body).1.regs = s.regs := rfl
@[simp] theorem postRecord_sched (s : State) (type subtype : Nat) (allot : W16) (holder : Nat) (body : List Byte) : (postRecord s type subtype allot holder body).1.sched = s.sched := rfl
@[simp] theorem postRecord_units (s : State) (type subtype : Nat) (allot : W16) (holder : Nat) (body : List Byte) : (postRecord s type subtype allot holder body).1.units = s.units := rfl
@[simp] theorem postRecord_allots (s : State) (type subtype : Nat) (allot : W16) (holder : Nat) (body : List Byte) : (postRecord s type subtype allot holder body).1.allots = s.allots := rfl
@[simp] theorem postRecord_queues (s : State) (type subtype : Nat) (allot : W16) (holder : Nat) (body : List Byte) : (postRecord s type subtype allot holder body).1.queues = s.queues := rfl
@[simp] theorem postRecord_jobs (s : State) (type subtype : Nat) (allot : W16) (holder : Nat) (body : List Byte) : (postRecord s type subtype allot holder body).1.jobs = s.jobs := rfl
@[simp] theorem postRecord_ice (s : State) (type subtype : Nat) (allot : W16) (holder : Nat) (body : List Byte) : (postRecord s type subtype allot holder body).1.ice = s.ice := rfl
@[simp] theorem postRecord_digests (s : State) (type subtype : Nat) (allot : W16) (holder : Nat) (body : List Byte) : (postRecord s type subtype allot holder body).1.digests = s.digests := rfl
@[simp] theorem postRecord_curves (s : State) (type subtype : Nat) (allot : W16) (holder : Nat) (body : List Byte) : (postRecord s type subtype allot holder body).1.curves = s.curves := rfl
@[simp] theorem postRecord_kept (s : State) (type subtype : Nat) (allot : W16) (holder : Nat) (body : List Byte) : (postRecord s type subtype allot holder body).1.kept = s.kept := rfl
@[simp] theorem postRecord_stores (s : State) (type subtype : Nat) (allot : W16) (holder : Nat) (body : List Byte) : (postRecord s type subtype allot holder body).1.stores = s.stores := rfl
@[simp] theorem postRecord_plots (s : State) (type subtype : Nat) (allot : W16) (holder : Nat) (body : List Byte) : (postRecord s type subtype allot holder body).1.plots = s.plots := rfl
@[simp] theorem postRecord_swm (s : State) (type subtype : Nat) (allot : W16) (holder : Nat) (body : List Byte) : (postRecord s type subtype allot holder body).1.swm = s.swm := rfl
@[simp] theorem postRecord_evicted (s : State) (type subtype : Nat) (allot : W16) (holder : Nat) (body : List Byte) : (postRecord s type subtype allot holder body).1.evicted = s.evicted := rfl
@[simp] theorem postRecord_bodies (s : State) (type subtype : Nat) (allot : W16) (holder : Nat) (body : List Byte) : (postRecord s type subtype allot holder body).1.bodies = s.bodies := rfl
@[simp] theorem postRecord_fountain (s : State) (type subtype : Nat) (allot : W16) (holder : Nat) (body : List Byte) : (postRecord s type subtype allot holder body).1.fountain = s.fountain := rfl
@[simp] theorem postRecord_events (s : State) (type subtype : Nat) (allot : W16) (holder : Nat) (body : List Byte) : (postRecord s type subtype allot holder body).1.events = s.events := rfl
@[simp] theorem postRecord_dump (s : State) (type subtype : Nat) (allot : W16) (holder : Nat) (body : List Byte) : (postRecord s type subtype allot holder body).1.dump = s.dump := rfl
@[simp] theorem postRecord_bist (s : State) (type subtype : Nat) (allot : W16) (holder : Nat) (body : List Byte) : (postRecord s type subtype allot holder body).1.bist = s.bist := rfl
@[simp] theorem postRecord_vault (s : State) (type subtype : Nat) (allot : W16) (holder : Nat) (body : List Byte) : (postRecord s type subtype allot holder body).1.vault = s.vault := rfl
@[simp] theorem postRecord_bridge (s : State) (type subtype : Nat) (allot : W16) (holder : Nat) (body : List Byte) : (postRecord s type subtype allot holder body).1.bridge = s.bridge := rfl
@[simp] theorem postRecord_sundial (s : State) (type subtype : Nat) (allot : W16) (holder : Nat) (body : List Byte) : (postRecord s type subtype allot holder body).1.sundial = s.sundial := rfl

/-! ## A frame posted -/

@[simp] theorem postFrame_pending (s : State) (holder type tseq : Nat) (payload : List Byte) : (postFrame s holder type tseq payload).pending = s.pending := rfl
@[simp] theorem postFrame_freeCount (s : State) (holder type tseq : Nat) (payload : List Byte) : (postFrame s holder type tseq payload).freeCount = s.freeCount := rfl
@[simp] theorem postFrame_boot (s : State) (holder type tseq : Nat) (payload : List Byte) : (postFrame s holder type tseq payload).boot = s.boot := rfl
@[simp] theorem postFrame_clocks (s : State) (holder type tseq : Nat) (payload : List Byte) : (postFrame s holder type tseq payload).clocks = s.clocks := rfl
@[simp] theorem postFrame_otp (s : State) (holder type tseq : Nat) (payload : List Byte) : (postFrame s holder type tseq payload).otp = s.otp := rfl
@[simp] theorem postFrame_lc (s : State) (holder type tseq : Nat) (payload : List Byte) : (postFrame s holder type tseq payload).lc = s.lc := rfl
@[simp] theorem postFrame_lodge (s : State) (holder type tseq : Nat) (payload : List Byte) : (postFrame s holder type tseq payload).lodge = s.lodge := rfl
@[simp] theorem postFrame_gh (s : State) (holder type tseq : Nat) (payload : List Byte) : (postFrame s holder type tseq payload).gh = s.gh := rfl
@[simp] theorem postFrame_link (s : State) (holder type tseq : Nat) (payload : List Byte) : (postFrame s holder type tseq payload).link = s.link := rfl
@[simp] theorem postFrame_regs (s : State) (holder type tseq : Nat) (payload : List Byte) : (postFrame s holder type tseq payload).regs = s.regs := rfl
@[simp] theorem postFrame_sched (s : State) (holder type tseq : Nat) (payload : List Byte) : (postFrame s holder type tseq payload).sched = s.sched := rfl
@[simp] theorem postFrame_units (s : State) (holder type tseq : Nat) (payload : List Byte) : (postFrame s holder type tseq payload).units = s.units := rfl
@[simp] theorem postFrame_allots (s : State) (holder type tseq : Nat) (payload : List Byte) : (postFrame s holder type tseq payload).allots = s.allots := rfl
@[simp] theorem postFrame_queues (s : State) (holder type tseq : Nat) (payload : List Byte) : (postFrame s holder type tseq payload).queues = s.queues := rfl
@[simp] theorem postFrame_jobs (s : State) (holder type tseq : Nat) (payload : List Byte) : (postFrame s holder type tseq payload).jobs = s.jobs := rfl
@[simp] theorem postFrame_ice (s : State) (holder type tseq : Nat) (payload : List Byte) : (postFrame s holder type tseq payload).ice = s.ice := rfl
@[simp] theorem postFrame_digests (s : State) (holder type tseq : Nat) (payload : List Byte) : (postFrame s holder type tseq payload).digests = s.digests := rfl
@[simp] theorem postFrame_curves (s : State) (holder type tseq : Nat) (payload : List Byte) : (postFrame s holder type tseq payload).curves = s.curves := rfl
@[simp] theorem postFrame_kept (s : State) (holder type tseq : Nat) (payload : List Byte) : (postFrame s holder type tseq payload).kept = s.kept := rfl
@[simp] theorem postFrame_stores (s : State) (holder type tseq : Nat) (payload : List Byte) : (postFrame s holder type tseq payload).stores = s.stores := rfl
@[simp] theorem postFrame_plots (s : State) (holder type tseq : Nat) (payload : List Byte) : (postFrame s holder type tseq payload).plots = s.plots := rfl
@[simp] theorem postFrame_swm (s : State) (holder type tseq : Nat) (payload : List Byte) : (postFrame s holder type tseq payload).swm = s.swm := rfl
@[simp] theorem postFrame_evicted (s : State) (holder type tseq : Nat) (payload : List Byte) : (postFrame s holder type tseq payload).evicted = s.evicted := rfl
@[simp] theorem postFrame_bodies (s : State) (holder type tseq : Nat) (payload : List Byte) : (postFrame s holder type tseq payload).bodies = s.bodies := rfl
@[simp] theorem postFrame_fountain (s : State) (holder type tseq : Nat) (payload : List Byte) : (postFrame s holder type tseq payload).fountain = s.fountain := rfl
@[simp] theorem postFrame_events (s : State) (holder type tseq : Nat) (payload : List Byte) : (postFrame s holder type tseq payload).events = s.events := rfl
@[simp] theorem postFrame_dump (s : State) (holder type tseq : Nat) (payload : List Byte) : (postFrame s holder type tseq payload).dump = s.dump := rfl
@[simp] theorem postFrame_bist (s : State) (holder type tseq : Nat) (payload : List Byte) : (postFrame s holder type tseq payload).bist = s.bist := rfl
@[simp] theorem postFrame_journal (s : State) (holder type tseq : Nat) (payload : List Byte) : (postFrame s holder type tseq payload).journal = s.journal := rfl
@[simp] theorem postFrame_vault (s : State) (holder type tseq : Nat) (payload : List Byte) : (postFrame s holder type tseq payload).vault = s.vault := rfl
@[simp] theorem postFrame_sundial (s : State) (holder type tseq : Nat) (payload : List Byte) : (postFrame s holder type tseq payload).sundial = s.sundial := rfl

end Sys2Proof.Machine
end

