-- ==== Sys2Proof/Tests/Slice0.lean ====
section
/-! SUPPORT. Tests: ill-formed commands, witnesses of the claims' hypotheses, words and worked examples of the spec. -/
namespace Sys2Proof.Tests
open Sys2Proof Sys2Proof.Machine

/-! ## Small states -/

/-- The first job of queue 0 of allotment 0, and of allotment 1. -/
def ref0 : JobRef := ⟨0, 0, 0⟩
def ref1 : JobRef := ⟨1, 0, 0⟩

/-- PF0 ready for traffic, and a ready device in PRODUCTION with one tenant; tick 8,192. -/
def pf0 : Func := { Func.reset with mse := true, bme := true, msixEnable := true, masked := [] }
def tenant : Allotment := { Allotment.admin with page := 1, quota := 100, func := some 0 }
def calm : State :=
  { State.reset with
    boot := { Boot.reset with
      porst := false, stage := 8, ready := true, sysReady := true, step := 7 }
    lc := { LifeCycle.blank with inForce := 2, pending := 2 }
    otp.lcWords := lifeWords 2
    link := { Link.reset with perst := false, up := true, funcs := [(0, pf0)] }
    fountain := { Fountain.reset with
      started := true, ready := true, instantiated := true, drbgKey := zeroBytes 32, drbgV := zeroBytes 16 }
    ice := { Ice.reset with ready := true, root := 2 }
    gh.calibrated := true
    sched.tick := 8192
    allots := [(0, Allotment.admin)] }
def up : State := { calm with allots := [(0, Allotment.admin), (1, tenant)] }

/-- An empty queue, a job of an opcode, and a state with one job. -/
def queue0 : Queue :=
  { base := 0x100000, log2n := 4, scan := 0, inflight := [], stop := none, awaiting := false, reading := false,
    rang := none, bell := none, vector := none, modCount := 1, modTicks := 0, pendCount := 0, pendSince := 0, pendTick := 0,
    pendNew := 0, closing := false }
def jobOf (opcode : W16) : Job :=
  newJob up 0 { parseEntry (zeroBytes 64) with opcode := opcode, ctrl := 0x0100 } false
def withJob (r : JobRef) (j : Job) : State := { up with jobs := [(refKey r, j)] }

/-- The state after a command. -/
def after (o : Host.Outcome State Fault Refusal) : State := match o with
  | .next t => t
  | _ => State.reset

/-! ## Ill-formed commands -/

theorem test_width_three_refused : step (up.push (.linkTrainingEnd 5 3)) = .refused .illFormed := rfl
theorem test_empty_read_refused : step (up.push (.dataReadArrival ref0 [])) = .refused .illFormed := rfl

/-! ## Witnesses: the block as a machine, reset and boot -/

theorem witness_idle : State.reset.pending = [] := rfl
theorem witness_form : Instr.wellFormed .bootGo = true ∧ Instr.wellFormed (.linkTrainingEnd 0 1) = false := by decide
theorem witness_step : step (State.reset.push .linkResetEnd) = .next { State.reset with link.perst := false } := rfl
theorem witness_sources : 2 ≤ up.boot.stage ∧ up.dump.onGlobal = false ∧ 1 ≤ up.boot.stage := by decide
def stage (n : Nat) : State := { up with boot := { Boot.reset with porst := false, stage := n } }
theorem witness_release : (State.reset.boot.power = true ∧ State.reset.boot.porst = true) ∧
    ({ stage 1 with boot.thermalHold := true } : State).boot.thermalHold = true ∧
    ((stage 2).boot.stage = 2 ∧ (stage 2).boot.pllLocked = false ∧ (stage 2).boot.halted = false ∧ (stage 2).boot.pllTries < 2) ∧
    ({ stage 3 with boot.pllTries := 2 } : State).boot.pllTries = 2 ∧
    ((stage 3).boot.power = true ∧ (stage 3).boot.porst = false ∧ (stage 3).boot.halted = false) ∧
    8 ≤ ({ stage 4 with lodge.failures := 8 } : State).lodge.failures := by decide

/-! ## Witnesses: the host link and the registers -/

def vfs : State :=
  { up with
    link := { up.link with vfEnable := true, numVfs := 2, funcs := [(0, pf0), (2, pf0)] }
    allots := [(0, Allotment.admin), (1, tenant), (5, { tenant with func := some 2, page := 7 })] }
theorem witness_link : State.reset.boot.ready = false ∧
    ((stage 5).boot.stage = 5 ∧ State.reset.link.up = false ∧ trainedLink 5 8 = true) ∧
    funcExists vfs 2 = true ∧ funcExists vfs 3 = false ∧ (up.link.credit = true) ∧ (calm.boot.ready = true ∧ tenants calm = []) := by decide
theorem witness_functions : (funcExists vfs 2 = true ∧ (funcAt vfs 2).bme = true ∧ (funcAt vfs 2).d3hot = false) ∧
    (funcAt ({ vfs with link.funcs := [(2, { pf0 with d3hot := true })] } : State) 2).d3hot = true ∧
    (up.link.vfEnable = false ∧ up.link.pageSize = 1) ∧ vfs.link.vfEnable = true := by decide
theorem witness_config : up.link.up = true ∧ funcExists up 0 = true ∧ up.otp.fuseVariant = 0 := by decide
def readQueue : Queue := { queue0 with reading := true }
def reading : State := { withJob ref1 { jobOf 0x0101 with entry := { (jobOf 0x0101).entry with inLen := 64 } } with
  queues := [(8, readQueue)]
  allots := [(0, Allotment.admin), (1, { tenant with reads := [⟨1, false, 0, 0x100000, 64, false⟩, ⟨257, true, 32768, 0, 64, false⟩] })] }
theorem witness_reads : KMap.get? reading.queues (queueKey 1 0) = some readQueue ∧
    (KMap.get? reading.allots 1).bind (fun x => x.reads.find? (serves false 0)) = some ⟨1, false, 0, 0x100000, 64, false⟩ ∧
    (KMap.get? reading.allots 1).bind (fun x => x.reads.find? (serves true (refKey ref1))) = some ⟨257, true, 32768, 0, 64, false⟩ ∧
    (KMap.get? reading.jobs (refKey ref1)).isSome = true := by decide
theorem witness_late : up.jobs = [] ∧ up.allots.all (fun p => !p.2.destroying) = true ∧
    up.queues.all (fun p => !p.2.closing) = true ∧ up.bist.running = false ∧ up.bridge.commits = [] ∧
    up.bridge.staged = [] ∧ up.gh.executing ≠ 6 := by decide
theorem witness_accesses : alignedAccess 0x10 0x0F = some 4 ∧ alignedAccess 0x10 0xFF = some 8 ∧ alignedAccess 0x10 0x3C = none ∧
    up.boot.ready = true ∧ up.regs.admCtrl.getLsbD 0 = false ∧
    ({ up with regs.admCtrl := 1 } : State).regs.admCtrl.getLsbD 0 = true ∧
    ({ up with journal.jxEnable := true } : State).journal.jxEnable = true ∧ up.lc.inForce ≠ 1 := by decide
def ringOf (size : W32) : State := { up with events := { up.events with size := size, notice := true } }
theorem witness_event_vector : let s := { ringOf 6 with queues := [(0, { queue0 with vector := some 3 }), (9, queue0)] }
    KMap.wf s.queues = true ∧ ∀ k q, KMap.get? s.queues k = some q → funcOf s (k / 8) = 0 → q.vector ≠ some 5 := by
  refine ⟨by decide, fun k q h _ => ?_⟩
  simp only [KMap.get?] at h
  split at h
  · cases h; decide
  · split at h <;> cases h; decide
def relinked (writable : Bool) : State := { up with
  ice := { up.ice with keys := [(64, { Key.reserved with live := true })] }
  vault := { up.vault with mounted := writable, mountedThisBoot := writable } }
def maskingAer : State := { up with link := { up.link with funcs := [(0, { pf0 with config := [(0x108, 0x400000)] })] } }
theorem witness_link_claims : (∀ b, (relinked b).boot.ready = true ∧ (relinked b).jobs = [] ∧
      KMap.get? (relinked b).allots 1 = some tenant ∧ liveKeys (relinked b) 1 ≠ [] ∧ vaultWritable (relinked b) = b) ∧
    (funcExists up 0 = true ∧ 63 < vectorCount up 0 ∧ vectorCount up 0 ≤ 64 ∧ funcExists vfs 3 = false) ∧
    (aerMasked (funcAt maskingAer 0) .uncorrectableInternal = true ∧ aerMasked (funcAt up 0) .uncorrectableInternal = false ∧
      up.link.credit = true ∧ ({ up with link.credit := false } : State).link.credit = false) := by decide
def shutOff : State := { up with link := { up.link with funcs := [(0, { pf0 with mse := false })] } }
theorem witness_register_claims : (funcExists shutOff 0 = true ∧ (funcAt shutOff 0).mse = false) ∧
    ((0xC012 : W16).toNat % 8 ≠ 0 ∧ (0xC012 : W16).toNat % 4 ≠ 0 ∧ [0x0, 0x6, 0x7, 0xA, 0xD, 0xE, 0xF].contains ((0xA000 : W16).toNat / 4096) = true) ∧
    (State.reset.boot.ready = false ∧ bootRegister (0x4008 : W16).toNat = false) ∧ ({ up with lc.inForce := 1 } : State).lc.inForce = 1 := by decide
theorem witness_event_registers : (ringOf 6).boot.ready = true ∧ (ringOf 6).events.enable = false ∧
    (2 : W32).getLsbD 1 = true ∧ (ringOf 16).events.size.toNat % 32 = 16 ∧ (ringOf 17).events.size.toNat % 32 = 17 ∧
    (ringOf 5).events.size.toNat % 32 = 5 ∧ ({ ringOf 6 with events.enable := true } : State).events.enable = true ∧
    up.events.notice = false := by decide
def record (tick : Nat) (unit : Byte) (code : W16) (cls : Nat) : Event :=
  { first := false, cls := cls, code := code, allot := 0xFFFF, unit := unit, source := 0xFF, tick := tick, count := 1,
    detail := zeroBytes 12 }
def logged : State := { up with events := { up.events with
  fifo := [record 4 9 2 1, record 4 8 3 4, record 5 0 1 0], enable := true, ringLog := 6, notice := true } }
theorem witness_records : logged.events.fifo.Pairwise (fun a b => a.tick ≤ b.tick) ∧
    nextRecord logged.events.fifo = some (record 4 8 3 4, [record 4 9 2 1, record 5 0 1 0]) ∧ 4 < now logged ∧
    logged.events.enable = true ∧ masters logged 0 = true ∧ logged.link.credit = true ∧
    logged.events.lastWrite ≠ some (now logged) ∧ eventRingFull logged.events = false := by decide
theorem witness_folds : up.events.ffcValid = false ∧ (2 ≤ (record 4 8 3 4).cls) ∧
    logged.events.fifo.any (sameKey · (record 9 8 3 4)) = true ∧ logged.events.fifo.any (sameKey · (record 9 8 4 4)) = false ∧
    (List.replicate 64 (record 4 9 2 1)).any (sameKey · (record 4 8 3 4)) = false := by decide
def admin (base limit : W64) : State := { calm with regs := { calm.regs with
  admBase := 0x1000FF000, admWinBase := base, admWinLimit := limit } }
theorem witness_adm : admFailure (admin 0x100000000 0x100100000) 0x0000003203010161 = none ∧
    admFailure (admin 0x100000000 0x100100000) 0x31 = some 1 ∧ admFailure (admin 0x100100000 0x100000000) 0x61 = some 5 ∧
    ({ calm with regs := { calm.regs with admEnabled := true } } : State).regs.admDraining = false ∧
    jobsOfQueue calm 0 0 = [] := by decide
theorem witness_setup : up.boot.ready = true ∧ (0x600 : BitVec 16) ≤ up.otp.biasLim ∧ up.otp.biasLim < (0x601 : BitVec 16) ∧
    (0x400 : BitVec 16) ≤ up.otp.corrLim ∧ up.otp.corrLim < (0x401 : BitVec 16) ∧ up.otp.sdlThresh ≤ 60 ∧ 59 < up.otp.sdlThresh ∧
    ({ up with lc.inForce := 1 } : State).lc.inForce = 1 ∧ up.fountain.patternEn = false ∧
    (up.journal.jxEnable = false ∧ ({ up with journal.jxSize := 10 } : State).journal.jxSize.toNat % 32 = 10) ∧
    ({ up with vault.mounted := true } : State).vault.foreign = false := by decide
theorem witness_debug : (2 ≤ (stage 2).boot.stage ∧ ({ stage 2 with lc.inForce := 0 } : State).lc.inForce = 0) ∧
    tenantsActive reading = true ∧ tenantsActive up = false ∧ ({ up with lc.inForce := 1 } : State).lc.inForce = 1 ∧
    (2 ≤ up.lc.inForce) ∧
    (({ up with dump.mediaCopy := some (1, [(0, [1])]), lc.inForce := 3 } : State).dump.mediaCopy = some (1, [(0, [1])])) := by decide

/-! ## Witnesses: rings and jobs -/

def ringing (v : Queue) : State := { up with queues := [(8, v)], sched.rotation := [0, 1] }
theorem witness_doorbell : up.boot.ready = true ∧ funcExists up 0 = true ∧ (funcAt up 0).mse = true ∧
    pageOwner up 0 1 = some 1 ∧ pageOwner up 0 4095 = none := by decide
theorem witness_scan : KMap.get? (ringing { queue0 with stop := some .notOwned, rang := some 8000 }).queues (queueKey 1 0) =
      some { queue0 with stop := some .notOwned, rang := some 8000 } ∧
    KMap.get? up.allots 1 = some tenant ∧ mayFetch up 1 = true ∧ queue0.closing = false ∧ queue0.inflight.length < 32 ∧
    tenant.inflight < tenant.quota ∧ queue0.inflight.contains queue0.scan = false ∧ KMap.has up.jobs (jobKey 1 0 0) = false ∧
    8000 < now up ∧ (limited (ringing { queue0 with stop := some .limit }) 1).head? = some 0 := ⟨rfl, by decide⟩
theorem witness_issue : let s := ringing { queue0 with awaiting := true }
    mayFetch s 1 = true ∧ (awaitingQueues s 1).head? = some 0 ∧ KMap.getD s.sched.served 1 0 < turnsOf s 1 ∧
      freeTag s 1 false = some 0 ∧ queue0.inflight.length < 32 ∧ tenant.inflight < tenant.quota := by decide
def ownEntry (opcode : W16) : Vector Byte 64 :=
  Vector.ofFn fun i => if i.val = 0 then 1 else if i.val = 2 then opcode.setWidth 8 else if i.val = 3 then (opcode >>> 8).setWidth 8 else 0
theorem witness_arrival : readQueue.reading = true ∧ (parseEntry (ownEntry 0).toList).own = true ∧
    (parseEntry (zeroBytes 64)).own = false ∧ readQueue.bell = none ∧ ({ readQueue with bell := some 8191 }).bell = some 8191 ∧ readQueue.scan < 2 ^ readQueue.log2n ∧
    readQueue.log2n ≤ 12 := by decide
theorem witness_admin_elsewhere : (parseEntry (ownEntry 0xF001).toList).own = true ∧
    (parseEntry (ownEntry 0xF001).toList).opcode.toNat / 256 = 0xF0 ∧ ((1 : BitVec 12) ≠ 0 ∨ (0 : BitVec 3) ≠ 0) := by decide
def tableJob : Job := { jobOf 0x0101 with phase := .tables, table := some (0x200000, 3) }
/-- Reads of a job's input: one that waits for its bytes, and one that the isolation wrapper has answered. -/
def fetching (j : Job) (answered : Bool) : State := { withJob ref1 j with
  allots := [(0, Allotment.admin), (1, { tenant with reads := [⟨257, true, 32768, 0, 64, answered⟩] })] }
theorem witness_data_reads : KMap.get? (fetching tableJob false).jobs (refKey ref1) = some tableJob ∧
    (∀ b, (KMap.get? (fetching tableJob b).allots ref1.allot.toNat).bind (fun x => x.reads.find? (serves true (refKey ref1))) =
      some ⟨257, true, 32768, 0, 64, b⟩) ∧
    tableJob.phase = .tables ∧ tableJob.table = some (0x200000, 3) ∧ 47 ≤ 64 ∧ (jobOf 0x0101).phase ≠ .tables ∧
    framed (fetching (jobOf 0x0101) false) (refKey ref1) (jobOf 0x0101) = false := by decide
theorem witness_data : tableJob.landed.length + 47 < 16 * 3 ∧ readLimit up 1 = 512 ∧
    (KMap.get? reading.jobs (refKey ref1)).map (fun j => decide (j.phase ≠ .tables) && decide (framed reading (refKey ref1) j = false)) =
      some true := by decide
def lentTo (a : Option Nat) (job : Option Nat) : UnitSt :=
  { UnitSt.idle with residences := { Residence.idle with holder := a, job := job } :: List.replicate 7 Residence.idle }
def waiting : Job := { jobOf 0x0101 with phase := .unplaced, waitFrom := 8128 }
def roomy (u : UnitSt) : State :=
  { withJob ref1 waiting with
    units := u :: List.replicate 11 UnitSt.idle
    allots := [(0, Allotment.admin), (1, { tenant with evictBlocks := 2 })] }
theorem witness_placed : (factsD (roomy (lentTo (some 1) none)) (refKey ref1) waiting).placed = some .parterre ∧
    awaitsPlace waiting = true ∧ awaitsPlace { waiting with phase := .ready, evicted := true } = true ∧
    jobsWithState (roomy (lentTo (some 1) none)) 1 < stateLimit (roomy (lentTo (some 1) none)) 1 ∧
    choosePlace (roomy (lentTo (some 1) none)) 1 .parterre = some (0, 0) := by decide
def crowded : State :=
  { roomy (lentTo (some 1) (some 32769)) with jobs := [(32768, waiting), (32769, { jobOf 0x0101 with phase := .ready, place := some (0, 0) })] }
theorem witness_wait : choosePlace crowded 1 .parterre = none ∧ waiting.waitFrom + 64 ≤ now crowded ∧
    evictionFor crowded 32768 = false ∧
    ((classUnits crowded .parterre).find? fun u => unitOpen crowded u && decide (evictable crowded 1 u ≠ [])) = some 0 ∧
    leastUsed crowded 0 (evictable crowded 1 0) = some 0 ∧ (residenceAt crowded 0 0).job = some 32769 := by decide
def readyJob (opcode : W16) : Job := { jobOf opcode with phase := .ready, lastReady := 8191 }
def dry (opcode : W16) (r : JobRef) : State := { withJob r (readyJob opcode) with fountain.ready := false }
theorem witness_dispatch_admin : (readyJob 0xF001).lastReady < now up ∧ up.dump.active = none ∧
    contextBusy (withJob ref0 (readyJob 0xF005)) 0 (readyJob 0xF005) = false ∧ family (readyJob 0xF005) = 0xF0 ∧
    adminTurn (withJob ref0 (readyJob 0xF005)) 0 (readyJob 0xF005) = true ∧
    needsRandom (withJob ref0 (readyJob 0xF005)) 0 (readyJob 0xF005) = false ∧
    needsRandom (dry 0xF001 ref0) 0 (readyJob 0xF001) = true ∧ (dry 0xF001 ref0).fountain.startupExpired = false := by decide
theorem witness_dispatch : family (readyJob 0x0101) ≠ 0xF0 ∧ contextBusy (withJob ref1 (readyJob 0x0101)) 32768 (readyJob 0x0101) = false ∧
    needsRandom (dry 0x0101 ref1) 32768 (readyJob 0x0101) = true ∧
    (factsD (withJob ref1 (readyJob 0x0101)) 32768 (readyJob 0x0101)).shared = true ∧
    seedFor (withJob ref1 (readyJob 0x0101)) (readyJob 0x0101) = false ∧
    (factsD (withJob ref1 (readyJob 0x1301)) 32768 (readyJob 0x1301)).shared = false := by decide
def endedJob : Job := { jobOf 0x0101 with phase := .decided, decidedAt := 8192, output := [1, 2, 3] }
theorem witness_completion : endedJob.decidedAt ≤ now up ∧ endedJob.discard = false ∧ up.link.credit = true ∧
    ({ endedJob with discard := true }).discard = true := by decide
theorem witness_moderation : let x := { queue0 with vector := some 3, pendCount := 1, pendSince := 8191, modTicks := 1 }
    1 ≤ x.pendCount ∧ x.pendSince < now up ∧ x.modCount ≤ x.pendCount ∧ x.pendSince + x.modTicks ≤ now up ∧
    vectorOpen (funcAt up (funcOf up 1)) 3 = true ∧ vectorOpen { pf0 with masked := [3] } 3 = false := by decide

/-! ## Witnesses: ticks, slots, masks and the rows of the job families -/

def ending : State := { calm with sched.tick := 12287 }
theorem witness_quiet : quiet calm ∧ 4 ≤ calm.boot.stage ∧ offsetOf (now calm) ≠ 4095 ∧ offsetOf (now ending) = 4095 ∧
    (stage 3).boot.stage < 4 := by unfold quiet; decide
def lateLease : Allotment := { tenant with pendingLease := some (3, Lease.none) }
theorem witness_lease : lateLease.pendingLease = some (3, Lease.none) ∧ 4096 * 3 ≤ ending.sched.tick + 1 ∧
    ending.sched.tick + 1 < 4096 * 4 ∧ tenant.pendingLease = none := by decide
theorem witness_slots : let l : List SlotEntry := [⟨1, 4000, 0⟩, ⟨4096, 96, 0⟩]
    l ≠ [] ∧ (l.map fun e => e.id).Nodup ∧ (l.map fun e => e.weight).sum = 4096 := by decide
def masked (seeded standby delivered : Bool) (tick : Nat) : State := setUnit up 2 { unitAt up 2 with
  mask := { MaskGen.unseeded with seeded := seeded, standby := standby, squeezeTick := tick, delivered := delivered } }
theorem witness_masks : (unitAt (masked true false false 657) 2).mask.requested = false ∧
    (unitAt (masked true true false 1312) 2).mask.squeezeTick = 1312 ∧ (unitAt (masked true false true 9) 2).mask.delivered = true ∧
    (unitAt (masked false false true 9) 2).mask.seeded = false := by decide
def starved : State := { withJob ref1 { jobOf 0x0101 with
  phase := .running, shared := true, place := some (2, 1), lastReady := 1 } with sched.tick := 262145 }
theorem witness_starved : (KMap.get? starved.jobs (refKey ref1)).map (fun j => decide (j.phase = .running) && j.shared) = some true ∧
    (unitAt starved 2).mask.seeded = false ∧ 1 + 262144 ≤ now starved ∧ now up < 1 + 262144 := by decide
def startJob (opcode : W16) : Job := { jobOf opcode with phase := .dispatched }
def startState (opcode : W16) : State := withJob ref1 (startJob opcode)
def checked (opcode : W16) : State × Option Status :=
  runChecks dispatchChecks (startState opcode) 32768 (factsD (startState opcode) 32768 (startJob opcode))
theorem witness_start : (startJob 0x1301).entry.opcode.toNat ∉ reservingOpcodes ∧ (checked 0x1301).2 = none ∧
    ((factsD (startState 0x1301) 32768 (startJob 0x1301)).plan 0).filter (fun q => decide (q.2 ≠ 0)) ≠ [] ∧
    (factsD (startState 0x0101) 32768 (startJob 0x0101)).draw.1 ≠ 0 := by decide
theorem witness_decide : isOpenJob (startJob 0x1306) = false ∧ (checked 0x1306).2 = none ∧
    (factsD (startState 0x1306) 32768 (startJob 0x1306)).draw.1 = 0 ∧
    (KMap.get? (checked 0x1306).1.jobs 32768).all (fun x => decide (x.waits = []) && decide (x.houseBefore = 0) &&
      decide (x.houseAfter = 0) && x.slot.isNone) = true ∧ mirrors (checked 0x1306).1 = false := by decide
theorem witness_decide_plan (n : Nat) :
    ((factsD (startState 0x1306) 32768 (startJob 0x1306)).plan n).filter (fun q => decide (q.2 ≠ 0)) = [] := rfl
theorem witness_fail : (checked 0x4001).2 = some .openRoutine ∧ (startJob 0x1301).entry.keyh = 0 := by decide
theorem witness_passes : (factsD (startState 0x0103) 32768 (startJob 0x0103)).creates = .nothing ∧
    family (startJob 0x0103) ∈ [0x01, 0x02, 0x03, 0x04, 0x08, 0x11, 0x12] := by decide

/-! ## Witnesses: jobs that reserve at their start -/

/-- A stateful key at the last index of its live block, a resident key, and the jobs that name them. -/
def treePart : Stateful :=
  { space := 1024, start := 0, nextBlock := 64, live := some (7, 8), opened := none, joined := [], detached := false,
    levels := 1, height := 10, cacheBlocks := 0, cache := [] }
def treeKey : Key := { Key.reserved with
  live := true, type := 0x0501, usage := 0xFF, lcmask := 0xFF, keyBytes := 64, stateful := some treePart }
def plainKey : Key := { treeKey with stateful := none, blocks := 2 }
def vaulted : State := { up with vault := { up.vault with mounted := true, mountedThisBoot := true } }
def keyed (key : Key) : State := { vaulted with ice := { vaulted.ice with
  keys := [(64, key)], residents := [(65, plainKey)], quoteLive := some (3, 4), secret := some (zeroBytes 32) } }
def slotHandle0 (key : Key) : W64 := mkHandle (keyed key) 1 2 0 0
def residentHandle : W64 := mkHandle (keyed plainKey) 1 3 0 1
def keyJob (opcode : W16) (h : W64) (pset : W16) (n : Nat) : Job := { jobOf opcode with
  phase := .dispatched, input := zeroBytes n
  entry := { (jobOf opcode).entry with
    keyh := h, ctrl := 256 * pset, inLen := BitVec.ofNat 32 n, aux := if opcode = 0x0502 then 1 else 0 } }
def keyState (key : Key) (j : Job) : State := { keyed key with jobs := [(32768, j)] }
def keyChecks (key : Key) (j : Job) : State × Option Status :=
  runChecks dispatchChecks (keyState key j) 32768 (factsD (keyState key j) 32768 j)

theorem slotHandle0_found (key : Key) (j : Job) (hl : key.live = true) :
    findKey (keyState key j) 1 (slotHandle0 key).toNat = some (false, 64, key) :=
  findKey_slot (keyState key j) (index := 0) (by decide) (by decide) rfl hl (show 0 < 65536 by decide)
theorem residentHandle_found (j : Job) : findKey (keyState plainKey j) 1 residentHandle.toNat = some (true, 65, plainKey) :=
  findKey_resident (keyState plainKey j) (index := 1) (by decide) (by decide) rfl rfl (show 0 < 65536 by decide)
theorem handle_usable (s : State) (kind index : Nat) (hk : kind < 4) (h2 : 2 ≤ kind) (hi : index < 64) :
    (mkHandle s 1 kind 0 index).toNat ≠ 0 ∧ handleKind (mkHandle s 1 kind 0 index).toNat ≠ 1 := by
  obtain ⟨ha, hb, -⟩ := handle_fields s (a := 1) (gen := 0) (by decide) hk hi
  refine ⟨fun h => ?_, by omega⟩
  rw [h] at ha
  exact absurd ha (by decide)

theorem keyJob_opcode (o : W16) (h : W64) (p : W16) (n : Nat) : (keyJob o h p n).entry.opcode = o := rfl
theorem keyJob_ctrl (o : W16) (h : W64) (p : W16) (n : Nat) : (keyJob o h p n).entry.ctrl = 256 * p := rfl
theorem keyJob_aux (o : W16) (h : W64) (p : W16) (n : Nat) :
    (keyJob o h p n).entry.aux = if o = 0x0502 then 1 else 0 := rfl

/-- LMS SIGN with the last index of the live block: every check passes, and the job draws. -/
def lmsJob : Job := keyJob 0x0502 (slotHandle0 treeKey) 5 64
theorem lms_facts (s : State) : (factsD s 32768 lmsJob).creates = .nothing ∧ (factsD s 32768 lmsJob).draw.1 ≠ 0 := by
  simp [factsD, factsOf, family, operation, psetOf, auxBits, auxKeyDest, lmsJob, keyJob_opcode, keyJob_ctrl, keyJob_aux,
    statefulFacts, Facts.plain, bitsOf, statefulSet, bitOf,
    show Nat.testBit 5 3 = false by decide]
  split <;> simp
theorem witness_reserving : ∃ c y, KMap.get? (keyState treeKey lmsJob).jobs (refKey ref1) = some lmsJob ∧ lmsJob.phase = .dispatched ∧
    keyChecks treeKey lmsJob = (c, none) ∧ KMap.get? c.jobs (refKey ref1) = some y ∧ lmsJob.entry.opcode = 0x0502 ∧
    y.keyRef = some 64 ∧ statefulAt c 64 = some treePart ∧ treePart.live = some (7, 8) ∧
    (factsD (keyState treeKey lmsJob) (refKey ref1) lmsJob).draw.1 ≠ 0 := by
  obtain ⟨hz, hb⟩ := handle_usable (keyed treeKey) 2 0 (by decide) (by decide) (by decide)
  refine ⟨_, { lmsJob with key := some treeKey, keyRef := some 64 }, rfl, rfl,
    runChecks_found (j := lmsJob) rfl (.inl rfl) (lms_facts _).1 (slotHandle0_found treeKey lmsJob rfl) hz hb rfl rfl, ?_, rfl, rfl,
    rfl, rfl, (lms_facts _).2⟩
  exact get?_modJob_same (k := 32768) _ rfl
def quoteJob : Job := keyJob 0x300B 0 0 64
def noteJob : Job := keyJob 0x3801 0 0 64
theorem witness_quote : (keyChecks plainKey quoteJob).2 = none ∧ (keyChecks plainKey quoteJob).1.ice.quoteLive = some (3, 4) ∧
    ((factsD (keyState plainKey quoteJob) 32768 quoteJob).plan 0).filter (fun q => decide (q.2 ≠ 0)) ≠ [] ∧
    (KMap.get? (keyChecks plainKey quoteJob).1.jobs 32768).isSome = true := by decide
theorem witness_notarise : (keyChecks plainKey noteJob).2 = none ∧
    (KMap.get? (keyChecks plainKey noteJob).1.jobs 32768).isSome = true := by decide

/-- DESTROY of a slot key without a stateful part, and of a resident key. -/
def destroySlot : Job := keyJob 0x3009 (slotHandle0 plainKey) 0 0
def destroyResident : Job := keyJob 0x3009 residentHandle 0 0
theorem destroy_facts (s : State) (h : W64) (j : Job) (e : j = keyJob 0x3009 h 0 0) : (factsD s 32768 j).creates = .nothing ∧
    (factsD s 32768 j).draw.1 = 0 ∧ ∀ m, (factsD s 32768 j).plan m = [] := by
  subst e
  simp [factsD, factsOf, family, operation, psetOf, keyJob_opcode, keyJob_ctrl, iceFacts, Facts.plain]
theorem witness_destroy_slot : ∃ c y, keyChecks plainKey destroySlot = (c, none) ∧
    KMap.get? c.jobs (refKey ref1) = some y ∧ y.waits = [] ∧ y.index = 0 ∧ y.houseBefore = 0 ∧ y.houseAfter = 0 ∧ mirrors c = false ∧
    findKey c 1 destroySlot.entry.keyh.toNat = some (false, 64, plainKey) ∧ plainKey.stateful = none := by
  obtain ⟨hz, hb⟩ := handle_usable (keyed plainKey) 2 0 (by decide) (by decide) (by decide)
  have hf := slotHandle0_found plainKey destroySlot rfl
  refine ⟨_, { destroySlot with key := some plainKey, keyRef := some 64 },
    runChecks_found (j := destroySlot) rfl (.inr (.inr rfl)) (destroy_facts _ _ _ rfl).1 hf hz hb rfl rfl, ?_, rfl, rfl, rfl, rfl, rfl,
    (findKey_modJob _ _ _ _ _).trans hf, rfl⟩
  exact get?_modJob_same (k := 32768) _ rfl
theorem witness_destroy_resident : ∃ c y, keyChecks plainKey destroyResident = (c, none) ∧
    KMap.get? c.jobs (refKey ref1) = some y ∧ y.waits = [] ∧ mirrors c = false ∧
    findKey c 1 destroyResident.entry.keyh.toNat = some (true, 65, plainKey) := by
  obtain ⟨hz, hb⟩ := handle_usable (keyed plainKey) 3 1 (by decide) (by decide) (by decide)
  have hf := residentHandle_found destroyResident
  refine ⟨_, { destroyResident with key := some plainKey, keyRef := some 65 },
    runChecks_found (j := destroyResident) rfl (.inr (.inr rfl)) (destroy_facts _ _ _ rfl).1 hf hz hb rfl rfl, ?_, rfl, rfl,
    (findKey_modJob _ _ _ _ _).trans hf⟩
  exact get?_modJob_same (k := 32768) _ rfl

/-! ## Witnesses and words of the Parterre (10_parterre_isa.md) -/

theorem witness_numbers : (15 % 2 = 1 ∧ 3 ≤ 15 ∧ 6 < 15 ∧ 14 < 15) ∧ bnValue 4 15 6 0 = .inl .notInvertible ∧ bnValue 4 15 14 0 = .inr 14 := by
  decide
/-- The words of Table 10-6: SLI s9, 3; VSETVL s4, s3; COMMIT. -/
theorem test_worked_words : decodeOp 0x85200003 = opSli 9 3 ∧ decodeOp 0x04830000 = opVsetvl 4 3 ∧ decodeOp 0xC0000000 = opCommit := ⟨rfl, rfl, rfl⟩

/-- A body with values in three registers under a mode and a modulus. -/
def vmOfMode (mode : ShareMode) : Vm :=
  { body := { Body.idle with
      active := true, mode := mode, vmod := 3329, vl := 2
      vregs := [(256, ⟨5, 0, false⟩), (257, ⟨7, 1, false⟩), (512, ⟨3000, 2, true⟩), (513, ⟨3328, 3328, true⟩)]
      vmodes := if mode = .unshared then [] else [(1, mode), (2, mode)]
      sregs := (List.replicate 32 0).set 5 2
      mregs := [MaskReg.zero, ⟨1, 0, false, false⟩, ⟨1, 0, true, true⟩] ++ List.replicate 5 MaskReg.zero }
    plot := Plot.zero, swm := ⟨[], []⟩, free := 0 }
def plainVm : Vm := vmOfMode .unshared
def envFor (isOpen : Bool) : Env :=
  { isOpen := isOpen, start := 0, words := 100, maxOut := 1000, keyView := some (zeroBytes 64), resident := some (zeroBytes 64),
    maze := none, next := commitWord, land := fun a => (a, none), swmBytes := 6 * 2 ^ 20 }
theorem witness_plain : plainBody plainVm ∧ plainVm.body.vl ≠ 0 ∧ plainVm.body.sregs.length = 32 ∧ plainVm.body.mregs.length = 8 ∧
    plainVm.body.cores.length = 2 := ⟨⟨rfl, rfl, rfl, by decide, by decide, by decide, fun _ => rfl⟩, by decide⟩
theorem witness_shared (d : ShareMode) (h : d ≠ .unshared) : sharedBody (vmOfMode d) d ∧ (vmOfMode d).body.vl ≠ 0 ∧
    vmode (vmOfMode d) 1 = d ∧ vmode (vmOfMode d) 2 = d ∧ vmode (vmOfMode d) 3 = .unshared ∧
    (elemAt (vmOfMode d) 2 0).2.2 = true := by
  cases d <;> first | exact absurd rfl h | exact ⟨⟨rfl, by decide, rfl, rfl, by decide, by decide, by decide⟩, by decide, rfl, rfl, rfl, rfl⟩
theorem witness_masked : (mreg plainVm 1).shared = false ∧ (mreg plainVm 1).prov = false ∧ (mreg plainVm 2).shared = true ∧
    (mreg plainVm 2).prov = true ∧ (mreg plainVm 1).s0.getLsbD 0 = true ∧ (mreg plainVm 1).s0.getLsbD 1 = false := by decide
theorem witness_strided : (∀ j, j < 2 → positionOk plainVm (position plainVm (sreg plainVm 6) (sreg plainVm 5) j) = true) ∧
    (sreg plainVm 5).toInt ≠ 0 ∧ Memory.wf plainVm.plot.mem = true ∧
    (∀ j, j < 2 → positionOk plainVm (position plainVm 15872 (sreg plainVm 5) j) = false) ∧ plainVm.body.firstRead = [] := by decide
def vendorEnv : Env := { envFor false with resident := none }
theorem witness_transfer_swm : vendorEnv.isOpen = false ∧ vendorEnv.resident = none ∧ plainVm.body.firstRead = [] ∧
    Memory.wf plainVm.plot.mem = true ∧ Memory.wf plainVm.swm.mem = true ∧
    positionByte plainVm (sreg plainVm 6).toNat + plainVm.body.vl * (16 * (0 + 1)) ≤ 8 * plotWords ∧
    (∀ i, i < plainVm.body.vl → (sreg plainVm 6).toNat + i * (sreg plainVm 5).toNat + 16 * (0 + 1) ≤ vendorEnv.swmBytes) ∧
    (let m := { plainVm with body := { plainVm.body with sregs := plainVm.body.sregs.set 5 16 } };
      16 * (0 + 1) ≤ (sreg m 5).toNat ∧ ∀ i, i < m.body.vl → (sreg m 6).toNat + i * (sreg m 5).toNat + 16 ≤ vendorEnv.swmBytes) := by decide
theorem witness_transfer : (envFor true).resident = some (zeroBytes 64) ∧
    (∀ i, i < 2 → (sreg plainVm 6).toNat + i * (sreg plainVm 5).toNat + 16 * (1 + 1) ≤ (zeroBytes 64).length) ∧
    positionByte plainVm (sreg plainVm 6).toNat + 2 * (16 * (1 + 1)) ≤ 8 * plotWords ∧
    ({ envFor true with resident := none }).resident = none := by decide
def cored (finalised : Bool) : Vm := setCore { plainVm with body := { plainVm.body with vl := 1 } } 1
  { KCore.idle with live := true, finalised := finalised, rate := 168, pos := 163 }
theorem witness_cores : (coreAt (cored false) 1).live = true ∧ (coreAt (cored false) 1).finalised = false ∧
    (coreAt (cored false) 1).shared = false ∧ (coreAt (cored false) 1).s0.length = 200 ∧
    (coreAt (cored false) 1).pos + 4 < (coreAt (cored false) 1).rate ∧ (coreAt (cored false) 1).rate ≤ 168 ∧
    (coreAt (cored true) 1).finalised = true ∧ (coreAt plainVm 1).live = false ∧ plainVm.body.vmod = 3329 ∧ plainVm.body.vl % 2 = 0 :=
  ⟨rfl, rfl, rfl, List.length_replicate, by decide, by decide, rfl, rfl, rfl, rfl⟩
theorem witness_gadgets : 1 ≤ (sreg (vmOfMode .arithmetic) 5).toNat ∧ (sreg (vmOfMode .arithmetic) 5).toNat ≤ 11 ∧
    (sreg (vmOfMode .arithmetic) 5).toNat < (vmOfMode .arithmetic).body.vmod ∧ (sreg (vmOfMode .boolean) 6).toNat % 4 = 0 ∧
    (sreg (vmOfMode .boolean) 5).toNat % 4 ≠ 0 ∧ (envFor true).keyView = some (zeroBytes 64) := by decide
theorem witness_control : sreg plainVm 5 ≠ sreg plainVm 6 ∧ sreg plainVm 6 = sreg plainVm 7 ∧
    (plainVm.body.pc : Int) + (-1) < (envFor true).start ∧ (plainVm.body.pc : Int) + 99 < (envFor true).start + (envFor true).words ∧
    ({ plainVm with body := { plainVm.body with seg := some ⟨3, 9, 70⟩ } }).body.seg = some ⟨3, 9, 70⟩ ∧ (sreg plainVm 5).toNat ≤ (envFor false).maxOut ∧
    positionByte plainVm (sreg plainVm 6).toNat + (sreg plainVm 5).toNat ≤ 8 * plotWords ∧
    ({ envFor false with maxOut := 1 }).maxOut < (sreg plainVm 5).toNat ∧ (envFor false).next = commitWord ∧
    ({ envFor false with next := 0 }).next ≠ commitWord := by decide
/-- A body of an Open routine runs on unit 1; the word at its routine address adds two scalars. -/
def bodied (cycles : Nat) : State :=
  { withJob ref1 { jobOf 0x4000 with phase := .running, place := some (1, 2) } with
    stores := { up.stores with image := some ⟨7, [⟨0, 10, 64, 4, 0⟩], List.replicate 5 0 ++ [encodeV 0x20 1 2 3 0 0], [], []⟩ }
    bodies := [Body.idle, { plainVm.body with job := 32768, plot := 10, cycles := cycles, pc := 5 }, Body.idle, Body.idle] }
theorem witness_issues : isaOp (.sadd 1 1 2 3) = some (1, encodeV 0x20 1 2 3 0 0, opSadd 1 2 3) ∧ (bodied 24).bodies.length = 4 ∧
    canIssue (bodied 24) 1 (encodeV 0x20 1 2 3 0 0) = true ∧ canIssue up 1 (encodeV 0x20 1 2 3 0 0) = false ∧
    (KMap.get? (bodied 552).jobs (bodyAt (bodied 552) 1).job).isSome = true := ⟨rfl, by decide⟩

/-! ## Witnesses: admin commands -/

/-- A dispatched admin entry with its INLINE bytes, AUX and input; and the device that it runs on. -/
def adm (opcode : W16) (inl : List Byte) (aux : W32) (input : List Byte) : Job := { jobOf 0 with
  phase := .dispatched, entry := { (jobOf 0).entry with opcode := opcode, aux := aux, outLen := 16, ctrl := 0 }
  inl := BitVec.ofNat 128 (leNat inl), input := input, landed := input }
def roomyTenant : Allotment := { tenant with evictBlocks := 2, windows := [(0, ⟨0x100000, 0x200000, 3⟩)] }
def busy : State := { vaulted with
  regs := { up.regs with admJob := some 0 }, allots := [(0, Allotment.admin), (1, roomyTenant)]
  lodge := { up.lodge with sticky := 0xFF, holds := 0x0F, kek := some (zeroBytes 32), secTime := 100 } }
def at0 (s : State) (j : Job) : State := { s with jobs := [(0, j)] }
/-- The same entry once its draws (stage 1) or records (stage 0) are there. -/
def later (j : Job) (n : Nat) : Job := { j with phase := .running, remaining := n }

def bindJob : Job := adm 0xF003 [1, 0, 0, 0] 0 []
def queueJob : Job := adm 0xF004 (leBytes 8 0x100000 ++ [1, 0, 3, 5, 7, 0, 9, 0]) 77 []
def leaseJob : Job := adm 0xF006 [1, 0, 0, 4, 0, 4, 0, 4, 0, 4, 1, 4] 0 []
def windowJob : Job := adm 0xF007 (leBytes 8 0x300000 ++ leBytes 8 0x400000) (1 + 2 ^ 16 * 3 + 2 ^ 20) []
def curveJob : Job := adm 0xF00B [1, 0, 0x55, 3] 0 []
theorem witness_refused : adminFailure cmdAllotBind busy (adm 0xF003 [9, 0] 0 []) = some (.resource, 2) ∧
    cmdAllotBind.markQ = false ∧ cmdAbort.markE = true := by decide
theorem witness_sets : adminReady cmdAllotBind (at0 busy bindJob) ref0 bindJob ∧
    adminReady cmdQueueCreate (at0 busy queueJob) ref0 queueJob ∧
    adminReady cmdLeaseSet (at0 busy leaseJob) ref0 leaseJob ∧ adminReady cmdWindowSet (at0 busy windowJob) ref0 windowJob ∧
    adminReady cmdCurvePolicy (at0 busy curveJob) ref0 curveJob ∧
    ([inlAllot bindJob, inlAllot leaseJob, auxBits windowJob 15 0, inlAllot curveJob] = [1, 1, 1, 1]) ∧
    KMap.get? busy.allots 1 = some roomyTenant := by unfold adminReady; decide

/-- KEY_ADMIN on a handle: the handle stands in INLINE, then the operation. -/
def keyAdm (op : Byte) (h : W64) : Job := adm 0xF009 (leBytes 8 h.toNat ++ [op]) 0 []
def keyedBusy (key : Key) (op : Byte) (h : W64) : State := at0 { busy with ice := (keyed key).ice } (keyAdm op h)
theorem keyAdm_fields (op : Byte) (h : W64) : kaHandle (keyAdm op h) = h.toNat ∧ inlineField (keyAdm op h) 56 1 = op.toNat := by
  have hl := h.isLt
  have ho := op.isLt
  have e : (keyAdm op h).inl.toNat = h.toNat + 2 ^ 64 * op.toNat := by
    show (BitVec.ofNat 128 (leNat (leBytes 8 h.toNat ++ [op]))).toNat = _
    rw [BitVec.toNat_ofNat, leNat_append, leNat_leBytes, length_leBytes]
    simp only [leNat]
    omega
  refine ⟨?_, ?_⟩
  · rw [kaHandle, inlineField, fieldAt_leBytes _ _ _ _ (by decide), e]; omega
  · rw [inlineField, fieldAt_leBytes _ _ _ _ (by decide), e]; omega
/-- A KEY_ADMIN that finds its key is ready, for either operation. -/
theorem keyAdm_ready (key : Key) (op : Byte) (h : W64) (r : Bool) (n : Nat) (k : Key) (c : AdminCmd)
    (ho : op = 1 ∧ c = cmdKeyDestroy ∨ op = 2 ∧ c = cmdKeyDescribe)
    (hf : findKey (keyedBusy key op h) (handleAllot h.toNat) h.toNat = some (r, n, k)) (hw : k.withdrawn = false) :
    adminReady c (keyedBusy key op h) ref0 (keyAdm op h) ∧ inlineField (keyAdm op h) 56 1 = op.toNat ∧
      findKey (keyedBusy key op h) (handleAllot (kaHandle (keyAdm op h))) (kaHandle (keyAdm op h)) = some (r, n, k) := by
  obtain ⟨e1, e2⟩ := keyAdm_fields op h
  rw [← e1] at hf
  have hg : adminGate c (keyedBusy key op h) (keyAdm op h) = none := adminGate_none (show 2 ≠ 3 by decide) rfl rfl rfl
  have hc : keyAdminCheck (keyedBusy key op h) (keyAdm op h) = none :=
    keyAdminCheck_none (by rw [e2]; rcases ho with ⟨rfl, -⟩ | ⟨rfl, -⟩ <;> decide) hf hw rfl
  have hk : c.check = keyAdminCheck ∧ c.opcode = 0xF009 := by rcases ho with ⟨-, rfl⟩ | ⟨-, rfl⟩ <;> exact ⟨rfl, rfl⟩
  refine ⟨⟨rfl, rfl, hk.2.symm ▸ rfl, rfl, rfl, rfl, rfl, ?_, rfl⟩, e2, hf⟩
  rw [adminFailure, hg, hk.1, hc]; rfl
theorem handle_owner (s : State) (kind index : Nat) (hk : kind < 4) (hi : index < 64) :
    handleAllot (mkHandle s 1 kind 0 index).toNat = 1 := (handle_fields s (a := 1) (gen := 0) (by decide) hk hi).1
theorem slot_found (op : Byte) :
    findKey (keyedBusy plainKey op (slotHandle0 plainKey)) (handleAllot (slotHandle0 plainKey).toNat) (slotHandle0 plainKey).toNat =
      some (false, 64, plainKey) := by
  have ho : handleAllot (slotHandle0 plainKey).toNat = 1 := handle_owner _ _ _ (by decide) (by decide)
  have hi : (keyedBusy plainKey op (slotHandle0 plainKey)).ice = (keyState plainKey lmsJob).ice := rfl
  have hb : (keyedBusy plainKey op (slotHandle0 plainKey)).bridge.handleKey = (keyState plainKey lmsJob).bridge.handleKey := rfl
  rw [ho, findKey_congr hi hb, slotHandle0_found plainKey lmsJob rfl]
theorem resident_found (op : Byte) :
    findKey (keyedBusy plainKey op residentHandle) (handleAllot residentHandle.toNat) residentHandle.toNat = some (true, 65, plainKey) := by
  have ho : handleAllot residentHandle.toNat = 1 := handle_owner _ _ _ (by decide) (by decide)
  have hi : (keyedBusy plainKey op residentHandle).ice = (keyState plainKey lmsJob).ice := rfl
  have hb : (keyedBusy plainKey op residentHandle).bridge.handleKey = (keyState plainKey lmsJob).bridge.handleKey := rfl
  rw [ho, findKey_congr hi hb, residentHandle_found lmsJob]
/-- A job on the key that reached its dispatch earlier in this tick, and none. -/
theorem witness_started (h : Nat) : startedNow (keyedBusy plainKey 1 residentHandle) h = [] ∧
    32768 ∈ startedNow { withJob ref1 { readyJob 0x0101 with dispatch := 8192, dispatchOrder := 1 } with sched.tick := 8192 } 0 := by
  refine ⟨?_, by decide⟩
  simp [startedNow, keyedBusy, at0]
  exact fun _ e => absurd (of_decide_eq_true e) (show 0 ≠ 8192 by decide)
theorem witness_bind_reads : (∀ q ∈ roomyTenant.reads, q.answered = false) ∧
    (∀ q ∈ ({ roomyTenant with reads := [⟨1, false, 0, 0x100000, 64, false⟩] }).reads, q.answered = false) := by decide
theorem witness_describe : adminReady cmdKeyDescribe (keyedBusy plainKey 2 residentHandle) ref0 (keyAdm 2 residentHandle) :=
  (keyAdm_ready plainKey 2 residentHandle true 65 plainKey _ (.inr ⟨rfl, rfl⟩) (resident_found 2) rfl).1
theorem witness_destroys : adminReady cmdKeyDestroy (keyedBusy plainKey 1 residentHandle) ref0 (keyAdm 1 residentHandle) ∧
    adminReady cmdKeyDestroy (keyedBusy plainKey 1 (slotHandle0 plainKey)) ref0 (keyAdm 1 (slotHandle0 plainKey)) ∧
    KMap.get? (keyedBusy plainKey 1 (slotHandle0 plainKey)).ice.keys 64 = some plainKey :=
  ⟨(keyAdm_ready plainKey 1 residentHandle true 65 plainKey _ (.inl ⟨rfl, rfl⟩) (resident_found 1) rfl).1,
    (keyAdm_ready plainKey 1 (slotHandle0 plainKey) false 64 plainKey _ (.inl ⟨rfl, rfl⟩) (slot_found 1) rfl).1, rfl⟩
theorem test_window_set : windowsAfter roomyTenant.windows windowJob ≠ roomyTenant.windows := by decide
/-- Ready as the obligations ask, for the commands whose preconditions are decided here. -/
def readyFor (c : AdminCmd) (s : State) (j : Job) : Bool := decide ((at0 s j).jobs = [(0, j)] ∧ j.phase = .dispatched ∧
  j.entry.opcode.toNat = c.opcode ∧ j.status = .ok ∧ j.waits = [] ∧ j.draws = [] ∧ j.index = 0 ∧
  adminFailure c (at0 s j) j = none ∧ (mirrors s && c.markS j) = false)
/-- A blank or tested device, with its OTP. -/
def lifeAt (n : Nat) : State := { busy with
  lc := { busy.lc with inForce := n, pending := n }
  otp := { busy.otp with
    lcWords := lifeWords n, deviceId := 5, patchKey := List.replicate 32 1, codeHash := List.replicate 32 1
    debugHash := List.replicate 32 1, anchorHash := List.replicate 32 1 } }
def twinned : State := { busy with bridge := { busy.bridge with paired := true, linkUp := true, present := true, tseqNext := 7 } }
def alone : State := { twinned with bridge := { twinned.bridge with solo := true, soloCause := 1 } }
theorem witness_device_sets : readyFor cmdPatchStatus busy (adm 0xF018 [] 0 []) = true ∧
    readyFor cmdRngRawMode busy (adm 0xF012 [3] 0 []) = true ∧ readyFor cmdTwinSolo twinned (adm 0xF016 [] 0 []) = true ∧
    readyFor cmdLcAdvance (lifeAt 0) (adm 0xF00F [1] 0 []) = true ∧ lifeTarget (adm 0xF00F [1] 0 []) ≠ 2 ∧
    (lifeAt 0).otp.lcWords = lifeWords (lifeAt 0).lc.pending := by decide
/-- OPEN_LOAD is ready where the image is formed and the owner has signed it. -/
theorem witness_open_load (image : List Byte) (h : cmdOpenLoad.check (at0 busy (adm 0xF00A [] 0 image)) (adm 0xF00A [] 0 image) = none) :
    adminReady cmdOpenLoad (at0 busy (adm 0xF00A [] 0 image)) ref0 (adm 0xF00A [] 0 image) :=
  ⟨rfl, rfl, rfl, rfl, rfl, rfl, rfl, by
    rw [adminFailure, adminGate_none (show 2 ≠ 3 by decide) rfl rfl rfl]; exact h, rfl⟩
set_option maxRecDepth 4000 in
theorem witness_record_commands : readyFor cmdTimeSet busy (adm 0xF00C (leBytes 8 500) 0 []) = true ∧
    readyFor cmdTamperConfig busy (adm 0xF00D [] 1 (zeroBytes 256)) = true ∧
    readyFor cmdTamperClear busy (adm 0xF00E [3, 0] 0 []) = true ∧
    readyFor cmdLcAdvance (lifeAt 2) (adm 0xF00F [3] 0 []) = true ∧ lifeTarget (adm 0xF00F [3] 0 []) = 3 := by decide
/-- ATTEST_ENROL is ready where the ciphertext opens and the counter is new. -/
theorem witness_enrol (input : List Byte) (h : cmdAttestEnrol.check (at0 busy (adm 0xF019 [] 0 input)) (adm 0xF019 [] 0 input) = none) :
    adminReady cmdAttestEnrol (at0 busy (adm 0xF019 [] 0 input)) ref0 (adm 0xF019 [] 0 input) :=
  ⟨rfl, rfl, rfl, rfl, rfl, rfl, rfl, by
    rw [adminFailure, adminGate_none (show 2 ≠ 3 by decide) rfl rfl rfl]; exact h, rfl⟩
def destroyJob : Job := adm 0xF002 [1, 0] 0 []
def holding : State := { busy with ice := (keyed plainKey).ice }
theorem witness_destroy_allotment : readyFor cmdAllotDestroy holding destroyJob = true ∧ jobsOf (at0 holding destroyJob) 1 = [] ∧
    liveKeys (at0 holding destroyJob) 1 ≠ [] ∧ queuesOf (at0 holding destroyJob) 1 = [] ∧
    liveKeys (at0 busy destroyJob) 1 = [] ∧ readyFor cmdAllotDestroy busy destroyJob = true ∧ KMap.wf busy.allots = true := by decide
/-- The second stage: draws or records are there. -/
def resumes (c : AdminCmd) (s : State) (j : Job) (n : Nat) : Bool := decide (j.status = .ok ∧ j.waits = [] ∧ j.draws = [] ∧
  j.index = 0 ∧ (later j n).remaining = n ∧ j.entry.opcode.toNat = c.opcode ∧ mirrors s = false)
theorem witness_resumes : resumes cmdTimeSet busy (adm 0xF00C (leBytes 8 500) 0 []) 0 = true ∧
    resumes cmdTamperConfig busy (adm 0xF00D [] 1 (zeroBytes 256)) 0 = true ∧ resumes cmdTamperClear busy (adm 0xF00E [3, 0] 0 []) 0 = true ∧
    resumes cmdLcAdvance (lifeAt 2) (adm 0xF00F [3] 0 []) 0 = true ∧ (lifeAt 2).otp.lcWords = lifeWords 2 ∧
    resumes cmdAttestEnrol busy (adm 0xF019 [] 0 []) 0 = true ∧ resumes cmdAllotDestroy busy destroyJob 0 = true ∧
    destroyReady { busy with allots := [(0, Allotment.admin), (1, { roomyTenant with destroying := true })] } 1 = true := by decide
def createJob : Job := adm 0xF001 [2, 0, 0x0E, 4, 100, 0, 0, 4] 0 []
theorem witness_draws : readyFor cmdAllotCreate busy createJob = true ∧ readyFor cmdDebugNonce busy (adm 0xF010 [] 0 []) = true ∧
    readyFor cmdLcAdvance (lifeAt 1) (adm 0xF00F [2] 0 []) = true ∧ lifeTarget (adm 0xF00F [2] 0 []) = 2 ∧
    resumes cmdAllotCreate busy createJob 1 = true ∧ resumes cmdTwinPair busy (adm 0xF015 [] 0 []) 1 = true ∧
    busy.bridge.helloPeer = [] ∧ busy.regs.admJob = some (refKey ref0) ∧ programmed (zeroBytes 32) = false := by decide
/-- TWIN_PAIR and the debug token are ready where their owner's signatures hold. -/
theorem witness_pair (input : List Byte) (h : cmdTwinPair.check (at0 busy (adm 0xF015 [] 0 input)) (adm 0xF015 [] 0 input) = none) :
    adminReady cmdTwinPair (at0 busy (adm 0xF015 [] 0 input)) ref0 (adm 0xF015 [] 0 input) :=
  ⟨rfl, rfl, rfl, rfl, rfl, rfl, rfl, by
    rw [adminFailure, adminGate_none (show 2 ≠ 3 by decide) rfl rfl rfl]; exact h, rfl⟩
def unmounted : State := { calm with lc.nonce := some (zeroBytes 32) }
theorem witness_token (input : List Byte) (h : cmdDebugToken.check (at0 unmounted (adm 0xF010 [] 1 input)) (adm 0xF010 [] 1 input) = none) :
    adminReady cmdDebugToken (at0 unmounted (adm 0xF010 [] 1 input)) ref0 (adm 0xF010 [] 1 input) ∧
      vaultWritable unmounted = false ∧ tenants unmounted = [] ∧ unmounted.bridge.paired = false :=
  ⟨⟨rfl, rfl, rfl, rfl, rfl, rfl, rfl, by
    rw [adminFailure, adminGate_none (show 2 ≠ 3 by decide) rfl rfl rfl]; exact h, rfl⟩, by decide⟩
def dropJob : Job := adm 0xF005 [1, 0, 2] 0 []
def abortJob : Job := adm 0xF008 [1, 0, 0, 0] 0 []
def queued : State := { busy with queues := [(8, queue0), (10, queue0), (17, queue0)] }
theorem witness_work : readyFor cmdQueueDestroy queued dropJob = true ∧ KMap.wf queued.queues = true ∧
    jobsOfQueue (at0 queued dropJob) 1 2 = [] ∧ readyFor cmdAbort queued abortJob = true ∧ inlineField abortJob 50 1 = 0 ∧
    32768 ∈ jobsOfQueue { queued with jobs := [(0, abortJob), (32768, readyJob 0x0101)] } 1 0 ∧ onReservation (readyJob 0x0101) = false ∧
    readyFor cmdTwinRejoin alone (adm 0xF017 [] 0 []) = true ∧ alone.bridge.rejoining = false ∧
    onReservation { jobOf 0x0502 with waits := [.reservation 64] } = true := by decide

/-! ## Witnesses: the Vault's commands and the mirror -/

/-- A die with its report, as a mount or format finds it. -/
def dieFound (channel : Bool) : DieReport := { channel := channel, target := 0, lun := false, onfi := true, slc := true, pageBytes := 4096, spareBytes := 448, pagesPerBlock := 64, blocks := 256, modes := 0x3F, progUs := 300, eraseUs := 3000, xferNs := 50000, endurance := 100000, failed := false, factoryBad := [7] }
def formatting : State := { (lifeAt 1) with vault := up.vault, ice := { busy.ice with root := 1 } }
theorem witness_format : readyFor (cmdVaultFormat [dieFound false, dieFound true] .unknown) formatting (adm 0xF013 [3] 0 []) = true ∧
    adminFailure (cmdVaultFormat [dieFound false] .unknown) (at0 formatting (adm 0xF013 [0] 0 [])) (adm 0xF013 [0] 0 []) = some (.resource, 1) := by
  decide
def mountJob (op : Byte) : Job := adm 0xF014 [op] 0 []
theorem witness_mount : readyFor (cmdVaultMount [dieFound false] .unknown) busy (mountJob 1) = true ∧ busy.vault.mounted = true ∧
    readyFor cmdVaultUnmount busy (mountJob 0) = true ∧ vaultDrained (at0 busy (mountJob 0)) = true ∧ inlineField (mountJob 1) 48 1 = 1 := by decide
theorem witness_mirrored : adminFailure cmdAllotBind (at0 twinned bindJob) bindJob = none ∧ mirrors (at0 twinned bindJob) = true ∧
    adminFailure cmdLeaseSet (at0 twinned leaseJob) leaseJob = none ∧ adminFailure cmdQueueCreate (at0 twinned queueJob) queueJob = none := by decide
def formatDone : State := after (execVaultFormat ref0 [dieFound false, dieFound true] .unknown (at0 formatting (adm 0xF013 [3] 0 [])))
def remounting : State := { formatDone with jobs := [], vault := { Vault.reset formatDone.vault.media with mounted := false } }
set_option maxRecDepth 8000 in
theorem witness_mount_own : readyFor (cmdVaultMount [dieFound false, dieFound true] .own) remounting (mountJob 1) = true ∧
    remounting.vault.mounted = false := by decide

/-! ## Worked examples of the spec -/

/-- Record 1 of the stalled consumer (R475). -/
theorem test_event_record : eventBytes { first := true, cls := 2, code := 0x0020, allot := 5, unit := 0x0F, source := 0xFF, tick := 8000000, count := 11, detail := [1, 0, 0x25, 0, 0, 0xF0, 0xFF, 0x7F, 0x42, 0, 0, 0] } false 3 =
    [0x02, 0x02, 0x20, 0x00, 0x05, 0x00, 0x0F, 0xFF, 0x00, 0x12, 0x7A, 0x00, 0x00, 0x00, 0x00, 0x00,
     0x0B, 0x00, 0x03, 0x00, 0x01, 0x00, 0x25, 0x00, 0x00, 0xF0, 0xFF, 0x7F, 0x42, 0x00, 0x00, 0x00] := by decide
/-- The patch entry of the worked example (11_control_stores.md): six words at 64 in place of the word at 0x3A10. -/
theorem test_match_register : let m := matchReg 0x80053A123A100040
    m.valid = true ∧ m.space = .routine ∧ m.segment = ⟨64, 69, 0x3A12⟩ ∧ m.meets .routine 0x3A10 = true ∧ m.meets .micro 0x3A10 = false := by
  decide
/-- Table 15-2: the last bits of TEST are taken only with the device ID and the patch key there (log entry 97). -/
theorem test_life_write : let o := { State.reset.otp with lcWords := (lifeWords 1).set 3 0 }
    lifeWrite o 3 0xA5A5A5A5 = false ∧ lifeWrite o 3 0xA5A50000 = true ∧
    lifeWrite { o with deviceId := 5, patchKey := List.replicate 32 1 } 3 0xA5A5A5A5 = true := by decide
/-- The first two picks of the slot example (R41): pool, 5. -/
theorem test_slot_picks : (slotPick [⟨5, 1024, 0⟩, ⟨9, 512, 0⟩, ⟨poolId, 2560, 0⟩]).1 = poolId ∧
    (slotPick (slotPick [⟨5, 1024, 0⟩, ⟨9, 512, 0⟩, ⟨poolId, 2560, 0⟩]).2).1 = 5 := by decide

/-! ## Witnesses: the Fountain, the Gatehouse and the Lodge -/

def cellOf (state passes : Nat) : Cell := { Cell.reset with stateCode := state, passes := passes, windowStart := some 1000 }
def celled (x : Cell) : State := { up with fountain := { up.fountain with
  cells := x :: List.replicate 7 { Cell.reset with stateCode := 1, accepted := 64 } } }
def fairCounts : Vector (BitVec 16) 4 := Vector.replicate 4 32766
def corrs (v : Vector (BitVec 16) 4) : List Int := (v.toList.map BitVec.toNat).mapIdx fun k n => corrOf (k + 1) n
theorem witness_cells : (celled (cellOf 1 0)).fountain.cells[0]? = some (cellOf 1 0) ∧ (celled (cellOf 1 0)).fountain.started = true ∧
    (1000 ≤ (66535 : W64).toNat ∧ (66535 : W64).toNat < 1000 + 65536) ∧ (999 : W64).toNat < 1000 ∧ (66536 : W64).toNat = 1000 + 65536 ∧
    windowCause (cellOf 1 0) (biasOf 32768) (corrs fairCounts) = none ∧ windowCause (cellOf 2 2) (biasOf 32768) (corrs fairCounts) = none ∧
    (windowCause (cellOf 1 0) (biasOf 32768) (corrs (Vector.replicate 4 50000))).isSome = true ∧
    (cellOf 1 0).biasLim.toNat < Int.natAbs (32768 - (biasOf 40000 : Int)) := by decide
def seeded (poolChunks : Nat) : State := { celled { cellOf 1 0 with accepted := 64 } with
  fountain := { (celled { cellOf 1 0 with accepted := 64 }).fountain with
    poolChunks := poolChunks, seed := some (zeroBytes 48), instantiated := false, ready := false } }
def retested (failures : List (Nat × Bool)) (passes : Nat) : Cell := { cellOf 2 passes with failures := failures }
theorem witness_retests : failedIn (retested [] 2) 66536 = false ∧ failedIn (retested [(2000, true)] 2) 66536 = true ∧
    failedIn (retested [(70000, true)] 2) 66536 = false ∧ (∃ f ∈ (retested [(70000, true)] 2).failures, 66536 ≤ f.1) ∧
    (∀ f ∈ (retested [] 2).failures, f.1 < 66536) ∧ testMayFail up.fountain true 66535 = true ∧ up.fountain.patternEn = false ∧
    testMayFail { up.fountain with patternEn := true, pattern := 0x0F0F0F0F } false 66535 = false ∧
    testMayFail { up.fountain with patternEn := true, pattern := 0 } false 40 = true := by decide
theorem witness_chunks : 4 ≤ healthyCount (seeded 0) ∧ ((List.range 8).filter fun c => (cellAt (seeded 0) c).healthy &&
      decide (64 ≤ (cellAt (seeded 0) c).accepted)).length = 8 ∧ 8 < poolNeed (seeded 0) ∧
    poolNeed (seeded (poolNeed (seeded 0))) ≤ (seeded (poolNeed (seeded 0))).fountain.poolChunks + 8 ∧ healthyCount up < 4 ∧
    State.reset.fountain.started = false ∧ (seeded 0).fountain.instantiated = false ∧ (seeded 0).jobs = [] := by decide
def drawing : State := { withJob ref1 { jobOf 0x0101 with phase := .running, draws := [{ bytes := 129, fresh := false, posted := true }] } with
  fountain := { up.fountain with frameSlot := 4, queue := [(0, [{ job := some 32768, bytes := 129, fresh := false, reseedsAt := 0 }])] } }
theorem witness_slot_draw : (∀ p ∈ drawing.jobs, ∀ e ∈ p.2.draws, e.posted = true) ∧ drawing.fountain.ready = true ∧
    drawing.fountain.seed = none ∧ drawing.fountain.instantiated = true ∧ drawing.fountain.stopped = false ∧
    drawing.fountain.slotNumber < 4096 ∧ (KMap.get? drawing.jobs 32768).isSome = true := by decide
def stuck : State := { drawing with fountain := { drawing.fountain with
  stopped := true, queue := [(1, [{ job := some 32768, bytes := 129, fresh := false, reseedsAt := 0 }])] } }
theorem witness_waits : drawLimited stuck 32768 = true ∧ drawLimited up 32768 = false ∧ (dry 0x0101 ref1).fountain.started = true ∧
    (dry 0x0101 ref1).fountain.startupExpired = false ∧ needsRandom (dry 0x0101 ref1) 32768 (readyJob 0x0101) = true ∧
    hasRoot up = true ∧ up.boot.ready = true ∧ up.fountain.ready = true ∧ State.reset.boot.ready = false := by decide

def sensed (src : Nat) (f : Source → Source) : State := { up with gh := { up.gh with sources := up.gh.sources.modify src f } }
theorem witness_sources2 : (up.gh.sources[0]?.isSome = true ∧ sourceOff up 0 = false) ∧ sourceOff up 13 = false ∧
    (up.gh.sources[6]?).map (fun x => decide (x.rateN ≤ 1) && x.enable && !x.excursion) = some true ∧ up.gh.calibrated = true ∧
    ((sensed 6 fun x => { x with rateN := 2, rateWin := 10 }).gh.sources[6]?).map (fun x => decide (2 ≤ x.rateN) && x.window.isNone) = some true ∧
    ((sensed 6 fun x => { x with rateN := 4, rateWin := 10, window := some (8183, 2) }).gh.sources[6]?).map
      (fun x => decide (x.window = some (8183, 2)) && decide (now up < 8183 + x.rateWin) && decide (2 + 1 < x.rateN)) = some true ∧
    ((sensed 6 fun x => { x with enable := false }).gh.sources[6]?).map (fun x => x.enable) = some false ∧
    (up.gh.sources[14]?).map (fun x => x.hardWindow) = some none := by decide
def responding (level : Nat) : State := { up with gh := { up.gh with responses := [{ source := 15, level := level, hard := false, tick := 8191 }] } }
theorem witness_responses : (responding 5).gh.executing = 0 ∧ 8191 < now (responding 5) ∧ vaultWritable (responding 5) = false ∧
    vaultWritable vaulted = true ∧ ({ up with gh := { up.gh with quiesced := true } } : State).lodge.holds = 0 ∧ busy.lodge.holds ≠ 0 := by decide
def onCell : State := { State.reset with boot := { Boot.reset with power := false } }
theorem witness_lodge : onCell.boot.stage = 0 ∧ onCell.lodge.battery = true ∧ sourceOff onCell 13 = false ∧ sourceOff onCell 0 = false ∧
    1 ≤ up.boot.stage ∧ up.boot.power = true ∧ onCell.lodge.runs.length = 7 ∧
    ({ up with lodge := { up.lodge with runs := [1, 0, 0, 0, 0, 0, 0] } } : State).lodge.runs.getD 0 0 = 1 ∧ (1 : BitVec 4).getLsbD 0 = true := by decide

/-! ## Witnesses: media and journal -/

def blockOf (state : BlockState) (valid reads : Nat) : Block :=
  { state := state, stream := .journal, erases := 99998, reads := reads, stamp := 0, reserve := false,
    written := (List.range 3).map fun i => ⟨⟨.journal, false, false, i, 0, 0, []⟩, .journal [], decide (i < valid)⟩
    refreshDue := false, scrubDue := false, scrubbed := 0 }
def dieOf (blocks : List Block) (queue : List Nat) (timeouts : Nat) : Die :=
  { channel := 0, target := 0, lun := 0, failed := false, timeouts := timeouts, blocks := blocks, eraseQueue := queue }
def reportOf : MediaReport :=
  { onfi := true, slc := true, pageBytes := 4096, spareBytes := 448, pagesPerBlock := 64, blocksPerDie := 64, timingModes := 0x3F,
    progMax := 300, eraseMax := 3000, endurance := 100000 }
def mediaOf (x : Die) : State := { vaulted with vault := { vaulted.vault with
  media := { Media.none with dies := [x], report := some reportOf, formattedBy := 1 } } }
def media : State := mediaOf (dieOf (blockOf .closed 1 50000 :: List.replicate 40 (blockOf .free 0 0)) [5, 6] 0)
theorem witness_die : dieIndex media 0 = some 0 ∧ dieRuns media 0 = true ∧ dieIndex media 1 = none ∧ media.vault.readOnly = false ∧
    (media.vault.erasing.any fun p => decide (p.1 = 0)) = false ∧
    (dieAt media 0).map (fun x => (x.eraseQueue, x.timeouts, x.channel)) = some ([5, 6], 0, 0) ∧ 0 < media.vault.fifos.length := by decide
theorem witness_block : (blockAt media 0 0).map (fun y => decide (50000 ≤ y.reads) && y.good && decide (0 < y.valid) &&
      decide (y.erases + 1 < reportOf.endurance)) = some true ∧ (blockAt media 0 1).map (fun y => decide (y.reads < 50000)) = some true ∧
    inWindow 84934656000 0 84934656000 = false ∧ (1093 : BitVec 11).toNat < 1094 ∧ (1093 : BitVec 11).toNat % 64 ≠ 0 ∧
    (0, 0, 2) ∉ media.vault.suspect := by decide
def entry0 : JRecord := { id := 9, type := 6, subtype := 0, allot := 0xFFFF, holder := 0, flags := 0, body := [1, 2, 3] }
def appending : State := { media with journal := { media.journal with pending := [entry0], position := 1, next := 5, nextId := 10 } }
theorem witness_append : atRest appending ∧ appending.ice.changes = [] ∧ 1 ≤ slotsPerPage appending ∧ appending.vault.rework = [] ∧
    (takeBlock (nextPosition appending) 0 .journal false).isSome = true := by unfold atRest; decide
def page0 : PageInFlight := { number := 3, holder := 0, pseq := 9, content := .journal [], changes := [], security := false, die := 0, block := 0 }
def bootRecord : JRecord := { entry0 with type := 2, subtype := 2 }
theorem witness_leads : leads entry0 = false ∧ appending.ice.cacheDue = [] ∧ appending.vault.formatting = false ∧
    leadPending { appending with journal := { appending.journal with pending := [entry0, bootRecord] } } = true := by decide
theorem witness_program : let s := { media with vault := { media.vault with flight := [page0] } }
    (s.vault.flight.find? fun q => decide (q.number = (3 : W64).toNat)) = some page0 ∧ (blockAt s page0.die page0.block).isSome = true := by decide
theorem witness_export : let j := { up.journal with exporting := [⟨false, 1, 0, []⟩], jxEnable := true, jxLog := 10, jxProd := 1028, jxCons := 5 }
    exportRoom j = true ∧ masters up 0 = true ∧ up.link.credit = true ∧ ({ up.journal with signing := some (7, []) }).signing.isSome = true := by
  decide

/-! ## Witnesses: the Footbridge -/

/-- The West of a pair on a link with a key; frame 11 comes next. -/
def bridged (f : Bridge → Bridge) : State := { up with
  bridge := f { up.bridge with
    paired := true, linkUp := true, lanes := 4, present := true, linkKey := some (zeroBytes 32), pairKey := some (zeroBytes 32), hbSent := 128
    hbDeadline := 8193, tseqNext := 7, fseqIn := 10, fseqOut := 20 }
  boot := { up.boot with straps := 16 } }
def head11 : FrameHead := { holder := 1, tseq := 5, first := 11, last := 12, intact := true }
def frame0 : Frame := { type := 0x11, last := false, isSealed := false, holder := 3, fseq := 0, tseq := 9, segment := 0, payload := zeroBytes 912 }
theorem witness_link_states : hasBridge (bridged id) = true ∧ 8 ≤ (bridged id).boot.stage ∧ bridgeListens (bridged id) = true ∧
    bridgeListens (bridged fun b => { b with linkUp := false }) = false ∧ (bridged id).bridge.block.at' = none ∧
    (bridged fun b => { b with linkUp := false, retrainAt := 8192 }).bridge.retrainAt ≤ now (bridged id) ∧
    (8128 + 64 ≤ now (bridged id)) ∧ heartbeatDue (bridged id) = false ∧ heartbeatDue (bridged fun b => { b with hbSent := 127 }) = true ∧
    frame0.type ∈ [0x11, 0x12, 0x14, 0x21, 0x22, 0x23, 0x30, 0x31, 0x32] := by decide
theorem witness_frames : takesFrame (bridged id) head11 ∧ ¬ takesFrame (bridged id) { head11 with first := 12 } ∧
    ¬ takesFrame (bridged id) { head11 with last := 10 } := by unfold takesFrame; decide
theorem witness_pairing : (isWest (bridged id) = true ∧ isWest { bridged id with boot := { up.boot with straps := 0 } } = false) ∧
    80 ≤ (zeroBytes 80).length ∧ (zeroBytes 5).length ≠ 4627 ∧
    (bridged fun b => { b with ownNonce := some (zeroBytes 32), linkKey := none }).bridge.ceremony ≠ 3 ∧ 0 + 2 ^ 24 ≤ 2 ^ 24 := by
  decide
/-- AUTH stands where the verdict on its signature does. -/
theorem witness_auth (p : List Byte) (h : authHolds (bridged fun b => { b with ceremony := 4, authSent := false }) p = true) :
    (bridged fun b => { b with ceremony := 4, authSent := false }).bridge.ceremony = 4 ∧
      authHolds (bridged fun b => { b with ceremony := 4, authSent := false }) p = true := ⟨rfl, h⟩
def commit3 : Commit := { tseq := 5, holder := 1, kind := 3, item := 1, contents := [], records := [], acked := false, committing := false, sentAt := some 4096, job := none }
def staged9 : Staged := { tseq := 5, holder := 1, kind := 9, item := 0, contents := leBytes 8 77, records := [], acked := true, inDoubt := false }
theorem witness_commits : mirrors (bridged id) = true ∧ mirrors (bridged fun b => { b with paired := false }) = false ∧
    atRest { (bridged fun b => { b with commits := [(5, commit3)] }) with bridge.commits := [] } ∧
    atRest { (bridged fun b => { b with staged := [staged9] }) with bridge.staged := [] } ∧ fieldAt (leBytes 8 5) 0 8 = 5 ∧
    fieldAt (leBytes 8 5 ++ [3, 0]) 8 2 = 3 ∧ itemOpen (bridged fun b => { b with commits := [(5, commit3)] }) 3 1 = true ∧
    itemOpen (bridged id) 0 1 = false ∧ 4096 + 4096 ≤ now (bridged id) := by unfold atRest; decide
/-- A PREPARE of a change without contents to check, and an open change of the same item. -/
theorem witness_prepares : (fieldAt (zeroBytes 16) 0 2 = 0 ∧ fieldAt ((zeroBytes 16).drop 8) 0 2 ≠ 0xF00F) ∧
    fieldAt (0x0E :: zeroBytes 15) 0 2 = 0x0E ∧ isWest (bridged id) = true ∧ (bridged id).bridge.staged = [] ∧
    (let s := { bridged (fun b => { b with commits := [(5, commit3)] }) with boot := { up.boot with straps := 0 } };
      sameOpen s 3 1 [] = true ∧ isWest s = false) := by decide
/-- A key item of a pairing stands where its wrapped parts open, and a live key of this device has its place already. -/
theorem witness_key_item (b c : List Byte) (h : openKeyItem (bridged fun x => { x with ceremony := 4 }) (c.drop 8) = some b) :
    isWest (bridged fun x => { x with ceremony := 4 }) = true ∧ openKeyItem (bridged fun x => { x with ceremony := 4 }) (c.drop 8) = some b ∧
      openKeyItem (bridged fun x => { x with ceremony := 4 }) [] = none ∧ KMap.get? (relinked true).ice.keys 64 = some { Key.reserved with live := true } :=
  ⟨by decide, h, by decide, by decide⟩
theorem witness_twin : atRest (bridged id) ∧ (bridged id).bridge.solo = false ∧ now (bridged id) < (bridged id).bridge.hbDeadline ∧
    (bridged fun b => { b with hbDeadline := 8192 }).bridge.hbDeadline ≤ now (bridged id) ∧ sourceOff (bridged id) 15 = false ∧
    ((bridged id).gh.sources[15]?).map (fun x => x.enable && decide (x.rateN ≤ 1)) = some true ∧
    BitVec.ofNat 16 (fieldAt (zeroBytes 42) 40 2) &&& ~~~(bridged id).lodge.sticky = 0 := by unfold atRest; decide

/-! ## Witnesses: the Sundial, block resets, the fatal path, self-tests -/

def measuring (f : Sundial → Sundial) : State := { up with sundial := f up.sundial, sched.tick := 2 ^ 30 }
def sitesOf (valid : Nat) : Vector SiteDelay 24 := Vector.ofFn fun i => if i.val < valid then ⟨700, 700⟩ else ⟨1000, 1⟩
def stepping : State := measuring fun d => { d with window := some 5, planned := 1 }
theorem witness_sundial_windows : now stepping < 5 + 2 ^ 30 ∧ stepping.sundial.window = some 5 ∧ 0 < stepping.sundial.planned ∧
    5 + 2 ^ 30 ≤ now ({ stepping with sched.tick := 2 ^ 30 + 5 } : State) ∧
    (measuring fun d => { d with throttled := true, hotAt := 3 }).sundial.hotAt + 1 + 2 ^ 20 ≤ now (measuring id) ∧
    (windowRun (measuring id)).events.fifo.length < 62 ∧ (measuring fun d => { d with glitchDue := some 9 }).sundial.glitchDue = some 9 := by decide
theorem witness_sundial : (now (measuring id) = 0 + 2 ^ 30) ∧ 0 < up.sundial.planned ∧ up.sundial.unavailable = false ∧
    (1100 : BitVec 16).toInt = 1100 ∧ (1099 : BitVec 16).toInt < 1100 ∧ up.sundial.lastChange + 2 ^ 30 ≤ now (measuring id) ∧
    up.sundial.history.length < 256 ∧ now (measuring id) % 2 ^ 20 = 0 ∧ up.sundial.measuredAt ≠ some (now (measuring id)) ∧
    20 ≤ (validSites (siteList (sitesOf 20))).length ∧ (validSites (siteList (sitesOf 19))).length < 20 ∧
    marginAt 700 0 < 60 ∧ up.sundial.setPoint < 850 ∧ up.sundial.avsFail = false ∧ up.events.fifo.length < 62 := by decide
def resetting : State := { withJob ref1 { jobOf 0x0101 with phase := .running, place := some (2, 1) } with
  units := up.units.set 2 { unitAt up 2 with running := [32768] } }
theorem witness_block_reset : 6 ≤ resetting.boot.stage ∧ blockPresent resetting 2 = true ∧ outOfService resetting 2 = false ∧
    resetting.units.length = 12 ∧ ((resetWindowOf resetting 2).getD (now resetting, 0)).2 < 3 ∧ 32768 ∈ resetJobs resetting 2 ∧
    blockPresent resetting 12 = true ∧ blockPresent resetting 13 = true ∧
    3 ≤ ((resetWindowOf (setUnit resetting 2 { unitAt up 2 with resetWindow := some (4096, 3) }) 2).getD (0, 0)).2 ∧
    up.dump.active = none ∧ (8128 + 64 ≤ now up ∧ now up < 8129 + 64) := by decide
theorem witness_fatal : 2 ≤ up.boot.stage ∧ State.reset.boot.stage < 2 ∧ up.link.credit = true ∧
    ({ up with dump.active := some (8000, 0x35, 0, 6) } : State).dump.active = some (8000, 0x35, 0, 6) := by decide
def bistJob : Job := { adm 0xF011 [4, 0] 4 [] with entry := { (adm 0xF011 [4, 0] 4 []).entry with outLen := 128 } }
def testing (part : Nat) : State := { up with bist := { up.bist with running := true, partsLeft := [part], startEpoch := some 2 } }
theorem witness_bist : readyFor cmdBistRun busy bistJob = true ∧ bistParts (at0 busy bistJob) bistJob = [2] ∧
    (testing 2).bist.ended = false ∧ 4096 * 2 = now (testing 2) ∧ (testing 2).units.length = 12 ∧
    14 < up.bist.signatures.length ∧ up.bist.partsLeft = [] ∧ up.bist.job = none := by decide
end Sys2Proof.Tests
end

section
/-! SUPPORT. What the scan of one queue touches: its own allotment's reads and count, its own queue, its jobs, and of the
device's blocks none (00_scope.md R5, R6; 04_rings.md R76 to R80). -/
namespace Sys2Proof.Machine
open Sys2Proof

/-! ## Keys of a job -/

theorem keyAllot_jobKey (a : Nat) {q i : Nat} (hq : q < 8) (hi : i < 4096) : keyAllot (jobKey a q i) = a := by
  unfold keyAllot jobKey; omega

theorem keyQueue_jobKey (a : Nat) {q i : Nat} (hq : q < 8) (hi : i < 4096) : keyQueue (jobKey a q i) = q := by
  unfold keyQueue jobKey; omega

theorem jobKey_div_eq_queueKey (a q : Nat) {i : Nat} (hi : i < 4096) : jobKey a q i / 4096 = queueKey a q := by
  unfold jobKey queueKey; omega

/-! ## The frame of a queue's scan -/

/-- The blocks in which a command of another world could have an effect. -/
def deviceBlocks (s : State) :=
  (s.regs, s.ice, s.lc, s.otp, s.gh, s.lodge, s.vault, s.journal, s.bridge, s.stores, s.bist, s.curves, s.boot)

/-- From `s` to `t` only queue `q` of allotment `a` has gone on, and `n` jobs more are in flight: the device's blocks, every
other queue and every other allotment are as they were, and of allotment `a` only its reads have changed. -/
structure ScanFrame (a q n : Nat) (s t : State) : Prop where
  blocks : deviceBlocks t = deviceBlocks s
  others : ∀ i, i ≠ a → KMap.get? t.allots i = KMap.get? s.allots i
  own : ∀ y, KMap.get? t.allots a = some y →
    ∃ x, KMap.get? s.allots a = some x ∧ y = { x with reads := y.reads, inflight := x.inflight + n }
  queues : ∀ i, i ≠ queueKey a q → KMap.get? t.queues i = KMap.get? s.queues i

variable {a q : Nat} {s t : State}

/-- A change of neither blocks, allotments nor queues. -/
theorem ScanFrame.of_eq (hb : deviceBlocks t = deviceBlocks s) (ha : t.allots = s.allots) (hq : t.queues = s.queues) :
    ScanFrame a q 0 s t where
  blocks := hb
  others _ _ := by rw [ha]
  own y hy := ⟨y, ha ▸ hy, rfl⟩
  queues _ _ := by rw [hq]

theorem ScanFrame.refl (a q : Nat) (s : State) : ScanFrame a q 0 s s := .of_eq rfl rfl rfl

theorem ScanFrame.trans {m n : Nat} {u : State} (h : ScanFrame a q m s t) (g : ScanFrame a q n t u) :
    ScanFrame a q (m + n) s u where
  blocks := g.blocks.trans h.blocks
  others i hi := (g.others i hi).trans (h.others i hi)
  own z hz := by
    obtain ⟨y, hy, ez⟩ := g.own z hz
    obtain ⟨x, hx, ey⟩ := h.own y hy
    refine ⟨x, hx, ?_⟩
    rw [ez, ey, Nat.add_assoc]
  queues i hi := (g.queues i hi).trans (h.queues i hi)

/-- A further change of neither blocks, allotments nor queues. -/
theorem ScanFrame.upd {n : Nat} {u : State} (h : ScanFrame a q n s t) (hb : deviceBlocks u = deviceBlocks t)
    (ha : u.allots = t.allots) (hq : u.queues = t.queues) : ScanFrame a q n s u :=
  h.trans (.of_eq hb ha hq)

theorem modQueue_frame (s : State) (a q : Nat) (f : Queue → Queue) : ScanFrame a q 0 s (modQueue s a q f) where
  blocks := rfl
  others _ _ := rfl
  own y hy := ⟨y, hy, rfl⟩
  queues _ hi := KMap.get?_adjust_ne _ _ hi

theorem modJob_frame (s : State) (a q k : Nat) (f : Job → Job) : ScanFrame a q 0 s (modJob s k f) := .of_eq rfl rfl rfl

/-- A change of an allotment's reads and its count alone. -/
theorem modAllot_frame (s : State) (a q n : Nat) {f : Allotment → Allotment}
    (hf : ∀ x, f x = { x with reads := (f x).reads, inflight := x.inflight + n }) : ScanFrame a q n s (modAllot s a f) where
  blocks := rfl
  others _ hi := KMap.get?_adjust_ne _ _ hi
  own y hy := by
    simp only [modAllot, KMap.get?_adjust_same, Option.map_eq_some_iff] at hy
    obtain ⟨x, hx, rfl⟩ := hy
    exact ⟨x, hx, hf x⟩
  queues _ _ := rfl

/-! ## Reads -/

theorem endRead_frame (s : State) (a q : Nat) (p : HostReq → Bool) : ScanFrame a q 0 s (endRead s a p) :=
  modAllot_frame s a q 0 fun _ => rfl

theorem issueRead_frame (s : State) (a q : Nat) (d : Bool) (o tag : Nat) (addr : W64) (n : Nat) :
    ScanFrame a q 0 s (issueRead s a d o tag addr n) :=
  ScanFrame.upd (t := modAllot s a fun v => { v with reads := v.reads ++ [⟨tag, d, o, addr, n, false⟩] })
    (modAllot_frame s a q 0 fun _ => rfl) rfl rfl rfl

@[simp] theorem issueRead_jobs (s : State) (a : Nat) (d : Bool) (o tag : Nat) (addr : W64) (n : Nat) :
    (issueRead s a d o tag addr n).jobs = s.jobs := rfl

/-- What issuing a data read can do: nothing, or one read for a job, whose requested bytes it counts. -/
theorem issueData_cases (s : State) (a : Nat) : issueData s a = s ∨ ∃ k n tag addr,
    issueData s a = issueRead (modJob s k fun x => { x with asked := x.asked + n }) a true k tag addr n := by
  unfold issueData
  split
  · split
    · exact .inr ⟨_, _, _, _, rfl⟩
    · exact .inl rfl
  · exact .inl rfl

theorem issueData_frame (s : State) (a q : Nat) : ScanFrame a q 0 s (issueData s a) := by
  obtain h | ⟨k, n, tag, addr, h⟩ := issueData_cases s a <;> rw [h]
  · exact .refl a q s
  · exact (modJob_frame s a q k _).trans (issueRead_frame _ a q true k tag addr n)

/-- A data read leaves every job as it is but for the count of its requested bytes. -/
theorem get?_issueData_jobs {k : Nat} {j : Job} (a : Nat) (h : KMap.get? s.jobs k = some j) :
    ∃ n, KMap.get? (issueData s a).jobs k = some { j with asked := n } := by
  obtain e | ⟨i, n, tag, addr, e⟩ := issueData_cases s a
  · exact ⟨j.asked, by rw [e]; exact h⟩
  · rw [e, issueRead_jobs]
    by_cases hk : k = i
    · subst hk
      exact ⟨j.asked + n, get?_modJob_same _ h⟩
    · exact ⟨j.asked, (get?_modJob_ne s _ hk).trans h⟩

theorem issueReads_frame (s : State) (a q : Nat) : ScanFrame a q 0 s (issueReads s a) := by
  unfold issueReads
  split
  · exact (issueData_frame s a q).trans (issueData_frame _ a q)
  · exact .refl a q s

theorem get?_issueReads_jobs {k : Nat} {j : Job} (a : Nat) (h : KMap.get? s.jobs k = some j) :
    ∃ n, KMap.get? (issueReads s a).jobs k = some { j with asked := n } := by
  unfold issueReads
  split
  · obtain ⟨m, hm⟩ := get?_issueData_jobs a h
    obtain ⟨n, hn⟩ := get?_issueData_jobs a hm
    exact ⟨n, hn⟩
  · exact ⟨j.asked, h⟩

/-! ## The scan -/

/-- The top of the scan loop changes its queue at most. -/
theorem beginRead_cases (s : State) (a q : Nat) : beginRead s a q = s ∨ ∃ f, beginRead s a q = modQueue s a q f := by
  unfold beginRead
  split
  · exact .inr ⟨_, rfl⟩
  · exact .inl rfl

theorem beginRead_frame (s : State) (a q : Nat) : ScanFrame a q 0 s (beginRead s a q) := by
  obtain h | ⟨f, h⟩ := beginRead_cases s a q <;> rw [h]
  · exact .refl a q s
  · exact modQueue_frame s a q f

@[simp] theorem beginRead_jobs (s : State) (a q : Nat) : (beginRead s a q).jobs = s.jobs := by
  obtain h | ⟨f, h⟩ := beginRead_cases s a q <;> rw [h]
  rfl

/-- The state whose descriptor read for a queue has returned (R76). -/
def readReturned (s : State) (a q : Nat) : State :=
  endRead (modQueue s a q fun v => { v with reading := false }) a fun r => serves false q r && !r.answered

theorem readReturned_frame (s : State) (a q : Nat) : ScanFrame a q 0 s (readReturned s a q) :=
  (modQueue_frame s a q _).trans (endRead_frame _ a q _)

/-- The arrival of an entry that is the device's. -/
theorem exec_entryArrival_owned {s : State} {a : BitVec 12} {q : BitVec 3} {v : Queue} {b : Vector Byte 64}
    (hv : KMap.get? s.queues (queueKey a.toNat q.toNat) = some v) (hr : v.reading = true)
    (ho : (parseEntry b.toList).own = true) :
    exec (.entryArrival a q b) s = .next (issueReads
      (owned (readReturned s a.toNat q.toNat) a.toNat q.toNat v (parseEntry b.toList)) a.toNat) := by
  change execEntryArrival a q b s = _
  simp [execEntryArrival, queueAt, readReturned, hv, hr, ho]

/-! ## A job that a check of its entry ends -/

/-- The job has no residence, no reserved key, resident index, state slot or curve, and no journal statement: it has nothing
to give back. -/
def holdsNothing (j : Job) : Prop :=
  j.place = none ∧ j.slot = none ∧ j.resident = none ∧ j.held = none ∧ j.entry.opcode.toNat ≠ 0x3801

theorem newJob_holdsNothing (s : State) (a : Nat) {e : Entry} (b : Bool) (h : e.opcode.toNat ≠ 0x3801) :
    holdsNothing (newJob s a e b) := ⟨rfl, rfl, rfl, rfl, h⟩

/-- What such a job leaves in the engines goes: its reads are answered, its draws, plot, eviction and slice bodies dropped. -/
theorem releaseEngines_of_holdsNothing (s : State) (k : Nat) {j : Job} (h : holdsNothing j) :
    releaseEngines s k j = { dropDraws (answerReads s k) k with
      evicted := KMap.drop s.evicted k,
      units := s.units.map fun u => { u with evictions := u.evictions.filter fun e => decide (e.job ≠ k) },
      bodies := s.bodies.map fun b => if b.active && decide (b.job = k) then Body.idle else b } := by
  obtain ⟨hp, hs, hr, hh, ho⟩ := h
  simp [releaseEngines, freeResidence, dropStatement, giveBack, withSome, hp, hs, hr, hh, ho, dropDraws, answerReads]

theorem answerReads_frame (s : State) (q k : Nat) : ScanFrame (keyAllot k) q 0 s (answerReads s k) :=
  modAllot_frame s (keyAllot k) q 0 fun _ => rfl

theorem releaseEngines_frame (s : State) (q k : Nat) {j : Job} (h : holdsNothing j) :
    ScanFrame (keyAllot k) q 0 s (releaseEngines s k j) := by
  rw [releaseEngines_of_holdsNothing s k h]
  exact (answerReads_frame s q k).upd rfl rfl rfl

theorem rejectJob_frame {k : Nat} {j : Job} (q : Nat) (st : Status) (addr : Nat) (hj : KMap.get? s.jobs k = some j)
    (h : holdsNothing j) : ScanFrame (keyAllot k) q 0 s (rejectJob s k st addr) := by
  simp only [rejectJob, hj]
  exact (releaseEngines_frame s q k h).trans (modJob_frame _ _ _ _ _)

/-- The job that a check has ended. -/
def rejected (t : Nat) (st : Status) (addr : Nat) (j : Job) : Job :=
  { failJob t st j with place := none, slot := none, resident := none, held := none, fault := BitVec.ofNat 64 addr }

theorem get?_rejectJob_same {k : Nat} {j : Job} (st : Status) (addr : Nat) (hj : KMap.get? s.jobs k = some j)
    (h : holdsNothing j) : KMap.get? (rejectJob s k st addr).jobs k = some (rejected (now s + 1) st addr j) := by
  simp only [rejectJob, hj, releaseEngines_of_holdsNothing s k h]
  exact get?_modJob_same _ hj

/-! ## A job as it is fetched -/

/-- The state with a fetched job that no check has seen yet (R78, R80). -/
def enterJob (s : State) (k : Nat) (j : Job) : State :=
  let s := { s with jobs := KMap.put s.jobs k j, sched.fetchSeq := s.sched.fetchSeq + 1 }
  let s := modQueue s (keyAllot k) (keyQueue k) fun v => { v with inflight := insertNat (keyIndex k) v.inflight }
  modAllot s (keyAllot k) fun v => { v with inflight := v.inflight + 1 }

theorem enterJob_frame (s : State) (k : Nat) (j : Job) : ScanFrame (keyAllot k) (keyQueue k) 1 s (enterJob s k j) := by
  have put : ScanFrame (keyAllot k) (keyQueue k) 0 s
      { s with jobs := KMap.put s.jobs k j, sched.fetchSeq := s.sched.fetchSeq + 1 } := .of_eq rfl rfl rfl
  exact (put.trans (modQueue_frame _ _ _ _)).trans (modAllot_frame _ _ _ 1 fun _ => rfl)

theorem get?_enterJob_same (s : State) (k : Nat) (j : Job) : KMap.get? (enterJob s k j).jobs k = some j :=
  KMap.get?_put_same _ _ _

/-- A job whose entry fails the checks that need only the entry ends at once; no response to tampering stops an admin
command (R94, R370). -/
theorem acceptEntry_of_entryFailure {k : Nat} {e : Entry} {j : Job} {st : Status} (hj : j = newJob s (keyAllot k) e (jobSealed s k))
    (hf : family j = 0xF0) (h : entryFailure (enterJob s k j) k j = some st) :
    acceptEntry s k e = rejectJob (enterJob s k j) k st 0 := by
  subst hj
  simp only [enterJob, modQueue] at h ⊢
  simp [acceptEntry, hf, h]

/-! ## Admin commands elsewhere (R5) -/

/-- Check 1: an admin opcode is unknown on every queue but queue 0 of allotment 0. -/
theorem entryFailure_of_admin_elsewhere (s : State) {k : Nat} {j : Job} (hf : family j = 0xF0) (hk : k / 4096 ≠ 0) :
    entryFailure s k j = some .opcodeUnknown := by
  have hn : factsOf s k j = none := by simp [factsOf, hf, adminFacts, hk]
  simp [entryFailure, hn]

section Elsewhere
variable {k : Nat} {e : Entry}

theorem acceptEntry_of_admin_elsewhere (s : State) (hf : e.opcode.toNat / 256 = 0xF0) (hk : k / 4096 ≠ 0) :
    acceptEntry s k e =
      rejectJob (enterJob s k (newJob s (keyAllot k) e (jobSealed s k))) k .opcodeUnknown 0 :=
  acceptEntry_of_entryFailure rfl hf (entryFailure_of_admin_elsewhere _ hf hk)

theorem newJob_holdsNothing_of_admin (s : State) (a : Nat) (b : Bool) (hf : e.opcode.toNat / 256 = 0xF0) :
    holdsNothing (newJob s a e b) :=
  newJob_holdsNothing s a b (by omega)

theorem acceptEntry_frame_of_admin_elsewhere (s : State) (hf : e.opcode.toNat / 256 = 0xF0) (hk : k / 4096 ≠ 0) :
    ScanFrame (keyAllot k) (keyQueue k) 1 s (acceptEntry s k e) := by
  rw [acceptEntry_of_admin_elsewhere s hf hk]
  exact (enterJob_frame s k _).trans
    (rejectJob_frame _ _ _ (get?_enterJob_same s k _) (newJob_holdsNothing_of_admin s _ _ hf))

/-- The job is decided ST_OPCODE_UNKNOWN, without output. -/
theorem get?_acceptEntry_of_admin_elsewhere (s : State) (hf : e.opcode.toNat / 256 = 0xF0) (hk : k / 4096 ≠ 0) :
    KMap.get? (acceptEntry s k e).jobs k =
      some (rejected (now s + 1) .opcodeUnknown 0 (newJob s (keyAllot k) e (jobSealed s k))) := by
  rw [acceptEntry_of_admin_elsewhere s hf hk]
  exact get?_rejectJob_same _ _ (get?_enterJob_same s k _) (newJob_holdsNothing_of_admin s _ _ hf)

end Elsewhere

/-- The scan behind an accepted entry touches its queue alone. -/
theorem owned_frame {n : Nat} {v : Queue} {e : Entry} (h : ScanFrame a q n s (acceptEntry s (jobKey a q v.scan) e)) :
    ScanFrame a q n s (owned s a q v e) :=
  (h.trans (modQueue_frame _ a q _)).trans (beginRead_frame _ a q)

theorem owned_jobs (s : State) (a q : Nat) (v : Queue) (e : Entry) :
    (owned s a q v e).jobs = (acceptEntry s (jobKey a q v.scan) e).jobs := beginRead_jobs _ a q

/-- Settles O18 (R5): the entry fails check 1 on every queue but queue 0 of allotment 0, so its job is decided
ST_OPCODE_UNKNOWN at once, and its fetch stays inside the frame of its own queue. -/
theorem adminQueueOnly : Obligations.AdminQueueOnly := by
  intro s a q v x b hv hx hr hs hl ho hf hne
  have hi : v.scan < 4096 := hs.trans_le (Nat.pow_le_pow_right (by decide) hl)
  have hq : q.toNat < 8 := q.isLt
  have elsewhere : jobKey a.toNat q.toNat v.scan / 4096 ≠ 0 := by
    rw [jobKey_div_eq_queueKey _ _ hi, queueKey]
    bv_omega
  have accepted := acceptEntry_frame_of_admin_elsewhere (readReturned s a.toNat q.toNat) hf elsewhere
  rw [keyAllot_jobKey _ hq hi, keyQueue_jobKey _ hq hi] at accepted
  obtain ⟨hb, others, own, queues⟩ :=
    ((readReturned_frame s _ _).trans (owned_frame accepted)).trans (issueReads_frame _ a.toNat q.toNat)
  simp only [deviceBlocks, Prod.mk.injEq] at hb
  have decided := get?_acceptEntry_of_admin_elsewhere (readReturned s a.toNat q.toNat) hf elsewhere
  rw [← owned_jobs _ a.toNat q.toNat v] at decided
  obtain ⟨n, job⟩ := get?_issueReads_jobs a.toNat decided
  refine ⟨_, _, exec_entryArrival_owned hv hr ho, job, rfl, rfl, rfl, rfl, others, fun y hy => ?_, queues, hb⟩
  obtain ⟨x', hx', hy'⟩ := own y hy
  cases hx.symm.trans hx'
  exact hy'

end Sys2Proof.Machine
end

section
/-! SUPPORT. The insertion of the backup cell releases the Lodge's clock domain (Table 1-5, 20_reset_boot.md R451). -/
namespace Sys2Proof.Machine
open Sys2Proof

/-- The device out of reset without a cell: the domain of stage 0, LPO, is held as BATTERY_REMOVAL leaves it. -/
def cellGone : State :=
  { State.reset with lodge.battery := false, clocks := holdClocks State.reset.clocks fun n => decide (clockStage n = 0) }

/-- Refutes O5: BATTERY_INSERTION does more than set `lodge.battery`. It takes the LPO domain out of reset, which the first
clause denies in a state that holds it. -/
theorem not_releaseOfReset : ¬ Obligations.ReleaseOfReset := by
  intro h
  obtain ⟨insertion, -⟩ := h.1 cellGone
  have resets := congrArg (fun t => t.clocks.map Clock.reset) (Host.Outcome.next.inj insertion)
  exact absurd resets (by decide)

end Sys2Proof.Machine
end

section
/-! SUPPORT. What the operations of the event log, the Lodge ring and the tamper sources change: each lemma names the parts
of the state that its operation writes, and with them that every other part stays (R366 to R381, R417, R475). -/
namespace Sys2Proof.Machine
open Sys2Proof

/-! ## The event log -/

theorem postSecurity_changes (s : State) (code : W16) (source level : Byte) (detail : List Byte) :
    ∃ l, postSecurity s code source level detail = { s with journal := l } := by
  simp only [postSecurity]
  split_ifs <;> exact ⟨_, rfl⟩

theorem logEventAt_changes (s : State) (cls : Nat) (code allot : W16) (unit source level : Byte) (detail : List Byte) :
    ∃ e l, logEventAt s cls code allot unit source level detail = { s with events := e, journal := l } := by
  unfold logEventAt
  split
  · obtain ⟨l, h⟩ := postSecurity_changes { s with events := enterEvent s.events ⟨false, cls, code, allot, unit, source, now s, 1,
      detail12 detail⟩ } code source level (detail12 detail)
    exact ⟨_, l, h⟩
  · exact ⟨_, s.journal, rfl⟩

/-! ## The Lodge ring -/

theorem linkRing_changes (s : State) (code : W16) (src : Nat) : ∃ r, linkRing s code src = { s with lodge.ring := r } := by
  unfold linkRing
  split
  · exact ⟨_, rfl⟩
  · exact ⟨s.lodge.ring, rfl⟩

theorem ringWrite_changes (l : Lodge) (e : RingEntry) : ∃ r o, ringWrite l e = { l with ring := r, overflow := o } := by
  unfold ringWrite
  split <;> exact ⟨_, _, rfl⟩

theorem ringPut_changes (s : State) (e : RingEntry) : ∃ r o v l,
    ringPut s e = { s with lodge := { s.lodge with ring := r, overflow := o }, events := v, journal := l } := by
  obtain ⟨r, o, hw⟩ := ringWrite_changes s.lodge e
  unfold ringPut
  simp only [hw]
  split
  · obtain ⟨v, l, hl⟩ := logEventAt_changes { s with lodge := { s.lodge with ring := r, overflow := o } } 5 0x0053 0xFFFF 20 0xFF
      0xFF []
    obtain ⟨r', hr⟩ := linkRing_changes { s with
      lodge := { s.lodge with ring := r, overflow := o }, events := v, journal := l } 0x0053 0xFF
    exact ⟨r', o, v, l, by rw [hl, hr]⟩
  · exact ⟨r, o, s.events, s.journal, rfl⟩

/-! ## Tamper sources -/

theorem tamperNotice_changes (s : State) (src level : Nat) : ∃ q, tamperNotice s src level = { s with bridge.queue := q } := by
  unfold tamperNotice
  split
  · exact ⟨_, rfl⟩
  · exact ⟨s.bridge.queue, rfl⟩

end Sys2Proof.Machine
end

section
/-! SUPPORT. How a job of the intake goes on: what its checks keep of the entry, the bytes that have landed and the residence,
and what the release of a job's engines leaves unchanged (04_rings.md R78, R86, R94; 09_parterre.md R234). -/
namespace Sys2Proof.Machine
open Sys2Proof

variable {s t : State} {k : Nat} {j x y : Job}

/-! ## The release of a job's engines -/

/-- The parts of the state in which a job has no engine of its own. -/
def besideEngines (s : State) := (s.jobs, s.sched, s.regs, s.queues, s.gh, s.lodge, s.otp, s.link)

theorem besideEngines_releaseReserved (s : State) (n : Nat) : besideEngines (releaseReserved s n) = besideEngines s := by
  unfold releaseReserved
  split
  · dsimp only
    split_ifs <;> rfl
  · rfl

theorem besideEngines_dropKeptResident (s : State) (n : Nat) : besideEngines (dropKeptResident s n) = besideEngines s := by
  unfold dropKeptResident
  split <;> rfl

theorem besideEngines_dropHeld (s : State) (o n : Nat) : besideEngines (dropHeld s o n) = besideEngines s := by
  unfold dropHeld
  split <;> rfl

theorem besideEngines_withSome {f : State → Nat → State} (hf : ∀ s n, besideEngines (f s n) = besideEngines s) (s : State)
    (o : Option Nat) : besideEngines (withSome s o f) = besideEngines s := by
  cases o with
  | none => rfl
  | some n => exact hf s n

theorem besideEngines_giveBack (s : State) (j : Job) : besideEngines (giveBack s j) = besideEngines s :=
  (besideEngines_withSome (fun s n => besideEngines_dropHeld s j.entry.opcode.toNat n) _ _).trans
    ((besideEngines_withSome besideEngines_dropKeptResident _ _).trans
      (besideEngines_withSome besideEngines_releaseReserved _ _))

theorem besideEngines_dropStatement (s : State) (j : Job) : besideEngines (dropStatement s j) = besideEngines s := by
  unfold dropStatement
  split <;> rfl

theorem besideEngines_freeResidence (s : State) (j : Job) : besideEngines (freeResidence s j) = besideEngines s := by
  unfold freeResidence
  split <;> rfl

theorem besideEngines_releaseEngines (s : State) (k : Nat) (j : Job) :
    besideEngines (releaseEngines s k j) = besideEngines s :=
  (besideEngines_giveBack _ j).trans ((besideEngines_dropStatement _ j).trans (besideEngines_freeResidence (answerReads s k) j))

@[simp] theorem releaseEngines_jobs (s : State) (k : Nat) (j : Job) : (releaseEngines s k j).jobs = s.jobs :=
  congrArg Prod.fst (besideEngines_releaseEngines s k j)

@[simp] theorem releaseEngines_sched (s : State) (k : Nat) (j : Job) : (releaseEngines s k j).sched = s.sched :=
  congrArg (fun p => p.2.1) (besideEngines_releaseEngines s k j)

/-! ## Rejection -/

/-- A job that a check ends is decided and has no residence. -/
theorem get?_rejectJob (st : Status) (addr : Nat) (hj : KMap.get? s.jobs k = some j) :
    KMap.get? (rejectJob s k st addr).jobs k = some (rejected (now s + 1) st addr j) := by
  simp only [rejectJob, hj, get?_modJob, releaseEngines_jobs]
  rfl

@[simp] theorem rejectJob_sched (s : State) (k : Nat) (st : Status) (addr : Nat) : (rejectJob s k st addr).sched = s.sched := by
  unfold rejectJob
  split
  · rfl
  · exact releaseEngines_sched s k _

theorem rejectWindow_jobs_sched (s : State) (k addr : Nat) :
    (rejectWindow s k addr).jobs = (rejectJob s k .windowViolation addr).jobs ∧ (rejectWindow s k addr).sched = s.sched := by
  obtain ⟨e, l, h⟩ := logEventAt_changes (rejectJob s k .windowViolation addr) 2 0x0020 (BitVec.ofNat 16 (keyAllot k)) 15 0xFF 0xFF
    (leBytes 1 (keyQueue k) ++ [0] ++ leBytes 2 (keyIndex k) ++ leBytes 8 addr)
  rw [rejectWindow, logEvent, h]
  exact ⟨rfl, rejectJob_sched s k _ addr⟩

/-! ## What the intake keeps of a job -/

/-- The same fetched entry (R78). -/
structure SameEntry (j x : Job) : Prop where
  entry : x.entry = j.entry
  arrival : x.arrival = j.arrival
  order : x.order = j.order

theorem SameEntry.refl (j : Job) : SameEntry j j := ⟨rfl, rfl, rfl⟩

theorem SameEntry.trans (h : SameEntry j x) (g : SameEntry x y) : SameEntry j y :=
  ⟨g.entry.trans h.entry, g.arrival.trans h.arrival, g.order.trans h.order⟩

/-- The checks have gone on: the bytes that have landed stay, and the residence unless the job has ended. -/
structure TakenIn (j x : Job) : Prop extends SameEntry j x where
  landed : x.landed = j.landed
  input : x.input = j.input
  place : x.phase ≠ .decided → x.place = j.place

theorem TakenIn.refl (j : Job) : TakenIn j j := ⟨⟨rfl, rfl, rfl⟩, rfl, rfl, fun _ => rfl⟩

/-- From `s` to `t` job `k` has gone on as `R` says, and the scheduler's state is as it was. -/
structure JobGoes (R : Job → Job → Prop) (k : Nat) (s t : State) : Prop where
  sched : t.sched = s.sched
  job : ∀ j, KMap.get? s.jobs k = some j → ∃ x, KMap.get? t.jobs k = some x ∧ R j x

theorem JobGoes.refl {R : Job → Job → Prop} (hR : ∀ j, R j j) (k : Nat) (s : State) : JobGoes R k s s where
  sched := rfl
  job j hj := ⟨j, hj, hR j⟩

theorem JobGoes.trans {R : Job → Job → Prop} {u : State} (hR : ∀ {j x y}, R j x → R x y → R j y) (h : JobGoes R k s t)
    (g : JobGoes R k t u) : JobGoes R k s u where
  sched := g.sched.trans h.sched
  job j hj := by
    obtain ⟨x, hx, jx⟩ := h.job j hj
    obtain ⟨y, hy, xy⟩ := g.job x hx
    exact ⟨y, hy, hR jx xy⟩

theorem JobGoes.mono {R Q : Job → Job → Prop} (hRQ : ∀ j x, R j x → Q j x) (h : JobGoes R k s t) : JobGoes Q k s t where
  sched := h.sched
  job j hj := by
    obtain ⟨x, hx, jx⟩ := h.job j hj
    exact ⟨x, hx, hRQ j x jx⟩

theorem JobGoes.of_modJob {R : Job → Job → Prop} (s : State) (k : Nat) {f : Job → Job} (h : ∀ j, R j (f j)) :
    JobGoes R k s (modJob s k f) where
  sched := rfl
  job j hj := ⟨f j, get?_modJob_same f hj, h j⟩

theorem takenIn_rejectJob (s : State) (k : Nat) (st : Status) (addr : Nat) : JobGoes TakenIn k s (rejectJob s k st addr) where
  sched := rejectJob_sched s k st addr
  job _ hj := ⟨_, get?_rejectJob st addr hj, ⟨rfl, rfl, rfl⟩, rfl, rfl, fun h => absurd rfl h⟩

theorem takenIn_rejectWindow (s : State) (k addr : Nat) : JobGoes TakenIn k s (rejectWindow s k addr) where
  sched := (rejectWindow_jobs_sched s k addr).2
  job j hj := by
    rw [(rejectWindow_jobs_sched s k addr).1]
    exact (takenIn_rejectJob s k _ addr).job j hj

/-! ## The intake from the entry on -/

/-- The checks of a job keep its entry, its bytes and its residence, unless one of them ends it. -/
theorem takenIn_intake (s : State) (k : Nat) : JobGoes TakenIn k s (intake s k) := by
  have step {f : Job → Job} (h : ∀ j, TakenIn j (f j)) : JobGoes TakenIn k s (modJob s k f) := .of_modJob s k h
  unfold intake
  split
  · exact .refl TakenIn.refl k s
  · dsimp only
    split
    · exact takenIn_rejectJob s k _ 0
    · exact step fun j => ⟨⟨rfl, rfl, rfl⟩, rfl, rfl, fun _ => rfl⟩
    · split <;> exact step fun j => ⟨⟨rfl, rfl, rfl⟩, rfl, rfl, fun _ => rfl⟩
    · simp only [modJob_modJob]
      split_ifs <;> exact step fun j => ⟨⟨rfl, rfl, rfl⟩, rfl, rfl, fun _ => rfl⟩


theorem sameEntry_intake (s : State) (k : Nat) : JobGoes SameEntry k s (intake s k) :=
  (takenIn_intake s k).mono fun _ _ h => h.toSameEntry

theorem sameEntry_rejectJob (s : State) (k : Nat) (st : Status) (addr : Nat) : JobGoes SameEntry k s (rejectJob s k st addr) :=
  (takenIn_rejectJob s k st addr).mono fun _ _ h => h.toSameEntry

theorem sameEntry_rejectWindow (s : State) (k addr : Nat) : JobGoes SameEntry k s (rejectWindow s k addr) :=
  (takenIn_rejectWindow s k addr).mono fun _ _ h => h.toSameEntry

theorem sameEntry_modJob_then {f : Job → Job} (g : JobGoes SameEntry k (modJob s k f) t) (h : ∀ j, SameEntry j (f j)) :
    JobGoes SameEntry k s t :=
  .trans SameEntry.trans (.of_modJob s k h) g

theorem sameEntry_afterWalk (s : State) (k : Nat) : JobGoes SameEntry k s (afterWalk s k) := by
  unfold afterWalk
  split
  · exact .refl SameEntry.refl k s
  split
  · exact sameEntry_rejectWindow s k _
  split
  · exact sameEntry_rejectJob s k _ 0
  · refine sameEntry_modJob_then (sameEntry_intake _ k) fun j => ?_
    unfold flagIf
    split <;> exact ⟨rfl, rfl, rfl⟩

theorem sameEntry_startTable (s : State) (k : Nat) (addr : W64) (n : Nat) : JobGoes SameEntry k s (startTable s k addr n) := by
  unfold startTable
  split
  · exact .refl SameEntry.refl k s
  split
  · exact sameEntry_rejectWindow s k _
  split
  · exact sameEntry_modJob_then (sameEntry_afterWalk _ k) fun _ => ⟨rfl, rfl, rfl⟩
  · exact .of_modJob s k fun j => ⟨rfl, rfl, rfl⟩

/-- An accepted entry is rejected, begins the walk of its fragment tables, or has no table to walk. -/
theorem acceptEntry_cases (s : State) (k : Nat) (e : Entry) :
    let t := enterJob s k (newJob s (keyAllot k) e (jobSealed s k))
    (∃ st, acceptEntry s k e = rejectJob t k st 0) ∨ acceptEntry s k e = startTable t k e.inAddr e.inFrags.toNat ∨
      acceptEntry s k e = afterWalk (modJob t k fun x => { x with
        frags := if e.inLen = 0 then [] else [(e.inAddr, e.inLen.toNat)], fragSum := e.inLen.toNat }) k := by
  unfold acceptEntry
  dsimp only
  split
  · exact .inl ⟨_, rfl⟩
  split
  · exact .inl ⟨_, rfl⟩
  split
  · exact .inr (.inl rfl)
  · exact .inr (.inr rfl)

/-- An accepted entry's job carries the entry, the tick of its arrival and the next place in the order of fetches. -/
theorem sameEntry_acceptEntry (s : State) (k : Nat) (e : Entry) :
    ∃ x, KMap.get? (acceptEntry s k e).jobs k = some x ∧ SameEntry (newJob s (keyAllot k) e (jobSealed s k)) x ∧
      (acceptEntry s k e).sched.fetchSeq = s.sched.fetchSeq + 1 := by
  have go : JobGoes SameEntry k (enterJob s k (newJob s (keyAllot k) e (jobSealed s k))) (acceptEntry s k e) := by
    obtain ⟨st, h⟩ | h | h := acceptEntry_cases s k e <;> rw [h]
    · exact sameEntry_rejectJob _ k st 0
    · exact sameEntry_startTable _ k _ _
    · exact sameEntry_modJob_then (sameEntry_afterWalk _ k) fun _ => ⟨rfl, rfl, rfl⟩
  obtain ⟨x, hx, same⟩ := go.job _ (get?_enterJob_same s k _)
  exact ⟨x, hx, same, congrArg Sched.fetchSeq go.sched⟩

end Sys2Proof.Machine
end

section
/-! SUPPORT. Input bytes land behind those that landed before (03_host_link.md R63; 04_rings.md R86, R94). -/
namespace Sys2Proof.Machine
open Sys2Proof

variable {s t : State} {k a : Nat} {j : Job} {x : Allotment}

/-! ## Data reads -/

/-- The data reads that an allotment issues: what they add to the reads in flight. -/
theorem issueData_reads (s : State) (a : Nat) : ∃ l : List HostReq, (∀ r ∈ l, r.data = true) ∧
    (issueData s a).allots = (modAllot s a fun v => { v with reads := v.reads ++ l }).allots := by
  obtain h | ⟨k, n, tag, addr, h⟩ := issueData_cases s a
  · refine ⟨[], by simp, ?_⟩
    rw [h]
    simp [modAllot, KMap.adjust]
  · exact ⟨[⟨tag, true, k, addr, n, false⟩], by simp, by rw [h]; rfl⟩

theorem get?_issueReads_allots (a : Nat) (hx : KMap.get? s.allots a = some x) :
    ∃ l : List HostReq, (∀ r ∈ l, r.data = true) ∧
      KMap.get? (issueReads s a).allots a = some { x with reads := x.reads ++ l } := by
  unfold issueReads
  split
  · obtain ⟨l, hl, e⟩ := issueData_reads s a
    obtain ⟨m, hm, f⟩ := issueData_reads (issueData s a) a
    refine ⟨l ++ m, ?_, ?_⟩
    · simpa [or_imp, forall_and] using ⟨hl, hm⟩
    · simp [f, e, modAllot, hx]
  · exact ⟨[], by simp, by simpa using hx⟩

/-! ## Bytes of a job's data -/

/-- The fill of a plot changes no job. -/
theorem fillPlot_jobs (s : State) (k : Nat) : (fillPlot s k).jobs = s.jobs := by
  simp only [fillPlot]
  split
  · split_ifs
    · rfl
    · rfl
    · split <;> rfl
  · rfl

/-- Bytes of a job that carries no sealed framing land, whatever its checks do with them. -/
theorem get?_dataLanded {b : List Byte} (hj : KMap.get? s.jobs k = some j) (plain : framed s k j = false) :
    ∃ y, KMap.get? (dataLanded s k j b).jobs k = some y ∧ y.landed = j.landed ++ b ∧ y.input = j.landed ++ b := by
  have landed : KMap.get? (fillPlot (modJob s k fun x => { x with landed := j.landed ++ b, input := j.landed ++ b }) k).jobs k =
      some { j with landed := j.landed ++ b, input := j.landed ++ b } := by
    rw [fillPlot_jobs]
    exact get?_modJob_same _ hj
  have plain' : framed (modJob s k fun x => { x with landed := j.landed ++ b, input := j.landed ++ b }) k j = false := plain
  simp only [dataLanded, plain', Bool.false_eq_true, if_false]
  split
  · obtain ⟨y, hy, taken⟩ := (takenIn_intake _ k).job _ landed
    exact ⟨y, hy, taken.landed, taken.input⟩
  · exact ⟨_, landed, rfl, rfl⟩

/-! ## The row -/

/-- What the row leaves of the reads in flight. -/
theorem get?_takeBytes_allots (p : HostReq → Bool) (n : Nat) (hx : KMap.get? s.allots a = some x) :
    KMap.get? (takeBytes s a p n).allots a = some { x with
      reads := dropFirst (fun r => p r && decide (r.due = 0)) (updateFirst p (fun r => { r with due := r.due - n }) x.reads) } := by
  simp [takeBytes, modAllot, hx]

/-- The reads in flight do not bear on the framing of a job. -/
theorem framed_takeBytes (s : State) (a : Nat) (p : HostReq → Bool) (n k : Nat) (j : Job) :
    framed (takeBytes s a p n) k j = framed s k j := by
  have same : jobSealed (takeBytes s a p n) k = jobSealed s k := by
    unfold jobSealed takeBytes modAllot
    by_cases h : keyAllot k = a
    · subst h
      simp [Option.map_map, Function.comp_def]
    · rw [KMap.get?_adjust_ne _ _ h]
  rw [framed, framed, same]

theorem keyAllot_refKey (r : JobRef) : keyAllot (refKey r) = r.allot.toNat :=
  keyAllot_jobKey _ (by omega) (by omega)

/-- Bytes of a read that is in flight return. -/
theorem exec_dataReadArrival {r : JobRef} {d : HostReq} {b : List Byte} (hj : KMap.get? s.jobs (refKey r) = some j)
    (hx : KMap.get? s.allots r.allot.toNat = some x) (hd : x.reads.find? (serves true (refKey r)) = some d)
    (h1 : 1 ≤ b.length) (h2 : b.length ≤ 4096) (due : b.length ≤ d.due) :
    exec (.dataReadArrival r b) s = .next (issueReads
      (if d.answered then takeBytes s r.allot.toNat (serves true (refKey r)) b.length
       else dataReturned (takeBytes s r.allot.toNat (serves true (refKey r)) b.length) (refKey r) j b) r.allot.toNat) := by
  have hj' : KMap.get? (takeBytes s r.allot.toNat (serves true (refKey r)) b.length).jobs (refKey r) = some j := hj
  change execDataReadArrival r b s = _
  simp only [execDataReadArrival, readBytes, h1, h2, keyAllot_refKey, findRead, hx, Option.bind_some, hd, hj',
    Nat.not_lt.mpr due]
  cases d.answered <;> rfl

/-- Settles O19: the row takes the bytes off the read and hands them to the job (`exec_dataReadArrival`); the reads that it
can issue then count requested bytes alone. -/
theorem dataLands : Obligations.DataLands := by
  intro s r j x d b hj hx hd h1 h2 due
  have arrival := exec_dataReadArrival hj hx hd h1 h2 due
  have reads := get?_takeBytes_allots (serves true (refKey r)) b.length hx
  have job : KMap.get? (takeBytes s r.allot.toNat (serves true (refKey r)) b.length).jobs (refKey r) = some j := hj
  have framing := framed_takeBytes s r.allot.toNat (serves true (refKey r)) b.length (refKey r) j
  generalize takeBytes s r.allot.toNat (serves true (refKey r)) b.length = u at arrival reads job framing
  refine ⟨fun live tables n addr table short => ?_, fun live past plain => ?_, fun answered => ?_⟩
  · have part : dataReturned u (refKey r) j b = modJob u (refKey r) fun x => { x with landed := j.landed ++ b } := by
      simp [dataReturned, tables, table, short]
    rw [live, if_neg Bool.false_ne_true, part] at arrival
    obtain ⟨m, hy⟩ := get?_issueReads_jobs r.allot.toNat (get?_modJob_same (fun x => { x with landed := j.landed ++ b }) job)
    obtain ⟨l, hl, hw⟩ := get?_issueReads_allots (s := modJob u (refKey r) fun x => { x with landed := j.landed ++ b })
      r.allot.toNat reads
    exact ⟨_, _, _, l, arrival, hy, rfl, rfl, hw, rfl, hl⟩
  · have whole : dataReturned u (refKey r) j b = dataLanded u (refKey r) j b := by simp [dataReturned, past]
    rw [live, if_neg Bool.false_ne_true, whole] at arrival
    obtain ⟨y, hy, landed, input⟩ := get?_dataLanded (b := b) job (framing.trans plain)
    obtain ⟨m, hy'⟩ := get?_issueReads_jobs r.allot.toNat hy
    exact ⟨_, _, arrival, hy', landed, input⟩
  · rw [answered, if_pos rfl] at arrival
    obtain ⟨m, hy⟩ := get?_issueReads_jobs r.allot.toNat job
    exact ⟨_, _, arrival, hy, rfl⟩

end Sys2Proof.Machine
end

section
/-! SUPPORT. A waiting job takes a residence, or one begins to move out for it (02_bandstand.md R47; 09_parterre.md R234). -/
namespace Sys2Proof.Machine
open Sys2Proof

variable {s : State} {k u n : Nat} {j : Job}

/-- A job that takes a residence has it. -/
theorem get?_occupy (u n : Nat) (hj : KMap.get? s.jobs k = some j) :
    KMap.get? (occupy s k u n).jobs k = some { j with place := some (u, n) } :=
  get?_modJob_same _ hj

/-- An evicted job is restored by housekeeping slices. -/
theorem get?_placeJob_evicted (u n : Nat) (hj : KMap.get? s.jobs k = some j) (evicted : j.evicted = true) :
    KMap.get? (placeJob s k j u n).jobs k = some { j with place := some (u, n), restoring := if u < 4 then 8 else 1 } := by
  simp only [placeJob, evicted, if_true, get?_modJob, get?_occupy u n hj, Option.map_some]

/-- The checks that go on over a filled residence. -/
theorem takenIn_intake_fillPlot (f : Job → Job) (hj : KMap.get? s.jobs k = some j) :
    ∃ x, KMap.get? (intake (fillPlot (modJob s k f) k) k).jobs k = some x ∧ TakenIn (f j) x :=
  (takenIn_intake _ k).job _ (by rw [fillPlot_jobs]; exact get?_modJob_same f hj)

/-- A new job's residence is prepared and filled with what has landed, and its checks go on. -/
theorem placeJob_new (u n : Nat) (new : j.evicted = false) : ∃ p, placeJob s k j u n =
    intake (fillPlot (modJob (setPlot (occupy s k u n) (plotKey u n) p) k fun x => { x with phase := .reading }) k) k := by
  simp only [placeJob, new, Bool.false_eq_true, if_false]
  exact ⟨_, rfl⟩

/-- A new job has its residence, unless one of its checks ends it. -/
theorem get?_placeJob_new (u n : Nat) (hj : KMap.get? s.jobs k = some j) (new : j.evicted = false) :
    ∃ x, KMap.get? (placeJob s k j u n).jobs k = some x ∧ (x.phase ≠ .decided → x.place = some (u, n)) := by
  obtain ⟨p, h⟩ := placeJob_new u n new
  obtain ⟨x, hx, taken⟩ := takenIn_intake_fillPlot (s := setPlot (occupy s k u n) (plotKey u n) p)
    (fun x => { x with phase := .reading }) (get?_occupy u n hj)
  exact ⟨x, by rw [h]; exact hx, taken.place⟩

/-- Settles O20: a placement is `placeJob` and what an allotment then reads; a wait that expires adds one eviction. -/
theorem jobPlaced : Obligations.JobPlaced := by
  intro s r j c hj hc waits room
  have free : (j.evicted || decide (jobsWithState s (keyAllot (refKey r)) < stateLimit s (keyAllot (refKey r)))) = true := by
    simpa using room
  refine ⟨fun u n place => ?_, fun u n k none late idle unit least job => ?_⟩
  · have placed : exec (.jobPlacement r) s = .next (issueReads (placeJob s (refKey r) j u n) (keyAllot (refKey r))) := by
      change execJobPlacement r s = _
      simp [execJobPlacement, hj, hc, place, waits, free]
    refine ⟨fun evicted => ?_, fun new => ?_⟩
    · obtain ⟨m, hx⟩ := get?_issueReads_jobs (keyAllot (refKey r)) (get?_placeJob_evicted u n hj evicted)
      exact ⟨_, _, placed, hx, rfl⟩
    · obtain ⟨x, hx, kept⟩ := get?_placeJob_new u n hj new
      obtain ⟨m, hy⟩ := get?_issueReads_jobs (keyAllot (refKey r)) hx
      exact ⟨_, _, placed, hy, kept⟩
  · change execResidenceWaitExpiry r s = _
    simp only [execResidenceWaitExpiry, hj, hc, waits, late, none, idle, free, unit, least, job, Option.isNone_none,
      decide_true, Bool.not_false, Bool.and_self, if_true]

end Sys2Proof.Machine
end

section
/-! SUPPORT. Doorbells, the scan of a queue, its fetch turns and the entry that arrives (03_host_link.md R61, R63;
02_bandstand.md R51; 04_rings.md R76 to R80). -/
namespace Sys2Proof.Machine
open Sys2Proof

variable {s : State} {a q : Nat} {v : Queue} {x : Allotment}

/-! ## Doorbells -/

theorem rungBy_of_owner {f o : Nat} (owner : pageOwner s f (o / 4096) = some a) (low : o % 4096 < 512) (byte : o % 64 < 4)
    (page : o / 4096 < if f = 0 then 4096 else 256) : rungBy s f o = some (a, o % 4096 / 64) := by
  have byte' : o % 4096 % 64 < 4 := by omega
  simp only [rungBy, low, byte', page, owner, and_self, if_true, Option.map_some]

theorem rungBy_eq_none {f o : Nat} (h : 512 ≤ o % 4096 ∨ 4 ≤ o % 64 ∨ pageOwner s f (o / 4096) = none) : rungBy s f o = none := by
  obtain h | h | h := h
  · simp [rungBy, Nat.not_lt.mpr h]
  · have byte : ¬ o % 4096 % 64 < 4 := by omega
    simp only [rungBy, byte, false_and, and_false, if_false]
  · simp [rungBy, h]

/-- A doorbell on a queue: nothing while it is freed or stopped with LIMIT, remembered by a scan that runs, seen at the next
boundary by one that is stopped otherwise. -/
theorem ring_eq (s : State) (a q : Nat) : ring s (a, q) = modQueue s a q fun v =>
    if v.closing = true ∨ v.stop = some .limit then v
    else if v.stop = none then { v with bell := some (now s) } else { v with rang := some (now s) } := by
  refine congrArg (modQueue s a q) (funext fun v => ?_)
  rcases hc : v.closing
  · rcases hs : v.stop with - | (- | - | -) <;> simp
  · simp

theorem exec_doorbell (s : State) (f : Fin 64) (l : List (BitVec 24)) :
    exec (.doorbell f l) s = .next (if s.boot.ready && funcExists s f.val && (funcAt s f.val).mse then
      (l.filterMap fun o => rungBy s f.val o.toNat).foldl ring s else s) := rfl

/-! ## The top of the scan -/

/-- The scan has room, and its next entry is in no job's hands (R78, R80). -/
structure Free (s : State) (a q : Nat) (v : Queue) (x : Allotment) : Prop where
  queue : queueAt s a q = some v
  allot : KMap.get? s.allots a = some x
  room : v.inflight.length < 32
  quota : x.inflight < x.quota
  next : v.inflight.contains v.scan = false
  job : KMap.has s.jobs (jobKey a q v.scan) = false

theorem beginRead_of_free (h : Free s a q v x) :
    beginRead s a q = modQueue s a q fun v => { v with stop := none, awaiting := true } := by
  have below : atLimit v x = false := by simp [atLimit, h.room, h.quota]
  simp only [beginRead, h.queue, h.allot, below, h.next, h.job, Bool.or_self, Bool.false_eq_true, if_false, Option.isNone_none]

theorem beginRead_at_limit (hq : queueAt s a q = some v) (hx : KMap.get? s.allots a = some x) (h : atLimit v x = true) :
    beginRead s a q = modQueue s a q fun v => { v with stop := some .limit, awaiting := false } := by
  simp [beginRead, hq, hx, h]

theorem get?_modQueue (f : Queue → Queue) (h : queueAt s a q = some v) :
    KMap.get? (modQueue s a q f).queues (queueKey a q) = some (f v) := by
  rw [queueAt] at h
  simp [modQueue, h]

/-- A free scan goes on: it waits for a fetch turn. -/
theorem get?_beginRead_of_free (h : Free s a q v x) :
    KMap.get? (beginRead s a q).queues (queueKey a q) = some { v with stop := none, awaiting := true } := by
  rw [beginRead_of_free h]
  exact get?_modQueue _ h.queue

/-! ## Fetch turns -/

/-- A queue has taken a fetch turn of its allotment; its read is next (R51, R76). -/
def turnTaken (s : State) (a q : Nat) : State :=
  { modAllot (modQueue s a q fun v => { v with
      awaiting := false, reading := true, bell := v.bell.filter fun b => decide (b = now s) }) a fun v =>
        { v with lastFetch := q } with
    sched.served := KMap.put s.sched.served a (KMap.getD s.sched.served a 0 + 1), regs.descReads := s.regs.descReads + 1 }

/-! ## What issuing data reads leaves -/

theorem issueData_queues_sched (s : State) (a : Nat) :
    (issueData s a).queues = s.queues ∧ (issueData s a).sched = s.sched := by
  obtain h | ⟨k, n, tag, addr, h⟩ := issueData_cases s a <;> rw [h] <;> exact ⟨rfl, rfl⟩

theorem issueReads_queues (s : State) (a : Nat) : (issueReads s a).queues = s.queues := by
  unfold issueReads
  split
  · exact (issueData_queues_sched _ a).1.trans (issueData_queues_sched s a).1
  · rfl

theorem issueReads_sched (s : State) (a : Nat) : (issueReads s a).sched = s.sched := by
  unfold issueReads
  split
  · exact (issueData_queues_sched _ a).2.trans (issueData_queues_sched s a).2
  · rfl

/-- Without a job there is no data to read. -/
theorem issueReads_of_no_jobs {s : State} (a : Nat) (h : s.jobs = []) : issueReads s a = s := by
  have none : issueData s a = s := by
    simp only [issueData, nextReader, h, List.filter_nil, List.foldl_nil]
    cases freeTag s a true <;> rfl
  simp only [issueReads, none, ite_self]

theorem owned_sched (s : State) (a q : Nat) (v : Queue) (e : Entry) :
    (owned s a q v e).sched = (acceptEntry s (jobKey a q v.scan) e).sched := by
  obtain h | ⟨f, h⟩ := beginRead_cases (modQueue (acceptEntry s (jobKey a q v.scan) e) a q fun v =>
    { v with scan := (v.scan + 1) % 2 ^ v.log2n }) a q <;> rw [owned, h] <;> rfl

/-! ## The rows -/

/-- The doorbell clauses. -/
theorem doorbells (s : State) (f : Fin 64) :
    (s.boot.ready = false ∨ funcExists s f.val = false ∨ (funcAt s f.val).mse = false → ∀ l, exec (.doorbell f l) s = .next s) ∧
    (s.boot.ready = true → funcExists s f.val = true → (funcAt s f.val).mse = true → ∀ o : BitVec 24,
      (∀ a, pageOwner s f.val (o.toNat / 4096) = some a → o.toNat % 4096 < 512 → o.toNat % 64 < 4 →
        o.toNat / 4096 < (if f.val = 0 then 4096 else 256) →
        exec (.doorbell f [o]) s = .next (modQueue s a (o.toNat % 4096 / 64) fun v =>
          if v.closing = true ∨ v.stop = some .limit then v
          else if v.stop = none then { v with bell := some (now s) } else { v with rang := some (now s) })) ∧
      (512 ≤ o.toNat % 4096 ∨ 4 ≤ o.toNat % 64 ∨ pageOwner s f.val (o.toNat / 4096) = none →
        exec (.doorbell f [o]) s = .next s) ∧
      exec (.doorbell f []) s = .next s) := by
  refine ⟨fun shut l => ?_, fun ready there mse o => ⟨fun a owner low byte page => ?_, fun other => ?_, ?_⟩⟩
  · obtain h | h | h := shut <;> simp [exec_doorbell, h]
  · rw [exec_doorbell, ← ring_eq]
    simp [ready, there, mse, rungBy_of_owner owner low byte page]
  · simp [exec_doorbell, rungBy_eq_none other]
  · simp [exec_doorbell]

section Scan
variable {s : State} {a : BitVec 12} {q : BitVec 3} {v : Queue} {x : Allotment}

/-- A scan that stopped NOT_OWNED or BUSY goes on at the boundary after a doorbell. -/
theorem exec_scanRestart (h : Free s a.toNat q.toNat v x) (fetch : mayFetch s a.toNat = true) (opened : v.closing = false) {t : Nat}
    (rang : v.rang = some t) (before : t < now s) (stop : v.stop = some .notOwned ∨ v.stop = some .busy) :
    exec (.scanRestart a q) s = .next (beginRead (modQueue s a.toNat q.toNat fun v => { v with rang := none }) a.toNat q.toNat) := by
  change execScanRestart a q s = _
  simp [execScanRestart, h.queue, rang, before, fetch, opened, stop]

/-- A scan that stopped with LIMIT goes on when its queue is the first of them. -/
theorem exec_limitResume (h : Free s a.toNat q.toNat v x) (fetch : mayFetch s a.toNat = true)
    (first : (limited s a.toNat).head? = some q.toNat) :
    exec (.limitResume a q) s =
      .next (beginRead (modAllot s a.toNat fun v => { v with lastResume := q.toNat }) a.toNat q.toNat) := by
  change execLimitResume a q s = _
  simp [execLimitResume, h.allot, h.quota, first, fetch]

/-- The clauses of a scan that goes on. -/
theorem scanGoesOn (h : Free s a.toNat q.toNat v x) (fetch : mayFetch s a.toNat = true) (opened : v.closing = false) :
    (∀ t, v.rang = some t → t < now s → v.stop = some .notOwned ∨ v.stop = some .busy →
      ∃ t', exec (.scanRestart a q) s = .next t' ∧ KMap.get? t'.queues (queueKey a.toNat q.toNat) =
        some { v with rang := none, stop := none, awaiting := true }) ∧
    (v.stop = some .limit → (limited s a.toNat).head? = some q.toNat →
      ∃ t', exec (.limitResume a q) s = .next t' ∧ KMap.get? t'.queues (queueKey a.toNat q.toNat) =
        some { v with stop := none, awaiting := true } ∧
        KMap.get? t'.allots a.toNat = some { x with lastResume := q.toNat }) := by
  refine ⟨fun t rang before stop => ?_, fun _ first => ?_⟩
  · have free : Free (modQueue s a.toNat q.toNat fun v => { v with rang := none }) a.toNat q.toNat { v with rang := none } x :=
      { h with queue := get?_modQueue _ h.queue }
    exact ⟨_, exec_scanRestart h fetch opened rang before stop, get?_beginRead_of_free free⟩
  · have resumed : KMap.get? (modAllot s a.toNat fun v => { v with lastResume := q.toNat }).allots a.toNat =
        some { x with lastResume := q.toNat } := by simp [modAllot, h.allot]
    have free : Free (modAllot s a.toNat fun v => { v with lastResume := q.toNat }) a.toNat q.toNat v
        { x with lastResume := q.toNat } := { h with allot := resumed }
    refine ⟨_, exec_limitResume h fetch first, get?_beginRead_of_free free, ?_⟩
    rw [beginRead_of_free free]
    exact resumed

section Turn
variable {n : Nat} (hv : KMap.get? s.queues (queueKey a.toNat q.toNat) = some v)
  (hx : KMap.get? s.allots a.toNat = some x) (fetch : mayFetch s a.toNat = true)
  (first : (awaitingQueues s a.toNat).head? = some q.toNat)
  (turn : KMap.getD s.sched.served a.toNat 0 < turnsOf s a.toNat) (tag : freeTag s a.toNat false = some n)
include hv hx fetch first turn tag

/-- A queue whose turn it is issues the read of the entry at its scan pointer. -/
theorem exec_descriptorReadIssue (below : atLimit v x = false) :
    exec (.descriptorReadIssue a q) s = .next (issueRead (turnTaken s a.toNat q.toNat) a.toNat false q.toNat n
      (v.base + BitVec.ofNat 64 (64 * v.scan)) 64) := by
  have queue : queueAt s a.toNat q.toNat = some v := hv
  change execDescriptorReadIssue a q s = _
  simp only [execDescriptorReadIssue, queue, tag, fetch, first, turn, hx, below, decide_true, Bool.and_self, if_true,
    Option.any_some, Bool.false_eq_true, if_false]
  rfl

/-- The clauses of a fetch turn. -/
theorem fetchTurn :
    (v.inflight.length < 32 → x.inflight < x.quota → ∃ t, exec (.descriptorReadIssue a q) s = .next t ∧
      KMap.get? t.queues (queueKey a.toNat q.toNat) =
        some { v with awaiting := false, reading := true, bell := v.bell.filter fun b => decide (b = now s) } ∧
      KMap.get? t.allots a.toNat = some { x with
        lastFetch := q.toNat,
        reads := x.reads ++ [⟨n, false, q.toNat, v.base + BitVec.ofNat 64 (64 * v.scan), 64, false⟩] } ∧
      t.link.out = s.link.out ++ [.read (x.func.getD 0) n (v.base + BitVec.ofNat 64 (64 * v.scan)) 64] ∧
      KMap.getD t.sched.served a.toNat 0 = KMap.getD s.sched.served a.toNat 0 + 1 ∧
      t.regs.descReads = s.regs.descReads + 1 ∧ t.jobs = s.jobs) ∧
    (32 ≤ v.inflight.length ∨ x.quota ≤ x.inflight → ∃ t, exec (.descriptorReadIssue a q) s = .next t ∧
      KMap.get? t.queues (queueKey a.toNat q.toNat) = some { v with stop := some .limit, awaiting := false } ∧
      t.link = s.link ∧ t.allots = s.allots ∧ t.jobs = s.jobs) := by
  have queue : queueAt s a.toNat q.toNat = some v := hv
  refine ⟨fun room quota => ?_, fun full => ?_⟩
  · refine ⟨_, exec_descriptorReadIssue hv hx fetch first turn tag (by simp [atLimit, room, quota]), ?_, ?_, ?_, ?_, rfl, rfl⟩
    · simp [issueRead, turnTaken, modAllot, modQueue, request, hv]
    · simp [issueRead, turnTaken, modAllot, modQueue, request, hx]
    · simp [issueRead, turnTaken, modAllot, modQueue, request, funcOf, hx]
    · simp [issueRead, turnTaken, modAllot, modQueue, request, KMap.getD]
  · have limit : atLimit v x = true := by simpa [atLimit] using full
    refine ⟨beginRead s a.toNat q.toNat, ?_, ?_⟩
    · change execDescriptorReadIssue a q s = _
      simp [execDescriptorReadIssue, queue, tag, fetch, first, turn, hx, limit]
    · rw [beginRead_at_limit queue hx limit]
      exact ⟨get?_modQueue _ queue, rfl, rfl, rfl⟩

end Turn

/-! ## The entry that arrives -/

/-- The arrival of an entry that host software owns. -/
theorem exec_entryArrival_notOwned {b : Vector Byte 64} (hv : KMap.get? s.queues (queueKey a.toNat q.toNat) = some v)
    (hr : v.reading = true) (ho : (parseEntry b.toList).own = false) :
    exec (.entryArrival a q b) s =
      .next (issueReads (notOwned (readReturned s a.toNat q.toNat) a.toNat q.toNat v) a.toNat) := by
  change execEntryArrival a q b s = _
  simp [execEntryArrival, queueAt, readReturned, hv, hr, ho]

theorem queueAt_readReturned (hv : KMap.get? s.queues (queueKey a.toNat q.toNat) = some v) :
    queueAt (readReturned s a.toNat q.toNat) a.toNat q.toNat = some { v with reading := false } :=
  get?_modQueue (fun v => { v with reading := false }) hv

theorem get?_readReturned_allots (hx : KMap.get? s.allots a.toNat = some x) :
    KMap.get? (readReturned s a.toNat q.toNat).allots a.toNat =
      some { x with reads := dropFirst (fun r => serves false q.toNat r && !r.answered) x.reads } := by
  simp [readReturned, endRead, modAllot, hx]

section Arrival
variable {b : Vector Byte 64} (hv : KMap.get? s.queues (queueKey a.toNat q.toNat) = some v) (reading : v.reading = true)
include hv reading

/-- An entry with OWN = 1 becomes a job. -/
theorem entryBecomesJob (device : (parseEntry b.toList).own = true) :
    ∃ t j, exec (.entryArrival a q b) s = .next t ∧
      KMap.get? t.jobs (jobKey a.toNat q.toNat v.scan) = some j ∧ j.entry = parseEntry b.toList ∧ j.arrival = now s ∧
      j.order = s.sched.fetchSeq ∧ t.sched.fetchSeq = s.sched.fetchSeq + 1 := by
  obtain ⟨y, hy, same, seq⟩ := sameEntry_acceptEntry (readReturned s a.toNat q.toNat) (jobKey a.toNat q.toNat v.scan)
    (parseEntry b.toList)
  rw [← owned_jobs _ a.toNat q.toNat v] at hy
  obtain ⟨n, job⟩ := get?_issueReads_jobs a.toNat hy
  refine ⟨_, _, exec_entryArrival_owned hv reading device, job, same.entry, same.arrival, same.order, ?_⟩
  rw [issueReads_sched, owned_sched]
  exact seq

variable (hx : KMap.get? s.allots a.toNat = some x)
include hx

/-- An entry that host software owns stops the scan. -/
theorem entryStops (host : (parseEntry b.toList).own = false) (bell : v.bell = none) :
    ∃ t w l, exec (.entryArrival a q b) s = .next t ∧
      KMap.get? t.queues (queueKey a.toNat q.toNat) = some { v with reading := false, stop := some .notOwned } ∧
      KMap.get? t.allots a.toNat = some w ∧
      w.reads = dropFirst (fun r => serves false q.toNat r && !r.answered) x.reads ++ l ∧ (∀ r ∈ l, r.data = true) ∧
      (s.jobs = [] → l = [] ∧ t.jobs = [] ∧ t.link = s.link) := by
  have stopped : notOwned (readReturned s a.toNat q.toNat) a.toNat q.toNat v =
      modQueue (readReturned s a.toNat q.toNat) a.toNat q.toNat fun v => { v with stop := some .notOwned } := by
    simp [notOwned, bell]
  have arrival := exec_entryArrival_notOwned hv reading host
  rw [stopped] at arrival
  have allot := get?_readReturned_allots (q := q) hx
  have queue := get?_modQueue (fun v => { v with stop := some .notOwned }) (queueAt_readReturned hv)
  by_cases none : s.jobs = []
  · rw [issueReads_of_no_jobs (s := modQueue (readReturned s a.toNat q.toNat) a.toNat q.toNat _) a.toNat none] at arrival
    exact ⟨_, _, [], arrival, queue, allot, by simp, by simp, fun _ => ⟨rfl, none, rfl⟩⟩
  · obtain ⟨l, data, reads⟩ := get?_issueReads_allots (s := modQueue (readReturned s a.toNat q.toNat) a.toNat q.toNat
      fun v => { v with stop := some .notOwned }) a.toNat allot
    exact ⟨_, _, l, arrival, by rw [issueReads_queues]; exact queue, reads, rfl, data, fun h => absurd h none⟩

/-- Where a doorbell has landed since its read was issued, the entry is read again. -/
theorem entryReadAgain {c : Nat} (host : (parseEntry b.toList).own = false) (bell : v.bell = some c)
    (room : v.inflight.length < 32) (quota : x.inflight < x.quota) (next : v.inflight.contains v.scan = false)
    (job : KMap.has s.jobs (jobKey a.toNat q.toNat v.scan) = false) :
    ∃ t, exec (.entryArrival a q b) s = .next t ∧ KMap.get? t.queues (queueKey a.toNat q.toNat) =
      some { v with reading := false, bell := none, stop := none, awaiting := true } := by
  have again : notOwned (readReturned s a.toNat q.toNat) a.toNat q.toNat v =
      beginRead (modQueue (readReturned s a.toNat q.toNat) a.toNat q.toNat fun v => { v with bell := none })
        a.toNat q.toNat := by
    simp [notOwned, bell]
  have free : Free (modQueue (readReturned s a.toNat q.toNat) a.toNat q.toNat fun v => { v with bell := none }) a.toNat q.toNat
      { v with reading := false, bell := none }
      { x with reads := dropFirst (fun r => serves false q.toNat r && !r.answered) x.reads } :=
    ⟨get?_modQueue _ (queueAt_readReturned hv), get?_readReturned_allots hx, room, quota, next, job⟩
  have arrival := exec_entryArrival_notOwned hv reading host
  rw [again] at arrival
  exact ⟨_, arrival, by rw [issueReads_queues]; exact get?_beginRead_of_free free⟩

end Arrival

end Scan

/-- Settles O17: a row of the scan is the top of its loop (`beginRead`) behind what the row itself notes, and an entry of
the device is one accepted (`acceptEntry`). -/
theorem queueScan : Obligations.QueueScan := by
  refine ⟨doorbells, fun s a q v x hv hx fetch opened room quota next job => ?_,
    fun s a q v x n hv hx fetch first turn tag => fetchTurn hv hx fetch first turn tag,
    fun s a q v x b hv hx => ⟨fun idle => ?_, fun reading => ⟨?_, ?_, ?_⟩⟩⟩
  · exact scanGoesOn ⟨hv, hx, room, quota, next, job⟩ fetch opened
  · change execEntryArrival a q b s = _
    simp [execEntryArrival, queueAt, hv, idle]
  · exact entryStops hv reading hx
  · exact fun c => entryReadAgain hv reading hx
  · exact fun device _ _ => entryBecomesJob hv reading device

end Sys2Proof.Machine
end

section
/-! SUPPORT. Ends of jobs along a list: each job of the list is reached, and the others are left (R53, R373). -/
namespace Sys2Proof.Machine
open Sys2Proof

/-- A fold keeps what every step keeps. -/
theorem foldl_keeps {σ α : Type} {f : σ → α → σ} (P : σ → Prop) (keep : ∀ s b, P s → P (f s b)) (l : List α) {s : σ}
    (hs : P s) : P (l.foldl f s) :=
  List.foldlRecOn l f hs fun t ht b _ => keep t b ht

/-- A fold reaches what the step at one of its elements brings about, if every step keeps what that needs and what it brings. -/
theorem foldl_reaches {σ α : Type} {f : σ → α → σ} {P Q : σ → Prop} {a : α} (keepP : ∀ s b, P s → P (f s b))
    (keepQ : ∀ s b, Q s → Q (f s b)) (hit : ∀ s, P s → Q (f s a)) {l : List α} {s : σ} (ha : a ∈ l) (hs : P s) :
    Q (l.foldl f s) := by
  induction l generalizing s with
  | nil => cases ha
  | cons b l ih =>
    obtain rfl | ha := List.mem_cons.mp ha
    · exact foldl_keeps Q keepQ l (hit s hs)
    · exact ih ha (keepP s b hs)

/-- The aborted job has ended, without output. -/
def Aborted (k : Nat) (s : State) : Prop :=
  ∃ y, KMap.get? s.jobs k = some y ∧ y.phase = .decided ∧ y.status = .aborted ∧ y.output = []

/-- Ends a job as ABORT, a zeroisation and the end of a reservation do. -/
def endAborted (s : State) (k : Nat) : State := modJob (endJob s k .aborted) k fun j => { j with aborted := true }

/-- The job as it ends so. -/
def abortedJob (t : Nat) (j : Job) : Job :=
  { failJob t .aborted j with place := none, slot := none, resident := none, held := none, aborted := true }

theorem besideEngines_endJob_jobs (s : State) (k : Nat) (st : Status) :
    besideEngines { endJob s k st with jobs := s.jobs } = besideEngines s := by
  unfold endJob
  split
  · next j _ =>
    have h := besideEngines_releaseEngines s k j
    simp only [besideEngines, Prod.mk.injEq] at h ⊢
    exact ⟨trivial, h.2⟩
  · rfl

theorem get?_endAborted_same {s : State} {k : Nat} {j : Job} (hj : KMap.get? s.jobs k = some j) :
    KMap.get? (endAborted s k).jobs k = some (abortedJob (now s) j) := by
  simp only [endAborted, endJob, hj, get?_modJob, releaseEngines_jobs, Option.map_some]
  rfl

theorem get?_endAborted_ne (s : State) {k i : Nat} (h : k ≠ i) :
    KMap.get? (endAborted s i).jobs k = KMap.get? s.jobs k := by
  unfold endAborted endJob
  split
  · rw [get?_modJob_ne _ _ h, get?_modJob_ne _ _ h, releaseEngines_jobs]
  · exact get?_modJob_ne _ _ h

theorem aborted_endAborted {s : State} {k : Nat} (h : (KMap.get? s.jobs k).isSome) : Aborted k (endAborted s k) := by
  obtain ⟨j, hj⟩ := Option.isSome_iff_exists.mp h
  exact ⟨_, get?_endAborted_same hj, rfl, rfl, rfl⟩

theorem Aborted.isSome {s : State} {k : Nat} (h : Aborted k s) : (KMap.get? s.jobs k).isSome := by
  obtain ⟨y, hy, -⟩ := h
  simp [hy]

theorem Aborted.endAborted {s : State} {k : Nat} (h : Aborted k s) (i : Nat) : Aborted k (endAborted s i) := by
  by_cases hi : k = i
  · subst hi
    exact aborted_endAborted h.isSome
  · simpa only [Aborted, get?_endAborted_ne s hi] using h

theorem isSome_endAborted {s : State} {k : Nat} (h : (KMap.get? s.jobs k).isSome) (i : Nat) :
    (KMap.get? (endAborted s i).jobs k).isSome := by
  by_cases hi : k = i
  · subst hi
    exact (aborted_endAborted h).isSome
  · rwa [get?_endAborted_ne s hi]

/-! ## Queues whose descriptor reads are answered -/

theorem dropDescriptorRead_jobs_gh (s : State) (a q : Nat) :
    (dropDescriptorRead s a q).jobs = s.jobs ∧ (dropDescriptorRead s a q).gh = s.gh := by
  unfold dropDescriptorRead
  split
  · split <;> exact ⟨rfl, rfl⟩
  · exact ⟨rfl, rfl⟩

theorem foldl_dropDescriptorRead_jobs_gh (s : State) (a : Nat) (l : List Nat) :
    (l.foldl (fun s k => dropDescriptorRead s a (k % 8)) s).jobs = s.jobs ∧
      (l.foldl (fun s k => dropDescriptorRead s a (k % 8)) s).gh = s.gh :=
  foldl_keeps (fun t : State => t.jobs = s.jobs ∧ t.gh = s.gh) (fun t k ht =>
    ⟨(dropDescriptorRead_jobs_gh t a (k % 8)).1.trans ht.1, (dropDescriptorRead_jobs_gh t a (k % 8)).2.trans ht.2⟩) l
    ⟨rfl, rfl⟩

/-! ## Zeroisation of the tenants' jobs -/

theorem mem_jobsOf {s : State} {k : Nat} (h : (KMap.get? s.jobs k).isSome) : k ∈ jobsOf s (keyAllot k) := by
  obtain ⟨j, hj⟩ := Option.isSome_iff_exists.mp h
  simp only [jobsOf, List.mem_filter, decide_true, and_true]
  exact List.mem_map_of_mem (KMap.mem_of_get? hj)

theorem zeroiseAllotment_jobs (s : State) (a : Nat) :
    (zeroiseAllotment s a).jobs = ((jobsOf s a).foldl endAborted s).jobs := (foldl_dropDescriptorRead_jobs_gh _ a _).1

theorem isSome_zeroiseAllotment {s : State} {k : Nat} (h : (KMap.get? s.jobs k).isSome) (a : Nat) :
    (KMap.get? (zeroiseAllotment s a).jobs k).isSome := by
  rw [zeroiseAllotment_jobs]
  exact foldl_keeps (fun t : State => (KMap.get? t.jobs k).isSome) (fun _ i ht => isSome_endAborted ht i) _ h

theorem Aborted.zeroiseAllotment {s : State} {k : Nat} (h : Aborted k s) (a : Nat) : Aborted k (zeroiseAllotment s a) := by
  rw [Aborted, zeroiseAllotment_jobs]
  exact foldl_keeps (Aborted k) (fun _ i ht => ht.endAborted i) _ h

theorem aborted_zeroiseAllotment {s : State} {k : Nat} (h : (KMap.get? s.jobs k).isSome) :
    Aborted k (zeroiseAllotment s (keyAllot k)) := by
  rw [Aborted, zeroiseAllotment_jobs]
  exact foldl_reaches (P := fun t : State => (KMap.get? t.jobs k).isSome) (Q := Aborted k) (fun t i ht => isSome_endAborted ht i)
    (fun t i ht => ht.endAborted i) (fun t ht => aborted_endAborted ht) (mem_jobsOf h) h

/-- Every job of an allotment of the list has ended. -/
theorem aborted_zeroiseAllotments {s : State} {k : Nat} {l : List Nat} (h : (KMap.get? s.jobs k).isSome) (hl : keyAllot k ∈ l) :
    Aborted k (l.foldl zeroiseAllotment s) :=
  foldl_reaches (P := fun t : State => (KMap.get? t.jobs k).isSome) (Q := Aborted k) (fun _ a ht => isSome_zeroiseAllotment ht a)
    (fun _ a ht => ht.zeroiseAllotment a) (fun _ ht => aborted_zeroiseAllotment ht) hl h

theorem zeroiseAllotment_gh (s : State) (a : Nat) : (zeroiseAllotment s a).gh = s.gh := by
  refine (foldl_dropDescriptorRead_jobs_gh _ a _).2.trans
    (foldl_keeps (fun t : State => t.gh = s.gh) (fun t k ht => ?_) _ rfl)
  exact (congrArg (fun p => p.2.2.2.2.1) (besideEngines_endJob_jobs t k .aborted)).trans ht

end Sys2Proof.Machine
end

section
/-! SUPPORT. A tamper response takes effect at its boundary: what it records, and what its level then does (16_gatehouse_lodge.md
R369 to R376, R382). -/
namespace Sys2Proof.Machine
open Sys2Proof

variable {s t u : State} {x : Response}

/-! ## The record of a response -/

/-- From `s` to `t` events have been noted: in the Lodge ring, the event log, the journal and the frames to the twin. -/
def Notes (s t : State) : Prop := ∃ ring o e l q,
  t = { s with lodge := { s.lodge with ring := ring, overflow := o }, events := e, journal := l, bridge.queue := q }

theorem Notes.refl (s : State) : Notes s s := ⟨_, _, _, _, _, rfl⟩

theorem Notes.trans (h : Notes s t) (g : Notes t u) : Notes s u := by
  obtain ⟨_, _, _, _, _, rfl⟩ := h
  obtain ⟨_, _, _, _, _, rfl⟩ := g
  exact ⟨_, _, _, _, _, rfl⟩

/-- Nothing that is noted depends on the alert. -/
theorem Notes.alert (h : Notes s t) (f : W16 → W16) :
    Notes { s with gh.alert := f s.gh.alert } { t with gh.alert := f t.gh.alert } := by
  obtain ⟨_, _, _, _, _, rfl⟩ := h
  exact ⟨_, _, _, _, _, rfl⟩

theorem notes_logEventAt (s : State) (cls : Nat) (code allot : W16) (unit source level : Byte) (detail : List Byte) :
    Notes s (logEventAt s cls code allot unit source level detail) := by
  obtain ⟨_, _, h⟩ := logEventAt_changes s cls code allot unit source level detail
  exact ⟨_, _, _, _, _, h⟩

theorem notes_linkRing (s : State) (code : W16) (src : Nat) : Notes s (linkRing s code src) := by
  obtain ⟨_, h⟩ := linkRing_changes s code src
  exact ⟨_, _, _, _, _, h⟩

theorem notes_ringPut (s : State) (e : RingEntry) : Notes s (ringPut s e) := by
  obtain ⟨_, _, _, _, h⟩ := ringPut_changes s e
  exact ⟨_, _, _, _, _, h⟩

theorem notes_tamperNotice (s : State) (src level : Nat) : Notes s (tamperNotice s src level) := by
  obtain ⟨_, h⟩ := tamperNotice_changes s src level
  exact ⟨_, _, _, _, _, h⟩

/-- A response raises its source's flag, with a hold from QUIESCE on, and from ALERT on the alert; the rest are notes. -/
theorem notes_recordResponse (top : Nat) (s : State) (r : Response) :
    Notes { raiseFlag s r.source (decide (2 ≤ top)) with
      gh.alert := if 1 ≤ r.level then s.gh.alert ||| BitVec.ofNat 16 (2 ^ r.source) else s.gh.alert } (recordResponse top s r) := by
  have ringed : Notes (raiseFlag s r.source (decide (2 ≤ top))) (if r.hard then raiseFlag s r.source (decide (2 ≤ top))
      else ringPut (raiseFlag s r.source (decide (2 ≤ top)))
        (ringEntry (raiseFlag s r.source (decide (2 ≤ top))) r.source 0 r.level 0)) := by
    split
    · exact .refl _
    · exact notes_ringPut _ _
  have recorded := (ringed.trans (notes_logEventAt _ 5 (if r.hard then 0x0051 else 0x0050) 0xFFFF 20 (BitVec.ofNat 8 r.source)
    (BitVec.ofNat 8 r.level) (leBytes 1 r.level ++ leBytes 4 (sourceAt s r.source).readingA.toNat ++
      leBytes 4 (sourceAt s r.source).readingB.toNat))).trans (notes_linkRing _ (if r.hard then 0x0051 else 0x0050) r.source)
  by_cases level : 1 ≤ r.level <;> simp only [recordResponse, level, if_true, if_false]
  · have alerted := recorded.alert (· ||| BitVec.ofNat 16 (2 ^ r.source))
    split
    · next hard =>
      simp only [hard, if_true] at alerted
      exact alerted
    · next hard =>
      simp only [hard] at alerted
      exact alerted.trans (notes_tamperNotice _ r.source r.level)
  · exact recorded

/-! ## A response alone -/

/-- The state in which a response that is alone has been recorded at its boundary. -/
def recordedAlone (s : State) (x : Response) : State :=
  let s := { s with gh := { s.gh with responses := [], level := max s.gh.level (x.level + 1) } }
  recordResponse x.level (if 4 ≤ x.level then tzErase s else s) x

/-- What has been recorded by then, and what the record leaves (R369, R376). -/
structure RecordedAlone (s : State) (x : Response) (t : State) : Prop where
  sticky : t.lodge.sticky = s.lodge.sticky ||| BitVec.ofNat 16 (2 ^ x.source)
  holds : t.lodge.holds = if 2 ≤ x.level then s.lodge.holds ||| BitVec.ofNat 16 (2 ^ x.source) else s.lodge.holds
  kek : 4 ≤ x.level → t.lodge.kek = none
  alert : t.gh.alert = if 1 ≤ x.level then s.gh.alert ||| BitVec.ofNat 16 (2 ^ x.source) else s.gh.alert
  quiesced : t.gh.quiesced = s.gh.quiesced
  responses : t.gh.responses = []
  jobs : t.jobs = s.jobs
  otp : t.otp = s.otp
  vault : t.vault = s.vault
  tenants : tenants t = tenants s
  volatile : x.level < 4 → t.ice = s.ice ∧ t.plots = s.plots

theorem recordedAlone_spec (s : State) (x : Response) : RecordedAlone s x (recordedAlone s x) := by
  obtain ⟨_, _, _, _, _, h⟩ := notes_recordResponse x.level (if 4 ≤ x.level then
    tzErase { s with gh := { s.gh with responses := [], level := max s.gh.level (x.level + 1) } }
    else { s with gh := { s.gh with responses := [], level := max s.gh.level (x.level + 1) } }) x
  rw [recordedAlone, h]
  by_cases erase : 4 ≤ x.level
  · simp only [erase, if_true]
    exact {
      sticky := rfl, holds := if_congr decide_eq_true_iff rfl rfl, kek := fun _ => rfl, alert := rfl, quiesced := rfl, responses := rfl,
      jobs := rfl, otp := rfl, vault := rfl
      tenants := by simp [tenants, raiseFlag, tzErase, clearVolatile, KMap.mapAll, Function.comp_def]
      volatile := fun h => absurd erase (Nat.not_le.mpr h) }
  · simp only [erase, if_false]
    exact {
      sticky := rfl, holds := if_congr decide_eq_true_iff rfl rfl, kek := fun h => absurd h erase, alert := rfl, quiesced := rfl,
      responses := rfl, jobs := rfl, otp := rfl, vault := rfl, tenants := rfl, volatile := fun _ => ⟨rfl, rfl⟩ }

/-- A response that is alone is recorded, quiesces the device from QUIESCE on, and takes the effect of its level. -/
theorem respond_alone (one : s.gh.responses = [x]) (due : x.tick < now s) (idle : s.gh.executing = 0) :
    respond s =
      let u := if 2 ≤ x.level then quiesceDevice (recordedAlone s x) else recordedAlone s x
      if x.level = 3 then zeroiseSession u
      else if x.level = 4 then fullReset (flushNotices u) 4 false
      else if x.level = 5 then eolBegin u
      else u := by
  have ready : (s.gh.responses.filter fun r => decide (r.tick < now s)) = [x] := by simp [one, due]
  have rest : (s.gh.responses.filter fun r => !decide (r.tick < now s)) = [] := by simp [one, due]
  have level : [x].foldl (fun m r => max m r.level) 0 = x.level := Nat.zero_max _
  have above : decide (s.gh.executing < x.level + 1) = true := by simp [idle]
  simp only [respond, ready, rest, level, above, List.foldl_cons, List.foldl_nil, List.cons_ne_nil, if_false,
    Bool.not_true, Bool.false_eq_true]
  rfl

/-! ## The levels -/

theorem flushNotices_changes (s : State) : ∃ b, flushNotices s = { s with bridge := b } := by
  unfold flushNotices
  split
  · refine foldl_keeps (fun t : State => ∃ b, t = { s with bridge := b }) ?_ _ ⟨s.bridge, rfl⟩
    rintro t f ⟨b, rfl⟩
    exact ⟨_, rfl⟩
  · exact ⟨s.bridge, rfl⟩

/-- A source's bit is set in the flags that its response raises. -/
theorem getLsbD_or_sourceBit (v : W16) {i : Nat} (hi : i < 16) : (v ||| BitVec.ofNat 16 (2 ^ i)).getLsbD i = true := by
  rw [BitVec.getLsbD_or, BitVec.getLsbD_ofNat, Nat.testBit_two_pow_self]
  simp [hi]

theorem quiesceDevice_running (s : State) : ∀ u ∈ (quiesceDevice s).units, u.running = [] := by
  intro u hu
  obtain ⟨v, -, rfl⟩ := List.mem_map.mp hu
  rfl

/-- ZEROISE_SESSION leaves the Gatehouse as it is. -/
theorem zeroiseSession_gh (s : State) : (zeroiseSession s).gh = s.gh :=
  foldl_keeps (fun t : State => t.gh = s.gh) (fun t a ht => (zeroiseAllotment_gh t a).trans ht) _ rfl

/-- ZEROISE_SESSION ends the tenants' jobs. -/
theorem aborted_zeroiseSession {k : Nat} (h : (KMap.get? s.jobs k).isSome) (tenant : keyAllot k ∈ tenants s) :
    Aborted k (zeroiseSession s) :=
  aborted_zeroiseAllotments h tenant

/-- END_OF_LIFE with a Vault that takes its record waits for it, as the last one pending. -/
theorem eolBegin_writable (h : vaultWritable s = true) : ∃ b, (eolBegin s).gh.executing = 6 ∧ (eolBegin s).otp = s.otp ∧
    (eolBegin s).journal.pending.getLast? = some b ∧ b.type = 5 ∧ b.subtype = 3 ∧
    (eolBegin s).gh.eolRecords.getLast? = some b.id := by
  simp only [eolBegin, h, if_true]
  exact ⟨_, trivial, rfl, List.getLast?_concat, rfl, rfl, List.getLast?_concat⟩

/-- END_OF_LIFE without such a Vault programs every life-cycle word at once. -/
theorem eolBegin_unwritable (h : vaultWritable s = false) : (eolBegin s).boot.stage = 0 ∧ (eolBegin s).boot.cause = 4 ∧
    (eolBegin s).otp = { s.otp with lcWords := List.replicate 4 0xFFFFFFFF } ∧ (eolBegin s).lodge.kek = s.lodge.kek := by
  obtain ⟨b, flushed⟩ := flushNotices_changes s
  simp only [eolBegin, h, Bool.false_eq_true, if_false, endOfLife, flushed]
  exact ⟨rfl, rfl, rfl, rfl⟩

theorem exec_tamperResponse (h : respond s = t) : exec .tamperResponse s = .next t := congrArg Host.Outcome.next h

/-- Settles O50: a response that is alone is first recorded (`RecordedAlone`), and its level then adds its own effect. -/
theorem tamperResponses : Obligations.TamperResponses := by
  intro s x one due idle source
  have respond := respond_alone one due idle
  have r := recordedAlone_spec s x
  generalize recordedAlone s x = u at respond r
  have flag : u.lodge.sticky.getLsbD x.source = true := by
    rw [r.sticky]
    exact getLsbD_or_sourceBit _ source
  have alert (h : 1 ≤ x.level) : u.gh.alert.getLsbD x.source = true := by
    rw [r.alert, if_pos h]
    exact getLsbD_or_sourceBit _ source
  have vault : vaultWritable (quiesceDevice u) = vaultWritable s := by
    simp only [vaultWritable, quiesceDevice, abandonRunning, r.vault]
  refine ⟨fun level => ?_, fun level => ?_, fun level => ?_, fun level => ?_, fun level => ?_, fun level unwritable => ?_,
    fun level writable => ?_, fun quiet free => ?_, fun held => ?_⟩
  · have effect : Machine.respond s = u := by simpa [level] using respond
    exact ⟨u, exec_tamperResponse effect, flag, by simp [r.holds, level], by simp [r.alert, level], r.quiesced, r.responses, r.jobs⟩
  · have effect : Machine.respond s = u := by simpa [level] using respond
    exact ⟨u, exec_tamperResponse effect, flag, by simp [r.holds, level], alert level.ge, r.quiesced, r.responses, r.jobs⟩
  · have effect : Machine.respond s = quiesceDevice u := by simpa [level] using respond
    obtain ⟨ice, plots⟩ := r.volatile (by omega)
    refine ⟨quiesceDevice u, exec_tamperResponse effect, ?_, rfl, alert (by omega), quiesceDevice_running u, ice, plots⟩
    change u.lodge.holds.getLsbD x.source = true
    rw [r.holds, if_pos level.ge]
    exact getLsbD_or_sourceBit _ source
  · have effect : Machine.respond s = zeroiseSession (quiesceDevice u) := by simpa [level] using respond
    refine ⟨_, exec_tamperResponse effect, congrArg Gatehouse.quiesced (zeroiseSession_gh _), rfl, rfl, rfl, rfl, fun k j hj tenant => ?_⟩
    refine aborted_zeroiseSession (s := quiesceDevice u) ?_ (r.tenants ▸ tenant)
    simp [quiesceDevice, abandonRunning, r.jobs, hj]
  · have effect : Machine.respond s = fullReset (flushNotices (quiesceDevice u)) 4 false := by simpa [level] using respond
    obtain ⟨b, flushed⟩ := flushNotices_changes (quiesceDevice u)
    rw [flushed] at effect
    exact ⟨_, exec_tamperResponse effect, rfl, rfl, rfl, rfl, r.otp, flag, r.kek level.ge⟩
  · have effect : Machine.respond s = eolBegin (quiesceDevice u) := by simpa [level] using respond
    obtain ⟨stage, cause, otp, kek⟩ := eolBegin_unwritable (vault.trans unwritable)
    exact ⟨_, exec_tamperResponse effect, stage, cause, by rw [otp, ← r.otp]; rfl, kek.trans (r.kek (by omega))⟩
  · have effect : Machine.respond s = eolBegin (quiesceDevice u) := by simpa [level] using respond
    obtain ⟨b, executing, otp, last, type, subtype, id⟩ := eolBegin_writable (vault.trans writable)
    exact ⟨_, b, exec_tamperResponse effect, executing, otp.trans r.otp, last, type, subtype, id⟩
  · change execQuiesceEnd s = _
    simp [execQuiesceEnd, quiet, free]
  · change execQuiesceEnd s = _
    simp only [execQuiesceEnd, held, decide_false, Bool.and_false, Bool.false_eq_true, if_false]

end Sys2Proof.Machine
end

section
/-! SUPPORT. What the parts of a tick boundary leave standing when nothing is under way (02_bandstand.md R31, R32). -/
namespace Sys2Proof.Machine
open Sys2Proof

variable {s t : State}

/-! ## What stands -/

/-- The terms of an allotment that a boundary may change: its lease, the lease that waits for its epoch, and whether it is being
destroyed. -/
structure Terms where
  lease : Lease
  pendingLease : Option (Nat × Lease)
  destroying : Bool

def termsOf (v : Allotment) : Terms := ⟨v.lease, v.pendingLease, v.destroying⟩

/-- What stands over a tick boundary of a quiet device, but for the count, the fetch turns, the view and the leases. -/
structure Standing where
  boot : Boot
  tick : Nat
  served : KMap Nat
  dumping : Option (Nat × Nat × Nat × Nat)
  jobs : KMap Job
  otp : Otp
  pending : List Instr
  gh : Gatehouse
  testing : Bool
  commits : KMap Commit
  staged : List Staged
  rejoining : Bool
  bstSel : W32
  bstSelNext : Option W32
  queues : KMap Queue
  terms : KMap Terms

def standing (s : State) : Standing where
  boot := s.boot
  tick := s.sched.tick
  served := s.sched.served
  dumping := s.dump.active
  jobs := s.jobs
  otp := s.otp
  pending := s.pending
  gh := s.gh
  testing := s.bist.running
  commits := s.bridge.commits
  staged := s.bridge.staged
  rejoining := s.bridge.rejoining
  bstSel := s.regs.bstSel
  bstSelNext := s.regs.bstSelNext
  queues := s.queues
  terms := s.allots.map fun p => (p.1, termsOf p.2)

theorem get?_terms (m : KMap Allotment) (a : Nat) :
    KMap.get? (m.map fun p => (p.1, termsOf p.2)) a = (KMap.get? m a).map termsOf := by
  induction m with
  | nil => rfl
  | cons p m ih =>
    simp only [List.map_cons, KMap.get?]
    split
    · rfl
    · exact ih

/-- Nothing stands that a boundary would carry on. -/
structure Still (v : Standing) : Prop where
  dumping : v.dumping = none
  jobs : v.jobs = []
  executing : v.gh.executing ≠ 6
  responses : v.gh.responses = []
  testing : v.testing = false
  commits : v.commits = []
  staged : v.staged = []
  rejoining : v.rejoining = false
  destroying : ∀ a x, KMap.get? v.terms a = some x → x.destroying = false
  closing : ∀ p ∈ v.queues, p.2.closing = false

theorem Still.of_quiet (h : quiet s) : Still (standing s) := by
  obtain ⟨jobs, responses, executing, dumping, testing, commits, staged, rejoining, destroying, closing, -⟩ := h
  refine ⟨dumping, jobs, executing, responses, testing, commits, staged, rejoining, fun a x hx => ?_, fun p hp => ?_⟩
  · rw [standing, get?_terms] at hx
    obtain ⟨v, hv, rfl⟩ := Option.map_eq_some_iff.mp hx
    simpa [termsOf] using List.all_eq_true.mp destroying _ (KMap.mem_of_get? hv)
  · simpa using List.all_eq_true.mp closing p hp

/-- Along a list whose steps leave standing what stands. -/
theorem standing_foldl {α : Type} {f : State → α → State} (h : ∀ t a, standing t = standing s → standing (f t a) = standing t)
    (l : List α) : standing (l.foldl f s) = standing s :=
  foldl_keeps (fun t => standing t = standing s) (fun t a ht => (h t a ht).trans ht) l rfl

/-- A change of an allotment that keeps its terms. -/
theorem standing_modAllot (s : State) (a : Nat) {f : Allotment → Allotment} (h : ∀ v, termsOf (f v) = termsOf v) :
    standing (modAllot s a f) = standing s := by
  have terms : ((KMap.adjust s.allots a f).map fun p => (p.1, termsOf p.2)) = s.allots.map fun p => (p.1, termsOf p.2) := by
    simp only [KMap.adjust, List.map_map]
    refine List.map_congr_left fun p _ => ?_
    by_cases hp : p.1 = a <;> simp [hp, h]
  simp only [standing, modAllot, terms]

/-! ## Events, messages and history -/

theorem standing_logEventAt (s : State) (cls : Nat) (code allot : W16) (unit source level : Byte) (detail : List Byte) :
    standing (logEventAt s cls code allot unit source level detail) = standing s := by
  obtain ⟨e, l, h⟩ := logEventAt_changes s cls code allot unit source level detail
  rw [h]; rfl

theorem standing_send (s : State) (o : Outbound) : standing (send s o) = standing s := by
  unfold send
  split <;> rfl

theorem standing_sendVector (s : State) (f v : Nat) : standing (sendVector s f v) = standing s := by
  unfold sendVector
  split
  · exact standing_send s _
  · rfl

theorem standing_clearPba (s : State) (f v : Nat) : standing (clearPba s f v) = standing s := rfl

theorem standing_sendHeld (s : State) : standing (sendHeld s) = standing s := by
  unfold sendHeld
  refine standing_foldl (fun _ (p : Nat × Func) _ => ?_) _
  exact standing_foldl (fun t v _ => (standing_send _ _).trans (standing_clearPba t p.1 v)) _

theorem standing_eventNotice (s : State) : standing (eventNotice s) = standing s := by
  simp only [eventNotice]
  split
  · exact standing_sendVector _ 0 _
  · rfl

theorem standing_recordHistory (s : State) (cause : Nat) : standing (recordHistory s cause) = standing s := by
  unfold recordHistory
  split <;> rfl

/-! ## The bays -/

theorem standing_chargeUsage (s : State) (a u : Nat) (f : Usage → Usage) : standing (chargeUsage s a u f) = standing s :=
  standing_modAllot s a fun _ => rfl

theorem standing_setUnit (s : State) (u : Nat) (v : UnitSt) : standing (setUnit s u v) = standing s := rfl

theorem standing_setBay (s : State) (u : Nat) (kind : BayKind) (a r k : Option Nat) (run : List Nat) :
    standing (setBay s u kind a r k run) = standing s := by
  unfold setBay
  extract_lets +lift b base
  have moved : standing base = standing s := by
    unfold base
    split <;> rfl
  clear_value base
  rw [← moved]
  simp only [standing]
  rfl

theorem standing_setBody (s : State) (u : Nat) (b : Body) : standing (setBody s u b) = standing s := rfl

theorem standing_startBody (s : State) (u k : Nat) : standing (startBody s u k) = standing s := by
  unfold startBody
  split
  · extract_lets +lift c p
    clear_value c p
    exact standing_setBody s u _
  · rfl

theorem standing_startWork (s : State) (u a : Nat) (kind : BayKind) (w : Work) :
    standing (startWork s u a kind w) = standing s := by
  cases w with
  | house r k => exact standing_setBay s u .housekeeping (some a) r k []
  | slices ks =>
    simp only [startWork]
    split
    · split
      · exact (standing_setUnit _ u _).trans ((standing_startBody _ u _).trans (standing_setBay s u kind _ _ _ ks))
      · exact (standing_setUnit _ u _).trans (standing_setBay s u kind _ _ _ ks)
    · exact standing_setBay s u kind _ _ _ ks

theorem standing_beginMove (s : State) (u r : Nat) : standing (beginMove s u r) = standing s := by
  simp only [beginMove]
  split <;> rfl

theorem standing_moveOutBay (s : State) (u r : Nat) (always : Bool) (a : Option Nat) :
    standing (moveOutBay s u r always a) = standing s := by
  simp only [moveOutBay]
  split <;> exact (standing_setBay _ u _ _ _ _ []).trans (standing_beginMove s u r)

theorem standing_moveInBay (s : State) (u r : Nat) : standing (moveInBay s u r) = standing s := by
  simp only [moveInBay]
  split
  · split <;> exact standing_setBay s u _ _ _ _ []
  · exact standing_setBay s u _ _ _ _ []

theorem standing_poolTurn (s : State) (u : Nat) : standing (poolTurn s u).2 = standing s := by
  simp only [poolTurn]
  split <;> rfl

theorem standing_poolBay (s : State) (u : Nat) (kind : BayKind) (run : Bool) : standing (poolBay s u kind run) = standing s := by
  simp only [poolBay]
  split
  · exact standing_poolTurn s u
  split
  · exact (standing_startWork _ u _ kind _).trans (standing_poolTurn s u)
  · exact (standing_setBay _ u _ _ _ _ []).trans (standing_poolTurn s u)

theorem standing_poolPosition (s : State) (u : Nat) (run : Bool) : standing (poolPosition s u run) = standing s := by
  simp only [poolPosition]
  split
  · split
    · split
      · exact standing_moveInBay _ u _
      · rfl
    · rfl
  split
  · split
    · split
      · split
        · exact standing_moveOutBay _ u _ _ _
        · exact standing_setBay _ u _ _ _ _ []
      · rfl
    · rfl
  · exact standing_poolBay _ u .pool run

theorem standing_leasedBay (s : State) (u a : Nat) (run : Bool) : standing (leasedBay s u a run) = standing s := by
  unfold leasedBay
  extract_lets +lift v i base share shed n gone
  clear_value shed n gone share
  have counted : standing base = standing s := rfl
  rw [← counted]
  split
  · rfl
  split
  · split
    · exact standing_moveOutBay _ u _ _ _
    · rfl
  split
  · exact standing_startWork _ u a .leased _
  split
  · exact (standing_poolBay _ u .lent run).trans (standing_chargeUsage _ a u _)
  · exact standing_setBay _ u _ _ _ _ []

/-- A unit's bay leaves standing what stands. -/
theorem standing_startBay (s : State) (u : Nat) : standing (startBay s u) = standing s := by
  unfold startBay
  split
  · rfl
  extract_lets +lift v p run base bay
  have chosen : standing base = standing s := standing_setUnit s u _
  have started : standing bay = standing base := by
    unfold bay
    split
    · exact standing_poolPosition base u run
    · exact standing_leasedBay base u p.1 run
  split
  · exact (standing_setBay bay u _ _ _ _ []).trans (started.trans chosen)
  · exact started.trans chosen

end Sys2Proof.Machine
end

section
/-! SUPPORT. A tick boundary of a device at rest: what each of its steps leaves standing, and what the whole of it changes
(02_bandstand.md R31, R32, R39). -/
namespace Sys2Proof.Machine
open Sys2Proof

variable {s t : State}

/-! ## The end of the bays, the responses and the rejoin -/

theorem unitAt_bay_of_quiet (h : quiet s) (u : Nat) : (unitAt s u).bay = none := by
  obtain ⟨-, -, -, -, -, -, -, -, -, -, units⟩ := h
  unfold unitAt
  rw [List.getD_eq_getElem?_getD]
  cases hu : s.units[u]? with
  | none => rfl
  | some v =>
    have idle := List.all_eq_true.mp units v (List.mem_of_getElem? hu)
    simp only [Bool.and_eq_true, Option.isNone_iff_eq_none] at idle
    exact idle.1.1

theorem endBay_of_no_bay (ms : List Mishap) (u : Nat) (h : (unitAt s u).bay = none) : endBay ms s u = s := by
  simp only [endBay, h]

theorem standing_endBays (h : quiet s) : standing (endBays [] s) = standing s := by
  have responses : s.gh.responses = [] := (Still.of_quiet h).responses
  have ended : (List.range 12).foldl (endBay []) s = s :=
    foldl_keeps (fun t => t = s) (fun t u ht => by rw [ht, endBay_of_no_bay _ u (unitAt_bay_of_quiet h u)]) _ rfl
  simp only [endBays, responses, List.any_nil, Bool.false_eq_true, if_false, ended]
  rfl

theorem respond_of_still (h : Still (standing s)) : respond s = s := by
  have responses : s.gh.responses = [] := h.responses
  simp only [respond, responses, List.filter_nil, if_true]

theorem endRejoin_of_still (h : Still (standing s)) : endRejoin s = s := by
  have rejoining : s.bridge.rejoining = false := h.rejoining
  simp only [endRejoin, rejoining, Bool.false_and, Bool.false_eq_true, if_false]

/-! ## What waits for the boundary -/

theorem bistCut_of_still (h : Still (standing s)) : bistCut s = s := by
  have testing : s.bist.running = false := h.testing
  simp only [bistCut, testing, Bool.false_and, Bool.false_eq_true, if_false]

theorem commitReady_of_still (h : Still (standing s)) : commitReady s = s := by
  have commits : s.bridge.commits = [] := h.commits
  simp only [commitReady, commits, List.foldl_nil]

theorem standing_ackReady (h : Still (standing s)) : standing (ackReady s) = standing s := by
  have staged : s.bridge.staged = [] := h.staged
  simp only [ackReady, staged, List.filter_nil, List.map_nil, List.foldl_nil]
  simp only [standing, staged]

theorem settleAdmin_of_still (h : Still (standing s)) : settleAdmin s = s := by
  have jobs : s.jobs = [] := h.jobs
  simp only [settleAdmin, jobs, List.filter_nil, List.map_nil, List.foldl_nil]

theorem destroyReady_of_still (h : Still (standing s)) (a : Nat) : destroyReady s a = false := by
  unfold destroyReady
  cases hv : KMap.get? s.allots a with
  | none => simp
  | some v =>
    have terms : KMap.get? (standing s).terms a = some (termsOf v) := by rw [standing, get?_terms, hv]; rfl
    have going : v.destroying = false := h.destroying a _ terms
    simp [going]

theorem settleDestroyed_of_still (h : Still (standing s)) : settleDestroyed s = s :=
  foldl_keeps (fun t => t = s) (fun t a ht => by simp [ht, destroyReady_of_still h]) _ rfl

theorem settleQueues_of_still (h : Still (standing s)) : settleQueues s = s := by
  have kept : KMap.keep s.queues (fun k q => !q.closing || adminNames s 0xF005 (k / 8) ||
      (allotAt s (k / 8)).any (fun v => v.destroying) || decide (jobsOfQueue s (k / 8) (k % 8) ≠ [])) = s.queues :=
    List.filter_eq_self.mpr fun p hp => by simp [show p.2.closing = false from h.closing p hp]
  simp only [settleQueues, kept]

theorem eolSettle_of_still (h : Still (standing s)) : eolSettle s = s := by
  have executing : s.gh.executing ≠ 6 := h.executing
  simp [eolSettle, executing]

theorem standing_settle (h : Still (standing s)) : standing (settle s) = standing s := by
  have acked := standing_ackReady h
  have still : Still (standing (ackReady s)) := acked ▸ h
  have jobs : (ackReady s).jobs = [] := still.jobs
  simp only [settle, bistCut_of_still h, commitReady_of_still h, settleAdmin_of_still still, settleDestroyed_of_still still,
    settleQueues_of_still still, jobs, List.map_nil, List.foldl_nil, eolSettle_of_still still]
  exact acked

/-! ## Residences -/

theorem standing_zeroResidences (s : State) : standing (zeroResidences s) = standing s := rfl

theorem evictJob_of_still (h : Still (standing s)) (k : Nat) : evictJob s k = s := by
  have jobs : s.jobs = [] := h.jobs
  simp only [evictJob, jobs, KMap.get?]

theorem standing_settleEvictions (h : Still (standing s)) : standing (settleEvictions s) = standing s := by
  unfold settleEvictions
  refine standing_foldl (fun t (u : Nat) ht => ?_) _
  refine standing_foldl (fun t' (e : Eviction) ht' => ?_) _
  have jobs : t'.jobs = [] := (ht'.trans ht ▸ h : Still (standing t')).jobs
  extract_lets v cleared
  split
  next hn =>
    obtain ⟨k, -, hk⟩ := Option.bind_eq_some_iff.mp hn
    rw [show cleared.jobs = [] from jobs] at hk
    cases hk
  next => rfl

theorem standing_setHolder (h : Still (standing s)) (u r : Nat) (x : Option (Nat × Bool)) :
    standing (setHolder s u r x) = standing s := by
  simp only [setHolder]
  split
  · rfl
  · split
    · rw [evictJob_of_still h]
      rfl
    · rfl

theorem standing_shedYield (s : State) (old : Residence) (u r : Nat) : standing (shedYield s old u r) = standing s := by
  unfold shedYield
  split
  · split
    · exact standing_logEventAt s 0 0x0002 0xFFFF 0xFF 0xFF 0xFF _
    · rfl
  · rfl

theorem restoreIncoming_of_still (old : State) (h : Still (standing s)) : standing (restoreIncoming old s) = standing s := by
  have jobs : s.jobs = [] := h.jobs
  have evicted : ∀ t : State, t.jobs = [] → evictedJobs t = [] := fun t ht => by
    simp only [evictedJobs, ht, List.filter_nil, List.map_nil]
    rfl
  unfold restoreIncoming
  extract_lets base
  rw [evicted base jobs]
  rfl

theorem standing_assignResidences (h : Still (standing s)) : standing (assignResidences s) = standing s := by
  unfold assignResidences
  extract_lets p s0 given
  have handed : standing given = standing s := by
    refine standing_foldl (fun t (u : Nat) ht => ?_) _
    refine standing_foldl (fun t' (r : Nat) ht' => ?_) _
    exact (standing_shedYield _ _ u r).trans (standing_setHolder ((ht'.trans ht) ▸ h) u r _)
  exact (restoreIncoming_of_still s0 (s := { given with sched.handOut := p.2 }) (handed ▸ h)).trans handed

/-! ## Leases -/

/-- The terms of an allotment in an epoch: the lease that waited for it replaces the old one. -/
def leasedBy (e : Nat) (x : Terms) : Terms :=
  match x.pendingLease with
  | some (e0, l) => if e0 ≤ e then { x with lease := l, pendingLease := none } else x
  | none => x

theorem standing_applyLeases (s : State) : standing (applyLeases s) =
    { standing s with terms := KMap.mapAll (standing s).terms fun _ => leasedBy (epochOf (now s)) } := by
  simp only [applyLeases, standing, KMap.mapAll, List.map_map, Standing.mk.injEq, true_and]
  refine List.map_congr_left fun p _ => ?_
  simp only [Function.comp, leasedBy, show (termsOf p.2).pendingLease = p.2.pendingLease from rfl]
  cases p.2.pendingLease with
  | none => rfl
  | some q => by_cases due : q.1 ≤ epochOf (now s) <;> simp only [due, if_true, if_false, termsOf]

theorem leasedBy_destroying (e : Nat) (x : Terms) : (leasedBy e x).destroying = x.destroying := by
  unfold leasedBy
  split
  · split <;> rfl
  · rfl

theorem Still.leased {v : Standing} (h : Still v) (e : Nat) :
    Still { v with terms := KMap.mapAll v.terms fun _ => leasedBy e } :=
  have destroying : ∀ a x, KMap.get? (KMap.mapAll v.terms fun _ => leasedBy e) a = some x → x.destroying = false := by
    intro a x hx
    rw [KMap.get?_mapAll] at hx
    obtain ⟨y, hy, rfl⟩ := Option.map_eq_some_iff.mp hx
    exact (leasedBy_destroying e y).trans (h.destroying a y hy)
  { h with destroying := destroying }

/-! ## The other steps of an epoch boundary -/

theorem standing_bistRejoin (s : State) : standing (bistRejoin s) = standing s := rfl

theorem standing_startEpochUnit (s : State) (u : Nat) : standing (startEpochUnit s u) = standing s := by
  unfold startEpochUnit
  split <;> rfl

theorem standing_assignTurns (s : State) : standing (assignTurns s) = standing s := by
  unfold assignTurns
  extract_lets own kept rest old fresh free p given
  exact (standing_foldl (fun t a _ => standing_logEventAt t 0 0x0002 0xFFFF 0xFF 0xFF 0xFF _) _).trans rfl

theorem standing_assignMembers (s : State) : standing (assignMembers s) = standing s := rfl

theorem standing_installImage (h : Still (standing s)) : standing (installImage s) = standing s := by
  have jobs : s.jobs = [] := h.jobs
  unfold installImage
  split
  · split
    · simp only [standing, jobs, List.filter_nil, List.map_nil, List.foldl_nil]
    · rfl
  · rfl

theorem standing_logSundial (s : State) (cls : Nat) (code : W16) (detail : List Byte) :
    standing (logSundial s cls code detail) = standing s := standing_logEventAt s cls code 0xFFFF 0xFF 0xFF 0xFF detail

theorem standing_endCap (s : State) : standing (endCap s) = standing s := by
  simp only [endCap]
  split
  · exact (standing_recordHistory _ 6).trans ((standing_logSundial _ 0 _ _).trans rfl)
  · rfl

theorem standing_plan (s : State) (p cause : Nat) : standing (plan s p cause) = standing s := by
  simp only [plan]
  split
  · rfl
  · exact (standing_recordHistory _ cause).trans ((standing_logSundial _ 0 _ _).trans rfl)

theorem standing_enterPoint (s : State) (cause : Nat) : standing (enterPoint s cause) = standing s := by
  unfold enterPoint
  extract_lets old p changed
  split
  · rfl
  · exact (standing_recordHistory _ cause).trans ((standing_logSundial _ 0 _ _).trans rfl)

theorem standing_sundialEpoch (s : State) : standing (sundialEpoch s) = standing s := by
  unfold sundialEpoch
  extract_lets ended sundial planned
  have kept : standing planned = standing ended := by
    unfold planned
    split
    · exact (standing_plan _ _ 8).trans rfl
    · rfl
  exact (standing_enterPoint planned _).trans (kept.trans (standing_endCap s))

theorem standing_startRetests (s : State) : standing (startRetests s) = standing s := rfl

/-- An epoch boundary changes the leases, and nothing else of what stands. -/
theorem standing_epochBoundary (h : Still (standing s)) : standing (epochBoundary s) =
    { standing s with terms := KMap.mapAll (standing s).terms fun _ => leasedBy (epochOf (now s)) } := by
  have leases := standing_applyLeases (bistRejoin s)
  have still : Still (standing (applyLeases (bistRejoin s))) := leases ▸ h.leased _
  have placed := standing_assignResidences still
  unfold epochBoundary
  extract_lets given begun
  have units : standing begun = standing given := standing_foldl (fun t u _ => standing_startEpochUnit t u) _
  have turns : standing (assignMembers (assignTurns begun)) = standing (applyLeases (bistRejoin s)) :=
    (standing_assignMembers _).trans ((standing_assignTurns begun).trans (units.trans placed))
  have member : Still (standing (assignMembers (assignTurns begun))) := by
    rw [turns]
    exact still
  rw [standing_startRetests, standing_sundialEpoch, standing_installImage member, turns, leases, standing_bistRejoin]
  rfl

/-! ## Notices, masks and views -/

theorem emitOutputs_of_still (h : Still (standing s)) : emitOutputs s = s := by
  have jobs : s.jobs = [] := h.jobs
  simp only [emitOutputs, jobsBy, jobs, List.filter_nil, List.map_nil]
  rfl

theorem standing_noteReady (jobs : s.jobs = []) : standing (noteReady s) = standing s := by
  simp only [noteReady, standing, jobs]
  rfl

theorem standing_maskTick (s : State) (u : Nat) : standing (maskTick s u) = standing s := by
  simp only [maskTick]
  split
  · rfl
  split
  · split <;> rfl
  split <;> rfl

theorem issueAll_of_no_jobs (jobs : s.jobs = []) : issueAll s = s :=
  foldl_keeps (fun t => t = s) (fun t a ht => by rw [ht, issueReads_of_no_jobs a jobs]) _ rfl

/-- Moderation changes nothing but queues. -/
theorem standing_moderate (s : State) (a q : Nat) : ∃ m, standing (moderate s a q) = { standing s with queues := m } := by
  unfold moderate
  split
  · split
    · split
      · exact ⟨_, standing_sendVector _ _ _⟩
      · exact ⟨s.queues, rfl⟩
    · exact ⟨s.queues, rfl⟩
  · exact ⟨s.queues, rfl⟩

theorem standing_moderateAll (s : State) : ∃ m, standing (moderateAll s) = { standing s with queues := m } :=
  foldl_keeps (fun t => ∃ m, standing t = { standing s with queues := m })
    (fun t k ⟨_, ht⟩ => (standing_moderate t (k / 8) (k % 8)).imp fun _ hm => by rw [hm, ht]) _ ⟨s.queues, rfl⟩

/-- A queue with nothing pending is due no message. -/
theorem moderate_of_none_pending (h : (s.queues.all fun p => decide (p.2.pendCount = 0)) = true) (a q : Nat) :
    moderate s a q = s := by
  unfold moderate
  split
  case h_2 => rfl
  case h_1 x hx =>
    have count : x.pendCount = 0 := by simpa using List.all_eq_true.mp h _ (KMap.mem_of_get? hx)
    have due : noticeDue (now s) x = false := by simp [noticeDue, pendingAt, count]
    simp only [due]
    split <;> rfl

theorem moderateAll_of_none_pending (h : (s.queues.all fun p => decide (p.2.pendCount = 0)) = true) : moderateAll s = s :=
  foldl_keeps (fun t => t = s) (fun t k ht => by rw [ht, moderate_of_none_pending h]) _ rfl

end Sys2Proof.Machine
end

section
/-! A tick of a quiet device as a whole, and O24 (02_bandstand.md R31, R32, R39). -/
namespace Sys2Proof.Machine
open Sys2Proof

variable {s t : State}

/-- The leases in force from a tick on: those of its epoch, where the tick begins one. -/
def leasedAt (n : Nat) (m : KMap Terms) : KMap Terms :=
  if offsetOf n = 0 then KMap.mapAll m fun _ => leasedBy (epochOf n) else m

/-- What stands once a boundary has been crossed: the next tick, with fresh fetch turns and the leases of its epoch. -/
def crossed (v : Standing) : Standing := { v with tick := v.tick + 1, served := [], terms := leasedAt (v.tick + 1) v.terms }

/-- What stands once the boundary has taken the view of the registers. -/
def viewed (v : Standing) : Standing := { v with bstSel := v.bstSelNext.getD v.bstSel, bstSelNext := none }

theorem Still.of_eq (h : Still (standing s)) (e : standing t = standing s) : Still (standing t) := e ▸ h

theorem Still.crossed {v : Standing} (h : Still v) : Still (crossed v) := by
  have leased := h.leased (epochOf (v.tick + 1))
  unfold Machine.crossed leasedAt
  split
  · exact { leased with }
  · exact { h with }

/-- The tick rises, what acts on responses and rejoins does nothing, and an epoch boundary replaces leases. -/
theorem standing_begun (h : Still (standing s)) (hs : standing t = { standing s with tick := now s + 1, served := [] }) :
    standing (if offsetOf (now t) = 0 then epochBoundary t else t) = crossed (standing s) := by
  have still : Still (standing t) := by
    rw [hs]
    exact { h with }
  have tick : now t = now s + 1 := congrArg Standing.tick hs
  rw [tick]
  split
  next start =>
    rw [standing_epochBoundary still, hs, tick]
    simp only [crossed, leasedAt, show (standing s).tick = now s from rfl, if_pos start]
  next inside => simp only [hs, crossed, leasedAt, show (standing s).tick = now s from rfl, if_neg inside]

/-- Up to the notices, a boundary leaves standing what stands. -/
theorem standing_settled (h : Still (standing s)) :
    standing (emitOutputs (sendHeld (settleEvictions (zeroResidences (settle s))))) = standing s := by
  have zeroed : standing (zeroResidences (settle s)) = standing s := (standing_zeroResidences _).trans (standing_settle h)
  have held : standing (sendHeld (settleEvictions (zeroResidences (settle s)))) = standing s :=
    (standing_sendHeld _).trans ((standing_settleEvictions (h.of_eq zeroed)).trans zeroed)
  rw [emitOutputs_of_still (h.of_eq held), held]

/-- The masks, halts and views, without a job. -/
theorem standing_shown (jobs : s.jobs = []) :
    standing (issueAll (takeViews (takeHalts (noteReady ((List.range 4).foldl maskTick s))))) = viewed (standing s) := by
  have masks : standing ((List.range 4).foldl maskTick s) = standing s := standing_foldl (fun t u _ => standing_maskTick t u) _
  generalize (List.range 4).foldl maskTick s = m at masks ⊢
  have noted := (standing_noteReady ((congrArg Standing.jobs masks).trans jobs)).trans masks
  have shown : standing (takeViews (takeHalts (noteReady m))) = viewed (standing s) :=
    calc _ = viewed (standing (noteReady m)) := rfl
      _ = _ := by rw [noted]
  rw [issueAll_of_no_jobs ((congrArg Standing.jobs shown).trans jobs), shown]

/-- From the settling on, a boundary changes the view and the queues' notices: no queue where none is pending. -/
theorem standing_noticed (h : Still (standing s)) :
    ∃ m, standing (issueAll (takeViews (takeHalts (noteReady ((List.range 4).foldl maskTick (eventNotice (moderateAll
        (emitOutputs (sendHeld (settleEvictions (zeroResidences (settle s)))))))))))) = { viewed (standing s) with queues := m } ∧
      ((s.queues.all fun p => decide (p.2.pendCount = 0)) = true → m = s.queues) := by
  have settled := standing_settled h
  generalize emitOutputs (sendHeld (settleEvictions (zeroResidences (settle s)))) = w at settled ⊢
  obtain ⟨m, hm⟩ := standing_moderateAll w
  have sent : standing (eventNotice (moderateAll w)) = { standing s with queues := m } := by
    rw [standing_eventNotice, hm, settled]
  refine ⟨m, ?_, fun none => ?_⟩
  · rw [standing_shown ((congrArg Standing.jobs sent).trans h.jobs), sent]
    rfl
  · have queues : w.queues = s.queues := congrArg Standing.queues settled
    rw [moderateAll_of_none_pending (queues ▸ none)] at hm
    exact (congrArg Standing.queues hm).symm.trans queues

theorem standing_nextTick (h : standing t = standing s) :
    standing { t with sched := { t.sched with tick := t.sched.tick + 1, served := [] } } =
      { standing s with tick := now s + 1, served := [] } :=
  congrArg (fun v : Standing => { v with tick := v.tick + 1, served := [] }) h

/-- The boundary of a quiet device changes the tick, the fetch turns, the leases, the view and the queues' notices. -/
theorem standing_crossBoundary (h : quiet s) (stage : 4 ≤ s.boot.stage) :
    ∃ m, standing (crossBoundary [] s) = { viewed (crossed (standing s)) with queues := m } ∧
      ((s.queues.all fun p => decide (p.2.pendCount = 0)) = true → m = s.queues) := by
  have still := Still.of_quiet h
  have ended := standing_endBays h
  simp only [crossBoundary, List.foldl_nil]
  generalize endBays [] s = e at ended ⊢
  have rise := standing_nextTick ended
  generalize ({ e with sched := { e.sched with tick := e.sched.tick + 1, served := [] } } : State) = risen at rise ⊢
  have risenStill : Still (standing risen) := by
    rw [rise]
    exact { still with }
  have risenStage : ¬ risen.boot.stage < 4 := by
    rw [show risen.boot = s.boot from congrArg Standing.boot rise]
    omega
  simp only [respond_of_still risenStill, if_neg risenStage, endRejoin_of_still risenStill]
  have begun := standing_begun still rise
  generalize (if offsetOf (now risen) = 0 then epochBoundary risen else risen) = w at begun ⊢
  obtain ⟨m, noticed, same⟩ := standing_noticed (s := w) (begun ▸ still.crossed)
  refine ⟨m, by rw [noticed, begun], fun none => ?_⟩
  have queues : w.queues = s.queues := congrArg Standing.queues begun
  exact (same (queues ▸ none)).trans queues

theorem standing_gateClocks (s : State) : standing (gateClocks s) = standing s := rfl

/-- So does a tick: the bays that start leave standing what stands. -/
theorem standing_tick (h : quiet s) (stage : 4 ≤ s.boot.stage) :
    ∃ m, standing (tick [] s) = { viewed (crossed (standing s)) with queues := m } ∧
      ((s.queues.all fun p => decide (p.2.pendCount = 0)) = true → m = s.queues) := by
  obtain ⟨m, boundary, same⟩ := standing_crossBoundary h stage
  refine ⟨m, ?_, same⟩
  simp only [tick, if_neg (show ¬ s.boot.stage < 4 by omega)]
  generalize crossBoundary [] s = w at boundary ⊢
  have dumping : w.dump.active = none := (congrArg Standing.dumping boundary).trans (Still.of_quiet h).dumping
  simp only [dumping, Option.isSome_none, Bool.false_eq_true, if_false]
  split
  · exact (standing_gateClocks _).trans ((standing_foldl (fun t u _ => standing_startBay t u) _).trans boundary)
  · exact boundary

/-- What a lease of an allotment has become at a tick that begins an epoch. -/
theorem leasedBy_cases (n : Nat) (x : Terms) :
    (∀ e l, x.pendingLease = some (e, l) → 4096 * e ≤ n → (leasedBy (epochOf n) x).lease = l ∧
      (leasedBy (epochOf n) x).pendingLease = none) ∧
    (∀ e l, x.pendingLease = some (e, l) → n < 4096 * e → (leasedBy (epochOf n) x).lease = x.lease ∧
      (leasedBy (epochOf n) x).pendingLease = some (e, l)) ∧
    (x.pendingLease = none → (leasedBy (epochOf n) x).lease = x.lease ∧ (leasedBy (epochOf n) x).pendingLease = none) := by
  refine ⟨fun e l wait due => ?_, fun e l wait later => ?_, fun none => ?_⟩
  · have begun : e ≤ epochOf n := by unfold epochOf; omega
    simp only [leasedBy, wait, if_pos begun, and_self]
  · have ahead : ¬ e ≤ epochOf n := by unfold epochOf; omega
    simp only [leasedBy, wait, if_neg ahead, and_self]
  · simp only [leasedBy, none, and_self]

/-- Settles O24: every step of a boundary leaves standing what stands but for the named parts. -/
theorem ticks : Obligations.Ticks := by
  refine ⟨fun s => ⟨fun h stage _ => ?_, fun ms stage => ?_⟩, fun s h stage last => ?_⟩
  · obtain ⟨m, ticked, same⟩ := standing_tick h stage
    exact ⟨tick [] s, rfl, congrArg Standing.tick ticked, congrArg Standing.served ticked, congrArg Standing.bstSel ticked,
      congrArg Standing.bstSelNext ticked, (congrArg Standing.jobs ticked).trans (Still.of_quiet h).jobs,
      congrArg Standing.otp ticked, congrArg Standing.pending ticked,
      fun none => (congrArg Standing.queues ticked).trans (same none)⟩
  · exact congrArg Host.Outcome.next (if_pos stage)
  · obtain ⟨m, ticked, -⟩ := standing_tick h stage
    have boundary : exec .epochBoundary s = .next (tick [] s) :=
      congrArg Host.Outcome.next (if_pos (decide_eq_true last))
    refine ⟨tick [] s, boundary, congrArg Standing.tick ticked, fun a v hv => ?_⟩
    have start : offsetOf (s.sched.tick + 1) = 0 := by
      simp only [offsetOf, now] at last ⊢
      omega
    have terms : (standing (tick [] s)).terms = KMap.mapAll (standing s).terms fun _ => leasedBy (epochOf (s.sched.tick + 1)) :=
      (congrArg Standing.terms ticked).trans (if_pos start)
    have found : KMap.get? (standing (tick [] s)).terms a = some (leasedBy (epochOf (s.sched.tick + 1)) (termsOf v)) := by
      rw [terms, KMap.get?_mapAll, standing, get?_terms, hv]
      rfl
    rw [standing, get?_terms] at found
    obtain ⟨w, hw, leased⟩ := Option.map_eq_some_iff.mp found
    obtain ⟨due, later, none⟩ := leasedBy_cases (s.sched.tick + 1) (termsOf v)
    rw [← leased] at due later none
    exact ⟨w, hw, due, later, none⟩

end Sys2Proof.Machine
end

section
/-! SUPPORT. The stages of an admin command that needs no draw and no commit with the twin, one at a time: its start, its records, what
follows them, and its effect (05_admin_commands.md R103, R106, R109). -/
namespace Sys2Proof.Machine
open Sys2Proof

variable {c : AdminCmd} {s t : State} {r : JobRef} {j x : Job} {k : Nat}

/-- The job of a command that has started. -/
def startedAs (x : Job) : Job := { x with phase := .running, remaining := 1, draws := [] }

/-- The job of a command whose records are on their way. -/
def stagedAs (ids : List Nat) (x : Job) : Job := { x with phase := .running, remaining := 0, waits := ids.map Wait.record }

/-- The job of a command whose commit is done. -/
def followedAs (ids : List Nat) (x : Job) : Job := { x with index := 1, waits := ids.map Wait.record }

/-- The job of a command that has completed. -/
def finishedAs (n effect detail : Nat) (x : Job) : Job :=
  { decideAt n (if isSuccess x.status then successOf x.flags else x.status) x with
    effect := BitVec.ofNat 64 effect, detail := BitVec.ofNat 48 detail, reason := 0 }

theorem adminStart_of_ready (h : adminReady c s r j) (draws : c.draws j = none) (prepare : c.prepare s j = s) :
    adminStart c s (refKey r) = modJob s (refKey r) startedAs := by
  obtain ⟨job, -, -, -, -, -, -, passes, -⟩ := h
  simp only [adminStart, job, passes, prepare, draws]
  rfl

/-- A ready command runs. -/
theorem adminRow_of_ready (h : adminReady c s r j) {w : Job → Bool} (hw : w j = true) (draws : c.draws j = none)
    (prepare : c.prepare s j = s) :
    adminRow c w r s = adminSettle c (modJob s (refKey r) startedAs) (refKey r) := by
  have start := adminStart_of_ready h draws prepare
  obtain ⟨job, phase, opcode, -⟩ := h
  simp only [adminRow, job, phase, opcode, hw, decide_true, Bool.and_self, if_true, start]

theorem adminAdvance_records (job : KMap.get? t.jobs k = some x) (phase : x.phase = .running) (waits : x.waits = [])
    (draws : x.draws = []) (stage : x.remaining = 1) (free : adminHoldsFirst t x = false)
    (alone : (mirrors t && c.markS x) = false) :
    adminAdvance c t k = modJob (c.records t x).1 k (stagedAs (c.records t x).2) := by
  simp only [adminAdvance, job, phase, waits, draws, stage, free, decide_true, Bool.and_self, if_true, Bool.false_eq_true, if_false,
    adminStage, alone]
  rfl

theorem adminAdvance_follow (job : KMap.get? t.jobs k = some x) (phase : x.phase = .running) (waits : x.waits = [])
    (draws : x.draws = []) (stage : x.remaining = 0) (index : x.index = 0) :
    adminAdvance c t k = modJob (c.follow t x).1 k (followedAs (c.follow t x).2) := by
  simp only [adminAdvance, job, phase, waits, draws, stage, index, decide_true, Bool.and_self, if_true, Nat.zero_ne_one, if_false]
  rfl

theorem adminAdvance_finish (job : KMap.get? t.jobs k = some x) (phase : x.phase = .running) (waits : x.waits = [])
    (draws : x.draws = []) (stage : x.remaining = 0) (index : x.index = 1) (free : adminHolds t x = false) :
    adminAdvance c t k = adminFinish c t k := by
  simp only [adminAdvance, job, phase, waits, draws, stage, index, free, decide_true, Bool.and_self, if_true, Nat.zero_ne_one,
    if_false, Nat.one_ne_zero, Bool.false_eq_true]

theorem adminAdvance_holds (job : KMap.get? t.jobs k = some x) (stage : x.remaining = 0) (index : x.index = 1)
    (held : adminHolds t x = true) : adminAdvance c t k = t := by
  simp only [adminAdvance, job, stage, index, held, Nat.zero_ne_one, if_false, if_true, Nat.one_ne_zero, ite_self]

theorem status_of_ready (h : adminReady c s r j) : j.status = .ok := by
  obtain ⟨-, -, -, status, -⟩ := h
  exact status

/-- The job of a ready command in each stage. -/
theorem running_of_ready (h : adminReady c s r j) :
    (startedAs j).phase = .running ∧ (startedAs j).waits = [] ∧ (startedAs j).draws = [] ∧ (startedAs j).remaining = 1 ∧
      (stagedAs [] (startedAs j)).remaining = 0 ∧ (stagedAs [] (startedAs j)).index = 0 ∧ (startedAs j).status = .ok := by
  obtain ⟨-, -, -, status, waits, -, index, -, -⟩ := h
  exact ⟨rfl, waits, rfl, rfl, rfl, index, status⟩

/-- The job of a command before its effect. -/
def waitingAs (x : Job) : Job := followedAs [] (stagedAs [] (startedAs x))

/-- A started command whose records and whose follow-up have nothing to wait for stands before its effect at once. -/
theorem adminSettle_course {u recorded followed : State} (h : adminReady c s r j)
    (start : KMap.get? u.jobs (refKey r) = some (startedAs j)) (direct : j.entry.opcode.toNat ≠ 0xF009)
    (alone : (mirrors u && c.markS (startedAs j)) = false) (records : c.records u (startedAs j) = (recorded, []))
    (keptRecorded : KMap.get? recorded.jobs (refKey r) = some (startedAs j))
    (follow : c.follow (modJob recorded (refKey r) (stagedAs [])) (stagedAs [] (startedAs j)) = (followed, []))
    (keptFollowed : KMap.get? followed.jobs (refKey r) = some (stagedAs [] (startedAs j))) :
    KMap.get? (modJob followed (refKey r) (followedAs [])).jobs (refKey r) = some (waitingAs j) ∧
      adminSettle c u (refKey r) = adminAdvance c (modJob followed (refKey r) (followedAs [])) (refKey r) := by
  obtain ⟨phase, waits, none, first, second, index, -⟩ := running_of_ready h
  have free : adminHoldsFirst u (startedAs j) = false := by
    have other : (startedAs j).entry.opcode.toNat ≠ 0xF009 := direct
    simp only [adminHoldsFirst, other, decide_false, Bool.false_and]
  have staged : KMap.get? (modJob recorded (refKey r) (stagedAs [])).jobs (refKey r) = some (stagedAs [] (startedAs j)) :=
    get?_modJob_same _ keptRecorded
  refine ⟨get?_modJob_same _ keptFollowed, ?_⟩
  rw [adminSettle, adminAdvance_records start phase waits none first free alone, records,
    adminAdvance_follow staged rfl rfl none second index, follow]

/-- So does a ready one in the tick of its row. -/
theorem adminRow_course (h : adminReady c s r j) {w : Job → Bool} (hw : w j = true) (draws : c.draws j = none)
    (prepare : c.prepare s j = s) (mark : c.markS (startedAs j) = c.markS j) (direct : j.entry.opcode.toNat ≠ 0xF009)
    {recorded followed : State} (records : c.records (modJob s (refKey r) startedAs) (startedAs j) = (recorded, []))
    (keptRecorded : KMap.get? recorded.jobs (refKey r) = some (startedAs j))
    (follow : c.follow (modJob recorded (refKey r) (stagedAs [])) (stagedAs [] (startedAs j)) = (followed, []))
    (keptFollowed : KMap.get? followed.jobs (refKey r) = some (stagedAs [] (startedAs j))) :
    KMap.get? (modJob followed (refKey r) (followedAs [])).jobs (refKey r) = some (waitingAs j) ∧
      adminRow c w r s = adminAdvance c (modJob followed (refKey r) (followedAs [])) (refKey r) := by
  have alone : (mirrors (modJob s (refKey r) startedAs) && c.markS (startedAs j)) = false := by
    obtain ⟨-, -, -, -, -, -, -, -, alone⟩ := h
    rw [mark]
    exact alone
  rw [adminRow_of_ready h hw draws prepare]
  exact adminSettle_course h (get?_modJob_same _ h.1) direct alone records keptRecorded follow keptFollowed

theorem adminFinish_of_apply {done : State} {effect detail : Nat} (job : KMap.get? t.jobs k = some x)
    (applied : c.apply t k x = (done, effect, detail)) :
    adminFinish c t k = modJob done k (finishedAs (now t) effect detail) := by
  simp only [adminFinish, job, applied]
  rfl

theorem isSuccess_finishedAs (n effect detail : Nat) (h : x.status = .ok) :
    isSuccess (finishedAs n effect detail x).status = true := by
  simp only [finishedAs, decideAt, h, show isSuccess .ok = true from rfl, if_true, successOf]
  split <;> rfl

/-- A command that has finished is done. -/
theorem adminDone_finished {n effect detail : Nat} {out : List Byte} (job : KMap.get? t.jobs (refKey r) = some x)
    (status : x.status = .ok) (output : x.output = out) (time : now t = n) :
    adminDone (modJob t (refKey r) (finishedAs n effect detail)) r effect detail out :=
  ⟨_, get?_modJob_same _ job, rfl, isSuccess_finishedAs _ _ _ status, rfl, rfl, rfl, output, time.symm⟩

/-- A command before its effect that nothing holds completes with it. -/
theorem adminAdvance_done {done : State} {y : Job} {effect detail : Nat} (job : KMap.get? t.jobs (refKey r) = some (waitingAs j))
    (ok : j.status = .ok) (free : adminHolds t (waitingAs j) = false)
    (applied : c.apply t (refKey r) (waitingAs j) = (done, effect, detail)) (kept : KMap.get? done.jobs (refKey r) = some y)
    (status : y.status = j.status) (output : y.output = j.output) (time : now done = now t) :
    adminAdvance c t (refKey r) = modJob done (refKey r) (finishedAs (now t) effect detail) ∧
      adminDone (adminAdvance c t (refKey r)) r effect detail j.output := by
  have course : adminAdvance c t (refKey r) = modJob done (refKey r) (finishedAs (now t) effect detail) :=
    (adminAdvance_finish job rfl rfl rfl rfl rfl free).trans (adminFinish_of_apply job applied)
  refine ⟨course, ?_⟩
  rw [course]
  exact adminDone_finished kept (status.trans ok) output time

end Sys2Proof.Machine
end

section
/-! SUPPORT. Commands that end a queue or an allotment on which no job stands (R113, R116). -/
namespace Sys2Proof.Machine
open Sys2Proof

variable {s t u : State} {r : JobRef} {j : Job}

/-! ## Answered descriptor reads -/

/-- `t` is `s` but for the queues and allotments, of which it has the same; the queues with other keys stand as they did. -/
def ReadsDropped (p : Nat → Prop) (s t : State) : Prop :=
  ∃ m l, t = { s with queues := m, allots := l } ∧ (∀ k, ¬ p k → KMap.get? m k = KMap.get? s.queues k) ∧
    KMap.wf m = KMap.wf s.queues ∧ (∀ a, (KMap.get? l a).isSome = (KMap.get? s.allots a).isSome) ∧ KMap.wf l = KMap.wf s.allots

theorem ReadsDropped.refl (p : Nat → Prop) (s : State) : ReadsDropped p s s :=
  ⟨s.queues, s.allots, rfl, fun _ _ => rfl, rfl, fun _ => rfl, rfl⟩

theorem ReadsDropped.trans {p : Nat → Prop} (h : ReadsDropped p s t) (h' : ReadsDropped p t u) : ReadsDropped p s u := by
  obtain ⟨m, l, rfl, others, wfq, some, wfa⟩ := h
  obtain ⟨m', l', rfl, others', wfq', some', wfa'⟩ := h'
  exact ⟨m', l', rfl, fun k hk => (others' k hk).trans (others k hk), wfq'.trans wfq, fun a => (some' a).trans (some a),
    wfa'.trans wfa⟩

theorem isSome_adjust {α : Type} (m : KMap α) (i a : Nat) (f : α → α) :
    (KMap.get? (KMap.adjust m i f) a).isSome = (KMap.get? m a).isSome := by
  by_cases h : a = i
  · rw [h, KMap.get?_adjust_same, Option.isSome_map]
  · rw [KMap.get?_adjust_ne _ _ h]

theorem readsDropped_modQueue (s : State) (a q : Nat) (f : Queue → Queue) :
    ReadsDropped (· = queueKey a q) s (modQueue s a q f) :=
  ⟨_, s.allots, rfl, fun _ hk => KMap.get?_adjust_ne _ _ hk, KMap.wf_adjust _ _ _, fun _ => rfl, rfl⟩

theorem readsDropped_modAllot (p : Nat → Prop) (s : State) (a : Nat) (f : Allotment → Allotment) :
    ReadsDropped p s (modAllot s a f) :=
  ⟨s.queues, _, rfl, fun _ _ => rfl, rfl, fun i => isSome_adjust s.allots a i f, KMap.wf_adjust _ _ _⟩

theorem readsDropped_dropDescriptorRead (s : State) (a q : Nat) :
    ReadsDropped (· = queueKey a q) s (dropDescriptorRead s a q) := by
  unfold dropDescriptorRead
  split
  · split
    · exact (readsDropped_modQueue s a q _).trans (readsDropped_modAllot _ _ a _)
    · exact readsDropped_modQueue s a q _
  · exact .refl _ s

theorem jobsOf_modJob (s : State) (k a : Nat) (f : Job → Job) : jobsOf (modJob s k f) a = jobsOf s a := by
  have keys : (KMap.adjust s.jobs k f).map Prod.fst = s.jobs.map Prod.fst := by
    simp only [KMap.adjust, List.map_map]
    refine List.map_congr_left fun p _ => ?_
    simp only [Function.comp]
    split <;> rfl
  simp only [jobsOf, modJob, keys]

theorem jobsOfQueue_modJob (s : State) (k a q : Nat) (f : Job → Job) :
    jobsOfQueue (modJob s k f) a q = jobsOfQueue s a q := by
  simp only [jobsOfQueue, jobsOf_modJob]

theorem ReadsDropped.jobs {p : Nat → Prop} (h : ReadsDropped p s t) : t.jobs = s.jobs := by
  obtain ⟨m, l, rfl, -⟩ := h
  rfl

theorem jobsOfQueue_congr (h : t.jobs = s.jobs) (a q : Nat) : jobsOfQueue t a q = jobsOfQueue s a q := by
  simp only [jobsOfQueue, jobsOf, h]

theorem ReadsDropped.liveKeys {p : Nat → Prop} (h : ReadsDropped p s t) (a : Nat) : liveKeys t a = liveKeys s a := by
  obtain ⟨m, l, rfl, -⟩ := h
  rfl

theorem ReadsDropped.present {p : Nat → Prop} (h : ReadsDropped p s t) (a : Nat) :
    (KMap.get? t.allots a).isSome = (KMap.get? s.allots a).isSome := by
  obtain ⟨m, l, rfl, -, -, present, -⟩ := h
  exact present a

theorem ReadsDropped.wf_allots {p : Nat → Prop} (h : ReadsDropped p s t) : KMap.wf t.allots = KMap.wf s.allots := by
  obtain ⟨m, l, rfl, -, -, -, wf⟩ := h
  exact wf

theorem abortQueue_of_no_jobs {a q : Nat} (h : jobsOfQueue s a q = []) : abortQueue s a q = dropDescriptorRead s a q := by
  simp only [abortQueue, h]
  rfl

/-! ## QUEUE_DESTROY -/

theorem queueDestroyBegin_of_no_jobs (none : jobsOfQueue s (inlAllot j) (inlineField j 50 1) = []) :
    ∃ f, queueDestroyBegin s j = (f, []) ∧ ReadsDropped (· = queueKey (inlAllot j) (inlineField j 50 1)) s f := by
  refine ⟨_, rfl, ?_⟩
  rw [abortQueue_of_no_jobs none]
  exact (readsDropped_dropDescriptorRead s _ _).trans (readsDropped_modQueue _ _ _ _)

/-- The effect of QUEUE_DESTROY, once no job of the queue is left. -/
theorem queueDestroy_advance (job : KMap.get? t.jobs (refKey r) = some (waitingAs j)) (ok : j.status = .ok)
    (opcode : j.entry.opcode.toNat = 0xF005) (left : jobsOfQueue t (inlAllot j) (inlineField j 50 1) = []) :
    (adminAdvance cmdQueueDestroy t (refKey r)).queues = KMap.drop t.queues (queueKey (inlAllot j) (inlineField j 50 1)) ∧
      adminDone (adminAdvance cmdQueueDestroy t (refKey r)) r 0 0 j.output := by
  have free : adminHolds t (waitingAs j) = false := by
    unfold adminHolds
    rw [show (waitingAs j).entry.opcode.toNat = 0xF005 from opcode]
    exact decide_eq_false (not_not.mpr left)
  obtain ⟨course, done⟩ := adminAdvance_done (c := cmdQueueDestroy) (y := waitingAs j) job ok free rfl job rfl rfl rfl
  exact ⟨congrArg State.queues course, done⟩

/-- QUEUE_DESTROY of a queue without jobs frees it at once. -/
theorem queueDestroy_done (h : adminReady cmdQueueDestroy s r j) (wf : KMap.wf s.queues = true)
    (empty : jobsOfQueue s (inlAllot j) (inlineField j 50 1) = []) :
    ∃ t, exec (.queueDestroy r) s = .next t ∧ adminDone t r 0 0 j.output ∧
      KMap.get? t.queues (queueKey (inlAllot j) (inlineField j 50 1)) = none ∧
      ∀ k, k ≠ queueKey (inlAllot j) (inlineField j 50 1) → KMap.get? t.queues k = KMap.get? s.queues k := by
  have opcode : j.entry.opcode.toNat = 0xF005 := h.2.2.1
  have recorded : KMap.get? (modJob s (refKey r) startedAs).jobs (refKey r) = some (startedAs j) := get?_modJob_same _ h.1
  have idle : ∀ f g, jobsOfQueue (modJob (modJob s (refKey r) f) (refKey r) g) (inlAllot j) (inlineField j 50 1) = [] :=
    fun f g => by rw [jobsOfQueue_modJob, jobsOfQueue_modJob, empty]
  obtain ⟨followed, follow, dropped⟩ := queueDestroyBegin_of_no_jobs (j := stagedAs [] (startedAs j)) (idle startedAs (stagedAs []))
  have kept : KMap.get? followed.jobs (refKey r) = some (stagedAs [] (startedAs j)) := by
    rw [dropped.jobs]
    exact get?_modJob_same _ recorded
  obtain ⟨job, row⟩ := adminRow_course (w := anyEntry) h rfl rfl rfl rfl (by omega) rfl recorded follow kept
  obtain ⟨queues, done⟩ := queueDestroy_advance job (status_of_ready h) opcode
    (by rw [jobsOfQueue_modJob, jobsOfQueue_congr dropped.jobs, idle])
  obtain ⟨m, l, hf, others, wfm, -, -⟩ := dropped
  rw [show (modJob followed (refKey r) (followedAs [])).queues = m from congrArg State.queues hf] at queues
  refine ⟨_, congrArg Host.Outcome.next row, done, ?_, fun k hk => ?_⟩
  · rw [queues]
    exact KMap.get?_drop_same _ _ (wfm.trans wf)
  · rw [queues]
    exact (KMap.get?_drop_ne _ hk).trans (others k hk)

/-! ## ALLOT_DESTROY -/

theorem readsDropped_abortAllotment {a : Nat} (none : jobsOf s a = []) :
    ReadsDropped (fun _ => True) s (abortAllotment s a) := by
  simp only [abortAllotment, none]
  refine foldl_keeps (ReadsDropped (fun _ => True) s) (fun t k ht => ht.trans ?_) _ (.refl _ s)
  obtain ⟨m, l, h, -, rest⟩ := readsDropped_dropDescriptorRead t a (k % 8)
  exact ⟨m, l, h, fun _ hk => absurd trivial hk, rest⟩

theorem readsDropped_closeQueues (s : State) (a : Nat) : ReadsDropped (fun _ => True) s (closeQueues s a) :=
  ⟨_, s.allots, rfl, fun _ hk => absurd trivial hk, KMap.wf_mapAll _ _, fun _ => rfl, rfl⟩

/-- The destruction of an allotment without jobs and keys has nothing to record. -/
theorem destroyRecords_of_empty (alone : mirrors s = false) (jobs : jobsOf s (inlAllot j) = [])
    (keys : liveKeys s (inlAllot j) = []) (there : (KMap.get? s.allots (inlAllot j)).isSome) :
    ∃ t v, destroyRecords s j = (t, []) ∧ ReadsDropped (fun _ => True) s t ∧ KMap.get? t.allots (inlAllot j) = some v ∧
      v.destroying = true ∧ v.destroyRecords = [] := by
  have closed := (readsDropped_abortAllotment jobs).trans (readsDropped_closeQueues (abortAllotment s (inlAllot j)) (inlAllot j))
  generalize hc : closeQueues (abortAllotment s (inlAllot j)) (inlAllot j) = c at closed
  have begun : beginDestroy s (inlAllot j) 0 = modAllot c (inlAllot j) fun v => { v with destroying := true, destroyRecords := [] } := by
    simp only [beginDestroy, hc, postDestroyed, closed.liveKeys, keys, List.foldl_nil]
  obtain ⟨v, hv⟩ := Option.isSome_iff_exists.mp ((closed.present (inlAllot j)).trans there)
  have going : KMap.get? (beginDestroy s (inlAllot j) 0).allots (inlAllot j) =
      some { v with destroying := true, destroyRecords := [] } := by
    rw [begun, modAllot, KMap.get?_adjust_same, hv]
    rfl
  refine ⟨beginDestroy s (inlAllot j) 0, _, ?_, ?_, going, rfl, rfl⟩
  · simp only [destroyRecords, alone, Bool.false_eq_true, if_false, allotAt, going, Option.map_some, Option.getD_some]
  · rw [begun]
    exact closed.trans (readsDropped_modAllot _ _ _ _)

theorem destroyFollow_of_destroying {v : Allotment} (hv : KMap.get? s.allots (inlAllot j) = some v) (going : v.destroying = true) :
    destroyFollow s j = (s, []) := by
  simp only [destroyFollow, allotAt, hv, Option.any_some, going, if_true]

/-- The end of a destruction without jobs takes the allotment and its queues, and leaves the jobs and the time. -/
theorem finishDestroy_of_no_jobs {a : Nat} {v : Allotment} (hv : KMap.get? s.allots a = some v) (none : jobsOf s a = []) :
    (finishDestroy s a).jobs = s.jobs ∧ now (finishDestroy s a) = now s ∧
      (finishDestroy s a).allots = KMap.drop s.allots a ∧ (finishDestroy s a).queues = KMap.keep s.queues fun k _ => decide (k / 8 ≠ a) := by
  simp only [finishDestroy, hv, none, List.foldl_nil]
  exact ⟨rfl, rfl, rfl, rfl⟩

theorem isSome_of_targetFailure {a : Nat} (h : targetFailure s a = none) : (KMap.get? s.allots a).isSome := by
  unfold targetFailure at h
  split at h
  · cases h
  split at h
  next => cases h
  next v hv => simp [hv]

theorem check_of_adminFailure {c : AdminCmd} (h : adminFailure c s j = none) : adminGate c s j = none ∧ c.check s j = none :=
  Option.or_eq_none_iff.mp (by simpa [adminFailure] using h)

theorem targetFailure_of_destroyCheck (h : destroyCheck s j = none) : targetFailure s (inlAllot j) = none := by
  unfold destroyCheck at h
  split at h
  · cases h
  · assumption

/-- The effect of ALLOT_DESTROY, once its jobs and records have ended. -/
theorem allotDestroy_advance {v : Allotment} (job : KMap.get? t.jobs (refKey r) = some (waitingAs j)) (ok : j.status = .ok)
    (opcode : j.entry.opcode.toNat = 0xF002) (left : jobsOf t (inlAllot j) = []) (hv : KMap.get? t.allots (inlAllot j) = some v)
    (going : v.destroying = true) (recorded : v.destroyRecords = []) :
    (adminAdvance cmdAllotDestroy t (refKey r)).allots = KMap.drop t.allots (inlAllot j) ∧
      ((adminAdvance cmdAllotDestroy t (refKey r)).queues = KMap.keep t.queues fun k _ => decide (k / 8 ≠ inlAllot j)) ∧
      adminDone (adminAdvance cmdAllotDestroy t (refKey r)) r 0 0 j.output := by
  have free : adminHolds t (waitingAs j) = false := by
    unfold adminHolds
    rw [show (waitingAs j).entry.opcode.toNat = 0xF002 from opcode]
    have ready : destroyReady t (inlAllot j) = true := by
      simp only [destroyReady, left, hv, Option.any_some, going, recorded, decide_true, Bool.and_self]
    exact congrArg not ready
  obtain ⟨jobs, time, allots, queues⟩ := finishDestroy_of_no_jobs hv left
  obtain ⟨course, done⟩ := adminAdvance_done (c := cmdAllotDestroy) (y := waitingAs j) job ok free rfl
    ((congrArg (fun m => KMap.get? m (refKey r)) jobs).trans job) rfl rfl time
  exact ⟨(congrArg State.allots course).trans allots, (congrArg State.queues course).trans queues, done⟩

/-- ALLOT_DESTROY of an allotment without jobs and live keys takes it at once, with its queues. -/
theorem allotDestroy_done (h : adminReady cmdAllotDestroy s r j) (wf : KMap.wf s.allots = true)
    (jobs : jobsOf s (inlAllot j) = []) (keys : liveKeys s (inlAllot j) = []) :
    ∃ t, exec (.allotDestroy r) s = .next t ∧ adminDone t r 0 0 j.output ∧ KMap.get? t.allots (inlAllot j) = none ∧
      ∀ p ∈ t.queues, p.1 / 8 ≠ inlAllot j := by
  have opcode : j.entry.opcode.toNat = 0xF002 := h.2.2.1
  obtain ⟨there, alone⟩ : (KMap.get? s.allots (inlAllot j)).isSome ∧ mirrors s = false := by
    obtain ⟨-, -, -, -, -, -, -, passes, alone⟩ := h
    exact ⟨isSome_of_targetFailure (targetFailure_of_destroyCheck (check_of_adminFailure passes).2), by
      simpa [cmdAllotDestroy] using alone⟩
  obtain ⟨recorded, v, records, dropped, hv, going, unrecorded⟩ := destroyRecords_of_empty
    (s := modJob s (refKey r) startedAs) (j := startedAs j) alone ((jobsOf_modJob s _ _ _).trans jobs) keys there
  have kept : KMap.get? recorded.jobs (refKey r) = some (startedAs j) := by
    rw [dropped.jobs]
    exact get?_modJob_same _ h.1
  have follow := destroyFollow_of_destroying (s := modJob recorded (refKey r) (stagedAs [])) (j := stagedAs [] (startedAs j)) hv going
  obtain ⟨job, row⟩ := adminRow_course (w := anyEntry) h rfl rfl rfl rfl (by omega) records kept follow (get?_modJob_same _ kept)
  have left : jobsOf (modJob (modJob recorded (refKey r) (stagedAs [])) (refKey r) (followedAs [])) (inlAllot j) = [] := by
    rw [jobsOf_modJob, jobsOf_modJob, jobsOf, dropped.jobs, ← jobsOf, jobsOf_modJob, jobs]
  obtain ⟨allots, queues, done⟩ := allotDestroy_advance job (status_of_ready h) opcode left hv going unrecorded
  refine ⟨_, congrArg Host.Outcome.next row, done, ?_, fun p hp => ?_⟩
  · rw [allots]
    exact KMap.get?_drop_same _ _ (dropped.wf_allots.trans wf)
  · rw [queues] at hp
    exact of_decide_eq_true (List.mem_filter.mp hp).2

end Sys2Proof.Machine
end

section
/-! SUPPORT. ABORT of a queue (R53, R54, R119). -/
namespace Sys2Proof.Machine
open Sys2Proof

variable {s t : State} {r : JobRef} {j x : Job} {i k : Nat}

/-! ## Aborting the jobs of a queue -/

/-- What an abort does to a job: nothing, a note that leaves how it ends, or its end. -/
theorem abortJob_cases (s : State) (i : Nat) :
    abortJob false s i = s ∨
    (∃ f : Job → Job, abortJob false s i = modJob s i f ∧
      ∀ y, (f y).phase = y.phase ∧ (f y).status = y.status ∧ (f y).output = y.output ∧ (f y).waits = y.waits) ∨
    abortJob false s i = endAborted s i := by
  unfold abortJob
  split
  · exact .inl rfl
  split
  · exact .inr (.inl ⟨_, rfl, fun _ => ⟨rfl, rfl, rfl, rfl⟩⟩)
  split
  · exact .inr (.inl ⟨_, rfl, fun _ => ⟨rfl, rfl, rfl, rfl⟩⟩)
  · exact .inr (.inr rfl)

theorem get?_abortJob_ne (s : State) (h : k ≠ i) : KMap.get? (abortJob false s i).jobs k = KMap.get? s.jobs k := by
  obtain same | ⟨f, noted, -⟩ | ended := abortJob_cases s i
  · rw [same]
  · rw [noted, get?_modJob_ne _ _ h]
  · rw [ended, get?_endAborted_ne s h]

theorem endAborted_regs (s : State) (i : Nat) : (endAborted s i).regs = s.regs :=
  congrArg (fun p => p.2.2.1) (besideEngines_endJob_jobs s i .aborted)

theorem abortJob_regs (s : State) (i : Nat) : (abortJob false s i).regs = s.regs := by
  obtain same | ⟨f, noted, -⟩ | ended := abortJob_cases s i
  · rw [same]
  · rw [noted, modJob_regs]
  · rw [ended, endAborted_regs]

theorem Aborted.abortJob (h : Aborted k s) (i : Nat) : Aborted k (abortJob false s i) := by
  obtain same | ⟨f, noted, ends⟩ | ended := abortJob_cases s i
  · rwa [same]
  · by_cases hi : k = i
    · subst hi
      obtain ⟨y, hy, phase, status, output⟩ := h
      obtain ⟨samePhase, sameStatus, sameOutput, -⟩ := ends y
      exact ⟨f y, noted ▸ get?_modJob_same f hy, samePhase.trans phase, sameStatus.trans status, sameOutput.trans output⟩
    · simpa only [Aborted, get?_abortJob_ne s hi] using h
  · exact ended ▸ h.endAborted i

/-- A job that an abort ends: it waits on no open reservation and is not the admin command in progress. -/
def Abortable (k : Nat) (s : State) : Prop :=
  (∃ x, KMap.get? s.jobs k = some x ∧ onReservation x = false) ∧ s.regs.admJob ≠ some k

theorem aborted_abortJob (h : Abortable k s) : Aborted k (abortJob false s k) := by
  obtain ⟨⟨x, hx, free⟩, other⟩ := h
  have ended : abortJob false s k = endAborted s k := by
    simp only [Machine.abortJob, hx, free, other, Bool.false_eq_true, if_false]
    rfl
  exact ended ▸ aborted_endAborted (by simp [hx])

theorem Abortable.abortJob (h : Abortable k s) (i : Nat) : Abortable k (abortJob false s i) := by
  obtain ⟨⟨x, hx, free⟩, other⟩ := h
  refine ⟨?_, by rwa [abortJob_regs]⟩
  by_cases hi : k = i
  · subst hi
    obtain same | ⟨f, noted, ends⟩ | ended := abortJob_cases s k
    · rw [same]
      exact ⟨x, hx, free⟩
    · rw [noted]
      refine ⟨f x, get?_modJob_same f hx, ?_⟩
      unfold onReservation at free ⊢
      rwa [(ends x).2.2.2]
    · rw [ended]
      exact ⟨_, get?_endAborted_same hx, rfl⟩
  · exact ⟨x, (get?_abortJob_ne s hi).trans hx, free⟩

theorem aborted_abortQueue {a q : Nat} (h : Abortable k s) (hk : k ∈ jobsOfQueue s a q) : Aborted k (abortQueue s a q) := by
  have aborted : Aborted k (abortJobs false s (jobsOfQueue s a q)) :=
    foldl_reaches (P := Abortable k) (fun _ i ht => ht.abortJob i) (fun _ i ht => ht.abortJob i) (fun _ ht => aborted_abortJob ht) hk h
  simpa only [Aborted, abortQueue, (dropDescriptorRead_jobs_gh _ a q).1] using aborted

/-! ## The ABORT command -/

theorem abortBegin_of_queue (scope : inlineField j 50 1 = 0)
    (standing : (allotAt s (inlAllot j)).any (fun v => v.destroying) = false) :
    abortBegin s j = (abortQueue s (inlAllot j) (inlineField j 51 1), []) := by
  simp only [abortBegin, standing, scope, Bool.false_eq_true, if_false, if_true]

theorem abortApply_changes (s : State) (i : Nat) (j : Job) : ∃ e l, abortApply s i j = ({ s with events := e, journal := l }, 0, 0) := by
  unfold abortApply
  split
  · exact ⟨s.events, s.journal, rfl⟩
  · obtain ⟨e, l, h⟩ := logEventAt_changes s 0 0x0002 0xFFFF 0xFF 0xFF 0xFF (leBytes 2 0 ++ leBytes 2 (inlAllot j) ++ leBytes 1 3)
    exact ⟨e, l, congrArg (fun t => (t, 0, 0)) h⟩

theorem execAbortJobs_of_decided (job : KMap.get? (adminRow cmdAbort anyEntry r s).jobs (refKey r) = some x) (phase : x.phase = .decided) :
    execAbortJobs r s = .next (adminRow cmdAbort anyEntry r s) := by
  simp [execAbortJobs, job, phase]

/-- ABORT_JOBS is the command's row, with a note on its own job where a target waits on an open reservation. -/
theorem execAbortJobs_cases (r : JobRef) (s : State) :
    execAbortJobs r s = .next (adminRow cmdAbort anyEntry r s) ∨
      execAbortJobs r s = .next (modJob (adminRow cmdAbort anyEntry r s) (refKey r) (setFlag flagAbortExtended)) := by
  simp only [execAbortJobs]
  split
  · split
    · exact .inr rfl
    · exact .inl rfl
  · exact .inl rfl

/-- The effect of ABORT, once no job of its queue is left. -/
theorem abort_advance (job : KMap.get? t.jobs (refKey r) = some (waitingAs j)) (ok : j.status = .ok)
    (opcode : j.entry.opcode.toNat = 0xF008) (scope : inlineField j 50 1 = 0)
    (left : jobsOfQueue t (inlAllot j) (inlineField j 51 1) = []) :
    (∀ k, k ≠ refKey r → KMap.get? (adminAdvance cmdAbort t (refKey r)).jobs k = KMap.get? t.jobs k) ∧
      adminDone (adminAdvance cmdAbort t (refKey r)) r 0 0 j.output := by
  have free : adminHolds t (waitingAs j) = false := by
    unfold adminHolds
    rw [show (waitingAs j).entry.opcode.toNat = 0xF008 from opcode]
    have targets : abortTargets t (waitingAs j) = [] := by
      simp only [abortTargets, show inlineField (waitingAs j) 50 1 = 0 from scope, if_true,
        show jobsOfQueue t (inlAllot (waitingAs j)) (inlineField (waitingAs j) 51 1) = [] from left, List.filter_nil]
    exact decide_eq_false (not_not.mpr targets)
  obtain ⟨e, l, applied⟩ := abortApply_changes t (refKey r) (waitingAs j)
  obtain ⟨course, done⟩ := adminAdvance_done (c := cmdAbort) (y := waitingAs j) job ok free applied job rfl rfl rfl
  refine ⟨fun k hk => ?_, done⟩
  rw [course, get?_modJob_ne _ _ hk]

/-- ABORT of a queue without jobs completes at once and leaves every job. -/
theorem abort_of_no_jobs (h : adminReady cmdAbort s r j) (scope : inlineField j 50 1 = 0)
    (standing : (allotAt s (inlAllot j)).any (fun v => v.destroying) = false)
    (empty : jobsOfQueue s (inlAllot j) (inlineField j 51 1) = []) :
    ∃ t, exec (.abortJobs r) s = .next t ∧ adminDone t r 0 0 j.output ∧
      ∀ k, k ≠ refKey r → KMap.get? t.jobs k = KMap.get? s.jobs k := by
  have opcode : j.entry.opcode.toNat = 0xF008 := h.2.2.1
  have none : jobsOfQueue (modJob s (refKey r) startedAs) (inlAllot (startedAs j)) (inlineField (startedAs j) 51 1) = [] :=
    (jobsOfQueue_modJob s _ _ _ _).trans empty
  have records := abortBegin_of_queue (s := modJob s (refKey r) startedAs) (j := startedAs j) scope standing
  rw [abortQueue_of_no_jobs none] at records
  have jobs := (dropDescriptorRead_jobs_gh (modJob s (refKey r) startedAs) (inlAllot (startedAs j)) (inlineField (startedAs j) 51 1)).1
  generalize dropDescriptorRead (modJob s (refKey r) startedAs) _ _ = recorded at records jobs
  have kept : KMap.get? recorded.jobs (refKey r) = some (startedAs j) := by
    rw [jobs]
    exact get?_modJob_same _ h.1
  obtain ⟨job, row⟩ := adminRow_course (w := anyEntry) h rfl rfl rfl rfl (by omega) records kept rfl (get?_modJob_same _ kept)
  obtain ⟨others, done⟩ := abort_advance job (status_of_ready h) opcode scope
    (by rw [jobsOfQueue_modJob, jobsOfQueue_modJob, jobsOfQueue_congr jobs, jobsOfQueue_modJob, empty])
  rw [← row] at done others
  refine ⟨_, ?_, done, fun k hk => ?_⟩
  · obtain ⟨y, hy, phase, -⟩ := done
    exact execAbortJobs_of_decided hy phase
  · rw [others k hk, get?_modJob_ne _ _ hk, get?_modJob_ne _ _ hk, jobs, get?_modJob_ne _ _ hk]

theorem Aborted.modJob_ne (h : Aborted k s) (hk : k ≠ i) (f : Job → Job) : Aborted k (modJob s i f) := by
  simpa only [Aborted, get?_modJob_ne s f hk] using h

theorem adminStage_abort (job : KMap.get? t.jobs i = some x) :
    ∃ f, adminStage cmdAbort t i = modJob (abortBegin t x).1 i f := by
  simp only [adminStage, job, cmdAbort, Bool.and_false, Bool.false_eq_true, if_false]
  exact ⟨_, rfl⟩

theorem Aborted.abortJobs (h : Aborted k s) (l : List Nat) : Aborted k (abortJobs false s l) :=
  foldl_keeps (Aborted k) (fun _ i ht => ht.abortJob i) l h

theorem Aborted.abortBegin (h : Aborted k s) (j : Job) : Aborted k (abortBegin s j).1 := by
  simp only [Machine.abortBegin]
  split
  · exact h
  split
  · simpa only [Aborted, abortQueue, (dropDescriptorRead_jobs_gh _ _ _).1] using h.abortJobs _
  · simpa only [Aborted, abortAllotment, (foldl_dropDescriptorRead_jobs_gh _ _ _).1] using h.abortJobs _

theorem Aborted.adminFinish (h : Aborted k s) (hk : k ≠ i) : Aborted k (adminFinish cmdAbort s i) := by
  cases job : KMap.get? s.jobs i with
  | none => simpa only [Machine.adminFinish, job] using h
  | some x =>
    obtain ⟨e, l, applied⟩ := abortApply_changes s i x
    rw [adminFinish_of_apply job applied]
    exact Aborted.modJob_ne h hk _

/-- An ABORT leaves the jobs ended that it has ended. -/
theorem Aborted.adminAdvance (h : Aborted k t) (hk : k ≠ i) : Aborted k (adminAdvance cmdAbort t i) := by
  unfold Machine.adminAdvance
  split
  · exact h
  next x job =>
    split
    · split
      · split
        · exact h
        · obtain ⟨f, stage⟩ := adminStage_abort job
          exact stage ▸ (h.abortBegin x).modJob_ne hk f
      split
      · exact h.modJob_ne hk _
      split
      · exact h
      · exact h.adminFinish hk
    · exact h

/-- ABORT of a queue ends its jobs that wait on no open reservation. -/
theorem abort_ends (h : adminReady cmdAbort s r j) (scope : inlineField j 50 1 = 0)
    (standing : (allotAt s (inlAllot j)).any (fun v => v.destroying) = false)
    (hk : k ∈ jobsOfQueue s (inlAllot j) (inlineField j 51 1)) (other : k ≠ refKey r) (hx : KMap.get? s.jobs k = some x)
    (free : onReservation x = false) (admin : s.regs.admJob ≠ some k) :
    ∃ t y, exec (.abortJobs r) s = .next t ∧ KMap.get? t.jobs k = some y ∧ y.phase = .decided ∧ y.status = .aborted ∧ y.output = [] := by
  obtain ⟨phase, waits, none, first, -, -, -⟩ := running_of_ready h
  have opcode : j.entry.opcode.toNat = 0xF008 := h.2.2.1
  have direct : adminHoldsFirst (modJob s (refKey r) startedAs) (startedAs j) = false := by
    simp only [adminHoldsFirst, show (startedAs j).entry.opcode.toNat = 0xF008 from opcode]
    rfl
  have abortable : Abortable k (modJob s (refKey r) startedAs) :=
    ⟨⟨x, (get?_modJob_ne s _ other).trans hx, free⟩, admin⟩
  have member : k ∈ jobsOfQueue (modJob s (refKey r) startedAs) (inlAllot (startedAs j)) (inlineField (startedAs j) 51 1) :=
    (jobsOfQueue_modJob s _ _ _ _).symm ▸ hk
  have records := abortBegin_of_queue (s := modJob s (refKey r) startedAs) (j := startedAs j) scope standing
  have ended : Aborted k (adminRow cmdAbort anyEntry r s) := by
    rw [adminRow_of_ready h rfl rfl rfl, adminSettle,
      adminAdvance_records (get?_modJob_same _ h.1) phase waits none first direct (Bool.and_false _)]
    have begun : Aborted k (abortBegin (modJob s (refKey r) startedAs) (startedAs j)).1 := by
      rw [records]
      exact aborted_abortQueue abortable member
    exact ((begun.modJob_ne other _).adminAdvance other).adminAdvance other
  obtain row | row := execAbortJobs_cases r s
  · obtain ⟨y, hy⟩ := ended
    exact ⟨_, y, row, hy⟩
  · obtain ⟨y, hy⟩ := ended.modJob_ne other (setFlag flagAbortExtended)
    exact ⟨_, y, row, hy⟩

end Sys2Proof.Machine
end

section
/-! The ends of reservations, TWIN_REJOIN, the token of DEBUG_UNLOCK, and O44 (R54, R120, R359, R446). -/
namespace Sys2Proof.Machine
open Sys2Proof

variable {s t : State} {r : JobRef} {j x : Job}

/-! ## The ends of reservations -/

/-- The bound of an extended abort ends the job that still waits on a reservation. -/
theorem abortReservationDetach_ends (hx : KMap.get? s.jobs (refKey r) = some x) (aborted : x.aborted = true)
    (waits : onReservation x = true) (due : x.decidedAt + 4096 ≤ now s) (stays : x.discard = false) :
    ∃ t y, exec (.abortReservationDetach r) s = .next t ∧ KMap.get? t.jobs (refKey r) = some y ∧
        y.phase = .decided ∧ y.status = .aborted ∧ y.output = [] ∧ y.waits = [] := by
  have row : ∃ u : State, u.jobs = s.jobs ∧ execAbortReservationDetach r s = .next (endAborted u (refKey r)) := by
    simp only [execAbortReservationDetach, hx, aborted, waits, due, stays, decide_true, Bool.and_self, if_true, Bool.false_eq_true,
      if_false]
    refine ⟨_, ?_, rfl⟩
    refine foldl_keeps (fun t : State => t.jobs = s.jobs) (fun t w ht => ?_) _ rfl
    cases w <;> exact ht
  obtain ⟨u, jobs, row⟩ := row
  exact ⟨_, _, row, get?_endAborted_same (jobs ▸ hx), rfl, rfl, rfl, rfl⟩

/-- The bound of a key's destruction detaches its open reservation. -/
theorem keyReservationDetach_detaches {n : Nat} {key : Key} (hj : KMap.get? s.jobs (refKey r) = some j) (opcode : j.entry.opcode = 0xF009)
    (phase : j.phase = .running) (due : j.dispatch + 4096 ≤ now s)
    (found : findKey s (handleAllot (kaHandle j)) (kaHandle j) = some (false, n, key)) :
    exec (.keyReservationDetach r) s = .next { s with ice.keys := KMap.adjust s.ice.keys n fun x =>
      { x with stateful := x.stateful.map fun t => { t with detached := true } } } := by
  have code : j.entry.opcode.toNat = 0xF009 := by rw [opcode]; rfl
  change execKeyReservationDetach r s = _
  simp only [execKeyReservationDetach, hj, code, phase, due, found, decide_true, Bool.true_or, Bool.and_self, if_true]

/-! ## TWIN_REJOIN -/

theorem rejoinMet_of_no_hello (h : s.bridge.helloPeer = []) : rejoinMet s = s := by
  simp only [rejoinMet, h, ne_eq, not_true_eq_false, decide_false, Bool.and_false, Bool.false_eq_true, if_false]

/-- A rejoin that begins asks the twin and makes its record; it waits while no request of the twin is there. -/
theorem startRejoin_begins (auto : Bool) (job : Option Nat) (idle : s.bridge.rejoining = false) (alone : s.bridge.helloPeer = []) :
    (startRejoin s auto job).jobs = s.jobs ∧ (startRejoin s auto job).bridge.rejoining = true ∧
      (startRejoin s auto job).bridge.ceremony = 1 ∧ (startRejoin s auto job).bridge.rejoinJob = job ∧
      ∃ b, (startRejoin s auto job).journal.pending = s.journal.pending ++ [b] ∧ b.type = 7 ∧ b.subtype = 3 := by
  unfold startRejoin
  rw [if_neg (by simp only [idle, Bool.false_eq_true, not_false_eq_true])]
  extract_lets p req base bridge begun
  rw [rejoinMet_of_no_hello (show (postFrame (postTwin begun 3).1 deviceHolder 0x30 0 req).bridge.helloPeer = [] from alone)]
  exact ⟨rfl, rfl, rfl, rfl, _, rfl, rfl, rfl⟩

/-- TWIN_REJOIN begins the rejoin and waits for its end. -/
theorem twinRejoin_begins (h : adminReady cmdTwinRejoin s r j) (idle : s.bridge.rejoining = false)
    (alone : s.bridge.helloPeer = []) (admin : s.regs.admJob = some (refKey r)) :
    ∃ t, exec (.twinRejoin r) s = .next t ∧ t.bridge.rejoining = true ∧ t.bridge.ceremony = 1 ∧
      t.bridge.rejoinJob = some (refKey r) ∧ adminAwaits t r [] ∧
      ∃ b, t.journal.pending = s.journal.pending ++ [b] ∧ b.type = 7 ∧ b.subtype = 3 := by
  have opcode : j.entry.opcode.toNat = 0xF017 := h.2.2.1
  obtain ⟨jobs, rejoining, ceremony, job, record⟩ :=
    startRejoin_begins (s := modJob s (refKey r) startedAs) false s.regs.admJob idle alone
  have kept : KMap.get? (startRejoin (modJob s (refKey r) startedAs) false s.regs.admJob).jobs (refKey r) = some (startedAs j) := by
    rw [jobs]
    exact get?_modJob_same _ h.1
  obtain ⟨waiting, row⟩ := adminRow_course (w := anyEntry)
    (recorded := startRejoin (modJob s (refKey r) startedAs) false s.regs.admJob) h rfl rfl rfl rfl (by omega) rfl kept rfl
    (get?_modJob_same _ kept)
  generalize startRejoin (modJob s (refKey r) startedAs) false s.regs.admJob = recorded at rejoining ceremony job record waiting row
  have held : adminHolds (modJob (modJob recorded (refKey r) (stagedAs [])) (refKey r) (followedAs [])) (waitingAs j) = true := by
    unfold adminHolds
    rw [show (waitingAs j).entry.opcode.toNat = 0xF017 from opcode]
    exact congrArg Option.isSome (job.trans admin)
  rw [adminAdvance_holds waiting rfl rfl held] at row
  exact ⟨_, congrArg Host.Outcome.next row, rejoining, ceremony, job.trans admin, ⟨_, waiting, rfl, rfl⟩, record⟩

/-! ## The token of DEBUG_UNLOCK -/

theorem debugLife_of_tokenCheck (h : debugTokenCheck s j = none) : debugLife s j = none := by
  unfold debugTokenCheck at h
  split at h
  · cases h
  all_goals assumption

/-- A token that passes its checks spends the nonce. -/
theorem spendNonce_of_ready (h : adminReady cmdDebugToken s r j) :
    spendNonce (modJob s (refKey r) startedAs) j = { modJob s (refKey r) startedAs with lc.nonce := none } := by
  obtain ⟨-, -, -, -, -, -, -, passes, -⟩ := h
  obtain ⟨gate, check⟩ := check_of_adminFailure passes
  have started : adminGate cmdDebugToken (modJob s (refKey r) startedAs) j = none := gate
  have alive : debugLife (modJob s (refKey r) startedAs) j = none := debugLife_of_tokenCheck check
  simp only [spendNonce, started, alive, Option.isNone_none, Bool.and_self, if_true]

theorem debugFollow_of_alone (tenantless : tenants s = []) (paired : s.bridge.paired = false) (unwritten : vaultWritable s = false) :
    debugFollow s j = (s, []) := by
  simp only [debugFollow, tenantless, List.foldl_nil, paired, unwritten, Bool.false_and, Bool.false_eq_true, if_false]

theorem repeatSlice_ends (n : Nat) (x : Job) : (repeatSlice n x).status = x.status ∧ (repeatSlice n x).output = x.output := by
  unfold repeatSlice
  split <;> exact ⟨rfl, rfl⟩

theorem get?_abandonRunning {k : Nat} (hx : KMap.get? s.jobs k = some x) :
    ∃ y, KMap.get? (abandonRunning s).jobs k = some y ∧ y.status = x.status ∧ y.output = x.output := by
  simp only [abandonRunning, KMap.get?_mapAll, hx, Option.map_some]
  refine ⟨_, rfl, ?_⟩
  split
  · exact repeatSlice_ends (now s) x
  · exact ⟨rfl, rfl⟩

/-- What a token does to a device whose Vault is not written. -/
theorem debugTokenApply_of_unwritten (i : Nat) (unwritten : vaultWritable s = false) :
    ∃ u, debugTokenApply s i j = (u, 0, 0) ∧ now u = now s ∧ u.vault.mounted = false ∧
      u.lc = { s.lc with debug := true, scope := s.lc.scope ||| tokenScope j, tokens := s.lc.tokens + 1 } ∧
      ∀ k x, KMap.get? s.jobs k = some x → ∃ y, KMap.get? u.jobs k = some y ∧ y.status = x.status ∧ y.output = x.output := by
  have cleared : vaultWritable (volatileClear (abandonRunning s)) = false := unwritten
  simp only [debugTokenApply, unmountVault, cleared, Bool.false_eq_true, if_false]
  exact ⟨_, rfl, rfl, rfl, rfl, fun k x hx => get?_abandonRunning hx⟩

/-- The row of a token is its command, on the state that the token leaves without a nonce. -/
theorem execDebugUnlockToken_of_ready (h : adminReady cmdDebugToken s r j) (aux : j.entry.aux = 1) :
    execDebugUnlockToken r s =
      .next (adminSettle cmdDebugToken { modJob s (refKey r) startedAs with lc.nonce := none } (refKey r)) := by
  rw [← spendNonce_of_ready h, ← adminStart_of_ready h rfl rfl]
  obtain ⟨job, dispatched, opcode, -, -, -, -, passes, -⟩ := h
  have code : j.entry.opcode.toNat = 0xF010 := opcode
  simp only [execDebugUnlockToken, job, dispatched, code, aux, (check_of_adminFailure passes).1, Option.isNone_none]
  rfl

/-- The effect of a token. -/
theorem debugToken_advance (job : KMap.get? t.jobs (refKey r) = some (waitingAs j)) (ok : j.status = .ok)
    (opcode : j.entry.opcode.toNat = 0xF010) (unwritten : vaultWritable t = false) :
    (adminAdvance cmdDebugToken t (refKey r)).lc =
        { t.lc with debug := true, scope := t.lc.scope ||| tokenScope j, tokens := t.lc.tokens + 1 } ∧
      (adminAdvance cmdDebugToken t (refKey r)).vault.mounted = false ∧
      adminDone (adminAdvance cmdDebugToken t (refKey r)) r 0 0 j.output := by
  have free : adminHolds t (waitingAs j) = false := by
    unfold adminHolds
    rw [show (waitingAs j).entry.opcode.toNat = 0xF010 from opcode]
    rfl
  obtain ⟨u, applied, time, mounted, lc, jobs⟩ := debugTokenApply_of_unwritten (j := waitingAs j) (refKey r) unwritten
  obtain ⟨y, hy, status, output⟩ := jobs _ _ job
  obtain ⟨course, done⟩ := adminAdvance_done (c := cmdDebugToken) job ok free applied hy status output time
  exact ⟨(congrArg State.lc course).trans lc, (congrArg (fun t => t.vault.mounted) course).trans mounted, done⟩

/-- DEBUG_UNLOCK's token unlocks an unpaired device without tenants and without a Vault at once. -/
theorem debugUnlockToken_done (h : adminReady cmdDebugToken s r j) (aux : j.entry.aux = 1) (unwritten : vaultWritable s = false)
    (tenantless : tenants s = []) (paired : s.bridge.paired = false) :
    ∃ t, exec (.debugUnlockToken r) s = .next t ∧ adminDone t r 0 0 j.output ∧ t.lc.debug = true ∧
      t.lc.scope = s.lc.scope ||| tokenScope j ∧ t.lc.tokens = s.lc.tokens + 1 ∧ t.lc.nonce = none ∧
      t.vault.mounted = false := by
  have opcode : j.entry.opcode.toNat = 0xF010 := h.2.2.1
  have row := execDebugUnlockToken_of_ready h aux
  have start : KMap.get? ({ modJob s (refKey r) startedAs with lc.nonce := none } : State).jobs (refKey r) = some (startedAs j) :=
    get?_modJob_same _ h.1
  have alone : (mirrors { modJob s (refKey r) startedAs with lc.nonce := none } && cmdDebugToken.markS (startedAs j)) = false := by
    have unpaired : mirrors { modJob s (refKey r) startedAs with lc.nonce := none } = false :=
      Bool.and_eq_false_imp.mpr fun pair => absurd pair (Bool.eq_false_iff.mp paired)
    rw [unpaired, Bool.false_and]
  have follow := debugFollow_of_alone (j := stagedAs [] (startedAs j))
    (s := modJob { modJob s (refKey r) startedAs with lc.nonce := none } (refKey r) (stagedAs [])) tenantless paired unwritten
  obtain ⟨job, course⟩ := adminSettle_course h start (by omega) alone rfl start follow (get?_modJob_same _ start)
  obtain ⟨lc, mounted, done⟩ := debugToken_advance job (status_of_ready h) opcode unwritten
  rw [← course] at lc mounted done
  exact ⟨_, row, done, congrArg (fun l => l.debug) lc, congrArg (fun l => l.scope) lc, congrArg (fun l => l.tokens) lc,
    congrArg (fun l => l.nonce) lc, mounted⟩

/-- Settles O44, command by command: each goes through its stages in the tick of its row. -/
theorem adminWork : Obligations.AdminWork := by
  intro s r j
  refine ⟨queueDestroy_done, allotDestroy_done, fun h scope standing => ⟨abort_of_no_jobs h scope standing, ?_⟩,
    fun x => abortReservationDetach_ends, fun n key => keyReservationDetach_detaches, twinRejoin_begins, debugUnlockToken_done⟩
  exact fun k x hk other hx free admin => abort_ends h scope standing hk other hx free admin

end Sys2Proof.Machine
end

section
/-! SUPPORT. The functions of the host link, the events and messages of the link, and the configuration reads, with O9
(03_host_link.md R56, R58, R59, R69, R72). -/
namespace Sys2Proof.Machine
open Sys2Proof

/-! ## A function's configuration state -/

@[simp] theorem funcAt_setFunc_same (s : State) (f : Nat) (v : Func) : funcAt (setFunc s f v) f = v := by
  simp [funcAt, setFunc, KMap.getD]

theorem funcAt_setFunc_ne (s : State) {f i : Nat} (v : Func) (h : i ≠ f) : funcAt (setFunc s f v) i = funcAt s i := by
  simp [funcAt, setFunc, KMap.getD, KMap.get?_put_ne _ _ h]

theorem funcAt_congr {s t : State} (h : t.link.funcs = s.link.funcs) (i : Nat) : funcAt t i = funcAt s i := by
  simp only [funcAt, h]

/-! ## Events of the link, and what is handed to the transaction layer -/

/-- The event of class LINK that an event of the host interface enters. -/
def linkEvent (s : State) (code allot : W16) (detail : List Byte) : Event :=
  { first := false, cls := 4, code := code, allot := allot, unit := 15, source := 0xFF, tick := now s, count := 1,
    detail := detail12 detail }

/-- An event of the link is entered in the log and in nothing else. -/
theorem logLink_eq (s : State) (code allot : W16) (detail : List Byte) :
    logLink s code allot detail = { s with events := enterEvent s.events (linkEvent s code allot detail) } := rfl

theorem send_of_credit {s : State} (o : Outbound) (h : s.link.credit = true) :
    send s o = { s with link.out := s.link.out ++ [o] } := by
  simp [send, h]

theorem send_of_no_credit {s : State} (o : Outbound) (h : s.link.credit = false) :
    send s o = { s with link.held := s.link.held ++ [o] } := by
  simp [send, h]

/-- A posted item changes what has gone out and what is held, and nothing else. -/
theorem send_changes (s : State) (o : Outbound) : ∃ a b, send s o = { s with link := { s.link with out := a, held := b } } := by
  unfold send
  split
  · exact ⟨_, s.link.held, rfl⟩
  · exact ⟨s.link.out, _, rfl⟩

/-! ## The dwords of configuration space -/

theorem mergeBytes_whole (old new : W32) : mergeBytes old new 15#4 = new := by
  have whole : mergeBytes old new 15#4 = BitVec.ofNat 32 (leNat (leBytes 4 new.toNat)) := by
    simp [mergeBytes, leBytes, List.range_succ, Nat.div_div_eq_div_mul]
  rw [whole, leNat_leBytes]
  exact BitVec.eq_of_toNat_eq (by simp [Nat.mod_eq_of_lt new.isLt])

/-- The identity dwords of PF0 and of the VFs (Table 3-2). -/
theorem configWord_identity (s : State) :
    configWord s 0 0 = BitVec.ofNat 32 (0xC96B + 65536 * pfDeviceId s) ∧
    (∀ f, configWord s f 8 = 0x10800010 ∧ configWord s f 0x2C = s.otp.subsystem) ∧
    (∀ f, f ≠ 0 → configWord s f 0 = 0xFFFFFFFF) := by
  refine ⟨rfl, fun f => ⟨rfl, ?_⟩, fun f hf => ?_⟩
  · exact BitVec.ofNat_toNat ..
  · simp [configWord, identityWord, hf]

/-- A write of a BAR dword of PF0 is kept, and does nothing else. -/
theorem configWrite_bar (s : State) {off : Nat} (h : off = 0x10 ∨ off = 0x18 ∨ off = 0x20) (w : W32) :
    configWrite s 0 off w = setFunc s 0 { funcAt s 0 with config := KMap.put (funcAt s 0).config off w } := by
  have all : w &&& 0xFFFFFFFF#32 = w := by simpa using BitVec.and_allOnes (x := w)
  obtain rfl | rfl | rfl := h <;> simp [configWrite, keepBits, keptBits, writeSriov, all]

/-- What a BAR dword of PF0 reads after all ones were written: the size of its BAR and its type (Table 3-4). -/
theorem configWord_bar_sized (s : State) {off : Nat} {w : W32}
    (h : off = 0x10 ∧ w = 0xFFFF0004 ∨ off = 0x18 ∧ w = 0xFF00000C ∨ off = 0x20 ∧ w = 0xFFFFE004) :
    configWord (configWrite s 0 off 0xFFFFFFFF) 0 off = w := by
  rw [configWrite_bar s (by omega)]
  obtain ⟨rfl, rfl⟩ | ⟨rfl, rfl⟩ | ⟨rfl, rfl⟩ := h <;> simp [configWord, identityWord, barWord, KMap.getD]

/-! ## Configuration requests -/

theorem exec_configRequest (f : Fin 64) (off : BitVec 12) (e : BitVec 4) (write : Option W32) (s : State) :
    exec (.configRequest f off e write) s = execConfigRequest f off e write s := rfl

theorem exec_configRequest_of_none {s : State} {f : Fin 64} (h : s.link.up = false ∨ funcExists s f.val = false)
    (off : BitVec 12) (e : BitVec 4) (write : Option W32) : exec (.configRequest f off e write) s = .next s := by
  obtain h | h := h <;> simp [exec_configRequest, execConfigRequest, h]

theorem exec_configRequest_read {s : State} {f : Fin 64} (up : s.link.up = true) (h : funcExists s f.val = true)
    (off : BitVec 12) (e : BitVec 4) : exec (.configRequest f off e none) s =
      .next (reply s ((configWord s f.val (off.toNat / 4 * 4)).setWidth 64)) := by
  simp [exec_configRequest, execConfigRequest, up, h]

theorem exec_configRequest_write {s : State} {f : Fin 64} (up : s.link.up = true) (h : funcExists s f.val = true)
    (off : BitVec 12) (w : W32) : exec (.configRequest f off 15 (some w)) s =
      .next (configWrite s f.val (off.toNat / 4 * 4) w) := by
  simp [exec_configRequest, execConfigRequest, up, h, mergeBytes_whole]

/-- Settles O9: a read answers its dword (`exec_configRequest_read`); the dwords are those of the header's table. -/
theorem configurationReads : Obligations.ConfigurationReads := by
  refine ⟨fun s f off e => ⟨fun up h => exec_configRequest_read up h off e, fun h => exec_configRequest_of_none h off e⟩,
    fun s => ?_⟩
  obtain ⟨pf, header, vf⟩ := configWord_identity s
  have device (n : Nat) (h : pfDeviceId s = n) : configWord s 0 0 = BitVec.ofNat 32 (0xC96B + 65536 * n) := h ▸ pf
  refine ⟨fun v => device 0x9620 ?_, fun v => device 0x9618 ?_, fun v => device 0x9612 ?_, header, vf, fun up off w h => ?_⟩
  · simp [pfDeviceId, variant, v]
  · simp [pfDeviceId, variant, v]
  · simp [pfDeviceId, variant, v]
  · have aligned : off.toNat / 4 * 4 = off.toNat := by
      obtain ⟨rfl, -⟩ | ⟨rfl, -⟩ | ⟨rfl, -⟩ := h <;> rfl
    have bar : off.toNat = 0x10 ∧ w = 0xFFFF0004 ∨ off.toNat = 0x18 ∧ w = 0xFF00000C ∨ off.toNat = 0x20 ∧ w = 0xFFFFE004 := by
      obtain ⟨rfl, rfl⟩ | ⟨rfl, rfl⟩ | ⟨rfl, rfl⟩ := h <;> simp
    have written := exec_configRequest_write (s := s) (f := 0) up rfl off 0xFFFFFFFF
    rw [aligned] at written
    have moved := configWrite_bar s (off := off.toNat) (by omega) 0xFFFFFFFF
    exact ⟨_, written, configWord_bar_sized s bar, by rw [show (0 : Fin 64).val = 0 from rfl, moved]; exact ⟨rfl, rfl, rfl, rfl⟩⟩

end Sys2Proof.Machine
end

section
/-! SUPPORT. A completion is written over its entry, and a queue's moderation sends or pends its message, with O22
(03_host_link.md R68, R69; 04_rings.md R81, R84). -/
namespace Sys2Proof.Machine
open Sys2Proof

variable {s t u : State} {k : Nat} {j : Job}

/-! ## Posted items in order -/

/-- Hands posted items to the transaction layer, one after another (R66). -/
def sendAll (s : State) (l : List Outbound) : State := l.foldl send s

theorem sendAll_link_of_credit (l : List Outbound) (h : s.link.credit = true) :
    (sendAll s l).link = { s.link with out := s.link.out ++ l } := by
  induction l generalizing s with
  | nil => simp [sendAll]
  | cons o l ih =>
    have next := send_of_credit o h
    rw [sendAll, List.foldl_cons, next, ← sendAll, ih (by exact h)]
    simp

theorem sendAll_link_of_no_credit (l : List Outbound) (h : s.link.credit = false) :
    (sendAll s l).link = { s.link with held := s.link.held ++ l } := by
  induction l generalizing s with
  | nil => simp [sendAll]
  | cons o l ih =>
    have next := send_of_no_credit o h
    rw [sendAll, List.foldl_cons, next, ← sendAll, ih (by exact h)]
    simp

theorem send_link_congr (h : t.link = s.link) (o : Outbound) : (send t o).link = (send s o).link := by
  simp only [send, h]
  split <;> rfl

theorem sendAll_link_congr (h : t.link = s.link) (l : List Outbound) : (sendAll t l).link = (sendAll s l).link := by
  induction l generalizing s t with
  | nil => exact h
  | cons o l ih => exact ih (send_link_congr h o)

/-- Posted items change the link alone. -/
theorem sendAll_changes (s : State) (l : List Outbound) : ∃ n, sendAll s l = { s with link := n } := by
  induction l generalizing s with
  | nil => exact ⟨s.link, rfl⟩
  | cons o l ih =>
    obtain ⟨a, b, h⟩ := send_changes s o
    obtain ⟨n, hn⟩ := ih (send s o)
    exact ⟨n, by rw [sendAll, List.foldl_cons, ← sendAll, hn, h]⟩

/-! ## What bears on the writes of a completion -/

/-- The link, the registers, the queues and the framing of jobs are as they were: a completion is written the same. -/
structure WritesSame (s t : State) : Prop where
  link : t.link = s.link
  regs : t.regs = s.regs
  queues : t.queues = s.queues
  framing : ∀ k, jobSealed t k = jobSealed s k

theorem WritesSame.trans (h : WritesSame s t) (g : WritesSame t u) : WritesSame s u :=
  ⟨g.link.trans h.link, g.regs.trans h.regs, g.queues.trans h.queues, fun k => (g.framing k).trans (h.framing k)⟩

theorem WritesSame.of_eq (link : t.link = s.link) (regs : t.regs = s.regs) (queues : t.queues = s.queues)
    (allots : t.allots = s.allots) : WritesSame s t :=
  ⟨link, regs, queues, fun k => by rw [jobSealed, allots, jobSealed]⟩

theorem WritesSame.refl (s : State) : WritesSame s s := .of_eq rfl rfl rfl rfl

theorem writesSame_modAllot (s : State) (a : Nat) {f : Allotment → Allotment} (h : ∀ v, (f v).isSealed = v.isSealed) :
    WritesSame s (modAllot s a f) := by
  refine ⟨rfl, rfl, rfl, fun k => ?_⟩
  unfold jobSealed modAllot
  by_cases hk : keyAllot k = a
  · subst hk
    simp [Option.map_map, Function.comp_def, h]
  · rw [KMap.get?_adjust_ne _ _ hk]

theorem writesSame_bnComplete (s : State) (k : Nat) (j : Job) : WritesSame s (bnComplete s k j) := by
  simp only [bnComplete]
  split_ifs
  · have freed : WritesSame s { s with kept := KMap.keep s.kept fun x _ => decide (x / 8 ≠ keyAllot k) } := .of_eq rfl rfl rfl rfl
    exact freed.trans (writesSame_modAllot _ _ fun _ => rfl)
  · exact .of_eq rfl rfl rfl rfl
  · exact .refl s

theorem writesSame_digestComplete (s : State) (k : Nat) (j : Job) : WritesSame s (digestComplete s k j) := by
  simp only [digestComplete]
  split
  · exact .of_eq rfl rfl rfl rfl
  · exact .refl s
  · exact .of_eq rfl rfl rfl rfl
  · exact .of_eq rfl rfl rfl rfl
  · split_ifs
    · exact .refl s
    · exact .refl s
    · exact .of_eq rfl rfl rfl rfl

/-- A completion's effects do not bear on how it is written. -/
theorem writesSame_completionEffects (s : State) (k : Nat) (j : Job) : WritesSame s (completionEffects s k j) := by
  unfold completionEffects
  extract_lets +onlyGivenNames a
  split
  · exact .refl s
  extract_lets +onlyGivenNames ice slotted
  have slot : WritesSame s slotted := by
    unfold slotted
    split
    · dsimp only
      split_ifs <;> exact .of_eq rfl rfl rfl rfl
    · exact .refl s
  clear_value slotted
  extract_lets +onlyGivenNames origin pub key ice' resided
  have resident : WritesSame s resided := by
    unfold resided
    split
    · exact slot.trans (.of_eq rfl rfl rfl rfl)
    · exact slot
  clear_value resided
  refine resident.trans ?_
  split
  · exact .of_eq rfl rfl rfl rfl
  · exact .of_eq rfl rfl rfl rfl
  · exact writesSame_modAllot _ a fun _ => rfl
  · split_ifs
    · exact writesSame_bnComplete _ k j
    · exact writesSame_digestComplete _ k j
    · exact .refl _

theorem writesSame_endRawMode (s : State) (j : Job) : WritesSame s (endRawMode s j) := by
  unfold endRawMode
  split
  · exact .of_eq rfl rfl rfl rfl
  · exact .refl s

/-! ## The job leaves -/

theorem leaveLanes_changes (s : State) (k : Nat) : ∃ l, leaveLanes s k = { s with units := l } := by
  unfold leaveLanes
  split
  · split
    · exact ⟨s.units, rfl⟩
    · exact ⟨_, rfl⟩
  · exact ⟨s.units, rfl⟩

theorem removeJob_link_regs (s : State) (k : Nat) : (removeJob s k).link = s.link ∧ (removeJob s k).regs = s.regs := by
  obtain ⟨l, h⟩ := leaveLanes_changes s k
  simp only [removeJob, h]
  exact ⟨rfl, rfl⟩

theorem countNotice_link_regs (s : State) (k : Nat) (j : Job) :
    (countNotice s k j).link = s.link ∧ (countNotice s k j).regs = s.regs := by
  unfold countNotice
  split <;> exact ⟨rfl, rfl⟩

theorem freeResidence_link_regs (s : State) (j : Job) : (freeResidence s j).link = s.link ∧ (freeResidence s j).regs = s.regs := by
  have h := besideEngines_freeResidence s j
  simp only [besideEngines, Prod.mk.injEq] at h
  exact ⟨h.2.2.2.2.2.2.2, h.2.2.1⟩

theorem releaseEngines_link_regs (s : State) (k : Nat) (j : Job) :
    (releaseEngines s k j).link = s.link ∧ (releaseEngines s k j).regs = s.regs := by
  have h := besideEngines_releaseEngines s k j
  simp only [besideEngines, Prod.mk.injEq] at h
  exact ⟨h.2.2.2.2.2.2.2, h.2.2.1⟩

/-! ## The writes of a completion -/

/-- The bytes of a completed job's output that are still to be written. -/
def outputLeft (s : State) (k : Nat) (j : Job) : List Byte := (outputBytes s k j).drop j.written

/-- The 64 bytes that the completion writes over its entry. -/
def completionOf (s : State) (k : Nat) (j : Job) : List Byte :=
  completionBytes j (framed s k j) (j.written + (outputLeft s k j).length)

/-- What the completion writes: what is left of the output, bytes 1 to 63, then byte 0 (R84). -/
def completionWrites (s : State) (k : Nat) (j : Job) : List Outbound :=
  let f := funcOf s (keyAllot k)
  (if outputLeft s k j = [] then []
    else [.write f (j.entry.outAddr + BitVec.ofNat 64 j.written) (outputLeft s k j) (funcAt s f).relaxed]) ++
    [.write f (entryAddress s k + 1) ((completionOf s k j).drop 1) false,
     .write f (entryAddress s k) ((completionOf s k j).take 1) false]

theorem entryAddress_congr (h : t.queues = s.queues) (k : Nat) : entryAddress t k = entryAddress s k := by
  simp only [entryAddress, h]

theorem framed_congr (h : jobSealed t k = jobSealed s k) (j : Job) : framed t k j = framed s k j := by
  simp only [framed, h]

/-- A completion is counted, and its job gives up the admin command's place. -/
def countCompletion (s : State) (k : Nat) : State :=
  { s with regs := { s.regs with
      completions := s.regs.completions + 1, admJob := if s.regs.admJob = some k then none else s.regs.admJob } }

/-- The order of a completion: effects that do not bear on its writes, its writes, and the end of its job. -/
theorem writeCompletion_eq (s : State) (k : Nat) (j : Job) : ∃ e, WritesSame s e ∧ writeCompletion s k j =
    freeUnloaded (removeJob (freeResidence (countNotice (countCompletion (sendAll e (completionWrites s k j)) k) k j) j) k) := by
  have same := (writesSame_completionEffects s k j).trans (writesSame_endRawMode _ j)
  refine ⟨_, same, ?_⟩
  simp only [writeCompletion, completionWrites, completionOf, outputLeft]
  generalize endRawMode (completionEffects s k j) j = e at *
  have sent (l : List Outbound) : entryAddress (sendAll e l) k = entryAddress s k ∧ framed (sendAll e l) k j = framed s k j := by
    obtain ⟨n, h⟩ := sendAll_changes e l
    exact h ▸ ⟨entryAddress_congr same.queues k, framed_congr (same.framing k) j⟩
  have relaxed (f : Nat) := funcAt_congr (congrArg Link.funcs same.link) f
  obtain ⟨address, framing⟩ := sent []
  have address₁ (o : Outbound) : entryAddress (send e o) k = entryAddress s k := (sent [o]).1
  have address₂ (o p : Outbound) : entryAddress (send (send e o) p) k = entryAddress s k := (sent [o, p]).1
  have framing₁ (o : Outbound) : framed (send e o) k j = framed s k j := (sent [o]).2
  simp only [sendAll, List.foldl_nil] at address framing
  by_cases out : (outputBytes s k j).drop j.written = []
  · simp only [out, if_true, List.nil_append, address, address₁, framing]
    rfl
  · simp only [out, if_false, address₁, address₂, framing₁, relaxed]
    rfl

theorem writeCompletion_link_completions (s : State) (k : Nat) (j : Job) :
    (writeCompletion s k j).link = (sendAll s (completionWrites s k j)).link ∧
      (writeCompletion s k j).regs.completions = s.regs.completions + 1 := by
  obtain ⟨e, same, h⟩ := writeCompletion_eq s k j
  rw [h]
  generalize completionWrites s k j = l
  have removed := removeJob_link_regs (freeResidence (countNotice (countCompletion (sendAll e l) k) k j) j) k
  have freed := freeResidence_link_regs (countNotice (countCompletion (sendAll e l) k) k j) j
  have counted := countNotice_link_regs (countCompletion (sendAll e l) k) k j
  obtain ⟨n, sent⟩ := sendAll_changes e l
  refine ⟨?_, ?_⟩
  · calc (removeJob _ k).link = (sendAll e l).link := removed.1.trans (freed.1.trans counted.1)
      _ = (sendAll s l).link := sendAll_link_congr same.link l
  · calc (removeJob _ k).regs.completions = (sendAll e l).regs.completions + 1 := by
          rw [removed.2, freed.2, counted.2]; rfl
      _ = s.regs.completions + 1 := by rw [sent, same.regs]

theorem dropCompletion_link_completions (s : State) (k : Nat) (j : Job) :
    (dropCompletion s k j).link = s.link ∧ (dropCompletion s k j).regs.completions = s.regs.completions := by
  let u : State := { s with regs.admJob := if s.regs.admJob = some k then none else s.regs.admJob }
  have removed := removeJob_link_regs (releaseEngines (endRawMode u j) k j) k
  have released := releaseEngines_link_regs (endRawMode u j) k j
  have ended := writesSame_endRawMode u j
  refine ⟨removed.1.trans (released.1.trans ended.link), ?_⟩
  calc (removeJob _ k).regs.completions = u.regs.completions := by rw [removed.2, released.2, ended.regs]
    _ = s.regs.completions := rfl

theorem exec_jobCompletion {r : JobRef} (hj : KMap.get? s.jobs (refKey r) = some j) (decided : j.phase = .decided)
    (due : j.decidedAt ≤ now s) (alive : s.dump.active = none) : exec (.jobCompletion r) s =
      .next (if j.discard then dropCompletion s (refKey r) j else writeCompletion s (refKey r) j) := by
  change execJobCompletion r s = _
  simp [execJobCompletion, hj, decided, due, alive]

/-! ## Moderation (R68, R69) -/

theorem mem_insertNat (a : Nat) (l : List Nat) (n : Nat) : n ∈ insertNat a l ↔ n = a ∨ n ∈ l := by
  induction l with
  | nil => simp [insertNat]
  | cons b l ih =>
    simp only [insertNat]
    split_ifs with hab hab'
    · simp
    · subst hab'
      simp
    · simp only [List.mem_cons, ih]
      tauto

theorem noticeDue_iff (n : Nat) (x : Queue) : noticeDue n x = true ↔
    1 ≤ pendingAt n x ∧ (x.modCount ≤ pendingAt n x ∨ x.pendSince + x.modTicks ≤ n) := by
  simp [noticeDue]

theorem sendVector_queues (s : State) (f n : Nat) : (sendVector s f n).queues = s.queues := by
  unfold sendVector
  split
  · obtain ⟨a, b, h⟩ := send_changes s (messageOf s f n)
    rw [h]
  · rfl

/-- An open vector's message goes out. -/
theorem sendVector_open {f n : Nat} (h : vectorOpen (funcAt s f) n = true) (credit : s.link.credit = true) :
    (sendVector s f n).link.out = s.link.out ++ [messageOf s f n] := by
  rw [sendVector, if_pos h, send_of_credit _ credit]

/-- A vector that may not send has its PBA bit set instead. -/
theorem sendVector_held {f n : Nat} (h : vectorOpen (funcAt s f) n = false) :
    (sendVector s f n).link.out = s.link.out ∧ n ∈ (funcAt (sendVector s f n) f).pba := by
  have pended : sendVector s f n = setFunc s f { funcAt s f with pba := insertNat n (funcAt s f).pba } := by
    simp [sendVector, h]
  rw [pended]
  refine ⟨rfl, ?_⟩
  rw [funcAt_setFunc_same]
  exact (mem_insertNat ..).mpr (.inl rfl)

section Moderation
variable {a : BitVec 12} {q : BitVec 3} {x : Queue} {n : Nat}

theorem exec_msixModeration (hx : KMap.get? s.queues (queueKey a.toNat q.toNat) = some x) (hn : x.vector = some n) :
    exec (.msixModeration a q) s = .next (if noticeDue (now s) x then
      sendVector (spendNotices s a.toNat n) (funcOf s a.toNat) n else s) := by
  have at' : queueAt s a.toNat q.toNat = some x := hx
  change execMsixModeration a q s = _
  simp only [execMsixModeration, moderate, at', hn]

theorem get?_spendNotices (hx : KMap.get? s.queues (queueKey a.toNat q.toNat) = some x) (hn : x.vector = some n)
    (due : noticeDue (now s) x = true) :
    KMap.get? (spendNotices s a.toNat n).queues (queueKey a.toNat q.toNat) = some (spendNotice (now s) x) := by
  have owner : queueKey a.toNat q.toNat / 8 = a.toNat := by unfold queueKey; omega
  simp [spendNotices, hx, owner, hn, due]

end Moderation

/-- Settles O22: the writes are those of `writeCompletion_eq`, and they leave or wait as the link has credit; a notice that is
due goes by its vector. -/
theorem completionWritten : Obligations.CompletionWritten := by
  refine ⟨fun s r j f out l hj decided due alive hf hout hl => ?_, fun s a q x n hx hn => ⟨fun some due => ?_, fun idle => ?_⟩⟩
  · subst hf hout hl
    have row := exec_jobCompletion hj decided due alive
    refine ⟨fun kept => ?_, fun gone => ?_⟩
    · obtain ⟨link, count⟩ := writeCompletion_link_completions s (refKey r) j
      rw [kept] at row
      refine ⟨_, row, count, fun credit => ?_, fun credit => ?_⟩
      · rw [if_neg (by decide), link, sendAll_link_of_credit _ credit]
        exact ⟨rfl, rfl⟩
      · rw [if_neg (by decide), link, sendAll_link_of_no_credit _ credit]
        exact ⟨rfl, rfl⟩
    · rw [gone] at row
      exact ⟨_, row, dropCompletion_link_completions s (refKey r) j⟩
  · have notice := (noticeDue_iff (now s) x).mpr ⟨some, due⟩
    refine ⟨_, exec_msixModeration hx hn, ?_⟩
    rw [if_pos notice]
    refine ⟨?_, fun opened credit => ?_, fun shut => ?_⟩
    · rw [sendVector_queues]
      exact get?_spendNotices hx hn notice
    · exact sendVector_open (s := spendNotices s a.toNat n) opened credit
    · exact sendVector_held (s := spendNotices s a.toNat n) shut
  · have silent : noticeDue (now s) x = false := by
      rw [← Bool.not_eq_true, noticeDue_iff]
      omega
    rw [exec_msixModeration hx hn, silent]
    rfl

end Sys2Proof.Machine
end

section
/-! SUPPORT. Host reads that fail, and the late completion of a read that its isolation wrapper has answered, with O10
(03_host_link.md R63, R65). -/
namespace Sys2Proof.Machine
open Sys2Proof

variable {s t : State} {address : W64} {x : Allotment}

/-! ## Settling at rest -/

theorem ackReady_of_none_staged (h : s.bridge.staged = []) : ackReady s = s := by
  have map : (s.bridge.staged.map fun x => { x with acked := x.acked || decide (x.records = []) }) = s.bridge.staged := by
    rw [h, List.map_nil]
  simp only [ackReady, map]
  simp only [h, List.filter_nil, List.foldl_nil]
  rw [← h]

theorem destroyReady_of_none_destroying (h : (s.allots.all fun p => !p.2.destroying) = true) (a : Nat) : destroyReady s a = false := by
  unfold destroyReady
  cases hv : KMap.get? s.allots a with
  | none => simp
  | some v =>
    have going : v.destroying = false := by simpa using List.all_eq_true.mp h _ (KMap.mem_of_get? hv)
    simp [going]

theorem settleQueues_of_none_closing (h : (s.queues.all fun p => !p.2.closing) = true) : settleQueues s = s := by
  have kept : KMap.keep s.queues (fun k q => !q.closing || adminNames s 0xF005 (k / 8) ||
      (allotAt s (k / 8)).any (fun v => v.destroying) || decide (jobsOfQueue s (k / 8) (k % 8) ≠ [])) = s.queues :=
    List.filter_eq_self.mpr fun p hp => by simp [show p.2.closing = false by simpa using List.all_eq_true.mp h p hp]
  simp only [settleQueues, kept]

/-- Where nothing waits, settling changes nothing. -/
theorem settle_of_atRest (h : atRest s) : settle s = s := by
  obtain ⟨jobs, executing, testing, commits, staged, destroying, closing⟩ := h
  have cut : bistCut s = s := by simp [bistCut, testing]
  have committed : commitReady s = s := by simp [commitReady, commits]
  have admin : settleAdmin s = s := by simp [settleAdmin, jobs]
  have destroyed : settleDestroyed s = s :=
    foldl_keeps (fun t => t = s) (fun t a ht => by simp [ht, destroyReady_of_none_destroying destroying]) _ rfl
  have ended : eolSettle s = s := by simp [eolSettle, executing]
  simp only [settle, cut, committed, ackReady_of_none_staged staged, admin, destroyed, settleQueues_of_none_closing closing, jobs,
    List.map_nil, List.foldl_nil, ended]

/-- A change of an allotment's reads leaves what is at rest at rest. -/
theorem atRest_endRead (h : atRest s) (a : Nat) (p : HostReq → Bool) : atRest (endRead s a p) := by
  obtain ⟨jobs, executing, testing, commits, staged, destroying, closing⟩ := h
  refine ⟨jobs, executing, testing, commits, staged, ?_, closing⟩
  rw [endRead, modAllot, KMap.adjust, List.all_map, ← destroying]
  congr 1
  funext y
  by_cases hy : y.1 = a <;> simp [hy]

/-! ## What a failed read records -/

theorem readStatus_changes (s : State) (c : Option ReadFailure) : ∃ n, (readStatus s c).2 = { s with freeCount := n } := by
  unfold readStatus
  split <;> exact ⟨_, rfl⟩

/-- A failed descriptor read is recorded, and its queue's scan stops. -/
theorem descriptorFailed_changes {a q : Nat} {v : Queue} (c : Option ReadFailure) (address : W64)
    (hv : KMap.get? s.queues (queueKey a q) = some v) : ∃ n e, descriptorFailed s a q c address =
      modQueue { s with freeCount := n, events := e } a q fun v => { v with reading := false, stop := some .notOwned } := by
  obtain ⟨n, h⟩ := readStatus_changes s c
  simp only [descriptorFailed, hv, logLink_eq, h]
  exact ⟨n, _, rfl⟩

/-- A failed data read is recorded, and its job is ended at once. -/
theorem dataFailed_changes (s : State) (k : Nat) (c : Option ReadFailure) (address : W64) : ∃ n e, dataFailed s k c address =
    rejectJob { s with freeCount := n, events := e } k .internal address.toNat := by
  obtain ⟨n, h⟩ := readStatus_changes s c
  simp only [dataFailed, logLink_eq, h]
  exact ⟨n, _, rfl⟩

/-! ## The rows of failed reads -/

/-- The test that finds the failed read among those of its allotment. -/
def failedRead (address : W64) (data : Bool) (owner : Nat) (r : HostReq) : Bool := serves data owner r && decide (r.addr = address)

/-- The two rows fail the read alike, with a cause or with none. -/
theorem exec_failedRead {cmd : HostRead → Instr}
    (h : cmd = (fun r => .readCompletionTimeout r address) ∨ ∃ e, cmd = fun r => .hostReadError r e address) :
    ∃ c, ∀ r s, exec (cmd r) s = .next (readFailed s r c address) := by
  obtain rfl | ⟨e, rfl⟩ := h
  · exact ⟨none, fun _ _ => rfl⟩
  · exact ⟨some e, fun _ _ => rfl⟩

theorem readFailed_descriptor {a : BitVec 12} {q : BitVec 3} {r : HostReq} (c : Option ReadFailure)
    (hx : KMap.get? s.allots a.toNat = some x) (hr : x.reads.find? (failedRead address false q.toNat) = some r)
    (waits : r.answered = false) : readFailed s (.descriptor a q) c address =
      issueReads (descriptorFailed (endRead s a.toNat (failedRead address false q.toNat)) a.toNat q.toNat c address) a.toNat := by
  have found : findRead s a.toNat (failedRead address false q.toNat) = some r := by rw [findRead, hx]; exact hr
  unfold failedRead at found ⊢
  simp only [readFailed, found, waits]
  rfl

theorem readFailed_data {r : JobRef} {d : HostReq} (c : Option ReadFailure)
    (hx : KMap.get? s.allots r.allot.toNat = some x) (hd : x.reads.find? (failedRead address true (refKey r)) = some d)
    (waits : d.answered = false) : readFailed s (.data r) c address =
      issueReads (dataFailed (endRead s r.allot.toNat (failedRead address true (refKey r))) (refKey r) c address) r.allot.toNat := by
  have found : findRead s r.allot.toNat (failedRead address true (refKey r)) = some d := by rw [findRead, hx]; exact hd
  unfold failedRead at found ⊢
  simp only [readFailed, found, waits]
  rfl

theorem get?_endRead_allots {a : Nat} (p : HostReq → Bool) (hx : KMap.get? s.allots a = some x) :
    KMap.get? (endRead s a p).allots a = some { x with reads := dropFirst p x.reads } := by
  simp [endRead, modAllot, hx]

/-- What a failed descriptor read leaves: its scan on the entry, its tag free, and of new reads only data reads. -/
theorem descriptorRead_fails {a : BitVec 12} {q : BitVec 3} {v : Queue} {r : HostReq} (c : Option ReadFailure)
    (hv : KMap.get? s.queues (queueKey a.toNat q.toNat) = some v) (hx : KMap.get? s.allots a.toNat = some x)
    (hr : x.reads.find? (failedRead address false q.toNat) = some r) (waits : r.answered = false) :
    ∃ w l, KMap.get? (readFailed s (.descriptor a q) c address).queues (queueKey a.toNat q.toNat) =
        some { v with reading := false, stop := some .notOwned } ∧
      KMap.get? (readFailed s (.descriptor a q) c address).allots a.toNat = some w ∧
      w.reads = dropFirst (failedRead address false q.toNat) x.reads ++ l ∧ (∀ n ∈ l, n.data = true) ∧
      (s.jobs = [] → l = [] ∧ (readFailed s (.descriptor a q) c address).link = s.link ∧
        (readFailed s (.descriptor a q) c address).jobs = []) := by
  have hv' : KMap.get? (endRead s a.toNat (failedRead address false q.toNat)).queues (queueKey a.toNat q.toNat) = some v := hv
  obtain ⟨n, e, failed⟩ := descriptorFailed_changes c address hv'
  have ended := get?_endRead_allots (failedRead address false q.toNat) hx
  rw [readFailed_descriptor c hx hr waits, failed]
  have queue (u : State) (hu : KMap.get? u.queues (queueKey a.toNat q.toNat) = some v) :
      KMap.get? (issueReads (modQueue u a.toNat q.toNat fun v => { v with reading := false, stop := some .notOwned }) a.toNat).queues
        (queueKey a.toNat q.toNat) = some { v with reading := false, stop := some .notOwned } := by
    rw [issueReads_queues]
    simp [modQueue, hu]
  by_cases jobs : s.jobs = []
  · refine ⟨{ x with reads := dropFirst (failedRead address false q.toNat) x.reads }, [], queue _ hv', ?_,
      (List.append_nil _).symm, by simp, fun _ => ?_⟩
    · rw [issueReads_of_no_jobs _ (by exact jobs)]
      exact ended
    · rw [issueReads_of_no_jobs _ (by exact jobs)]
      exact ⟨rfl, rfl, jobs⟩
  · obtain ⟨l, data, issued⟩ := get?_issueReads_allots (s := modQueue { endRead s a.toNat (failedRead address false q.toNat) with
      freeCount := n, events := e } a.toNat q.toNat fun v => { v with reading := false, stop := some .notOwned }) a.toNat ended
    exact ⟨_, l, queue _ hv', issued, rfl, data, fun none => absurd none jobs⟩

/-- What a failed data read leaves of its job. -/
theorem dataRead_fails {r : JobRef} {j : Job} {d : HostReq} (c : Option ReadFailure) (hj : KMap.get? s.jobs (refKey r) = some j)
    (hx : KMap.get? s.allots r.allot.toNat = some x) (hd : x.reads.find? (failedRead address true (refKey r)) = some d)
    (waits : d.answered = false) : ∃ n, KMap.get? (readFailed s (.data r) c address).jobs (refKey r) =
      some { rejected (now s + 1) .internal address.toNat j with asked := n } := by
  obtain ⟨n, e, failed⟩ := dataFailed_changes (endRead s r.allot.toNat (failedRead address true (refKey r))) (refKey r) c address
  rw [readFailed_data c hx hd waits, failed]
  exact get?_issueReads_jobs _ (get?_rejectJob .internal address.toNat (by exact hj))

/-- Settles O10: the read's end, its record and what ends with it; a late completion at rest takes its read alone, since
nothing settles and no job reads. -/
theorem failedReads : Obligations.FailedReads := by
  refine ⟨fun s address cmd hcmd => ?_, fun s a => ⟨fun none => ?_, fun rest some => ?_⟩⟩
  · obtain ⟨c, row⟩ := exec_failedRead hcmd
    refine ⟨fun a q v x r hv hx hr waits => ?_, fun r j x d hj hx hd waits => ?_⟩
    · obtain ⟨w, l, queue, own, reads⟩ := descriptorRead_fails c hv hx hr waits
      exact ⟨_, w, l, row _ s, queue, own, reads⟩
    · obtain ⟨n, job⟩ := dataRead_fails c hj hx hd waits
      exact ⟨_, _, row _ s, job, rfl, rfl, BitVec.ofNat_toNat .., rfl, rfl⟩
  · change execLateCompletion a s = _
    simp [execLateCompletion, none]
  · obtain ⟨r, hr⟩ := Option.isSome_iff_exists.mp some
    change execLateCompletion a s = _
    simp only [execLateCompletion, hr, settle_of_atRest (atRest_endRead rest _ _)]
    rw [issueReads_of_no_jobs _ (by exact rest.1)]
    rfl

end Sys2Proof.Machine
end

section
/-! SUPPORT. Accesses of BAR 0 and writes of its registers, with O11 (03_host_link.md R60, R72; 21_errors_dump_bist.md R470;
23_registers.md R503 to R505, R512, R513). -/
namespace Sys2Proof.Machine
open Sys2Proof

variable {s : State}

/-! ## Error reports (R72) -/

theorem noteAer_config (v : Func) (e : AerError) (header : BitVec 128) : (noteAer v e header).config = v.config := by
  unfold noteAer
  extract_lets p flag noted
  have kept : noted.config = v.config := by
    unfold noted
    split <;> rfl
  split <;> exact kept

/-- An error of a function is noted in its registers and logged; no message reports it yet. -/
def errorNoted (s : State) (f : Nat) (e : AerError) (header : BitVec 128) : State :=
  { s with link := { s.link with
      funcs := KMap.put s.link.funcs f (noteAer (funcAt s f) e header)
      aerLog := s.link.aerLog ++ [(f, e, if headerLogged e then header else 0)] } }

theorem funcAt_errorNoted_same (s : State) (f : Nat) (e : AerError) (header : BitVec 128) :
    funcAt (errorNoted s f e header) f = noteAer (funcAt s f) e header := funcAt_setFunc_same s f _

theorem funcAt_errorNoted_ne (s : State) {f i : Nat} (e : AerError) (header : BitVec 128) (h : i ≠ f) :
    funcAt (errorNoted s f e header) i = funcAt s i := funcAt_setFunc_ne s _ h

/-- An error is noted and logged, and a message reports it unless the function masks it. -/
theorem reportAer_eq (s : State) (f : Nat) (e : AerError) (header : BitVec 128) : reportAer s f e header =
    if aerMasked (funcAt s f) e then errorNoted s f e header
    else send (errorNoted s f e header) (.aer f e (aerSeverity (funcAt s f) e)) := by
  have masked : aerMasked (funcAt (errorNoted s f e header) f) e = aerMasked (funcAt s f) e := by
    simp only [funcAt_errorNoted_same, aerMasked, noteAer_config]
  have severity : aerSeverity (funcAt (errorNoted s f e header) f) e = aerSeverity (funcAt s f) e := by
    simp only [funcAt_errorNoted_same, aerSeverity, noteAer_config]
  rw [← masked, ← severity]
  rfl

/-! ## Accesses of BAR 0 (R60, R72) -/

theorem exec_bar0AccessSize (f : Fin 64) (off : W16) (e : BitVec 8) (w : Bool) (s : State) :
    exec (.bar0AccessSize f off e w) s = execBar0AccessSize f off e w s := rfl

/-- A request that is not served is logged, and answered before any message of the error. -/
theorem answerUnsupported_changes (s : State) (f : Nat) : ∃ header l, (answerUnsupported s f).link.aerLog =
      s.link.aerLog ++ [(f, .unsupportedSent, header)] ∧
    (answerUnsupported s f).link.out = s.link.out ++ .unsupported :: l ∧ (answerUnsupported s f).regs = s.regs ∧
    (answerUnsupported s f).events = s.events ∧ (answerUnsupported s f).jobs = s.jobs := by
  unfold answerUnsupported
  extract_lets a b
  rw [reportAer_eq]
  split
  · exact ⟨_, [], rfl, rfl, rfl, rfl, rfl⟩
  · cases credit : s.link.credit with
    | false =>
      rw [send_of_no_credit _ (by exact credit)]
      exact ⟨_, [], rfl, rfl, rfl, rfl, rfl⟩
    | true =>
      rw [send_of_credit _ (by exact credit)]
      exact ⟨_, _, rfl, List.append_assoc _ [Outbound.unsupported] _, rfl, rfl, rfl⟩

/-- The clause of the accesses. -/
theorem barAccesses (s : State) (f : Fin 64) (off : W16) (e : BitVec 8) :
    (funcExists s f.val = false → ∀ w, exec (.bar0AccessSize f off e w) s = .next s) ∧
    (funcExists s f.val = true → (funcAt s f.val).mse = false →
      exec (.bar0AccessSize f off e true) s = .next s ∧
      ∃ t header, exec (.bar0AccessSize f off e false) s = .next t ∧
        t.link.aerLog = s.link.aerLog ++ [(f.val, .unsupportedSent, header)] ∧
        (∃ l, t.link.out = s.link.out ++ .unsupported :: l) ∧ t.regs = s.regs ∧ t.events = s.events ∧ t.jobs = s.jobs) ∧
    (funcExists s f.val = true → (funcAt s f.val).mse = true →
      (∀ n, alignedAccess off.toNat e = some n →
        exec (.bar0AccessSize f off e false) s =
          .next { s with link.out := s.link.out ++ [.reply (barRead s f.val off.toNat (decide (n = 8)))] } ∧
        exec (.bar0AccessSize f off e true) s = .next s) ∧
      (alignedAccess off.toNat e = none →
        exec (.bar0AccessSize f off e false) s = .next (reply (logLink s 0x0010 0xFFFF (leBytes 4 off.toNat ++ [e])) 0) ∧
        exec (.bar0AccessSize f off e true) s = .next (logLink s 0x0010 0xFFFF (leBytes 4 off.toNat ++ [e])))) := by
  simp only [exec_bar0AccessSize, execBar0AccessSize]
  refine ⟨fun gone w => by simp [gone], fun here shut => ?_, fun here opened => ⟨fun n aligned => ?_, fun odd => ?_⟩⟩
  · obtain ⟨header, l, log, out, beside⟩ := answerUnsupported_changes s f.val
    exact ⟨by simp [here, shut], _, header, by simp only [here, shut]; rfl, log, ⟨l, out⟩, beside⟩
  · simp only [here, opened, aligned]
    exact ⟨rfl, rfl⟩
  · simp only [here, opened, odd]
    exact ⟨rfl, rfl⟩

/-! ## Writes of registers -/

/-- An aligned write of a 64-bit register that the device does not ignore. -/
theorem exec_registerWrite_wide (s : State) {off : W16} (v : W64) (aligned : off.toNat % 8 = 0)
    (wide : wideRegister off.toNat = true) (taken : (s.boot.ready || bootRegister off.toNat) = true) :
    exec (.registerWrite off true v) s = .next (writeWide s off.toNat v) := by
  change execRegisterWrite off true v s = _
  simp [execRegisterWrite, aligned, wide, taken]

/-- An aligned 32-bit write that the device does not ignore. -/
theorem exec_registerWrite_half (s : State) {off : W16} (v : W64) (aligned : off.toNat % 4 = 0)
    (taken : (s.boot.ready || bootRegister off.toNat) = true) :
    exec (.registerWrite off false v) s = .next (writeHalf s off.toNat (v.setWidth 32)) := by
  change execRegisterWrite off false v s = _
  simp [execRegisterWrite, aligned, writeOpen, taken]

/-- The same of a 32-bit register. -/
theorem exec_registerWrite_word (s : State) {off : W16} (v : W64) (aligned : off.toNat % 4 = 0)
    (single : wideRegister (off.toNat / 8 * 8) = false) (taken : (s.boot.ready || bootRegister off.toNat) = true) :
    exec (.registerWrite off false v) s = .next (writeWord s off.toNat (v.setWidth 32)) := by
  rw [exec_registerWrite_half s v aligned taken, writeHalf]
  simp only [single]
  rfl

/-- An aligned 64-bit write of two 32-bit registers is a write of each. -/
theorem exec_registerWrite_pair (s : State) {off : W16} (v : W64) (aligned : off.toNat % 8 = 0)
    (single : wideRegister off.toNat = false) : exec (.registerWrite off true v) s =
      .next (writeOpen (writeOpen s off.toNat (v.setWidth 32)) (off.toNat + 4) ((v >>> 32).setWidth 32)) := by
  change execRegisterWrite off true v s = _
  simp [execRegisterWrite, aligned, single]

/-! ## Writes that nothing takes (R503) -/

/-- The blocks that have no register to write. -/
def readOnlyBlocks : List Nat := [0x0, 0x6, 0x7, 0xA, 0xD, 0xE, 0xF]

theorem wideRegister_of_readOnly {off : Nat} (h : readOnlyBlocks.contains (off / 4096) = true) : wideRegister off = false := by
  rw [← Bool.not_eq_true]
  intro wide
  simp [readOnlyBlocks] at h
  simp [wideRegister] at wide
  omega

theorem writeWord_of_readOnly {off : Nat} (s : State) (v : W32) (h : readOnlyBlocks.contains (off / 4096) = true) :
    writeWord s off v = s := by
  unfold writeWord
  split <;> simp_all [readOnlyBlocks]

theorem writeOpen_of_readOnly {off : Nat} (s : State) (v : W32) (h : readOnlyBlocks.contains (off / 4096) = true) :
    writeOpen s off v = s := by
  have base : readOnlyBlocks.contains (off / 8 * 8 / 4096) = true := by
    rw [show off / 8 * 8 / 4096 = off / 4096 by omega]
    exact h
  rw [writeOpen, writeHalf]
  simp only [wideRegister_of_readOnly base, Bool.false_eq_true, if_false, writeWord_of_readOnly s v h, ite_self]

theorem exec_registerWrite_of_readOnly {off : W16} (s : State) (wide : Bool) (v : W64)
    (h : readOnlyBlocks.contains (off.toNat / 4096) = true) : exec (.registerWrite off wide v) s = .next s := by
  change execRegisterWrite off wide v s = _
  have single := wideRegister_of_readOnly h
  have low (w : W32) := writeOpen_of_readOnly s w h
  cases wide with
  | false => simp [execRegisterWrite, low]
  | true =>
    by_cases aligned : off.toNat % 8 = 0
    · have high (w : W32) : writeOpen s (off.toNat + 4) w = s :=
        writeOpen_of_readOnly s w (by rw [show (off.toNat + 4) / 4096 = off.toNat / 4096 by omega]; exact h)
      simp [execRegisterWrite, single, low, high]
    · simp [execRegisterWrite, aligned]

/-- The clause of the writes that nothing takes. -/
theorem ignoredWrites (s : State) (off : W16) (v : W64) :
    (off.toNat % 8 ≠ 0 → exec (.registerWrite off true v) s = .next s) ∧
    (off.toNat % 4 ≠ 0 → exec (.registerWrite off false v) s = .next s) ∧
    ([0x0, 0x6, 0x7, 0xA, 0xD, 0xE, 0xF].contains (off.toNat / 4096) = true → ∀ wide, exec (.registerWrite off wide v) s = .next s) ∧
    (s.boot.ready = false → bootRegister off.toNat = false → exec (.registerWrite off false v) s = .next s) := by
  have row (wide : Bool) : exec (.registerWrite off wide v) s = execRegisterWrite off wide v s := rfl
  refine ⟨fun odd => ?_, fun odd => ?_, fun block wide => exec_registerWrite_of_readOnly s wide v block, fun early other => ?_⟩
  · simp [row, execRegisterWrite, odd]
  · simp [row, execRegisterWrite, odd]
  · simp [row, execRegisterWrite, writeOpen, early, other]

/-! ## The boot registers -/

/-- The clause of the boot registers, which take writes at any time. -/
theorem bootWrites (s : State) (v : W64) :
    exec (.registerWrite 0xC010 true v) s = .next { s with boot.bootAddr := v } ∧
    exec (.registerWrite 0xC018 false v) s = .next { s with boot.bootLen := v.setWidth 32 } ∧
    exec (.registerWrite 0xC018 true v) s = exec (.registerWrite 0xC01C false (v >>> 32)) { s with boot.bootLen := v.setWidth 32 } ∧
    (v.getLsbD 0 = true → exec (.registerWrite 0xC01C false v) s = exec .bootGo s) ∧
    (v.getLsbD 0 = false → exec (.registerWrite 0xC01C false v) s = .next s) ∧
    exec (.registerWrite 0xC020 false v) s = exec (.globalReset (v.setWidth 32)) s := by
  have go := exec_registerWrite_word s (off := 0xC01C) v rfl rfl (Bool.or_true _)
  have start : writeWord s 0xC01C (v.setWidth 32) = if v.getLsbD 0 then bootGo s else s := by
    simp [writeWord]
  refine ⟨exec_registerWrite_wide s v rfl rfl (Bool.or_true _), exec_registerWrite_word s v rfl rfl (Bool.or_true _), ?_,
    fun set => ?_, fun clear => ?_, exec_registerWrite_word s v rfl rfl (Bool.or_true _)⟩
  · rw [exec_registerWrite_pair s v rfl rfl, exec_registerWrite_half _ (v >>> 32) rfl (Bool.or_true _)]
    have first : writeOpen s 0xC018 (v.setWidth 32) = { s with boot.bootLen := v.setWidth 32 } := if_pos (Bool.or_true _)
    have second (u : State) (w : W32) : writeOpen u 0xC01C w = writeHalf u 0xC01C w := if_pos (Bool.or_true _)
    exact congrArg Host.Outcome.next ((second _ _).trans (congrArg (writeHalf · 0xC01C _) first))
  · rw [go]
    simp only [show (0xC01C : W16).toNat = 0xC01C from rfl, start, set]
    rfl
  · rw [go]
    simp only [show (0xC01C : W16).toNat = 0xC01C from rfl, start, clear]
    rfl

/-! ## Fields and halves of what is written -/

theorem or_one_of_getLsbD {w : W32} (h : w.getLsbD 0 = true) : w ||| 1 = w := by
  refine BitVec.eq_of_getLsbD_eq fun i hi => ?_
  by_cases h0 : i = 0
  · subst h0
    rw [BitVec.getLsbD_or, h, Bool.true_or]
  · have one : (1 : W32).getLsbD i = false := by simp [h0]
    rw [BitVec.getLsbD_or, one, Bool.or_false]

theorem getLsbD_low (v : W64) {i : Nat} (h : i < 32) : (v.setWidth 32).getLsbD i = v.getLsbD i := by
  simp [h]

theorem vectorField (v : W64) : bitsOf (v.setWidth 32).toNat 13 8 = v.toNat / 256 % 64 := by
  simp only [bitsOf, BitVec.toNat_setWidth, Nat.shiftRight_eq_div_pow]
  omega

/-- A 64-bit number from its halves. -/
theorem ofNat_halves {hi lo : Nat} (h : hi < 2 ^ 32) (l : lo < 2 ^ 32) :
    BitVec.ofNat 64 (lo + 2 ^ 32 * hi) = (BitVec.ofNat 64 hi <<< 32) ||| BitVec.ofNat 64 lo := by
  refine BitVec.eq_of_toNat_eq ?_
  have shifted := Nat.shiftLeft_add_eq_or_of_lt l hi
  rw [Nat.shiftLeft_eq] at shifted
  simp only [BitVec.toNat_or, BitVec.toNat_shiftLeft, BitVec.toNat_ofNat, Nat.shiftLeft_eq]
  rw [Nat.mod_eq_of_lt (a := hi) (by omega), Nat.mod_eq_of_lt (a := lo) (by omega), Nat.mod_eq_of_lt (a := hi * 2 ^ 32) (by omega),
    ← shifted]
  omega

theorem and_low (b : W64) : b &&& 0xFFFFFFFF = BitVec.ofNat 64 (b.toNat % 2 ^ 32) := by
  refine BitVec.eq_of_toNat_eq ?_
  have masked := Nat.and_two_pow_sub_one_eq_mod b.toNat 32
  rw [BitVec.toNat_and, show (0xFFFFFFFF : W64).toNat = 2 ^ 32 - 1 from rfl, masked, BitVec.toNat_ofNat]
  omega

theorem and_high (b : W64) : b &&& (0xFFFFFFFF00000000 : W64) = BitVec.ofNat 64 (b.toNat / 2 ^ 32) <<< 32 := by
  rw [show (0xFFFFFFFF00000000 : W64) = BitVec.allOnes 64 <<< 32 from rfl, ← BitVec.shiftLeft_ushiftRight]
  congr 1
  refine BitVec.eq_of_toNat_eq ?_
  rw [BitVec.toNat_ushiftRight, Nat.shiftRight_eq_div_pow, BitVec.toNat_ofNat]
  omega

theorem shiftLeft_low (v : W64) : v <<< 32 = BitVec.ofNat 64 (v.toNat % 2 ^ 32) <<< 32 := by
  refine BitVec.eq_of_toNat_eq ?_
  simp only [BitVec.toNat_shiftLeft, BitVec.toNat_ofNat, Nat.shiftLeft_eq]
  omega

/-! ## The registers that a ready device takes -/

/-- A write of EVT_CTRL that leaves NOTICE and clears ENABLE (R470, R472). -/
theorem eventCtrl_disable {w : W32} (enable : w.getLsbD 0 = false) (notice : w.getLsbD 1 = s.events.notice) :
    eventCtrl s w = { s with events := { s.events with
      enable := false, vector := eventVector s (bitsOf w.toNat 13 8) } } := by
  unfold eventCtrl
  rw [enable, notice]
  cases same : s.events.notice <;> simp [noticeClear, noticeSet, same]

/-- A row that only a ready device takes. -/
theorem next_of_ready (ready : s.boot.ready = true) (t : State) :
    (Host.Outcome.next (if s.boot.ready then t else s) : Host.Outcome State Fault Refusal) = .next t := by
  rw [if_pos ready]

section Ready
variable (v : W64) (ready : s.boot.ready = true)
include ready

theorem taken_of_ready (off : Nat) : (s.boot.ready || bootRegister off) = true := by
  rw [ready, Bool.true_or]

/-- The clauses of the admin queue's registers (R513, R514). -/
theorem adminRegisterWrites :
    (s.regs.admCtrl.getLsbD 0 = false →
      exec (.registerWrite 0x2000 true v) s = .next { s with regs.admBase := pageAligned v } ∧
      exec (.registerWrite 0x2010 true v) s = .next { s with regs.admWinBase := pageAligned v } ∧
      exec (.registerWrite 0x2018 true v) s = .next { s with regs.admWinLimit := pageAligned v } ∧
      (v.getLsbD 0 = true → exec (.registerWrite 0x2008 true v) s = exec (.admRingEnable v) s)) ∧
    (s.regs.admCtrl.getLsbD 0 = true →
      exec (.registerWrite 0x2000 true v) s = .next s ∧ exec (.registerWrite 0x2010 true v) s = .next s ∧
      exec (.registerWrite 0x2018 true v) s = .next s ∧
      (v.getLsbD 0 = true → exec (.registerWrite 0x2008 true v) s = .next s) ∧
      (v.getLsbD 0 = false → exec (.registerWrite 0x2008 true v) s = exec .admRingDisable s)) := by
  have taken := taken_of_ready ready
  have base : exec (.registerWrite 0x2000 true v) s =
      .next (if !s.regs.admCtrl.getLsbD 0 then { s with regs.admBase := pageAligned v } else s) :=
    exec_registerWrite_wide s v rfl rfl (taken _)
  have low : exec (.registerWrite 0x2010 true v) s =
      .next (if !s.regs.admCtrl.getLsbD 0 then { s with regs.admWinBase := pageAligned v } else s) :=
    exec_registerWrite_wide s v rfl rfl (taken _)
  have high : exec (.registerWrite 0x2018 true v) s =
      .next (if !s.regs.admCtrl.getLsbD 0 then { s with regs.admWinLimit := pageAligned v } else s) :=
    exec_registerWrite_wide s v rfl rfl (taken _)
  have ctrl : exec (.registerWrite 0x2008 true v) s = .next (admCtrlWrite s v) := exec_registerWrite_wide s v rfl rfl (taken _)
  have enable : exec (.admRingEnable v) s = .next (admEnable s v) := next_of_ready ready _
  have disable : exec .admRingDisable s = .next (admDrain s) := next_of_ready ready _
  rw [base, low, high, ctrl, enable, disable, admCtrlWrite]
  refine ⟨fun off => ?_, fun on => ?_⟩
  · simp only [off]
    exact ⟨rfl, rfl, rfl, fun set => by rw [set]; rfl⟩
  · simp only [on]
    exact ⟨rfl, rfl, rfl, fun set => by rw [set]; rfl, fun clear => by rw [clear]; rfl⟩

/-! ### The event ring's registers (R470 to R474) -/

/-- The clauses of the event ring's registers. -/
theorem eventRegisterWrites :
    (s.events.enable = false →
      exec (.registerWrite 0x3000 true v) s = .next { s with events.base := pageAligned v } ∧
      exec (.registerWrite 0x3008 false v) s = .next { s with events.size := v.setWidth 32 &&& 0x1F }) ∧
    (s.events.enable = true →
      exec (.registerWrite 0x3000 true v) s = .next s ∧ exec (.registerWrite 0x3008 false v) s = .next s) ∧
    (v.getLsbD 0 = true → exec (.registerWrite 0x300C false v) s = exec (.evtEnable (v.setWidth 32)) s) ∧
    (v.getLsbD 0 = false → v.getLsbD 1 = s.events.notice → exec (.registerWrite 0x300C false v) s =
      .next { s with events := { s.events with enable := false, vector := eventVector s (v.toNat / 256 % 64) } }) ∧
    exec (.registerWrite 0x3014 false v) s = .next { s with events.cons := (v.setWidth 32).toNat } ∧
    exec (.registerWrite 0x3018 false v) s = .next { s with events.modReg := v.setWidth 32 &&& 0xFFFF00FF } ∧
    (v.getLsbD 0 = true → exec (.registerWrite 0x301C false v) s = exec .ffcValidClear s) ∧
    (v.getLsbD 0 = false → exec (.registerWrite 0x301C false v) s = .next s) := by
  have taken := taken_of_ready ready
  have base : exec (.registerWrite 0x3000 true v) s =
      .next (if s.events.enable then s else { s with events.base := pageAligned v }) :=
    exec_registerWrite_wide s v rfl rfl (taken _)
  have size : exec (.registerWrite 0x3008 false v) s =
      .next (if s.events.enable then s else { s with events.size := v.setWidth 32 &&& 0x1F }) :=
    exec_registerWrite_word s v rfl rfl (taken _)
  have ctrl : exec (.registerWrite 0x300C false v) s = .next (eventCtrl s (v.setWidth 32)) :=
    exec_registerWrite_word s v rfl rfl (taken _)
  have capture : exec (.registerWrite 0x301C false v) s =
      .next (if (v.setWidth 32).getLsbD 0 then { s with events.ffcValid := false } else s) :=
    exec_registerWrite_word s v rfl rfl (taken _)
  have enable : exec (.evtEnable (v.setWidth 32)) s = .next (eventCtrl s (v.setWidth 32 ||| 1)) := next_of_ready ready _
  have clear : exec .ffcValidClear s = .next { s with events.ffcValid := false } := next_of_ready ready _
  have bit0 := getLsbD_low v (i := 0) (by decide)
  have bit1 := getLsbD_low v (i := 1) (by decide)
  rw [base, size, ctrl, capture, enable, clear]
  refine ⟨fun off => ?_, fun on => ?_, fun set => ?_, fun stop notice => ?_, exec_registerWrite_word s v rfl rfl (taken _),
    exec_registerWrite_word s v rfl rfl (taken _), fun set => ?_, fun stop => ?_⟩
  · simp only [off]
    exact ⟨rfl, rfl⟩
  · simp only [on]
    exact ⟨rfl, rfl⟩
  · rw [or_one_of_getLsbD (bit0.trans set)]
  · rw [eventCtrl_disable (bit0.trans stop) (bit1.trans notice), vectorField]
  · rw [bit0, set]
    rfl
  · rw [bit0, stop]
    rfl

/-! ### The dump's registers (R480) -/

/-- The clauses of the dump's registers: a half of DMP_BASE leaves the other half (R504). -/
theorem dumpRegisterWrites :
    exec (.registerWrite 0x4000 true v) s = .next { s with dump.base := v } ∧
    exec (.registerWrite 0x4000 false v) s =
      .next { s with dump.base := (s.dump.base &&& 0xFFFFFFFF00000000) ||| (v &&& 0xFFFFFFFF) } ∧
    exec (.registerWrite 0x4004 false v) s = .next { s with dump.base := (v <<< 32) ||| (s.dump.base &&& 0xFFFFFFFF) } ∧
    exec (.registerWrite 0x4008 false v) s = .next { s with dump.size := v.setWidth 32 } ∧
    exec (.registerWrite 0x400C false v) s = .next { s with dump := { s.dump with
      enable := v.getLsbD 0, onGlobal := v.getLsbD 1, vaultCopy := v.getLsbD 2 } } := by
  have taken := taken_of_ready ready
  have low : exec (.registerWrite 0x4000 false v) s = .next { s with
      dump.base := BitVec.ofNat 64 ((v.setWidth 32).toNat + 2 ^ 32 * (regWord s 0x4004).toNat) } :=
    exec_registerWrite_half s v rfl (taken _)
  have high : exec (.registerWrite 0x4004 false v) s = .next { s with
      dump.base := BitVec.ofNat 64 ((regWord s 0x4000).toNat + 2 ^ 32 * (v.setWidth 32).toNat) } :=
    exec_registerWrite_half s v rfl (taken _)
  have ctrl : exec (.registerWrite 0x400C false v) s = .next { s with dump := { s.dump with
      enable := (v.setWidth 32).getLsbD 0, onGlobal := (v.setWidth 32).getLsbD 1, vaultCopy := (v.setWidth 32).getLsbD 2 } } :=
    exec_registerWrite_word s v rfl rfl (taken _)
  have word (b : Nat) : (regWord s b).toNat < 2 ^ 32 := (regWord s b).isLt
  have lowWord : (regWord s 0x4000).toNat = s.dump.base.toNat % 2 ^ 32 := by
    rw [show regWord s 0x4000 = BitVec.ofNat 32 (s.dump.base.toNat % 2 ^ 32) from rfl, BitVec.toNat_ofNat, Nat.mod_mod]
  have highWord : (regWord s 0x4004).toNat = s.dump.base.toNat / 2 ^ 32 := by
    rw [show regWord s 0x4004 = BitVec.ofNat 32 (s.dump.base.toNat / 2 ^ 32 % 2 ^ 32) from rfl, BitVec.toNat_ofNat]
    omega
  refine ⟨exec_registerWrite_wide s v rfl rfl (taken _), ?_, ?_, exec_registerWrite_word s v rfl rfl (taken _), ?_⟩
  · rw [low, ofNat_halves (word _) (v.setWidth 32).isLt, highWord, BitVec.toNat_setWidth, and_high, and_low]
  · rw [high, ofNat_halves (v.setWidth 32).isLt (word _), lowWord, BitVec.toNat_setWidth, and_low, shiftLeft_low v]
  · rw [ctrl, getLsbD_low v (by decide), getLsbD_low v (by decide), getLsbD_low v (by decide)]

/-! ### The other blocks' registers -/

/-- The clauses of the Fountain's, the Gatehouse's and the Sundial's registers, and of the view's (R307, R320, R383, R493, R512). -/
theorem blockRegisterWrites :
    exec (.registerWrite 0x1010 false v) s = exec (.bstSelWrite (v.setWidth 32)) s ∧
    exec (.registerWrite 0x5010 false v) s = exec (.rngLimitWrite false (v.setWidth 32)) s ∧
    exec (.registerWrite 0x5014 false v) s = exec (.rngLimitWrite true (v.setWidth 32)) s ∧
    exec (.registerWrite 0x5018 false v) s = exec (.rngPatternEnable (v.getLsbD 0)) s ∧
    (s.lc.inForce = 1 → exec (.registerWrite 0x501C false v) s = .next { s with fountain.pattern := v.setWidth 32 }) ∧
    (s.lc.inForce ≠ 1 → exec (.registerWrite 0x501C false v) s = .next s) ∧
    exec (.registerWrite 0x8004 false v) s = exec (.ghAlertClear (v.setWidth 32)) s ∧
    exec (.registerWrite 0xB004 false v) s = exec (.sdlThreshWrite (v.setWidth 32)) s ∧
    exec (.registerWrite 0x3010 false v) s = .next s := by
  have taken := taken_of_ready ready
  have pattern : exec (.registerWrite 0x501C false v) s =
      .next (if s.lc.inForce = 1 then { s with fountain.pattern := v.setWidth 32 } else s) :=
    exec_registerWrite_word s v rfl rfl (taken _)
  have enable : exec (.registerWrite 0x5018 false v) s = .next (patternWrite s ((v.setWidth 32).getLsbD 0)) :=
    exec_registerWrite_word s v rfl rfl (taken _)
  rw [getLsbD_low v (by decide)] at enable
  refine ⟨?_, ?_, ?_, ?_, fun test => ?_, fun other => ?_, ?_, ?_, exec_registerWrite_word s v rfl rfl (taken _)⟩
  · exact (exec_registerWrite_word s v rfl rfl (taken _)).trans (next_of_ready ready (selWrite s _)).symm
  · exact (exec_registerWrite_word s v rfl rfl (taken _)).trans (next_of_ready ready (limitWrite s false _)).symm
  · exact (exec_registerWrite_word s v rfl rfl (taken _)).trans (next_of_ready ready (limitWrite s true _)).symm
  · exact enable.trans (next_of_ready ready (patternWrite s _)).symm
  · rw [pattern, if_pos test]
  · rw [pattern, if_neg other]
  · exact (exec_registerWrite_word s v rfl rfl (taken _)).trans (next_of_ready ready (alertWrite s _)).symm
  · exact (exec_registerWrite_word s v rfl rfl (taken _)).trans (next_of_ready ready (threshWrite s _)).symm

/-- The clauses of the registers that carry the journal to the host (R427). -/
theorem exportRegisterWrites :
    (s.journal.jxEnable = false →
      exec (.registerWrite 0x9040 true v) s = .next { s with journal.jxBase := pageAligned v } ∧
      exec (.registerWrite 0x9048 false v) s = .next { s with journal.jxSize := v.setWidth 32 &&& 0x1F }) ∧
    (s.journal.jxEnable = true →
      exec (.registerWrite 0x9040 true v) s = .next s ∧ exec (.registerWrite 0x9048 false v) s = .next s) ∧
    (v.getLsbD 1 = false → v.getLsbD 0 = true → exec (.registerWrite 0x904C false v) s = exec .jxEnable s) ∧
    (v.getLsbD 1 = false → v.getLsbD 0 = false → exec (.registerWrite 0x904C false v) s = exec .jxDisable s) ∧
    exec (.registerWrite 0x9054 false v) s = .next { s with journal.jxCons := (v.setWidth 32).toNat } ∧
    exec (.registerWrite 0x9058 true v) s = .next { s with journal.jxReplaySeq := v } ∧
    exec (.registerWrite 0x9000 true v) s = .next s := by
  have taken := taken_of_ready ready
  have base : exec (.registerWrite 0x9040 true v) s =
      .next (if s.journal.jxEnable then s else { s with journal.jxBase := pageAligned v }) :=
    exec_registerWrite_wide s v rfl rfl (taken _)
  have size : exec (.registerWrite 0x9048 false v) s =
      .next (if s.journal.jxEnable then s else { s with journal.jxSize := v.setWidth 32 &&& 0x1F }) :=
    exec_registerWrite_word s v rfl rfl (taken _)
  have ctrl : exec (.registerWrite 0x904C false v) s = .next (jxCtrlWrite s (v.setWidth 32)) :=
    exec_registerWrite_word s v rfl rfl (taken _)
  have enable : exec .jxEnable s = .next (jxEnable s) := next_of_ready ready _
  have disable : exec .jxDisable s = .next { s with journal.jxEnable := false } := next_of_ready ready _
  rw [base, size, ctrl, enable, disable, jxCtrlWrite, getLsbD_low v (by decide), getLsbD_low v (by decide)]
  refine ⟨fun off => ?_, fun on => ?_, fun live set => ?_, fun live clear => ?_, exec_registerWrite_word s v rfl rfl (taken _),
    exec_registerWrite_wide s v rfl rfl (taken _), ?_⟩
  · simp only [off]
    exact ⟨rfl, rfl⟩
  · simp only [on]
    exact ⟨rfl, rfl⟩
  · rw [live, set]
    rfl
  · rw [live, clear]
    rfl
  · have first : writeOpen s 0x9000 (v.setWidth 32) = s := by rw [writeOpen, taken]; rfl
    have second : writeOpen s 0x9004 ((v >>> 32).setWidth 32) = s := by rw [writeOpen, taken]; rfl
    rw [exec_registerWrite_pair s v rfl rfl]
    exact congrArg Host.Outcome.next ((congrArg (writeOpen · 0x9004 _) first).trans second)

end Ready

/-- Settles O11: the accesses, the writes that nothing takes, and the registers block by block. -/
theorem registerAccesses : Obligations.RegisterAccesses := by
  refine ⟨barAccesses, ignoredWrites, bootWrites, fun s v ready => ?_⟩
  obtain ⟨admOff, admOn⟩ := adminRegisterWrites v ready
  obtain ⟨evtOff, evtOn, evtEnable, evtDisable, cons, mod, ffcClear, ffcKeep⟩ := eventRegisterWrites v ready
  obtain ⟨dumpBase, dumpLow, dumpHigh, dumpSize, dumpCtrl⟩ := dumpRegisterWrites v ready
  obtain ⟨sel, bias, corr, enable, test, untest, alert, thresh, prod⟩ := blockRegisterWrites v ready
  obtain ⟨jxOff, jxOn, jxEnable, jxDisable, jxCons, jxSeq, vault⟩ := exportRegisterWrites v ready
  exact ⟨admOff, admOn, sel, evtOff, evtOn, evtEnable, evtDisable, cons, mod, ffcClear, ffcKeep, dumpBase, dumpLow, dumpHigh,
    dumpSize, dumpCtrl, bias, corr, enable, test, untest, alert, jxOff, jxOn, jxEnable, jxDisable, jxCons, jxSeq, thresh, prod,
    vault⟩

end Sys2Proof.Machine
end

section
/-! SUPPORT. What the ends of jobs and reads leave of the allotments and of the link (03_host_link.md R70, R71; 02_bandstand.md R53). -/
namespace Sys2Proof.Machine
open Sys2Proof

variable {s t u : State}

/-! ## Allotments whose reads and jobs end -/

/-- An allotment that has lost jobs and reads at most: everything else of it stands, and no read is new where none was. -/
structure Drained (v w : Allotment) : Prop where
  same : w = { v with reads := w.reads, inflight := w.inflight }
  none : v.reads = [] → w.reads = []

theorem Drained.refl (v : Allotment) : Drained v v := ⟨rfl, id⟩

theorem Drained.trans {v w x : Allotment} (h : Drained v w) (g : Drained w x) : Drained v x :=
  ⟨by rw [g.same, h.same], fun e => g.none (h.none e)⟩

/-- From `s` to `t` allotments have lost jobs and reads at most. -/
def AllotsDrained (s t : State) : Prop :=
  ∃ g : Nat → Allotment → Allotment, (∀ i v, Drained v (g i v)) ∧ t.allots = KMap.mapAll s.allots g

theorem AllotsDrained.of_eq (h : t.allots = s.allots) : AllotsDrained s t :=
  ⟨fun _ v => v, fun _ v => .refl v, by rw [h]; exact (List.map_id _).symm⟩

theorem AllotsDrained.refl (s : State) : AllotsDrained s s := .of_eq rfl

theorem AllotsDrained.trans (h : AllotsDrained s t) (h' : AllotsDrained t u) : AllotsDrained s u := by
  obtain ⟨g, hg, e⟩ := h
  obtain ⟨g', hg', e'⟩ := h'
  refine ⟨fun i v => g' i (g i v), fun i v => (hg i v).trans (hg' i _), ?_⟩
  rw [e', e, KMap.mapAll, KMap.mapAll, List.map_map]
  rfl

/-- Further changes beside the allotments. -/
theorem AllotsDrained.upd (h : AllotsDrained s t) (e : u.allots = t.allots) : AllotsDrained s u := h.trans (.of_eq e)

theorem allotsDrained_modAllot (s : State) (a : Nat) {f : Allotment → Allotment} (h : ∀ v, Drained v (f v)) :
    AllotsDrained s (modAllot s a f) := by
  refine ⟨fun i v => if i = a then f v else v, fun i v => ?_, ?_⟩
  · dsimp only
    split
    · exact h v
    · exact .refl v
  · refine List.map_congr_left fun p _ => ?_
    dsimp only
    split <;> rfl

theorem allotsDrained_foldl {α : Type} {f : State → α → State} (h : ∀ t a, AllotsDrained t (f t a)) (l : List α) (s : State) :
    AllotsDrained s (l.foldl f s) :=
  foldl_keeps (AllotsDrained s) (fun t a ht => ht.trans (h t a)) l (.refl s)

theorem AllotsDrained.get? {a : Nat} {v : Allotment} (h : AllotsDrained s t) (hv : KMap.get? s.allots a = some v) :
    ∃ w, KMap.get? t.allots a = some w ∧ Drained v w := by
  obtain ⟨g, hg, e⟩ := h
  exact ⟨g a v, by rw [e, KMap.get?_mapAll, hv]; rfl, hg a v⟩

theorem AllotsDrained.of_get? {a : Nat} {w : Allotment} (h : AllotsDrained s t) (hw : KMap.get? t.allots a = some w) :
    ∃ v, KMap.get? s.allots a = some v ∧ Drained v w := by
  obtain ⟨g, hg, e⟩ := h
  rw [e, KMap.get?_mapAll, Option.map_eq_some_iff] at hw
  obtain ⟨v, hv, rfl⟩ := hw
  exact ⟨v, hv, hg a v⟩

/-! ## The release of a job's engines -/

theorem releaseReserved_allots (s : State) (n : Nat) : (releaseReserved s n).allots = s.allots := by
  unfold releaseReserved
  split
  · dsimp only
    split_ifs <;> rfl
  · rfl

theorem dropKeptResident_allots (s : State) (n : Nat) : (dropKeptResident s n).allots = s.allots := by
  unfold dropKeptResident
  split <;> rfl

theorem dropHeld_allots (s : State) (o n : Nat) : (dropHeld s o n).allots = s.allots := by
  unfold dropHeld
  split <;> rfl

theorem withSome_allots {f : State → Nat → State} (hf : ∀ s n, (f s n).allots = s.allots) (s : State) (o : Option Nat) :
    (withSome s o f).allots = s.allots := by
  cases o with
  | none => rfl
  | some n => exact hf s n

theorem giveBack_allots (s : State) (j : Job) : (giveBack s j).allots = s.allots :=
  (withSome_allots (fun s n => dropHeld_allots s j.entry.opcode.toNat n) _ _).trans
    ((withSome_allots dropKeptResident_allots _ _).trans (withSome_allots releaseReserved_allots _ _))

theorem dropStatement_allots (s : State) (j : Job) : (dropStatement s j).allots = s.allots := by
  unfold dropStatement
  split <;> rfl

theorem freeResidence_allots (s : State) (j : Job) : (freeResidence s j).allots = s.allots := by
  unfold freeResidence
  split <;> rfl

/-- Answered reads are no new reads. -/
theorem drained_map (v : Allotment) (g : HostReq → HostReq) : Drained v { v with reads := v.reads.map g } :=
  ⟨rfl, fun h => by rw [h]; rfl⟩

theorem allotsDrained_answerReads (s : State) (k : Nat) : AllotsDrained s (answerReads s k) :=
  allotsDrained_modAllot s _ fun v => drained_map v _

theorem allotsDrained_releaseEngines (s : State) (k : Nat) (j : Job) : AllotsDrained s (releaseEngines s k j) :=
  (allotsDrained_answerReads s k).upd
    ((giveBack_allots _ j).trans ((dropStatement_allots _ j).trans (freeResidence_allots (answerReads s k) j)))

/-! ## The ends of jobs -/

theorem allotsDrained_endJob (s : State) (k : Nat) (st : Status) : AllotsDrained s (endJob s k st) := by
  unfold endJob
  split
  · exact (allotsDrained_releaseEngines s k _).upd rfl
  · exact .refl s

theorem endJob_link (s : State) (k : Nat) (st : Status) : (endJob s k st).link = s.link :=
  congrArg (fun p => p.2.2.2.2.2.2.2) (besideEngines_endJob_jobs s k st)

theorem allotsDrained_removeJob (s : State) (k : Nat) : AllotsDrained s (removeJob s k) := by
  obtain ⟨l, h⟩ := leaveLanes_changes s k
  have left : AllotsDrained s { leaveLanes s k with jobs := KMap.drop (leaveLanes s k).jobs k } := .of_eq (by rw [h])
  exact (left.trans (allotsDrained_answerReads _ k)).trans
    ((AllotsDrained.of_eq rfl).trans (allotsDrained_modAllot (modQueue _ (keyAllot k) (keyQueue k) _) _ fun v => ⟨rfl, id⟩))

/-- An abort drains allotments, and the link stands. -/
theorem abortJob_drains (discard : Bool) (s : State) (k : Nat) :
    AllotsDrained s (abortJob discard s k) ∧ (abortJob discard s k).link = s.link := by
  unfold abortJob
  split
  · exact ⟨.refl s, rfl⟩
  split
  · exact ⟨.of_eq rfl, rfl⟩
  split
  · exact ⟨.of_eq rfl, rfl⟩
  split
  · exact ⟨(allotsDrained_releaseEngines s k _).trans (allotsDrained_removeJob _ k),
      (removeJob_link_regs _ k).1.trans (releaseEngines_link_regs s k _).1⟩
  · exact ⟨(allotsDrained_endJob s k .aborted).upd rfl, endJob_link s k .aborted⟩

theorem abortJobs_drains (discard : Bool) (s : State) (l : List Nat) :
    AllotsDrained s (abortJobs discard s l) ∧ (abortJobs discard s l).link = s.link :=
  foldl_keeps (fun t => AllotsDrained s t ∧ t.link = s.link)
    (fun t k ht => ⟨ht.1.trans (abortJob_drains discard t k).1, (abortJob_drains discard t k).2.trans ht.2⟩) l ⟨.refl s, rfl⟩

theorem dropDescriptorRead_drains (s : State) (a q : Nat) :
    AllotsDrained s (dropDescriptorRead s a q) ∧ (dropDescriptorRead s a q).link = s.link := by
  unfold dropDescriptorRead
  split
  · split
    · exact ⟨(AllotsDrained.of_eq rfl).trans (allotsDrained_modAllot (modQueue s a q _) a fun v => drained_map v _), rfl⟩
    · exact ⟨.of_eq rfl, rfl⟩
  · exact ⟨.refl s, rfl⟩

theorem dropDescriptorReads_drains (s : State) (a : Nat) (l : List Nat) :
    AllotsDrained s (l.foldl (fun s k => dropDescriptorRead s a (k % 8)) s) ∧
      (l.foldl (fun s k => dropDescriptorRead s a (k % 8)) s).link = s.link :=
  foldl_keeps (fun t : State => AllotsDrained s t ∧ t.link = s.link)
    (fun t k ht => ⟨ht.1.trans (dropDescriptorRead_drains t a (k % 8)).1, (dropDescriptorRead_drains t a (k % 8)).2.trans ht.2⟩) l
    ⟨.refl s, rfl⟩

end Sys2Proof.Machine
end

section
/-! SUPPORT. Bus Master Enable, D3hot, FLR and VF Enable act on the functions that exist, with O8 (03_host_link.md R67, R70). -/
namespace Sys2Proof.Machine
open Sys2Proof

variable {s t : State}

/-! ## Quiesce of a function's allotments -/

/-- The allotment is there and fetches nothing. -/
def Quiesced (a : Nat) (s : State) : Prop := ∃ w, KMap.get? s.allots a = some w ∧ w.quiesced = true

theorem mem_boundTo {a f : Nat} {v : Allotment} (hv : KMap.get? s.allots a = some v) (hf : v.func = some f) : a ∈ boundTo s f :=
  List.mem_map.mpr ⟨(a, v), List.mem_filter.mpr ⟨KMap.mem_of_get? hv, decide_eq_true hf⟩, rfl⟩

/-- The quiesce of an allotment drains allotments, marks its own, and leaves the link as it is. -/
theorem quiesceAllotment_changes (s : State) (a : Nat) : ∃ u, AllotsDrained s u ∧ (quiesceAllotment s a).link = s.link ∧
    (quiesceAllotment s a).allots = KMap.adjust u.allots a fun v => { v with quiesced := true, channelKey := none } := by
  have reads := dropDescriptorReads_drains s a (queuesOf s a)
  have jobs := abortJobs_drains true ((queuesOf s a).foldl (fun s k => dropDescriptorRead s a (k % 8)) s)
    (jobsOf ((queuesOf s a).foldl (fun s k => dropDescriptorRead s a (k % 8)) s) a)
  exact ⟨_, reads.1.trans jobs.1, jobs.2.trans reads.2, rfl⟩

theorem quiesced_quiesceAllotment {a : Nat} (h : (KMap.get? s.allots a).isSome) : Quiesced a (quiesceAllotment s a) := by
  obtain ⟨v, hv⟩ := Option.isSome_iff_exists.mp h
  obtain ⟨u, drained, -, own⟩ := quiesceAllotment_changes s a
  obtain ⟨w, hw, -⟩ := drained.get? hv
  exact ⟨_, by rw [own, KMap.get?_adjust_same, hw]; rfl, rfl⟩

theorem isSome_quiesceAllotment {a : Nat} (h : (KMap.get? s.allots a).isSome) (b : Nat) :
    (KMap.get? (quiesceAllotment s b).allots a).isSome := by
  obtain ⟨v, hv⟩ := Option.isSome_iff_exists.mp h
  obtain ⟨u, drained, -, own⟩ := quiesceAllotment_changes s b
  obtain ⟨w, hw, -⟩ := drained.get? hv
  rw [own, isSome_adjust, hw]
  rfl

theorem Quiesced.quiesceAllotment {a : Nat} (h : Quiesced a s) (b : Nat) : Quiesced a (quiesceAllotment s b) := by
  obtain ⟨v, hv, quiet⟩ := h
  by_cases hb : a = b
  · subst hb
    exact quiesced_quiesceAllotment (by rw [hv]; rfl)
  · obtain ⟨u, drained, -, own⟩ := quiesceAllotment_changes s b
    obtain ⟨w, hw, same⟩ := drained.get? hv
    exact ⟨w, by rw [own, KMap.get?_adjust_ne _ _ hb, hw], by rw [same.same]; exact quiet⟩

/-- Every allotment bound to a quiesced function is quiesced. -/
theorem quiesced_quiesceFunc {a f : Nat} {v : Allotment} (hv : KMap.get? s.allots a = some v) (hf : v.func = some f) :
    Quiesced a (quiesceFunc s f) :=
  foldl_reaches (P := fun t : State => (KMap.get? t.allots a).isSome) (Q := Quiesced a) (fun _ b h => isSome_quiesceAllotment h b)
    (fun _ b h => h.quiesceAllotment b) (fun _ h => quiesced_quiesceAllotment h) (mem_boundTo hv hf) (by rw [hv]; rfl)

theorem quiesceFunc_link (s : State) (f : Nat) : (quiesceFunc s f).link = s.link :=
  foldl_keeps (fun t : State => t.link = s.link) (fun t a ht => by
    obtain ⟨-, -, link, -⟩ := quiesceAllotment_changes t a
    exact link.trans ht) _ rfl

/-- A function that is written and then quiesced reads as written, and its allotments fetch nothing; the event that records it
bears on neither. -/
theorem quiesceFunc_of_setFunc (s : State) (f : Nat) (v : Func) (code allot : W16) (d : List Byte) :
    funcAt (logLink (quiesceFunc (setFunc s f v) f) code allot d) f = v ∧
      ∀ a x, KMap.get? s.allots a = some x → x.func = some f →
        ∃ w, KMap.get? (logLink (quiesceFunc (setFunc s f v) f) code allot d).allots a = some w ∧ w.quiesced = true := by
  refine ⟨?_, fun a x hx hf => quiesced_quiesceFunc (s := setFunc s f v) hx hf⟩
  have funcs : (logLink (quiesceFunc (setFunc s f v) f) code allot d).link.funcs = (setFunc s f v).link.funcs :=
    congrArg Link.funcs (quiesceFunc_link _ f)
  rw [funcAt_congr funcs, funcAt_setFunc_same]

/-! ## Return to fetching -/

theorem resumeIfMaster_frame (s : State) (f : Nat) : (resumeIfMaster s f).jobs = s.jobs ∧
    (resumeIfMaster s f).queues = s.queues ∧ (resumeIfMaster s f).link = s.link := by
  unfold resumeIfMaster resumeFunc
  split
  · refine foldl_keeps (fun t : State => t.jobs = s.jobs ∧ t.queues = s.queues ∧ t.link = s.link) (fun t a ht => ?_) _ ⟨rfl, rfl, rfl⟩
    exact ht
  · exact ⟨rfl, rfl, rfl⟩

theorem startDownload_frame (s : State) : (startDownload s).jobs = s.jobs ∧ (startDownload s).queues = s.queues ∧
    (startDownload s).link.funcs = s.link.funcs := by
  unfold startDownload
  split <;> exact ⟨rfl, rfl, rfl⟩

/-- A function that may master again reads as written, and no job or queue changes. -/
theorem resumeIfMaster_of_setFunc (s : State) (f : Nat) (v : Func) : funcAt (resumeIfMaster (setFunc s f v) f) f = v ∧
    (resumeIfMaster (setFunc s f v) f).jobs = s.jobs ∧ (resumeIfMaster (setFunc s f v) f).queues = s.queues := by
  obtain ⟨jobs, queues, link⟩ := resumeIfMaster_frame (setFunc s f v) f
  refine ⟨?_, jobs, queues⟩
  rw [funcAt_congr (congrArg Link.funcs link), funcAt_setFunc_same]

theorem bmeSet_sets (s : State) (f : Nat) : (funcAt (bmeSet s f) f).bme = true ∧ (bmeSet s f).jobs = s.jobs ∧
    (bmeSet s f).queues = s.queues := by
  obtain ⟨func, jobs, queues⟩ := resumeIfMaster_of_setFunc s f { funcAt s f with bme := true }
  unfold bmeSet
  split
  · obtain ⟨jobs', queues', funcs⟩ := startDownload_frame (resumeIfMaster (setFunc s f { funcAt s f with bme := true }) f)
    exact ⟨by rw [funcAt_congr funcs, func], jobs'.trans jobs, queues'.trans queues⟩
  · exact ⟨by rw [func], jobs, queues⟩

/-! ## VFs -/

/-- Values put at the keys 1 to `n`. -/
theorem get?_foldl_put {α : Type} (c : α) {n v : Nat} (m : KMap α) (h1 : 1 ≤ v) (hn : v ≤ n) :
    KMap.get? ((List.range n).foldl (fun m i => KMap.put m (i + 1) c) m) v = some c := by
  induction n with
  | zero => omega
  | succ n ih =>
    rw [List.range_succ, List.foldl_append]
    simp only [List.foldl_cons, List.foldl_nil]
    by_cases hv : v = n + 1
    · rw [hv, KMap.get?_put_same]
    · rw [KMap.get?_put_ne _ _ hv, ih (by omega)]

theorem funcAt_vfsOn {n v : Nat} (off : s.link.vfEnable = false) (some : n ≠ 0) (page : s.link.pageSize = 1) (h1 : 1 ≤ v)
    (hn : v ≤ n) : funcAt (vfsOn s n) v = Func.reset := by
  have vfs := get?_foldl_put Func.reset s.link.funcs h1 hn
  simp [vfsOn, off, some, page, funcAt, KMap.getD, vfs]

/-! ## The rows -/

section Rows
variable {f : Fin 64} (here : funcExists s f.val = true)
include here

theorem exec_bmeCleared : exec (.bmeCleared f) s = .next (bmeClear s f.val) := by
  change execBmeCleared f s = _
  rw [execBmeCleared, if_pos here]

theorem exec_bmeSet : exec (.bmeSet f) s = .next (bmeSet s f.val) := by
  change execBmeSet f s = _
  rw [execBmeSet, if_pos here]

theorem exec_d3hotEntry : exec (.d3hotEntry f) s = .next (enterD3 s f.val) := by
  change execD3hotEntry f s = _
  rw [execD3hotEntry, if_pos here]

theorem exec_d0Return : exec (.d0Return f) s = .next (leaveD3 s f.val) := by
  change execD0Return f s = _
  rw [execD0Return, if_pos here]

theorem exec_flr : exec (.flr f) s = .next (flrOf s f.val) := by
  change execFlr f s = _
  rw [execFlr, if_pos here]

end Rows

/-- The clause of the functions. -/
theorem functionRows (s : State) (f : Fin 64) (here : funcExists s f.val = true) :
    ((funcAt s f.val).bme = true → ∃ t, exec (.bmeCleared f) s = .next t ∧ (funcAt t f.val).bme = false ∧
      ∀ a v, KMap.get? s.allots a = some v → v.func = some f.val → ∃ w, KMap.get? t.allots a = some w ∧ w.quiesced = true) ∧
    ((funcAt s f.val).bme = false → exec (.bmeCleared f) s = .next s) ∧
    (∃ t, exec (.bmeSet f) s = .next t ∧ (funcAt t f.val).bme = true ∧ t.jobs = s.jobs ∧ t.queues = s.queues) ∧
    ((funcAt s f.val).d3hot = false → ∃ t, exec (.d3hotEntry f) s = .next t ∧ (funcAt t f.val).d3hot = true ∧
      ∀ a v, KMap.get? s.allots a = some v → v.func = some f.val → ∃ w, KMap.get? t.allots a = some w ∧ w.quiesced = true) ∧
    ((funcAt s f.val).d3hot = true → exec (.d3hotEntry f) s = .next s) ∧
    ((funcAt s f.val).d3hot = true → ∃ t, exec (.d0Return f) s = .next t ∧ (funcAt t f.val).d3hot = false ∧
      t.jobs = s.jobs ∧ t.queues = s.queues) ∧
    ((funcAt s f.val).d3hot = false → exec (.d0Return f) s = .next s) ∧
    (f.val ≠ 0 → ∃ t, exec (.flr f) s = .next t ∧ funcAt t f.val = { Func.reset with mse := (funcAt s f.val).mse }) ∧
    (f.val = 0 → exec (.flr f) s = .next s) := by
  rw [exec_bmeCleared here, exec_bmeSet here, exec_d3hotEntry here, exec_d0Return here, exec_flr here]
  refine ⟨fun on => ?_, fun off => ?_, ⟨_, rfl, bmeSet_sets s f.val⟩, fun awake => ?_, fun hot => ?_, fun hot => ?_, fun awake => ?_,
    fun vf => ?_, fun pf => ?_⟩
  · obtain ⟨func, quiet⟩ := quiesceFunc_of_setFunc s f.val { funcAt s f.val with bme := false } 0x0014 0xFFFF (leBytes 1 f.val)
    exact ⟨_, by rw [bmeClear, if_pos on], by rw [func], quiet⟩
  · rw [bmeClear, off]
    rfl
  · obtain ⟨func, quiet⟩ := quiesceFunc_of_setFunc s f.val { funcAt s f.val with d3hot := true } 0x0015 0xFFFF (leBytes 1 f.val)
    exact ⟨_, by rw [enterD3, awake]; rfl, by rw [func], quiet⟩
  · rw [enterD3, if_pos hot]
  · obtain ⟨func, jobs, queues⟩ := resumeIfMaster_of_setFunc s f.val { funcAt s f.val with d3hot := false }
    exact ⟨_, by rw [leaveD3, if_pos hot], by rw [func], jobs, queues⟩
  · rw [leaveD3, awake]
    rfl
  · refine ⟨_, rfl, ?_⟩
    rw [flrOf, if_neg vf]
    exact funcAt_setFunc_same ..
  · rw [flrOf, if_pos pf]

/-- Settles O8: a function's row by what it writes of the function and whether its allotments are quiesced or may fetch again. -/
theorem functionEvents : Obligations.FunctionEvents := by
  refine ⟨functionRows, fun s n => ⟨fun off some page => ?_, fun none => ?_, fun off => ?_, fun on => ?_⟩⟩
  · have row : exec (.vfEnable n) s = .next (vfsOn s n.val) := rfl
    refine ⟨_, row, ?_, ?_, ?_, ?_, fun v h1 hn => funcAt_vfsOn off some page h1 hn⟩ <;> simp [vfsOn, off, some, page]
  · change execVfEnable n s = _
    have idle : (s.link.vfEnable || decide (n.val = 0) || decide (s.link.pageSize ≠ 1)) = true := by
      simp only [Bool.or_eq_true, decide_eq_true_eq]
      exact or_assoc.mpr none
    rw [execVfEnable, vfsOn, if_pos idle]
  · change execVfDisable n s = _
    simp [execVfDisable, vfsOff, off]
  · change ∃ t, execVfDisable n s = _ ∧ _
    refine ⟨_, rfl, ?_⟩
    rw [vfsOff, on]
    exact ⟨rfl, rfl⟩

end Sys2Proof.Machine
end

section
/-! SUPPORT. The rows of the link but its reset: training, posted credit, reported errors and the vector table
(03_host_link.md R59, R66, R69, R72; 20_reset_boot.md R450, R454). -/
namespace Sys2Proof.Machine
open Sys2Proof

variable {s : State}

/-! ## Training (R454) -/

theorem exec_linkTrainingEnd {speed : BitVec 3} {width : BitVec 5} (trained : trainedLink speed width = true) :
    exec (.linkTrainingEnd speed width) s = .next (if decide (5 ≤ s.boot.stage) && !s.link.perst && !s.link.up then
      { s with link := { s.link with up := true, speed := speed.toNat, width := width.toNat } } else s) := by
  change execLinkTrainingEnd speed width s = _
  rw [execLinkTrainingEnd, trained]
  rfl

theorem linkTraining (s : State) {speed : BitVec 3} {width : BitVec 5} (trained : trainedLink speed width = true) :
    (5 ≤ s.boot.stage → s.link.perst = false → s.link.up = false → exec (.linkTrainingEnd speed width) s =
      .next { s with link := { s.link with up := true, speed := speed.toNat, width := width.toNat } }) ∧
    (s.boot.stage < 5 ∨ s.link.perst = true ∨ s.link.up = true → exec (.linkTrainingEnd speed width) s = .next s) := by
  rw [exec_linkTrainingEnd trained]
  refine ⟨fun stage perst up => by simp [stage, perst, up], fun held => ?_⟩
  have shut : (decide (5 ≤ s.boot.stage) && !s.link.perst && !s.link.up) = false := by
    obtain early | perst | up := held
    · simp [Nat.not_le.mpr early]
    · simp [perst]
    · simp [up]
  rw [shut]
  rfl

/-! ## Posted credit (R66) -/

/-- The report of a stall waits with the other posted items, and its event is entered. -/
theorem postedCreditStall (s : State) (credit : s.link.credit = true) : ∃ t, exec .postedCreditStall s = .next t ∧
    t.link.credit = false ∧ t.link.stalledSince = now s - 4096 ∧ t.link.out = s.link.out ∧ t.jobs = s.jobs ∧ t.queues = s.queues ∧
    t.link.held = s.link.held ++ (if aerMasked (funcAt s 0) .uncorrectableInternal then []
      else [.aer 0 .uncorrectableInternal (aerSeverity (funcAt s 0) .uncorrectableInternal)]) ∧
    t.events = enterEvent s.events
      { first := false, cls := 4, code := 0x0018, allot := 0xFFFF, unit := 15, source := 0xFF, tick := now s, count := 1,
        detail := leBytes 12 4096 } := by
  let stalled : State := { s with link := { s.link with credit := false, stalledSince := now s - 4096 } }
  have row : exec .postedCreditStall s =
      .next (logLink (reportAer stalled 0 .uncorrectableInternal 0) 0x0018 0xFFFF (leBytes 8 4096)) := by
    change execPostedCreditStall s = _
    rw [execPostedCreditStall, if_pos credit]
  have report := reportAer_eq stalled 0 .uncorrectableInternal 0
  refine ⟨_, row, ?_⟩
  cases masked : aerMasked (funcAt s 0) .uncorrectableInternal with
  | true =>
    rw [show aerMasked (funcAt stalled 0) .uncorrectableInternal = true from masked, if_pos rfl] at report
    rw [report]
    exact ⟨rfl, rfl, rfl, rfl, rfl, (List.append_nil _).symm, rfl⟩
  | false =>
    rw [show aerMasked (funcAt stalled 0) .uncorrectableInternal = false from masked, if_neg (by decide),
      send_of_no_credit _ rfl] at report
    rw [report]
    exact ⟨rfl, rfl, rfl, rfl, rfl, rfl, rfl⟩

/-! ## Reported errors (R72) -/

/-- An error of a function that exists is the function's, any other is PF0's. -/
def errorFunc (s : State) (f : Nat) : Nat := if funcExists s f then f else 0

/-- A fatal error of the link ends its training. -/
def retrained (t : State) (e : AerError) : State := if retrains e then { t with link.up := false } else t

theorem retrained_eq (t : State) (e : AerError) : retrained t e = { t with link.up := t.link.up && !retrains e } := by
  unfold retrained
  cases retrains e <;> simp

theorem exec_aerError (e : AerError) (f : Fin 64) (header : BitVec 128) (s : State) : exec (.aerError e f header) s =
    .next (retrained (reportAer s (errorFunc s f.val) e header) e) := rfl

theorem aerErrors (s : State) (e : AerError) (f : Fin 64) (header : BitVec 128) (g : Nat)
    (hg : g = (if funcExists s f.val then f.val else 0)) : ∃ t, exec (.aerError e f header) s = .next t ∧
      t.link.aerLog = s.link.aerLog ++ [(g, e, if headerLogged e then header else 0)] ∧
      funcAt t g = noteAer (funcAt s g) e header ∧ (∀ i, i ≠ g → funcAt t i = funcAt s i) ∧
      t.link.up = (s.link.up && !retrains e) ∧
      (aerMasked (funcAt s g) e = true → t.link.out = s.link.out ∧ t.link.held = s.link.held) ∧
      (aerMasked (funcAt s g) e = false → s.link.credit = true →
        t.link.out = s.link.out ++ [.aer g e (aerSeverity (funcAt s g) e)] ∧ t.link.held = s.link.held) ∧
      (aerMasked (funcAt s g) e = false → s.link.credit = false →
        t.link.out = s.link.out ∧ t.link.held = s.link.held ++ [.aer g e (aerSeverity (funcAt s g) e)]) ∧
      t.events = s.events ∧ t.jobs = s.jobs ∧ t.queues = s.queues ∧ t.allots = s.allots := by
  have row := exec_aerError e f header s
  rw [show errorFunc s f.val = g from hg.symm] at row
  refine ⟨_, row, ?_⟩
  rw [retrained_eq]
  have report := reportAer_eq s g e header
  have same := funcAt_errorNoted_same s g e header
  have others (i : Nat) (h : i ≠ g) := funcAt_errorNoted_ne s e header h
  cases masked : aerMasked (funcAt s g) e with
  | true =>
    rw [if_pos masked] at report
    rw [report]
    exact ⟨rfl, same, others, rfl, fun _ => ⟨rfl, rfl⟩, nofun, nofun, rfl, rfl, rfl, rfl⟩
  | false =>
    rw [masked, if_neg (by decide)] at report
    cases credit : s.link.credit with
    | true =>
      rw [send_of_credit _ (by exact credit)] at report
      rw [report]
      exact ⟨rfl, same, others, rfl, nofun, fun _ _ => ⟨rfl, rfl⟩, fun _ h => (nomatch h), rfl, rfl, rfl, rfl⟩
    | false =>
      rw [send_of_no_credit _ (by exact credit)] at report
      rw [report]
      exact ⟨rfl, same, others, rfl, nofun, fun _ h => (nomatch h), fun _ _ => ⟨rfl, rfl⟩, rfl, rfl, rfl, rfl⟩

/-! ## The vector table (R59, R69) -/

/-- A function with one entry of its vector table written. -/
def entryWritten (x : Func) (e : VectorEntry) : Func :=
  { x with
    table := KMap.put x.table e.vector.val (e.addr, e.data),
    masked := if e.mask then insertNat e.vector.val x.masked else x.masked.filter (· ≠ e.vector.val) }

theorem exec_msixUnmask {f : Fin 64} {e : VectorEntry} (here : funcExists s f.val = true)
    (inside : e.vector.val < vectorCount s f.val) :
    exec (.msixUnmask f e) s = .next (setFunc s f.val (entryWritten (funcAt s f.val) e)) := by
  change execMsixUnmask f e s = _
  simp only [execMsixUnmask, here, inside]
  rfl

theorem contains_entryWritten_same (x : Func) (e : VectorEntry) :
    (entryWritten x e).masked.contains e.vector.val = e.mask := by
  cases h : e.mask <;> simp [entryWritten, h, mem_insertNat]

theorem contains_entryWritten_ne (x : Func) {e : VectorEntry} {v : Nat} (hv : v ≠ e.vector.val) :
    (entryWritten x e).masked.contains v = x.masked.contains v := by
  cases h : e.mask <;> simp [entryWritten, h, mem_insertNat, hv]

/-- The first three words of a vector's entry in BAR 4. -/
theorem bar4Read_entry {f v : Nat} (inside : v < vectorCount s f) {a : W64} {d : W32}
    (entry : KMap.get? (funcAt s f).table v = some (a, d)) :
    bar4Read s f (16 * v) = a.setWidth 32 ∧ bar4Read s f (16 * v + 4) = (a >>> 32).setWidth 32 ∧ bar4Read s f (16 * v + 8) = d := by
  have place {k i : Nat} (hk : k = 4 * i) (hi : i < 4) :
      16 * v + k < 16 * vectorCount s f ∧ (16 * v + k) / 16 = v ∧ (16 * v + k) / 4 % 4 = i := by
    omega
  refine ⟨?_, ?_, ?_⟩
  · obtain ⟨below, vector, word⟩ := place (k := 0) (i := 0) rfl (by decide)
    simp only [Nat.add_zero] at below vector word
    simp only [bar4Read, below, vector, word, KMap.getD, entry, Option.getD_some, if_true]
  · obtain ⟨below, vector, word⟩ := place (k := 4) (i := 1) rfl (by decide)
    simp only [bar4Read, below, vector, word, KMap.getD, entry, Option.getD_some, if_true]
  · obtain ⟨below, vector, word⟩ := place (k := 8) (i := 2) rfl (by decide)
    simp only [bar4Read, below, vector, word, KMap.getD, entry, Option.getD_some, if_true]

theorem vectorWrites (s : State) (f : Fin 64) (e : VectorEntry) (here : funcExists s f.val = true)
    (inside : e.vector.val < vectorCount s f.val) : ∃ t, exec (.msixUnmask f e) s = .next t ∧ t = setFunc s f.val (funcAt t f.val) ∧
      bar4Read t f.val (16 * e.vector.val) = e.addr.setWidth 32 ∧
      bar4Read t f.val (16 * e.vector.val + 4) = (e.addr >>> 32).setWidth 32 ∧
      bar4Read t f.val (16 * e.vector.val + 8) = e.data ∧
      (funcAt t f.val).masked.contains e.vector.val = e.mask ∧
      (∀ v, v ≠ e.vector.val → KMap.get? (funcAt t f.val).table v = KMap.get? (funcAt s f.val).table v ∧
        (funcAt t f.val).masked.contains v = (funcAt s f.val).masked.contains v) ∧
      (funcAt t f.val).pba = (funcAt s f.val).pba := by
  have func := funcAt_setFunc_same s f.val (entryWritten (funcAt s f.val) e)
  obtain ⟨low, high, data⟩ := bar4Read_entry (s := setFunc s f.val (entryWritten (funcAt s f.val) e)) (f := f.val)
    (v := e.vector.val) inside (a := e.addr) (d := e.data) (by rw [func]; exact KMap.get?_put_same ..)
  refine ⟨_, exec_msixUnmask here inside, by rw [func], low, high, data, ?_, fun v hv => ?_, ?_⟩
  · rw [func, contains_entryWritten_same]
  · rw [func]
    exact ⟨KMap.get?_put_ne _ _ hv, contains_entryWritten_ne _ hv⟩
  · rw [func]
    rfl

theorem vectorOutside (s : State) (f : Fin 64) (e : VectorEntry)
    (h : funcExists s f.val = false ∨ vectorCount s f.val ≤ e.vector.val) : exec (.msixUnmask f e) s = .next s := by
  change execMsixUnmask f e s = _
  obtain gone | outside := h
  · simp [execMsixUnmask, gone]
  · simp [execMsixUnmask, Nat.not_lt.mpr outside]

end Sys2Proof.Machine
end

section
/-! SUPPORT. The reset of the link of a ready device, with O7 (03_host_link.md R71; 20_reset_boot.md R450, R506). -/
namespace Sys2Proof.Machine
open Sys2Proof

variable {s t u : State}

/-! ## The parts of the reset -/

/-- An allotment bound to no function. -/
def unbound (v : Allotment) : Allotment := { v with func := none, page := 0, tagGroup := 0, reads := [] }

/-- The tenants have lost their functions. -/
def tenantsUnbound (s : State) : State := (tenants s).foldl (fun s a => modAllot s a unbound) s

/-- Each tenant has been orphaned, put to destruction or ended. -/
def tenantsReset (s : State) : State := (tenants s).foldl linkResetAllotment s

/-- The clocks of the PCIe domains stand. -/
def linkHeld (s : State) : State := { s with clocks := holdClocks s.clocks fun n => decide (clockStage n = 5) }

/-- The state that the reset of the rings and of the configuration starts from. -/
def allotsReset (s : State) : State := dropAdminQueues (tenantsUnbound (tenantsReset (linkHeld s)))

/-- The rings and the configuration are reset, and the event that records it is entered. -/
def linkReset (u : State) (perst : Bool) (d : List Byte) : State := logLink (linkDown (dropRings u) perst) 0x0017 0xFFFF d

theorem exec_linkReset {perst : Bool} (ready : s.boot.ready = true) :
    ∃ d, exec (.linkReset perst) s = .next (linkReset (allotsReset s) perst d) := by
  have row : exec (.linkReset perst) s = .next (resetLink s perst) := by
    change execLinkReset perst s = _
    rw [execLinkReset, if_pos ready]
  exact ⟨_, row⟩

theorem exec_linkReset_of_not_ready {perst : Bool} (early : s.boot.ready = false) : exec (.linkReset perst) s = .next { s with
    link := { s.link with perst := s.link.perst || perst, up := false, speed := 0, width := 0 },
    clocks := holdClocks s.clocks fun n => decide (clockStage n = 5) } := by
  change execLinkReset perst s = _
  rw [execLinkReset, early]
  rfl

/-! ## The rings and the queues of allotment 0 -/

theorem enterEvent_enable (l : EventLog) (e : Event) : (enterEvent l e).enable = l.enable := by
  unfold enterEvent
  dsimp only
  split_ifs <;> rfl

/-- A register less its remainder by 2 has bit 0 clear. -/
theorem getLsbD_sub_mod_two (x : W64) : (x - x % 2).getLsbD 0 = false := by
  have even : (x - x % 2).toNat % 2 = 0 := by
    have low : (x % 2).toNat = x.toNat % 2 := by simp [BitVec.toNat_umod]
    rw [BitVec.toNat_sub_of_le (by rw [BitVec.le_def, low]; exact Nat.mod_le ..), low]
    omega
  rw [BitVec.getLsbD, Nat.testBit_zero, even]
  rfl

/-- The rings and the link, and what is beside them, after the reset of both. -/
theorem linkReset_changes (u : State) (perst : Bool) (d : List Byte) :
    (linkReset u perst d).link = { Link.reset with perst := perst, out := u.link.out } ∧
    (linkReset u perst d).regs.admEnabled = false ∧ (linkReset u perst d).regs.admDraining = false ∧
    (linkReset u perst d).regs.admCtrl.getLsbD 0 = false ∧ (linkReset u perst d).events.enable = false ∧
    (linkReset u perst d).journal.jxEnable = false ∧ (linkReset u perst d).dump.enable = false :=
  ⟨rfl, rfl, rfl, getLsbD_sub_mod_two u.regs.admCtrl, enterEvent_enable (dropRings u).events _, rfl, rfl⟩

theorem linkReset_beside (u : State) (perst : Bool) (d : List Byte) :
    ((linkReset u perst d).queues, (linkReset u perst d).allots, (linkReset u perst d).jobs, (linkReset u perst d).boot,
      (linkReset u perst d).otp, (linkReset u perst d).plots, (linkReset u perst d).ice) =
      (u.queues, u.allots, u.jobs, u.boot, u.otp, u.plots, u.ice) := rfl

theorem get?_keep_of_false {α : Type} (m : KMap α) {f : Nat → α → Bool} {k : Nat} (h : ∀ a, f k a = false) :
    KMap.get? (KMap.keep m f) k = none := by
  by_contra some
  obtain ⟨a, ha⟩ := Option.ne_none_iff_exists'.mp some
  have kept := (List.mem_filter.mp (KMap.mem_of_get? ha)).2
  rw [h a] at kept
  cases kept

/-! ## Aborts at once -/

theorem allotsDrained_completeAborted (s : State) (k : Nat) : AllotsDrained s (completeAborted s k) := by
  unfold completeAborted
  split
  · exact .refl s
  split
  next j _ _ =>
    dsimp only
    obtain ⟨o, l, first⟩ := send_changes s (.write (funcOf s (keyAllot k)) (entryAddress s k + 1)
      ((completionBytes j (framed s k j) j.written).drop 1) false)
    rw [first]
    obtain ⟨o', l', second⟩ := send_changes { s with link := { s.link with out := o, held := l } } (.write (funcOf s (keyAllot k))
      (entryAddress { s with link := { s.link with out := o, held := l } } k)
      ((completionBytes j (framed s k j) j.written).take 1) false)
    rw [second]
    exact (AllotsDrained.of_eq rfl).trans (allotsDrained_removeJob _ k)
  next => exact .refl s

theorem allotsDrained_abortAllotment (s : State) (a : Nat) : AllotsDrained s (abortAllotment s a) :=
  (abortJobs_drains false s _).1.trans (dropDescriptorReads_drains _ a _).1

theorem allotsDrained_abortAtOnce (s : State) (a : Nat) : AllotsDrained s (abortAtOnce s a) :=
  ((allotsDrained_abortAllotment s a).trans (abortJobs_drains true _ _).1).trans
    (allotsDrained_foldl allotsDrained_completeAborted _ _)

/-- Without jobs there is nothing to complete. -/
theorem readsDropped_abortAtOnce (idle : s.jobs = []) (a : Nat) : ReadsDropped (fun _ => True) s (abortAtOnce s a) := by
  have none : jobsOf s a = [] := by simp [jobsOf, idle]
  have dropped := readsDropped_abortAllotment none
  have still : jobsOf (abortAllotment s a) a = [] := by simp [jobsOf, dropped.jobs, idle]
  have same : abortAtOnce s a = abortAllotment s a := by
    simp only [abortAtOnce, still]
    rfl
  rw [same]
  exact dropped

/-! ## Allotment 0 -/

/-- Allotment 0 has no queue, and the other allotments have lost reads and jobs at most. -/
theorem dropAdminQueues_changes (s : State) : ∃ u f, AllotsDrained s u ∧
    (dropAdminQueues s).allots = KMap.adjust u.allots 0 f ∧ ∀ q, q < 8 → KMap.get? (dropAdminQueues s).queues q = none :=
  ⟨_, fun v => { v with windows := KMap.drop v.windows 0, reads := [] }, allotsDrained_abortAtOnce s 0, rfl, fun _ hq =>
    get?_keep_of_false (f := fun k _ => decide (k / 8 ≠ 0)) (abortAtOnce s 0).queues fun _ =>
      decide_eq_false (not_not.mpr (Nat.div_eq_of_lt hq))⟩

/-! ## No tenant is bound -/

/-- Whatever stands at the allotment's number is bound to no function and has no read. -/
def Unbound (a : Nat) (s : State) : Prop := ∀ v, KMap.get? s.allots a = some v → v.func = none ∧ v.reads = []

theorem Unbound.modAllot {a : Nat} (h : Unbound a s) (b : Nat) : Unbound a (modAllot s b unbound) := by
  intro w hw
  by_cases hb : a = b
  · rw [← hb, Machine.modAllot, KMap.get?_adjust_same, Option.map_eq_some_iff] at hw
    obtain ⟨v, -, rfl⟩ := hw
    exact ⟨rfl, rfl⟩
  · rw [Machine.modAllot, KMap.get?_adjust_ne _ _ hb] at hw
    exact h w hw

theorem unbound_modAllot_same (s : State) (a : Nat) : Unbound a (modAllot s a unbound) := by
  intro w hw
  rw [Machine.modAllot, KMap.get?_adjust_same, Option.map_eq_some_iff] at hw
  obtain ⟨v, -, rfl⟩ := hw
  exact ⟨rfl, rfl⟩

theorem mem_tenants {a : Nat} {v : Allotment} (ha : 1 ≤ a) (hv : KMap.get? s.allots a = some v) : a ∈ tenants s :=
  List.mem_filter.mpr ⟨List.mem_map.mpr ⟨(a, v), KMap.mem_of_get? hv, rfl⟩, decide_eq_true ha⟩

theorem unbound_tenantsUnbound (s : State) {a : Nat} (ha : 1 ≤ a) : Unbound a (tenantsUnbound s) := by
  cases hv : KMap.get? s.allots a with
  | none => exact foldl_keeps (f := fun s a => modAllot s a unbound) (Unbound a) (fun _ b h => h.modAllot b) _ fun v h => nomatch hv.symm.trans h
  | some v =>
    exact foldl_reaches (f := fun s a => modAllot s a unbound) (P := fun _ => True) (fun _ _ h => h) (fun _ b h => h.modAllot b)
      (fun t _ => unbound_modAllot_same t a) (mem_tenants ha hv) trivial

theorem Unbound.dropAdminQueues {a : Nat} (h : Unbound a s) (ha : 1 ≤ a) : Unbound a (dropAdminQueues s) := by
  intro w hw
  obtain ⟨u, f, drained, allots, -⟩ := dropAdminQueues_changes s
  rw [allots, KMap.get?_adjust_ne _ _ (by omega)] at hw
  obtain ⟨v, hv, same⟩ := drained.of_get? hw
  obtain ⟨func, reads⟩ := h v hv
  exact ⟨by rw [same.same]; exact func, same.none reads⟩

theorem unbound_allotsReset (s : State) {a : Nat} (ha : 1 ≤ a) : Unbound a (allotsReset s) :=
  (unbound_tenantsUnbound _ ha).dropAdminQueues ha

theorem queue_allotsReset (s : State) {q : Nat} (hq : q < 8) : KMap.get? (allotsReset s).queues q = none := by
  obtain ⟨-, -, -, -, queues⟩ := dropAdminQueues_changes (tenantsUnbound (tenantsReset (linkHeld s)))
  exact queues q hq

/-! ## What a reset keeps of a tenant -/

/-- A tenant's lease, windows and channel key stand, and neither mark is taken from it. -/
structure TenantKept (v w : Allotment) : Prop where
  lease : w.lease = v.lease
  windows : w.windows = v.windows
  channelKey : w.channelKey = v.channelKey
  orphaned : v.orphaned = true → w.orphaned = true
  destroying : v.destroying = true → w.destroying = true

theorem TenantKept.refl (v : Allotment) : TenantKept v v := ⟨rfl, rfl, rfl, id, id⟩

theorem TenantKept.trans {v w x : Allotment} (h : TenantKept v w) (g : TenantKept w x) : TenantKept v x :=
  ⟨g.lease.trans h.lease, g.windows.trans h.windows, g.channelKey.trans h.channelKey, g.orphaned ∘ h.orphaned,
    g.destroying ∘ h.destroying⟩

theorem Drained.tenantKept {v w : Allotment} (h : Drained v w) : TenantKept v w := by
  rw [h.same]
  exact ⟨rfl, rfl, rfl, id, id⟩

/-- The mark a link reset sets: destruction where the Vault can record it, otherwise orphaned. -/
def Marked (writable : Bool) (w : Allotment) : Prop :=
  (writable = false → w.orphaned = true) ∧ (writable = true → w.destroying = true)

theorem Marked.kept {writable : Bool} {v w : Allotment} (h : Marked writable v) (k : TenantKept v w) : Marked writable w :=
  ⟨k.orphaned ∘ h.1, k.destroying ∘ h.2⟩

/-- What a link reset of a device without jobs does not touch. -/
def besideTenants (s : State) := (s.jobs, s.link, s.boot, s.otp, s.vault)

/-- From `s` to `t` tenants with keys keep them and what a reset keeps; the tenant `b`, if it has keys, is marked. -/
structure KeysSpared (b : Option Nat) (s t : State) : Prop where
  beside : besideTenants t = besideTenants s
  keys : ∀ a, liveKeys s a ≠ [] → liveKeys t a = liveKeys s a
  tenant : ∀ a v, 1 ≤ a → liveKeys s a ≠ [] → KMap.get? s.allots a = some v →
    ∃ w, KMap.get? t.allots a = some w ∧ TenantKept v w ∧ (b = some a → Marked (vaultWritable s) w)

theorem KeysSpared.of_drained (beside : besideTenants t = besideTenants s) (keys : t.ice.keys = s.ice.keys)
    (drained : AllotsDrained s t) : KeysSpared none s t :=
  ⟨beside, fun a _ => by simp only [liveKeys, keys], fun a v _ _ hv => by
    obtain ⟨w, hw, same⟩ := drained.get? hv
    exact ⟨w, hw, same.tenantKept, nofun⟩⟩

theorem KeysSpared.refl (s : State) : KeysSpared none s s := .of_drained rfl rfl (.refl s)

theorem KeysSpared.vaultWritable {b : Option Nat} (h : KeysSpared b s t) : vaultWritable t = vaultWritable s := by
  have vault : t.vault = s.vault := congrArg (fun p => p.2.2.2.2) h.beside
  simp only [Machine.vaultWritable, vault]

theorem KeysSpared.jobs {b : Option Nat} (h : KeysSpared b s t) : t.jobs = s.jobs := congrArg (fun p => p.1) h.beside

/-- A mark once set stays. -/
theorem KeysSpared.then {b c : Option Nat} (h : KeysSpared b s t) (g : KeysSpared c t u) : KeysSpared b s u where
  beside := g.beside.trans h.beside
  keys a ha := (g.keys a (by rw [h.keys a ha]; exact ha)).trans (h.keys a ha)
  tenant a v h1 ha hv := by
    obtain ⟨w, hw, kept, marked⟩ := h.tenant a v h1 ha hv
    obtain ⟨x, hx, still, -⟩ := g.tenant a w h1 (by rw [h.keys a ha]; exact ha) hw
    exact ⟨x, hx, kept.trans still, fun hb => (marked hb).kept still⟩

/-- The mark that a later step sets. -/
theorem KeysSpared.thenMarked {b c : Option Nat} (h : KeysSpared b s t) (g : KeysSpared c t u) : KeysSpared c s u where
  beside := g.beside.trans h.beside
  keys a ha := (g.keys a (by rw [h.keys a ha]; exact ha)).trans (h.keys a ha)
  tenant a v h1 ha hv := by
    obtain ⟨w, hw, kept, -⟩ := h.tenant a v h1 ha hv
    obtain ⟨x, hx, still, marked⟩ := g.tenant a w h1 (by rw [h.keys a ha]; exact ha) hw
    exact ⟨x, hx, kept.trans still, fun hc => by rw [← h.vaultWritable]; exact marked hc⟩

/-- A change of one allotment that keeps what a reset keeps, and sets its mark. -/
theorem keysSpared_modAllot (s : State) (a : Nat) {f : Allotment → Allotment} (kept : 1 ≤ a → ∀ v, TenantKept v (f v))
    (b : Option Nat) (marked : ∀ i, b = some i → i = a ∧ ∀ v, Marked (vaultWritable s) (f v)) : KeysSpared b s (modAllot s a f) where
  beside := rfl
  keys _ _ := rfl
  tenant i v h1 _ hv := by
    by_cases hi : i = a
    · subst hi
      exact ⟨f v, by rw [modAllot, KMap.get?_adjust_same, hv]; rfl, kept h1 v, fun hb => (marked _ hb).2 v⟩
    · exact ⟨v, by rw [modAllot, KMap.get?_adjust_ne _ _ hi, hv], .refl v, fun hb => absurd (marked _ hb).1 hi⟩

/-! ## One tenant -/

theorem keysSpared_abortAtOnce (idle : s.jobs = []) (a : Nat) : KeysSpared none s (abortAtOnce s a) := by
  have drained := allotsDrained_abortAtOnce s a
  obtain ⟨m, l, h, -⟩ := readsDropped_abortAtOnce idle a
  rw [h] at drained ⊢
  exact .of_drained rfl rfl drained

theorem keysSpared_abortAllotment (idle : s.jobs = []) (a : Nat) : KeysSpared none s (abortAllotment s a) := by
  have drained := allotsDrained_abortAllotment s a
  obtain ⟨m, l, h, -⟩ := readsDropped_abortAllotment (s := s) (a := a) (by simp [jobsOf, idle])
  rw [h] at drained ⊢
  exact .of_drained rfl rfl drained

/-- The end of a destruction reaches no other allotment. -/
theorem keysSpared_finishDestroy (idle : s.jobs = []) {b : Nat} (bare : liveKeys s b = []) :
    KeysSpared (some b) s (finishDestroy s b) := by
  have other {a : Nat} (ha : liveKeys s a ≠ []) : a ≠ b := fun h => ha (h ▸ bare)
  cases hb : KMap.get? s.allots b with
  | none =>
    rw [show finishDestroy s b = s by simp only [finishDestroy, hb]]
    exact ⟨rfl, fun _ _ => rfl, fun a v _ ha hv => ⟨v, hv, .refl v, fun e => absurd (Option.some.inj e).symm (other ha)⟩⟩
  | some x =>
    have none : jobsOf s b = [] := by simp [jobsOf, idle]
    obtain ⟨jobs, -, allots, -⟩ := finishDestroy_of_no_jobs hb none
    have rest : besideTenants (finishDestroy s b) = besideTenants s ∧
        (finishDestroy s b).ice.keys = KMap.keep s.ice.keys fun k _ => decide (k / 64 ≠ b) := by
      simp only [finishDestroy, hb, none, List.foldl_nil]
      exact ⟨rfl, rfl⟩
    obtain ⟨beside, keys⟩ := rest
    refine ⟨beside, fun a ha => ?_, fun a v _ ha hv =>
      ⟨v, by rw [allots, KMap.get?_drop_ne _ (other ha), hv], .refl v, fun e => absurd (Option.some.inj e).symm (other ha)⟩⟩
    rw [liveKeys, keys, KMap.keep, List.filter_filter]
    refine List.filter_congr fun p _ => ?_
    by_cases own : p.1 / 64 = a
    · simp [own, other ha]
    · simp [own]

/-- The records of a destruction change the journal alone. -/
theorem postDestroyed_changes (s : State) (a holder : Nat) : ∃ j, (postDestroyed s a holder).1 = { s with journal := j } := by
  unfold postDestroyed
  refine foldl_keeps (fun p : State × List Nat => ∃ j, p.1 = { s with journal := j }) (fun p kv hp => ?_) _ ⟨s.journal, rfl⟩
  obtain ⟨j, hj⟩ := hp
  exact ⟨_, by dsimp only [postKeyEvent, postRecord]; rw [hj]⟩

theorem keysSpared_beginDestroy (idle : s.jobs = []) (writable : vaultWritable s = true) (b holder : Nat) :
    KeysSpared (some b) s (beginDestroy s b holder) := by
  have aborted := keysSpared_abortAllotment idle b
  obtain ⟨j, records⟩ := postDestroyed_changes (closeQueues (abortAllotment s b) b) b holder
  have posted : KeysSpared none (abortAllotment s b) (postDestroyed (closeQueues (abortAllotment s b) b) b holder).1 := by
    rw [records]
    exact .of_drained rfl rfl (.of_eq rfl)
  have before := aborted.then posted
  rw [← before.vaultWritable] at writable
  refine before.thenMarked (keysSpared_modAllot _ b ?_ _ ?_)
  · exact fun _ v => ⟨rfl, rfl, rfl, id, fun _ => rfl⟩
  · exact fun i hi => ⟨(Option.some.inj hi).symm, fun v => ⟨fun no => (nomatch no.symm.trans writable), fun _ => rfl⟩⟩

theorem keysSpared_orphan (idle : s.jobs = []) (shut : vaultWritable s = false) (b : Nat) : KeysSpared (some b) s (orphan s b) := by
  have dropped : KeysSpared none (abortAtOnce s b) (dropQueues (abortAtOnce s b) b) := .of_drained rfl rfl (.of_eq rfl)
  have before := (keysSpared_abortAtOnce idle b).then dropped
  rw [← before.vaultWritable] at shut
  refine before.thenMarked (keysSpared_modAllot _ b ?_ _ ?_)
  · exact fun _ v => ⟨rfl, rfl, rfl, fun _ => rfl, id⟩
  · exact fun i hi => ⟨(Option.some.inj hi).symm, fun v => ⟨fun _ => rfl, fun yes => nomatch yes.symm.trans shut⟩⟩

/-- A tenant without keys is ended; one with keys is put to destruction or orphaned, by the Vault. -/
theorem keysSpared_linkResetAllotment (idle : s.jobs = []) (b : Nat) : KeysSpared (some b) s (linkResetAllotment s b) := by
  have aborted := keysSpared_abortAtOnce idle b
  have still : (abortAtOnce s b).jobs = [] := aborted.jobs.trans idle
  unfold linkResetAllotment
  split
  next bare =>
    refine aborted.thenMarked (keysSpared_finishDestroy still ?_)
    rw [(readsDropped_abortAtOnce idle b).liveKeys, bare]
  split
  next writable => exact aborted.thenMarked (keysSpared_beginDestroy still (aborted.vaultWritable.trans writable) b _)
  next shut => exact keysSpared_orphan idle (Bool.eq_false_iff.mpr shut) b

/-! ## All tenants, and allotment 0 -/

theorem keysSpared_tenantsReset (idle : s.jobs = []) : KeysSpared none s (tenantsReset s) :=
  foldl_keeps (KeysSpared none s) (fun _ b h => h.then (keysSpared_linkResetAllotment (h.jobs.trans idle) b)) _ (.refl s)

/-- Every tenant has been reached. -/
theorem keysSpared_tenantsReset_of_mem (idle : s.jobs = []) {a : Nat} (ha : a ∈ tenants s) :
    KeysSpared (some a) s (tenantsReset s) :=
  foldl_reaches (P := KeysSpared none s) (fun _ b h => h.then (keysSpared_linkResetAllotment (h.jobs.trans idle) b))
    (fun _ b h => h.then (keysSpared_linkResetAllotment (h.jobs.trans idle) b))
    (fun _ h => h.thenMarked (keysSpared_linkResetAllotment (h.jobs.trans idle) a)) ha (.refl s)

theorem keysSpared_tenantsUnbound (s : State) : KeysSpared none s (tenantsUnbound s) :=
  foldl_keeps (f := fun s a => modAllot s a unbound) (KeysSpared none s)
    (fun t b h => h.then (keysSpared_modAllot (f := unbound) t b (fun _ _ => ⟨rfl, rfl, rfl, id, id⟩) none nofun)) _ (.refl s)

theorem keysSpared_dropAdminQueues (idle : s.jobs = []) : KeysSpared none s (dropAdminQueues s) := by
  have dropped : KeysSpared none (abortAtOnce s 0) (dropQueues (abortAtOnce s 0) 0) := .of_drained rfl rfl (.of_eq rfl)
  exact ((keysSpared_abortAtOnce idle 0).then dropped).then (keysSpared_modAllot _ 0 (fun h => absurd h (by decide)) none nofun)

theorem keysSpared_after_tenantsReset (idle : s.jobs = []) :
    KeysSpared none (tenantsReset (linkHeld s)) (allotsReset s) := by
  have reset := keysSpared_tenantsReset (s := linkHeld s) idle
  have freed := keysSpared_tenantsUnbound (tenantsReset (linkHeld s))
  exact freed.then (keysSpared_dropAdminQueues ((freed.jobs.trans reset.jobs).trans idle))

theorem besideTenants_allotsReset (idle : s.jobs = []) : besideTenants (allotsReset s) = besideTenants s :=
  (keysSpared_after_tenantsReset idle).beside.trans (keysSpared_tenantsReset (s := linkHeld s) idle).beside

/-- A tenant with keys keeps its lease, windows and channel key, and is marked by the Vault. -/
theorem tenant_allotsReset (idle : s.jobs = []) {a : Nat} {v : Allotment} (ha : 1 ≤ a) (hv : KMap.get? s.allots a = some v)
    (keyed : liveKeys s a ≠ []) :
    ∃ w, KMap.get? (allotsReset s).allots a = some w ∧ TenantKept v w ∧ Marked (vaultWritable s) w := by
  have spared := (keysSpared_tenantsReset_of_mem (s := linkHeld s) idle (mem_tenants ha hv)).then (keysSpared_after_tenantsReset idle)
  obtain ⟨w, hw, kept, marked⟩ := spared.tenant a v ha keyed hv
  exact ⟨w, hw, kept, marked rfl⟩

/-- Without tenants and jobs the reset reaches allotment 0 alone. -/
theorem allotsReset_of_no_tenants (idle : s.jobs = []) (alone : tenants s = []) :
    (allotsReset s).plots = s.plots ∧ (allotsReset s).ice.keys = s.ice.keys := by
  have reset : tenantsReset (linkHeld s) = linkHeld s := by
    rw [tenantsReset, show tenants (linkHeld s) = [] from alone]
    rfl
  have freed : tenantsUnbound (linkHeld s) = linkHeld s := by
    rw [tenantsUnbound, show tenants (linkHeld s) = [] from alone]
    rfl
  obtain ⟨m, l, h, -⟩ := readsDropped_abortAtOnce (s := linkHeld s) idle 0
  rw [allotsReset, reset, freed, dropAdminQueues, h]
  exact ⟨rfl, rfl⟩

/-- The clause of a link reset of a ready device. -/
theorem linkResetReady (s : State) (perst : Bool) (ready : s.boot.ready = true) : ∃ t, exec (.linkReset perst) s = .next t ∧
    t.link = { Link.reset with perst := perst, out := t.link.out } ∧
    t.regs.admEnabled = false ∧ t.regs.admDraining = false ∧ t.regs.admCtrl.getLsbD 0 = false ∧ t.events.enable = false ∧
    t.journal.jxEnable = false ∧ t.dump.enable = false ∧
    (∀ q, q < 8 → KMap.get? t.queues q = none) ∧
    (∀ a v, 1 ≤ a → KMap.get? t.allots a = some v → v.func = none ∧ v.reads = []) ∧
    (s.jobs = [] → t.jobs = [] ∧ t.link.out = s.link.out ∧ t.boot = s.boot ∧ t.otp = s.otp ∧
      ∀ a v, 1 ≤ a → KMap.get? s.allots a = some v → liveKeys s a ≠ [] →
        ∃ w, KMap.get? t.allots a = some w ∧ w.lease = v.lease ∧ w.windows = v.windows ∧ w.channelKey = v.channelKey ∧
          (vaultWritable s = false → w.orphaned = true) ∧ (vaultWritable s = true → w.destroying = true)) ∧
    (s.jobs = [] → tenants s = [] → t.plots = s.plots ∧ t.ice.keys = s.ice.keys) := by
  obtain ⟨d, row⟩ := exec_linkReset (perst := perst) ready
  obtain ⟨link, enabled, draining, ctrl, ring, exports, dump⟩ := linkReset_changes (allotsReset s) perst d
  have beside := linkReset_beside (allotsReset s) perst d
  simp only [Prod.mk.injEq] at beside
  obtain ⟨queues, allots, jobs, boot, otp, plots, ice⟩ := beside
  refine ⟨_, row, by rw [link], enabled, draining, ctrl, ring, exports, dump, fun q hq => ?_, fun a v ha hv => ?_,
    fun idle => ?_, fun idle alone => ?_⟩
  · rw [queues]
    exact queue_allotsReset s hq
  · rw [allots] at hv
    exact unbound_allotsReset s ha v hv
  · have stood := besideTenants_allotsReset idle
    simp only [besideTenants, Prod.mk.injEq] at stood
    obtain ⟨jobs', link', boot', otp', -⟩ := stood
    rw [jobs, jobs', boot, boot', otp, otp', link, link', allots]
    refine ⟨idle, rfl, rfl, rfl, fun a v ha hv keyed => ?_⟩
    obtain ⟨w, hw, kept, marked⟩ := tenant_allotsReset idle ha hv keyed
    exact ⟨w, hw, kept.lease, kept.windows, kept.channelKey, marked⟩
  · rw [plots, ice]
    exact allotsReset_of_no_tenants idle alone

/-- Settles O7: each row of the link by its own equation; for the reset of a ready device, the folds over the tenants keep
`KeysSpared`, and each tenant is reached once. -/
theorem linkEvents : Obligations.LinkEvents := by
  unfold Obligations.LinkEvents
  refine ⟨fun s => ⟨fun _ early => exec_linkReset_of_not_ready early, rfl, fun _ _ trained => linkTraining s trained, rfl,
    postedCreditStall s, fun stalled => ?_, aerErrors s, vectorWrites s, vectorOutside s⟩, linkResetReady⟩
  change execPostedCreditStall s = _
  rw [execPostedCreditStall, stalled]
  rfl

end Sys2Proof.Machine
end

section
/-! SUPPORT. A ready job is dispatched, held or ended for want of entropy (04_rings.md R94, R103; 06_lattice.md R153;
13_fountain.md R318). -/
namespace Sys2Proof.Machine
open Sys2Proof

variable {s t : State} {k : Nat} {r : JobRef} {j : Job}

/-! ## The end of a job in the present tick -/

/-- A job that fails in the present tick is decided, without output, and holds nothing. -/
theorem get?_failNow (st : Status) (hj : KMap.get? s.jobs k = some j) : KMap.get? (failNow s k st).jobs k =
    some { failJob (now s) st j with place := none, slot := none, resident := none, held := none } := by
  simp only [failNow, hj, get?_modJob, releaseEngines_jobs]
  simp [now]

/-! ## The dispatch -/

/-- Of a job a flag changes its flags alone. -/
theorem flagIf_eq (b : Bool) (g : BitVec 8) (j : Job) : flagIf b g j = { j with flags := (flagIf b g j).flags } := by
  unfold flagIf
  split <;> rfl

theorem flagIf_entry (b : Bool) (g : BitVec 8) (j : Job) : (flagIf b g j).entry = j.entry := by rw [flagIf_eq]

/-- The job that is dispatched in the present tick. -/
def dispatchedJob (s : State) (j : Job) : Job :=
  flagIf (inSolo s) flagSolo { j with
    phase := .dispatched, dispatch := now s, dispatchOrder := s.sched.dispatchSeq + 1 }

/-- The state in which the job has been dispatched. -/
def sentOff (s : State) (k : Nat) : State :=
  modJob { s with sched.dispatchSeq := s.sched.dispatchSeq + 1 } k (dispatchedJob s)

theorem get?_sentOff (hj : KMap.get? s.jobs k = some j) : KMap.get? (sentOff s k).jobs k = some (dispatchedJob s j) :=
  get?_modJob_same (dispatchedJob s) hj

/-- An admin command that is dispatched in its turn is then the one that runs. -/
theorem dispatchJob_eq (hj : KMap.get? s.jobs k = some j) : dispatchJob s k =
    if family j = 0xF0 ∧ (isOpcode 0xF008 j = false ∨ s.regs.admJob = none) then { sentOff s k with regs.admJob := some k }
    else sentOff s k := by
  change (match KMap.get? (sentOff s k).jobs k with
    | some x => if family x = 0xF0 ∧ (isOpcode 0xF008 x = false ∨ s.regs.admJob = none) then
        { sentOff s k with regs.admJob := some k } else sentOff s k
    | none => sentOff s k) = _
  rw [get?_sentOff hj]
  simp only [family, isOpcode, dispatchedJob, flagIf_entry]
  rfl

/-- What a dispatch makes of the job, whoever's it is. -/
theorem dispatchJob_job (hj : KMap.get? s.jobs k = some j) :
    KMap.get? (dispatchJob s k).jobs k = some (dispatchedJob s j) ∧
      (dispatchJob s k).sched.dispatchSeq = s.sched.dispatchSeq + 1 ∧ (dispatchJob s k).link = s.link := by
  rw [dispatchJob_eq hj]
  split <;> exact ⟨get?_sentOff hj, rfl, rfl⟩

theorem dispatchJob_regs_of_tenant (hj : KMap.get? s.jobs k = some j) (tenant : family j ≠ 0xF0) :
    (dispatchJob s k).regs = s.regs := by
  rw [dispatchJob_eq hj, if_neg fun h => tenant h.1]
  rfl

theorem dispatchJob_admJob (hj : KMap.get? s.jobs k = some j) (admin : family j = 0xF0) (other : j.entry.opcode ≠ 0xF008) :
    (dispatchJob s k).regs.admJob = some k := by
  have command : isOpcode 0xF008 j = false := by
    simpa [isOpcode, ← BitVec.toNat_inj] using other
  rw [dispatchJob_eq hj, if_pos ⟨admin, .inl command⟩]

section Ready
variable (hj : KMap.get? s.jobs (refKey r) = some j) (ready : j.phase = .ready) (stood : j.lastReady < now s)
  (calm : s.dump.active = none) (free : contextBusy s (refKey r) j = false)
include hj ready stood calm free

/-- A job that has or needs no entropy is dispatched, unless the generator that it is held for has no seed. -/
theorem exec_jobDispatch_of_entropy (turn : family j = 0xF0 → adminTurn s (refKey r) j = true)
    (fed : needsRandom s (refKey r) j = false ∨ s.fountain.ready = true) : exec (.jobDispatch r) s =
      .next (if family j ≠ 0xF0 ∧ (factsD s (refKey r) j).shared = true ∧ seedFor s j = false then s
        else dispatchJob s (refKey r)) := by
  change execJobDispatch r s = _
  have fed' : (needsRandom s (refKey r) j && !s.fountain.ready) = false := by
    obtain h | h := fed <;> simp [h]
  by_cases admin : family j = 0xF0
  · simp [execJobDispatch, hj, ready, stood, calm, free, fed', admin, turn admin]
  · simp [execJobDispatch, hj, ready, stood, calm, free, fed', admin]

/-- A job that needs entropy waits until the Fountain is ready, or ends once its start-up has expired. -/
theorem exec_jobDispatch_of_starved (turn : family j = 0xF0 → adminTurn s (refKey r) j = true)
    (needs : needsRandom s (refKey r) j = true) (dry : s.fountain.ready = false) : exec (.jobDispatch r) s =
      .next (if s.fountain.startupExpired = true then
          if family j = 0xF0 then adminFail s (refKey r) .entropyFailed 0 else failNow s (refKey r) .entropyFailed
        else s) := by
  change execJobDispatch r s = _
  by_cases admin : family j = 0xF0
  · simp [execJobDispatch, hj, ready, stood, calm, free, needs, dry, admin, turn admin]
  · simp [execJobDispatch, hj, ready, stood, calm, free, needs, dry, admin]

end Ready

/-- Settles O21: the row of a ready job by what it has of entropy, and the job of a dispatch (`dispatchJob_job`) or of a
failure (`get?_failNow`). -/
theorem jobDispatched : Obligations.JobDispatched := by
  unfold Obligations.JobDispatched
  refine ⟨fun s r j hj ready stood calm free admin turn => ⟨fun fed => ?_, fun needs dry early => ?_⟩,
    fun s r j hj ready stood calm free tenant => ⟨fun fed => ⟨fun seeded => ?_, fun shared unseeded => ?_⟩,
      fun needs dry late => ?_⟩⟩
  · have row := exec_jobDispatch_of_entropy hj ready stood calm free (fun _ => turn) fed
    rw [if_neg fun h => h.1 admin] at row
    obtain ⟨job, seq, link⟩ := dispatchJob_job hj
    exact ⟨_, row, job, seq, link, dispatchJob_admJob hj admin⟩
  · have row := exec_jobDispatch_of_starved hj ready stood calm free (fun _ => turn) needs dry
    rwa [early, if_neg Bool.false_ne_true] at row
  · have row := exec_jobDispatch_of_entropy hj ready stood calm free (fun h => absurd h tenant) fed
    have unheld : ¬(family j ≠ 0xF0 ∧ (factsD s (refKey r) j).shared = true ∧ seedFor s j = false) := by
      rintro ⟨-, shared, unseeded⟩
      simp [shared, unseeded] at seeded
    rw [if_neg unheld] at row
    obtain ⟨job, seq, link⟩ := dispatchJob_job hj
    exact ⟨_, row, job, seq, link, dispatchJob_regs_of_tenant hj tenant⟩
  · have row := exec_jobDispatch_of_entropy hj ready stood calm free (fun h => absurd h tenant) fed
    rwa [if_pos ⟨tenant, shared, unseeded⟩] at row
  · have row := exec_jobDispatch_of_starved hj ready stood calm free (fun h => absurd h tenant) needs dry
    rw [if_pos late, if_neg tenant] at row
    exact ⟨_, _, row, get?_failNow _ hj, rfl, rfl, rfl⟩

end Sys2Proof.Machine
end

section
/-! SUPPORT. How a dispatched job starts: the checks keep it, a failed check ends it, and otherwise it runs as its family's facts
say (04_rings.md R94). -/
namespace Sys2Proof.Machine
open Sys2Proof

variable {s t c : State} {k : Nat} {r : JobRef} {j y x : Job} {f : Facts}

/-! ## The rows of the job families -/

/-- The row of `p` starts the jobs of its opcodes. -/
def startsJobs (p : (JobRef → Instr) × List Nat) : Prop :=
  ∀ (r : JobRef) (s : State), exec (p.1 r) s = jobRow (fun j => decide (j.entry.opcode.toNat ∈ p.2)) r s

theorem startsJobs_one {i : JobRef → Instr} {n : Nat} (h : ∀ r s, exec (i r) s = jobRow (isOpcode n) r s) :
    startsJobs (i, [n]) := by
  intro r s
  simp only [h, List.mem_singleton]
  rfl

theorem startsJobs_two {i : JobRef → Instr} {n m : Nat}
    (h : ∀ r s, exec (i r) s = jobRow (fun j => isOpcode n j || isOpcode m j) r s) : startsJobs (i, [n, m]) := by
  intro r s
  simp only [h, List.mem_cons, List.not_mem_nil, or_false, Bool.decide_or]
  rfl

theorem startsJobs_openRoutineCall : startsJobs (.openRoutineCall, (List.range 256).map (0x4000 + ·)) := by
  intro r s
  have same : isOpenJob = fun j => decide (j.entry.opcode.toNat ∈ (List.range 256).map (0x4000 + ·)) := by
    funext j
    refine decide_eq_decide.mpr ?_
    simp only [family, List.mem_map, List.mem_range]
    exact ⟨fun h => ⟨j.entry.opcode.toNat % 256, by omega, by omega⟩, by rintro ⟨i, hi, h⟩; omega⟩
  change jobRow isOpenJob r s = _
  rw [same]

theorem startsJobs_of_jobRowsA : ∀ p ∈ jobRowsA, startsJobs p := by
  simp only [jobRowsA, List.forall_mem_cons, List.not_mem_nil, false_implies, implies_true, and_true]
  and_intros <;> exact startsJobs_one fun _ _ => rfl

theorem startsJobs_of_jobRowsB : ∀ p ∈ jobRowsB, startsJobs p := by
  simp only [jobRowsB, List.forall_mem_cons, List.not_mem_nil, false_implies, implies_true, and_true]
  and_intros <;> exact startsJobs_one fun _ _ => rfl

theorem startsJobs_of_jobRowsC : ∀ p ∈ jobRowsC, startsJobs p := by
  simp only [jobRowsC, List.forall_mem_cons, List.not_mem_nil, false_implies, implies_true, and_true]
  refine ⟨startsJobs_one fun _ _ => rfl, startsJobs_one fun _ _ => rfl, startsJobs_two fun _ _ => rfl,
    startsJobs_two fun _ _ => rfl, startsJobs_two fun _ _ => rfl, ?_⟩
  and_intros <;> exact startsJobs_one fun _ _ => rfl

theorem startsJobs_of_jobRows {p : (JobRef → Instr) × List Nat} (hp : p ∈ jobRows) : startsJobs p := by
  simp only [jobRows, List.mem_append, List.mem_singleton, or_assoc] at hp
  obtain h | h | h | rfl := hp
  · exact startsJobs_of_jobRowsA p h
  · exact startsJobs_of_jobRowsB p h
  · exact startsJobs_of_jobRowsC p h
  · exact startsJobs_openRoutineCall

/-- A row starts a dispatched job of its opcodes. -/
theorem exec_jobRows {p : (JobRef → Instr) × List Nat} (hp : p ∈ jobRows) (hj : KMap.get? s.jobs (refKey r) = some j)
    (started : j.phase = .dispatched) (mine : j.entry.opcode.toNat ∈ p.2) :
    exec (p.1 r) s = .next (advanceJob (startJob s (refKey r)) (refKey r)) := by
  simp [startsJobs_of_jobRows hp r s, jobRow, hj, started, mine]

/-- A row leaves every other job alone. -/
theorem exec_jobRows_of_other {p : (JobRef → Instr) × List Nat} (hp : p ∈ jobRows)
    (hj : KMap.get? s.jobs (refKey r) = some j) (other : j.phase ≠ .dispatched ∨ j.entry.opcode.toNat ∉ p.2) :
    exec (p.1 r) s = .next s := by
  rw [startsJobs_of_jobRows hp r s]
  obtain h | h := other <;> simp [jobRow, hj, h]

/-! ## What the dispatch checks keep -/

/-- A change of the job that keeps its entry, after one of neither jobs nor schedule. -/
theorem sameEntry_modJob_of_eq {g : Job → Job} (hj : t.jobs = s.jobs) (hs : t.sched = s.sched)
    (hg : ∀ j, SameEntry j (g j)) : JobGoes SameEntry k s (modJob t k g) where
  sched := hs
  job j h := ⟨g j, get?_modJob_same g (hj ▸ h), hg j⟩

theorem sameEntry_of_eq (hj : t.jobs = s.jobs) (hs : t.sched = s.sched) : JobGoes SameEntry k s t where
  sched := hs
  job j h := ⟨j, hj ▸ h, .refl j⟩

/-- A check keeps the entry of its job, and the schedule. -/
def keepsEntry (d : DispatchCheck) : Prop := ∀ s k j f, JobGoes SameEntry k s (d s k j f).1

theorem keepsEntry_keyLoadCheck : keepsEntry keyLoadCheck := by
  intro s k j f
  unfold keyLoadCheck
  dsimp only
  split
  · exact .refl .refl k s
  split
  · split
    · exact .refl .refl k s
    · exact .of_modJob s k fun _ => ⟨rfl, rfl, rfl⟩
  · exact .refl .refl k s

theorem keepsEntry_openCheck : keepsEntry openCheck := by
  intro s k j f
  unfold openCheck
  split
  · split
    · exact .of_modJob s k fun _ => ⟨rfl, rfl, rfl⟩
    · exact .refl .refl k s
  · exact .refl .refl k s

theorem keepsEntry_digestCheck : keepsEntry digestCheck := by
  intro s k j f
  unfold digestCheck digestDispatch
  split
  · dsimp only
    split
    · exact .refl .refl k s
    have taken (b : Bool) (g : Allotment → Allotment) :
        JobGoes SameEntry k s (if b = true then modAllot s (keyAllot k) g else s) := by
      split
      · exact sameEntry_of_eq rfl rfl
      · exact .refl .refl k s
    split
    · split
      · exact taken _ _
      split
      · exact taken _ _
      split
      · exact taken _ _
      · exact .trans .trans (taken _ _) (.of_modJob _ k fun _ => ⟨rfl, rfl, rfl⟩)
    · exact taken _ _
  · exact .refl .refl k s

theorem keepsEntry_slotCheck : keepsEntry slotCheck := by
  intro s k j f
  unfold slotCheck
  split
  · split
    · exact .refl .refl k s
    dsimp only
    split
    · exact .refl .refl k s
    · exact sameEntry_modJob_of_eq rfl rfl fun _ => ⟨rfl, rfl, rfl⟩
  · exact .refl .refl k s

theorem keepsEntry_residentCheck : keepsEntry residentCheck := by
  intro s k j f
  unfold residentCheck
  dsimp only
  split
  · exact .refl .refl k s
  split
  · exact .refl .refl k s
  split
  · exact .refl .refl k s
  · exact sameEntry_modJob_of_eq rfl rfl fun _ => ⟨rfl, rfl, rfl⟩

theorem keepsEntry_stateSlotCheck : keepsEntry stateSlotCheck := by
  intro s k j f
  unfold stateSlotCheck
  dsimp only
  split
  · split
    · exact .refl .refl k s
    · exact sameEntry_modJob_of_eq rfl rfl fun _ => ⟨rfl, rfl, rfl⟩
  · exact .refl .refl k s

theorem keepsEntry_curveCheck : keepsEntry curveCheck := by
  intro s k j f
  unfold curveCheck
  dsimp only
  split
  · split
    · exact .refl .refl k s
    split
    · exact .refl .refl k s
    · exact sameEntry_modJob_of_eq rfl rfl fun _ => ⟨rfl, rfl, rfl⟩
  · exact .refl .refl k s

theorem keepsEntry_keptCheck : keepsEntry keptCheck := by
  intro s k j f
  unfold keptCheck
  dsimp only
  split
  · split
    · exact .refl .refl k s
    split_ifs
    · exact sameEntry_of_eq rfl rfl
    · exact sameEntry_modJob_of_eq rfl rfl fun _ => ⟨rfl, rfl, rfl⟩
    · exact .refl .refl k s
    · exact .of_modJob s k fun _ => ⟨rfl, rfl, rfl⟩
  · exact .refl .refl k s

theorem keepsEntry_of_dispatchChecks : ∀ d ∈ dispatchChecks, keepsEntry d := by
  simp only [dispatchChecks, List.forall_mem_cons, List.not_mem_nil, false_implies, implies_true, and_true]
  exact ⟨fun s k _ _ => .refl .refl k s, keepsEntry_keyLoadCheck, fun s k _ _ => .refl .refl k s, keepsEntry_openCheck,
    fun s k _ _ => .refl .refl k s, keepsEntry_digestCheck, keepsEntry_slotCheck, keepsEntry_residentCheck,
    keepsEntry_stateSlotCheck, keepsEntry_curveCheck, keepsEntry_keptCheck⟩

/-- Checks that keep the entry keep it in a run, wherever the run stops. -/
theorem sameEntry_runChecks {cs : List DispatchCheck} (h : ∀ d ∈ cs, keepsEntry d) (s : State) (k : Nat) (f : Facts) :
    JobGoes SameEntry k s (runChecks cs s k f).1 := by
  induction cs generalizing s with
  | nil => exact .refl .refl k s
  | cons d cs ih =>
    obtain ⟨hd, hcs⟩ := List.forall_mem_cons.mp h
    unfold runChecks
    split
    · exact .refl .refl k s
    · next j hj =>
      dsimp only
      split
      · exact hd s k j f
      · exact .trans .trans (hd s k j f) (ih hcs _)

/-- The job after its dispatch checks, in the same tick. -/
theorem checked_job {o : Option Status} (hj : KMap.get? s.jobs k = some j) (h : runChecks dispatchChecks s k f = (c, o)) :
    ∃ y, KMap.get? c.jobs k = some y ∧ y.entry = j.entry ∧ now c = now s := by
  have goes := sameEntry_runChecks keepsEntry_of_dispatchChecks s k f
  rw [h] at goes
  obtain ⟨y, hy, same⟩ := goes.job j hj
  exact ⟨y, hy, same.entry, congrArg Sched.tick goes.sched⟩

/-! ## The start -/

theorem startJob_of_pass (hj : KMap.get? s.jobs k = some j) (h : runChecks dispatchChecks s k (factsD s k j) = (c, none)) :
    startJob s k = launch c k (factsD s k j) := by
  simp [startJob, hj, h]

theorem startJob_of_fail {st : Status} (hj : KMap.get? s.jobs k = some j)
    (h : runChecks dispatchChecks s k (factsD s k j) = (c, some st)) : startJob s k = failNow c k st := by
  simp [startJob, hj, h]

/-- A job that reserves nothing at its start waits for nothing. -/
theorem startWaits_of_plain (s : State) (k : Nat) (plain : j.entry.opcode.toNat ∉ reservingOpcodes) : startWaits s k j = s := by
  simp only [reservingOpcodes, List.mem_cons, List.not_mem_nil, or_false, not_or] at plain
  obtain ⟨h1, h2, h3, h4, h5⟩ := plain
  unfold startWaits
  split
  case h_6 => rfl
  all_goals contradiction

/-- The job as it runs by its family's facts. -/
def launched (s : State) (f : Facts) (j : Job) : Job :=
  { j with
    phase := .running, fresh := s.freeCount, attempts := 0, accepted := !samplesSignatures j, trying := false,
    plan := (f.plan 0).filter fun q => decide (q.2 ≠ 0), shared := f.shared,
    draws := if f.draw.1 = 0 then [] else [{ bytes := f.draw.1, fresh := f.draw.2, posted := false }] }

theorem launch_of_plain (hy : KMap.get? c.jobs k = some y) (plain : y.entry.opcode.toNat ∉ reservingOpcodes) :
    launch c k f = { modJob c k fun x => { launched c f x with accepted := !samplesSignatures y } with
      freeCount := c.freeCount + 1 } := by
  unfold launch
  rw [hy]
  dsimp only
  exact startWaits_of_plain _ k plain

theorem get?_launch (hy : KMap.get? c.jobs k = some y) (plain : y.entry.opcode.toNat ∉ reservingOpcodes) :
    KMap.get? (launch c k f).jobs k = some (launched c f y) := by
  rw [launch_of_plain hy plain]
  exact get?_modJob_same (fun x => { launched c f x with accepted := !samplesSignatures y }) hy

/-- A job that has something to run or to wait for, or that is decided, goes no further. -/
theorem advanceJob_rests (hx : KMap.get? s.jobs k = some x) (busy : x.phase = .running → spent x = false)
    (unfinished : x.phase ≠ .finishing) : advanceJob s k = s := by
  unfold advanceJob
  rw [hx]
  dsimp only
  split
  · rfl
  · rw [if_neg, if_neg]
    · simp [unfinished]
    · simpa using busy

/-- Settles O27: the checks keep the entry, so the launched job carries the facts' slices and draw and is not spent. -/
theorem jobRowsStart : Obligations.JobRowsStart := by
  unfold Obligations.JobRowsStart
  intro p hp s r j c hj
  refine ⟨fun started mine plain pass work => ?_, exec_jobRows_of_other hp hj⟩
  obtain ⟨y, hy, entry, -⟩ := checked_job hj pass
  have plain' : y.entry.opcode.toNat ∉ reservingOpcodes := entry ▸ plain
  have job := get?_launch (f := factsD s (refKey r) j) hy plain'
  have busy : spent (launched c (factsD s (refKey r) j) y) = false := by
    obtain draw | opened | slices := work
    · simp [spent, launched, draw]
    · have : isOpenJob (launched c (factsD s (refKey r) j) y) = true := by
        rw [← opened, isOpenJob, isOpenJob, family, family, launched, entry]
      simp [spent, this]
    · have plan : (launched c (factsD s (refKey r) j) y).plan ≠ [] := slices 0
      simp [spent, plan]
  have row := exec_jobRows hp hj started mine
  rw [startJob_of_pass hj pass, advanceJob_rests job (fun _ => busy) nofun] at row
  refine ⟨_, _, row, job, rfl, entry, rfl, rfl, rfl, ?_⟩
  rw [launch_of_plain hy plain']
  exact ⟨rfl, rfl, rfl⟩

/-! ## The checks of a job that names no key -/

/-- A job of a family that keeps nothing in the device, without a key and creating nothing, passes every check. -/
theorem runChecks_of_bare (hj : KMap.get? s.jobs k = some j) (keyless : j.entry.keyh = 0) (bare : f.creates = .nothing)
    (stateless : family j ∈ [0x01, 0x02, 0x03, 0x04, 0x08, 0x11, 0x12]) :
    runChecks dispatchChecks s k f = (s, none) := by
  have other {n : Nat} (h : n / 256 ∉ [0x01, 0x02, 0x03, 0x04, 0x08, 0x11, 0x12]) : j.entry.opcode.toNat ≠ n := by
    rintro rfl
    exact h stateless
  have elsewhere {n : Nat} (h : n ∉ [0x01, 0x02, 0x03, 0x04, 0x08, 0x11, 0x12]) : family j ≠ n := by
    rintro rfl
    exact h stateless
  have opcodes : j.entry.opcode.toNat ≠ 0x1005 ∧ j.entry.opcode.toNat ≠ 0x1006 ∧ j.entry.opcode.toNat ≠ 0x3003 ∧
      j.entry.opcode.toNat ≠ 0x3801 ∧ j.entry.opcode.toNat ≠ 0x3009 ∧ j.entry.opcode.toNat ≠ 0x0701 :=
    ⟨other (by decide), other (by decide), other (by decide), other (by decide), other (by decide), other (by decide)⟩
  have families : family j ≠ 0x40 ∧ family j ≠ 0x20 ∧ family j ≠ 0x21 ∧ family j ≠ 0x13 :=
    ⟨elsewhere (by decide), elsewhere (by decide), elsewhere (by decide), elsewhere (by decide)⟩
  simp [runChecks, dispatchChecks, hj, soloCheck, keyLoadCheck, importCheck, openCheck, vaultCheck, digestCheck, slotCheck,
    residentCheck, stateSlotCheck, curveCheck, keptCheck, changesMirrored, residentBlocks, namesContext, isOpenJob, keyless, bare,
    opcodes, families]

/-- Settles O29: the job that a failed check leaves is the one that `failNow` ends; a bare job passes each check in turn. -/
theorem jobRowsFail : Obligations.JobRowsFail := by
  unfold Obligations.JobRowsFail
  refine ⟨fun p hp s r j c st hj started mine fail => ?_, fun s k j hj keyless bare stateless =>
    runChecks_of_bare hj keyless bare stateless⟩
  obtain ⟨y, hy, entry, tick⟩ := checked_job hj fail
  have job := get?_failNow st hy
  have row := exec_jobRows hp hj started mine
  rw [startJob_of_fail hj fail, advanceJob_rests job nofun nofun] at row
  exact ⟨_, _, row, job, rfl, rfl, rfl, entry, tick, rfl⟩

end Sys2Proof.Machine
end

section
/-! SUPPORT. A job that draws and runs nothing ends in its dispatch tick as its family's ending says (04_rings.md R94). -/
namespace Sys2Proof.Machine
open Sys2Proof

variable {s t c : State} {k : Nat} {r : JobRef} {j y x : Job} {f : Facts}

/-! ## What an ending leaves in place -/

/-- From `s` to `t` the ending of job `k` has changed of the job its context at most, and nothing of the twin's state. -/
structure EndsInPlace (k : Nat) (s t : State) : Prop where
  bridge : t.bridge = s.bridge
  job : ∀ j, KMap.get? s.jobs k = some j → ∃ b, KMap.get? t.jobs k = some { j with context := b }

theorem EndsInPlace.of_eq (hb : t.bridge = s.bridge) (hj : t.jobs = s.jobs) : EndsInPlace k s t where
  bridge := hb
  job j h := ⟨j.context, hj ▸ h⟩

theorem EndsInPlace.refl (k : Nat) (s : State) : EndsInPlace k s s := .of_eq rfl rfl

theorem EndsInPlace.of_context (s : State) (k : Nat) (b : List Byte) :
    EndsInPlace k s (modJob s k fun x => { x with context := b }) where
  bridge := rfl
  job _ h := ⟨b, get?_modJob_same _ h⟩

/-- An ending that leaves the rest of the machine in place. -/
def EndingInPlace (e : State → Nat → Job → State × Ending) : Prop := ∀ s k j, EndsInPlace k s (e s k j).1

theorem endsInPlace_endKeygen (s : State) (k : Nat) (j : Job) (type : Nat) (b : Bool) (pub priv : List Byte) :
    EndsInPlace k s (endKeygen s k j type b pub priv).1 := by
  unfold endKeygen
  dsimp only
  split
  · exact .of_eq rfl rfl
  · exact .refl k s

theorem endsInPlace_endSecret (s : State) (k : Nat) (j : Job) (b : Bool) (out secret : List Byte) :
    EndsInPlace k s (endSecret s k j b out secret).1 := by
  unfold endSecret
  split <;> exact .refl k s

theorem endsInPlace_latticeEnding : EndingInPlace latticeEnding := by
  intro s k j
  unfold latticeEnding
  dsimp only
  split
  · exact endsInPlace_endKeygen s k j _ _ _ _
  split
  · split
    · split
      · exact .refl k s
      · exact endsInPlace_endSecret s k j _ _ _
    · exact endsInPlace_endSecret s k j _ _ _
  split
  · split <;> exact .refl k s
  · exact .refl k s

theorem endsInPlace_slhEnding : EndingInPlace slhEnding := by
  intro s k j
  unfold slhEnding
  dsimp only
  split
  · exact endsInPlace_endKeygen s k j _ _ _ _
  split <;> exact .refl k s

theorem endsInPlace_statefulEnding : EndingInPlace statefulEnding := by
  intro s k j
  unfold statefulEnding
  dsimp only
  split
  · exact .refl k s
  split
  · exact .refl k s
  split <;> exact .refl k s

theorem endsInPlace_mcEnding : EndingInPlace mcEnding := by
  intro s k j
  unfold mcEnding
  dsimp only
  split
  · split
    · split <;> exact endsInPlace_endKeygen s k j _ _ _ _
    · exact .refl k s
  split
  · exact endsInPlace_endSecret s k j _ _ _
  split
  · exact endsInPlace_endSecret s k j _ _ _
  · exact .refl k s

theorem endsInPlace_hqcEnding : EndingInPlace hqcEnding := by
  intro s k j
  unfold hqcEnding
  dsimp only
  split
  · exact endsInPlace_endKeygen s k j _ _ _ _
  split <;> exact endsInPlace_endSecret s k j _ _ _

theorem endsInPlace_curveEnding : EndingInPlace curveEnding := by
  intro s k j
  unfold curveEnding
  dsimp only
  split
  · split
    · exact endsInPlace_endKeygen s k j _ _ _ _
    split
    · split <;> exact .refl k s
    split
    · exact .refl k s
    split
    · exact .refl k s
    split
    · exact .refl k s
    · exact endsInPlace_endSecret s k j _ _ _
  · exact .refl k s

theorem endsInPlace_edEnding : EndingInPlace edEnding := by
  intro s k j
  unfold edEnding
  dsimp only
  split
  · exact endsInPlace_endKeygen s k j _ _ _ _
  split
  · exact .refl k s
  split
  · exact .refl k s
  split
  · exact .refl k s
  · exact endsInPlace_endSecret s k j _ _ _

/-- A fault of the Orangery is an event: it changes no job. -/
theorem endsInPlace_rsaFault (s : State) (k : Nat) (j : Job) (n : Nat) : EndsInPlace k s (rsaFault s j n).1 := by
  obtain ⟨e, l, h⟩ := logEventAt_changes s 3 0x0024 0xFFFF (BitVec.ofNat 8 (j.index / 8)) 0xFF 0xFF (leBytes 1 (j.index % 8))
  rw [rsaFault, orangeryFault, logEvent, h]
  exact .of_eq rfl rfl

theorem endsInPlace_rsaPrivateEnding (s : State) (k : Nat) (j : Job) : EndsInPlace k s (rsaPrivateEnding s j).1 := by
  unfold rsaPrivateEnding
  dsimp only
  split
  · split
    · exact .refl k s
    split
    · exact .refl k s
    split
    · exact .refl k s
    · exact endsInPlace_rsaFault s k j _
  split
  · exact .refl k s
  split
  · exact .refl k s
  · exact endsInPlace_rsaFault s k j _

theorem endsInPlace_rsaPublicEnding (s : State) (k : Nat) (j : Job) : EndsInPlace k s (rsaPublicEnding s j).1 := by
  unfold rsaPublicEnding
  dsimp only
  split
  · split <;> exact .refl k s
  · exact .refl k s

theorem endsInPlace_rsaEnding : EndingInPlace rsaEnding := by
  intro s k j
  unfold rsaEnding
  split
  · exact endsInPlace_rsaPrivateEnding s k j
  · exact endsInPlace_rsaPublicEnding s k j

theorem endsInPlace_bnEnding : EndingInPlace bnEnding := by
  intro s k j
  unfold bnEnding
  dsimp only
  split
  · exact .refl k s
  split
  · exact .refl k s
  split
  · exact .of_context s k _
  · exact .refl k s

theorem endsInPlace_digestEnding : EndingInPlace digestEnding := by
  intro s k j
  unfold digestEnding
  dsimp only
  split
  · split
    · exact .of_context s k _
    · exact .refl k s
  · exact .of_context s k _
  · exact .of_context s k _
  · split
    · exact .of_eq rfl rfl
    · exact .refl k s
  · split
    · split
      · exact .of_context s k _
      · exact .refl k s
    split
    · exact .refl k s
    split
    · exact .refl k s
    · exact .of_context s k _
  · exact .refl k s
  · exact .refl k s

theorem endsInPlace_importEnding : EndingInPlace importEnding := by
  intro s k j
  unfold importEnding
  split
  · exact .refl k s
  split
  · exact .refl k s
  dsimp only
  split
  · exact .of_eq rfl rfl
  · exact .refl k s

theorem endsInPlace_authImportEnding : EndingInPlace authImportEnding := by
  intro s k j
  fun_cases authImportEnding s k j <;> exact .refl k s

theorem endsInPlace_iceEnding : EndingInPlace iceEnding := by
  intro s k j
  unfold iceEnding
  dsimp only
  split
  case h_2 => exact .of_context s k _
  case h_3 => exact endsInPlace_importEnding s k j
  case h_4 => exact endsInPlace_authImportEnding s k j
  case h_5 =>
    split
    · exact .of_eq rfl rfl
    · exact .refl k s
  case h_6 =>
    split
    · exact .of_eq rfl rfl
    · exact .refl k s
  all_goals exact .refl k s

theorem endsInPlace_journalEnding : EndingInPlace journalEnding := by
  intro s k j
  unfold journalEnding
  split <;> exact .refl k s

/-- Every family's ending leaves the rest of the machine in place. -/
theorem endsInPlace_endingOf : EndingInPlace endingOf := by
  intro s k j
  unfold endingOf
  split
  · exact endsInPlace_latticeEnding s k j
  · exact endsInPlace_latticeEnding s k j
  · exact endsInPlace_latticeEnding s k j
  · exact endsInPlace_slhEnding s k j
  · exact endsInPlace_statefulEnding s k j
  · exact endsInPlace_statefulEnding s k j
  · exact endsInPlace_mcEnding s k j
  · exact endsInPlace_hqcEnding s k j
  · split
    · exact .refl k s
    split
    · exact .refl k s
    · exact endsInPlace_curveEnding s k j
  · exact endsInPlace_edEnding s k j
  · exact endsInPlace_rsaEnding s k j
  · exact endsInPlace_bnEnding s k j
  · exact endsInPlace_digestEnding s k j
  · exact endsInPlace_digestEnding s k j
  · exact endsInPlace_iceEnding s k j
  · exact endsInPlace_journalEnding s k j
  · exact .refl k s

/-! ## The outcome of a job that ends at once -/

@[simp] theorem giveBack_jobs (s : State) (j : Job) : (giveBack s j).jobs = s.jobs :=
  congrArg Prod.fst (besideEngines_giveBack s j)

/-- The job with its outcome, not yet decided. -/
def finishing (padded : Bool) (e : Ending) (x : Job) : Job :=
  { flagIf padded flagEnvelopePadded x with phase := .finishing, status := e.status, output := e.output, result := e.result }

/-- Outside a pair a job without a slot finishes with its outcome alone: a success waits for nothing, a failure gives back what the
job held. -/
theorem finishJob_eq {e : Ending} (hx : KMap.get? s.jobs k = some x) (slotless : x.slot = none)
    (unended : x.ended = none) (ending : endingOf s k x = (t, e)) (single : mirrors t = false) (joined : inSolo t = false) :
    finishJob s k =
      if isSuccess e.status then modJob t k (finishing (inEnvelope t k x && x.accepted && isSuccess e.status) e)
      else modJob (giveBack (modJob t k (finishing (inEnvelope t k x && x.accepted && isSuccess e.status) e)) x) k fun x =>
        { x with slot := none, resident := none, held := none } := by
  unfold finishJob
  rw [hx]
  dsimp -zeta only
  rw [ending]
  dsimp -zeta only
  rw [unended]
  extract_lets e' padded u a _ one
  have solo : inSolo u = false := joined
  have alone (kind item : Nat) (contents : List Byte) : one kind item contents = u :=
    if_neg (by simp [show mirrors u = false from single])
  rw [solo, slotless, Bool.and_false, Bool.false_and, if_neg Bool.false_ne_true]
  change _ = if isSuccess e'.status then u else modJob (giveBack u x) k _
  cases isSuccess e'.status
  · rfl
  · rw [if_neg (show ¬(!true) = true by decide), if_pos rfl]
    split
    next h => cases h
    next =>
      split
      · exact alone _ _ _
      · exact alone _ _ _
      · exact alone _ _ _
      · rfl

/-- The job's outcome is its ending's, and it waits for nothing. -/
structure EndedAs (e : Ending) (x : Job) : Prop where
  waits : x.waits = []
  status : x.status = e.status
  output : x.output = e.output
  result : x.result = e.result

theorem endedAs_finishing (padded : Bool) (e : Ending) (still : x.waits = []) : EndedAs e (finishing padded e x) where
  waits := by
    rw [finishing, flagIf_eq]
    exact still
  status := rfl
  output := rfl
  result := rfl

/-- A job that holds no slot and that no routine has ended finishes with its family's ending; outside a pair nothing is left to
wait for. -/
theorem get?_finishJob (hx : KMap.get? s.jobs k = some x) (still : x.waits = []) (slotless : x.slot = none)
    (unended : x.ended = none) (single : mirrors s = false) (joined : inSolo s = false) :
    ∃ v, KMap.get? (finishJob s k).jobs k = some v ∧ EndedAs (endingOf s k x).2 v := by
  have place := endsInPlace_endingOf s k x
  generalize ending : endingOf s k x = p at place ⊢
  obtain ⟨t, e⟩ := p
  obtain ⟨b, hb⟩ := place.job x hx
  have single' : mirrors t = false := by rw [mirrors, place.bridge]; exact single
  have joined' : inSolo t = false := by rw [inSolo, place.bridge]; exact joined
  rw [finishJob_eq hx slotless unended ending single' joined']
  generalize (inEnvelope t k x && x.accepted && isSuccess e.status) = padded
  have marked := get?_modJob_same (finishing padded e) hb
  have ended := endedAs_finishing (x := { x with context := b }) padded e still
  split
  · exact ⟨_, marked, ended⟩
  · rw [← giveBack_jobs _ x] at marked
    exact ⟨_, get?_modJob_same _ marked, ended.waits, ended.status, ended.output, ended.result⟩

/-! ## The decision -/

theorem isSuccess_successOf (flags : BitVec 8) : isSuccess (successOf flags) = true := by
  unfold successOf
  split <;> rfl

/-- A job that is concluded is decided with its outcome. -/
theorem get?_concludeJob (hx : KMap.get? s.jobs k = some x) : ∃ v, KMap.get? (concludeJob s k).jobs k = some v ∧
    v.phase = .decided ∧ v.output = x.output ∧ isSuccess v.status = isSuccess x.status ∧ v.result = x.result := by
  refine ⟨_, get?_modJob_same _ hx, rfl, rfl, ?_, rfl⟩
  change isSuccess (if isSuccess x.status then successOf x.flags else x.status) = _
  split
  · next ok => rw [isSuccess_successOf, ok]
  · rfl

/-- A running job with nothing left finishes and, where nothing is to be waited for, is concluded. -/
theorem advanceJob_of_spent {v : Job} (hx : KMap.get? s.jobs k = some x) (tenant : family x ≠ 0xF0)
    (running : x.phase = .running) (done : spent x = true) (other : x.entry.opcode.toNat ≠ 0x3009)
    (hv : KMap.get? (finishJob s k).jobs k = some v) (still : v.waits = []) :
    advanceJob s k = concludeJob (finishJob s k) k := by
  simp [advanceJob, hx, tenant, running, done, other, hv, still]

/-- The rows start no admin command: the opcodes end with the Open routines'. -/
theorem opcode_lt_of_jobRows {p : (JobRef → Instr) × List Nat} {n : Nat} (hp : p ∈ jobRows) (hn : n ∈ p.2) :
    n < 0x4100 := by
  obtain h | h := List.mem_append.mp hp
  · exact (by decide : ∀ p ∈ jobRowsA ++ jobRowsB ++ jobRowsC, ∀ n ∈ p.2, n < 0x4100) p h n hn
  · obtain rfl := List.mem_singleton.mp h
    obtain ⟨i, hi, rfl⟩ := List.mem_map.mp hn
    have := List.mem_range.mp hi
    omega

/-- Settles O28: the launched job is spent, its ending leaves the machine in place (`endsInPlace_endingOf`), and it is
concluded. -/
theorem jobRowsDecide : Obligations.JobRowsDecide := by
  unfold Obligations.JobRowsDecide
  intro p hp s r j c hj started mine plain closed pass dry idle bare single joined
  obtain ⟨y, hy, entry, -⟩ := checked_job hj pass
  have plain' : y.entry.opcode.toNat ∉ reservingOpcodes := entry ▸ plain
  have job := get?_launch (f := factsD s (refKey r) j) hy plain'
  have twin : (launch c (refKey r) (factsD s (refKey r) j)).bridge = c.bridge := by
    rw [launch_of_plain hy plain']
    rfl
  simp only [hy, Option.all_some, Bool.and_eq_true, decide_eq_true_eq, Option.isNone_iff_eq_none] at bare
  obtain ⟨⟨⟨⟨still, before⟩, after⟩, slotless⟩, unended⟩ := bare
  have done : spent (launched c (factsD s (refKey r) j) y) = true := by
    have plan : (launched c (factsD s (refKey r) j) y).plan = [] := idle 0
    have own : isOpenJob (launched c (factsD s (refKey r) j) y) = false := by
      rw [← closed, isOpenJob, isOpenJob, family, family, launched, entry]
    simp only [spent, plan, own]
    simp [launched, dry, still, before, after]
  obtain ⟨v, hv, outcome⟩ := get?_finishJob job still slotless unended (by rw [mirrors, twin]; exact single)
    (by rw [inSolo, twin]; exact joined)
  obtain ⟨z, hz, decided, output, success, result⟩ := get?_concludeJob hv
  have small := opcode_lt_of_jobRows hp mine
  have tenant : family (launched c (factsD s (refKey r) j) y) ≠ 0xF0 := by
    rw [family, launched, entry]
    omega
  have other : y.entry.opcode.toNat ≠ 0x3009 := fun h => plain' (by rw [h]; decide)
  have row := exec_jobRows hp hj started mine
  rw [startJob_of_pass hj pass, advanceJob_of_spent job tenant rfl done other hv outcome.waits] at row
  exact ⟨_, z, _, row, job, hz, decided, output.trans outcome.output, success.trans (by rw [outcome.status]),
    result.trans outcome.result⟩

end Sys2Proof.Machine
end

section
/-! SUPPORT. The gates and preconditions that refuse an admin command, with O40 (05_admin_commands.md R107, R108, Table 5-3). -/
namespace Sys2Proof.Machine
open Sys2Proof

/-! ## Refusals (O40) -/

/-- The rows of the admin commands run their command on every entry of theirs; ABORT's row goes on only while its entry runs. -/
theorem exec_adminRows_of_idle {p : (JobRef → Instr) × AdminCmd × (Job → Bool)} (hp : p ∈ adminRows) {s t : State} {r : JobRef}
    (row : adminRow p.2.1 p.2.2 r s = t) (idle : ∀ x, KMap.get? t.jobs (refKey r) = some x → x.phase ≠ .running) :
    exec (p.1 r) s = .next t := by
  subst row
  simp only [adminRows, List.mem_cons, List.not_mem_nil, or_false] at hp
  rcases hp with rfl | rfl | rfl | rfl | rfl | rfl | rfl | rfl | rfl | rfl | rfl | rfl | rfl | rfl | rfl | rfl | rfl | rfl | rfl |
    rfl | rfl | rfl | rfl | rfl | rfl
  case inr.inr.inr.inr.inr.inr.inr.inl =>
    change execAbortJobs r s = _
    simp only [execAbortJobs]
    split
    next x hx => simp only [idle x hx, decide_false, Bool.false_and, Bool.false_eq_true, if_false]
    next => rfl
  all_goals rfl

/-- The marks of Table 5-3: which commands run while quiesced, and which in END_OF_LIFE. -/
theorem adminRows_marks : ∀ p ∈ adminRows,
    p.2.1.markQ = decide (p.2.1.opcode ∈ [0xF002, 0xF005, 0xF008, 0xF00E, 0xF011, 0xF014, 0xF018]) ∧
      p.2.1.markE = decide (p.2.1.opcode ∈ [0xF002, 0xF005, 0xF008, 0xF011, 0xF014, 0xF018]) := by
  decide

/-- The commands marked S of Table 5-3; KEY_ADMIN's mark depends on its operation. -/
theorem adminRows_markS {p : (JobRef → Instr) × AdminCmd × (Job → Bool)} (hp : p ∈ adminRows) (other : p.2.1.opcode ≠ 0xF009)
    (j : Job) : p.2.1.markS j = decide (p.2.1.opcode ∉ [0xF008, 0xF011, 0xF012, 0xF014, 0xF016, 0xF017, 0xF018]) := by
  revert p
  simp only [adminRows, List.forall_mem_cons]
  refine ⟨?_, ?_, ?_, ?_, ?_, ?_, ?_, ?_, ?_, ?_, ?_, ?_, ?_, ?_, ?_, ?_, ?_, ?_, ?_, ?_, ?_, ?_, ?_, ?_, ?_, ?_⟩
  case refine_9 => exact fun other => absurd rfl other
  case refine_10 => exact fun other => absurd rfl other
  case refine_26 => exact fun p hp => absurd hp List.not_mem_nil
  all_goals exact fun _ => rfl

/-! ### The gates of R108, in their order -/

section
variable {c : AdminCmd} {s : State} {j : Job}

theorem adminFailure_of_gate {e : Status × Nat} (h : adminGate c s j = some e) : adminFailure c s j = some e := by
  rw [adminFailure, h]
  rfl

theorem adminGate_of_endOfLife (life : s.lc.inForce = 3) (mark : c.markE = false) : adminGate c s j = some (.lifecycle, 0) := by
  simp only [adminGate, life, mark, decide_true, Bool.not_false, Bool.and_self, if_true]

theorem adminGate_of_quiesced (life : s.lc.inForce ≠ 3) (quiet : s.gh.quiesced = true) (mark : c.markQ = false) :
    adminGate c s j = some (.tamperQuiesced, 0) := by
  simp only [adminGate, life, quiesced, quiet, mark, decide_false, Bool.false_and, Bool.false_eq_true, if_false, Bool.not_false,
    Bool.and_self, if_true]

theorem adminGate_of_solo (life : s.lc.inForce ≠ 3) (quiet : s.gh.quiesced = false) (solo : s.bridge.solo = true)
    (mark : c.markS j = true) : adminGate c s j = some (.twinUnavailable, 0x000B) := by
  simp only [adminGate, life, quiesced, quiet, inSolo, solo, mark, decide_false, Bool.false_and, Bool.false_eq_true, if_false,
    Bool.and_self, if_true]
end

theorem adminRow_of_idle {c : AdminCmd} {w : Job → Bool} {s : State} {r : JobRef} {j : Job}
    (h : KMap.get? s.jobs (refKey r) = none ∨ j.phase ≠ .dispatched ∧ j.phase ≠ .running ∧ KMap.get? s.jobs (refKey r) = some j) :
    adminRow c w r s = s := by
  rcases h with none | ⟨waiting, -, job⟩
  · simp only [adminRow, none]
  · simp only [adminRow, job, waiting, decide_false, Bool.false_and, Bool.false_eq_true, if_false]

/-- Settles O40: a row refuses by its first failure (`adminRow_refused`), and the gates come in R108's order. -/
theorem adminRefused : Obligations.AdminRefused := by
  intro p hp s r j
  obtain ⟨markQ, markE⟩ := adminRows_marks p hp
  refine ⟨fun st reason job dispatched opcode own fails => ?_, fun idle => ?_,
    fun life mark => adminFailure_of_gate (adminGate_of_endOfLife life mark),
    fun life quiet mark => adminFailure_of_gate (adminGate_of_quiesced life quiet mark),
    fun life quiet solo mark => adminFailure_of_gate (adminGate_of_solo life quiet solo mark), markQ, markE,
    fun other => adminRows_markS hp other j⟩
  · refine exec_adminRows_of_idle hp (adminRow_refused p.2.1 p.2.2 job dispatched opcode own fails) fun x hx => ?_
    obtain rfl := Option.some_inj.mp ((get?_modJob_same _ job).symm.trans hx)
    exact fun running => nomatch running
  · refine exec_adminRows_of_idle hp (adminRow_of_idle idle) fun x hx => ?_
    rcases idle with none | ⟨-, still, job⟩
    · exact nomatch none.symm.trans hx
    · rw [Option.some_inj.mp (hx.symm.trans job)]
      exact still
end Sys2Proof.Machine
end

section
/-! SUPPORT. The course of an admin command that needs no commit with the twin: from its start, or from the draw that has come, to its
effect (05_admin_commands.md R103, R106, R109). -/
namespace Sys2Proof.Machine
open Sys2Proof

variable {c : AdminCmd} {s t u done recorded followed : State} {r : JobRef} {j x y : Job} {k effect detail : Nat}

/-! ## What holds a command -/

/-- The commands that may wait before their effect. -/
def heldOpcodes : List Nat := [0xF002, 0xF003, 0xF005, 0xF008, 0xF011, 0xF014, 0xF015, 0xF017]

theorem adminHolds_of_opcode (t : State) (h : x.entry.opcode.toNat ∉ heldOpcodes) : adminHolds t x = false := by
  unfold adminHolds
  split
  case h_9 => rfl
  all_goals rename_i code; rw [code] at h; exact absurd h (by decide)

/-- Only a destruction of a key waits before its records. -/
theorem adminHoldsFirst_of_opcode (t : State) (h : x.entry.opcode.toNat ≠ 0xF009) : adminHoldsFirst t x = false := by
  simp only [adminHoldsFirst, h, decide_false, Bool.false_and]

/-! ## The stages together -/

/-- The job of a command whose effect comes next. -/
def effectDueAs (x : Job) : Job := followedAs [] (stagedAs [] x)

/-- A command in its first stage whose records and whose follow-up have nothing to wait for stands before its effect at once. -/
theorem adminSettle_toEffect (job : KMap.get? u.jobs k = some x) (phase : x.phase = .running) (waits : x.waits = [])
    (draws : x.draws = []) (stage : x.remaining = 1) (index : x.index = 0) (free : adminHoldsFirst u x = false)
    (alone : (mirrors u && c.markS x) = false) (records : c.records u x = (recorded, []))
    (kept : KMap.get? recorded.jobs k = some x)
    (follow : c.follow (modJob recorded k (stagedAs [])) (stagedAs [] x) = (modJob recorded k (stagedAs []), [])) :
    KMap.get? (modJob recorded k effectDueAs).jobs k = some (effectDueAs x) ∧
      adminSettle c u k = adminAdvance c (modJob recorded k effectDueAs) k := by
  refine ⟨get?_modJob_same _ kept, ?_⟩
  rw [adminSettle, adminAdvance_records job phase waits draws stage free alone, records,
    adminAdvance_follow (get?_modJob_same _ kept) rfl rfl draws rfl index, follow, modJob_modJob]
  rfl

/-- A command that cannot advance is settled. -/
theorem adminSettle_of_still (h : adminAdvance c t k = t) : adminSettle c t k = t := by
  simp only [adminSettle, h]

/-- A command before its effect that nothing holds completes with it. -/
theorem adminAdvance_effect (job : KMap.get? t.jobs (refKey r) = some (effectDueAs x)) (draws : x.draws = [])
    (free : adminHolds t (effectDueAs x) = false) (applied : c.apply t (refKey r) (effectDueAs x) = (done, effect, detail))
    (kept : KMap.get? done.jobs (refKey r) = some y) (status : y.status = .ok) (time : now done = now t) :
    adminAdvance c t (refKey r) = modJob done (refKey r) (finishedAs (now t) effect detail) ∧
      adminDone (modJob done (refKey r) (finishedAs (now t) effect detail)) r effect detail y.output :=
  ⟨(adminAdvance_finish job rfl rfl draws rfl rfl free).trans (adminFinish_of_apply job applied), adminDone_finished kept status rfl time⟩

/-! ## Commands that take effect in the tick of their dispatch -/

/-- The state on which a command without draws, records and a follow-up has its effect. -/
abbrev atEffect (s : State) (r : JobRef) : State := modJob s (refKey r) fun x => effectDueAs (startedAs x)

/-- A command that draws nothing, makes no record and has no follow-up, and whose mark does not change as it runs. -/
structure Direct (c : AdminCmd) (s : State) (r : JobRef) (j : Job) : Prop where
  draws : c.draws j = none
  records : c.records (modJob (c.prepare s j) (refKey r) startedAs) (startedAs j) = (modJob (c.prepare s j) (refKey r) startedAs, [])
  follow : ∀ s x, c.follow s x = (s, [])
  mark : c.markS (startedAs j) = c.markS j

/-- A ready command starts on the state that it prepares. -/
theorem adminRow_of_prepared (h : adminReady c s r j) {w : Job → Bool} (hw : w j = true) (draws : c.draws j = none) :
    adminRow c w r s = adminSettle c (modJob (c.prepare s j) (refKey r) startedAs) (refKey r) := by
  obtain ⟨job, phase, opcode, -, -, -, -, passes, -⟩ := h
  have start : adminStart c s (refKey r) = modJob (c.prepare s j) (refKey r) startedAs := by
    simp only [adminStart, job, passes, draws]
    rfl
  simp only [adminRow, job, phase, opcode, hw, decide_true, Bool.and_self, if_true, start]

/-- A direct command stands before its effect in the tick of its row. -/
theorem adminRow_toEffect (h : adminReady c s r j) (direct : Direct c s r j) {w : Job → Bool} (hw : w j = true)
    (first : ∀ t, adminHoldsFirst t (startedAs j) = false) (kept : KMap.get? (c.prepare s j).jobs (refKey r) = some j)
    (twin : (c.prepare s j).bridge = s.bridge) :
    KMap.get? (atEffect (c.prepare s j) r).jobs (refKey r) = some (effectDueAs (startedAs j)) ∧
      adminRow c w r s = adminAdvance c (atEffect (c.prepare s j) r) (refKey r) := by
  obtain ⟨phase, waits, none, stage, -, index, -⟩ := running_of_ready h
  have alone : (mirrors (modJob (c.prepare s j) (refKey r) startedAs) && c.markS (startedAs j)) = false := by
    obtain ⟨-, -, -, -, -, -, -, -, alone⟩ := h
    rw [direct.mark, mirrors, modJob_bridge, twin]
    exact alone
  have started : KMap.get? (modJob (c.prepare s j) (refKey r) startedAs).jobs (refKey r) = some (startedAs j) :=
    get?_modJob_same _ kept
  rw [adminRow_of_prepared h hw direct.draws, atEffect, ← modJob_modJob _ _ startedAs effectDueAs]
  exact adminSettle_toEffect started phase waits none stage index (first _) alone direct.records started (direct.follow _ _)

/-- A direct command that nothing holds is done in the tick of its row. -/
theorem adminRow_done (h : adminReady c s r j) (direct : Direct c s r j) {w : Job → Bool} (hw : w j = true)
    (first : ∀ t, adminHoldsFirst t (startedAs j) = false) (kept : KMap.get? (c.prepare s j).jobs (refKey r) = some j)
    (twin : (c.prepare s j).bridge = s.bridge)
    (free : adminHolds (atEffect (c.prepare s j) r) (effectDueAs (startedAs j)) = false)
    (applied : c.apply (atEffect (c.prepare s j) r) (refKey r) (effectDueAs (startedAs j)) = (done, effect, detail))
    (job : KMap.get? done.jobs (refKey r) = some y) (status : y.status = .ok) (time : now done = now (c.prepare s j)) :
    adminRow c w r s = modJob done (refKey r) (finishedAs (now (c.prepare s j)) effect detail) ∧
      adminDone (modJob done (refKey r) (finishedAs (now (c.prepare s j)) effect detail)) r effect detail y.output := by
  obtain ⟨due, row⟩ := adminRow_toEffect h direct hw first kept twin
  rw [row]
  exact adminAdvance_effect due rfl free applied job status time

/-- A direct command that prepares nothing and changes no job is done in the tick of its row. -/
theorem adminRow_sets (h : adminReady c s r j) (direct : Direct c s r j) {w : Job → Bool} (hw : w j = true)
    (prepare : c.prepare s j = s) (first : c.opcode ≠ 0xF009)
    (free : adminHolds (atEffect s r) (effectDueAs (startedAs j)) = false)
    (applied : c.apply (atEffect s r) (refKey r) (effectDueAs (startedAs j)) = (done, effect, detail))
    (jobs : done.jobs = (atEffect s r).jobs) (time : now done = now s) :
    adminRow c w r s = modJob done (refKey r) (finishedAs (now s) effect detail) ∧
      adminDone (modJob done (refKey r) (finishedAs (now s) effect detail)) r effect detail j.output := by
  have code : j.entry.opcode.toNat = c.opcode := h.2.2.1
  have row := adminRow_done (y := effectDueAs (startedAs j)) h direct hw (fun t => adminHoldsFirst_of_opcode t (code.trans_ne first))
    (prepare.symm ▸ h.1) (by rw [prepare]) (prepare.symm ▸ free) (prepare.symm ▸ applied)
    (by rw [jobs]; exact get?_modJob_same _ h.1) (show j.status = .ok from status_of_ready h) (by rw [prepare]; exact time)
  rw [prepare] at row
  exact row

/-- Most commands never wait. -/
theorem adminHolds_of_ready (h : adminReady c s r j) (free : c.opcode ∉ heldOpcodes) (t : State) :
    adminHolds t (effectDueAs (startedAs j)) = false := by
  have code : j.entry.opcode.toNat = c.opcode := h.2.2.1
  exact adminHolds_of_opcode t (show j.entry.opcode.toNat ∉ heldOpcodes from code ▸ free)

end Sys2Proof.Machine
end

section
/-! SUPPORT. The admin commands that take effect in the tick of their dispatch, with O41 (05_admin_commands.md R114 to R122, R133,
R134; 13_fountain.md R319; 15_lifecycle_debug.md R350, R351). -/
namespace Sys2Proof.Machine
open Sys2Proof

variable {s t : State} {r : JobRef} {j x : Job} {v : Allotment} {i : Nat}

/-! ## Allotments, queues, leases and windows -/

theorem get?_adjusted {α : Type} {m l : KMap α} {a : Nat} {v w : α} {f : α → α} (changed : l = KMap.adjust m a f)
    (h : KMap.get? m a = some v) (value : f v = w) : KMap.get? l a = some w := by
  rw [changed, KMap.get?_adjust_same, h, ← value]
  rfl

theorem get?_adjusted_ne {α : Type} {m l : KMap α} {a i : Nat} {f : α → α} (changed : l = KMap.adjust m a f) (h : i ≠ a) :
    KMap.get? l i = KMap.get? m i :=
  changed ▸ KMap.get?_adjust_ne m f h

/-- The allotments after each command that changes one. -/
theorem bindApply_allots (s : State) (i : Nat) (j : Job) : (bindApply s i j).1.allots =
    KMap.adjust s.allots (inlAllot j) fun v => { v with
      func := some (inlineField j 50 1), page := if inlineField j 50 1 = 0 then inlAllot j else inlineField j 51 1,
      tagGroup := if inlineField j 50 1 = 0 then freeTagGroup s (inlAllot j) else inlineField j 51 1,
      orphaned := false, quiesced := !masters s (inlineField j 50 1) } := by
  by_cases pf0 : inlineField j 50 1 = 0
  · simp only [bindApply, pf0, if_true]
    rfl
  · simp only [bindApply, pf0, if_false]
    rfl

theorem leaseApply_allots (s : State) (i : Nat) (j : Job) : (leaseApply s i j).1.allots =
    KMap.adjust s.allots (inlAllot j) fun v => { v with pendingLease := some (effectEpoch (now s), leaseOf j) } := rfl

/-- ALLOT_BIND binds at once where no answered read still holds a tag of the allotment. -/
theorem allotBind_done (h : adminReady cmdAllotBind s r j) (hv : KMap.get? s.allots (inlAllot j) = some v)
    (unanswered : ∀ q ∈ v.reads, q.answered = false) :
    ∃ t, exec (.allotBind r) s = .next t ∧ adminDone t r 0 0 j.output ∧ KMap.get? t.allots (inlAllot j) = some { v with
        func := some (inlineField j 50 1), page := if inlineField j 50 1 = 0 then inlAllot j else inlineField j 51 1,
        tagGroup := if inlineField j 50 1 = 0 then freeTagGroup s (inlAllot j) else inlineField j 51 1,
        orphaned := false, quiesced := !masters s (inlineField j 50 1) } ∧ t.queues = s.queues ∧ t.otp = s.otp := by
  have opcode : j.entry.opcode.toNat = 0xF003 := h.2.2.1
  have free : adminHolds (atEffect s r) (effectDueAs (startedAs j)) = false := by
    unfold adminHolds
    rw [show (effectDueAs (startedAs j)).entry.opcode.toNat = 0xF003 from opcode]
    show (KMap.get? s.allots (inlAllot j)).any _ = false
    rw [hv, Option.any_some, List.any_eq_false]
    exact fun q hq => Bool.eq_false_iff.mp (unanswered q hq)
  obtain ⟨row, done⟩ := adminRow_sets (w := anyEntry) h ⟨rfl, rfl, fun _ _ => rfl, rfl⟩ rfl rfl (by decide) free rfl rfl rfl
  exact ⟨_, congrArg Host.Outcome.next row, done,
    get?_adjusted (bindApply_allots (atEffect s r) (refKey r) (effectDueAs (startedAs j))) hv rfl,
    rfl, rfl⟩

/-- The first queue of a tenant ends the halts. -/
theorem queueCreateApply_halt (s : State) (i : Nat) (j : Job) : (queueCreateApply s i j).1.lc.halt =
    if qcAllot j ≠ 0 ∧ tenantsActive s = false then 0 else s.lc.halt := by
  unfold queueCreateApply
  by_cases own : qcAllot j = 0 <;> cases active : tenantsActive s <;> simp [own, releaseHalts]

/-- Whatever becomes of the halts, QUEUE_CREATE changes the queues and the life cycle alone. -/
theorem queueCreateApply_eq (s : State) (i : Nat) (j : Job) : ∃ l, queueCreateApply s i j = ({ s with
    lc := l, queues := KMap.put s.queues (queueKey (qcAllot j) (qcQueue j)) (newQueue (BitVec.ofNat 64 (inlineField j 48 8))
      (inlineField j 59 1) (if inlineField j 60 2 = 0xFFFF then none else some (inlineField j 60 2)) (inlineField j 62 1 + 1)
      (auxBits j 15 0)) }, 0, 0) := by
  unfold queueCreateApply
  split
  · exact ⟨_, rfl⟩
  · exact ⟨_, rfl⟩

/-- QUEUE_CREATE makes its queue at once, stopped until a doorbell. -/
theorem queueCreate_done (h : adminReady cmdQueueCreate s r j) : ∃ t q, exec (.queueCreate r) s = .next t ∧ adminDone t r 0 0 j.output ∧
      KMap.get? t.queues (queueKey (qcAllot j) (qcQueue j)) = some q ∧ q.base = BitVec.ofNat 64 (inlineField j 48 8) ∧
      q.log2n = inlineField j 59 1 ∧ q.scan = 0 ∧ q.inflight = [] ∧ q.stop = some .notOwned ∧
      q.vector = (if inlineField j 60 2 = 0xFFFF then none else some (inlineField j 60 2)) ∧
      q.modCount = inlineField j 62 1 + 1 ∧ q.modTicks = auxBits j 15 0 ∧
      t.lc.halt = (if qcAllot j ≠ 0 ∧ tenantsActive s = false then 0 else s.lc.halt) ∧ t.allots = s.allots := by
  have halt := queueCreateApply_halt (atEffect s r) (refKey r) (effectDueAs (startedAs j))
  obtain ⟨l, applied⟩ := queueCreateApply_eq (atEffect s r) (refKey r)
    (effectDueAs (startedAs j))
  rw [applied] at halt
  obtain ⟨row, done⟩ := adminRow_sets (w := anyEntry) h ⟨rfl, rfl, fun _ _ => rfl, rfl⟩ rfl rfl (by decide)
    (adminHolds_of_ready h (by decide) _) applied rfl rfl
  exact ⟨_, _, congrArg Host.Outcome.next row, done, KMap.get?_put_same _ _ _, rfl, rfl, rfl, rfl, rfl, rfl, rfl, rfl, halt, rfl⟩

/-- LEASE_SET gives the allotment a lease that waits for its epoch. -/
theorem leaseSet_done (h : adminReady cmdLeaseSet s r j) (hv : KMap.get? s.allots (inlAllot j) = some v) :
    ∃ t, exec (.leaseSet r) s = .next t ∧ adminDone t r (effectEpoch (now s)) 0 j.output ∧
        KMap.get? t.allots (inlAllot j) = some { v with pendingLease := some (effectEpoch (now s), leaseOf j) } ∧
        (∀ a, a ≠ inlAllot j → KMap.get? t.allots a = KMap.get? s.allots a) ∧ t.sched = s.sched ∧ t.queues = s.queues := by
  obtain ⟨row, done⟩ := adminRow_sets (w := anyEntry) h ⟨rfl, rfl, fun _ _ => rfl, rfl⟩ rfl rfl (by decide)
    (adminHolds_of_ready h (by decide) _) rfl rfl rfl
  have changed := leaseApply_allots (atEffect s r) (refKey r) (effectDueAs (startedAs j))
  exact ⟨_, congrArg Host.Outcome.next row, done, get?_adjusted changed hv rfl, fun a ha => get?_adjusted_ne changed ha, rfl, rfl⟩

/-- WINDOW_SET and CURVE_POLICY spare allotment 0 its key-image page: they change the allotment and the image alone. -/
theorem postImageChange_unless (s : State) (l : KMap Allotment) (a : Nat) :
    ∃ m, (if a = 0 then { s with allots := l } else (postImageChange { s with allots := l } a).1) = { s with allots := l, ice := m } := by
  split <;> exact ⟨_, rfl⟩

theorem windowApply_changes (s : State) (i : Nat) (j : Job) : ∃ l m, windowApply s i j = ({ s with allots := l, ice := m }, 0, 0) ∧
    l = KMap.adjust s.allots (auxBits j 15 0) fun v => { v with windows := windowsAfter v.windows j } := by
  obtain ⟨m, image⟩ := postImageChange_unless s _ (auxBits j 15 0)
  exact ⟨_, m, congrArg (·, 0, 0) image, rfl⟩

theorem curvePolicyApply_changes (s : State) (i : Nat) (j : Job) :
    ∃ l m, curvePolicyApply s i j = ({ s with allots := l, ice := m }, 0, 0) ∧ l = KMap.adjust s.allots (inlAllot j) fun v =>
      { v with curves := BitVec.ofNat 7 (inlineField j 50 1), maxLoad := inlineField j 51 1 } := by
  obtain ⟨m, image⟩ := postImageChange_unless s _ (inlAllot j)
  exact ⟨_, m, congrArg (·, 0, 0) image, rfl⟩

/-- WINDOW_SET sets the window at once. -/
theorem windowSet_done (h : adminReady cmdWindowSet s r j) (hv : KMap.get? s.allots (auxBits j 15 0) = some v) :
    ∃ t, exec (.windowSet r) s = .next t ∧ adminDone t r 0 0 j.output ∧
        KMap.get? t.allots (auxBits j 15 0) = some { v with windows := windowsAfter v.windows j } ∧
        (∀ a, a ≠ auxBits j 15 0 → KMap.get? t.allots a = KMap.get? s.allots a) ∧ t.queues = s.queues := by
  obtain ⟨l, m, applied, changed⟩ := windowApply_changes (atEffect s r) (refKey r)
    (effectDueAs (startedAs j))
  obtain ⟨row, done⟩ := adminRow_sets (w := anyEntry) h ⟨rfl, rfl, fun _ _ => rfl, rfl⟩ rfl rfl (by decide)
    (adminHolds_of_ready h (by decide) _) applied rfl rfl
  exact ⟨_, congrArg Host.Outcome.next row, done, get?_adjusted changed hv rfl, fun a ha => get?_adjusted_ne changed ha, rfl⟩

/-- CURVE_POLICY sets the curves and the number of loads that the allotment may have. -/
theorem curvePolicy_done (h : adminReady cmdCurvePolicy s r j) (hv : KMap.get? s.allots (inlAllot j) = some v) :
    ∃ t, exec (.curvePolicy r) s = .next t ∧ adminDone t r 0 0 j.output ∧ KMap.get? t.allots (inlAllot j) =
        some { v with curves := BitVec.ofNat 7 (inlineField j 50 1), maxLoad := inlineField j 51 1 } ∧ t.curves = s.curves := by
  obtain ⟨l, m, applied, changed⟩ := curvePolicyApply_changes (atEffect s r) (refKey r)
    (effectDueAs (startedAs j))
  obtain ⟨row, done⟩ := adminRow_sets (w := anyEntry) h ⟨rfl, rfl, fun _ _ => rfl, rfl⟩ rfl rfl (by decide)
    (adminHolds_of_ready h (by decide) _) applied rfl rfl
  exact ⟨_, congrArg Host.Outcome.next row, done, get?_adjusted changed hv rfl, rfl⟩

end Sys2Proof.Machine
end

section
/-! SUPPORT. What keys, images and the device take at once, with O41 (05_admin_commands.md R120, R121, R133, R134; 13_fountain.md R319;
15_lifecycle_debug.md R350, R351). -/
namespace Sys2Proof.Machine
open Sys2Proof

variable {s t : State} {r : JobRef} {j x : Job} {i : Nat}

/-! ## Keys and images -/

/-- KEY_ADMIN describes the key by the record of its properties; the key stays. -/
theorem keyDescribe_done {resident : Bool} {n : Nat} {key : Key} (h : adminReady cmdKeyDescribe s r j) (describe : inlineField j 56 1 = 2)
    (found : findKey s (handleAllot (kaHandle j)) (kaHandle j) = some (resident, n, key)) :
    ∃ t, exec (.keyAdminDescribe r) s = .next t ∧
      adminDone t r 0 0 (attributeRecord key resident (BitVec.ofNat 64 (kaHandle j))) ∧ t.ice = s.ice := by
  have first : ∀ t, adminHoldsFirst t (startedAs j) = false := fun t => by
    have other : inlineField (startedAs j) 56 1 ≠ 1 := fun h => nomatch describe.symm.trans h
    simp only [adminHoldsFirst, other, decide_false, Bool.and_false, Bool.false_and]
  have applied : describeApply (atEffect s r) (refKey r) (effectDueAs (startedAs j)) = (modJob (atEffect s r) (refKey r) fun x =>
      { x with output := attributeRecord key resident (BitVec.ofNat 64 (kaHandle j)) }, 0, 0) := by
    have found' : findKey (atEffect s r) (handleAllot (kaHandle (effectDueAs (startedAs j)))) (kaHandle (effectDueAs (startedAs j))) =
      some (resident, n, key) := (findKey_modJob s _ _ _ _).trans found
    simp only [describeApply, found']
    rfl
  have job := get?_modJob_same (fun x => { x with output := attributeRecord key resident (BitVec.ofNat 64 (kaHandle j)) })
    (get?_modJob_same (fun x => effectDueAs (startedAs x)) h.1)
  obtain ⟨row, done⟩ := adminRow_done (w := fun j => decide (inlineField j 56 1 = 2)) h ⟨rfl, rfl, fun _ _ => rfl, rfl⟩
    (decide_eq_true describe) first h.1 rfl (adminHolds_of_ready h (by decide) _) applied job
    (show j.status = .ok from status_of_ready h) rfl
  exact ⟨_, congrArg Host.Outcome.next row, done, rfl⟩

/-- OPEN_LOAD leaves the image to wait for its epoch. -/
theorem openLoad_done (h : adminReady cmdOpenLoad s r j) :
    ∃ t, exec (.openLoad r) s = .next t ∧ adminDone t r (effectEpoch (now s)) 0 j.output ∧
      t.stores = { s.stores with pending := some (effectEpoch (now s), openImageOf j.input) } ∧ t.allots = s.allots := by
  obtain ⟨row, done⟩ := adminRow_sets (w := anyEntry) h ⟨rfl, rfl, fun _ _ => rfl, rfl⟩ rfl rfl (by decide)
    (adminHolds_of_ready h (by decide) _) rfl rfl rfl
  exact ⟨_, congrArg Host.Outcome.next row, done, rfl, rfl⟩

/-! ### The fields of PATCH_STATUS (Table 5-7) -/

theorem slice_append_right {a b : List Byte} {off n : Nat} (h : a.length = off) : slice (a ++ b) off n = slice b 0 n := by
  refine List.map_congr_left fun i _ => ?_
  rw [← h, List.getD_append_right _ _ _ _ (Nat.le_add_right _ _), Nat.add_sub_cancel_left, Nat.zero_add]

theorem slice_append_left {a b : List Byte} {n : Nat} (h : a.length = n) : slice (a ++ b) 0 n = a := by
  refine List.ext_getElem (by simp [h]) fun i h1 h2 => ?_
  simp [slice, List.getElem?_append_left h2, List.getElem?_eq_getElem h2]

theorem fieldAt_leBytes_append {n v : Nat} {b : List Byte} : fieldAt (leBytes n v ++ b) 0 n = v % 256 ^ n := by
  rw [fieldAt, slice_append_left (length_leBytes n v), leNat_leBytes]

theorem fieldAt_append_right {a b : List Byte} {off n : Nat} (h : a.length = off) : fieldAt (a ++ b) off n = fieldAt b 0 n := by
  rw [fieldAt, slice_append_right h]
  rfl

/-- The bytes of PATCH_STATUS show the patch level, the number of enabled match registers and the measurement. -/
theorem patchStatusBytes_fields (s : State) : fieldAt (patchStatusBytes s) 0 4 = s.stores.patchLevel.toNat ∧
    fieldAt (patchStatusBytes s) 4 2 = (s.stores.match64.filter fun m => m.getLsbD 63).length % 65536 ∧
    slice (patchStatusBytes s) 8 32 = slice s.stores.patchMeasurement 0 32 := by
  simp only [patchStatusBytes, List.append_assoc]
  refine ⟨?_, ?_, ?_⟩
  · rw [fieldAt_leBytes_append]
    exact Nat.mod_eq_of_lt s.stores.patchLevel.isLt
  · rw [fieldAt_append_right (length_leBytes 4 _), fieldAt_leBytes_append]
    rfl
  · rw [← List.append_assoc, ← List.append_assoc, slice_append_right (by simp), slice_append_left (length_slice _ _ _)]

/-- PATCH_STATUS writes its bytes and changes nothing. -/
theorem patchStatus_done (h : adminReady cmdPatchStatus s r j) : ∃ t out, exec (.patchStatus r) s = .next t ∧ adminDone t r 0 0 out ∧
      fieldAt out 0 4 = s.stores.patchLevel.toNat ∧
      fieldAt out 4 2 = (s.stores.match64.filter fun m => m.getLsbD 63).length % 65536 ∧
      slice out 8 32 = slice s.stores.patchMeasurement 0 32 ∧ t.stores = s.stores := by
  obtain ⟨level, matches', measurement⟩ := patchStatusBytes_fields (atEffect s r)
  have job := get?_modJob_same (fun x => { x with output := patchStatusBytes (atEffect s r) })
    (get?_modJob_same (fun x => effectDueAs (startedAs x)) h.1)
  have first : ∀ t, adminHoldsFirst t (startedAs j) = false := fun t =>
    adminHoldsFirst_of_opcode t (h.2.2.1.trans_ne (by decide))
  obtain ⟨row, done⟩ := adminRow_done (w := anyEntry) h ⟨rfl, rfl, fun _ _ => rfl, rfl⟩ rfl first h.1 rfl
    (adminHolds_of_ready h (by decide) _) rfl job (show j.status = .ok from status_of_ready h) rfl
  exact ⟨_, _, congrArg Host.Outcome.next row, done, level, matches', measurement, rfl⟩

/-! ## The device -/

/-- At the dispatch of RNG_RAW_MODE the expander and the pool are gone, and its event is recorded. -/
theorem rawBegin_changes (s : State) (j : Job) : ∃ e l, rawBegin s j = { s with
    fountain := { s.fountain with
      rawMode := true, ready := false, pool := [], poolChunks := 0, seed := none, drbgKey := [], drbgV := [], instantiated := false }
    events := e, journal := l } := by
  unfold rawBegin logFountain
  exact logEventAt_changes _ _ _ _ _ _ _ _

/-- RNG_RAW_MODE answers as many raw bytes as its output takes, and normal output stops. -/
theorem rngRawMode_done (h : adminReady cmdRngRawMode s r j) : ∃ t out, exec (.rngRawMode r) s = .next t ∧ adminDone t r 0 0 out ∧
      out.length = j.entry.outLen.toNat ∧ t.fountain.rawMode = true ∧ t.fountain.ready = false ∧ t.fountain.pool = [] ∧
      t.fountain.seed = none ∧ t.fountain.instantiated = false ∧ t.fountain.cells = s.fountain.cells := by
  obtain ⟨e, l, begun⟩ := rawBegin_changes s j
  have first : ∀ t, adminHoldsFirst t (startedAs j) = false := fun t =>
    adminHoldsFirst_of_opcode t (h.2.2.1.trans_ne (by decide))
  have kept : KMap.get? (rawBegin s j).jobs (refKey r) = some j := by
    rw [begun]
    exact h.1
  have job := get?_modJob_same (fun x => effectDueAs (startedAs x)) kept
  obtain ⟨row, done⟩ := adminRow_done (w := anyEntry) h ⟨rfl, rfl, fun _ _ => rfl, rfl⟩ rfl first kept
    (show (rawBegin s j).bridge = s.bridge by rw [begun]) (adminHolds_of_ready h (by decide) _) rfl (get?_modJob_same _ job)
    (show j.status = .ok from status_of_ready h) rfl
  have fountain := congrArg State.fountain begun
  refine ⟨_, _, congrArg Host.Outcome.next row, done, length_slice _ _ _, ?_⟩
  change (rawBegin s j).fountain.rawMode = true ∧ (rawBegin s j).fountain.ready = false ∧ (rawBegin s j).fountain.pool = [] ∧
    (rawBegin s j).fountain.seed = none ∧ (rawBegin s j).fountain.instantiated = false ∧ (rawBegin s j).fountain.cells = s.fountain.cells
  rw [fountain]
  exact ⟨rfl, rfl, rfl, rfl, rfl, rfl⟩

/-- Without an open commit SOLO begins with its record alone. -/
theorem enterSolo_of_no_commits (cause : Nat) (joined : s.bridge.solo = false) (none : s.bridge.commits = []) :
    enterSolo s cause = (postTwin { s with bridge := { s.bridge with
      solo := true, soloCause := cause, soloTick := now s, rejoining := false,
      staged := s.bridge.staged.map fun x => { x with inDoubt := true } } } 2).1 := by
  simp only [enterSolo, joined, none, Bool.false_eq_true, if_false, List.map_nil, List.foldl_nil]

/-- TWIN_SOLO enters SOLO with its record, and tells the twin. -/
theorem twinSolo_done (h : adminReady cmdTwinSolo s r j) (joined : s.bridge.solo = false) (none : s.bridge.commits = []) :
    ∃ t, exec (.twinSolo r) s = .next t ∧
      adminDone t r 0 0 j.output ∧ t.bridge.solo = true ∧ t.bridge.soloCause = 2 ∧ t.bridge.soloTick = now s ∧
      ∃ b, t.journal.pending = s.journal.pending ++ [b] ∧ b.type = 7 ∧ b.subtype = 2 := by
  have applied : twinSoloApply (atEffect s r) (refKey r) (effectDueAs (startedAs j)) =
      (postFrame (enterSolo (atEffect s r) 2) deviceHolder 0x22 0 [1], 0, 0) := by
    simp only [twinSoloApply, modJob_bridge, joined, Bool.false_eq_true, if_false]
  rw [enterSolo_of_no_commits (s := atEffect s r) 2 joined none] at applied
  obtain ⟨row, done⟩ := adminRow_sets (w := anyEntry) h ⟨rfl, rfl, fun _ _ => rfl, rfl⟩ rfl rfl (by decide)
    (adminHolds_of_ready h (by decide) _) applied rfl rfl
  exact ⟨_, congrArg Host.Outcome.next row, done, rfl, rfl, rfl, _, rfl, rfl, rfl⟩

/-! ### LC_ADVANCE -/

/-- The words of a state stand in those of every state that it can go on to. -/
theorem lifeWords_or {old new : Nat} (arrow : lifeArrow old new = true) :
    (List.range 4).map (fun i => (lifeWords old).getD i 0 ||| (lifeWords new).getD i 0) = lifeWords new ∧
      decodeLife (lifeWords new) = (new, false) := by
  have all : ∀ p ∈ [(0, 1), (0, 3), (1, 2), (1, 3), (2, 3)],
      (List.range 4).map (fun i => (lifeWords p.1).getD i 0 ||| (lifeWords p.2).getD i 0) = lifeWords p.2 ∧
        decodeLife (lifeWords p.2) = (p.2, false) := by decide
  exact all (old, new) (List.contains_iff_mem.mp arrow)

/-- A transition of Table 15-2 from words that stand for the old state programs those of the new one. -/
theorem lcAdvanceApply_of_arrow {old : Nat} (words : s.otp.lcWords = lifeWords old) (arrow : lifeArrow old (lifeTarget j) = true) :
    lcAdvanceApply s i j = ({ s with
      otp := { (if lifeTarget j = 2 then programSeed s.otp (slice j.drawn 0 32) else s.otp) with lcWords := lifeWords (lifeTarget j) }
      lc := { s.lc with pending := lifeTarget j, words := lifeWords (lifeTarget j) } }, 0xFFFFFFFFFFFFFFFF, lifeTarget j) := by
  obtain ⟨merged, decoded⟩ := lifeWords_or arrow
  have seeded : (if lifeTarget j = 2 then programSeed s.otp (slice j.drawn 0 32) else s.otp).lcWords = lifeWords old := by
    rw [← words]
    unfold programSeed
    split_ifs <;> rfl
  simp only [lcAdvanceApply, programLife, seeded, merged, decoded, if_true]

theorem lifeArrow_of_check (h : lcAdvanceCheck s j = none) : lifeArrow s.lc.pending (lifeTarget j) = true := by
  unfold lcAdvanceCheck at h
  simp only at h
  split_ifs at h with range order legal
  · exact nomatch h
  · exact nomatch h
  · simp only [Bool.or_eq_true, not_or, Bool.not_eq_true', Bool.not_eq_false] at legal
    exact legal.1

/-- LC_ADVANCE to a state that needs no record and no seed programs its words at once; the state in force stays. -/
theorem lcAdvance_done (h : adminReady cmdLcAdvance s r j) (plain : lifeTarget j ≠ 2) (early : s.lc.pending ≤ 1)
    (words : s.otp.lcWords = lifeWords s.lc.pending) : ∃ t, exec (.lcAdvance r) s = .next t ∧
      adminDone t r 0xFFFFFFFFFFFFFFFF (lifeTarget j) j.output ∧
      t.otp = { s.otp with lcWords := lifeWords (lifeTarget j) } ∧ t.lc.pending = lifeTarget j ∧ t.lc.inForce = s.lc.inForce := by
  have arrow := lifeArrow_of_check (check_of_adminFailure h.2.2.2.2.2.2.2.1).2
  have applied := lcAdvanceApply_of_arrow (s := atEffect s r) (j := effectDueAs (startedAs j)) (i := refKey r) words arrow
  rw [if_neg (show lifeTarget (effectDueAs (startedAs j)) ≠ 2 from plain)] at applied
  have records : lcAdvanceRecords (modJob s (refKey r) startedAs) (startedAs j) = (modJob s (refKey r) startedAs, []) :=
    if_neg (show s.lc.pending ≠ 2 by omega)
  obtain ⟨row, done⟩ := adminRow_sets (w := anyEntry) h ⟨if_neg plain, records, fun _ _ => rfl, rfl⟩ rfl rfl (by decide)
    (adminHolds_of_ready h (by decide) _) applied rfl rfl
  exact ⟨_, congrArg Host.Outcome.next row, done, rfl, rfl, rfl⟩

/-- Settles O41, command by command: each runs through its stages in the tick of its row (`adminRow_sets`). -/
theorem adminSets : Obligations.AdminSets :=
  ⟨fun _ _ _ _ => ⟨allotBind_done, queueCreate_done, leaseSet_done, windowSet_done, curvePolicy_done⟩,
    fun _ _ _ => ⟨fun _ _ _ => keyDescribe_done, openLoad_done, patchStatus_done, rngRawMode_done, twinSolo_done, lcAdvance_done⟩⟩

end Sys2Proof.Machine
end

section
/-! SUPPORT. A command that draws waits for its bytes; with them it goes on to its effect, with O43 (05_admin_commands.md R110, R127;
15_lifecycle_debug.md R351, R352; 19_footbridge.md R435). -/
namespace Sys2Proof.Machine
open Sys2Proof

variable {c : AdminCmd} {s t done recorded : State} {r : JobRef} {j x y : Job} {i effect detail : Nat}

/-! ## The draw -/

/-- The job of a command that has posted a draw. -/
def drawingAs (n : Nat) (fresh : Bool) (x : Job) : Job :=
  { x with phase := .running, remaining := 1, draws := [{ bytes := n, fresh := fresh, posted := false }] }

theorem adminAdvance_of_draws (job : KMap.get? t.jobs (refKey r) = some x) (draws : x.draws ≠ []) :
    adminAdvance c t (refKey r) = t := by
  simp only [adminAdvance, job, draws, decide_false, Bool.and_false, Bool.false_eq_true, if_false]

/-- A ready command that draws posts its draw in the tick of its row, and goes no further. -/
theorem adminRow_draws {n : Nat} {fresh : Bool} (h : adminReady c s r j) {w : Job → Bool} (hw : w j = true)
    (draws : c.draws j = some (n, fresh)) (prepare : c.prepare s j = s) :
    adminRow c w r s = modJob s (refKey r) (drawingAs n fresh) := by
  obtain ⟨job, phase, opcode, -, -, -, -, passes, -⟩ := h
  have start : adminStart c s (refKey r) = modJob s (refKey r) (drawingAs n fresh) := by
    simp only [adminStart, job, passes, draws, prepare]
    rfl
  simp only [adminRow, job, phase, opcode, hw, decide_true, Bool.and_self, if_true, start]
  exact adminSettle_of_still (adminAdvance_of_draws (get?_modJob_same _ job) (List.cons_ne_nil _ _))

/-! ## The drawn bytes -/

/-- A command whose draw has come stands before its effect once its records are made, where it waits for none. -/
theorem adminSettle_drawn (h : adminResumes c s r j 1) (first : c.opcode ≠ 0xF009) (records : c.records s j = (recorded, []))
    (kept : KMap.get? recorded.jobs (refKey r) = some j) (follow : ∀ s x, c.follow s x = (s, [])) :
    KMap.get? (modJob recorded (refKey r) effectDueAs).jobs (refKey r) = some (effectDueAs j) ∧
      adminSettle c s (refKey r) = adminAdvance c (modJob recorded (refKey r) effectDueAs) (refKey r) := by
  obtain ⟨job, phase, -, waits, draws, index, stage, opcode, alone⟩ := h
  exact adminSettle_toEffect job phase waits draws stage index (adminHoldsFirst_of_opcode s (opcode.trans_ne first))
    (by rw [alone, Bool.false_and]) records kept (follow _ _)

/-- Where nothing holds it, it is done. -/
theorem adminSettle_drawn_done (h : adminResumes c s r j 1) (first : c.opcode ≠ 0xF009) (free : c.opcode ∉ heldOpcodes)
    (records : c.records s j = (s, [])) (follow : ∀ s x, c.follow s x = (s, []))
    (applied : c.apply (modJob s (refKey r) effectDueAs) (refKey r) (effectDueAs j) = (done, effect, detail))
    (kept : KMap.get? done.jobs (refKey r) = some y) (status : y.status = j.status) (time : now done = now s) :
    adminSettle c s (refKey r) = modJob done (refKey r) (finishedAs (now s) effect detail) ∧
      adminDone (modJob done (refKey r) (finishedAs (now s) effect detail)) r effect detail y.output := by
  obtain ⟨due, course⟩ := adminSettle_drawn h first records h.1 follow
  obtain ⟨-, -, ok, -, draws, -, -, opcode, -⟩ := h
  rw [course]
  exact adminAdvance_effect due draws (adminHolds_of_opcode _ (show j.entry.opcode.toNat ∉ heldOpcodes from opcode ▸ free)) applied kept
    (status.trans ok) time

/-! ## The commands -/

/-- ALLOT_CREATE makes its allotment with the drawn salt; no other allotment changes. -/
theorem allotCreate_drawn (h : adminResumes cmdAllotCreate s r j 1) :
    ∃ t v, adminSettle cmdAllotCreate s (refKey r) = t ∧ adminDone t r 0 0 j.output ∧
      KMap.get? t.allots (inlAllot j) = some v ∧ v.salt = slice j.drawn 0 32 ∧ v.quota = inlineField j 52 2 ∧
      v.evictBlocks = inlineField j 51 1 ∧ v.isSealed = bitOf (inlineField j 50 1) 0 ∧
      v.shareable = bitOf (inlineField j 50 1) 1 ∧ v.lendable = bitOf (inlineField j 50 1) 2 ∧ v.lease = Lease.none ∧
      v.windows = [] ∧ v.func = none ∧ v.shareFrom = effectEpoch (now s) ∧
      ∀ a, a ≠ inlAllot j → KMap.get? t.allots a = KMap.get? s.allots a := by
  obtain ⟨course, done⟩ := adminSettle_drawn_done h (by decide) (by decide) rfl (fun _ _ => rfl) rfl
    (get?_modJob_same effectDueAs h.1) rfl rfl
  exact ⟨_, _, course, done, KMap.get?_put_same _ _ _, rfl, rfl, rfl, rfl, rfl, rfl, rfl, rfl, rfl, rfl,
    fun a ha => KMap.get?_put_ne _ _ ha⟩

/-- LC_ADVANCE to PRODUCTION programs the drawn seed and the words. -/
theorem lcAdvance_drawn (h : adminResumes cmdLcAdvance s r j 1) (target : lifeTarget j = 2) (pending : s.lc.pending = 1)
    (words : s.otp.lcWords = lifeWords 1) (free : programmed s.otp.seed0 = false) :
    ∃ t, adminSettle cmdLcAdvance s (refKey r) = t ∧ adminDone t r 0xFFFFFFFFFFFFFFFF 2 j.output ∧
      t.otp = { s.otp with seed0 := slice j.drawn 0 32, lcWords := lifeWords 2 } ∧ t.lc.pending = 2 := by
  have applied := lcAdvanceApply_of_arrow (s := modJob s (refKey r) effectDueAs) (j := effectDueAs j) (i := refKey r) words
    (show lifeArrow 1 (lifeTarget j) = true by rw [target]; decide)
  rw [show lifeTarget (effectDueAs j) = 2 from target] at applied
  simp only [if_true, programSeed, modJob_otp, free, Bool.false_eq_true, if_false] at applied
  obtain ⟨course, done⟩ := adminSettle_drawn_done h (by decide) (by decide) (if_neg (by omega)) (fun _ _ => rfl) applied
    (get?_modJob_same effectDueAs h.1) rfl rfl
  exact ⟨_, course, done, rfl, rfl⟩

/-- The nonce of DEBUG_UNLOCK is its output, and is outstanding. -/
theorem debugNonce_drawn (h : adminResumes cmdDebugNonce s r j 1) :
    ∃ t, adminSettle cmdDebugNonce s (refKey r) = t ∧ adminDone t r 0 0 (slice j.drawn 0 32) ∧
      t.lc.nonce = some (slice j.drawn 0 32) := by
  obtain ⟨course, done⟩ := adminSettle_drawn_done h (by decide) (by decide) rfl (fun _ _ => rfl) rfl
    (get?_modJob_same _ (get?_modJob_same effectDueAs h.1)) rfl rfl
  exact ⟨_, course, done, rfl⟩

/-- A ceremony that begins before the twin's HELLO posts its own; it waits for the twin's. -/
theorem twinPairBegin_of_no_hello (alone : s.bridge.helloPeer = []) : ∃ (n : Nat) (b : Bridge) (f : Frame), twinPairBegin s j =
    ({ s with freeCount := n, bridge := b }, []) ∧ b.ceremony = 1 ∧ b.ceremonyJob = s.regs.admJob ∧
      b.sharedSecret = slice j.drawn 0 64 ∧ b.queue = KMap.put s.bridge.queue deviceHolder (KMap.getD s.bridge.queue deviceHolder [] ++ [f]) ∧
      f.type = 1 := by
  unfold twinPairBegin
  extract_lets p begun hello bridge opened posted
  have empty : posted.bridge.helloPeer = [] := by
    dsimp only [posted, postFrame, opened]
    exact alone
  rw [if_neg (not_not.mpr empty)]
  exact ⟨_, _, _, rfl, rfl, rfl, rfl, rfl, rfl⟩

/-- TWIN_PAIR begins its ceremony with the drawn secret, and waits for its end. -/
theorem twinPair_drawn (h : adminResumes cmdTwinPair s r j 1) (admin : s.regs.admJob = some (refKey r))
    (alone : s.bridge.helloPeer = []) :
    ∃ t, adminSettle cmdTwinPair s (refKey r) = t ∧ t.bridge.ceremony = 1 ∧ t.bridge.ceremonyJob = some (refKey r) ∧
      t.bridge.sharedSecret = slice j.drawn 0 64 ∧ adminAwaits t r [] ∧
      ∃ f, KMap.getD t.bridge.queue deviceHolder [] = KMap.getD s.bridge.queue deviceHolder [] ++ [f] ∧ f.type = 1 := by
  obtain ⟨n, b, f, records, ceremony, job, secret, queue, type⟩ := twinPairBegin_of_no_hello (j := j) alone
  obtain ⟨due, course⟩ := adminSettle_drawn h (by decide) records h.1 fun _ _ => rfl
  have held : adminHolds (modJob { s with freeCount := n, bridge := b } (refKey r) effectDueAs) (effectDueAs j) =
      true := by
    have opcode : (effectDueAs j).entry.opcode.toNat = 0xF015 := by
      obtain ⟨-, -, -, -, -, -, -, opcode, -⟩ := h
      exact opcode
    unfold adminHolds
    rw [opcode]
    exact congrArg Option.isSome (job.trans admin)
  rw [adminAdvance_holds due rfl rfl held] at course
  refine ⟨_, course, ceremony, job.trans admin, secret, ⟨_, due, rfl, rfl⟩, f, ?_, type⟩
  show (KMap.get? b.queue deviceHolder).getD [] = _
  rw [queue, KMap.get?_put_same]
  rfl

/-- Settles O43: the draws are posted by `adminRow_draws`, and the drawn bytes carry each command to its effect. -/
theorem adminDraws : Obligations.AdminDraws := by
  intro s r j
  refine ⟨fun row c n fresh hrow ready aux => ?_, fun ready target => ?_, allotCreate_drawn, lcAdvance_drawn, debugNonce_drawn,
    twinPair_drawn⟩
  · simp only [List.mem_cons, Prod.mk.injEq, List.not_mem_nil, or_false] at hrow
    obtain ⟨rfl, rfl, rfl, rfl⟩ | ⟨rfl, rfl, rfl, rfl⟩ | ⟨rfl, rfl, rfl, rfl⟩ := hrow
    · exact congrArg Host.Outcome.next (adminRow_draws ready rfl rfl rfl)
    · have own : decide (j.entry.aux.toNat = 0) = true := by
        rw [aux rfl]
        rfl
      exact congrArg Host.Outcome.next (adminRow_draws (w := fun j => decide (j.entry.aux.toNat = 0)) ready own rfl rfl)
    · exact congrArg Host.Outcome.next (adminRow_draws ready rfl rfl rfl)
  · exact congrArg Host.Outcome.next (adminRow_draws ready rfl (if_pos target) rfl)

end Sys2Proof.Machine
end

section
/-! SUPPORT. A command marked S on a paired device: it opens a commit of its item and waits for it, with O46 (05_admin_commands.md R109;
19_footbridge.md R438, R439). -/
namespace Sys2Proof.Machine
open Sys2Proof

variable {c : AdminCmd} {s t : State} {r : JobRef} {j x : Job} {k kind item : Nat}

/-- The job of a command that waits for its commit. -/
def committingAs (tseq : Nat) (x : Job) : Job := { x with phase := .running, remaining := 0, waits := [.twin tseq] }

/-- A commit that opens stands under the next transaction number; beside the Footbridge nothing changes. -/
theorem openCommit_changes (s : State) (holder kind item : Nat) (contents : List Byte) (records : List Nat) (job : Option Nat) :
    ∃ b : Bridge, openCommit s holder kind item contents records job = ({ s with bridge := b }, s.bridge.tseqNext) ∧
      KMap.get? b.commits s.bridge.tseqNext = some
        { tseq := s.bridge.tseqNext, holder := holder, kind := kind, item := item, contents := contents, records := records,
          acked := false, committing := false, sentAt := none, job := job } := by
  simp only [openCommit]
  split <;> exact ⟨_, rfl, KMap.get?_put_same _ _ _⟩

/-- A running command that mirrors its item offers it to the twin. -/
theorem adminAdvance_mirrored (job : KMap.get? t.jobs k = some x) (phase : x.phase = .running) (waits : x.waits = [])
    (draws : x.draws = []) (stage : x.remaining = 1) (free : adminHoldsFirst t x = false) (pair : mirrors t = true)
    (mark : c.markS x = true) (records : c.records t x = (t, [])) (change : c.mirrored x = some (kind, item)) :
    adminAdvance c t k = modJob (openCommit t 0 kind item (adminContents c t k x kind item) [] (some k)).1 k
      (committingAs (openCommit t 0 kind item (adminContents c t k x kind item) [] (some k)).2) := by
  simp only [adminAdvance, job, phase, waits, draws, stage, free, decide_true, Bool.and_self, if_true, Bool.false_eq_true, if_false,
    adminStage, pair, mark, records, change]
  rfl

theorem adminAdvance_of_waits (job : KMap.get? t.jobs k = some x) (waits : x.waits ≠ []) : adminAdvance c t k = t := by
  simp only [adminAdvance, job, waits, decide_false, Bool.and_false, Bool.false_and, Bool.false_eq_true, if_false]

/-- A command that draws nothing and makes no record waits for the commit of its item; nothing beside it has changed. -/
theorem adminRow_mirrored (job : KMap.get? s.jobs (refKey r) = some j) (phase : j.phase = .dispatched)
    (opcode : j.entry.opcode.toNat = c.opcode) (waits : j.waits = []) (passes : adminFailure c s j = none) (pair : mirrors s = true)
    (plain : c.draws j = none) (prepare : c.prepare s j = s) (records : ∀ t x, c.records t x = (t, [])) (first : c.opcode ≠ 0xF009)
    (mark : c.markS (startedAs j) = true) (change : c.mirrored (startedAs j) = some (kind, item)) :
    ∃ t x y, adminRow c anyEntry r s = t ∧ KMap.get? t.bridge.commits s.bridge.tseqNext = some x ∧ x.kind = kind ∧ x.item = item ∧
      x.job = some (refKey r) ∧ x.acked = false ∧ KMap.get? t.jobs (refKey r) = some y ∧ y.phase = .running ∧
      y.waits = [.twin s.bridge.tseqNext] ∧ t.allots = s.allots ∧ t.queues = s.queues ∧ t.stores = s.stores := by
  have started : KMap.get? (modJob s (refKey r) startedAs).jobs (refKey r) = some (startedAs j) := get?_modJob_same _ job
  have row : adminRow c anyEntry r s = adminSettle c (modJob s (refKey r) startedAs) (refKey r) := by
    have start : adminStart c s (refKey r) = modJob s (refKey r) startedAs := by
      simp only [adminStart, job, passes, prepare, plain]
      rfl
    simp only [adminRow, job, phase, opcode, anyEntry, decide_true, Bool.and_self, if_true, start]
  have free := adminHoldsFirst_of_opcode (x := startedAs j) (modJob s (refKey r) startedAs) (opcode.trans_ne first)
  have offer := adminAdvance_mirrored started rfl waits rfl rfl free pair mark (records _ _) change
  obtain ⟨b, opened, commit⟩ := openCommit_changes (modJob s (refKey r) startedAs) 0 kind item
    (adminContents c (modJob s (refKey r) startedAs) (refKey r) (startedAs j) kind item) [] (some (refKey r))
  rw [opened] at offer
  have offered : KMap.get? (adminAdvance c (modJob s (refKey r) startedAs) (refKey r)).jobs (refKey r) =
      some (committingAs s.bridge.tseqNext (startedAs j)) := by
    rw [offer]
    exact get?_modJob_same _ started
  have still := adminAdvance_of_waits (c := c) offered (List.cons_ne_nil _ _)
  rw [adminSettle, still, still, offer] at row
  rw [offer] at offered
  exact ⟨_, _, _, row, commit, rfl, rfl, rfl, rfl, offered, rfl, rfl, rfl, rfl, rfl⟩

/-- Settles O46: each of the six commands offers its item and waits (`adminRow_mirrored`). -/
theorem adminMirrored : Obligations.AdminMirrored := by
  intro s r j row c kind item hrow job phase opcode draws waits passes pair
  simp only [List.mem_cons, Prod.mk.injEq, List.not_mem_nil, or_false] at hrow
  have course := fun plain prepare records first mark change =>
    adminRow_mirrored (kind := kind) (item := item) job phase opcode waits passes pair plain prepare records first mark change
  obtain ⟨rfl, rfl, rfl, rfl⟩ | ⟨rfl, rfl, rfl, rfl⟩ | ⟨rfl, rfl, rfl, rfl⟩ | ⟨rfl, rfl, rfl, rfl⟩ | ⟨rfl, rfl, rfl, rfl⟩ |
    ⟨rfl, rfl, rfl, rfl⟩ := hrow
  all_goals
    obtain ⟨t, x, y, row, rest⟩ := course rfl rfl (fun _ _ => rfl) (by decide) rfl rfl
    exact ⟨t, x, y, congrArg Host.Outcome.next row, rest⟩

end Sys2Proof.Machine
end

section
/-! SUPPORT. A run of self-tests: its begin, a part's begin at its epoch, and a part's end with its signature, with O60
(05_admin_commands.md R128; 21_errors_dump_bist.md R484, R486). -/
namespace Sys2Proof.Machine
open Sys2Proof

variable {s t : State} {r : JobRef} {j : Job} {p e : Nat} {ps : List Nat} {sig : W64}

/-! ## BIST_RUN -/

/-- BIST_RUN schedules its first part and waits for the run's end. -/
theorem bistRun_begins (h : adminReady cmdBistRun s r j) (parts : bistParts s j = p :: ps) : ∃ t, exec (.bistRun r) s = .next t ∧
      t.bist.running = true ∧ t.bist.partActive = false ∧ t.bist.partsLeft = p :: ps ∧ t.bist.mismatch = 0 ∧ t.bist.output = [] ∧
      t.bist.startEpoch = (if p < 12 then some (effectEpoch (now s)) else none) ∧
      t.bist.startTick = (if p < 12 then none else some (now s + 1)) ∧ adminAwaits t r [] := by
  have opcode : j.entry.opcode.toNat = 0xF011 := h.2.2.1
  have first : ∀ t, adminHoldsFirst t (startedAs j) = false := fun t =>
    adminHoldsFirst_of_opcode t (h.2.2.1.trans_ne (by decide))
  obtain ⟨b, begun, running, active, left, mismatch, output, epoch, tick⟩ : ∃ b, bistBegin s j = { s with bist := b } ∧
      b.running = true ∧ b.partActive = false ∧ b.partsLeft = p :: ps ∧ b.mismatch = 0 ∧ b.output = [] ∧
      b.startEpoch = (if p < 12 then some (effectEpoch (now s)) else none) ∧
      b.startTick = (if p < 12 then none else some (now s + 1)) := by
    simp only [bistBegin, parts, schedulePart]
    split <;> exact ⟨_, rfl, rfl, rfl, rfl, rfl, rfl, rfl, rfl⟩
  have prepared : cmdBistRun.prepare s j = { s with bist := b } := begun
  obtain ⟨due, row⟩ := adminRow_toEffect (w := anyEntry) h ⟨rfl, rfl, fun _ _ => rfl, rfl⟩ rfl first (by rw [prepared]; exact h.1)
    (by rw [prepared])
  rw [prepared] at due row
  have held : adminHolds (atEffect { s with bist := b } r) (effectDueAs (startedAs j)) = true := by
    unfold adminHolds
    rw [show (effectDueAs (startedAs j)).entry.opcode.toNat = 0xF011 from opcode]
    exact running
  rw [adminAdvance_holds due rfl rfl held] at row
  exact ⟨_, congrArg Host.Outcome.next row, running, active, left, mismatch, output, epoch, tick, _, due, rfl, rfl⟩

/-! ## A part begins -/

/-- The event of a block reset leaves the units and the self-test as they are. -/
theorem logBlockReset_changes (s : State) (u cause : Nat) : ∃ n e l, logBlockReset s u cause = { s with
    boot.blockResets := n, events := e, journal := l } := by
  obtain ⟨e, l, h⟩ := logEventAt_changes { s with boot.blockResets := s.boot.blockResets + 1 } 3 0x0033 0xFFFF (BitVec.ofNat 8 (eventUnit u))
    0xFF 0xFF (leBytes 1 cause ++ leBytes 1 ((resetWindowOf s u).map Prod.snd |>.getD 0))
  exact ⟨_, e, l, h⟩

theorem unitAt_setUnit_same {u : Nat} (v : UnitSt) (h : u < s.units.length) : unitAt (setUnit s u v) u = v := by
  simp [unitAt, setUnit, h]

/-- A part takes its unit: its bay and its running work are gone. -/
theorem bistTakes_spec {u : Nat} (h : u < s.units.length) : (bistTakes s u).bist = s.bist ∧ (unitAt (bistTakes s u) u).inBist = true ∧
    (unitAt (bistTakes s u) u).running = [] ∧ (unitAt (bistTakes s u) u).bay = none := by
  obtain ⟨n, e, l, logged⟩ := logBlockReset_changes s u 3
  have there : u < (logBlockReset s u 3).units.length := by
    rw [logged]
    exact h
  have taken := unitAt_setUnit_same { unitAt (logBlockReset s u 3) u with
    bay := none, running := [], lanes := [[], [], [], []], evictions := [], shedding := [], inBist := true, mask := MaskGen.unseeded } there
  have unit : ∃ v, unitAt (bistTakes s u) u = v ∧ v.inBist = true ∧ v.running = [] ∧ v.bay = none := by
    refine ⟨_, ?_, congrArg UnitSt.inBist taken, congrArg UnitSt.running taken, congrArg UnitSt.bay taken⟩
    unfold bistTakes
    split <;> rfl
  obtain ⟨v, rfl, inBist, running, bay⟩ := unit
  refine ⟨?_, inBist, running, bay⟩
  have kept : (logBlockReset s u 3).bist = s.bist := by rw [logged]
  rw [← kept]
  unfold bistTakes
  split <;> rfl

/-- The first part that is left takes its unit at its epoch. -/
theorem bistPartStart_takes (running : s.bist.running = true) (between : s.bist.partActive = false) (goes : s.bist.ended = false)
    (left : s.bist.partsLeft = p :: ps) (epoch : s.bist.startEpoch = some e) (due : 4096 * e = now s) (unit : p < 12)
    (units : s.units.length = 12) : ∃ t, exec .bistPartStart s = .next t ∧
      t.bist.partActive = true ∧ t.bist.part = p ∧ t.bist.partsLeft = ps ∧ (unitAt t p).inBist = true ∧ (unitAt t p).running = [] ∧
      (unitAt t p).bay = none := by
  have course : bistPartStart s = bistTakes { s with bist := { s.bist with
      part := p, partActive := true, partsLeft := ps, startEpoch := none, startTick := none } } p := by
    simp only [bistPartStart, left, epoch, running, between, goes, due, unit, decide_true, Bool.not_false, Bool.and_self, if_true]
  obtain ⟨bist, taken⟩ := bistTakes_spec (u := p) (s := { s with bist := { s.bist with
    part := p, partActive := true, partsLeft := ps, startEpoch := none, startTick := none } }) (units.symm ▸ unit)
  rw [← course] at bist taken
  exact ⟨_, rfl, congrArg Bist.partActive bist, congrArg Bist.part bist, congrArg Bist.partsLeft bist, taken⟩

/-! ## A part ends -/

/-- What schedules the next part leaves the results of the parts, and the run goes on while one is left. -/
theorem schedulePart_results (s : State) (b : Bist) (parts : List Nat) : (schedulePart s b parts).partActive = false ∧
    (schedulePart s b parts).signatures = b.signatures ∧ (schedulePart s b parts).output = b.output ∧
    (schedulePart s b parts).mismatch = b.mismatch ∧ (schedulePart s b parts).job = b.job ∧
    (schedulePart s b parts).running = (!decide (parts = []) && b.running) := by
  unfold schedulePart
  split
  · exact ⟨rfl, rfl, rfl, rfl, rfl, rfl⟩
  · split <;> exact ⟨rfl, rfl, rfl, rfl, rfl, rfl⟩

/-- The results of a part that has ended with a signature. -/
def partResults (s : State) (sig : W64) : Bist := { s.bist with
  partActive := false, signatures := s.bist.signatures.set s.bist.part sig, output := s.bist.output ++ leBytes 8 sig.toNat,
  mismatch := if sig = bistReference s s.bist.part then s.bist.mismatch else s.bist.mismatch ||| 2 ^ s.bist.part }

theorem logEvent_bist (s : State) (cls : Nat) (code allot : W16) (unit : Byte) (detail : List Byte) :
    (logEvent s cls code allot unit detail).bist = s.bist := by
  obtain ⟨e, l, h⟩ := logEventAt_changes s cls code allot unit 0xFF 0xFF detail
  exact (congrArg State.bist h :)

/-- A part's end leaves its results; a run that was cut short has no further part. -/
theorem bistPartEnd_bist (active : s.bist.partActive = true) : (bistPartEnd s sig).bist =
    schedulePart s (partResults s sig) (if s.bist.ended then [] else s.bist.partsLeft) := by
  by_cases agrees : sig = bistReference s s.bist.part
  · simp only [bistPartEnd, active, partResults, agrees, ne_eq, not_true_eq_false, decide_false, Bool.not_true, Bool.false_eq_true,
      if_false, if_true]
    split <;> rfl
  · simp only [bistPartEnd, active, partResults, agrees, ne_eq, not_false_eq_true, decide_true, Bool.not_true, Bool.false_eq_true,
      if_false, if_true, logEvent_bist]
    split <;> rfl

/-- A part's end keeps and compares its signature. -/
theorem bistPartEnd_compares (active : s.bist.partActive = true) (jobless : s.bist.job = none)
    (numbered : s.bist.part < s.bist.signatures.length) : ∃ t, exec (.bistPartEnd sig) s = .next t ∧ t.bist.partActive = false ∧
      t.bist.signatures[s.bist.part]? = some sig ∧ t.bist.output = s.bist.output ++ leBytes 8 sig.toNat ∧
      t.bist.mismatch = (if sig = bistReference s s.bist.part then s.bist.mismatch else s.bist.mismatch ||| 2 ^ s.bist.part) ∧
      t.bist.running = (!(decide (s.bist.partsLeft = []) || s.bist.ended) && (s.bist.running)) := by
  obtain ⟨ended, signatures, output, mismatch, job, running⟩ :=
    schedulePart_results s (partResults s sig) (if s.bist.ended then [] else s.bist.partsLeft)
  rw [← bistPartEnd_bist active] at ended signatures output mismatch job running
  have row : exec (.bistPartEnd sig) s = .next (bistPartEnd s sig) := by
    change execBistPartEnd sig s = _
    simp only [execBistPartEnd, job.trans jobless]
  refine ⟨_, row, ended, ?_, output, mismatch, running.trans ?_⟩
  · rw [signatures]
    exact List.getElem?_set_self numbered
  · show (_ && s.bist.running) = _
    cases s.bist.ended <;> simp

/-- Settles O60, row by row. -/
theorem selfTests : Obligations.SelfTests := by
  refine fun s => ⟨fun r j p ps => bistRun_begins, fun p ps e => bistPartStart_takes, fun done => ?_, fun sig => bistPartEnd_compares,
    fun sig idle jobless => ?_⟩
  · change execBistPartStart s = _
    simp only [execBistPartStart, bistPartStart, done]
  · have still : bistPartEnd s sig = s := by simp only [bistPartEnd, idle, Bool.not_false, if_true]
    change execBistPartEnd sig s = _
    simp only [execBistPartEnd, still, jobless]

end Sys2Proof.Machine
end

section
/-! SUPPORT. The messages of a pairing, with O54 (05_admin_commands.md R132; 19_footbridge.md R431, R435, R436). -/
namespace Sys2Proof.Machine
open Sys2Proof

variable {s t : State} {h : FrameHead} {p k own : List Byte} {st : Status} {reason n : Nat}

/-! ## Accepted messages -/

/-- The state in which an accepted message has its effect. -/
def acceptedOf (s : State) (h : FrameHead) : State := { s with bridge := { s.bridge with fseqIn := h.last.toNat, nakSince := none } }

/-- A message that the Footbridge takes has its effect. -/
theorem onMessage_of_takes (takes : takesFrame s h) (effect : State → State) : onMessage s h effect = effect (acceptedOf s h) := by
  obtain ⟨listens, intact, next, order⟩ := takes
  simp only [onMessage, listens, intact, next, order, decide_true, Bool.not_true, Bool.and_self, Bool.false_eq_true, if_false, if_true]
  rfl

/-- HELLO is kept until this device's own TWIN_PAIR. -/
theorem hello_kept (takes : takesFrame s h) (unpaired : s.bridge.paired = false) (long : 80 ≤ p.length) (early : s.bridge.ceremony ≠ 1) :
    exec (.hello h p) s = .next { s with bridge := { s.bridge with fseqIn := h.last.toNat, nakSince := none, helloPeer := p } } := by
  have whole : ¬ p.length < 80 := by omega
  change execHello h p s = _
  simp only [execHello, onMessage_of_takes takes, acceptedOf, unpaired, whole, early, decide_false, Bool.or_self, Bool.false_eq_true,
    if_false]

/-! ## The key exchange -/

theorem getD_postFrame (s : State) (holder type tseq : Nat) (payload : List Byte) :
    KMap.getD (postFrame s holder type tseq payload).bridge.queue holder [] = KMap.getD s.bridge.queue holder [] ++
      [{ type := type, last := true, isSealed := true, holder := holder, fseq := 0, tseq := tseq, segment := 0, payload := payload }] := by
  show (KMap.get? (KMap.put _ _ _) _).getD [] = _
  rw [KMap.get?_put_same]
  rfl

theorem mem_postFrame (s : State) (holder type tseq : Nat) (payload : List Byte) :
    ∃ f, f ∈ KMap.getD (postFrame s holder type tseq payload).bridge.queue holder [] ∧ f.type = type ∧ f.payload = payload :=
  ⟨_, getD_postFrame s holder type tseq payload ▸ List.mem_append_right _ (List.mem_singleton_self _), rfl, rfl⟩

/-- The nonce of this link goes behind the frames that wait, or is due. -/
theorem postNonce_bridge (s : State) : ∃ n d q, (postNonce s).bridge = { s.bridge with ownNonce := n, nonceDue := d, queue := q } ∧
    ∀ f ∈ KMap.getD s.bridge.queue deviceHolder [], f ∈ KMap.getD q deviceHolder [] := by
  unfold postNonce
  split
  · refine ⟨_, _, _, rfl, fun f hf => ?_⟩
    exact (getD_postFrame _ deviceHolder 0x24 0 _).symm ▸ List.mem_append_left _ hf
  · exact ⟨_, _, _, rfl, fun f hf => hf⟩

/-- The pair key is formed: the secret is gone, the ceremony goes on, a new link key is to follow, and the frames that wait stay. -/
structure KeyFormed (s t : State) : Prop where
  pairKey : t.bridge.pairKey.isSome = true
  ceremony : t.bridge.ceremony = 3
  linkKey : t.bridge.linkKey = none
  sharedSecret : t.bridge.sharedSecret = []
  kemEk : t.bridge.kemEk = s.bridge.kemEk
  kemCt : t.bridge.kemCt = s.bridge.kemCt
  queue : ∀ f ∈ KMap.getD s.bridge.queue deviceHolder [], f ∈ KMap.getD t.bridge.queue deviceHolder []

theorem keyFormed_formPairKey (s : State) (shared : List Byte) : KeyFormed s (formPairKey s shared) := by
  obtain ⟨n, d, q, bridge, queue⟩ := postNonce_bridge { s with bridge := { s.bridge with
    pairKey := some (kmac256 shared (transcript s) 32 "SDZ-PAIR"), linkKey := none, ownNonce := none, peerNonce := none, sharedSecret := [],
    ceremony := 3 } }
  change (formPairKey s shared).bridge = _ at bridge
  constructor
  case pairKey => rw [bridge]; rfl
  case queue => rw [bridge]; exact queue
  all_goals rw [bridge]

/-- The West answers KEM_EK with KEM_CT, and both hold the pair key. -/
theorem kemEk_answered (takes : takesFrame s h) (west : isWest s = true) (greeted : s.bridge.ceremony = 2) (size : p.length = 1568) :
    ∃ t, exec (.kemEk h p) s = .next t ∧ t.bridge.kemEk = p ∧
      t.bridge.pairKey.isSome = true ∧ t.bridge.ceremony = 3 ∧ t.bridge.linkKey = none ∧ t.bridge.sharedSecret = [] ∧
      ∃ f, f ∈ KMap.getD t.bridge.queue deviceHolder [] ∧ f.type = 3 ∧ f.payload = t.bridge.kemCt := by
  have row : ∃ u ct shared, execKemEk h p s = .next (formPairKey (postFrame u deviceHolder 0x03 0 ct) shared) ∧
      u.bridge.kemEk = p ∧ u.bridge.kemCt = ct := by
    have west' : isWest (acceptedOf s h) = true := west
    have greeted' : (acceptedOf s h).bridge.ceremony = 2 := greeted
    simp only [execKemEk, onMessage_of_takes takes, west', greeted', size, decide_true, Bool.and_self, if_true]
    exact ⟨_, _, _, rfl, rfl, by dsimp only⟩
  obtain ⟨u, ct, shared, row, ek, answer⟩ := row
  obtain ⟨f, sent, type, payload⟩ := mem_postFrame u deviceHolder 0x03 0 ct
  have formed := keyFormed_formPairKey (postFrame u deviceHolder 0x03 0 ct) shared
  exact ⟨_, row, formed.kemEk.trans ek, formed.pairKey, formed.ceremony, formed.linkKey, formed.sharedSecret, f, formed.queue f sent,
    type, payload.trans (formed.kemCt.trans answer).symm⟩

/-- The East takes KEM_CT, and holds the pair key. -/
theorem kemCt_taken (takes : takesFrame s h) (east : isWest s = false) (greeted : s.bridge.ceremony = 2) (size : p.length = 1568) :
    ∃ t, exec (.kemCt h p) s = .next t ∧ t.bridge.kemCt = p ∧
      t.bridge.pairKey.isSome = true ∧ t.bridge.ceremony = 3 ∧ t.bridge.linkKey = none ∧ t.bridge.sharedSecret = [] := by
  have row : ∃ u shared, execKemCt h p s = .next (formPairKey u shared) ∧ u.bridge.kemCt = p := by
    have east' : isWest (acceptedOf s h) = false := east
    have greeted' : (acceptedOf s h).bridge.ceremony = 2 := greeted
    simp only [execKemCt, onMessage_of_takes takes, east', greeted', size, decide_true, Bool.not_false, Bool.and_self, if_true]
    exact ⟨_, _, rfl, rfl⟩
  obtain ⟨u, shared, row, ct⟩ := row
  have formed := keyFormed_formPairKey u shared
  exact ⟨_, row, formed.kemCt.trans ct, formed.pairKey, formed.ceremony, formed.linkKey, formed.sharedSecret⟩

/-! ## The signatures -/

/-- The Footbridge after a ceremony that has failed. -/
def ceremonyFailed (b : Bridge) : Bridge := { b with
  ceremony := 0, ceremonyJob := none, rejoinJob := none, rejoining := false, authSent := false, authSeen := false, helloOwn := [],
  helloPeer := [], kemEk := [], kemCt := [], sharedSecret := [], pairKey := if b.paired then b.pairKey else none }

theorem failCeremony_bridge (s : State) (st : Status) (reason : Nat) :
    (failCeremony s st reason).bridge = ceremonyFailed s.bridge := by
  simp only [failCeremony]
  split
  · simp only [adminFail, modJob_bridge]
    rfl
  · rfl

/-- The command of a ceremony that fails ends with its status. -/
theorem failCeremony_jobs {i : Nat} (joined : s.bridge.rejoining = false) (job : s.bridge.ceremonyJob = some i) :
    (failCeremony s st reason).jobs = (adminFail s i st reason).jobs := by
  simp only [failCeremony, joined, job, Bool.false_eq_true, if_false]
  rfl

/-- A signature of another length ends the ceremony, and without a pairing the pair key. -/
theorem authFrame_fails (takes : takesFrame s h) (stage : s.bridge.ceremony = 3 ∨ s.bridge.ceremony = 4) (key : s.bridge.linkKey = some k)
    (size : p.length ≠ 4627) : ∃ t, exec (.authFrame h p) s = .next t ∧ t.bridge.ceremony = 0 ∧
      (s.bridge.paired = false → t.bridge.pairKey = none) := by
  have due : 3 ≤ (acceptedOf s h).bridge.ceremony ∧ (acceptedOf s h).bridge.ceremony ≤ 4 :=
    (by omega : 3 ≤ s.bridge.ceremony ∧ s.bridge.ceremony ≤ 4)
  have keyed : (acceptedOf s h).bridge.linkKey.isSome = true := Option.isSome_iff_exists.mpr ⟨k, key⟩
  have row : execAuthFrame h p s = .next (failCeremony (acceptedOf s h) .verifyFail 0) := by
    simp only [execAuthFrame, onMessage_of_takes takes, due, keyed, size, and_self, decide_true, decide_false,
      Bool.and_self, Bool.false_and, Bool.false_eq_true, if_true, if_false]
  have bridge := failCeremony_bridge (acceptedOf s h) .verifyFail 0
  exact ⟨_, row, congrArg Bridge.ceremony bridge, fun unpaired => (congrArg Bridge.pairKey bridge).trans
    (if_neg (Bool.eq_false_iff.mp unpaired))⟩

theorem authenticated_of_unsent (unsent : s.bridge.authSent = false) : authenticated s = s := by
  simp only [authenticated, unsent, Bool.false_and, Bool.not_false, if_true]

/-- A signature that holds is noted, until this device's own has gone. -/
theorem authFrame_seen (takes : takesFrame s h) (stage : s.bridge.ceremony = 3 ∨ s.bridge.ceremony = 4) (key : s.bridge.linkKey = some k)
    (size : p.length = 4627) (holds : authHolds s p = true) (unsent : s.bridge.authSent = false) :
    exec (.authFrame h p) s = .next { s with bridge := { s.bridge with fseqIn := h.last.toNat, nakSince := none, authSeen := true } } := by
  have due : 3 ≤ (acceptedOf s h).bridge.ceremony ∧ (acceptedOf s h).bridge.ceremony ≤ 4 :=
    (by omega : 3 ≤ s.bridge.ceremony ∧ s.bridge.ceremony ≤ 4)
  have keyed : (acceptedOf s h).bridge.linkKey.isSome = true := Option.isSome_iff_exists.mpr ⟨k, key⟩
  have holds' : authHolds (acceptedOf s h) p = true := holds
  change execAuthFrame h p s = _
  simp only [execAuthFrame, onMessage_of_takes takes, due, keyed, size, holds', and_self, decide_true, Bool.and_self, if_true]
  exact congrArg Host.Outcome.next (authenticated_of_unsent unsent)

/-! ## The items of the pair's state -/

/-- An item leaves the count and the hash of the items, the records of the pairing and the journal. -/
theorem installItem_frame (s : State) (kind item : Nat) (b : List Byte) :
    (installItem s kind item b).bridge.stateCount = s.bridge.stateCount ∧ (installItem s kind item b).bridge.stateHash = s.bridge.stateHash ∧
      (installItem s kind item b).bridge.pairRecords = s.bridge.pairRecords ∧ (installItem s kind item b).journal = s.journal := by
  unfold installItem
  split
  case h_4 => split <;> exact ⟨rfl, rfl, rfl, rfl⟩
  case h_13 =>
    dsimp only
    split <;> exact ⟨rfl, rfl, rfl, rfl⟩
  all_goals exact ⟨rfl, rfl, rfl, rfl⟩

/-- The item of a slot key is the key that it brings, where it opens. -/
theorem installItem_opens {item : Nat} {b c : List Byte} (opens : openKeyItem s b = some c) :
    KMap.get? (installItem s 4 item b).ice.keys item = some (itemKey c) := by
  simp only [installItem, opens]
  exact KMap.get?_put_same _ _ _

theorem installItem_shut {item : Nat} {b : List Byte} (shut : openKeyItem s b = none) : installItem s 4 item b = s := by
  simp only [installItem, shut]

/-- The records of what an item takes the place of come first; they are the journal's and the pairing's alone. -/
theorem installState_through (s : State) (kind item : Nat) (b : List Byte) : ∃ l m,
    installState s kind item b = installItem { s with journal := l, bridge.pairRecords := m } kind item b := by
  unfold installState
  dsimp only
  split
  · split <;> exact ⟨_, _, rfl⟩
  · split <;> exact ⟨_, _, rfl⟩
  · exact ⟨_, _, rfl⟩

theorem installState_live {item : Nat} {key : Key} (b : List Byte) (hk : KMap.get? s.ice.keys item = some key) (live : key.live = true) :
    installState s 4 item b = installItem (pairingRecord (postKeyEvent s deviceHolder 3 item key 0)) 4 item b := by
  unfold installState
  rw [hk]
  exact congrArg (installItem · 4 item b) (if_pos live)

theorem installState_opens {item : Nat} {b c : List Byte} (opens : openKeyItem s b = some c) :
    KMap.get? (installState s 4 item b).ice.keys item = some (itemKey c) := by
  obtain ⟨l, m, through⟩ := installState_through s 4 item b
  have opens' : openKeyItem { s with journal := l, bridge.pairRecords := m } b = some c := opens
  rw [through]
  exact installItem_opens opens'

theorem installState_shut {item : Nat} {b : List Byte} (shut : openKeyItem s b = none) :
    KMap.get? (installState s 4 item b).ice.keys item = KMap.get? s.ice.keys item := by
  obtain ⟨l, m, through⟩ := installState_through s 4 item b
  have shut' : openKeyItem { s with journal := l, bridge.pairRecords := m } b = none := shut
  rw [through, installItem_shut shut']

theorem installState_secTime (s : State) (item : Nat) (b : List Byte) :
    (installState s 0x0A item b).lodge.secTime = BitVec.ofNat 64 (max s.lodge.secTime.toNat (leNat b)) := by
  obtain ⟨l, m, through⟩ := installState_through s 0x0A item b
  rw [through]
  rfl

/-- An item leaves the count and the hash of the items. -/
theorem installState_counts (s : State) (kind item : Nat) (b : List Byte) :
    (installState s kind item b).bridge.stateCount = s.bridge.stateCount ∧
      (installState s kind item b).bridge.stateHash = s.bridge.stateHash := by
  obtain ⟨l, m, through⟩ := installState_through s kind item b
  obtain ⟨count, hash, -, -⟩ := installItem_frame { s with journal := l, bridge.pairRecords := m } kind item b
  rw [through]
  exact ⟨count, hash⟩

/-- The key that an item takes the place of has its record. -/
theorem installState_record {item : Nat} {key : Key} (b : List Byte) (hk : KMap.get? s.ice.keys item = some key) (live : key.live = true) :
    ∃ r, (installState s 4 item b).journal.pending = s.journal.pending ++ [r] ∧ r.type = 3 ∧ r.subtype = 3 ∧
      (installState s 4 item b).bridge.pairRecords = s.bridge.pairRecords ++ [r.id] := by
  obtain ⟨-, -, records, journal⟩ := installItem_frame (pairingRecord (postKeyEvent s deviceHolder 3 item key 0)) 4 item b
  rw [installState_live b hk live, records, journal]
  exact ⟨_, rfl, rfl, rfl, rfl⟩

/-- The state in which the West has counted an item, and put it behind the text of the items' hash. -/
def countedOf (s : State) (h : FrameHead) (p : List Byte) : State :=
  { acceptedOf s h with bridge.stateCount := s.bridge.stateCount + 1, bridge.stateHash := s.bridge.stateHash ++ p }

theorem stateItem_installed (takes : takesFrame s h) (west : isWest s = true) (stage : 4 ≤ s.bridge.ceremony)
    (joined : s.bridge.rejoining = false) :
    exec (.stateItem h p) s = .next (installState (countedOf s h p) (fieldAt p 0 2) (fieldAt p 2 6) (p.drop 8)) := by
  have west' : isWest (acceptedOf s h) = true := west
  have due : ((acceptedOf s h).bridge.rejoining || decide ((acceptedOf s h).bridge.ceremony < 4)) = false :=
    (congrArg₂ or joined (decide_eq_false (Nat.not_lt.mpr stage)) :)
  change execStateItem h p s = _
  simp only [execStateItem, onMessage_of_takes takes, due, west', Bool.false_eq_true, if_false, if_true]
  rfl

/-- The West counts an item of the pair's state, and installs it. -/
theorem stateItem_taken (takes : takesFrame s h) (west : isWest s = true) (stage : 4 ≤ s.bridge.ceremony)
    (joined : s.bridge.rejoining = false) : ∃ t, exec (.stateItem h p) s = .next t ∧
      t.bridge.stateCount = s.bridge.stateCount + 1 ∧ t.bridge.stateHash = s.bridge.stateHash ++ p ∧
      (fieldAt p 0 2 = 0x0A → t.lodge.secTime = BitVec.ofNat 64 (max s.lodge.secTime.toNat (leNat (p.drop 8)))) ∧
      (∀ b, fieldAt p 0 2 = 4 → openKeyItem s (p.drop 8) = some b → KMap.get? t.ice.keys (fieldAt p 2 6) = some (itemKey b)) ∧
      (fieldAt p 0 2 = 4 → openKeyItem s (p.drop 8) = none → KMap.get? t.ice.keys (fieldAt p 2 6) = KMap.get? s.ice.keys (fieldAt p 2 6)) ∧
      (∀ key, fieldAt p 0 2 = 4 → KMap.get? s.ice.keys (fieldAt p 2 6) = some key → key.live = true → ∃ b,
        t.journal.pending = s.journal.pending ++ [b] ∧ b.type = 3 ∧ b.subtype = 3 ∧
        t.bridge.pairRecords = s.bridge.pairRecords ++ [b.id]) := by
  obtain ⟨count, hash⟩ := installState_counts (countedOf s h p) (fieldAt p 0 2) (fieldAt p 2 6) (p.drop 8)
  refine ⟨_, stateItem_installed takes west stage joined, count, hash, fun kind => ?_, fun b kind opens => ?_, fun kind shut => ?_,
    fun key kind hk live => ?_⟩
  · rw [kind]
    exact installState_secTime (countedOf s h p) _ _
  · have opens' : openKeyItem (countedOf s h p) (p.drop 8) = some b := opens
    rw [kind]
    exact installState_opens opens'
  · have shut' : openKeyItem (countedOf s h p) (p.drop 8) = none := shut
    rw [kind]
    exact installState_shut shut'
  · rw [kind]
    exact installState_record (s := countedOf s h p) (p.drop 8) hk live

/-- The West notes the pairing when the items that it counted are those that the East sent. -/
theorem stateEnd_paired (takes : takesFrame s h) (west : isWest s = true) (stage : s.bridge.ceremony = 5)
    (joined : s.bridge.rejoining = false) (count : fieldAt p 0 8 = s.bridge.stateCount)
    (hash : slice p 8 32 = sha3_256 s.bridge.stateHash) : ∃ t b, exec (.stateEnd h p) s = .next t ∧
      t.bridge.ceremony = 6 ∧ t.bridge.pairRecords = s.bridge.pairRecords ++ [b.id] ∧
      t.journal.pending = s.journal.pending ++ [b] ∧ b.type = 7 ∧ b.subtype = 1 := by
  have row : execStateEnd h p s = .next (recordPaired (acceptedOf s h)) := by
    have west' : isWest (acceptedOf s h) = true := west
    have stage' : (acceptedOf s h).bridge.ceremony = 5 := stage
    have joined' : (acceptedOf s h).bridge.rejoining = false := joined
    have count' : fieldAt p 0 8 = (acceptedOf s h).bridge.stateCount := count
    have hash' : slice p 8 32 = sha3_256 (acceptedOf s h).bridge.stateHash := hash
    simp only [execStateEnd, onMessage_of_takes takes, west', stage', joined', count', hash', decide_true, Bool.not_false, Bool.and_self,
      if_true]
  exact ⟨_, _, row, rfl, rfl, rfl, rfl, rfl⟩

/-- Another count of the items ends the ceremony. -/
theorem stateEnd_fails (takes : takesFrame s h) (west : isWest s = true) (stage : s.bridge.ceremony = 5)
    (joined : s.bridge.rejoining = false) (count : fieldAt p 0 8 ≠ s.bridge.stateCount) :
    ∃ t, exec (.stateEnd h p) s = .next t ∧ t.bridge.ceremony = 0 := by
  have row : execStateEnd h p s = .next (failCeremony (acceptedOf s h) .internal 0) := by
    have west' : isWest (acceptedOf s h) = true := west
    have stage' : (acceptedOf s h).bridge.ceremony = 5 := stage
    have joined' : (acceptedOf s h).bridge.rejoining = false := joined
    have count' : fieldAt p 0 8 ≠ (acceptedOf s h).bridge.stateCount := count
    simp only [execStateEnd, onMessage_of_takes takes, west', stage', joined', count', decide_true, decide_false, Bool.not_false,
      Bool.and_self, Bool.false_and, Bool.false_eq_true, if_true, if_false]
  exact ⟨_, row, congrArg Bridge.ceremony (failCeremony_bridge (acceptedOf s h) .internal 0)⟩

/-! ## The link key and the end of the wait -/

/-- Both nonces form the link key; the frame numbers begin again. -/
theorem linkNonce_keyed (takes : takesFrame s h) (pair : s.bridge.pairKey = some k) (nonce : s.bridge.ownNonce = some own)
    (unkeyed : s.bridge.linkKey = none) (stage : s.bridge.ceremony ≠ 3)
    (sent : ((KMap.getD s.bridge.queue deviceHolder []).any fun f => decide (f.type = 0x24)) = false) :
    ∃ t, exec (.linkNonce h p) s = .next t ∧ t.bridge.linkKey = some (kmac256 k
        (if isWest s then slice p 0 32 ++ own else own ++ slice p 0 32) 32 "SDZ-LINK") ∧
      t.bridge.fseqIn = 0 ∧ t.bridge.fseqOut = 0 ∧ t.bridge.sent = [] := by
  have heard : exec (.linkNonce h p) s = .next (tryLinkKey { acceptedOf s h with bridge.peerNonce := some (slice p 0 32) }) := by
    obtain ⟨listens, intact, -, -⟩ := id takes
    change execLinkNonce h p s = _
    simp only [execLinkNonce, listens, intact, onMessage_of_takes takes, Bool.not_true, Bool.false_eq_true, if_false]
  generalize due : { acceptedOf s h with bridge.peerNonce := some (slice p 0 32) } = u at heard
  have derived : deriveLinkKey u =
      some (kmac256 k (if isWest s then slice p 0 32 ++ own else own ++ slice p 0 32) 32 "SDZ-LINK") := by
    subst due
    simp only [deriveLinkKey, acceptedOf, pair, nonce]
    rfl
  have unkeyed' : u.bridge.linkKey = none := by subst due; exact unkeyed
  have stage' : u.bridge.ceremony ≠ 3 := by subst due; exact stage
  have sent' : ((KMap.getD u.bridge.queue deviceHolder []).any fun f => decide (f.type = 0x24)) = false := by subst due; exact sent
  refine ⟨_, heard, ?_⟩
  simp only [tryLinkKey, derived, unkeyed', sent', stage', Option.isSome_none, Bool.or_self, Bool.false_eq_true, if_false, and_self]

/-- A ceremony that takes too long ends with the command that began it. -/
theorem twinPairTimeout_fails {i : Nat} (job : s.bridge.ceremonyJob = some i) (joined : s.bridge.rejoining = false)
    (late : s.bridge.ceremonySince + 2 ^ 24 ≤ now s) (present : (KMap.get? s.jobs i).isSome = true) :
    ∃ t y, exec .twinPairTimeout s = .next t ∧ t.bridge.ceremony = 0 ∧
      KMap.get? t.jobs i = some y ∧ y.phase = .decided ∧ y.status = .twinUnavailable := by
  obtain ⟨j, hj⟩ := Option.isSome_iff_exists.mp present
  have row : exec .twinPairTimeout s = .next (failCeremony s .twinUnavailable 0) := by
    change execTwinPairTimeout s = _
    simp only [execTwinPairTimeout, job, joined, late, Option.isSome_some, Bool.not_false, decide_true, Bool.and_self, if_true]
  have decided : KMap.get? (failCeremony s .twinUnavailable 0).jobs i =
      some { failJob (now s) .twinUnavailable j with reason := 0, effect := 0, detail := 0 } :=
    (congrArg (KMap.get? · i) (failCeremony_jobs joined job)).trans (get?_modJob_same _ hj)
  exact ⟨_, _, row, congrArg Bridge.ceremony (failCeremony_bridge s .twinUnavailable 0), decided, rfl, rfl⟩

/-- Settles O54: a lemma for each message, over the accepted message's state. -/
theorem pairingMessages : Obligations.PairingMessages := by
  intro s h p takes
  refine ⟨hello_kept takes, kemEk_answered takes, kemCt_taken takes, ?signatures, stateItem_taken takes, ?ending, ?link, ?timeout⟩
  case signatures =>
    intro k stage key
    exact ⟨authFrame_fails takes stage key, authFrame_seen takes stage key⟩
  case ending =>
    intro west stage joined
    exact ⟨stateEnd_paired takes west stage joined, stateEnd_fails takes west stage joined⟩
  case link =>
    intro k own _ pair nonce unkeyed stage sent
    exact linkNonce_keyed takes pair nonce unkeyed stage sent
  case timeout =>
    intro k job joined late present
    exact twinPairTimeout_fails job joined late present

end Sys2Proof.Machine
end

section
/-! SUPPORT. VAULT_MOUNT of a Vault that is mounted, with O45 (05_admin_commands.md R130, R131). -/
namespace Sys2Proof.Machine
open Sys2Proof

variable {s : State} {r : JobRef} {j : Job} {ds : List DieReport} {found : VaultFound}

theorem cmdVaultMount_direct (s : State) (r : JobRef) (j : Job) : Direct (cmdVaultMount ds found) s r j :=
  ⟨rfl, rfl, fun _ _ => rfl, rfl⟩

/-- Only an unmount waits. -/
theorem adminHolds_mount {t : State} {x : Job} (opcode : x.entry.opcode.toNat = 0xF014) (mount : inlineField x 48 1 = 1) :
    adminHolds t x = false := by
  unfold adminHolds
  rw [opcode]
  simp only [mount, Nat.one_ne_zero, decide_false, Bool.false_and]

/-- A success makes no event of the media. -/
theorem reportMedia_of_status {t : State} {k : Nat} {reason : Option (Nat × Nat × Nat)} {x : Job} (job : KMap.get? t.jobs k = some x)
    (status : x.status ≠ .vaultMedia) : reportMedia t k reason = t := by
  unfold reportMedia
  split
  case h_1 y found =>
    obtain rfl : x = y := Option.some.inj (job.symm.trans found)
    simp only [status, decide_false, Bool.and_false, Bool.false_eq_true, if_false]
  case h_2 => rfl

/-- A mount of a mounted Vault changes nothing of it, and answers the sequence number that follows the mounted Vault's records: for the
twin's Vault not the device's own. -/
theorem vaultMount_mounted (h : adminReady (cmdVaultMount ds found) s r j) (mount : inlineField j 48 1 = 1) (mounted : s.vault.mounted = true) :
    ∃ t, exec (.vaultMount r ds found) s = .next t ∧ t.vault = s.vault ∧ adminDone t r 0 (mountedNext s % 2 ^ 48) j.output := by
  have opcode : j.entry.opcode.toNat = 0xF014 := h.2.2.1
  have applied : mountApply ds found (atEffect s r) (refKey r) (effectDueAs (startedAs j)) = (atEffect s r, 0, mountedNext s % 2 ^ 48) := by
    have mounted' : (atEffect s r).vault.mounted = true := mounted
    simp only [mountApply, mounted', if_true]
    rfl
  obtain ⟨row, done⟩ := adminRow_sets (w := fun j => decide (inlineField j 48 1 = 1)) h (cmdVaultMount_direct s r j)
    (decide_eq_true mount) rfl (show 0xF014 ≠ 0xF009 by decide) (adminHolds_mount opcode mount) applied rfl rfl
  rw [← row] at done
  obtain ⟨x, job, -, success, -⟩ := id done
  have status : x.status ≠ .vaultMedia := fun failed => absurd (failed ▸ success) (by decide)
  refine ⟨_, ?_, ?_, done⟩
  · change execVaultMount r ds found s = _
    simp only [execVaultMount, reportMedia_of_status job status, ite_self]
  · rw [row]
    rfl

/-! ## The counterexample -/

/-- A device on which the twin's Vault is mounted, with the twin's record 41; its own journal is at record 7. -/
def foreignMounted : State := { Tests.busy with vault := { Tests.busy.vault with
  foreign := true, readOnly := true, visiting := [{ chunk := false, seq := 41, id := 0, bytes := [] }] }, journal.next := 7 }

/-- The state of the row: VAULT_MOUNT waits for its dispatch. -/
def remountedForeign : State := Tests.at0 foreignMounted (Tests.mountJob 1)

theorem remountedForeign_ready : adminReady (cmdVaultMount [] .unknown) remountedForeign Tests.ref0 (Tests.mountJob 1) := by
  unfold adminReady
  decide

/-- The answer names the twin's next record, 42, and not the device's own. -/
theorem remountedForeign_next : remountedForeign.vault.mounted = true ∧ inlineField (Tests.mountJob 1) 48 1 = 1 ∧
    mountedNext remountedForeign = 42 ∧ remountedForeign.journal.next = 7 := by decide

/-- Refutes O45: VAULT_MOUNT on a device that has mounted its twin's Vault answers the number that follows the twin's records, and the
fourth clause names the device's own next record. -/
theorem not_vaultCommands : ¬ Obligations.VaultCommands := by
  intro h
  obtain ⟨mounted, mount, foreign, own⟩ := remountedForeign_next
  obtain ⟨-, -, -, again, -⟩ := h remountedForeign Tests.ref0 (Tests.mountJob 1) [] .unknown
  obtain ⟨t, row, -, x, job, -, -, -, -, claimed, -⟩ := again remountedForeign_ready mount mounted
  obtain ⟨u, row', -, y, job', -, -, -, -, answered, -⟩ := vaultMount_mounted remountedForeign_ready mount mounted
  obtain rfl : t = u := Host.Outcome.next.inj (row.symm.trans row')
  obtain rfl : x = y := Option.some.inj (job.symm.trans job')
  rw [claimed, own, foreign] at answered
  exact absurd answered (by decide)

end Sys2Proof.Machine
end

section
/-! SUPPORT. KEY_ADMIN destroy of a resident key whose jobs of this tick end, with O42 (05_admin_commands.md R120). -/
namespace Sys2Proof.Machine
open Sys2Proof

variable {s t : State} {r : JobRef} {j : Job} {n h : Nat} {key : Key}

/-! ## The withdrawal -/

/-- A resident key is found as it changes, while it stays live. -/
theorem findKey_adjustResident {a : Nat} (f : Key → Key) (found : findKey s a h = some (true, n, key)) (live : (f key).live = key.live) :
    findKey { s with ice.residents := KMap.adjust s.ice.residents n f } a h = some (true, n, f key) := by
  have check : handleCheck { s with ice.residents := KMap.adjust s.ice.residents n f } h = handleCheck s h := by
    simp only [handleCheck, handleKeyOf]
  have sound : handleSound { s with ice.residents := KMap.adjust s.ice.residents n f } a h = handleSound s a h := by
    simp only [handleSound, check]
  simp only [findKey] at found ⊢
  rw [sound]
  split at found
  case isFalse => cases found
  case isTrue good =>
    split at found
    · split at found
      · split at found <;> cases found
      · cases found
    · next slot =>
      split at found
      case isFalse => cases found
      case isTrue kind =>
        split at found
        case h_2 => cases found
        case h_1 k there =>
          split at found
          case isFalse => cases found
          case isTrue usable =>
            cases found
            simp only [good, if_true, kind, show ¬ (3 : Nat) = 2 by decide, if_false, KMap.get?_adjust_same, there,
              Option.map_some, live, usable]

/-- A job that holds nothing leaves the keys and the Footbridge as they are when a destroy ends it. -/
theorem endJob_idle {k : Nat} (hj : KMap.get? s.jobs k = some j) (idle : holdsNothing j) :
    (endJob s k .keyHandle).ice = s.ice ∧ (endJob s k .keyHandle).bridge = s.bridge := by
  simp only [endJob, hj, releaseEngines_of_holdsNothing s k idle]
  exact ⟨rfl, rfl⟩

/-- The job as a destroy ends it. -/
def withdrawnAs (t : Nat) (x : Job) : Job := { failJob t .keyHandle x with place := none, slot := none, resident := none, held := none }

/-- What stands after the withdrawal of a resident key that ends the job of one number. -/
structure ResidentWithdrawn (s t : State) (k n h : Nat) (j : Job) (key : Key) : Prop where
  job : KMap.get? t.jobs k = some (withdrawnAs (now s) j)
  found : findKey t (handleAllot h) h = some (true, n, { key with withdrawn := true })
  bridge : t.bridge = s.bridge

theorem keyWithdraw_resident {k : Nat} (hj : KMap.get? s.jobs k = some j) (idle : holdsNothing j) (started : startedNow s h = [k])
    (found : findKey s (handleAllot h) h = some (true, n, key)) : ResidentWithdrawn s (keyWithdraw s h) k n h j key := by
  obtain ⟨ice, bridge⟩ := endJob_idle hj idle
  have job : KMap.get? (endJob s k .keyHandle).jobs k = some (withdrawnAs (now s) j) := by
    simp only [endJob, hj, get?_modJob, releaseEngines_jobs, Option.map_some]
    rfl
  have still : findKey (endJob s k .keyHandle) (handleAllot h) h = some (true, n, key) :=
    (findKey_congr ice (congrArg Bridge.handleKey bridge) _ _).trans found
  have left : keyWithdraw s h = withdraw (endJob s k .keyHandle) h true := by
    simp only [keyWithdraw, started, List.foldl_cons, List.foldl_nil, still]
  have withdrawn : withdraw (endJob s k .keyHandle) h true = { endJob s k .keyHandle with
      ice.residents := KMap.adjust (endJob s k .keyHandle).ice.residents n fun x => { x with withdrawn := true } } := by
    simp only [withdraw, still]
  rw [left, withdrawn]
  exact ⟨job, findKey_adjustResident _ still rfl, bridge⟩

/-! ## The row -/

theorem adminHoldsFirst_of_resident {x : Job} (found : findKey t (handleAllot (kaHandle x)) (kaHandle x) = some (true, n, key)) :
    adminHoldsFirst t x = false := by
  simp only [adminHoldsFirst, keyReservationOpen, found, Bool.and_false]

/-- A destroy that waits for the record of its key. -/
theorem adminSettle_awaitsRecord {k : Nat} {x : Job} (job : KMap.get? t.jobs k = some x) (phase : x.phase = .running)
    (waits : x.waits = []) (draws : x.draws = []) (stage : x.remaining = 1) (alone : (mirrors t && cmdKeyDestroy.markS x) = false)
    (found : findKey t (handleAllot (kaHandle x)) (kaHandle x) = some (true, n, key)) :
    KMap.get? (adminSettle cmdKeyDestroy t k).jobs k = some (stagedAs [t.journal.nextId] x) := by
  have staged := adminAdvance_records (c := cmdKeyDestroy) job phase waits draws stage (adminHoldsFirst_of_resident found) alone
  have record : ∃ u, cmdKeyDestroy.records t x = (u, [t.journal.nextId]) ∧ u.jobs = t.jobs := by
    simp only [cmdKeyDestroy, keyDestroyRecords, found]
    exact ⟨_, rfl, rfl⟩
  obtain ⟨u, record, jobs⟩ := record
  rw [record] at staged
  have waiting : KMap.get? (adminAdvance cmdKeyDestroy t k).jobs k = some (stagedAs [t.journal.nextId] x) := by
    rw [staged]
    exact get?_modJob_same _ (jobs ▸ job)
  have still := adminAdvance_of_waits (c := cmdKeyDestroy) waiting (List.cons_ne_nil _ _)
  rw [adminSettle, still, still]
  exact waiting

/-- A destroy whose own number stands among the jobs that it ends goes on as it was: it runs, and waits for its record. -/
theorem keyAdminDestroy_runs (ready : adminReady cmdKeyDestroy s r j) (destroy : inlineField j 56 1 = 1) (idle : holdsNothing j)
    (found : findKey s (handleAllot (kaHandle j)) (kaHandle j) = some (true, n, key)) (started : startedNow s (kaHandle j) = [refKey r]) :
    ∃ t x, exec (.keyAdminDestroy r) s = .next t ∧ KMap.get? t.jobs (refKey r) = some x ∧ x.phase = .running := by
  obtain ⟨job, still, bridge⟩ := keyWithdraw_resident ready.1 idle started found
  obtain ⟨-, -, -, -, -, -, -, -, alone⟩ := id ready
  have row := adminRow_of_prepared (w := fun x => decide (inlineField x 56 1 ≠ 2)) ready (by simp only [destroy]; decide) rfl
  have begun : KMap.get? (modJob (cmdKeyDestroy.prepare s j) (refKey r) startedAs).jobs (refKey r) =
      some (startedAs (withdrawnAs (now s) j)) := get?_modJob_same _ job
  have alone' : (mirrors (modJob (cmdKeyDestroy.prepare s j) (refKey r) startedAs) &&
      cmdKeyDestroy.markS (startedAs (withdrawnAs (now s) j))) = false := by
    rw [mirrors, modJob_bridge, show (cmdKeyDestroy.prepare s j).bridge = s.bridge from bridge]
    exact alone
  have waiting := adminSettle_awaitsRecord begun rfl rfl rfl rfl alone' ((findKey_modJob _ _ _ _ _).trans still)
  exact ⟨_, _, congrArg Host.Outcome.next row, waiting, rfl⟩

/-! ## The counterexample -/

/-- A job of this tick on the resident key. -/
def startedOn : Job := { Tests.readyJob 0x0101 with
  dispatch := 8192, dispatchOrder := 1, entry := { (Tests.readyJob 0x0101).entry with keyh := Tests.residentHandle } }

/-- KEY_ADMIN destroy of the resident key under job number 0, with another job of this tick under the same number: O42 does not ask that
the numbers of the jobs differ. -/
def destroyDoubled : State := { Tests.keyedBusy Tests.plainKey 1 Tests.residentHandle with
  jobs := [(0, Tests.keyAdm 1 Tests.residentHandle), (0, startedOn)] }

theorem destroyDoubled_found : findKey destroyDoubled (handleAllot (kaHandle (Tests.keyAdm 1 Tests.residentHandle)))
    (kaHandle (Tests.keyAdm 1 Tests.residentHandle)) = some (true, 65, Tests.plainKey) := by
  have ice : destroyDoubled.ice = (Tests.keyedBusy Tests.plainKey 1 Tests.residentHandle).ice := rfl
  have handles : destroyDoubled.bridge.handleKey = (Tests.keyedBusy Tests.plainKey 1 Tests.residentHandle).bridge.handleKey := rfl
  rw [(Tests.keyAdm_fields 1 Tests.residentHandle).1, findKey_congr ice handles, Tests.resident_found]

theorem destroyDoubled_ready : adminReady cmdKeyDestroy destroyDoubled Tests.ref0 (Tests.keyAdm 1 Tests.residentHandle) := by
  have gate : adminGate cmdKeyDestroy destroyDoubled (Tests.keyAdm 1 Tests.residentHandle) = none :=
    adminGate_none (show 2 ≠ 3 by decide) rfl rfl rfl
  have check : keyAdminCheck destroyDoubled (Tests.keyAdm 1 Tests.residentHandle) = none :=
    keyAdminCheck_none (.inl (Tests.keyAdm_fields 1 Tests.residentHandle).2) destroyDoubled_found rfl rfl
  refine ⟨rfl, rfl, rfl, rfl, rfl, rfl, rfl, ?_, rfl⟩
  rw [adminFailure, gate, show cmdKeyDestroy.check = keyAdminCheck from rfl, check]
  rfl

theorem destroyDoubled_started : startedNow destroyDoubled (kaHandle (Tests.keyAdm 1 Tests.residentHandle)) = [refKey Tests.ref0] := by
  have own : family (Tests.keyAdm 1 Tests.residentHandle) = 0xF0 := rfl
  have other : (decide (startedOn.dispatch = now destroyDoubled) && decide (1 ≤ startedOn.dispatchOrder) &&
      decide (startedOn.entry.opcode.toNat ≠ 0x3009) && decide (family startedOn ≠ 0xF0) && decide (startedOn.done = 0)) = true := rfl
  have named : startedOn.entry.keyh = Tests.residentHandle := rfl
  have jobs : destroyDoubled.jobs = [(0, Tests.keyAdm 1 Tests.residentHandle), (0, startedOn)] := rfl
  simp only [Bool.and_eq_true] at other
  obtain ⟨⟨⟨⟨dispatch, order⟩, opcode⟩, other⟩, fresh⟩ := other
  rw [(Tests.keyAdm_fields 1 Tests.residentHandle).1]
  simp only [startedNow, jobs, List.filter_cons, List.filter_nil, named, dispatch, order, opcode, other, fresh, own, ne_eq,
    not_true_eq_false, decide_false, decide_true, Bool.and_false, Bool.false_and, Bool.and_self, Bool.false_eq_true, if_false, if_true]
  rfl

/-- Refutes O42: the clause on the jobs that a KEY_ADMIN destroy ends lacks that the numbers of the jobs differ; where the destroy's own
number stands among them, the job that the number finds is the destroy, which runs. -/
theorem not_adminRecords : ¬ Obligations.AdminRecords := by
  intro h
  obtain ⟨-, destroy⟩ := Tests.keyAdm_fields 1 Tests.residentHandle
  have own : refKey Tests.ref0 ∈ startedNow destroyDoubled (kaHandle (Tests.keyAdm 1 Tests.residentHandle)) :=
    destroyDoubled_started ▸ List.mem_singleton_self _
  obtain ⟨-, -, -, -, -, ended, -⟩ := h.1 destroyDoubled Tests.ref0 (Tests.keyAdm 1 Tests.residentHandle)
  obtain ⟨t, x, row, job, decided, -⟩ := ended _ destroyDoubled_ready destroy own
  obtain ⟨u, y, row', job', runs⟩ := keyAdminDestroy_runs destroyDoubled_ready destroy ⟨rfl, rfl, rfl, rfl, by decide⟩
    destroyDoubled_found destroyDoubled_started
  obtain rfl : t = u := Host.Outcome.next.inj (row.symm.trans row')
  obtain rfl : x = y := Option.some.inj (job.symm.trans job')
  exact absurd (decided.symm.trans runs) (by decide)

end Sys2Proof.Machine
end

section
/-! SUPPORT. A stateful SIGN without a mounted Vault takes no index from the live block of its key: it ends with ST_VAULT_MEDIA in the tick
of its dispatch, with O30 (01_architecture.md Table 1-6; 05_admin_commands.md R131; 07_hash_and_code_jobs.md R172). -/
namespace Sys2Proof.Machine
open Sys2Proof

variable {s c : State} {k n : Nat} {r : JobRef} {j y : Job} {f : Facts} {u : Stateful}

/-! ## The start of a job that reserves -/

/-- The state in which the job runs as its facts say and has not reserved anything yet. -/
def launching (c : State) (k : Nat) (f : Facts) (y : Job) : State :=
  { modJob c k fun x => { launched c f x with accepted := !samplesSignatures y } with freeCount := c.freeCount + 1 }

theorem launch_eq_startWaits (hy : KMap.get? c.jobs k = some y) : launch c k f = startWaits (launching c k f y) k y := by
  unfold launch
  rw [hy]
  rfl

theorem get?_launching (hy : KMap.get? c.jobs k = some y) :
    KMap.get? (launching c k f y).jobs k = some (launched c f y) :=
  get?_modJob_same (fun x => { launched c f x with accepted := !samplesSignatures y }) hy

theorem startWaits_of_sign (sign : y.entry.opcode = 0x0502 ∨ y.entry.opcode = 0x0602) (key : y.keyRef = some n) :
    startWaits s k y = joinReservation s n k := by
  obtain sign | sign := sign <;> simp [startWaits, sign, key]

/-! ## A live block without a mounted Vault -/

theorem joinReservation_of_unmounted (part : statefulAt s n = some u) (live : u.live.isSome = true)
    (unmounted : s.vault.mounted = false) : joinReservation s n k = endJob s k .vaultMedia := by
  obtain ⟨block, live⟩ := Option.isSome_iff_exists.mp live
  simp [joinReservation, part, live, unmounted]

/-- A job that ends without success is decided, without output, and holds nothing. -/
theorem get?_endJob (st : Status) (hj : KMap.get? s.jobs k = some j) : KMap.get? (endJob s k st).jobs k =
    some { failJob (now s) st j with place := none, slot := none, resident := none, held := none } := by
  simp only [endJob, hj, get?_modJob, releaseEngines_jobs, Option.map_some]

/-- The row of a stateful SIGN whose key has a live block, where no Vault is mounted: the job has ended, whatever it was to draw or
run. -/
theorem exec_statefulSign_of_unmounted {p : (JobRef → Instr) × List Nat} (hp : p ∈ jobRows)
    (hj : KMap.get? s.jobs (refKey r) = some j) (started : j.phase = .dispatched) (mine : j.entry.opcode.toNat ∈ p.2)
    (sign : j.entry.opcode = 0x0502 ∨ j.entry.opcode = 0x0602)
    (pass : runChecks dispatchChecks s (refKey r) (factsD s (refKey r) j) = (c, none))
    (hy : KMap.get? c.jobs (refKey r) = some y) (key : y.keyRef = some n) (part : statefulAt c n = some u)
    (live : u.live.isSome = true) (unmounted : c.vault.mounted = false) :
    ∃ t x, exec (p.1 r) s = .next t ∧ KMap.get? t.jobs (refKey r) = some x ∧ x.phase = .decided ∧ x.status = .vaultMedia := by
  obtain ⟨y', hy', entry, -⟩ := checked_job hj pass
  obtain rfl : y = y' := Option.some.inj (hy.symm.trans hy')
  have start : launch c (refKey r) (factsD s (refKey r) j) =
      endJob (launching c (refKey r) (factsD s (refKey r) j) y) (refKey r) .vaultMedia := by
    rw [launch_eq_startWaits hy, startWaits_of_sign (entry ▸ sign) key]
    exact joinReservation_of_unmounted part live unmounted
  have job := get?_endJob .vaultMedia (get?_launching (f := factsD s (refKey r) j) hy)
  have row := exec_jobRows hp hj started mine
  rw [startJob_of_pass hj pass, start, advanceJob_rests job nofun nofun] at row
  exact ⟨_, _, row, job, rfl, rfl⟩

/-! ## The checks of a stateful SIGN -/

/-- The dispatch checks of a stateful SIGN ask for its key alone, and not for a Vault. -/
theorem runChecks_of_statefulSign {b : Bool} {key : Key} (hj : KMap.get? s.jobs k = some j)
    (sign : j.entry.opcode = 0x0502 ∨ j.entry.opcode = 0x0602) (bare : f.creates = .nothing)
    (found : findKey s (keyAllot k) j.entry.keyh.toNat = some (b, n, key)) (named : j.entry.keyh.toNat ≠ 0)
    (stored : handleKind j.entry.keyh.toNat ≠ 1) (usable : key.withdrawn = false) :
    runChecks dispatchChecks s k f = (modJob s k fun x => { x with key := some key, keyRef := some n }, none) := by
  have load := keyLoadCheck_found (f := f) found named stored usable
  have loaded := get?_modJob_same (fun x => { x with key := some key, keyRef := some n }) hj
  obtain sign | sign := sign <;>
    simp [runChecks, dispatchChecks, hj, loaded, soloCheck, load, importCheck, openCheck, vaultCheck, digestCheck, slotCheck,
      residentCheck, stateSlotCheck, curveCheck, keptCheck, changesMirrored, bare, sign, namesContext, isOpenJob, family, operation,
      residentBlocks]

/-! ## The counterexample -/

/-- A dispatched LMS SIGN whose key has index 7 left in its live block, on a device that has no Vault mounted. -/
def signUnmounted : State := { Tests.keyState Tests.treeKey Tests.lmsJob with vault := Tests.up.vault }

/-- A job with the key that its checks load. -/
def withTreeKey (x : Job) : Job := { x with key := some Tests.treeKey, keyRef := some 64 }

theorem signUnmounted_found : findKey signUnmounted 1 Tests.lmsJob.entry.keyh.toNat = some (false, 64, Tests.treeKey) := by
  have ice : signUnmounted.ice = (Tests.keyState Tests.treeKey Tests.lmsJob).ice := rfl
  have handles : signUnmounted.bridge.handleKey = (Tests.keyState Tests.treeKey Tests.lmsJob).bridge.handleKey := rfl
  rw [findKey_congr ice handles]
  exact Tests.slotHandle0_found Tests.treeKey Tests.lmsJob rfl

theorem signUnmounted_checked :
    runChecks dispatchChecks signUnmounted (refKey Tests.ref1) (factsD signUnmounted (refKey Tests.ref1) Tests.lmsJob) =
      (modJob signUnmounted (refKey Tests.ref1) withTreeKey, none) := by
  obtain ⟨named, stored⟩ := Tests.handle_usable (Tests.keyed Tests.treeKey) 2 0 (by decide) (by decide) (by decide)
  exact runChecks_of_statefulSign (j := Tests.lmsJob) rfl (.inl rfl) (Tests.lms_facts _).1 signUnmounted_found named stored rfl

/-- Refutes O30: its clause on the stateful SIGN lacks that a Vault is mounted; without one the SIGN takes no index of its key's live
block and is decided at once (`exec_statefulSign_of_unmounted`), where the clause has it running. -/
theorem not_reservingJobsStart : ¬ Obligations.ReservingJobsStart := by
  intro h
  have job : KMap.get? signUnmounted.jobs (refKey Tests.ref1) = some Tests.lmsJob := rfl
  have opcode : Tests.lmsJob.entry.opcode = 0x0502 := rfl
  have loaded := get?_modJob_same withTreeKey job
  obtain ⟨sign, -, -⟩ := h.1 signUnmounted Tests.ref1 Tests.lmsJob _ _ job rfl signUnmounted_checked loaded
  obtain ⟨t, x, -, row, -, found, -, runs, -⟩ := sign 64 Tests.treePart 7 8 (.inl opcode) rfl rfl rfl (.inl (Tests.lms_facts _).2)
  obtain ⟨t', x', row', found', decided, -⟩ := exec_statefulSign_of_unmounted (p := (.lmsSign, [0x0502])) (by simp [jobRows, jobRowsA])
    job rfl (List.mem_singleton_self _) (.inl opcode) signUnmounted_checked loaded rfl (u := Tests.treePart) rfl rfl rfl
  rw [if_pos opcode] at row
  obtain rfl : t = t' := Host.Outcome.next.inj (row.symm.trans row')
  obtain rfl : x = x' := Option.some.inj (found.symm.trans found')
  exact absurd (decided.symm.trans runs) (by decide)

end Sys2Proof.Machine
end

section
/-! SUPPORT. The arithmetic of the big-number family: powers and inverses modulo M, with O31 (08_orangery.md R212, R214). -/
namespace Sys2Proof

variable {a b e m n r0 r1 fuel acc : Nat} {t0 t1 : Int}

/-! ## Powers -/

/-- Square and multiply: the accumulator takes the whole power, where the fuel covers the exponent's bits. -/
theorem powModAux_eq (bits : e < 2 ^ fuel) (reduced : acc < m) : powModAux m fuel b e acc = acc * b ^ e % m := by
  induction fuel generalizing b e acc with
  | zero =>
    obtain rfl : e = 0 := by omega
    simp [powModAux, Nat.mod_eq_of_lt reduced]
  | succ fuel ih =>
    have half : e / 2 < 2 ^ fuel := by omega
    have square (k : Nat) : (b * b % m) ^ k ≡ b ^ (2 * k) [MOD m] := by
      rw [pow_mul, sq]
      exact (Nat.mod_modEq _ _).pow k
    rw [powModAux]
    split
    case isTrue zero => simp [zero, Nat.mod_eq_of_lt reduced]
    case isFalse =>
      split
      case isTrue odd =>
        obtain ⟨k, rfl⟩ : ∃ k, e = 2 * k + 1 := ⟨e / 2, by omega⟩
        rw [ih half (Nat.mod_lt _ (by omega)), show (2 * k + 1) / 2 = k by omega, pow_succ', ← mul_assoc]
        exact (Nat.mod_modEq _ _).mul (square k)
      case isFalse even =>
        obtain ⟨k, rfl⟩ : ∃ k, e = 2 * k := ⟨e / 2, by omega⟩
        rw [ih half reduced, show 2 * k / 2 = k by omega]
        exact (square k).mul_left acc

/-- `powMod` is the power modulo `m`, with 0^0 = 1 (R212). -/
theorem powMod_eq (positive : 0 < m) : powMod a e m = a ^ e % m := by
  rw [powMod, powModAux_eq Nat.lt_log2_self (Nat.mod_lt _ positive)]
  calc 1 % m * (a % m) ^ e % m = 1 * a ^ e % m := (Nat.mod_modEq 1 m).mul ((Nat.mod_modEq a m).pow e)
    _ = a ^ e % m := by rw [one_mul]

/-! ## Inverses -/

/-- Each remainder of the extended Euclid is `a` times its coefficient, so the last one is. -/
theorem invAux_modEq (h0 : a * t0 ≡ r0 [ZMOD m]) (h1 : a * t1 ≡ r1 [ZMOD m]) :
    a * (invAux m fuel r0 r1 t0 t1).2 ≡ (invAux m fuel r0 r1 t0 t1).1 [ZMOD m] := by
  induction fuel generalizing r0 r1 t0 t1 with
  | zero => exact h0
  | succ fuel ih =>
    rw [invAux]
    split
    case isTrue => exact h0
    case isFalse =>
      refine ih h1 ?_
      have step := h0.sub (h1.mul_left (r0 / r1 : Nat))
      rw [Int.natCast_mod, Int.emod_def, ← Int.natCast_ediv, mul_comm (r1 : Int)]
      rwa [mul_sub, mul_left_comm]

/-- A remainder is at most half of the number divided. -/
theorem two_mul_mod_le (positive : 0 < r1) (le : r1 ≤ r0) : 2 * (r0 % r1) ≤ r0 := by
  have small := Nat.mod_lt r0 positive
  have whole := Nat.mod_add_div r0 r1
  have one := Nat.le_mul_of_pos_right r1 (Nat.div_pos le positive)
  omega

/-- A step of Euclid keeps the greatest common divisor. -/
theorem gcd_mod_eq : Nat.gcd r1 (r0 % r1) = Nat.gcd r0 r1 := by
  rw [Nat.gcd_comm, ← Nat.gcd_rec, Nat.gcd_comm]

/-- The product of the two remainders halves at each step of Euclid, so fuel for its bits reaches the greatest common divisor. -/
theorem invAux_fst (le : r1 ≤ r0) (bits : r0 * r1 < 2 ^ fuel) : (invAux m fuel r0 r1 t0 t1).1 = Nat.gcd r0 r1 := by
  induction fuel generalizing r0 r1 t0 t1 with
  | zero =>
    obtain rfl : r1 = 0 := by
      have square := Nat.mul_le_mul_right r1 le
      exact mul_self_eq_zero.mp (by omega)
    simp [invAux]
  | succ fuel ih =>
    rw [invAux]
    split
    case isTrue zero => simp [zero]
    case isFalse nonzero =>
      have positive := Nat.pos_of_ne_zero nonzero
      have halves : r1 * (2 * (r0 % r1)) ≤ r1 * r0 := Nat.mul_le_mul_left r1 (two_mul_mod_le positive le)
      rw [ih (Nat.mod_lt r0 positive).le (by rw [pow_succ] at bits; linarith), gcd_mod_eq]

/-- An inverse is below the modulus and multiplies to 1. -/
theorem modInv_spec (large : 1 < m) (found : modInv a m = some n) : n < m ∧ a * n % m = 1 := by
  have positive : (0 : Int) < m := by omega
  simp only [modInv] at found
  split at found
  case isFalse => cases found
  case isTrue one =>
    have euclid : (a : Int) * _ ≡ _ [ZMOD m] :=
      invAux_modEq (fuel := 2 * (Nat.log2 m + 2)) (r0 := m) (r1 := a % m) (t0 := 0) (t1 := 1)
        (by simp [Int.ModEq]) (by simp [Int.ModEq])
    generalize (invAux m (2 * (Nat.log2 m + 2)) m (a % m) 0 1) = p at one euclid found
    have value : (n : Int) = p.2 % m := by
      rw [← Option.some.inj found, Int.toNat_of_nonneg (Int.emod_nonneg _ positive.ne')]
    refine ⟨by exact_mod_cast value ▸ Int.emod_lt_of_pos p.2 positive, ?_⟩
    have product : (a * n : Int) % m = 1 % m := by
      rw [value, (Int.mod_modEq p.2 m).mul_left a, euclid, one]
      rfl
    rw [← Nat.mod_eq_of_lt large]
    exact_mod_cast product

/-- An inverse is missed only where none exists (R214). -/
theorem modInv_eq_none_iff (positive : 0 < m) : modInv a m = none ↔ Nat.gcd a m ≠ 1 := by
  have below := Nat.mod_lt a positive
  have bits : m * (a % m) < 2 ^ (2 * (Nat.log2 m + 2)) := by
    have big : m < 2 ^ (Nat.log2 m + 2) := Nat.lt_log2_self.trans (Nat.pow_lt_pow_right (by omega) (by omega))
    rw [two_mul, pow_add]
    exact Nat.mul_lt_mul'' big (below.trans big)
  simp [modInv, invAux_fst below.le bits, gcd_mod_eq]

end Sys2Proof

namespace Sys2Proof.Machine
open Sys2Proof

variable {op m a b x : Nat}

/-! ## Operands out of range -/

/-- What R214 refuses: an even or a small modulus, and an operand, but not an exponent, that is not below it. -/
def OutOfRange (op m a b : Nat) : Prop := m % 2 = 0 ∨ m < 3 ∨ m ≤ a ∨ (op ≤ 3 ∧ m ≤ b)

theorem bnValue_of_outOfRange (bad : OutOfRange op m a b) : bnValue op m a b = .inl .operandRange := if_pos bad

/-- Operands below an odd modulus of at least 3 are in range; an operation past MUL asks nothing of B. -/
theorem not_outOfRange (odd : m % 2 = 1) (large : 3 ≤ m) (ha : a < m) (hb : op ≤ 3 → b < m) : ¬ OutOfRange op m a b := by
  unfold OutOfRange
  omega

/-! ## The five operations (R212) -/

theorem bnValue_add (good : ¬ OutOfRange 1 m a b) : bnValue 1 m a b = .inr ((a + b) % m) := if_neg good

theorem bnValue_sub (good : ¬ OutOfRange 2 m a b) : bnValue 2 m a b = .inr ((a + m - b) % m) := if_neg good

theorem bnValue_mul (good : ¬ OutOfRange 3 m a b) : bnValue 3 m a b = .inr (a * b % m) := if_neg good

theorem bnValue_inv_eq_value_iff (good : ¬ OutOfRange 4 m a b) : bnValue 4 m a b = .inr x ↔ modInv a m = some x := by
  have value : bnValue 4 m a b = _ := if_neg good
  cases found : modInv a m <;> simp [value, found]

theorem bnValue_inv_eq_notInvertible_iff (good : ¬ OutOfRange 4 m a b) :
    bnValue 4 m a b = .inl .notInvertible ↔ modInv a m = none := by
  have value : bnValue 4 m a b = _ := if_neg good
  cases found : modInv a m <;> simp [value, found]

theorem bnValue_exp (good : ¬ OutOfRange 5 m a b) : bnValue 5 m a b = .inr (powMod a b m) := if_neg good

/-- The difference added to the subtrahend is the minuend again. -/
theorem sub_mod_add_mod (ha : a < m) (hb : b < m) : ((a + m - b) % m + b) % m = a := by
  rw [Nat.mod_add_mod, Nat.sub_add_cancel (by omega), Nat.add_mod_right, Nat.mod_eq_of_lt ha]

/-- Settles O31: each operation by its own equation; the power by square and multiply (`powMod_eq`), the inverse by the
coefficients of the extended Euclid (`modInv_spec`), whose fuel reaches the greatest common divisor (`modInv_eq_none_iff`). -/
theorem bigNumbers : Obligations.BigNumbers := by
  unfold Obligations.BigNumbers
  refine ⟨fun m a b => ⟨fun odd large ha hb => ?_, fun op bad => ?_, fun op two hb => ?_⟩, fun m a b odd large ha => ?_⟩
  · have good (op : Nat) : ¬ OutOfRange op m a b := not_outOfRange odd large ha fun _ => hb
    exact ⟨bnValue_add (good 1), ⟨_, bnValue_sub (good 2), Nat.mod_lt _ (by omega), sub_mod_add_mod ha hb⟩, bnValue_mul (good 3)⟩
  · exact bnValue_of_outOfRange (bad.imp_right (Or.imp_right .inl))
  · exact bnValue_of_outOfRange (.inr (.inr (.inr ⟨two, hb⟩)))
  · have inv : ¬ OutOfRange 4 m a b := not_outOfRange odd large ha (by omega)
    have exp : ¬ OutOfRange 5 m a b := not_outOfRange odd large ha (by omega)
    refine ⟨fun x value => ?_, fun refused => ?_, ?_⟩
    · exact modInv_spec (by omega) ((bnValue_inv_eq_value_iff inv).mp value)
    · exact (modInv_eq_none_iff (by omega)).mp ((bnValue_inv_eq_notInvertible_iff inv).mp refused)
    · rw [bnValue_exp exp, powMod_eq (by omega)]

end Sys2Proof.Machine
end

section
/-! SUPPORT. The rows of a mask generator and the wait of a shared job for a seed, with O26 (09_parterre.md R224, R225). -/
namespace Sys2Proof.Machine
open Sys2Proof

variable {s : State} {u : Fin 4} {r : JobRef} {j : Job}

/-! ## The rows of a generator (R224) -/

/-- A standby seed is asked for once, from squeeze tick 657 on. -/
theorem exec_maskSeedRequest_of_due (seeded : (unitAt s u.val).mask.seeded = true) (without : (unitAt s u.val).mask.standby = false)
    (unasked : (unitAt s u.val).mask.requested = false) (late : 657 ≤ (unitAt s u.val).mask.squeezeTick) :
    exec (.maskSeedRequest u) s = .next (modMask s u.val fun m => { m with requested := true }) := by
  change execMaskSeedRequest u s = _
  simp [execMaskSeedRequest, seeded, without, unasked, late]

theorem exec_maskSeedRequest_of_early (early : (unitAt s u.val).mask.squeezeTick < 657) : exec (.maskSeedRequest u) s = .next s := by
  change execMaskSeedRequest u s = _
  simp [execMaskSeedRequest, early]

/-- At the end of squeeze tick 1,311 the standby state takes over, and without one the generator has no seed. -/
theorem exec_maskStateSwap_of_spent (seeded : (unitAt s u.val).mask.seeded = true)
    (late : 1312 ≤ (unitAt s u.val).mask.squeezeTick) : exec (.maskStateSwap u) s = .next (modMask s u.val fun m =>
      if m.standby then { m with standby := false, squeezeTick := m.squeezeTick - 1311 }
      else { MaskGen.unseeded with requested := m.requested, delivered := m.delivered }) := by
  change execMaskStateSwap u s = _
  simp [execMaskStateSwap, seeded, late]

/-- A delivered seed goes to the standby state, or to a generator that has none and then runs from the next tick. -/
theorem exec_maskSeedArrival_of_delivered (delivered : (unitAt s u.val).mask.delivered = true) :
    exec (.maskSeedArrival u) s = .next (modMask s u.val fun m =>
      if m.seeded then { m with standby := true, requested := false, delivered := false }
      else { m with seeded := true, squeezeTick := 0, restartAt := now s + 1, requested := false, delivered := false }) := by
  change execMaskSeedArrival u s = _
  simp [execMaskSeedArrival, delivered]

/-! ## The wait for a seed (R225) -/

/-- A resident shared job of a parterre whose generator has no seed ends once 262,144 ticks have passed. -/
theorem exec_sharedJobEntropyTimeout {u n : Nat} (hj : KMap.get? s.jobs (refKey r) = some j)
    (held : j.phase = .running ∧ j.shared = true ∨ j.phase = .ready ∧ (factsD s (refKey r) j).shared = true)
    (place : j.place = some (u, n)) (parterre : u < 4) (unseeded : (unitAt s u).mask.seeded = false) :
    exec (.sharedJobEntropyTimeout r) s =
      .next (if j.lastReady + 262144 ≤ now s then failNow s (refKey r) .entropyFailed else s) := by
  change execSharedJobEntropyTimeout r s = _
  have waits : (decide (j.phase = .running) && j.shared || decide (j.phase = .ready) && (factsD s (refKey r) j).shared) = true := by
    simpa using held
  simp [execSharedJobEntropyTimeout, maskSeeded, hj, waits, place, parterre, unseeded]

/-- Settles O26: the generator's rows by their equations; the job that waited too long is the one that `failNow` ends. -/
theorem masksAndSharing : Obligations.MasksAndSharing := by
  unfold Obligations.MasksAndSharing
  refine ⟨fun s u m hm => ?_, fun s r j u n hj held place parterre unseeded => ⟨fun late => ?_, fun early => ?_⟩⟩
  · subst hm
    refine ⟨exec_maskSeedRequest_of_due, fun seeded ready late => ?_, fun seeded without late => ?_, fun arrived seeded => ?_,
      fun arrived unseeded => ?_, fun _ => exec_maskSeedRequest_of_early⟩
    · rw [exec_maskStateSwap_of_spent seeded late, modMask, if_pos ready]
    · refine ⟨_, exec_maskStateSwap_of_spent seeded late, ?_⟩
      simp [without, MaskGen.unseeded]
    · rw [exec_maskSeedArrival_of_delivered arrived, modMask, if_pos seeded]
    · rw [exec_maskSeedArrival_of_delivered arrived, modMask, if_neg (by simp [unseeded])]
  · have row := exec_sharedJobEntropyTimeout hj held place parterre unseeded
    rw [if_pos late] at row
    exact ⟨_, _, row, get?_failNow _ hj, rfl, rfl, rfl, rfl⟩
  · rw [exec_sharedJobEntropyTimeout hj held place parterre unseeded, if_neg (Nat.not_le.mpr early)]

end Sys2Proof.Machine
end

section
/-! SUPPORT. What an issued instruction leaves in the state, with O33 (09_parterre.md R231, R236; 10_vector_isa.md R245,
R260). -/
namespace Sys2Proof.Machine
open Sys2Proof

variable {c : Instr} {s : State} {u v k code : Nat} {w : W32} {o : Op} {b : Body} {j : Job} {m x : Vm} {e : Env}
  {ch : Vm → Charge} {f : Effect}

/-! ## The rows -/

/-- Every row of the instruction set is `isaRow` on its own unit, word and operation. -/
theorem exec_of_isaOp (row : isaOp c = some (u, w, o)) (s : State) : exec c s = isaRow u w o s := by
  unfold isaOp at row
  split at row <;> cases row <;> rfl

theorem exec_of_canIssue (row : isaOp c = some (u, w, o)) (can : canIssue s u w = true)
    (hj : KMap.get? s.jobs (bodyAt s u).job = some j) : exec c s =
      .next (putVm s u (issue (envOf s j (bodyAt s u)) o.charge o.effect (vmOf s (bodyAt s u)))) := by
  simp only [exec_of_isaOp row, isaRow, can, if_true, issueOn, hj]

theorem exec_of_not_canIssue (row : isaOp c = some (u, w, o)) (cannot : canIssue s u w = false) : exec c s = .next s := by
  rw [exec_of_isaOp row, isaRow, cannot, if_neg Bool.false_ne_true]

/-! ## One instruction (R231, R236, R260) -/

theorem issue_of_late (late : 552 ≤ startCycle m.body (ch m)) : issue e ch f m = faultBody m fltOverrun := if_pos late

theorem issue_of_error (early : startCycle m.body (ch m) < 552)
    (fault : f e { m with body.pc := m.body.pc + 1 } = .error code) : issue e ch f m = faultBody m code := by
  have runs : ¬ bodyCycles ≤ startCycle m.body (ch m) := Nat.not_le.mpr early
  rw [issue, if_neg runs, fault]

/-- The cycle that an instruction with effect ends at. -/
def endCycle (m : Vm) (ch : Charge) (x : Vm) : Nat :=
  startCycle m.body ch + (if chains m.body ch then ch.lam else ch.cost) + (x.body.cycles - m.body.cycles)

/-- The body after an instruction: the Trellis says where the routine address lands, and the chain goes on from it. -/
def movedOn (e : Env) (m : Vm) (ch : Charge) (x : Vm) : Vm :=
  { x with body := { x.body with
      pc := (followOn e.land m.body.seg m.body.pc x.body.pc).1, seg := (followOn e.land m.body.seg m.body.pc x.body.pc).2,
      cycles := endCycle m ch x, chain := if 1 ≤ ch.unit then some (ch.unit, ch.dest) else none } }

theorem issue_of_ok (early : startCycle m.body (ch m) < 552) (effect : f e { m with body.pc := m.body.pc + 1 } = .ok x) :
    issue e ch f m = if 552 < endCycle m (ch m) x then faultBody m fltOverrun else movedOn e m (ch m) x := by
  have runs : ¬ bodyCycles ≤ startCycle m.body (ch m) := Nat.not_le.mpr early
  rw [issue, if_neg runs, effect]
  rfl

/-! ## Putting a body back -/

theorem plotAt_setPlot (s : State) (n k : Nat) (p : Plot) : plotAt (setPlot s n p) k = if k = n then p else plotAt s k := by
  rw [plotAt, setPlot, KMap.getD, KMap.get?_put]
  split <;> rfl

theorem bodyAt_setBody_same (b : Body) (h : u < s.bodies.length) : bodyAt (setBody s u b) u = b := by
  simp [bodyAt, setBody, h]

theorem bodyAt_setBody_ne (s : State) (b : Body) (h : v ≠ u) : bodyAt (setBody s u b) v = bodyAt s v := by
  simp [bodyAt, setBody, List.getElem?_set_ne h.symm]

/-- Of the state a body put back changes the bodies, the plots, the SWM and the count of free values. -/
theorem putVm_eq (s : State) (u : Nat) (m : Vm) : putVm s u m = { s with
    bodies := s.bodies.set u m.body, plots := KMap.put s.plots m.body.plot m.plot, freeCount := m.free
    swm := if m.swm = swmAt s (keyAllot m.body.job) then s.swm else KMap.put s.swm (keyAllot m.body.job) m.swm } := by
  have swm : swmAt (setPlot { setBody s u m.body with freeCount := m.free } m.body.plot m.plot) (keyAllot m.body.job) =
    swmAt s (keyAllot m.body.job) := rfl
  rw [putVm]
  simp only [swm]
  split <;> rfl

theorem bodyAt_putVm_same (m : Vm) (h : u < s.bodies.length) : bodyAt (putVm s u m) u = m.body := by
  rw [putVm_eq]
  exact bodyAt_setBody_same m.body h

theorem bodyAt_putVm_ne (s : State) (m : Vm) (h : v ≠ u) : bodyAt (putVm s u m) v = bodyAt s v := by
  rw [putVm_eq]
  exact bodyAt_setBody_ne s m.body h

theorem plotAt_putVm (s : State) (u k : Nat) (m : Vm) :
    plotAt (putVm s u m) k = if k = m.body.plot then m.plot else plotAt s k := by
  rw [putVm_eq]
  exact plotAt_setPlot s m.body.plot k m.plot

theorem swmAt_putVm (s : State) (u k : Nat) (m : Vm) :
    swmAt (putVm s u m) k = if k = keyAllot m.body.job then m.swm else swmAt s k := by
  rw [putVm_eq, swmAt]
  dsimp only
  split
  case isTrue same =>
    split
    case isTrue own => rw [own, same, swmAt]
    case isFalse => rfl
  case isFalse =>
    rw [KMap.getD, KMap.get?_put]
    split <;> rfl

/-! ## A fault (R260) -/

/-- A faulting instruction ends the body and changes nothing else. -/
theorem putVm_faultBody (s : State) (u code : Nat) (h : u < s.bodies.length) :
    let t := putVm s u (faultBody (vmOf s (bodyAt s u)) code)
    bodyAt t u = { bodyAt s u with fault := some code, ended := true } ∧ (∀ k, plotAt t k = plotAt s k) ∧ t.swm = s.swm ∧
      t.freeCount = s.freeCount ∧ t.jobs = s.jobs := by
  refine ⟨bodyAt_putVm_same _ h, fun k => ?_, ?_, ?_, ?_⟩
  · rw [plotAt_putVm]
    split
    case isTrue own => rw [own]; rfl
    case isFalse => rfl
  · rw [putVm_eq]
    exact if_pos rfl
  · rw [putVm_eq]; rfl
  · rw [putVm_eq]

/-- Settles O33: each row is `isaRow` on its operands, and `issue` ends in a fault or moves the body on. -/
theorem isaRowsIssue : Obligations.IsaRowsIssue := by
  unfold Obligations.IsaRowsIssue
  rintro c u w o s _ _ row four hu rfl rfl
  have bound : u < s.bodies.length := four.symm ▸ hu
  refine ⟨fun j can hj => ?_, exec_of_not_canIssue row⟩
  have issued := exec_of_canIssue row can hj
  refine ⟨fun late => ?_, fun early => ⟨fun x n effect hn => ⟨fun within => ?_, fun past => ?_⟩, fun code fault => ?_⟩⟩
  · rw [issue_of_late late] at issued
    obtain ⟨body, plots, -⟩ := putVm_faultBody s u fltOverrun bound
    exact ⟨_, issued, body, plots⟩
  · have ends : n = endCycle (vmOf s (bodyAt s u)) (o.charge (vmOf s (bodyAt s u))) x := hn
    rw [issue_of_ok early effect, ← ends, if_neg (Nat.not_lt.mpr within)] at issued
    refine ⟨_, issued, ?_, ?_, fun k other => ?_, ?_, fun k other => ?_, ?_, fun v other => bodyAt_putVm_ne s _ other, ?_⟩
    · rw [bodyAt_putVm_same _ bound, ends]
      rfl
    · exact (plotAt_putVm ..).trans (if_pos rfl)
    · exact (plotAt_putVm ..).trans (if_neg other)
    · exact (swmAt_putVm ..).trans (if_pos rfl)
    · exact (swmAt_putVm ..).trans (if_neg other)
    · rw [putVm_eq]
      rfl
    · rw [putVm_eq]
      exact ⟨rfl, rfl, rfl, rfl⟩
  · have ends : n = endCycle (vmOf s (bodyAt s u)) (o.charge (vmOf s (bodyAt s u))) x := hn
    rw [issue_of_ok early effect, ← ends, if_pos past] at issued
    obtain ⟨body, plots, swm, -⟩ := putVm_faultBody s u fltOverrun bound
    exact ⟨_, issued, body, plots, swm⟩
  · rw [issue_of_error early fault] at issued
    exact ⟨_, issued, putVm_faultBody s u code bound⟩

end Sys2Proof.Machine
end

section
/-! SUPPORT. The lanes of a slice body: what is read of a register after a write, and the arithmetic of 32-bit unsigned
residues (09_parterre.md R217 to R221; 10_vector_isa.md R247, R248). -/
namespace Sys2Proof.Machine
open Sys2Proof

variable {m : Vm} {rd r k j n : Nat} {d : ShareMode} {act : Nat → Bool} {f : Nat → Nat × Nat × Bool}

/-! ## Reading after a write (R217, R222) -/

theorem slotAt_setSlot (m : Vm) (r i q j : Nat) (v : Elem) : slotAt (setSlot m r i v) q j =
    if 256 * q + j = 256 * r + i then { v with prov := v.prov || (slotAt m r i).prov } else slotAt m q j := by
  rw [slotAt, setSlot, KMap.getD, KMap.get?_put]
  split <;> rfl

/-- What a 32-bit element reads as after a write: the low words, and a provenance bit that does not go away. -/
def stored (v old : Nat × Nat × Bool) : Nat × Nat × Bool := (v.1 % 2 ^ 32, v.2.1 % 2 ^ 32, v.2.2 || old.2.2)

/-- Of a body a written element changes the slots alone. -/
theorem setElem_eq (m : Vm) (r j : Nat) (v : Nat × Nat × Bool) : ∃ slots, setElem m r j v = { m with body.vregs := slots } := by
  unfold setElem
  split <;> exact ⟨_, rfl⟩

theorem elemAt_lt (narrow : m.body.wide = false) : (elemAt m r j).1 < 2 ^ 32 ∧ (elemAt m r j).2.1 < 2 ^ 32 := by
  simp only [elemAt, narrow, Bool.false_eq_true, if_false]
  exact ⟨BitVec.isLt _, BitVec.isLt _⟩

theorem elemAt_setElem_same (narrow : m.body.wide = false) (v : Nat × Nat × Bool) :
    elemAt (setElem m r j v) r j = stored v (elemAt m r j) := by
  simp [setElem, elemAt, setSlot, narrow, slotAt, KMap.getD, stored]

/-- Within the 256 slots of a register a write reaches its own element only. -/
theorem elemAt_setElem_ne {q i : Nat} (narrow : m.body.wide = false) (v : Nat × Nat × Bool) (hi : i < 256) (hj : j < 256)
    (other : ¬(q = r ∧ i = j)) : elemAt (setElem m r j v) q i = elemAt m q i := by
  have apart : 256 * q + i ≠ 256 * r + j := by omega
  have slot := slotAt_setSlot m r j q i ⟨BitVec.ofNat 32 v.1, BitVec.ofNat 32 v.2.1, v.2.2⟩
  rw [if_neg apart] at slot
  simp only [setElem, narrow, Bool.false_eq_true, if_false]
  have narrow' : (setSlot m r j ⟨BitVec.ofNat 32 v.1, BitVec.ofNat 32 v.2.1, v.2.2⟩).body.wide = false := narrow
  simp only [elemAt, narrow, narrow', Bool.false_eq_true, if_false, slot]

/-! ## Writing the active elements (R248) -/

/-- The active elements below `n`, written one by one. -/
def writtenTo (m : Vm) (rd : Nat) (act : Nat → Bool) (f : Nat → Nat × Nat × Bool) (n : Nat) : Vm :=
  (List.range n).foldl (fun x j => if act j then setElem x rd j (f j) else x) m

theorem writtenTo_succ : writtenTo m rd act f (n + 1) =
    if act n then setElem (writtenTo m rd act f n) rd n (f n) else writtenTo m rd act f n := by
  simp only [writtenTo, List.range_succ, List.foldl_append, List.foldl_cons, List.foldl_nil]

theorem writtenTo_eq (m : Vm) (rd : Nat) (act : Nat → Bool) (f : Nat → Nat × Nat × Bool) (n : Nat) :
    ∃ slots, writtenTo m rd act f n = { m with body.vregs := slots } := by
  refine foldl_keeps (fun x : Vm => ∃ slots, x = { m with body.vregs := slots }) ?_ _ ⟨m.body.vregs, rfl⟩
  rintro _ j ⟨slots, rfl⟩
  split
  · exact setElem_eq ..
  · exact ⟨slots, rfl⟩

theorem elemAt_writtenTo {q i : Nat} (narrow : m.body.wide = false) (hn : n ≤ 256) (hi : i < 256) :
    elemAt (writtenTo m rd act f n) q i =
      if q = rd ∧ i < n ∧ act i = true then stored (f i) (elemAt m rd i) else elemAt m q i := by
  induction n with
  | zero => simp [writtenTo]
  | succ n ih =>
    have before := ih (by omega)
    have narrow' : (writtenTo m rd act f n).body.wide = false := by
      obtain ⟨slots, h⟩ := writtenTo_eq m rd act f n
      rw [h]
      exact narrow
    rw [writtenTo_succ]
    by_cases own : q = rd ∧ i = n
    · obtain ⟨rfl, rfl⟩ := own
      have unwritten : elemAt (writtenTo m q act f i) q i = elemAt m q i := by simpa using before
      split
      case isTrue active => simp [elemAt_setElem_same narrow', unwritten, active]
      case isFalse idle => simp [unwritten, idle]
    · have same : (q = rd ∧ i < n + 1 ∧ act i = true) ↔ (q = rd ∧ i < n ∧ act i = true) := by grind
      rw [if_congr same rfl rfl, ← before]
      split
      · exact elemAt_setElem_ne narrow' _ hi (by omega) own
      · rfl

/-- A body with a vector length, whose elements are unsigned and 32 bits wide. -/
structure Narrow (m : Vm) : Prop where
  wide : m.body.wide = false
  signed : m.body.signed = false
  filled : m.body.vl ≠ 0
  fits : m.body.vl ≤ 256

theorem writeElems_eq_writtenTo (h : m.body.vl ≠ 0) :
    writeElems m rd d act f = writtenTo (setVmode m rd d) rd act f m.body.vl := if_neg h

/-- Of a body an element-wise write changes the slots and the modes of the registers. -/
theorem writeElems_eq (h : m.body.vl ≠ 0) (rd : Nat) (d : ShareMode) (act : Nat → Bool) (f : Nat → Nat × Nat × Bool) :
    ∃ slots, writeElems m rd d act f = { m with body.vregs := slots, body.vmodes := KMap.put m.body.vmodes rd d } := by
  rw [writeElems_eq_writtenTo h]
  exact writtenTo_eq ..

theorem vmode_writeElems (h : m.body.vl ≠ 0) : vmode (writeElems m rd d act f) r = if r = rd then d else vmode m r := by
  obtain ⟨slots, eq⟩ := writeElems_eq h rd d act f
  rw [eq, vmode, KMap.getD, KMap.get?_put]
  split <;> rfl

theorem vmode_writeElems_same (h : m.body.vl ≠ 0) : vmode (writeElems m rd d act f) rd = d := by
  rw [vmode_writeElems h, if_pos rfl]

theorem elemAt_writeElems (h : Narrow m) (hj : j < 256) : elemAt (writeElems m rd d act f) r j =
    if r = rd ∧ j < m.body.vl ∧ act j = true then stored (f j) (elemAt m rd j) else elemAt m r j := by
  rw [writeElems_eq_writtenTo h.filled]
  exact elemAt_writtenTo (m := setVmode m rd d) h.wide h.fits hj

theorem elemAt_writeElems_of_active (h : Narrow m) (hj : j < m.body.vl) (active : act j = true) :
    elemAt (writeElems m rd d act f) rd j = stored (f j) (elemAt m rd j) := by
  rw [elemAt_writeElems h (hj.trans_le h.fits), if_pos ⟨rfl, hj, active⟩]

/-- An element-wise write changes its own register alone, below VL. -/
theorem onlyRegister_writeElems (h : Narrow m) : onlyRegister m (writeElems m rd d act f) rd := by
  obtain ⟨slots, eq⟩ := writeElems_eq h.filled rd d act f
  have most : vlMax m.body.wide = 256 := by simp [vlMax, h.wide]
  refine ⟨fun r j other hj => ⟨?_, ?_⟩, fun j past hj => ?_, ?_⟩
  · rw [elemAt_writeElems h (most ▸ hj), if_neg fun own => other own.1]
  · rw [vmode_writeElems h.filled, if_neg other]
  · rw [elemAt_writeElems h (most ▸ hj), if_neg fun own => absurd own.2.1 (Nat.not_lt.mpr past)]
  · rw [eq]
    exact ⟨rfl, rfl, rfl, rfl, rfl, rfl⟩

/-! ## Masks and modes (R221, R248) -/

/-- Every element is active. -/
def allActive : Nat → Bool := fun _ => true

theorem activeMask_zero (m : Vm) : activeMask m 0 = .ok allActive := rfl

theorem activeMask_of_public (field : k ≠ 0) (unshared : (mreg m k).shared = false) (clean : (mreg m k).prov = false) :
    activeMask m k = .ok fun j => (mreg m k).s0.getLsbD j := by
  simp [activeMask, field, unshared, clean]

theorem activeMask_of_secret (field : k ≠ 0) (secret : (mreg m k).shared = true ∨ (mreg m k).prov = true) :
    activeMask m k = .error fltMode := by
  simp [activeMask, field, secret]

theorem elementwise_of_ok {g : Vm → Nat → Nat × Nat × Bool} (mask : activeMask m k = .ok act) :
    elementwise rd k g m = .ok (writeElems m rd m.body.mode act (g m)) := by
  rw [elementwise, mask]

theorem elementwise_of_error {c : Nat} {g : Vm → Nat → Nat × Nat × Bool} (mask : activeMask m k = .error c) :
    elementwise rd k g m = .error c := by
  rw [elementwise, mask]

theorem usable_of_unshared (h : vmode m r = .unshared) : usable m r = true := by simp [usable, h]

theorem usable_of_mode (h : vmode m r = m.body.mode) : usable m r = true := by simp [usable, h]

/-- Arithmetic outside Boolean mode on sources that the mode can take is element-wise. -/
theorem sharewise_eq (e : Env) {srcs : List Nat} {g : Vm → Nat → Nat × Nat × Bool} (mode : m.body.mode ≠ .boolean)
    (sources : ∀ r ∈ srcs, usable m r = true) : sharewise rd k srcs g e m = elementwise rd k g m := by
  have taken : srcs.all (usable m) = true := List.all_eq_true.mpr sources
  simp [sharewise, mode, taken]

/-! ## Residues (R218, R219) -/

theorem Narrow.residue_eq (h : Narrow m) (a : Nat) : residue m a = a % m.body.vmod := by
  simp [residue, h.wide, h.signed]

theorem Narrow.canonical_eq (h : Narrow m) (a : Nat) : canonical m a = a % m.body.vmod := by
  simp [canonical, h.wide, h.signed]

theorem Narrow.addMod_eq (h : Narrow m) (a b : Nat) : addMod m a b = (a + b) % m.body.vmod := by
  simp [addMod, h.residue_eq, h.canonical_eq]

theorem Narrow.subMod_eq (h : Narrow m) (a b : Nat) : subMod m a b = (a + (m.body.vmod - b % m.body.vmod)) % m.body.vmod := by
  simp [subMod, modulus, h.residue_eq, h.canonical_eq, h.wide]

theorem Narrow.mulMod_eq (h : Narrow m) (a b : Nat) : mulMod m a b = a * b % m.body.vmod := by
  simp [mulMod, h.residue_eq, h.canonical_eq]

theorem Narrow.toNat_ofNat_elemAt (h : Narrow m) (r j : Nat) : (BitVec.ofNat 32 (elemAt m r j).1).toNat = (elemAt m r j).1 := by
  rw [BitVec.toNat_ofNat, Nat.mod_eq_of_lt (elemAt_lt h.wide).1]

theorem Narrow.scalarOperand_eq (h : Narrow m) (v : W32) : scalarOperand m v = v.toNat := by
  simp [scalarOperand, h.wide]

end Sys2Proof.Machine
end

section
/-! SUPPORT. The instructions that work lane by lane, with O34 (10_vector_isa.md R246 to R248). -/
namespace Sys2Proof.Machine
open Sys2Proof

variable {e : Env} {m x : Vm} {rd rs1 rs2 r k j n : Nat} {act : Nat → Bool} {op : Op}
  {v : (Nat × Nat × Bool → Nat) → Nat → Nat}

theorem narrow_of_plainBody (plain : plainBody m) (filled : m.body.vl ≠ 0) : Narrow m := by
  obtain ⟨-, wide, signed, fits, -⟩ := plain
  exact ⟨wide, signed, filled, fits⟩

/-! ## Lane by lane -/

/-- An instruction writes its register element by element, each share by the same function `v` of that share of its
sources; an unshared one has no second share to speak of. -/
def LaneByLane (e : Env) (m : Vm) (rd k : Nat) (op : Op) (v : (Nat × Nat × Bool → Nat) → Nat → Nat) : Prop :=
  ∃ g : Vm → Nat → Nat × Nat × Bool, op.effect e m = elementwise rd k g m ∧
    ∀ j, (g m j).1 = v (fun a => a.1) j ∧ (m.body.mode ≠ .unshared → (g m j).2.1 = v (fun a => a.2.1) j)

theorem LaneByLane.of_masked (lanes : LaneByLane e m rd k op v) (h : Narrow m) (mode : m.body.mode = .unshared)
    (mask : activeMask m k = .ok act) (small : ∀ j, v (fun a => a.1) j < 2 ^ 32) :
    ∃ x, op.effect e m = .ok x ∧ onlyRegister m x rd ∧ vmode x rd = .unshared ∧ ∀ j, j < m.body.vl →
      (elemAt x rd j).1 = if act j = true then v (fun a => a.1) j else (elemAt m rd j).1 := by
  obtain ⟨g, effect, values⟩ := lanes
  refine ⟨_, effect.trans (elementwise_of_ok mask), onlyRegister_writeElems h, ?_, fun j hj => ?_⟩
  · rw [vmode_writeElems_same h.filled, mode]
  · rw [elemAt_writeElems h (hj.trans_le h.fits)]
    split
    case isTrue active => rw [if_pos active.2.2, stored, (values j).1, Nat.mod_eq_of_lt (small j)]
    case isFalse idle => rw [if_neg fun active => idle ⟨rfl, hj, active⟩]

theorem LaneByLane.of_unmasked (lanes : LaneByLane e m rd 0 op v) (h : Narrow m) (mode : m.body.mode = .unshared)
    (small : ∀ j, v (fun a => a.1) j < 2 ^ 32) : ∃ x, op.effect e m = .ok x ∧ onlyRegister m x rd ∧ vmode x rd = .unshared ∧
      ∀ j, j < m.body.vl → (elemAt x rd j).1 = v (fun a => a.1) j :=
  lanes.of_masked h mode (activeMask_zero m) small

/-! ## Arithmetic (R246, R247) -/

section Arithmetic
variable (h : Narrow m) (mode : m.body.mode ≠ .boolean) (first : usable m rs1 = true)
include h mode first

theorem laneByLane_vadd (second : usable m rs2 = true) : LaneByLane e m rd k (opVadd rd rs1 rs2 k)
    fun p j => (p (elemAt m rs1 j) + p (elemAt m rs2 j)) % m.body.vmod :=
  ⟨_, sharewise_eq e mode (by simp [first, second]), fun _ =>
    ⟨h.addMod_eq _ _, fun shared => (if_neg shared).trans (h.addMod_eq _ _)⟩⟩

theorem laneByLane_vsub (second : usable m rs2 = true) : LaneByLane e m rd k (opVsub rd rs1 rs2 k)
    fun p j => (p (elemAt m rs1 j) + (m.body.vmod - p (elemAt m rs2 j) % m.body.vmod)) % m.body.vmod :=
  ⟨_, sharewise_eq e mode (by simp [first, second]), fun _ =>
    ⟨h.subMod_eq _ _, fun shared => (if_neg shared).trans (h.subMod_eq _ _)⟩⟩

theorem laneByLane_vneg : LaneByLane e m rd k (opVneg rd rs1 k)
    fun p j => (m.body.vmod - p (elemAt m rs1 j) % m.body.vmod) % m.body.vmod := by
  have negated (a : Nat) : subMod m 0 a = (m.body.vmod - a % m.body.vmod) % m.body.vmod := by rw [h.subMod_eq, Nat.zero_add]
  exact ⟨_, sharewise_eq e mode (by simp [first]), fun _ => ⟨negated _, fun shared => (if_neg shared).trans (negated _)⟩⟩

theorem laneByLane_vred : LaneByLane e m rd k (opVred rd rs1 k) fun p j => p (elemAt m rs1 j) % m.body.vmod := by
  have reduced (a : Nat) : canonical m (residue m a) = a % m.body.vmod := by rw [h.canonical_eq, h.residue_eq, Nat.mod_mod]
  have narrow : ¬ m.body.wide = true := by simp [h.wide]
  exact ⟨_, (if_neg narrow).trans (sharewise_eq e mode (by simp [first])), fun _ =>
    ⟨reduced _, fun shared => (if_neg shared).trans (reduced _)⟩⟩

theorem laneByLane_vmulc : LaneByLane e m rd k (opVmulc rd rs1 rs2 k)
    fun p j => p (elemAt m rs1 j) * (sreg m rs2).toNat % m.body.vmod := by
  have scaled (a : Nat) : mulMod m a (scalarOperand m (sreg m rs2)) = a * (sreg m rs2).toNat % m.body.vmod := by
    rw [h.mulMod_eq, h.scalarOperand_eq]
  exact ⟨_, sharewise_eq e mode (by simp [first]), fun _ => ⟨scaled _, fun shared => (if_neg shared).trans (scaled _)⟩⟩

end Arithmetic

section Public
variable (h : Narrow m) (mode : m.body.mode = .unshared) (unshared : ∀ r, vmode m r = .unshared)
include h mode unshared

theorem laneByLane_vmul : LaneByLane e m rd k (opVmul rd rs1 rs2 k)
    fun p j => p (elemAt m rs1 j) * p (elemAt m rs2 j) % m.body.vmod := by
  have oneIs : ¬ (!onePublic m rs1 rs2) = true := by simp [onePublic, unshared]
  refine ⟨_, (if_neg oneIs).trans (sharewise_eq e (by simp [mode]) fun r _ => usable_of_unshared (unshared r)), fun j =>
    ⟨?_, absurd mode⟩⟩
  simp [productOf, unshared, h.mulMod_eq, Nat.mul_comm]

theorem laneByLane_vmac : LaneByLane e m rd k (opVmac rd rs1 rs2 k)
    fun p j => (p (elemAt m rd j) + p (elemAt m rs1 j) * p (elemAt m rs2 j)) % m.body.vmod := by
  have oneIs : ¬ (!onePublic m rs1 rs2) = true := by simp [onePublic, unshared]
  refine ⟨_, (if_neg oneIs).trans (sharewise_eq e (by simp [mode]) fun r _ => usable_of_unshared (unshared r)), fun j =>
    ⟨?_, absurd mode⟩⟩
  simp [productOf, unshared, h.addMod_eq, h.mulMod_eq, Nat.mul_comm]

/-! ## Logic and shifts (R246) -/

theorem laneByLane_vand : LaneByLane e m rd k (opVand rd rs1 rs2 k)
    fun p j => (BitVec.ofNat 32 (p (elemAt m rs1 j)) &&& BitVec.ofNat 32 (p (elemAt m rs2 j))).toNat := by
  refine ⟨_, if_neg (by simp [mode, usable, unshared]), fun j => ⟨?_, absurd mode⟩⟩
  simp [unshared, h.toNat_ofNat_elemAt, Nat.and_comm]

theorem laneByLane_vor : LaneByLane e m rd k (opVor rd rs1 rs2 k)
    fun p j => (BitVec.ofNat 32 (p (elemAt m rs1 j)) ||| BitVec.ofNat 32 (p (elemAt m rs2 j))).toNat := by
  refine ⟨_, if_neg (by simp [mode, usable, unshared]), fun j => ⟨?_, absurd mode⟩⟩
  simp only [BitVec.toNat_or, h.toNat_ofNat_elemAt]

theorem laneByLane_vxor : LaneByLane e m rd k (opVxor rd rs1 rs2 k)
    fun p j => (BitVec.ofNat 32 (p (elemAt m rs1 j)) ^^^ BitVec.ofNat 32 (p (elemAt m rs2 j))).toNat := by
  refine ⟨_, if_neg (by simp [mode, usable, unshared]), fun j => ⟨?_, absurd mode⟩⟩
  simp only [BitVec.toNat_xor, h.toNat_ofNat_elemAt]

/-- A shift by less than the width, given what the shift function does to a word. -/
theorem laneByLane_vshift {shift : Nat → Nat → Nat → Nat} {g : W32 → W32} (below : n < 32)
    (shifts : ∀ w : W32, shift 32 n w.toNat = (g w).toNat) : LaneByLane e m rd k (onAdder rd [rs1] (vshift shift rd rs1 k n))
    fun p j => (g (BitVec.ofNat 32 (p (elemAt m rs1 j)))).toNat := by
  have bits : elemBits m = 32 := by simp [elemBits, h.wide]
  refine ⟨_, (if_neg (by simp [mode, usable, unshared])).trans (if_neg (by omega)), fun j => ⟨?_, absurd mode⟩⟩
  dsimp only
  rw [bits, ← shifts, h.toNat_ofNat_elemAt]

theorem vshift_of_wide {shift : Nat → Nat → Nat → Nat} (past : 32 ≤ n) : vshift shift rd rs1 k n e m = .error fltValue := by
  have bits : elemBits m = 32 := by simp [elemBits, h.wide]
  exact (if_neg (by simp [mode, usable, unshared])).trans (if_pos (by omega))

end Public

theorem shiftLeft_toNat (n : Nat) (w : W32) : shiftLeft 32 n w.toNat = (w <<< n).toNat := by
  rw [shiftLeft, BitVec.toNat_shiftLeft, Nat.shiftLeft_eq]

theorem shiftRight_toNat (n : Nat) (w : W32) : shiftRight 32 n w.toNat = (w >>> n).toNat := by
  rw [shiftRight, BitVec.toNat_ushiftRight, Nat.shiftRight_eq_div_pow]

theorem signedOf_toNat (w : W32) : signedOf 32 w.toNat = w.toInt := by
  rw [signedOf, BitVec.toInt_eq_toNat_cond]
  split <;> simp

theorem shiftArith_toNat (n : Nat) (w : W32) : shiftArith 32 n w.toNat = (w.sshiftRight n).toNat := by
  rw [shiftArith, signedOf_toNat, BitVec.sshiftRight, BitVec.toNat_ofInt, Int.shiftRight_eq_div_pow]
  simp

/-- The bits that a rotation carries round fill what its shift to the left leaves empty. -/
theorem rotateLeft_toNat (below : n < 32) (w : W32) : rotateLeft 32 n w.toNat = (w.rotateLeft n).toNat := by
  have carried : w.toNat / 2 ^ (32 - n) < 2 ^ n := by
    rw [Nat.div_lt_iff_lt_mul (Nat.two_pow_pos _), ← pow_add, Nat.add_sub_cancel' below.le]
    exact w.isLt
  have kept : w.toNat * 2 ^ n % 2 ^ 32 = (w.toNat % 2 ^ (32 - n)) <<< n := by
    rw [Nat.shiftLeft_eq, ← Nat.mul_mod_mul_right, ← pow_add, Nat.sub_add_cancel below.le]
  have round : w.toNat / 2 ^ (32 - n) < 2 ^ 32 := (Nat.div_le_self _ _).trans_lt w.isLt
  have whole : (w.toNat % 2 ^ (32 - n)) <<< n + w.toNat / 2 ^ (32 - n) < 2 ^ 32 := by
    rw [Nat.shiftLeft_add_eq_or_of_lt carried]
    exact Nat.or_lt_two_pow (kept ▸ Nat.mod_lt _ (by decide)) round
  rw [rotateLeft, BitVec.toNat_rotateLeft, Nat.mod_eq_of_lt below, Nat.shiftRight_eq_div_pow, Nat.shiftLeft_eq, kept,
    ← Nat.shiftLeft_add_eq_or_of_lt carried, Nat.add_mod, kept, Nat.mod_eq_of_lt round, Nat.mod_eq_of_lt whole]

/-! ## The obligation -/

/-- Settles O34: each instruction lane by lane, and what such an instruction leaves of the body, under a mask or without. -/
theorem unsharedArithmetic : Obligations.UnsharedArithmetic := by
  unfold Obligations.UnsharedArithmetic
  refine ⟨fun e m rd rs1 rs2 o f plain filled row => ?_,
    fun e m rd rs1 rs2 n o f plain filled => ⟨fun below row => ?_, fun past => ?_⟩,
    fun e m rd rs1 rs2 k plain filled field => ⟨fun unshared clean => ?_, fun secret => ?_⟩⟩
  all_goals
    have h := narrow_of_plainBody plain filled
    obtain ⟨mode, -, -, -, odd, modulus, modes⟩ := plain
    have arithmetic : m.body.mode ≠ .boolean := by simp [mode]
    have taken (r : Nat) : usable m r = true := usable_of_unshared (modes r)
    have reduced (a : Nat) : a % m.body.vmod < 2 ^ 32 := (Nat.mod_lt a (by omega)).trans (by omega)
  · simp only [List.mem_cons, Prod.mk.injEq, List.not_mem_nil, or_false] at row
    obtain ⟨rfl, rfl⟩ | ⟨rfl, rfl⟩ | ⟨rfl, rfl⟩ | ⟨rfl, rfl⟩ | ⟨rfl, rfl⟩ | ⟨rfl, rfl⟩ | ⟨rfl, rfl⟩ := row
    · exact (laneByLane_vadd h arithmetic (taken _) (taken _)).of_unmasked h mode fun _ => reduced _
    · exact (laneByLane_vsub h arithmetic (taken _) (taken _)).of_unmasked h mode fun _ => reduced _
    · exact (laneByLane_vneg h arithmetic (taken _)).of_unmasked h mode fun _ => reduced _
    · exact (laneByLane_vred h arithmetic (taken _)).of_unmasked h mode fun _ => reduced _
    · exact (laneByLane_vmul h mode modes).of_unmasked h mode fun _ => reduced _
    · exact (laneByLane_vmac h mode modes).of_unmasked h mode fun _ => reduced _
    · exact (laneByLane_vmulc h arithmetic (taken _)).of_unmasked h mode fun _ => reduced _
  · simp only [List.mem_cons, Prod.mk.injEq, List.not_mem_nil, or_false] at row
    obtain ⟨rfl, rfl⟩ | ⟨rfl, rfl⟩ | ⟨rfl, rfl⟩ | ⟨rfl, rfl⟩ | ⟨rfl, rfl⟩ | ⟨rfl, rfl⟩ | ⟨rfl, rfl⟩ := row
    · exact (laneByLane_vand h mode modes).of_unmasked h mode fun _ => BitVec.isLt _
    · exact (laneByLane_vor h mode modes).of_unmasked h mode fun _ => BitVec.isLt _
    · exact (laneByLane_vxor h mode modes).of_unmasked h mode fun _ => BitVec.isLt _
    · exact (laneByLane_vshift h mode modes below (shiftLeft_toNat n)).of_unmasked h mode fun _ => BitVec.isLt _
    · exact (laneByLane_vshift h mode modes below (shiftRight_toNat n)).of_unmasked h mode fun _ => BitVec.isLt _
    · exact (laneByLane_vshift h mode modes below (shiftArith_toNat n)).of_unmasked h mode fun _ => BitVec.isLt _
    · exact (laneByLane_vshift h mode modes below (rotateLeft_toNat below)).of_unmasked h mode fun _ => BitVec.isLt _
  · simp only [List.forall_mem_cons, List.not_mem_nil, false_implies, implies_true, and_true]
    have refused (shift) : vshift shift rd rs1 0 n e m = .error fltValue := vshift_of_wide h mode modes past
    exact ⟨refused _, refused _, refused _, refused _⟩
  · have lanes : LaneByLane e m rd k (opVadd rd rs1 rs2 k) _ := laneByLane_vadd h arithmetic (taken _) (taken _)
    obtain ⟨x, effect, only, -, values⟩ :=
      lanes.of_masked h mode (activeMask_of_public field unshared clean) fun _ => reduced _
    exact ⟨x, effect, only, values⟩
  · exact (sharewise_eq e arithmetic fun r _ => taken r).trans (elementwise_of_error (activeMask_of_secret field secret))

end Sys2Proof.Machine
end

section
/-! SUPPORT. Shares and the values that they hold, with O37 (09_parterre.md R220, R221; 10_vector_isa.md R246, R255, R256). -/
namespace Sys2Proof.Machine
open Sys2Proof

variable {e : Env} {m : Vm} {d : ShareMode} {rd rs1 rs2 r j q a b a' b' : Nat} {op : Op} {checked p : Bool}
  {v : (Nat × Nat × Bool → Nat) → Nat → Nat} {f : Nat → Nat × Nat × Bool}

theorem narrow_of_sharedBody (shared : sharedBody m d) (filled : m.body.vl ≠ 0) : Narrow m := by
  obtain ⟨-, -, wide, signed, fits, -⟩ := shared
  exact ⟨wide, signed, filled, fits⟩

/-! ## Sums of shares -/

theorem cast_sub_mod (positive : 0 < q) (a : Nat) : ((q - a % q : Nat) : ZMod q) = -a := by
  rw [Nat.cast_sub (Nat.mod_lt a positive).le, ZMod.natCast_self, ZMod.natCast_mod, zero_sub]

/-- Numbers with the same residue class have the same residue. -/
theorem mod_eq_of_cast (h : (a : ZMod q) = b) : a % q = b % q := (ZMod.natCast_eq_natCast_iff' a b q).mp h

theorem sum_of_sums : ((a + b) % q + (a' + b') % q) % q = ((a + a') % q + (b + b') % q) % q :=
  mod_eq_of_cast (by push_cast [ZMod.natCast_mod]; ring)

theorem sum_of_differences (positive : 0 < q) : ((a + (q - b % q)) % q + (a' + (q - b' % q)) % q) % q =
    ((a + a') % q + (q - (b + b') % q)) % q := by
  refine mod_eq_of_cast ?_
  simp only [Nat.cast_add, ZMod.natCast_mod, cast_sub_mod positive]
  ring

theorem sum_of_negations (positive : 0 < q) : ((q - a % q) % q + (q - a' % q) % q) % q = (q - (a + a') % q) % q := by
  refine mod_eq_of_cast ?_
  simp only [Nat.cast_add, ZMod.natCast_mod, cast_sub_mod positive]
  ring

theorem sum_of_products : (a * b % q + a' * b % q) % q = (a + a') % q * b % q :=
  mod_eq_of_cast (by push_cast [ZMod.natCast_mod]; ring)

/-! ## What shares hold (Table 9-1) -/

theorem joined_writeElems (filled : m.body.vl ≠ 0) (act : Nat → Bool) (x : Nat × Nat × Bool) :
    joined (writeElems m rd d act f) d x = joined m d x := by
  obtain ⟨slots, eq⟩ := writeElems_eq filled rd d act f
  rw [eq]
  rfl

/-- A written element holds what its shares hold, where they fit into words. -/
theorem valueAt_writeElems (h : Narrow m) (hj : j < m.body.vl) (fits : (f j).1 < 2 ^ 32 ∧ (f j).2.1 < 2 ^ 32) :
    valueAt (writeElems m rd d allActive f) rd j = joined m d (f j) := by
  obtain ⟨low, high⟩ := fits
  rw [valueAt, vmode_writeElems_same h.filled, joined_writeElems h.filled, elemAt_writeElems_of_active h hj rfl, stored,
    Nat.mod_eq_of_lt low, Nat.mod_eq_of_lt high]
  cases d <;> rfl

theorem valueAt_of_mode (mode : vmode m r = d) (j : Nat) : valueAt m r j = joined m d (elemAt m r j) := by rw [valueAt, mode]

theorem joined_arithmetic (h : Narrow m) (x : Nat × Nat × Bool) : joined m .arithmetic x = (x.1 + x.2.1) % m.body.vmod :=
  h.addMod_eq x.1 x.2.1

theorem valueAt_arithmetic (h : Narrow m) (mode : vmode m r = .arithmetic) (j : Nat) :
    valueAt m r j = ((elemAt m r j).1 + (elemAt m r j).2.1) % m.body.vmod := by
  rw [valueAt_of_mode mode, joined_arithmetic h]

/-- An instruction on each share leaves the sum of what it makes of the shares. -/
theorem LaneByLane.of_shares (lanes : LaneByLane e m rd 0 op v) (h : Narrow m) (mode : m.body.mode = .arithmetic)
    (small : ∀ p j, v p j < 2 ^ 32) : ∃ x, op.effect e m = .ok x ∧ onlyRegister m x rd ∧ vmode x rd = .arithmetic ∧
      ∀ j, j < m.body.vl → valueAt x rd j = (v (fun a => a.1) j + v (fun a => a.2.1) j) % m.body.vmod := by
  obtain ⟨g, effect, values⟩ := lanes
  refine ⟨_, effect.trans (elementwise_of_ok (activeMask_zero m)), onlyRegister_writeElems h, ?_, fun j hj => ?_⟩
  · rw [vmode_writeElems_same h.filled, mode]
  · obtain ⟨first, second⟩ := values j
    have second := second (by simp [mode])
    rw [valueAt_writeElems h hj ⟨first ▸ small _ j, second ▸ small _ j⟩, mode, joined_arithmetic h, first, second]

/-! ## Fresh shares (R255) -/

/-- What a value must be for shares in a mode to hold it: a residue, or a word. -/
def Holds (m : Vm) (d : ShareMode) (a : Nat) : Prop := a < 2 ^ 32 ∧ (d = .arithmetic → a < m.body.vmod)

/-- Fresh shares hold the value, whatever the mask is, and fit into words. -/
theorem joined_splitAs (shared : sharedBody m d) (h : Narrow m) (value : Holds m d a) :
    joined m d (splitAs m d a b p) = a ∧ (splitAs m d a b p).1 < 2 ^ 32 ∧ (splitAs m d a b p).2.1 < 2 ^ 32 := by
  obtain ⟨-, masked, -, -, -, odd, modulus⟩ := shared
  obtain ⟨word, residue⟩ := value
  have reduced (a : Nat) : a % m.body.vmod < 2 ^ 32 := (Nat.mod_lt a (by omega)).trans (by omega)
  cases d with
  | unshared => exact absurd rfl masked
  | arithmetic =>
    rw [joined_arithmetic h]
    simp only [splitAs, h.subMod_eq, h.canonical_eq]
    refine ⟨?_, reduced _, reduced _⟩
    rw [← Nat.mod_eq_of_lt (residue rfl)]
    refine mod_eq_of_cast ?_
    simp only [Nat.cast_add, ZMod.natCast_mod, cast_sub_mod (q := m.body.vmod) (by omega)]
    ring
  | boolean =>
    have mask : b % 2 ^ elemBits m < 2 ^ 32 := by
      simp only [elemBits, h.wide, Bool.false_eq_true, if_false]
      exact Nat.mod_lt _ (by decide)
    exact ⟨Nat.xor_xor_cancel_right a _, Nat.xor_lt_two_pow word mask, mask⟩

theorem holds_joined (shared : sharedBody m d) (h : Narrow m) (r j : Nat) : Holds m d (joined m d (elemAt m r j)) := by
  obtain ⟨-, masked, -, -, -, odd, modulus⟩ := shared
  obtain ⟨first, second⟩ := elemAt_lt (r := r) (j := j) h.wide
  cases d with
  | unshared => exact absurd rfl masked
  | arithmetic =>
    rw [joined_arithmetic h]
    have reduced := Nat.mod_lt ((elemAt m r j).1 + (elemAt m r j).2.1) (show m.body.vmod > 0 by omega)
    exact ⟨by omega, fun _ => reduced⟩
  | boolean => exact ⟨Nat.xor_lt_two_pow first second, nofun⟩

/-- A register of fresh shares holds the values that were split. -/
theorem valueAt_split (shared : sharedBody m d) (h : Narrow m) {a b : Nat → Nat} {p : Nat → Bool} (hj : j < m.body.vl)
    (value : Holds m d (a j)) :
    valueAt (writeElems m rd d allActive fun j => splitAs m d (a j) (b j) (p j)) rd j = a j := by
  obtain ⟨same, fits⟩ := joined_splitAs (b := b j) (p := p j) shared h value
  rw [valueAt_writeElems h hj fits, same]

theorem vsplit_keeps (shared : sharedBody m d) (h : Narrow m) (mode : vmode m rs1 = .unshared)
    (residues : ∀ j, j < m.body.vl → d = .arithmetic → (elemAt m rs1 j).1 < m.body.vmod) :
    ∃ x, (opVsplit rd rs1).effect e m = .ok x ∧ vmode x rd = d ∧ ∀ j, j < m.body.vl → valueAt x rd j = (elemAt m rs1 j).1 := by
  have ⟨own, masked, _⟩ := shared
  subst own
  refine ⟨_, if_neg (by simp [masked, mode]), vmode_writeElems_same h.filled, fun j hj => ?_⟩
  exact valueAt_split shared h hj ⟨(elemAt_lt h.wide).1, residues j hj⟩

theorem vrefresh_keeps (shared : sharedBody m d) (h : Narrow m) (mode : vmode m rs1 = d) :
    ∃ x, (opVrefresh rd rs1).effect e m = .ok x ∧ vmode x rd = d ∧ ∀ j, j < m.body.vl → valueAt x rd j = valueAt m rs1 j := by
  have ⟨own, masked, _⟩ := shared
  subst own
  refine ⟨_, if_neg (by simp [masked, mode]), vmode_writeElems_same h.filled, fun j hj => ?_⟩
  rw [valueAt_of_mode mode]
  exact valueAt_split shared h hj (holds_joined shared h rs1 j)

/-! ## Values made public (R255, R256) -/

theorem unmask_keeps (shared : sharedBody m d) (h : Narrow m) (mode : vmode m rs1 = d) (vendor : e.isOpen = false) :
    ∃ x, unmask checked rd rs1 0 e m = .ok x ∧ vmode x rd = .unshared ∧
      ∀ j, j < m.body.vl → (elemAt x rd j).1 = valueAt m rs1 j := by
  have ⟨own, masked, _⟩ := shared
  subst own
  refine ⟨_, (if_neg (by simp [masked, mode])).trans (if_neg (by simp [vendor])), vmode_writeElems_same h.filled, fun j hj => ?_⟩
  rw [elemAt_writeElems_of_active h hj rfl, stored, valueAt_of_mode mode, Nat.mod_eq_of_lt (holds_joined shared h rs1 j).1]

theorem vunmask_of_provenance (shared : sharedBody m d) (mode : vmode m rs1 = d) (opened : e.isOpen = true) (hj : j < m.body.vl)
    (prov : (elemAt m rs1 j).2.2 = true) : (opVunmask rd rs1 0).effect e m = .error fltProvenance := by
  obtain ⟨rfl, masked, -⟩ := shared
  have found : (List.range m.body.vl).any (fun j => allActive j && (elemAt m rs1 j).2.2) = true :=
    List.any_eq_true.mpr ⟨j, List.mem_range.mpr hj, by rw [prov]; rfl⟩
  exact (if_neg (by simp [masked, mode])).trans (if_pos (by rw [opened]; exact found))

theorem vpublish_of_open (opened : e.isOpen = true) : (opVpublish rd rs1 0).effect e m = .error fltPrivileged := if_pos opened

theorem vpublish_of_vendor (vendor : e.isOpen = false) : (opVpublish rd rs1 0).effect e m = unmask false rd rs1 0 e m :=
  if_neg (by simp [vendor])

/-! ## Masks made public -/

theorem mreg_setMreg_same (present : rd < m.body.mregs.length) (x : MaskReg) :
    mreg (setMreg m rd x) rd = { x with prov := x.prov || (mreg m rd).prov } := by
  simp [mreg, setMreg, present]

theorem unmaskMask_keeps (present : rd < m.body.mregs.length) (shared : (mreg m rs1).shared = true) (vendor : e.isOpen = false) :
    ∃ x, unmaskMask checked rd rs1 e m = .ok x ∧ (mreg x rd).s0 = (mreg m rs1).s0 ^^^ (mreg m rs1).s1 ∧
      (mreg x rd).shared = false ∧ x.body.vregs = m.body.vregs := by
  refine ⟨_, (if_neg (by simp [shared])).trans (if_neg (by simp [vendor])), ?_, ?_, rfl⟩ <;> rw [mreg_setMreg_same present]

theorem vpublishM_of_vendor (vendor : e.isOpen = false) : (opVpublishM rd rs1).effect e m = unmaskMask false rd rs1 e m :=
  if_neg (by simp [vendor])

/-! ## The obligation -/

/-- Arithmetic on shares keeps the sum of the shares. -/
theorem arithmetic_keeps {o : Op} {f : Nat → Nat → Nat} (shared : sharedBody m .arithmetic) (h : Narrow m)
    (first : vmode m rs1 = .arithmetic) (second : vmode m rs2 = .arithmetic)
    (row : (o, f) ∈ [(opVadd rd rs1 rs2 0, fun a b => (a + b) % m.body.vmod),
      (opVsub rd rs1 rs2 0, fun a b => (a + (m.body.vmod - b)) % m.body.vmod),
      (opVneg rd rs1 0, fun a _ => (m.body.vmod - a) % m.body.vmod), (opVred rd rs1 0, fun a _ => a),
      (opVmulc rd rs1 rs2 0, fun a _ => a * (sreg m rs2).toNat % m.body.vmod)]) :
    ∃ x, o.effect e m = .ok x ∧ onlyRegister m x rd ∧ vmode x rd = .arithmetic ∧
      ∀ j, j < m.body.vl → valueAt x rd j = f (valueAt m rs1 j) (valueAt m rs2 j) := by
  obtain ⟨mode, -, -, -, -, odd, modulus⟩ := shared
  have unBoolean : m.body.mode ≠ .boolean := by simp [mode]
  have taken1 := usable_of_mode (first.trans mode.symm)
  have taken2 := usable_of_mode (second.trans mode.symm)
  have positive : 0 < m.body.vmod := by omega
  have small (a : Nat) : a % m.body.vmod < 2 ^ 32 := (Nat.mod_lt a positive).trans (by omega)
  simp only [valueAt_arithmetic h first, valueAt_arithmetic h second]
  simp only [List.mem_cons, Prod.mk.injEq, List.not_mem_nil, or_false] at row
  obtain ⟨rfl, rfl⟩ | ⟨rfl, rfl⟩ | ⟨rfl, rfl⟩ | ⟨rfl, rfl⟩ | ⟨rfl, rfl⟩ := row
  · simpa only [sum_of_sums] using (laneByLane_vadd h unBoolean taken1 taken2).of_shares h mode fun _ _ => small _
  · simpa only [sum_of_differences positive] using
      (laneByLane_vsub h unBoolean taken1 taken2).of_shares h mode fun _ _ => small _
  · simpa only [sum_of_negations positive] using (laneByLane_vneg h unBoolean taken1).of_shares h mode fun _ _ => small _
  · simpa only [← Nat.add_mod] using (laneByLane_vred h unBoolean taken1).of_shares h mode fun _ _ => small _
  · simpa only [sum_of_products] using (laneByLane_vmulc h unBoolean taken1).of_shares h mode fun _ _ => small _

/-- Settles O37: sums of shares by `arithmetic_keeps`, fresh shares by `joined_splitAs`, what is made public by its value. -/
theorem sharesKeepValues : Obligations.SharesKeepValues := by
  unfold Obligations.SharesKeepValues
  refine ⟨fun e m rd rs1 rs2 o f shared filled first second row =>
      arithmetic_keeps shared (narrow_of_sharedBody shared filled) first second row,
    fun e m d rd rs1 shared filled => ?_, fun e m rd rs1 hrd eight => ?_⟩
  · have h := narrow_of_sharedBody shared filled
    refine ⟨vsplit_keeps shared h, vrefresh_keeps shared h, fun mode vendor => ?_, vpublish_of_open,
      fun j => vunmask_of_provenance shared⟩
    simp only [List.forall_mem_cons, List.not_mem_nil, false_implies, implies_true, and_true, vpublish_of_vendor vendor]
    exact ⟨unmask_keeps shared h mode vendor, unmask_keeps shared h mode vendor⟩
  · have present : rd < m.body.mregs.length := eight.symm ▸ hrd
    refine ⟨fun shared vendor => ?_, fun shared opened prov => ?_, fun unshared => if_pos (by simp [unshared]),
      fun opened => if_pos opened⟩
    · simp only [List.forall_mem_cons, List.not_mem_nil, false_implies, implies_true, and_true, vpublishM_of_vendor vendor]
      exact ⟨unmaskMask_keeps present shared vendor, unmaskMask_keeps present shared vendor⟩
    · exact (if_neg (by simp [shared])).trans (if_pos (by simp [opened, prov]))

end Sys2Proof.Machine
end

section
/-! SUPPORT. The fields that the decoder finds in the words of the instruction rows, with O32 (10_vector_isa.md R242, R246). -/
namespace Sys2Proof.Machine
open Sys2Proof

variable {major rd rs1 rs2 mask fn i n : Nat} {w : W32} {o : Op}

/-! ## Fields of a word (R242) -/

theorem bitsOf_eq (v hi lo : Nat) : bitsOf v hi lo = v / 2 ^ lo % 2 ^ (hi + 1 - lo) := by rw [bitsOf, Nat.shiftRight_eq_div_pow]

theorem bitOf_eq (v i : Nat) : bitOf v i = decide (v / 2 ^ i % 2 = 1) := Nat.testBit_eq_decide_div_mod_eq

theorem bit_lt (b : Bool) : bit b < 2 := by cases b <;> decide

/-- The fields of format V in a word (Table 10-2). -/
structure HasFields (w : W32) (major rd rs1 rs2 mask fn : Nat) : Prop where
  major : bitsOf w.toNat 31 26 = major
  rd : bitsOf w.toNat 25 21 = rd
  rs1 : bitsOf w.toNat 20 16 = rs1
  rs2 : bitsOf w.toNat 15 11 = rs2
  mask : bitsOf w.toNat 10 8 = mask
  fn : bitsOf w.toNat 7 0 = fn

theorem hasFields_encodeV (h : major < 64 ∧ rd < 32 ∧ rs1 < 32 ∧ rs2 < 32 ∧ mask < 8 ∧ fn < 256) :
    HasFields (encodeV major rd rs1 rs2 mask fn) major rd rs1 rs2 mask fn := by
  constructor <;> simp only [bitsOf_eq, encodeV, BitVec.toNat_ofNat] <;> omega

/-- A word of format V decodes as every word with its fields does. -/
theorem decodeOp_encodeV (h : major < 64 ∧ rd < 32 ∧ rs1 < 32 ∧ rs2 < 32 ∧ mask < 8 ∧ fn < 256)
    (decodes : ∀ w, HasFields w major rd rs1 rs2 mask fn → decodeOp w = o) :
    decodeOp (encodeV major rd rs1 rs2 mask fn) = o :=
  decodes _ (hasFields_encodeV h)

/-- Format S is format V whose lowest 16 bits are the immediate. -/
theorem decodeOp_encodeS (h : major < 64 ∧ rd < 32 ∧ rs1 < 32) (imm : W16)
    (decodes : ∀ w rs2 mask fn, HasFields w major rd rs1 rs2 mask fn → BitVec.ofNat 16 w.toNat = imm → decodeOp w = o) :
    decodeOp (encodeS major rd rs1 imm.toNat) = o := by
  have same : encodeS major rd rs1 imm.toNat =
      encodeV major rd rs1 (imm.toNat / 2048) (imm.toNat / 256 % 8) (imm.toNat % 256) := by
    rw [encodeS, encodeV]
    exact congrArg (BitVec.ofNat 32) (by omega)
  refine decodes _ _ _ _ (same ▸ hasFields_encodeV (by omega)) (BitVec.eq_of_toNat_eq ?_)
  simp only [encodeS, BitVec.toNat_ofNat]
  omega

/-- Format B is format V without rd, whose lowest 11 bits are the offset. -/
theorem decodeOp_encodeB (h : major < 64 ∧ rs1 < 32 ∧ rs2 < 32) (offset : BitVec 11)
    (decodes : ∀ w mask fn, HasFields w major 0 rs1 rs2 mask fn → BitVec.ofNat 11 w.toNat = offset → decodeOp w = o) :
    decodeOp (encodeB major rs1 rs2 offset.toNat) = o := by
  have same : encodeB major rs1 rs2 offset.toNat = encodeV major 0 rs1 rs2 (offset.toNat / 256) (offset.toNat % 256) := by
    rw [encodeB, encodeV]
    exact congrArg (BitVec.ofNat 32) (by omega)
  refine decodes _ _ _ (same ▸ hasFields_encodeV (by omega)) (BitVec.eq_of_toNat_eq ?_)
  simp only [encodeB, BitVec.toNat_ofNat]
  omega

/-! ## Opcodes whose fn field has parts (Table 10-4) -/

/-- A shift's kind is above its amount. -/
theorem decodeOp_shift (h : HasFields w 0x0B rd rs1 0 mask (64 * i + n)) (below : n < 64) :
    decodeOp w = if i = 0 then opVsll rd rs1 mask n else if i = 1 then opVsrl rd rs1 mask n
      else if i = 2 then opVsra rd rs1 mask n else opVrol rd rs1 mask n := by
  have kind : (64 * i + n) / 64 = i := by omega
  have amount : (64 * i + n) % 64 = n := by omega
  simp [decodeOp, h.major, h.rd, h.rs1, h.rs2, h.mask, h.fn, given, decodeShift, kind, amount]

/-- A butterfly's kind is bit 6, and bit 7 says whether its twiddles come from the stream. -/
theorem decodeOp_butterfly {stream gs : Bool} (h : HasFields w 0x0C rd rs1 rs2 mask (128 * bit stream + 64 * bit gs + n))
    (below : n < 64) :
    decodeOp w = if gs then opVbflyGs rd rs1 rs2 mask stream n else opVbflyCt rd rs1 rs2 mask stream n := by
  have low : (128 * bit stream + 64 * bit gs + n) % 64 = n := by omega
  have kind : bitOf (128 * bit stream + 64 * bit gs + n) 6 = gs := by
    rw [bitOf_eq, show _ / 2 ^ 6 % 2 = bit gs by have := bit_lt gs; omega]
    cases gs <;> rfl
  have source : bitOf (128 * bit stream + 64 * bit gs + n) 7 = stream := by
    rw [bitOf_eq, show _ / 2 ^ 7 % 2 = bit stream by have := bit_lt gs; have := bit_lt stream; omega]
    cases stream <;> rfl
  simp only [decodeOp, h.major, h.rd, h.rs1, h.rs2, h.mask, h.fn, kind, source, low]

theorem decodeOp_core (h : HasFields w 0x10 0 rs1 0 0 fn) : decodeOp w = decodeCore rs1 fn := by
  simp [decodeOp, h.major, h.rd, h.rs1, h.rs2, h.mask, h.fn, given]

theorem decodeCore_init (core : Fin 2) (shake256 : Bool) :
    decodeCore 0 (32 * bit shake256 + 16 * core.val) = opVxofInit core.val shake256 := by
  fin_cases core <;> cases shake256 <;> rfl

theorem decodeCore_absorb (core : Fin 2) : decodeCore rs1 (0x40 + 16 * core.val) = opVxofAbsorb rs1 core.val := by
  fin_cases core <;> rfl

theorem decodeCore_finalise (core : Fin 2) : decodeCore 0 (0x80 + 16 * core.val) = opVxofFinalise core.val := by
  fin_cases core <;> rfl

theorem decodeOp_vsampu {core : Fin 2} (h : HasFields w 0x11 rd 0 0 0 (16 * core.val + n)) (below : n < 8) :
    decodeOp w = opVsampu rd core.val n := by
  have unit : (16 * core.val + n) / 16 = core.val := by omega
  have dest : (16 * core.val + n) % 8 = n := by omega
  have admitted : 16 * core.val + n < 32 ∧ (16 * core.val + n) % 16 < 8 := by omega
  simp only [decodeOp, h.major, h.rd, h.rs1, h.rs2, h.mask, h.fn, given, unit, dest, admitted, and_self, decide_true, if_true]

theorem decodeOp_vcbd {core : Fin 2} (h : HasFields w 0x12 rd 0 0 0 (16 * core.val + n)) (below : n < 4) :
    decodeOp w = opVcbd rd core.val n := by
  have unit : (16 * core.val + n) / 16 = core.val := by omega
  have eta : (16 * core.val + n) % 4 = n := by omega
  have admitted : 16 * core.val + n < 32 ∧ (16 * core.val + n) % 16 < 4 := by omega
  simp only [decodeOp, h.major, h.rd, h.rs1, h.rs2, h.mask, h.fn, given, unit, eta, admitted, and_self, decide_true, if_true]

theorem decodeOp_callm {action : Nat} (h : HasFields w 0x32 rd rs1 rs2 mask (64 * action + n)) (below : n < 64) :
    decodeOp w = opCallm action rd rs1 rs2 mask n := by
  have kind : (64 * action + n) / 64 = action := by omega
  have length : (64 * action + n) % 64 = n := by omega
  simp only [decodeOp, h.major, h.rd, h.rs1, h.rs2, h.mask, h.fn, kind, length]

/-! ## The obligation -/

/-- A field of three bits names one of the eight mask registers. -/
theorem maskField_lt (x : BitVec 3) : x.toNat < 8 := x.isLt

/-- Settles O32, by the format of the row's word: in most rows the opcode and the fields say the operation at once, and in
those whose fn field has parts the lemma on that opcode does. -/
theorem wordsDecodeToRows : Obligations.WordsDecodeToRows := by
  unfold Obligations.WordsDecodeToRows
  intro c u w o row
  unfold isaOp at row
  split at row <;> cases row
  -- COMMIT, the one word without fields
  case h_58 => rfl
  -- Format S: SLI, SLIH and SADDI
  case h_53 | h_54 | h_55 =>
    refine decodeOp_encodeS (by omega) _ fun w rs2 mask fn h low => ?_
    simp [decodeOp, h.major, h.rd, h.rs1, low, given]
  -- Format B: SBNE and SBEQ
  case h_56 | h_57 =>
    refine decodeOp_encodeB (by omega) _ fun w mask fn h low => ?_
    simp [decodeOp, h.major, h.rd, h.rs1, h.rs2, low, given]
  -- Format V with parts in fn: the shifts, the butterflies, the cores, the samplers and CALLM
  case h_17 amount => exact decodeOp_encodeV (by omega) fun w h => decodeOp_shift (i := 0) h amount.isLt
  case h_18 amount => exact decodeOp_encodeV (by omega) fun w h => decodeOp_shift (i := 1) h amount.isLt
  case h_19 amount => exact decodeOp_encodeV (by omega) fun w h => decodeOp_shift (i := 2) h amount.isLt
  case h_20 amount => exact decodeOp_encodeV (by omega) fun w h => decodeOp_shift (i := 3) h amount.isLt
  case h_21 stream low =>
    have bound := bit_lt stream
    exact decodeOp_encodeV (by omega) fun w h => decodeOp_butterfly (gs := false) h low.isLt
  case h_22 stream low =>
    have bound := bit_lt stream
    exact decodeOp_encodeV (by omega) fun w h => decodeOp_butterfly (gs := true) h low.isLt
  case h_26 core shake256 =>
    have bound := bit_lt shake256
    exact decodeOp_encodeV (by omega) fun w h => (decodeOp_core h).trans (decodeCore_init core shake256)
  case h_27 core => exact decodeOp_encodeV (by omega) fun w h => (decodeOp_core h).trans (decodeCore_absorb core)
  case h_28 core => exact decodeOp_encodeV (by omega) fun w h => (decodeOp_core h).trans (decodeCore_finalise core)
  case h_29 dest => exact decodeOp_encodeV (by omega) fun w h => decodeOp_vsampu h dest.isLt
  case h_30 eta => exact decodeOp_encodeV (by omega) fun w h => decodeOp_vcbd h eta.isLt
  case h_60 length => exact decodeOp_encodeV (by omega) fun w h => decodeOp_callm (action := 0) h length.isLt
  case h_61 length => exact decodeOp_encodeV (by omega) fun w h => decodeOp_callm (action := 1) h length.isLt
  case h_62 length => exact decodeOp_encodeV (by omega) fun w h => decodeOp_callm (action := 2) h length.isLt
  case h_63 length => exact decodeOp_encodeV (by omega) fun w h => decodeOp_callm (action := 3) h length.isLt
  -- VXFER, whose direction stands in the mask field
  case h_6 toSwm rowLength =>
    have direction := bit_lt toSwm
    refine decodeOp_encodeV (by omega) fun w h => ?_
    simp [decodeOp, h.major, h.rd, h.rs1, h.rs2, h.mask, h.fn, given, direction]
  -- Every other row of format V
  all_goals
    refine decodeOp_encodeV (by omega) fun w h => ?_
    simp [decodeOp, h.major, h.rd, h.rs1, h.rs2, h.mask, h.fn, given, decodeAdder, decodeMultiplier, decodeLogic, decodeShare,
      decodeGadget, decodeScalar, maskField_lt]

end Sys2Proof.Machine
end

section
/-! SUPPORT. Configuration, scalars and control of a routine, with O39 (10_vector_isa.md R244 to R246, R258, R259). -/
namespace Sys2Proof.Machine
open Sys2Proof

variable {e : Env} {m : Vm} {rd rs1 rs2 r t alg len act lo hi : Nat} {off : BitVec 11}
  {taken : W32 → W32 → Bool}

/-! ## Configuration (R244) -/

theorem vsettype_of_reserved (reserved : t % 4 = 3 ∨ 16 ≤ t) : (opVsettype t).effect e m = .error fltValue := if_pos reserved

/-- The mode that bits 1 and 0 of a type name. -/
theorem typeMode_eq (legal : t % 4 ≠ 3) :
    (if t % 4 = 0 then ShareMode.unshared else if t % 4 = 1 then .arithmetic else .boolean) =
      [ShareMode.unshared, .arithmetic, .boolean].getD (t % 4) .unshared := by
  have below : t % 4 < 3 := by omega
  generalize t % 4 = n at below
  interval_cases n <;> rfl

theorem vsettype_of_legal (legal : t % 4 ≠ 3) (small : t < 16) : ∃ x, (opVsettype t).effect e m = .ok x ∧
    x.body.mode = [ShareMode.unshared, .arithmetic, .boolean].getD (t % 4) .unshared ∧ x.body.wide = decide (4 ≤ t % 8) ∧
    x.body.signed = decide (8 ≤ t) ∧ x.body.vregs = m.body.vregs ∧
    (m.body.vl ≤ vlMax m.body.wide → x.body.vl ≤ vlMax x.body.wide) ∧ (x.body.wide = m.body.wide → x.body.vl = m.body.vl) := by
  refine ⟨_, if_neg (by omega), typeMode_eq legal, ?_, ?_, rfl, fun fits => ?_, fun same => if_pos same⟩
  · exact (bitOf_eq t _).trans (decide_eq_decide.mpr (by omega))
  · exact (bitOf_eq t _).trans (decide_eq_decide.mpr (by omega))
  · dsimp only
    split
    case isTrue same => rwa [same]
    case isFalse => exact min_le_right _ _

/-! ## Scalars (R245) -/

theorem sreg_setSreg (present : rd < m.body.sregs.length) (v : W32) :
    sreg (setSreg m rd v) r = if r = rd ∧ rd ≠ 0 then v else sreg m r := by
  unfold setSreg
  split
  case isTrue zero => simp [zero]
  case isFalse nonzero =>
    by_cases own : r = rd
    · simp [sreg, own, nonzero, present]
    · simp [sreg, own, List.getElem?_set_ne (Ne.symm own)]

/-- Of a body a written scalar changes the scalars alone. -/
theorem setSreg_eq (m : Vm) (rd : Nat) (v : W32) : ∃ scalars, setSreg m rd v = { m with body.sregs := scalars } := by
  unfold setSreg
  split
  · exact ⟨m.body.sregs, rfl⟩
  · exact ⟨_, rfl⟩

/-- A scalar instruction writes its value and leaves the rest of the body. -/
theorem setSreg_spec (length : m.body.sregs.length = 32) (hrd : rd < 32) (v : W32) :
    (∀ r, r < 32 → sreg (setSreg m rd v) r = if r = rd ∧ rd ≠ 0 then v else sreg m r) ∧
      (setSreg m rd v).body.vregs = m.body.vregs ∧ (setSreg m rd v).body.mregs = m.body.mregs ∧
      (setSreg m rd v).plot = m.plot ∧ (setSreg m rd v).body.pc = m.body.pc := by
  refine ⟨fun r _ => sreg_setSreg (length ▸ hrd) v, ?_⟩
  obtain ⟨scalars, eq⟩ := setSreg_eq m rd v
  rw [eq]
  exact ⟨rfl, rfl, rfl, rfl⟩

/-! ## Branches (R259, R268) -/

/-- The words in which a branch's target lies: those of the patch segment where the body is in one, else the routine's. -/
def branchExtent (e : Env) (m : Vm) (lo hi : Nat) : Prop :=
  (m.body.seg = none ∧ lo = e.start ∧ hi = e.start + e.words) ∨ ∃ g, m.body.seg = some g ∧ lo = g.first ∧ hi = g.last + 1

theorem ite_not_and_decide {α : Type} {p q : Prop} [Decidable p] [Decidable q] {a b : α} :
    (if (!(decide p && decide q)) = true then a else b) = if p ∧ q then b else a := by
  by_cases inside : p ∧ q <;> simp [inside]

theorem branch_eq (extent : branchExtent e m lo hi) : branch taken rs1 rs2 off e m =
    if (lo : Int) ≤ m.body.pc + off.toInt ∧ (m.body.pc : Int) + off.toInt < hi then
      .ok (if taken (sreg m rs1) (sreg m rs2) then { m with body.pc := ((m.body.pc : Int) + off.toInt).toNat } else m)
    else .error fltBranch := by
  obtain ⟨seg, rfl, rfl⟩ | ⟨g, seg, rfl, rfl⟩ := extent <;> simp only [branch, seg, ite_not_and_decide]

theorem branch_of_inside (extent : branchExtent e m lo hi) (above : (lo : Int) ≤ m.body.pc + off.toInt)
    (below : (m.body.pc : Int) + off.toInt < hi) : branch taken rs1 rs2 off e m =
      .ok (if taken (sreg m rs1) (sreg m rs2) then { m with body.pc := ((m.body.pc : Int) + off.toInt).toNat } else m) :=
  (branch_eq extent).trans (if_pos ⟨above, below⟩)

theorem branch_of_outside (extent : branchExtent e m lo hi)
    (outside : (m.body.pc : Int) + off.toInt < lo ∨ (hi : Int) ≤ m.body.pc + off.toInt) :
    branch taken rs1 rs2 off e m = .error fltBranch :=
  (branch_eq extent).trans (if_neg (by omega))

theorem sbne_eq_branch : (opSbne rs1 rs2 off).effect = branch (fun a b => decide (a ≠ b)) rs1 rs2 off := rfl

theorem sbeq_eq_branch : (opSbeq rs1 rs2 off).effect = branch (fun a b => decide (a = b)) rs1 rs2 off := rfl

/-! ## END and CALLM (R258, R259) -/

theorem end_of_fits (small : (sreg m rs2).toNat ≤ e.maxOut)
    (inside : positionByte m (sreg m rs1).toNat + (sreg m rs2).toNat ≤ 8 * plotWords) (vendor : e.isOpen = false)
    {fn : Nat} (status : fn = 0 ∨ fn = 0x12) :
    (opEnd rs1 rs2 0 fn).effect e m = .ok { m with
      body.ended := true
      body.outcome := some (if fn = 0x12 then .verifyFail else .ok, positionByte m (sreg m rs1).toNat, (sreg m rs2).toNat) } := by
  have legal : ¬(e.maxOut < (sreg m rs2).toNat ∨ (fn ≠ 0 ∧ fn ≠ 0x12)) := by omega
  refine (if_neg legal).trans ?_
  simp [regionOk, inside, vendor]

theorem end_of_tooLong (long : e.maxOut < (sreg m rs2).toNat) : (opEnd rs1 rs2 0 0).effect e m = .error fltValue :=
  if_pos (.inl long)

/-- A digest or a SHAKE output of at most `8 (len + 1)` bytes fits where both do. -/
theorem callmOutput_le : (callmDigest alg).getD (8 * (len + 1)) ≤ 8 * (len + 1) + 64 := by
  unfold callmDigest
  split <;> simp only [Option.getD_some, Option.getD_none] <;> omega

theorem callm_of_legal (algorithm : alg < 6) (action : act = 0 ∨ act = 3 ∨ act < 4 ∧ ∃ z, e.maze = some z ∧ z.alg = alg)
    (next : e.next = commitWord) (vendor : e.isOpen = false)
    (source : positionByte m (sreg m rs1).toNat + (sreg m rs2).toNat ≤ 8 * plotWords)
    (destination : positionByte m (sreg m rd).toNat + 8 * (len + 1) + 64 ≤ 8 * plotWords) :
    ∃ c, (opCallm act rd rs1 rs2 alg len).effect e m = .ok { m with body.callm := some c } ∧ c.action = act ∧ c.alg = alg ∧
      c.data = Memory.readBytes m.plot.mem (positionByte m (sreg m rs1).toNat) (sreg m rs2).toNat := by
  have output : (callmDigest alg).getD (8 * (len + 1)) ≤ 8 * (len + 1) + 64 := callmOutput_le
  have fits : positionByte m (sreg m rd).toNat + (callmDigest alg).getD (8 * (len + 1)) ≤ 8 * plotWords := by omega
  have context (running : ¬(act = 0 ∨ act = 3)) : (e.maze.any fun z => decide (z.alg = alg)) = true := by
    obtain ⟨-, z, maze, own⟩ := (or_assoc.mpr action).resolve_left running
    simp [maze, own]
  have known : ¬(!decide (act = 0 ∨ act = 3) && !(e.maze.any fun z => decide (z.alg = alg))) = true := by simpa using context
  have inPlot : ¬(!regionOk (positionByte m (sreg m rs1).toNat) (sreg m rs2).toNat || (decide (2 ≤ act) &&
      !regionOk (positionByte m (sreg m rd).toNat) ((callmDigest alg).getD (8 * (len + 1))))) = true := by
    simp [regionOk, source, fits]
  exact ⟨_, (if_neg (not_not.mpr next)).trans ((if_neg (Nat.not_le.mpr algorithm)).trans ((if_neg known).trans
    ((if_neg inPlot).trans (if_neg (by simp [vendor]))))), rfl, rfl, rfl⟩

theorem callm_of_noCommit (next : e.next ≠ commitWord) : (opCallm act rd rs1 rs2 alg len).effect e m = .error fltIllegal :=
  if_pos next

/-! ## The obligation -/

/-- Settles O39: the types, the scalars and the branches by what each may do, END and CALLM where nothing refuses them. -/
theorem scalarsAndControl : Obligations.ScalarsAndControl := by
  unfold Obligations.ScalarsAndControl
  refine ⟨fun e m rd rs1 => ?_, fun e m rd rs1 rs2 imm o v length hrd row => ?_, fun e m rs1 rs2 off => ?_⟩
  · exact ⟨rfl, fun t => vsettype_of_reserved, fun t => vsettype_of_legal, fun odd large small => if_neg (by omega),
      fun bad => if_pos bad⟩
  · simp only [List.mem_cons, Prod.mk.injEq, List.not_mem_nil, or_false] at row
    obtain ⟨rfl, rfl⟩ | ⟨rfl, rfl⟩ | ⟨rfl, rfl⟩ | ⟨rfl, rfl⟩ | ⟨rfl, rfl⟩ | ⟨rfl, rfl⟩ | ⟨rfl, rfl⟩ | ⟨rfl, rfl⟩ | ⟨rfl, rfl⟩ |
      ⟨rfl, rfl⟩ := row <;> exact ⟨_, rfl, setSreg_spec length hrd _⟩
  · rw [sbne_eq_branch, sbeq_eq_branch]
    refine ⟨fun lo hi extent => ⟨fun above below => ?_, fun outside => ?_⟩, rfl,
      fun small inside vendor => ⟨end_of_fits small inside vendor (.inl rfl), end_of_fits small inside vendor (.inr rfl)⟩,
      end_of_tooLong, fun rd alg len act => callm_of_legal, fun rd alg len act => callm_of_noCommit⟩
    · rw [branch_of_inside extent above below, branch_of_inside extent above below]
      by_cases same : sreg m rs1 = sreg m rs2 <;> simp [same]
    · exact ⟨branch_of_outside extent outside, branch_of_outside extent outside⟩

end Sys2Proof.Machine
end

section
/-! SUPPORT. Elements and rows in the plot and in SWM, and the words of a key, with O35 (10_vector_isa.md R243, R249, R250,
R257; 11_control_stores.md R281). -/
namespace Sys2Proof.Machine
open Sys2Proof

variable {e : Env} {m : Vm} {rd rs1 rs2 fn i d n row : Nat} {base stride : W32} {key : List Byte} {pos : Nat → Int}
  {js : List Nat} {mem : Memory} {dst : Nat → Nat} {bytes : Nat → List Byte}

/-! ## Positions of unshared 32-bit elements (R243) -/

theorem positionHalves_plain (mode : m.body.mode = .unshared) (wide : m.body.wide = false) (k : Nat) :
    positionHalves m k = ([k], []) := by simp [positionHalves, mode, wide]

theorem nonneg_of_positionOk {k : Int} (ok : positionOk m k = true) : 0 ≤ k := by
  simp only [positionOk, Bool.and_eq_true, decide_eq_true_eq] at ok
  exact ok.1

/-- With a stride other than 0 two elements never share a position. -/
theorem position_injective (moves : stride.toInt ≠ 0) : Function.Injective (position m base stride) := by
  intro i j same
  have steps : (i : Int) * stride.toInt = j * stride.toInt := by simpa [position] using same
  exact_mod_cast mul_right_cancel₀ moves steps

theorem halvesValue_nil (p : Plot) : halvesValue p [] = 0 := rfl

theorem halvesValue_single (p : Plot) (h : Nat) : halvesValue p [h] = (p.half h).toNat := by
  simp only [halvesValue, List.flatMap_cons, List.flatMap_nil, List.append_nil, leNat_leBytes]
  exact Nat.mod_eq_of_lt (p.half h).isLt

/-- Every element of a body has its position in the plot. -/
def allInside (m : Vm) (base stride : W32) : Bool := (List.range m.body.vl).all fun j => positionOk m (position m base stride j)

theorem all_positionOk (m : Vm) (base stride : W32) :
    ((List.range m.body.vl).all fun j => positionOk m (position m base stride j)) = allInside m base stride := rfl

theorem allInside_iff :
    allInside m base stride = true ↔ ∀ j, j < m.body.vl → positionOk m (position m base stride j) = true := by
  simp [allInside]

theorem not_allInside {j : Nat} (hj : j < m.body.vl) (outside : positionOk m (position m base stride j) = false) :
    ¬ allInside m base stride = true :=
  fun inside => absurd (allInside_iff.mp inside j hj) (by simp [outside])

/-! ## The record of first reads and writes (R281) -/

/-- A body with another record of first reads. -/
def withReads (m : Vm) (read : List Nat) : Vm := { m with body.firstRead := read }

theorem setElem_withReads (m : Vm) (read : List Nat) (r j : Nat) (v : Nat × Nat × Bool) :
    setElem (withReads m read) r j v = withReads (setElem m r j v) read := by
  unfold setElem withReads
  dsimp only
  split <;> rfl

theorem noteRead_eq (m : Vm) (h : Nat) : ∃ read, noteRead m h = withReads m read := by
  unfold noteRead
  split
  · exact ⟨m.body.firstRead, rfl⟩
  · exact ⟨_, rfl⟩

theorem noteWrite_eq (m : Vm) (h : Nat) : ∃ written, noteWrite m h = { m with body.firstWritten := written } := by
  unfold noteWrite
  split
  · exact ⟨m.body.firstWritten, rfl⟩
  · exact ⟨_, rfl⟩

theorem foldl_noteRead_eq (m : Vm) (hs : List Nat) : ∃ read, hs.foldl noteRead m = withReads m read := by
  refine foldl_keeps (fun x : Vm => ∃ read, x = withReads m read) ?_ _ ⟨m.body.firstRead, rfl⟩
  rintro _ h ⟨read, rfl⟩
  exact noteRead_eq _ h

theorem foldl_noteWrite_eq (m : Vm) (hs : List Nat) :
    ∃ written, hs.foldl noteWrite m = { m with body.firstWritten := written } := by
  refine foldl_keeps (fun x : Vm => ∃ written, x = { m with body.firstWritten := written }) ?_ _ ⟨m.body.firstWritten, rfl⟩
  rintro _ h ⟨written, rfl⟩
  exact noteWrite_eq _ h

/-! ## VSTS (R249) -/

/-- Of a body an unshared element stored changes its half of the plot and the record of first writes. -/
theorem storeElem_plain (mode : m.body.mode = .unshared) (wide : m.body.wide = false) (rd j : Nat) (k : Int) :
    ∃ written, storeElem m rd j k = { m with
      body.firstWritten := written
      plot := m.plot.putHalf k.toNat (BitVec.ofNat 32 (elemAt m rd j).1) (elemAt m rd j).2.2 } := by
  obtain ⟨written, eq⟩ := noteWrite_eq m k.toNat
  refine ⟨written, ?_⟩
  simp only [storeElem, positionHalves_plain mode wide, putHalves, eq]

/-- Stores to halves that differ, none of them read first, put each element into its half and leave every other half. -/
theorem storeAll_plain (mode : m.body.mode = .unshared) (wide : m.body.wide = false)
    (unread : ∀ h, m.body.firstRead.contains h = false) (wf : Memory.wf m.plot.mem = true)
    (distinct : (js.map fun j => (pos j).toNat).Nodup) :
    ∃ written p, storeAll m rd pos js = .ok { m with body.firstWritten := written, plot := p } ∧
      (∀ j ∈ js, p.half (pos j).toNat = BitVec.ofNat 32 (elemAt m rd j).1) ∧
      ∀ h, (∀ j ∈ js, (pos j).toNat ≠ h) → p.half h = m.plot.half h := by
  induction js generalizing m with
  | nil => exact ⟨m.body.firstWritten, m.plot, rfl, nofun, fun _ _ => rfl⟩
  | cons j js ih =>
    obtain ⟨fresh, distinct⟩ := List.nodup_cons.mp distinct
    have apart : ∀ k ∈ js, (pos k).toNat ≠ (pos j).toNat := fun k hk same => fresh (List.mem_map.mpr ⟨k, hk, same⟩)
    obtain ⟨first, stored⟩ := storeElem_plain mode wide rd j (pos j)
    obtain ⟨written, p, rest, values, others⟩ :=
      ih (m := storeElem m rd j (pos j)) (stored ▸ mode) (stored ▸ wide) (stored ▸ unread) (stored ▸ Plot.wf_putHalf _ _ _ wf)
        distinct
    rw [stored] at rest values others
    refine ⟨written, p, ?_, ?_, fun h other => ?_⟩
    · rw [storeAll, if_neg (by simp [unread, -List.contains_eq_mem]), stored, rest]
    · refine List.forall_mem_cons.mpr ⟨?_, values⟩
      rw [others _ apart]
      exact Plot.half_putHalf_same _ _ _ wf
    · obtain ⟨own, others'⟩ := List.forall_mem_cons.mp other
      rw [others h others']
      exact Plot.half_putHalf_ne _ _ _ own.symm

theorem filter_allActive (l : List Nat) : l.filter allActive = l := List.filter_eq_self.mpr fun _ _ => rfl

theorem vsts_eq (plain : plainBody m) : (opVsts rd rs1 rs2 0).effect e m =
    if allInside m (sreg m rs1) (sreg m rs2) then
      storeAll m rd (position m (sreg m rs1) (sreg m rs2)) (List.range m.body.vl)
    else .error fltPlotBound := by
  obtain ⟨-, -, -, -, -, -, modes⟩ := plain
  change vsts rd rs1 rs2 0 e m = _
  simp only [vsts, activeMask_zero, filter_allActive, usable_of_unshared (modes rd), all_positionOk]
  cases allInside m (sreg m rs1) (sreg m rs2) <;> rfl

theorem vsts_stores (plain : plainBody m)
    (inside : ∀ j, j < m.body.vl → positionOk m (position m (sreg m rs1) (sreg m rs2) j) = true)
    (unread : ∀ h, m.body.firstRead.contains h = false) (moves : (sreg m rs2).toInt ≠ 0) (wf : Memory.wf m.plot.mem = true) :
    ∃ x, (opVsts rd rs1 rs2 0).effect e m = .ok x ∧
      (∀ j, j < m.body.vl → (x.plot.half (position m (sreg m rs1) (sreg m rs2) j).toNat).toNat = (elemAt m rd j).1) ∧
      (∀ h, (∀ j, j < m.body.vl → (position m (sreg m rs1) (sreg m rs2) j).toNat ≠ h) → x.plot.half h = m.plot.half h) ∧
      x.body.vregs = m.body.vregs ∧ x.body.sregs = m.body.sregs := by
  have ⟨mode, wide, _⟩ := plain
  have distinct : ((List.range m.body.vl).map fun j => (position m (sreg m rs1) (sreg m rs2) j).toNat).Nodup := by
    refine (List.nodup_map_iff_inj_on List.nodup_range).mpr fun i hi j hj same =>
      position_injective (m := m) (base := sreg m rs1) moves ?_
    have first := nonneg_of_positionOk (inside i (List.mem_range.mp hi))
    have second := nonneg_of_positionOk (inside j (List.mem_range.mp hj))
    omega
  obtain ⟨written, p, stored, values, others⟩ := storeAll_plain (rd := rd) mode wide unread wf distinct
  refine ⟨_, (vsts_eq plain).trans ((if_pos (allInside_iff.mpr inside)).trans stored), fun j hj => ?_, fun h other => ?_,
    rfl, rfl⟩
  · rw [values j (List.mem_range.mpr hj), BitVec.toNat_ofNat, Nat.mod_eq_of_lt (elemAt_lt wide).1]
  · exact others h fun j hj => other j (List.mem_range.mp hj)

/-! ## VLDS (R249) -/

/-- What an unshared 32-bit element takes from its position: its half, and the provenance of the word around it. -/
def loadedFrom (p : Plot) (k : Int) : Nat × Nat × Bool := ((p.half k.toNat).toNat, 0, p.tainted (k.toNat / 2))

theorem plot_writtenTo (m : Vm) (rd : Nat) (act : Nat → Bool) (f : Nat → Nat × Nat × Bool) (n : Nat) :
    (writtenTo m rd act f n).plot = m.plot := by
  obtain ⟨slots, eq⟩ := writtenTo_eq m rd act f n
  rw [eq]

/-- Of a body an unshared element loaded changes its own slot and the record of first reads. -/
theorem loadElem_plain (mode : m.body.mode = .unshared) (wide : m.body.wide = false) (rd j : Nat) (k : Int) :
    ∃ read, loadElem m rd j k = withReads (setElem m rd j (loadedFrom m.plot k)) read := by
  obtain ⟨read, eq⟩ := noteRead_eq m k.toNat
  refine ⟨read, ?_⟩
  simp [loadElem, positionHalves_plain mode wide, eq, setElem_withReads, halvesValue_single, halvesValue_nil, loadedFrom]

/-- Elements loaded one by one are the elements written with what stands at their positions. -/
theorem foldl_loadElem_eq (mode : m.body.mode = .unshared) (wide : m.body.wide = false) (rd : Nat) (pos : Nat → Int) (n : Nat) :
    ∃ read, (List.range n).foldl (fun x j => loadElem x rd j (pos j)) m =
      withReads (writtenTo m rd allActive (fun j => loadedFrom m.plot (pos j)) n) read := by
  induction n with
  | zero => exact ⟨m.body.firstRead, rfl⟩
  | succ n ih =>
    obtain ⟨before, ih⟩ := ih
    obtain ⟨slots, kept⟩ := writtenTo_eq m rd allActive (fun j => loadedFrom m.plot (pos j)) n
    obtain ⟨read, loaded⟩ :=
      loadElem_plain (m := withReads (writtenTo m rd allActive (fun j => loadedFrom m.plot (pos j)) n) before)
        (kept ▸ mode) (kept ▸ wide) rd n (pos n)
    have plot : (withReads (writtenTo m rd allActive (fun j => loadedFrom m.plot (pos j)) n) before).plot = m.plot :=
      plot_writtenTo ..
    refine ⟨read, ?_⟩
    rw [List.range_succ, List.foldl_append, ih, List.foldl_cons, List.foldl_nil, loaded, setElem_withReads, plot, writtenTo_succ]
    rfl

theorem vlds_eq (filled : m.body.vl ≠ 0) (vendor : e.isOpen = false) : (opVlds rd rs1 rs2 0).effect e m =
    if allInside m (sreg m rs1) (sreg m rs2) then
      .ok ((List.range m.body.vl).foldl (fun x j => loadElem x rd j (position m (sreg m rs1) (sreg m rs2) j))
        (setVmode m rd m.body.mode))
    else .error fltPlotBound := by
  change vlds rd rs1 rs2 0 e m = _
  simp only [vlds, activeMask_zero, filter_allActive, vendor, Bool.false_and, filled, all_positionOk]
  cases allInside m (sreg m rs1) (sreg m rs2) <;> rfl

theorem vlds_loads (plain : plainBody m) (filled : m.body.vl ≠ 0) (vendor : e.isOpen = false)
    (inside : ∀ j, j < m.body.vl → positionOk m (position m (sreg m rs1) (sreg m rs2) j) = true) :
    ∃ x, (opVlds rd rs1 rs2 0).effect e m = .ok x ∧ x.plot = m.plot ∧ ∀ j, j < m.body.vl →
      (elemAt x rd j).1 = (m.plot.half (position m (sreg m rs1) (sreg m rs2) j).toNat).toNat := by
  obtain ⟨mode, wide, -, fits, -⟩ := plain
  obtain ⟨read, loaded⟩ := foldl_loadElem_eq (m := setVmode m rd m.body.mode) mode wide rd
    (position m (sreg m rs1) (sreg m rs2)) m.body.vl
  refine ⟨_, (vlds_eq filled vendor).trans ((if_pos (allInside_iff.mpr inside)).trans (congrArg _ loaded)),
    plot_writtenTo .., fun j hj => ?_⟩
  have value := elemAt_writtenTo (m := setVmode m rd m.body.mode) (rd := rd) (act := allActive) (q := rd) (i := j)
    (f := fun j => loadedFrom m.plot (position m (sreg m rs1) (sreg m rs2) j)) wide fits (hj.trans_le fits)
  rw [if_pos ⟨rfl, hj, rfl⟩] at value
  exact (congrArg Prod.fst value).trans (Nat.mod_eq_of_lt (BitVec.isLt _))

/-! ## Rows (R250) -/

theorem getD_slice {l : List Byte} {off : Nat} (hd : d < n) : (slice l off n).getD d 0 = l.getD (off + d) 0 := by
  simp [slice, hd]

/-- Rows of one length laid end to end: byte `d` of row `i` stands at `i * row + d`. -/
theorem getD_flatMap_range {f : Nat → List Byte} (even : ∀ i, (f i).length = row) (hi : i < n) (hd : d < row) :
    ((List.range n).flatMap f).getD (i * row + d) 0 = (f i).getD d 0 := by
  have length (k : Nat) : ((List.range k).flatMap f).length = k * row := by simp [List.length_flatMap, even]
  induction n with
  | zero => omega
  | succ n ih =>
    have next : (i + 1) * row = i * row + row := Nat.succ_mul i row
    rw [List.range_succ, List.flatMap_append, List.flatMap_singleton]
    obtain earlier | rfl : i < n ∨ i = n := by omega
    · have below : (i + 1) * row ≤ n * row := Nat.mul_le_mul_right row earlier
      rw [List.getD_append _ _ _ _ (by rw [length]; omega), ih earlier]
    · rw [List.getD_append_right _ _ _ _ (by rw [length]; omega), length, Nat.add_sub_cancel_left]

/-- Rows written one after another. -/
def writeRows (mem : Memory) (dst : Nat → Nat) (bytes : Nat → List Byte) (n : Nat) : Memory :=
  (List.range n).foldl (fun mem i => Memory.writeBytes mem (dst i) (bytes i)) mem

theorem writeRows_succ : writeRows mem dst bytes (n + 1) = Memory.writeBytes (writeRows mem dst bytes n) (dst n) (bytes n) := by
  simp [writeRows, List.range_succ]

theorem wf_writeRows (wf : Memory.wf mem = true) (n : Nat) :
    Memory.wf (writeRows mem dst bytes n) = true := by
  induction n with
  | zero => exact wf
  | succ n ih =>
    rw [writeRows_succ]
    exact Memory.wf_writeBytes _ _ ih

/-- Rows whose destinations rise by at least their length do not overlap, so each reads back. -/
theorem read_writeRows (wf : Memory.wf mem = true)
    (even : ∀ i, (bytes i).length = row) (rising : ∀ i j, i < j → dst i + row ≤ dst j) (hi : i < n) (hd : d < row) :
    Memory.read (writeRows mem dst bytes n) (dst i + d) = (bytes i).getD d 0 := by
  induction n with
  | zero => omega
  | succ n ih =>
    rw [writeRows_succ]
    obtain earlier | rfl : i < n ∨ i = n := by omega
    · have apart := rising i n earlier
      rw [Memory.read_writeBytes_ne _ _ _ (.inl (by omega)), ih earlier]
    · exact Memory.read_writeBytes _ _ (wf_writeRows wf i) ((even i).symm ▸ hd)

theorem getD_readBytes (mem : Memory) (at' : Nat) (hd : d < n) :
    (Memory.readBytes mem at' n).getD d 0 = Memory.read mem (at' + d) := by
  simp [Memory.readBytes, hd]

/-- Rows from SWM change the plot, its provenance and the record of first writes. -/
theorem foldl_rowIn_eq (m : Vm) (src dst : Nat → Nat) (row n : Nat) : ∃ written prov,
    (List.range n).foldl (fun x i => rowIn x (src i) (dst i) row) m = { m with
      body.firstWritten := written
      plot := { m.plot with
        mem := writeRows m.plot.mem dst (fun i => Memory.readBytes m.swm.mem (src i) row) n, prov := prov } } := by
  induction n with
  | zero => exact ⟨m.body.firstWritten, m.plot.prov, rfl⟩
  | succ n ih =>
    obtain ⟨before, prov, ih⟩ := ih
    rw [List.range_succ, List.foldl_append, ih, List.foldl_cons, List.foldl_nil, writeRows_succ, rowIn]
    obtain ⟨written, noted⟩ := foldl_noteWrite_eq { m with
      body.firstWritten := before
      plot := { m.plot with
        mem := writeRows m.plot.mem dst (fun i => Memory.readBytes m.swm.mem (src i) row) n, prov := prov } }
      ((List.range (row / 4)).map fun i => dst n / 4 + i)
    simp only [noted]
    exact ⟨_, _, rfl⟩

/-- Rows to SWM change SWM and the record of first reads. -/
theorem foldl_rowOut_eq (m : Vm) (src dst : Nat → Nat) (row n : Nat) : ∃ read prov,
    (List.range n).foldl (fun x i => rowOut x (src i) (dst i) row) m = { withReads m read with
      swm := ⟨writeRows m.swm.mem dst (fun i => Memory.readBytes m.plot.mem (src i) row) n, prov⟩ } := by
  induction n with
  | zero => exact ⟨m.body.firstRead, m.swm.prov, rfl⟩
  | succ n ih =>
    obtain ⟨before, prov, ih⟩ := ih
    rw [List.range_succ, List.foldl_append, ih, List.foldl_cons, List.foldl_nil, writeRows_succ, rowOut]
    obtain ⟨read, noted⟩ := foldl_noteRead_eq { withReads m before with
      swm := ⟨writeRows m.swm.mem dst (fun i => Memory.readBytes m.plot.mem (src i) row) n, prov⟩ }
      ((List.range (row / 4)).map fun i => src n / 4 + i)
    simp only [noted]
    exact ⟨_, _, rfl⟩

/-! ## VXFER (R250) -/

/-- Byte in the plot at which row `i` of a VXFER stands. -/
def plotRow (m : Vm) (rd fn i : Nat) : Nat := positionByte m (sreg m rd).toNat + i * (16 * (fn + 1))

/-- Offset in SWM, or in the resident key, of row `i` of a VXFER. -/
def farRow (m : Vm) (rs1 rs2 i : Nat) : Nat := (sreg m rs1).toNat + i * (sreg m rs2).toNat

/-- The rows of a VXFER lie in the first `size` bytes of what they are exchanged with. -/
theorem farRow_inside {size : Nat} (inside : ∀ i, i < m.body.vl → farRow m rs1 rs2 i + 16 * (fn + 1) ≤ size) :
    ((List.range m.body.vl).any fun i =>
      decide (size < (sreg m rs1).toNat + i * (sreg m rs2).toNat + 16 * (fn + 1))) = false := by
  simpa [farRow] using inside

theorem vxfer_of_key (resident : e.resident = some key) (unread : m.body.firstRead = [])
    (inKey : ∀ i, i < m.body.vl → farRow m rs1 rs2 i + 16 * (fn + 1) ≤ key.length)
    (inPlot : positionByte m (sreg m rd).toNat + m.body.vl * (16 * (fn + 1)) ≤ 8 * plotWords) :
    (opVxfer rd rs1 rs2 0 fn).effect e m = .ok (putBytes m (positionByte m (sreg m rd).toNat)
      ((List.range m.body.vl).flatMap fun i => slice key (farRow m rs1 rs2 i) (16 * (fn + 1)))) := by
  change vxfer rd rs1 rs2 0 fn e m = _
  simp [vxfer, resident, unread, Function.comp_def, farRow_inside inKey, Nat.not_lt.mpr inPlot, List.flatMap_map, farRow]

theorem vxfer_from_swm (vendor : e.isOpen = false) (resident : e.resident = none) (unread : m.body.firstRead = [])
    (inSwm : ∀ i, i < m.body.vl → farRow m rs1 rs2 i + 16 * (fn + 1) ≤ e.swmBytes)
    (inPlot : positionByte m (sreg m rd).toNat + m.body.vl * (16 * (fn + 1)) ≤ 8 * plotWords) :
    (opVxfer rd rs1 rs2 0 fn).effect e m = .ok ((List.range m.body.vl).foldl (fun x i =>
      rowIn x (farRow m rs1 rs2 i) (plotRow m rd fn i) (16 * (fn + 1))) m) := by
  change vxfer rd rs1 rs2 0 fn e m = _
  simp [vxfer, vendor, resident, unread, Function.comp_def, farRow_inside inSwm, Nat.not_lt.mpr inPlot, List.foldl_map, farRow,
    plotRow]

theorem vxfer_to_swm (vendor : e.isOpen = false)
    (inSwm : ∀ i, i < m.body.vl → farRow m rs1 rs2 i + 16 * (fn + 1) ≤ e.swmBytes)
    (inPlot : positionByte m (sreg m rd).toNat + m.body.vl * (16 * (fn + 1)) ≤ 8 * plotWords) :
    (opVxfer rd rs1 rs2 1 fn).effect e m = .ok ((List.range m.body.vl).foldl (fun x i =>
      rowOut x (plotRow m rd fn i) (farRow m rs1 rs2 i) (16 * (fn + 1))) m) := by
  change vxfer rd rs1 rs2 1 fn e m = _
  simp [vxfer, vendor, Function.comp_def, farRow_inside inSwm, Nat.not_lt.mpr inPlot, List.foldl_map, farRow, plotRow]

theorem vxfer_to_swm_of_open (opened : e.isOpen = true) : (opVxfer rd rs1 rs2 1 fn).effect e m = .error fltPrivileged := by
  change vxfer rd rs1 rs2 1 fn e m = _
  simp [vxfer, opened]

theorem vxfer_of_open_without_key (opened : e.isOpen = true) (resident : e.resident = none) :
    (opVxfer rd rs1 rs2 0 fn).effect e m = .error fltKey := by
  change vxfer rd rs1 rs2 0 fn e m = _
  simp [vxfer, opened, resident]

/-- Starts of rows that rise by a stride of at least their length leave room for each row. -/
theorem rising_of_stride {base stride : Nat} (wide : row ≤ stride) (i j : Nat) (less : i < j) :
    base + i * stride + row ≤ base + j * stride := by
  have steps : (i + 1) * stride ≤ j * stride := Nat.mul_le_mul_right stride less
  have next : (i + 1) * stride = i * stride + stride := Nat.succ_mul i stride
  omega

theorem vxfer_reads_key (resident : e.resident = some key) (unread : m.body.firstRead = []) (wf : Memory.wf m.plot.mem = true)
    (inKey : ∀ i, i < m.body.vl → farRow m rs1 rs2 i + 16 * (fn + 1) ≤ key.length)
    (inPlot : positionByte m (sreg m rd).toNat + m.body.vl * (16 * (fn + 1)) ≤ 8 * plotWords) :
    ∃ x, (opVxfer rd rs1 rs2 0 fn).effect e m = .ok x ∧ x.body.vregs = m.body.vregs ∧
      ∀ i d, i < m.body.vl → d < 16 * (fn + 1) →
        Memory.read x.plot.mem (plotRow m rd fn i + d) = key.getD (farRow m rs1 rs2 i + d) 0 := by
  have even (i : Nat) : (slice key (farRow m rs1 rs2 i) (16 * (fn + 1))).length = 16 * (fn + 1) := length_slice ..
  refine ⟨_, vxfer_of_key resident unread inKey inPlot, ?_⟩
  rw [putBytes]
  obtain ⟨written, noted⟩ := foldl_noteWrite_eq m ((List.range (ceilDiv ((List.range m.body.vl).flatMap fun i =>
    slice key (farRow m rs1 rs2 i) (16 * (fn + 1))).length 4)).map fun i => positionByte m (sreg m rd).toNat / 4 + i)
  simp only [noted]
  refine ⟨trivial, fun i d hi hd => ?_⟩
  have last : i * (16 * (fn + 1)) + d < m.body.vl * (16 * (fn + 1)) := by
    have room := rising_of_stride (base := 0) (le_refl (16 * (fn + 1))) i m.body.vl hi
    omega
  rw [plotRow, Nat.add_assoc, Memory.read_writeBytes _ _ wf (by simpa [List.length_flatMap] using last),
    getD_flatMap_range even hi hd, getD_slice hd]

theorem vxfer_reads_swm (vendor : e.isOpen = false) (resident : e.resident = none) (unread : m.body.firstRead = [])
    (wf : Memory.wf m.plot.mem = true)
    (inSwm : ∀ i, i < m.body.vl → farRow m rs1 rs2 i + 16 * (fn + 1) ≤ e.swmBytes)
    (inPlot : positionByte m (sreg m rd).toNat + m.body.vl * (16 * (fn + 1)) ≤ 8 * plotWords) :
    ∃ x, (opVxfer rd rs1 rs2 0 fn).effect e m = .ok x ∧ x.body.vregs = m.body.vregs ∧ x.swm = m.swm ∧
      ∀ i d, i < m.body.vl → d < 16 * (fn + 1) →
        Memory.read x.plot.mem (plotRow m rd fn i + d) = Memory.read m.swm.mem (farRow m rs1 rs2 i + d) := by
  obtain ⟨written, prov, moved⟩ := foldl_rowIn_eq m (farRow m rs1 rs2) (plotRow m rd fn) (16 * (fn + 1)) m.body.vl
  refine ⟨_, (vxfer_from_swm vendor resident unread inSwm inPlot).trans (congrArg _ moved), rfl, rfl, fun i d hi hd => ?_⟩
  exact (read_writeRows wf (fun i => Memory.length_readBytes ..) (rising_of_stride le_rfl) hi hd).trans (getD_readBytes _ _ hd)

theorem vxfer_writes_swm (vendor : e.isOpen = false) (wf : Memory.wf m.swm.mem = true)
    (apart : 16 * (fn + 1) ≤ (sreg m rs2).toNat)
    (inSwm : ∀ i, i < m.body.vl → farRow m rs1 rs2 i + 16 * (fn + 1) ≤ e.swmBytes)
    (inPlot : positionByte m (sreg m rd).toNat + m.body.vl * (16 * (fn + 1)) ≤ 8 * plotWords) :
    ∃ x, (opVxfer rd rs1 rs2 1 fn).effect e m = .ok x ∧ x.body.vregs = m.body.vregs ∧ x.plot = m.plot ∧
      ∀ i d, i < m.body.vl → d < 16 * (fn + 1) →
        Memory.read x.swm.mem (farRow m rs1 rs2 i + d) = Memory.read m.plot.mem (plotRow m rd fn i + d) := by
  obtain ⟨read, prov, moved⟩ := foldl_rowOut_eq m (plotRow m rd fn) (farRow m rs1 rs2) (16 * (fn + 1)) m.body.vl
  refine ⟨_, (vxfer_to_swm vendor inSwm inPlot).trans (congrArg _ moved), rfl, rfl, fun i d hi hd => ?_⟩
  exact (read_writeRows wf (fun i => Memory.length_readBytes ..) (rising_of_stride apart) hi hd).trans (getD_readBytes _ _ hd)

/-! ## KLOAD (R257) -/

theorem kload_shares (shared : sharedBody m .boolean) (filled : m.body.vl ≠ 0) (view : e.keyView = some key)
    (aligned : (sreg m rs1).toNat % 4 = 0) : ∃ x, (opKload rd rs1).effect e m = .ok x ∧ vmode x rd = .boolean ∧
      ∀ j, j < m.body.vl → valueAt x rd j = leNat (slice key ((sreg m rs1).toNat + 4 * j) 4) ∧ (elemAt x rd j).2.2 = true := by
  have h := narrow_of_sharedBody shared filled
  have ⟨mode, _, wide, _⟩ := shared
  have effect : (opKload rd rs1).effect e m = .ok (takeFree (writeElems m rd .boolean allActive fun j =>
      splitAs m .boolean (leNat (slice key ((sreg m rs1).toNat + 4 * j) 4)) (maskWord m j) true) m.body.vl) := by
    change kload rd rs1 e m = _
    unfold kload allActive
    simp [mode, wide, view, aligned]
  refine ⟨_, effect, vmode_writeElems_same h.filled, fun j hj => ⟨?_, ?_⟩⟩
  · have word := leNat_lt (slice key ((sreg m rs1).toNat + 4 * j) 4)
    rw [length_slice] at word
    exact valueAt_split shared h hj ⟨word, nofun⟩
  · exact congrArg (·.2.2) (elemAt_writeElems_of_active (act := allActive) h hj rfl)

theorem kload_of_noKey (shared : sharedBody m .boolean) (view : e.keyView = none) :
    (opKload rd rs1).effect e m = .error fltKey := by
  obtain ⟨mode, -, wide, -⟩ := shared
  change kload rd rs1 e m = _
  simp [kload, mode, wide, view]

theorem kload_of_unaligned (shared : sharedBody m .boolean) (view : e.keyView = some key)
    (unaligned : (sreg m rs1).toNat % 4 ≠ 0) : (opKload rd rs1).effect e m = .error fltValue := by
  obtain ⟨mode, -, wide, -⟩ := shared
  change kload rd rs1 e m = _
  simp [kload, mode, wide, view, unaligned]

/-! ## The obligation -/

/-- Settles O35: VSTS and VLDS element by element, VXFER row by row, KLOAD by the shares of its words. -/
theorem memoryAndKeys : Obligations.MemoryAndKeys := by
  unfold Obligations.MemoryAndKeys
  refine ⟨fun e m rd rs1 rs2 plain filled => ⟨vsts_stores plain, fun inside vendor => vlds_loads plain filled vendor inside,
      fun j hj outside vendor => ?_⟩,
    fun e m rd rs1 rs2 fn key _ => ⟨vxfer_reads_key, fun vendor resident unread wfPlot wfSwm inPlot inSwm => ?_,
      vxfer_to_swm_of_open, vxfer_of_open_without_key⟩,
    fun e m rd rs1 key shared filled => ⟨kload_shares shared filled, kload_of_noKey shared, kload_of_unaligned shared⟩⟩
  · have bound := not_allInside hj outside
    exact ⟨(vlds_eq filled vendor).trans (if_neg bound), (vsts_eq plain).trans (if_neg bound)⟩
  · exact ⟨vxfer_reads_swm vendor resident unread wfPlot inSwm inPlot, fun apart =>
      vxfer_writes_swm vendor wfSwm apart inSwm inPlot⟩

end Sys2Proof.Machine
end

section
/-! SUPPORT. Single-register writes of set-up, with O15 (13_fountain.md R307, R320; 16_gatehouse_lodge.md R383;
18_thadex_journal.md R427; 22_power_sundial.md R493; 23_registers.md R503, R512). -/
namespace Sys2Proof.Machine
open Sys2Proof

variable {s : State}

/-- A row that only a ready device takes does nothing before READY (R503). -/
theorem next_of_not_ready (early : s.boot.ready = false) (t : State) :
    (Host.Outcome.next (if s.boot.ready then t else s) : Host.Outcome State Fault Refusal) = .next s := by
  rw [early]
  rfl

/-! ## The test pattern (R320) -/

theorem patternWrite_of_change {en : Bool} (test : s.lc.inForce = 1) (change : s.fountain.patternEn ≠ en) :
    patternWrite s en = startFountain { s with fountain.patternEn := en } := by
  simp [patternWrite, test, change]

theorem patternWrite_of_no_change {en : Bool} (h : s.lc.inForce ≠ 1 ∨ s.fountain.patternEn = en) : patternWrite s en = s := by
  obtain field | same := h
  · simp [patternWrite, field]
  · simp [patternWrite, same]

/-! ## The journal's ring in host memory (R427) -/

theorem jxEnable_of_enabled (on : s.journal.jxEnable = true) : jxEnable s = s := by
  rw [jxEnable, if_pos on]

theorem jxEnable_of_size (off : s.journal.jxEnable = false) (low : 10 ≤ s.journal.jxSize.toNat % 32)
    (high : s.journal.jxSize.toNat % 32 ≤ 20) : jxEnable s = { s with journal := { s.journal with
      jxConfigError := false, jxEnable := true, jxRing := s.journal.jxBase, jxLog := s.journal.jxSize.toNat % 32,
      jxProd := 0, jxCons := 0 } } := by
  have sized : ¬ (s.journal.jxSize.toNat % 32 < 10 ∨ 20 < s.journal.jxSize.toNat % 32) := by omega
  simp only [jxEnable, off, if_neg sized, Bool.false_eq_true, if_false]

theorem jxEnable_of_bad_size (off : s.journal.jxEnable = false)
    (bad : s.journal.jxSize.toNat % 32 < 10 ∨ 20 < s.journal.jxSize.toNat % 32) :
    jxEnable s = { s with journal.jxConfigError := true } := by
  simp only [jxEnable, off, if_pos bad, Bool.false_eq_true, if_false]

theorem startReplay_of_mounted (mounted : s.vault.mounted = true) : startReplay s = { s with journal := { s.journal with
      jxReplay := true,
      exporting := (if s.vault.foreign then s.vault.visiting else s.vault.media.journal).dropWhile fun x =>
        x.chunk || decide (x.seq < s.journal.jxReplaySeq.toNat) } } := by
  simp only [startReplay, mounted, Bool.not_true, Bool.false_eq_true, if_false]

/-! ## The rows -/

/-- Settles O15: before READY no row acts; then each row is its one register's write. -/
theorem setupWrites : Obligations.SetupWrites := by
  unfold Obligations.SetupWrites
  refine ⟨fun s v b early => ?_, fun s v ready => ?_⟩
  · have idle := next_of_not_ready early
    exact ⟨idle _, idle _, idle _, idle _, idle _, idle _, idle _, idle _⟩
  · have bias : exec (.rngLimitWrite false v) s = .next (if v.setWidth 16 ≤ s.otp.biasLim then
        { s with fountain.biasLim := v.setWidth 16 } else s) := next_of_ready ready _
    have corr : exec (.rngLimitWrite true v) s = .next (if v.setWidth 16 ≤ s.otp.corrLim then
        { s with fountain.corrLim := v.setWidth 16 } else s) := next_of_ready ready _
    have pattern (en : Bool) : exec (.rngPatternEnable en) s = .next (patternWrite s en) := next_of_ready ready _
    have thresh : exec (.sdlThreshWrite v) s = .next (if s.otp.sdlThresh ≤ v.toNat % 1024 then
        { s with sundial.pendingThresh := some (v.toNat % 1024) } else s) := next_of_ready ready _
    have enable : exec .jxEnable s = .next (jxEnable s) := next_of_ready ready _
    have replay : exec .jxReplay s = .next (startReplay s) := next_of_ready ready _
    rw [bias, corr, thresh, enable, replay]
    refine ⟨next_of_ready ready _, next_of_ready ready _, fun h => by rw [if_pos h], fun h => by rw [if_pos h],
      fun h => by rw [if_neg (BitVec.not_le.mpr h)], fun h => by rw [if_neg (BitVec.not_le.mpr h)],
      fun en test change => ⟨_, pattern en, ?_⟩, fun en h => by rw [pattern, patternWrite_of_no_change h],
      fun h => by rw [if_pos h], fun h => by rw [if_neg (Nat.not_le.mpr h)],
      fun off low high => by rw [jxEnable_of_size off low high], fun off bad => by rw [jxEnable_of_bad_size off bad],
      fun on => by rw [jxEnable_of_enabled on], next_of_ready ready _, fun mounted own => ?_, fun mounted foreign => ?_,
      fun unmounted => ?_⟩
    · rw [patternWrite_of_change test change]
      exact ⟨rfl, rfl, rfl, rfl, rfl⟩
    · rw [startReplay_of_mounted mounted, own]
      rfl
    · rw [startReplay_of_mounted mounted, foreign]
      rfl
    · rw [startReplay, unmounted]
      rfl

end Sys2Proof.Machine
end

section
/-! SUPPORT. Ends of jobs for want of entropy: a draw that expires, a start-up that expires, a job held for the Icehouse
(13_fountain.md R316, R318; 14_icehouse.md R532). -/
namespace Sys2Proof.Machine
open Sys2Proof

variable {s : State} {k : Nat} {r : JobRef} {j : Job}

/-! ## What the end of a job leaves of the Fountain -/

theorem releaseReserved_fountain (s : State) (n : Nat) : (releaseReserved s n).fountain = s.fountain := by
  unfold releaseReserved
  split
  · dsimp only
    split_ifs <;> rfl
  · rfl

theorem dropKeptResident_fountain (s : State) (n : Nat) : (dropKeptResident s n).fountain = s.fountain := by
  unfold dropKeptResident
  split <;> rfl

theorem dropHeld_fountain (s : State) (o n : Nat) : (dropHeld s o n).fountain = s.fountain := by
  unfold dropHeld
  split <;> rfl

theorem withSome_fountain {f : State → Nat → State} (hf : ∀ s n, (f s n).fountain = s.fountain) (s : State) (o : Option Nat) :
    (withSome s o f).fountain = s.fountain := by
  cases o with
  | none => rfl
  | some n => exact hf s n

theorem giveBack_fountain (s : State) (j : Job) : (giveBack s j).fountain = s.fountain :=
  (withSome_fountain (fun s n => dropHeld_fountain s j.entry.opcode.toNat n) _ _).trans
    ((withSome_fountain dropKeptResident_fountain _ _).trans (withSome_fountain releaseReserved_fountain _ _))

theorem dropStatement_fountain (s : State) (j : Job) : (dropStatement s j).fountain = s.fountain := by
  unfold dropStatement
  split <;> rfl

theorem freeResidence_fountain (s : State) (j : Job) : (freeResidence s j).fountain = s.fountain := by
  unfold freeResidence
  split <;> rfl

/-- Of the Fountain the release of a job's engines changes the posted draws alone. -/
theorem releaseEngines_fountain (s : State) (k : Nat) (j : Job) :
    (releaseEngines s k j).fountain = { s.fountain with queue := (dropDraws s k).fountain.queue } := by
  have draws : (dropDraws (freeResidence (answerReads s k) j) k).fountain =
      { s.fountain with queue := (dropDraws s k).fountain.queue } := by
    unfold dropDraws
    rw [freeResidence_fountain]
    rfl
  exact (giveBack_fountain _ j).trans ((dropStatement_fountain _ j).trans draws)

theorem failNow_startupExpired (s : State) (k : Nat) (st : Status) :
    (failNow s k st).fountain.startupExpired = s.fountain.startupExpired := by
  unfold failNow
  split
  · next j _ =>
    have kept := congrArg Fountain.startupExpired (releaseEngines_fountain s k j)
    exact kept
  · rfl

/-! ## A job without entropy -/

/-- The job has ended for want of entropy, without output. -/
def Starved (k : Nat) (s : State) : Prop :=
  ∃ y, KMap.get? s.jobs k = some y ∧ y.phase = .decided ∧ y.status = .entropyFailed ∧ y.output = []

theorem get?_failNow_ne (s : State) {i : Nat} (st : Status) (h : k ≠ i) :
    KMap.get? (failNow s i st).jobs k = KMap.get? s.jobs k := by
  unfold failNow
  split
  · rw [get?_modJob_ne _ _ h, releaseEngines_jobs]
  · rfl

theorem starved_failNow (h : (KMap.get? s.jobs k).isSome) : Starved k (failNow s k .entropyFailed) := by
  obtain ⟨j, hj⟩ := Option.isSome_iff_exists.mp h
  exact ⟨_, get?_failNow .entropyFailed hj, rfl, rfl, rfl⟩

theorem Starved.isSome (h : Starved k s) : (KMap.get? s.jobs k).isSome := by
  obtain ⟨y, hy, -⟩ := h
  exact Option.isSome_iff_exists.mpr ⟨y, hy⟩

theorem Starved.failNow (h : Starved k s) (i : Nat) : Starved k (failNow s i .entropyFailed) := by
  by_cases hi : k = i
  · subst hi
    exact starved_failNow h.isSome
  · simpa only [Starved, get?_failNow_ne s _ hi] using h

theorem isSome_failNow (h : (KMap.get? s.jobs k).isSome) (i : Nat) :
    (KMap.get? (failNow s i .entropyFailed).jobs k).isSome := by
  by_cases hi : k = i
  · subst hi
    exact (starved_failNow h).isSome
  · rwa [get?_failNow_ne s _ hi]

/-! ## The rows -/

/-- A posted draw that has waited for 2 ms ends its job (R316). -/
theorem drawTimeout_starves (hj : KMap.get? s.jobs (refKey r) = some j) (limited : drawLimited s (refKey r) = true)
    (tenant : family j ≠ 0xF0) : ∃ t, exec (.drawTimeout r) s = .next t ∧ Starved (refKey r) t := by
  have row : exec (.drawTimeout r) s = .next (failNow s (refKey r) .entropyFailed) := by
    change execDrawTimeout r s = _
    simp only [execDrawTimeout, hj, limited, if_neg tenant, Bool.not_true, Bool.false_eq_true, if_false]
  exact ⟨_, row, starved_failNow (Option.isSome_iff_exists.mpr ⟨j, hj⟩)⟩

theorem drawTimeout_of_unlimited (h : drawLimited s (refKey r) = false) : exec (.drawTimeout r) s = .next s := by
  change execDrawTimeout r s = _
  unfold execDrawTimeout
  dsimp only
  split
  · rw [h]
    rfl
  · rfl

/-- The ready jobs that are held for the Fountain. -/
def heldForFountain (s : State) : List Nat :=
  (s.jobs.filter fun p => decide (p.2.phase = .ready) && needsRandom s p.1 p.2).map Prod.fst

/-- The state in which those jobs have ended. -/
def startupOver (s : State) : State :=
  (heldForFountain s).foldl (fun s k => failNow s k .entropyFailed) { s with fountain.startupExpired := true }

theorem mem_heldForFountain (hj : KMap.get? s.jobs k = some j) (ready : j.phase = .ready) (needs : needsRandom s k j = true) :
    k ∈ heldForFountain s := by
  refine List.mem_map.mpr ⟨(k, j), List.mem_filter.mpr ⟨KMap.mem_of_get? hj, ?_⟩, rfl⟩
  rw [decide_eq_true ready, needs]
  rfl

theorem startupOver_expired (s : State) : (startupOver s).fountain.startupExpired = true :=
  foldl_keeps (fun t => t.fountain.startupExpired = true) (fun t i h => (failNow_startupExpired t i _).trans h) _ rfl

theorem starved_startupOver (hj : KMap.get? s.jobs k = some j) (ready : j.phase = .ready) (needs : needsRandom s k j = true) :
    Starved k (startupOver s) :=
  foldl_reaches (P := fun t => (KMap.get? t.jobs k).isSome) (Q := Starved k) (fun _ i h => isSome_failNow h i)
    (fun _ i h => h.failNow i) (fun _ h => starved_failNow h) (mem_heldForFountain hj ready needs)
    (Option.isSome_iff_exists.mpr ⟨j, hj⟩)

/-- A start-up that expires ends every job held for the Fountain (R318). -/
theorem startupExpired_starves (started : s.fountain.started = true) (dry : s.fountain.ready = false)
    (running : s.fountain.startupExpired = false) : ∃ t, exec .startupExpired s = .next t ∧ t.fountain.startupExpired = true ∧
      ∀ k x, KMap.get? s.jobs k = some x → x.phase = .ready → needsRandom s k x = true → Starved k t := by
  have row : exec .startupExpired s =
      .next (logFountain (startupOver s) 5 0x0045 (leBytes 1 (healthyMask (startupOver s)))) := by
    have waits : (s.fountain.started && !s.fountain.ready && !s.fountain.startupExpired) = true := by
      rw [started, dry, running]
      rfl
    change execStartupExpired s = _
    rw [execStartupExpired, if_pos waits]
    rfl
  obtain ⟨e, l, logged⟩ := logEventAt_changes (startupOver s) 5 0x0045 0xFFFF 18 0xFF 0xFF (leBytes 1 (healthyMask (startupOver s)))
  rw [row, logFountain, logEvent, logged]
  exact ⟨_, rfl, startupOver_expired s, fun _ _ hx ready needs => starved_startupOver hx ready needs⟩

/-- A job that the Icehouse has not begun to serve within 50 ms ends (R532). -/
theorem icehouseHoldExpired_starves (hj : KMap.get? s.jobs (refKey r) = some j) (held : j.phase = .iceHeld)
    (shut : s.ice.ready = false) : ∃ t, exec (.icehouseHoldExpired r) s = .next t ∧ Starved (refKey r) t := by
  have row : exec (.icehouseHoldExpired r) s = .next (failNow s (refKey r) .entropyFailed) := by
    change execIcehouseHoldExpired r s = _
    simp only [execIcehouseHoldExpired, hj, shut, decide_eq_true held]
    rfl
  exact ⟨_, row, starved_failNow (Option.isSome_iff_exists.mpr ⟨j, hj⟩)⟩

end Sys2Proof.Machine
end

section
/-! SUPPORT. The Icehouse's return to service and the seeds of its refresh generators, with O48 (14_icehouse.md R331, R344). -/
namespace Sys2Proof.Machine
open Sys2Proof

variable {s : State}

/-! ## The restoration of the key image (R332) -/

/-- What the restoration of the key image leaves of the Icehouse's service: the jobs, the Lodge, and of the Icehouse the marks
of its service and its root. -/
def service (s : State) := (s.jobs, s.lodge, s.ice.ready, s.ice.clearing, s.ice.root)

theorem service_restorePairing (s : State) (t : TwinPart) : service (restorePairing s t) = service s := by
  unfold restorePairing
  dsimp only
  split <;> rfl

theorem service_dropImageKeys (s : State) (keys : KMap Key) : service (dropImageKeys s keys) = service s := by
  refine foldl_keeps (fun t => service t = service s) (fun t kv h => ?_) keys rfl
  exact h

theorem service_foldl_putAllots (f : Nat × Allotment → Allotment) (l : KMap Allotment) (s : State) :
    service (l.foldl (fun s p => { s with allots := KMap.put s.allots p.1 (f p) }) s) = service s := by
  refine foldl_keeps (fun t => service t = service s) (fun t p h => ?_) l rfl
  exact h

theorem service_restoreImage (s : State) : service (restoreImage s) = service s := by
  unfold restoreImage
  split
  · rfl
  split
  · rfl
  split
  · rfl
  · next m _ _ _ =>
    refine (service_dropImageKeys _ _).trans ?_
    cases m.twin with
    | none => exact service_foldl_putAllots _ _ s
    | some t => exact (service_restorePairing _ t).trans (service_foldl_putAllots _ _ s)

/-! ## The return to service (R344) -/

/-- The Lodge has a key-encryption key, the one it had where it had one. -/
theorem freshKek_lodge (s : State) : (freshKek s).lodge.kek.isSome = true ∧
    (s.lodge.kek.isSome = true → (freshKek s).lodge.kek = s.lodge.kek) := by
  unfold freshKek
  split
  · next had => exact ⟨had, fun _ => rfl⟩
  · next lost => exact ⟨rfl, fun had => absurd had lost⟩

theorem freshKek_beside (s : State) : (freshKek s).jobs = s.jobs ∧ rootKind (freshKek s) = rootKind s := by
  unfold freshKek
  split <;> exact ⟨rfl, rfl⟩

/-- The Icehouse's state in which the key image is restored. -/
def unlockedIce (s : State) : State :=
  let p := freshBytes (freshKek s) 32
  let q := freshBytes p.2 32
  { q.2 with ice := { q.2.ice with
    ready := true, clearing := false, root := rootKind q.2, opsRoot := deriveOpsRoot q.2, scramble := p.1, wrapKey := q.1 } }

theorem service_unlockedIce (s : State) :
    service (unlockedIce s) = (s.jobs, (freshKek s).lodge, true, false, rootKind s) := by
  obtain ⟨jobs, root⟩ := freshKek_beside s
  rw [← jobs, ← root]
  rfl

/-- Without a job the return to service ends with the key image restored. -/
theorem resumeIcehouse_of_no_jobs (idle : s.jobs = []) : resumeIcehouse s = restoreImage (unlockedIce s) := by
  have jobs : (restoreImage (unlockedIce s)).jobs = [] :=
    (congrArg Prod.fst ((service_restoreImage _).trans (service_unlockedIce s))).trans idle
  have held : jobsBy (restoreImage (unlockedIce s)) (fun j => decide (j.phase = .iceHeld)) (fun j => j.order) = [] := by
    rw [jobsBy, jobs]
    rfl
  change (jobsBy (restoreImage (unlockedIce s)) _ _).foldl intake _ = _
  rw [held]
  rfl

theorem icehouseResume_serves (idle : s.jobs = []) (may : icehouseMay s = true) : ∃ t, exec .icehouseResume s = .next t ∧
    t.ice.ready = true ∧ t.ice.clearing = false ∧ t.ice.root = rootKind s ∧
    t.lodge.kek.isSome = true ∧ (s.lodge.kek.isSome = true → t.lodge.kek = s.lodge.kek) := by
  have row : exec .icehouseResume s = .next (restoreImage (unlockedIce s)) := by
    change execIcehouseResume s = _
    rw [execIcehouseResume, if_pos may, resumeIcehouse_of_no_jobs idle]
  have kept := (service_restoreImage _).trans (service_unlockedIce s)
  simp only [service, Prod.mk.injEq] at kept
  obtain ⟨-, lodge, ready, clearing, root⟩ := kept
  refine ⟨_, row, ready, clearing, root, ?_⟩
  rw [lodge]
  exact freshKek_lodge s

theorem icehouseResume_of_not_may (h : icehouseMay s = false) : exec .icehouseResume s = .next s := by
  change execIcehouseResume s = _
  rw [execIcehouseResume, h]
  rfl

/-! ## The refresh generators (R331) -/

theorem exec_refreshGeneratorReseed (g : Fin 4) (ready : s.fountain.ready = true) (runs : s.fountain.stopped = false) :
    exec (.refreshGeneratorReseed g) s = .next (if s.ice.refreshSeeded.getD g.val false
      then { s with ice.refreshStandby := s.ice.refreshStandby.set g.val (!(s.ice.refreshStandby.getD g.val false)) }
      else { s with ice.refreshSeeded := s.ice.refreshSeeded.set g.val true }) := by
  change execRefreshGeneratorReseed g s = _
  simp only [execRefreshGeneratorReseed, ready, runs]
  cases s.ice.refreshSeeded.getD g.val false <;> rfl

/-! ## The obligation -/

/-- Settles O48: a wait that expires ends its job; a seed and a return to service act where their conditions hold. -/
theorem fountainWaits : Obligations.FountainWaits := by
  unfold Obligations.FountainWaits
  refine fun s r j => ⟨fun hj limited tenant => ?_, drawTimeout_of_unlimited, startupExpired_starves,
    fun g ready runs => exec_refreshGeneratorReseed g ready runs, fun hj held shut => ?_,
    fun idle shut whole ready root booted => icehouseResume_serves idle ?_, fun shut => icehouseResume_of_not_may ?_⟩
  · obtain ⟨t, row, y, starved⟩ := drawTimeout_starves hj limited tenant
    exact ⟨t, y, row, starved⟩
  · obtain ⟨t, row, y, starved⟩ := icehouseHoldExpired_starves hj held shut
    exact ⟨t, y, row, starved⟩
  · simp only [icehouseMay, shut, whole, ready, root, booted]
    rfl
  · obtain erased | dry | early := shut
    · simp [icehouseMay, erased]
    · simp [icehouseMay, dry]
    · simp [icehouseMay, early]

end Sys2Proof.Machine
end

section
/-! SUPPORT. The noise cells: what the judgement of supply, a quarantine and the end of a test window leave of one cell
(13_fountain.md R305 to R310). -/
namespace Sys2Proof.Machine
open Sys2Proof

variable {s : State} {c i : Nat} {x : Cell}

/-! ## One cell -/

theorem cellAt_of_getElem? (hx : s.fountain.cells[c]? = some x) : cellAt s c = x := by
  simp [cellAt, hx]

theorem getElem?_modCell_same (f : Cell → Cell) (hx : s.fountain.cells[c]? = some x) :
    (modCell s c f).fountain.cells[c]? = some (f x) := by
  simp [modCell, hx]

theorem logFountain_fountain (s : State) (cls : Nat) (code : W16) (detail : List Byte) :
    (logFountain s cls code detail).fountain = s.fountain := by
  obtain ⟨e, l, logged⟩ := logEventAt_changes s cls code 0xFFFF 18 0xFF 0xFF detail
  rw [logFountain, logEvent, logged]

/-! ## Supply and quarantine (R305, R310) -/

/-- The judgement of supply changes nothing of a cell but its accepted bits, which it keeps or empties. -/
theorem judgeSupply_cell (hx : s.fountain.cells[c]? = some x) : ∃ n, (judgeSupply s).fountain.cells[c]? =
    some { x with accepted := n } ∧ (n = x.accepted ∨ n = 0) := by
  unfold judgeSupply
  dsimp only
  split_ifs
  · refine ⟨0, ?_, .inr rfl⟩
    rw [logFountain_fountain]
    simp [hx]
  · refine ⟨x.accepted, ?_, .inl rfl⟩
    rw [logFountain_fountain]
    exact hx
  · exact ⟨x.accepted, hx, .inl rfl⟩

/-- A cell as a quarantine leaves it. -/
def quarantined (cause index : Nat) (x : Cell) : Cell :=
  { x with
    stateCode := 2, passes := 0, lastCause := cause, fails := min (x.fails + 1) 0xFFFFFF, windowStart := none, failures := [],
    sample := index, accepted := 0 }

theorem quarantineCell_cell (cause index : Nat) (hx : s.fountain.cells[c]? = some x) :
    (quarantineCell s c cause index).fountain.cells[c]? = some (quarantined cause index x) := by
  have marked := getElem?_modCell_same (quarantined cause index) hx
  rw [← logFountain_fountain _ 0 0x0040 (leBytes 1 c ++ leBytes 1 cause ++ leBytes 8 index)] at marked
  obtain ⟨n, judged, rfl | rfl⟩ := judgeSupply_cell marked <;> exact judged

/-! ## Accepted bits (R308) -/

theorem acceptWindow_cell (hx : s.fountain.cells[c]? = some x) : (acceptWindow s c).fountain.cells[c]? = some { x with
    accepted := if s.fountain.supplyFailed then x.accepted else min (x.accepted + 32768) 32768 } := by
  unfold acceptWindow
  split
  · exact hx
  · exact getElem?_modCell_same _ hx

/-! ## The end of a test window (R306, R308, R309) -/

/-- The state with the measures of a cell's window noted. -/
def windowNoted (s : State) (c ones : Nat) (equal : List Nat) (index : Nat) : State :=
  modCell s c fun x => { x with
    bias := BitVec.ofNat 16 (biasOf ones)
    corr := (equal.mapIdx fun i n => corrOf (i + 1) n).map fun v => BitVec.ofInt 16 v
    windows := x.windows + 1, sample := index }

/-- The cause for which the window does not pass. -/
def causeOf (x : Cell) (ones : Nat) (equal : List Nat) : Option Nat :=
  windowCause x (biasOf ones) (equal.mapIdx fun i n => corrOf (i + 1) n)

section Window
variable {ones : Nat} {equal : List Nat}

/-- Of the cell only its measures, the count of its windows and the index of its sample are new. -/
theorem windowNoted_cell (ones : Nat) (equal : List Nat) (index : Nat) (hx : s.fountain.cells[c]? = some x) :
    ∃ b l, (windowNoted s c ones equal index).fountain.cells[c]? =
      some { x with bias := b, corr := l, windows := x.windows + 1, sample := index } :=
  ⟨_, _, getElem?_modCell_same _ hx⟩

/-- A window that passes is accepted, and the next one begins where it ends. -/
theorem windowEnd_passes (hx : s.fountain.cells[c]? = some x) (running : x.stateCode ≠ 2) (pass : causeOf x ones equal = none) :
    ∃ y, (windowEnd s c ones equal i).fountain.cells[c]? = some y ∧ y.stateCode = 1 ∧ y.windowStart = some i ∧
      y.windows = x.windows + 1 ∧ y.biasLim = s.fountain.biasLim ∧
      y.accepted = (if s.fountain.supplyFailed then x.accepted else min (x.accepted + 32768) 32768) := by
  have ends : windowEnd s c ones equal i = acceptWindow (modCell (windowNoted s c ones equal i) c fun x =>
      startWindow s.fountain i { x with stateCode := 1 }) c := by
    rw [causeOf] at pass
    simp only [windowEnd, cellAt_of_getElem? hx, if_neg running, pass]
    rfl
  obtain ⟨b, l, noted⟩ := windowNoted_cell ones equal i hx
  rw [ends]
  exact ⟨_, acceptWindow_cell (getElem?_modCell_same _ noted), rfl, rfl, rfl, rfl, rfl⟩

/-- A window that does not pass quarantines its cell. -/
theorem windowEnd_quarantines {n : Nat} (hx : s.fountain.cells[c]? = some x) (running : x.stateCode ≠ 2)
    (fail : causeOf x ones equal = some n) : ∃ y, (windowEnd s c ones equal i).fountain.cells[c]? = some y ∧
      y.stateCode = 2 ∧ y.lastCause = n ∧ y.passes = 0 := by
  have ends : windowEnd s c ones equal i = quarantineCell (windowNoted s c ones equal i) c n i := by
    rw [causeOf] at fail
    simp only [windowEnd, cellAt_of_getElem? hx, if_neg running, fail]
    rfl
  obtain ⟨b, l, noted⟩ := windowNoted_cell ones equal i hx
  rw [ends]
  exact ⟨_, quarantineCell_cell n i noted, rfl, rfl, rfl⟩

/-- A retest window that does not pass, or in which a test of R305 failed, takes the count of passes back to 0. -/
theorem windowEnd_spoils (hx : s.fountain.cells[c]? = some x) (retest : x.stateCode = 2)
    (spoilt : failedIn x i = true ∨ causeOf x ones equal ≠ none) :
    ∃ y, (windowEnd s c ones equal i).fountain.cells[c]? = some y ∧ y.stateCode = 2 ∧ y.passes = 0 ∧ y.windowStart = none := by
  have bad : ((causeOf x ones equal).isSome || failedIn x i) = true := by
    obtain failed | fail := spoilt
    · rw [failed, Bool.or_true]
    · rw [Option.isSome_iff_ne_none.mpr fail, Bool.true_or]
  have ends : windowEnd s c ones equal i = modCell (windowNoted s c ones equal i) c fun x =>
      { x with passes := 0, windowStart := none, failures := [] } := by
    rw [causeOf] at bad
    simp only [windowEnd, cellAt_of_getElem? hx, if_pos retest, if_pos bad]
    rfl
  obtain ⟨b, l, noted⟩ := windowNoted_cell ones equal i hx
  rw [ends]
  exact ⟨_, getElem?_modCell_same _ noted, retest, rfl, rfl⟩

/-! ### A clean retest window (R309) -/

/-- A clean retest window restores its cell if it is the third, and else counts. -/
theorem windowEnd_of_clean (hx : s.fountain.cells[c]? = some x) (retest : x.stateCode = 2) (clean : failedIn x i = false)
    (pass : causeOf x ones equal = none) : windowEnd s c ones equal i = if x.passes = 2
      then restoreCell (windowNoted s c ones equal i) c i
      else modCell (windowNoted s c ones equal i) c fun x => { x with passes := x.passes + 1, windowStart := none, failures := [] } := by
  have good : ¬ ((causeOf x ones equal).isSome || failedIn x i) = true := by
    rw [pass, clean]
    exact Bool.false_ne_true
  rw [causeOf] at good
  simp only [windowEnd, cellAt_of_getElem? hx, if_pos retest, if_neg good]
  rfl

/-- A cell that is healthy again, in its next window. -/
def restored (f : Fountain) (index : Nat) (x : Cell) : Cell := startWindow f index { x with stateCode := 1, passes := 0 }

/-- The state in which a cell is healthy again, before a failure stamped at the window's end counts. -/
def restoredState (s : State) (c index : Nat) : State :=
  acceptWindow (judgeSupply (logFountain (modCell s c (restored s.fountain index)) 0 0x0041
    (leBytes 1 c ++ [0] ++ leBytes 8 index))) c

theorem restoredState_cell (index : Nat) (hx : s.fountain.cells[c]? = some x) : ∃ n,
    (restoredState s c index).fountain.cells[c]? = some { restored s.fountain index x with accepted := n } := by
  have begun := getElem?_modCell_same (restored s.fountain index) hx
  rw [← logFountain_fountain _ 0 0x0041 (leBytes 1 c ++ [0] ++ leBytes 8 index)] at begun
  obtain ⟨n, judged, -⟩ := judgeSupply_cell begun
  have accepted := acceptWindow_cell judged
  exact ⟨_, accepted⟩

theorem restoreCell_of_timely (hx : s.fountain.cells[c]? = some x) (timely : ∀ f ∈ x.failures, f.1 < i) :
    restoreCell s c i = restoredState s c i := by
  have none : x.failures.find? (fun f => decide (i ≤ f.1)) = none :=
    List.find?_eq_none.mpr fun f hf => by simpa using timely f hf
  simp only [restoreCell, cellAt_of_getElem? hx, none]
  rfl

theorem restoreCell_of_late (hx : s.fountain.cells[c]? = some x) (late : ∃ f ∈ x.failures, i ≤ f.1) :
    ∃ cause index, restoreCell s c i = quarantineCell (restoredState s c i) c cause index := by
  obtain ⟨f, hf, hi⟩ := late
  have found : (x.failures.find? fun f => decide (i ≤ f.1)).isSome :=
    List.find?_isSome.mpr ⟨f, hf, decide_eq_true hi⟩
  obtain ⟨g, hg⟩ := Option.isSome_iff_exists.mp found
  refine ⟨if g.2 then 2 else 1, g.1, ?_⟩
  simp only [restoreCell, cellAt_of_getElem? hx, hg]
  rfl

/-- A third clean retest window restores its cell, and a failure stamped at its end quarantines it again; an earlier one counts. -/
theorem windowEnd_retests (hx : s.fountain.cells[c]? = some x) (retest : x.stateCode = 2) (clean : failedIn x i = false)
    (pass : causeOf x ones equal = none) : ∃ y, (windowEnd s c ones equal i).fountain.cells[c]? = some y ∧
      (x.passes = 2 → (∀ f ∈ x.failures, f.1 < i) → y.stateCode = 1 ∧ y.passes = 0 ∧ y.windowStart = some i) ∧
      (x.passes = 2 → (∃ f ∈ x.failures, i ≤ f.1) → y.stateCode = 2 ∧ y.passes = 0 ∧ y.windowStart = none) ∧
      (x.passes ≠ 2 → y.stateCode = 2 ∧ y.passes = x.passes + 1 ∧ y.windowStart = none) := by
  obtain ⟨b, l, noted⟩ := windowNoted_cell ones equal i hx
  rw [windowEnd_of_clean hx retest clean pass]
  by_cases third : x.passes = 2
  · rw [if_pos third]
    obtain ⟨n, healthy⟩ := restoredState_cell i noted
    by_cases late : ∃ f ∈ x.failures, i ≤ f.1
    · obtain ⟨cause, index, ends⟩ := restoreCell_of_late noted late
      rw [ends]
      refine ⟨_, quarantineCell_cell cause index healthy, fun _ timely => ?_, fun _ _ => ⟨rfl, rfl, rfl⟩,
        fun h => absurd third h⟩
      obtain ⟨f, hf, hi⟩ := late
      exact absurd (timely f hf) (Nat.not_lt.mpr hi)
    · have timely : ∀ f ∈ x.failures, f.1 < i := fun f hf => Nat.lt_of_not_le fun hi => late ⟨f, hf, hi⟩
      rw [restoreCell_of_timely noted timely]
      exact ⟨_, healthy, fun _ _ => ⟨rfl, rfl, rfl⟩, fun _ h => absurd h late, fun h => absurd third h⟩
  · rw [if_neg third]
    exact ⟨_, getElem?_modCell_same _ noted, fun h => absurd h third, fun h => absurd h third, fun _ => ⟨retest, rfl, rfl⟩⟩

/-- A bias beyond the limit is the cause, whatever the correlations (R306). -/
theorem windowCause_of_bias {bias : Nat} (h : x.biasLim.toNat < Int.natAbs (32768 - (bias : Int))) (l : List Int) :
    windowCause x bias l = some 3 := by
  have beyond : x.biasLim.toNat < (if bias < 32768 then 32768 - bias else bias - 32768) := by
    split <;> omega
  rw [windowCause, if_pos beyond]

end Window

/-! ## The rows -/

section Rows
variable {cell : Fin 8} {w : Nat} {p : Bool} {index : W64} (hx : s.fountain.cells[cell.val]? = some x)
  (start : x.windowStart = some w)
include hx start

/-- A test of R305 acts in the window that holds the bit: it spoils a retest, and quarantines a running cell. -/
theorem exec_healthTestFailure : exec (.healthTestFailure cell p index) s = .next (
    if !s.fountain.started || decide (index.toNat < w) || !testMayFail s.fountain p index.toNat then s
    else if x.stateCode = 2 then modCell s cell.val fun x => { x with failures := x.failures ++ [(index.toNat, p)] }
    else if index.toNat < w + 65536 then quarantineCell s cell.val (if p then 2 else 1) index.toNat
    else s) := by
  change execHealthTestFailure cell p index s = _
  simp only [execHealthTestFailure, cellAt_of_getElem? hx, start]

theorem healthTest_acts (started : s.fountain.started = true) (may : testMayFail s.fountain p index.toNat = true)
    (after : w ≤ index.toNat) : exec (.healthTestFailure cell p index) s = .next (
    if x.stateCode = 2 then modCell s cell.val fun x => { x with failures := x.failures ++ [(index.toNat, p)] }
    else if index.toNat < w + 65536 then quarantineCell s cell.val (if p then 2 else 1) index.toNat
    else s) := by
  have acts : ¬ (!s.fountain.started || decide (index.toNat < w) || !testMayFail s.fountain p index.toNat) = true := by
    simp [started, may, after]
  rw [exec_healthTestFailure hx start, if_neg acts]

theorem healthTest_ignored (h : index.toNat < w ∨ testMayFail s.fountain p index.toNat = false) :
    exec (.healthTestFailure cell p index) s = .next s := by
  have idle : (!s.fountain.started || decide (index.toNat < w) || !testMayFail s.fountain p index.toNat) = true := by
    obtain early | never := h
    · simp [early]
    · simp [never]
  rw [exec_healthTestFailure hx start, if_pos idle]

/-- The row of a window's end, at the index where the window says. -/
theorem exec_testWindowEnd (started : s.fountain.started = true) (ones : BitVec 17) (equal : Vector (BitVec 16) 4)
    (ends : if x.stateCode = 2 then w + 65536 ≤ index.toNat else index.toNat = w + 65536) :
    exec (.testWindowEnd cell ones equal index) s = .next (windowEnd s cell.val (windowOnes s.fountain ones.toNat)
      (windowEqual s.fountain (index.toNat - 65536) (equal.toList.map BitVec.toNat)) index.toNat) := by
  have due : (s.fountain.started && windowEndsAt (cellAt s cell.val) index.toNat) = true := by
    simp only [started, cellAt_of_getElem? hx, windowEndsAt, start, Bool.true_and]
    by_cases retest : x.stateCode = 2
    · rw [if_pos retest] at ends ⊢
      exact decide_eq_true ends
    · rw [if_neg retest] at ends ⊢
      exact decide_eq_true ends
  change execTestWindowEnd cell ones equal index s = _
  rw [execTestWindowEnd, if_pos due]

end Rows

/-! ## Noise and pattern (R320) -/

theorem testMayFail_of_noise {f : Fountain} (noise : f.patternEn = false) (p : Bool) (index : Nat) :
    testMayFail f p index = true := by
  simp [testMayFail, noise]

theorem window_of_noise {f : Fountain} (noise : f.patternEn = false) (ones start : Nat) (equal : List Nat) :
    windowOnes f ones = ones ∧ windowEqual f start equal = equal := by
  simp [windowOnes, windowEqual, noise]

end Sys2Proof.Machine
end

section
/-! SUPPORT. Chunks, seeds and slots, and O47 (13_fountain.md R311 to R317). -/
namespace Sys2Proof.Machine
open Sys2Proof

variable {s : State} {seed : List Byte}

/-! ## Chunks (R311) -/

/-- The cells that give a chunk in a period: the healthy ones whose buffers hold one. -/
def chunkCells (s : State) : List Nat :=
  (List.range 8).filter fun c => (cellAt s c).healthy && decide (64 ≤ (cellAt s c).accepted)

/-- The Fountain with a period's chunks in the pool. -/
def pooled (s : State) (chunks : List W64) : Fountain :=
  { s.fountain with
    cells := s.fountain.cells.map fun x =>
      if x.healthy && decide (64 ≤ x.accepted) then { x with accepted := x.accepted - 64 } else x
    pool := s.fountain.pool ++ (chunkCells s).flatMap fun c => leBytes 8 (cellChunk s chunks c)
    poolChunks := s.fountain.poolChunks + (chunkCells s).length }

/-- The Fountain whose full pool has become a seed. -/
def seeded (need : Nat) (f : Fountain) : Fountain :=
  { f with
    seed := some (seedOf (f.pool.take (8 * need))), pool := f.pool.drop (8 * need), poolChunks := f.poolChunks - need }

theorem chunkPeriod_of_supply (chunks : Vector W64 8) (started : s.fountain.started = true) (normal : s.fountain.rawMode = false)
    (supplied : s.fountain.supplyFailed = false) (healthy : 4 ≤ healthyCount s) : chunkPeriod s chunks =
      if poolNeed s ≤ (pooled s chunks.toList).poolChunks then { s with fountain := seeded (poolNeed s) (pooled s chunks.toList) }
      else { s with fountain := pooled s chunks.toList } := by
  have runs : ¬ (!s.fountain.started || s.fountain.rawMode || s.fountain.supplyFailed || decide (healthyCount s < 4)) = true := by
    simp [started, normal, supplied, healthy]
  rw [chunkPeriod, if_neg runs]
  rfl

theorem chunkPeriod_of_few (chunks : Vector W64 8) (few : healthyCount s < 4) : chunkPeriod s chunks = s := by
  have idle : (!s.fountain.started || s.fountain.rawMode || s.fountain.supplyFailed || decide (healthyCount s < 4)) = true := by
    simp [few]
  rw [chunkPeriod, if_pos idle]

theorem cellChunk_of_noise (noise : s.fountain.patternEn = false) (chunks : List W64) (c : Nat) :
    cellChunk s chunks c = (chunks.getD c 0).toNat := by
  simp [cellChunk, noise]

/-! ## The seed and readiness (R312, R315, R317) -/

theorem takeSeed_of_none (none : s.fountain.seed = none) : takeSeed s = s := by
  rw [takeSeed, none]

/-- The key and the value to which a first seed takes the expander. -/
def firstKeys (s : State) (seed : List Byte) : List Byte × List Byte :=
  drbgUpdate (zeroBytes 32) (zeroBytes 16) (xorBytes seed (personalisation s))

/-- The state in which a seed has instantiated the expander with a key and a value. -/
def instantiated (s : State) (p : List Byte × List Byte) : State :=
  { s with fountain := { s.fountain with
    seed := none, drbgKey := p.1, drbgV := p.2, instantiated := true, stopped := false, reseeds := s.fountain.reseeds + 1,
    slotNumber := 0, reseedTick := now s } }

theorem takeSeed_instantiates (has : s.fountain.seed = some seed) (new : s.fountain.instantiated = false) :
    takeSeed s = instantiated s (firstKeys s seed) := by
  simp only [takeSeed, has, new]
  rfl

theorem postNonce_changes (s : State) : ∃ n b, postNonce s = { s with freeCount := n, bridge := b } := by
  unfold postNonce
  split
  · exact ⟨_, _, rfl⟩
  · exact ⟨s.freeCount, _, rfl⟩

/-- The state in which the Fountain is ready, at the start of its first frame. -/
def madeReady (s : State) : State :=
  { s with fountain := { s.fountain with
    ready := true, readyReseeds := s.fountain.reseeds, startupExpired := false, frame := 0, frameSlot := 0,
    members := s.fountain.nextMembers } }

/-- The Fountain of a running expander becomes ready with its fourth healthy cell, and may then post the link's nonce. -/
theorem becomeReady_cases (s : State) :
    (s.fountain.ready = false ∧ s.fountain.instantiated = true ∧ 4 ≤ healthyCount s ∧
      ∃ n b, becomeReady s = { madeReady s with freeCount := n, bridge := b }) ∨
    (¬ (s.fountain.ready = false ∧ s.fountain.instantiated = true ∧ 4 ≤ healthyCount s) ∧ becomeReady s = s) := by
  by_cases becomes : (!s.fountain.ready && s.fountain.instantiated && decide (4 ≤ healthyCount s)) = true
  · left
    rw [becomeReady, if_pos becomes]
    simp only [Bool.and_eq_true, Bool.not_eq_true', decide_eq_true_eq] at becomes
    obtain ⟨⟨dry, runs⟩, healthy⟩ := becomes
    refine ⟨dry, runs, healthy, ?_⟩
    dsimp only
    split
    · exact postNonce_changes (madeReady s)
    · exact ⟨s.freeCount, s.bridge, rfl⟩
  · right
    rw [becomeReady, if_neg becomes]
    refine ⟨fun ⟨dry, runs, healthy⟩ => becomes ?_, rfl⟩
    simp [dry, runs, healthy]

theorem becomeReady_of_ready (ready : s.fountain.ready = true) : becomeReady s = s := by
  obtain ⟨dry, -⟩ | ⟨-, same⟩ := becomeReady_cases s
  · exact absurd (dry.symm.trans ready) Bool.false_ne_true
  · exact same

theorem becomeReady_jobs (s : State) : (becomeReady s).jobs = s.jobs := by
  obtain ⟨-, -, -, n, b, made⟩ | ⟨-, same⟩ := becomeReady_cases s
  · rw [made]
    rfl
  · rw [same]

/-- The Fountain of a running expander is ready from now on if enough cells are healthy, and its frames then start anew. -/
theorem becomeReady_fountain (dry : s.fountain.ready = false) (runs : s.fountain.instantiated = true) :
    ∃ reseeds expired frame slot members, (becomeReady s).fountain = { s.fountain with
        ready := decide (4 ≤ healthyCount s), readyReseeds := reseeds, startupExpired := expired, frame := frame,
        frameSlot := slot, members := members } ∧ (4 ≤ healthyCount s → slot = 0) := by
  obtain ⟨-, -, healthy, n, b, made⟩ | ⟨short, same⟩ := becomeReady_cases s
  · rw [made, decide_eq_true healthy]
    exact ⟨_, _, _, _, _, rfl, fun _ => rfl⟩
  · have few : ¬ 4 ≤ healthyCount s := fun healthy => short ⟨dry, runs, healthy⟩
    rw [same, decide_eq_false few, ← dry]
    exact ⟨_, _, _, _, _, rfl, fun healthy => absurd healthy few⟩

/-! ## A generate slot (R312 to R314) -/

theorem generateSlot_of_idle (h : s.fountain.started = false ∨ s.fountain.rawMode = true) : generateSlot s = s := by
  have idle : (!s.fountain.started || s.fountain.rawMode) = true := by
    obtain early | raw := h
    · simp [early]
    · simp [raw]
  rw [generateSlot, if_pos idle]

theorem generateSlot_of_started (started : s.fountain.started = true) (normal : s.fountain.rawMode = false) :
    generateSlot s = nextSlot (serveSlot (judgeLimit (postDraws (becomeReady (takeSeed s))))) := by
  have runs : ¬ (!s.fountain.started || s.fountain.rawMode) = true := by
    simp [started, normal]
  rw [generateSlot, if_neg runs]

theorem postDraws_of_posted (posted : ∀ p ∈ s.jobs, ∀ e ∈ p.2.draws, e.posted = true) : postDraws s = s := by
  have none : (s.jobs.filter fun p => p.2.draws.any fun d => !d.posted) = [] :=
    List.filter_eq_nil_iff.mpr fun p hp => by simpa using posted p hp
  rw [postDraws, jobsBy, none]
  rfl

theorem judgeLimit_of_young (young : s.fountain.slotNumber < 1048576) : judgeLimit s = s := by
  simp [judgeLimit, young]

/-- The state in which the output state has moved on to a key and a value. -/
def expanded (s : State) (p : List Byte × List Byte) : State :=
  { s with fountain := { s.fountain with drbgKey := p.1, drbgV := p.2 } }

theorem serveSlot_of_running (runs : s.fountain.instantiated = true) (going : s.fountain.stopped = false) :
    serveSlot s = giveSlot (expanded s (drbgGenerate s.fountain.drbgKey s.fountain.drbgV).2)
      (drbgGenerate s.fountain.drbgKey s.fountain.drbgV).1 := by
  have goes : ¬ (!s.fountain.instantiated || s.fountain.stopped) = true := by
    simp [runs, going]
  rw [serveSlot, if_neg goes]
  rfl

theorem serveMask_fountain (s : State) (u : Nat) : (serveMask s u).fountain = s.fountain := by
  unfold serveMask
  dsimp only
  split <;> rfl

/-- No draw is served before readiness, nor by a slot of the mask generators. -/
theorem giveSlot_fountain (out : List Byte) (h : s.fountain.ready = false ∨ s.fountain.frameSlot < 4) :
    (giveSlot s out).fountain = s.fountain := by
  unfold giveSlot
  dsimp only
  split
  · rfl
  · next ready =>
    have low : s.fountain.frameSlot < 4 := h.resolve_left fun dry => ready (by rw [dry]; rfl)
    rw [if_pos low]
    exact serveMask_fountain s _

/-- The frame's next slot of a running expander counts, and leaves its seed, its output state and the readiness. -/
theorem nextSlot_counts (runs : s.fountain.instantiated = true) : ∃ frame slot members, (nextSlot s).fountain =
    { s.fountain with slotNumber := s.fountain.slotNumber + 1, frame := frame, frameSlot := slot, members := members } := by
  unfold nextSlot
  simp only [runs, if_true]
  split_ifs <;> exact ⟨_, _, _, rfl⟩

theorem nextSlot_of_frame (runs : s.fountain.instantiated = true) (ready : s.fountain.ready = true)
    (within : s.fountain.frameSlot < 255) : nextSlot s = { s with fountain := { s.fountain with
      slotNumber := s.fountain.slotNumber + 1, frameSlot := s.fountain.frameSlot + 1 } } := by
  have taken : ¬ (!s.fountain.ready) = true := by simp [ready]
  simp only [nextSlot, if_pos runs, if_neg taken, if_pos within]

/-- A slot that serves no draw counts. -/
theorem nextSlot_without_draw (out : List Byte) (p : List Byte × List Byte) (runs : s.fountain.instantiated = true)
    (drawless : s.fountain.ready = false ∨ s.fountain.frameSlot < 4) : ∃ frame slot members,
      (nextSlot (giveSlot (expanded s p) out)).fountain = { s.fountain with
        drbgKey := p.1, drbgV := p.2, slotNumber := s.fountain.slotNumber + 1, frame := frame, frameSlot := slot,
        members := members } := by
  have given := giveSlot_fountain (s := expanded s p) out drawless
  obtain ⟨frame, slot, members, counted⟩ := nextSlot_counts ((congrArg Fountain.instantiated given).trans runs)
  rw [given] at counted
  exact ⟨frame, slot, members, counted⟩

/-- Once a seed has instantiated the expander the slot generates, and the Fountain is ready if enough cells are healthy. -/
theorem slot_of_instantiated (p : List Byte × List Byte) (idle : s.jobs = []) (dry : s.fountain.ready = false) :
    ∃ t, nextSlot (serveSlot (judgeLimit (postDraws (becomeReady (instantiated s p))))) = t ∧
      (t.fountain.drbgKey, t.fountain.drbgV) = (drbgGenerate p.1 p.2).2 ∧
      t.fountain.seed = none ∧ t.fountain.instantiated = true ∧ t.fountain.ready = decide (4 ≤ healthyCount s) ∧
      t.fountain.reseeds = s.fountain.reseeds + 1 ∧ t.fountain.slotNumber = 1 := by
  obtain ⟨_, _, _, _, _, fountain, first⟩ := becomeReady_fountain (s := instantiated s p) dry rfl
  have jobs : (becomeReady (instantiated s p)).jobs = [] := (becomeReady_jobs _).trans idle
  generalize becomeReady (instantiated s p) = u at fountain jobs
  have drawless : u.fountain.ready = false ∨ u.fountain.frameSlot < 4 := by
    rw [fountain]
    by_cases healthy : 4 ≤ healthyCount s
    · exact .inr (Nat.lt_of_le_of_lt (Nat.le_of_eq (first healthy)) (by decide))
    · exact .inl (decide_eq_false healthy)
  have posted : ∀ q ∈ u.jobs, ∀ e ∈ q.2.draws, e.posted = true := by
    rw [jobs]
    exact List.forall_mem_nil _
  have runs : u.fountain.instantiated = true := by rw [fountain]; rfl
  have going : u.fountain.stopped = false := by rw [fountain]; rfl
  have young : u.fountain.slotNumber < 1048576 := by rw [fountain]; exact Nat.zero_lt_succ _
  have key : u.fountain.drbgKey = p.1 := by rw [fountain]; rfl
  have value : u.fountain.drbgV = p.2 := by rw [fountain]; rfl
  rw [postDraws_of_posted posted, judgeLimit_of_young young, serveSlot_of_running runs going, key, value]
  generalize drbgGenerate p.1 p.2 = g
  obtain ⟨_, _, _, counted⟩ := nextSlot_without_draw g.1 g.2 runs drawless
  refine ⟨_, rfl, ?_⟩
  rw [counted, fountain]
  exact ⟨rfl, rfl, rfl, rfl, rfl, rfl⟩

/-- A first seed instantiates the expander. -/
theorem generateSlot_instantiates (idle : s.jobs = []) (started : s.fountain.started = true) (normal : s.fountain.rawMode = false)
    (has : s.fountain.seed = some seed) (new : s.fountain.instantiated = false) (dry : s.fountain.ready = false) :
    ∃ t, exec .generateSlot s = .next t ∧ (t.fountain.drbgKey, t.fountain.drbgV) =
        (drbgGenerate (firstKeys s seed).1 (firstKeys s seed).2).2 ∧
      t.fountain.seed = none ∧ t.fountain.instantiated = true ∧ t.fountain.ready = decide (4 ≤ healthyCount s) ∧
      t.fountain.reseeds = s.fountain.reseeds + 1 ∧ t.fountain.slotNumber = 1 := by
  obtain ⟨t, slot, ht⟩ := slot_of_instantiated (firstKeys s seed) idle dry
  have row : generateSlot s = t := by
    rw [generateSlot_of_started started normal, takeSeed_instantiates has new, slot]
  exact ⟨t, congrArg Host.Outcome.next row, ht⟩

/-! ## A slot of the device's holder (R313) -/

/-- The state in which a draw of job `k` that one slot cannot end has taken the slot's 128 bytes. -/
def drawServed (s : State) (out : List Byte) (h k : Nat) (d : Posted) (rest : List Posted) : State :=
  modJob { s with fountain.queue := KMap.put s.fountain.queue h ({ d with bytes := d.bytes - 128 } :: rest) } k fun j =>
    { j with drawn := j.drawn ++ out.take 128, drawReady := now s + 1 }

theorem get?_drawServed {k : Nat} {j : Job} (out : List Byte) (h : Nat) (d : Posted) (rest : List Posted)
    (hj : KMap.get? s.jobs k = some j) : KMap.get? (drawServed s out h k d rest).jobs k =
      some { j with drawn := j.drawn ++ out.take 128, drawReady := now s + 1 } :=
  get?_modJob_same (s := { s with fountain.queue := _ }) _ hj

theorem serveDraw_of_long {k h : Nat} {d : Posted} {rest : List Posted} (out : List Byte) (job : d.job = some k)
    (young : s.fountain.slotNumber < 4096) (long : 128 < d.bytes) :
    serveDraw s out h d rest = drawServed s out h k d rest := by
  obtain ⟨owner, bytes, fresh, posting⟩ := d
  obtain rfl : owner = some k := job
  have more : ¬ bytes ≤ 128 := Nat.not_le.mpr long
  simp only [serveDraw, if_neg more, Nat.min_eq_left (Nat.le_of_lt long), decide_eq_false (Nat.not_le.mpr young)]
  rfl

/-- The first draw that waits at the device's holder takes the slot's bytes, if it need not wait longer. -/
theorem giveSlot_of_device {d : Posted} {rest : List Posted} (out : List Byte) (ready : s.fountain.ready = true)
    (turn : s.fountain.frameSlot = 4) (waiting : KMap.get? s.fountain.queue 0 = some (d :: rest))
    (served : drawWaits s.fountain d = false) : giveSlot s out = serveDraw s out 0 d rest := by
  have taken : ¬ (!s.fountain.ready) = true := by simp [ready]
  have past : ¬ s.fountain.frameSlot < 4 := by omega
  have holder : slotHolder s.fountain s.fountain.frameSlot = some 0 := by rw [slotHolder, if_pos turn]
  have first : KMap.getD s.fountain.queue 0 [] = d :: rest := by rw [KMap.getD, waiting]; rfl
  simp only [giveSlot, if_neg taken, if_neg past, holder, first, served, Bool.false_eq_true, if_false]

/-- The device's slot of a ready Fountain gives its bytes to the draw that waits there. -/
theorem nextSlot_serves {k : Nat} {j : Job} {d : Posted} {rest : List Posted} (out : List Byte) (p : List Byte × List Byte)
    (ready : s.fountain.ready = true) (runs : s.fountain.instantiated = true) (going : s.fountain.stopped = false)
    (young : s.fountain.slotNumber < 4096) (turn : s.fountain.frameSlot = 4)
    (waiting : KMap.get? s.fountain.queue 0 = some (d :: rest)) (job : d.job = some k) (hj : KMap.get? s.jobs k = some j)
    (settled : d.fresh = false) (long : 128 < d.bytes) :
    ∃ t y, nextSlot (giveSlot (expanded s p) out) = t ∧ KMap.get? t.jobs k = some y ∧ y.drawn = j.drawn ++ out.take 128 ∧
      y.drawReady = now s + 1 ∧ KMap.get? t.fountain.queue 0 = some ({ d with bytes := d.bytes - 128 } :: rest) ∧
      (t.fountain.drbgKey, t.fountain.drbgV) = p ∧ t.fountain.frameSlot = 5 ∧
      t.fountain.slotNumber = s.fountain.slotNumber + 1 := by
  have served : drawWaits (expanded s p).fountain d = false := by
    simp [drawWaits, expanded, going, settled]
  have slot : giveSlot (expanded s p) out = drawServed (expanded s p) out 0 k d rest :=
    (giveSlot_of_device (s := expanded s p) out ready turn waiting served).trans
      (serveDraw_of_long (s := expanded s p) out job young long)
  have within : s.fountain.frameSlot < 255 := by omega
  have counted := nextSlot_of_frame (s := drawServed (expanded s p) out 0 k d rest) runs ready within
  rw [slot, counted]
  exact ⟨_, _, rfl, get?_drawServed (s := expanded s p) out 0 d rest hj, rfl, rfl, KMap.get?_put_same _ _ _, rfl,
    congrArg (· + 1) turn, rfl⟩

/-- A draw that waits at the device's holder is served in its slot, and the output state moves on. -/
theorem generateSlot_serves {k : Nat} {j : Job} {d : Posted} {rest : List Posted}
    (posted : ∀ p ∈ s.jobs, ∀ e ∈ p.2.draws, e.posted = true) (started : s.fountain.started = true)
    (normal : s.fountain.rawMode = false) (none : s.fountain.seed = none) (ready : s.fountain.ready = true)
    (runs : s.fountain.instantiated = true) (going : s.fountain.stopped = false) (young : s.fountain.slotNumber < 4096)
    (turn : s.fountain.frameSlot = 4) (waiting : KMap.get? s.fountain.queue 0 = some (d :: rest)) (job : d.job = some k)
    (hj : KMap.get? s.jobs k = some j) (settled : d.fresh = false) (long : 128 < d.bytes) :
    ∃ t y, exec .generateSlot s = .next t ∧ KMap.get? t.jobs k = some y ∧
      y.drawn = j.drawn ++ (drbgGenerate s.fountain.drbgKey s.fountain.drbgV).1.take 128 ∧ y.drawReady = now s + 1 ∧
      KMap.get? t.fountain.queue 0 = some ({ d with bytes := d.bytes - 128 } :: rest) ∧
      (t.fountain.drbgKey, t.fountain.drbgV) = (drbgGenerate s.fountain.drbgKey s.fountain.drbgV).2 ∧
      t.fountain.frameSlot = 5 ∧ t.fountain.slotNumber = s.fountain.slotNumber + 1 := by
  obtain ⟨t, y, slot, hy⟩ := nextSlot_serves (drbgGenerate s.fountain.drbgKey s.fountain.drbgV).1
    (drbgGenerate s.fountain.drbgKey s.fountain.drbgV).2 ready runs going young turn waiting job hj settled long
  have row : generateSlot s = t := by
    rw [generateSlot_of_started started normal, takeSeed_of_none none, becomeReady_of_ready ready, postDraws_of_posted posted,
      judgeLimit_of_young (Nat.lt_trans young (by decide)), serveSlot_of_running runs going, slot]
  exact ⟨t, y, congrArg Host.Outcome.next row, hy⟩

/-! ## The obligation -/

/-- Settles O47: the health tests and windows of a cell, then chunks, seeds and slots. -/
theorem noise : Obligations.Noise := by
  unfold Obligations.Noise
  refine ⟨?_, fun s => ⟨?_, fun chunks few => ?_, fun idle => ?_, fun seed => generateSlot_instantiates,
    fun k j d rest => generateSlot_serves⟩⟩
  · rintro s c x w ones equal i hx started start m e rfl rfl
    have row := exec_testWindowEnd hx start started ones equal (index := i)
    refine ⟨fun p may running after before => ?_, fun p may retest after => ?_, fun p h => healthTest_ignored hx start h,
      fun p noise => testMayFail_of_noise noise p _, fun noise => window_of_noise noise _ _ _, fun running ends pass => ?_,
      fun n running ends fail => ?_, fun retest clean ends pass => ?_, fun retest ends spoilt => ?_,
      fun h l => windowCause_of_bias h l⟩
    · rw [healthTest_acts hx start started may after, if_neg running, if_pos before]
      exact ⟨_, _, rfl, quarantineCell_cell _ _ hx, rfl, rfl, rfl, rfl, rfl⟩
    · rw [healthTest_acts hx start started may after, if_pos retest]
    · obtain ⟨y, hy⟩ := windowEnd_passes hx running pass
      exact ⟨_, y, row (by rwa [if_neg running]), hy⟩
    · obtain ⟨y, hy⟩ := windowEnd_quarantines hx running fail
      exact ⟨_, y, row (by rwa [if_neg running]), hy⟩
    · obtain ⟨y, hy⟩ := windowEnd_retests hx retest clean pass
      exact ⟨_, y, row (by rwa [if_pos retest]), hy⟩
    · obtain ⟨y, hy⟩ := windowEnd_spoils hx retest spoilt
      exact ⟨_, y, row (by rwa [if_pos retest]), hy⟩
  · rintro chunks started normal supplied healthy l p rfl rfl
    have row : exec (.chunkPeriod chunks) s = .next _ :=
      congrArg Host.Outcome.next (chunkPeriod_of_supply chunks started normal supplied healthy)
    refine ⟨fun noise => cellChunk_of_noise noise _, ?_⟩
    obtain short | full := Nat.lt_or_ge (pooled s chunks.toList).poolChunks (poolNeed s)
    · rw [row, if_neg (Nat.not_le.mpr short)]
      exact ⟨_, rfl, rfl, fun _ => ⟨rfl, rfl, rfl⟩, fun h => absurd short (Nat.not_lt.mpr h)⟩
    · rw [row, if_pos full]
      exact ⟨_, rfl, rfl, fun h => absurd h (Nat.not_lt.mpr full), fun _ => ⟨rfl, rfl⟩⟩
  · exact congrArg Host.Outcome.next (chunkPeriod_of_few chunks few)
  · exact congrArg Host.Outcome.next (generateSlot_of_idle idle)

end Sys2Proof.Machine
end

section
/-! SUPPORT. What one step keeps, with O3: the queue's rest and the life-cycle bits (15_lifecycle_debug.md R350). -/
namespace Sys2Proof.Machine
open Sys2Proof

/-- A state keeps the queue it has and its own life-cycle words. -/
theorem Keeps.of_pending {P : List Instr} {s : State} (queue : s.pending = P) : Keeps P s.otp.lcWords s :=
  ⟨queue, fun _ _ _ set => set⟩

theorem step_of_idle {s : State} (idle : s.pending = []) : step s = .next s := by
  rw [step, idle]

theorem step_of_front {s : State} {c : Instr} {rest : List Instr} (front : s.pending = c :: rest) :
    step s = exec c { s with pending := rest } := by
  rw [step, front]

/-- The command in front leaves before its row runs, and no row changes the queue or clears a life-cycle bit. -/
theorem step_keeps (s : State) : KeepsO s.pending.tail s.otp.lcWords (step s) := by
  cases front : s.pending with
  | nil =>
    rw [step_of_idle front]
    exact KeepsO.next (Keeps.of_pending front)
  | cons c rest =>
    rw [step_of_front front]
    exact exec_keeps c (Keeps.of_pending (s := { s with pending := rest }) rfl)

/-- Settles O3: a step is idle or the row of the command in front, and both keep the queue's rest and the set bits. -/
theorem everyStepKeeps : Obligations.EveryStepKeeps := by
  unfold Obligations.EveryStepKeeps
  exact fun s t run => step_keeps s t run

end Sys2Proof.Machine
end

section
/-! SUPPORT. The debug access port, OTP programming and the dump readout through JTAG, and SMBus, with O16
(15_lifecycle_debug.md R351; 21_errors_dump_bist.md R482; 23_registers.md R518, R525). -/
namespace Sys2Proof.Machine
open Sys2Proof

variable {s : State}

/-! ## The ports -/

theorem jtagOpen_iff : jtagOpen s = true ↔ 2 ≤ s.boot.stage ∧ (s.lc.inForce = 0 ∨ s.lc.inForce = 1) := by
  simp only [jtagOpen, Bool.and_eq_true, decide_eq_true_eq]

theorem dapOpen_iff : dapOpen s = true ↔ 2 ≤ s.boot.stage ∧ (s.lc.inForce = 0 ∨ s.lc.inForce = 1) ∨
    (s.lc.debug = true ∧ s.lc.scope.getLsbD 0 = true) := by
  rw [dapOpen, Bool.or_eq_true, jtagOpen_iff, Bool.and_eq_true]

theorem exec_dbgHalt (v : W32) : exec (.dbgHalt v) s = .next (if !dapOpen s then s
    else if tenantsActive s then { s with lc.haltRefused := true }
    else tapReleased { s with lc := { s.lc with haltRefused := false, halt := v.setWidth 12 } }) := rfl

/-! ## TCK's clock domain (log entry 123) -/

theorem getElem?_releaseClocks (l : List Clock) (p : Nat → Bool) (i : Nat) : (releaseClocks l p)[i]? =
    l[i]?.map fun c => if p (i + 1) then { reset := false, gated := decide (13 ≤ i + 1 ∧ i + 1 ≤ 24) } else c :=
  List.getElem?_mapIdx

theorem tapReleased_clock_other {i : Nat} (other : i ≠ 39) : (tapReleased s).clocks[i]? = s.clocks[i]? := by
  have kept : ¬ decide (i + 1 = 40) = true := by simpa using other
  simp only [tapReleased, getElem?_releaseClocks, if_neg kept, Option.map_id']

theorem tapReleased_clock_tck {c : Clock} (at39 : (tapReleased s).clocks[39]? = some c) : c.reset = false := by
  rw [tapReleased, getElem?_releaseClocks] at at39
  obtain ⟨_, -, released⟩ := Option.map_eq_some_iff.mp at39
  exact released ▸ rfl

/-! ## OTP items: each programs in its own states (Table 15-3) -/

theorem exec_jtagOtpProgram_of_open (opened : jtagOpen s = true) (i : OtpItem) :
    exec (.jtagOtpProgram i) s = .next (programItem (tapReleased s) i) :=
  congrArg Host.Outcome.next (if_pos opened)

theorem exec_jtagOtpProgram_of_closed (closed : ¬ jtagOpen s = true) (i : OtpItem) : exec (.jtagOtpProgram i) s = .next s :=
  congrArg Host.Outcome.next (if_neg closed)

theorem programItem_deviceId (v : W64) : programItem s (.deviceId v) =
    if s.lc.inForce = 0 then { s with otp.deviceId := s.otp.deviceId ||| v } else s := by
  simp only [programItem, decide_eq_true_eq]

theorem programItem_patchKey (v : Vector Byte 32) : programItem s (.patchKey v) =
    if s.lc.inForce = 0 then { s with otp.patchKey := programBytes s.otp.patchKey v.toList } else s := by
  simp only [programItem, decide_eq_true_eq]

theorem programItem_fuseVariant (v : BitVec 3) : programItem s (.fuseVariant v) =
    if s.lc.inForce = 0 then { s with otp.variantBits := s.otp.variantBits ||| v } else s := by
  simp only [programItem, decide_eq_true_eq]

theorem programItem_codeHash (v : Vector Byte 32) : programItem s (.codeHash v) =
    if s.lc.inForce = 1 then { s with otp.codeHash := programBytes s.otp.codeHash v.toList } else s := by
  simp only [programItem, decide_eq_true_eq]

theorem programItem_debugHash (v : Vector Byte 32) : programItem s (.debugHash v) =
    if s.lc.inForce = 1 then { s with otp.debugHash := programBytes s.otp.debugHash v.toList } else s := by
  simp only [programItem, decide_eq_true_eq]

theorem programItem_anchorHash (v : Vector Byte 32) : programItem s (.anchorHash v) =
    if s.lc.inForce = 1 then { s with otp.anchorHash := programBytes s.otp.anchorHash v.toList } else s := by
  simp only [programItem, decide_eq_true_eq]

theorem programItem_fuseTamper (v : BitVec 16) : programItem s (.fuseTamper v) =
    if s.lc.inForce = 1 then { s with otp.tamperBits := s.otp.tamperBits ||| v } else s := by
  simp only [programItem, decide_eq_true_eq]

theorem programItem_lifeCycle (w : Fin 4) (bits : W32) : programItem s (.lifeCycle w bits) =
    if lifeWrite s.otp w bits then { s with
      otp.lcWords := s.otp.lcWords.modify w.val fun x => x ||| bits,
      lc.pending := (decodeLife (s.otp.lcWords.modify w.val fun x => x ||| bits)).1 } else s := rfl

/-! ## The dump readout and SMBus -/

theorem exec_jtagDumpReadout : exec .jtagDumpReadout s = execJtagDumpReadout s := rfl

theorem exec_jtagDumpReadout_of_copy {n : Nat} {parts : List (Nat × List Byte)} (staged : 2 ≤ s.boot.stage)
    (ended : s.lc.inForce = 3) (copy : s.dump.mediaCopy = some (n, parts)) : exec .jtagDumpReadout s =
      .next { tapReleased s with link.out := s.link.out ++ parts.map fun p => Outbound.jtag p.2 } := by
  simp [exec_jtagDumpReadout, execJtagDumpReadout, staged, ended, copy]

theorem exec_jtagDumpReadout_of_nothing (nothing : s.boot.stage < 2 ∨ s.lc.inForce ≠ 3 ∨ s.dump.mediaCopy = none) :
    exec .jtagDumpReadout s = .next s := by
  obtain early | field | empty := nothing
  · simp [exec_jtagDumpReadout, execJtagDumpReadout, Nat.not_le.mpr early]
  · simp [exec_jtagDumpReadout, execJtagDumpReadout, field]
  · simp [exec_jtagDumpReadout, execJtagDumpReadout, empty]

theorem exec_smbusReadWord (c : BitVec 8) : exec (.smbusReadWord c) s = execSmbusReadWord c s := rfl

theorem exec_smbusReadWord_of_word {c : BitVec 8} {v : Nat} (word : smbusWord s c.toNat = some v) (out : 1 ≤ s.boot.stage) :
    exec (.smbusReadWord c) s = .next { s with link.out := s.link.out ++ [.smbus v] } := by
  simp [exec_smbusReadWord, execSmbusReadWord, word, out]

theorem smbusWord_of_large {c : Nat} (large : 4 < c) : smbusWord s c = none := by
  match c, large with
  | _ + 5, _ => rfl

theorem exec_smbusReadWord_of_no_word {c : BitVec 8} (no : smbusWord s c.toNat = none) :
    exec (.smbusReadWord c) s = .next s := by
  simp [exec_smbusReadWord, execSmbusReadWord, no]

/-! ## The obligation -/

/-- Settles O16: the halt port, the items of OTP in each life-cycle state, TCK's release, the readout and SMBus. -/
theorem debugPorts : Obligations.DebugPorts := by
  unfold Obligations.DebugPorts
  refine ⟨fun s v => ⟨fun closed => ?_, fun reach => ?_⟩, fun s staged => ⟨fun blank => ?_, fun test => ?_, fun early => ?_,
    fun late i => ?_⟩, fun s => ⟨fun i => ⟨rfl, fun other => tapReleased_clock_other other, fun c => tapReleased_clock_tck⟩,
    fun n parts => exec_jtagDumpReadout_of_copy, exec_jtagDumpReadout_of_nothing, fun out => ?_⟩⟩
  · rw [exec_dbgHalt, closed]
    rfl
  · have opened := dapOpen_iff.mpr reach
    refine ⟨fun owned => ?_, fun free => ?_⟩
    · rw [exec_dbgHalt, opened, owned]
      rfl
    · rw [exec_dbgHalt, opened, free]
      rfl
  · have row := exec_jtagOtpProgram_of_open (jtagOpen_iff.mpr ⟨staged, .inl blank⟩)
    have blank' : (tapReleased s).lc.inForce = 0 := blank
    have field : ¬ (tapReleased s).lc.inForce = 1 := by omega
    refine ⟨fun v => ?_, fun v => ?_, fun v => ?_, fun v => ?_⟩
    · rw [row, programItem_deviceId, if_pos blank']
      rfl
    · rw [row, programItem_patchKey, if_pos blank']
      rfl
    · rw [row, programItem_fuseVariant, if_pos blank']
      rfl
    · rw [row, programItem_codeHash, if_neg field]
  · have row := exec_jtagOtpProgram_of_open (jtagOpen_iff.mpr ⟨staged, .inr test⟩)
    have test' : (tapReleased s).lc.inForce = 1 := test
    have used : ¬ (tapReleased s).lc.inForce = 0 := by omega
    refine ⟨fun v => ?_, fun v => ?_, fun v => ?_, fun v => ?_, fun v => ?_⟩
    · rw [row, programItem_codeHash, if_pos test']
      rfl
    · rw [row, programItem_debugHash, if_pos test']
      rfl
    · rw [row, programItem_anchorHash, if_pos test']
      rfl
    · rw [row, programItem_fuseTamper, if_pos test']
      rfl
    · rw [row, programItem_deviceId, if_neg used]
  · have row := exec_jtagOtpProgram_of_open (jtagOpen_iff.mpr ⟨staged, early⟩)
    refine ⟨fun v => row _, fun w bits taken => ?_, fun w bits barred => ?_⟩
    · have taken' : lifeWrite (tapReleased s).otp w bits = true := taken
      rw [row, programItem_lifeCycle, if_pos taken']
      rfl
    · have barred' : ¬ lifeWrite (tapReleased s).otp w bits = true := Bool.eq_false_iff.mp barred
      rw [row, programItem_lifeCycle, if_neg barred']
  · exact exec_jtagOtpProgram_of_closed (fun opened => absurd (jtagOpen_iff.mp opened).2 (by omega)) i
  · exact ⟨exec_smbusReadWord_of_word rfl out, exec_smbusReadWord_of_word rfl out, exec_smbusReadWord_of_word rfl out,
      fun c large => exec_smbusReadWord_of_no_word (smbusWord_of_large large), congrArg Host.Outcome.next (if_pos out)⟩

end Sys2Proof.Machine
end

section
/-! SUPPORT. The front of the queue, the answers of the rows, and the full resets, with O1, O2 and O4 (log entries 1 and 2;
20_reset_boot.md R449). -/
namespace Sys2Proof.Machine
open Sys2Proof

/-! ## The command in front -/

/-- Settles O1: the command put in front is the one that leaves, and what remains is the state as it was. -/
theorem stepRunsFront : Obligations.StepRunsFront := by
  unfold Obligations.StepRunsFront
  exact fun c s => step_of_front (s := s.push c) rfl

/-! ## Rows whose answer stands under a case split -/

theorem jobRow_answers (ok : Job → Bool) (r : JobRef) (s : State) : ∃ t, jobRow ok r s = .next t := by
  unfold jobRow
  dsimp only
  repeat' split
  all_goals exact ⟨_, rfl⟩

theorem jobPlacement_answers (r : JobRef) (s : State) : answers (.jobPlacement r) s := by
  change ∃ t, execJobPlacement r s = .next t
  unfold execJobPlacement
  dsimp only
  repeat' split
  all_goals exact ⟨_, rfl⟩

theorem jobCompletion_answers (r : JobRef) (s : State) : answers (.jobCompletion r) s := by
  change ∃ t, execJobCompletion r s = .next t
  unfold execJobCompletion
  dsimp only
  repeat' split
  all_goals exact ⟨_, rfl⟩

theorem abortJobs_answers (r : JobRef) (s : State) : answers (.abortJobs r) s := by
  change ∃ t, execAbortJobs r s = .next t
  unfold execAbortJobs
  dsimp only
  repeat' split
  all_goals exact ⟨_, rfl⟩

theorem abortReservationDetach_answers (r : JobRef) (s : State) : answers (.abortReservationDetach r) s := by
  change ∃ t, execAbortReservationDetach r s = .next t
  unfold execAbortReservationDetach
  dsimp only
  repeat' split
  all_goals exact ⟨_, rfl⟩

theorem keyReservationDetach_answers (r : JobRef) (s : State) : answers (.keyReservationDetach r) s := by
  change ∃ t, execKeyReservationDetach r s = .next t
  unfold execKeyReservationDetach
  dsimp only
  repeat' split
  all_goals exact ⟨_, rfl⟩

theorem debugUnlockToken_answers (r : JobRef) (s : State) : answers (.debugUnlockToken r) s := by
  change ∃ t, execDebugUnlockToken r s = .next t
  unfold execDebugUnlockToken
  dsimp only
  repeat' split
  all_goals exact ⟨_, rfl⟩

theorem batteryRemoval_answers (s : State) : answers .batteryRemoval s := by
  change ∃ t, execBatteryRemoval s = .next t
  unfold execBatteryRemoval
  split <;> exact ⟨_, rfl⟩

theorem lpoCycle_answers (mesh tiles vbat) (s : State) : answers (.lpoCycle mesh tiles vbat) s := by
  change ∃ t, execLpoCycle mesh tiles vbat s = .next t
  unfold execLpoCycle
  split <;> exact ⟨_, rfl⟩

/-! ## The two rows that an ill-formed command can reach -/

theorem linkTrainingEnd_answers {speed : BitVec 3} {width : BitVec 5} (formed : trainedLink speed width = true) (s : State) :
    answers (.linkTrainingEnd speed width) s := by
  change ∃ t, execLinkTrainingEnd speed width s = .next t
  rw [execLinkTrainingEnd, formed]
  exact ⟨_, rfl⟩

theorem linkTrainingEnd_refused {speed : BitVec 3} {width : BitVec 5} (bad : trainedLink speed width = false) (s : State) :
    exec (.linkTrainingEnd speed width) s = .refused .illFormed := by
  change execLinkTrainingEnd speed width s = _
  rw [execLinkTrainingEnd, bad]
  rfl

theorem dataReadArrival_answers (r : JobRef) {bytes : List Byte} (formed : readBytes bytes = true) (s : State) :
    answers (.dataReadArrival r bytes) s := by
  change ∃ t, execDataReadArrival r bytes s = .next t
  rw [execDataReadArrival, formed]
  dsimp only
  rw [if_neg (by decide : ¬ (!true) = true)]
  repeat' split
  all_goals exact ⟨_, rfl⟩

theorem dataReadArrival_refused (r : JobRef) {bytes : List Byte} (bad : readBytes bytes = false) (s : State) :
    exec (.dataReadArrival r bytes) s = .refused .illFormed := by
  change execDataReadArrival r bytes s = _
  rw [execDataReadArrival, bad]
  rfl

theorem exec_answers {c : Instr} (formed : c.wellFormed = true) (s : State) : answers c s := by
  cases c with
  | linkTrainingEnd speed width => exact linkTrainingEnd_answers formed s
  | dataReadArrival r bytes => exact dataReadArrival_answers r formed s
  | jobPlacement r => exact jobPlacement_answers r s
  | jobCompletion r => exact jobCompletion_answers r s
  | abortJobs r => exact abortJobs_answers r s
  | abortReservationDetach r => exact abortReservationDetach_answers r s
  | keyReservationDetach r => exact keyReservationDetach_answers r s
  | debugUnlockToken r => exact debugUnlockToken_answers r s
  | batteryRemoval => exact batteryRemoval_answers s
  | lpoCycle mesh tiles vbat => exact lpoCycle_answers mesh tiles vbat s
  | mlKemKeygen r | mlKemEncaps r | mlKemDecaps r | mlDsaKeygen r | mlDsaSign r | mlDsaVerify r | mlDsaSignPh r | mlDsaVerifyPh r
  | fnDsaSign r | fnDsaVerify r | fnDsaSignPh r | fnDsaVerifyPh r | slhDsaKeygen r | slhDsaSign r | slhDsaVerify r
  | slhDsaSignPh r | slhDsaVerifyPh r | lmsKeygen r | lmsSign r | lmsVerify r | xmssKeygen r | xmssSign r | xmssVerify r
  | mcelieceKeygen r | mcelieceEncaps r | mcelieceDecaps r | keyReside r | hqcKeygen r | hqcEncaps r | hqcDecaps r
  | ecdsaKeygen r | ecdsaSign r | ecdsaVerify r | ecdhAgree r | curveLoad r | curveUnload r | edwardsKeygen r | edwardsSign r
  | edwardsVerify r | montgomeryAgree r | rsaSignV15 r | rsaVerifyV15 r | rsaSignPss r | rsaVerifyPss r | rsaEncryptOaep r
  | rsaDecryptOaep r | bnAdd r | bnSub r | bnMul r | bnInv r | bnExp r | bnClear r | digestInit r | keyedInit r | digestUpdate r
  | digestFinal r | stateExport r | stateImport r | keyedStateImport r | keyedPrepare r | releaseSlot r | sealPubkey r | sealOpen r
  | importKey r | authImport r | generateKey r | wrap r | unwrap r | publicPart r | destroyKey r | describeKey r | fumelQuote r
  | notarise r | journalKey r | openRoutineCall r => exact jobRow_answers _ r s
  | _ => exact ⟨_, rfl⟩

theorem exec_refuses {c : Instr} (bad : c.wellFormed = false) (s : State) : exec c s = .refused .illFormed := by
  cases c with
  | linkTrainingEnd speed width => exact linkTrainingEnd_refused bad s
  | dataReadArrival r bytes => exact dataReadArrival_refused r bad s
  | _ => cases bad

/-- Settles O2: the empty queue idles, a well-formed command is answered by its row, an ill-formed one is refused. -/
theorem queueAndForm : Obligations.QueueAndForm := by
  unfold Obligations.QueueAndForm
  exact ⟨fun s idle => step_of_idle idle, fun c s => ⟨fun formed => exec_answers formed s, fun bad => exec_refuses bad s⟩⟩

/-! ## Full resets -/

theorem restarted_fullReset (s : State) (cause : Nat) (thermal : Bool) : restarted cause s (fullReset s cause thermal) :=
  ⟨rfl, rfl, rfl, rfl, rfl, rfl, rfl, rfl, rfl, rfl, rfl, rfl, rfl, rfl, rfl, rfl, rfl, rfl, rfl, rfl, rfl, rfl, rfl, rfl⟩

theorem restarted_powerOnReset (s : State) (power : Bool) : restarted 1 s (powerOnReset s power) :=
  restarted_fullReset s 1 false

theorem globalWrite_key {s : State} (noDump : s.dump.onGlobal = false) : globalWrite s 0x52535447 = fullReset s 3 false := by
  rw [globalWrite, if_pos rfl, noDump]
  rfl

/-- Settles O4: each source ends in a full reset, power and the thermal trip with their own mark beside it. -/
theorem resetSources : Obligations.ResetSources := by
  unfold Obligations.ResetSources
  refine fun s => ⟨fun power => ⟨_, rfl, restarted_powerOnReset s power, rfl⟩, fun armed => ?_, fun noDump => ?_, fun runs => ?_⟩
  · exact ⟨_, congrArg Host.Outcome.next (if_pos armed), restarted_fullReset s 2 false⟩
  · exact ⟨_, congrArg Host.Outcome.next (globalWrite_key noDump), restarted_fullReset s 3 false⟩
  · exact ⟨_, congrArg Host.Outcome.next (if_pos (decide_eq_true runs)), restarted_fullReset s 5 true, rfl⟩

end Sys2Proof.Machine
end

section
/-! SUPPORT. What each boot step finds carries the boot on, with O6 (20_reset_boot.md R457 to R462). -/
namespace Sys2Proof.Machine
open Sys2Proof

variable {s : State}

/-! ## A step that runs -/

/-- The boot advances: the device is powered, out of PORST_N and not stopped. -/
def booting (s : State) : Prop := s.boot.power = true ∧ s.boot.porst = false ∧ s.boot.halted = false

/-- What a step finds, matched with the step that is running. -/
def stepResult (s : State) (r : BootReport) : State :=
  match s.boot.step, r with
  | 1, .directory b => endDirectory s b
  | 2, .firmware a b => endFirmware s a b
  | 3, .container b => endContainer s b
  | 4, .calibrated sites avs => endCalibration s sites avs
  | 5, .zeroised => endZeroising s
  | _, _ => s

theorem exec_bootStepComplete (h : booting s) (r : BootReport) :
    exec (.bootStepComplete r) s = .next (stepResult s r) := by
  obtain ⟨power, porst, halted⟩ := h
  change Host.Outcome.next (endStep s r) = _
  unfold endStep
  rw [power, porst, halted]
  rfl

/-! ## Steps 1 to 3: the directory and the two images -/

theorem startDownload_changes (s : State) : ∃ d l, startDownload s = { s with boot.downloaded := d, link := l } := by
  unfold startDownload
  split
  · exact ⟨_, _, rfl⟩
  · exact ⟨s.boot.downloaded, s.link, rfl⟩

theorem endDirectory_ok {b : List Byte} (ok : directoryOk b = true) :
    (endDirectory s (some b)).boot.step = 2 ∧ (endDirectory s (some b)).boot.directory = b := by
  obtain ⟨d, l, e⟩ := startDownload_changes { s with boot := { s.boot with step := 2, directory := b } }
  rw [endDirectory, if_pos ok, e]
  exact ⟨rfl, rfl⟩

theorem endDirectory_bad {b : List Byte} (bad : directoryOk b = false) : (endDirectory s (some b)).boot.fatalN = true ∧
    (endDirectory s (some b)).boot.halted = true ∧ (endDirectory s (some b)).boot.error = 2 := by
  rw [endDirectory, if_neg (by rw [bad]; decide)]
  exact ⟨rfl, rfl, rfl⟩

/-- Image A, read and good, runs: image B is not looked at. -/
theorem endFirmware_imageA {a : List Byte} (b : Option (List Byte)) (source : bootSource s ≠ 1) (lists : listed s 0 = true)
    (good : firmwareReason s a = 0) :
    endFirmware s (some a) b = runFirmware { s with boot.imageA := 0 } 1 a := by
  have takes : accepted { s with boot.imageA := firmwareReason s a } (some a) = true := decide_eq_true good
  have local' : ¬ (decide (bootSource s = 1) && !s.boot.downloaded) = true := by simp [source]
  rw [endFirmware, if_neg local', lists]
  refine (if_pos takes).trans ?_
  change runFirmware { s with boot.imageA := firmwareReason s a } 1 a = _
  rw [good]

theorem endContainer_ok {b : List Byte} (lists : listed s 2 = true) (good : containerReason s b = 0) :
    endContainer s (some b) = loadContainer s b := by
  rw [endContainer, lists]
  exact if_pos good

/-! ## Steps 4 and 5: calibration and zeroising -/

theorem endCalibration_at_last (sites : Vector SiteDelay 24) (avs : AvsReport) (stage : s.boot.stage = lastStage s) :
    endCalibration s sites avs =
      { calibrateSundial s (siteList sites) avs with
        gh := { (calibrateSundial s (siteList sites) avs).gh with calibrated := true },
        boot := { (calibrateSundial s (siteList sites) avs).boot with step := 5 } } := by
  rw [endCalibration, if_neg (not_not_intro stage)]

theorem raiseThermometer_changes (s : State) : ∃ n, raiseThermometer s = { s with otp.rollback := n } := by
  unfold raiseThermometer
  split
  · exact ⟨s.otp.rollback, rfl⟩
  · exact ⟨_, rfl⟩

/-- The device as step 7 leaves it, before the event that names the cause of the reset. -/
def readied (s : State) : State :=
  { startFountain s with
    boot := { s.boot with step := 7, error := 0, ready := true, sysReady := true, causeDue := true },
    lodge := { s.lodge with failures := 0 },
    allots := KMap.put s.allots 0 Allotment.admin }

/-- The event and the thermometer leave what step 7 made ready. -/
theorem becomeBooted_changes (s : State) : ∃ n e l,
    becomeBooted s = { readied s with otp.rollback := n, events := e, journal := l } := by
  obtain ⟨e, l, logged⟩ := logEventAt_changes (readied s) 0 0x0001 0xFFFF 0xFF 0xFF 0xFF (causeDetail (readied s))
  obtain ⟨n, raised⟩ := raiseThermometer_changes { readied s with events := e, journal := l }
  exact ⟨n, e, l, (congrArg raiseThermometer logged).trans raised⟩

/-! ## GO -/

theorem bootGo_sets (s : State) : (bootGo s).boot.bootGo = true ∧ (bootGo s).boot.bootAddr = s.boot.bootAddr := by
  obtain ⟨d, l, e⟩ := startDownload_changes { s with boot.bootGo := true }
  rw [bootGo, e]
  exact ⟨rfl, rfl⟩

theorem bootGo_downloads (source : bootSource s = 1) (bme : (funcAt s 0).bme = true) (fresh : s.boot.downloaded = false)
    (step : s.boot.step ≤ 2) (stage : 5 ≤ s.boot.stage) : bootGo s =
      request { s with boot := { s.boot with bootGo := true, downloaded := true } }
        (.read 0 0 s.boot.bootAddr s.boot.bootLen.toNat) := by
  refine if_pos ?_
  simp only [Bool.and_eq_true, Bool.not_eq_true', decide_eq_true_eq, and_true]
  exact ⟨⟨⟨⟨source, bme⟩, fresh⟩, step⟩, stage⟩

/-! ## The obligation -/

/-- Settles O6: each step's row is its end of step, and each end is the lemma of its step. -/
theorem bootStepsAdvance : Obligations.BootStepsAdvance := by
  unfold Obligations.BootStepsAdvance
  refine ⟨fun s power porst halted => ?_, fun s => ?_⟩
  · have row := exec_bootStepComplete (s := s) ⟨power, porst, halted⟩
    refine ⟨fun b step ok => ⟨_, row _, ?_⟩, fun b step bad => ⟨_, row _, ?_⟩, fun a b step source lists good => ⟨_, row _, ?_⟩,
      fun b step lists good => ⟨_, row _, ?_⟩, fun sites avs step stage => ⟨_, row _, ?_⟩, fun step calm => ⟨_, row _, ?_⟩⟩
    · simp only [stepResult, step]
      exact endDirectory_ok ok
    · simp only [stepResult, step]
      exact endDirectory_bad bad
    · simp only [stepResult, step]
      rw [endFirmware_imageA b source lists good]
      exact ⟨rfl, rfl, rfl, rfl⟩
    · simp only [stepResult, step]
      rw [endContainer_ok lists good]
      exact ⟨rfl, rfl, rfl⟩
    · simp only [stepResult, step]
      rw [endCalibration_at_last sites avs stage]
      exact ⟨rfl, rfl⟩
    · simp only [stepResult, step]
      rw [endZeroising, if_neg (by rw [calm]; decide)]
      obtain ⟨n, e, l, booted⟩ := becomeBooted_changes s
      rw [booted]
      exact ⟨rfl, rfl, rfl, rfl, KMap.get?_put_same _ _ _⟩
  · obtain ⟨go, addr⟩ := bootGo_sets s
    refine ⟨bootGo s, rfl, go, addr, fun source bme fresh step stage => ?_⟩
    rw [bootGo_downloads source bme fresh step stage]
    exact ⟨rfl, rfl⟩

end Sys2Proof.Machine
end

section
/-! SUPPORT. A pair of a canonical map is read at its key. -/
namespace Sys2Proof.KMap
variable {α : Type}

theorem lt_of_mem_above {m : KMap α} {b k : Nat} {v : α} (canonical : above b m = true) (mem : (k, v) ∈ m) : b < k := by
  induction m generalizing b with
  | nil => cases mem
  | cons p m ih =>
    simp only [above, Bool.and_eq_true, decide_eq_true_eq] at canonical
    obtain rfl | tail := List.mem_cons.mp mem
    · exact canonical.1
    · exact canonical.1.trans (ih canonical.2 tail)

theorem get?_of_mem {m : KMap α} {k : Nat} {v : α} (canonical : wf m = true) (mem : (k, v) ∈ m) : get? m k = some v := by
  induction m with
  | nil => cases mem
  | cons p m ih =>
    obtain rfl | tail := List.mem_cons.mp mem
    · exact if_pos rfl
    · have later : p.1 < k := lt_of_mem_above canonical tail
      exact (if_neg (by omega)).trans (ih (wf_of_above canonical) tail)

end Sys2Proof.KMap
end

section
/-! SUPPORT. EVT_CTRL, first-failure capture and the registers of the admin queue, with O12 and O14 (21_errors_dump_bist.md
R470 to R474; 23_registers.md R513 to R515). -/
namespace Sys2Proof.Machine
open Sys2Proof

variable {s : State}

/-! ## NOTICE -/

theorem noticeClear_of_set (set : s.events.notice = true) : noticeClear s = { s with
      events := { s.events with notice := false, pendCount := 0, pendSince := 0 },
      link := { s.link with
        held := s.link.held.filter fun o => !isMessage 0 s.events.vector o,
        funcs := KMap.put s.link.funcs 0
          { funcAt s 0 with pba := (funcAt s 0).pba.filter (· ≠ s.events.vector) } } } :=
  if_pos set

theorem noticeClear_of_clear (clear : s.events.notice = false) : noticeClear s = s :=
  if_neg (Bool.eq_false_iff.mp clear)

theorem noticeSet_of_clear (clear : s.events.notice = false) : noticeSet s = { s with
    events := { s.events with notice := true, pendCount := 0, pendSince := 0 } } :=
  if_neg (Bool.eq_false_iff.mp clear)

theorem noticeSet_of_set (set : s.events.notice = true) : noticeSet s = s := if_pos set

/-- What a write of NOTICE may change: the bit itself, what is pending, and the link's message. -/
def noticed (s : State) (n : Bool) (count since : Nat) (l : Link) : State :=
  { s with events := { s.events with notice := n, pendCount := count, pendSince := since }, link := l }

theorem noticeClear_changes (s : State) : ∃ count since l, noticeClear s = noticed s false count since l ∧
    (s.events.notice = false → count = s.events.pendCount ∧ l = s.link) ∧ (s.events.notice ≠ false → count = 0) := by
  cases h : s.events.notice with
  | true => exact ⟨0, 0, _, noticeClear_of_set h, nofun, fun _ => rfl⟩
  | false =>
    refine ⟨s.events.pendCount, s.events.pendSince, s.link, ?_, fun _ => ⟨rfl, rfl⟩, fun ne => absurd rfl ne⟩
    rw [noticeClear_of_clear h, noticed, ← h]

theorem noticeSet_changes (s : State) : ∃ count since, noticeSet s = noticed s true count since s.link ∧
    (s.events.notice = true → count = s.events.pendCount) ∧ (s.events.notice ≠ true → count = 0) := by
  cases h : s.events.notice with
  | false => exact ⟨0, 0, noticeSet_of_clear h, nofun, fun _ => rfl⟩
  | true =>
    refine ⟨s.events.pendCount, s.events.pendSince, ?_, fun _ => rfl, fun ne => absurd rfl ne⟩
    rw [noticeSet_of_set h, noticed, ← h]

/-! ## The log's vector -/

/-- A vector that serves no queue of PF0 is taken as it is written. -/
theorem eventVector_of_free {v : Nat} (free : ∀ k q, KMap.get? s.queues k = some q → funcOf s (k / 8) = 0 → q.vector ≠ some v)
    (canonical : KMap.wf s.queues = true) : eventVector s v = v := by
  refine if_neg fun taken => ?_
  obtain ⟨⟨k, q⟩, mem, serves⟩ := List.any_eq_true.mp taken
  simp only [Bool.and_eq_true, decide_eq_true_eq] at serves
  exact free k q (KMap.get?_of_mem canonical mem) serves.1 serves.2

/-! ## ENABLE -/

theorem eventEnable_of_on (on : s.events.enable = true) : eventEnable s = s := if_pos on

theorem eventEnable_of_legal (off : s.events.enable = false) (legal : 6 ≤ s.events.size.toNat % 32 ∧ s.events.size.toNat % 32 ≤ 16) :
    eventEnable s = { s with events := { s.events with
      enable := true, configError := false, ring := s.events.base, ringLog := s.events.size.toNat % 32, prod := 0, cons := 0 } } :=
  (if_neg (Bool.eq_false_iff.mp off)).trans (if_neg (by omega))

theorem eventEnable_of_illegal (off : s.events.enable = false) (bad : s.events.size.toNat % 32 < 6 ∨ 16 < s.events.size.toNat % 32) :
    eventEnable s = { s with events.configError := true } :=
  (if_neg (Bool.eq_false_iff.mp off)).trans (if_pos bad)

theorem eventEnable_changes (s : State) : ∃ on bad ring log prod cons, eventEnable s = { s with events := { s.events with
    enable := on, configError := bad, ring := ring, ringLog := log, prod := prod, cons := cons } } := by
  unfold eventEnable
  dsimp only
  split_ifs
  · exact ⟨s.events.enable, s.events.configError, s.events.ring, s.events.ringLog, s.events.prod, s.events.cons, rfl⟩
  · exact ⟨s.events.enable, true, s.events.ring, s.events.ringLog, s.events.prod, s.events.cons, rfl⟩
  · exact ⟨_, _, _, _, _, _, rfl⟩

/-! ## A write of EVT_CTRL -/

theorem getLsbD_or_one {v : W32} {i : Nat} (h : 1 ≤ i) : (v ||| 1).getLsbD i = v.getLsbD i := by
  rw [BitVec.getLsbD_or, show (1 : W32).getLsbD i = false by simp [show ¬ i = 0 by omega], Bool.or_false]

theorem bitsOf_or_one (v : W32) : bitsOf (v ||| 1).toNat 13 8 = v.toNat / 256 % 64 := by
  rw [bitsOf, BitVec.toNat_or, Nat.shiftRight_or_distrib]
  simp [Nat.shiftRight_eq_div_pow]

/-- The state in which a write of EVT_CTRL comes to ENABLE: NOTICE and the vector are written. -/
def ctrlWritten (s : State) (v : W32) (count since : Nat) (l : Link) : State :=
  { noticed s (v.getLsbD 1) count since l with events.vector := eventVector s (v.toNat / 256 % 64) }

/-- NOTICE is written first, and only a change of it clears what is pending. -/
theorem eventCtrl_eq (s : State) (v : W32) : ∃ count since l, eventCtrl s (v ||| 1) = eventEnable (ctrlWritten s v count since l) ∧
    (v.getLsbD 1 = s.events.notice → count = s.events.pendCount ∧ l = s.link) ∧ (v.getLsbD 1 ≠ s.events.notice → count = 0) := by
  unfold eventCtrl
  dsimp only
  rw [getLsbD_or_one (Nat.le_refl 1), bitsOf_or_one, show (v ||| 1).getLsbD 0 = true by simp, if_pos rfl]
  cases bit1 : v.getLsbD 1 with
  | true =>
    obtain ⟨count, since, set, same, changed⟩ :=
      noticeSet_changes { s with events.vector := eventVector s (v.toNat / 256 % 64) }
    refine ⟨count, since, s.link, ?_, fun eq => ⟨same eq.symm, rfl⟩, fun ne => changed ne.symm⟩
    rw [if_pos rfl, if_pos rfl, set, ctrlWritten, bit1]
    rfl
  | false =>
    obtain ⟨count, since, l, cleared, same, changed⟩ := noticeClear_changes s
    refine ⟨count, since, l, ?_, fun eq => same eq.symm, fun ne => changed ne.symm⟩
    rw [if_neg Bool.false_ne_true, if_neg Bool.false_ne_true, cleared, ctrlWritten, bit1]
    rfl

/-! ## The rows of the event log's registers -/

theorem exec_evtEnable_of_ready (ready : s.boot.ready = true) (v : W32) :
    exec (.evtEnable v) s = .next (eventCtrl s (v ||| 1)) := congrArg Host.Outcome.next (if_pos ready)

theorem exec_evtNoticeClear_of_ready (ready : s.boot.ready = true) : exec .evtNoticeClear s = .next (noticeClear s) :=
  congrArg Host.Outcome.next (if_pos ready)

theorem exec_evtNoticeSet_of_ready (ready : s.boot.ready = true) : exec .evtNoticeSet s = .next (noticeSet s) :=
  congrArg Host.Outcome.next (if_pos ready)

theorem eventRows_before_ready (early : s.boot.ready = false) : (∀ v, exec (.evtEnable v) s = .next s) ∧
    exec .evtNoticeClear s = .next s ∧ exec .evtNoticeSet s = .next s ∧ exec .ffcValidClear s = .next s := by
  have off : ¬ s.boot.ready = true := Bool.eq_false_iff.mp early
  exact ⟨fun v => congrArg Host.Outcome.next (if_neg off), congrArg Host.Outcome.next (if_neg off),
    congrArg Host.Outcome.next (if_neg off), congrArg Host.Outcome.next (if_neg off)⟩

/-- Settles O12: a write of EVT_CTRL writes NOTICE and the vector and then comes to ENABLE; the other rows are their
operation. -/
theorem eventRegisters : Obligations.EventRegisters := by
  unfold Obligations.EventRegisters
  refine ⟨fun s early => eventRows_before_ready early, fun s ready => ⟨fun v => ?_, fun v => eventVector_of_free,
    fun set => ?_, fun clear => ?_, fun clear => ?_, fun set => ?_, congrArg Host.Outcome.next (if_pos ready)⟩⟩
  · obtain ⟨count, since, l, written, same, changed⟩ := eventCtrl_eq s v
    refine ⟨_, (exec_evtEnable_of_ready ready v).trans (congrArg _ written), ?_⟩
    obtain ⟨on, bad, ring, log, prod, cons, enabled⟩ := eventEnable_changes (ctrlWritten s v count since l)
    refine ⟨?_, ?_, fun eq => ?_, fun ne => ?_, fun on => ?_, fun off legal => ?_, fun off bad => ?_, ?_⟩
    · rw [enabled]
      rfl
    · rw [enabled]
      rfl
    · obtain ⟨rfl, rfl⟩ := same eq
      rw [enabled]
      exact ⟨rfl, rfl⟩
    · rw [enabled]
      exact changed ne
    · rw [eventEnable_of_on (s := ctrlWritten s v count since l) on]
      exact ⟨on, rfl, rfl, rfl, rfl⟩
    · rw [eventEnable_of_legal (s := ctrlWritten s v count since l) off legal]
      exact ⟨rfl, rfl, rfl, rfl, rfl, rfl⟩
    · rw [eventEnable_of_illegal (s := ctrlWritten s v count since l) off bad]
      exact ⟨off, rfl⟩
    · rw [enabled]
      exact ⟨rfl, rfl, rfl, rfl, rfl, rfl⟩
  · rw [exec_evtNoticeClear_of_ready ready, noticeClear_of_set set]
  · rw [exec_evtNoticeClear_of_ready ready, noticeClear_of_clear clear]
  · rw [exec_evtNoticeSet_of_ready ready, noticeSet_of_clear clear]
  · rw [exec_evtNoticeSet_of_ready ready, noticeSet_of_set set]

/-! ## The checks of ADM_RING_CTRL (R514) -/

theorem ringLog_eq (v : W64) : bitsOf v.toNat 7 4 = v.toNat / 16 % 16 := bitsOf_eq _ _ _

theorem admFailure_log {v : W64} (bad : v.toNat / 16 % 16 < 4 ∨ 12 < v.toNat / 16 % 16) : admFailure s v = some 1 := by
  refine if_pos ?_
  rwa [ringLog_eq]

theorem admFailure_window {v : W64} (low : 4 ≤ v.toNat / 16 % 16) (high : v.toNat / 16 % 16 ≤ 12)
    (empty : s.regs.admWinLimit.toNat ≤ s.regs.admWinBase.toNat) : admFailure s v = some 5 := by
  refine (if_neg ?_).trans (if_pos empty)
  rw [ringLog_eq]
  omega

/-! ## The admin queue enters service and leaves it -/

theorem enable_masked (v : W64) : (v &&& admMask).getLsbD 0 = false := by
  simp [admMask]

theorem exec_admRingEnable_of_ready (ready : s.boot.ready = true) (v : W64) :
    exec (.admRingEnable v) s = .next (admEnable s v) := congrArg Host.Outcome.next (if_pos ready)

theorem admEnable_of_on (on : s.regs.admCtrl.getLsbD 0 = true) (v : W64) : admEnable s v = s := if_pos on

theorem admEnable_passes (off : s.regs.admCtrl.getLsbD 0 = false) {v : W64} (pass : admFailure s v = none) :
    admEnable s v = admStart s v := by
  rw [admEnable, off, pass]
  rfl

theorem admEnable_fails (off : s.regs.admCtrl.getLsbD 0 = false) {v : W64} {r : Nat} (fail : admFailure s v = some r) :
    admEnable s v = { s with regs := { s.regs with admCtrl := v &&& admMask, admConfigError := true, admReason := r } } := by
  rw [admEnable, off, fail]
  rfl

theorem exec_admRingDisable_of_ready (ready : s.boot.ready = true) : exec .admRingDisable s = .next (admDrain s) :=
  congrArg Host.Outcome.next (if_pos ready)

/-- With no job on the queue a drain only closes it and answers its descriptor read. -/
theorem admDrain_of_no_jobs (on : s.regs.admEnabled = true) (first : s.regs.admDraining = false) (none : jobsOfQueue s 0 0 = []) :
    admDrain s = dropDescriptorRead (modQueue { s with regs.admDraining := true } 0 0 fun q => { q with closing := true }) 0 0 := by
  have idle : jobsOfQueue (modQueue { s with regs.admDraining := true } 0 0 fun q => { q with closing := true }) 0 0 = [] := none
  unfold admDrain
  rw [on, first]
  dsimp only
  rw [idle]
  rfl

theorem exec_admDrainEnd_of_drained (draining : s.regs.admDraining = true) (none : jobsOfQueue s 0 0 = []) :
    exec .admDrainEnd s = .next { s with
      queues := KMap.drop s.queues 0,
      regs := { s.regs with admCtrl := s.regs.admCtrl &&& admMask, admEnabled := false, admDraining := false } } := by
  refine congrArg Host.Outcome.next (if_pos ?_)
  rw [draining, decide_eq_true none]
  rfl

/-- Settles O14: the row is the enabling write or the drain; the checks stand in their order. -/
theorem adminRing : Obligations.AdminRing := by
  unfold Obligations.AdminRing
  refine fun s v ready => ⟨fun off pass => ?_, fun off r fail => ?_, fun on => ?_, admFailure_log, admFailure_window,
    fun on first none => ?_, fun draining none => ?_⟩
  · refine ⟨_, (exec_admRingEnable_of_ready ready v).trans (congrArg _ (admEnable_passes off pass)), rfl, rfl, ?_, ?_⟩
    · simp [admStart]
    · refine ⟨_, KMap.get?_put_same _ _ _, rfl, ringLog_eq v, rfl, rfl, rfl, ?_, ?_, ?_⟩
      · simp only [newQueue, bitsOf_eq, Nat.reducePow, Nat.reduceAdd, Nat.reduceSub]
      · simp only [newQueue, bitsOf_eq, Nat.reducePow, Nat.reduceAdd, Nat.reduceSub]
      · simp only [newQueue, bitsOf_eq, Nat.reducePow, Nat.reduceAdd, Nat.reduceSub]
  · exact ⟨_, (exec_admRingEnable_of_ready ready v).trans (congrArg _ (admEnable_fails off fail)), rfl, rfl, enable_masked v, rfl⟩
  · rw [exec_admRingEnable_of_ready ready, admEnable_of_on on]
  · refine ⟨_, (exec_admRingDisable_of_ready ready).trans (congrArg _ (admDrain_of_no_jobs on first none)), ?_⟩
    obtain ⟨m, l, dropped, -⟩ := readsDropped_dropDescriptorRead
      (modQueue { s with regs.admDraining := true } 0 0 fun q => { q with closing := true }) 0 0
    rw [dropped]
    exact ⟨rfl, on, rfl⟩
  · exact ⟨_, exec_admDrainEnd_of_drained draining none, rfl, rfl, rfl, enable_masked _, rfl, rfl⟩

end Sys2Proof.Machine
end

section
/-! SUPPORT. What the parts of a Sundial measurement change, and the records of its events, with O57 and O58
(22_power_sundial.md R489 to R499). -/
namespace Sys2Proof.Machine
open Sys2Proof

variable {s : State}

/-! ## Records of the history -/

/-- The Sundial with a history record made at a tick: 256 wait at most. -/
def Sundial.noted (d : Sundial) (t : Nat) (b : List Byte) : Sundial :=
  { d with
    history := (if d.history.length < 256 then d.history else d.history.drop 1) ++ [b], highTemp := none, lastChange := t }

theorem recordHistory_changes (s : State) (cause : Nat) : ∃ n temp, recordHistory s cause =
    { s with freeCount := n, sundial := s.sundial.noted (now s) (historyBytes s cause temp) } := by
  unfold recordHistory
  cases s.sundial.highTemp with
  | some t => exact ⟨s.freeCount, t, rfl⟩
  | none => exact ⟨_, _, rfl⟩

theorem historyBytes_fields (s : State) (cause : Nat) (temp : W16) : fieldAt (historyBytes s cause temp) 0 8 = now s % 2 ^ 64 ∧
    fieldAt (historyBytes s cause temp) 16 1 = s.sundial.inForce % 256 ∧
    fieldAt (historyBytes s cause temp) 18 2 = s.sundial.setPoint % 65536 := by
  simp only [historyBytes, List.append_assoc]
  refine ⟨fieldAt_leBytes_append, ?_, ?_⟩
  · rw [← List.append_assoc, fieldAt_append_right (by simp), fieldAt_leBytes_append]
    rfl
  · rw [← List.append_assoc, ← List.append_assoc, ← List.append_assoc, fieldAt_append_right (by simp), fieldAt_leBytes_append]
    rfl

theorem logSundial_changes (s : State) (cls : Nat) (code : W16) (detail : List Byte) :
    ∃ e l, logSundial s cls code detail = { s with events := e, journal := l } :=
  logEventAt_changes s cls code 0xFFFF 0xFF 0xFF 0xFF detail

/-! ## Points -/

theorem plan_changes (s : State) (p cause : Nat) : ∃ n e l c h temp t, plan s p cause =
    { s with
      freeCount := n, events := e, journal := l,
      sundial := { s.sundial with planned := p, changeCause := c, history := h, highTemp := temp, lastChange := t } } := by
  unfold plan
  dsimp only
  split
  · next same => subst same; exact ⟨_, _, _, _, _, _, _, rfl⟩
  · obtain ⟨e, l, logged⟩ := logSundial_changes { s with sundial := { s.sundial with planned := p, changeCause := cause } } 0 0x0081
      (leBytes 1 s.sundial.planned ++ leBytes 1 p ++ leBytes 1 cause)
    rw [logged]
    obtain ⟨n, temp, recorded⟩ := recordHistory_changes { s with
      events := e, journal := l, sundial := { s.sundial with planned := p, changeCause := cause } } cause
    rw [recorded]
    exact ⟨_, _, _, _, _, _, _, rfl⟩

theorem enterPoint_changes (s : State) (cause : Nat) : ∃ n e l c h temp t, enterPoint s cause =
    { s with
      freeCount := n, events := e, journal := l,
      sundial := { s.sundial with
        inForce := pointDue s.sundial, pointChanges := c, history := h, highTemp := temp, lastChange := t } } := by
  unfold enterPoint
  dsimp only
  split
  · next same => rw [same]; exact ⟨_, _, _, _, _, _, _, rfl⟩
  · obtain ⟨e, l, logged⟩ := logSundial_changes { s with sundial := { s.sundial with
        inForce := pointDue s.sundial, pointChanges := min (s.sundial.pointChanges + 1) 0xFFFF } } 0 0x0081
      (leBytes 1 s.sundial.inForce ++ leBytes 1 (pointDue s.sundial) ++ leBytes 1 cause)
    rw [logged]
    obtain ⟨n, temp, recorded⟩ := recordHistory_changes { s with
      events := e, journal := l, sundial := { s.sundial with
        inForce := pointDue s.sundial, pointChanges := min (s.sundial.pointChanges + 1) 0xFFFF } } cause
    rw [recorded]
    exact ⟨_, _, _, _, _, _, _, rfl⟩

/-! ## The step-up window (R496) -/

theorem windowRun_of_open (still : ∀ w, s.sundial.window = some w → now s < w + 2 ^ 30) : windowRun s = s := by
  unfold windowRun
  split
  · next w window => exact if_neg (by rw [decide_eq_false (Nat.not_le.mpr (still w window))]; exact Bool.false_ne_true)
  · rfl

/-- At its end the window steps the planned point up, and the point that is then due comes into force. -/
theorem windowRun_of_ended {w : Nat} (window : s.sundial.window = some w) (ended : w + 2 ^ 30 ≤ now s) (slow : 0 < s.sundial.planned)
    (seen : s.sundial.unavailable = false) : (windowRun s).sundial.planned = s.sundial.planned - 1 ∧
    (windowRun s).sundial.window = none ∧
    (windowRun s).sundial.inForce = if s.sundial.throttled then 3 else s.sundial.planned - 1 := by
  unfold windowRun
  rw [window]
  dsimp only
  rw [if_pos (by rw [decide_eq_true ended, decide_eq_true slow, seen]; rfl)]
  obtain ⟨n, e, l, c, h, temp, t, planned⟩ := plan_changes { s with
    sundial.window := none, sundial.lastStepUp := BitVec.ofNat 64 (min (s.lodge.secTime.toNat / 32768) 0xFFFFFFFF) }
    (s.sundial.planned - 1) 3
  rw [planned]
  obtain ⟨n', e', l', c', h', temp', t', entered⟩ := enterPoint_changes { s with
    freeCount := n, events := e, journal := l,
    sundial := { s.sundial with
      window := none, lastStepUp := BitVec.ofNat 64 (min (s.lodge.secTime.toNat / 32768) 0xFFFFFFFF),
      planned := s.sundial.planned - 1, changeCause := c, history := h, highTemp := temp, lastChange := t } } 3
  rw [entered]
  exact ⟨rfl, rfl, rfl⟩

/-! ## The set point (R490, R491) -/

theorem moveReference_changes (s : State) (old new : Nat) : ∃ due ref, moveReference s old new =
    { s with sundial := { s.sundial with glitchDue := due, glitchRef := ref } } := by
  unfold moveReference
  split <;> exact ⟨_, _, rfl⟩

/-- What a write of the set point changes of the Sundial beside the set point and the regulator's failure. -/
def Sundial.moved (d : Sundial) (mv : Nat) (fails : Bool) (changes : Nat) (due : Option Nat) (ref : Nat) (h : List (List Byte))
    (temp : Option W16) (t : Nat) : Sundial :=
  { d with
    setPoint := mv, avsFail := fails, voltageChanges := changes, glitchDue := due, glitchRef := ref, history := h,
    highTemp := temp, lastChange := t }

/-- A write changes the set point where the regulator acknowledges it, and otherwise notes the failure. -/
theorem writeSetPoint_changes (s : State) (mv rule cause : Nat) (ok : Bool) (status : Byte) :
    ∃ n e l sp f c due ref h temp t, writeSetPoint s mv rule cause ok status =
        { s with freeCount := n, events := e, journal := l, sundial := s.sundial.moved sp f c due ref h temp t } ∧
      (ok = true → sp = mv) := by
  unfold writeSetPoint
  dsimp only
  split
  · next same => exact ⟨_, _, _, _, _, _, _, _, _, _, _, rfl, fun _ => same.symm⟩
  · cases ok with
    | false =>
      obtain ⟨e, l, logged⟩ := logSundial_changes { s with sundial.avsFail := true } 3 0x0085 [0, status]
      rw [if_pos (by decide), avsFails, logged]
      exact ⟨_, _, _, _, _, _, _, _, _, _, _, rfl, nofun⟩
    | true =>
      rw [if_neg (by decide)]
      obtain ⟨due, ref, moved⟩ := moveReference_changes { s with
        sundial.setPoint := mv, sundial.voltageChanges := min (s.sundial.voltageChanges + 1) 0xFFFF } s.sundial.setPoint mv
      rw [moved]
      generalize leBytes 2 s.sundial.setPoint ++ _ ++ _ ++ _ = detail
      obtain ⟨e, l, logged⟩ := logSundial_changes { s with sundial := { s.sundial with
        setPoint := mv, voltageChanges := min (s.sundial.voltageChanges + 1) 0xFFFF, glitchDue := due, glitchRef := ref } } 0 0x0080
        detail
      rw [logged]
      obtain ⟨n, temp, recorded⟩ := recordHistory_changes { s with
        events := e, journal := l, sundial := { s.sundial with
          setPoint := mv, voltageChanges := min (s.sundial.voltageChanges + 1) 0xFFFF, glitchDue := due, glitchRef := ref } } cause
      rw [recorded]
      exact ⟨_, _, _, _, _, _, _, _, _, _, _, rfl, fun _ => rfl⟩

/-! ## A measurement's readings (R492, R493) -/

/-- The Sundial as a measurement reads it. -/
def Sundial.read (d : Sundial) (t : Nat) (l : List (Nat × Nat)) (avs : AvsReport) : Sundial :=
  { d with
    sites := l, avsRead := avs.read, avsFail := d.avsFail && !avs.statusOk, thresh := d.pendingThresh.getD d.thresh,
    pendingThresh := none, validSites := (Machine.validSites l).length, measuredAt := some t }

theorem excludeSites_changes (s : State) (l : List (Nat × Nat)) :
    ∃ e j, excludeSites s l = { s with events := e, journal := j } := by
  refine foldl_keeps (fun t : State => ∃ e j, t = { s with events := e, journal := j }) ?_ _ ⟨s.events, s.journal, rfl⟩
  rintro _ i ⟨e, j, rfl⟩
  exact logSundial_changes _ _ _ _

theorem takeReadings_changes (s : State) (l : List (Nat × Nat)) (avs : AvsReport) : ∃ e j, takeReadings s l avs =
    { s with events := e, journal := j, sundial := s.sundial.read (now s) l avs } :=
  excludeSites_changes { s with sundial := s.sundial.read (now s) l avs } l

theorem noteTemp_eq (s : State) (a : BitVec 16) : noteTemp s a = { s with sundial := { s.sundial with
    highTemp := some ((s.sundial.highTemp.filter fun x => decide (a.toInt ≤ x.toInt)).getD a),
    hotAt := if a.toInt < 1050 then s.sundial.hotAt else now s } } := by
  unfold noteTemp
  cases s.sundial.highTemp with
  | none => rfl
  | some x =>
    by_cases hotter : x.toInt < a.toInt
    · simp only [if_pos hotter, Option.filter, decide_eq_false (Int.not_le.mpr hotter), Bool.false_eq_true, if_false,
        Option.getD_none]
    · simp only [if_neg hotter, Option.filter, decide_eq_true (Int.not_lt.mp hotter), if_true, Option.getD_some]

theorem exec_sundialMeasurement (ready : s.boot.ready = true) (due : now s % 2 ^ 20 = 0)
    (first : s.sundial.measuredAt ≠ some (now s)) (sites : Vector SiteDelay 24) (avs : AvsReport) (temp : BitVec 16) :
    exec (.sundialMeasurement sites avs temp) s = .next (measure (noteTemp (windowRun s) temp) (siteList sites) avs) := by
  refine congrArg Host.Outcome.next (if_pos ?_)
  rw [ready, decide_eq_true due, decide_eq_true first]
  rfl

/-! ## The rules of Table 22-3 -/

/-- What no rule changes: the tick, the delay and margin measured, and that the Sundial was available. -/
structure SameReading (d x : Sundial) : Prop where
  measuredAt : x.measuredAt = d.measuredAt
  worstDelay : x.worstDelay = d.worstDelay
  margin : x.margin = d.margin
  unavailable : x.unavailable = d.unavailable

theorem SameReading.refl (d : Sundial) : SameReading d d := ⟨rfl, rfl, rfl, rfl⟩

theorem SameReading.writeSetPoint {d : Sundial} (h : SameReading d s.sundial) (mv rule cause : Nat) (ok : Bool) (status : Byte) :
    SameReading d (writeSetPoint s mv rule cause ok status).sundial := by
  obtain ⟨n, e, l, sp, f, c, due, ref, hist, temp, t, written, -⟩ := writeSetPoint_changes s mv rule cause ok status
  rw [written]
  exact ⟨h.measuredAt, h.worstDelay, h.margin, h.unavailable⟩

theorem SameReading.stepDown {d : Sundial} (h : SameReading d s.sundial) (m : Int) : SameReading d (stepDown s m).sundial := by
  unfold Machine.stepDown
  extract_lets _ s'
  split
  · obtain ⟨n, e, l, c, hist, temp, t, planned⟩ := plan_changes s' (s'.sundial.planned + 1) 2
    rw [planned]
    exact ⟨h.measuredAt, h.worstDelay, h.margin, h.unavailable⟩
  · exact ⟨h.measuredAt, h.worstDelay, h.margin, h.unavailable⟩

theorem SameReading.applyRules {d : Sundial} (h : SameReading d s.sundial) (avs : AvsReport) :
    SameReading d (applyRules s avs).sundial := by
  have same : ∀ run window, SameReading d { s.sundial with run := run, window := window } := fun _ _ =>
    ⟨h.measuredAt, h.worstDelay, h.margin, h.unavailable⟩
  unfold Machine.applyRules
  extract_lets x m t capped run counted s' _ s''
  have still : SameReading d s''.sundial := by
    unfold s''
    split <;> exact same _ _
  split_ifs
  · exact still.writeSetPoint _ _ _ _ _
  · exact SameReading.stepDown (s := s') (same run s.sundial.window) m
  · exact same _ _
  · exact still.writeSetPoint _ _ _ _ _
  · exact still

/-- Below the threshold, with room and a regulator that answers, the set point rises by a step (rule 1). -/
theorem applyRules_raises {avs : AvsReport} (low : marginAt s.sundial.worstDelay s.sundial.inForce < (s.sundial.thresh : Int))
    (room : s.sundial.setPoint < 850) (works : s.sundial.avsFail = false) (ok : avs.writeOk = true) :
    (applyRules s avs).sundial.setPoint = s.sundial.setPoint + 5 ∧ (applyRules s avs).sundial.planned = s.sundial.planned := by
  unfold applyRules
  extract_lets x m t capped run counted s' _ s''
  have planned : s''.sundial.planned = s.sundial.planned := by
    unfold s''
    split <;> rfl
  obtain ⟨n, e, l, sp, f, c, due, ref, hist, temp, tick, written, set⟩ :=
    writeSetPoint_changes s'' (x.setPoint + 5) 1 1 avs.writeOk avs.status
  rw [if_pos low, if_pos ⟨room, works⟩, written]
  exact ⟨set ok, planned⟩

theorem stepDown_moves (s : State) (m : Int) : (stepDown s m).sundial.planned = min 3 (s.sundial.planned + 1) ∨
    3 ≤ s.sundial.planned ∧ (stepDown s m).sundial.floor = true := by
  unfold stepDown
  dsimp only
  split
  · next faster =>
    obtain ⟨n, e, l, c, hist, temp, tick, planned⟩ := plan_changes { s with sundial.window := none } (s.sundial.planned + 1) 2
    rw [planned]
    exact .inl (Nat.min_eq_right faster).symm
  · next slowest => exact .inr ⟨Nat.not_lt.mp slowest, rfl⟩

/-- At the highest set point the planned point steps down, and at the lowest point the floor is marked (rule 2). -/
theorem applyRules_stepsDown (avs : AvsReport)
    (low : marginAt s.sundial.worstDelay s.sundial.inForce < (s.sundial.thresh : Int)) (top : 850 ≤ s.sundial.setPoint) :
    (applyRules s avs).sundial.planned = min 3 (s.sundial.planned + 1) ∨
      3 ≤ s.sundial.planned ∧ (applyRules s avs).sundial.floor = true := by
  unfold applyRules
  extract_lets x m t capped run counted s'
  rw [if_pos low, if_neg (fun h => absurd h.1 (Nat.not_lt.mpr top))]
  exact stepDown_moves s' m

/-! ## A measurement with at least 20 valid sites -/

/-- The Sundial as a measurement's readings and margin leave it, before the rules. -/
def Sundial.weighed (d : Sundial) (t : Nat) (l : List (Nat × Nat)) (avs : AvsReport) : Sundial :=
  { d.read t l avs with
    unavailable := false, worstDelay := (Machine.worstSite l).1, worstSite := (Machine.worstSite l).2,
    margin := (BitVec.ofInt 16 (marginAt (Machine.worstSite l).1 d.inForce)).toNat }

theorem measure_of_seen {l : List (Nat × Nat)} (seen : 20 ≤ (validSites l).length) (avs : AvsReport) :
    ∃ e j, measure s l avs =
      applyRules { s with events := e, journal := j, sundial := s.sundial.weighed (now s) l avs } avs := by
  obtain ⟨e, j, read⟩ := takeReadings_changes s l avs
  refine ⟨e, j, ?_⟩
  unfold measure
  rw [if_neg (Nat.not_lt.mpr seen), read]
  rfl

/-! ## A measurement with fewer (R494) -/

theorem measure_of_blind {l : List (Nat × Nat)} (blind : (validSites l).length < 20) (avs : AvsReport) :
    measure s l avs = measureBlind (takeReadings s l avs) avs := if_pos blind

/-! ### Records of the event log (R473) -/

/-- Folding changes a record's COUNT and FIRST alone. -/
theorem any_foldEvent {p : Event → Bool} (blind : ∀ r n f, p { r with count := n, first := f } = p r) (e : Event) (l : List Event) :
    (foldEvent e l).any p = l.any p := by
  induction l with
  | nil => rfl
  | cons r rs ih =>
    unfold foldEvent
    split
    · simp only [List.any_cons, blind]
    · simp only [List.any_cons, ih]

theorem length_foldEvent (e : Event) (l : List Event) : (foldEvent e l).length = l.length := by
  induction l with
  | nil => rfl
  | cons r rs ih =>
    unfold foldEvent
    split
    · rfl
    · simp only [List.length_cons, ih]

/-- An event folds into the record with its key, else takes a place, else is dropped. -/
theorem enterEvent_fifo (l : EventLog) (e : Event) : (enterEvent l e).fifo =
    if l.fifo.any (sameKey · e) then foldEvent { e with first := !l.ffcValid && decide (2 ≤ e.cls) } l.fifo
    else if l.fifo.length < 64 then l.fifo ++ [{ e with first := !l.ffcValid && decide (2 ≤ e.cls) }] else l.fifo := by
  unfold enterEvent
  cases !l.ffcValid && decide (2 ≤ e.cls) with
  | false => exact (apply_ite EventLog.fifo _ _ _).trans (congrArg _ (apply_ite EventLog.fifo _ _ _))
  | true => exact (apply_ite EventLog.fifo _ _ _).trans (congrArg _ (apply_ite EventLog.fifo _ _ _))

/-- The log's FIFO holds a record of a code. -/
def holdsCode (code : W16) (l : EventLog) : Prop := (l.fifo.any fun e => decide (e.code = code)) = true

theorem holdsCode_enterEvent {code : W16} {l : EventLog} (h : holdsCode code l) (e : Event) : holdsCode code (enterEvent l e) := by
  unfold holdsCode at *
  rw [enterEvent_fifo]
  split_ifs
  · rwa [any_foldEvent fun _ _ _ => rfl]
  · rw [List.any_append, h, Bool.true_or]
  · exact h

/-- An event that finds its record or a place is held. -/
theorem holdsCode_entered {l : EventLog} (e : Event) (room : l.fifo.length < 64) : holdsCode e.code (enterEvent l e) := by
  unfold holdsCode
  rw [enterEvent_fifo, if_pos room]
  split
  · next found =>
    obtain ⟨r, mem, same⟩ := List.any_eq_true.mp found
    simp only [sameKey, Bool.and_eq_true, decide_eq_true_eq] at same
    rw [any_foldEvent fun _ _ _ => rfl]
    exact List.any_eq_true.mpr ⟨r, mem, decide_eq_true same.1.1.1⟩
  · simp

theorem logSundial_events (s : State) (cls : Nat) (code : W16) (detail : List Byte) (other : cls ≠ 5) :
    (logSundial s cls code detail).events = enterEvent s.events
      ⟨false, cls, code, 0xFFFF, 0xFF, 0xFF, now s, 1, detail12 detail⟩ := by
  rw [logSundial, logEvent, logEventAt, if_neg other]

/-- The event of a site that is left out, without its tick and detail: all of them share one record. -/
def siteEvent : Event := ⟨false, 0, 0x0083, 0xFFFF, 0xFF, 0xFF, 0, 1, []⟩

/-- At most one record beyond `n` is in the FIFO, and then the record of the sites is. -/
def oneRecordMore (n : Nat) (l : EventLog) : Prop :=
  l.fifo.length ≤ n ∨ l.fifo.length ≤ n + 1 ∧ l.fifo.any (sameKey · siteEvent) = true

theorem oneRecordMore_site {n : Nat} {l : EventLog} (h : oneRecordMore n l) (t : Nat) (d : List Byte) :
    oneRecordMore n (enterEvent l ⟨false, 0, 0x0083, 0xFFFF, 0xFF, 0xFF, t, 1, d⟩) := by
  unfold oneRecordMore at *
  rw [enterEvent_fifo]
  split_ifs with found room
  · rw [length_foldEvent, any_foldEvent fun _ _ _ => rfl]
    exact h
  · obtain few | ⟨-, found'⟩ := h
    · refine .inr ⟨by simpa using few, ?_⟩
      rw [List.any_append]
      exact Bool.or_eq_true_iff.mpr (.inr rfl)
    · exact absurd found' found
  · exact h

theorem oneRecordMore_excludeSites (s : State) (l : List (Nat × Nat)) :
    oneRecordMore s.events.fifo.length (excludeSites s l).events := by
  refine foldl_keeps (fun t : State => oneRecordMore s.events.fifo.length t.events) (fun t i ht => ?_) _ (.inl le_rfl)
  rw [logSundial_events _ _ _ _ (by decide)]
  exact oneRecordMore_site ht _ _

theorem oneRecordMore.length {n : Nat} {l : EventLog} (h : oneRecordMore n l) : l.fifo.length ≤ n + 1 :=
  h.elim Nat.le_succ_of_le And.left

theorem recordHistory_events (s : State) (cause : Nat) : (recordHistory s cause).events = s.events := by
  obtain ⟨n, temp, recorded⟩ := recordHistory_changes s cause
  rw [recorded]

theorem holdsCode_writeSetPoint {code : W16} (h : holdsCode code s.events) (mv rule cause : Nat) (ok : Bool) (status : Byte) :
    holdsCode code (writeSetPoint s mv rule cause ok status).events := by
  unfold writeSetPoint
  dsimp only
  split_ifs
  · exact h
  · exact holdsCode_enterEvent h _
  · obtain ⟨due, ref, moved⟩ := moveReference_changes { s with
      sundial.setPoint := mv, sundial.voltageChanges := min (s.sundial.voltageChanges + 1) 0xFFFF } s.sundial.setPoint mv
    rw [recordHistory_events, moved, logSundial_events _ _ _ _ (by decide)]
    exact holdsCode_enterEvent h _

/-- With room in the FIFO the event that the Sundial is unavailable is held. -/
theorem measureBlind_event (room : s.events.fifo.length < 64) (avs : AvsReport) : holdsCode 0x0084 (measureBlind s avs).events := by
  unfold measureBlind
  extract_lets _ s' u
  have held : holdsCode 0x0084 u.events := holdsCode_entered (l := s.events) _ room
  split
  · exact held
  · exact holdsCode_writeSetPoint held _ _ _ _ _

/-- R494's three effects, the event apart: 0.85 V where the regulator takes it, the planned point held, no window. -/
theorem measureBlind_sets (s : State) (avs : AvsReport) : (measureBlind s avs).sundial.unavailable = true ∧
    (s.sundial.avsFail = false → avs.writeOk = true → (measureBlind s avs).sundial.setPoint = 850) ∧
    (measureBlind s avs).sundial.planned = s.sundial.planned ∧ (measureBlind s avs).sundial.window = none := by
  unfold measureBlind
  dsimp only
  obtain ⟨e, l, logged⟩ := logSundial_changes { s with sundial.unavailable := true, sundial.window := none, sundial.run := 0 } 0 0x0084
    (leBytes 1 s.sundial.validSites)
  rw [logged]
  split
  · next fails => exact ⟨rfl, fun works => absurd fails (by rw [works]; decide), rfl, rfl⟩
  · obtain ⟨n, e', l', sp, f, c, due, ref, hist, temp, tick, written, set⟩ := writeSetPoint_changes { s with
      events := e, journal := l, sundial := { s.sundial with unavailable := true, window := none, run := 0 } } 850 0 7 avs.writeOk avs.status
    rw [written]
    exact ⟨rfl, fun _ ok => set ok, rfl, rfl⟩

theorem windowRun_avsFail (s : State) : (windowRun s).sundial.avsFail = s.sundial.avsFail := by
  unfold windowRun
  split
  · split
    · next w _ _ =>
      obtain ⟨n, e, l, c, h, temp, t, planned⟩ := plan_changes { s with
        sundial.window := none, sundial.lastStepUp := BitVec.ofNat 64 (min (s.lodge.secTime.toNat / 32768) 0xFFFFFFFF) }
        (s.sundial.planned - 1) 3
      obtain ⟨n', e', l', c', h', temp', t', entered⟩ := enterPoint_changes (plan { s with
        sundial.window := none, sundial.lastStepUp := BitVec.ofNat 64 (min (s.lodge.secTime.toNat / 32768) 0xFFFFFFFF) }
        (s.sundial.planned - 1) 3) 3
      rw [entered, planned]
    · rfl
  · rfl

/-- Settles O58: a blind measurement after the window's end: its effects, and one record of the sites before its own. -/
theorem unavailableMeasurement : Obligations.UnavailableMeasurement := by
  unfold Obligations.UnavailableMeasurement
  intro s sites avs temp ready due first blind
  refine ⟨_, (exec_sundialMeasurement ready due first sites avs temp).trans (congrArg _ (measure_of_blind blind avs)), ?_⟩
  have more := oneRecordMore_excludeSites { noteTemp (windowRun s) temp with
    sundial := (noteTemp (windowRun s) temp).sundial.read (now (noteTemp (windowRun s) temp)) (siteList sites) avs } (siteList sites)
  obtain ⟨e, j, read⟩ := takeReadings_changes (noteTemp (windowRun s) temp) (siteList sites) avs
  obtain ⟨unavailable, set, planned, window⟩ := measureBlind_sets (takeReadings (noteTemp (windowRun s) temp) (siteList sites) avs) avs
  refine ⟨unavailable, fun works ok => set ?_ ok, planned.trans ?_, window, fun few => measureBlind_event ?_ avs⟩
  · rw [read]
    change ((windowRun s).sundial.avsFail && !avs.statusOk) = false
    rw [windowRun_avsFail]
    exact works.elim (fun w => by rw [w]; rfl) (fun w => by rw [w]; exact Bool.and_false _)
  · rw [read]
    rfl
  · exact (Nat.lt_succ_of_le more.length).trans_le (Nat.le_succ_of_le (Nat.add_le_add_right few 1))

/-! ## The rows between measurements -/

theorem exec_glitchReferenceUpdate_of_due {n : Nat} {b : Bool} (due : s.sundial.glitchDue = some n) (settles : b = true ∨ n ≤ now s) :
    exec (.glitchReferenceUpdate b) s = .next
      { s with sundial := { s.sundial with glitchRef := s.sundial.setPoint, glitchDue := none } } := by
  change Host.Outcome.next (match s.sundial.glitchDue with
    | some t => if b || decide (t ≤ now s) then _ else s
    | none => s) = _
  rw [due]
  exact congrArg Host.Outcome.next (if_pos (by rwa [Bool.or_eq_true, decide_eq_true_eq]))

theorem exec_glitchReferenceUpdate_early {n : Nat} (due : s.sundial.glitchDue = some n) (early : now s < n) :
    exec (.glitchReferenceUpdate false) s = .next s := by
  change Host.Outcome.next (match s.sundial.glitchDue with
    | some t => if false || decide (t ≤ now s) then _ else s
    | none => s) = _
  rw [due]
  exact congrArg Host.Outcome.next (if_neg (by rw [decide_eq_false (Nat.not_le.mpr early)]; exact Bool.false_ne_true))

/-- A throttled device has the cap, from its next epoch boundary on: the point in force stays. -/
theorem exec_thermalThrottle_hot {a b : BitVec 16} (ready : s.boot.ready = true) (hot : 1100 ≤ a.toInt ∨ 1100 ≤ b.toInt) : ∃ t,
    exec (.thermalThrottle a b) s = .next t ∧ t.sundial.throttled = true ∧ t.sundial.capEnding = false ∧
      t.sundial.inForce = s.sundial.inForce := by
  change ∃ t, Host.Outcome.next (if s.boot.ready then _ else s) = .next t ∧ _
  rw [if_pos ready]
  refine ⟨_, rfl, ?_⟩
  dsimp only
  rw [if_neg (by omega)]
  split
  · next on => exact ⟨on, rfl, rfl⟩
  · obtain ⟨e, l, logged⟩ := logSundial_changes { noteTemp (noteTemp s a) b with sundial := { (noteTemp (noteTemp s a) b).sundial with
      throttled := true, capEnding := false, changeCause := 5 } } 0 0x0086 (leBytes 2 a.toNat ++ leBytes 2 b.toNat ++ [1])
    rw [logged]
    obtain ⟨n, temp, recorded⟩ := recordHistory_changes { noteTemp (noteTemp s a) b with
      events := e, journal := l, sundial := { (noteTemp (noteTemp s a) b).sundial with
        throttled := true, capEnding := false, changeCause := 5 } } 5
    rw [recorded]
    exact ⟨rfl, rfl, rfl⟩

theorem exec_thermalThrottle_cool {a b : BitVec 16} (coolA : a.toInt < 1100) (coolB : b.toInt < 1100) :
    exec (.thermalThrottle a b) s = .next (if s.boot.ready then noteTemp (noteTemp s a) b else s) := by
  change Host.Outcome.next (if s.boot.ready then (if max a.toInt b.toInt < 1100 then noteTemp (noteTemp s a) b else _) else s) = _
  rw [if_pos (max_lt coolA coolB)]

theorem exec_thermalCapEnd (s : State) : exec .thermalCapEnd s = .next
    (if s.sundial.throttled = true ∧ s.sundial.hotAt + 1 + 2 ^ 20 ≤ now s then { s with sundial.capEnding := true } else s) := by
  change Host.Outcome.next (if s.sundial.throttled && decide (s.sundial.hotAt + 1 + 2 ^ 20 ≤ now s) then _ else s) = _
  simp only [Bool.and_eq_true, decide_eq_true_eq]

theorem exec_historyPeriodic_of_due (ready : s.boot.ready = true) (due : s.sundial.lastChange + 2 ^ 30 ≤ now s) :
    exec .historyPeriodic s = .next (recordHistory s 0) := by
  refine congrArg Host.Outcome.next (if_pos ?_)
  rw [ready, decide_eq_true due]
  rfl

theorem exec_stepUpWindowEnd (s : State) : exec .stepUpWindowEnd s = .next (windowRun s) := rfl

/-- Settles O57: the rows between measurements, and the two rules of a measurement below the threshold. -/
theorem sundialRows : Obligations.SundialRows := by
  unfold Obligations.SundialRows
  refine fun s => ⟨fun w window early => ?_, fun w window ended slow seen => ⟨_, exec_stepUpWindowEnd s, windowRun_of_ended window ended slow seen⟩,
    fun none => ?_, fun n b => exec_glitchReferenceUpdate_of_due, fun n => exec_glitchReferenceUpdate_early,
    fun a b => exec_thermalThrottle_hot, fun a b => exec_thermalThrottle_cool, noteTemp_eq s, fun on cool => ?_, fun off => ?_,
    fun ready due room => ?_, fun sites avs temp ready due first seen m d worst margin still => ?_⟩
  · rw [exec_stepUpWindowEnd, windowRun_of_open fun v hv => by rw [Option.some.inj (hv.symm.trans window)]; exact early]
  · rw [exec_stepUpWindowEnd, windowRun_of_open fun w window => nomatch none.symm.trans window]
  · rw [exec_thermalCapEnd, if_pos ⟨on, cool⟩]
  · rw [exec_thermalCapEnd, if_neg]
    rintro ⟨on, cool⟩
    exact off.elim (fun off => absurd on (by rw [off]; decide)) (fun early => absurd cool (Nat.not_le.mpr early))
  · obtain ⟨n, temp, recorded⟩ := recordHistory_changes s 0
    obtain ⟨tick, point, volts⟩ := historyBytes_fields s 0 temp
    refine ⟨_, historyBytes s 0 temp, (exec_historyPeriodic_of_due ready due).trans (congrArg _ recorded), ?_, tick, point, volts, rfl⟩
    exact congrArg (· ++ [historyBytes s 0 temp]) (if_pos room)
  · subst worst margin
    obtain ⟨e, j, measured⟩ := measure_of_seen (s := noteTemp (windowRun s) temp) seen avs
    refine ⟨_, (exec_sundialMeasurement ready due first sites avs temp).trans (congrArg _ measured), ?_⟩
    rw [windowRun_of_open still]
    generalize hu : ({ noteTemp s temp with
      events := e, journal := j, sundial := (noteTemp s temp).sundial.weighed (now (noteTemp s temp)) (siteList sites) avs } : State) = u
    obtain ⟨measuredAt, worstDelay, margin, unavailable⟩ := (SameReading.refl u.sundial).applyRules avs
    rw [measuredAt, worstDelay, margin, unavailable]
    subst hu
    refine ⟨rfl, rfl, rfl, rfl, fun low room works ok => ?_, fun low top => applyRules_stepsDown avs low top⟩
    exact applyRules_raises low room (by change (s.sundial.avsFail && _) = false; rw [works]; rfl) ok

end Sys2Proof.Machine
end

section
/-! SUPPORT. Hard and soft events of a tamper source, the windows that count them, and the Lodge's alarms and samples, with
O49 (16_gatehouse_lodge.md R365 to R368, R378 to R380). -/
namespace Sys2Proof.Machine
open Sys2Proof

variable {s : State}

/-! ## One source -/

theorem sourceAt_of_some {i : Nat} {x : Source} (hx : s.gh.sources[i]? = some x) : sourceAt s i = x := by
  rw [sourceAt, List.getD_eq_getElem?_getD, hx, Option.getD_some]

theorem modify_source {l : List Source} {i : Nat} {x : Source} (hx : l[i]? = some x) (f : Source → Source) :
    (l.modify i f)[i]? = some (f x) := by
  rw [List.getElem?_modify_eq, hx]
  rfl

theorem modify_congr_at {l : List Source} {i : Nat} {x : Source} (hx : l[i]? = some x) {f g : Source → Source} (same : f x = g x) :
    l.modify i f = l.modify i g := by
  refine List.ext_getElem? fun j => ?_
  by_cases h : i = j
  · subst h
    rw [List.getElem?_modify_eq, List.getElem?_modify_eq, hx]
    exact congrArg some same
  · rw [List.getElem?_modify_ne _ _ h, List.getElem?_modify_ne _ _ h]

/-! ## Hard events (R366) -/

/-- What a hard event of a source leaves beside what its records, its ring entry and its notice write. -/
def hardStruck (s : State) (src : Nat) (a b : W32) (ring : List RingEntry) (o : Bool) (v : EventLog) (l : Journal) (q : KMap (List Frame)) :
    State :=
  { tzErase s with
    gh := { s.gh with
      sources := s.gh.sources.modify src fun x => { x with hardNow := true, readingA := a, readingB := b },
      eraseActive := true, responses := s.gh.responses ++ [{ source := src, level := 4, hard := true, tick := now s }] },
    lodge := { s.lodge with
      kek := none, sticky := s.lodge.sticky ||| BitVec.ofNat 16 (2 ^ src), holds := s.lodge.holds ||| BitVec.ofNat 16 (2 ^ src),
      ring := ring, overflow := o },
    events := v, journal := l, bridge := { s.bridge with queue := q } }

theorem hardEvent_of_off {src : Nat} (off : sourceOff s src = true) (a b : W32) : hardEvent s src a b = s := if_pos off

theorem hardEvent_of_on {src : Nat} (on : sourceOff s src = false) (a b : W32) :
    ∃ ring o v l q, hardEvent s src a b = hardStruck s src a b ring o v l q := by
  have off : ¬ sourceOff s src = true := Bool.eq_false_iff.mp on
  rw [hardEvent, if_neg off]
  let read := modSource (tzErase s) src fun x => { x with hardNow := true, readingA := a, readingB := b }
  obtain ⟨q, noticed⟩ := tamperNotice_changes read src 4
  obtain ⟨ring, o, v, l, written⟩ := ringPut_changes (raiseFlag { read with bridge.queue := q } src true)
    (ringEntry read src 1 0xFF 0)
  have struck := (congrArg (fun t => ringPut (raiseFlag t src true) (ringEntry read src 1 0xFF 0)) noticed).trans written
  exact ⟨ring, o, v, l, q, congrArg (fun t : State => triggerResponse { t with gh.eraseActive := true } src 4 true) struck⟩

theorem exec_hardEvent (s : State) (src : Fin 16) (a b : W32) : exec (.hardEvent src a b) s = .next
    (if 1 ≤ s.boot.stage ∧ src.val < 14 then hardEvent s src.val a b else s) := by
  change Host.Outcome.next (if decide (1 ≤ s.boot.stage) && decide (src.val < 14) then _ else s) = _
  simp only [Bool.and_eq_true, decide_eq_true_eq]

/-! ## Soft events (R367, R368) -/

theorem countInWindow_none (t n win : Nat) : countInWindow t n win none = (some (t, 1), false) := rfl

theorem countInWindow_below {t n win t0 c : Nat} (inside : t < t0 + win) (below : c + 1 < n) :
    countInWindow t n win (some (t0, c)) = (some (t0, c + 1), false) :=
  (if_pos inside).trans (if_neg (Nat.not_le.mpr below))

theorem countInWindow_reached {t n win t0 c : Nat} (inside : t < t0 + win) (reached : n ≤ c + 1) :
    countInWindow t n win (some (t0, c)) = (none, true) :=
  (if_pos inside).trans (if_pos reached)

/-- A soft event of a source whose count gives this window and this decision. -/
def softStruck (s : State) (src : Nat) (a b : W32) (p : Option (Nat × Nat) × Bool) : State :=
  { s with gh := { s.gh with
      sources := s.gh.sources.modify src fun x => { x with
        count := min (x.count + 1) 0xFFFFFFFF, readingA := a, readingB := b, excursion := hasUnit src, window := p.1 },
      responses := if p.2 then
          s.gh.responses ++ [{ source := src, level := (sourceAt s src).resp, hard := false, tick := now s }]
        else s.gh.responses } }

/-- The window of a source after one more event, and whether its response is due. -/
def rateCount (s : State) (x : Source) : Option (Nat × Nat) × Bool :=
  if x.rateN ≤ 1 then (x.window, true) else countInWindow (now s) x.rateN x.rateWin x.window

theorem softEvent_of_counted {src : Nat} {x : Source} (hx : s.gh.sources[src]? = some x) (on : sourceOff s src = false)
    (enabled : x.enable = true) (calibrated : s.gh.calibrated = true) (a b : W32) :
    softEvent s src a b = softStruck s src a b (rateCount s x) := by
  have counted : ¬ (!x.enable || sourceOff s src || !s.gh.calibrated) = true := by
    rw [enabled, on, calibrated]
    decide
  unfold softEvent softStruck rateCount
  dsimp only
  rw [sourceAt_of_some hx, if_neg counted]
  generalize (if x.rateN ≤ 1 then (x.window, true) else _) = p
  obtain ⟨w, due⟩ := p
  cases due <;> rfl

theorem softEvent_of_disabled {src : Nat} {x : Source} (hx : s.gh.sources[src]? = some x) (disabled : x.enable = false) (a b : W32) :
    softEvent s src a b = s := by
  rw [softEvent, sourceAt_of_some hx, disabled]
  rfl

theorem exec_softEvent (s : State) (src : Fin 16) (a b : W32) : exec (.softEvent src a b) s = .next
    (if !gateRuns s || decide (src.val = 15) || (sourceAt s src.val).excursion then s
      else if src.val = 14 then consistencyEvent s else softEvent s src.val a b) := rfl

theorem exec_softEvent_of_counted {src : Fin 16} {x : Source} (hx : s.gh.sources[src.val]? = some x) (runs : 1 ≤ s.boot.stage)
    (own : src.val < 14) (on : sourceOff s src.val = false) (enabled : x.enable = true) (calibrated : s.gh.calibrated = true)
    (calm : x.excursion = false) (a b : W32) :
    exec (.softEvent src a b) s = .next (softStruck s src.val a b (rateCount s x)) := by
  have known : ¬ (!gateRuns s || decide (src.val = 15) || (sourceAt s src.val).excursion) = true := by
    rw [sourceAt_of_some hx, calm, gateRuns, decide_eq_true runs, decide_eq_false (by omega)]
    decide
  rw [exec_softEvent, if_neg known, if_neg (by omega), softEvent_of_counted hx on enabled calibrated]

theorem exec_softEvent_of_disabled {src : Fin 16} {x : Source} (hx : s.gh.sources[src.val]? = some x) (disabled : x.enable = false)
    (other : src.val ≠ 14) (a b : W32) : exec (.softEvent src a b) s = .next s := by
  rw [exec_softEvent, if_neg other, softEvent_of_disabled hx disabled, ite_self]

/-! ## Ends of windows, and episodes of disagreement (R365, R368) -/

theorem closeWindow_some (t win t0 c : Nat) : closeWindow t win (some (t0, c)) = if t0 + win ≤ t then none else some (t0, c) := rfl

theorem exec_rateWindowEnd {src : Fin 16} {x : Source} {t0 n : Nat} (hx : s.gh.sources[src.val]? = some x)
    (window : x.window = some (t0, n)) (none' : x.hardWindow = none) : exec (.rateWindowEnd src) s = .next (modSource s src.val fun y =>
      { y with window := if t0 + y.rateWin ≤ now s then none else some (t0, n), hardWindow := none }) := by
  refine congrArg (fun l => Host.Outcome.next { s with gh.sources := l }) (modify_congr_at hx ?_)
  rw [window, none']
  rfl

/-- A soft event changes nothing of a source that the windows of source 14 read. -/
theorem softEvent_keeps_source {src i : Nat} {x : Source} (hx : s.gh.sources[i]? = some x) (a b : W32) :
    ∃ y, (softEvent s src a b).gh.sources[i]? = some y ∧ y.hardWindow = x.hardWindow ∧ y.disagreements = x.disagreements := by
  unfold softEvent
  dsimp only
  split
  · exact ⟨x, hx, rfl, rfl⟩
  · generalize (if (sourceAt s src).rateN ≤ 1 then ((sourceAt s src).window, true) else _) = p
    have struck : ∀ g : Source → Source, (∀ v, (g v).hardWindow = v.hardWindow ∧ (g v).disagreements = v.disagreements) →
        ∃ y, (s.gh.sources.modify src g)[i]? = some y ∧ y.hardWindow = x.hardWindow ∧ y.disagreements = x.disagreements := by
      intro g hg
      rw [List.getElem?_modify, hx]
      refine ⟨_, rfl, ?_⟩
      split
      · exact hg x
      · exact ⟨rfl, rfl⟩
    split
    · exact struck _ fun v => ⟨rfl, rfl⟩
    · exact struck _ fun v => ⟨rfl, rfl⟩

/-- An event of source 14 with no hard window open opens one, and erases nothing. -/
theorem consistencyEvent_opens {z : Source} (hz : s.gh.sources[14]? = some z) (none' : z.hardWindow = none) : consistencyEvent s =
    modSource (softEvent s 14 0 0) 14 fun x => { x with hardWindow := some (now (softEvent s 14 0 0), 1) } := by
  obtain ⟨y, hy, hard, -⟩ := softEvent_keeps_source (src := 14) hz 0 0
  unfold consistencyEvent
  dsimp only
  rw [sourceAt_of_some hy, hard, none', countInWindow_none]
  rfl

theorem softEvent_now (s : State) (src : Nat) (a b : W32) : now (softEvent s src a b) = now s := by
  unfold softEvent
  dsimp only
  split
  · rfl
  · generalize (if (sourceAt s src).rateN ≤ 1 then ((sourceAt s src).window, true) else _) = p
    split <;> rfl

theorem exec_detectorDisagreement (s : State) (src : Fin 16) : exec (.detectorDisagreement src) s = .next
    (if 6 ≤ src.val ∧ src.val ≤ 11 ∧ 1 ≤ s.boot.stage then
      consistencyEvent (modSource s src.val fun x => { x with disagreements := min (x.disagreements + 1) 0xFFFF }) else s) := by
  change Host.Outcome.next (if decide (1 ≤ s.boot.stage) && decide (6 ≤ src.val) && decide (src.val ≤ 11) then _ else s) = _
  congr 1
  refine if_congr ?_ rfl rfl
  simp only [Bool.and_eq_true, decide_eq_true_eq]
  tauto

/-! ## The Lodge on its own (R379, R380) -/

theorem getLsbD_and_ofNat {i m : Nat} (clear : m.testBit i = false) (v : W16) : (v &&& BitVec.ofNat 16 m).getLsbD i = false := by
  rw [BitVec.getLsbD_and, BitVec.getLsbD_ofNat, clear, Bool.and_false, Bool.and_false]

/-- No fuse disables the cell's source. -/
theorem sourceOff_cell (s : State) : sourceOff s 13 = false := by
  rw [sourceOff, disabledMask]
  exact getLsbD_and_ofNat (m := 0x803F) (by decide) _

theorem offAlarm_of_on {src : Nat} (on : sourceOff s src = false) : ∃ ring o, offAlarm s src = { s with lodge := { s.lodge with
    kek := none, offAlarm := some src, sticky := s.lodge.sticky ||| BitVec.ofNat 16 (2 ^ src),
    holds := s.lodge.holds ||| BitVec.ofNat 16 (2 ^ src), ring := ring, overflow := o } } := by
  rw [offAlarm, if_neg (Bool.eq_false_iff.mp on)]
  dsimp only
  obtain ⟨ring, o, written⟩ := ringWrite_changes
    (raiseFlag { s with lodge := { s.lodge with kek := none, offAlarm := some src } } src true).lodge
    (ringEntry (raiseFlag { s with lodge := { s.lodge with kek := none, offAlarm := some src } } src true) src 2 0xFF 0)
  rw [written]
  exact ⟨ring, o, rfl⟩

theorem offAlarm_of_off {src : Nat} (off : sourceOff s src = true) : offAlarm s src = s := if_pos off

theorem exec_lodgeAlarmWhileOff (s : State) (src : Fin 16) : exec (.lodgeAlarmWhileOff src) s = .next
    (if s.boot.stage = 0 ∧ s.lodge.battery = true ∧ src.val ∈ [0, 1, 2, 3, 4, 5, 10, 13] then offAlarm s src.val else s) := by
  change Host.Outcome.next (if decide (s.boot.stage = 0) && s.lodge.battery && List.contains _ src.val then _ else s) = _
  simp only [Bool.and_eq_true, decide_eq_true_eq, List.contains_iff_mem, and_assoc]

theorem exec_batteryRemoval_powered (power : s.boot.power = true) (runs : 1 ≤ s.boot.stage) :
    exec .batteryRemoval s = .next (hardEvent { s with lodge.battery := false } 13 0 0) :=
  (if_pos power).trans (congrArg Host.Outcome.next (if_pos (decide_eq_true runs)))

theorem exec_batteryRemoval_unpowered (power : s.boot.power = false) : exec .batteryRemoval s = .next (offAlarm { s with
      lodge := { Lodge.fresh with battery := false, lost := true, timeLost := true, failures := 0 },
      clocks := holdClocks s.clocks fun n => decide (clockStage n = 0) } 13) :=
  if_neg (Bool.eq_false_iff.mp power)

/-! ## LPO samples (R365, R378) -/

/-- What an LPO cycle's samples leave of a state: secure time, the jobs, the fuses, the stage and the cell; an erased key
stays erased, and a raised flag stays raised. -/
structure Sampled (s t : State) : Prop where
  secTime : t.lodge.secTime = s.lodge.secTime
  jobs : t.jobs = s.jobs
  otp : t.otp = s.otp
  boot : t.boot = s.boot
  battery : t.lodge.battery = s.lodge.battery
  kek : s.lodge.kek = none → t.lodge.kek = none
  sticky : ∀ i, s.lodge.sticky.getLsbD i = true → t.lodge.sticky.getLsbD i = true

theorem Sampled.refl (s : State) : Sampled s s := ⟨rfl, rfl, rfl, rfl, rfl, id, fun _ => id⟩

theorem Sampled.trans {s t u : State} (h : Sampled s t) (k : Sampled t u) : Sampled s u :=
  ⟨k.secTime.trans h.secTime, k.jobs.trans h.jobs, k.otp.trans h.otp, k.boot.trans h.boot, k.battery.trans h.battery,
    fun e => k.kek (h.kek e), fun i e => k.sticky i (h.sticky i e)⟩

theorem getLsbD_or_left {v : W16} {i : Nat} (set : v.getLsbD i = true) (w : W16) : (v ||| w).getLsbD i = true := by
  rw [BitVec.getLsbD_or, set, Bool.true_or]

theorem getLsbD_or_twoPow {i : Nat} (small : i < 16) (v : W16) : (v ||| BitVec.ofNat 16 (2 ^ i)).getLsbD i = true := by
  rw [BitVec.getLsbD_or, BitVec.getLsbD_ofNat, decide_eq_true small, Nat.testBit_two_pow_self]
  exact Bool.or_true _

/-- An event of a sampled source leaves the runs of samples. -/
theorem hardEvent_sampled (s : State) (src : Nat) (a b : W32) :
    Sampled s (hardEvent s src a b) ∧ (hardEvent s src a b).lodge.runs = s.lodge.runs := by
  cases off : sourceOff s src
  · obtain ⟨ring, o, v, l, q, struck⟩ := hardEvent_of_on off a b
    rw [struck]
    exact ⟨⟨rfl, rfl, rfl, rfl, rfl, fun _ => rfl, fun _ set => getLsbD_or_left set _⟩, rfl⟩
  · rw [hardEvent_of_off off]
    exact ⟨.refl s, rfl⟩

theorem offAlarm_sampled (s : State) (src : Nat) : Sampled s (offAlarm s src) ∧ (offAlarm s src).lodge.runs = s.lodge.runs := by
  cases off : sourceOff s src
  · obtain ⟨ring, o, struck⟩ := offAlarm_of_on off
    rw [struck]
    exact ⟨⟨rfl, rfl, rfl, rfl, rfl, fun _ => rfl, fun _ set => getLsbD_or_left set _⟩, rfl⟩
  · rw [offAlarm_of_off off]
    exact ⟨.refl s, rfl⟩

theorem softEvent_sampled (s : State) (src : Nat) (a b : W32) :
    Sampled s (softEvent s src a b) ∧ (softEvent s src a b).lodge.runs = s.lodge.runs := by
  unfold softEvent
  dsimp only
  split
  · exact ⟨.refl s, rfl⟩
  · generalize (if (sourceAt s src).rateN ≤ 1 then ((sourceAt s src).window, true) else _) = p
    split <;> exact ⟨⟨rfl, rfl, rfl, rfl, rfl, id, fun _ => id⟩, rfl⟩

theorem lodgeHard_sampled (s : State) (src : Nat) (v : W32) :
    Sampled s (lodgeHard s src v) ∧ (lodgeHard s src v).lodge.runs = s.lodge.runs := by
  unfold lodgeHard
  split
  · exact hardEvent_sampled s src v 0
  · split
    · exact offAlarm_sampled s src
    · exact ⟨.refl s, rfl⟩

/-- A hard condition of a source that is not disabled erases the key and raises the flag. -/
theorem lodgeHard_struck {src : Nat} (small : src < 16) (on : sourceOff s src = false)
    (alive : 1 ≤ s.boot.stage ∨ s.lodge.battery = true) (v : W32) :
    (lodgeHard s src v).lodge.kek = none ∧ (lodgeHard s src v).lodge.sticky.getLsbD src = true := by
  unfold lodgeHard
  split
  · obtain ⟨ring, o, e, l, q, struck⟩ := hardEvent_of_on on v 0
    rw [struck]
    exact ⟨rfl, getLsbD_or_twoPow small _⟩
  case isFalse runs =>
    have battery : s.lodge.battery = true := alive.resolve_left fun h => runs (decide_eq_true h)
    obtain ⟨ring, o, struck⟩ := offAlarm_of_on on
    rw [if_pos battery, struck]
    exact ⟨rfl, getLsbD_or_twoPow small _⟩

/-- The run of a source's samples is a new number. -/
def withRun (s : State) (i r : Nat) : State := { s with lodge.runs := s.lodge.runs.set i r }

theorem withRun_sampled (s : State) (i r : Nat) : Sampled s (withRun s i r) := ⟨rfl, rfl, rfl, rfl, rfl, id, fun _ => id⟩

theorem sampleRun_eq (s : State) (i n : Nat) (bad : Bool) : sampleRun s i n bad =
    (withRun s i (if bad then s.lodge.runs.getD i 0 + 1 else 0), bad && decide (s.lodge.runs.getD i 0 + 1 = n),
      s.lodge.runs.getD i 0) := rfl

theorem lodgeSample_sampled (n m : Nat) (s : State) (src : Nat) (bad : Bool) : ∃ r,
    Sampled s (lodgeSample n m s src bad) ∧ (lodgeSample n m s src bad).lodge.runs = s.lodge.runs.set src r := by
  refine ⟨if bad then s.lodge.runs.getD src 0 + 1 else 0, ?_⟩
  have run := withRun_sampled s src (if bad then s.lodge.runs.getD src 0 + 1 else 0)
  unfold lodgeSample
  rw [sampleRun_eq]
  dsimp only
  split
  · exact (lodgeHard_sampled _ src 0).imp_left run.trans
  · split
    · exact (softEvent_sampled _ src 0 0).imp_left run.trans
    · exact ⟨run, rfl⟩

/-- The second bad sample of a mesh loop is its hard condition. -/
theorem lodgeSample_struck {i : Nat} (small : i < 16) (second : s.lodge.runs.getD i 0 = 1) (on : sourceOff s i = false)
    (alive : 1 ≤ s.boot.stage ∨ s.lodge.battery = true) :
    (lodgeSample 2 1 s i true).lodge.kek = none ∧ (lodgeSample 2 1 s i true).lodge.sticky.getLsbD i = true := by
  unfold lodgeSample
  rw [sampleRun_eq, second]
  exact lodgeHard_struck (s := withRun s i 2) small on alive 0

theorem vbatSample_sampled (s : State) (mv : W16) : Sampled s (vbatSample s mv) := by
  unfold vbatSample
  extract_lets read p hard
  have hread : Sampled s read := by
    dsimp only [read]
    split <;> exact ⟨rfl, rfl, rfl, rfl, rfl, id, fun _ => id⟩
  have hrun : Sampled s p.1 := hread.trans (withRun_sampled read 6 _)
  have hhard : Sampled s hard := by
    dsimp only [hard]
    split
    · exact hrun.trans (lodgeHard_sampled p.1 13 _).1
    · exact hrun
  split
  · exact hhard.trans (softEvent_sampled hard 13 _ 0).1
  · exact hhard

/-- A fold reaches what the step at one of its elements brings about, if the steps at the others keep what that needs. -/
theorem foldl_reaches_at {σ α : Type} [DecidableEq α] {f : σ → α → σ} {P Q : σ → Prop} {a : α}
    (keepP : ∀ s b, b ≠ a → P s → P (f s b)) (keepQ : ∀ s b, Q s → Q (f s b)) (hit : ∀ s, P s → Q (f s a)) {l : List α} {s : σ}
    (ha : a ∈ l) (hs : P s) : Q (l.foldl f s) := by
  induction l generalizing s with
  | nil => cases ha
  | cons b l ih =>
    by_cases h : b = a
    · subst h
      exact foldl_keeps Q keepQ l (hit s hs)
    · exact ih ((List.mem_cons.mp ha).resolve_left (Ne.symm h)) (keepP s b h hs)

/-- The samples of the mesh loops. -/
def meshSamples (s : State) (mesh : BitVec 4) : State :=
  (List.range 4).foldl (fun s i => lodgeSample 2 1 s i (mesh.getLsbD i)) s

/-- The samples of the case switches and of the cell. -/
def laterSamples (s : State) (cases : BitVec 2) (vbat : W16) : State :=
  vbatSample ((List.range 2).foldl (fun s i => lodgeSample 32 2 s (4 + i) (cases.getLsbD i)) s) vbat

theorem meshSamples_sampled (s : State) (mesh : BitVec 4) : Sampled s (meshSamples s mesh) :=
  foldl_keeps (Sampled s) (fun t i h => h.trans (lodgeSample_sampled 2 1 t i _).choose_spec.1) _ (.refl s)

theorem laterSamples_sampled (s : State) (cases : BitVec 2) (vbat : W16) : Sampled s (laterSamples s cases vbat) :=
  (foldl_keeps (Sampled s) (fun t i h => h.trans (lodgeSample_sampled 32 2 t (4 + i) _).choose_spec.1) _ (.refl s)).trans
    (vbatSample_sampled _ vbat)

/-- A mesh loop whose first bad sample was the one before is found hard at its second. -/
theorem meshSamples_struck {i : Nat} {mesh : BitVec 4} (loop : i < 4)
    (second : s.lodge.runs.getD i 0 = 1) (bad : mesh.getLsbD i = true) (on : sourceOff s i = false)
    (alive : 1 ≤ s.boot.stage ∨ s.lodge.battery = true) :
    (meshSamples s mesh).lodge.kek = none ∧ (meshSamples s mesh).lodge.sticky.getLsbD i = true := by
  refine foldl_reaches_at (a := i) (P := fun t => Sampled s t ∧ t.lodge.runs.getD i 0 = 1)
    (Q := fun t => t.lodge.kek = none ∧ t.lodge.sticky.getLsbD i = true) ?_ ?_ ?_ (List.mem_range.mpr loop) ⟨.refl s, second⟩
  · rintro t b other ⟨same, run⟩
    obtain ⟨r, next, runs⟩ := lodgeSample_sampled 2 1 t b (mesh.getLsbD b)
    refine ⟨same.trans next, ?_⟩
    rw [runs, List.getD_eq_getElem?_getD, List.getElem?_set_ne other, ← List.getD_eq_getElem?_getD, run]
  · rintro t b ⟨kek, sticky⟩
    obtain ⟨r, next, -⟩ := lodgeSample_sampled 2 1 t b (mesh.getLsbD b)
    exact ⟨next.kek kek, next.sticky i sticky⟩
  · rintro t ⟨same, run⟩
    rw [bad]
    refine lodgeSample_struck (by omega) run ?_ ?_
    · rw [sourceOff, disabledMask, same.otp]
      exact on
    · rw [same.boot, same.battery]
      exact alive

theorem exec_lpoCycle_of_alive (alive : s.lodge.battery = true ∨ s.boot.power = true) (mesh : BitVec 4) (cases : BitVec 2)
    (vbat : W16) : exec (.lpoCycle mesh cases vbat) s =
      .next (laterSamples (meshSamples { s with lodge.secTime := s.lodge.secTime + 1 } mesh) cases vbat) :=
  if_pos (Bool.or_eq_true_iff.mpr alive)

theorem exec_lpoCycle_of_dead (battery : s.lodge.battery = false) (power : s.boot.power = false) (mesh : BitVec 4) (cases : BitVec 2)
    (vbat : W16) : exec (.lpoCycle mesh cases vbat) s = .next s :=
  if_neg (by rw [battery, power]; decide)

/-! ## O49 -/

theorem exec_excursionEnd {src : Fin 16} {x : Source} (hx : s.gh.sources[src.val]? = some x) : ∃ t y,
    exec (.excursionEnd src) s = .next t ∧ t.gh.sources[src.val]? = some y ∧ y.excursion = false ∧ y.hardNow = false ∧
      y.count = x.count ∧ t.lodge = s.lodge ∧ t.gh.responses = s.gh.responses :=
  ⟨_, _, rfl, modify_source hx _, rfl, rfl, rfl, rfl, rfl⟩

/-- An episode of disagreement counts at its own source, and opens the hard window of source 14. -/
theorem exec_detectorDisagreement_opens {src : Fin 16} {x z : Source} (hx : s.gh.sources[src.val]? = some x)
    (low : 6 ≤ src.val) (high : src.val ≤ 11) (runs : 1 ≤ s.boot.stage) (hz : s.gh.sources[14]? = some z)
    (closed : z.hardWindow = none) : ∃ t y u, exec (.detectorDisagreement src) s = .next t ∧ t.gh.sources[src.val]? = some y ∧
      y.disagreements = min (x.disagreements + 1) 0xFFFF ∧ t.gh.sources[14]? = some u ∧ u.hardWindow = some (now s, 1) := by
  have other : src.val ≠ 14 := by omega
  let counted := modSource s src.val fun x => { x with disagreements := min (x.disagreements + 1) 0xFFFF }
  have hz' : counted.gh.sources[14]? = some z := (List.getElem?_modify_ne _ _ other).trans hz
  obtain ⟨y, hy, -, episodes⟩ := softEvent_keeps_source (s := counted) (src := 14) (modify_source hx _) 0 0
  obtain ⟨u, hu, -, -⟩ := softEvent_keeps_source (s := counted) (src := 14) hz' 0 0
  refine ⟨_, y, _, (exec_detectorDisagreement s src).trans
    (congrArg _ ((if_pos ⟨low, high, runs⟩).trans (consistencyEvent_opens hz' closed))), ?_, episodes, modify_source hu _,
    congrArg (fun t => some (t, 1)) (softEvent_now counted 14 0 0)⟩
  exact (List.getElem?_modify_ne _ _ (Ne.symm other)).trans hy

/-- Settles O49: each source's row is taken to what its event leaves, and the samples of an LPO cycle are followed through their
folds by what none of them takes back. -/
theorem tamperSources : Obligations.TamperSources := by
  unfold Obligations.TamperSources
  refine ⟨fun s src x a b hx runs => ⟨fun own on => ?_, fun off => ?_, fun own on enabled calibrated calm => ?_,
      fun disabled other => exec_softEvent_of_disabled hx disabled other a b, exec_excursionEnd hx,
      fun t0 n window closed => exec_rateWindowEnd hx window closed,
      fun z low high hz closed => exec_detectorDisagreement_opens hx low high runs hz closed, fun outside => ?_⟩,
    fun s => ⟨fun src stage battery seen on => ?_, fun src blind => ?_, fun power runs => ?_, fun power => ?_,
      fun mesh cases vbat alive => ?_, fun mesh cases vbat battery power => exec_lpoCycle_of_dead battery power mesh cases vbat⟩⟩
  case refine_1 =>
    obtain ⟨ring, o, v, l, q, struck⟩ := hardEvent_of_on on a b
    exact ⟨_, _, (exec_hardEvent s src a b).trans (congrArg _ ((if_pos ⟨runs, own⟩).trans struck)), rfl, rfl, rfl, rfl, rfl, rfl,
      getLsbD_or_twoPow src.isLt _, getLsbD_or_twoPow src.isLt _, rfl, rfl, modify_source hx _, rfl, rfl, rfl, rfl, rfl⟩
  case refine_2 =>
    refine (exec_hardEvent s src a b).trans (congrArg _ ?_)
    obtain high | off := off
    · exact if_neg fun h => absurd h.2 (by omega)
    · rw [hardEvent_of_off off, ite_self]
  case refine_3 =>
    have row := exec_softEvent_of_counted hx runs own on enabled calibrated calm a b
    have level := sourceAt_of_some hx
    refine ⟨fun always => ⟨_, _, row, ?_, modify_source hx _, rfl, rfl⟩,
      fun rated opened => ⟨_, _, row, ?_, modify_source hx _, ?_⟩,
      fun t0 n opened inside below => ⟨_, _, row, ?_, modify_source hx _, ?_⟩,
      fun t0 n opened inside reached => ⟨_, row, ?_⟩⟩
    · rw [softStruck, rateCount, if_pos always, level]
      rfl
    · rw [softStruck, rateCount, if_neg (by omega), opened]
      rfl
    · rw [rateCount, if_neg (by omega), opened]
      rfl
    · rw [softStruck, rateCount, if_neg (by omega), opened, countInWindow_below inside below]
      rfl
    · rw [rateCount, if_neg (by omega), opened, countInWindow_below inside below]
    · by_cases always : x.rateN ≤ 1
      · rw [softStruck, rateCount, if_pos always, level]
        rfl
      · rw [softStruck, rateCount, if_neg always, opened, countInWindow_reached inside reached.le, level]
        rfl
  case refine_4 => exact (exec_detectorDisagreement s src).trans (congrArg _ (if_neg (by omega)))
  case refine_5 =>
    obtain ⟨ring, o, alarmed⟩ := offAlarm_of_on on
    exact ⟨_, (exec_lodgeAlarmWhileOff s src).trans (congrArg _ ((if_pos ⟨stage, battery, seen⟩).trans alarmed)), rfl, rfl,
      getLsbD_or_twoPow src.isLt _, getLsbD_or_twoPow src.isLt _, rfl, rfl⟩
  case refine_6 =>
    refine (exec_lodgeAlarmWhileOff s src).trans (congrArg _ (if_neg ?_))
    rintro ⟨stage, battery, -⟩
    obtain runs | dead := blind
    · omega
    · rw [dead] at battery
      cases battery
  case refine_7 =>
    obtain ⟨ring, o, v, l, q, struck⟩ := hardEvent_of_on (sourceOff_cell { s with lodge.battery := false }) 0 0
    exact ⟨_, (exec_batteryRemoval_powered power runs).trans (congrArg _ struck), rfl, rfl, getLsbD_or_twoPow (by decide) _, rfl, rfl⟩
  case refine_8 =>
    have flag : (0 : W16) ||| BitVec.ofNat 16 (2 ^ 13) = 0x2000 := by decide
    obtain ⟨ring, o, alarmed⟩ := offAlarm_of_on (sourceOff_cell { s with
      lodge := { Lodge.fresh with battery := false, lost := true, timeLost := true, failures := 0 },
      clocks := holdClocks s.clocks fun n => decide (clockStage n = 0) })
    exact ⟨_, (exec_batteryRemoval_unpowered power).trans (congrArg _ alarmed), rfl, rfl, rfl, rfl, rfl, flag, flag, rfl⟩
  case refine_9 =>
    let advanced : State := { s with lodge.secTime := s.lodge.secTime + 1 }
    have later := laterSamples_sampled (meshSamples advanced mesh) cases vbat
    have all := (meshSamples_sampled advanced mesh).trans later
    refine ⟨_, exec_lpoCycle_of_alive alive mesh cases vbat, all.secTime, all.jobs, all.otp, ?_⟩
    intro i loop _ second bad on alive'
    obtain ⟨kek, sticky⟩ := meshSamples_struck (s := advanced) loop second bad on alive'
    exact ⟨later.kek kek, later.sticky i sticky⟩

end Sys2Proof.Machine
end

section
/-! SUPPORT. Dies, blocks and pages: what an operation of the media finds and changes, and the upkeep rows of the Vault, with O51
(17_vault_media.md R389 to R407, 22_power_sundial.md R499). -/
namespace Sys2Proof.Machine
open Sys2Proof

variable {s : State}

/-! ## One die and one block -/

theorem dieAt_modDie {d : Nat} {x : Die} (hx : dieAt s d = some x) (f : Die → Die) : dieAt (modDie s d f) d = some (f x) := by
  change (s.vault.media.dies.modify d f)[d]? = _
  change s.vault.media.dies[d]? = some x at hx
  rw [List.getElem?_modify_eq, hx]
  rfl

/-- A block stands in its die. -/
theorem blockAt_iff {d b : Nat} {y : Block} : blockAt s d b = some y ↔ ∃ x, dieAt s d = some x ∧ x.blocks[b]? = some y := by
  unfold blockAt
  exact Option.bind_eq_some_iff

theorem blockAt_modBlock {d b : Nat} {y : Block} (hy : blockAt s d b = some y) (f : Block → Block) :
    blockAt (modBlock s d b f) d b = some (f y) := by
  obtain ⟨x, hx, hb⟩ := blockAt_iff.mp hy
  refine blockAt_iff.mpr ⟨_, dieAt_modDie hx _, ?_⟩
  change (x.blocks.modify b f)[b]? = _
  rw [List.getElem?_modify_eq, hb]
  rfl

/-- A change of a die that keeps its blocks. -/
theorem blockAt_modDie {d b : Nat} {y : Block} (hy : blockAt s d b = some y) {f : Die → Die} (keeps : ∀ x, (f x).blocks = x.blocks) :
    blockAt (modDie s d f) d b = some y := by
  obtain ⟨x, hx, hb⟩ := blockAt_iff.mp hy
  exact blockAt_iff.mpr ⟨_, dieAt_modDie hx f, (congrArg (·[b]?) (keeps x)).trans hb⟩

theorem modify_id_at {α : Type} {l : List α} {i : Nat} {x : α} (hx : l[i]? = some x) {f : α → α} (same : f x = x) : l.modify i f = l := by
  refine List.ext_getElem? fun j => ?_
  by_cases h : i = j
  · subst h
    rw [List.getElem?_modify_eq, hx]
    exact congrArg some same
  · rw [List.getElem?_modify_ne _ _ h]

/-- A change that leaves the block as it is changes nothing. -/
theorem modBlock_of_same {d b : Nat} {y : Block} (hy : blockAt s d b = some y) {f : Block → Block} (same : f y = y) :
    modBlock s d b f = s := by
  obtain ⟨x, hx, hb⟩ := blockAt_iff.mp hy
  have blocks : ({ x with blocks := x.blocks.modify b f } : Die) = x :=
    congrArg (fun l => ({ x with blocks := l } : Die)) (modify_id_at hb same)
  exact congrArg (fun l => ({ s with vault.media.dies := l } : State)) (modify_id_at hx blocks)

/-! ## What the operations change -/

theorem addChore_changes (s : State) (cls d b : Nat) : ∃ c, addChore s cls d b = { s with vault.chores := c } := by
  unfold addChore
  dsimp only
  split
  · exact ⟨s.vault.chores, rfl⟩
  · exact ⟨_, rfl⟩

theorem noteFull_changes (s : State) : ∃ f, noteFull s = { s with vault.full := f } := ⟨_, rfl⟩

/-- A block that becomes grown bad, with the chores and the mark of a full Vault that follow. -/
theorem growBad_changes (s : State) (d b : Nat) : ∃ c f, growBad s d b =
    { modBlock s d b (fun y => { y with state := .grownBad }) with vault := { (modBlock s d b fun y => { y with state := .grownBad }).vault with
      chores := c, full := f } } := by
  unfold growBad
  extract_lets bad moved
  have hmoved : ∃ c, moved = { bad with vault.chores := c } := by
    dsimp only [moved]
    split
    · exact ⟨bad.vault.chores, rfl⟩
    · exact addChore_changes bad 2 d b
  obtain ⟨c1, h1⟩ := hmoved
  obtain ⟨c2, h2⟩ := addChore_changes moved 3 0 0
  obtain ⟨f, h3⟩ := noteFull_changes (addChore moved 3 0 0)
  refine ⟨c2, f, ?_⟩
  rw [h3, h2, h1]

theorem blockAt_growBad {d b : Nat} {y : Block} (hy : blockAt s d b = some y) :
    blockAt (growBad s d b) d b = some { y with state := .grownBad } := by
  obtain ⟨c, f, grown⟩ := growBad_changes s d b
  rw [grown]
  exact blockAt_modBlock hy fun y => { y with state := .grownBad }

theorem openBlock_changes (s : State) (d b : Nat) (st : Stream) (reserve : Bool) : ∃ l r,
    openBlock s d b st reserve = { s with vault := { s.vault with media := { s.vault.media with dies := l }, reserveInUse := r } } := by
  unfold openBlock
  extract_lets closed opened
  split
  · exact ⟨opened.vault.media.dies, true, rfl⟩
  · exact ⟨opened.vault.media.dies, s.vault.reserveInUse, rfl⟩

/-- A block taken for a page: the blocks of its die and the mark of the reserve change, nothing else. -/
theorem takeBlock_changes {d : Nat} {st : Stream} {security : Bool} {u : State} {b : Nat}
    (taken : takeBlock s d st security = some (u, b)) : ∃ l r,
    u = { s with vault := { s.vault with media := { s.vault.media with dies := l }, reserveInUse := r } } := by
  unfold takeBlock at taken
  split at taken
  · cases taken
  · dsimp only at taken
    split at taken
    · cases taken
      exact ⟨s.vault.media.dies, s.vault.reserveInUse, rfl⟩
    · have opened : ∀ (x : Die) r, ((leastWorn x).map fun b => (openBlock s d b st r, b)) = some (u, b) → ∃ l r,
          u = { s with vault := { s.vault with media := { s.vault.media with dies := l }, reserveInUse := r } } := by
        intro x r h
        obtain ⟨c, -, e⟩ := Option.map_eq_some_iff.mp h
        obtain ⟨rfl, rfl⟩ := Prod.mk.inj e
        exact openBlock_changes s d c st r
      split at taken
      · split at taken
        · exact opened _ _ taken
        · cases taken
      · split at taken
        · exact opened _ _ taken
        · cases taken

theorem programPage_changes (s : State) (d b : Nat) (c : PageContent) (relocated : Bool) : ∃ l,
    programPage s d b c relocated =
      { s with vault := { s.vault with media := { s.vault.media with dies := l, pseq := s.vault.media.pseq + 1, clean := false } } } :=
  ⟨_, rfl⟩

/-- A page of the device: what it programs stands in the blocks, and in the state of the media. -/
theorem appendSystem_changes (s : State) (d : Nat) (c : PageContent) : ∃ l r n k, appendSystem s d c =
    { s with vault := { s.vault with media := { s.vault.media with dies := l, pseq := n, clean := k }, reserveInUse := r } } := by
  unfold appendSystem
  split
  case h_1 u b taken =>
    obtain ⟨l, r, rfl⟩ := takeBlock_changes taken
    exact ⟨_, r, _, false, rfl⟩
  case h_2 => exact ⟨s.vault.media.dies, s.vault.reserveInUse, s.vault.media.pseq, s.vault.media.clean, rfl⟩

/-! ## Erases (R397, R401) -/

theorem exec_eraseSlot_of_queued {die : Fin 16} {d b : Nat} {x : Die} {rest : List Nat} (index : dieIndex s die = some d)
    (hx : dieAt s d = some x) (runs : dieRuns s d = true) (queued : x.eraseQueue = b :: rest) (writable : s.vault.readOnly = false)
    (idle : (s.vault.erasing.any fun p => decide (p.1 = d)) = false) : exec (.eraseSlot die) s = .next
      (driveWp { modDie s d (fun x => { x with eraseQueue := rest }) with
        vault := { (modDie s d fun x => { x with eraseQueue := rest }).vault with erasing := s.vault.erasing ++ [(d, b)] } } d true) := by
  change execEraseSlot die s = _
  unfold execEraseSlot
  rw [index]
  dsimp only
  rw [hx]
  dsimp only
  rw [queued]
  dsimp only
  rw [if_pos (by rw [runs, writable, idle]; decide)]
  rfl

theorem exec_eraseSlot_of_empty {die : Fin 16} {d : Nat} {x : Die} (index : dieIndex s die = some d) (hx : dieAt s d = some x)
    (empty : x.eraseQueue = []) : exec (.eraseSlot die) s = .next s := by
  change execEraseSlot die s = _
  unfold execEraseSlot
  rw [index]
  dsimp only
  rw [hx]
  dsimp only
  rw [empty]

/-- The state in which an erase of a die has ended: its block is no longer among those that are being erased. -/
def eraseEnded (s : State) (d : Nat) : State :=
  driveWp (modDie { s with vault.erasing := s.vault.erasing.filter fun p => decide (p.1 ≠ d) } d fun x => { x with timeouts := 0 }) d false

theorem exec_eraseDone_of_erasing {die : Fin 16} {d b : Nat} (index : dieIndex s die = some d)
    (erasing : (s.vault.erasing.find? fun p => decide (p.1 = d)) = some (d, b)) (pass : Bool) : exec (.eraseDone die pass) s = .next
      (if pass then blockErased (eraseEnded s d) d b else growBad (eraseEnded s d) d b) := by
  change execEraseDone die pass s = _
  unfold execEraseDone
  rw [index]
  dsimp only
  rw [erasing]
  rfl

theorem blockAt_eraseEnded {d b : Nat} {y : Block} (hy : blockAt s d b = some y) : blockAt (eraseEnded s d) d b = some y :=
  blockAt_modDie (s := { s with vault.erasing := s.vault.erasing.filter fun p => decide (p.1 ≠ d) }) hy fun _ => rfl

theorem ne_of_mem_filter {l : List (Nat × Nat)} {d : Nat} : ∀ p ∈ l.filter (fun p => decide (p.1 ≠ d)), p.1 ≠ d :=
  fun _ hp => of_decide_eq_true (List.mem_filter.mp hp).2

/-- A block as its erase leaves it. -/
def erasedBlock (y : Block) : Block :=
  { y with
    state := .free, written := [], erases := y.erases + 1, reads := 0, reserve := false, refreshDue := false,
    scrubDue := false, scrubbed := 0 }

/-- A block below its endurance comes back free. -/
theorem blockErased_of_below {d b : Nat} {y : Block} {m : MediaReport} (hy : blockAt s d b = some y)
    (report : s.vault.media.report = some m) (below : y.erases + 1 < m.endurance) :
    blockErased s d b = noteFull (modBlock s d b erasedBlock) := by
  change (if ((s.vault.media.report.map fun r => r.endurance).getD 0) ≤
    ((blockAt (modBlock s d b erasedBlock) d b).map fun y => y.erases).getD 0 then _ else _) = _
  rw [report, blockAt_modBlock hy]
  exact if_neg (Nat.not_le.mpr below)

/-! ## Timeouts of a die (R407) -/

/-- A die that has failed: its pages are programmed elsewhere. -/
def dieFailed (s : State) (d : Nat) : State :=
  let failed := driveWp (modDie s d fun x => { x with failed := true, eraseQueue := [] }) d false
  { failed with vault := { failed.vault with
      rework := s.vault.rework ++ s.vault.flight.filter fun p => decide (p.die = d),
      flight := s.vault.flight.filter fun p => decide (p.die ≠ d),
      erasing := s.vault.erasing.filter fun p => decide (p.1 ≠ d) } }

theorem exec_dieTimeout {die : Fin 16} {d : Nat} {x : Die} (index : dieIndex s die = some d) (hx : dieAt s d = some x)
    (runs : dieRuns s d = true) : exec (.dieTimeout die) s = .next
      (if x.timeouts = 0 then modDie s d fun x => { x with timeouts := 1 }
        else logEvent (dieFailed s d) 3 0x0061 0xFFFF 16 (leBytes 1 x.channel ++ leBytes 1 x.target ++ leBytes 1 x.lun)) := by
  change execDieTimeout die s = _
  unfold execDieTimeout
  rw [index]
  dsimp only
  rw [hx]
  dsimp only
  rw [runs]
  rfl

/-! ## Codewords and pages that cannot be read (R389, R397, R399, R405, R406) -/

theorem suspectPage_first {d b p : Nat} (first : (d, b, p) ∉ s.vault.suspect) :
    suspectPage s d b p = ({ s with vault.suspect := s.vault.suspect ++ [(d, b, p)] }, false) :=
  if_neg (by rwa [List.contains_iff_mem])

theorem suspectPage_again {d b p : Nat} (again : (d, b, p) ∈ s.vault.suspect) : suspectPage s d b p =
    (growBad { s with vault := { s.vault with
      suspect := s.vault.suspect.filter (fun x => decide (x ≠ (d, b, p))),
      uncorrectable := min (s.vault.uncorrectable + 1) 0xFFFF } } d b, true) :=
  if_pos (List.contains_iff_mem.mpr again)

/-- The codeword's words have left the packing FIFO of the die's channel. -/
def wordsTaken (s : State) (d : Nat) : State := modFifo s d fun _ => { PackFifo.empty with lastPair := now s }

/-- A codeword decoded with `n` corrections. -/
def codewordCorrected (s : State) (d b n : Nat) : State :=
  let counted := { wordsTaken s d with vault := { (wordsTaken s d).vault with
    corrected := min (s.vault.corrected + bit (decide (0 < n))) 0xFFFFFFFF, highest := max s.vault.highest n } }
  if 24 < n then modBlock counted d b fun y => { y with refreshDue := true } else counted

theorem exec_codewordDecode {die : Fin 16} {d : Nat} {b : BitVec 24} {y : Block} (index : dieIndex s die = some d)
    (runs : dieRuns s d = true) (hy : blockAt s d b.toNat = some y) (p : BitVec 16) (outcome : Decoded) :
    exec (.codewordDecode die b p outcome) s = .next (match outcome with
      | .corrected n => codewordCorrected s d b.toNat n.val
      | .uncorrectable => (suspectPage (wordsTaken s d) d b.toNat p.toNat).1
      | .erased => wordsTaken s d) := by
  change execCodewordDecode die b p outcome s = _
  unfold execCodewordDecode
  rw [index]
  dsimp only
  rw [if_neg (by rw [runs, hy, Option.isNone_some]; decide)]
  cases outcome <;> rfl

/-- The partial word of a codeword whose tail has not come. -/
def partialWords (n : Nat) : List (Nat × Bool × Bool) := List.replicate (n / 64) (64, false, false) ++ [(n % 64, true, true)]

/-- A packing FIFO after the tail timeout of tick `t`. -/
def tailFifo (t n : Nat) (f : PackFifo) : PackFifo :=
  { f with
    words := partialWords n, reserved := (partialWords n).length, assembling := 0, unitLeft := 0, lastPair := t - 16,
    timeouts := f.timeouts + 1 }

/-- The tail timeout of a codeword in the packing FIFO of the die's channel. -/
def tailPushed (s : State) (d n : Nat) : State := modFifo s d (tailFifo (now s) n)

theorem exec_fifoTailTimeout_first {die : Fin 16} {d : Nat} {b : BitVec 24} {p : BitVec 16} {n : BitVec 11} {y : Block}
    (index : dieIndex s die = some d) (runs : dieRuns s d = true) (hy : blockAt s d b.toNat = some y) (part : n.toNat < 1094)
    (word : n.toNat % 64 ≠ 0) (first : (d, b.toNat, p.toNat) ∉ s.vault.suspect) : exec (.fifoTailTimeout die b p n) s = .next
      { tailPushed s d n.toNat with vault := { (tailPushed s d n.toNat).vault with
        suspect := s.vault.suspect ++ [(d, b.toNat, p.toNat)] } } := by
  change execFifoTailTimeout die b p n s = _
  unfold execFifoTailTimeout
  rw [index]
  dsimp only
  rw [if_neg (by rw [runs, hy, Option.isNone_some, decide_eq_false (Nat.not_le.mpr part), decide_eq_false word]; decide)]
  exact congrArg (fun q : State × Bool => Host.Outcome.next (if q.2 = true then _ else q.1))
    (suspectPage_first (s := tailPushed s d n.toNat) first)

theorem exec_blockRefresh {die : Fin 16} {d : Nat} (index : dieIndex s die = some d) (b : BitVec 24) :
    exec (.blockRefresh die b) s = .next
      (modBlock s d b.toNat fun y => if 50000 ≤ y.reads ∧ y.good then { y with refreshDue := true } else y) := by
  change execBlockRefresh die b s = _
  unfold execBlockRefresh
  rw [index]

theorem exec_scrubDue {die : Fin 16} {d : Nat} (index : dieIndex s die = some d) (b : BitVec 24) :
    exec (.scrubDue die b) s = .next (modBlock s d b.toNat fun y =>
      if decide (0 < y.valid) && !inWindow s.lodge.secTime.toNat y.stamp.toNat 84934656000 then { y with scrubDue := true } else y) := by
  change execScrubDue die b s = _
  unfold execScrubDue
  rw [index]

/-! ## Housekeeping slots (R402, R499) -/

theorem exec_housekeepingMediaSlot {die : Fin 16} {d : Nat} (index : dieIndex s die = some d) (runs : dieRuns s d = true)
    (writable : s.vault.readOnly = false) : exec (.housekeepingMediaSlot die) s = .next (noteFull (housekeep s d)) := by
  change execHousekeepingMediaSlot die s = _
  unfold execHousekeepingMediaSlot
  rw [index]
  dsimp only
  rw [if_pos (by rw [runs, writable]; decide)]

theorem find?_chore_of_other {l : List Chore} {cls d : Nat} (other : ∀ c ∈ l, c.cls ≠ cls) :
    (l.find? fun c => decide (c.cls = cls ∧ c.die = d)) = none :=
  List.find?_eq_none.mpr fun c hc h => other c hc (of_decide_eq_true h).1

/-- With no relocation to serve, a checkpoint that is due is written. -/
theorem housekeep_checkpoint {c : Chore} (due : c ∈ s.vault.chores) (only : ∀ c ∈ s.vault.chores, c.cls = 3) (d : Nat) :
    housekeep s d = writeCheckpoint s d := by
  have some' : (s.vault.chores.any fun c => decide (c.cls = 3)) = true := List.any_eq_true.mpr ⟨c, due, decide_eq_true (only c due)⟩
  have none' : ∀ cls, cls ≠ 3 → (s.vault.chores.find? fun c => decide (c.cls = cls ∧ c.die = d)) = none := fun cls other =>
    find?_chore_of_other fun c hc h => other (h.symm.trans (only c hc))
  unfold housekeep
  dsimp only
  rw [none' 1 (by decide), none' 2 (by decide)]
  exact if_pos some'

/-- With no chore, the history records that wait are written. -/
theorem housekeep_history (idle : s.vault.chores = []) (waiting : s.sundial.history ≠ []) (d : Nat) : housekeep s d = writeHistory s d := by
  unfold housekeep
  rw [idle]
  exact if_pos waiting

theorem writeCheckpoint_done (only : ∀ c ∈ s.vault.chores, c.cls = 3) (d : Nat) :
    (writeCheckpoint s d).vault.sinceCheckpoint = 0 ∧ (writeCheckpoint s d).vault.chores = [] := by
  refine ⟨rfl, List.filter_eq_nil_iff.mpr fun c hc => ?_⟩
  obtain ⟨l, r, n, k, appended⟩ := appendSystem_changes (stalePages s fun p => decide (p.head.stream = .system)) d (.checkpoint true)
  rw [appended] at hc
  rw [only c hc]
  decide

theorem writeHistory_done (s : State) (d : Nat) :
    (writeHistory s d).vault.media.history = s.vault.media.history ++ s.sundial.history.take (contentSize s / 32) ∧
      (writeHistory s d).sundial.history = s.sundial.history.drop (contentSize s / 32) := by
  obtain ⟨l, r, n, k, appended⟩ := appendSystem_changes s d (.history (s.sundial.history.take (contentSize s / 32)))
  unfold writeHistory
  dsimp only
  rw [appended]
  refine ⟨rfl, ?_⟩
  change s.sundial.history.drop _ = _
  rw [List.length_take]
  by_cases le : contentSize s / 32 ≤ s.sundial.history.length
  · rw [Nat.min_eq_left le]
  · rw [Nat.min_eq_right (by omega), List.drop_length, List.drop_of_length_le (by omega)]

/-! ## O51 -/

section Settled

variable {die : Fin 16} {d : Nat} {x : Die}

/-- Erases: the oldest queued block is taken, and comes back free, or grown bad. -/
theorem erase_rows (index : dieIndex s die = some d) {b : Nat} {y : Block}
    (erasing : (s.vault.erasing.find? fun p => decide (p.1 = d)) = some (d, b)) (hy : blockAt s d b = some y) :
    (∀ m, s.vault.media.report = some m → y.erases + 1 < m.endurance → ∃ t z, exec (.eraseDone die true) s = .next t ∧
      blockAt t d b = some z ∧ z.state = .free ∧ z.erases = y.erases + 1 ∧ z.written = [] ∧ z.reads = 0 ∧
      (∀ p ∈ t.vault.erasing, p.1 ≠ d)) ∧
    ∃ t z, exec (.eraseDone die false) s = .next t ∧ blockAt t d b = some z ∧ z.state = .grownBad ∧
      (∀ p ∈ t.vault.erasing, p.1 ≠ d) := by
  have hy' := blockAt_eraseEnded hy
  refine ⟨fun m report below => ?_, ?_⟩
  · exact ⟨_, _, (exec_eraseDone_of_erasing index erasing true).trans (congrArg _ (blockErased_of_below hy' report below)),
      blockAt_modBlock hy' erasedBlock, rfl, rfl, rfl, rfl, ne_of_mem_filter⟩
  · refine ⟨_, _, exec_eraseDone_of_erasing index erasing false, blockAt_growBad hy', rfl, ?_⟩
    obtain ⟨c, f, grown⟩ := growBad_changes (eraseEnded s d) d b
    intro p hp
    change p ∈ (growBad (eraseEnded s d) d b).vault.erasing at hp
    rw [grown] at hp
    exact ne_of_mem_filter p hp

theorem correction_rows (index : dieIndex s die = some d) (runs : dieRuns s d = true) {b : BitVec 24} {y : Block}
    (hy : blockAt s d b.toNat = some y) (p : BitVec 16) (n : Fin 41) :
    ∃ t z, exec (.codewordDecode die b p (.corrected n)) s = .next t ∧ t.vault.highest = max s.vault.highest n.val ∧
      t.vault.corrected = min (s.vault.corrected + (if 0 < n.val then 1 else 0)) 0xFFFFFFFF ∧ blockAt t d b.toNat = some z ∧
      z.refreshDue = (y.refreshDue || decide (24 < n.val)) ∧ z.state = y.state := by
  have row := exec_codewordDecode index runs hy p (.corrected n)
  have count : bit (decide (0 < n.val)) = if 0 < n.val then 1 else 0 := by simp [bit]
  by_cases many : 24 < n.val
  · refine ⟨_, _, row.trans (congrArg _ (if_pos many)), rfl, ?_, blockAt_modBlock (s := { wordsTaken s d with
      vault := { (wordsTaken s d).vault with corrected := _, highest := _ } }) hy _, ?_, rfl⟩
    · rw [← count]
      rfl
    · rw [decide_eq_true many, Bool.or_true]
  · refine ⟨_, y, row.trans (congrArg _ (if_neg many)), rfl, ?_, hy, ?_, rfl⟩
    · rw [← count]
    · rw [decide_eq_false many, Bool.or_false]

/-- A page that fails twice takes its block out of service. -/
theorem unreadable_rows (index : dieIndex s die = some d) (runs : dieRuns s d = true) {b : BitVec 24} {y : Block}
    (hy : blockAt s d b.toNat = some y) (p : BitVec 16) :
    ((d, b.toNat, p.toNat) ∉ s.vault.suspect → ∃ t, exec (.codewordDecode die b p .uncorrectable) s = .next t ∧
      t.vault.suspect = s.vault.suspect ++ [(d, b.toNat, p.toNat)] ∧ t.vault.uncorrectable = s.vault.uncorrectable) ∧
    ((d, b.toNat, p.toNat) ∈ s.vault.suspect → ∃ t z, exec (.codewordDecode die b p .uncorrectable) s = .next t ∧
      t.vault.uncorrectable = min (s.vault.uncorrectable + 1) 0xFFFF ∧ blockAt t d b.toNat = some z ∧ z.state = .grownBad) := by
  have row := exec_codewordDecode index runs hy p .uncorrectable
  refine ⟨fun first => ?_, fun again => ?_⟩
  · exact ⟨_, row.trans (congrArg (fun q : State × Bool => Host.Outcome.next q.1) (suspectPage_first (s := wordsTaken s d) first)),
      rfl, rfl⟩
  · have row' := row.trans (congrArg (fun q : State × Bool => Host.Outcome.next q.1) (suspectPage_again (s := wordsTaken s d) again))
    refine ⟨_, _, row', ?_, blockAt_growBad hy, rfl⟩
    obtain ⟨c, f, grown⟩ := growBad_changes { wordsTaken s d with vault := { (wordsTaken s d).vault with
      suspect := s.vault.suspect.filter (fun x => decide (x ≠ (d, b.toNat, p.toNat))),
      uncorrectable := min (s.vault.uncorrectable + 1) 0xFFFF } } d b.toNat
    exact congrArg (fun t : State => t.vault.uncorrectable) grown

/-- A tail timeout leaves the partial word in the FIFO of the die's channel, and the page suspect. -/
theorem tail_row (index : dieIndex s die = some d) (hx : dieAt s d = some x) (runs : dieRuns s d = true) {b : BitVec 24} {y : Block}
    (hy : blockAt s d b.toNat = some y) (p : BitVec 16) (n : BitVec 11) (part : n.toNat < 1094) (word : n.toNat % 64 ≠ 0)
    (first : (d, b.toNat, p.toNat) ∉ s.vault.suspect) (channel : x.channel < s.vault.fifos.length) :
    ∃ t f g, exec (.fifoTailTimeout die b p n) s = .next t ∧ s.vault.fifos[x.channel]? = some g ∧
      t.vault.fifos[x.channel]? = some f ∧ f.timeouts = g.timeouts + 1 ∧
      f.words = List.replicate (n.toNat / 64) (64, false, false) ++ [(n.toNat % 64, true, true)] ∧
      t.vault.suspect = s.vault.suspect ++ [(d, b.toNat, p.toNat)] := by
  have hg := List.getElem?_eq_getElem channel
  refine ⟨_, tailFifo (now s) n.toNat s.vault.fifos[x.channel], _, exec_fifoTailTimeout_first index runs hy part word first, hg, ?_,
    rfl, rfl, rfl⟩
  change (s.vault.fifos.modify (((dieAt s d).map fun x => x.channel).getD 0) (tailFifo (now s) n.toNat))[x.channel]? = _
  rw [hx]
  exact List.getElem?_modify_eq .. |>.trans (congrArg (Option.map _) hg)

/-- A die that times out twice has failed. -/
theorem die_failed_row (index : dieIndex s die = some d) (hx : dieAt s d = some x) (runs : dieRuns s d = true)
    (again : x.timeouts ≠ 0) : ∃ t y, exec (.dieTimeout die) s = .next t ∧ dieAt t d = some y ∧ y.failed = true ∧
      t.vault.rework = s.vault.rework ++ s.vault.flight.filter (fun p => decide (p.die = d)) ∧
      (∀ p ∈ t.vault.flight, p.die ≠ d) := by
  obtain ⟨e, l, logged⟩ := logEventAt_changes (dieFailed s d) 3 0x0061 0xFFFF 16 0xFF 0xFF
    (leBytes 1 x.channel ++ leBytes 1 x.target ++ leBytes 1 x.lun)
  have failed : dieAt (dieFailed s d) d = some { x with failed := true, eraseQueue := [] } :=
    dieAt_modDie hx fun x => { x with failed := true, eraseQueue := [] }
  refine ⟨{ dieFailed s d with events := e, journal := l }, _, (exec_dieTimeout index hx runs).trans (congrArg _ ((if_neg again).trans logged)),
    failed, rfl, rfl, ?_⟩
  exact fun p hp => of_decide_eq_true (List.mem_filter.mp hp).2

end Settled

/-- Settles O51: each row of the upkeep is taken to what it leaves of its die and its block. -/
theorem mediaUpkeep : Obligations.MediaUpkeep := by
  unfold Obligations.MediaUpkeep
  refine fun s die d x index hx runs => ⟨fun b rest queued writable idle => ?_, exec_eraseSlot_of_empty index hx,
    fun b y erasing hy => erase_rows index erasing hy, fun none' => ?_, fun again => ?_,
    fun b p y hy => ⟨correction_rows index runs hy p, (unreadable_rows index runs hy p).1, (unreadable_rows index runs hy p).2,
      tail_row index hx runs hy p, fun worn good => ?_, fun fresh' => ?_, fun valid outside => ?_⟩,
    fun c writable due only => ?_, fun writable idle waiting => ?_⟩
  case refine_1 =>
    exact ⟨_, _, exec_eraseSlot_of_queued index hx runs queued writable idle, rfl, dieAt_modDie hx _, rfl, rfl⟩
  case refine_2 => exact (exec_dieTimeout index hx runs).trans (congrArg _ (if_pos none'))
  case refine_3 => exact die_failed_row index hx runs again
  case refine_4 => exact ⟨_, _, exec_blockRefresh index b, blockAt_modBlock hy _, if_pos ⟨worn, good⟩⟩
  case refine_5 =>
    exact (exec_blockRefresh index b).trans
      (congrArg _ (modBlock_of_same hy (if_neg fun h => absurd h.1 (Nat.not_le.mpr fresh'))))
  case refine_6 =>
    refine ⟨_, _, exec_scrubDue index b, blockAt_modBlock hy _, if_pos ?_⟩
    rw [decide_eq_true valid, outside]
    rfl
  case refine_7 =>
    obtain ⟨count, chores⟩ := writeCheckpoint_done only d
    exact ⟨_, (exec_housekeepingMediaSlot index runs writable).trans
      (congrArg (fun t => Host.Outcome.next (noteFull t)) (housekeep_checkpoint due only d)), count, chores⟩
  case refine_8 =>
    obtain ⟨media, rest⟩ := writeHistory_done s d
    exact ⟨_, (exec_housekeepingMediaSlot index runs writable).trans
      (congrArg (fun t => Host.Outcome.next (noteFull t)) (housekeep_history idle waiting d)), media, rest⟩

end Sys2Proof.Machine
end

section
/-! SUPPORT. Settling where nothing waits, the assembly of records, and the programs of journal pages, with O52
(17_vault_media.md R393, 18_thadex_journal.md R410 to R427). -/
namespace Sys2Proof.Machine
open Sys2Proof

variable {s : State}

/-! ## Settling without jobs -/

theorem destroyReady_of_none (none' : (s.allots.all fun p => !p.2.destroying) = true) (a : Nat) : destroyReady s a = false := by
  unfold destroyReady
  cases hv : KMap.get? s.allots a with
  | none => exact Bool.and_false _
  | some v =>
    have kept : v.destroying = false := by simpa using List.all_eq_true.mp none' _ (KMap.mem_of_get? hv)
    rw [Option.any_some, kept, Bool.false_and, Bool.and_false]

theorem settleDestroyed_of_none (none' : (s.allots.all fun p => !p.2.destroying) = true) : settleDestroyed s = s :=
  foldl_keeps (fun t => t = s) (fun t a ht => by rw [ht, destroyReady_of_none none']; rfl) _ rfl

theorem settleAdmin_of_none (jobs : s.jobs = []) : settleAdmin s = s := by
  rw [settleAdmin, jobs]
  rfl

theorem bistCut_of_none (testing : s.bist.running = false) : bistCut s = s := by
  rw [bistCut, testing]
  rfl

theorem eolSettle_of_none (executing : s.gh.executing ≠ 6) : eolSettle s = s := by
  rw [eolSettle, decide_eq_false executing]
  rfl

theorem settleQueues_of_none (serves : (s.queues.all fun p => !p.2.closing) = true) : settleQueues s = s := by
  refine congrArg (fun q => ({ s with queues := q } : State)) (List.filter_eq_self.mpr fun p hp => ?_)
  have kept := List.all_eq_true.mp serves p hp
  change (((!p.2.closing || _) || _) || _) = true
  rw [kept]
  rfl

theorem ackReady_of_none (staged : s.bridge.staged = []) : ackReady s = s := by
  unfold ackReady
  dsimp only
  rw [staged]
  exact congrArg (fun l => ({ s with bridge.staged := l } : State)) staged.symm

/-- Where nothing waits, a settling changes nothing. -/
theorem settle_of_rest (rest : atRest s) : settle s = s := by
  obtain ⟨jobs, executing, testing, commits, staged, kept, serves⟩ := rest
  have commit : commitReady s = s := by
    rw [commitReady, commits]
    rfl
  unfold settle
  dsimp only
  rw [bistCut_of_none testing, commit, ackReady_of_none staged, settleAdmin_of_none jobs, settleDestroyed_of_none kept,
    settleQueues_of_none serves, jobs]
  exact eolSettle_of_none executing

/-! ## The media's journal while records become durable -/

/-- The journal on the media and the pages in flight, in a device that has no job, no destruction, no self-test and no end of life
for a settling to carry on. -/
structure MediaKept (l : List JSlot) (fl : List PageInFlight) (s : State) : Prop where
  journal : s.vault.media.journal = l
  flight : s.vault.flight = fl
  jobs : s.jobs = []
  executing : s.gh.executing ≠ 6
  testing : s.bist.running = false
  destroying : (s.allots.all fun p => !p.2.destroying) = true

variable {l : List JSlot} {fl : List PageInFlight}

theorem MediaKept.postFrame (h : MediaKept l fl s) (holder type tseq : Nat) (payload : List Byte) :
    MediaKept l fl (Machine.postFrame s holder type tseq payload) :=
  ⟨h.journal, h.flight, h.jobs, h.executing, h.testing, h.destroying⟩

theorem MediaKept.modJob (h : MediaKept l fl s) (k : Nat) (f : Job → Job) : MediaKept l fl (Machine.modJob s k f) :=
  ⟨h.journal, h.flight, by rw [Machine.modJob, h.jobs]; rfl, h.executing, h.testing, h.destroying⟩

theorem MediaKept.no_job (h : MediaKept l fl s) (k : Nat) : KMap.get? s.jobs k = none := by
  rw [h.jobs, KMap.get?_nil]

theorem MediaKept.endJob (h : MediaKept l fl s) (k : Nat) (st : Status) : MediaKept l fl (Machine.endJob s k st) := by
  rw [Machine.endJob, h.no_job k]
  exact h

theorem MediaKept.failQuote (h : MediaKept l fl s) (st : Status) : MediaKept l fl (Machine.failQuote s st) :=
  foldl_keeps (MediaKept l fl) (fun _ k ht => ht.endJob k st) _
    ⟨h.journal, h.flight, h.jobs, h.executing, h.testing, h.destroying⟩

theorem MediaKept.openCommit (h : MediaKept l fl s) (holder kind item : Nat) (contents : List Byte) (records : List Nat)
    (job : Option Nat) : MediaKept l fl (Machine.openCommit s holder kind item contents records job).1 := by
  unfold Machine.openCommit
  dsimp only
  split <;> exact ⟨h.journal, h.flight, h.jobs, h.executing, h.testing, h.destroying⟩

theorem MediaKept.openQuote (h : MediaKept l fl s) (ks : List Nat) : MediaKept l fl (Machine.openQuote s ks) := by
  have joined : MediaKept l fl { s with ice.quoteJoined := ks } := ⟨h.journal, h.flight, h.jobs, h.executing, h.testing, h.destroying⟩
  unfold Machine.openQuote
  extract_lets +onlyGivenNames _ asked
  split
  · exact joined.failQuote .stateExhausted
  · split
    · exact joined.failQuote .vaultMedia
    · extract_lets +onlyGivenNames body a p _ _ noted opened
      have hopened : MediaKept l fl opened := by
        refine foldl_keeps (MediaKept l fl) (fun _ k ht => ht.modJob k _) _ ?_
        exact ⟨h.journal, h.flight, h.jobs, h.executing, h.testing, h.destroying⟩
      split
      · exact hopened.openCommit ..
      · exact hopened

theorem MediaKept.takeQuote (h : MediaKept l fl s) (k : Nat) : MediaKept l fl (Machine.takeQuote s k) := by
  unfold Machine.takeQuote
  split
  · extract_lets +onlyGivenNames moved
    have hmoved : MediaKept l fl moved := h.modJob k _
    exact ⟨hmoved.journal, hmoved.flight, hmoved.jobs, hmoved.executing, hmoved.testing, hmoved.destroying⟩
  · exact h

theorem MediaKept.commitQuote (h : MediaKept l fl s) (b : Nat) : MediaKept l fl (Machine.commitQuote s b) := by
  unfold Machine.commitQuote
  extract_lets +onlyGivenNames ks _ live taken
  have htaken : MediaKept l fl taken := by
    refine foldl_keeps (MediaKept l fl) (fun _ k ht => ht.takeQuote k) _ ?_
    exact ⟨h.journal, h.flight, h.jobs, h.executing, h.testing, h.destroying⟩
  split
  · exact htaken
  · exact htaken.openQuote _

theorem MediaKept.modStateful (h : MediaKept l fl s) (k : Nat) (f : Stateful → Stateful) :
    MediaKept l fl (Machine.modStateful s k f) := ⟨h.journal, h.flight, h.jobs, h.executing, h.testing, h.destroying⟩

theorem MediaKept.takeIndex (h : MediaKept l fl s) (keyNo k : Nat) : MediaKept l fl (Machine.takeIndex s keyNo k) := by
  unfold Machine.takeIndex
  rw [h.no_job k]
  cases statefulAt s keyNo <;> exact h

theorem MediaKept.failReservation (h : MediaKept l fl s) (keyNo : Nat) (st : Status) :
    MediaKept l fl (Machine.failReservation s keyNo st) := by
  unfold Machine.failReservation
  split
  · exact h
  · refine foldl_keeps (MediaKept l fl) (fun t k ht => ?_) _ (h.modStateful keyNo _)
    rw [ht.no_job k]
    exact ht

theorem MediaKept.openReservation (h : MediaKept l fl s) (keyNo : Nat) (ks : List Nat) :
    MediaKept l fl (Machine.openReservation s keyNo ks) := by
  unfold Machine.openReservation
  split
  · exact h
  · extract_lets +onlyGivenNames joined
    have hjoined : MediaKept l fl joined := h.modStateful keyNo _
    split
    · exact hjoined.failReservation keyNo _
    · split
      · exact hjoined.failReservation keyNo _
      · extract_lets +onlyGivenNames a handle r body p noted opened
        have hopened : MediaKept l fl opened := by
          refine foldl_keeps (MediaKept l fl) (fun _ k ht => ht.modJob k _) _ (MediaKept.modStateful ?_ keyNo _)
          exact ⟨h.journal, h.flight, h.jobs, h.executing, h.testing, h.destroying⟩
        split
        · exact hopened.openCommit ..
        · exact hopened

theorem MediaKept.commitBlock (h : MediaKept l fl s) (keyNo b : Nat) : MediaKept l fl (Machine.commitBlock s keyNo b) := by
  unfold Machine.commitBlock
  split
  · exact h
  · extract_lets +onlyGivenNames r n live taken
    have htaken : MediaKept l fl taken := by
      refine foldl_keeps (MediaKept l fl) (fun t k ht => ?_) _ (h.modStateful keyNo _)
      have hindex := ht.takeIndex keyNo k
      dsimp only
      rw [hindex.no_job k]
      exact hindex
    split
    · exact htaken
    · exact htaken.openReservation keyNo _

theorem MediaKept.reserveDurable (h : MediaKept l fl s) (subtype : Nat) (body : List Byte) :
    MediaKept l fl (Machine.reserveDurable s subtype body) := by
  unfold Machine.reserveDurable
  extract_lets +onlyGivenNames handle top _ _ noted
  have hnoted : MediaKept l fl noted := ⟨h.journal, h.flight, h.jobs, h.executing, h.testing, h.destroying⟩
  split
  · extract_lets +onlyGivenNames b _ quoted
    have hquoted : MediaKept l fl quoted := ⟨h.journal, h.flight, h.jobs, h.executing, h.testing, h.destroying⟩
    split
    · exact hquoted.commitQuote b
    · exact hquoted
  · split
    · extract_lets +onlyGivenNames above
      have habove : MediaKept l fl above := hnoted.modStateful _ _
      split
      · exact habove.commitBlock _ _
      · exact habove
    · exact hnoted

theorem MediaKept.releaseRecord (h : MediaKept l fl s) (id : Nat) : MediaKept l fl (Machine.releaseRecord s id) := by
  refine ⟨h.journal, h.flight, ?_, h.executing, h.testing, ?_⟩
  · refine (?_ : KMap.mapAll s.jobs (fun _ j => { j with waits := j.waits.filter fun w => decide (w ≠ Wait.record id) }) = [])
    rw [h.jobs]
    rfl
  · change (List.map _ s.allots).all _ = true
    rw [List.all_map]
    exact h.destroying

theorem MediaKept.pairDurable (h : MediaKept l fl s) (id : Nat) : MediaKept l fl (Machine.pairDurable s id) := by
  unfold Machine.pairDurable
  dsimp only
  split
  · split <;> exact ⟨h.journal, h.flight, h.jobs, h.executing, h.testing, h.destroying⟩
  · exact h

theorem MediaKept.recordDurable (h : MediaKept l fl s) (id seq : Nat) (b : List Byte) :
    MediaKept l fl (Machine.recordDurable s id seq b) := by
  unfold Machine.recordDurable
  extract_lets +onlyGivenNames released reserved _ soloed paired
  have hreleased : MediaKept l fl released := by
    have r := h.releaseRecord id
    exact ⟨r.journal, r.flight, r.jobs, r.executing, r.testing, r.destroying⟩
  have hreserved : MediaKept l fl reserved := by
    dsimp only [reserved]
    split
    · exact hreleased.reserveDurable _ _
    · exact hreleased
  have hsoloed : MediaKept l fl soloed := by
    dsimp only [soloed]
    split
    · exact ⟨hreserved.journal, hreserved.flight, hreserved.jobs, hreserved.executing, hreserved.testing, hreserved.destroying⟩
    · exact hreserved
  have hpaired : MediaKept l fl paired := hsoloed.pairDurable id
  split
  · exact ⟨hpaired.journal, hpaired.flight, hpaired.jobs, hpaired.executing, hpaired.testing, hpaired.destroying⟩
  · exact hpaired

theorem MediaKept.settle (h : MediaKept l fl s) : MediaKept l fl (Machine.settle s) := by
  have hcommit : MediaKept l fl (commitReady s) := by
    refine foldl_keeps (MediaKept l fl) (fun t p ht => ?_) _ h
    split
    · exact ⟨ht.journal, ht.flight, ht.jobs, ht.executing, ht.testing, ht.destroying⟩
    · exact ht
  have hack : MediaKept l fl (ackReady (commitReady s)) := by
    refine foldl_keeps (MediaKept l fl) (fun t c ht => ht.postFrame _ _ _ _) _ ?_
    exact ⟨hcommit.journal, hcommit.flight, hcommit.jobs, hcommit.executing, hcommit.testing, hcommit.destroying⟩
  unfold Machine.settle
  dsimp only
  rw [bistCut_of_none h.testing, settleAdmin_of_none hack.jobs, settleDestroyed_of_none hack.destroying]
  have jobs : (settleQueues (ackReady (commitReady s))).jobs = [] := hack.jobs
  rw [jobs]
  exact (eolSettle_of_none (s := settleQueues (ackReady (commitReady s))) hack.executing).symm ▸
    ⟨hack.journal, hack.flight, hack.jobs, hack.executing, hack.testing, hack.destroying⟩

theorem mem_insertSlot {x y : JSlot} {l : List JSlot} : y ∈ insertSlot x l ↔ y = x ∨ y ∈ l := by
  induction l with
  | nil => exact List.mem_cons
  | cons z l ih =>
    unfold insertSlot
    split
    · exact List.mem_cons
    · rw [List.mem_cons, ih, List.mem_cons]
      tauto

theorem mem_insertSlots {slots : List JSlot} {y : JSlot} (l : List JSlot) (hy : y ∈ slots) :
    y ∈ slots.foldl (fun l x => insertSlot x l) l :=
  foldl_reaches (f := fun l x => insertSlot x l) (P := fun _ => True) (Q := fun l => y ∈ l) (a := y) (fun _ _ _ => trivial)
    (fun _ _ h => mem_insertSlot.mpr (.inr h)) (fun _ _ => mem_insertSlot.mpr (.inl rfl)) hy trivial

theorem MediaKept.journalDurable (h : MediaKept l fl s) (slots : List JSlot) :
    MediaKept (slots.foldl (fun l x => insertSlot x l) l) fl (Machine.journalDurable s slots) := by
  have h' := foldl_keeps (MediaKept (slots.foldl (fun l x => insertSlot x l) l) fl)
    (f := fun s (x : JSlot) => if x.chunk then (if x.id = 38 then { s with journal.hsnDurable := fieldAt x.bytes 0 8 } else s)
      else Machine.recordDurable s x.id x.seq x.bytes) (fun t x ht => by
        split
        · split
          · exact ⟨ht.journal, ht.flight, ht.jobs, ht.executing, ht.testing, ht.destroying⟩
          · exact ht
        · exact ht.recordDurable _ _ _) slots
    (s := { s with vault.media.journal := slots.foldl (fun l x => insertSlot x l) s.vault.media.journal })
    ⟨congrArg (fun l => slots.foldl (fun l x => insertSlot x l) l) h.journal, h.flight, h.jobs, h.executing, h.testing, h.destroying⟩
  exact ⟨h'.journal, h'.flight, h'.jobs, h'.executing, h'.testing, h'.destroying⟩

/-! ## The bytes of a record (R410) -/

/-- FLAGS of a record. -/
def recordFlags (s : State) (r : JRecord) : Nat := bit (!s.lodge.timeValid) + 2 * bit s.bridge.solo + (r.flags / 4 % 2) * 4

theorem recordBytes_eq (s : State) (r : JRecord) : recordBytes s r = leBytes 8 s.journal.next ++ (leBytes 8 s.lodge.secTime.toNat ++
    (leBytes 8 (now s) ++ (leBytes 1 r.type ++ (leBytes 1 (recordFlags s r) ++ (leBytes 2 r.allot.toNat ++ (leBytes 2 r.subtype ++
      (leBytes 2 s.lodge.bootCount.toNat ++ (slice s.journal.head 0 32 ++ slice r.body 0 64)))))))) := by
  unfold recordBytes recordFlags
  simp only [List.append_assoc]

theorem recordBytes_fields (s : State) (r : JRecord) :
    fieldAt (recordBytes s r) 0 8 = s.journal.next % 2 ^ 64 ∧ fieldAt (recordBytes s r) 8 8 = s.lodge.secTime.toNat ∧
      fieldAt (recordBytes s r) 24 1 = r.type % 256 ∧ slice (recordBytes s r) 32 32 = slice s.journal.head 0 32 ∧
      slice (recordBytes s r) 64 64 = slice r.body 0 64 ∧ (recordBytes s r).length = 128 := by
  refine ⟨?_, ?_, ?_, ?_, ?_, ?_⟩
  · rw [recordBytes_eq]
    exact fieldAt_leBytes_append
  · rw [recordBytes_eq, fieldAt_append_right (length_leBytes 8 _), fieldAt_leBytes_append]
    exact Nat.mod_eq_of_lt s.lodge.secTime.isLt
  · rw [recordBytes_eq, ← List.append_assoc, ← List.append_assoc, fieldAt_append_right (by simp), fieldAt_leBytes_append, pow_one]
  · rw [recordBytes, List.append_assoc, slice_append_right (by simp), slice_append_left (length_slice _ _ _)]
  · rw [recordBytes, slice_append_right (by simp)]
    exact (congrArg (slice · 0 64) (List.append_nil _).symm).trans (slice_append_left (length_slice _ _ _))
  · rw [recordBytes]
    simp

/-! ## The turn of allotment 0 (R413 to R415) -/

theorem appendSlot_of_first (rework : s.vault.rework = []) (first : s.journal.position = 1) (d : Nat) :
    appendSlot s d = allotmentTurn (nextPosition s) d 0 := by
  have round : newRound s = s := if_pos (by rw [first]; decide)
  unfold appendSlot
  rw [rework]
  dsimp only [List.find?_nil]
  rw [round, first]
  rfl

theorem nextPosition_of_first (first : s.journal.position = 1) : nextPosition s = { s with journal.position := 2 } := by
  unfold nextPosition
  dsimp only
  rw [if_neg (by rw [first]; decide), first]

/-- Where no key-image change waits, the turn carries the records, and without records a tree cache. -/
theorem allotmentTurn_of_unchanged (unchanged : s.ice.changes = []) (d a : Nat) : allotmentTurn s d a =
    if (openRecords s a).take (slotsPerPage s) ≠ [] then allotPage s d a ((openRecords s a).take (slotsPerPage s))
    else match s.ice.cacheDue.find? fun k => decide (k / 64 = a) with
      | some k => cachePage s d a k
      | none => s := by
  have same : (if s.ice.imageSuspended then { s with ice.changes := s.ice.changes.filter fun c => decide (c.2 ≠ a) } else s) = s := by
    split
    · rw [unchanged]
      exact congrArg (fun l => ({ s with ice.changes := l } : State)) unchanged.symm
    · rfl
  unfold allotmentTurn
  rw [same]
  dsimp only
  rw [unchanged]
  exact if_neg (by rw [List.filter_nil, List.map_nil]; simp)

/-- Where one record waits that leads no boot, its holder may take it. -/
theorem openRecords_single {r : JRecord} (pending : s.journal.pending = [r]) (follows : leads r = false) :
    openRecords s r.holder = [r] := by
  have none' : leadPending s = false := by
    rw [leadPending, pending, List.any_cons, follows]
    rfl
  unfold openRecords
  rw [pending, none']
  simp

/-- While a record leads the boot, an allotment takes none. -/
theorem openRecords_of_lead {a : Nat} (lead : leadPending s = true) (formatted : s.vault.formatting = false) (own : a ≠ deviceHolder) :
    openRecords s a = [] := by
  unfold openRecords
  rw [lead, formatted, decide_eq_true own]
  rfl

/-! ## Assembly and program of one record (R393, R415) -/

/-- The slot of a record assembled next. -/
def slotOfRecord (s : State) (r : JRecord) : JSlot := { chunk := false, seq := s.journal.next, id := r.id, bytes := recordBytes s r }

/-- The journal once its next record has been assembled and stands in a page. -/
def assembledJournal (s : State) (r : JRecord) : Journal :=
  { s.journal with
    pending := s.journal.pending.filter fun x => !([r].any fun y => decide (y.id = x.id)),
    next := s.journal.next + 1, head := sha3_256 (recordBytes s r), sinceHs := s.journal.sinceHs + 1,
    firstTime := if s.journal.next = 1 then s.lodge.secTime.toNat else s.journal.firstTime,
    slots := s.journal.slots ++ [slotOfRecord s r] }

theorem startProgram_changes (s : State) (d b holder : Nat) (c : PageContent) (changes : List Nat) (security : Bool) :
    ∃ v, startProgram s d b holder c changes security = { s with vault := v } ∧ v.flight = s.vault.flight ++
      [{ number := s.vault.nextPage, holder := holder, pseq := s.vault.media.pseq, content := c, changes := changes,
         security := security, die := d, block := b }] := by
  unfold startProgram
  extract_lets +onlyGivenNames p driven
  obtain ⟨w, hdriven, same⟩ : ∃ w, driven = { s with vault := w } ∧ w.flight = s.vault.flight := ⟨driven.vault, rfl, rfl⟩
  rw [← same]
  clear_value driven
  subst hdriven
  extract_lets n _ counted due
  have hdue : ∃ v, due = { s with vault := v } ∧ v.flight = w.flight ++ [p] := by
    dsimp only [due]
    split
    · obtain ⟨l, chored⟩ := addChore_changes counted 3 0 0
      exact ⟨{ counted.vault with chores := l }, chored, rfl⟩
    · exact ⟨counted.vault, rfl, rfl⟩
  obtain ⟨v, hv, flight⟩ := hdue
  refine ⟨{ v with full := (noteFull due).vault.full }, ?_, flight⟩
  rw [hv]
  rfl

/-- The journal page of an allotment that has one record, where the die has a block for it. -/
theorem allotPage_single {d a b : Nat} {u : State} {r : JRecord} (taken : takeBlock s d .journal false = some (u, b))
    (plain : r.type ≠ 1) : ∃ v p, allotPage s d a [r] = { s with journal := assembledJournal s r, vault := v } ∧
      v.flight = s.vault.flight ++ [p] ∧ p.number = s.vault.nextPage ∧ p.holder = a ∧ p.content = .journal [slotOfRecord s r] := by
  obtain ⟨l, k, rfl⟩ := takeBlock_changes taken
  let blocks : Vault := { s.vault with media := { s.vault.media with dies := l }, reserveInUse := k }
  obtain ⟨v, started, flight⟩ := startProgram_changes { s with journal := assembledJournal s r, vault := blocks } d b a
    (.journal [slotOfRecord s r]) [] false
  refine ⟨v, _, ?_, flight, rfl, rfl, rfl⟩
  unfold allotPage
  rw [taken]
  refine Eq.trans ?_ started
  unfold programJournal assembleAll assembleRecord
  simp only [List.foldl_cons, List.foldl_nil, if_neg plain]
  unfold assembledJournal slotOfRecord takePending
  rfl

/-! ## The rows -/

theorem exec_appendSlot {die : Fin 16} {d : Nat} (index : dieIndex s die = some d) (runs : dieRuns s d = true)
    (writable : s.vault.readOnly = false) : exec (.appendSlot die) s = .next (settle (appendSlot s d)) := by
  change execAppendSlot die s = _
  unfold execAppendSlot
  rw [index]
  dsimp only
  rw [if_pos (by rw [runs, writable]; decide)]

theorem exec_appendSlot_of_none {die : Fin 16} (closed : dieIndex s die = none ∨ s.vault.readOnly = true) :
    exec (.appendSlot die) s = .next s := by
  change execAppendSlot die s = _
  unfold execAppendSlot
  split
  case h_1 d index =>
    obtain none' | readOnly := closed
    · cases none'.symm.trans index
    · rw [if_neg (by rw [readOnly, Bool.not_true, Bool.and_false]; decide)]
  case h_2 => rfl

/-- The state in which a page's program has ended: the page is no longer in flight. -/
def programEnded (s : State) (p : PageInFlight) : State :=
  driveWp (modDie { s with vault.flight := s.vault.flight.filter fun x => decide (x.number ≠ p.number) } p.die
    fun x => { x with timeouts := 0 }) p.die false

theorem exec_pageProgramDone {n : W64} {p : PageInFlight}
    (flying : (s.vault.flight.find? fun q => decide (q.number = n.toNat)) = some p) (pass : Bool) :
    exec (.pageProgramDone n pass) s = .next
      (settle (if pass then pagePassed (programEnded s p) p else pageFailed (programEnded s p) p)) := by
  change execPageProgramDone n pass s = _
  unfold execPageProgramDone
  rw [flying]
  rfl

theorem number_of_flying {n : W64} {p : PageInFlight}
    (flying : (s.vault.flight.find? fun q => decide (q.number = n.toNat)) = some p) : p.number = n.toNat :=
  of_decide_eq_true (List.find?_some (p := fun q : PageInFlight => decide (q.number = n.toNat)) flying)

theorem exec_journalExportWrite_of_room {x : JSlot} {rest : List JSlot} (waits : s.journal.exporting = x :: rest)
    (enabled : s.journal.jxEnable = true) (room : exportRoom s.journal = true) (masters' : masters s 0 = true)
    (credit : s.link.credit = true) : exec .journalExportWrite s = .next { s with
      link.out := s.link.out ++ [.write 0 (s.journal.jxRing + BitVec.ofNat 64 (136 * (s.journal.jxProd % 2 ^ s.journal.jxLog)))
        (exportEntry x) false],
      journal := { s.journal with
        jxProd := (s.journal.jxProd + 1) % 2 ^ 32, exporting := rest, jxReplay := s.journal.jxReplay && decide (rest ≠ []) } } := by
  change execJournalExportWrite s = _
  unfold execJournalExportWrite
  rw [waits]
  dsimp only
  rw [if_pos (by rw [enabled, room, masters']; decide), send, if_pos credit]

theorem exec_journalExportWrite_of_disabled (disabled : s.journal.jxEnable = false) (some' : s.journal.exporting ≠ []) :
    exec .journalExportWrite s = .next s := by
  obtain ⟨x, rest, waits⟩ := List.exists_cons_of_ne_nil some'
  change execJournalExportWrite s = _
  unfold execJournalExportWrite
  rw [waits]
  dsimp only
  rw [if_neg (by rw [disabled, Bool.false_and, Bool.false_and]; decide)]

/-! ## O52 -/

/-- The append slot of allotment 0's position carries the one record that waits. -/
theorem appendSlot_single {die : Fin 16} {d b : Nat} {u : State} {r : JRecord} (rest : atRest s) (index : dieIndex s die = some d)
    (runs : dieRuns s d = true) (writable : s.vault.readOnly = false) (rework : s.vault.rework = []) (first : s.journal.position = 1)
    (unchanged : s.ice.changes = []) (pending : s.journal.pending = [r]) (own : r.holder = 0) (plain : r.type ≠ 1)
    (follows : leads r = false) (room : 1 ≤ slotsPerPage s) (taken : takeBlock (nextPosition s) d .journal false = some (u, b)) :
    ∃ t p, exec (.appendSlot die) s = .next t ∧ t.vault.flight = s.vault.flight ++ [p] ∧ p.number = s.vault.nextPage ∧ p.holder = 0 ∧
      p.content = .journal [{ chunk := false, seq := s.journal.next, id := r.id, bytes := recordBytes s r }] ∧
      t.journal.next = s.journal.next + 1 ∧ t.journal.head = sha3_256 (recordBytes s r) ∧ t.journal.pending = [] ∧
      t.journal.position = 2 := by
  rw [nextPosition_of_first first] at taken
  let turn : State := { s with journal.position := 2 }
  obtain ⟨v, p, page, flight, number, holder, content⟩ := allotPage_single (s := turn) (a := 0) taken plain
  have records : (openRecords turn 0).take (slotsPerPage turn) = [r] := by
    rw [← own, openRecords_single (s := turn) pending follows]
    exact List.take_of_length_le room
  have slot : appendSlot s d = { turn with journal := assembledJournal turn r, vault := v } := by
    rw [appendSlot_of_first rework first, nextPosition_of_first first, allotmentTurn_of_unchanged (s := turn) unchanged, records,
      if_pos (List.cons_ne_nil r []), page]
  have still : settle { turn with journal := assembledJournal turn r, vault := v } = { turn with journal := assembledJournal turn r, vault := v } :=
    settle_of_rest rest
  refine ⟨_, p, (exec_appendSlot index runs writable).trans (congrArg _ ((congrArg settle slot).trans still)), flight, number, holder,
    content, rfl, rfl, ?_, rfl⟩
  change s.journal.pending.filter (fun x => !([r].any fun y => decide (y.id = x.id))) = []
  rw [pending]
  simp

/-- While a record leads the boot, that position carries nothing. -/
theorem appendSlot_of_lead {die : Fin 16} {d : Nat} (rest : atRest s) (index : dieIndex s die = some d) (runs : dieRuns s d = true)
    (writable : s.vault.readOnly = false) (rework : s.vault.rework = []) (first : s.journal.position = 1) (unchanged : s.ice.changes = [])
    (uncached : s.ice.cacheDue = []) (lead : leadPending s = true) (formatted : s.vault.formatting = false) :
    exec (.appendSlot die) s = .next { s with journal.position := 2 } := by
  let turn : State := { s with journal.position := 2 }
  have slot : appendSlot s d = turn := by
    rw [appendSlot_of_first rework first, nextPosition_of_first first, allotmentTurn_of_unchanged (s := turn) unchanged,
      openRecords_of_lead (s := turn) lead formatted (by decide), List.take_nil, if_neg (fun h => h rfl)]
    change (match s.ice.cacheDue.find? _ with | some k => _ | none => turn) = turn
    rw [uncached]
    rfl
  have still : settle turn = turn := settle_of_rest rest
  exact (exec_appendSlot index runs writable).trans (congrArg _ ((congrArg settle slot).trans still))

theorem blockAt_stalePages {d b : Nat} {y : Block} (hy : blockAt s d b = some y) (old : MediaPage → Bool) :
    blockAt (stalePages s old) d b = some (Block.stale old y) := by
  obtain ⟨x, hx, hb⟩ := blockAt_iff.mp hy
  refine blockAt_iff.mpr ⟨{ x with blocks := x.blocks.map (Block.stale old) }, ?_, ?_⟩
  · change (s.vault.media.dies.map _)[d]? = _
    change s.vault.media.dies[d]? = some x at hx
    rw [List.getElem?_map, hx]
    rfl
  · change (x.blocks.map (Block.stale old))[b]? = _
    rw [List.getElem?_map, hb]
    rfl

/-- PASS makes the page's slots durable. -/
theorem program_passes {n : W64} {p : PageInFlight} {l : List JSlot} (rest : atRest s)
    (flying : (s.vault.flight.find? fun q => decide (q.number = n.toNat)) = some p) (content : p.content = .journal l) :
    ∃ t, exec (.pageProgramDone n true) s = .next t ∧ (∀ x ∈ l, x ∈ t.vault.media.journal) ∧
      ∀ q ∈ t.vault.flight, q.number ≠ n.toNat := by
  obtain ⟨jobs, executing, testing, -, -, kept, -⟩ := rest
  have durable : MediaKept (l.foldl (fun l x => insertSlot x l) s.vault.media.journal)
      (s.vault.flight.filter fun x => decide (x.number ≠ p.number)) (settle (journalDurable (programEnded s p) l)) :=
    (MediaKept.journalDurable (s := programEnded s p) ⟨rfl, rfl, jobs, executing, testing, kept⟩ l).settle
  have passed : pagePassed (programEnded s p) p = journalDurable (programEnded s p) l := by rw [pagePassed, content]
  refine ⟨_, (exec_pageProgramDone flying true).trans (congrArg (fun t => Host.Outcome.next (settle t)) passed), fun x hx => ?_,
    fun q hq => ?_⟩
  · rw [durable.journal]
    exact mem_insertSlots _ hx
  · rw [durable.flight] at hq
    rw [← number_of_flying flying]
    exact of_decide_eq_true (List.mem_filter.mp hq).2

theorem rest_of_vault (rest : atRest s) (v : Vault) : atRest { s with vault := v } := rest

theorem growBad_rest (rest : atRest s) (d b : Nat) : atRest (growBad s d b) := by
  obtain ⟨c, f, grown⟩ := growBad_changes s d b
  rw [grown]
  exact rest

/-- The state in which a failed program's page is to be programmed again, and what it holds is stale. -/
def pageRequeued (s : State) (p : PageInFlight) : State :=
  let ended := stalePages (programEnded s p) (isPage p.pseq)
  { ended with vault := { ended.vault with rework := s.vault.rework ++ [p] } }

theorem pageFailed_eq (s : State) (p : PageInFlight) :
    pageFailed (programEnded s p) p = growBad (pageRequeued s p) p.die p.block := rfl

theorem stalePages_changes (s : State) (old : MediaPage → Bool) : ∃ l, stalePages s old = { s with vault.media.dies := l } := ⟨_, rfl⟩

theorem programEnded_changes (s : State) (p : PageInFlight) : ∃ l w, programEnded s p = { s with vault := { s.vault with
    flight := s.vault.flight.filter (fun x => decide (x.number ≠ p.number)), media := { s.vault.media with dies := l }, writeEnable := w } } :=
  ⟨_, _, rfl⟩

theorem pageRequeued_changes (s : State) (p : PageInFlight) : ∃ v, pageRequeued s p = { s with vault := v } ∧
    v.rework = s.vault.rework ++ [p] ∧ v.media.journal = s.vault.media.journal := by
  obtain ⟨l, w, ended⟩ := programEnded_changes s p
  obtain ⟨k, stale⟩ := stalePages_changes (programEnded s p) (isPage p.pseq)
  unfold pageRequeued
  rw [stale, ended]
  exact ⟨_, rfl, rfl, rfl⟩

theorem blockAt_pageRequeued {p : PageInFlight} {y : Block} (hy : blockAt s p.die p.block = some y) :
    blockAt (pageRequeued s p) p.die p.block = some (Block.stale (isPage p.pseq) y) := by
  have ended : blockAt (programEnded s p) p.die p.block = some y :=
    blockAt_modDie (s := { s with vault.flight := s.vault.flight.filter fun x => decide (x.number ≠ p.number) }) hy fun _ => rfl
  exact blockAt_stalePages ended (isPage p.pseq)

/-- FAIL queues the page again, and its block is grown bad. -/
theorem program_fails {n : W64} {p : PageInFlight} {y : Block} (rest : atRest s)
    (flying : (s.vault.flight.find? fun q => decide (q.number = n.toNat)) = some p) (hy : blockAt s p.die p.block = some y) :
    ∃ t z, exec (.pageProgramDone n false) s = .next t ∧ t.vault.rework = s.vault.rework ++ [p] ∧
      t.vault.media.journal = s.vault.media.journal ∧ blockAt t p.die p.block = some z ∧ z.state = .grownBad := by
  obtain ⟨v, requeued, rework, journal⟩ := pageRequeued_changes s p
  have still : settle (growBad (pageRequeued s p) p.die p.block) = growBad (pageRequeued s p) p.die p.block := by
    rw [requeued]
    exact settle_of_rest (growBad_rest (rest_of_vault rest v) p.die p.block)
  obtain ⟨c, f, grown⟩ := growBad_changes (pageRequeued s p) p.die p.block
  have row := exec_pageProgramDone flying false
  rw [if_neg (by decide), pageFailed_eq, still] at row
  refine ⟨_, _, row, ?_, ?_, blockAt_growBad (blockAt_pageRequeued hy), rfl⟩
  · rw [grown, requeued]
    exact rework
  · rw [grown, requeued]
    exact journal

/-- The chunks of a head signature. -/
def headChunks (hsn : Nat) (sig : List Byte) : List (Nat × List Byte) :=
  (List.range 39).map fun j => (j, leBytes 8 hsn ++ slice sig (120 * j) 120)

theorem headChunks_named {n : Nat} {sig : List Byte} {c : Nat × List Byte} (hc : c ∈ headChunks n sig) :
    fieldAt c.2 0 8 = n % 2 ^ 64 ∧ c.2.length = 128 := by
  obtain ⟨j, -, rfl⟩ := List.mem_map.mp hc
  exact ⟨fieldAt_leBytes_append, by simp⟩

theorem exec_headSignatureReady_signed {n : Nat} {rec : List Byte} (signing : s.journal.signing = some (n, rec)) : ∃ sig,
    exec .headSignatureReady s = .next { s with
      freeCount := s.freeCount + 4, journal := { s.journal with signing := none, chunks := headChunks n sig } } := by
  change ∃ sig, execHeadSignatureReady s = _
  unfold execHeadSignatureReady
  rw [signing]
  exact ⟨_, rfl⟩

theorem exec_headSignatureReady_unsigned (unsigned : s.journal.signing = none) : exec .headSignatureReady s = .next s := by
  change execHeadSignatureReady s = _
  unfold execHeadSignatureReady
  rw [unsigned]

/-- Settles O52: a device at rest stays so through an append slot and a failed program, and what a durable record brings about leaves
the journal of the media alone. -/
theorem journalAppends : Obligations.JournalAppends := by
  unfold Obligations.JournalAppends
  refine fun s die => ⟨fun d r u b rest index runs writable rework first unchanged pending own plain follows room taken =>
      appendSlot_single rest index runs writable rework first unchanged pending own plain follows room taken,
    fun d rest index runs writable rework first unchanged uncached lead formatted =>
      ⟨_, appendSlot_of_lead rest index runs writable rework first unchanged uncached lead formatted, rfl, rfl, rfl, rfl⟩,
    exec_appendSlot_of_none, recordBytes_fields s,
    fun n p l rest flying content => ⟨program_passes rest flying content, fun y hy => program_fails rest flying hy⟩,
    fun n rec signing => ?_, exec_headSignatureReady_unsigned,
    fun x rest waits enabled room masters' credit =>
      ⟨_, exec_journalExportWrite_of_room waits enabled room masters' credit, rfl, rfl, rfl⟩,
    exec_journalExportWrite_of_disabled⟩
  obtain ⟨sig, row⟩ := exec_headSignatureReady_signed signing
  exact ⟨_, row, rfl, by simp [headChunks], fun c hc => headChunks_named hc, rfl⟩

end Sys2Proof.Machine
end

section
/-! SUPPORT. The Footbridge's link, its slots and the frames that it does not take, with O53 (19_footbridge.md R428 to R433). -/
namespace Sys2Proof.Machine
open Sys2Proof

variable {s : State} {h : FrameHead} {p : List Byte}

/-! ## The link goes up and down (R428, R431) -/

/-- What a link that has gone down leaves of the Footbridge. -/
structure LinkGone (s t : State) : Prop where
  linkUp : t.bridge.linkUp = false
  linkKey : t.bridge.linkKey = none
  nakSince : t.bridge.nakSince = none
  retrains : t.bridge.retrains = s.bridge.retrains
  retrainAt : t.bridge.retrainAt = now s + 4096
  present : t.bridge.present = s.bridge.present

theorem linkGone_linkLost (s : State) : LinkGone s (linkLost s) := ⟨rfl, rfl, rfl, rfl, rfl, rfl⟩

/-- The Footbridge once no ceremony outlives its link. -/
theorem endCeremony_bridge (s : State) : (endCeremony s).bridge = { s.bridge with helloPeer := [] } ∨
    (endCeremony s).bridge = ceremonyFailed { s.bridge with helloPeer := [] } := by
  unfold endCeremony
  dsimp only
  split
  · exact .inr (failCeremony_bridge _ _ _)
  · exact .inl rfl

theorem LinkGone.endCeremony {t : State} (gone : LinkGone s t) :
    LinkGone s (Machine.endCeremony t) ∧ (Machine.endCeremony t).bridge.helloPeer = [] := by
  obtain bridge | bridge := endCeremony_bridge t
  · exact ⟨⟨by rw [bridge, gone.linkUp], by rw [bridge, gone.linkKey], by rw [bridge, gone.nakSince], by rw [bridge, gone.retrains],
      by rw [bridge, gone.retrainAt], by rw [bridge, gone.present]⟩, by rw [bridge]⟩
  · refine ⟨⟨?_, ?_, ?_, ?_, ?_, ?_⟩, ?_⟩ <;> rw [bridge]
    exacts [gone.linkUp, gone.linkKey, gone.nakSince, gone.retrains, gone.retrainAt, gone.present, rfl]

/-- The state in which a retrain of the link is counted. -/
def retrainCounted (s : State) : State := { s with bridge.retrains := min (s.bridge.retrains + 1) 0xFFFF }

theorem linkGone_retrain (s : State) : LinkGone (retrainCounted s) (retrain s) := linkGone_linkLost (retrainCounted s)

theorem exec_linkUp_of_ready (bridge : hasBridge s = true) (present : s.bridge.present = true) (stage : 8 ≤ s.boot.stage)
    (block : s.bridge.block.at' = none) (down : s.bridge.linkUp = false) : exec .linkUp s = .next (linkUp s) := by
  refine congrArg Host.Outcome.next (if_pos ?_)
  rw [bridge, present, decide_eq_true stage, block, down]
  rfl

/-- The link comes up with fresh frame numbers and no link key; a paired device draws its nonce, or owes it to the Fountain. -/
theorem linkUp_fresh (s : State) : (linkUp s).bridge.linkUp = true ∧ (linkUp s).bridge.lanes = 4 ∧ (linkUp s).bridge.fseqIn = 0 ∧
    (linkUp s).bridge.fseqOut = 0 ∧ (linkUp s).bridge.linkKey = none ∧ (linkUp s).bridge.peerNonce = none ∧
    (s.bridge.paired = true → s.fountain.ready = true → (linkUp s).bridge.ownNonce.isSome = true) ∧
    (s.bridge.paired = true → s.fountain.ready = false → (linkUp s).bridge.nonceDue = true ∧ (linkUp s).bridge.ownNonce = none) := by
  unfold linkUp
  extract_lets +onlyGivenNames _ up
  have paired : up.bridge.paired = s.bridge.paired := rfl
  have fountain : up.fountain = s.fountain := rfl
  rw [paired]
  unfold postNonce
  rw [fountain]
  cases s.bridge.paired
  · exact ⟨rfl, rfl, rfl, rfl, rfl, rfl, nofun, nofun⟩
  · cases s.fountain.ready
    · exact ⟨rfl, rfl, rfl, rfl, rfl, rfl, nofun, fun _ _ => ⟨rfl, rfl⟩⟩
    · exact ⟨rfl, rfl, rfl, rfl, rfl, rfl, fun _ _ => rfl, nofun⟩

theorem exec_linkDown_of_up (up : s.bridge.linkUp = true) : exec .linkDown s = .next (endCeremony (linkLost s)) :=
  congrArg Host.Outcome.next (if_pos up)

theorem exec_linkRetrain_of_due (bridge : hasBridge s = true) (present : s.bridge.present = true) (stage : 8 ≤ s.boot.stage)
    (down : s.bridge.linkUp = false) (due : s.bridge.retrainAt ≤ now s) : exec .linkRetrain s = .next (retrain s) := by
  refine congrArg Host.Outcome.next (if_pos ?_)
  rw [bridge, present, decide_eq_true stage, down, decide_eq_true due]
  rfl

theorem exec_fbPresentChange (s : State) (p : Bool) : exec (.fbPresentChange p) s = .next
    (if p = false ∧ s.bridge.linkUp = true then endCeremony (linkLost { s with bridge.present := p }) else { s with bridge.present := p }) := by
  refine congrArg Host.Outcome.next (if_congr ?_ rfl rfl)
  simp

theorem exec_linkNakTimeout_of_late {n : Nat} (since : s.bridge.nakSince = some n) (listens : bridgeListens s = true)
    (late : n + 64 ≤ now s) : exec .linkNakTimeout s = .next (endCeremony (retrain s)) := by
  change execLinkNakTimeout s = _
  unfold execLinkNakTimeout
  rw [since]
  exact congrArg Host.Outcome.next (if_pos (by rw [listens, decide_eq_true late]; rfl))

theorem exec_linkNakTimeout_of_none (none' : s.bridge.nakSince = none) : exec .linkNakTimeout s = .next s := by
  change execLinkNakTimeout s = _
  unfold execLinkNakTimeout
  rw [none']

/-! ## Bridge slots (R429, R433, R442) -/

theorem newBridgeRound_of_same (same : s.bridge.nextMembers = s.bridge.members) : newBridgeRound s = s := by
  unfold newBridgeRound
  dsimp only
  rw [if_pos same, ite_self]

theorem nextBridgePosition_of_first (first : s.bridge.position = 0) : nextBridgePosition s = { s with bridge.position := 1 } := by
  unfold nextBridgePosition
  dsimp only
  rw [if_neg (by rw [first]; decide), first]

/-- The heartbeat of a device position. -/
def heartbeatFrame (s : State) : Frame :=
  { type := 0x20, last := true, isSealed := true, holder := deviceHolder, fseq := 0, tseq := 0, segment := 0, payload := heartbeatPayload s }

theorem heartbeatFrame_quiet : (heartbeatFrame s).type ≠ 0x10 ∧ (heartbeatFrame s).type ≠ 0x13 ∧ (heartbeatFrame s).type ≠ 0x24 := by
  have type : (heartbeatFrame s).type = 0x20 := rfl
  rw [type]
  decide

/-- The state in which the heartbeat of position 0 stands first in the device's queue. -/
def heartbeatQueued (s : State) : State :=
  { s with bridge := { s.bridge with
      position := 1, queue := KMap.put s.bridge.queue deviceHolder (heartbeatFrame s :: KMap.getD s.bridge.queue deviceHolder []),
      hbSent := now s / 64 } }

theorem bridgeSlot_of_heartbeat (first : s.bridge.position = 0) (same : s.bridge.nextMembers = s.bridge.members)
    (due : heartbeatDue s = true) : bridgeSlot s = transmit (heartbeatQueued s) deviceHolder (heartbeatFrame s) := by
  have due' : heartbeatDue { s with bridge.position := 1 } = true := due
  unfold bridgeSlot
  rw [newBridgeRound_of_same same]
  dsimp only
  rw [nextBridgePosition_of_first first, first]
  exact if_pos due'

/-- Without a heartbeat, position 0 carries the first message of the device where none of them belongs to a pairing. -/
theorem bridgeSlot_of_message {f : Frame} {l : List Frame} (first : s.bridge.position = 0) (same : s.bridge.nextMembers = s.bridge.members)
    (idle : heartbeatDue s = false) (pastOpening : linkOpening s = false) (queue : KMap.get? s.bridge.queue deviceHolder = some (f :: l))
    (plain : pairingType f.type = false) : bridgeSlot s = transmit { s with bridge.position := 1 } deviceHolder f := by
  have waiting : KMap.getD s.bridge.queue deviceHolder [] = f :: l := by rw [KMap.getD, queue]; rfl
  have slot : slotFrame { s with bridge.position := 1 } (some deviceHolder) = some (deviceHolder, f) := by
    have pastOpening' : linkOpening { s with bridge.position := 1 } = false := pastOpening
    unfold slotFrame
    dsimp only
    rw [pastOpening', if_neg (by decide), waiting]
    dsimp only
    rw [plain, if_neg (by decide), Option.bind_some, waiting]
    rfl
  have idle' : heartbeatDue { s with bridge.position := 1 } = false := idle
  unfold bridgeSlot
  rw [newBridgeRound_of_same same]
  dsimp only
  rw [nextBridgePosition_of_first first, first, idle', if_neg (by decide)]
  exact (congrArg (fun o : Option (Nat × Frame) => match o with
    | some (h, f) => transmit { s with bridge.position := 1 } h f
    | none => { s with bridge.position := 1 }) slot)

/-- The one segment of a short message, as it goes out under the link key. -/
def sealedFrame (s : State) (h : Nat) (f : Frame) : Frame :=
  { f with holder := h, last := true, isSealed := true, fseq := s.bridge.fseqOut + 1 }

theorem getLast?_drop_append {α : Type} (l : List α) (x : α) {n : Nat} (some' : 1 ≤ n) :
    ((l ++ [x]).drop ((l ++ [x]).length - n)).getLast? = some x := by
  rw [List.getLast?_drop, if_neg (by rw [List.length_append, List.length_singleton]; omega), List.getLast?_concat]

/-- A message of one segment that brings nothing when it leaves: its frame is kept for a resend, and the message leaves the queue. -/
theorem transmit_short {k : List Byte} {f : Frame} (key : s.bridge.linkKey = some k) (new : f.fseq = 0) (whole : f.segment = 0)
    (short : f.payload.length ≤ 912) (quiet : f.type ≠ 0x10 ∧ f.type ≠ 0x13 ∧ f.type ≠ 0x24) (h : Nat) :
    ∃ kept wire, transmit s h f = { s with bridge := { s.bridge with
      queue := KMap.put s.bridge.queue h ((KMap.getD s.bridge.queue h []).erase f), fseqOut := s.bridge.fseqOut + 1,
      sent := kept, wire := wire } } ∧ kept.getLast? = some (sealedFrame s h f) := by
  obtain ⟨prepare, commit, nonce⟩ := quiet
  have last : f.payload.length ≤ 912 * (f.segment + 1) := by rw [whole]; exact short
  have payload : (f.payload.drop (912 * f.segment)).take 912 = f.payload := by
    rw [whole, Nat.mul_zero, List.drop_zero, List.take_of_length_le short]
  have message : ∀ t : State, messageSent t f = t := by
    intro t
    unfold messageSent
    split
    next e => exact absurd e prepare
    next e => exact absurd e commit
    next e => exact absurd e nonce
    next => rfl
  unfold transmit
  rw [if_neg (fun differs => differs new), if_pos last, message]
  unfold sendSegment
  dsimp only
  rw [payload, key, decide_eq_true last, decide_eq_true nonce, Option.isSome_some, Bool.and_self, if_pos rfl]
  exact ⟨_, _, rfl, getLast?_drop_append _ _ (by decide)⟩

theorem exec_bridgeSlot (s : State) : exec .bridgeSlot s = .next (if bridgeListens s then bridgeSlot s else s) := rfl

/-! ## Frames that are not taken (R430) -/

/-- Each row of a whole message hands its effect to the acceptance of frames. -/
theorem exec_of_messageRow {c : Instr} (row : messageRow h p c) (s : State) : ∃ effect, exec c s = .next (onMessage s h effect) := by
  rcases row with rfl | rfl | rfl | rfl | rfl | rfl | rfl | rfl | rfl | rfl | rfl | rfl | rfl | rfl | rfl | rfl | rfl | rfl <;> exact ⟨_, rfl⟩

theorem onMessage_of_deaf (deaf : bridgeListens s = false) (effect : State → State) : onMessage s h effect = s := by
  rw [onMessage, deaf]
  rfl

/-- A frame out of sequence, or whose check fails, is discarded. -/
theorem onMessage_of_refused (listens : bridgeListens s = true) (refused : ¬ takesFrame s h) (effect : State → State) :
    onMessage s h effect = discardFrame s := by
  unfold onMessage
  rw [listens, Bool.not_true, if_neg (by decide), if_neg]
  intro taken
  simp only [Bool.and_eq_true, decide_eq_true_eq, and_assoc] at taken
  exact refused ⟨listens, taken⟩

theorem exec_linkNonce (s : State) (h : FrameHead) (p : List Byte) : exec (.linkNonce h p) s = .next (if !bridgeListens s then s
    else if !h.intact then endCeremony (retrain { s with bridge.discarded := min (s.bridge.discarded + 1) 0xFFFFFFFF })
    else onMessage s h fun s => tryLinkKey { s with bridge.peerNonce := some (slice p 0 32) }) := rfl

theorem exec_of_deaf {c : Instr} (row : messageRow h p c ∨ c = .linkNonce h p) (deaf : bridgeListens s = false) :
    exec c s = .next s := by
  obtain row | rfl := row
  · obtain ⟨effect, he⟩ := exec_of_messageRow row s
    rw [he, onMessage_of_deaf deaf]
  · rw [exec_linkNonce, deaf]
    rfl

theorem exec_of_refused {c : Instr} (row : messageRow h p c ∨ c = .linkNonce h p ∧ h.intact = true) (listens : bridgeListens s = true)
    (refused : ¬ takesFrame s h) : exec c s = .next (discardFrame s) := by
  obtain row | ⟨rfl, intact⟩ := row
  · obtain ⟨effect, he⟩ := exec_of_messageRow row s
    rw [he, onMessage_of_refused listens refused]
  · rw [exec_linkNonce, onMessage_of_refused listens refused, listens, intact]
    rfl

/-! ## O53 -/

/-- The heartbeat of position 0 goes out with the time of the slot. -/
theorem heartbeat_row (listens : bridgeListens s = true) (first : s.bridge.position = 0) (same : s.bridge.nextMembers = s.bridge.members)
    (due : heartbeatDue s = true) : ∃ t f, exec .bridgeSlot s = .next t ∧ t.bridge.hbSent = now s / 64 ∧
      t.bridge.sent.getLast? = some f ∧ f.type = 0x20 ∧
      fieldAt f.payload 0 8 = now s % 2 ^ 64 ∧ fieldAt f.payload 8 8 = s.lodge.secTime.toNat := by
  have keyed : s.bridge.linkKey.isSome = true := by
    simp only [heartbeatDue, Bool.and_eq_true] at due
    exact due.1.1.2
  obtain ⟨k, key⟩ := Option.isSome_iff_exists.mp keyed
  have short : (heartbeatPayload s).length ≤ 912 := by simp [heartbeatPayload]
  have time : heartbeatPayload s = leBytes 8 (now s) ++ (leBytes 8 s.lodge.secTime.toNat ++ (leBytes 1 (bit s.bridge.solo) ++ (zeroBytes 7 ++
      (leBytes 8 (s.bridge.committed.getLast?.getD 0) ++ leBytes 8 s.bridge.peerCommitted)))) := by
    simp only [heartbeatPayload, List.append_assoc]
  obtain ⟨kept, wire, sent, last⟩ := transmit_short (s := heartbeatQueued s) (f := heartbeatFrame s) key rfl rfl short heartbeatFrame_quiet deviceHolder
  refine ⟨_, _, (exec_bridgeSlot s).trans (congrArg _ ((if_pos listens).trans ((bridgeSlot_of_heartbeat first same due).trans sent))), rfl,
    last, rfl, ?_, ?_⟩
  · change fieldAt (heartbeatPayload s) 0 8 = _
    rw [time]
    exact fieldAt_leBytes_append
  · change fieldAt (heartbeatPayload s) 8 8 = _
    rw [time, fieldAt_append_right (length_leBytes 8 _), fieldAt_leBytes_append]
    exact Nat.mod_eq_of_lt s.lodge.secTime.isLt

/-- A short message of the device goes out in position 0. -/
theorem message_row {f : Frame} {k : List Byte} (listens : bridgeListens s = true) (first : s.bridge.position = 0)
    (same : s.bridge.nextMembers = s.bridge.members) (idle : heartbeatDue s = false) (key : s.bridge.linkKey = some k)
    (queue : KMap.get? s.bridge.queue deviceHolder = some [f]) (new : f.fseq = 0) (whole : f.segment = 0)
    (short : f.payload.length ≤ 912) (type : f.type ∈ [0x11, 0x12, 0x14, 0x21, 0x22, 0x23, 0x30, 0x31, 0x32]) : ∃ t,
      exec .bridgeSlot s = .next t ∧ t.bridge.position = 1 ∧ t.bridge.fseqOut = s.bridge.fseqOut + 1 ∧
      KMap.get? t.bridge.queue deviceHolder = some [] ∧ t.bridge.sent.getLast? = some { f with
        holder := deviceHolder, last := true, isSealed := true, fseq := s.bridge.fseqOut + 1 } := by
  have quiet : ∀ n ∈ [0x11, 0x12, 0x14, 0x21, 0x22, 0x23, 0x30, 0x31, 0x32], (n ≠ 0x10 ∧ n ≠ 0x13 ∧ n ≠ 0x24) ∧ pairingType n = false := by
    decide
  have pastOpening : linkOpening s = false := by rw [linkOpening, key]; rfl
  obtain ⟨kept, wire, sent, last⟩ := transmit_short (s := { s with bridge.position := 1 }) key new whole short (quiet _ type).1 deviceHolder
  have row := (exec_bridgeSlot s).trans (congrArg _ ((if_pos listens).trans
    ((bridgeSlot_of_message first same idle pastOpening queue (quiet _ type).2).trans sent)))
  refine ⟨_, row, rfl, rfl, ?_, last⟩
  refine (KMap.get?_put_same _ _ _).trans (congrArg some ?_)
  change (KMap.getD s.bridge.queue deviceHolder []).erase f = []
  rw [KMap.getD, queue]
  exact List.erase_cons_head (a := f) (l := [])

/-- Settles O53: the link's rows by what a lost link leaves, the slots by their one frame, and the frames that are not taken by one
lemma for all rows. -/
theorem bridgeLink : Obligations.BridgeLink := by
  unfold Obligations.BridgeLink
  refine ⟨fun s => ⟨fun bridge present stage block down => ⟨_, exec_linkUp_of_ready bridge present stage block down, linkUp_fresh s⟩,
      fun up => ?_, fun bridge present stage down due => ?_, fun p => ?_, fun n since listens late => ?_, exec_linkNakTimeout_of_none,
      fun f k listens first same idle key queue new whole short type =>
        message_row listens first same idle key queue new whole short type,
      heartbeat_row, fun deaf => (exec_bridgeSlot s).trans (congrArg _ (if_neg (Bool.eq_false_iff.mp deaf)))⟩,
    fun s h p c => ⟨exec_of_deaf, fun row listens refused => ?_, fun listens broken => ?_⟩⟩
  case refine_1 =>
    obtain ⟨gone, hello⟩ := (linkGone_linkLost s).endCeremony
    exact ⟨_, exec_linkDown_of_up up, gone.linkUp, gone.linkKey, hello, gone.retrains⟩
  case refine_2 =>
    have gone := linkGone_retrain s
    exact ⟨_, exec_linkRetrain_of_due bridge present stage down due, gone.retrains, gone.retrainAt, gone.linkUp⟩
  case refine_3 =>
    refine ⟨_, exec_fbPresentChange s p, ?_⟩
    obtain ⟨gone, -⟩ := (linkGone_linkLost { s with bridge.present := p }).endCeremony
    split
    case isTrue lost => exact ⟨gone.present, fun _ => gone.linkUp, fun up => absurd (lost.1.symm.trans up) (by decide)⟩
    case isFalse kept => exact ⟨rfl, fun low => Bool.eq_false_iff.mpr fun up => kept ⟨low, up⟩, fun _ => rfl⟩
  case refine_4 =>
    obtain ⟨gone, -⟩ := (linkGone_retrain s).endCeremony
    exact ⟨_, exec_linkNakTimeout_of_late since listens late, gone.linkUp, gone.nakSince, gone.retrains⟩
  case refine_5 =>
    refine ⟨_, _, exec_of_refused row listens refused, rfl, rfl, fun none' => ?_, getD_postFrame _ deviceHolder 0x23 0 _, rfl, rfl, rfl,
      rfl, rfl⟩
    change (s.bridge.nakSince <|> some (now s)) = _
    rw [none']
    rfl
  case refine_6 =>
    obtain ⟨gone, -⟩ := (linkGone_retrain { s with bridge.discarded := min (s.bridge.discarded + 1) 0xFFFFFFFF }).endCeremony
    refine ⟨_, (exec_linkNonce s h p).trans (congrArg _ ?_), gone.linkUp, gone.retrains⟩
    rw [listens, broken]
    rfl

end Sys2Proof.Machine
end

section
/-! SUPPORT. The messages of the two-phase commit and its timeout, with O55 (19_footbridge.md R439 to R441). -/
namespace Sys2Proof.Machine
open Sys2Proof

variable {s : State} {h : FrameHead} {p : List Byte}

/-! ## Settling with a commit -/

/-- Where only commits wait, a settling goes no further than they do. -/
theorem settle_of_ready {t : State} (testing : s.bist.running = false) (ready : commitReady s = t)
    (rest : atRest { t with bridge.commits := [] }) : settle s = t := by
  obtain ⟨jobs, executing, -, -, staged, kept, serves⟩ := rest
  have kept' : (t.allots.all fun p => !p.2.destroying) = true := kept
  have serves' : (t.queues.all fun p => !p.2.closing) = true := serves
  have jobs' : t.jobs = [] := jobs
  have staged' : t.bridge.staged = [] := staged
  unfold settle
  dsimp only
  rw [bistCut_of_none testing, ready, ackReady_of_none staged', settleAdmin_of_none jobs', settleDestroyed_of_none kept',
    settleQueues_of_none serves', jobs']
  exact eolSettle_of_none (s := t) executing

/-! ## PREPARE (R439 step 2) -/

theorem exec_prepare (takes : takesFrame s h) : exec (.prepare h p) s = .next (onPrepare (acceptedOf s h) h p) :=
  congrArg Host.Outcome.next (onMessage_of_takes takes _)

theorem onPrepare_of_apart (apart : mirrors s = false) : onPrepare s h p = s := by
  unfold onPrepare
  dsimp only
  rw [apart]
  rfl

/-- The change of the twin that a PREPARE brings. -/
def stagedOf (h : FrameHead) (p : List Byte) : Staged :=
  { tseq := h.tseq.toNat, holder := frameHolder h, kind := fieldAt p 0 2, item := fieldAt p 2 6, contents := p.drop 8, records := [],
    acked := false, inDoubt := false }

/-- A change that needs no record here is staged, and acknowledged at once. -/
theorem onPrepare_of_free (mirrored : mirrors s = true) (sound : changeFault s (fieldAt p 0 2) (fieldAt p 2 6) (p.drop 8) = none)
    (free : changeRecords s (frameHolder h) (fieldAt p 0 2) (fieldAt p 2 6) (p.drop 8) = (s, [])) (empty : s.bridge.staged = []) :
    onPrepare s h p = postFrame { s with bridge.staged := [{ stagedOf h p with acked := true }] } (frameHolder h) 0x11 h.tseq.toNat
      (leBytes 8 h.tseq.toNat) := by
  unfold onPrepare
  dsimp only
  rw [mirrored, if_neg (by decide), sound]
  dsimp only
  rw [free]
  unfold ackReady
  dsimp only
  rw [empty]
  rfl

theorem onPrepare_of_fault {r : Nat} (mirrored : mirrors s = true)
    (fault : changeFault s (fieldAt p 0 2) (fieldAt p 2 6) (p.drop 8) = some r) : onPrepare s h p =
      postFrame s (frameHolder h) 0x12 h.tseq.toNat (leBytes 8 h.tseq.toNat ++ leBytes 2 r) := by
  unfold onPrepare
  dsimp only
  rw [mirrored, if_neg (by decide), fault]

/-- A command that is no LC_ADVANCE, and the keys of the pair, are checked and recorded by the twin alone. -/
theorem change_of_twin {k item : Nat} {b : List Byte} (kind : k = 0 ∧ fieldAt b 0 2 ≠ 0xF00F ∨ k = 0x0E)
    (lone : itemOpen s k item = false ∨ isWest s = true) (holder : Nat) :
    changeFault s k item b = none ∧ changeRecords s holder k item b = (s, []) := by
  have same : sameOpen s k item b = itemOpen s k item := if_neg (by omega)
  have met : ¬ (sameOpen s k item b && !isWest s) = true := by
    rw [same]
    obtain lone | west := lone
    · rw [lone, Bool.false_and]
      decide
    · rw [west, Bool.not_true, Bool.and_false]
      decide
  unfold changeFault changeRecords
  dsimp only
  rw [if_neg met]
  obtain ⟨rfl, plain⟩ | rfl := kind
  · exact ⟨if_neg plain, if_neg plain⟩
  · exact ⟨rfl, rfl⟩

/-- The East gives way where its own open commit names the same item. -/
theorem changeFault_of_conflict {k item : Nat} {b : List Byte} (same : sameOpen s k item b = true) (east : isWest s = false) :
    changeFault s k item b = some 1 := by
  unfold changeFault
  dsimp only
  rw [same, east]
  rfl

/-! ## ACK and NAK (R439 step 3, R440) -/

theorem exec_ack (takes : takesFrame s h) : exec (.ack h p) s = .next (settle { acceptedOf s h with
    bridge.commits := KMap.adjust s.bridge.commits (fieldAt p 0 8) fun c => { c with acked := true } }) :=
  congrArg Host.Outcome.next (onMessage_of_takes takes _)

theorem adjust_single {α : Type} (k : Nat) (a : α) (f : α → α) : KMap.adjust [(k, a)] k f = [(k, f a)] := by
  unfold KMap.adjust
  rw [List.map_singleton, if_pos rfl]

/-- A commit whose own records are durable is handed on when its acknowledgement comes; another waits for its records. -/
theorem commitReady_of_acked {n : Nat} {c : Commit} (single : s.bridge.commits = [(n, c)]) (acked : c.acked = true)
    (waiting : c.committing = false) : commitReady s = if c.records = [] then
      postFrame { s with bridge.commits := [(n, { c with committing := true })] } c.holder 0x13 n (leBytes 8 n) else s := by
  have due : (c.acked && decide (c.records = []) && !c.committing) = decide (c.records = []) := by
    rw [acked, waiting, Bool.true_and, Bool.not_false, Bool.and_true]
  unfold commitReady
  rw [single, List.foldl_cons, List.foldl_nil]
  dsimp only
  rw [due, single, adjust_single]
  exact if_congr decide_eq_true_iff rfl rfl

theorem exec_nak (takes : takesFrame s h) : exec (.nak h p) s =
    .next (settle (onNak (acceptedOf s h) (fieldAt p 0 8) (fieldAt p 8 2))) :=
  congrArg Host.Outcome.next (onMessage_of_takes takes _)

/-- The last commit of the device fails: it closes, and where its PREPARE has left, ABANDON follows. -/
theorem failCommit_single {n : Nat} {c : Commit} (single : s.bridge.commits = [(n, c)]) (job : c.job = none) (kind : c.kind = 3)
    (st : Status) : ∃ q, failCommit s n st = (if c.sentAt.isSome then
      postFrame { s with bridge := { s.bridge with commits := [], queue := q } } c.holder 0x14 n (leBytes 8 n)
        else { s with bridge := { s.bridge with commits := [], queue := q } }) := by
  have found : KMap.get? s.bridge.commits n = some c := by rw [single]; exact if_pos rfl
  have dropped : KMap.drop [(n, c)] n = [] := if_pos rfl
  have closed : closeCommit (dropFrames s n) n = { dropFrames s n with bridge.commits := [] } := by
    have found' : KMap.get? (dropFrames s n).bridge.commits n = some c := found
    have single' : (dropFrames s n).bridge.commits = [(n, c)] := single
    unfold closeCommit
    rw [found']
    dsimp only
    rw [single', dropped]
    rfl
  have free : ∀ t : State, failDependents t c st = t := by
    intro t
    unfold failDependents
    rw [kind, job]
    rfl
  unfold failCommit
  rw [found]
  dsimp only
  rw [closed, free]
  exact ⟨_, rfl⟩

/-! ## COMMIT and ABANDON (R439 step 4, R441) -/

theorem exec_frameCommit (takes : takesFrame s h) : exec (.frameCommit h p) s = .next (onCommit (acceptedOf s h) (fieldAt p 0 8)) :=
  congrArg Host.Outcome.next (onMessage_of_takes takes _)

/-- The one staged change is applied; a quote block of the twin is known from then on. -/
theorem onCommit_quote {x : Staged} (rest : atRest { s with bridge.staged := [] }) (single : s.bridge.staged = [x]) (kind : x.kind = 9) :
    onCommit s x.tseq = { s with
      bridge := { s.bridge with staged := [], peerCommitted := max s.bridge.peerCommitted x.tseq },
      ice.quoteNext := max s.ice.quoteNext (fieldAt x.contents 0 8 + 1) } := by
  have found : (s.bridge.staged.find? fun y => decide (y.tseq = x.tseq)) = some x := by
    rw [single]
    exact List.find?_cons_of_pos (decide_eq_true rfl)
  have gone : ([x].filter fun y => decide (y.tseq ≠ x.tseq)) = [] := List.filter_eq_nil_iff.mpr fun y hy => by
    rw [List.mem_singleton.mp hy]
    simp
  unfold onCommit
  rw [found]
  dsimp only
  rw [single, gone]
  unfold applyStaged
  dsimp only
  rw [kind]
  exact settle_of_rest rest

theorem exec_abandon (takes : takesFrame s h) : exec (.abandon h p) s = .next { acceptedOf s h with
    bridge.staged := s.bridge.staged.filter fun x => decide (x.tseq ≠ fieldAt p 0 8) } :=
  congrArg Host.Outcome.next (onMessage_of_takes takes _)

/-! ## The timeout (R441) -/

theorem exec_commitTimeout_of_late {n : W64} {c : Commit} {t0 : Nat} (found : KMap.get? s.bridge.commits n.toNat = some c)
    (unacked : c.acked = false) (sent : c.sentAt = some t0) (late : t0 + 4096 ≤ now s) : exec (.commitTimeout n) s = .next
      (settle (failCommit { s with bridge.commitTimeouts := min (s.bridge.commitTimeouts + 1) 0xFFFF } n.toNat .twinUnavailable)) := by
  change execCommitTimeout n s = _
  unfold execCommitTimeout
  dsimp only
  rw [found]
  dsimp only
  rw [if_pos (by rw [unacked, sent, Option.any_some, decide_eq_true late]; rfl)]

theorem exec_commitTimeout_of_acked {n : W64} {c : Commit} (found : KMap.get? s.bridge.commits n.toNat = some c)
    (acked : c.acked = true) : exec (.commitTimeout n) s = .next s := by
  change execCommitTimeout n s = _
  unfold execCommitTimeout
  dsimp only
  rw [found]
  dsimp only
  rw [if_neg (by rw [acked, Bool.not_true, Bool.false_and]; decide)]

/-! ## O55 -/

/-- PREPARE of a change that the twin alone checks: it is staged, and acknowledged in its holder's turn. -/
theorem prepare_staged (takes : takesFrame s h) {k : Nat} (mirrored : mirrors s = true) (named : k = fieldAt p 0 2)
    (kind : k = 0 ∧ fieldAt (p.drop 8) 0 2 ≠ 0xF00F ∨ k = 0x0E) (lone : itemOpen s k (fieldAt p 2 6) = false ∨ isWest s = true)
    (empty : s.bridge.staged = []) : ∃ t f, exec (.prepare h p) s = .next t ∧ t.bridge.staged = [{
        tseq := h.tseq.toNat, holder := frameHolder h, kind := k, item := fieldAt p 2 6, contents := p.drop 8, records := [], acked := true, inDoubt := false }] ∧
      KMap.getD t.bridge.queue (frameHolder h) [] = KMap.getD s.bridge.queue (frameHolder h) [] ++ [f] ∧ f.type = 0x11 ∧
      f.tseq = h.tseq.toNat := by
  subst named
  obtain ⟨sound, free⟩ := change_of_twin (s := acceptedOf s h) (item := fieldAt p 2 6) kind lone (frameHolder h)
  refine ⟨_, _, (exec_prepare takes).trans (congrArg _ (onPrepare_of_free (s := acceptedOf s h) mirrored sound free empty)), rfl,
    getD_postFrame _ (frameHolder h) 0x11 _ _, rfl, rfl⟩

/-- The East refuses a change of an item that its own open commit names. -/
theorem prepare_refused (takes : takesFrame s h) (mirrored : mirrors s = true)
    (same : sameOpen s (fieldAt p 0 2) (fieldAt p 2 6) (p.drop 8) = true) (east : isWest s = false) : ∃ t f,
      exec (.prepare h p) s = .next t ∧ t.bridge.staged = s.bridge.staged ∧
      KMap.getD t.bridge.queue (frameHolder h) [] = KMap.getD s.bridge.queue (frameHolder h) [] ++ [f] ∧ f.type = 0x12 ∧
      fieldAt f.payload 8 2 = 1 := by
  have fault := changeFault_of_conflict (s := acceptedOf s h) same east
  refine ⟨_, _, (exec_prepare takes).trans (congrArg _ (onPrepare_of_fault (s := acceptedOf s h) mirrored fault)), rfl,
    getD_postFrame (acceptedOf s h) (frameHolder h) 0x12 _ _, rfl, ?_⟩
  rw [fieldAt_append_right (length_leBytes 8 _), ← List.append_nil (leBytes 2 1), fieldAt_leBytes_append]
  rfl

/-- ACK of the one commit: with its records durable, COMMIT goes out in its holder's turn. -/
theorem ack_row (takes : takesFrame s h) {c : Commit} (rest : atRest { s with bridge.commits := [] })
    (single : s.bridge.commits = [(fieldAt p 0 8, c)]) (waiting : c.committing = false) : ∃ t, exec (.ack h p) s = .next t ∧
      t.bridge.commits = [(fieldAt p 0 8, { c with acked := true, committing := decide (c.records = []) })] ∧
      (c.records = [] → ∃ f, KMap.getD t.bridge.queue c.holder [] = KMap.getD s.bridge.queue c.holder [] ++ [f] ∧ f.type = 0x13) := by
  obtain ⟨-, -, testing, -, -, -, -⟩ := id rest
  have row := exec_ack (p := p) takes
  rw [single, adjust_single] at row
  have ready := commitReady_of_acked
    (s := { acceptedOf s h with bridge.commits := [(fieldAt p 0 8, { c with acked := true })] }) rfl rfl waiting
  by_cases durable : c.records = []
  · have ready' := ready.trans (if_pos durable)
    refine ⟨_, row.trans (congrArg _ (settle_of_ready testing ready' rest)), ?_, fun _ => ⟨_, getD_postFrame _ c.holder 0x13 _ _, rfl⟩⟩
    rw [decide_eq_true durable]
    rfl
  · have ready' := ready.trans (if_neg durable)
    refine ⟨_, row.trans (congrArg _ (settle_of_ready testing ready' rest)), ?_, fun empty => absurd empty durable⟩
    rw [decide_eq_false durable, ← waiting]

/-- NAK of an invalid change: its commit fails. -/
theorem nak_row (takes : takesFrame s h) {c : Commit} (rest : atRest { s with bridge.commits := [] })
    (single : s.bridge.commits = [(fieldAt p 0 8, c)]) (invalid : fieldAt p 8 2 = 3) (job : c.job = none) (kind : c.kind = 3) :
    ∃ t, exec (.nak h p) s = .next t ∧ t.bridge.commits = [] ∧ t.bridge.naks = min (s.bridge.naks + 1) 0xFFFF := by
  have found : KMap.get? (acceptedOf s h).bridge.commits (fieldAt p 0 8) = some c := by
    change KMap.get? s.bridge.commits _ = _
    rw [single]
    exact if_pos rfl
  let unsent : State := { acceptedOf s h with bridge := { (acceptedOf s h).bridge with
    naks := min (s.bridge.naks + 1) 0xFFFF, commits := [(fieldAt p 0 8, { c with sentAt := none })] } }
  obtain ⟨q, failed⟩ := failCommit_single (s := unsent) (c := { c with sentAt := none }) rfl job kind .twinUnavailable
  have failed' := failed.trans (if_neg Bool.false_ne_true)
  have nak : onNak (acceptedOf s h) (fieldAt p 0 8) (fieldAt p 8 2) = failCommit unsent (fieldAt p 0 8) .twinUnavailable := by
    unfold onNak
    rw [found]
    dsimp only
    rw [if_pos invalid]
    have commits : (acceptedOf s h).bridge.commits = [(fieldAt p 0 8, c)] := single
    rw [commits, adjust_single]
    rfl
  have still : settle { unsent with bridge := { unsent.bridge with commits := [], queue := q } } =
      { unsent with bridge := { unsent.bridge with commits := [], queue := q } } := settle_of_rest rest
  exact ⟨_, (exec_nak takes).trans (congrArg _ ((congrArg settle (nak.trans failed')).trans still)), rfl, rfl⟩

/-- No acknowledgement in the window: the commit fails, and ABANDON follows its PREPARE. -/
theorem timeout_row {n : W64} {c : Commit} {t0 : Nat} (rest : atRest { s with bridge.commits := [] })
    (single : s.bridge.commits = [(n.toNat, c)]) (unacked : c.acked = false) (sent : c.sentAt = some t0) (late : t0 + 4096 ≤ now s)
    (job : c.job = none) (kind : c.kind = 3) : ∃ t f, exec (.commitTimeout n) s = .next t ∧ t.bridge.commits = [] ∧
      t.bridge.commitTimeouts = min (s.bridge.commitTimeouts + 1) 0xFFFF ∧ f ∈ KMap.getD t.bridge.queue c.holder [] ∧ f.type = 0x14 := by
  have found : KMap.get? s.bridge.commits n.toNat = some c := by rw [single]; exact if_pos rfl
  let counted : State := { s with bridge.commitTimeouts := min (s.bridge.commitTimeouts + 1) 0xFFFF }
  obtain ⟨q, failed⟩ := failCommit_single (s := counted) single job kind .twinUnavailable
  have failed' := failed.trans (if_pos (by rw [sent]; rfl))
  let closed : State := { counted with bridge := { counted.bridge with commits := [], queue := q } }
  have still : settle (postFrame closed c.holder 0x14 n.toNat (leBytes 8 n.toNat)) = postFrame closed c.holder 0x14 n.toNat (leBytes 8 n.toNat) :=
    settle_of_rest rest
  obtain ⟨f, abandon, type, -⟩ := mem_postFrame closed c.holder 0x14 n.toNat (leBytes 8 n.toNat)
  exact ⟨_, f, (exec_commitTimeout_of_late found unacked sent late).trans (congrArg _ ((congrArg settle failed').trans still)), rfl, rfl,
    abandon, type⟩

/-- Settles O55: each message is taken to what it leaves of the commits and of the staged changes, and the settling after it goes no
further. -/
theorem commitMessages : Obligations.CommitMessages := by
  unfold Obligations.CommitMessages
  refine fun s h p takes => ⟨fun apart => ?_, fun k mirrored named kind lone empty => prepare_staged takes mirrored named kind lone empty,
    prepare_refused takes, fun c rest single waiting => ack_row takes rest single waiting,
    fun c rest single invalid job kind => nak_row takes rest single invalid job kind, fun x rest single named kind => ?_,
    exec_abandon takes, fun n c t0 rest single unacked sent late job kind => timeout_row rest single unacked sent late job kind,
    fun n c found acked => exec_commitTimeout_of_acked found acked⟩
  case refine_1 => exact (exec_prepare takes).trans (congrArg _ (onPrepare_of_apart (s := acceptedOf s h) apart))
  case refine_2 =>
    have row := exec_frameCommit (p := p) takes
    rw [← named] at row ⊢
    exact ⟨_, row.trans (congrArg _ (onCommit_quote (s := acceptedOf s h) rest single kind)), rfl, rfl, rfl⟩

end Sys2Proof.Machine
end

section
/-! SUPPORT. Heartbeats, SOLO, rejoin and the other notices of the twin, with O56 (19_footbridge.md R382, R430, R442 to R447). -/
namespace Sys2Proof.Machine
open Sys2Proof

variable {s : State} {h : FrameHead} {p : List Byte}

/-! ## SOLO and rejoin begin (R443, R446) -/

/-- A record of the twin's waits behind the others. -/
theorem postTwin_changes (s : State) (subtype : Nat) : ∃ b n, (postTwin s subtype).1 =
      { s with journal := { s.journal with nextId := n, pending := s.journal.pending ++ [b] } } ∧
    (postTwin s subtype).2 = b.id ∧ b.type = 7 ∧ b.subtype = subtype := ⟨_, _, rfl, rfl, rfl, rfl⟩

/-- The Footbridge of a device without commits that enters SOLO: staged changes stand in doubt. -/
def soloBridge (s : State) (cause : Nat) : Bridge :=
  { s.bridge with
    solo := true, soloCause := cause, soloTick := now s, rejoining := false,
    staged := s.bridge.staged.map fun x => { x with inDoubt := true } }

theorem enterSolo_of_clear (paired : s.bridge.solo = false) (clear : s.bridge.commits = []) (cause : Nat) :
    enterSolo s cause = (postTwin { s with bridge := soloBridge s cause } 2).1 := by
  have none' : s.bridge.commits.map Prod.fst = [] := congrArg (List.map Prod.fst) clear
  unfold enterSolo
  rw [if_neg (Bool.eq_false_iff.mp paired)]
  dsimp only
  rw [none']
  rfl

/-- A device at rest that enters SOLO writes its record, and nothing follows. -/
theorem settle_enterSolo (rest : atRest s) (paired : s.bridge.solo = false) (cause : Nat) : ∃ b n,
    settle (enterSolo s cause) = { s with
      bridge := soloBridge s cause, journal := { s.journal with nextId := n, pending := s.journal.pending ++ [b] } } ∧
    b.type = 7 ∧ b.subtype = 2 := by
  obtain ⟨jobs, executing, testing, commits, staged, kept, serves⟩ := rest
  obtain ⟨b, n, record, -, type, subtype⟩ := postTwin_changes { s with bridge := soloBridge s cause } 2
  have doubt : (soloBridge s cause).staged = [] := congrArg (List.map _) staged
  refine ⟨b, n, ?_, type, subtype⟩
  rw [enterSolo_of_clear paired commits, record]
  exact settle_of_rest ⟨jobs, executing, testing, commits, doubt, kept, serves⟩

/-- What the meeting of both requests leaves of a rejoin. -/
theorem rejoinMet_carries (s : State) : (rejoinMet s).bridge.rejoining = s.bridge.rejoining ∧ (rejoinMet s).bridge.solo = s.bridge.solo ∧
    (rejoinMet s).bridge.soloCause = s.bridge.soloCause ∧ (rejoinMet s).bridge.peerNext = s.bridge.peerNext ∧
    (rejoinMet s).bridge.peerHead = s.bridge.peerHead := by
  unfold rejoinMet greeted sendKemEk
  split
  · split <;> exact ⟨rfl, rfl, rfl, rfl, rfl⟩
  · exact ⟨rfl, rfl, rfl, rfl, rfl⟩

/-- A rejoin that begins. -/
theorem startRejoin_carries (joined : s.bridge.rejoining = false) (auto : Bool) (job : Option Nat) :
    (startRejoin s auto job).bridge.rejoining = true ∧ (startRejoin s auto job).bridge.solo = s.bridge.solo ∧
      (startRejoin s auto job).bridge.soloCause = s.bridge.soloCause ∧ (startRejoin s auto job).bridge.peerNext = s.bridge.peerNext ∧
      (startRejoin s auto job).bridge.peerHead = s.bridge.peerHead := by
  unfold startRejoin
  rw [joined, if_neg Bool.false_ne_true]
  exact rejoinMet_carries _

/-! ## Heartbeats (R442, R443) -/

/-- The state in which a heartbeat of the twin has been heard. -/
def heartbeatHeard (s : State) (h : FrameHead) (p : List Byte) : State :=
  { acceptedOf s h with bridge := { (acceptedOf s h).bridge with
      hbLast := now s, committed := s.bridge.committed.filter fun t => decide (fieldAt p 32 8 ≤ t) } }

/-- Outside SOLO a timely heartbeat opens a new window, and a late one starts a rejoin. -/
theorem exec_heartbeat (takes : takesFrame s h) (paired : s.bridge.paired = true) (both : s.bridge.solo = false) :
    exec (.heartbeat h p) s = .next (if now s < s.bridge.hbDeadline then
        { heartbeatHeard s h p with bridge := { (heartbeatHeard s h p).bridge with hbDeadline := now s + 4096 } }
      else startRejoin (enterSolo (heartbeatHeard s h p) 1) true none) := by
  have paired' : ¬ (!(acceptedOf s h).bridge.paired) = true := by
    rw [show (acceptedOf s h).bridge.paired = true from paired]
    decide
  have both' : ¬ (acceptedOf s h).bridge.solo = true := Bool.eq_false_iff.mp both
  refine congrArg Host.Outcome.next ((onMessage_of_takes takes _).trans ?_)
  rw [if_neg paired']
  dsimp only
  rw [if_neg both']
  rfl

theorem exec_heartbeatDeadline (s : State) : exec .heartbeatDeadline s = .next
    (if s.bridge.paired && !s.bridge.solo && decide (s.bridge.hbDeadline ≤ now s) then settle (enterSolo s 1) else s) := rfl

theorem exec_solo (takes : takesFrame s h) (paired : s.bridge.paired = true) : exec (.solo h p) s =
    .next (settle (enterSolo (acceptedOf s h) (if fieldAt p 0 1 = 2 then 1 else 2))) :=
  congrArg Host.Outcome.next ((onMessage_of_takes takes _).trans (if_pos paired))

/-! ## The twin's tamper notice (R382, R447) -/

theorem exec_tamperNotice (takes : takesFrame s h) (paired : s.bridge.paired = true) : exec (.tamperNotice h p) s = .next
    (softEvent (acceptedOf s h) 15 (BitVec.ofNat 32 (fieldAt p 0 1)) (BitVec.ofNat 32 (fieldAt p 1 1))) :=
  congrArg Host.Outcome.next ((onMessage_of_takes takes _).trans (if_pos paired))

/-! ## Frames that are sent again (R430) -/

/-- Puts a frame that was sent first in its holder's queue, unless it waits there. -/
def sendAgain (s : State) (f : Frame) : State :=
  if (KMap.getD s.bridge.queue f.holder []).contains f then s
  else { s with bridge.queue := KMap.put s.bridge.queue f.holder (f :: KMap.getD s.bridge.queue f.holder []) }

theorem exec_linkNak (takes : takesFrame s h) : exec (.linkNak h p) s = .next
    ((s.bridge.sent.filter fun f => decide (fieldAt p 0 8 ≤ f.fseq)).reverse.foldl sendAgain (acceptedOf s h)) :=
  congrArg Host.Outcome.next (onMessage_of_takes takes _)

theorem mem_sendAgain (s : State) (f : Frame) : f ∈ KMap.getD (sendAgain s f).bridge.queue f.holder [] := by
  unfold sendAgain
  split
  case isTrue waits => exact List.contains_iff_mem.mp waits
  case isFalse =>
    change f ∈ (KMap.get? (KMap.put _ _ _) _).getD []
    rw [KMap.get?_put_same]
    exact List.mem_cons_self

theorem sendAgain_keeps {f : Frame} (g : Frame) (waits : f ∈ KMap.getD s.bridge.queue f.holder []) :
    f ∈ KMap.getD (sendAgain s g).bridge.queue f.holder [] := by
  unfold sendAgain
  split
  · exact waits
  · change f ∈ (KMap.get? (KMap.put _ _ _) _).getD []
    by_cases same : f.holder = g.holder
    · rw [same] at waits ⊢
      rw [KMap.get?_put_same]
      exact List.mem_cons_of_mem _ waits
    · rw [KMap.get?_put_ne _ _ same]
      exact waits

theorem mem_sentAgain {f : Frame} {l : List Frame} (named : f ∈ l) (s : State) :
    f ∈ KMap.getD (l.foldl sendAgain s).bridge.queue f.holder [] :=
  foldl_reaches (P := fun _ => True) (Q := fun t => f ∈ KMap.getD t.bridge.queue f.holder []) (fun _ _ _ => trivial)
    (fun _ g waits => sendAgain_keeps g waits) (fun t _ => mem_sendAgain t f) named trivial

/-! ## Rejoin (R446) -/

/-- The state in which the twin's REJOIN_REQ has been noted. -/
def requestNoted (s : State) (h : FrameHead) (p : List Byte) : State :=
  { acceptedOf s h with bridge := { (acceptedOf s h).bridge with
      helloPeer := p, peerNext := fieldAt p 0 8, peerHead := slice p 8 32 } }

theorem exec_rejoinReq (takes : takesFrame s h) (paired : s.bridge.paired = true) (solo : s.bridge.solo = true)
    (owned : s.bridge.soloCause ≠ 3) (joined : s.bridge.rejoining = false) : exec (.rejoinReq h p) s =
      .next (startRejoin (requestNoted s h p) true none) := by
  have solo' : (acceptedOf s h).bridge.solo = true := solo
  have joined' : ¬ (acceptedOf s h).bridge.rejoining = true := Bool.eq_false_iff.mp joined
  have serves : ¬ (!(acceptedOf s h).bridge.paired || ((acceptedOf s h).bridge.solo && decide ((acceptedOf s h).bridge.soloCause = 3))) = true := by
    rw [show (acceptedOf s h).bridge.paired = true from paired, solo', decide_eq_false (show (acceptedOf s h).bridge.soloCause ≠ 3 from owned)]
    decide
  refine congrArg Host.Outcome.next ((onMessage_of_takes takes _).trans ?_)
  rw [if_neg serves]
  dsimp only
  rw [if_pos solo']
  dsimp only
  rw [if_neg joined']
  rfl

/-- A replayed record is counted, whatever it brings. -/
theorem applyReplayed_applied (s : State) (b : List Byte) :
    (applyReplayed s b).bridge.applied = min (s.bridge.applied + 1) 0xFFFFFFFF := by
  unfold applyReplayed
  dsimp only
  split
  · split
    · split <;> rfl
    · rfl
  · split
    · rfl
    · split <;> rfl
  · rfl

/-- Each record of a REPLAY is counted, up to the register's width. -/
theorem applied_foldl (p : List Byte) (n : Nat) (s : State) : ((List.range n).foldl (fun s i => applyReplayed s (slice p (128 * i) 128))
    s).bridge.applied = if n = 0 then s.bridge.applied else min (s.bridge.applied + n) 0xFFFFFFFF := by
  induction n with
  | zero => rfl
  | succ n ih =>
    rw [List.range_succ, List.foldl_append, List.foldl_cons, List.foldl_nil, applyReplayed_applied, ih, if_neg (Nat.succ_ne_zero n)]
    split <;> omega

theorem exec_replay (takes : takesFrame s h) (joining : s.bridge.rejoining = true) : exec (.replay h p) s = .next
    ((List.range (min 7 (p.length / 128))).foldl (fun s i => applyReplayed s (slice p (128 * i) 128)) (acceptedOf s h)) :=
  congrArg Host.Outcome.next ((onMessage_of_takes takes _).trans (if_pos joining))

theorem decideDoubt_of_none (none' : s.bridge.staged = []) : decideDoubt s = s := by
  unfold decideDoubt
  dsimp only
  rw [none']
  exact congrArg (fun l => ({ s with bridge.staged := l } : State)) none'.symm

/-- REPLAY_END without a flag that is new here and without a change in doubt: the record that ends the rejoin waits. -/
theorem exec_replayEnd_of_clear (takes : takesFrame s h) (joining : s.bridge.rejoining = true)
    (known : BitVec.ofNat 16 (fieldAt p 40 2) &&& ~~~s.lodge.sticky = 0) (sure : s.bridge.staged = []) : ∃ b n,
      exec (.replayEnd h p) s = .next (settle { s with
        bridge := { s.bridge with
          fseqIn := h.last.toNat, nakSince := none, peerHead := slice p 8 32, peerReplayEnd := true, rejoinRecord := some b.id },
        journal := { s.journal with nextId := n, pending := s.journal.pending ++ [b] } }) ∧ b.type = 7 ∧ b.subtype = 4 := by
  let told : State := { acceptedOf s h with bridge.peerHead := slice p 8 32 }
  have joining' : ¬ (!(acceptedOf s h).bridge.rejoining) = true := by
    rw [show (acceptedOf s h).bridge.rejoining = true from joining]
    decide
  have known' : BitVec.ofNat 16 (fieldAt p 40 2) &&& ~~~(acceptedOf s h).lodge.sticky = 0 := known
  have quiet : (List.range 16).foldl (fun s i => if (0 : W16).getLsbD i then softEvent s 15 (BitVec.ofNat 32 i) 0 else s) (acceptedOf s h) =
      acceptedOf s h :=
    foldl_keeps (fun t => t = acceptedOf s h) (fun t i ht => (if_neg (by simp)).trans ht) _ rfl
  obtain ⟨b, n, record, id', type, subtype⟩ := postTwin_changes told 4
  refine ⟨b, n, congrArg Host.Outcome.next ((onMessage_of_takes takes _).trans ?_), type, subtype⟩
  rw [if_neg joining']
  dsimp only
  rw [known', quiet, decideDoubt_of_none (s := told) sure, record, id']
  rfl

theorem exec_rejoinTimeout (s : State) : exec .rejoinTimeout s = .next
    (if s.bridge.rejoining && decide (s.bridge.rejoinSince + 2 ^ 24 ≤ now s) then failCeremony s .twinUnavailable 0 else s) := rfl

/-! ## O56 -/

theorem rest_acceptedOf (rest : atRest s) (h : FrameHead) : atRest (acceptedOf s h) := rest

/-- A late heartbeat: the device enters SOLO by loss, and starts a rejoin. -/
theorem heartbeat_late (takes : takesFrame s h) (paired : s.bridge.paired = true) (both : s.bridge.solo = false)
    (late : s.bridge.hbDeadline ≤ now s) (clear : s.bridge.commits = []) : ∃ t,
      exec (.heartbeat h p) s = .next t ∧ t.bridge.solo = true ∧ t.bridge.soloCause = 1 ∧ t.bridge.rejoining = true := by
  have entered := enterSolo_of_clear (s := heartbeatHeard s h p) both clear 1
  have alone : (enterSolo (heartbeatHeard s h p) 1).bridge = soloBridge (heartbeatHeard s h p) 1 := congrArg State.bridge entered
  obtain ⟨joining, solo, cause, -, -⟩ :=
    startRejoin_carries (s := enterSolo (heartbeatHeard s h p) 1) (congrArg Bridge.rejoining alone) true none
  exact ⟨_, (exec_heartbeat takes paired both).trans (congrArg _ (if_neg (Nat.not_lt.mpr late))),
    solo.trans (congrArg Bridge.solo alone), cause.trans (congrArg Bridge.soloCause alone), joining⟩

/-- The deadline of the heartbeats: SOLO by loss, with its record. -/
theorem heartbeatDeadline_passed (rest : atRest s) (paired : s.bridge.paired = true) (both : s.bridge.solo = false)
    (late : s.bridge.hbDeadline ≤ now s) : ∃ t b, exec .heartbeatDeadline s = .next t ∧ t.bridge.solo = true ∧ t.bridge.soloCause = 1 ∧
      t.journal.pending = s.journal.pending ++ [b] ∧ b.type = 7 ∧ b.subtype = 2 := by
  obtain ⟨b, n, settled, type, subtype⟩ := settle_enterSolo rest both 1
  refine ⟨_, b, (exec_heartbeatDeadline s).trans (congrArg _ ((if_pos ?_).trans settled)), rfl, rfl, rfl, type, subtype⟩
  rw [paired, both, decide_eq_true late]
  rfl

theorem heartbeatDeadline_held (held : s.bridge.solo = true ∨ now s < s.bridge.hbDeadline) : exec .heartbeatDeadline s = .next s := by
  refine (exec_heartbeatDeadline s).trans (congrArg _ (if_neg ?_))
  simp only [Bool.and_eq_true, decide_eq_true_eq, Bool.not_eq_true']
  rintro ⟨⟨-, both⟩, late⟩
  obtain solo | early := held
  · exact absurd (solo.symm.trans both) (by decide)
  · omega

/-- Settles O56: each notice is taken to the state in which it was accepted, and what enters SOLO or starts a rejoin is followed to the
Footbridge that it leaves. -/
theorem twinNotices : Obligations.TwinNotices := by
  unfold Obligations.TwinNotices
  refine fun s h p takes paired => ⟨fun both early => (exec_heartbeat takes paired both).trans (congrArg _ (if_pos early)),
    fun both late clear _ => heartbeat_late takes paired both late clear,
    fun rest both late => heartbeatDeadline_passed rest paired both late, heartbeatDeadline_held, fun rest both => ?_,
    fun x hx enabled on calibrated always => ?_, ?_, fun solo owned joined => ?_, fun joining => ?_, fun rest joining known => ?_,
    fun joining late => ?_, fun joined => ?_⟩
  case refine_1 =>
    obtain ⟨b, n, settled, -, -⟩ := settle_enterSolo (rest_acceptedOf rest h) both (if fieldAt p 0 1 = 2 then 1 else 2)
    exact ⟨_, (exec_solo takes paired).trans (congrArg _ settled), rfl, rfl⟩
  case refine_2 =>
    have struck := softEvent_of_counted (s := acceptedOf s h) hx on enabled calibrated (BitVec.ofNat 32 (fieldAt p 0 1))
      (BitVec.ofNat 32 (fieldAt p 1 1))
    refine ⟨_, (exec_tamperNotice takes paired).trans (congrArg _ struck), ?_⟩
    rw [softStruck, rateCount, if_pos always, sourceAt_of_some (s := acceptedOf s h) hx]
    rfl
  case refine_3 =>
    refine ⟨_, exec_linkNak takes, fun f hf asked => ?_⟩
    have named : f ∈ s.bridge.sent.filter fun f => decide (fieldAt p 0 8 ≤ f.fseq) := by
      rw [List.mem_filter, decide_eq_true_iff]
      exact ⟨hf, asked⟩
    exact mem_sentAgain (List.mem_reverse.mpr named) (acceptedOf s h)
  case refine_4 =>
    obtain ⟨joining, -, -, next, head⟩ := startRejoin_carries (s := requestNoted s h p) joined true none
    exact ⟨_, exec_rejoinReq takes paired solo owned joined, joining, next, head⟩
  case refine_5 =>
    refine ⟨_, exec_replay takes joining, (applied_foldl p _ (acceptedOf s h)).trans ?_⟩
    refine if_congr ?_ rfl rfl
    omega
  case refine_6 =>
    obtain ⟨-, -, -, -, sure, -, -⟩ := id rest
    obtain ⟨b, n, row, type, subtype⟩ := exec_replayEnd_of_clear takes joining known sure
    exact ⟨_, b, row.trans (congrArg _ (settle_of_rest rest)), rfl, rfl, rfl, type, subtype⟩
  case refine_7 =>
    have failed := failCeremony_bridge s .twinUnavailable 0
    refine ⟨_, (exec_rejoinTimeout s).trans (congrArg _ (if_pos ?_)), congrArg Bridge.rejoining failed, congrArg Bridge.ceremony failed,
      (congrArg Bridge.solo failed :)⟩
    rw [joining, decide_eq_true late]
    rfl
  case refine_8 =>
    refine (exec_rejoinTimeout s).trans (congrArg _ (if_neg ?_))
    rw [joined, Bool.false_and]
    exact Bool.false_ne_true

end Sys2Proof.Machine
end

section
/-! SUPPORT. Block resets and their return, and the fatal path, with O59 (20_reset_boot.md R464 to R466, 21_errors_dump_bist.md R476 to
R482). -/
namespace Sys2Proof.Machine
open Sys2Proof

variable {s : State}

/-! ## What the end of a job leaves of the units -/

/-- What a job that a block reset ends leaves of the state beside its own engines. -/
structure ResetSpares (s t : State) : Prop where
  clocks : t.clocks = s.clocks
  otp : t.otp = s.otp
  queues : t.queues = s.queues
  sched : t.sched = s.sched
  length : t.units.length = s.units.length
  resets : ∀ u, (unitAt t u).resets = (unitAt s u).resets

theorem ResetSpares.refl (s : State) : ResetSpares s s := ⟨rfl, rfl, rfl, rfl, rfl, fun _ => rfl⟩

theorem ResetSpares.trans {s t u : State} (h : ResetSpares s t) (k : ResetSpares t u) : ResetSpares s u :=
  ⟨k.clocks.trans h.clocks, k.otp.trans h.otp, k.queues.trans h.queues, k.sched.trans h.sched, k.length.trans h.length,
    fun u => (k.resets u).trans (h.resets u)⟩

/-- A unit that a change gives the same count of resets. -/
theorem resets_setUnit {u : Nat} {v : UnitSt} (same : v.resets = (unitAt s u).resets) (w : Nat) :
    (unitAt (setUnit s u v) w).resets = (unitAt s w).resets := by
  unfold unitAt setUnit
  dsimp only
  rw [List.getD_eq_getElem?_getD, List.getD_eq_getElem?_getD]
  by_cases h : u = w
  · subst h
    rw [List.getElem?_set_self']
    cases hu : s.units[u]? with
    | none => rfl
    | some x =>
      rw [unitAt, List.getD_eq_getElem?_getD, hu] at same
      exact same
  · rw [List.getElem?_set_ne h]

theorem resets_mapUnits {f : UnitSt → UnitSt} (same : ∀ v, (f v).resets = v.resets) (s : State) (w : Nat) :
    (unitAt { s with units := s.units.map f } w).resets = (unitAt s w).resets := by
  unfold unitAt
  dsimp only
  rw [List.getD_eq_getElem?_getD, List.getD_eq_getElem?_getD, List.getElem?_map]
  cases s.units[w]? with
  | none => rfl
  | some x => exact same x

theorem spares_freeResidence (s : State) (j : Job) : ResetSpares s (freeResidence s j) := by
  unfold freeResidence
  split
  · refine ⟨rfl, rfl, rfl, rfl, List.length_set, fun w => ?_⟩
    unfold setResidence
    refine resets_setUnit ?_ w
    rfl
  · exact .refl s

theorem spares_dropStatement (s : State) (j : Job) : ResetSpares s (dropStatement s j) := by
  unfold dropStatement
  split <;> exact ⟨rfl, rfl, rfl, rfl, rfl, fun _ => rfl⟩

theorem spares_withSome {f : State → Nat → State} (hf : ∀ s n, ResetSpares s (f s n)) (s : State) (o : Option Nat) :
    ResetSpares s (withSome s o f) := by
  cases o with
  | none => exact .refl s
  | some n => exact hf s n

theorem spares_releaseReserved (s : State) (n : Nat) : ResetSpares s (releaseReserved s n) := by
  unfold releaseReserved
  split
  · dsimp only
    split
    · exact .refl s
    · split <;> exact ⟨rfl, rfl, rfl, rfl, rfl, fun _ => rfl⟩
  · exact .refl s

theorem spares_dropKeptResident (s : State) (n : Nat) : ResetSpares s (dropKeptResident s n) := by
  unfold dropKeptResident
  split <;> exact ⟨rfl, rfl, rfl, rfl, rfl, fun _ => rfl⟩

theorem spares_dropHeld (s : State) (o n : Nat) : ResetSpares s (dropHeld s o n) := by
  unfold dropHeld
  split <;> exact ⟨rfl, rfl, rfl, rfl, rfl, fun _ => rfl⟩

theorem spares_giveBack (s : State) (j : Job) : ResetSpares s (giveBack s j) :=
  ((spares_withSome spares_releaseReserved s j.slot).trans (spares_withSome spares_dropKeptResident _ j.resident)).trans
    (spares_withSome (fun s n => spares_dropHeld s j.entry.opcode.toNat n) _ j.held)

theorem spares_releaseEngines (s : State) (k : Nat) (j : Job) : ResetSpares s (releaseEngines s k j) := by
  unfold releaseEngines
  extract_lets given
  have reads : ResetSpares s (answerReads s k) := ⟨rfl, rfl, rfl, rfl, rfl, fun _ => rfl⟩
  have draws : ∀ t, ResetSpares t (dropDraws t k) := fun _ => ⟨rfl, rfl, rfl, rfl, rfl, fun _ => rfl⟩
  have back : ResetSpares s given := (((reads.trans (spares_freeResidence _ j)).trans (draws _)).trans (spares_dropStatement _ j)).trans
    (spares_giveBack _ j)
  refine back.trans ⟨rfl, rfl, rfl, rfl, List.length_map _, fun w => ?_⟩
  exact resets_mapUnits (f := fun u => { u with evictions := u.evictions.filter fun e => decide (e.job ≠ k) }) (fun _ => rfl) given w

/-! ## The jobs that a block reset ends (R466) -/

/-- A job as a block reset ends it in tick `t`. -/
def resetEnd (t : Nat) (j : Job) : Job :=
  { failJob t .unitReset j with
    place := none, slot := none, resident := none, held := none, decidedAt := t + 1,
    startTick := if j.done = 0 then t + 1 else (failJob t .unitReset j).startTick,
    endTick := if j.done = 0 then t + 1 else (failJob t .unitReset j).endTick }

theorem resetJob_of_decided {k : Nat} {j : Job} (hj : KMap.get? s.jobs k = some j) (decided : j.phase = .decided) : resetJob s k = s := by
  unfold resetJob
  rw [hj]
  exact if_pos decided

theorem resetJob_of_running {k : Nat} {j : Job} (hj : KMap.get? s.jobs k = some j) (running : j.phase ≠ .decided) :
    resetJob s k = modJob (releaseEngines s k j) k (resetEnd (now s)) := by
  have released := spares_releaseEngines s k j
  have time : now (modJob (releaseEngines s k j) k fun j =>
      { failJob (now s) .unitReset j with place := none, slot := none, resident := none, held := none }) = now s :=
    congrArg Sched.tick released.sched
  have ended : endJob s k .unitReset = modJob (releaseEngines s k j) k fun j =>
      { failJob (now s) .unitReset j with place := none, slot := none, resident := none, held := none } := by
    unfold endJob
    rw [hj]
  unfold resetJob
  rw [hj]
  dsimp only
  rw [if_neg running, ended, modJob_modJob]
  rfl

theorem resetJob_spares (s : State) (k : Nat) : ResetSpares s (resetJob s k) := by
  cases hj : KMap.get? s.jobs k with
  | none =>
    unfold resetJob
    rw [hj]
    exact .refl s
  | some j =>
    by_cases decided : j.phase = .decided
    · rw [resetJob_of_decided hj decided]
      exact .refl s
    · rw [resetJob_of_running hj decided]
      exact (spares_releaseEngines s k j).trans ⟨rfl, rfl, rfl, rfl, rfl, fun _ => rfl⟩

theorem get?_resetJob_ne {k i : Nat} (other : k ≠ i) (s : State) : KMap.get? (resetJob s i).jobs k = KMap.get? s.jobs k := by
  cases hj : KMap.get? s.jobs i with
  | none =>
    unfold resetJob
    rw [hj]
  | some j =>
    by_cases decided : j.phase = .decided
    · rw [resetJob_of_decided hj decided]
    · rw [resetJob_of_running hj decided, get?_modJob_ne _ _ other, releaseEngines_jobs]

/-- A job of the map has ended with a block reset of tick `t`. -/
def ResetEnded (t k : Nat) (s : State) : Prop :=
  ∃ y, KMap.get? s.jobs k = some y ∧ y.phase = .decided ∧ y.status = .unitReset ∧ y.decidedAt = t + 1 ∧ y.output = []

theorem resetEnded_resetJob {k : Nat} {j : Job} (hj : KMap.get? s.jobs k = some j) (running : j.phase ≠ .decided) :
    ResetEnded (now s) k (resetJob s k) := by
  refine ⟨resetEnd (now s) j, ?_, rfl, rfl, rfl, rfl⟩
  rw [resetJob_of_running hj running]
  exact get?_modJob_same _ ((congrArg (KMap.get? · k) (releaseEngines_jobs s k j)).trans hj)

theorem ResetEnded.resetJob {t k : Nat} (h : ResetEnded t k s) (i : Nat) : ResetEnded t k (Machine.resetJob s i) := by
  have ⟨y, hy, decided, rest⟩ := h
  by_cases same : k = i
  · subst same
    rw [resetJob_of_decided hy decided]
    exact h
  · exact ⟨y, (get?_resetJob_ne same s).trans hy, decided, rest⟩

/-- The state in which the jobs of a unit have ended. -/
def jobsReset (s : State) (u : Nat) : State := (resetJobs s u).foldl resetJob s

theorem jobsReset_spares (s : State) (u : Nat) : ResetSpares s (jobsReset s u) :=
  foldl_keeps (ResetSpares s) (fun t k h => h.trans (resetJob_spares t k)) _ (.refl s)

theorem now_jobsReset (s : State) (u : Nat) : now (jobsReset s u) = now s := congrArg Sched.tick (jobsReset_spares s u).sched

/-- Every running job that stood in the unit has ended. -/
theorem jobsReset_ends {u k : Nat} {j : Job} (hj : KMap.get? s.jobs k = some j) (stands : k ∈ resetJobs s u) (running : j.phase ≠ .decided) :
    ResetEnded (now s) k (jobsReset s u) := by
  refine foldl_reaches_at (a := k) (P := fun t => now t = now s ∧ KMap.get? t.jobs k = some j) (Q := ResetEnded (now s) k) ?_ ?_ ?_ stands
    ⟨rfl, hj⟩
  · rintro t i other ⟨time, job⟩
    exact ⟨(congrArg Sched.tick (resetJob_spares t i).sched).trans time, (get?_resetJob_ne (Ne.symm other) t).trans job⟩
  · exact fun t i ended => ended.resetJob i
  · rintro t ⟨time, job⟩
    exact time ▸ resetEnded_resetJob job running

/-! ## The reset of a block (R464, R465) -/

/-- A unit as its block reset of tick `t` zeroes it. -/
def zeroedUnit (t : Nat) (v : UnitSt) : UnitSt :=
  { v with
    bay := none, running := [], lanes := [[], [], [], []], evictions := [], shedding := [], mask := MaskGen.unseeded,
    residences := v.residences.map fun r => { Residence.idle with holder := r.holder, pool := r.pool },
    resetAt := some t, resets := v.resets + 1 }

theorem zeroUnit_changes (s : State) (u : Nat) : ∃ bodies, zeroUnit s u =
    { setUnit (jobsReset s u) u (zeroedUnit (now (jobsReset s u)) (unitAt (jobsReset s u) u)) with
      plots := KMap.keep (jobsReset s u).plots fun k _ => decide (k / 8 ≠ u), bodies := bodies } := by
  change ∃ bodies, (if u < 4 then setBody _ u Body.idle else _) = _
  split
  · exact ⟨_, rfl⟩
  · exact ⟨(jobsReset s u).bodies, rfl⟩

theorem zeroedUnit_idle (t : Nat) (v : UnitSt) : ∀ r ∈ (zeroedUnit t v).residences, r.job = none := by
  intro r hr
  obtain ⟨x, -, rfl⟩ := List.mem_map.mp hr
  rfl

/-- The window of a unit's resets, or a new one. -/
def resetCount (s : State) (u : Nat) : Nat × Nat := (resetWindowOf s u).getD (now s, 0)

/-- The state in which a reset of a unit is counted and logged, and the unit's clocks are held. -/
def resetBegun (s : State) (u n : Nat) (e : EventLog) (l : Journal) : State :=
  { setResetWindow s u ((resetCount s u).1, (resetCount s u).2 + 1) with
    boot.blockResets := n, events := e, journal := l, clocks := holdClocks s.clocks (blockClock u) }

/-- The event of a hang. -/
theorem hangLogged (s : State) (u : Nat) (hang : Bool) : ∃ e l, (if hang then
    logEvent s 3 0x0032 0xFFFF (BitVec.ofNat 8 u) (leBytes 4 (unitAt s u).lastRoutine.toNat) else s) = { s with events := e, journal := l } := by
  cases hang
  · exact ⟨s.events, s.journal, rfl⟩
  · exact logEventAt_changes s 3 0x0032 0xFFFF (BitVec.ofNat 8 u) 0xFF 0xFF (leBytes 4 (unitAt s u).lastRoutine.toNat)

theorem setResetWindow_kept (s : State) (u : Nat) (w : Nat × Nat) (e : EventLog) (l : Journal) :
    setResetWindow { s with events := e, journal := l } u w = { setResetWindow s u w with events := e, journal := l } ∧
      (setResetWindow s u w).clocks = s.clocks ∧ (setResetWindow s u w).boot = s.boot := by
  unfold setResetWindow
  split
  · exact ⟨rfl, rfl, rfl⟩
  · split <;> exact ⟨rfl, rfl, rfl⟩

/-- Below four resets in its window, a unit is zeroed. -/
theorem blockReset_of_room {u : Nat} (room : (resetCount s u).2 < 3) (hang : Bool) : ∃ n e l, blockReset s u hang =
    if u = 12 then zeroVault (resetBegun s u n e l)
    else if u = 13 then zeroBridge (resetBegun s u n e l) else zeroUnit (resetBegun s u n e l) u := by
  obtain ⟨e0, l0, hung⟩ := hangLogged s u hang
  obtain ⟨windowed, clocks, boot⟩ := setResetWindow_kept s u ((resetCount s u).1, (resetCount s u).2 + 1) e0 l0
  let opened := setResetWindow { s with events := e0, journal := l0 } u ((resetCount s u).1, (resetCount s u).2 + 1)
  obtain ⟨n, e, l, logged⟩ := logBlockReset_changes opened u (if hang then 1 else 2)
  have begun : { logBlockReset opened u (if hang then 1 else 2) with
      clocks := holdClocks (logBlockReset opened u (if hang then 1 else 2)).clocks (blockClock u) } = resetBegun s u n e l := by
    rw [logged]
    dsimp only [opened]
    rw [windowed]
    dsimp only
    rw [clocks]
    rfl
  refine ⟨n, e, l, ?_⟩
  unfold blockReset
  dsimp only
  rw [hung]
  refine (if_neg (Nat.not_le.mpr room)).trans ?_
  exact congrArg (fun t => if u = 12 then zeroVault t else if u = 13 then zeroBridge t else zeroUnit t u) begun

/-- The fourth reset in its window takes the fatal path. -/
theorem blockReset_of_full {u : Nat} (full : 3 ≤ (resetCount s u).2) (hang : Bool) : ∃ e l, blockReset s u hang =
    fatal { s with events := e, journal := l } (if hang then 0x0032 else 0x0033) (eventUnit u) 6 := by
  obtain ⟨e0, l0, hung⟩ := hangLogged s u hang
  refine ⟨e0, l0, ?_⟩
  unfold blockReset
  dsimp only
  rw [hung]
  exact if_pos full

theorem exec_blockReset_of_present {u : Fin 14} (stage : 6 ≤ s.boot.stage) (present : blockPresent s u.val = true)
    (serves : outOfService s u.val = false) (hang : Bool) :
    exec (.blockReset u hang) s = .next (blockReset s u.val (hang && decide (u.val < 12))) := by
  refine congrArg Host.Outcome.next (if_pos ?_)
  rw [decide_eq_true stage, present, serves]
  rfl

theorem exec_blockReset_of_early (u : Fin 14) (hang : Bool) (early : s.boot.stage < 6) : exec (.blockReset u hang) s = .next s := by
  refine congrArg Host.Outcome.next (if_neg ?_)
  rw [decide_eq_false (Nat.not_le.mpr early), Bool.false_and, Bool.false_and]
  exact Bool.false_ne_true

theorem exec_blockResetReturn {u : Fin 14} {r : Nat} (unit : u.val < 12) (began : (unitAt s u.val).resetAt = some r) :
    exec (.blockResetReturn u) s = .next (if r + 64 ≤ now s then
      setUnit { s with clocks := releaseClocks s.clocks (blockClock u.val) } u.val { unitAt s u.val with resetAt := none } else s) := by
  have tick : resetTick s u.val = some r := by
    unfold resetTick
    rw [if_neg (by omega), if_neg (by omega), began]
  change execBlockResetReturn u s = _
  unfold execBlockResetReturn
  dsimp only
  rw [tick, if_neg (Nat.ne_of_lt unit), if_neg (Nat.ne_of_lt (Nat.lt_succ_of_lt unit))]
  exact congrArg Host.Outcome.next (if_congr decide_eq_true_iff rfl rfl)

/-! ## The fatal path (R478, R479) -/

/-- An error report goes to the link alone. -/
theorem reportAer_changes (s : State) (f : Nat) (e : AerError) (header : BitVec 128) : ∃ k, reportAer s f e header = { s with link := k } ∧
    (s.link.credit = true → aerMasked (funcAt s f) e = false → k.out = s.link.out ++ [.aer f e (aerSeverity (funcAt s f) e)]) := by
  rw [reportAer_eq]
  split
  case isTrue masked => exact ⟨_, rfl, fun _ unmasked => absurd (masked.symm.trans unmasked) (by decide)⟩
  case isFalse =>
    unfold send
    split
    case isTrue => exact ⟨_, rfl, fun _ _ => rfl⟩
    case isFalse held => exact ⟨_, rfl, fun credit => absurd credit held⟩

/-- Without a dump in progress a fatal error drives FATAL_N, and its report goes out. -/
theorem fatalOf_of_idle (idle : s.dump.active = none) (error unit which cause : Nat) : ∃ k e l, fatalOf s error unit which cause =
    { s with dump.active := some (now s, error, which, cause), boot.fatalN := true, link := k, events := e, journal := l } ∧
    (s.link.credit = true → aerMasked (funcAt s 0) .uncorrectableInternal = false → k.out = s.link.out ++
      [.aer 0 .uncorrectableInternal (aerSeverity (funcAt s 0) .uncorrectableInternal)]) := by
  let driven : State := { s with dump.active := some (now s, error, which, cause), boot.fatalN := true }
  obtain ⟨k, reported, out⟩ := reportAer_changes driven 0 .uncorrectableInternal 0
  obtain ⟨e, l, logged⟩ := logEventAt_changes { driven with link := k } 6 0x0070 0xFFFF (BitVec.ofNat 8 unit) 0xFF 0xFF
    (leBytes 2 error ++ leBytes 1 which)
  refine ⟨k, e, l, ?_, out⟩
  unfold fatalOf
  rw [idle]
  dsimp only
  rw [reported]
  exact logged

theorem fatalOf_of_active {a e u c : Nat} (active : s.dump.active = some (a, e, u, c)) (error unit which cause : Nat) :
    fatalOf s error unit which cause = fullReset s c false := by
  unfold fatalOf
  rw [active]

theorem exec_fatalError_of_late (late : 2 ≤ s.boot.stage) (m : BitVec 8) (w : W32) : ∃ e l, exec (.fatalError m w) s =
    .next (fatalOf { s with events := e, journal := l } 0x0035 0xFF m.toNat 6) := by
  obtain ⟨e, l, logged⟩ := logEventAt_changes s 3 0x0035 0xFFFF 0xFF 0xFF 0xFF (leBytes 1 m.toNat ++ leBytes 4 w.toNat)
  exact ⟨e, l, congrArg Host.Outcome.next ((if_pos late).trans (congrArg (fun t => fatalOf t 0x0035 0xFF m.toNat 6) logged))⟩

theorem exec_fatalError_of_early (early : s.boot.stage < 2) (m : BitVec 8) (w : W32) : exec (.fatalError m w) s = .next s :=
  congrArg Host.Outcome.next (if_neg (Nat.not_le.mpr early))

/-! ## The end of the dump's window (R479) -/

/-- What the last writes of a dump leave for the full reset. -/
structure DumpSpares (s t : State) : Prop where
  otp : t.otp = s.otp
  pending : t.pending = s.pending

theorem DumpSpares.refl (s : State) : DumpSpares s s := ⟨rfl, rfl⟩

theorem DumpSpares.trans {s t u : State} (h : DumpSpares s t) (k : DumpSpares t u) : DumpSpares s u :=
  ⟨k.otp.trans h.otp, k.pending.trans h.pending⟩

theorem spares_send (s : State) (o : Outbound) : DumpSpares s (send s o) := by
  unfold send
  split <;> exact ⟨rfl, rfl⟩

theorem spares_programDump (s : State) (pages : List PageContent) : DumpSpares s (programDump s pages) := by
  refine foldl_keeps (DumpSpares s) (fun t p h => ?_) _ ⟨rfl, rfl⟩
  refine h.trans ?_
  split
  case h_1 u b taken =>
    obtain ⟨l, r, rfl⟩ := takeBlock_changes taken
    exact ⟨rfl, rfl⟩
  case h_2 => exact .refl t

/-- The header of the host's dump goes out, its first four bytes last. -/
def hostHeaderWritten (s : State) (at' error cause : Nat) : State :=
  if hostDump s then
    send (send s (.write 0 (s.dump.base + 4) ((dumpHeader s at' error cause false).drop 4) false))
      (.write 0 s.dump.base ((dumpHeader s at' error cause false).take 4) false)
  else s

/-- The sections of the Vault's copy with their places, the header first. -/
def vaultParts (s : State) (at' error cause : Nat) : List (Nat × List Byte) :=
  (0, dumpHeader s at' error cause true) ::
    (s.dump.sections.filter fun p => inCopy true p.1).map fun p => ((sectionPlace s p.1).1, p.2)

/-- The Vault's copy of the dump is programmed. -/
def vaultCopyWritten (s : State) (at' error cause : Nat) : State :=
  if vaultDump s then
    { programDump s (dumpPages (contentSize s) (vaultParts s at' error cause)) with
      dump.mediaCopy := some (s.lodge.bootCount.toNat, vaultParts s at' error cause), dump.mediaDelivered := false }
  else s

theorem spares_hostHeaderWritten (s : State) (at' error cause : Nat) : DumpSpares s (hostHeaderWritten s at' error cause) := by
  unfold hostHeaderWritten
  split
  · exact (spares_send _ _).trans (spares_send _ _)
  · exact .refl s

theorem spares_vaultCopyWritten (s : State) (at' error cause : Nat) : DumpSpares s (vaultCopyWritten s at' error cause) := by
  unfold vaultCopyWritten
  split
  · exact ⟨(spares_programDump s _).otp, (spares_programDump s _).pending⟩
  · exact .refl s

theorem finishDump_resets (s : State) (at' error cause : Nat) : ∃ t, DumpSpares s t ∧ finishDump s at' error cause = fullReset t cause false := by
  have all := (spares_hostHeaderWritten s at' error cause).trans (spares_vaultCopyWritten _ at' error cause)
  exact ⟨{ vaultCopyWritten (hostHeaderWritten s at' error cause) at' error cause with
    freeCount := (vaultCopyWritten (hostHeaderWritten s at' error cause) at' error cause).freeCount + 1 }, ⟨all.otp, all.pending⟩, rfl⟩

theorem exec_dumpWindowExpiry_of_active {a e u c : Nat} (active : s.dump.active = some (a, e, u, c)) :
    exec .dumpWindowExpiry s = .next (finishDump { s with dump.truncated := true } a e c) := by
  change execDumpWindowExpiry s = _
  unfold execDumpWindowExpiry
  rw [active]

theorem exec_dumpWindowExpiry_of_idle (idle : s.dump.active = none) : exec .dumpWindowExpiry s = .next s := by
  change execDumpWindowExpiry s = _
  unfold execDumpWindowExpiry
  rw [idle]

/-! ## O59 -/

section Reset

variable {u : Fin 14}

theorem unitAt_resetBegun (unit : u.val < 12) (twelve : s.units.length = 12) (n : Nat) (e : EventLog) (l : Journal) :
    unitAt (resetBegun s u.val n e l) u.val =
      { unitAt s u.val with resetWindow := some ((resetCount s u.val).1, (resetCount s u.val).2 + 1) } := by
  have window : setResetWindow s u.val ((resetCount s u.val).1, (resetCount s u.val).2 + 1) = setUnit s u.val
      { unitAt s u.val with resetWindow := some ((resetCount s u.val).1, (resetCount s u.val).2 + 1) } := by
    unfold setResetWindow
    rw [if_neg (by omega), if_neg (by omega)]
  unfold resetBegun
  rw [window]
  exact unitAt_setUnit_same _ (by omega)

/-- The state in which a unit's reset has begun is the state before beside the unit's window, the count and the clocks. -/
theorem resetBegun_spares (s : State) (u n : Nat) (e : EventLog) (l : Journal) : (resetBegun s u n e l).jobs = s.jobs ∧
    (resetBegun s u n e l).otp = s.otp ∧ (resetBegun s u n e l).queues = s.queues ∧ now (resetBegun s u n e l) = now s ∧
    (resetBegun s u n e l).units.length = s.units.length := by
  unfold resetBegun setResetWindow
  split
  · exact ⟨rfl, rfl, rfl, rfl, rfl⟩
  · split
    · exact ⟨rfl, rfl, rfl, rfl, rfl⟩
    · exact ⟨rfl, rfl, rfl, rfl, List.length_set⟩

theorem resetJobs_resetBegun (unit : u.val < 12) (twelve : s.units.length = 12) (n : Nat) (e : EventLog) (l : Journal) :
    resetJobs (resetBegun s u.val n e l) u.val = resetJobs s u.val := by
  obtain ⟨jobs, -⟩ := resetBegun_spares s u.val n e l
  unfold resetJobs
  dsimp only
  rw [unitAt_resetBegun unit twelve, jobs]

/-- A scheduled unit is zeroed, its clock is held, and the jobs that stood there have ended. -/
theorem unitReset_row (stage : 6 ≤ s.boot.stage) (present : blockPresent s u.val = true) (serves : outOfService s u.val = false)
    (hang : Bool) (unit : u.val < 12) (twelve : s.units.length = 12) (room : (resetCount s u.val).2 < 3) :
    ∃ t v, exec (.blockReset u hang) s = .next t ∧
      v = unitAt t u.val ∧ v.running = [] ∧ v.bay = none ∧ v.resetAt = some (now s) ∧ v.resets = (unitAt s u.val).resets + 1 ∧
      t.clocks = holdClocks s.clocks (blockClock u.val) ∧
      (∀ r ∈ v.residences, r.job = none) ∧ (∀ p ∈ t.plots, p.1 / 8 ≠ u.val) ∧ t.otp = s.otp ∧ t.queues = s.queues ∧
      ∀ k j, KMap.get? s.jobs k = some j → k ∈ resetJobs s u.val → j.phase ≠ .decided → ∃ y, KMap.get? t.jobs k = some y ∧
        y.phase = .decided ∧ y.status = .unitReset ∧ y.decidedAt = now s + 1 ∧ y.output = [] := by
  obtain ⟨n, e, l, reset⟩ := blockReset_of_room room (hang && decide (u.val < 12))
  rw [if_neg (by omega), if_neg (by omega)] at reset
  obtain ⟨bodies, zeroed⟩ := zeroUnit_changes (resetBegun s u.val n e l) u.val
  obtain ⟨jobs, otp, queues, time, length⟩ := resetBegun_spares s u.val n e l
  have same := resetJobs_resetBegun unit twelve n e l
  have window := unitAt_resetBegun unit twelve n e l
  have clocks : (resetBegun s u.val n e l).clocks = holdClocks s.clocks (blockClock u.val) := rfl
  generalize resetBegun s u.val n e l = b at *
  have spared := jobsReset_spares b u.val
  have unit' : unitAt (setUnit (jobsReset b u.val) u.val (zeroedUnit (now (jobsReset b u.val)) (unitAt (jobsReset b u.val) u.val))) u.val =
      zeroedUnit (now (jobsReset b u.val)) (unitAt (jobsReset b u.val) u.val) :=
    unitAt_setUnit_same _ (by rw [spared.length, length, twelve]; exact unit)
  refine ⟨_, _, (exec_blockReset_of_present stage present serves hang).trans (congrArg _ (reset.trans zeroed)), unit'.symm, rfl, rfl,
    congrArg some ((now_jobsReset b u.val).trans time), ?_, spared.clocks.trans clocks, zeroedUnit_idle _ _, ?_, spared.otp.trans otp,
    spared.queues.trans queues, ?_⟩
  · change (unitAt (jobsReset b u.val) u.val).resets + 1 = _
    rw [spared.resets, window]
  · exact fun p hp => of_decide_eq_true (List.mem_filter.mp hp).2
  · intro k j hj stands running
    rw [← time]
    exact jobsReset_ends (by rw [jobs]; exact hj) (by rw [same]; exact stands) running

/-- An erase that a reset of the controller has cut off is queued again, first of its die. -/
def requeueErase (s : State) (p : Nat × Nat) : State :=
  modBlock (modDie s p.1 fun d => { d with eraseQueue := p.2 :: d.eraseQueue }) p.1 p.2 fun b => { b with state := .eraseQueued }

/-- A reset Vault controller keeps its mount, and the pages in flight are to be programmed again. -/
theorem zeroVault_vault (s : State) : (zeroVault s).vault.block.at' = some (now s) ∧ (zeroVault s).vault.flight = [] ∧
    (zeroVault s).vault.rework = s.vault.rework ++ s.vault.flight ∧ (zeroVault s).vault.erasing = [] ∧
    (zeroVault s).vault.mounted = s.vault.mounted := by
  obtain ⟨time, mounted⟩ := foldl_keeps (f := requeueErase) (fun t => now t = now s ∧ t.vault.mounted = s.vault.mounted)
    (fun _ _ h => h) s.vault.erasing ⟨rfl, rfl⟩
  exact ⟨congrArg some time, rfl, rfl, rfl, mounted⟩

theorem vaultReset_row (stage : 6 ≤ s.boot.stage) (present : blockPresent s u.val = true) (serves : outOfService s u.val = false)
    (hang : Bool) (vault : u.val = 12) (room : (resetCount s u.val).2 < 3) : ∃ t, exec (.blockReset u hang) s = .next t ∧
      t.vault.block.at' = some (now s) ∧ t.vault.flight = [] ∧ t.vault.rework = s.vault.rework ++ s.vault.flight ∧
      t.vault.erasing = [] ∧ t.vault.mounted = s.vault.mounted := by
  obtain ⟨n, e, l, reset⟩ := blockReset_of_room room (hang && decide (u.val < 12))
  obtain ⟨at', flight, rework, erasing, mounted⟩ := zeroVault_vault (resetBegun s u.val n e l)
  have kept : (resetBegun s u.val n e l).vault =
      { s.vault with block.window := some ((resetCount s u.val).1, (resetCount s u.val).2 + 1) } := by
    unfold resetBegun setResetWindow
    rw [if_pos vault]
  obtain ⟨-, -, -, time, -⟩ := resetBegun_spares s u.val n e l
  rw [time] at at'
  rw [kept] at rework mounted
  exact ⟨_, (exec_blockReset_of_present stage present serves hang).trans (congrArg _ (reset.trans (if_pos vault))), at', flight, rework,
    erasing, mounted⟩

theorem bridgeReset_row (stage : 6 ≤ s.boot.stage) (present : blockPresent s u.val = true) (serves : outOfService s u.val = false)
    (hang : Bool) (bridge : u.val = 13) (room : (resetCount s u.val).2 < 3) : ∃ t, exec (.blockReset u hang) s = .next t ∧
      t.bridge.block.at' = some (now s) ∧ t.bridge.linkUp = false ∧ t.bridge.paired = s.bridge.paired := by
  obtain ⟨n, e, l, reset⟩ := blockReset_of_room room (hang && decide (u.val < 12))
  rw [if_neg (by omega), if_pos bridge] at reset
  have kept : (resetBegun s u.val n e l).bridge =
      { s.bridge with block.window := some ((resetCount s u.val).1, (resetCount s u.val).2 + 1) } := by
    unfold resetBegun setResetWindow
    rw [if_neg (by omega), if_pos bridge]
  obtain ⟨-, -, -, time, -⟩ := resetBegun_spares s u.val n e l
  refine ⟨_, (exec_blockReset_of_present stage present serves hang).trans (congrArg _ reset), congrArg some time,
    (linkGone_retrain _).linkUp, ?_⟩
  change (resetBegun s u.val n e l).bridge.paired = _
  rw [kept]

/-- The fourth reset of a unit in its window is a fatal error. -/
theorem fullWindow_row (stage : 6 ≤ s.boot.stage) (present : blockPresent s u.val = true) (serves : outOfService s u.val = false)
    (hang : Bool) (full : 3 ≤ (resetCount s u.val).2) (idle : s.dump.active = none) : ∃ t x, exec (.blockReset u hang) s = .next t ∧
      t.dump.active = some x ∧ t.boot.fatalN = true := by
  obtain ⟨e, l, reset⟩ := blockReset_of_full full (hang && decide (u.val < 12))
  obtain ⟨k, e', l', begun, -⟩ := fatalOf_of_idle (s := { s with events := e, journal := l }) idle
    (if hang && decide (u.val < 12) then 0x0032 else 0x0033) (if eventUnit u.val < 22 then eventUnit u.val else 0xFF) (eventUnit u.val) 6
  exact ⟨_, _, (exec_blockReset_of_present stage present serves hang).trans (congrArg _ (reset.trans begun)), rfl, rfl⟩

/-- A unit that has begun its reset returns 64 ticks later. -/
theorem blockResetReturn_row (unit : u.val < 12) (twelve : s.units.length = 12) (r : Nat) (t : State)
    (began : t = { s with units := s.units.set u.val { unitAt s u.val with resetAt := some r } }) :
    (r + 64 ≤ now s → exec (.blockResetReturn u) t = .next (setUnit { t with clocks := releaseClocks t.clocks (blockClock u.val) } u.val
        { unitAt t u.val with resetAt := none })) ∧
      (now s < r + 64 → exec (.blockResetReturn u) t = .next t) := by
  subst began
  have held := unitAt_setUnit_same (s := s) (u := u.val) { unitAt s u.val with resetAt := some r } (twelve.symm ▸ unit)
  have row := exec_blockResetReturn (s := setUnit s u.val { unitAt s u.val with resetAt := some r }) unit (congrArg UnitSt.resetAt held)
  exact ⟨fun done => row.trans (congrArg _ (if_pos done)), fun early => row.trans (congrArg _ (if_neg (Nat.not_le.mpr early)))⟩

end Reset

section Fatal

/-- A fatal error begins the dump. -/
theorem fatalError_row (late : 2 ≤ s.boot.stage) (idle : s.dump.active = none) (m : BitVec 8) (w : W32) :
    ∃ t, exec (.fatalError m w) s = .next t ∧ t.boot.fatalN = true ∧ t.dump.active = some (now s, 0x35, m.toNat, 6) ∧
      (s.link.credit = true → aerMasked (funcAt s 0) .uncorrectableInternal = false → t.link.out = s.link.out ++
        [.aer 0 .uncorrectableInternal (aerSeverity (funcAt s 0) .uncorrectableInternal)]) ∧ t.jobs = s.jobs := by
  obtain ⟨e, l, row⟩ := exec_fatalError_of_late late m w
  obtain ⟨k, e', l', begun, out⟩ := fatalOf_of_idle (s := { s with events := e, journal := l }) idle 0x0035 0xFF m.toNat 6
  exact ⟨_, row.trans (congrArg _ begun), rfl, rfl, out, rfl⟩

/-- A second fatal error is a full reset. -/
theorem secondFatalError_row {a e u c : Nat} (late : 2 ≤ s.boot.stage) (active : s.dump.active = some (a, e, u, c)) (m : BitVec 8)
    (w : W32) : ∃ t, exec (.fatalError m w) s = .next t ∧ t.boot.stage = 0 ∧ t.boot.cause = BitVec.ofNat 8 c ∧ t.jobs = [] := by
  obtain ⟨e', l, row⟩ := exec_fatalError_of_late late m w
  exact ⟨_, row.trans (congrArg _ (fatalOf_of_active (s := { s with events := e', journal := l }) active 0x0035 0xFF m.toNat 6)), rfl, rfl,
    rfl⟩

/-- The end of the dump's window is a full reset. -/
theorem dumpWindowExpiry_row {a e u c : Nat} (active : s.dump.active = some (a, e, u, c)) : ∃ t, exec .dumpWindowExpiry s = .next t ∧
    t.boot.stage = 0 ∧ t.boot.cause = BitVec.ofNat 8 c ∧ t.jobs = [] ∧ t.queues = [] ∧ t.otp = s.otp ∧ t.pending = s.pending := by
  obtain ⟨t, spared, reset⟩ := finishDump_resets { s with dump.truncated := true } a e c
  exact ⟨_, (exec_dumpWindowExpiry_of_active active).trans (congrArg _ reset), rfl, rfl, rfl, rfl, spared.otp, spared.pending⟩

end Fatal

/-- Settles O59: the row of each kind of unit, and the rows of the fatal path with no dump in progress and during one. -/
theorem blockResetsAndFatal : Obligations.BlockResetsAndFatal := by
  unfold Obligations.BlockResetsAndFatal
  refine ⟨fun s u hang stage present serves => ⟨?_, ?_, ?_, ?_, ?_, ?_⟩, fun s m w => ⟨?_, ?_, ?_, ?_, ?_⟩⟩
  · exact unitReset_row stage present serves hang
  · exact vaultReset_row stage present serves hang
  · exact bridgeReset_row stage present serves hang
  · exact fullWindow_row stage present serves hang
  · exact fun _ _ => exec_blockReset_of_early u hang (show 5 < 6 by decide)
  · exact fun r t began unit twelve => blockResetReturn_row unit twelve r t began
  · exact fun late idle => fatalError_row late idle m w
  · exact fun early => exec_fatalError_of_early early m w
  · exact fun _ _ _ _ late active => secondFatalError_row late active m w
  · exact fun _ _ _ _ active => dumpWindowExpiry_row active
  · exact exec_dumpWindowExpiry_of_idle

end Sys2Proof.Machine
end
